-- ==== Sys2Proof/Word.lean ====
section
/-! DEFINITION. The word types of the model (R10: little-endian; bit 0 is the least significant bit). -/

namespace Sys2Proof

/-- One byte. -/
abbrev Byte := BitVec 8

/-- A 64-bit word: a global address (R34), an FP64 value or one register. -/
abbrev Word := BitVec 64

/-- One flit of a link (R413) or one 64-byte line (R378), byte 0 in the low bits (R410). -/
abbrev Flit := BitVec 512

end Sys2Proof
end

