-- ==== Sys2Proof/Syntax.lean ====
section
/-! DEFINITION. The commands the block takes: one constructor of Instr per row of spec/opcode_table.json, with what the
environment decides as operands (received fields, sensor values, physical findings, arrival orders). -/

namespace Sys2Proof

/-- A region, A = 0 (R11). -/
abbrev Region := Fin 4

/-- A block by region and physical index: block b of region r is 9 r + b, as BLOCK_CELLS and DOMAIN_STATUS order them
(R288, R484). -/
abbrev Block := Fin 36

/-- A port: X+, X−, Y+, Y−, Z+, Z−, then Hokuano (R441). -/
abbrev Port := Fin 7

/-- A device's torus coordinate (R34). -/
structure Coord where
  x : BitVec 4
  y : BitVec 4
  z : BitVec 4
  deriving DecidableEq, Repr, Inhabited

/-- A task context: region and number within the region, 0–12,287 (R326). -/
structure CtxId where
  region : Region
  number : Nat
  deriving DecidableEq, Repr, Inhabited

/-- The shutdown conditions of R475. -/
inductive InputFault where
  | undervoltage
  | overvoltage
  | overcurrent
  deriving DecidableEq, Repr

/-- The temperature sensors of R491. -/
inductive Sensor where
  | block (b : Block)
  | fabric (r : Region)
  | linkDie
  | slice (s : Fin 16)
  deriving DecidableEq, Repr

/-- Word 0 of a Hokuano request (R414, R437) and the reserved bits of words 1–7: everything R439 checks before the
type's own fields. `rest` is the position of the lowest non-zero bit of words 1–7 that the type's fields do not list. -/
structure HkHeader where
  gen   : BitVec 4
  vc    : BitVec 3
  rsv13 : BitVec 3
  flits : BitVec 7
  rsv23 : Bool
  tag   : BitVec 8
  code  : BitVec 12
  rsv44 : BitVec 20
  rest  : Option Nat
  deriving DecidableEq, Repr, Inhabited

/-- What the hardware finds in a start: the outcomes of R107's steps that physics decides. -/
structure StartFindings where
  /-- Step 0x01: the self-check passes. -/
  romOk         : Bool
  /-- Step 0x02: the flash answers in octal DDR, octal STR, single-lane mode. -/
  flashOk       : Bool × Bool × Bool
  /-- Step 0x04: which of the three reconstructions meet the helper data's check value (R97). -/
  pufOk         : Bool × Bool × Bool
  /-- Step 0x07: the RPMC authenticates (R96). -/
  rpmcAuth      : Bool
  /-- Step 0x09: control cores that fail their self-test. -/
  coresFailed   : List (Fin 8)
  /-- Step 0x0A: domains that miss tolerance (R485). -/
  domainsFailed : List (Fin 96)
  /-- Step 0x0B: slices whose self-test fails, with the bank group; repaired by a spare where one is left. -/
  stackedFailed : List (Fin 16 × BitVec 4)
  /-- Step 0x0C: the modules found: R379's rules hold. -/
  ddrModulesOk  : Bool
  /-- Step 0x0C: GiB of one module, and the code of the highest rate it supports (0 = 8,800 MT/s). -/
  ddrGib        : Nat
  ddrRate       : BitVec 2
  /-- Step 0x0C: channels that fail training at their rate, and those that also fail conservative timings. -/
  ddrFailed     : List (Fin 8)
  ddrFailedSlow : List (Fin 8)
  /-- Step 0x0D: port comes up, with its capacity in GiB (CXL) (R380). -/
  cxlA          : Bool × Nat
  cxlB          : Bool × Nat
  /-- Step 0x0D: LBA size of the namespace (R446). -/
  nvmeLba       : Nat
  /-- Step 0x0E: lanes that fail, as port and physical lane, and ports that fail stage 4 or 5 (R429, R412). -/
  lanesFailed   : List (Port × Fin 5)
  portsFailed   : List Port
  /-- Step 0x0E: round trips of each port's 16 NEGOTIATE answers, (arrival − t_echo) − t_held in 0.25 ns units, and its peer's
  answers (R430–R432). -/
  roundTrips    : List (List (BitVec 16))
  peerGenOk     : List Bool
  peerMatch     : List Bool
  hkCredits     : BitVec 16 × BitVec 16
  /-- Step 0x0F: the load into hardware succeeds. -/
  loadOk        : Bool
  /-- Parts of the rows tested and of the bytes loaded where step 0x0B or 0x0F fails, as progress (R107). -/
  stackedPart   : BitVec 16
  loadPart      : BitVec 16
  /-- Step 0x10: RPMC increment, directory write, memo write succeed. -/
  rpmcInc       : Bool
  dirWriteOk    : Bool
  memoWriteOk   : Bool
  /-- In refusal mode: lanes 0 and 2 of the Hokuano port train (R113). -/
  refusalLanes  : Bool × Bool
  deriving DecidableEq, Repr, Inhabited

/-- The fields of a BEAT flit (R426). -/
structure BeatFlit where
  epoch      : BitVec 8
  coord      : Coord
  grants     : BitVec 2
  extRef     : Bool
  go         : Bool
  nextValid  : Bool
  pos        : BitVec 16
  step       : BitVec 48
  curPeriod  : BitVec 40
  nextPeriod : BitVec 40
  age        : BitVec 24
  hops       : BitVec 5
  deriving DecidableEq, Repr, Inhabited

/-- The unit classes of R334, by the unit codes of R327. -/
inductive UnitClass where
  | rambler
  | gather
  | block
  | spout
  | compressor
  | core
  | cascade
  deriving DecidableEq, Repr, Inhabited

/-- One request entry of a ROW_REQ (R422). -/
structure RowReqEntry where
  node    : BitVec 40
  table   : BitVec 8
  version : Bool
  tag     : BitVec 20
  step    : BitVec 48
  deriving DecidableEq, Repr, Inhabited

/-- One reply entry of a ROW_REPLY (R423). -/
structure RowReplyEntry where
  tag    : BitVec 20
  /-- The generation tag of the request's domain, which every reply carries (R32). -/
  gen    : BitVec 8
  flits  : BitVec 6
  status : BitVec 2
  deriving DecidableEq, Repr, Inhabited

/-- A sector of adjacency data from another device (R211, R522): its global address, 32 bytes, poison mark. -/
structure RemoteSector where
  addr     : Word
  data     : BitVec 256
  poisoned : Bool
  deriving DecidableEq, Repr, Inhabited

/-- One access of Spout code: a write or a read of argument 0–3, by byte offset within the operand (R139), or a write of the core's local
data memory (R337). -/
inductive SpoutAccess where
  | write (arg : Fin 4) (offset : Nat) (bytes : List Byte)
  | read (arg : Fin 4) (offset len : Nat)
  | keep (offset : Nat) (bytes : List Byte)
  deriving DecidableEq, Repr, Inhabited

/-- The count record of a dense Cascade instance (R353). -/
structure CountRecord where
  n      : BitVec 48
  loss   : Word
  nf     : BitVec 48
  q      : Word
  d      : BitVec 16
  absent : Bool
  deriving DecidableEq, Repr, Inhabited

/-- The fields of a CASCADE packet (R425). -/
structure CascadeHeader where
  src      : Coord
  lgen     : BitVec 8
  entry    : BitVec 10
  axis     : BitVec 2
  op       : BitVec 2
  engine   : Bool
  phase    : Bool
  hop      : BitVec 4
  chunk    : BitVec 4
  restarts : BitVec 8
  seg      : BitVec 16
  stepLo   : BitVec 16
  poison   : Word
  proxy    : Bool
  record   : CountRecord
  deriving DecidableEq, Repr, Inhabited

/-- One slot travelling in a sparse-row combine (R359, R360): table and node, contributions folded, the header's poisoned bit, the row's
poisoned 64-byte beats, and the row in slot format. -/
structure SparseSlot where
  table    : BitVec 8
  node     : BitVec 40
  count    : BitVec 32
  poisoned : Bool
  marks    : Word
  row      : List Byte
  deriving DecidableEq, Repr, Inhabited

/-- What a controller finds in a line it reads (R389–R391, R396). -/
inductive LineFinding where
  | clean
  | inner (dies : Nat)                                  -- on-die corrections only (R389)
  | corrected (chip : BitVec 4) (kind : BitVec 2)       -- outer or Keep correction (R393, R395)
  | uncorrectable
  deriving DecidableEq, Repr, Inhabited

/-- What the Basin's code finds in the words of one access (R286): words corrected, and whether one is uncorrectable. -/
structure BasinFinding where
  corrected     : BitVec 16
  uncorrectable : Bool
  deriving DecidableEq, Repr, Inhabited

/-- The memory controllers in CTRL_STATUS order (R404): slices 0–15, DDR channels 0–7, CXL ports A and B. -/
abbrev Controller := Fin 26

/-- Traffic class of a request at a fabric or controller port (R41). -/
inductive TrafficClass where
  | steady
  | bulk
  | background
  deriving DecidableEq, Repr, Inhabited

/-- The traffic of R41's table, row by row. -/
inductive Traffic where
  -- Steady
  | adjacencyRead
  | trail
  | gather
  | trailReturn
  | operandLoad
  | basinDrain
  | cascade
  | cistern
  | optimizer
  -- Bulk
  | stash
  | checkpointDrain
  | restore
  | migration
  | fill
  | hostStream
  -- background
  | scrub
  | telemetry
  | ceLog
  deriving DecidableEq, Repr, Inhabited

/-- The class of a kind of traffic (R41). -/
def Traffic.cls : Traffic → TrafficClass
  | .adjacencyRead => .steady
  | .trail => .steady
  | .gather => .steady
  | .trailReturn => .steady
  | .operandLoad => .steady
  | .basinDrain => .steady
  | .cascade => .steady
  | .cistern => .steady
  | .optimizer => .steady
  | .stash => .bulk
  | .checkpointDrain => .bulk
  | .restore => .bulk
  | .migration => .bulk
  | .fill => .bulk
  | .hostStream => .bulk
  | .scrub => .background
  | .telemetry => .background
  | .ceLog => .background

/-- A request at an arbiter: requester number, traffic, the line of this device it reads or writes (tier and offset, R388), the work item
that asked, whether it writes, bytes of the whole row or transfer. -/
structure FabricRequest where
  requester : Nat
  traffic   : Traffic
  line      : BitVec 52
  ctx       : Option CtxId
  write     : Bool
  bytes     : Nat
  deriving DecidableEq, Repr, Inhabited

def FabricRequest.cls (q : FabricRequest) : TrafficClass := q.traffic.cls

/-- What the SEC-DED code finds in the fabric words of a transfer (R31). -/
inductive FabricFault where
  | clean
  | single
  | double
  deriving DecidableEq, Repr, Inhabited

/-- The rotating arbiters of R30 and R382: region fabric ports, Rills, the chip crossbar, memory controllers. -/
inductive Arbiter where
  | fabric (r : Region)
  | rill (b : Block)
  | crossbar
  | controller (c : Controller)
  deriving DecidableEq, Repr, Inhabited

/-- A NEGOTIATE flit (R428). -/
structure NegotiateFlit where
  offer       : BitVec 3
  impl        : BitVec 4
  reply       : Bool
  port        : BitVec 3
  coord       : Coord
  jobId       : Word
  fingerprint : Word
  tSend       : BitVec 48
  tEcho       : BitVec 48
  tHeld       : BitVec 48
  credits0    : BitVec 16
  credits1    : BitVec 16
  arrival     : BitVec 48
  deriving DecidableEq, Repr, Inhabited

/-- Units with a progress watchdog (R461). -/
inductive WatchedUnit where
  | cell (b : Block) (c : Fin 17)
  | spoutCore (r : Region) (i : Fin 9)
  | rambler (r : Region)
  | gatherEngine (r : Region)
  | compressor (r : Region)
  | controller (c : Controller)
  | nvme
  | cascadeEngine (e : Fin 2)
  | drainEngine
  | hokuano
  deriving DecidableEq, Repr, Inhabited

/-- Ring-oscillator findings of a wear sample (R467): a cell, a block fabric, with the corrected frequency in kHz. -/
structure WearReading where
  block : Block
  cell  : Option (Fin 17)
  kHz   : Nat
  deriving DecidableEq, Repr, Inhabited

/-- What a flash program or erase was for (R114, R115). -/
inductive FlashJob where
  | stageErase
  | stageWrite
  | directory
  | journal
  | repairJournal
  | discard
  deriving DecidableEq, Repr, Inhabited

/-- The commands: one constructor per row of spec/opcode_table.json, in the table's order. -/
inductive Instr where
  -- power, pins, sensors (R475–R499)
  | vinRise (strap : BitVec 3)
  | enRise
  | baseDomainsGood
  | enFall
  | externalReset
  | resetNRise
  | inputFault (kind : InputFault)
  | inputReturn
  | refclkFault
  | temperatureThreshold (sensor : Sensor) (celsius : BitVec 8)
  | avsSample (block : Block) (margin : BitVec 8)
  | clockStretch (block : Block) (lowCycles : Nat)
  | telemetrySample (vin iin pin : BitVec 16) (joules : Nat)
  -- SMBus (R496, R497): pec says the packet error check and the length are right
  | identity (pec : Bool)
  | state (pec : Bool)
  | power (pec : Bool)
  | thermal (pec : Bool)
  | statusAddr (pec : Bool) (offset : BitVec 32)
  | statusRead (pec : Bool)
  | journalAddr (pec : Bool) (index : BitVec 32)
  | journalRead (pec : Bool)
  | alertClear (pec : Bool)
  | estop (pec : Bool) (byte : Byte)
  -- boundary scan (R500)
  | tapReset
  | bypass
  | idcode
  | samplePreload
  | extest
  | extestPulse
  | extestTrain
  | clamp
  | highz
  -- start and staging (R84–R118)
  | startSequence (f : StartFindings)
  | startRestart
  | stageOpen (h : HkHeader)
  | stageWrite (h : HkHeader) (offset : BitVec 32) (data : List Flit)
  | stageCommit (h : HkHeader)
  | stageCommitDone
  | stageDiscard (h : HkHeader)
  -- run control (R145): the slot and step fields of RUN_CMD (R438)
  | select (h : HkHeader) (slot : BitVec 2)
  | start (h : HkHeader) (step : BitVec 48)
  | pause (h : HkHeader) (step : BitVec 48)
  | stop (h : HkHeader) (step : BitVec 48)
  | eval (h : HkHeader) (step : BitVec 48)
  | ckpt (h : HkHeader) (step : BitVec 48)
  -- Hokuano data, status, attestation, checkpoint objects (R438)
  | write (h : HkHeader) (addr : Word) (data : List Flit)
  | read (h : HkHeader) (addr : Word) (lines : BitVec 6) (parity : BitVec 16)
  | attest (h : HkHeader) (nonce : BitVec 256)
  | ckptData (h : HkHeader) (offset : BitVec 48) (object : BitVec 32) (data : List Flit)
  | ckptAck (h : HkHeader) (bytes : BitVec 48) (object : BitVec 32)
  | restore (h : HkHeader) (source set : BitVec 2) (step : BitVec 48)
  | rejoin (h : HkHeader) (source set : BitVec 2) (step : BitVec 48)
  | statusSpaceWrite (h : HkHeader) (addr : Word) (data : List Flit)
  -- the Sundial (R49–R83)
  | dialAdvance (cycles : Nat)
  | stepBoundary (cycles : Nat)
  | beat (port : Port) (f : BeatFlit)
  | beatLost
  | rootTakeover
  | stretchRequest (source : Coord) (entry : BitVec 10) (step : BitVec 48)
  | slackReport (port : Port) (step : BitVec 48) (value : BitVec 16)
  | reshardCompletionReport (port : Port) (step : BitVec 48)
  | syncInEdge (interval : Nat)
  | syncInLost
  -- scheduling (R326–R339)
  | dispatch (region : Region) (cls : UnitClass)
  | instanceComplete (ctx : CtxId)
  | contextTimeout (ctx : CtxId)
  -- the operations of a job slot (R122–R144)
  | sample (ctx : CtxId) (remote : List RemoteSector)
  -- `bad`: entries whose Cooler read is uncorrectable (R175)
  | gather (ctx : CtxId) (bad : List Nat)
  | aggregate (ctx : CtxId) (order bad : List Nat)
  | transform (ctx : CtxId)
  | activate (ctx : CtxId)
  | normalise (ctx : CtxId)
  | loss (ctx : CtxId)
  | optimize (ctx : CtxId) (sub : Fin 32)
  | reduce (ctx : CtxId)
  | spout (ctx : CtxId) (sub : Fin 32) (accesses : List SpoutAccess)
  | spoutBudget (ctx : CtxId)
  | fill (ctx : CtxId)
  | tableSwitch (ctx : CtxId)
  | intake (ctx : CtxId)
  | transformBackward (ctx : CtxId)
  | spoutPoolBackward (ctx : CtxId)
  | trailReturn (ctx : CtxId)
  | returnSweep
  | microBatchCommit (mb : BitVec 10)
  | stashEntry (region : Region) (index : BitVec 14) (pre : Bool) (mb : BitVec 10)
  -- cells (R251–R289)
  | chunkIssue (block : Block) (cell : Fin 17) (lane : Fin 4) (parityFault : Bool) (basin : BasinFinding)
  | swap (block : Block) (cell : Fin 17) (parityFault : Bool)
  | basinDrain (block : Block) (cell : Fin 17) (segment : Fin 32) (basin : BasinFinding)
  | rillBeat (block : Block) (cell : Fin 17) (flips : BitVec 1056)
  -- remote rows, tables, re-sharding
  | rowReq (lgen : BitVec 8) (src : Coord) (entries : List RowReqEntry)
  | rowReply (src : Coord) (poison : Word) (entries : List RowReplyEntry) (data : List Flit)
  | gatherTimeout (tag : BitVec 20)
  | shardMapReload (region : Region) (corrected : Bool)
  | migrationCopyComplete (table : BitVec 8) (node : BitVec 40)
  | reshardHoldEnd
  | reshardMoveComplete
  -- Cascade (R348–R377)
  | cascade (port : Port) (h : CascadeHeader) (data : List Flit) (slots : List SparseSlot)
  | presence (port : Port) (step : BitVec 48) (entry : BitVec 10) (axis : BitVec 2) (engine : Bool)
  | cascadeNeighbourLost (engine : Fin 2) (plus : Bool)
  | notice (port : Port) (step : BitVec 48) (split : Bool) (coord : Coord) (cause : BitVec 2) (restart : BitVec 16)
      (entry : BitVec 10)
  | cascadeRestart (engine : Fin 2)
  -- memory (R378–R408)
  | memoryRead (addr : Word) (ctx : Option CtxId) (finding : LineFinding)
  | memoryWrite (addr : Word) (bytes : List Byte) (poisoned : Bool) (finding : LineFinding)
  -- beats that the transfer in progress has carried since its grant, and what the code found in its words
  | fabricGrant (arb : Arbiter) (beats : Nat) (fault : FabricFault) (requests : List FabricRequest)
  | regulatorWindow
  | ceLogUpdate (ctl : Controller) (offset : BitVec 48) (chip : BitVec 4) (kind : BitVec 2)
  | ceLogUpdateDropped (ctl : Controller) (offset : BitVec 48)
  | ceBucketLeak
  | scrubTick
  | scrubRead (ctl : Controller) (finding : LineFinding)
  -- links (R409–R442)
  | codewordReceive (port : Port) (uncorrectable : Bool) (seq : BitVec 10) (crc : BitVec 10) (flits : List Flit)
  | linkCtl (port : Port) (nak : Bool) (ackSeq : BitVec 10) (credits : List (BitVec 12))
  | replayAckTimeout (port : Port)
  | fastRetrainDone (port : Port) (ok : Bool)
  | laneLossOfLock (port : Port) (lane : Fin 5)
  | negotiate (port : Port) (f : NegotiateFlit)
  | calibrate (port : Port) (lane : BitVec 3) (tap move : BitVec 2) (reply : Bool)
  | laneMap (port : Port) (map : BitVec 12) (atSeq : BitVec 10) (ack : Bool)
  | memWrite (src : Coord) (addr : Word) (hkTag : BitVec 8) (data : List Flit)
  | memRead (src : Coord) (addr : Word) (len : BitVec 6) (hkTag : BitVec 8)
  -- `gen`: the generation tag of the request's domain, which every reply carries (R32)
  | memData (src : Coord) (hkTag : BitVec 8) (code : BitVec 12) (gen : BitVec 8) (poison : Word) (data : List Flit)
  | memAck (src : Coord) (hkTag : BitVec 8) (code : BitVec 12) (gen : BitVec 8)
  -- checkpoints, cores, resets, spares
  | drain (offset : BitVec 48) (stepLo : BitVec 16) (poison : Word) (data : List Flit)
  | drainAck (offset : BitVec 48) (stepLo : BitVec 16)
  | heartbeat (core : Fin 8)
  | watcherRead (core : Fin 8)
  | takeoverComplete (core : Fin 8)
  | checkpointDrain
  | checkpointCopy (target : BitVec 2) (data : List Byte)
  | nvmeCompletion (status : BitVec 16) (data : List Byte)
  | nvmeCommandTimeout
  | watchdogExpired (unit : WatchedUnit)
  | hangRecordTimeout
  | resetRungComplete
  | resetRungTimeout
  | wearSample (readings : List WearReading)
  | spareSwap
  | spareSwapComplete (powerOk : Bool)
  | refclkReturn
  | baseDomainToleranceLost
  | hangRecordCollected
  | eyeMarginScan (port : Port) (lane : Fin 5) (margin : BitVec 8)
  | codewordTransmit (port : Port)
  | flashProgramDone (job : FlashJob) (ok : Bool)
  deriving DecidableEq, Repr

end Sys2Proof
end

