-- ==== Sys2Proof/Decode.lean ====
section
/-! DEFINITION. Reading a command from a word. No row of spec/opcode_table.json gives a command bits: the commands are
pin events, SMBus and Hokuano transactions, packets and the device's own events, so no word spells one. -/

namespace Sys2Proof

/-- The command that `nbits` bits of value `w` spell by the table: none, for no row has bits. -/
def decodeTableWord (_nbits _w : Nat) : Option Instr := none

end Sys2Proof
end

