-- ==== Sys2Proof/Config.lean ====
section
/-! DEFINITION. What the spec leaves open as free values (opaque, no body) and the constants of one device. -/

namespace Sys2Proof.Config

/-- What a byte of a line never written since start reads as (R402): a function of the read's number and the key. DESIGN CHOICE, log entry 9. -/
opaque unwritten : Nat → Nat → Byte

/-- Bytes of an operand that lies on another device (R127, R128), whose memory is not part of the state: the read's number,
global address. DESIGN CHOICE, log entry 10. -/
opaque remoteByte : Nat → Nat → Byte

/-- Sign, exponent-free payload of a NaN result, whose bits no rule states (R132, R252): a function of the format's
significand width. DESIGN CHOICE, log entry 11. -/
opaque nanPayload : Nat → Nat

/-- Which of the results within 2 units in the last place a transcendental activation gives (R271): function code of TRANSFORM.act, FP32 in;
of an infinity the result itself. DESIGN CHOICE, log entry 12. -/
opaque activation : Nat → BitVec 32 → BitVec 32

/-- Their derivatives for GELU and SiLU (R293): function code, FP32 pre-activation, FP32 out. DESIGN CHOICE, log entry 12. -/
opaque activationDeriv : Nat → BitVec 32 → BitVec 32

/-- NORMALISE of one row (R136): kind, eps, gain row, bias row and the row, all FP32. DESIGN CHOICE, log entry 13. -/
opaque normaliseRow : Nat → BitVec 32 → List (BitVec 32) → List (BitVec 32) → List (BitVec 32) → List (BitVec 32)

/-- Backward part of NORMALISE for one row: kind, eps, gain row, forward row, output gradient; input gradient and the
row's gain and bias gradient contributions. DESIGN CHOICE, log entry 13. -/
opaque normaliseRowBack : Nat → BitVec 32 → List (BitVec 32) → List (BitVec 32) → List (BitVec 32) →
  List (BitVec 32) × List (BitVec 32) × List (BitVec 32)

/-- LOSS of one row for kinds 0, 1 and 2 (R137): kind, logits row, target row (codes of its elements, or the U64 class);
FP64 loss and FP32 gradient row. DESIGN CHOICE, log entry 14. -/
opaque lossRow : Nat → List (BitVec 32) → List Nat → BitVec 64 × List (BitVec 32)

/-- cos(π x) in FP32 for x strictly between 0 and 1, whose rounding no rule states (R138). DESIGN CHOICE, log entry 15. -/
opaque cosPi : BitVec 32 → BitVec 32

/-- One element of an optimizer update (R136, R138), whose formulas no rule states: method, learning rate, constants, u,
value, gradient, first state and second state; new value, first state and second state. Sums over a row that a
row-wise method uses enter as the list of the row's gradients. DESIGN CHOICE, log entry 15. -/
opaque optimizerStep : Nat → BitVec 32 → List (BitVec 32) → Nat → List (BitVec 32) →
  BitVec 32 → BitVec 32 → BitVec 32 → BitVec 32 → BitVec 32 × BitVec 32 × BitVec 32

/-- Hash of the Cooler admission sketch (R174): region, table, version, block number; four counter indices. DESIGN CHOICE, log entry 16. -/
opaque admissionHash : Nat → Nat → Nat → Nat → Nat × Nat × Nat × Nat

/-- Hash of the owner sketch (R178): table, node; four counter indices. DESIGN CHOICE, log entry 16. -/
opaque ownerHash : Nat → Nat → Nat × Nat × Nat × Nat

/-- Set index of the return cache (R238): table, node. DESIGN CHOICE, log entry 16. -/
opaque returnCacheSet : Nat → Nat → Nat

/-- The device's identity seed as reconstructed from the PUF and its helper data (R97): the enrolment's number. DESIGN CHOICE, log entry 17. -/
opaque identitySeed : Nat → BitVec 256

/-- Ed25519 public key of a private seed (R97), a published standard that no rule restates. DESIGN CHOICE, log entry 17. -/
opaque ed25519Public : BitVec 256 → BitVec 256

/-- Ed25519 signature (R99): private seed, message digest. DESIGN CHOICE, log entry 17. -/
opaque ed25519Sign : BitVec 256 → List Byte → BitVec 512

/-- Ed25519 verification (R91, R93, R94): public key, message digest, signature. DESIGN CHOICE, log entry 17. -/
opaque ed25519Verify : BitVec 256 → List Byte → BitVec 512 → Bool

/-- The vendor root public key, not part of the manual (R93). DESIGN CHOICE, log entry 17. -/
opaque vendorRootKey : BitVec 256

/-- Frequency trim learned from the beats (R55, R51): the old trim and the phase error in positions, as numerator and denominator; the new trim.
DESIGN CHOICE, log entry 20. -/
opaque trimNext : Nat → Int → Nat → Nat

/-- What the interpolator adds in a number of cycles under a trim (R51): 65,536 per cycle, scaled by the trim. DESIGN CHOICE, log entry 20. -/
opaque interpolated : Nat → Nat → Nat

/-- An equaliser tap stands at its limit (R428), whose range no rule states: tap, steps from training, direction up. DESIGN CHOICE, log entry 21. -/
opaque tapAtLimit : Nat → Int → Bool → Bool

/-- Row of DRAM that holds a line (R467, R469), whose address map no rule states: controller, offset; the repair record's detail of the
row. DESIGN CHOICE, log entry 22. -/
opaque dramRow : Nat → Nat → BitVec 32

/-- Bank group and bank of a stacked DRAM row address (R467–R469), whose map no rule states. DESIGN CHOICE, log entry 22. -/
opaque rowBank : BitVec 32 → Nat × Nat

/-- An 8-byte key of a hang record's ready queues (R462), whose form no rule states: the instance's key in R299's order. DESIGN CHOICE, log entry 23. -/
opaque hangKey : Nat → BitVec 64

/-- The firmware-owned bytes of a hang record, and the bytes of its lists past their last element (R462): the read's number, byte. DESIGN CHOICE, log entry 23. -/
opaque hangInternal : Nat → Nat → Byte

/-- The state of a boundary-scan cell as captured (R500): capture number. DESIGN CHOICE, log entry 23. -/
opaque scanCapture : Nat → Nat

/-- Fields of a free task context (R12, R327): read number, context number. DESIGN CHOICE, log entry 23. -/
opaque freeContext : Nat → Nat → Nat

/-- A value that a field of a register has where the spec leaves it undefined (R12): a fresh number each time. DESIGN CHOICE, log entry 23. -/
opaque undefinedField : Nat → Nat

end Sys2Proof.Config
end

