-- ==== Sys2Proof/Machine/Bits.lean ====
section
/-! DEFINITION. Bit fields, counters that saturate or wrap (R508), little-endian packing (R10) and ordered lists. -/

namespace Sys2Proof.Machine

/-- Field `[lo + w - 1 : lo]` of a number (R10). -/
def field (v lo w : Nat) : Nat := (v >>> lo) % 2 ^ w

/-- A saturating counter stays at its largest value (R508). -/
def satAdd {w : Nat} (x : BitVec w) (n : Nat) : BitVec w :=
  BitVec.ofNat w (min (x.toNat + n) (2 ^ w - 1))

/-- A modulo counter wraps to zero (R508). -/
def addN {w : Nat} (x : BitVec w) (n : Nat) : BitVec w := x + BitVec.ofNat w n

/-- The value of a bit. -/
def bit (b : Bool) : Nat := if b then 1 else 0

/-- The bytes of a little-endian field of `n` bytes (R10). -/
def leBytes (v n : Nat) : List (BitVec 8) :=
  (List.range n).map fun i => BitVec.ofNat 8 (v >>> (8 * i))

/-- A byte string of `n` bytes: cut, or filled with zeros. -/
def padTo (n : Nat) (bs : List (BitVec 8)) : List (BitVec 8) := (bs ++ List.replicate (n - bs.length) 0).take n

/-- The number a little-endian byte string spells (R10). -/
def ofLe : List (BitVec 8) → Nat
  | [] => 0
  | b :: bs => b.toNat + 256 * ofLe bs

/-- Fields `(value, width)` from bit 0 upward, each cut to its width: a register's or record's value. -/
def pack : List (Nat × Nat) → Nat
  | [] => 0
  | (v, w) :: fs => v % 2 ^ w + 2 ^ w * pack fs

/-- Ceiling division. -/
def ceilDiv (a b : Nat) : Nat := (a + b - 1) / b

/-- `a` rounded up to a multiple of `b`. -/
def roundUp (a b : Nat) : Nat := ceilDiv a b * b

/-- A 16-bit progress fraction: 65,535 means complete (R22). -/
def fraction (part whole : Nat) : BitVec 16 :=
  if whole ≤ part then 0xFFFF else BitVec.ofNat 16 (part * 65535 / whole)

/-- Two's-complement reading of a field of `w` bits. -/
def signed (v w : Nat) : Int := if v < 2 ^ (w - 1) then (v : Int) else (v : Int) - (2 ^ w : Nat)

/-- Two's-complement field of `w` bits. -/
def toField (i : Int) (w : Nat) : Nat := (i % (2 ^ w : Nat)).toNat

/-- Replace element `i`, where the list has one. -/
def setAt {α : Type} (l : List α) (i : Nat) (a : α) : List α := l.set i a

/-- Change element `i`, where the list has one. -/
def modifyAt {α : Type} (l : List α) (i : Nat) (f : α → α) : List α := l.modify i f

/-- Insert into an ascending list of numbers, once. -/
def insertNat (n : Nat) : List Nat → List Nat
  | [] => [n]
  | m :: ms => if n < m then n :: m :: ms else if n = m then m :: ms else m :: insertNat n ms

/-- Insert into a list ordered by a key, after the entries of equal key. -/
def insertBy {α : Type} (key : α → Nat) (a : α) : List α → List α
  | [] => [a]
  | b :: bs => if key a < key b then a :: b :: bs else b :: insertBy key a bs

/-- Insertion sort by a key; entries of equal key keep their order. -/
def sortBy {α : Type} (key : α → Nat) : List α → List α
  | [] => []
  | a :: as => insertByFront key a (sortBy key as)
where
  insertByFront (key : α → Nat) (a : α) : List α → List α
    | [] => [a]
    | b :: bs => if key b < key a then b :: insertByFront key a bs else a :: b :: bs

/-- The element of least key; of equal keys, the first. -/
def leastBy {α : Type} (key : α → Nat) : List α → Option α
  | [] => none
  | a :: as =>
    match leastBy key as with
    | none => some a
    | some b => if key b < key a then some b else some a

/-- Association list: the value of a key. -/
def lookupNat {α : Type} (k : Nat) : List (Nat × α) → Option α
  | [] => none
  | (j, a) :: r => if j = k then some a else lookupNat k r

/-- Association list in ascending key order: set the value of a key. -/
def insertKey {α : Type} (k : Nat) (a : α) : List (Nat × α) → List (Nat × α)
  | [] => [(k, a)]
  | (j, b) :: r => if k < j then (k, a) :: (j, b) :: r else if j = k then (k, a) :: r else (j, b) :: insertKey k a r

/-- Faults as (bit position, code): R19 reports the lowest position, and there the lowest code. -/
def firstFault (fs : List (Nat × Nat)) : Option Nat :=
  (leastBy (fun f => f.1 * 65536 + f.2) fs).map (·.2)

/-- The fault R19 reports, with its bit position. -/
def firstFaultAt (fs : List (Nat × Nat)) : Option (Nat × Nat) :=
  leastBy (fun f => f.1 * 65536 + f.2) fs

/-- One fault, where a condition holds. -/
def faultIf (c : Bool) (pos code : Nat) : List (Nat × Nat) := if c then [(pos, code)] else []

/-- A reserved field that is not zero is 0x001 at its first non-zero bit (R14, R19). -/
def rsvdFault (v lo w : Nat) : List (Nat × Nat) :=
  match (List.range w).find? (fun i => (v >>> (lo + i)) % 2 == 1) with
  | some i => [(lo + i, 0x001)]
  | none => []

/-- The all-ones encoding of a count field is reserved: 0x002 (R16). -/
def allOnesFault (v lo w : Nat) : List (Nat × Nat) := faultIf (field v lo w == 2 ^ w - 1) lo 0x002

/-- gen other than 0x1 is 0x004 (R20). -/
def genFault (v : Nat) : List (Nat × Nat) := faultIf (field v 0 4 != 1) 0 0x004

end Sys2Proof.Machine
end

