-- ==== Sys2Proof/Machine/Numerics.lean ====
section
/-! DEFINITION. Number formats (R131), exact sums and products (R252), rounding, saturation and NaN (R132),
stochastic rounding (R285) and stored rows (R130). -/

namespace Sys2Proof.Machine

/-- The exact value an element encodes: NaN, an infinity, or (−1)^neg × m × 2^e. -/
inductive Val where
  | nan
  | inf (neg : Bool)
  | fin (neg : Bool) (m : Nat) (e : Int)
  deriving DecidableEq, Repr, Inhabited

/-- How a format spends its largest exponent code. -/
inductive TopCode where
  | ieee      -- infinities and NaNs (FP32, FP16, BF16, FP8 E5M2, FP64)
  | nanOnly   -- NaN at all ones, no infinity (FP8 E4M3)
  | numbers   -- numbers only (MXFP6, MXFP4)
  deriving DecidableEq, Repr

/-- A binary floating-point element format. -/
structure FpFmt where
  eb   : Nat
  mb   : Nat
  bias : Nat
  top  : TopCode
  deriving DecidableEq, Repr

def FpFmt.width (f : FpFmt) : Nat := 1 + f.eb + f.mb

def fp64 : FpFmt := ⟨11, 52, 1023, .ieee⟩
def fp32 : FpFmt := ⟨8, 23, 127, .ieee⟩
def fp16 : FpFmt := ⟨5, 10, 15, .ieee⟩
def bf16 : FpFmt := ⟨8, 7, 127, .ieee⟩
def e4m3 : FpFmt := ⟨4, 3, 7, .nanOnly⟩
def e5m2 : FpFmt := ⟨5, 2, 15, .ieee⟩
def e3m2 : FpFmt := ⟨3, 2, 3, .numbers⟩
def e2m3 : FpFmt := ⟨2, 3, 1, .numbers⟩
def e2m1 : FpFmt := ⟨2, 1, 1, .numbers⟩

/-- Exponent of the last place of the smallest numbers of a format. -/
def FpFmt.emin (f : FpFmt) : Int := 1 - (f.bias : Int) - (f.mb : Int)

/-- Largest finite magnitude code of a format. -/
def FpFmt.maxCode (f : FpFmt) : Nat :=
  match f.top with
  | .ieee => (2 ^ f.eb - 1) * 2 ^ f.mb - 1
  | .nanOnly => 2 ^ (f.eb + f.mb) - 2
  | .numbers => 2 ^ (f.eb + f.mb) - 1

/-- Read an element's code (R132: IEEE 754 and OCP Microscaling encodings). -/
def FpFmt.decode (f : FpFmt) (code : Nat) : Val :=
  let neg := code.testBit (f.eb + f.mb)
  let ex := field code f.mb f.eb
  let m := field code 0 f.mb
  if f.top = .ieee ∧ ex = 2 ^ f.eb - 1 then (if m = 0 then .inf neg else .nan)
  else if f.top = .nanOnly ∧ ex = 2 ^ f.eb - 1 ∧ m = 2 ^ f.mb - 1 then .nan
  else if ex = 0 then .fin neg m f.emin
  else .fin neg (2 ^ f.mb + m) ((ex : Int) - (f.bias : Int) - (f.mb : Int))

/-- How dropped bits decide: to nearest with ties to even, or by 16 random bits (R285). -/
inductive Rounding where
  | nearestEven
  | stochastic (r : Nat)
  deriving DecidableEq, Repr

/-- Whether the magnitude `m`, cut by `k` low bits, is rounded away from zero (R132, R285). -/
def Rounding.up (rd : Rounding) (m k : Nat) : Bool :=
  let dropped := m % 2 ^ k
  match rd with
  | .nearestEven => 2 * dropped > 2 ^ k || (2 * dropped == 2 ^ k && (m >>> k) % 2 == 1)
  | .stochastic r =>
    let h := if k < 16 then dropped <<< (16 - k) else dropped >>> (k - 16)
    h + r ≥ 65536

/-- Magnitude code of m × 2^e rounded into a format, before the range is checked. -/
def FpFmt.roundMag (f : FpFmt) (rd : Rounding) (m : Nat) (e : Int) : Nat :=
  if m = 0 then 0
  else
    let q := max ((Nat.log2 m : Int) + e - (f.mb : Int)) f.emin
    let sig := if q ≤ e then m <<< (e - q).toNat
      else
        let k := (q - e).toNat
        (m >>> k) + bit (rd.up m k)
    (q - f.emin).toNat * 2 ^ f.mb + sig

/-- The code of NaN: exponent all ones and a free non-zero significand (nanPayload), where the format has one. -/
def FpFmt.nanCode (f : FpFmt) : Nat :=
  match f.top with
  | .ieee =>
    let p := Config.nanPayload f.mb
    let frac := p % 2 ^ f.mb
    (p / 2 ^ f.mb) % 2 * 2 ^ (f.eb + f.mb) + (2 ^ f.eb - 1) * 2 ^ f.mb + (if frac = 0 then 1 else frac)
  | .nanOnly => 2 ^ (f.eb + f.mb) - 1
  | .numbers => 0

/-- What happens beyond the largest finite value: infinity in arithmetic (R252), saturation in narrowing (R132). -/
inductive Overflow where
  | toInf
  | saturate
  deriving DecidableEq, Repr

/-- Round a value into a format. -/
def FpFmt.encode (f : FpFmt) (ov : Overflow) (rd : Rounding) : Val → Nat
  | .nan => f.nanCode
  | .inf neg =>
    (bit neg) * 2 ^ (f.eb + f.mb) + (if f.top = .ieee then f.maxCode + 1 else f.maxCode)
  | .fin neg m e =>
    let c := f.roundMag rd m e
    (bit neg) * 2 ^ (f.eb + f.mb) +
      (if c ≤ f.maxCode then c else if ov = .toInf ∧ f.top = .ieee then f.maxCode + 1 else f.maxCode)

/-- Signed mantissa of a finite value. -/
def signedMant (neg : Bool) (m : Nat) : Int := if neg then -(m : Int) else m

/-- Exact finite value of a signed mantissa; an exact zero is +0. -/
def ofInt (i : Int) (e : Int) : Val := .fin (i < 0) i.natAbs e

/-- Exact sum (R252): an exact zero sum is +0 unless both terms are −0. -/
def Val.add : Val → Val → Val
  | .nan, _ => .nan
  | _, .nan => .nan
  | .inf a, .inf b => if a = b then .inf a else .nan
  | .inf a, .fin _ _ _ => .inf a
  | .fin _ _ _, .inf b => .inf b
  | .fin n1 m1 e1, .fin n2 m2 e2 =>
    let e := min e1 e2
    let i := signedMant n1 m1 * 2 ^ (e1 - e).toNat + signedMant n2 m2 * 2 ^ (e2 - e).toNat
    if i = 0 then .fin (n1 && n2) 0 e else ofInt i e

/-- Exact product (R252: IEEE 754 for infinities and zeros). -/
def Val.mul : Val → Val → Val
  | .nan, _ => .nan
  | _, .nan => .nan
  | .inf a, .inf b => .inf (a != b)
  | .inf a, .fin n m _ => if m = 0 then .nan else .inf (a != n)
  | .fin n m _, .inf b => if m = 0 then .nan else .inf (n != b)
  | .fin n1 m1 e1, .fin n2 m2 e2 => .fin (n1 != n2) (m1 * m2) (e1 + e2)

/-- Quotient to `p` places and a sticky last bit, enough to round once in a format of fewer places. -/
def Val.div (p : Nat) : Val → Val → Val
  | .nan, _ => .nan
  | _, .nan => .nan
  | .inf _, .inf _ => .nan
  | .inf a, .fin n _ _ => .inf (a != n)
  | .fin n _ _, .inf b => .fin (n != b) 0 0
  | .fin n1 m1 e1, .fin n2 m2 e2 =>
    if m2 = 0 then (if m1 = 0 then .nan else .inf (n1 != n2))
    else
      let s := p + Nat.log2 m2 + 1
      let num := m1 <<< s
      .fin (n1 != n2) (2 * (num / m2) + bit (num % m2 != 0)) (e1 - e2 - (s : Int) - 1)

def Val.neg : Val → Val
  | .nan => .nan
  | .inf n => .inf (!n)
  | .fin n m e => .fin (!n) m e

def Val.abs : Val → Val
  | .nan => .nan
  | .inf _ => .inf false
  | .fin _ m e => .fin false m e

/-- a < b on numbers, with +0 = −0; false where either is NaN. -/
def Val.lt : Val → Val → Bool
  | .nan, _ => false
  | _, .nan => false
  | .inf a, .inf b => a && !b
  | .inf a, .fin _ _ _ => a
  | .fin _ _ _, .inf b => !b
  | .fin n1 m1 e1, .fin n2 m2 e2 =>
    let e := min e1 e2
    signedMant n1 m1 * 2 ^ (e1 - e).toNat < signedMant n2 m2 * 2 ^ (e2 - e).toNat

def Val.isZero : Val → Bool
  | .fin _ m _ => m == 0
  | _ => false

def Val.isNan : Val → Bool
  | .nan => true
  | _ => false

def Val.isFinite : Val → Bool
  | .fin _ _ _ => true
  | _ => false

/-- Multiply by a power of two. -/
def Val.scale (k : Int) : Val → Val
  | .fin n m e => .fin n m (e + k)
  | v => v

/-- FP32 and FP64 values of codes, and the arithmetic that rounds to nearest even after each operation. -/
def v32 (x : BitVec 32) : Val := fp32.decode x.toNat
def v64 (x : BitVec 64) : Val := fp64.decode x.toNat
def r32 (v : Val) : BitVec 32 := BitVec.ofNat 32 (fp32.encode .toInf .nearestEven v)
def r64 (v : Val) : BitVec 64 := BitVec.ofNat 64 (fp64.encode .toInf .nearestEven v)
def add32 (a b : BitVec 32) : BitVec 32 := r32 ((v32 a).add (v32 b))
def mul32 (a b : BitVec 32) : BitVec 32 := r32 ((v32 a).mul (v32 b))
def div32 (a b : BitVec 32) : BitVec 32 := r32 ((v32 a).div 30 (v32 b))
def add64 (a b : BitVec 64) : BitVec 64 := r64 ((v64 a).add (v64 b))
def sub64 (a b : BitVec 64) : BitVec 64 := r64 ((v64 a).add (v64 b).neg)
def mul64 (a b : BitVec 64) : BitVec 64 := r64 ((v64 a).mul (v64 b))
def div64 (a b : BitVec 64) : BitVec 64 := r64 ((v64 a).div 60 (v64 b))
def lt64 (a b : BitVec 64) : Bool := (v64 a).lt (v64 b)
def abs64 (a : BitVec 64) : BitVec 64 := r64 (v64 a).abs
def nat64 (n : Nat) : BitVec 64 := r64 (.fin false n 0)
def nat32 (n : Nat) : BitVec 32 := r32 (.fin false n 0)
def max64 (a b : BitVec 64) : BitVec 64 := if lt64 a b then b else a
/-- FP64 of an FP32 value, exact. -/
def widen (a : BitVec 32) : BitVec 64 := r64 (v32 a)
/-- FP32 of an FP64 value, rounded to nearest even. -/
def narrow (a : BitVec 64) : BitVec 32 := r32 (v64 a)
/-- FP32 of 1.0. -/
def one32 : BitVec 32 := 0x3F800000#32
/-- BF16 of 1.0. -/
def bf16One : Nat := 0x3F80

/-- The exact sum of products of R252; NaN and infinities as IEEE 754 gives them. An exact zero sum is −0 only where
every product is −0. -/
def dotExact : List (Val × Val) → Val
  | [] => .fin false 0 0
  | [p] => p.1.mul p.2
  | p :: ps => (p.1.mul p.2).add (dotExact ps)

/-- A candidate `(value, index)` against the winner so far (R226, R268): NaN beats every number, equal values and two
NaNs leave the lower index. -/
def betterMax (cand win : BitVec 32 × BitVec 32) : Bool :=
  if (v32 cand.1).isNan then (!(v32 win.1).isNan || cand.2.toNat < win.2.toNat)
  else if (v32 win.1).isNan then false
  else (v32 win.1).lt (v32 cand.1) || (!(v32 cand.1).lt (v32 win.1) && cand.2.toNat < win.2.toNat)

/-- The same for min. -/
def betterMin (cand win : BitVec 32 × BitVec 32) : Bool :=
  if (v32 cand.1).isNan then (!(v32 win.1).isNan || cand.2.toNat < win.2.toNat)
  else if (v32 win.1).isNan then false
  else (v32 cand.1).lt (v32 win.1) || (!(v32 win.1).lt (v32 cand.1) && cand.2.toNat < win.2.toNat)

/-- Element width of a format code in bits (R131); 0 for a reserved code. -/
def elemBits (fmt : Nat) : Nat :=
  match fmt with
  | 1 => 32 | 2 => 16 | 3 => 16 | 4 => 8 | 5 => 8 | 6 => 8 | 7 => 8 | 8 => 6 | 9 => 6 | 10 => 4 | 11 => 8 | 12 => 64
  | _ => 0

/-- Formats scaled per block of 32 by an E8M0 scale (R131). -/
def isMx (fmt : Nat) : Bool := 6 ≤ fmt && fmt ≤ 11

/-- Element format of a code; MXINT8 (0xB) and U64 (0xC) have none. -/
def elemFmt (fmt : Nat) : Option FpFmt :=
  match fmt with
  | 1 => some fp32 | 2 => some fp16 | 3 => some bf16 | 4 => some e4m3 | 5 => some e5m2
  | 6 => some e4m3 | 7 => some e5m2 | 8 => some e3m2 | 9 => some e2m3 | 10 => some e2m1
  | _ => none

/-- Largest exponent of an MX element format, from which its block scale is chosen (OCP Microscaling, R132). -/
def mxEmax (fmt : Nat) : Int :=
  match fmt with
  | 6 => 8 | 7 => 15 | 8 => 4 | 9 => 2 | 10 => 2 | _ => 0

/-- Rank of the cell rate class (R131): the larger, the wider. -/
def rateClass (fmt : Nat) : Nat :=
  match fmt with
  | 1 => 3 | 2 => 2 | 3 => 2 | 8 => 0 | 9 => 0 | 10 => 0 | _ => 1

/-- Value of an element code, before its scale. MXINT8 is two's complement in 64ths (R132). -/
def elemVal (fmt code : Nat) : Val :=
  match elemFmt fmt with
  | some f => f.decode code
  | none =>
    if fmt = 11 then
      let i := signed code 8
      .fin (i < 0) i.natAbs (-6)
    else .fin false code 0

/-- Value of an E8M0 block scale as an exponent; 0xFF is NaN. -/
def mxScaled (s : Nat) (v : Val) : Val := if s = 0xFF then .nan else v.scale ((s : Int) - 127)

/-- Code of a value in a format, with saturation as R132 lays down. -/
def elemCode (fmt : Nat) (rd : Rounding) (v : Val) : Nat :=
  match elemFmt fmt with
  | some f => f.encode .saturate rd v
  | none =>
    if fmt = 11 then
      match v with
      | .nan => 0
      | .inf neg => if neg then 0x81 else 0x7F
      | .fin neg m e =>
        let mag := if e ≥ -6 then m <<< (e + 6).toNat
          else
            let k := (-6 - e).toNat
            (m >>> k) + bit (rd.up m k)
        let mag := min mag 127
        if neg then (256 - mag) % 256 else mag
    else 0

/-- Group size of a row: columns are padded to it (R130). Sparsity 1 is 2:4, 2 is 4:8. -/
def groupSize (fmt sparsity : Nat) : Nat :=
  max (if isMx fmt then 32 else 1) (if sparsity = 2 then 8 else if sparsity = 1 then 4 else 1)

/-- The padded columns of a row (R130). -/
def colsP (fmt sparsity n : Nat) : Nat := roundUp n (groupSize fmt sparsity)

/-- Stored values of a row (R130). -/
def storedVals (fmt sparsity n : Nat) : Nat :=
  if sparsity = 0 then colsP fmt sparsity n else colsP fmt sparsity n / 2

/-- Bytes of the stored values. -/
def valueBytes (fmt sparsity n : Nat) : Nat := ceilDiv (storedVals fmt sparsity n * elemBits fmt) 8

/-- Bytes of the block scales. -/
def scaleBytes (fmt sparsity n : Nat) : Nat := if isMx fmt then colsP fmt sparsity n / 32 else 0

/-- Bytes of the sparsity metadata. -/
def metaBytes (fmt sparsity n : Nat) : Nat :=
  let c := colsP fmt sparsity n
  if sparsity = 1 then ceilDiv c 8 else if sparsity = 2 then ceilDiv (c * 3) 16 else 0

/-- The row size of R130, in bytes, for `n` elements. -/
def rowSize (fmt sparsity n : Nat) : Nat :=
  roundUp (valueBytes fmt sparsity n + scaleBytes fmt sparsity n + metaBytes fmt sparsity n) 64

/-- Code of stored value `j` of a row (R130: packed little-endian at the element width). -/
def storedCode (fmt : Nat) (row : Nat) (j : Nat) : Nat := field row (j * elemBits fmt) (elemBits fmt)

/-- Block scale of element `i` of a row held as a number. -/
def rowScale (fmt sparsity n row i : Nat) : Nat :=
  field row (8 * (valueBytes fmt sparsity n) + 8 * (i / 32)) 8

/-- Value of stored value `j`, whose dense position is `i`, with its per-tensor or block scale (R131). -/
def storedVal (fmt sparsity n : Nat) (tscale : Int) (row j i : Nat) : Val :=
  let v := elemVal fmt (storedCode fmt row j)
  if isMx fmt then mxScaled (rowScale fmt sparsity n row i) v
  else if fmt = 4 ∨ fmt = 5 then v.scale tscale
  else v

/-- Position within its group that the metadata of stored value `j` names (R130). -/
def metaIndex (fmt sparsity n row j : Nat) : Nat :=
  let w := if sparsity = 1 then 2 else 3
  field row (8 * (valueBytes fmt sparsity n + scaleBytes fmt sparsity n) + j * w) w

/-- Dense position of stored value `j` (R278). -/
def metaPos (fmt sparsity n row j : Nat) : Nat :=
  if sparsity = 1 then 4 * (j / 2) + metaIndex fmt sparsity n row j
  else 8 * (j / 4) + metaIndex fmt sparsity n row j

/-- Value at column `i` of a dense row (columns at or beyond n read +0, R251). -/
def denseVal (fmt n : Nat) (tscale : Int) (row i : Nat) : Val :=
  if i < n then storedVal fmt 0 n tscale row i i else .fin false 0 0

/-- Exponent of the block scale of a block by the OCP Microscaling conversion (R132): the exponent of the largest
magnitude less the element format's largest exponent, kept within E8M0. DESIGN CHOICE: an infinity is no magnitude, and a block of infinities
and zeros alone takes 127 (log entry 79). -/
def mxBlockScale (fmt : Nat) (vs : List Val) : Nat :=
  let top := vs.foldl (fun (acc : Option Int) v =>
    match v with
    | .fin _ m e => if m = 0 then acc else
        let x := (Nat.log2 m : Int) + e
        match acc with
        | none => some x
        | some y => some (max x y)
    | _ => acc) none
  if (elemFmt fmt).all (fun f => f.top = .numbers) && vs.any Val.isNan then 0xFF
  else
    match top with
    | none => 127
    | some x => (min (max (x - mxEmax fmt + 127) 0) 254).toNat

/-- Encode a dense row: elements narrowed one by one with their own rounding, block scales chosen first (R132, R285). -/
def encodeRow (fmt : Nat) (tscale : Int) (rds : Nat → Rounding) (vs : List Val) : Nat :=
  let n := vs.length
  let cp := colsP fmt 0 n
  let padded := vs ++ List.replicate (cp - n) (.fin false 0 0)
  let w := elemBits fmt
  if isMx fmt then
    let blocks := (List.range (cp / 32)).map fun b => (padded.drop (32 * b)).take 32
    let scales := blocks.map (mxBlockScale fmt)
    let codes := (List.range cp).map fun i =>
      let s := scales.getD (i / 32) 127
      (elemCode fmt (rds i) ((padded.getD i (.fin false 0 0)).scale (127 - (s : Int))), w)
    pack (codes ++ scales.map fun s => (s, 8))
  else
    let k : Int := if fmt = 4 ∨ fmt = 5 then -tscale else 0
    pack ((List.range n).map fun i => (elemCode fmt (rds i) ((padded.getD i (.fin false 0 0)).scale k), w))

/-- Every element rounded to nearest even. -/
def rne : Nat → Rounding := fun _ => .nearestEven

end Sys2Proof.Machine
end

