-- ==== Sys2Proof/Machine/Hash.lean ====
section
/-! DEFINITION. The check sequences the spec names: CRC-32 (R86, R109, R448, R469), CRC-10 (R410),
CRC-16 of the Rill (R262) and SHA-512 (R91, R93, R97, R99). -/

namespace Sys2Proof.Machine

/-- One byte of a reflected CRC-32 with the IEEE 802.3 polynomial. -/
def crc32Byte (c : BitVec 32) (b : BitVec 8) : BitVec 32 :=
  (List.range 8).foldl
    (fun r _ => if r.getLsbD 0 then (r >>> 1) ^^^ 0xEDB88320#32 else r >>> 1) (c ^^^ b.zeroExtend 32)

/-- CRC-32 with the IEEE 802.3 polynomial (R86): preset to ones, reflected, complemented, as IEEE 802.3 forms it. -/
def crc32 (bs : List (BitVec 8)) : BitVec 32 := ~~~ (bs.foldl crc32Byte 0xFFFFFFFF#32)

/-- Remainder of a bit string, first bit most significant, by a polynomial of degree `w` (leading term left out). -/
def crcBits {w : Nat} (poly init : BitVec w) (bits : List Bool) : BitVec w :=
  bits.foldl (fun r b => if r.getLsbD (w - 1) != b then (r <<< 1) ^^^ poly else r <<< 1) init

/-- CRC-10 over the message bits 0 to 5,129 of a codeword, polynomial 0x233 (R410). -/
def crc10 (bits : List Bool) : BitVec 10 := crcBits 0x233#10 0 bits

/-- CRC-16 of a Rill beat, the CCITT polynomial x^16 + x^12 + x^5 + 1 (R262). -/
def crc16 (bits : List Bool) : BitVec 16 := crcBits 0x1021#16 0xFFFF#16 bits

/-- The bits of a number, bit 0 first. -/
def bitsLow (v n : Nat) : List Bool := (List.range n).map fun i => v.testBit i

/-- The first `n` primes, by trial division over at most `fuel` candidates. -/
def primesFrom : Nat → Nat → List Nat → List Nat
  | 0, _, acc => acc
  | fuel + 1, k, acc => primesFrom fuel (k + 1) (if acc.all (fun p => k % p != 0) then acc ++ [k] else acc)

/-- Largest r below `hi` with r^e ≤ v, by bisection. -/
def rootStep (e v : Nat) : Nat → Nat → Nat → Nat
  | 0, lo, _ => lo
  | fuel + 1, lo, hi =>
    if hi ≤ lo + 1 then lo
    else
      let mid := (lo + hi) / 2
      if mid ^ e ≤ v then rootStep e v fuel mid hi else rootStep e v fuel lo mid

/-- First 64 bits of the fractional part of the e-th root of n, as FIPS 180-4 defines SHA-512's constants. -/
def rootFrac (e n : Nat) : BitVec 64 := BitVec.ofNat 64 (rootStep e (n * 2 ^ (64 * e)) 80 0 (2 ^ 70))

/-- The 80 round constants of SHA-512: cube roots of the first 80 primes. -/
def sha512K : List (BitVec 64) := ((primesFrom 410 2 []).take 80).map (rootFrac 3)

/-- The initial hash of SHA-512: square roots of the first 8 primes. -/
def sha512H : List (BitVec 64) := [2, 3, 5, 7, 11, 13, 17, 19].map (rootFrac 2)

/-- SHA-512 message schedule: extend 16 words to 80. -/
def sha512Extend : Nat → List (BitVec 64) → List (BitVec 64)
  | 0, w => w
  | n + 1, w =>
    let t := w.length
    let g (i : Nat) : BitVec 64 := w.getD (t - i) 0
    let s0 := (g 15).rotateRight 1 ^^^ (g 15).rotateRight 8 ^^^ (g 15) >>> 7
    let s1 := (g 2).rotateRight 19 ^^^ (g 2).rotateRight 61 ^^^ (g 2) >>> 6
    sha512Extend n (w ++ [g 16 + s0 + g 7 + s1])

/-- One SHA-512 round over (a, b, c, d, e, f, g, h). -/
def sha512Round (st : List (BitVec 64)) (kw : BitVec 64 × BitVec 64) : List (BitVec 64) :=
  match st with
  | [a, b, c, d, e, f, g, h] =>
    let s1 := e.rotateRight 14 ^^^ e.rotateRight 18 ^^^ e.rotateRight 41
    let t1 := h + s1 + ((e &&& f) ^^^ (~~~ e &&& g)) + kw.1 + kw.2
    let s0 := a.rotateRight 28 ^^^ a.rotateRight 34 ^^^ a.rotateRight 39
    let t2 := s0 + ((a &&& b) ^^^ (a &&& c) ^^^ (b &&& c))
    [t1 + t2, a, b, c, d + t1, e, f, g]
  | _ => st

/-- One 128-byte block of SHA-512. -/
def sha512Block (h : List (BitVec 64)) (block : List (BitVec 8)) : List (BitVec 64) :=
  let word (i : Nat) : BitVec 64 := BitVec.ofNat 64 (ofLe ((block.drop (8 * i)).take 8).reverse)
  let w := sha512Extend 64 ((List.range 16).map word)
  List.zipWith (· + ·) h ((List.zip sha512K w).foldl sha512Round h)

/-- Fold the blocks of a padded message. -/
def sha512Blocks : Nat → List (BitVec 64) → List (BitVec 8) → List (BitVec 64)
  | 0, h, _ => h
  | n + 1, h, m => sha512Blocks n (sha512Block h (m.take 128)) (m.drop 128)

/-- SHA-512 of a byte string, as its 64 digest bytes. -/
def sha512 (m : List (BitVec 8)) : List (BitVec 8) :=
  let zeros := (240 - (m.length + 1) % 128) % 128
  let padded := m ++ [0x80] ++ List.replicate zeros 0 ++ (leBytes (8 * m.length) 16).reverse
  (sha512Blocks (padded.length / 128) sha512H padded).flatMap fun w => (leBytes w.toNat 8).reverse

end Sys2Proof.Machine
end

