-- ==== Sys2Proof/Machine/ImageTypes.lean ====
section
/-! DEFINITION. The configuration an Eweulon image carries (R87–R106, R119–R137, R153–R161, R189, R290, R383, R445):
every IMG field of the device, each as the number its field map encodes ("n − 1" fields hold n − 1). -/

namespace Sys2Proof.Machine

/-- The image header (R87). -/
structure ImageHeader where
  magic           : Nat
  gen             : Nat
  sections        : Nat
  product         : Nat
  imageLen        : Nat
  securityVersion : Nat
  buildId         : Nat
  signer          : Nat
  shapeA          : Nat
  shapeB          : Nat
  shapeC          : Nat
  jobId           : Nat
  deriving DecidableEq, Repr, Inhabited

/-- A section-table entry (R88). -/
structure SectionEntry where
  type   : Nat
  index  : Nat
  offset : Nat
  length : Nat
  deriving DecidableEq, Repr, Inhabited

/-- A dial table entry (R62). -/
structure DialEntry where
  type    : Nat
  opens   : Nat
  closes  : Nat
  policy  : Nat
  regions : Nat
  every   : Nat
  phase   : Nat
  param   : Nat
  deriving DecidableEq, Repr, Inhabited

/-- The Sundial section: its six registers (R59, R76) and the dial table (R90). -/
structure SundialCfg where
  ctl        : BitVec 64
  loop       : BitVec 64
  periodMin  : BitVec 64
  periodMax  : BitVec 64
  periodInit : BitVec 64
  roots      : BitVec 64
  table      : List DialEntry
  deriving DecidableEq, Repr, Inhabited

/-- A table descriptor (R154). -/
structure TableDesc where
  kind     : Nat
  id       : Nat
  format   : Nat
  rowUnits : Nat
  cooler   : Nat
  invalid  : Nat
  cols     : Nat
  migrate  : Bool
  versions : Bool
  weighted : Bool
  split    : Nat
  nodes    : Nat
  promote  : Nat
  vbDelta  : Nat
  default  : Nat
  hotPart  : Nat
  deriving DecidableEq, Repr, Inhabited

/-- A Shard Map entry (R161). -/
structure ShardEntry where
  hole    : Bool
  xOwn    : Bool
  table   : Nat
  first   : Nat
  x       : Nat
  y       : Nat
  z       : Nat
  tier    : Nat
  base    : Nat
  auxTier : Nat
  aux     : Nat
  deriving DecidableEq, Repr, Inhabited

/-- A partition entry (R384). -/
structure Partition where
  tier       : Nat
  keep       : Bool
  scrub      : Bool
  role       : Nat
  base       : Nat
  size       : Nat
  share      : Nat
  ceiling    : Nat
  lapLimit   : Nat
  ceCapacity : Nat
  ceLeak     : Nat
  name       : Nat
  deriving DecidableEq, Repr, Inhabited

/-- The partition map section (R383). -/
structure PartitionMap where
  regWindow : Nat
  scrubTick : Nat
  parts     : List Partition
  deriving DecidableEq, Repr, Inhabited

/-- A resource ownership entry (R100). -/
structure ResourceClaim where
  resource : Nat
  claimant : Nat
  amount   : Nat
  deriving DecidableEq, Repr, Inhabited

/-- A region record of the unit map (R104). -/
structure UnitRegion where
  blocks : Nat
  spouts : Nat
  cells  : List Nat
  deriving DecidableEq, Repr, Inhabited

/-- A training hint (R105). -/
structure TrainingHint where
  kind : Nat
  unit : Nat
  loss : Nat
  rate : Nat
  deriving DecidableEq, Repr, Inhabited

/-- The start policy (R106). -/
structure StartPolicy where
  refuseAfter  : Nat
  cxlAOptional : Bool
  cxlBOptional : Bool
  skipStarts   : Nat
  ddrFallback  : Bool
  deriving DecidableEq, Repr, Inhabited

/-- A placement entry (R98). -/
structure Placement where
  fingerprint : Nat
  x           : Nat
  y           : Nat
  z           : Nat
  deriving DecidableEq, Repr, Inhabited

/-- The owner-key enrolment (R94). -/
structure Enrolment where
  keys    : Nat
  ownerId : Nat
  key     : List (BitVec 256)
  deriving DecidableEq, Repr, Inhabited

/-- A job slot's header (R120). -/
structure SlotHeader where
  ops        : Nat
  operands   : Nat
  layers     : Nat
  mbInit     : Nat
  mbMin      : Nat
  mbMax      : Nat
  steer      : Bool
  ports      : Nat
  weirAction : Nat
  seedSource : Bool
  evalEntry  : Nat
  evalValid  : Bool
  ckptEntry  : Nat
  ckptValid  : Bool
  constLen   : Nat
  codeLen    : Nat
  slotId     : Nat
  deriving DecidableEq, Repr, Inhabited

/-- The fields of TRANSFORM (R133); operand index 0xFFF is no operand. -/
structure TransformOp where
  inA         : Nat
  w           : Nat
  out         : Nat
  pre         : Nat
  preload     : Nat
  acc         : Nat
  commutative : Bool
  sr          : Bool
  act         : Nat
  frozen      : Bool
  noDx        : Bool
  masked      : Bool
  maskBlock   : Bool
  grad        : Nat
  mask        : Nat
  layer       : Nat
  preGrad     : Nat
  deriving DecidableEq, Repr, Inhabited

/-- The fields of AGGREGATE (R135). -/
structure AggregateOp where
  trail    : Nat
  hop      : Nat
  src      : Nat
  out      : Nat
  func     : Nat
  weighted : Bool
  self     : Bool
  keep     : Nat
  deriving DecidableEq, Repr, Inhabited

/-- The fields of NORMALISE (R136). -/
structure NormaliseOp where
  inp        : Nat
  out        : Nat
  affine     : Nat
  kind       : Nat
  layer      : Nat
  eps        : BitVec 32
  affineGrad : Nat
  deriving DecidableEq, Repr, Inhabited

/-- The fields of OPTIMIZE (R136). -/
structure OptimizeOp where
  target : Nat
  grad   : Nat
  state1 : Nat
  state2 : Nat
  consts : Nat
  method : Nat
  sched  : Nat
  deriving DecidableEq, Repr, Inhabited

/-- The operation set (R123) with each opcode's fields (R133, R135, R136). -/
inductive OpBody where
  | sample (basket seeds lists trail : Nat)
  | gather (lists hop table out : Nat)
  | aggregate (o : AggregateOp)
  | transform (o : TransformOp)
  | activate (inp out func : Nat)
  | normalise (o : NormaliseOp)
  | loss (logits target grad kind : Nat) (margin : BitVec 32)
  | optimize (o : OptimizeOp)
  | reduce (tensor op wire : Nat) (mean : Bool)
  | spout (code : Nat) (args : List Nat) (budget : Nat)
  | fill (target : Nat) (pattern : BitVec 64)
  | tableSwitch (table : Nat) (version : Bool)
  | intake (ring : Nat)
  deriving DecidableEq, Repr, Inhabited

/-- An operation: common header (R122) and body. -/
structure Op where
  entry    : Nat
  scope    : Nat
  regions  : Nat
  eval     : Bool
  once     : Bool
  bwd      : Bool
  pred     : Nat
  bwdEntry : Nat
  body     : OpBody
  deriving DecidableEq, Repr, Inhabited

/-- An operand descriptor (R127). -/
structure Operand where
  kind     : Nat
  format   : Nat
  sparsity : Nat
  loc      : Bool
  cols     : Nat
  rows     : Nat
  base     : Nat
  stride   : Nat
  scale    : Int
  table    : Nat
  copies   : Nat
  baseB    : Nat
  deriving DecidableEq, Repr, Inhabited

/-- A hop record (R190). -/
structure HopRecord where
  fanout : Nat
  table  : Nat
  deriving DecidableEq, Repr, Inhabited

/-- A basket descriptor (R189). -/
structure BasketDesc where
  method      : Nat
  hops        : Nat
  replace     : Bool
  dedup       : Bool
  remoteKeep  : Nat
  redraws     : Nat
  biasTable   : Nat
  seeds       : Nat
  nodeBudget  : Nat
  trailBudget : Nat
  seedList    : Nat
  evalMbs     : Nat
  evalRestart : Bool
  jobSeed     : Nat
  hop         : List HopRecord
  layer       : List Nat
  deriving DecidableEq, Repr, Inhabited

/-- A slot's training block (R290). -/
structure TrainingBlock where
  stashFp8      : Nat
  fp8Scale      : Int
  farPart       : Nat
  weirAlpha     : Nat
  weirK         : Nat
  weirWarmup    : Nat
  rollbackMax   : Nat
  rollbackSteps : Nat
  spikeFloor    : BitVec 32
  nfFlag        : Bool
  srSeed        : Nat
  deriving DecidableEq, Repr, Inhabited

/-- A slot's recovery block (R445). -/
structure RecoveryBlock where
  tol         : BitVec 32
  partnerRows : Nat
  flashMib    : Nat
  storeMib    : Nat
  nsid        : Nat
  lbaBase     : Nat
  lbaCount    : Nat
  deriving DecidableEq, Repr, Inhabited

/-- A job slot (R119). `consts` and `code` are its two areas. -/
structure JobSlot where
  header   : SlotHeader
  ops      : List Op
  operands : List Operand
  consts   : List Byte
  code     : List Byte
  deriving DecidableEq, Repr, Inhabited

/-- What a device started from an image holds of it until the next device reset (R1). -/
structure ImageCfg where
  header     : ImageHeader
  entries    : List SectionEntry
  sundial    : SundialCfg
  layouts    : List (List ShardEntry)
  tables     : List TableDesc
  partMap    : PartitionMap
  resources  : List ResourceClaim
  hints      : List TrainingHint
  slots      : List (Nat × JobSlot)
  enrolment  : Option Enrolment
  placement  : List Placement
  policy     : StartPolicy
  units      : List UnitRegion
  digest     : List Byte
  deriving DecidableEq, Repr, Inhabited

/-- A fault of an image or of a start step, as the journal names it (R109): code, unit and detail. -/
structure StepFault where
  code   : Nat
  unit   : Nat
  detail : Nat
  deriving DecidableEq, Repr, Inhabited

/-- A dependency bit of an event-flag word (R328): completion of an operation's part; a kept value that becomes readable. -/
inductive Dep where
  | part (op : Nat) (backward : Bool)
  | kept (operand : Nat) (pre : Bool)
  deriving DecidableEq, Repr, Inhabited

end Sys2Proof.Machine
end

