-- ==== Sys2Proof/Machine/ImageParse.lean ====
section
/-! DEFINITION. Reading an Eweulon image's structures from its bytes: each field where its field map puts it. -/

namespace Sys2Proof.Machine

/-- The bytes of an image, by offset from its start. -/
abbrev ImageBytes := Nat → Nat

/-- A little-endian number of `n` bytes (R10). -/
def ImageBytes.num (b : ImageBytes) (off : Nat) : Nat → Nat
  | 0 => 0
  | n + 1 => b.num off n + b (off + n) * 256 ^ n

/-- A byte range. -/
def ImageBytes.range (b : ImageBytes) (off n : Nat) : List Byte :=
  (List.range n).map fun i => BitVec.ofNat 8 (b (off + i))

/-- One bit as a Bool. -/
def flag (v i : Nat) : Bool := v.testBit i

def parseHeader (v : Nat) : ImageHeader where
  magic := field v 0 32
  gen := field v 32 4
  sections := field v 40 6
  product := field v 48 16
  imageLen := field v 64 32
  securityVersion := field v 96 32
  buildId := field v 128 32
  signer := field v 160 8
  shapeA := field v 168 4
  shapeB := field v 172 4
  shapeC := field v 176 4
  jobId := field v 192 64

def parseSection (v : Nat) : SectionEntry where
  type := field v 4 8
  index := field v 16 2
  offset := field v 32 32
  length := field v 64 32

/-- Section-table entry `i` as a number. -/
def rawSection (b : ImageBytes) (i : Nat) : Nat := b.num (64 + 16 * i) 16

/-- The section table (R87, R88). -/
def parseSections (b : ImageBytes) (h : ImageHeader) : List SectionEntry :=
  (List.range (h.sections + 1)).map fun i => parseSection (rawSection b i)

/-- The section of a type, with its position in the table. -/
def findSection (es : List SectionEntry) (type : Nat) : Option (Nat × SectionEntry) :=
  (es.zipIdx.find? fun e => e.1.type == type).map fun e => (e.2, e.1)

def parseDialEntry (v : Nat) : DialEntry where
  type := field v 4 4
  opens := field v 8 16
  closes := field v 24 16
  policy := field v 40 2
  regions := field v 42 4
  every := field v 48 16
  phase := field v 64 16
  param := field v 80 32

def parseSundial (b : ImageBytes) (off : Nat) : SundialCfg where
  ctl := BitVec.ofNat 64 (b.num (off + 8) 8)
  loop := BitVec.ofNat 64 (b.num (off + 16) 8)
  periodMin := BitVec.ofNat 64 (b.num (off + 24) 8)
  periodMax := BitVec.ofNat 64 (b.num (off + 32) 8)
  periodInit := BitVec.ofNat 64 (b.num (off + 40) 8)
  roots := BitVec.ofNat 64 (b.num (off + 48) 8)
  table := (List.range (field (b.num (off + 56) 2) 0 10 + 1)).map fun i => parseDialEntry (b.num (off + 64 + 16 * i) 16)

def parseTableDesc (v : Nat) : TableDesc where
  kind := field v 4 4
  id := field v 8 8
  format := field v 16 4
  rowUnits := field v 20 7
  cooler := field v 28 2
  invalid := field v 30 2
  cols := field v 32 16
  migrate := flag v 48
  versions := flag v 49
  weighted := flag v 50
  split := field v 52 12
  nodes := field v 64 40
  promote := field v 104 4
  vbDelta := field v 128 48
  default := field v 192 64
  hotPart := field v 256 8

def parseShardEntry (v : Nat) : ShardEntry where
  hole := flag v 4
  xOwn := flag v 5
  table := field v 8 8
  first := field v 16 40
  x := field v 64 4
  y := field v 68 4
  z := field v 72 4
  tier := field v 76 4
  base := field v 80 48
  auxTier := field v 128 4
  aux := field v 144 48

/-- Number of entries of layout `k` (R160). -/
def layoutCount (b : ImageBytes) (off k : Nat) : Nat := field (b.num (off + 64 + 8 * k) 8) 0 16 + 1

/-- Number of layouts (R160). -/
def layouts (b : ImageBytes) (off : Nat) : Nat := field (b.num (off + 8) 8) 0 3 + 1

/-- Entries of the layouts before layout `k`. -/
def entriesBefore (b : ImageBytes) (off : Nat) : Nat → Nat
  | 0 => 0
  | k + 1 => entriesBefore b off k + layoutCount b off k

/-- Byte offset of entry `i` of layout `k`. -/
def shardEntryAt (b : ImageBytes) (off k i : Nat) : Nat := off + 128 + 32 * (entriesBefore b off k + i)

def parseLayouts (b : ImageBytes) (off : Nat) : List (List ShardEntry) :=
  (List.range (layouts b off)).map fun k =>
    (List.range (layoutCount b off k)).map fun i => parseShardEntry (b.num (shardEntryAt b off k i) 32)

def parsePartition (v : Nat) : Partition where
  tier := field v 4 4
  keep := flag v 8
  scrub := flag v 9
  role := field v 16 4
  base := field v 32 24
  size := field v 64 25
  share := field v 96 8
  ceiling := field v 104 8
  lapLimit := field v 112 16
  ceCapacity := field v 128 16
  ceLeak := field v 144 16
  name := field v 192 64

def parsePartMap (b : ImageBytes) (off : Nat) : PartitionMap where
  regWindow := field (b.num off 64) 70 6
  scrubTick := field (b.num off 64) 80 16
  parts := (List.range (field (b.num off 64) 64 6 + 1)).map fun i => parsePartition (b.num (off + 64 + 32 * i) 32)

def parseClaim (v : Nat) : ResourceClaim where
  resource := field v 0 16
  claimant := field v 16 8
  amount := field v 32 16

def parseResources (b : ImageBytes) (off : Nat) : List ResourceClaim :=
  (List.range (field (b.num off 16) 64 8 + 1)).map fun i => parseClaim (b.num (off + 16 + 8 * i) 8)

def parseUnitRegion (v : Nat) : UnitRegion where
  blocks := field v 0 9
  spouts := field v 16 9
  cells := (List.range 9).map fun b => field v (32 + 17 * b) 17

def parseUnits (b : ImageBytes) (off : Nat) : List UnitRegion :=
  (List.range 4).map fun r => parseUnitRegion (b.num (off + 8 + 32 * r) 32)

def parseHint (v : Nat) : TrainingHint where
  kind := field v 0 4
  unit := field v 8 8
  loss := field v 16 8
  rate := field v 24 2

def parseHints (b : ImageBytes) (e : SectionEntry) : List TrainingHint :=
  (List.range ((e.length - 8) / 16)).map fun i => parseHint (b.num (e.offset + 8 + 16 * i) 16)

def parsePolicy (v : Nat) : StartPolicy where
  refuseAfter := field v 64 4
  cxlAOptional := flag v 68
  cxlBOptional := flag v 69
  skipStarts := field v 72 8
  ddrFallback := flag v 80

def parsePlacement (v : Nat) : Placement where
  fingerprint := field v 0 64
  x := field v 64 4
  y := field v 68 4
  z := field v 72 4

def parsePlacements (b : ImageBytes) (off : Nat) : List Placement :=
  (List.range (field (b.num off 16) 64 12 + 1)).map fun i => parsePlacement (b.num (off + 16 + 16 * i) 16)

def parseEnrolment (v : Nat) : Enrolment where
  keys := field v 64 2
  ownerId := field v 80 16
  key := (List.range 4).map fun i => BitVec.ofNat 256 (field v (128 + 256 * i) 256)

def parseSlotHeader (v : Nat) : SlotHeader where
  ops := field v 64 14
  operands := field v 80 12
  layers := field v 96 8
  mbInit := field v 112 10
  mbMin := field v 122 10
  mbMax := field v 132 10
  steer := flag v 142
  ports := field v 144 6
  weirAction := field v 150 2
  seedSource := flag v 152
  evalEntry := field v 176 10
  evalValid := flag v 186
  ckptEntry := field v 187 10
  ckptValid := flag v 197
  constLen := field v 208 32
  codeLen := field v 240 32
  slotId := field v 272 64

def parseTransform (v : Nat) : TransformOp where
  inA := field v 64 12
  w := field v 76 12
  out := field v 88 12
  pre := field v 100 12
  preload := field v 112 2
  acc := field v 114 2
  commutative := flag v 116
  sr := flag v 117
  act := field v 118 4
  frozen := flag v 122
  noDx := flag v 123
  masked := flag v 124
  maskBlock := flag v 125
  grad := field v 128 12
  mask := field v 140 12
  layer := field v 152 8
  preGrad := field v 160 12

/-- The body of an operation by its opcode (R123, R133–R136); reserved opcodes never pass R141 and read as INTAKE. -/
def parseBody (v : Nat) : OpBody :=
  let f := field v
  match field v 4 8 with
  | 0x01 => .sample (f 64 12) (f 76 12) (f 88 12) (f 100 12)
  | 0x02 => .gather (f 64 12) (f 76 3) (f 80 12) (f 92 12)
  | 0x03 => .aggregate ⟨f 64 12, f 76 3, f 80 12, f 92 12, f 104 2, flag v 106, flag v 107, f 108 2⟩
  | 0x04 => .transform (parseTransform v)
  | 0x05 => .activate (f 64 12) (f 76 12) (f 88 4)
  | 0x06 => .normalise ⟨f 64 12, f 76 12, f 88 12, f 100 2, f 104 8, BitVec.ofNat 32 (f 112 32), f 144 12⟩
  | 0x07 => .loss (f 64 12) (f 76 12) (f 88 12) (f 100 2) (BitVec.ofNat 32 (f 112 32))
  | 0x08 => .optimize ⟨f 64 12, f 76 12, f 88 12, f 100 12, f 112 12, f 124 4, f 128 2⟩
  | 0x09 => .reduce (f 64 12) (f 76 2) (f 78 4) (flag v 82)
  | 0x0A => .spout (f 64 32) [f 96 12, f 108 12, f 120 12, f 132 12] (f 144 32)
  | 0x0B => .fill (f 64 12) (BitVec.ofNat 64 (f 128 64))
  | 0x0C => .tableSwitch (f 64 8) (flag v 72)
  | _ => .intake (f 64 12)

def parseOp (v : Nat) : Op where
  entry := field v 12 10
  scope := field v 22 2
  regions := field v 24 4
  eval := flag v 28
  once := flag v 29
  bwd := flag v 30
  pred := field v 32 14
  bwdEntry := field v 48 10
  body := parseBody v

def parseOperand (v : Nat) : Operand where
  kind := field v 4 4
  format := field v 8 4
  sparsity := field v 12 2
  loc := flag v 14
  cols := field v 16 16
  rows := field v 32 32
  base := field v 64 64
  stride := field v 128 32
  scale := signed (field v 160 8) 8
  table := field v 168 8
  copies := field v 176 8
  baseB := field v 192 64

/-- Byte offset of operand `i` in a slot section (R119). -/
def operandAt (h : SlotHeader) (off i : Nat) : Nat := off + 64 + 32 * (h.ops + 1) + 32 * i

/-- Byte offset of the constants area. -/
def constsAt (h : SlotHeader) (off : Nat) : Nat := off + 64 + 32 * (h.ops + 1 + (h.operands + 1))

def parseSlot (b : ImageBytes) (off : Nat) : JobSlot :=
  let h := parseSlotHeader (b.num off 64)
  { header := h
    ops := (List.range (h.ops + 1)).map fun i => parseOp (b.num (off + 64 + 32 * i) 32)
    operands := (List.range (h.operands + 1)).map fun i => parseOperand (b.num (operandAt h off i) 32)
    consts := b.range (constsAt h off) h.constLen
    code := b.range (constsAt h off + h.constLen) h.codeLen }

def parseBasket (v : Nat) : BasketDesc where
  method := field v 4 4
  hops := field v 8 2
  replace := flag v 10
  dedup := flag v 11
  remoteKeep := field v 12 4
  redraws := field v 16 2
  biasTable := field v 24 8
  seeds := field v 32 12
  nodeBudget := field v 44 20
  trailBudget := field v 64 21
  seedList := field v 96 12
  evalMbs := field v 108 10
  evalRestart := flag v 118
  jobSeed := field v 128 64
  hop := (List.range 4).map fun h => ⟨field v (192 + 16 * h) 6, field v (200 + 16 * h) 8⟩
  layer := (List.range 4).map fun h => field v (256 + 16 * h) 16

def parseTraining (v : Nat) : TrainingBlock where
  stashFp8 := field v 4 2
  fp8Scale := signed (field v 8 8) 8
  farPart := field v 16 8
  weirAlpha := field v 24 8
  weirK := field v 32 8
  weirWarmup := field v 40 16
  rollbackMax := field v 56 4
  rollbackSteps := field v 60 4
  spikeFloor := BitVec.ofNat 32 (field v 64 32)
  nfFlag := flag v 96
  srSeed := field v 128 64

def parseRecovery (v : Nat) : RecoveryBlock where
  tol := BitVec.ofNat 32 (field v 32 32)
  partnerRows := field v 64 16
  flashMib := field v 80 16
  storeMib := field v 96 16
  nsid := field v 128 32
  lbaBase := field v 160 48
  lbaCount := field v 208 48

/-- A number of `n` bytes of the constants area. -/
def JobSlot.constNum (s : JobSlot) (off n : Nat) : Nat := ofLe ((s.consts.drop off).take n)

/-- The training block is the first 64 bytes of the constants area (R290). -/
def JobSlot.training (s : JobSlot) : TrainingBlock := parseTraining (s.constNum 0 64)

/-- The recovery block is bytes 64–127 (R445). -/
def JobSlot.recovery (s : JobSlot) : RecoveryBlock := parseRecovery (s.constNum 64 64)

/-- The operand an index names; 0xFFF and indices beyond the table name none. -/
def JobSlot.operand (s : JobSlot) (i : Nat) : Option Operand := s.operands[i]?

/-- The basket descriptor of a SAMPLE (R189), at its constants operand's offset. -/
def JobSlot.basketOf (s : JobSlot) (i : Nat) : BasketDesc :=
  parseBasket (s.constNum ((s.operand i).elim 0 (·.base)) 64)

/-- Whole image (R87–R106, R119, R153, R160, R383). -/
def parseImage (b : ImageBytes) : ImageCfg :=
  let h := parseHeader (b.num 0 64)
  let es := parseSections b h
  let at' (t : Nat) : Nat := (findSection es t).elim 0 (·.2.offset)
  { header := h
    entries := es
    sundial := parseSundial b (at' 0x02)
    layouts := parseLayouts b (at' 0x03)
    tables := (List.range (field (b.num (at' 0x04) 64) 64 8 + 1)).map fun i =>
      parseTableDesc (b.num (at' 0x04 + 64 + 64 * i) 64)
    partMap := parsePartMap b (at' 0x05)
    resources := parseResources b (at' 0x06)
    hints := ((findSection es 0x07).map fun e => parseHints b e.2).getD []
    slots := (List.range 4).filterMap fun k =>
      (es.find? fun e => e.type == 0x08 && e.index == k).map fun e => (k, parseSlot b e.offset)
    enrolment := (findSection es 0x09).map fun e => parseEnrolment (b.num e.2.offset 256)
    placement := parsePlacements b (at' 0x0A)
    policy := parsePolicy (b.num (at' 0x0B) 16)
    units := parseUnits b (at' 0x0C)
    digest := [] }

end Sys2Proof.Machine
end

