-- ==== Sys2Proof/Machine/ImageCheck.lean ====
section
/-! DEFINITION. Start step 0x06 (R91–R94) and the section checks of step 0x08 up to the Shard Map (R92): resource map,
Sundial, placement, unit map, start policy, hints, partition map, table descriptors, Shard Map. -/

namespace Sys2Proof.Machine

/-- The fault R19 selects among `(bit, code)`, with the journal's unit and a detail that may depend on the bit. -/
def faultOf (fs : List (Nat × Nat)) (unit : Nat) (detail : Nat → Nat → Nat := fun _ _ => 0) : Option StepFault :=
  (firstFaultAt fs).map fun f => ⟨f.2, unit, detail f.1 f.2⟩

/-- The first fault of several checks made in order. -/
def firstOf : List (Option StepFault) → Option StepFault
  | [] => none
  | some f :: _ => some f
  | none :: r => firstOf r

/-- Set bits of a mask of `w` bits. -/
def popCount (v w : Nat) : Nat := ((List.range w).filter v.testBit).length

/-- The header (R87, R92, R94). -/
def headerFaults (v : Nat) : List (Nat × Nat) :=
  let h := parseHeader v
  faultIf (h.magic != 0x4D495745) 0 0x050 ++ faultIf (h.gen != 1) 32 0x004 ++ rsvdFault v 36 4 ++
  allOnesFault v 40 6 ++ rsvdFault v 46 2 ++ faultIf (h.product != 1) 48 0x051 ++
  (if h.imageLen = 2 ^ 32 - 1 then [(64, 0x002)] else
    faultIf (h.imageLen % 64 != 0 || h.imageLen > 29360128 || h.imageLen < 64 + 16 * (h.sections + 1) + 128) 64 0x053) ++
  allOnesFault v 96 32 ++ faultIf (h.signer > 4) 160 0x055 ++ rsvdFault v 180 12 ++ rsvdFault v 256 256

/-- The section types R89 lists. -/
def sectionTypeOk (t : Nat) : Bool := (1 ≤ t && t ≤ 0x0C) || t == 0xFF

/-- A section-table entry against R88 and the entries before it (R92). -/
def sectionFaults (h : ImageHeader) (v : Nat) (earlier : List SectionEntry) : List (Nat × Nat) :=
  let e := parseSection v
  let clash (lo len : Nat) : Bool := e.offset < lo + len && lo < e.offset + e.length
  genFault v ++ faultIf (!sectionTypeOk e.type) 4 0x052 ++ rsvdFault v 12 4 ++
  faultIf (e.type != 0x08 && e.index != 0) 16 0x001 ++ rsvdFault v 18 14 ++
  faultIf (e.offset % 64 != 0 || clash 0 (64 + 16 * (h.sections + 1)) || earlier.any fun o => clash o.offset o.length)
    32 0x053 ++
  allOnesFault v 64 32 ++ faultIf (e.length < 8 || e.offset + e.length > h.imageLen) 64 0x053 ++ rsvdFault v 96 32

def checkSections (b : ImageBytes) (h : ImageHeader) : Option StepFault :=
  let es := parseSections b h
  firstOf (es.zipIdx.map fun e => faultOf (sectionFaults h (rawSection b e.2) (es.take e.2)) e.2)

/-- Section counts (R89): a duplicate names the later entry, a missing section its type (R92). -/
def checkCounts (es : List SectionEntry) : Option StepFault :=
  let dup := es.zipIdx.findSome? fun e =>
    if (es.take e.2).any (fun o => o.type == e.1.type && (e.1.type != 0x08 || o.index == e.1.index))
    then some (StepFault.mk 0x053 e.2 0) else none
  let missing := [0x01, 0x02, 0x03, 0x04, 0x05, 0x06, 0x08, 0x0A, 0x0B, 0x0C, 0xFF].findSome? fun t =>
    if es.any (fun e => e.type == t) then none else some (StepFault.mk 0x053 0xFFFF t)
  firstOf [dup, missing]

/-- The signature block is the last 128 bytes (R92). -/
def checkSignaturePlace (h : ImageHeader) (es : List SectionEntry) : Option StepFault :=
  (findSection es 0xFF).bind fun e =>
    if e.2.length = 128 ∧ e.2.offset + 128 = h.imageLen then none else some ⟨0x053, e.1, 0⟩

def checkPreambles (b : ImageBytes) (es : List SectionEntry) : Option StepFault :=
  firstOf (es.zipIdx.map fun e =>
    let v := b.num e.1.offset 8
    faultOf (genFault v ++ faultIf (field v 4 8 != e.1.type) 4 0x053 ++ rsvdFault v 12 52) e.2)

/-- The firmware's signature (R91). -/
def checkFirmware (b : ImageBytes) (es : List SectionEntry) : Option StepFault :=
  (findSection es 0x01).bind fun e =>
    let n := e.2.length - 64
    if e.2.length ≥ 64 ∧ Config.ed25519Verify Config.vendorRootKey (sha512 (b.range e.2.offset n))
        (BitVec.ofNat 512 (b.num (e.2.offset + n) 64)) then none
    else some ⟨0x054, e.1, 0⟩

/-- The image digest (R93): the bytes before the signature block. -/
def imageDigest (b : ImageBytes) (h : ImageHeader) : List Byte := sha512 (b.range 0 (h.imageLen - 128))

/-- The signature block (R93), with the key of header.signer. DEDUCED: its zero bits are reserved bits, so a set one is 0x001 (R18)
and no failed check of R93 (log entry 65). -/
def checkSignature (b : ImageBytes) (h : ImageHeader) (es : List SectionEntry) (key : BitVec 256) : Option StepFault :=
  (findSection es 0xFF).bind fun e =>
    let v := b.num e.2.offset 128
    faultOf (faultIf (field v 64 8 != h.signer) 64 0x054 ++ rsvdFault v 72 56 ++
      faultIf (!Config.ed25519Verify key (imageDigest b h) (BitVec.ofNat 512 (field v 128 512))) 128 0x054 ++
      rsvdFault v 640 384) e.1

/-- The enrolment record's own fields and signature (R94). DEDUCED: a section of another length than R94's 256 bytes is 0x053, found
where the record is read (log entry 65). -/
def checkEnrolment (b : ImageBytes) (es : List SectionEntry) : Option StepFault :=
  (findSection es 0x09).bind fun e =>
    let v := b.num e.2.offset 256
    let n := parseEnrolment v
    if e.2.length != 256 then some ⟨0x053, e.1, 0⟩ else
    faultOf (rsvdFault v 66 14 ++ faultIf (n.ownerId == 0 || n.ownerId == 65535) 80 0x002 ++ rsvdFault v 96 32 ++
      ((List.range 4).flatMap fun i =>
        faultIf (i > n.keys && field v (128 + 256 * i) 256 != 0) (128 + 256 * i) 0x001) ++
      faultIf (!Config.ed25519Verify Config.vendorRootKey (sha512 (b.range e.2.offset 144))
        (BitVec.ofNat 512 (field v 1152 512))) 1152 0x055 ++ rsvdFault v 1664 384) e.1

/-- The key that header.signer names (R87, R94). -/
def signerKey (b : ImageBytes) (h : ImageHeader) (es : List SectionEntry) : Option (BitVec 256) :=
  if h.signer = 0 then some Config.vendorRootKey
  else (findSection es 0x09).bind fun e =>
    let n := parseEnrolment (b.num e.2.offset 256)
    if h.signer - 1 ≤ n.keys then n.key[h.signer - 1]? else none

/-- Start step 0x06 (R92): layout checks before a byte is hashed, then the signatures. -/
def checkVerify (b : ImageBytes) : Option StepFault :=
  let h := parseHeader (b.num 0 64)
  match faultOf (headerFaults (b.num 0 64)) 0xFFFF with
  | some f => some f
  | none =>
    let es := parseSections b h
    firstOf [checkSections b h, checkCounts es, checkSignaturePlace h es, checkPreambles b es, checkFirmware b es,
      match signerKey b h es with
      | some k => firstOf [checkSignature b h es k, checkEnrolment b es]
      | none => some ((findSection es 0x09).elim ⟨0x055, 0xFFFF, 0x09⟩ fun e => ⟨0x055, e.1, 0⟩)]

/-- What the checks of step 0x08 know of this device. -/
structure DeviceFacts where
  fingerprint : Nat
  /-- Units the repair journal marks failed: region and block. -/
  failedBlocks : List (Nat × Nat)
  /-- Region, block and cell. -/
  failedCells  : List (Nat × Nat × Nat)
  /-- Region and Spout core. -/
  failedSpouts : List (Nat × Nat)
  deriving DecidableEq, Repr

/-- The section of a type, checked by `f` from its position, offset and length; a required section stands (R89). -/
def onSection (es : List SectionEntry) (t : Nat) (f : Nat → SectionEntry → Option StepFault) : Option StepFault :=
  (findSection es t).bind fun e => f e.1 e.2

/-- A section whose length its counts contradict is 0x053, the section's first check (R92). -/
def lengthFault (e : SectionEntry) (unit want : Nat) : Option StepFault :=
  if e.length = want then none else some ⟨0x053, unit, 0⟩

/-- Claimants permitted for a resource (R101); `none` for a reserved resource. -/
def permittedClaimants (r : Nat) : Option (List Nat) :=
  if r = 0x1000 then some [2, 3] else if r = 0x1001 then some [6]
  else if 0x2000 ≤ r ∧ r ≤ 0x2003 then some [1, 4, 5, 6]
  else if 0x3000 ≤ r ∧ r ≤ 0x3003 then some [7, 8, 9]
  else if r = 0x4000 then some [0x0A, 0x0B] else none

/-- Divisible resources: the Bulk staging buffers of 256 units (R101). -/
def isDivisible (r : Nat) : Bool := 0x3000 ≤ r && r ≤ 0x3003

/-- An entry of the ownership map against R100, R103 and the entries before it. The detail names the resource in
[143:128] and the claimants in [151:144] and [159:152]. -/
def checkClaim (v : Nat) (earlier : List ResourceClaim) (unit : Nat) : Option StepFault :=
  let c := parseClaim v
  let holder := earlier.find? fun o => o.resource == c.resource && !isDivisible c.resource
  let sum := (earlier.filter fun o => o.resource == c.resource).foldl (fun n o => n + o.amount) c.amount
  let permitted := permittedClaimants c.resource
  let who (bit code : Nat) : Nat :=
    if code = 0x05A then
      match holder with
      | some o => if bit = 0 then o.claimant + 256 * c.claimant else if bit = 32 then c.claimant + 256 * 0xFE
                  else c.claimant + 256 * 0xFF
      | none => if bit = 32 then c.claimant + 256 * 0xFE else c.claimant + 256 * 0xFF
    else c.claimant
  faultOf (faultIf (permitted.isNone || holder.isSome) 0 0x05A ++
    faultIf (!(permitted.getD [c.claimant]).contains c.claimant) 16 0x05A ++ rsvdFault v 24 8 ++
    faultIf (isDivisible c.resource && c.amount == 0 || !isDivisible c.resource && c.amount != 0 && c.amount != 65535)
      32 0x05A ++ faultIf (isDivisible c.resource && c.amount != 65535 && sum > 256) 32 0x05B ++ allOnesFault v 32 16 ++
    rsvdFault v 48 16) unit fun bit code => if code ≥ 0x05A then c.resource + 65536 * who bit code else 0

/-- Timers a claimant holds. -/
def timersOf (rs : List ResourceClaim) (claimant : Nat) : Nat :=
  (rs.filter fun c => 0x2000 ≤ c.resource && c.resource ≤ 0x2003 && c.claimant == claimant).length

/-- Staging-buffer units of a claimant in a region (R101). -/
def stagingUnits (rs : List ResourceClaim) (claimant region : Nat) : Nat :=
  (rs.filter fun c => c.resource == 0x3000 + region && c.claimant == claimant).foldl (fun n c => n + c.amount) 0

/-- The claimant of an exclusive resource. -/
def ownerOf (rs : List ResourceClaim) (r : Nat) : Option Nat :=
  (rs.find? fun c => c.resource == r).map (·.claimant)

/-- Port B is the NVMe root port (R101, R102). -/
def ImageCfg.nvme (c : ImageCfg) : Bool := ownerOf c.resources 0x4000 == some 0x0A

/-- DIAL_CTL fields (R76). -/
def SundialCfg.det (c : SundialCfg) : Bool := flag c.ctl.toNat 0
def SundialCfg.extRef (c : SundialCfg) : Bool := flag c.ctl.toNat 1
def SundialCfg.closePolicy (c : SundialCfg) : Nat := field c.ctl.toNat 2 2
def SundialCfg.stretchQ (c : SundialCfg) : Nat := field c.ctl.toNat 4 4
def SundialCfg.stretchMax (c : SundialCfg) : Nat := field c.ctl.toNat 8 2
def SundialCfg.beatLossLimit (c : SundialCfg) : Nat := field c.ctl.toNat 16 8
def SundialCfg.lockLimit (c : SundialCfg) : Nat := field c.ctl.toNat 24 8
def SundialCfg.slackLow (c : SundialCfg) : Nat := field c.ctl.toNat 32 16
def SundialCfg.slackHigh (c : SundialCfg) : Nat := field c.ctl.toNat 48 16
/-- DIAL_LOOP fields (R76). -/
def SundialCfg.upQ (c : SundialCfg) : Nat := field c.loop.toNat 0 6
def SundialCfg.downQ (c : SundialCfg) : Nat := field c.loop.toNat 6 6
def SundialCfg.calmSteps (c : SundialCfg) : Nat := field c.loop.toNat 12 8

/-- Coordinate and valid bit of DIAL_ROOTS entry `k` (R59): x [11:8], y [7:4], z [3:0]. -/
def SundialCfg.root (c : SundialCfg) (k : Nat) : Nat × Bool :=
  (field c.roots.toNat (16 * k) 12, flag c.roots.toNat (16 * k + 15))

/-- Window-only types (R63). -/
def windowOnly (t : Nat) : Bool := t == 0x7 || t == 0x8 || t == 0xA

/-- Policies a type allows (R63): 0 drop, 1 stretch, 2 stop. -/
def typePolicies (t : Nat) : List Nat :=
  if windowOnly t then [] else if t = 0x5 ∨ t = 0xC then [1, 2] else [0, 1, 2]

/-- The resolved policy of an entry (R62). -/
def resolvedPolicy (c : SundialCfg) (e : DialEntry) : Nat := if e.policy = 3 then c.closePolicy else e.policy

/-- Whether an entry occurs in a step by its schedule (R62). -/
def DialEntry.occurs (e : DialEntry) (step : Nat) : Bool := step % (e.every + 1) == e.phase

/-- The requirements of R102 that the ownership map alone decides, then those that need the Sundial section. -/
def missingResource (unit resource claimant : Nat) (ok : Bool) : Option StepFault :=
  if ok then none else some ⟨0x05C, unit, resource + 65536 * claimant⟩

def checkResourceMap (b : ImageBytes) (es : List SectionEntry) : Option StepFault :=
  onSection es 0x06 fun u e =>
    let v := b.num e.offset 16
    let rs := parseResources b e.offset
    firstOf ([lengthFault e u (16 + 8 * (field v 64 8 + 1)), faultOf (allOnesFault v 64 8 ++ rsvdFault v 72 56) u] ++
      (rs.zipIdx.map fun c => checkClaim (b.num (e.offset + 16 + 8 * c.2) 8) (rs.take c.2) u) ++
      [missingResource u 0x2000 1 (timersOf rs 1 == 1), missingResource u 0x2000 4 (timersOf rs 4 == 1),
       missingResource u 0x2000 5 (timersOf rs 5 ≤ 1)] ++
      ((List.range 4).map fun r => missingResource u (0x3000 + r) 7 (stagingUnits rs 7 r ≥ 64)) ++
      ((List.range 4).map fun r => missingResource u (0x3000 + r) 8 (stagingUnits rs 8 r ≥ 64)))

/-- The six registers of the Sundial section, as one header structure (R90, R76, R59, R67). -/
def sundialHeaderFaults (v : Nat) (c : SundialCfg) : List (Nat × Nat) :=
  let per (pos : Nat) (p : BitVec 64) : List (Nat × Nat) :=
    faultIf (field p.toNat 0 40 < 1000000 || field p.toNat 0 40 > 10000000000) pos 0x046 ++ rsvdFault v (pos + 40) 24
  let p (r : BitVec 64) : Nat := field r.toNat 0 40
  faultIf (c.closePolicy == 3) 66 0x002 ++ faultIf (c.stretchQ > 8) 68 0x002 ++ rsvdFault v 74 6 ++
  faultIf (c.beatLossLimit == 0) 80 0x002 ++ allOnesFault v 80 8 ++ faultIf (c.lockLimit == 0) 88 0x002 ++
  allOnesFault v 88 8 ++ allOnesFault v 96 16 ++ faultIf (c.slackLow > c.slackHigh) 96 0x046 ++ allOnesFault v 112 16 ++
  faultIf (c.calmSteps == 0) 140 0x002 ++ allOnesFault v 140 8 ++ rsvdFault v 148 44 ++
  per 192 c.periodMin ++ per 256 c.periodMax ++ per 320 c.periodInit ++
  faultIf (p c.periodMin > p c.periodInit) 192 0x046 ++ faultIf (p c.periodInit > p c.periodMax) 320 0x046 ++
  faultIf (!(c.root 0).2) 399 0x046 ++ rsvdFault v 396 3 ++ rsvdFault v 412 3 ++ rsvdFault v 428 3 ++ rsvdFault v 444 3 ++
  rsvdFault v 458 54

/-- A dial table entry (R62, R64, R67). -/
def dialEntryFaults (v : Nat) (c : SundialCfg) : List (Nat × Nat) :=
  let e := parseDialEntry v
  let allRegions := [0x4, 0x6, 0x8, 0xA, 0xB, 0xC].contains e.type
  genFault v ++ faultIf (e.type == 0 || e.type > 0xC) 4 0x002 ++ faultIf (e.opens > e.closes) 8 0x046 ++
  faultIf (if windowOnly e.type then e.policy != 0 else !(typePolicies e.type).contains (resolvedPolicy c e)) 40 0x046 ++
  faultIf (allRegions && e.regions != 0xF) 42 0x046 ++ rsvdFault v 46 2 ++ allOnesFault v 48 16 ++
  faultIf (e.phase > e.every) 48 0x046 ++
  (if e.type = 0x4 then faultIf (field e.param 0 2 == 3) 80 0x002 ++ rsvdFault v 83 29
   else if e.type = 0x6 then faultIf (field e.param 0 2 == 3) 80 0x002 ++ rsvdFault v 82 30
   else if e.type = 0x8 then rsvdFault v 87 25 else rsvdFault v 80 32) ++ rsvdFault v 112 16

/-- Whether an entry drains to a target (R64). -/
def DialEntry.drainsTo (e : DialEntry) (target : Nat) : Bool := e.type == 0x6 && field e.param 0 2 == target

def checkSundial (b : ImageBytes) (es : List SectionEntry) : Option StepFault :=
  onSection es 0x02 fun u e =>
    let v := b.num e.offset 64
    let c := parseSundial b e.offset
    let rs := (findSection es 0x06).elim [] fun r => parseResources b r.2.offset
    let ru := (findSection es 0x06).elim 0xFFFF (·.1)
    let syncIn := ownerOf rs 0x1001 == some 6
    firstOf ([lengthFault e u (64 + 16 * (field v 448 10 + 1)),
        faultOf (sundialHeaderFaults v c) u fun bit code =>
          if code = 0x046 then 0xFFFF + 65536 * (bit / 64 - 1) else 0] ++
      (c.table.zipIdx.map fun t =>
        faultOf (dialEntryFaults (b.num (e.offset + 64 + 16 * t.2) 16) c) u fun _ code => if code = 0x046 then t.2 else 0) ++
      [missingResource ru 0x1001 6 (syncIn == c.extRef),
       missingResource ru 0x2000 6 (timersOf rs 6 == bit c.extRef),
       missingResource ru 0x4000 0x0A (ownerOf rs 0x4000 == some 0x0A || !c.table.any (·.drainsTo 1))])

/-- Whether a coordinate lies in the torus shape (R36). -/
def inShape (h : ImageHeader) (x y z : Nat) : Bool := x ≤ h.shapeA && y ≤ h.shapeB && z ≤ h.shapeC

def checkPlacement (b : ImageBytes) (h : ImageHeader) (es : List SectionEntry) (d : DeviceFacts) : Option StepFault :=
  onSection es 0x0A fun u e =>
    let v := b.num e.offset 16
    let ps := parsePlacements b e.offset
    firstOf ([lengthFault e u (16 + 16 * (field v 64 12 + 1)), faultOf (rsvdFault v 76 52) u] ++
      (ps.zipIdx.map fun p =>
        let w := b.num (e.offset + 16 + 16 * p.2) 16
        faultOf (faultIf (p.1.x > h.shapeA) 64 0x059 ++ faultIf (p.1.y > h.shapeB) 68 0x059 ++
          faultIf (p.1.z > h.shapeC) 72 0x059 ++ rsvdFault w 76 52) u) ++
      [if ps.zipIdx.any (fun p => (ps.take p.2).any fun o => o.x == p.1.x && o.y == p.1.y && o.z == p.1.z) ||
          (ps.filter fun p => p.fingerprint == d.fingerprint).length != 1
       then some ⟨0x059, u, 0⟩ else none])

def checkUnits (b : ImageBytes) (es : List SectionEntry) (d : DeviceFacts) : Option StepFault :=
  onSection es 0x0C fun u e =>
    let us := parseUnits b e.offset
    let bad (r blk : Nat) : Nat := r + 4 * blk
    let spareLost (active : Nat) (n : Nat) (failed : Nat → Bool) : Bool :=
      let used := (List.range n).filter fun i => active.testBit i && failed i
      let spare := (List.range n).filter fun i => !active.testBit i && !failed i
      used.length > spare.length
    firstOf ([lengthFault e u 136] ++
      (us.zipIdx.map fun r =>
        let v := b.num (e.offset + 8 + 32 * r.2) 32
        faultOf (faultIf (popCount r.1.blocks 9 != 8) 0 0x069 ++ rsvdFault v 9 7 ++
          faultIf (popCount r.1.spouts 9 != 8) 16 0x069 ++ rsvdFault v 25 7 ++
          (r.1.cells.zipIdx.flatMap fun c => faultIf (popCount c.1 17 != 16) (32 + 17 * c.2) 0x069) ++
          rsvdFault v 185 71) u
          fun bit code => if code = 0x069 then bad r.2 (if bit < 32 then 15 else (bit - 32) / 17) else 0) ++
      (us.zipIdx.map fun r =>
        if spareLost r.1.blocks 9 (fun i => d.failedBlocks.contains (r.2, i)) ||
           spareLost r.1.spouts 9 (fun i => d.failedSpouts.contains (r.2, i)) then some ⟨0x069, u, bad r.2 15⟩
        else (r.1.cells.zipIdx.find? fun c => spareLost c.1 17 fun i => d.failedCells.contains (r.2, c.2, i)).map
          fun c => ⟨0x069, u, bad r.2 c.2⟩))

def checkPolicy (b : ImageBytes) (es : List SectionEntry) : Option StepFault :=
  onSection es 0x0B fun u e =>
    let v := b.num e.offset 16
    let p := parsePolicy v
    faultOf (faultIf (p.refuseAfter == 0 || p.refuseAfter == 15) 64 0x002 ++ rsvdFault v 70 2 ++
      faultIf (p.skipStarts == 0 || p.skipStarts == 255) 72 0x002 ++ rsvdFault v 81 47) u

/-- The unit a hint names exists (R105). -/
def hintUnitOk (h : TrainingHint) : Bool :=
  match h.kind with
  | 1 => h.unit ≤ 7
  | 2 => field h.unit 5 3 ≤ 5 && field h.unit 0 3 ≤ 4 && field h.unit 3 2 == 0
  | 3 => h.unit ≤ 2
  | _ => h.unit ≤ 1

def checkHints (b : ImageBytes) (es : List SectionEntry) : Option StepFault :=
  onSection es 0x07 fun u e =>
    firstOf ((if e.length % 16 = 8 then none else some ⟨0x053, u, 0⟩) ::
      ((parseHints b e).zipIdx.map fun h =>
        let v := b.num (e.offset + 8 + 16 * h.2) 16
        faultOf (faultIf (h.1.kind == 0 || h.1.kind > 4) 0 0x002 ++ rsvdFault v 4 4 ++
          faultIf (!hintUnitOk h.1) 8 0x002 ++ allOnesFault v 16 8 ++ rsvdFault v 26 102) u))

/-- Bytes of a 128 KiB unit (R384). -/
def partUnit : Nat := 131072

/-- First byte and length of a partition in its tier (R384). -/
def Partition.start (p : Partition) : Nat := p.base * partUnit
def Partition.len (p : Partition) : Nat := (p.size + 1) * partUnit

/-- The largest offset range of a tier on the KT1 (R35), before the installed capacity is known. -/
def tierLimit (tier : Nat) : Nat :=
  match tier with
  | 0 => 2 ^ 35
  | 1 => 2 ^ 40
  | 2 => 2 ^ 41
  | 3 => 2 ^ 41
  | 4 => 2 ^ 32
  | _ => 2 ^ 32

/-- Whether an extent lies inside one partition of its tier (R128). -/
def inPartition (ps : List Partition) (tier off len : Nat) : Bool :=
  ps.any fun p => p.tier == tier && p.start ≤ off && off + len ≤ p.start + p.len

/-- Whether it lies inside one Keep partition (R386). -/
def inKeep (ps : List Partition) (tier off len : Nat) : Bool :=
  ps.any fun p => p.keep && p.tier == tier && p.start ≤ off && off + len ≤ p.start + p.len

/-- The tier and keep rules of the roles (R385). -/
def roleOk (p : Partition) : Bool :=
  match p.role with
  | 0 => !(p.keep && 2 ≤ p.tier)
  | 1 => p.tier == 0 && !p.keep
  | 2 => p.tier ≤ 1 && !p.keep
  | 3 => p.tier == 1 && !p.keep
  | 4 => p.tier == 1 && !p.keep
  | 5 => p.tier == 1 && p.keep && p.len ≥ 64 * 2 ^ 20
  | _ => p.tier ≤ 1 && p.keep

def partitionFaults (v : Nat) (nvme : Bool) (earlier : List Partition) : List (Nat × Nat) :=
  let p := parsePartition v
  genFault v ++ faultIf (p.tier > 3 || p.tier == 3 && nvme) 4 0x010 ++ rsvdFault v 10 6 ++
  faultIf (p.role > 6) 16 0x002 ++
  faultIf (p.role ≤ 6 && (!roleOk p || p.role != 0 && earlier.any fun o => o.role == p.role)) 16 0x0F0 ++
  rsvdFault v 20 12 ++
  faultIf (p.tier ≤ 3 && p.size != 2 ^ 25 - 1 && p.start + p.len > tierLimit p.tier) 32 0x012 ++
  faultIf (earlier.any fun o => o.tier == p.tier && p.start < o.start + o.len && o.start < p.start + p.len) 32 0x0F0 ++
  rsvdFault v 56 8 ++ allOnesFault v 64 25 ++ rsvdFault v 89 7 ++
  faultIf (p.share > p.ceiling + 1 ||
    (earlier.filter fun o => o.tier == p.tier).foldl (fun n o => n + o.share) p.share > 192) 96 0x0F0 ++
  allOnesFault v 112 16 ++ faultIf (p.ceCapacity == 0) 128 0x002 ++ allOnesFault v 128 16 ++ allOnesFault v 144 16 ++
  rsvdFault v 160 32

/-- A role that R385 requires and no entry holds (R386). -/
def missingRole (unit : Nat) (ps : List Partition) (role : Nat) (needed : Bool) : Option StepFault :=
  if needed && !ps.any (fun p => p.role == role) then some ⟨0x0F0, unit, 0xFFFF + 65536 * role⟩ else none

def checkPartMap (b : ImageBytes) (es : List SectionEntry) : Option StepFault :=
  onSection es 0x05 fun u e =>
    let v := b.num e.offset 64
    let m := parsePartMap b e.offset
    let rs := (findSection es 0x06).elim [] fun r => parseResources b r.2.offset
    let ru := (findSection es 0x06).elim 0xFFFF (·.1)
    let dial := (findSection es 0x02).elim [] fun r => (parseSundial b r.2.offset).table
    firstOf ([lengthFault e u (64 + 32 * (field v 64 6 + 1)),
        faultOf (allOnesFault v 70 6 ++ rsvdFault v 76 4 ++ faultIf (m.scrubTick < 16) 80 0x002 ++ allOnesFault v 80 16 ++
          rsvdFault v 96 416) u] ++
      (m.parts.zipIdx.map fun p =>
        faultOf (partitionFaults (b.num (e.offset + 64 + 32 * p.2) 32) (ownerOf rs 0x4000 == some 0x0A) (m.parts.take p.2))
          u fun _ code => if code = 0x0F0 then p.2 else 0) ++
      [missingRole u m.parts 4 true, missingRole u m.parts 5 true, missingRole u m.parts 6 (dial.any (·.drainsTo 0)),
       missingResource ru 0x4000 0x0B (ownerOf rs 0x4000 == some 0x0B || !m.parts.any fun p => p.tier == 3)])

/-- The kind's settings (R155), from format on. -/
def tableKindFaults (t : TableDesc) : List (Nat × Nat) :=
  let bad (c : Bool) (pos : Nat) := faultIf c pos 0x083
  match t.kind with
  | 1 => bad (t.format == 0xC) 16 ++ bad (t.split != 0) 52
  | 2 => bad (t.format == 0xC) 16 ++ bad (t.cooler == 2) 28 ++ bad t.versions 49 ++ bad (t.split != 0) 52
  | 3 => bad (t.format != 0xC) 16 ++ bad (t.rowUnits != 0) 20 ++ bad (t.cooler != 0) 28 ++ bad (t.cols != 0) 32 ++
      bad t.migrate 48 ++ bad (t.default != 0) 192
  | _ => bad (t.format != 1 && t.format != 3) 16 ++ bad (t.cooler != 0) 28 ++ bad t.versions 49 ++ bad (t.split != 0) 52

/-- Row size in bytes (R157). -/
def TableDesc.rowBytes (t : TableDesc) : Nat := (t.rowUnits + 1) * 64

def tableFaults (v : Nat) (earlier : List TableDesc) (ps : List Partition) : List (Nat × Nat) :=
  let t := parseTableDesc v
  let hot := ps[t.hotPart]?
  let fmtOk := 1 ≤ t.format && t.format ≤ 0xC
  genFault v ++ faultIf (t.kind == 0 || t.kind > 4) 4 0x002 ++ faultIf (earlier.any fun o => o.id == t.id) 8 0x083 ++
  faultIf (!fmtOk) 16 0x002 ++ faultIf (t.rowUnits > 63) 20 0x002 ++ rsvdFault v 27 1 ++ faultIf (t.cooler == 3) 28 0x002 ++
  faultIf (t.invalid > 1) 30 0x002 ++ allOnesFault v 32 16 ++ rsvdFault v 51 1 ++ allOnesFault v 52 12 ++
  (if fmtOk && 1 ≤ t.kind && t.kind ≤ 4 then tableKindFaults t ++
    faultIf (t.kind != 3 && t.rowUnits ≤ 63 && rowSize t.format 0 (t.cols + 1) > t.rowBytes) 20 0x083 else []) ++
  faultIf (t.cooler != 0 && t.rowBytes > 1024) 20 0x083 ++
  faultIf (t.migrate && t.promote == 0) 48 0x083 ++ rsvdFault v 108 20 ++
  faultIf (t.vbDelta % 64 != 0 || !t.versions && t.vbDelta != 0) 128 0x083 ++ rsvdFault v 176 16 ++
  faultIf (t.invalid != 1 && t.default != 0 || field t.default 52 12 != 0 || field t.default 48 4 > 1) 192 0x083 ++
  faultIf (field t.default 48 4 ≤ 1 && field t.default 0 48 ≥ tierLimit (field t.default 48 4)) 192 0x012 ++
  faultIf (if t.migrate then !(hot.any fun p => p.tier == 0 && (t.kind != 2 || p.keep)) else t.hotPart != 0) 256 0x083 ++
  rsvdFault v 264 248

def checkTables (b : ImageBytes) (es : List SectionEntry) : Option StepFault :=
  onSection es 0x04 fun u e =>
    let v := b.num e.offset 64
    let n := field v 64 8 + 1
    let ts := (List.range n).map fun i => parseTableDesc (b.num (e.offset + 64 + 64 * i) 64)
    let ps := (findSection es 0x05).elim [] fun r => (parsePartMap b r.2.offset).parts
    let rs := (findSection es 0x06).elim [] fun r => parseResources b r.2.offset
    let ru := (findSection es 0x06).elim 0xFFFF (·.1)
    firstOf ([lengthFault e u (64 + 64 * n), faultOf (rsvdFault v 72 440) u] ++
      (ts.zipIdx.map fun t => faultOf (tableFaults (b.num (e.offset + 64 + 64 * t.2) 64) (ts.take t.2) ps) u) ++
      ((List.range 4).map fun r =>
        missingResource ru (0x3000 + r) 9 (stagingUnits rs 9 r ≥ 16 || !ts.any (·.migrate))))

/-- Entry `i` of a layout ends where the next entry of its table begins, or at the node count (R162). -/
def shardRange (l : List ShardEntry) (nodes i : Nat) : Nat :=
  match l[i]?, l[i + 1]? with
  | some e, some f => if f.table = e.table then f.first - e.first else nodes - e.first
  | some e, none => nodes - e.first
  | none, _ => 0

/-- Bytes of the extent of a Shard Map entry (R163): rows, or an offset array. -/
def extentBytes (t : TableDesc) (range : Nat) : Nat := range * (if t.kind = 3 then 8 else t.rowBytes)

/-- One entry against R161, R163 and the entry before it. -/
def shardEntryFaults (v : Nat) (h : ImageHeader) (nvme : Bool) (ts : List TableDesc) (prev : Option ShardEntry) :
    List (Nat × Nat) :=
  let e := parseShardEntry v
  let t := ts.find? fun t => t.id == e.table
  let isAdj := t.any fun t => t.kind == 3
  let firstOfTable := prev.all fun p => p.table != e.table
  let key (e : ShardEntry) := e.table * 2 ^ 40 + e.first
  let badTier (k : Nat) : Bool := k > 3 || k == 3 && nvme
  genFault v ++ rsvdFault v 6 2 ++ faultIf (t.isNone || prev.any fun p => key p ≥ key e) 8 0x082 ++
  faultIf (firstOfTable && e.first != 0 || t.any fun t => e.first > t.nodes) 16 0x082 ++ rsvdFault v 56 8 ++
  faultIf ((e.xOwn || e.hole) && e.x != 0) 64 0x082 ++ faultIf (e.x > h.shapeA) 64 0x011 ++
  faultIf (e.hole && e.y != 0) 68 0x082 ++ faultIf (e.y > h.shapeB) 68 0x011 ++
  faultIf (e.hole && e.z != 0) 72 0x082 ++ faultIf (e.z > h.shapeC) 72 0x011 ++
  faultIf (badTier e.tier) 76 0x010 ++ faultIf (e.hole && e.tier != 0) 76 0x082 ++
  faultIf (e.base % 64 != 0) 80 0x082 ++ faultIf (e.tier ≤ 3 && e.base ≥ tierLimit e.tier) 80 0x012 ++
  faultIf (badTier e.auxTier) 128 0x010 ++ faultIf (!isAdj && e.auxTier != 0) 128 0x082 ++ rsvdFault v 132 12 ++
  faultIf (!isAdj && e.aux != 0 || e.aux % 8 != 0) 144 0x082 ++
  faultIf (e.auxTier ≤ 3 && e.aux ≥ tierLimit e.auxTier) 144 0x012 ++ rsvdFault v 192 64

/-- The extent of an entry lies inside one partition, a Keep partition for trainable tables, in each version (R163,
R386). -/
def shardExtentOk (ps : List Partition) (ts : List TableDesc) (l : List ShardEntry) (i : Nat) : Bool :=
  match l[i]? with
  | none => true
  | some e =>
    match ts.find? fun t => t.id == e.table with
    | none => true
    | some t =>
      let len := extentBytes t (shardRange l (t.nodes + 1) i)
      let ok (off : Nat) : Bool :=
        if t.kind = 2 ∨ t.kind = 4 then inKeep ps e.tier off len else inPartition ps e.tier off len
      e.hole || (ok e.base && (!t.versions || ok (e.base + t.vbDelta)))

def checkShardMap (b : ImageBytes) (h : ImageHeader) (es : List SectionEntry) : Option StepFault :=
  onSection es 0x03 fun u e =>
    let v := b.num e.offset 128
    let n := layouts b e.offset
    let ls := parseLayouts b e.offset
    let ts := (findSection es 0x04).elim [] fun r =>
      (List.range (field (b.num (r.2.offset + 8) 1) 0 8 + 1)).map fun i => parseTableDesc (b.num (r.2.offset + 64 + 64 * i) 64)
    let ps := (findSection es 0x05).elim [] fun r => (parsePartMap b r.2.offset).parts
    let rs := (findSection es 0x06).elim [] fun r => parseResources b r.2.offset
    let ru := (findSection es 0x06).elim 0xFFFF (·.1)
    let nvme := ownerOf rs 0x4000 == some 0x0A
    let named (k i code : Nat) : Nat := if code = 0x082 then i + 65536 * k else 0
    let records := (List.range 8).map fun k =>
      let r := field v (512 + 64 * k) 64
      if k < n then faultOf (rsvdFault r 16 48) u else faultOf (rsvdFault r 0 64) u
    let own := ls.zipIdx.flatMap fun l => l.1.zipIdx.map fun s =>
      faultOf (shardEntryFaults (b.num (shardEntryAt b e.offset l.2 s.2) 32) h nvme ts
        (if s.2 = 0 then none else l.1[s.2 - 1]?)) u fun _ code => named l.2 s.2 code
    let extents := ls.zipIdx.flatMap fun l => (List.range l.1.length).map fun i =>
      if shardExtentOk ps ts l.1 i then none else some (StepFault.mk 0x082 u (named l.2 i 0x082))
    let covered := ls.zipIdx.map fun l =>
      if ts.all fun t => l.1.any fun s => s.table == t.id then none
      else some (StepFault.mk 0x082 u (named l.2 (l.1.length - 1) 0x082))
    firstOf ([lengthFault e u (128 + 32 * entriesBefore b e.offset n), faultOf (rsvdFault v 67 445) u] ++ records ++ own ++
      extents ++ covered ++
      ((List.range 4).map fun r => missingResource ru (0x3000 + r) 9 (stagingUnits rs 9 r ≥ 16 || n == 1)))

end Sys2Proof.Machine
end

