-- ==== Sys2Proof/Machine/SlotShape.lean ====
section
/-! DEFINITION. What a job slot's operations read and write (R124, R126), operand sizes (R128–R130, R192), gradient
companions and dW staging (R291, R296), kept forward values (R301), checkpoint set layout (R447). -/

namespace Sys2Proof.Machine

/-- The index that means "no operand" (R133). -/
def noOperand : Nat := 0xFFF

/-- Opcode of a body (R123). -/
def OpBody.opcode : OpBody → Nat
  | .sample .. => 0x01
  | .gather .. => 0x02
  | .aggregate _ => 0x03
  | .transform _ => 0x04
  | .activate .. => 0x05
  | .normalise _ => 0x06
  | .loss .. => 0x07
  | .optimize _ => 0x08
  | .reduce .. => 0x09
  | .spout .. => 0x0A
  | .fill .. => 0x0B
  | .tableSwitch .. => 0x0C
  | .intake _ => 0x0D

/-- Operands a forward instance reads, each with the bit of its field. SPOUT code may read every argument (R139). -/
def Op.readFields (o : Op) : List (Nat × Nat) :=
  match o.body with
  | .sample _ seeds _ _ => if o.eval then [] else [(76, seeds)]
  | .gather lists _ table _ => [(64, lists), (80, table)]
  | .aggregate a => [(64, a.trail), (80, a.src)]
  | .transform t => [(64, t.inA), (76, t.w), (100, t.pre), (140, t.mask)]
  | .activate i _ _ => [(64, i)]
  | .normalise n => [(64, n.inp), (88, n.affine)]
  | .loss l t _ _ _ => [(64, l), (76, t)]
  | .optimize p => [(64, p.target), (76, p.grad), (88, p.state1), (100, p.state2), (112, p.consts)]
  | .reduce t _ _ _ => [(64, t)]
  | .spout _ args _ => (List.range 4).zip args |>.map fun a => (96 + 12 * a.1, a.2)
  | .fill .. => []
  | .tableSwitch .. => []
  | .intake r => [(64, r)]

/-- Operands a forward instance writes, each with the bit of its field. SPOUT code may write every argument. -/
def Op.writeFields (o : Op) : List (Nat × Nat) :=
  match o.body with
  | .sample _ _ lists trail => [(88, lists), (100, trail)]
  | .gather _ _ _ out => [(92, out)]
  | .aggregate a => [(92, a.out)]
  | .transform t => [(88, t.out)]
  | .activate _ out _ => [(76, out)]
  | .normalise n => [(76, n.out)]
  | .loss _ _ g _ _ => [(88, g)]
  | .optimize p => [(64, p.target), (88, p.state1), (100, p.state2)]
  | .reduce t _ _ _ => [(64, t)]
  | .spout _ args _ => (List.range 4).zip args |>.map fun a => (96 + 12 * a.1, a.2)
  | .fill t _ => [(64, t)]
  | .tableSwitch .. => []
  | .intake _ => []

def Op.reads (o : Op) : List Nat := (o.readFields.map (·.2)).filter (· != noOperand)
def Op.writes (o : Op) : List Nat := (o.writeFields.map (·.2)).filter (· != noOperand)

/-- Accumulated gradient operands an operation's backward part adds into at commit (R126, R297). -/
def Op.gradFields (o : Op) : List (Nat × Nat) :=
  match o.body with
  | .transform t => [(128, t.grad), (160, t.preGrad)].filter fun g => g.2 != noOperand
  | .normalise n => [(144, n.affineGrad)].filter fun g => g.2 != noOperand
  | _ => []

/-- The operand whose gradient companion a backward part reads as output gradient (R291). -/
def Op.gradIn (o : Op) : Option Nat :=
  if !o.bwd then none else
  match o.body with
  | .gather _ _ _ out => some out
  | .aggregate a => some a.out
  | .transform t => some t.out
  | .activate _ out _ => some out
  | .normalise n => some n.out
  | _ => none

/-- The SAMPLE of a pass, training or evaluation, that writes a list or trail operand. -/
def JobSlot.samplerOf (s : JobSlot) (eval : Bool) (i : Nat) : Option (Nat × Op × BasketDesc) :=
  s.ops.zipIdx.findSome? fun o => match o.1.body with
    | .sample b _ lists trail => if o.1.eval = eval ∧ (lists = i ∨ trail = i) then some (o.2, o.1, s.basketOf b) else none
    | _ => none

/-- Operand `i` of a slot is of a kind. -/
def JobSlot.isKind (s : JobSlot) (i k : Nat) : Bool := (s.operand i).any fun x => x.kind == k

/-- The operands whose companions a backward part writes (R140, R291, R292). DEDUCED: a residual preload returns no gradient,
since R140 gives a TRANSFORM two products and R293 no other write (log entry 24). -/
def JobSlot.gradOut (s : JobSlot) (o : Op) : List Nat :=
  if !o.bwd then [] else
  (match o.body with
  | .aggregate a => [a.src]
  | .transform t => if t.noDx then [] else [t.inA]
  | .activate i _ _ => [i]
  | .normalise n => [n.inp]
  | _ => []).filter fun i => s.isKind i 3

/-- The kind 3 operands a backward part reads as forward values (R293, R301). -/
def JobSlot.forwardValues (s : JobSlot) (o : Op) : List Nat :=
  if !o.bwd then [] else
  (match o.body with
  | .aggregate a => if a.func ≥ 2 then [a.out] else []
  | .transform t => (if t.frozen then [] else [t.inA]) ++ (if [1, 2, 5, 6].contains t.act || t.acc ≠ 0 then [t.out] else [])
  | .activate i out f => if f = 3 ∨ f = 4 then [i] else [out]
  | .normalise n => [n.inp]
  | _ => []).filter fun i => s.isKind i 3

/-- A TRANSFORM whose pre-activation is stashed (R294). -/
def Op.stashesPre (o : Op) : Bool :=
  o.bwd && match o.body with
  | .transform t => t.act == 3 || t.act == 4
  | _ => false

/-- How a forward value is kept for the backward pass (R301). -/
inductive Kept where
  | stash
  | regather
  | copy
  deriving DecidableEq, Repr

/-- R301's table: AGGREGATE.out by its keep field, any other operand by its tier. -/
def JobSlot.keptBy (s : JobSlot) (i : Nat) : Kept :=
  match s.ops.findSome? fun o => match o.body with
      | .aggregate a => if a.out = i then some a.keep else none
      | _ => none with
  | some 1 => .regather
  | some 2 => .copy
  | some _ => .stash
  | none => if (s.operand i).any fun x => field x.base 48 4 == 4 then .stash else .copy

/-- Operands read by some backward part and kept by stash. -/
def JobSlot.stashed (s : JobSlot) : List Nat :=
  ((s.ops.flatMap s.forwardValues).eraseDups).filter fun i => s.keptBy i = .stash

/-- Entry size of a packed SAMPLE list or trail operand (R192); none for a row operand. -/
def JobSlot.packed (s : JobSlot) (i : Nat) : Option Nat :=
  s.ops.findSome? fun o => match o.body with
    | .sample _ _ lists trail => if lists = i then some 8 else if trail = i then some 16 else none
    | _ => none

/-- Bytes from row to row (R127, R192). -/
def JobSlot.rowStride (s : JobSlot) (i : Nat) (x : Operand) : Nat :=
  match s.packed i with
  | some n => n
  | none => if x.stride = 0 then rowSize x.format x.sparsity (x.cols + 1) else x.stride

/-- Winner indices follow an operand's values (R228); those of a TRANSFORM with acc 1 or 2 where its out has room for them (R271). -/
def JobSlot.hasWinners (j : JobSlot) (i : Nat) : Bool :=
  j.ops.any fun o => match o.body with
    | .aggregate a => o.bwd && a.out == i && decide (2 ≤ a.func)
    | .transform q => q.out == i && q.acc != 0 && (j.operand i).any fun x => decide (rowSize x.format x.sparsity (x.cols + 1) + 4 * (x.cols + 1) ≤ j.rowStride i x)
    | _ => false

/-- Bytes of one copy (R128). -/
def JobSlot.copyBytes (s : JobSlot) (i : Nat) (x : Operand) : Nat := (x.rows + 1) * s.rowStride i x

/-- Bytes of the whole extent from a base (R128). -/
def JobSlot.extentLen (s : JobSlot) (i : Nat) (x : Operand) : Nat :=
  s.copyBytes i x * (if x.kind = 3 then x.copies + 1 else 1)

/-- Size of one companion copy: FP32 rows of the operand's columns (R291). -/
def companionBytes (x : Operand) : Nat := (x.rows + 1) * rowSize 1 0 (x.cols + 1)

/-- The operand LOSS.grad that stands for the companion of logits (R291). -/
def JobSlot.lossGradOf (s : JobSlot) (i : Nat) : Option Nat :=
  s.ops.findSome? fun o => match o.body with
    | .loss l _ g _ _ => if l = i ∧ g ≠ noOperand then some g else none
    | _ => none

/-- Operands with a companion in the gradient partition, in ascending index (R291). -/
def JobSlot.companions (s : JobSlot) : List Nat :=
  (List.range s.operands.length).filter fun i =>
    s.isKind i 3 && (s.lossGradOf i).isNone &&
      s.ops.any fun o => o.gradIn == some i || (s.gradOut o).contains i

/-- Bytes of one dW staging copy of an operation (R296); 0 without a staging area. -/
def JobSlot.stagingBytes (s : JobSlot) (o : Op) : Nat :=
  if !o.bwd then 0 else
  match o.body with
  | .transform t =>
    match s.operand t.w with
    | some w => if t.frozen then 0 else
        roundUp ((w.rows + 1) * (w.cols + 1) * 4) 64 + (if t.preGrad = noOperand then 0 else roundUp ((w.rows + 1) * 4) 64)
    | none => 0
  | .normalise n =>
    match s.operand n.affineGrad with
    | some g => 2 * roundUp ((g.cols + 1) * 4) 64
    | none => 0
  | _ => 0

/-- Copies of a staging area: those of out (R296). -/
def JobSlot.stagingCopies (s : JobSlot) (o : Op) : Nat :=
  (o.gradIn.bind s.operand).elim 0 fun x => x.copies + 1

/-- The gradient partition's layout (R291): companions by operand, then staging areas by operation; each with its
offset from the partition's start and its size. -/
def JobSlot.gradLayout (s : JobSlot) : List (Nat × Nat × Nat) × List (Nat × Nat × Nat) × Nat :=
  let place (acc : List (Nat × Nat × Nat) × Nat) (k size : Nat) := (acc.1 ++ [(k, acc.2, size)], roundUp (acc.2 + size) 64)
  let cs := s.companions.foldl (fun acc i =>
    place acc i ((s.operand i).elim 0 fun x => companionBytes x * (x.copies + 1))) ([], 0)
  let ss := s.ops.zipIdx.foldl (fun acc o =>
    let n := s.stagingBytes o.1
    if n = 0 then acc else place acc o.2 (n * s.stagingCopies o.1)) ([], cs.2)
  (cs.1, ss.1, ss.2)

/-- A table's descriptor by ID. -/
def findTable (ts : List TableDesc) (id : Nat) : Option TableDesc := ts.find? fun t => t.id == id

/-- The table of a kind 4 operand. -/
def JobSlot.tableOf (s : JobSlot) (ts : List TableDesc) (i : Nat) : Option TableDesc :=
  (s.operand i).bind fun x => if x.kind = 4 then findTable ts x.table else none

/-- Operations whose return trail folds into slots of the return partition (R235, R385). -/
def JobSlot.returnsTo (s : JobSlot) (ts : List TableDesc) (o : Op) : Option TableDesc :=
  if !o.bwd then none else
  (match o.body with
  | .gather _ _ t _ => s.tableOf ts t
  | .aggregate a => s.tableOf ts a.src
  | _ => none).filter fun t => t.kind == 2

/-- Whether an operation writes an operand that another reads (R124, R126): in its forward part, by its commits into a gradient
(R297), or by its return sweep into the slots a sparse-row combine or a table's update reads (R236). -/
def JobSlot.feeds (s : JobSlot) (ts : List TableDesc) (w o : Op) : Bool :=
  (w.writes ++ w.gradFields.map (·.2)).any o.reads.contains ||
    (s.returnsTo ts w).any fun t => match o.body with
      | .reduce _ op _ _ => op == 3
      | .optimize p => (s.tableOf ts p.target).any fun u => u.id == t.id
      | _ => false

/-- An instance of one operation waits for instances of the other (R124): they belong to one pass, or one of them is not per
micro-batch. -/
def Op.meets (w o : Op) : Bool := w.eval == o.eval || w.scope != 0 || o.scope != 0

/-- The operand whose tile rows or Spring rows an instance accumulates into in issue order (R81, R274): sums of a TRANSFORM, any
function of an AGGREGATE. -/
def Op.ordered (o : Op) : Option Nat :=
  match o.body with
  | .transform t => if t.acc = 0 then some t.out else none
  | .aggregate a => some a.out
  | _ => none

/-- With det = 1, the predecessor that R81 orders before a forward part: the nearest earlier operation that accumulates into the same
operand. DEDUCED: max and min TRANSFORMs have none, since they keep interleaving (R274, log entry 27). -/
def JobSlot.predecessor (s : JobSlot) (det : Bool) (j : Nat) (o : Op) : Option Nat :=
  if !det then none else
  o.ordered.bind fun x => (List.range j).reverse.find? fun i => (s.ops[i]?).any fun w => w.eval == o.eval && w.ordered == some x

/-- The operations of lower index whose completion a forward part waits for, in ascending index (R124, R328): writers of what it
reads, pred, and with det = 1 its predecessor. -/
def JobSlot.forwardDeps (s : JobSlot) (ts : List TableDesc) (det : Bool) (j : Nat) (o : Op) : List Nat :=
  (List.range j).filter fun i =>
    s.predecessor det j o == some i || (s.ops[i]?).any fun w => w.meets o && (s.feeds ts w o || i == o.pred)

/-- The operation that writes a kept value last: its stash point (R302). -/
def JobSlot.lastWriter (s : JobSlot) (i : Nat) : Nat :=
  ((s.ops.zipIdx.filter fun w => w.1.scope == 0 && !w.1.eval && w.1.writes.contains i).map (·.2)).foldl max 0

/-- What the flag bits of a backward part stand for, in ascending operation index (R299, R328): its forward instance; each part of
higher index that writes a companion it reads or writes (R292), among them the LOSS whose grad it is (R291); each stashed or
re-gathered value, at the operation that writes it. -/
def JobSlot.backwardDeps (s : JobSlot) (j : Nat) (o : Op) : List Dep :=
  let mine := o.gradIn.toList ++ s.gradOut o
  (List.range s.ops.length).flatMap fun i =>
    (if i = j then [Dep.part j false]
     else if i < j then []
     else (s.ops[i]?).elim [] fun w =>
       if (s.gradOut w).any mine.contains then [Dep.part i true]
       else match w.body with
         | .loss l _ x _ _ => if mine.contains l ∧ x ≠ noOperand then [Dep.part i false] else []
         | _ => []) ++
    (((s.forwardValues o).eraseDups.filter fun v => s.keptBy v != .copy && s.lastWriter v == i).map fun v => Dep.kept v false) ++
    (if i = j && o.stashesPre then [Dep.kept j true] else [])

/-- The INTAKE's ring (R136, R142). -/
def JobSlot.ring (s : JobSlot) : Option Nat :=
  s.ops.findSome? fun o => match o.body with
    | .intake r => some r
    | _ => none

/-- Offset of the dense objects in a checkpoint set: header, schedule record, seed block (R447). -/
def JobSlot.seedBytes (s : JobSlot) : Nat :=
  if s.header.seedSource then 0 else
  match s.ring.bind fun r => (s.operand r).map fun x => s.rowStride r x with
  | some n => roundUp n 4096
  | none => 0

/-- Kind 2 operands with their object sizes, in ascending index (R447). -/
def JobSlot.denseObjects (s : JobSlot) : List (Nat × Nat) :=
  s.operands.zipIdx.filterMap fun x =>
    if x.1.kind = 2 then some (x.2, roundUp ((x.1.rows + 1) * rowSize x.1.format x.1.sparsity (x.1.cols + 1)) 4096)
    else none

/-- Table objects of a layout: the entries of kind 2 and 4 tables a device owns, with their sizes (R444, R447). -/
def tableObjects (ts : List TableDesc) (l : List ShardEntry) (x y z : Nat) : List (ShardEntry × Nat × Nat) :=
  l.zipIdx.filterMap fun e =>
    match findTable ts e.1.table with
    | some t =>
      if (t.kind = 2 ∨ t.kind = 4) ∧ ¬ e.1.hole ∧ (e.1.xOwn ∨ e.1.x = x) ∧ e.1.y = y ∧ e.1.z = z then
        some (e.1, shardRange l (t.nodes + 1) e.2, roundUp (shardRange l (t.nodes + 1) e.2 * t.rowBytes) 4096)
      else none
    | none => none

/-- End offset of a set under one layout (R447). -/
def JobSlot.setEnd (s : JobSlot) (ts : List TableDesc) (l : List ShardEntry) (x y z : Nat) : Nat :=
  8192 + s.seedBytes + (s.denseObjects.map (·.2)).sum + ((tableObjects ts l x y z).map (·.2.2)).sum

/-- Z: the largest end offset over every layout (R447). -/
def JobSlot.setSize (s : JobSlot) (ts : List TableDesc) (ls : List (List ShardEntry)) (x y z : Nat) : Nat :=
  ls.foldl (fun n l => max n (s.setEnd ts l x y z)) 0

/-- The fields of a return slot and the slot size of the partition: the largest among its tables (R235). -/
def returnRowFormat (t : TableDesc) : Nat := if t.format = 1 then 1 else 3
def returnSlotBytes (t : TableDesc) : Nat := 64 + rowSize (returnRowFormat t) 0 (t.cols + 1)

end Sys2Proof.Machine
end

