-- ==== Sys2Proof/Machine/SlotCheck.lean ====
section
/-! DEFINITION. Start step 0x08's checks of a job slot (R141): header, operand descriptors, operations with their basket
descriptors, then the rules that relate them (R126, R156, R272, R290, R291, R303, R333, R352, R385, R386, R446). -/

namespace Sys2Proof.Machine

/-- What a slot's checks know of the rest of the image and of the device. -/
structure SlotEnv where
  header  : ImageHeader
  sundial : SundialCfg
  units   : List UnitRegion
  parts   : List Partition
  tables  : List TableDesc
  layouts : List (List ShardEntry)
  nvme    : Bool
  x       : Nat
  y       : Nat
  z       : Nat
  deriving DecidableEq, Repr

/-- Whether a tier 0x4 offset lies in the window map, and where it does not (R38–R40): positions in the address. -/
def windowFaults (units : List UnitRegion) (off : Nat) : List (Nat × Nat) :=
  let unit := field off 26 4
  let cell := field off 21 5
  let u := units[field off 30 2]?
  if off ≥ 2 ^ 32 then [(0, 0x012)]
  else if unit ≤ 8 then
    faultIf (cell > 16) 21 0x012 ++ faultIf (field off 19 2 == 3) 19 0x012 ++
    faultIf (!u.any fun r => r.blocks.testBit unit) 26 0x014 ++
    faultIf (cell ≤ 16 && u.any fun r => r.blocks.testBit unit && !(r.cells.getD unit 0).testBit cell) 21 0x014
  else if unit = 10 then faultIf (field off 0 26 ≥ 2 ^ 25) 0 0x012
  else if unit = 11 then faultIf (field off 0 26 ≥ 0x1800000) 0 0x012
  else [(26, 0x012)]

/-- First offset past the store of a unit that a tier 0x4 offset lies in (R40). -/
def windowEnd (off : Nat) : Nat :=
  let unit := field off 26 4
  if unit ≤ 8 then (if field off 20 1 = 0 then (off / 2 ^ 20 + 1) * 2 ^ 20 else (off / 2 ^ 19 + 1) * 2 ^ 19)
  else off / 2 ^ 26 * 2 ^ 26 + if unit = 10 then 2 ^ 25 else 0x1800000

/-- Rows of the map of status space: first byte and extent (R509). -/
def statusMap : List (Nat × Nat) :=
  [(0x0000, 64), (0x0040, 64), (0x0080, 64), (0x00C0, 64), (0x0100, 64), (0x0140, 64), (0x0180, 64), (0x01C0, 64), (0x0200, 64),
   (0x0240, 64), (0x0280, 64), (0x02C0, 64), (0x0300, 64), (0x0340, 64), (0x0380, 128), (0x0400, 256), (0x0500, 512), (0x0700, 256),
   (0x0800, 512), (0x0A00, 1024), (0x1000, 1152), (0x2000, 2048), (0x2800, 1024), (0x3000, 2048), (0x4000, 2048), (0x4800, 8192),
   (0x8000, 8192), (0x10000, 24576), (0x20000, 32768), (0x40000, 131064), (0x100000, 3145728)]

/-- Capacities of tiers 0x1–0x3 in bytes: their largest before step 0x0F, the installed ones after (R35, R386). -/
structure TierCaps where
  ddr  : Nat
  cxlA : Nat
  cxlB : Nat
  deriving DecidableEq, Repr, Inhabited

def maxCaps : TierCaps := ⟨2 ^ 40, 2 ^ 41, 2 ^ 41⟩

def TierCaps.of (c : TierCaps) (tier : Nat) : Nat :=
  match tier with
  | 0 => 2 ^ 35
  | 1 => c.ddr
  | 2 => c.cxlA
  | 3 => c.cxlB
  | _ => 2 ^ 32

/-- The address faults of R38 at their bits of the address. -/
def addressFaults (h : ImageHeader) (x y z : Nat) (nvme : Bool) (caps : TierCaps) (units : List UnitRegion) (a : Nat) :
    List (Nat × Nat) :=
  let tier := field a 48 4
  let off := field a 0 48
  let own := field a 60 4 == x && field a 56 4 == y && field a 52 4 == z
  faultIf (field a 52 4 > h.shapeC) 52 0x011 ++ faultIf (field a 56 4 > h.shapeB) 56 0x011 ++
  faultIf (field a 60 4 > h.shapeA) 60 0x011 ++
  faultIf (tier ≥ 6 || tier == 3 && nvme) 48 0x010 ++ faultIf ((tier == 4 || tier == 5) && !own) 48 0x013 ++
  (if tier = 4 then windowFaults units off
   else if tier = 5 then faultIf (!statusMap.any fun r => r.1 ≤ off && off < r.1 + r.2) 0 0x012
   else if tier ≤ 3 ∧ ¬ (tier = 3 ∧ nvme) then faultIf (off ≥ caps.of tier) 0 0x012 else [])

/-- Positions moved to where an address stands in its descriptor. -/
def shiftFaults (k : Nat) (fs : List (Nat × Nat)) : List (Nat × Nat) := fs.map fun f => (f.1 + k, f.2)

/-- The address of an operand's base with the device's own coordinate where local = 1 (R127). -/
def SlotEnv.resolve (e : SlotEnv) (loc : Bool) (a : Nat) : Nat :=
  if loc then field a 0 52 + 2 ^ 52 * e.z + 2 ^ 56 * e.y + 2 ^ 60 * e.x else a

def SlotEnv.addr (e : SlotEnv) (a : Nat) : List (Nat × Nat) :=
  addressFaults e.header e.x e.y e.z e.nvme maxCaps e.units a

/-- The slot header (R120, R290, R446). -/
def slotHeaderFaults (e : SlotEnv) (v : Nat) : List (Nat × Nat) :=
  let h := parseSlotHeader v
  let entryIs (i t : Nat) : Bool := (e.sundial.table[i]?).any fun d => d.type == t
  allOnesFault v 64 14 ++ rsvdFault v 78 2 ++ allOnesFault v 80 12 ++ rsvdFault v 92 4 ++ allOnesFault v 96 8 ++
  rsvdFault v 104 8 ++ faultIf (!(h.mbMin ≤ h.mbInit && h.mbInit ≤ h.mbMax)) 112 0x003 ++ rsvdFault v 143 1 ++
  faultIf (h.weirAction == 3) 150 0x002 ++ rsvdFault v 153 23 ++ faultIf (h.evalValid && !entryIs h.evalEntry 9) 176 0x074 ++
  faultIf (h.ckptValid && !entryIs h.ckptEntry 6) 187 0x074 ++ rsvdFault v 198 10 ++
  faultIf (h.constLen % 64 != 0) 208 0x002 ++
  faultIf (h.constLen < 64 || h.constLen < 128 && e.sundial.table.any fun d => d.type == 6) 208 0x003 ++
  faultIf (h.codeLen % 64 != 0) 240 0x002 ++ rsvdFault v 336 176

/-- Operand descriptor `i` (R127–R132, R192, R386). -/
def operandFaults (e : SlotEnv) (s : JobSlot) (i v : Nat) : List (Nat × Nat) :=
  let x := parseOperand v
  let mem := 1 ≤ x.kind && x.kind ≤ 3
  let tier := field x.base 48 4
  let base := e.resolve x.loc x.base
  let baseB := e.resolve x.loc x.baseB
  let off := field x.base 0 48
  let len := s.extentLen i x
  let isW := s.ops.any fun o => match o.body with
    | .transform t => t.w == i
    | _ => false
  let ownCoord (a : Nat) : Bool := field a 60 4 == e.x && field a 56 4 == e.y && field a 52 4 == e.z
  let regionsOf (o : Nat) : List (Nat × Nat) := (List.range 4).flatMap fun r => windowFaults e.units (o + r * 2 ^ 30)
  let extentFaults (bit tier off len : Nat) : List (Nat × Nat) :=
    if tier ≤ 3 ∧ ¬ (tier = 3 ∧ e.nvme) then
      faultIf (off + len > maxCaps.of tier) bit 0x012 ++
      faultIf (!(if x.kind == 2 then inKeep e.parts tier off len else inPartition e.parts tier off len)) bit 0x071
    else []
  genFault v ++ faultIf (x.kind == 0 || x.kind > 5) 4 0x002 ++
  faultIf (if mem then x.format == 0 || x.format > 12 else x.kind ≤ 5 && x.kind != 0 && x.format != 0) 8 0x073 ++
  faultIf (x.sparsity == 3) 12 0x002 ++ faultIf (x.sparsity != 0 && !(x.kind == 2 && isW)) 12 0x073 ++
  faultIf (x.loc && (field x.base 52 12 != 0 || field x.baseB 52 12 != 0)) 14 0x071 ++
  faultIf ((x.kind == 2 || x.kind == 3) && !ownCoord base) 14 0x071 ++ rsvdFault v 15 1 ++ allOnesFault v 16 16 ++
  faultIf (x.kind == 5 && x.base + (x.cols + 1) * 16 > s.header.constLen) 16 0x003 ++
  allOnesFault v 32 32 ++ faultIf (!mem && x.rows != 0) 32 0x071 ++
  (if mem then
    shiftFaults 64 (if tier = 4 ∧ x.kind = 3 then (if off < 2 ^ 32 then regionsOf (field off 0 30) else [(0, 0x012)]) else e.addr base) ++
    faultIf (if x.kind == 3 then !(tier ≤ 1 || tier == 4) else tier == 4 || tier == 5) 112 0x071 ++
    faultIf (x.kind == 3 && tier == 4 && field off 30 2 != 0) 94 0x071 ++ extentFaults 64 tier off len ++
    faultIf (tier == 4 && x.kind == 3 && off + len > windowEnd off && (windowFaults e.units off).all (·.2 != 0x012)) 64 0x012
   else []) ++
  faultIf (x.kind == 5 && x.base % 16 != 0) 64 0x071 ++
  allOnesFault v 128 32 ++
  faultIf (x.stride % 64 != 0 || x.stride != 0 && (!(x.kind == 1 || x.kind == 3) || (s.packed i).isSome ||
    x.stride < rowSize x.format x.sparsity (x.cols + 1))) 128 0x071 ++
  faultIf (x.scale != 0 && !(x.format == 4 || x.format == 5)) 160 0x071 ++
  faultIf (if x.kind == 4 then (findTable e.tables x.table).isNone else x.table != 0) 168 0x071 ++
  allOnesFault v 176 8 ++ faultIf (x.kind != 3 && x.copies != 0) 176 0x071 ++ rsvdFault v 184 8 ++
  (if x.kind = 2 then shiftFaults 192 (e.addr baseB) ++
    faultIf (!ownCoord baseB) 192 0x071 ++
    faultIf (field x.baseB 48 4 == 4 || field x.baseB 48 4 == 5) 240 0x071 ++
    extentFaults 192 (field x.baseB 48 4) (field x.baseB 0 48) len
   else faultIf (x.baseB != 0) 192 0x071)

/-- Bits from 64 on that an opcode's map lists (R133, R135, R136), as (lowest, width). -/
def bodyFields (opcode : Nat) : List (Nat × Nat) :=
  match opcode with
  | 0x01 => [(64, 48)]
  | 0x02 => [(64, 15), (80, 24)]
  | 0x03 => [(64, 15), (80, 30)]
  | 0x04 => [(64, 62), (128, 44)]
  | 0x05 => [(64, 28)]
  | 0x06 => [(64, 38), (104, 52)]
  | 0x07 => [(64, 38), (112, 32)]
  | 0x08 => [(64, 66)]
  | 0x09 => [(64, 19)]
  | 0x0A => [(64, 112)]
  | 0x0B => [(64, 12), (128, 64)]
  | 0x0C => [(64, 9)]
  | _ => [(64, 12)]

/-- The lowest set bit of [255:64] that the opcode's map does not list (R122). -/
def bodyReserved (opcode v : Nat) : List (Nat × Nat) :=
  match (List.range 192).find? fun i =>
      v.testBit (64 + i) && !(bodyFields opcode).any fun f => f.1 ≤ 64 + i && 64 + i < f.1 + f.2 with
  | some i => [(64 + i, 0x001)]
  | none => []

/-- Entry types an opcode allows (R123). -/
def entryTypes (opcode : Nat) : List Nat :=
  match opcode with
  | 0x01 => [1, 9]
  | 0x02 | 0x03 | 0x04 | 0x05 | 0x06 | 0x07 => [2, 9]
  | 0x08 => [5]
  | 0x09 => [4]
  | 0x0A => [1, 2, 3, 4, 5, 6, 9, 0xB]
  | 0x0B => [0xB]
  | 0x0C => [5]
  | _ => [0xB]

/-- Scopes an opcode allows (R123). -/
def opScopes (opcode : Nat) : List Nat :=
  if opcode ≤ 0x07 then [0] else if opcode = 0x0A then [0, 1, 2] else [2]

/-- Opcodes that may have a backward part (R123). -/
def opBwd (opcode : Nat) : Bool := 2 ≤ opcode && opcode ≤ 6

/-- The common header of operation `j` (R122, R123). -/
def opHeaderFaults (e : SlotEnv) (j v : Nat) : List (Nat × Nat) :=
  let o := parseOp v
  let code := field v 4 8
  let covers (i : Nat) : Bool := (e.sundial.table[i]?).any fun d => d.regions &&& o.regions == o.regions
  let typeOf (i : Nat) : Nat := (e.sundial.table[i]?).elim 0 (·.type)
  genFault v ++ faultIf (code == 0 || code > 0x0D) 4 0x070 ++
  faultIf (!covers o.entry || !(entryTypes code).contains (typeOf o.entry) || (typeOf o.entry == 9) != o.eval) 12 0x074 ++
  faultIf (o.scope == 3) 22 0x002 ++ faultIf (!(opScopes code).contains o.scope) 22 0x070 ++
  faultIf (o.scope != 1 && o.regions != 0xF) 24 0x070 ++
  faultIf (o.eval && (o.bwd || !(entryTypes code).contains 9)) 28 0x070 ++ faultIf (o.bwd && !opBwd code) 30 0x070 ++
  rsvdFault v 31 1 ++ faultIf (o.pred > j) 32 0x075 ++ rsvdFault v 46 2 ++
  faultIf (!o.bwd && o.bwdEntry != 0) 48 0x070 ++
  faultIf (o.bwd && (!covers o.bwdEntry || typeOf o.bwdEntry != 3)) 48 0x074 ++ rsvdFault v 58 6 ++ bodyReserved code v

/-- Whether a field must name an operand, must not, or may (R133, R135, R136). -/
inductive Need where
  | required
  | absent
  | either
  deriving DecidableEq, Repr

/-- The role of an operand field: its kinds. 0x090 in place of 0x071 for SAMPLE.basket (R191). -/
def roleFaults (s : JobSlot) (bit i : Nat) (need : Need) (kinds : List Nat) (code : Nat := 0x071) : List (Nat × Nat) :=
  if i = noOperand then faultIf (need = .required) bit code
  else
    match s.operand i with
    | none => [(bit, code)]
    | some x => faultIf (need = .absent || !kinds.contains x.kind) bit code

/-- Rows and columns of an operand as encoded. -/
def JobSlot.shape (s : JobSlot) (i : Nat) : Option (Nat × Nat) := (s.operand i).map fun x => (x.rows, x.cols)

def JobSlot.fmt (s : JobSlot) (i : Nat) : Option Nat := (s.operand i).map (·.format)

def needIf (c : Bool) : Need := if c then .required else .absent

/-- TRANSFORM (R133, R134, R259, R272, R280). -/
def transformFaults (s : JobSlot) (o : Op) (t : TransformOp) (earlier : List Op) : List (Nat × Nat) :=
  let a := s.operand t.inA
  let w := s.operand t.w
  let out := s.operand t.out
  let u64 (bit i : Nat) := faultIf (s.fmt i == some 0xC) bit 0x073
  let n := w.elim 0 (·.rows)
  let gradOn := o.bwd && !t.frozen
  let shape (bit i : Nat) (sh : Nat × Nat) := faultIf (i != noOperand && (s.shape i).any (· != sh)) bit 0x072
  let fp32 (bit i : Nat) := faultIf (i != noOperand && (s.fmt i).any (· != 1)) bit 0x073
  roleFaults s 64 t.inA .required [1, 3] ++ u64 64 t.inA ++ roleFaults s 76 t.w .required [2] ++ u64 76 t.w ++
  roleFaults s 88 t.out .required [3] ++ u64 88 t.out ++
  roleFaults s 100 t.pre (needIf (t.preload != 0)) (if t.preload = 1 then [2] else [3]) ++ u64 100 t.pre ++
  faultIf (t.preload == 3) 112 0x002 ++ faultIf (t.acc == 3) 114 0x002 ++ faultIf (t.act > 6) 118 0x002 ++
  faultIf (a.any fun a => w.any fun w => a.cols != w.cols || rowSize a.format 0 (a.cols + 1) > 131072) 64 0x072 ++
  faultIf (a.any fun a => w.any fun w => out.any fun out =>
    out.rows != a.rows || out.cols != w.rows) 88 0x072 ++
  shape 100 t.pre (if t.preload = 1 then (0, n) else out.elim (0, 0) fun x => (x.rows, x.cols)) ++
  faultIf (t.acc != 0 && w.any fun w => w.sparsity != 0) 114 0x072 ++
  faultIf (t.masked && t.frozen) 122 0x072 ++
  roleFaults s 128 t.grad (needIf gradOn) [1] ++ fp32 128 t.grad ++ shape 128 t.grad (n, w.elim 0 (·.cols)) ++
  roleFaults s 140 t.mask (needIf t.masked) [1] ++ faultIf (t.masked && (s.fmt t.mask).any (· != 0xC)) 140 0x073 ++
  faultIf (t.masked && (s.operand t.mask).any fun m =>
    (m.rows + 1) * (m.cols + 1) * 64 < (if t.maskBlock then ceilDiv (n + 1) 16 else n + 1)) 140 0x072 ++
  faultIf (t.layer > s.header.layers) 152 0x072 ++
  roleFaults s 160 t.preGrad (needIf (t.preload == 1 && gradOn)) [1] ++ fp32 160 t.preGrad ++ shape 160 t.preGrad (0, n) ++
  faultIf (earlier.any fun p => match p.body with
    | .transform q => p.eval == o.eval && q.out == t.out && (q.acc != t.acc || q.act != t.act || q.sr != t.sr || q.commutative != t.commutative ||
        (s.operand q.inA).map (·.rows) != a.map (·.rows) || (s.operand q.w).map (·.rows) != w.map (·.rows))
    | _ => false) 88 0x072

/-- GATHER and AGGREGATE (R135, R192, R228). -/
def gatherFaults (e : SlotEnv) (s : JobSlot) (o : Op) (listBit list hop srcBit src out : Nat) (kinds : List Nat)
    (wide : Bool) (winners : Bool) : List (Nat × Nat) :=
  let smp := s.samplerOf o.eval list
  let t := s.tableOf e.tables src
  let cols := match t, s.operand src with
    | some t, _ => t.cols
    | none, some x => x.cols
    | none, none => 0
  let want := if wide then 2 * (cols + 1) - 1 else cols
  roleFaults s listBit list .required [3] ++ faultIf (list != noOperand && smp.isNone) listBit 0x071 ++
  faultIf (smp.any fun p => hop > p.2.2.hops + 1) 76 0x072 ++ roleFaults s srcBit src .required kinds ++
  faultIf (t.any fun t => t.kind == 3) srcBit 0x071 ++ faultIf (t.isNone && s.fmt src == some 0xC) srcBit 0x073 ++
  faultIf (o.bwd && t.any fun t => t.kind != 2) 30 0x070 ++
  roleFaults s 92 out .required [3] ++ faultIf (s.fmt out == some 0xC) 92 0x073 ++
  faultIf ((s.operand out).any fun x => x.cols != want ||
    winners && o.bwd && s.rowStride out x < roundUp (rowSize x.format 0 (x.cols + 1) + 4 * (x.cols + 1)) 64) 92 0x072

/-- Whether the extent of a REDUCE op 3 tensor is exactly this device's return partition (R141, R235, R352). -/
def isReturnExtent (e : SlotEnv) (s : JobSlot) (i : Nat) : Bool :=
  (s.operand i).any fun x => x.kind == 1 && field x.base 48 4 == 0 &&
    field (e.resolve x.loc x.base) 52 12 == e.z + 16 * e.y + 256 * e.x &&
    e.parts.any fun p => p.role == 1 && p.start == field x.base 0 48 && p.len == s.extentLen i x

/-- The body of operation `j` (R133–R136, R141). -/
def opBodyFaults (e : SlotEnv) (s : JobSlot) (o : Op) (earlier : List Op) : List (Nat × Nat) :=
  match o.body with
  | .sample basket seeds lists trail =>
    let b := s.basketOf basket
    roleFaults s 64 basket .required [5] 0x090 ++ faultIf ((s.operand basket).any fun x => x.kind == 5 && x.cols != 3) 64 0x090 ++
    (if s.header.seedSource then roleFaults s 76 seeds .absent [1]
     else roleFaults s 76 seeds .required [1] ++ faultIf (seeds != noOperand && s.ring != some seeds) 76 0x071) ++
    roleFaults s 88 lists .required [3] ++ faultIf ((s.fmt lists).any (· != 0xC)) 88 0x073 ++
    faultIf ((s.operand lists).any fun x => x.cols != 0) 88 0x072 ++
    faultIf ((s.operand lists).any fun x => x.rows + 1 < b.nodeBudget + 9) 88 0x003 ++
    roleFaults s 100 trail .required [3] ++ faultIf ((s.fmt trail).any (· != 0xC)) 100 0x073 ++
    faultIf ((s.operand trail).any fun x => x.cols != 1) 100 0x072 ++
    faultIf ((s.operand trail).any fun x => x.rows + 1 < b.trailBudget + 1) 100 0x003
  | .gather lists hop table out =>
    faultIf (hop > 4) 76 0x002 ++ faultIf (lists != noOperand && !s.ops.any fun p => match p.body with
      | .sample _ _ l _ => l == lists
      | _ => false) 64 0x071 ++ gatherFaults e s o 64 lists hop 80 table out [4] false false
  | .aggregate a =>
    faultIf (a.hop == 0 || a.hop > 4) 76 0x002 ++ faultIf (a.keep == 3) 108 0x002 ++
    faultIf (a.trail != noOperand && !s.ops.any fun p => match p.body with
      | .sample _ _ _ t => t == a.trail
      | _ => false) 64 0x071 ++
    gatherFaults e s o 64 a.trail a.hop 80 a.src a.out [3, 4] a.self (a.func ≥ 2)
  | .transform t => transformFaults s o t earlier
  | .activate i out f =>
    roleFaults s 64 i .required [3] ++ roleFaults s 76 out .required [3] ++ faultIf (s.fmt i == some 0xC) 64 0x073 ++
    faultIf (s.fmt out == some 0xC) 76 0x073 ++ faultIf ((s.shape i).isSome && (s.shape out).isSome && s.shape i != s.shape out)
      76 0x072 ++ faultIf (f == 0 || f > 6) 88 0x002
  | .normalise n =>
    let cols := (s.operand n.inp).elim 0 (·.cols)
    roleFaults s 64 n.inp .required [3] ++ roleFaults s 76 n.out .required [3] ++ faultIf (s.fmt n.inp == some 0xC) 64 0x073 ++
    faultIf (s.fmt n.out == some 0xC) 76 0x073 ++
    faultIf ((s.shape n.inp).isSome && (s.shape n.out).isSome && s.shape n.inp != s.shape n.out) 76 0x072 ++
    roleFaults s 88 n.affine .either [2] ++
    faultIf (s.fmt n.affine == some 0xC) 88 0x073 ++
    faultIf (n.affine != noOperand && (s.shape n.affine).any (· != (1, cols))) 88 0x072 ++
    faultIf (n.kind == 3) 100 0x002 ++ faultIf (n.layer > s.header.layers) 104 0x072 ++
    roleFaults s 144 n.affineGrad (needIf (n.affine != noOperand && o.bwd)) [1] ++
    faultIf ((s.fmt n.affineGrad).any (· != 1)) 144 0x073 ++ faultIf ((s.shape n.affineGrad).any (· != (1, cols))) 144 0x072
  | .loss l t g k _ =>
    let lg := s.operand l
    roleFaults s 64 l .required [3] ++ faultIf (s.fmt l == some 0xC) 64 0x073 ++
    faultIf (k == 3 && lg.any fun x => x.cols != 0) 64 0x072 ++
    roleFaults s 76 t .required [3] ++
    faultIf (if k == 0 || k == 3 then (s.fmt t).any (· != 0xC) else (s.fmt t).isSome && s.fmt t != s.fmt l) 76 0x073 ++
    faultIf ((k == 1 || k == 2) && (s.shape t).isSome && s.shape t != s.shape l) 76 0x072 ++
    faultIf (k == 0 && (s.operand t).any fun x => lg.any fun y => x.rows != y.rows) 76 0x072 ++
    roleFaults s 88 g (needIf (!o.eval)) [3] ++ faultIf ((s.fmt g).any (· != 1)) 88 0x073 ++
    faultIf ((s.shape g).isSome && s.shape g != s.shape l) 88 0x072
  | .optimize p =>
    let tk := (s.operand p.target).elim 0 (·.kind)
    let names (q : Op) : Bool := match q.body with
      | .transform t => t.w == p.target && t.grad == p.grad || t.pre == p.target && t.preload == 1 && t.preGrad == p.grad
      | .normalise n => n.affine == p.target && n.affineGrad == p.grad
      | _ => false
    let state (bit i : Nat) :=
      roleFaults s bit i .either [tk] ++
      faultIf (tk == 2 && (s.fmt i).any fun f => f != 1 && f != 3) bit 0x073 ++
      faultIf (tk == 2 && (s.shape i).isSome && s.shape i != s.shape p.target) bit 0x072 ++
      faultIf (tk == 4 && i != noOperand && !(s.tableOf e.tables i).any fun t => t.kind == 4) bit 0x071
    roleFaults s 64 p.target .required [2, 4] ++
    faultIf (tk == 4 && !(s.tableOf e.tables p.target).any fun t => t.kind == 2) 64 0x071 ++
    faultIf (if tk == 4 then p.grad != p.target else p.grad == noOperand || !s.ops.any names) 76 0x071 ++
    state 88 p.state1 ++ state 100 p.state2 ++ roleFaults s 112 p.consts .required [5] ++
    faultIf ((s.operand p.consts).any fun x => x.cols < 1) 112 0x072 ++ faultIf (p.method > 2) 124 0x002 ++
    faultIf (p.sched > 1) 128 0x002
  | .reduce t op wire _ =>
    let x := s.operand t
    let own := x.any fun x => field (e.resolve x.loc x.base) 52 12 == e.z + 16 * e.y + 256 * e.x
    faultIf (if op == 3 then !isReturnExtent e s t
      else !(x.any fun x => x.kind == 1 && x.format == 1) || !own) 64 0x071 ++
    faultIf (wire == 0 || wire > 3) 78 0x002
  | .spout code args _ =>
    faultIf (code % 16 != 0) 64 0x002 ++ faultIf (code ≥ s.header.codeLen) 64 0x003 ++
    -- every operand in memory that scope 0 code is given is a target (R337, log entry 66)
    ((List.range 4).zip args |>.flatMap fun a =>
      roleFaults s (96 + 12 * a.1) a.2 .either (if o.scope = 0 then [3, 4, 5] else [1, 2, 3, 4, 5]))
  | .fill t _ =>
    roleFaults s 64 t .required [1, 2, 3] ++
    faultIf ((s.operand t).any fun x => x.base % 64 != 0 || x.kind == 2 && x.baseB % 64 != 0 ||
      field (e.resolve x.loc x.base) 52 12 != e.z + 16 * e.y + 256 * e.x) 64 0x071
  | .tableSwitch t _ => faultIf (!(findTable e.tables t).any fun d => d.versions) 64 0x071
  | .intake r =>
    roleFaults s 64 r .required [1] ++ faultIf ((s.fmt r).any (· != 0xC)) 64 0x073 ++
    faultIf ((s.operand r).any fun x => field (e.resolve x.loc x.base) 52 12 != e.z + 16 * e.y + 256 * e.x) 64 0x071 ++
    faultIf ((s.operand r).any fun x => x.rows < 2) 64 0x072

/-- Count fields whose all-ones encoding is reserved in an operation's body (R16). -/
def opCountFaults (v : Nat) (o : Op) : List (Nat × Nat) :=
  match o.body with
  | .spout .. => allOnesFault v 144 32
  | _ => []

/-- Operands that several operations of a step may read and write: those named as gradients or reduced (R126). -/
def JobSlot.accumulated (s : JobSlot) (i : Nat) : Bool :=
  s.ops.any fun o => o.gradFields.any (·.2 == i) || match o.body with
    | .reduce t _ _ _ => t == i
    | _ => false

/-- The order rules of R126, with the position of the field that breaks one. -/
def orderFaults (e : SlotEnv) (s : JobSlot) (o : Op) (earlier : List Op) : List (Nat × Nat) :=
  let readBefore (i : Nat) : Bool := earlier.any fun p => p.reads.contains i
  let isMb (i : Nat) : Bool := s.isKind i 1 || s.isKind i 3
  let reducedBefore (i : Nat) : Bool := earlier.any fun p => match p.body with
    | .reduce t _ _ _ => t == i
    | .optimize q => q.grad == i
    | _ => false
  (o.writeFields.flatMap fun w => faultIf (w.2 != noOperand && isMb w.2 && !s.accumulated w.2 && readBefore w.2) w.1 0x075) ++
  (o.gradFields.flatMap fun g => faultIf (reducedBefore g.2) g.1 0x075) ++
  (match o.body with
   | .reduce t op _ _ => faultIf (earlier.any fun p => match p.body with
       | .optimize q => q.grad == t || op == 3 && s.isKind q.target 4
       | _ => false) 64 0x075
   | _ => match s.returnsTo e.tables o with
     | some t => faultIf (earlier.any fun p => match p.body with
         | .reduce _ op _ _ => op == 3
         | .optimize q => (s.operand q.target).any fun x => x.kind == 4 && x.table == t.id
         | _ => false) 80 0x075
     | none => [])

/-- A basket descriptor, checked after its SAMPLE (R189–R191, R197). -/
def basketFaults (e : SlotEnv) (s : JobSlot) (o : Op) (v : Nat) : List (Nat × Nat) :=
  let b := parseBasket v
  let tbl (id : Nat) := findTable e.tables id
  let live (h : Nat) : Bool := h ≤ b.hops
  let hopF (f : Nat → HopRecord → List (Nat × Nat)) : List (Nat × Nat) :=
    (b.hop.zipIdx.flatMap fun h => f h.2 h.1)
  let n := b.seeds + 1
  let need := if o.eval then some (n * (b.evalMbs + 1)) else if s.header.seedSource then some (n * (s.header.mbMax + 1)) else none
  let listOk : Bool := match need with
    | none => b.seedList == noOperand
    | some k => (s.operand b.seedList).any fun x => x.kind == 1 && x.format == 0xC && x.cols == 0 && x.rows + 1 ≥ k &&
        field (e.resolve x.loc x.base) 52 12 == e.z + 16 * e.y + 256 * e.x
  genFault v ++ faultIf (b.method > 4) 4 0x090 ++
  faultIf (b.method == 1 && !b.replace || b.method == 4 && b.replace || b.method == 3 && (!b.dedup || !b.replace)) 4 0x090 ++
  faultIf (b.method == 2 && b.dedup) 4 0x090 ++ faultIf (b.remoteKeep != 15 && (b.method == 3 || b.method == 4)) 4 0x090 ++
  rsvdFault v 18 6 ++ faultIf (!(tbl b.biasTable).any fun t => t.kind != 3) 24 0x090 ++
  faultIf (b.nodeBudget < b.seeds) 32 0x090 ++ rsvdFault v 85 11 ++ faultIf (!listOk) 96 0x090 ++
  faultIf (!o.eval && b.evalMbs != 0) 108 0x090 ++ faultIf (!o.eval && b.evalRestart) 118 0x090 ++ rsvdFault v 119 9 ++
  (hopF fun h r =>
    let pos := 192 + 16 * h
    if live h then
      faultIf (b.method == 2 && h ≥ 1 && r.fanout != 0 || b.method == 4 && r.fanout != 0) pos 0x090 ++
      rsvdFault v (pos + 6) 2 ++
      faultIf (!(tbl r.table).any fun t => t.kind == 3 && (b.method != 1 || t.weighted)) (pos + 8) 0x090
    else faultIf (field v pos 16 != 0) pos 0x090) ++
  ((List.range 4).flatMap fun h => faultIf (b.layer.getD h 0 != 0 && (b.method != 3 || !live h)) (256 + 16 * h) 0x090) ++
  rsvdFault v 320 192

/-- The training block (R290). -/
def trainingFaults (e : SlotEnv) (v : Nat) : List (Nat × Nat) :=
  let t := parseTraining v
  let bad (c : Bool) (pos : Nat) := faultIf c pos 0x0C4
  genFault v ++ bad (t.stashFp8 == 3) 4 ++ rsvdFault v 6 2 ++
  bad (t.farPart != 255 && !(e.parts[t.farPart]?).any fun p => p.tier == 2 || p.tier == 3) 16 ++
  bad (t.weirAlpha == 0 || t.weirAlpha == 255) 24 ++ bad (t.weirK == 0 || t.weirK == 255) 32 ++ allOnesFault v 40 16 ++
  bad (t.rollbackMax == 0) 56 ++ allOnesFault v 56 4 ++ bad (t.rollbackSteps == 0) 60 ++ allOnesFault v 60 4 ++
  bad (!(v32 t.spikeFloor).isFinite || t.spikeFloor.toNat ≥ 2 ^ 31 + 1) 64 ++ rsvdFault v 97 31 ++ rsvdFault v 192 320

/-- The recovery block (R445, R446). -/
def recoveryFaults (e : SlotEnv) (v : Nat) : List (Nat × Nat) :=
  let r := parseRecovery v
  let flash := e.sundial.table.any (·.drainsTo 1)
  genFault v ++ rsvdFault v 4 28 ++
  faultIf (!(v32 r.tol).isFinite || r.tol.toNat ≥ 2 ^ 31 + 1) 32 0x110 ++ allOnesFault v 64 16 ++ allOnesFault v 80 16 ++
  allOnesFault v 96 16 ++ rsvdFault v 112 16 ++ allOnesFault v 128 32 ++ faultIf (flash == (r.nsid == 0)) 128 0x110 ++
  allOnesFault v 208 48 ++ rsvdFault v 256 256

/-- Whether two entries occur in a common step (R62): phases agree modulo the gcd of their periods. -/
def entriesMeet (a b : DialEntry) : Bool :=
  let g := Nat.gcd (a.every + 1) (b.every + 1)
  a.phase % g == b.phase % g

/-- The operation that reduces a tensor: its chain, in ascending index (R351). -/
def JobSlot.chain (s : JobSlot) (tensor : Nat) : List (Nat × Op × Nat × Bool) :=
  s.ops.zipIdx.filterMap fun o => match o.1.body with
    | .reduce t op _ mean => if t = tensor then some (o.2, o.1, op, mean) else none
    | _ => none

/-- Axis of a REDUCE's entry (R64). -/
def SlotEnv.axis (e : SlotEnv) (o : Op) : Nat := (e.sundial.table[o.entry]?).elim 0 fun d => field d.param 0 2

/-- Whether REDUCE `k` of a chain breaks a rule of R352. -/
def chainBreaks (e : SlotEnv) (chain : List (Nat × Op × Nat × Bool)) (k : Nat) : Bool :=
  let entry (o : Op) : DialEntry := (e.sundial.table[o.entry]?).getD default
  match chain[k]? with
  | none => false
  | some (_, o, op, mean) =>
    let before := chain.take k
    let head := chain.head?.elim op (·.2.2.1)
    let d := entry o
    let axesBefore := before.map fun b => (e.axis b.2.1, b.2.2.1)
    let rank (ax : Nat) : Nat := if ax = 1 then 0 else if ax = 2 then 1 else 2
    let lastDense := !(chain.drop (k + 1)).any fun b => b.2.2.1 ≤ 1
    (before.head?.any fun b => (entry b.2.1).every != d.every || (entry b.2.1).phase != d.phase) ||
    before.any (fun b => d.opens < (entry b.2.1).opens) ||
    (k == 0 && op == 2) ||
    (op == 2 && !(axesBefore.contains (e.axis o, 1))) ||
    (op == 1 && axesBefore.contains (e.axis o, 1)) ||
    ((op == 0 || op == 3) && axesBefore.contains (e.axis o, op)) ||
    ((head == 3) != (op == 3)) ||
    (op == 3 && axesBefore.any fun b => rank b.1 ≥ rank (e.axis o)) ||
    (mean && (op ≥ 2 || !lastDense)) ||
    (k != 0 && resolvedPolicy e.sundial d == 0)

/-- The first REDUCE of the slot that breaks a chain rule (R352), or a type 0xC entry beside a single layout. -/
def chainFault (e : SlotEnv) (s : JobSlot) : Option Nat :=
  (List.range s.ops.length).find? fun j =>
    (s.ops[j]?).any fun o => match o.body with
      | .reduce t _ _ _ =>
        let c := s.chain t
        let k := (c.takeWhile fun b => b.1 != j).length
        chainBreaks e c k || (e.sundial.table.any fun d => d.type == 0xC) && e.layouts.length == 1
      | _ => false

/-- Contexts one micro-batch (or evaluation basket) takes: every forward and backward part of scope 0 (R332). -/
def JobSlot.mbInstances (s : JobSlot) (eval : Bool) : Nat :=
  (s.ops.filter fun o => o.scope == 0 && o.eval == eval).foldl (fun n o => n + 1 + bit o.bwd) 0

/-- Instances of scope 1 and 2 in a region (R331). -/
def JobSlot.stepInstances (s : JobSlot) (region : Nat) : Nat :=
  (s.ops.zipIdx.filter fun o =>
    o.1.scope == 1 && o.1.regions.testBit region || o.1.scope == 2 && o.2 % 4 == region).length

/-- Bytes of a stash entry's stream before zero-run coding (R302, R303): rows converted to FP8 where stash_fp8 applies, the winner
indices of a max or min behind each row (R228). -/
def JobSlot.rawBytes (s : JobSlot) (i : Nat) (x : Operand) : Nat :=
  let row := if s.training.stashFp8 ≠ 0 ∧ 1 ≤ x.format ∧ x.format ≤ 3 then roundUp (x.cols + 1) 64 else rowSize x.format x.sparsity (x.cols + 1)
  (x.rows + 1) * (row + if s.hasWinners i then roundUp (4 * (x.cols + 1)) 64 else 0)

/-- Worst-case bytes of a stash entry, header and coded stream (R303). -/
def JobSlot.stashBytes (s : JobSlot) (i : Nat) : Nat :=
  (s.operand i).elim 0 fun x => 64 + ceilDiv (s.rawBytes i x * 65) 64

/-- Operands and pre-activations that the stash compressor may take (R301). -/
def JobSlot.stashPoints (s : JobSlot) : List Nat :=
  s.stashed ++ s.ops.filterMap fun o => match o.body with
    | .transform t => if o.stashesPre then some t.out else none
    | _ => none

/-- Bytes of one region's area of a stash partition (R303). -/
def stashArea (p : Partition) : Nat := p.len / 4 / 4096 * 4096

/-- The journal's detail of a slot fault (R141): slot, structure, index. -/
def slotDetail (slot structure' index : Nat) : Nat := slot + 4 * structure' + 16 * index

/-- Every check of one slot section (R141). -/
def checkSlot (e : SlotEnv) (b : ImageBytes) (es : List SectionEntry) (k : Nat) (u : Nat) (sec : SectionEntry) :
    Option StepFault :=
  let hv := b.num sec.offset 64
  let s := parseSlot b sec.offset
  let h := s.header
  let at' (st i : Nat) : Nat → Nat → Nat := fun _ _ => slotDetail k st i
  let fault (code st i : Nat) (c : Bool) : Option StepFault := if c then some ⟨code, u, slotDetail k st i⟩ else none
  let partUnit := (findSection es 0x05).elim 0xFFFF (·.1)
  let mapUnit := (findSection es 0x03).elim 0xFFFF (·.1)
  let part (r : Nat) := e.parts.find? fun p => p.role == r
  let stash := s.stashPoints
  let hasReturn := s.ops.any fun o => (s.returnsTo e.tables o).isSome || match o.body with
    | .reduce _ op _ _ => op == 3
    | _ => false
  let drains := e.sundial.table.any fun d => d.type == 6
  let optOps := s.ops.zipIdx.filter fun o => match o.1.body with
    | .optimize _ => true
    | _ => false
  let updatesRows (o : Op) : Bool := match o.body with
    | .optimize p => (s.operand p.target).any fun x => x.kind == 2 || x.kind == 4
    | _ => false
  let entry (i : Nat) : DialEntry := (e.sundial.table[i]?).getD default
  let lateDrain := e.sundial.table.any fun d => d.drainsTo 0 &&
    s.ops.any fun o => updatesRows o && d.opens > (entry o.entry).opens && entriesMeet d (entry o.entry)
  let z := s.setSize e.tables e.layouts e.x e.y e.z
  let layoutEntries (l : List ShardEntry) (id : Nat) := (l.filter fun q => q.table == id).map fun q =>
    (q.first, q.hole, q.xOwn, q.x, q.y, q.z)
  let badState := e.layouts.zipIdx.findSome? fun l => s.ops.findSome? fun o => match o.body with
    | .optimize p => (s.tableOf e.tables p.target).bind fun t =>
        ([p.state1, p.state2].filterMap (s.tableOf e.tables)).findSome? fun st =>
          if st.nodes ≠ t.nodes ∨ layoutEntries l.1 st.id ≠ layoutEntries l.1 t.id then
            some (StepFault.mk 0x082 mapUnit ((l.1.takeWhile fun q => q.table != st.id).length + 65536 * l.2))
          else none
    | _ => none
  firstOf (
    [(if sec.length = 64 + 32 * (h.ops + 1 + (h.operands + 1)) + h.constLen + h.codeLen then none
        else some ⟨0x053, u, 0⟩),
     faultOf (slotHeaderFaults e hv) u (at' 0 0)] ++
    ((List.range (h.operands + 1)).map fun i => faultOf (operandFaults e s i (b.num (operandAt h sec.offset i) 32)) u (at' 1 i)) ++
    ((List.range (h.ops + 1)).flatMap fun j =>
      let v := b.num (sec.offset + 64 + 32 * j) 32
      let o := parseOp v
      let earlier := s.ops.take j
      [faultOf (opHeaderFaults e j v ++ (if field v 4 8 = 0 ∨ field v 4 8 > 0x0D then []
          else opBodyFaults e s o earlier ++ opCountFaults v o ++ orderFaults e s o earlier)) u (at' 2 j),
       match o.body with
       | .sample basket _ _ _ =>
         faultOf (basketFaults e s o (s.constNum ((s.operand basket).elim 0 (·.base)) 64)) u (at' 2 j)
       | _ => none]) ++
    [faultOf (trainingFaults e (s.constNum 0 64)) u (at' 0 0),
     (if drains then faultOf (recoveryFaults e (s.constNum 64 64)) u (at' 0 0) else none),
     missingRole partUnit e.parts 1 hasReturn,
     missingRole partUnit e.parts 2 (s.gradLayout.2.2 > 0),
     missingRole partUnit e.parts 3 (!stash.isEmpty),
     fault 0x003 0 0 ((part 2).any fun p => s.gradLayout.2.2 > p.len)] ++
    (stash.map fun i => fault 0x003 1 i (s.stashBytes i > 65535 * 4096 || (part 3).any fun p => s.stashBytes i > stashArea p)) ++
    (s.ops.zipIdx.map fun o => fault 0x0D1 2 o.2
      ((s.forwardDeps e.tables e.sundial.det o.2 o.1).length > 24 || o.1.bwd && (s.backwardDeps o.2 o.1).length > 24)) ++
    [fault 0x0D0 0 0 ((List.range 4).any fun r => s.stepInstances r + max (s.mbInstances false) (s.mbInstances true) > 12288),
     fault 0x003 0 0 ((part 4).any fun p => p.len < 786432),
     (chainFault e s).map fun j => ⟨0x0E0, u, slotDetail k 2 j⟩,
     badState,
     fault 0x003 0 0 (drains && (part 6).any fun p => p.len < 2 * z),
     fault 0x110 0 0 (drains && (optOps.length > 448 || lateDrain ||
       e.sundial.table.any (fun d => d.drainsTo 1 || d.drainsTo 2) && !e.sundial.table.any (·.drainsTo 0)))])

/-- Start step 0x08 (R92): the sections in their order, then the job slots in ascending slot number. -/
def checkContent (b : ImageBytes) (d : DeviceFacts) : Option StepFault :=
  let h := parseHeader (b.num 0 64)
  let es := parseSections b h
  match firstOf [checkResourceMap b es, checkSundial b es, checkPlacement b h es d, checkUnits b es d, checkPolicy b es,
      checkHints b es, checkPartMap b es, checkTables b es, checkShardMap b h es] with
  | some f => some f
  | none =>
    let c := parseImage b
    let p := (c.placement.find? fun p => p.fingerprint == d.fingerprint).getD default
    let e : SlotEnv := ⟨h, c.sundial, c.units, c.partMap.parts, c.tables, c.layouts, c.nvme, p.x, p.y, p.z⟩
    firstOf ((List.range 4).map fun k =>
      (es.zipIdx.find? fun s => s.1.type == 0x08 && s.1.index == k).bind fun s => checkSlot e b es k s.2 s.1)

end Sys2Proof.Machine
end

