-- ==== Sys2Proof/Machine/State.lean ====
section
/-! DEFINITION. The state of one KT1: every register, log, table, queue and pin the spec gives it, as plain data; the
reasons a step can stop; State.reset. Registers keep their field maps' widths. -/

namespace Sys2Proof.Machine

/-- No command ends in a fault: the spec answers every fault of the device with a code, a log record or a halt. -/
inductive Fault where
  deriving DecidableEq, Repr

/-- Why a command has no meaning. -/
inductive Refusal where
  /-- Raised by Dispatch.lean for a command that is not modelled yet. Safe: nothing is claimed of it. -/
  | notModelled (mnemonic : String)
  deriving DecidableEq, Repr

/-! ### Power, sideband, boundary scan (R475–R502) -/

/-- Where the power sequencer stands (R480): off; housekeeping only; base domains ramping; PG_OUT released. -/
inductive PowerStage where
  | off
  | housekeeping
  | ramping
  | good
  deriving DecidableEq, Repr, Inhabited

/-- What holds the module at housekeeping (R476, R491, R494, R498). -/
inductive Hold where
  | none
  | thermal
  | estop
  | input
  | refclk
  /-- An external reset cleared a latched shutdown; RESET_N is still low (R482). -/
  | awaitReset
  deriving DecidableEq, Repr, Inhabited

/-- One word of BLOCK_POWER (R490) with the voltage loop's counters (R487, R488). -/
structure BlockPower where
  mv           : BitVec 10
  on           : Bool
  throttled    : Bool
  tj           : BitVec 8
  margin       : BitVec 8
  stretched    : BitVec 32
  /-- Consecutive samples above 8 taps, and at 0.850 V below 5 taps (R487). -/
  highRun      : Nat
  limitRun     : Nat
  deriving DecidableEq, Repr, Inhabited

/-- PWR_TELEM (R499). -/
structure Telemetry where
  vin      : BitVec 16
  iin      : BitVec 16
  pin      : BitVec 16
  pinPeak  : BitVec 16
  energy   : BitVec 48
  /-- Time of the sample in ns; age in ms is read from it. -/
  sampled  : Nat
  tjMax    : BitVec 8
  stackMax : BitVec 8
  deriving DecidableEq, Repr, Inhabited

/-- Level of a temperature sensor after hysteresis (R491): 0 none, 1 refresh doubled (slices), 2 warning, 3 throttle. -/
structure SensorState where
  sensor  : Sensor
  celsius : BitVec 8
  level   : Nat
  deriving DecidableEq, Repr

/-- An instruction of the test access port (R500). -/
inductive TapInstr where
  | bypass
  | idcode
  | samplePreload
  | extest
  | extestPulse
  | extestTrain
  | clamp
  | highz
  deriving DecidableEq, Repr, Inhabited

structure PowerState where
  stage      : PowerStage
  hold       : Hold
  /-- VIN is in its operating range (R475). -/
  vinOk      : Bool
  refclkOk   : Bool
  en         : Bool
  resetN     : Bool
  pgOut      : Bool
  thermN     : Bool
  /-- THERM_N latched low by a thermal shutdown until VIN falls (R502). -/
  thermLatch : Bool
  alert      : Bool
  strap      : BitVec 3
  /-- SIDEBAND_STATE.cause and .code (R492). -/
  cause      : BitVec 4
  code       : BitVec 12
  estop      : Bool
  /-- DOMAIN_STATUS (R486). -/
  on         : BitVec 96
  ramping    : BitVec 8
  failed     : BitVec 8
  blocks     : List BlockPower
  sensors    : List SensorState
  telem      : Telemetry
  xspiResetN : Bool
  perstA     : Bool
  perstB     : Bool
  /-- The start carry (R111). -/
  carryStep  : BitVec 8
  carryCode  : BitVec 12
  carryMode  : BitVec 2
  carried    : BitVec 4
  /-- SMBus pointers (R497) and the answer of the last transaction: none when it was not acknowledged. -/
  statusPtr  : BitVec 32
  journalPtr : BitVec 32
  reply      : Option (List Byte)
  tap        : TapInstr
  /-- What the last boundary-scan instruction captured (R500). -/
  scanReg    : Nat
  /-- Pins driven by the boundary-scan chain. -/
  scanDrives : Bool
  deriving DecidableEq, Repr

/-! ### Flash, start, staging (R84–R117) -/

/-- A directory record (R86). -/
structure Directory where
  active  : Bool
  pending : Option Bool
  seq     : BitVec 32
  deriving DecidableEq, Repr, Inhabited

/-- A start-journal record (R109). -/
structure JournalRecord where
  startCount : BitVec 32
  outcome    : BitVec 4
  step       : BitVec 8
  code       : BitVec 12
  unit       : BitVec 16
  progress   : BitVec 16
  imageSv    : BitVec 32
  detail     : BitVec 64
  deriving DecidableEq, Repr, Inhabited

/-- A repair-journal record (R469). -/
structure RepairRecord where
  seq        : BitVec 32
  kind       : BitVec 4
  pendKind   : BitVec 4
  unit       : BitVec 16
  detail     : BitVec 32
  step       : BitVec 48
  startCount : BitVec 32
  code       : BitVec 12
  deriving DecidableEq, Repr, Inhabited

/-- The training memo (R85, R107): the last good DDR rates by channel, as CTRL_STATUS.rate, and the start whose link equalisation it keeps by
port; the equaliser values are firmware's. -/
structure TrainingMemo where
  rates : List Nat
  equal : List (Option (BitVec 32))
  deriving DecidableEq, Repr, Inhabited

/-- The configuration flash (R85): its areas as values. An absent directory copy is not valid; a place of the ring whose
record is not valid holds none. -/
structure FlashState where
  dir0       : Option Directory
  dir1       : Option Directory
  /-- Sparse bytes of the image slots; a byte not listed is erased, 0xFF. -/
  slot0      : List Host.Cell
  slot1      : List Host.Cell
  /-- The ring's records, oldest first; erased places left. -/
  journal    : List (Option JournalRecord)
  ringFree   : Nat
  /-- First start that a failed run can count: those before the last commit that succeeded do not (R112). -/
  failedFrom : Nat
  /-- The repair journal's two halves, in order; a record whose crc is bad is none. -/
  repair0    : List (Option RepairRecord)
  repair1    : List (Option RepairRecord)
  memo       : Option TrainingMemo
  /-- Starts for which an optional CXL port stays skipped (R106). -/
  skipA      : Nat
  skipB      : Nat
  /-- PUF helper data: the enrolment's number, none when erased (R97). -/
  helper     : Option Nat
  rpmc       : Bool
  /-- The counter's value, and whether another device provisioned it (R96). -/
  rpmcValue  : BitVec 32
  rpmcOwn    : Option Bool
  deriving DecidableEq, Repr

/-- What a start has found and reached (R107–R113, R99, R510). -/
structure StartState where
  /-- START_STATUS (R108). -/
  progress    : BitVec 16
  step        : BitVec 8
  failedRun   : BitVec 4
  state       : BitVec 4
  slot        : Bool
  pendingTry  : Bool
  rpmcPresent : Bool
  /-- The device runs: step 0x01 has begun since the last reset. -/
  begun       : Bool
  /-- The identity is known (step 0x04). -/
  identified  : Bool
  seed        : BitVec 256
  identityKey : BitVec 256
  fingerprint : BitVec 64
  startCount  : BitVec 32
  refused     : Bool
  imageDigest : List Byte
  imageSv     : BitVec 32
  signer      : BitVec 8
  ownerId     : BitVec 16
  /-- Journal records of this start in write order, for the attestation's digest (R99). -/
  records     : List JournalRecord
  /-- The image is loaded into hardware (step 0x0F). -/
  loaded      : Bool
  x           : BitVec 4
  y           : BitVec 4
  z           : BitVec 4
  /-- Installed capacities in GiB (R386, R404). -/
  ddrGib      : Nat
  cxlAGib     : Nat
  cxlBGib     : Nat
  nvmeUp      : Bool
  deriving DecidableEq, Repr

/-- A program or erase of the flash under way (R114, R115, R469): what it was for, the completion it owes and what it
puts into the flash when it ends. -/
structure FlashWork where
  job     : FlashJob
  tag     : Option (BitVec 8)
  slot    : Bool
  offset  : Nat
  bytes   : List Byte
  deriving DecidableEq, Repr, Inhabited

/-- Staging (R114–R116). -/
structure StagingState where
  progress : BitVec 16
  phase    : BitVec 4
  code     : BitVec 12
  bytes    : BitVec 32
  open_    : Bool
  /-- The commit whose completion is owed. -/
  commitTag : Option (BitVec 8)
  /-- Flash work under way that holds the interface, oldest first (R115, R497). -/
  busy     : List FlashWork
  deriving DecidableEq, Repr

/-! ### The Sundial (R49–R83) -/

/-- One instance of a dial table entry in a step (R63, R68–R72). -/
structure DialInstance where
  entry      : Nat
  step       : Nat
  /-- Position at which the completion condition first held. -/
  completed  : Option Nat
  faulted    : Bool
  stretched  : Bool
  served     : Bool
  deriving DecidableEq, Repr, Inhabited

structure DialState where
  pos          : BitVec 16
  step         : BitVec 48
  periodNs     : BitVec 40
  /-- Interpolator accumulator and frequency trim (R51). -/
  acc          : Nat
  trim         : Nat
  rootEpoch    : BitVec 8
  rootCoord    : BitVec 12
  isRoot       : Bool
  locked       : Bool
  detBroken    : Bool
  grants       : BitVec 2
  extRefActive : Bool
  /-- Consecutive beat intervals without a beat, and whether the current one has had a beat (R58). -/
  missed       : Nat
  heard        : Bool
  /-- The loss has been logged since the last beat. -/
  lossLogged   : Bool
  /-- A boundary has been crossed while locked (R54). -/
  crossed      : Bool
  /-- Instances of the current step, in ascending entry index. -/
  instances    : List DialInstance
  /-- At the root: beat positions of the grants made in the step, and requests waiting for the next: entry, step (R70); requests that wait for the role
  that takes them (R343). -/
  grantBeats   : List Nat
  waiting      : List (Nat × Nat)
  held         : List (Nat × Nat)
  /-- Earlier steps with grants, with the last grant's beat position (R70). -/
  granted      : List (Nat × Nat)
  /-- Slack reports received for the previous step, as the least, those that came for the current one before its boundary here, and
  this device's own for the next (R74). -/
  reportMin    : Option Int
  reportEarly  : Option Int
  ownSlack     : Option Int
  /-- The loop (R75). -/
  calm         : Nat
  settledFrom  : Nat
  nextPeriod   : Option (BitVec 40)
  /-- The boundary of this step has a halt pending: a stop policy (cause 2), lock loss (3), escalation (4). -/
  haltCause    : BitVec 3
  /-- SYNC (R78, R79): SYNC_OUT level, time of the last edge, the offset still to close, re-shard go (R374). -/
  syncOut      : Bool
  syncOffset   : Int
  /-- Interval between the last two good edges of SYNC_IN (R79). -/
  syncPeriod   : Option Nat
  go           : Bool
  /-- Cycles of 1 ns counted by the Sundial and telemetry domain, for ages, time-outs and NAK spacing. -/
  ns           : Nat
  deriving DecidableEq, Repr

/-! ### Logs and counters (R73, R510–R516) -/

/-- A DIAL_FAULT_LOG record (R73). -/
structure DialFault where
  step    : BitVec 48
  pos     : BitVec 16
  entry   : BitVec 10
  type    : BitVec 4
  policy  : BitVec 2
  region  : BitVec 2
  level   : BitVec 2
  unit    : BitVec 14
  context : BitVec 14
  slot    : BitVec 2
  code    : BitVec 12
  basket  : BitVec 32
  dropped : BitVec 16
  deriving DecidableEq, Repr, Inhabited

/-- A DEVICE_FAULT_LOG record (R512). -/
structure DeviceFault where
  step    : BitVec 48
  pos     : BitVec 16
  code    : BitVec 12
  region  : BitVec 2
  level   : BitVec 2
  unit    : BitVec 14
  context : BitVec 14
  slot    : BitVec 2
  named   : Bool
  basket  : BitVec 32
  dropped : BitVec 16
  /-- Bits [511:160], bit 160 lowest. -/
  detail  : BitVec 352
  deriving DecidableEq, Repr, Inhabited

structure LogState where
  dialLog     : List DialFault
  /-- SUNDIAL_COUNTERS (R515). -/
  deadlines   : BitVec 16
  grantsMade  : BitVec 16
  denials     : BitVec 16
  beatsLost   : BitVec 16
  lockLost    : BitVec 16
  epochs      : BitVec 16
  staleBeats  : BitVec 16
  lateReports : BitVec 16
  dialOver    : BitVec 16
  dialNext    : BitVec 6
  dialWritten : Nat
  deviceLog   : List DeviceFault
  /-- FAULT_LOG_STATUS (R514). -/
  next        : BitVec 7
  wrapped     : Bool
  written     : BitVec 32
  overwrites  : BitVec 16
  hangNext    : BitVec 3
  errorCounts : List (BitVec 16)
  deriving DecidableEq, Repr

/-! ### Run control and micro-batches (R121, R145–R151) -/

/-- A seed block accepted for a step (R142, R143): its micro-batches, seeds per micro-batch, data position of the first,
and the ring row that holds it. -/
structure SeedBlock where
  step    : Nat
  mbs     : Nat
  seeds   : Nat
  dataPos : Nat
  row     : Nat
  deriving DecidableEq, Repr, Inhabited

/-- Items 3–6 of R48 as a boundary forms them: whether V advances, whether the pending Shard Map becomes active, the next
count (R310, R370, R375). Item 4's switches stand in TABLE_STATE. -/
structure HandOver where
  advance : Bool
  reshard : Bool
  c       : Nat
  deriving DecidableEq, Repr, Inhabited

/-- JOB_STATUS and JOB_PENDING (R150, R151), the held START, what a pause holds (R148). -/
structure RunState where
  run          : BitVec 3
  slot         : BitVec 2
  stopCause    : BitVec 3
  mbCount      : BitVec 11
  cancelled    : BitVec 16
  intakeMissed : BitVec 16
  runStep      : BitVec 48
  pauseAt      : Option (BitVec 48)
  stopAt       : Option (BitVec 48)
  evalAt       : Option (BitVec 48)
  ckptAt       : Option (BitVec 48)
  startAt      : Option (BitVec 48)
  /-- An EVAL or CKPT request adds an instance in this step (R145). -/
  evalNow      : Bool
  ckptNow      : Bool
  /-- The count c in force (R145, R370). -/
  c            : Nat
  /-- Seed blocks: the one accepted for the coming step, and the one the current step runs from (R143). -/
  accepted     : Option SeedBlock
  block        : Option SeedBlock
  /-- Items 3–6 of R48 held at a pause. -/
  held         : Option HandOver
  /-- First step after a START from the selected state: `once` operations run (R122). -/
  firstRun     : Bool
  deriving DecidableEq, Repr

/-! ### Scheduling (R326–R346) -/

/-- A task context (R327). -/
structure TaskContext where
  state     : BitVec 3
  spilled   : Bool
  unit      : BitVec 3
  part      : Bool
  recompute : Bool
  eval      : Bool
  slot      : BitVec 2
  op        : BitVec 14
  mb        : BitVec 12
  unitIndex : BitVec 4
  step      : BitVec 48
  flags     : BitVec 32
  mask      : BitVec 32
  anyOf     : Bool
  toCycles  : Bool
  timedOut  : Bool
  toValue   : BitVec 48
  entry     : BitVec 10
  /-- Dependencies by flag bit (R328). -/
  deps      : List Dep
  /-- Sub-items of a scope 2 Spout instance that have ended (R337). -/
  subs      : List Nat
  deriving DecidableEq, Repr, Inhabited

/-- A micro-batch or evaluation basket of the step (R121, R129, R170, R297). -/
structure MicroBatch where
  /-- 0–1,023, or 1,024 + e for an evaluation basket (R327). -/
  mb         : Nat
  /-- The type 0x9 entry of the instance an evaluation basket belongs to. -/
  evalOf     : Nat
  step       : Nat
  basket     : Nat
  dataPos    : Nat
  admitted   : Bool
  dropped    : Bool
  committed  : Bool
  /-- Blocks that hold segments for an out operand (R272). -/
  segments   : List (Nat × Nat)
  /-- Table versions taken at its first dispatch: table IDs on version B (R170). -/
  started    : Bool
  versionB   : List Nat
  /-- Weight version V of its forward pass (R311). -/
  weightV    : Nat
  /-- Copies held: operand, companion operand and staging operation, each with its copy (R129, R292, R296). -/
  copies     : List (Nat × Nat)
  companions : List (Nat × Nat)
  staging    : List (Nat × Nat)
  /-- Companion rows written: operand, row (R292). -/
  rowsSet    : List (Nat × Nat)
  samples    : Nat
  loss       : Word
  /-- Non-finite values of its Basin drains, by layer (R315). -/
  nonFinite  : List (Nat × Nat)
  /-- Values marked for recomputation (R305): an operand, or 65,536 + an operation for its pre-activation; every later stash point
  too. -/
  recompute  : List Nat
  stashStop  : Bool
  /-- Copies that a backward part's reruns hold (R306): 4,096 × the part's operation + operand, copy. -/
  reruns     : List (Nat × Nat)
  /-- Operands whose companion pass is done (R293). -/
  passed     : List Nat
  /-- Shard stamps by operation (R243). -/
  stamps     : List (Nat × BitVec 32)
  deriving DecidableEq, Repr, Inhabited

/-- One region's scheduler (R326–R336, R345). -/
structure RegionSched where
  contexts   : List (Nat × TaskContext)
  /-- Completion table of the step: operation, micro-batch number, part (R332, R339). -/
  completed  : List (Nat × Nat × Bool)
  ctxPeak    : BitVec 16
  admitted   : BitVec 11
  dispatched : BitVec 48
  spilledNow : BitVec 16
  spills     : BitVec 32
  timeouts   : BitVec 16
  cancelled  : BitVec 16
  cycles     : BitVec 48
  deriving DecidableEq, Repr, Inhabited

/-- A control core's word of CC_STATUS (R346) and its watcher's last reading (R341). -/
structure ControlCore where
  role       : BitVec 3
  tested     : Bool
  missed     : BitVec 3
  heartbeat  : BitVec 32
  watched    : BitVec 3
  watchValid : Bool
  lastSeen   : BitVec 32
  /-- Role the core is taking over (R342). -/
  taking     : Option (BitVec 3)
  deriving DecidableEq, Repr, Inhabited

/-! ### Memory (R378–R408) -/

/-- Memory of tiers 0x0–0x4: bytes by tier × 2^48 + offset, addresses strictly rising; a byte not listed has never been
written since start. `poison` lists the lines stored poisoned, by the key of their first byte, strictly rising (R396). -/
structure Memory where
  cells  : List Host.Cell
  poison : List Nat
  deriving DecidableEq, Repr

/-- One partition's regulator at one controller (R387). -/
structure Regulator where
  part   : Nat
  count  : Nat
  owed   : Bool
  waited : Bool
  capped : Bool
  deriving DecidableEq, Repr, Inhabited

/-- A CE_LOG entry (R395). -/
structure CeEntry where
  offset    : BitVec 48
  tier      : BitVec 4
  chip      : BitVec 4
  kind      : BitVec 2
  partition : BitVec 6
  count     : BitVec 16
  pos       : BitVec 16
  step      : BitVec 32
  deriving DecidableEq, Repr, Inhabited

/-- A memory controller (R382, R387, R393, R399, R404). -/
structure ControllerState where
  up          : Bool
  skipped     : Bool
  rate        : BitVec 2
  spareBg     : Bool
  capacity    : BitVec 16
  inner       : BitVec 32
  permissions : Nat
  /-- Offset of the next line to scrub, where a lap is under way. -/
  scrubAt     : Option Nat
  regulators  : List Regulator
  log         : List CeEntry
  /-- Rows of a slice that spare rows have replaced (R467, R468): the repair records' details. -/
  spareRows   : List Nat
  refreshDoubled : Bool
  deriving DecidableEq, Repr, Inhabited

/-- PART_STATUS and SCRUB_STATUS of a partition (R405, R406). -/
structure PartState where
  corrected     : BitVec 32
  uncorrectable : BitVec 16
  poisonReads   : BitVec 16
  level         : BitVec 16
  overflows     : BitVec 16
  owed          : BitVec 16
  capped        : BitVec 16
  bulkBytes     : BitVec 48
  logLost       : BitVec 16
  /-- Lines that each controller has scrubbed since the lap began (R401). -/
  lapLines      : List (Nat × Nat)
  lastLapMs     : BitVec 32
  laps          : BitVec 16
  long          : Bool
  /-- When the scrubber had passed the lap's lowest line on every controller (R401). -/
  lapStartNs    : Nat
  deriving DecidableEq, Repr, Inhabited

/-- FILL_STATUS (R407). -/
structure FillState where
  progress : BitVec 16
  active   : Bool
  op       : BitVec 14
  fills    : BitVec 32
  position : BitVec 48
  tier     : BitVec 4
  /-- Dispatched FILL items, in order (R403): the first runs. -/
  queue    : List CtxId
  deriving DecidableEq, Repr, Inhabited

/-- A transfer that holds an arbiter's port (R42, R43, R45, R46): its request, bytes of this burst or transfer, whether it is exempt from
revocation, whether its window's count still holds it. -/
structure PortGrant where
  q       : FabricRequest
  bytes   : Nat
  exempt  : Bool
  counted : Bool
  deriving DecidableEq, Repr, Inhabited

structure MemState where
  mem         : Memory
  controllers : List ControllerState
  parts       : List PartState
  scrubbing   : Bool
  fill        : FillState
  /-- A step fault has been detected in the step (R398). -/
  stepFault   : Bool
  /-- Rank orders of the rotating arbiters (R29, R30): the requesters that have won, the latest winner last. -/
  ranks       : List (Nat × List Nat)
  /-- The transfer that holds each arbiter's port, and bytes carried of rows longer than one burst: arbiter, requester, bytes (R42). -/
  grants      : List (Nat × PortGrant)
  carried     : List (Nat × Nat × Nat)
  /-- Local data memories of the Spout cores, by region × 9 + core: bytes written (R337). -/
  spoutLocal  : List (Nat × List Host.Cell)
  /-- Fabric words corrected, by region (R31). -/
  fabricCorrected : List Nat
  deriving DecidableEq, Repr

/-! ### Tables (R153–R187) -/

/-- One word of TABLE_STATE (R184), `present` standing in the image. -/
structure TableState where
  live           : Bool
  switchPending  : Bool
  pendingVersion : Bool
  switches       : BitVec 8
  defaults       : BitVec 16
  /-- Writes to the default row, for the shard stamp (R243). -/
  defaultWrites  : BitVec 8
  deriving DecidableEq, Repr, Inhabited

/-- A valid Cooler slot (R172). -/
structure CoolerSlot where
  table   : Nat
  version : Bool
  block   : Nat
  valid   : BitVec 16
  count   : BitVec 8
  deriving DecidableEq, Repr, Inhabited

/-- One region's Cooler (R172–R176, R186): slots by number, sketch counters by index (zero where not listed). -/
structure Cooler where
  slots   : List (Nat × CoolerSlot)
  sketch  : List (Nat × Nat)
  /-- Of the current step. -/
  hits    : Nat
  lookups : Nat
  hitFrac : BitVec 16
  ecc     : BitVec 16
  deriving DecidableEq, Repr, Inhabited

/-- States of a row-directory entry (R177). -/
inductive DirState where
  | copying
  | replaying
  | live
  deriving DecidableEq, Repr, Inhabited

/-- A row-directory entry (R177, R179). Locations are memory keys. -/
structure DirEntry where
  table    : Nat
  node     : Nat
  location : Nat
  state    : DirState
  gen      : BitVec 8
  /-- Writes done at the old location while copying: location offset and bytes, at most two (R179). -/
  log      : List (Nat × List Byte)
  overflow : Bool
  poisoned : Bool
  /-- A demotion copies the row back home (R178). -/
  demote   : Bool
  deriving DecidableEq, Repr, Inhabited

structure TablesState where
  tables        : List TableState
  coolers       : List Cooler
  directory     : List DirEntry
  ownerSketch   : List (Nat × Nat)
  /-- MIGRATE_STATUS (R187): rows of the current batch, those flipped or aborted, those not (table, node). -/
  batch         : Nat
  batchDone     : Nat
  batchRows     : List (Nat × Nat)
  /-- Rows whose promotion waits for a demotion to make room (R178). -/
  waitingRows   : List (Nat × Nat)
  aborted       : BitVec 16
  dirFull       : BitVec 8
  /-- SHARD_MAP_STATUS (R185). -/
  activeLayout  : BitVec 3
  pendingLayout : BitVec 3
  pendingValid  : Bool
  loadProgress  : BitVec 16
  generation    : BitVec 8
  moveProgress  : BitVec 16
  /-- The step's re-shard request (R372–R375): its instance runs; its hold has ended; it is complete; rows still to copy. -/
  reshardOn     : Bool
  holdEnded     : Bool
  reshardDone   : Bool
  movesLeft     : Nat
  movesAll      : Nat
  /-- At the root: devices below each port that reported completion for the step (R374). -/
  reports       : Nat
  ecc           : BitVec 8
  /-- Corrected bank errors (R165). -/
  bankCorrected : Nat
  /-- Regions whose lookups stall on a bank reload (R165). -/
  stalled       : List Region
  /-- Tables whose OPTIMIZE instance of the step runs, and requests held for later steps (R168). -/
  updating      : List Nat
  heldRequests  : List (Nat × Coord × RowReqEntry)
  deriving DecidableEq, Repr

/-! ### Rambler, gather, return trail (R189–R250) -/

/-- One record of RAMBLER_CURSOR (R214). -/
structure Cursor where
  nextPos   : Word
  baskets   : BitVec 48
  skipped   : BitVec 16
  ctrPos    : Word
  permEpoch : BitVec 16
  deriving DecidableEq, Repr, Inhabited

/-- RAMBLER_STATUS of a region (R217). -/
structure RamblerRegion where
  baskets     : BitVec 32
  clipped     : BitVec 32
  edges       : BitVec 48
  candidates  : BitVec 48
  remoteEdges : BitVec 48
  deriving DecidableEq, Repr, Inhabited

/-- GATHER_STATUS of a region (R248). -/
structure GatherRegion where
  fwdEdges    : BitVec 48
  coolerRows  : BitVec 48
  remoteRows  : BitVec 48
  timeouts    : BitVec 16
  lateReplies : BitVec 16
  drift       : BitVec 16
  stashUsed   : BitVec 16
  reorderFull : BitVec 16
  /-- The reorder store has stalled issue in the step (R248). -/
  reorderSeen : Bool
  deriving DecidableEq, Repr, Inhabited

/-- An outstanding remote row request (R230): its tag, the work item and its entry that wait, what it asks. -/
structure RowRequest where
  tag    : BitVec 20
  item   : Nat
  region : Region
  gen    : BitVec 8
  ctx    : CtxId
  mb     : Nat
  node   : Nat
  table  : Nat
  owner  : Coord
  sent   : Nat
  /-- The block's estimate when the region's Cooler was looked up (R174). -/
  est    : Nat
  deriving DecidableEq, Repr, Inhabited

/-- A remote row held for the entry of the work item that asked for it (R230), with poison marks by 64-byte beat; `cached` where the
region's Cooler served it. -/
structure HeldRow where
  ctx    : CtxId
  item   : Nat
  bytes  : List Byte
  poison : Nat
  cached : Bool
  deriving DecidableEq, Repr, Inhabited

/-- A remote adjacency sector a SAMPLE waits for (R211, R522): its address and when it was asked for. -/
structure SectorRequest where
  ctx  : CtxId
  addr : Nat
  sent : Nat
  deriving DecidableEq, Repr, Inhabited

structure GatherState where
  regions   : List GatherRegion
  requests  : List RowRequest
  rows      : List HeldRow
  sectors   : List SectorRequest
  /-- Lines that reached a work item poisoned by a fabric word (R31). -/
  badLines  : List (CtxId × Nat)
  /-- RETURN_STATUS (R249). -/
  progress  : BitVec 16
  retEdges  : BitVec 48
  slotsUsed : BitVec 32
  full      : BitVec 16
  poisoned  : BitVec 16
  /-- Tables whose OPTIMIZE of the step leaves every row unchanged (R236, R464). -/
  skipped   : List Nat
  /-- The step's sweep is abandoned (R464). -/
  abandoned : Bool
  deriving DecidableEq, Repr

/-! ### Training (R290–R324) -/

/-- A stash entry (R303): pages of its region's area and header fields. -/
structure StashEntry where
  region   : Region
  far      : Bool
  page     : Nat
  pages    : Nat
  operand  : Nat
  pre      : Bool
  mb       : Nat
  step     : Nat
  poisoned : Bool
  readers  : Nat
  deriving DecidableEq, Repr, Inhabited

/-- Pre-activation rows on their way to the stash compressor (R294): operation, micro-batch, step, rows with their bytes. -/
structure PreRows where
  op   : Nat
  mb   : Nat
  step : Nat
  rows : List (Nat × List Byte)
  deriving DecidableEq, Repr, Inhabited

/-- STASH_STATUS of a region (R324), without what the entries give. -/
structure StashRegion where
  pagesPeak    : BitVec 32
  recomputeOps : BitVec 16
  recomputeMbs : BitVec 16
  poisoned     : BitVec 16
  codedBytes   : BitVec 48
  farEntries   : BitVec 16
  deriving DecidableEq, Repr, Inhabited

/-- One NORM_TAPS record (R316). -/
structure NormTap where
  wSq     : BitVec 32
  gSq     : BitVec 32
  uSq     : BitVec 32
  dwSq    : BitVec 32
  nf      : BitVec 32
  step    : BitVec 48
  updated : Bool
  deriving DecidableEq, Repr, Inhabited

/-- The FP64 sums behind one layer's taps in a step (R315). -/
structure TapSum where
  w       : Word
  g       : Word
  u       : Word
  dw      : Word
  nf      : Nat
  updated : Bool
  deriving DecidableEq, Repr, Inhabited

structure TrainState where
  /-- WEIGHT_STATUS of the selected slot (R314) and V of the others: by slot (R308). -/
  versions    : List (BitVec 48)
  written     : Bool
  reclaimed   : BitVec 16
  skippedV    : BitVec 16
  /-- Device step totals (R297): samples, FP64 loss sum, non-finite counts. -/
  samples     : Nat
  loss        : Word
  nonFinite   : Nat
  /-- Gradient operands whose next commit stores (R297). -/
  storeFirst  : List Nat
  /-- Update counts by operation of each slot (R138, R472): slot, operation, u. -/
  updates     : List (Nat × Nat × Nat)
  stash       : List StashEntry
  preRows     : List PreRows
  stashRegion : List StashRegion
  taps        : List NormTap
  /-- WEIR_STATUS (R321) and the step's decision (R318): none before delivery. -/
  weirMu      : Word
  weirSigma   : Word
  weirLoss    : Word
  weirCount   : BitVec 32
  weirClean   : BitVec 16
  rollbacks   : BitVec 4
  lastFlag    : BitVec 2
  weirFlags   : BitVec 8
  decided     : Bool
  flagged     : Bool
  /-- First step that runs work items after a rollback (R320). -/
  holdUntil   : Option Nat
  /-- The updates of the step are skipped (R319); a rollback or a halt is due at the boundary (R319, R320). -/
  skip        : Bool
  rollback    : Bool
  /-- The record of the Weir instance delivered in the step (R317). -/
  weirRecord  : Option CountRecord
  /-- Reclaim has been applied in the step (R312). -/
  reclaimDone : Bool
  /-- FP64 sums of the taps of the step, by layer (R315). -/
  tapSums     : List (Nat × TapSum)
  /-- EVAL_STATUS (R323). -/
  evalLoss    : Word
  evalSamples : BitVec 32
  evalDropped : BitVec 16
  evalStep    : BitVec 48
  evalVersion : BitVec 48
  evalCount   : BitVec 16
  deriving DecidableEq, Repr

/-! ### Cells (R251–R289) -/

/-- An allocated Basin segment of a cell (R265, R266, R273). Tile rows stand in the Basin's bytes of tier 0x4. -/
structure Segment where
  cell     : Nat
  num      : Nat
  /-- The tile rows' owner: out operand, micro-batch, step, product (0 forward, 1 dX, 2 dW), part a rerun serves (R272, R306). -/
  out      : Nat
  mb       : Nat
  step     : Nat
  kind     : Nat
  part     : Nat
  arc      : Nat
  /-- Row tile, column pass, and group of 256 tile rows of dW. -/
  tile     : Nat
  col      : Nat
  group    : Nat
  acc      : Nat
  /-- Operations that have issued every pass into it, and tile rows that are live. -/
  issued   : List Nat
  live     : List Nat
  deriving DecidableEq, Repr, Inhabited

/-- One cell of a product (R257, R258, R260, R264, R282). -/
structure CellRun where
  /-- Physical cell, its arc and its place in the arc. -/
  cell  : Nat
  arc   : Nat
  place : Nat
  /-- The pass under way, counted along the arc's passes, once its Swap has taken place; rows or row pairs each lane has not issued; issue slots
  gone by in it. -/
  pass  : Nat
  on    : Bool
  lanes : List (List Nat)
  slot  : Nat
  /-- Weight tiles in the live and shadow registers, in stored form. -/
  live   : List Byte
  shadow : List Byte
  /-- The pass's segment is allocated and preloaded. -/
  ready : Bool
  /-- Row tiles loaded, counted along the arc's row tiles: bytes received of the one under way and of the next; poisoned 64-bit
  words of both, by 16,384 × half + word. -/
  load   : Nat
  bytes  : Nat × Nat
  poison : List Nat
  deriving DecidableEq, Repr, Inhabited

/-- The product a block runs (R257, R275, R306): its context, operation, micro-batch, step, product, part it is a rerun for, and
whether the rerun keeps pre-activations. -/
structure Product where
  ctx   : CtxId
  op    : Nat
  mb    : Nat
  step  : Nat
  kind  : Nat
  part  : Nat
  pre   : Bool
  cells : List CellRun
  deriving DecidableEq, Repr, Inhabited

/-- A weight tile in a cell's weight area (R260): its place there, its column pass and K position. -/
structure WeightTile where
  cell : Nat
  slot : Nat
  col  : Nat
  k    : Nat
  deriving DecidableEq, Repr, Inhabited

/-- Drained elements of an output row not yet whole: owner as a segment's, arc of a dW, row, first column, FP32 values. -/
structure RowPiece where
  out  : Nat
  mb   : Nat
  step : Nat
  kind : Nat
  part : Nat
  row  : Nat
  col  : Nat
  vals : List (BitVec 32)
  wins : List (BitVec 32)
  deriving DecidableEq, Repr, Inhabited

/-- One record of BLOCK_CELLS (R288) with what a block holds at work. -/
structure BlockState where
  parity         : BitVec 16
  basinCorrected : BitVec 16
  rillRetx       : BitVec 16
  poisonDrops    : BitVec 16
  issued         : BitVec 48
  skipped        : BitVec 48
  steals         : BitVec 32
  swaps          : BitVec 32
  active         : BitVec 17
  fenced         : Bool
  cellsFenced    : BitVec 17
  /-- Consecutive failures of the Rill beat in flight, by cell (R31, R262). -/
  retries        : List (Nat × Nat)
  tag            : BitVec 8
  /-- First byte of the w buffer whose tiles the weight area last loaded (R336). -/
  lastW          : Option Nat
  /-- The product whose tiles the weight area holds: operation, product, weight version, step; the tiles, least recently used first. -/
  tilesOf        : Option (Nat × Nat × Nat × Nat)
  tiles          : List WeightTile
  product        : Option Product
  segments       : List Segment
  pieces         : List RowPiece
  deriving DecidableEq, Repr, Inhabited

/-! ### Cascade (R348–R377) -/

/-- A Cascade instance as one member of its ring runs it (R350–R367): where it stands, what it contributes, what has come
back. Positions in time are step × 65,536 + dial position. -/
structure CascadeRun where
  ctx        : CtxId
  op         : Nat
  /-- Ring position acted for: the device's own, or a lost member's by its proxy (R364). -/
  pos        : Nat
  opened     : Nat
  lost       : List Nat
  withdrawn  : List Nat
  restartAt  : Option Nat
  restarts   : Nat
  /-- Notices sent or forwarded (R363): ring position × 65,536 + restart position. -/
  told       : List Nat
  own        : List (BitVec 32)
  ownPoison  : List Nat
  record     : CountRecord
  /-- Final elements by chunk and segment, the poisoned runs of elements among them (first, count), and the delivered record. -/
  finals     : List (Nat × Nat × List (BitVec 32))
  poison     : List (Nat × Nat)
  delivered  : Option CountRecord
  /-- Count records of the other members in a reduce-scatter, by ring position. -/
  others     : List (Nat × CountRecord)
  /-- Sparse-row combine: what each run delivered (false lower, true upper). -/
  slots      : List (Bool × SparseSlot)
  /-- Slots of x_own rows by the ring position they come from (R360). -/
  shared     : List (Nat × SparseSlot)
  /-- Packets taken in the data phase: phase (dense) or run (sparse), chunk, segment. -/
  seen       : List (Nat × Nat × Nat)
  deriving DecidableEq, Repr, Inhabited

/-- One word pair of CASCADE_STATUS (R376) with the instance an engine runs. -/
structure CascadeEngine where
  axis       : BitVec 2
  op         : BitVec 2
  running    : Bool
  proxy      : Bool
  line       : Bool
  entry      : BitVec 10
  present    : BitVec 16
  progress   : BitVec 16
  instances  : BitVec 32
  absent     : BitVec 16
  restarts   : BitVec 16
  proxied    : BitVec 16
  generation : BitVec 8
  run        : Option CascadeRun
  proxyRun   : Option CascadeRun
  deriving DecidableEq, Repr, Inhabited

/-- GNS_STATUS (R371). -/
structure GnsState where
  estimate : Word
  g2       : Word
  tr       : Word
  avg      : Word
  step     : BitVec 48
  valid    : Bool
  avgSet   : Bool
  cNext    : BitVec 11
  changes  : BitVec 16
  deriving DecidableEq, Repr, Inhabited

/-- A CASCADE packet whose instance or data phase this member has not begun. -/
structure CascadePacket where
  port  : Port
  h     : CascadeHeader
  data  : List Flit
  slots : List SparseSlot
  deriving DecidableEq, Repr

/-- A notice for an instance this member has not begun (R363). -/
structure HeldNotice where
  port    : Port
  split   : Bool
  coord   : Coord
  cause   : Nat
  restart : Nat
  entry   : Nat
  deriving DecidableEq, Repr

structure CascadeState where
  engines : List CascadeEngine
  gns     : GnsState
  /-- Each tensor's count record for the step, by operand (R353), and operands whose 0x0E1 has been logged (R365). -/
  records   : List (Nat × CountRecord)
  absentLog : List Nat
  /-- Operations whose contribution the drop policy withdrew in the step (R69, R362). -/
  withdrawn : List Nat
  /-- Chains of the step that R369 counts: operation of the op 0 instance, delivered record, e of the final mean (R368). -/
  chains    : List (Nat × CountRecord × Word)
  /-- Packets that came before their instance or data phase, in order of arrival. -/
  early     : List CascadePacket
  notices   : List HeldNotice
  /-- Time of the last data or presence flit, by entry × 2 + direction (1 the + neighbour), in the step (R361). -/
  heard     : List (Nat × Nat)
  deriving DecidableEq, Repr

/-! ### Links (R409–R441) -/

/-- A packet queued for an output port: its virtual channel, its header fields and its flits. -/
structure Packet where
  vc    : BitVec 3
  flits : List Flit
  deriving DecidableEq, Repr, Inhabited

/-- One port: LINK_STATUS (R441) and the link layer (R415–R419, R427, R432–R435). -/
structure PortState where
  state        : BitVec 3
  stage        : BitVec 3
  spareUsed    : Bool
  weak         : Bool
  gen          : BitVec 4
  progress     : BitVec 16
  laneMap      : BitVec 12
  latency      : BitVec 16
  replays      : BitVec 32
  retrains     : BitVec 8
  routeDrops   : BitVec 16
  discards     : BitVec 16
  badCodewords : BitVec 32
  margin       : List (BitVec 8)
  lanes        : Nat
  rxExpected   : BitVec 10
  rxSinceAck   : Nat
  /-- Data flits of the packet being received, still to come. -/
  rxPending    : Nat
  rxDiscard    : Bool
  /-- Flits of that packet received so far, its header first. -/
  rxPacket     : List Flit
  /-- Free receive buffer per VC in flits, and credits to return. -/
  rxRoom       : List Nat
  toReturn     : List Nat
  rxRejecting  : Bool
  txNext       : BitVec 10
  /-- Sent and not acknowledged, oldest first; those to send again; flits of the packet being sent, still to come. -/
  replay       : List (BitVec 10 × List Flit)
  resend       : List (BitVec 10 × List Flit)
  txRest       : List Flit
  credits      : List Nat
  /-- Receive buffers of the peer. -/
  creditMax    : List Nat
  control      : List Flit
  /-- BEAT flits with the time each was ready in ns: its age is written when it leaves (R427). -/
  beats        : List (Nat × Flit)
  queues       : List Packet
  /-- Ranks of the Steady and Bulk VCs (R416), Steady grants since Bulk began to wait. -/
  steadyRank   : List Nat
  bulkRank     : List Nat
  bulkWait     : Nat
  /-- The seq last NAKed by this receiver and how often in a row; the same of NAKs received. -/
  nakSeq       : Option (BitVec 10)
  nakRun       : Nat
  heardSeq     : Option (BitVec 10)
  heardRun     : Nat
  stepRetrains : Nat
  lastNakNs    : Option Nat
  dropLogged   : Bool
  /-- A new lane map and the first codeword under it, of the codewords received and of those sent. -/
  newMap       : Option (BitVec 12 × BitVec 10)
  txMap        : Option (BitVec 12 × BitVec 10)
  /-- The spare lane is calibrated and not weak. -/
  spareReady   : Bool
  /-- Equaliser taps by lane and tap; tap moves asked of the peer and not answered. -/
  taps         : List (BitVec 3 × BitVec 2 × Int)
  asked        : List (BitVec 3 × BitVec 2)
  deriving DecidableEq, Repr, Inhabited

/-- A Hokuano request whose completion has not been sent (R439, R440): its tag and the device and lines it waits for. -/
structure HkRequest where
  tag    : BitVec 8
  read   : Bool
  target : Coord
  lines  : Nat
  deriving DecidableEq, Repr, Inhabited

structure LinkState where
  ports    : List PortState
  requests : List HkRequest
  /-- Requests held while the role that answers them has no core, with the step of their receipt (R343). -/
  held     : List (Instr × Nat)
  deriving DecidableEq, Repr

/-! ### Checkpoints, restore, hangs, resets, spares (R443–R473) -/

/-- A piece of a drain or copy sent and not yet acknowledged (R451, R453): the offset just past it in the target's area, its
bytes, the row it carries, whether it ends the header. -/
structure DrainPart where
  after  : Nat
  bytes  : Nat
  row    : Option (Nat × Nat)
  header : Bool
  deriving DecidableEq, Repr, Inhabited

/-- An NVMe command under way (R454). -/
inductive NvmeCommand where
  | write (lba bytes : Nat)
  | flush
  | header (lba : Nat)
  | readHeader (lba : Nat)
  | readSet (lba bytes : Nat)
  deriving DecidableEq, Repr, Inhabited

/-- A target's record of CKPT_STATUS (R470) with the instance or copy under way (R450–R453). -/
structure CkptTarget where
  progress   : BitVec 16
  active     : Bool
  /-- A copy of the pinned set is under way, over one instance or more (R453). -/
  copying    : Bool
  pinned     : Bool
  pinSet     : Bool
  failed     : BitVec 16
  completed  : BitVec 32
  /-- Set being written, its capture step, bytes to send, sent and acknowledged, whether it covers. -/
  set        : Bool
  step       : Nat
  size       : Nat
  sent       : Nat
  acked      : Nat
  covering   : Bool
  headerSent : Bool
  ackSeen    : Bool
  /-- Sent and not acknowledged, oldest first; the objects and rows of the instance are sent. -/
  unacked    : List DrainPart
  bodySent   : Bool
  /-- Weight version and job slot that the drain took at its open position (R311). -/
  version    : Nat
  slot       : Nat
  /-- Position of a copy within the pinned set, and where the instance's part ends (R453). -/
  copyPos    : Nat
  copyEnd    : Nat
  /-- Sets complete, with header.step; sets whose header reads complete = 0 (R450). -/
  complete   : List (Option Nat)
  zeroed     : List Bool
  deriving DecidableEq, Repr, Inhabited

/-- Rows of a row map that are not clean (R451): target, set, table, node; true is sent, false dirty. -/
structure RowMark where
  target : Fin 3
  set    : Bool
  table  : Nat
  node   : Nat
  sent   : Bool
  deriving DecidableEq, Repr, Inhabited

/-- What a restore reads (R457, R459): both set headers; a set from an offset on; for a rejoin, the neighbour's WEIGHT_STATUS and
WEIR_STATUS in step S − 1, its dense operands from one buffer, its status at pos 0 of step S. -/
inductive RestoreStage where
  | idle
  | headers
  | body
  | poll
  | dense (bufferB : Bool)
  | status
  deriving DecidableEq, Repr, Inhabited

/-- RESTORE_CTL and RESTORE_STATUS (R456, R471) with the bytes gathered. -/
structure RestoreState where
  ctlSource  : BitVec 2
  ctlRejoin  : Bool
  ctlSet     : BitVec 2
  ctlStep    : BitVec 48
  progress   : BitVec 16
  phase      : BitVec 3
  source     : BitVec 2
  set        : Bool
  rejoin     : Bool
  code       : BitVec 12
  ckptStep   : BitVec 48
  loss       : Word
  replayLoss : Word
  /-- What is being read (R457, R459): its bytes placed so far by offset, their lines that came poisoned, how many are placed and
  awaited, and the object number of a shared store. -/
  stage      : RestoreStage
  data       : List Host.Cell
  poison     : List Nat
  got        : Nat
  wanted     : Nat
  /-- Bytes of earlier stages and of all, for progress (R471). -/
  before     : Nat
  total      : Nat
  object     : Option (BitVec 32)
  /-- A rejoin's set was taken under this layout; its dense operands are copied from this buffer (R459). -/
  layout     : Nat
  denseFrom  : Option Bool
  /-- The header's loss_valid, det and samples for the replay step (R458). -/
  lossValid  : Bool
  det        : Bool
  samples    : BitVec 32
  /-- A restore loaded: the coming START runs the replay step (R457, R458); the step that is it. -/
  armed      : Bool
  replayStep : Option Nat
  /-- The restore is a Weir rollback (R320, R460). -/
  rollback   : Bool
  /-- Schedule record and seed block of the set, for the coming START (R457). -/
  schedule   : List Byte
  seedBlock  : List Byte
  deriving DecidableEq, Repr, Inhabited

/-- A HANG_RECORD header (R462); the rest of the record is formed when it is read. -/
structure HangRecord where
  step    : BitVec 48
  pos     : BitVec 16
  code    : BitVec 12
  region  : BitVec 2
  level   : BitVec 2
  unit    : BitVec 14
  context : BitVec 14
  slot    : BitVec 2
  basket  : BitVec 32
  rungs   : BitVec 3
  done    : BitVec 4
  partial_ : Bool
  tag     : BitVec 8
  /-- Bytes 64–4,095 as collected. -/
  body    : List Byte
  deriving DecidableEq, Repr, Inhabited

/-- A reset ladder under way (R463): the unit, the rung running (0 while the record is collected), its hang record. -/
structure Ladder where
  unit   : WatchedUnit
  rung   : Nat
  record : Nat
  /-- Header of the hang record, which is written after the rest of it (R514). -/
  header : HangRecord
  deriving DecidableEq, Repr

/-- A pending spare swap (R468, R469): journal kind 1–5, unit and detail words, code. -/
structure Swap where
  kind     : Nat
  unit     : Nat
  detail   : Nat
  code     : Nat
  recorded : Bool
  running  : Bool
  /-- Dial time at which it started, in ns. -/
  began    : Nat
  deriving DecidableEq, Repr, Inhabited

/-- An event that a wear monitor counts (R467): monitor, unit word, step. -/
structure WearEvent where
  monitor : Nat
  unit    : Nat
  step    : Nat
  deriving DecidableEq, Repr, Inhabited

structure ResilState where
  targets    : List CkptTarget
  rows       : List RowMark
  /-- The schedule record formed at the step's capture point (R444, R449). -/
  capture    : List Byte
  captureV   : Nat
  /-- NVMe commands under way, oldest first (R454). -/
  nvme       : List NvmeCommand
  restore    : RestoreState
  hangs      : List HangRecord
  /-- Ladders under way, oldest first. -/
  ladders    : List Ladder
  /-- Units whose last rung passed in the step (R463). -/
  passed     : List (WatchedUnit × Nat)
  /-- RESET_STATUS (R472) and the tags of engines (R32). -/
  tagDevice  : BitVec 8
  tagRegions : List (BitVec 8)
  tagEngines : List (Nat × BitVec 8)
  lastRung   : BitVec 3
  rung1      : BitVec 16
  rung2      : BitVec 16
  rung3      : BitVec 16
  hangCount  : BitVec 16
  stale      : BitVec 32
  records    : BitVec 4
  /-- Pending swaps in order of marking; REPAIR_STATUS (R473). -/
  swaps      : List Swap
  swapsDone  : BitVec 16
  winStarted : Nat
  winDone    : Nat
  swapProgress : BitVec 16
  half       : Bool
  /-- Journal records waiting for the end of the window (R469). -/
  toRecord   : List RepairRecord
  /-- Events of the last 1,000 steps. -/
  wear       : List WearEvent
  /-- Ring-oscillator baselines: unit word, kHz (R467). -/
  baselines  : List (Nat × Nat)
  /-- Unit map as amended by the repair journal and by swaps: active blocks, Spout cores, cells (R104, R468). -/
  activeBlocks : List (BitVec 9)
  activeSpouts : List (BitVec 9)
  failedBlocks : List (Nat × Nat)
  failedCells  : List (Nat × Nat × Nat)
  failedSpouts : List (Nat × Nat)
  failedCores  : List Nat
  groupsUsed   : List Nat
  /-- Units marked with no spare left (R468): kind, unit and detail words. -/
  exhausted    : List (Nat × Nat × Nat)
  fencedSpouts : List (Nat × Nat)
  deriving DecidableEq, Repr

/-- The whole device. -/
structure State where
  /-- Commands waiting, first in, first out. -/
  pending  : List Instr
  /-- The model's own counter of free values drawn (not a register of the device). -/
  draws    : Nat
  power    : PowerState
  flash    : FlashState
  start    : StartState
  staging  : StagingState
  cfg      : ImageCfg
  dial     : DialState
  logs     : LogState
  run      : RunState
  mbs      : List MicroBatch
  sched    : List RegionSched
  cores    : List ControlCore
  memory   : MemState
  tables   : TablesState
  cursors  : List Cursor
  rambler  : List RamblerRegion
  gather   : GatherState
  train    : TrainState
  blocks   : List BlockState
  cascade  : CascadeState
  links    : LinkState
  resil    : ResilState
  deriving DecidableEq, Repr

/-! ### Values right after reset -/

/-- Without input power (R477, R502): every domain off, EN and the pins low as pulled on the module, RESET_N pulled up. -/
def PowerState.reset : PowerState where
  stage := .off
  hold := .none
  vinOk := false
  refclkOk := true
  en := false
  resetN := true
  pgOut := false
  thermN := true
  thermLatch := false
  alert := false
  strap := 0
  cause := 0
  code := 0
  estop := false
  on := 0
  ramping := 0
  failed := 0
  blocks := List.replicate 36 ⟨0, false, false, 0, 0, 0, 0, 0⟩
  sensors := []
  telem := ⟨0, 0, 0, 0, 0, 0, 0, 0⟩
  xspiResetN := false
  perstA := false
  perstB := false
  carryStep := 0
  carryCode := 0
  carryMode := 0
  carried := 0
  statusPtr := 0
  journalPtr := 0
  reply := none
  tap := .bypass
  scanReg := 0
  scanDrives := false

/-- An erased flash, whose counter nothing has provisioned. -/
def FlashState.reset : FlashState where
  dir0 := none
  dir1 := none
  slot0 := []
  slot1 := []
  journal := []
  ringFree := 24576
  failedFrom := 0
  repair0 := []
  repair1 := []
  memo := none
  skipA := 0
  skipB := 0
  helper := none
  rpmc := true
  rpmcValue := 0
  rpmcOwn := none

def StartState.reset : StartState where
  progress := 0
  step := 0
  failedRun := 0
  state := 0
  slot := false
  pendingTry := false
  rpmcPresent := false
  begun := false
  identified := false
  seed := 0
  identityKey := 0
  fingerprint := 0
  startCount := 0
  refused := false
  imageDigest := []
  imageSv := 0
  signer := 0
  ownerId := 0
  records := []
  loaded := false
  x := 0
  y := 0
  z := 0
  ddrGib := 0
  cxlAGib := 0
  cxlBGib := 0
  nvmeUp := false

def StagingState.reset : StagingState where
  progress := 0
  phase := 0
  code := 0
  bytes := 0
  open_ := false
  commitTag := none
  busy := []

def DialState.reset : DialState where
  pos := 0
  step := 0
  periodNs := 0
  acc := 0
  trim := 0
  rootEpoch := 0
  rootCoord := 0
  isRoot := false
  locked := false
  detBroken := false
  grants := 0
  extRefActive := false
  missed := 0
  heard := false
  lossLogged := false
  crossed := false
  instances := []
  grantBeats := []
  waiting := []
  held := []
  granted := []
  reportMin := none
  reportEarly := none
  ownSlack := none
  calm := 0
  settledFrom := 0
  nextPeriod := none
  haltCause := 0
  syncOut := false
  syncOffset := 0
  syncPeriod := none
  go := false
  ns := 0

def DialFault.zero : DialFault := ⟨0, 0, 0, 0, 0, 0, 0, 0, 0, 0, 0, 0, 0⟩
def DeviceFault.zero : DeviceFault := ⟨0, 0, 0, 0, 0, 0, 0, 0, false, 0, 0, 0⟩

def LogState.reset : LogState where
  dialLog := List.replicate 64 DialFault.zero
  deadlines := 0
  grantsMade := 0
  denials := 0
  beatsLost := 0
  lockLost := 0
  epochs := 0
  staleBeats := 0
  lateReports := 0
  dialOver := 0
  dialNext := 0
  dialWritten := 0
  deviceLog := List.replicate 128 DeviceFault.zero
  next := 0
  wrapped := false
  written := 0
  overwrites := 0
  hangNext := 0
  errorCounts := List.replicate 512 0

def RunState.reset : RunState where
  run := 0
  slot := 0
  stopCause := 0
  mbCount := 0
  cancelled := 0
  intakeMissed := 0
  runStep := 0
  pauseAt := none
  stopAt := none
  evalAt := none
  ckptAt := none
  startAt := none
  evalNow := false
  ckptNow := false
  c := 0
  accepted := none
  block := none
  held := none
  firstRun := false

def RegionSched.reset : RegionSched where
  contexts := []
  completed := []
  ctxPeak := 0
  admitted := 0
  dispatched := 0
  spilledNow := 0
  spills := 0
  timeouts := 0
  cancelled := 0
  cycles := 0

def ControlCore.reset : ControlCore := ⟨0, false, 0, 0, 0, false, 0, none⟩

def ControllerState.reset : ControllerState where
  up := false
  skipped := false
  rate := 0
  spareBg := false
  capacity := 0
  inner := 0
  permissions := 0
  scrubAt := none
  regulators := []
  log := []
  spareRows := []
  refreshDoubled := false

def PartState.reset : PartState where
  corrected := 0
  uncorrectable := 0
  poisonReads := 0
  level := 0
  overflows := 0
  owed := 0
  capped := 0
  bulkBytes := 0
  logLost := 0
  lapLines := []
  lastLapMs := 0
  laps := 0
  long := false
  lapStartNs := 0

def FillState.reset : FillState := ⟨0, false, 0, 0, 0, 0, []⟩

def MemState.reset : MemState where
  mem := ⟨[], []⟩
  controllers := List.replicate 26 ControllerState.reset
  parts := List.replicate 64 PartState.reset
  scrubbing := false
  fill := FillState.reset
  stepFault := false
  ranks := []
  grants := []
  carried := []
  spoutLocal := []
  fabricCorrected := [0, 0, 0, 0]

def TableState.reset : TableState := ⟨false, false, false, 0, 0, 0⟩
def Cooler.reset : Cooler := ⟨[], [], 0, 0, 0, 0⟩

def TablesState.reset : TablesState where
  tables := List.replicate 256 TableState.reset
  coolers := List.replicate 4 Cooler.reset
  directory := []
  ownerSketch := []
  batch := 0
  batchDone := 0
  batchRows := []
  waitingRows := []
  aborted := 0
  dirFull := 0
  activeLayout := 0
  pendingLayout := 0
  pendingValid := false
  loadProgress := 0
  generation := 0
  moveProgress := 0
  reshardOn := false
  holdEnded := false
  reshardDone := true
  movesLeft := 0
  movesAll := 0
  reports := 0
  ecc := 0
  bankCorrected := 0
  stalled := []
  updating := []
  heldRequests := []

def Cursor.reset : Cursor := ⟨0, 0, 0, 0, 0⟩
def RamblerRegion.reset : RamblerRegion := ⟨0, 0, 0, 0, 0⟩
def GatherRegion.reset : GatherRegion := ⟨0, 0, 0, 0, 0, 0, 0, 0, false⟩

def GatherState.reset : GatherState where
  regions := List.replicate 4 GatherRegion.reset
  requests := []
  rows := []
  sectors := []
  badLines := []
  progress := 0
  retEdges := 0
  slotsUsed := 0
  full := 0
  poisoned := 0
  skipped := []
  abandoned := false

def StashRegion.reset : StashRegion := ⟨0, 0, 0, 0, 0, 0⟩
def NormTap.reset : NormTap := ⟨0, 0, 0, 0, 0, 0, false⟩

def TrainState.reset : TrainState where
  versions := [0, 0, 0, 0]
  written := false
  reclaimed := 0
  skippedV := 0
  samples := 0
  loss := 0
  nonFinite := 0
  storeFirst := []
  updates := []
  stash := []
  preRows := []
  stashRegion := List.replicate 4 StashRegion.reset
  taps := List.replicate 256 NormTap.reset
  weirMu := 0
  weirSigma := 0
  weirLoss := 0
  weirCount := 0
  weirClean := 0
  rollbacks := 0
  lastFlag := 0
  weirFlags := 0
  decided := false
  flagged := false
  holdUntil := none
  skip := false
  rollback := false
  weirRecord := none
  reclaimDone := false
  tapSums := []
  evalLoss := 0
  evalSamples := 0
  evalDropped := 0
  evalStep := 0
  evalVersion := 0
  evalCount := 0

def BlockState.reset : BlockState := ⟨0, 0, 0, 0, 0, 0, 0, 0, 0, false, 0, [], 0, none, none, [], none, [], []⟩
def CascadeEngine.reset : CascadeEngine := ⟨0, 0, false, false, false, 0, 0, 0, 0, 0, 0, 0, 0, none, none⟩
def GnsState.reset : GnsState := ⟨0, 0, 0, 0, 0, false, false, 0, 0⟩
def CascadeState.reset : CascadeState :=
  ⟨List.replicate 2 CascadeEngine.reset, GnsState.reset, [], [], [], [], [], [], []⟩

def PortState.reset : PortState where
  state := 0
  stage := 0
  spareUsed := false
  weak := false
  gen := 0
  progress := 0
  laneMap := 0
  latency := 0
  replays := 0
  retrains := 0
  routeDrops := 0
  discards := 0
  badCodewords := 0
  margin := [0, 0, 0, 0, 0]
  lanes := 0
  rxExpected := 0
  rxSinceAck := 0
  rxPending := 0
  rxDiscard := false
  rxPacket := []
  rxRoom := [0, 0, 0, 0, 0, 0, 0, 0]
  toReturn := [0, 0, 0, 0, 0, 0, 0, 0]
  rxRejecting := false
  txNext := 0
  replay := []
  resend := []
  txRest := []
  credits := [0, 0, 0, 0, 0, 0, 0, 0]
  creditMax := [0, 0, 0, 0, 0, 0, 0, 0]
  control := []
  beats := []
  queues := []
  steadyRank := [0, 1, 2, 3, 6]
  bulkRank := [4, 5, 7]
  bulkWait := 0
  nakSeq := none
  nakRun := 0
  heardSeq := none
  heardRun := 0
  stepRetrains := 0
  lastNakNs := none
  dropLogged := false
  newMap := none
  txMap := none
  spareReady := false
  taps := []
  asked := []

def LinkState.reset : LinkState := ⟨List.replicate 7 PortState.reset, [], []⟩

def CkptTarget.reset : CkptTarget where
  progress := 0
  active := false
  copying := false
  pinned := false
  pinSet := false
  failed := 0
  completed := 0
  set := false
  step := 0
  size := 0
  sent := 0
  acked := 0
  covering := false
  headerSent := false
  ackSeen := false
  unacked := []
  bodySent := false
  version := 0
  slot := 0
  copyPos := 0
  copyEnd := 0
  complete := [none, none]
  zeroed := [false, false]

def RestoreState.reset : RestoreState where
  ctlSource := 0
  ctlRejoin := false
  ctlSet := 0
  ctlStep := 0
  progress := 0
  phase := 0
  source := 0
  set := false
  rejoin := false
  code := 0
  ckptStep := 0
  loss := 0
  replayLoss := 0
  stage := .idle
  data := []
  poison := []
  got := 0
  wanted := 0
  before := 0
  total := 0
  object := none
  layout := 0
  denseFrom := none
  lossValid := false
  det := false
  samples := 0
  armed := false
  replayStep := none
  rollback := false
  schedule := []
  seedBlock := []

def HangRecord.zero : HangRecord := ⟨0, 0, 0, 0, 0, 0, 0, 0, 0, 0, 0, false, 0, []⟩

def ResilState.reset : ResilState where
  targets := List.replicate 3 CkptTarget.reset
  rows := []
  capture := []
  captureV := 0
  nvme := []
  restore := RestoreState.reset
  hangs := List.replicate 8 HangRecord.zero
  ladders := []
  passed := []
  tagDevice := 0
  tagRegions := [0, 0, 0, 0]
  tagEngines := []
  lastRung := 0
  rung1 := 0
  rung2 := 0
  rung3 := 0
  hangCount := 0
  stale := 0
  records := 0
  swaps := []
  swapsDone := 0
  winStarted := 0
  winDone := 0
  swapProgress := 0
  half := false
  toRecord := []
  wear := []
  baselines := []
  activeBlocks := [0, 0, 0, 0]
  activeSpouts := [0, 0, 0, 0]
  failedBlocks := []
  failedCells := []
  failedSpouts := []
  failedCores := []
  groupsUsed := []
  exhausted := []
  fencedSpouts := []

/-- No configuration: what `cfg` holds before an image is read. -/
def ImageCfg.none : ImageCfg where
  header := ⟨0, 0, 0, 0, 0, 0, 0, 0, 0, 0, 0, 0⟩
  entries := []
  sundial := ⟨0, 0, 0, 0, 0, 0, []⟩
  layouts := []
  tables := []
  partMap := ⟨0, 0, []⟩
  resources := []
  hints := []
  slots := []
  enrolment := Option.none
  placement := []
  policy := ⟨0, false, false, 0, false⟩
  units := []
  digest := []

/-- The module without input power and with an erased flash (R477): it holds nothing. -/
def State.reset : State where
  pending := []
  draws := 0
  power := PowerState.reset
  flash := FlashState.reset
  start := StartState.reset
  staging := StagingState.reset
  cfg := ImageCfg.none
  dial := DialState.reset
  logs := LogState.reset
  run := RunState.reset
  mbs := []
  sched := List.replicate 4 RegionSched.reset
  cores := List.replicate 8 ControlCore.reset
  memory := MemState.reset
  tables := TablesState.reset
  cursors := List.replicate 2 Cursor.reset
  rambler := List.replicate 4 RamblerRegion.reset
  gather := GatherState.reset
  train := TrainState.reset
  blocks := List.replicate 36 BlockState.reset
  cascade := CascadeState.reset
  links := LinkState.reset
  resil := ResilState.reset

/-- Everything outside the housekeeping domain and the flash is lost (R477, R478, R482): what pins, sequencer, telemetry
and the start carry hold stays. -/
def State.loseDevice (s : State) : State :=
  { State.reset with
    pending := s.pending
    draws := s.draws
    power := s.power
    flash := s.flash
    dial := { DialState.reset with ns := s.dial.ns } }

end Sys2Proof.Machine
end

