-- ==== Sys2Proof/Machine/Ops.lean ====
section
/-! DEFINITION. Operations every family shares: memory of the tiers, logs and error counts (R512–R517), Hokuano
completions (R437–R440), partitions, job-slot lookups, dropping a micro-batch (R69), halting (R48). -/

namespace Sys2Proof.Machine

/-- The outcome of a command: no command of the KT1 stops the model. -/
abbrev Out := Host.Outcome State Fault Refusal

/-! ### Memory -/

/-- Key of a byte: tier and offset (R34). -/
def memKey (tier off : Nat) : Nat := tier * 2 ^ 48 + off

/-- Key of the 64-byte line that holds a byte (R378). -/
def lineKey (k : Nat) : Nat := k / 64 * 64

/-- A byte written since start, or none. -/
def Memory.byte? (m : Memory) (k : Nat) : Option Byte := lookupNat k m.cells

/-- Write one byte. -/
def Memory.set (m : Memory) (k : Nat) (b : Byte) : Memory := { m with cells := insertKey k b m.cells }

/-- Write bytes from a key upward. -/
def Memory.write (m : Memory) (k : Nat) : List Byte → Memory
  | [] => m
  | b :: bs => (m.set k b).write (k + 1) bs

/-- Whether a line is stored poisoned (R397). -/
def Memory.poisoned (m : Memory) (k : Nat) : Bool := m.poison.contains (lineKey k)

/-- Store a line poisoned or clean (R397). -/
def Memory.setPoison (m : Memory) (k : Nat) (p : Bool) : Memory :=
  if p then { m with poison := insertNat (lineKey k) m.poison }
  else { m with poison := m.poison.filter (· != lineKey k) }

/-- Keys of the lines a range touches. -/
def linesOf (k n : Nat) : List Nat :=
  if n = 0 then [] else (List.range ((k + n - 1) / 64 - k / 64 + 1)).map fun i => (k / 64 + i) * 64

/-- Addresses strictly rising. -/
def rising : List Nat → Bool
  | [] => true
  | [_] => true
  | a :: b :: r => a < b && rising (b :: r)

/-- The canonical form of memory. -/
def Memory.wf (m : Memory) : Bool := rising (m.cells.map (·.1)) && rising m.poison

/-- What a read of a byte gives (R402: undefined where never written, a free value). -/
def State.byteAt (s : State) (k : Nat) : Byte := (s.memory.mem.byte? k).getD (Config.unwritten s.draws k)

/-- Bytes from a key upward. -/
def State.bytesAt (s : State) (k n : Nat) : List Byte := (List.range n).map fun i => s.byteAt (k + i)

/-- A little-endian number in memory (R10). -/
def State.numAt (s : State) (k n : Nat) : Nat := ofLe (s.bytesAt k n)

def State.withMem (s : State) (m : Memory) : State := { s with memory := { s.memory with mem := m } }

/-- Advance the counter of free values. -/
def State.draw (s : State) : State := { s with draws := s.draws + 1 }

/-- A write by a unit of the device: a line with a poisoned beat is stored poisoned, a clean write of the whole line
clears stored poison, a smaller clean write keeps what is there (R392, R397). -/
def State.store (s : State) (k : Nat) (bs : List Byte) (poisoned : Bool) : State :=
  let n := bs.length
  let m := (linesOf k n).foldl (fun m l =>
    if poisoned then m.setPoison l true
    else if k ≤ l ∧ l + 64 ≤ k + n then m.setPoison l false else m) (s.memory.mem.write k bs)
  s.withMem m

/-- Any line of a range is stored poisoned. -/
def State.rangePoisoned (s : State) (k n : Nat) : Bool := (linesOf k n).any fun l => s.memory.mem.poisoned l

/-! ### The configuration in force -/

/-- The CXL port of a tier is skipped: its partitions have capacity zero (R106). -/
def State.skippedTier (s : State) (tier : Nat) : Bool :=
  (tier == 2 || tier == 3) && (s.memory.controllers.getD (22 + tier) ControllerState.reset).skipped

/-- The partition that holds an offset of a tier, with its number. -/
def State.partitionAt (s : State) (tier off : Nat) : Option (Nat × Partition) :=
  (s.cfg.partMap.parts.zipIdx.find? fun p => p.1.tier == tier && p.1.start ≤ off && off < p.1.start + p.1.len).map
    fun p => (p.2, p.1)

/-- The partition of a role (R385). -/
def State.partOf (s : State) (role : Nat) : Option (Nat × Partition) :=
  (s.cfg.partMap.parts.zipIdx.find? fun p => p.1.role == role).map fun p => (p.2, p.1)

/-- Where the Keep partition of control-core memory holds the copy of the Shard Map's layouts (R164): their entries in order, from its first
byte. DESIGN CHOICE, log entry 81. -/
def State.layoutCopy (s : State) : Option Nat := (s.partOf 5).map fun p => memKey p.2.tier p.2.start

/-- Entries of the layouts before layout `k`. -/
def State.layoutsBefore (s : State) (k : Nat) : Nat := ((s.cfg.layouts.take k).map (·.length)).sum

/-- The job slot that run control selected. -/
def State.slotCfg (s : State) : JobSlot := (lookupNat s.run.slot.toNat s.cfg.slots).getD ⟨⟨0, 0, 0, 0, 0, 0, false, 0, 0, false,
  0, false, 0, false, 0, 0, 0⟩, [], [], [], []⟩

def State.op (s : State) (j : Nat) : Option Op := s.slotCfg.ops[j]?
def State.operand (s : State) (i : Nat) : Option Operand := s.slotCfg.operands[i]?
def State.table (s : State) (id : Nat) : Option TableDesc := findTable s.cfg.tables id
def State.dialEntry (s : State) (i : Nat) : Option DialEntry := s.cfg.sundial.table[i]?

/-- This device's coordinate. -/
def State.coord (s : State) : Coord := ⟨s.start.x, s.start.y, s.start.z⟩

/-- Dimensions of the torus (R348). -/
def State.dims (s : State) : Nat × Nat × Nat := (s.cfg.header.shapeA + 1, s.cfg.header.shapeB + 1, s.cfg.header.shapeC + 1)

/-- A job slot counts as running in the running and paused states (R149). -/
def State.slotRunning (s : State) : Bool := s.run.run == 2 || s.run.run == 3

/-- Installed capacities (R35, R386). -/
def State.caps (s : State) : TierCaps :=
  ⟨s.start.ddrGib * 2 ^ 30, s.start.cxlAGib * 2 ^ 30, s.start.cxlBGib * 2 ^ 30⟩

/-- Active blocks and cells as windows see them: the unit map as amended (R104, R468). -/
def State.unitMap (s : State) : List UnitRegion :=
  s.cfg.units.zipIdx.map fun u =>
    { u.1 with
      blocks := (s.resil.activeBlocks.getD u.2 0).toNat
      spouts := (s.resil.activeSpouts.getD u.2 0).toNat
      cells := (List.range 9).map fun b => ((s.blocks[9 * u.2 + b]?).elim 0 fun x => x.active.toNat) }

/-! ### Parts of the state -/

def State.onRun (s : State) (f : RunState → RunState) : State := { s with run := f s.run }
def State.onDial (s : State) (f : DialState → DialState) : State := { s with dial := f s.dial }
def State.onLogs (s : State) (f : LogState → LogState) : State := { s with logs := f s.logs }
def State.onTrain (s : State) (f : TrainState → TrainState) : State := { s with train := f s.train }
def State.onTables (s : State) (f : TablesState → TablesState) : State := { s with tables := f s.tables }
def State.onGather (s : State) (f : GatherState → GatherState) : State := { s with gather := f s.gather }
def State.onCascade (s : State) (f : CascadeState → CascadeState) : State := { s with cascade := f s.cascade }
def State.onResil (s : State) (f : ResilState → ResilState) : State := { s with resil := f s.resil }
def State.onMemory (s : State) (f : MemState → MemState) : State := { s with memory := f s.memory }
def State.onLinks (s : State) (f : LinkState → LinkState) : State := { s with links := f s.links }
def State.onBlock (s : State) (b : Nat) (f : BlockState → BlockState) : State := { s with blocks := modifyAt s.blocks b f }
def State.onRestore (s : State) (f : RestoreState → RestoreState) : State :=
  s.onResil fun r => { r with restore := f r.restore }

/-- The generation tag of an engine, by its number in engineKeys (R32). -/
def State.engineTag (s : State) (k : Nat) : BitVec 8 := (lookupNat k s.resil.tagEngines).getD 0
/-- Numbers of a region's gather engine, of the Hokuano engine and of the drain engine. -/
def gatherEngineKey (region : Nat) : Nat := region * 1024 + 1
def hokuanoKey : Nat := 118
def drainEngineKey : Nat := 98
def State.onTarget (s : State) (t : Nat) (f : CkptTarget → CkptTarget) : State :=
  s.onResil fun r => { r with targets := modifyAt r.targets t f }

/-! ### Logs -/

/-- Count an occurrence of a code (R516); code 0x000 is never counted. -/
def State.countError (s : State) (code : Nat) : State :=
  if code = 0 ∨ code ≥ 512 then s
  else { s with logs := { s.logs with errorCounts := modifyAt s.logs.errorCounts code (satAdd · 1) } }

/-- What a log record names (R73, R512): region, level and unit, and the task context with its slot and basket. -/
structure Named where
  region  : Nat
  level   : Nat
  unit    : Nat
  context : Nat
  slot    : Nat
  basket  : Nat
  named   : Bool
  deriving DecidableEq, Repr

/-- A record that names nothing. -/
def noName : Named := ⟨0, 0, 0, 0, 0, 0, false⟩

/-- A record that names an engine (R511). -/
def engineName (region unit : Nat) : Named := ⟨region, 3, unit, 0, 0, 0, false⟩

/-- The control core with a role, as records name it (R511). -/
def State.roleName (s : State) (role : Nat) : Named := engineName 0 (104 + s.cores.findIdx fun c => c.role.toNat == role && c.tested)

/-- The role has a core that works (R343). -/
def State.roleUp (s : State) (role : Nat) : Bool := s.cores.any fun c => c.role.toNat == role && c.tested && c.taking.isNone

/-- Write a DEVICE_FAULT_LOG record (R512, R514) and count its code (R516); bits [109:76] of a record that names no
context read zero (R512). -/
def State.logDevice (s : State) (code : Nat) (who : Named) (dropped detail : Nat) : State :=
  let n := if who.named then who else { noName with basket := who.basket }
  let r : DeviceFault :=
    { step := s.dial.step, pos := s.dial.pos, code := BitVec.ofNat 12 code,
      region := BitVec.ofNat 2 n.region, level := BitVec.ofNat 2 n.level, unit := BitVec.ofNat 14 n.unit,
      context := BitVec.ofNat 14 n.context, slot := BitVec.ofNat 2 n.slot, named := n.named,
      basket := BitVec.ofNat 32 n.basket, dropped := BitVec.ofNat 16 (min dropped 65535),
      detail := BitVec.ofNat 352 detail }
  let l := s.logs
  ({ s with logs := { l with
      deviceLog := setAt l.deviceLog l.next.toNat r
      next := l.next + 1
      wrapped := l.wrapped || l.next == 127
      written := l.written + 1
      overwrites := if l.wrapped then satAdd l.overwrites 1 else l.overwrites } }).countError code

/-- Write a DIAL_FAULT_LOG record (R73, R515) and count its code. -/
def State.logDial (s : State) (code entry type policy : Nat) (n : Named) (dropped : Nat) : State :=
  let r : DialFault :=
    { step := s.dial.step, pos := s.dial.pos, entry := BitVec.ofNat 10 entry, type := BitVec.ofNat 4 type,
      policy := BitVec.ofNat 2 policy, region := BitVec.ofNat 2 n.region, level := BitVec.ofNat 2 n.level,
      unit := BitVec.ofNat 14 n.unit, context := BitVec.ofNat 14 n.context, slot := BitVec.ofNat 2 n.slot,
      code := BitVec.ofNat 12 code, basket := BitVec.ofNat 32 n.basket, dropped := BitVec.ofNat 16 (min dropped 65534) }
  let l := s.logs
  ({ s with logs := { l with
      dialLog := setAt l.dialLog l.dialNext.toNat r
      dialNext := l.dialNext + 1
      dialWritten := l.dialWritten + 1
      dialOver := if l.dialWritten ≥ 64 then satAdd l.dialOver 1 else l.dialOver } }).countError code

/-- The deterministic guarantee lapses (R82): the bit and one record, the first time. -/
def State.lapse (s : State) : State :=
  if s.cfg.sundial.det && !s.dial.detBroken then
    ({ s with dial := { s.dial with detBroken := true } }).logDial 0x047 0 0 0 noName 0
  else s

/-- A halt is due at the step boundary with a cause (R48, R69); the first cause stands. -/
def State.haltAtBoundary (s : State) (cause : Nat) : State :=
  if s.dial.haltCause = 0 then { s with dial := { s.dial with haltCause := BitVec.ofNat 3 cause } } else s

/-! ### Ports and completions -/

def State.port (s : State) (p : Nat) : PortState := (s.links.ports[p]?).getD PortState.reset

def State.onPort (s : State) (p : Nat) (f : PortState → PortState) : State :=
  { s with links := { s.links with ports := modifyAt s.links.ports p f } }

/-- Queue a packet on a port. -/
def State.sendPacket (s : State) (p : Nat) (k : Packet) : State := s.onPort p fun x => { x with queues := x.queues ++ [k] }

/-- Queue a control flit on a port (R416: in order of arrival). -/
def State.sendControl (s : State) (p : Nat) (f : Flit) : State := s.onPort p fun x => { x with control := x.control ++ [f] }

/-- A flit from its fields, bit 0 lowest (R410). -/
def flitOf (fs : List (Nat × Nat)) : Flit := BitVec.ofNat 512 (pack fs)

/-- Bytes of a flit. -/
def flitBytes (f : Flit) : List Byte := leBytes f.toNat 64

/-- Flits of a byte string, the last padded with zeros. -/
def flitsOf (bs : List Byte) : List Flit :=
  (List.range (ceilDiv bs.length 64)).map fun i => BitVec.ofNat 512 (ofLe ((bs.drop (64 * i)).take 64))

/-- Forget a request's tag. -/
def State.dropTag (s : State) (tag : BitVec 8) : State :=
  { s with links := { s.links with requests := s.links.requests.filter fun r => r.tag != tag } }

/-- Queue a completion packet (R437, R438): tag, code and data flits, with READ's poison map. -/
def State.sendCompletion (s : State) (tag : BitVec 8) (code : Nat) (poison : Nat) (data : List Flit) : State :=
  let vc := if data.isEmpty then 0 else 1
  let h := flitOf [(1, 4), (0x3F, 6), (vc, 3), (0, 3), (data.length, 7), (0, 1), (tag.toNat, 8), (code, 12), (0, 20), (poison, 64)]
  s.sendPacket 6 ⟨BitVec.ofNat 3 vc, h :: data⟩

/-- Complete a request: exactly one completion, whose code is counted (R439, R516). -/
def State.complete (s : State) (h : HkHeader) (code : Nat) : State := (s.sendCompletion h.tag code 0 []).countError code

/-! ### Spares (R467–R469) -/

/-- Unit word of a repair record (R469), as bits [63:48]: class 0 cell, 1 block, 2 Spout core. -/
def blockUnit (b : Nat) : Nat := 2 ^ 13 + b / 9 + (b % 9) * 4
def cellUnit (b c : Nat) : Nat := b / 9 + (b % 9) * 4 + c * 64
def spoutUnit (r i : Nat) : Nat := 2 * 2 ^ 13 + r + i * 64

/-- Class, region, block and cell or core of a unit word. -/
def unitClass (u : Nat) : Nat := field u 13 3
def unitBlock (u : Nat) : Nat := 9 * field u 0 2 + field u 2 4
def unitRegion (u : Nat) : Nat := field u 0 2
def unitIndex (u : Nat) : Nat := field u 6 5

/-- Physical blocks of a region that are neither active nor failed (R26, R468). -/
def State.spareBlocks (s : State) (r : Nat) : List Nat :=
  (List.range 9).filter fun b =>
    !((s.resil.activeBlocks.getD r 0).getLsbD b) && !s.resil.failedBlocks.contains (r, b)

/-- Spout cores of a region that are neither active nor failed. -/
def State.spareSpouts (s : State) (r : Nat) : List Nat :=
  (List.range 9).filter fun i =>
    !((s.resil.activeSpouts.getD r 0).getLsbD i) && !s.resil.failedSpouts.contains (r, i)

/-- Cells of a block that are neither active nor failed (R27). -/
def State.spareCells (s : State) (b : Nat) : List Nat :=
  (List.range 17).filter fun c =>
    !((s.blocks.getD b BlockState.reset).active.getLsbD c) && !s.resil.failedCells.contains (b / 9, b % 9, c)

/-- A unit of kind 1 stops taking work (R31, R468). -/
def State.fence (s : State) (u : Nat) : State :=
  match unitClass u with
  | 0 => { s with blocks := modifyAt s.blocks (unitBlock u) fun b =>
      { b with cellsFenced := b.cellsFenced ||| (1#17 <<< unitIndex u) } }
  | 1 => { s with blocks := modifyAt s.blocks (unitBlock u) fun b => { b with fenced := true } }
  | _ => { s with resil := { s.resil with fencedSpouts :=
      (unitRegion u, unitIndex u) :: s.resil.fencedSpouts.filter (· != (unitRegion u, unitIndex u)) } }

/-- Spares left for a unit of kind 1 that no pending swap of the same region or block takes. -/
def State.sparesFor (s : State) (u : Nat) : Nat :=
  let taken (f : Nat → Bool) : Nat := (s.resil.swaps.filter fun w => w.kind == 1 && unitClass w.unit == unitClass u && f w.unit).length
  match unitClass u with
  | 0 => (s.spareCells (unitBlock u)).length - taken fun v => unitBlock v == unitBlock u
  | 1 => (s.spareBlocks (unitRegion u)).length - taken fun v => unitRegion v == unitRegion u
  | _ => (s.spareSpouts (unitRegion u)).length - taken fun v => unitRegion v == unitRegion u

/-- A repair record of the present (R469). -/
def State.repairNow (s : State) (kind pendKind unit detail code : Nat) : RepairRecord :=
  { seq := 0, kind := BitVec.ofNat 4 kind, pendKind := BitVec.ofNat 4 pendKind, unit := BitVec.ofNat 16 unit, detail := BitVec.ofNat 32 detail
    step := s.dial.step, startCount := s.start.startCount, code := BitVec.ofNat 12 code }

/-- A unit waits for its swap, or has no spare to wait for (R468). -/
def State.isMarked (s : State) (kind unit detail : Nat) : Bool :=
  (s.resil.swaps.any fun w => w.kind == kind && w.unit == unit && w.detail == detail) || s.resil.exhausted.contains (kind, unit, detail)

/-- A spare is left for a unit (R467, R468): a slice has one spare bank group; a lane's spare is looked for in the window. -/
def State.hasSpare (s : State) (kind unit : Nat) : Bool :=
  match kind with
  | 1 => s.sparesFor unit != 0
  | 4 => !s.resil.groupsUsed.contains unit && !s.resil.swaps.any fun w => w.kind == 4 && w.unit == unit
  | _ => true

/-- A marked unit with no spare left (R468): 0x119, and a record of kind 8, by which the next start finds it failed (R104). -/
def State.noSpare (s : State) (kind unit detail code : Nat) (recorded : Bool) : State :=
  let s := s.logDevice 0x119 noName 0 0
  { s with resil := { s.resil with
      exhausted := s.resil.exhausted ++ [(kind, unit, detail)]
      toRecord := s.resil.toRecord ++ if recorded then [] else [s.repairNow 8 kind unit detail code] } }

/-- Mark a unit for replacement at the next maintenance window (R467, R468), once: it stays fenced until then. `kind`, `unit` and `detail`
are the repair record's (R469). -/
def State.markSwap (s : State) (kind unit detail code : Nat) : State :=
  if s.isMarked kind unit detail then s else
  let s := if kind = 1 then s.fence unit else s
  if s.hasSpare kind unit then { s with resil := { s.resil with swaps := s.resil.swaps ++ [⟨kind, unit, detail, code, false, false, 0⟩] } }
  else s.noSpare kind unit detail code false

/-- A wear trigger holds (R467): 0x117, and the unit is marked. -/
def State.wornOut (s : State) (kind unit detail : Nat) (who : Named) : State :=
  if s.isMarked kind unit detail then s else (s.logDevice 0x117 who 0 0).markSwap kind unit detail 0x117

/-! ### Job slots -/

/-- The region of a micro-batch (R121); of a scope 2 instance, op mod 4 (R331). -/
def regionOfMb (mb : Nat) : Nat := mb % 4

/-- Level and unit of a work item's unit, and whether its region is named with it (R73, R511): a block, or an engine by its number. -/
def State.unitOf (s : State) (t : TaskContext) : Nat × Nat × Bool :=
  let i := t.unitIndex.toNat
  let role := match (s.op t.op.toNat).map (·.body) with
    | some (.fill _ _) => 3
    | _ => 5
  match t.unit.toNat with
  | 0 => (3, 0, true)
  | 1 => (3, 1, true)
  | 2 => (1, i, true)
  | 3 => (3, 16 + i, true)
  | 4 => (3, 3, true)
  | 5 => (s.cores.findIdx? fun c => c.role.toNat == role).elim (0, 0, true) fun k => (3, 104 + k, false)
  | 6 => (3, 96 + field ((s.dialEntry t.entry.toNat).elim 0 (·.param)) 2 1, false)
  | _ => (0, 0, true)

/-- A work item as a record names it (R73, R511): region, level, unit, context, slot, basket. -/
def State.nameOf (s : State) (c : CtxId) : Named :=
  match (s.sched[c.region.val]?).bind fun r => lookupNat c.number r.contexts with
  | some t =>
    let m := s.mbs.find? fun m => m.mb == t.mb.toNat && m.step == t.step.toNat
    let u := s.unitOf t
    ⟨if u.2.2 then c.region.val else 0, u.1, u.2.1, c.number, t.slot.toNat, m.elim 0 (·.basket), true⟩
  | none => ⟨c.region.val, 0, 0, c.number, 0, 0, true⟩

/-- The work item of lowest task context among a micro-batch's, as a record of its cancelling names it; with none, its basket alone (R73, R512). -/
def State.nameMb (s : State) (m : MicroBatch) : Named :=
  let held : List CtxId := s.sched.zipIdx.flatMap fun r =>
    (r.1.contexts.filter fun x => x.2.mb.toNat == m.mb && x.2.step.toNat == m.step).map fun x => ⟨BitVec.toFin (BitVec.ofNat 2 r.2), x.1⟩
  match leastBy (fun c => c.number) held with
  | some c => s.nameOf c
  | none => { noName with basket := m.basket }

/-- A task context. -/
def State.ctx (s : State) (c : CtxId) : Option TaskContext :=
  (s.sched[c.region.val]?).bind fun r => lookupNat c.number r.contexts

def State.onRegion (s : State) (r : Nat) (f : RegionSched → RegionSched) : State := { s with sched := modifyAt s.sched r f }

def State.setCtx (s : State) (c : CtxId) (t : TaskContext) : State :=
  s.onRegion c.region.val fun r => { r with contexts := insertKey c.number t r.contexts }

def State.freeCtx (s : State) (c : CtxId) : State :=
  { s.onRegion c.region.val fun r => { r with contexts := r.contexts.filter fun x => x.1 != c.number } with
    gather := { s.gather with
      rows := s.gather.rows.filter fun x => x.ctx != c, sectors := s.gather.sectors.filter fun x => x.ctx != c
      badLines := s.gather.badLines.filter fun x => x.1 != c } }

/-- A line reaches a work item poisoned: it is stored so, or a fabric word of it was (R31, R33). -/
def State.lineBad (s : State) (c : CtxId) (k : Nat) : Bool :=
  s.memory.mem.poisoned k || s.gather.badLines.contains (c, lineKey k)

/-- A micro-batch of a step. -/
def State.mbOf (s : State) (mb step : Nat) : Option MicroBatch := s.mbs.find? fun m => m.mb == mb && m.step == step

def State.onMb (s : State) (mb step : Nat) (f : MicroBatch → MicroBatch) : State :=
  { s with mbs := s.mbs.map fun m => if m.mb == mb && m.step == step then f m else m }

/-- A dropped micro-batch holds copies no longer (R69, R338), once no item of it runs. -/
def State.freeDropped (s : State) (mb step : Nat) : State :=
  if s.sched.any fun r => r.contexts.any fun x => x.2.mb.toNat == mb && x.2.step.toNat == step then s
  else s.onMb mb step fun m => if m.dropped then { m with copies := [], companions := [], staging := [], reruns := [] } else m

/-- Drop a micro-batch (R69): its contexts are cancelled and freed, its copies, companions, staging and stash pages are
released, its outstanding row requests forgotten; its samples never reach the step's totals. An item on a Spout core runs to its end, and
the copies wait for it (R338). -/
def State.dropMb (s : State) (mb step : Nat) : State :=
  match s.mbOf mb step with
  | none => s
  | some m =>
    if m.dropped || m.committed then s else
    let mine (t : TaskContext) : Bool := t.mb.toNat == mb && t.step.toNat == step
    let cancelled (r : RegionSched) : Nat := (r.contexts.filter fun x => mine x.2).length
    let clear (r : RegionSched) : RegionSched :=
      { r with contexts := r.contexts.filter (fun x => !mine x.2 || x.2.state == 3 && x.2.unit == 3), cancelled := satAdd r.cancelled (cancelled r) }
    let s := { s with sched := s.sched.map clear }
    let s := (s.onMb mb step fun m => { m with dropped := true }).freeDropped mb step
    let s := { s with train := { s.train with
      stash := s.train.stash.filter fun e => !(e.mb == mb && e.step == step)
      preRows := s.train.preRows.filter fun e => !(e.mb == mb && e.step == step) } }
    let s : State := { s with
      gather := { s.gather with
        requests := s.gather.requests.filter fun q => (s.ctx q.ctx).isSome, rows := s.gather.rows.filter fun x => (s.ctx x.ctx).isSome
        sectors := s.gather.sectors.filter fun x => (s.ctx x.ctx).isSome
        badLines := s.gather.badLines.filter fun x => (s.ctx x.1).isSome }
      blocks := s.blocks.map fun b => { b with
        product := b.product.filter fun p => !(p.mb == mb && p.step == step)
        segments := b.segments.filter fun x => !(x.mb == mb && x.step == step)
        pieces := b.pieces.filter fun x => !(x.mb == mb && x.step == step) } }
    s.lapse

/-- An item of a dropped micro-batch has run to its end (R338). -/
def State.endDropped (s : State) (c : CtxId) : State :=
  match s.ctx c with
  | some t => (s.freeCtx c).freeDropped t.mb.toNat t.step.toNat
  | none => s

/-- Drop a micro-batch and log why, naming the context (R166, R244, R512), whose item ends with it. -/
def State.dropFor (s : State) (c : CtxId) (code detail : Nat) : State :=
  let n := s.nameOf c
  match s.ctx c with
  | some t => ((s.dropMb t.mb.toNat t.step.toNat).endDropped c).logDevice code n 1 detail
  | none => s.logDevice code n 0 detail

/-- The detail that names node and table (R513). -/
def nodeDetail (node table : Nat) : Nat := node % 2 ^ 40 + (table % 256) * 2 ^ 40

/-- Key of an instance in a ready queue (R299, R327): step, micro-batch, operation, part. -/
def TaskContext.key (t : TaskContext) (c : Nat) : Nat :=
  ((t.step.toNat * 4096 + (if t.mb.toNat = 4094 then c else t.mb.toNat)) * 16384 + t.op.toNat) * 2 + bit t.part

end Sys2Proof.Machine
end

