-- ==== Sys2Proof/Machine/Status.lean ====
section
/-! DEFINITION. Status space: the value of every register, log and counter block as its field map lays it out, and the map
of R509 by 64-byte lines (R50, R51, R58, R73, R76, R108–R116, R150, R151, R184–R187, R214, R217, R248, R249, R288, R314–
R324, R327, R345, R346, R371, R376, R395, R404–R407, R441, R456, R462, R470–R473, R486, R490, R492, R499, R504–R516). -/

namespace Sys2Proof.Machine

/-- Records of `w` bits that fill line `i`: record j of the row is `get j`. -/
def lineOfRecords (w : Nat) (get : Nat → Nat) (i : Nat) : Nat :=
  pack ((List.range (512 / w)).map fun j => (get (i * (512 / w) + j), w))

/-- Coordinate as a status register holds it: x [11:8], y [7:4], z [3:0]. -/
def coordNum (c : Coord) : Nat := c.z.toNat + 16 * c.y.toNat + 256 * c.x.toNat

/-- IDENTITY (R510); "KT1-33W" from the lowest byte. -/
def orderingCode : Nat := ofLe [0x4B, 0x54, 0x31, 0x2D, 0x33, 0x33, 0x57]
def State.identityReg (s : State) : Nat :=
  pack [(0xA1, 8), (0, 8), (1, 16), (orderingCode, 64), (s.start.fingerprint.toNat, 64), (s.start.identityKey.toNat, 256),
    (s.start.startCount.toNat, 32)]

/-- START_STATUS.state (R108): a ready device whose slot runs or is paused reads 2 (R149). -/
def State.startState (s : State) : Nat := if s.start.state = 1 ∧ s.slotRunning then 2 else s.start.state.toNat

def State.startStatus (s : State) : Nat :=
  let t := s.start
  pack [(t.progress.toNat, 16), (t.step.toNat, 8), (t.failedRun.toNat, 4), (s.startState, 4), (bit t.slot, 1),
    (bit t.pendingTry, 1), (bit t.rpmcPresent, 1)]

def State.stageStatus (s : State) : Nat :=
  let t := s.staging
  pack [(t.progress.toNat, 16), (t.phase.toNat, 4), (t.code.toNat, 12), (t.bytes.toNat, 32)]

/-- SIDEBAND_STATE (R492). -/
def State.sidebandState (s : State) : Nat :=
  let p := s.power
  pack [(p.cause.toNat, 4), (p.code.toNat, 12), (bit p.estop, 1), (bit p.en, 1), (bit p.resetN, 1), (bit p.pgOut, 1),
    (p.strap.toNat, 3), (bit p.alert, 1)]

def State.domainStatus (s : State) : Nat :=
  pack [(s.power.on.toNat, 96), (s.power.ramping.toNat, 8), (s.power.failed.toNat, 8)]

def State.jobStatus (s : State) : Nat :=
  let r := s.run
  pack [(r.run.toNat, 3), (r.slot.toNat, 2), (r.stopCause.toNat, 3), (r.mbCount.toNat, 11), (0, 13), (r.cancelled.toNat, 16),
    (r.intakeMissed.toNat, 16), (r.runStep.toNat, 48)]

def heldWord (t : Option (BitVec 48)) : Nat := t.elim 0 fun n => n.toNat + 2 ^ 63

def State.jobPending (s : State) : Nat :=
  pack [(heldWord s.run.pauseAt, 64), (heldWord s.run.stopAt, 64), (heldWord s.run.evalAt, 64), (heldWord s.run.ckptAt, 64)]

def State.faultLogStatus (s : State) : Nat :=
  let l := s.logs
  pack [(l.next.toNat, 7), (bit l.wrapped, 1), (0, 8), (l.written.toNat, 32), (l.overwrites.toNat, 16), (l.hangNext.toNat, 3)]

def State.dialNow (s : State) : Nat := pack [(s.dial.pos.toNat, 16), (s.dial.step.toNat, 48)]

def State.dialState (s : State) : Nat :=
  let d := s.dial
  pack [(d.rootEpoch.toNat, 8), (d.rootCoord.toNat, 12), (bit d.isRoot, 1), (bit d.locked, 1), (bit d.detBroken, 1),
    (d.grants.toNat, 2), (bit d.extRefActive, 1)]

def State.dialLine (s : State) : Nat :=
  let c := s.cfg.sundial
  pack [(s.dialNow, 64), (s.dial.periodNs.toNat, 64), (s.dialState, 64), (c.roots.toNat, 64), (c.ctl.toNat, 64),
    (c.loop.toNat, 64), (c.periodMin.toNat, 64), (c.periodMax.toNat, 64)]

/-- RESTORE_CTL (R456): go starts the restore and reads zero. -/
def State.restoreCtl (s : State) : Nat :=
  let r := s.resil.restore
  pack [(r.ctlSource.toNat, 2), (bit r.ctlRejoin, 1), (0, 1), (r.ctlSet.toNat, 2), (0, 10), (r.ctlStep.toNat, 48)]

def State.shardMapStatus (s : State) : Nat :=
  let t := s.tables
  pack [(t.activeLayout.toNat, 3), (t.pendingLayout.toNat, 3), (bit t.pendingValid, 1), (0, 9), (t.loadProgress.toNat, 16),
    (t.generation.toNat, 8), (t.moveProgress.toNat, 16), (t.ecc.toNat, 8)]

/-- Migrations that run: entries copying or replaying, demotions among them (R177, R178). -/
def State.migrating (s : State) : Nat := (s.tables.directory.filter fun e => e.state != .live || e.demote).length

def State.migrateStatus (s : State) : Nat :=
  let t := s.tables
  pack [(if t.batch = 0 then 0 else (fraction t.batchDone t.batch).toNat, 16), (s.migrating, 7), (0, 1),
    (t.directory.length, 15), (0, 1), (t.aborted.toNat, 16), (t.dirFull.toNat, 8)]

/-- V of the selected slot (R308). -/
def State.weightVersion (s : State) : BitVec 48 := s.train.versions.getD s.run.slot.toNat 0

/-- Holders of a version (R311): training micro-batches not yet committed; evaluation micro-batches and the partner drain, the one
instance that reads a buffer (R443, R453). -/
def State.uncommitted (s : State) : Nat :=
  (s.mbs.filter fun m => decide (m.mb < 1024) && m.started && !m.dropped && !m.committed).length
def State.readers (s : State) : Nat :=
  (s.mbs.filter fun m => decide (1024 ≤ m.mb) && m.started && !m.dropped && !m.committed).length +
    ((s.resil.targets.take 1).filter (·.active)).length

def State.weightStatus (s : State) : Nat :=
  let t := s.train
  pack [(s.weightVersion.toNat, 48), (s.weightVersion.toNat % 2, 1), (bit t.written, 1), (0, 14), (s.uncommitted, 16),
    (s.readers, 16), (t.reclaimed.toNat, 16), (t.skippedV.toNat, 16)]

def State.fillStatus (s : State) : Nat :=
  let f := s.memory.fill
  pack [(f.progress.toNat, 16), (bit f.active, 1), (f.op.toNat, 14), (0, 1), (f.fills.toNat, 32), (f.position.toNat, 48),
    (f.tier.toNat, 4)]

/-- Records in the active half of the repair journal (R469). -/
def State.repairHalf (s : State) : List (Option RepairRecord) := if s.resil.half then s.flash.repair1 else s.flash.repair0

/-- Progress of the swaps in a window (R473): of a running bank-group swap, the lines of its 256 MiB copy at 0.90 of 1.536 TB/s (R468; log
entry 80). -/
def State.swapPart (s : State) : BitVec 16 :=
  match s.resil.swaps.find? fun w => w.running && w.kind == 4 with
  | some w => fraction (min ((s.dial.ns - w.began) * 216 / 10) (2 ^ 22 - 1)) (2 ^ 22)
  | none => s.resil.swapProgress

/-- REPAIR_STATUS (R473). -/
def State.repairStatus (s : State) : Nat :=
  let r := s.resil
  let total (f : Nat → Nat) (n : Nat) : Nat := ((List.range n).map f).sum
  pack [(s.swapPart.toNat, 16), (min r.swaps.length 254, 8), (16384 - s.repairHalf.length, 15), (bit r.half, 1),
    (r.swapsDone.toNat, 16), (total (fun i => (s.spareBlocks i).length) 4, 3),
    (total (fun b => (s.spareCells b).length) 36, 6), (total (fun i => (s.spareSpouts i).length) 4, 3),
    ((s.cores.zipIdx.filter fun c => c.1.role == 0 && !r.failedCores.contains c.2).length, 2), (16 - r.groupsUsed.length, 5)]

def State.returnStatus (s : State) : Nat :=
  let g := s.gather
  pack [(g.progress.toNat, 16), (g.retEdges.toNat, 48), (g.slotsUsed.toNat, 32), (g.full.toNat, 16), (g.poisoned.toNat, 16)]

def State.sundialCounters (s : State) : Nat :=
  let l := s.logs
  pack [(l.deadlines.toNat, 16), (l.grantsMade.toNat, 16), (l.denials.toNat, 16), (l.beatsLost.toNat, 16),
    (l.lockLost.toNat, 16), (l.epochs.toNat, 16), (l.staleBeats.toNat, 16), (l.lateReports.toNat, 16), (l.dialOver.toNat, 16),
    (l.dialNext.toNat, 6)]

def State.weirStatus (s : State) : Nat :=
  let t := s.train
  pack [(t.weirMu.toNat, 64), (t.weirSigma.toNat, 64), (t.weirLoss.toNat, 64), (t.weirCount.toNat, 32), (t.weirClean.toNat, 16),
    (t.rollbacks.toNat, 4), (t.lastFlag.toNat, 2), (t.weirFlags.toNat, 8)]

def State.evalStatus (s : State) : Nat :=
  let t := s.train
  pack [(t.evalLoss.toNat, 64), (t.evalSamples.toNat, 32), (t.evalDropped.toNat, 16), (0, 16), (t.evalStep.toNat, 48),
    (t.evalVersion.toNat, 48), (t.evalCount.toNat, 16)]

def State.gnsStatus (s : State) : Nat :=
  let g := s.cascade.gns
  pack [(g.estimate.toNat, 64), (g.g2.toNat, 64), (g.tr.toNat, 64), (g.avg.toNat, 64), (g.step.toNat, 48), (bit g.valid, 1),
    (bit g.avgSet, 1), (g.cNext.toNat, 11), (g.changes.toNat, 16)]

def State.restoreStatus (s : State) : Nat :=
  let r := s.resil.restore
  pack [(r.progress.toNat, 16), (r.phase.toNat, 3), (r.source.toNat, 2), (bit r.set, 1), (bit r.rejoin, 1), (0, 1),
    (r.code.toNat, 12), (0, 28), (r.ckptStep.toNat, 48), (0, 16), (r.loss.toNat, 64), (r.replayLoss.toNat, 64)]

def State.resetStatus (s : State) : Nat :=
  let r := s.resil
  pack ([(r.tagDevice.toNat, 8)] ++ ((List.range 4).map fun i => ((r.tagRegions.getD i 0).toNat, 8)) ++
    [(r.lastRung.toNat, 3), (0, 21), (r.rung1.toNat, 16), (r.rung2.toNat, 16), (r.rung3.toNat, 16), (r.hangCount.toNat, 16),
      (r.stale.toNat, 32), (r.records.toNat, 4)])

/-- PWR_TELEM (R499). -/
def State.pwrTelem (s : State) : Nat :=
  let t := s.power.telem
  pack [(t.vin.toNat, 16), (t.iin.toNat, 16), (t.pin.toNat, 16), (t.pinPeak.toNat, 16), (t.energy.toNat, 48),
    (min ((s.dial.ns - t.sampled) / 1000000) 65535, 16), (t.tjMax.toNat, 8), (t.stackMax.toNat, 8)]

/-- Valid rows of a Cooler (R172). -/
def Cooler.rowsValid (c : Cooler) : Nat := (c.slots.map fun x => popCount x.2.valid.toNat 16).sum

def State.coolerStatus (s : State) (r : Nat) : Nat :=
  let c := s.tables.coolers.getD r Cooler.reset
  pack [(c.hitFrac.toNat, 16), (c.rowsValid, 20), (0, 12), (c.ecc.toNat, 16)]

def State.ccStatus (s : State) (i : Nat) : Nat :=
  let c := s.cores.getD i ControlCore.reset
  pack [(c.role.toNat, 3), (bit c.tested, 1), (0, 4), (c.missed.toNat, 3), (0, 5), (c.heartbeat.toNat, 32), (c.watched.toNat, 3),
    (bit c.watchValid, 1)]

def State.cascadeStatus (s : State) (e : Nat) : Nat :=
  let c := s.cascade.engines.getD e CascadeEngine.reset
  pack [(c.axis.toNat, 2), (c.op.toNat, 2), (bit c.running, 1), (bit c.proxy, 1), (bit c.line, 1), (0, 1), (c.entry.toNat, 10),
    (0, 14), (c.present.toNat, 16), (c.progress.toNat, 16), (c.instances.toNat, 32), (c.absent.toNat, 16), (c.restarts.toNat, 16),
    (c.proxied.toNat, 16), (c.generation.toNat, 8)]

def State.cursorReg (s : State) (i : Nat) : Nat :=
  let c := s.cursors.getD i Cursor.reset
  pack [(c.nextPos.toNat, 64), (c.baskets.toNat, 48), (c.skipped.toNat, 16), (c.ctrPos.toNat, 64), (c.permEpoch.toNat, 16)]

def State.target (s : State) (t : Nat) : CkptTarget := s.resil.targets.getD t CkptTarget.reset

/-- The newest complete set of a target, with header.step (R450, R470). -/
def CkptTarget.newest (x : CkptTarget) : Option (Bool × Nat) :=
  match (x.complete.getD 0 none), (x.complete.getD 1 none) with
  | some a, some b => if a < b then some (true, b) else some (false, a)
  | some a, none => some (false, a)
  | none, some b => some (true, b)
  | none, none => none

/-- Set w (R450): the one that does not hold the newest complete checkpoint, set 0 when neither is complete, the unpinned one. -/
def CkptTarget.next (x : CkptTarget) : Bool := if x.pinned then !x.pinSet else x.newest.elim false fun n => !n.1

/-- The set an instance writes. -/
def CkptTarget.w (x : CkptTarget) : Bool := if x.active || x.copying then x.set else x.next

/-- Rows of a set's map that are not clean; the dirty ones (R451). -/
def State.dirtyRows (s : State) (t : Nat) (set : Bool) : List RowMark :=
  s.resil.rows.filter fun m => m.target.val == t && m.set == set && !m.sent

def State.ckptStatus (s : State) (i : Nat) : Nat :=
  let c := s.target i
  pack [(c.progress.toNat, 16), (bit (c.active || c.copying), 1), (c.newest.elim 0 fun n => bit n.1 + 1, 2), (bit c.pinned, 1),
    (bit c.pinSet, 1), (0, 11), (c.newest.elim 0 (·.2), 48),
    (if i = 0 then min (s.dirtyRows 0 c.w).length (2 ^ 32 - 1) else 0, 32), (c.failed.toNat, 16), (c.completed.toNat, 32)]

def State.linkStatus (s : State) (i : Nat) : Nat :=
  let p := s.links.ports.getD i PortState.reset
  pack ([(p.state.toNat, 3), (p.stage.toNat, 3), (bit p.spareUsed, 1), (bit p.weak, 1), (p.gen.toNat, 4), (0, 4),
    (p.progress.toNat, 16), (p.laneMap.toNat, 12), (0, 4), (p.latency.toNat, 16), (p.replays.toNat, 32), (p.retrains.toNat, 8),
    (p.routeDrops.toNat, 16), (p.discards.toNat, 16), (p.badCodewords.toNat, 32)] ++
    (List.range 5).map fun l => ((p.margin.getD l 0).toNat, 8))

def State.ramblerStatus (s : State) (i : Nat) : Nat :=
  let r := s.rambler.getD i RamblerRegion.reset
  pack [(r.baskets.toNat, 32), (r.clipped.toNat, 32), (r.edges.toNat, 48), (((s.sched.getD i RegionSched.reset).contexts.filter fun x => x.2.state == 3 && x.2.unit == 0).length, 16), (r.candidates.toNat, 48),
    (0, 16), (r.remoteEdges.toNat, 48)]

def State.gatherStatus (s : State) (i : Nat) : Nat :=
  let r := s.gather.regions.getD i GatherRegion.reset
  pack [(r.fwdEdges.toNat, 48), (r.coolerRows.toNat, 48), (r.remoteRows.toNat, 48), (r.timeouts.toNat, 16),
    (r.lateReplies.toNat, 16), (r.drift.toNat, 16), (r.stashUsed.toNat, 16), (r.reorderFull.toNat, 16)]

/-- Stash pages in use by region, near or far (R302). -/
def State.stashPages (s : State) (r : Nat) (far : Bool) : Nat :=
  ((s.train.stash.filter fun e => e.region.val == r && e.far == far).map (·.pages)).sum

def State.stashStatus (s : State) (i : Nat) : Nat :=
  let r := s.train.stashRegion.getD i StashRegion.reset
  pack [(s.stashPages i false, 32), (r.pagesPeak.toNat, 32), (s.stashPages i true, 32),
    ((s.train.stash.filter fun e => e.region.val == i).length, 16), (r.farEntries.toNat, 16), (r.recomputeOps.toNat, 16),
    (r.recomputeMbs.toNat, 16), (r.poisoned.toNat, 16), (r.codedBytes.toNat, 48)]

def State.schedStatus (s : State) (i : Nat) : Nat :=
  let r := s.sched.getD i RegionSched.reset
  pack [(r.contexts.length, 16), (r.ctxPeak.toNat, 16), (r.admitted.toNat, 11), (0, 21), (r.dispatched.toNat, 48),
    (r.spilledNow.toNat, 16), (r.spills.toNat, 32), (r.timeouts.toNat, 16), (r.cancelled.toNat, 16)]

/-- Kind of a controller (R404). -/
def controllerKind (i : Nat) : Nat := if i < 16 then 0 else if i < 24 then 1 else 2

def State.ctrlStatus (s : State) (i : Nat) : Nat :=
  match s.memory.controllers[i]? with
  | none => 0
  | some c => pack [(controllerKind i, 2), (bit c.up, 1), (bit c.skipped, 1), (c.rate.toNat, 2), (bit c.spareBg, 1), (0, 9),
      (c.capacity.toNat, 16), (c.inner.toNat, 32)]

def State.blockPowerReg (s : State) (i : Nat) : Nat :=
  match s.power.blocks[i]? with
  | none => 0
  | some b => pack [(b.mv.toNat, 10), (bit b.on, 1), (bit b.throttled, 1), (b.tj.toNat, 8), (b.margin.toNat, 8),
      (b.stretched.toNat, 32)]

def State.blockCells (s : State) (i : Nat) : Nat :=
  match s.blocks[i]? with
  | none => 0
  | some b => pack [(b.parity.toNat, 16), (b.basinCorrected.toNat, 16), (b.rillRetx.toNat, 16), (b.poisonDrops.toNat, 16),
      (b.issued.toNat, 48), (b.skipped.toNat, 48), (b.steals.toNat, 32), (b.swaps.toNat, 32), (b.active.toNat, 17)]

/-- Whether a micro-batch holds the version of a table that is not live (R169, R170). -/
def holdsOther (m : MicroBatch) (id : Nat) (live : Bool) : Bool :=
  m.started && !m.dropped && !m.committed && m.versionB.contains id != live

def State.tableState (s : State) (id : Nat) : Nat :=
  let t := s.tables.tables.getD id TableState.reset
  pack [(bit (s.table id).isSome, 1), (bit t.live, 1), (bit t.switchPending, 1), (bit t.pendingVersion, 1), (0, 12),
    ((s.mbs.filter fun m => holdsOther m id t.live).length, 16), (t.switches.toNat, 8), (0, 8), (t.defaults.toNat, 16)]

/-- Slice or DDR controllers of a tier. -/
def tierControllers (tier : Nat) : List Nat := if tier = 0 then List.range 16 else (List.range 8).map (· + 16)

/-- Granule of a controller and the distance from one of its granules to the next (R219, R379). -/
def granule (ctl : Nat) : Nat × Nat := if ctl < 16 then (8192, 131072) else (4096, 32768)

/-- The first line of a controller at or after an offset. -/
def lineFrom (ctl off : Nat) : Nat :=
  let (g, period) := granule ctl
  let mine := (if ctl < 16 then ctl else ctl - 16) * g
  let base := off / period * period + mine
  if off < base then base else if off < base + g then off else base + period

/-- Lines of a partition on each controller of its tier: its 128 KiB units spread evenly (R384). -/
def Partition.perController (part : Partition) : Nat := part.len / 64 / (tierControllers part.tier).length

/-- A controller's lines of a partition in the current lap. -/
def PartState.linesOn (x : PartState) (c : Nat) : Nat := (lookupNat c x.lapLines).getD 0

/-- Lines scrubbed in the current lap (R406): a controller that is ahead has begun its next. -/
def PartState.lapDone (x : PartState) (part : Partition) : Nat :=
  ((tierControllers part.tier).map fun c => min (x.linesOn c) part.perController).sum

/-- Line `i` of a controller in a partition. -/
def Partition.lineOn (part : Partition) (c i : Nat) : Nat :=
  let (g, period) := granule c
  lineFrom c part.start + i / (g / 64) * period + i % (g / 64) * 64

/-- The lowest line not yet scrubbed in the lap (R406). -/
def PartState.lowest (x : PartState) (part : Partition) : Nat :=
  (leastBy id (((tierControllers part.tier).filter fun c => decide (x.linesOn c < part.perController)).map fun c => part.lineOn c (x.linesOn c))).getD
    part.start

def State.scrubStatus (s : State) (i : Nat) : Nat :=
  match s.memory.parts[i]?, s.cfg.partMap.parts[i]? with
  | some t, some p =>
      let on := s.memory.scrubbing && p.scrub
      pack [(if on then (fraction (t.lapDone p) (p.len / 64)).toNat else 0, 16),
      (t.lastLapMs.toNat, 32), (t.laps.toNat, 16), (if on then t.lowest p else 0, 48), (bit t.long, 1), (bit s.memory.scrubbing, 1)]
  | _, _ => 0

def State.partStatus (s : State) (i : Nat) : Nat :=
  match s.memory.parts[i]? with
  | none => 0
  | some t => pack [(t.corrected.toNat, 32), (t.uncorrectable.toNat, 16), (t.poisonReads.toNat, 16), (t.level.toNat, 16),
      (t.overflows.toNat, 16), (t.owed.toNat, 16), (t.capped.toNat, 16), (t.bulkBytes.toNat, 48), (t.logLost.toNat, 16)]

/-- A DIAL_FAULT_LOG record (R73). -/
def DialFault.num (r : DialFault) : Nat :=
  pack [(r.step.toNat, 48), (r.pos.toNat, 16), (r.entry.toNat, 10), (r.type.toNat, 4), (r.policy.toNat, 2), (r.region.toNat, 2),
    (r.level.toNat, 2), (r.unit.toNat, 14), (r.context.toNat, 14), (r.slot.toNat, 2), (0, 2), (r.code.toNat, 12),
    (r.basket.toNat, 32), (r.dropped.toNat, 16)]

/-- A DEVICE_FAULT_LOG record (R512). -/
def DeviceFault.num (r : DeviceFault) : Nat :=
  pack [(r.step.toNat, 48), (r.pos.toNat, 16), (r.code.toNat, 12), (r.region.toNat, 2), (r.level.toNat, 2), (r.unit.toNat, 14),
    (r.context.toNat, 14), (r.slot.toNat, 2), (bit r.named, 1), (0, 1), (r.basket.toNat, 32), (r.dropped.toNat, 16),
    (r.detail.toNat, 352)]

/-- A NORM_TAPS record (R316); layers beyond the slot's read zero (R505). -/
def State.normTap (s : State) (i : Nat) : Nat :=
  match s.train.taps[i]? with
  | none => 0
  | some t => if i > s.slotCfg.header.layers then 0 else
      pack [(t.wSq.toNat, 32), (t.gSq.toNat, 32), (t.uSq.toNat, 32), (t.dwSq.toNat, 32), (t.nf.toNat, 32), (t.step.toNat, 48),
        (bit t.updated, 1)]

/-- A CE_LOG entry (R395). -/
def CeEntry.num (e : CeEntry) : Nat :=
  pack [(e.offset.toNat, 48), (e.tier.toNat, 4), (e.chip.toNat, 4), (e.kind.toNat, 2), (e.partition.toNat, 6), (e.count.toNat, 16),
    (e.pos.toNat, 16), (e.step.toNat, 32)]

def State.ceLogEntry (s : State) (i : Nat) : Nat :=
  (s.memory.controllers[i / 64]?).elim 0 fun c => (c.log[i % 64]?).elim 0 CeEntry.num

/-- Header of a hang record (R462). -/
def HangRecord.num (r : HangRecord) : Nat :=
  pack [(r.step.toNat, 48), (r.pos.toNat, 16), (r.code.toNat, 12), (r.region.toNat, 2), (r.level.toNat, 2), (r.unit.toNat, 14),
    (r.context.toNat, 14), (r.slot.toNat, 2), (0, 2), (r.basket.toNat, 32), (r.rungs.toNat, 3), (r.done.toNat, 4),
    (bit r.partial_, 1), (r.tag.toNat, 8)]

def State.hangLine (s : State) (i : Nat) : Nat :=
  (s.resil.hangs[i / 64]?).elim 0 fun r =>
    if i % 64 = 0 then r.num else ofLe ((r.body.drop (64 * (i % 64 - 1))).take 64)

/-- Update count of an operation of the selected slot (R472). -/
def State.updateCount (s : State) (i : Nat) : Nat :=
  (s.train.updates.find? fun u => u.1 == s.run.slot.toNat && u.2.1 == i).elim 0 (·.2.2)

/-- A task context (R327); a free context reads its gen only. -/
def TaskContext.num (t : TaskContext) : Nat :=
  pack [(1, 4), (t.state.toNat, 3), (bit t.spilled, 1), (t.unit.toNat, 3), (bit t.part, 1), (bit t.recompute, 1), (bit t.eval, 1),
    (t.slot.toNat, 2), (t.op.toNat, 14), (0, 2), (t.mb.toNat, 12), (0, 4), (t.unitIndex.toNat, 4), (0, 12), (t.step.toNat, 48),
    (0, 16), (t.flags.toNat, 32), (t.mask.toNat, 32), (bit t.anyOf, 1), (bit t.toCycles, 1), (bit t.timedOut, 1), (0, 13),
    (t.toValue.toNat, 48), (t.entry.toNat, 10)]

/-- A free context (R12, R327): the fields with a dash hold what they hold. -/
def TaskContext.free (v : Nat) : TaskContext :=
  { state := 0, spilled := false, unit := BitVec.ofNat 3 (field v 8 3), part := v.testBit 11, recompute := v.testBit 12, eval := v.testBit 13
    slot := BitVec.ofNat 2 (field v 14 2), op := BitVec.ofNat 14 (field v 16 14), mb := BitVec.ofNat 12 (field v 32 12)
    unitIndex := BitVec.ofNat 4 (field v 48 4), step := BitVec.ofNat 48 (field v 64 48), flags := BitVec.ofNat 32 (field v 128 32)
    mask := BitVec.ofNat 32 (field v 160 32), anyOf := v.testBit 192, toCycles := v.testBit 193, timedOut := false
    toValue := BitVec.ofNat 48 (field v 208 48), entry := BitVec.ofNat 10 (field v 256 10), deps := [], subs := [] }

def State.ctxLine (s : State) (i : Nat) : Nat :=
  (((s.sched[i / 12288]?).bind fun r => lookupNat (i % 12288) r.contexts).getD (.free (Config.freeContext s.draws i))).num

/-- One row of R509: base, extent in bytes, exempt from R507, and line `i` of it as 512 bits. -/
structure StatusRow where
  base   : Nat
  extent : Nat
  exempt : Bool
  line   : State → Nat → Nat

/-- The map of status space (R509), as data of the definition: no state holds it. -/
def statusRows : List StatusRow :=
  [ ⟨0x0000, 64, true, fun s _ => s.identityReg⟩,
    ⟨0x0040, 64, true, fun s _ => pack [(s.startStatus, 64), (s.stageStatus, 64), (s.sidebandState, 64), (s.domainStatus, 128),
      (if s.start.loaded then s.jobStatus else 0, 128)]⟩,
    ⟨0x0080, 64, false, fun s _ => s.restoreCtl⟩,
    ⟨0x00C0, 64, true, fun s _ => pack [(if s.start.loaded then s.jobPending else 0, 256), (s.faultLogStatus, 128)]⟩,
    ⟨0x0100, 64, false, fun s _ => s.dialLine⟩,
    ⟨0x0140, 64, false, fun s _ => pack [(s.cfg.sundial.periodInit.toNat, 64), (s.shardMapStatus, 64), (s.migrateStatus, 64), (0, 64),
      (s.weightStatus, 128), (s.fillStatus, 128)]⟩,
    ⟨0x0180, 64, false, fun s _ => pack [(s.repairStatus, 128), (s.returnStatus, 128), (s.sundialCounters, 256)]⟩,
    ⟨0x01C0, 64, false, fun s _ => pack [(s.weirStatus, 256), (s.evalStatus, 256)]⟩,
    ⟨0x0200, 64, false, fun s _ => s.gnsStatus⟩,
    ⟨0x0240, 64, false, fun s _ => pack [(s.restoreStatus, 256), (s.resetStatus, 256)]⟩,
    ⟨0x0280, 64, true, fun s _ => pack ((s.pwrTelem, 256) :: (List.range 4).map fun r =>
      (if s.start.loaded then s.coolerStatus r else 0, 64))⟩,
    ⟨0x02C0, 64, false, fun s i => lineOfRecords 64 s.ccStatus i⟩,
    ⟨0x0300, 64, false, fun s i => lineOfRecords 256 s.cascadeStatus i⟩,
    ⟨0x0340, 64, false, fun s i => lineOfRecords 256 s.cursorReg i⟩,
    ⟨0x0380, 128, false, fun s i => lineOfRecords 256 (fun k => if k < 3 then s.ckptStatus k else 0) i⟩,
    ⟨0x0400, 256, true, fun s i =>
      lineOfRecords 256 (fun k => if k < 7 && (s.start.loaded || (k == 6 && s.start.refused)) then s.linkStatus k else 0) i⟩,
    ⟨0x0500, 512, false, fun s i =>
      let get := if i < 2 then s.ramblerStatus else if i < 4 then s.gatherStatus else if i < 6 then s.stashStatus else s.schedStatus
      lineOfRecords 256 get (i % 2)⟩,
    ⟨0x0700, 256, false, fun s i => lineOfRecords 64 s.ctrlStatus i⟩,
    ⟨0x0800, 512, false, fun s i => lineOfRecords 64 s.blockPowerReg i⟩,
    ⟨0x0A00, 1024, true, fun s i => lineOfRecords 16 (fun k => (s.logs.errorCounts.getD k 0).toNat) i⟩,
    ⟨0x1000, 1152, false, fun s i => lineOfRecords 256 s.blockCells i⟩,
    ⟨0x2000, 2048, false, fun s i => lineOfRecords 64 s.tableState i⟩,
    ⟨0x2800, 1024, false, fun s i => lineOfRecords 128 s.scrubStatus i⟩,
    ⟨0x3000, 2048, false, fun s i => lineOfRecords 256 s.partStatus i⟩,
    ⟨0x4000, 2048, false, fun s i => lineOfRecords 256 (fun k => (s.logs.dialLog.getD k DialFault.zero).num) i⟩,
    ⟨0x4800, 8192, true, fun s i => (s.logs.deviceLog.getD i DeviceFault.zero).num⟩,
    ⟨0x8000, 8192, false, fun s i => lineOfRecords 256 s.normTap i⟩,
    ⟨0x10000, 24576, false, fun s i => lineOfRecords 128 s.ceLogEntry i⟩,
    ⟨0x20000, 32768, false, fun s i => s.hangLine i⟩,
    ⟨0x40000, 131064, false, fun s i => lineOfRecords 64 s.updateCount i⟩,
    ⟨0x100000, 3145728, false, fun s i => s.ctxLine i⟩ ]

/-- The row that holds an offset (R505). -/
def statusRowAt (off : Nat) : Option StatusRow := statusRows.find? fun r => r.base ≤ off && off < r.base + r.extent

/-- A 64-byte line of status space: registers of units not started read zero (R507), and so do bytes past a row's extent
(R505). -/
def State.statusLine (s : State) (off : Nat) : Nat :=
  match statusRowAt off with
  | none => 0
  | some r => if s.start.loaded || r.exempt then r.line s ((off - r.base) / 64) % 2 ^ 512 else 0

/-- 32 bytes of status space for SMBus, within the subset of R518. -/
def State.statusSample (s : State) (off : Nat) : List Byte :=
  let o := off / 32 * 32
  let inside := o < 0xE00 ∨ (0x4000 ≤ o ∧ o < 0x6800)
  leBytes (if inside then s.statusLine (o / 64 * 64) >>> (8 * (o % 64)) else 0) 32

end Sys2Proof.Machine
end

