-- ==== Sys2Proof/Machine/Lookup.lean ====
section
/-! DEFINITION. The Shard Map lookup (R162, R164), the table extents a device holds (R157, R163, R171), default rows
(R167). -/

namespace Sys2Proof.Machine

/-- The active bank's layout (R164). -/
def State.layout (s : State) : List ShardEntry := s.cfg.layouts.getD s.tables.activeLayout.toNat []

/-- What a lookup finds (R162): the owner, tier, version-A offset and entry of a row, a node out of range, a hole. -/
inductive Lookup where
  | row (owner : Coord) (e : ShardEntry) (off : Nat)
  | outOfRange
  | missing
  deriving DecidableEq, Repr

/-- Bytes from one node to the next in an extent: a row, or an offset entry of an adjacency table. -/
def TableDesc.pitch (t : TableDesc) : Nat := if t.kind = 3 then 8 else t.rowBytes

/-- The entry of a layout that covers a node: the largest key not above the node's (R162). -/
def coveringEntry (l : List ShardEntry) (table node : Nat) : Option ShardEntry :=
  (l.filter fun e => e.table == table && e.first ≤ node).foldl (fun b e =>
    match b with
    | none => some e
    | some o => if o.first < e.first then some e else some o) none

/-- R162 under a layout. -/
def lookupIn (l : List ShardEntry) (t : TableDesc) (own : Coord) (node : Nat) : Lookup :=
  if node ≥ t.nodes + 1 then .outOfRange else
  match coveringEntry l t.id node with
  | none => .missing
  | some e =>
    if e.hole then .missing
    else .row ⟨if e.xOwn then own.x else BitVec.ofNat 4 e.x, BitVec.ofNat 4 e.y, BitVec.ofNat 4 e.z⟩ e
      (e.base + (node - e.first) * t.pitch)

def State.lookup (s : State) (t : TableDesc) (node : Nat) : Lookup := lookupIn s.layout t s.coord node

/-- Byte distance of a version (R157). -/
def TableDesc.versionShift (t : TableDesc) (b : Bool) : Nat := if b then t.vbDelta else 0

/-- An entry's rows lie on this device (R161). -/
def State.ownsEntry (s : State) (e : ShardEntry) : Bool :=
  !e.hole && (e.xOwn || e.x == s.start.x.toNat) && e.y == s.start.y.toNat && e.z == s.start.z.toNat

/-- Extents of this device under a layout: table, version, tier, offset and length. -/
def State.ownExtents (s : State) (l : List ShardEntry) : List (Nat × Bool × Nat × Nat × Nat) :=
  l.zipIdx.flatMap fun e =>
    match findTable s.cfg.tables e.1.table with
    | none => []
    | some t =>
      let len := extentBytes t (shardRange l (t.nodes + 1) e.2)
      if !s.ownsEntry e.1 then [] else
        (t.id, false, e.1.tier, e.1.base, len) :: (if t.versions then [(t.id, true, e.1.tier, e.1.base + t.vbDelta, len)] else [])

/-- Live version of a table (R169). -/
def State.liveVersion (s : State) (id : Nat) : Bool := (s.tables.tables.getD id TableState.reset).live

/-- A version that is live or held (R170, R171). -/
def State.versionInUse (s : State) (id : Nat) (b : Bool) : Bool :=
  let live := s.liveVersion id
  b == live || s.mbs.any fun m => holdsOther m id live

/-- Two byte ranges overlap. -/
def overlaps (a n b m : Nat) : Bool := decide (a < b + m ∧ b < a + n)

/-- A data-stream write overlaps a live or held version while a slot is running or paused (R171). -/
def State.versionHeld (s : State) (tier off n : Nat) : Bool :=
  s.slotRunning && (s.ownExtents s.layout).any fun x =>
    x.2.2.1 == tier && overlaps off n x.2.2.2.1 x.2.2.2.2 && s.versionInUse x.1 x.2.1

/-- Count data-stream writes that overlap a table's default row (R243). -/
def State.countDefaultWrites (s : State) (tier off n : Nat) : State :=
  let hit (t : TableDesc) : Bool :=
    t.invalid == 1 && t.kind != 3 && field t.default 48 4 == tier && overlaps off n (field t.default 0 48) t.rowBytes
  let count (x : TableState × Nat) : TableState :=
    if (s.table x.2).any hit then { x.1 with defaultWrites := x.1.defaultWrites + 1 } else x.1
  { s with tables := { s.tables with tables := s.tables.tables.zipIdx.map count } }

end Sys2Proof.Machine
end

