-- ==== Sys2Proof/Machine/Controller.lean ====
section
/-! DEFINITION. What the memory controllers do with a line they read or write (R378–R401): corrections and their buckets,
uncorrectable lines, stored poison, step faults, repairs asked of an overflow (R467). -/

namespace Sys2Proof.Machine

/-- The controller of a tier offset (R219, R379), as CTRL_STATUS numbers them; tiers 0x4 and 0x5 have none. -/
def controllerOf (tier off : Nat) : Option Nat :=
  match tier with
  | 0 => some (field off 13 4)
  | 1 => some (16 + field off 12 3)
  | 2 => some 24
  | 3 => some 25
  | _ => none

/-- Tier a controller serves. -/
def tierOf (ctl : Nat) : Nat := if ctl < 16 then 0 else if ctl < 24 then 1 else ctl - 22

def State.controller (s : State) (c : Nat) : ControllerState := s.memory.controllers.getD c ControllerState.reset
def State.onController (s : State) (c : Nat) (f : ControllerState → ControllerState) : State :=
  s.onMemory fun m => { m with controllers := modifyAt m.controllers c f }
def State.onPart (s : State) (p : Nat) (f : PartState → PartState) : State :=
  s.onMemory fun m => { m with parts := modifyAt m.parts p f }

/-- Detail of 0x0F1–0x0F3 (R513). -/
def State.memDetail (s : State) (tier off : Nat) : Nat :=
  let p := s.partitionAt tier off
  pack [(off, 48), (tier, 4), (p.elim 0 (·.1), 6), ((controllerOf tier off).getD 0, 5), (bit p.isNone, 1)]

/-- A line of a Keep partition. -/
def State.keepLine (s : State) (tier off : Nat) : Bool := (s.partitionAt tier off).any fun p => p.2.keep

/-- A step fault (R398): logged, no V this step, a halt at the boundary. -/
def State.stepFault (s : State) (tier off : Nat) (who : Named) : State :=
  ((s.logDevice 0x0F3 who 0 (s.memDetail tier off)).onMemory fun m => { m with stepFault := true }).haltAtBoundary 4

/-- A foreground read of a line stored poisoned (R396, R398): a CXL port cannot tell it from an uncorrectable one. -/
def State.readStored (s : State) (tier off : Nat) (who : Named) : State :=
  let p := s.partitionAt tier off
  if tier = 0 ∨ tier = 1 then
    let s := p.elim s fun p => s.onPart p.1 fun x => { x with poisonReads := satAdd x.poisonReads 1 }
    if s.keepLine tier off then s.stepFault tier off who else s
  else if tier = 2 ∨ tier = 3 then
    let s := p.elim s fun p => s.onPart p.1 fun x => { x with uncorrectable := satAdd x.uncorrectable 1 }
    s.logDevice 0x0F2 who 0 (s.memDetail tier off)
  else s

/-- A unit reads a range: every line of it that is stored poisoned is counted and, in a Keep partition, a step fault (R396, R398). -/
def State.noteReads (s : State) (k n : Nat) (who : Named) : State :=
  ((linesOf k n).filter fun l => s.memory.mem.poisoned l).foldl (fun s l => s.readStored (l / 2 ^ 48) (l % 2 ^ 48) who) s

/-- An uncorrectable line (R396, R398): counted, logged, delivered poisoned. The line stays poisoned to its readers until it is
written (DESIGN CHOICE: an uncorrectable line is found so again; log entry 52). -/
def State.readBad (s : State) (tier off : Nat) (who : Named) : State :=
  let s := (s.partitionAt tier off).elim s fun p => s.onPart p.1 fun x => { x with uncorrectable := satAdd x.uncorrectable 1 }
  let s := s.logDevice 0x0F2 who 0 (s.memDetail tier off)
  let s := s.withMem (s.memory.mem.setPoison (memKey tier off) true)
  if s.keepLine tier off then s.stepFault tier off who else s

/-- A running swap closes the bank, bank group or channel of a line to all traffic (R468). -/
def State.closedTo (s : State) (ctl off : Nat) : Bool :=
  let place := Config.rowBank (Config.dramRow ctl off)
  s.resil.swaps.any fun w => w.running &&
    match w.kind with
    | 3 => w.unit == ctl && Config.rowBank (BitVec.ofNat 32 w.detail) == place
    | 4 => w.unit == ctl && w.detail == place.1
    | 5 => w.unit + 16 == ctl
    | _ => false

/-! ### Corrections -/

/-- Lines of a controller's log with 16 corrections or more ask for a repair of their row (R467): a spare row, the fifth of a bank
group its spare bank group, a DDR row a soft repair. -/
def State.repairRows (s : State) (ctl part : Nat) : State :=
  ((s.controller ctl).log.filter fun e => e.partition.toNat == part && decide (16 ≤ e.count.toNat)).foldl (fun s e =>
    let row := (Config.dramRow ctl e.offset.toNat).toNat
    let who := engineName 0 (64 + ctl)
    if ctl < 16 then
      let group (r : Nat) : Nat := (Config.rowBank (BitVec.ofNat 32 r)).1
      let asked := ((s.controller ctl).spareRows.filter fun r => group r == group row).length +
        (s.resil.swaps.filter fun w => w.kind == 3 && w.unit == ctl && group w.detail == group row).length
      if (s.controller ctl).spareRows.contains row || s.isMarked 3 ctl row then s
      else if asked ≥ 4 then s.wornOut 4 ctl (group row) who else s.wornOut 3 ctl row who
    else s.wornOut 5 (ctl - 16) row who) s

/-- A correction in a partition (R393, R394): counted, the bucket fills, and at its capacity overflows, which interrupts role 3 where it has a
core. -/
def State.countCorrection (s : State) (tier off : Nat) : State :=
  match s.partitionAt tier off with
  | none => s
  | some (i, p) =>
    let level := (s.memory.parts.getD i PartState.reset).level.toNat + 1
    let full := decide (p.ceCapacity ≤ level)
    let s := s.onPart i fun x => { x with
      corrected := x.corrected + 1, level := BitVec.ofNat 16 (if full then p.ceCapacity / 2 else level)
      overflows := if full then satAdd x.overflows 1 else x.overflows }
    if !full then s else
    let s := s.logDevice 0x0F1 noName 0 (s.memDetail tier off)
    if s.roleUp 3 then (tierControllers tier).foldl (fun s c => s.repairRows c i) s else s

/-- What a controller finds in a line it reads for a unit (R389, R393, R396, R398). -/
def State.readLine (s : State) (tier off : Nat) (finding : LineFinding) (who : Named) : State :=
  match finding with
  | .uncorrectable => s.readBad tier off who
  | f =>
    if s.memory.mem.poisoned (memKey tier off) then s.readStored tier off who
    else match f with
      | .inner dies => match controllerOf tier off with
        | some c => if tier = 0 then s.onController c fun x => { x with inner := addN x.inner dies } else s
        | none => s
      | .corrected _ _ => if tier ≤ 1 then s.countCorrection tier off else s
      | _ => s

end Sys2Proof.Machine
end

