-- ==== Sys2Proof/Machine/Ports.lean ====
section
/-! DEFINITION. Operations the link commands share: packet headers (R414, R425), routing (R420, R421), fast retrains and
ports going down (R413, R418). -/

namespace Sys2Proof.Machine

/-- Detail of a port or lane record (R513): port at bit 160, lane at bit 163. -/
def portDetail (p lane : Nat) : Nat := p + 8 * lane

/-- A port goes down until the next start: replay buffer and queued packets are discarded (R418). -/
def State.portDown (s : State) (p code : Nat) : State :=
  (s.onPort p fun x => { x with
    state := 4, stage := 0, replay := [], resend := [], txRest := [], rxPacket := [], rxPending := 0, queues := [], control := []
    beats := [], nakSeq := none, nakRun := 0, heardSeq := none, heardRun := 0, newMap := none, txMap := none }).logDevice code noName 0 (portDetail p 0)

/-- The replay limit (R418): a fast retrain, or down at the third in one step. -/
def State.fastRetrain (s : State) (p : Nat) : State :=
  let x := s.port p
  if x.state ≠ 2 then s
  else if x.stepRetrains ≥ 2 then s.portDown p 0x100
  else s.onPort p fun x => { x with state := 3, retrains := satAdd x.retrains 1, stepRetrains := x.stepRetrains + 1,
                                    nakSeq := none, nakRun := 0, heardSeq := none, heardRun := 0 }

/-- A protocol fault (R413, R419): 0x104 and a fast retrain. -/
def State.linkProtocol (s : State) (p : Nat) : State := (s.logDevice 0x104 noName 0 (portDetail p 0)).fastRetrain p

/-- Receive buffers of a torus port by VC (R415). -/
def torusBuffers : List Nat := [256, 256, 1024, 1024, 512, 512, 1024, 512]

/-- Buffers of a port by VC (R415, R436). -/
def buffersOf (p : Nat) : List Nat := if p = 6 then [256, 2048, 0, 0, 0, 0, 0, 0] else torusBuffers

/-- Physical lanes that carry data, and the number of the spare (R409). -/
def dataLanes (p : Nat) : Nat := if p = 6 then 2 else 4

/-- Physical lane of a logical lane. -/
def PortState.laneOf (x : PortState) (i : Nat) : Nat := field x.laneMap.toNat (3 * i) 3

/-- Logical lanes in use, by their physical lanes. -/
def PortState.mapped (x : PortState) : List Nat := (List.range x.lanes).map x.laneOf

/-- A map with one physical lane replaced by the spare. -/
def PortState.spareMap (x : PortState) (p lane : Nat) : BitVec 12 :=
  BitVec.ofNat 12 (pack ((List.range 4).map fun i =>
    (if i < x.lanes ∧ x.laneOf i = lane then dataLanes p else x.laneOf i, 3)))

/-- A LANE_MAP flit (R428). -/
def laneMapFlit (map : BitVec 12) (atSeq : BitVec 10) (ack : Bool) : Flit :=
  flitOf [(1, 4), (0x27, 6), (0, 3), (map.toNat, 12), (atSeq.toNat, 10), (bit ack, 1)]

/-- The receiver of a lane moves its logical lane onto the spare (R434, R435): LANE_MAP names the first codeword under the new map,
which no rule fixes. -/
def State.useSpare (s : State) (p lane : Nat) : State :=
  let map := (s.port p).spareMap p lane
  let at' := BitVec.ofNat 10 (Config.undefinedField s.draws)
  ((s.sendControl p (laneMapFlit map at' false)).onPort p fun x => { x with newMap := some (map, at'), spareReady := false }).draw

/-- Word 0 of a torus packet (R414). -/
def torusWord0 (type vc flits : Nat) (dest src : Coord) (lgen entries : Nat) : Nat :=
  pack [(1, 4), (type, 6), (vc, 3), (0, 3), (flits, 7), (0, 1), (coordNum dest, 12), (coordNum src, 12), (lgen, 8), (entries, 4)]

/-- A header flit from word 0 and words 1–7. -/
def headerFlit (w0 rest : Nat) : Flit := BitVec.ofNat 512 (w0 + 2 ^ 64 * rest)

/-- A control flit from its bits [63:13] and words 1–7 (R428). -/
def controlFlit (type bits rest : Nat) : Flit := BitVec.ofNat 512 (pack [(1, 4), (type, 6), (0, 3), (bits, 51)] + 2 ^ 64 * rest)

/-- Direction on one axis: none where the coordinate is reached, true for + (R420: the shorter way, + where equal). -/
def axisWay (own dest dim : Nat) : Option Bool :=
  let d := (dest + dim - own) % dim
  if d = 0 then none else some (decide (d ≤ dim - d))

/-- The output port toward a device, in the order Y, Z, X; none for this device. -/
def State.portToward (s : State) (dest : Coord) : Option Nat :=
  let d := s.dims
  let pick (base : Nat) (w : Option Bool) : Option Nat := w.map fun plus => if plus then base else base + 1
  (pick 2 (axisWay s.start.y.toNat dest.y.toNat d.2.1)).orElse fun _ =>
    (pick 4 (axisWay s.start.z.toNat dest.z.toNat d.2.2)).orElse fun _ =>
      pick 0 (axisWay s.start.x.toNat dest.x.toNat d.1)

/-- Send a routed packet, or drop it where its port is not up (R421): counted, and logged once per port per step. -/
def State.route (s : State) (p : Nat) (k : Packet) : State :=
  if (s.port p).state = 2 ∨ (s.port p).state = 3 then s.sendPacket p k
  else
    let first := !(s.port p).dropLogged
    let s := s.onPort p fun x => { x with routeDrops := satAdd x.routeDrops 1, dropLogged := true }
    if first then s.logDevice 0x105 noName 0 (portDetail p 0) else s

/-- Send a packet to another device on the `a` virtual channel of its class. -/
def State.sendTo (s : State) (dest : Coord) (type vc lgen entries rest : Nat) (data : List Flit) : State :=
  match s.portToward dest with
  | none => s
  | some p =>
    s.route p ⟨BitVec.ofNat 3 vc, headerFlit (torusWord0 type vc data.length dest s.coord lgen entries) rest :: data⟩

/-- A window of a type is open, its param as given (R62, R433). -/
def State.windowOpen (s : State) (type : Nat) (ok : Nat → Bool) : Bool :=
  s.dial.instances.any fun d => (s.dialEntry d.entry).any fun e =>
    e.type == type && ok e.param && d.step == s.dial.step.toNat && decide (e.opens ≤ s.dial.pos.toNat ∧ s.dial.pos.toNat < e.closes)

end Sys2Proof.Machine
end

