-- ==== Sys2Proof/Machine/HandOver.lean ====
section
/-! DEFINITION. Items 3–6 of R48 and what they touch: the weight version (R310), table switches (R169), the pending Shard Map
(R164, R176, R375), the row maps (R451), the micro-batch count (R370) and the Rambler cursors (R198–R201). -/

namespace Sys2Proof.Machine

/-! ### Cursors -/

/-- This device's rank (R198). -/
def State.rank (s : State) : Nat :=
  let d := s.dims
  s.start.x.toNat + d.1 * s.start.y.toNat + d.1 * d.2.1 * s.start.z.toNat

/-- A cursor at an epoch and basket index (R198, R214, R215). -/
def Cursor.at (c : Cursor) (rank epoch k : Nat) : Cursor :=
  let pos := BitVec.ofNat 64 (epoch * 2 ^ 48 + rank * 2 ^ 36 + k)
  { c with nextPos := pos, ctrPos := pos, permEpoch := BitVec.ofNat 16 epoch }

/-- A cursor at a data position of the host's (R214). -/
def Cursor.place (c : Cursor) (dataPos : Nat) : Cursor :=
  let pos := BitVec.ofNat 64 dataPos
  { c with nextPos := pos, ctrPos := pos, permEpoch := BitVec.ofNat 16 (field pos.toNat 48 16) }

def Cursor.epoch (c : Cursor) : Nat := field c.nextPos.toNat 48 16
def Cursor.k (c : Cursor) : Nat := field c.nextPos.toNat 0 36

def State.onCursor (s : State) (i : Nat) (f : Cursor → Cursor) : State := { s with cursors := modifyAt s.cursors i f }
def State.cursor (s : State) (i : Nat) : Cursor := s.cursors.getD i Cursor.reset

/-- The basket descriptor of the slot's training or evaluation SAMPLE. -/
def State.basketFor (s : State) (eval : Bool) : Option BasketDesc :=
  s.slotCfg.ops.findSome? fun o =>
    match o.body with
    | .sample b _ _ _ => if o.eval = eval then some (s.slotCfg.basketOf b) else none
    | _ => none

/-- Baskets of an epoch (R198). -/
def State.epochBaskets (s : State) (eval : Bool) : Nat :=
  match s.basketFor eval with
  | none => 0
  | some b => ((s.operand b.seedList).elim 0 fun x => x.rows + 1) / (b.seeds + 1)

/-- R200, R201: a cursor whose epoch cannot hold the next `c` baskets moves to the next epoch. -/
def State.checkCursor (s : State) (eval : Bool) (c : Nat) : State :=
  let i := bit eval
  let n := s.epochBaskets eval
  let cur := s.cursor i
  if cur.k + c > n then
    s.onCursor i fun x => { x.at s.rank (x.epoch + 1) 0 with skipped := satAdd x.skipped (n - cur.k) }
  else s

/-! ### Rows and Coolers -/

/-- Rows of kind 2 and kind 4 tables that the device owns under the active bank (R444, R451). -/
def State.ownRows (s : State) : List (Nat × Nat) :=
  s.layout.zipIdx.flatMap fun e =>
    match findTable s.cfg.tables e.1.table with
    | none => []
    | some t =>
      let mine := !e.1.hole && (e.1.xOwn || e.1.x == s.start.x.toNat) && e.1.y == s.start.y.toNat && e.1.z == s.start.z.toNat
      if mine && (t.kind == 2 || t.kind == 4) then
        (List.range (shardRange s.layout (t.nodes + 1) e.2)).map fun i => (t.id, e.1.first + i)
      else []

/-- A row is dirty in all six row maps (R451). -/
def State.markDirty (s : State) (table node : Nat) : State :=
  let marks := ([0, 1, 2] : List (Fin 3)).flatMap fun t => [⟨t, false, table, node, false⟩, ⟨t, true, table, node, false⟩]
  s.onResil fun r => { r with rows := r.rows.filter (fun m => !(m.table == table && m.node == node)) ++ marks }

/-- Every owned row is dirty: SELECT, a restore, a change of layout generation (R451). -/
def State.markAllDirty (s : State) : State :=
  let marks := ([0, 1, 2] : List (Fin 3)).flatMap fun t => [false, true].flatMap fun set =>
    s.ownRows.map fun x => (⟨t, set, x.1, x.2, false⟩ : RowMark)
  s.onResil fun r => { r with rows := marks }

/-- Invalidate Cooler slots (R172, R176). -/
def State.dropCoolers (s : State) (f : CoolerSlot → Bool) : State :=
  s.onTables fun t => { t with coolers := t.coolers.map fun c => { c with slots := c.slots.filter fun x => !f x.2 } }

/-! ### Items 3 to 6 -/

/-- Item 3 (R308, R310). -/
def State.applyVersion (s : State) (h : HandOver) : State :=
  if h.advance then s.onTrain fun t => { t with versions := modifyAt t.versions s.run.slot.toNat (· + 1) } else s

/-- Item 4 (R169, R176): rows of a version that stops being live leave the Coolers. -/
def State.applySwitches (s : State) : State :=
  let stops (x : CoolerSlot) : Bool :=
    let t := s.tables.tables.getD x.table TableState.reset
    t.switchPending && t.pendingVersion != t.live && x.version == t.live
  let switch (t : TableState) : TableState :=
    if t.switchPending then
      { t with live := t.pendingVersion, switchPending := false, pendingVersion := false,
               switches := if t.pendingVersion = t.live then t.switches else t.switches + 1 }
    else t
  (s.dropCoolers stops).onTables fun t => { t with tables := t.tables.map switch }

/-- Item 5 (R164, R176, R182, R375): the pending bank becomes active and directory entries of rows no longer owned are
released. -/
def State.applyLayout (s : State) (h : HandOver) : State :=
  if !h.reshard then s else
  let s := s.dropCoolers fun x => (s.table x.table).any fun t => t.kind == 2
  let s := s.onTables fun t =>
    { t with activeLayout := t.pendingLayout, pendingValid := false, generation := t.generation + 1 }
  let owns (table node : Nat) : Bool := (s.table table).any fun t =>
    match s.lookup t node with
    | .row owner _ _ => owner == s.coord
    | _ => false
  (s.onTables fun t => { t with
    directory := t.directory.filter fun e => owns e.table e.node
    waitingRows := t.waitingRows.filter fun r => owns r.1 r.2 }).markAllDirty

/-- Item 6 (R370, R371) and the cursor's check that follows it (R200). -/
def State.applyCount (s : State) (h : HandOver) : State :=
  let changed := s.run.c != h.c
  let s := s.onRun fun r => { r with c := h.c }
  let s := s.onCascade fun x => { x with gns := { x.gns with
    cNext := BitVec.ofNat 11 h.c, changes := if changed then satAdd x.gns.changes 1 else x.gns.changes } }
  if s.slotCfg.header.seedSource then s.checkCursor false h.c else s

/-- Items 3–5. -/
def State.applyHandOver (s : State) (h : HandOver) : State := ((s.applyVersion h).applySwitches).applyLayout h

end Sys2Proof.Machine
end

