-- ==== Sys2Proof/Machine/Operands.lean ====
section
/-! DEFINITION. Operand forms (R127–R132): where a row of an operand stands for a micro-batch, how its elements read and
are written, gradient companions and dW staging (R291, R292, R296), micro-batch copies (R129, R300). -/

namespace Sys2Proof.Machine

/-- A row's place: a key of this device's memory, or an address of another device. -/
inductive Place where
  | own (key : Nat)
  | remote (addr : Nat)
  deriving DecidableEq, Repr

def Place.plus : Place → Nat → Place
  | .own k, n => .own (k + n)
  | .remote a, n => .remote (a + n)

/-- The place of a global address of an operand; `loc` fills in this device's coordinate (R127). -/
def State.placeOf (s : State) (loc : Bool) (a : Nat) : Place :=
  if loc || coordNum s.coord == field a 52 12 then .own (memKey (field a 48 4) (field a 0 48)) else .remote a

/-- Elements of a row. -/
def Operand.n (x : Operand) : Nat := x.cols + 1
def Operand.m (x : Operand) : Nat := x.rows + 1

/-- A number an association list gives. -/
def pairOf (i : Nat) (l : List (Nat × Nat)) : Option Nat := lookupNat i l

/-- First byte of an operand: its buffer by weight version (kind 2, R308), its copy and region (kind 3, R128, R129). -/
def State.operandBase (s : State) (m : Option MicroBatch) (version : Nat) (i : Nat) (x : Operand) : Place :=
  let b := s.placeOf x.loc (if x.kind = 2 ∧ version % 2 = 1 then x.baseB else x.base)
  if x.kind = 3 then
    let mb := m.elim 0 (·.mb)
    let copy := (m.bind fun m => pairOf i m.copies).getD 0
    (b.plus (copy * s.slotCfg.copyBytes i x)).plus (if field x.base 48 4 = 4 then regionOfMb mb * 2 ^ 30 else 0)
  else b

/-- First byte of row `r`. -/
def State.rowPlace (s : State) (m : Option MicroBatch) (version i : Nat) (x : Operand) (r : Nat) : Place :=
  (s.operandBase m version i x).plus (r * s.slotCfg.rowStride i x)

/-- Bytes of a place as a number (R10). -/
def State.placeNum (s : State) (p : Place) (n : Nat) : Nat :=
  match p with
  | .own k => s.numAt k n
  | .remote a => ofLe ((List.range n).map fun j => Config.remoteByte s.draws (a + j))

def State.placePoisoned (s : State) (p : Place) (n : Nat) : Bool :=
  match p with
  | .own k => s.rangePoisoned k n
  | .remote _ => false

/-- Write bytes at a place: here, or as MEM_WRITE packets to the device that holds it (R425). -/
def State.placeStore (s : State) (p : Place) (bs : List Byte) (poisoned : Bool) : State :=
  match p with
  | .own k => s.store k bs poisoned
  | .remote a =>
    s.sendTo ⟨BitVec.ofNat 4 (field a 60 4), BitVec.ofNat 4 (field a 56 4), BitVec.ofNat 4 (field a 52 4)⟩ 0x03 4 0 0 a (flitsOf bs)

/-- Store bytes with poison marks by 64-byte beat (R241, R397). -/
def State.storeBeats (s : State) (p : Place) (bs : List Byte) (mark : Nat → Bool) : State :=
  (List.range (ceilDiv bs.length 64)).foldl (fun s j => s.placeStore (p.plus (64 * j)) ((bs.drop (64 * j)).take 64) (mark j)) s

/-- Bytes one row of an operand takes. -/
def Operand.rowBytes (x : Operand) : Nat := rowSize x.format x.sparsity x.n

/-- Row `r` as a number, and its dense values (columns at or beyond n read +0). -/
def State.rowNum (s : State) (m : Option MicroBatch) (v i : Nat) (x : Operand) (r : Nat) : Nat :=
  s.placeNum (s.rowPlace m v i x r) x.rowBytes

/-- Dense values of a stored row, sparse rows expanded by their metadata (R130, R278). -/
def Operand.values (x : Operand) (row : Nat) : List Val :=
  if x.sparsity = 0 then (List.range x.n).map (denseVal x.format x.n x.scale row)
  else
    let put (vs : List Val) (j : Nat) : List Val :=
      let i := metaPos x.format x.sparsity x.n row j
      vs.set i (storedVal x.format x.sparsity x.n x.scale row j i)
    (List.range (storedVals x.format x.sparsity x.n)).foldl put (List.replicate x.n (.fin false 0 0))

def State.rowVals (s : State) (m : Option MicroBatch) (v i : Nat) (x : Operand) (r : Nat) : List Val :=
  x.values (s.rowNum m v i x r)

def State.rowPoisoned (s : State) (m : Option MicroBatch) (v i : Nat) (x : Operand) (r : Nat) : Bool :=
  s.placePoisoned (s.rowPlace m v i x r) x.rowBytes

/-- Any row of an operand is stored poisoned. -/
def State.operandPoisoned (s : State) (m : Option MicroBatch) (v i : Nat) (x : Operand) : Bool :=
  (List.range x.m).any fun r => s.rowPoisoned m v i x r

/-- A row's bytes from its values. -/
def Operand.encode (x : Operand) (rds : Nat → Rounding) (vs : List Val) : List Byte :=
  leBytes (encodeRow x.format x.scale rds vs) x.rowBytes

/-- Write a row of values. -/
def State.writeRow (s : State) (m : Option MicroBatch) (v i : Nat) (x : Operand) (r : Nat) (vs : List Val) (poisoned : Bool) : State :=
  s.placeStore (s.rowPlace m v i x r) (x.encode rne vs) poisoned

/-- FP32 of values. -/
def f32s (vs : List Val) : List (BitVec 32) := vs.map r32
def valsOf (fs : List (BitVec 32)) : List Val := fs.map v32

/-- FP32 values of a constants operand (R138): word `i` of the block. -/
def State.const32 (s : State) (operand i : Nat) : BitVec 32 :=
  BitVec.ofNat 32 (s.slotCfg.constNum ((s.operand operand).elim 0 (·.base) + 4 * i) 4)

/-! ### Gradient partition -/

/-- Key of the gradient partition's first byte (role 2 of R385). -/
def State.gradStart (s : State) : Nat := (s.partOf 2).elim 0 fun p => memKey p.2.tier p.2.start

/-- Where a companion row stands: the operand's own area, or LOSS.grad for logits (R291). -/
def State.companionRow (s : State) (m : MicroBatch) (i : Nat) (x : Operand) (r : Nat) : Place :=
  match s.slotCfg.lossGradOf i with
  | some g => ((s.operand g).map fun y => s.rowPlace (some m) 0 g y r).getD (.own 0)
  | none =>
    let off := (s.slotCfg.gradLayout.1.find? fun a => a.1 == i).elim 0 (·.2.1)
    .own (s.gradStart + off + ((pairOf i m.companions).getD 0) * companionBytes x + r * rowSize 1 0 x.n)

/-- Start of a staging copy of operation `j` (R296). -/
def State.stagingBase (s : State) (m : MicroBatch) (j : Nat) (o : Op) : Nat :=
  let off := (s.slotCfg.gradLayout.2.1.find? fun a => a.1 == j).elim 0 (·.2.1)
  s.gradStart + off + ((pairOf j m.staging).getD 0) * s.slotCfg.stagingBytes o

/-- A companion row has been written in the micro-batch (R292); LOSS.grad rows count as written. -/
def State.companionSet (s : State) (m : MicroBatch) (i r : Nat) : Bool :=
  (s.slotCfg.lossGradOf i).isSome || m.rowsSet.contains (i, r)

/-- FP32 values of a companion row; a row no part wrote reads +0 (R292). -/
def State.companionVals (s : State) (m : MicroBatch) (i : Nat) (x : Operand) (r : Nat) : List (BitVec 32) :=
  if s.companionSet m i r then
    let row := s.placeNum (s.companionRow m i x r) (4 * x.n)
    (List.range x.n).map fun j => BitVec.ofNat 32 (field row (32 * j) 32)
  else List.replicate x.n 0

def bytes32 (fs : List (BitVec 32)) : List Byte := fs.flatMap fun f => leBytes f.toNat 4

/-- Add FP32 rows element by element. -/
def addRows (a b : List (BitVec 32)) : List (BitVec 32) := List.zipWith add32 a b

/-! ### Copies -/

/-- The lowest number below `n` not in use. -/
def lowestFree (n : Nat) (used : List Nat) : Option Nat := (List.range n).find? fun k => !used.contains k

/-- Copies of an operand in use in a region's micro-batches; every region shares a tier 0x0 or 0x1 operand. -/
def State.copiesUsed (s : State) (sel : MicroBatch → List (Nat × Nat)) (i : Nat) (same : MicroBatch → Bool) : List Nat :=
  s.mbs.filterMap fun m => if same m then pairOf i (sel m) else none

/-- Micro-batches that share copies of an operand: those of the same region for a tier 0x4 operand (R129), else all. -/
def State.sharesCopies (s : State) (i mb : Nat) (m : MicroBatch) : Bool :=
  if (s.operand i).any fun x => field x.base 48 4 == 4 then regionOfMb m.mb == regionOfMb mb else true

/-- The copy of a kind 3 operand that a micro-batch would take. -/
def State.freeCopy (s : State) (i mb : Nat) : Option Nat :=
  let rerun (m : MicroBatch) : List Nat := if s.sharesCopies i mb m then (m.reruns.filter fun c => c.1 % 4096 == i).map (·.2) else []
  (s.operand i).bind fun x =>
    lowestFree (x.copies + 1) (s.copiesUsed (·.copies) i (s.sharesCopies i mb) ++ s.mbs.flatMap rerun)

/-- Take a companion copy at the first write into it (R292). -/
def State.takeCompanion (s : State) (mb step i : Nat) : State :=
  match s.mbOf mb step, s.operand i with
  | some m, some x =>
    if (pairOf i m.companions).isSome || (s.slotCfg.lossGradOf i).isSome then s else
    match lowestFree (x.copies + 1) (s.copiesUsed (·.companions) i fun _ => true) with
    | some k => s.onMb mb step fun m => { m with companions := insertKey i k m.companions }
    | none => s
  | _, _ => s

/-- Take a staging copy at the first dW drain (R296). -/
def State.takeStaging (s : State) (mb step j : Nat) (o : Op) : State :=
  match s.mbOf mb step with
  | none => s
  | some m =>
    if (pairOf j m.staging).isSome then s else
    match lowestFree (s.slotCfg.stagingCopies o) (s.copiesUsed (·.staging) j fun _ => true) with
    | some k => s.onMb mb step fun m => { m with staging := insertKey j k m.staging }
    | none => s

/-- A contribution to a companion row (R292), marked by 64-byte beat (R241): the first stores, later ones add in FP32 and keep the marks of
what they add to. LOSS has written every row of LOSS.grad (R137, R291). -/
def State.addCompanion (s : State) (mb step i r : Nat) (vs : List (BitVec 32)) (mark : Nat → Bool) : State :=
  let s := s.takeCompanion mb step i
  match s.mbOf mb step, s.operand i with
  | some m, some x =>
    let fresh := !s.companionSet m i r
    let place := s.companionRow m i x r
    let old (j : Nat) : Bool := !fresh && s.placePoisoned (place.plus (64 * j)) 1
    let vs := if fresh then vs else addRows (s.companionVals m i x r) vs
    let s' := s.onMb mb step fun m => if fresh then { m with rowsSet := m.rowsSet ++ [(i, r)] } else m
    s'.storeBeats place (padTo (rowSize 1 0 x.n) (bytes32 vs)) fun j => mark j || old j
  | _, _ => s

/-- Write a companion row in place, as a companion pass does (R293). -/
def State.setCompanion (s : State) (mb step i r : Nat) (vs : List (BitVec 32)) (poisoned : Bool) : State :=
  match s.mbOf mb step, s.operand i with
  | some m, some x =>
    let s := s.onMb mb step fun m => if m.rowsSet.contains (i, r) then m else { m with rowsSet := m.rowsSet ++ [(i, r)] }
    s.placeStore (s.companionRow m i x r) (padTo (rowSize 1 0 x.n) (bytes32 vs)) poisoned
  | _, _ => s

end Sys2Proof.Machine
end

