-- ==== Sys2Proof/Machine/Sched.lean ====
section
/-! DEFINITION. The region schedulers (R121, R124, R129, R312, R326–R339): contexts, event flags, admission, ready queues,
dispatch, completion; the completion conditions of dial table entries (R63) they govern. -/

namespace Sys2Proof.Machine

/-- Unit code of an operation (R123, R327, R337). -/
def OpBody.unit : OpBody → Nat
  | .sample _ _ _ _ => 0
  | .gather _ _ _ _ => 1
  | .aggregate _ => 1
  | .transform _ => 2
  | .activate _ _ _ => 3
  | .normalise _ => 3
  | .loss _ _ _ _ _ => 3
  | .optimize _ => 3
  | .spout _ _ _ => 3
  | .reduce _ _ _ _ => 6
  | .fill _ _ => 5
  | .tableSwitch _ _ => 5
  | .intake _ => 5

def OpBody.isOptimize : OpBody → Bool
  | .optimize _ => true
  | _ => false

def OpBody.isIntake : OpBody → Bool
  | .intake _ => true
  | _ => false

/-- The entry occurs in the current step: by its every and phase (R62), or as EVAL or CKPT asked (R145). -/
def State.occurs (s : State) (entry : Nat) : Bool :=
  (s.dialEntry entry).any (fun e => e.occurs s.dial.step.toNat) ||
    s.dial.instances.any fun d => d.entry == entry && d.step == s.dial.step.toNat

/-- An operation has instances in the current step (R62, R122). -/
def State.opOccurs (s : State) (o : Op) : Bool := s.occurs o.entry && (!o.once || s.run.firstRun)

/-- An operation has an instance for each micro-batch of a pass: training in the current step, or evaluation, whose instances run every
operation with eval = 1 (R122, R322). -/
def State.inPass (s : State) (eval : Bool) (o : Op) : Bool :=
  o.scope == 0 && o.eval == eval && (if eval then !o.once || s.run.firstRun else s.opOccurs o)

/-- Contexts one micro-batch or evaluation basket takes in the step (R332). -/
def State.mbNeeds (s : State) (eval : Bool) : Nat := ((s.slotCfg.ops.filter (s.inPass eval)).map fun o => 1 + bit o.bwd).sum

/-- OPTIMIZE operations with a kind 2 target that occur in the step (R310). -/
def State.weightUpdates (s : State) : List Nat :=
  (s.slotCfg.ops.zipIdx.filter fun o => s.opOccurs o.1 && match o.1.body with
    | .optimize p => s.slotCfg.isKind p.target 2
    | _ => false).map (·.2)

/-- Operands that hold weight, bias or affine gradients (R312). -/
def JobSlot.gradOperands (j : JobSlot) : List Nat := (j.ops.flatMap fun o => o.gradFields.map (·.2)).filter (· != noOperand)

/-- The operation whose instance defines the reclaim position of the step (R312): by open position, entry, index. -/
def State.reclaimOp (s : State) : Option (Nat × Op) :=
  let j := s.slotCfg
  let defines (o : Op) : Bool := s.opOccurs o && match o.body with
    | .reduce t _ _ _ => j.gradOperands.contains t
    | .optimize p => j.isKind p.target 2
    | _ => false
  (leastBy (fun x : Op × Nat => (((s.dialEntry x.1.entry).elim 0 (·.opens)) * 1024 + x.1.entry) * 16384 + x.2)
    (j.ops.zipIdx.filter fun x => defines x.1)).map fun x => (x.2, x.1)

/-- Open position of the step's reclaim (R312). -/
def State.reclaimPos (s : State) : Option Nat := s.reclaimOp.bind fun x => (s.dialEntry x.2.entry).map (·.opens)

/-- Entry of the step's Weir instance (R317): highest close, then higher entry. -/
def State.weirEntry (s : State) : Option Nat :=
  let j := s.slotCfg
  let es := j.ops.filterMap fun o =>
    match o.body with
    | .reduce t 0 _ true =>
      if s.opOccurs o && (j.ops.any fun p => match p.body with
        | .transform q => q.grad == t
        | _ => false) then some o.entry else none
    | _ => none
  es.foldl (fun best e =>
    let c (e : Nat) : Nat := ((s.dialEntry e).elim 0 (·.closes)) * 1024 + e
    match best with
    | none => some e
    | some b => if c b < c e then some e else some b) none

/-! ### Contexts -/

/-- What an instance's event flags stand for (R328). -/
def State.depsOf (s : State) (j : Nat) (o : Op) (part : Bool) : List Dep :=
  if part then s.slotCfg.backwardDeps j o
  else (s.slotCfg.forwardDeps s.cfg.tables s.cfg.sundial.det j o).map fun i => Dep.part i false

/-- A new waiting context takes the lowest free number of its region (R326, R331, R332). -/
def State.newCtx (s : State) (region j : Nat) (o : Op) (part : Bool) (mb step : Nat) : State :=
  match s.sched[region]? with
  | none => s
  | some r =>
    match (List.range 12288).find? fun k => (lookupNat k r.contexts).isNone with
    | none => s
    | some k =>
      let deps := s.depsOf j o part
      let entry := if part then o.bwdEntry else o.entry
      let intake := o.body.isIntake
      let defining := !part && s.reclaimOp.any fun x => x.1 == j
      let mask := if intake then 2 ^ 24 + 2 ^ 28
        else (2 ^ deps.length - 1) + 2 ^ 24 + (if mb = 4094 then 0 else 2 ^ 25) + (if o.body.isOptimize then 2 ^ 26 else 0) +
          (if defining then 2 ^ 27 else 0)
      let t : TaskContext :=
        { state := 1, spilled := false, unit := BitVec.ofNat 3 o.body.unit, part := part,
          recompute := false, eval := o.eval, slot := s.run.slot, op := BitVec.ofNat 14 j, mb := BitVec.ofNat 12 mb,
          unitIndex := 0, step := BitVec.ofNat 48 step, flags := if intake then 0x10000000 else 0, mask := BitVec.ofNat 32 mask,
          anyOf := intake, toCycles := false, timedOut := false,
          toValue := BitVec.ofNat 48 ((s.dialEntry entry).elim 0 (·.closes)), entry := BitVec.ofNat 10 entry, deps := deps,
          subs := [] }
      s.onRegion region fun r =>
        let cs := insertKey k t r.contexts
        { r with contexts := cs, ctxPeak := BitVec.ofNat 16 (max r.ctxPeak.toNat cs.length) }

/-- Scope 1 and 2 instances of the step (R331). -/
def State.createStepInstances (s : State) (which : Op → Bool) : State :=
  s.slotCfg.ops.zipIdx.foldl (fun s x =>
    let o := x.1
    if o.scope = 0 ∨ !which o ∨ !s.opOccurs o then s
    else if o.scope = 1 then
      (List.range 4).foldl (fun s r => if o.regions.testBit r then s.newCtx r x.2 o false 4094 s.dial.step.toNat else s) s
    else s.newCtx (x.2 % 4) x.2 o false 4094 s.dial.step.toNat) s

/-- Admission (R332): each region takes its micro-batches in ascending number while it has contexts for all their parts. -/
def State.openReady (s : State) : State :=
  let waiting := sortBy (·.mb) (s.mbs.filter fun m => !m.admitted && !m.dropped)
  waiting.foldl (fun s m =>
    let r := regionOfMb m.mb
    let blocked := s.mbs.any fun o => !o.admitted && !o.dropped && regionOfMb o.mb == r && o.step == m.step && o.mb < m.mb
    let eval := decide (1024 ≤ m.mb)
    let used := (s.sched.getD r RegionSched.reset).contexts.length
    if blocked || used + s.mbNeeds eval > 12288 then s
    else
      let s := s.onMb m.mb m.step fun m => { m with admitted := true }
      let s := s.onRegion r fun x => { x with admitted := x.admitted + 1 }
      s.slotCfg.ops.zipIdx.foldl (fun s x =>
        if !s.inPass eval x.1 then s
        else
          let s := s.newCtx r x.2 x.1 false m.mb m.step
          if x.1.bwd then s.newCtx r x.2 x.1 true m.mb m.step else s) s) s

/-! ### Reruns and copies -/

/-- A value as `recompute` lists it: an operand, or an operation's pre-activation (R305). -/
def markOf (i : Nat) (pre : Bool) : Nat := if pre then 65536 + i else i

/-- A forward value that a backward part re-gathers or recomputes (R301, R305). -/
def State.mustRerun (s : State) (m : MicroBatch) (i : Nat) : Bool := s.slotCfg.keptBy i == .regather || m.recompute.contains i

/-- A stash entry of a micro-batch (R303). -/
def State.stashEntry (s : State) (m : MicroBatch) (i : Nat) (pre : Bool) : Option StashEntry :=
  s.train.stash.find? fun e => e.operand == i && e.pre == pre && e.mb == m.mb && e.step == m.step

/-- An input of a rerun that stands in a copy or a stash entry (R306). -/
def State.inputHeld (s : State) (m : MicroBatch) (i : Nat) : Bool :=
  !s.slotCfg.isKind i 3 || !s.mustRerun m i && ((pairOf i m.copies).isSome || (s.stashEntry m i false).isSome)

/-- Training operations of scope 0 that write an operand. -/
def JobSlot.writersOf (j : JobSlot) (i : Nat) : List Nat :=
  (j.ops.zipIdx.filter fun o => o.1.scope == 0 && !o.1.eval && o.1.writes.contains i).map (·.2)

/-- Operations a backward part re-runs, ascending (R306): the writers of what it needs, then of their own inputs. -/
def State.rerunsFor (s : State) (m : MicroBatch) (j : Nat) (o : Op) : List Nat :=
  let sl := s.slotCfg
  let first := ((sl.forwardValues o).filter (s.mustRerun m)).flatMap sl.writersOf ++
    (if o.stashesPre && m.recompute.contains (markOf j true) then [j] else [])
  let more (need : List Nat) (k : Nat) : List Nat :=
    if !need.contains k then need
    else match sl.ops[k]? with
      | some w => need ++ ((w.reads.filter fun i => !s.inputHeld m i).flatMap sl.writersOf)
      | none => need
  sortBy id ((List.range sl.ops.length).reverse.foldl more first).eraseDups

/-- Operands whose rerun copy a backward part, ready or running, still waits to take (R300, R306). -/
def State.rerunWants (s : State) (t : TaskContext) : List Nat :=
  if !t.part || !(t.state == 2 || t.state == 3) then [] else
  match s.mbOf t.mb.toNat t.step.toNat, s.op t.op.toNat with
  | some m, some o =>
    (((s.rerunsFor m t.op.toNat o).filter fun k => !t.subs.contains k).flatMap fun k => (s.op k).elim [] fun w =>
      w.writes.filter fun i => s.slotCfg.isKind i 3 && (pairOf (4096 * t.op.toNat + i) m.reruns).isNone).eraseDups
  | _, _ => []

/-- Companions and staging areas that a backward part takes at its first write into them (R292, R296), as the operand, or 65,536 + the
operation. -/
def State.gradWants (s : State) (t : TaskContext) : List Nat :=
  if !t.part then [] else
  match s.mbOf t.mb.toNat t.step.toNat, s.op t.op.toNat with
  | some m, some o =>
    ((s.slotCfg.gradOut o).filter fun i => (pairOf i m.companions).isNone && (s.slotCfg.lossGradOf i).isNone) ++
      (if s.slotCfg.stagingBytes o = 0 ∨ (pairOf t.op.toNat m.staging).isSome then [] else [65536 + t.op.toNat])
  | _, _ => []

/-- Copies of a companion or staging area that no micro-batch holds. -/
def State.gradFree (s : State) (k : Nat) : Nat :=
  if k < 65536 then (s.operand k).elim 0 fun x => x.copies + 1 - (s.copiesUsed (·.companions) k fun _ => true).length
  else (s.op (k - 65536)).elim 0 fun o =>
    s.slotCfg.stagingCopies o - (s.copiesUsed (·.staging) (k - 65536) fun _ => true).length

/-- Contexts of all regions. -/
def State.allContexts (s : State) : List TaskContext := s.sched.flatMap fun r => r.contexts.map (·.2)

/-- Micro-batches whose running parts will take a copy of a companion or staging area (R300): each of them is sure of one. -/
def State.gradPromised (s : State) (k : Nat) : Nat :=
  ((s.allContexts.filter fun t => t.state == 3 && (s.gradWants t).contains k).map fun t => (t.mb, t.step)).eraseDups.length

/-- A forward part leaves free copies to the recomputations that wait for them (R300). -/
def State.copyToSpare (s : State) (i mb : Nat) : Bool :=
  let waiting := (s.allContexts.filter fun t =>
    (match s.mbOf t.mb.toNat t.step.toNat with
     | some m => s.sharesCopies i mb m
     | none => false) && (s.rerunWants t).contains i).length
  match s.operand i with
  | some x =>
    let held := (s.copiesUsed (·.copies) i (s.sharesCopies i mb)).length +
      (s.mbs.flatMap fun m => if s.sharesCopies i mb m then m.reruns.filter fun c => c.1 % 4096 == i else []).length
    decide (held + waiting < x.copies + 1)
  | none => false

/-! ### Event flags -/

/-- An operation's part is recorded complete for a micro-batch number (R339). -/
def State.partDone (s : State) (j mb : Nat) (part : Bool) : Bool := s.sched.any fun r => r.completed.contains (j, mb, part)

/-- Every instance of a scope 1 or 2 operation of the step has completed; one that does not occur has none (R124). -/
def State.wholeDone (s : State) (j : Nat) (o : Op) : Bool :=
  !s.opOccurs o ||
    if o.scope = 1 then (List.range 4).all fun r =>
      !o.regions.testBit r || (s.sched.getD r RegionSched.reset).completed.contains (j, 4094, false)
    else s.partDone j 4094 false

/-- A dependency is met (R124, R299, R328). -/
def State.depMet (s : State) (t : TaskContext) : Dep → Bool
  | .part j part =>
    match s.op j with
    | none => true
    | some o =>
      if o.scope ≠ 0 then s.wholeDone j o
      else if t.mb = 4094 then
        -- an evaluation pass that has still to open has every instance to run; after reclaim no new micro-batch starts (R312)
        (!o.eval || !s.opOccurs o || (s.dialEntry o.entry).any fun e => decide (e.opens ≤ s.dial.pos.toNat)) &&
        s.mbs.all fun m => m.dropped || decide (1024 ≤ m.mb) != o.eval || m.step != t.step.toNat || !s.inPass o.eval o ||
          s.train.reclaimDone && !m.started && decide (m.mb < 1024) ||
          s.partDone j m.mb false && (!o.bwd || s.partDone j m.mb true)
      else s.partDone j t.mb.toNat part
  | .kept i pre =>
    match s.mbOf t.mb.toNat t.step.toNat with
    | none => false
    | some m => m.recompute.contains (markOf i pre) || !pre && s.slotCfg.keptBy i == .regather ||
        s.train.stash.any fun e => e.operand == i && e.pre == pre && e.mb == m.mb && e.step == m.step

/-- A copy of every kind 3 operand, companion and staging area that the instance takes is free or held (R129, R300). -/
def State.copiesFree (s : State) (t : TaskContext) (o : Op) : Bool :=
  match s.mbOf t.mb.toNat t.step.toNat with
  | none => true
  | some m =>
    if t.part then
      (s.gradWants t).all fun k => decide (s.gradPromised k < s.gradFree k) ||
        s.allContexts.any fun x => x.state == 3 && x.mb == t.mb && x.step == t.step && (s.gradWants x).contains k
    else (o.writes.filter fun i => s.slotCfg.isKind i 3).all fun i =>
      (pairOf i m.copies).isSome || (s.freeCopy i m.mb).isSome

/-- Conditions that hold now, as flag bits (R328). -/
def State.flagsNow (s : State) (t : TaskContext) : BitVec 32 :=
  match s.op t.op.toNat with
  | none => 0
  | some o =>
    let b (i : Nat) (c : Bool) : Nat := if c then 2 ^ i else 0
    let deps := (t.deps.zipIdx.map fun d => b d.2 (s.depMet t d.1)).sum
    let opened := (s.dialEntry t.entry.toNat).any fun e => decide (s.dial.step.toNat > t.step.toNat ∨ e.opens ≤ s.dial.pos.toNat)
    let defining := !t.part && s.reclaimOp.any fun x => x.1 == t.op.toNat
    BitVec.ofNat 32 (deps + b 24 opened + b 25 (s.copiesFree t o) +
      b 26 (o.body.isOptimize && (s.train.decided || s.weirEntry.isNone)) + b 27 (defining && s.train.reclaimDone))

/-- A waiting context is ready (R329). -/
def TaskContext.isReady (t : TaskContext) : Bool :=
  if t.anyOf then t.flags.getLsbD 24 && (t.flags &&& t.mask &&& 0xFEFFFFFF#32) != 0
  else (t.flags &&& t.mask) == t.mask

/-! ### Ready queues -/

/-- Ready contexts of a class, by whether they lie in the Cistern, in ascending key; `c` is the step's micro-batch count (R125). -/
def RegionSched.ready (r : RegionSched) (c unit : Nat) (spilled : Bool) : List (Nat × TaskContext) :=
  sortBy (fun x => x.2.key c) (r.contexts.filter fun x => x.2.state == 2 && x.2.unit.toNat == unit && x.2.spilled == spilled)

def RegionSched.setCtx (r : RegionSched) (k : Nat) (t : TaskContext) : RegionSched :=
  { r with contexts := insertKey k t r.contexts }

/-- A context becomes ready (R335). -/
def RegionSched.enqueue (r : RegionSched) (c k : Nat) (t : TaskContext) : RegionSched :=
  let unit := t.unit.toNat
  let held := r.ready c unit false
  let out := r.ready c unit true
  let key := t.key c
  let spill (r : RegionSched) (k : Nat) (t : TaskContext) : RegionSched :=
    { r.setCtx k { t with state := 2, spilled := true } with spills := r.spills + 1 }
  let hold (r : RegionSched) : RegionSched := r.setCtx k { t with state := 2, spilled := false }
  if out.head?.any fun x => decide (x.2.key c < key) then spill r k t
  else if held.length < 256 then hold r
  else match held.getLast? with
    | some h => if key < h.2.key c then hold (spill r h.1 h.2) else spill r k t
    | none => hold r

/-- Refill from the Cistern (R335). -/
def RegionSched.refill (r : RegionSched) (c unit : Nat) : RegionSched :=
  let held := (r.ready c unit false).length
  if held ≤ 128 then
    ((r.ready c unit true).take (256 - held)).foldl (fun r x => r.setCtx x.1 { x.2 with spilled := false }) r
  else r

/-- Count of Cistern entries. -/
def RegionSched.count (r : RegionSched) : RegionSched :=
  { r with spilledNow := BitVec.ofNat 16 (r.contexts.filter fun x => x.2.spilled).length }

/-- Set event flags and move contexts that become ready, in ascending key, into the ready queues (R328, R329, R335). -/
def State.refreshRegion (s : State) (r : RegionSched) : RegionSched :=
  let flagged (t : TaskContext) : TaskContext := if t.state = 1 then { t with flags := t.flags ||| s.flagsNow t } else t
  let r : RegionSched := { r with contexts := r.contexts.map fun x => (x.1, flagged x.2) }
  let new := sortBy (fun x => x.2.key s.run.c) (r.contexts.filter fun x => x.2.state == 1 && x.2.isReady)
  let r := new.foldl (fun r x => r.enqueue s.run.c x.1 x.2) r
  ((List.range 7).foldl (fun r u => r.refill s.run.c u) r).count

/-! ### Completion of dial table instances -/

/-- Stash points of a micro-batch still owed for an entry's operations (R63, R302). -/
def State.stashOwed (s : State) (e : Nat) : Bool :=
  s.mbs.any fun m => !m.dropped && !m.committed && decide (m.mb < 1024) &&
    s.slotCfg.ops.zipIdx.any fun x => x.1.entry == e &&
      let done (i : Nat) (pre : Bool) : Bool := m.recompute.contains (markOf i pre) ||
        s.train.stash.any fun z => z.operand == i && z.pre == pre && z.mb == m.mb && z.step == m.step
      (x.1.writes.any fun i => s.slotCfg.stashed.contains i && s.partDone x.2 m.mb false && !s.partDone x.2 m.mb true && !done i false) ||
      (x.1.stashesPre && s.partDone x.2 m.mb false && !s.partDone x.2 m.mb true && !done x.2 true)

/-- Contexts an entry governs that are unfinished, with their region. -/
def State.unfinished (s : State) (e step : Nat) : List (Nat × Nat × TaskContext) :=
  s.sched.zipIdx.flatMap fun r =>
    (r.1.contexts.filter fun x => x.2.entry.toNat == e && x.2.step.toNat == step).map fun x => (r.2, x.1, x.2)

/-- Micro-batches that hold unfinished work under an entry: contexts, or not yet admitted (R69, R332). -/
def State.lateMbs (s : State) (e step : Nat) : List Nat :=
  let govern (eval : Bool) : Bool := s.slotCfg.ops.any fun o =>
    s.inPass eval o && (o.entry == e || o.bwd && o.bwdEntry == e)
  (s.mbs.filter fun m => m.step == step && !m.dropped && !m.committed &&
    (!m.admitted && govern (decide (1024 ≤ m.mb)) ||
      (s.unfinished e step).any fun x => x.2.2.mb.toNat == m.mb)).map (·.mb)

/-- The instance of an entry is complete (R63); `target` and the re-shard are judged by their own state. -/
def State.entryDone (s : State) (i : Nat) (e : DialEntry) (step : Nat) : Bool :=
  if windowOnly e.type then true
  else if e.type = 6 then !(s.resil.targets.getD (field e.param 0 2) CkptTarget.reset).active
  else if e.type = 0xC then s.tables.reshardDone
  else (s.unfinished i step).isEmpty && (s.lateMbs i step).isEmpty && (e.type != 2 || !s.stashOwed i)

/-- Note the first position at which an open instance's condition holds (R63). -/
def State.noteCompletions (s : State) : State :=
  let note (d : DialInstance) : DialInstance :=
    match d.completed, s.dialEntry d.entry with
    | none, some e =>
      if d.step = s.dial.step.toNat ∧ e.opens ≤ s.dial.pos.toNat ∧ s.entryDone d.entry e d.step then
        { d with completed := some s.dial.pos.toNat } else d
    | _, _ => d
  s.onDial fun x => { x with instances := x.instances.map note }

/-- The evaluation instance of an entry ends when every basket has completed or been dropped (R323): EVAL_STATUS is written, its baskets'
numbers are free again. A basket that was dropped before its first work item took no version. -/
def State.endEvaluationOf (s : State) (entry : Nat) : State :=
  let mine (m : MicroBatch) : Bool := decide (1024 ≤ m.mb) && m.evalOf == entry
  let evals := sortBy (·.mb) (s.mbs.filter mine)
  if evals.isEmpty || evals.any fun m => !m.dropped && !m.committed then s else
  let good := evals.filter fun m => !m.dropped
  let sum := good.foldl (fun a m => add64 a m.loss) 0#64
  let s := s.onTrain fun t => { t with
    evalLoss := sum
    evalSamples := BitVec.ofNat 32 (good.map (·.samples)).sum
    evalDropped := BitVec.ofNat 16 (evals.length - good.length)
    evalStep := BitVec.ofNat 48 ((evals.head?).elim 0 (·.step))
    evalVersion := BitVec.ofNat 48 ((evals.find? (·.started)).elim s.weightVersion.toNat (·.weightV))
    evalCount := t.evalCount + 1 }
  { s with
    mbs := s.mbs.filter fun m => !mine m
    sched := s.sched.map fun r => { r with completed := r.completed.filter fun x => !evals.any fun m => m.mb == x.2.1 } }

def State.endEvaluation (s : State) : State :=
  ((s.mbs.filter fun m => decide (1024 ≤ m.mb)).map (·.evalOf)).eraseDups.foldl State.endEvaluationOf s

/-- What follows any change a scheduler sees: admission, event flags, ready queues, completions. -/
def State.settle (s : State) : State :=
  let s := s.openReady
  let s := { s with sched := s.sched.map s.refreshRegion }
  s.endEvaluation.noteCompletions

/-! ### Dispatch -/

/-- The slot runs, outside the steps a rollback reserves (R149, R320). -/
def State.working (s : State) : Bool := s.run.run == 2 && s.train.holdUntil.all fun t => decide (t ≤ s.dial.step.toNat)

/-- Work items may be dispatched (R54, R55, R149, R320, R459). -/
def State.mayDispatch (s : State) : Bool :=
  s.dial.locked && s.dial.crossed && s.working && s.resil.restore.stage != .status

/-- A START takes effect at the next boundary. -/
def State.startNext (s : State) : Bool := s.run.startAt.any fun t => t.toNat == s.dial.step.toNat + 1

/-- INTAKE runs for a START's step as well (R145). -/
def State.mayIntake (s : State) : Bool := s.dial.locked && s.dial.crossed && (s.run.run == 2 || s.startNext)

/-- Contexts of a class a region runs. -/
def RegionSched.running (r : RegionSched) (unit : Nat) : List TaskContext :=
  (r.contexts.filter fun x => x.2.state == 3 && x.2.unit.toNat == unit).map (·.2)

/-- A cell of the block is being swapped (R468). -/
def State.swapping (s : State) (b : Nat) : Bool :=
  s.resil.swaps.any fun w => w.running && w.kind == 1 && unitClass w.unit == 0 && unitBlock w.unit == b

/-- Active blocks of a region that may take work: a product takes sixteen cells, so a block with a fenced active cell waits for the
cell's swap (R27, R257). -/
def State.usableBlocks (s : State) (r : Nat) : List Nat :=
  (List.range 9).filter fun b =>
    let x := s.blocks.getD (9 * r + b) BlockState.reset
    (s.resil.activeBlocks.getD r 0).getLsbD b && !x.fenced && x.active &&& x.cellsFenced == 0 && !s.swapping (9 * r + b)

/-- Active Spout cores of a region that may take work. -/
def State.usableSpouts (s : State) (r : Nat) : List Nat :=
  (List.range 9).filter fun i => (s.resil.activeSpouts.getD r 0).getLsbD i && !s.resil.fencedSpouts.contains (r, i)

/-- The lowest-numbered free active Spout core of a region (R336), apart from the work of one context. -/
def State.freeSpout (s : State) (r : Nat) (but : Option CtxId) : Option Nat :=
  let busy := ((s.sched.getD r RegionSched.reset).contexts.filter fun x =>
    x.2.state == 3 && x.2.unit.toNat == 3 && !but.any fun c => c.region.val == r && c.number == x.1).map fun x => x.2.unitIndex.toNat
  (s.usableSpouts r).find? fun i => !busy.contains i

/-- The buffer a product's weight tiles come from: the first byte of w in the version its micro-batch reads (R308, R336). -/
def State.weightBuffer (s : State) (m : Option MicroBatch) (w : Nat) : Option Nat :=
  (s.operand w).map fun x => match s.operandBase m (m.elim 0 (·.weightV)) w x with
    | .own k => k
    | .remote a => a

/-- The role whose control core runs an operation (R340). -/
def OpBody.role : OpBody → Nat
  | .fill _ _ => 3
  | _ => 5

/-- Order in which one Cascade engine starts its ready instances (R350): open position, entry, then operation. -/
def State.cascadeOrder (s : State) (t : TaskContext) : Nat :=
  ((s.dialEntry t.entry.toNat).elim 0 (·.opens) * 1024 + t.entry.toNat) * 16384 + t.op.toNat

/-- The Cascade engine of an entry (R350). -/
def State.engineFor (s : State) (t : TaskContext) : Nat := field ((s.dialEntry t.entry.toNat).elim 0 (·.param)) 2 1

/-- No other ready instance of its Cascade engine, in any region, starts before it (R350). -/
def State.firstOfEngine (s : State) (t : TaskContext) : Bool :=
  t.unit != 6 || s.allContexts.all fun x =>
    x.unit != 6 || x.state != 2 || s.engineFor x != s.engineFor t || decide (s.cascadeOrder t ≤ s.cascadeOrder x)

/-- The unit an item would take (R334, R336): none where no unit is free. A FILL waits for role 3, whose core holds it, and for role 5
(R343). A backward part finds no segments of its out operand: its own
forward part and those of its sharers have drained (R272). -/
def State.chooseUnit (s : State) (r : Nat) (t : TaskContext) (o : Op) : Option Nat :=
  let rs := s.sched.getD r RegionSched.reset
  let busy := rs.running t.unit.toNat
  match t.unit.toNat with
  | 0 => if busy.length < 8 then some 0 else none
  | 1 => if busy.length < 16 then some 0 else none
  | 2 =>
    let free := (s.usableBlocks r).filter fun b => !busy.any fun x => x.unitIndex.toNat == b
    match o.body with
    | .transform q =>
      match (s.mbOf t.mb.toNat t.step.toNat).bind fun m => if t.part then none else pairOf q.out m.segments with
      | some b => if free.contains b then some b else none
      | none =>
        let buffer := s.weightBuffer (s.mbOf t.mb.toNat t.step.toNat) q.w
        (free.find? fun b => let x := s.blocks.getD (9 * r + b) BlockState.reset; x.lastW.isSome && x.lastW == buffer).orElse fun _ => free.head?
    | _ => free.head?
  | 3 => s.freeSpout r none
  | 5 =>
    let held := s.sched.flatMap fun x => (x.running 5).filter fun y => (s.op y.op.toNat).any fun p => p.body.role == o.body.role
    if held.length < 4 && s.roleUp o.body.role && s.roleUp 5 then some 0 else none
  | 6 =>
    let e := s.engineFor t
    let taken := s.sched.any fun x => (x.running 6).any fun y => y.unitIndex.toNat == e
    if taken then none else some e
  | _ => none

/-- First dispatch of a micro-batch fixes the versions it reads (R170, R311). -/
def State.startMb (s : State) (mb step : Nat) : State :=
  let v := s.weightVersion.toNat
  let updates := s.weightUpdates
  let after := decide (1024 ≤ mb) && !updates.isEmpty && !s.train.skip && updates.all fun j => s.partDone j 4094 false
  let live := (List.range 256).filter fun id => s.liveVersion id
  s.onMb mb step fun m => if m.started then m else
    { m with started := true, versionB := live, weightV := if after then v + 1 else v }

/-- Copies of kind 3 operands a forward part writes, taken in ascending index (R129). -/
def State.takeCopies (s : State) (mb step : Nat) (o : Op) : State :=
  (sortBy id (o.writes.filter fun i => s.slotCfg.isKind i 3)).foldl (fun s i =>
    match (s.mbOf mb step).bind (fun m => pairOf i m.copies), s.freeCopy i mb with
    | none, some k => s.onMb mb step fun m => { m with copies := insertKey i k m.copies }
    | _, _ => s) s

/-- A copy of every kind 3 operand that a micro-batch writes is free (R129). -/
def State.mayBegin (s : State) (m : MicroBatch) : Bool :=
  let eval := decide (1024 ≤ m.mb)
  let mine := s.slotCfg.ops.filter (s.inPass eval)
  ((mine.flatMap (·.writes)).filter fun i => s.slotCfg.isKind i 3).all fun i => (s.freeCopy i m.mb).isSome

/-- Sharing operations that a max or min TRANSFORM issues after with det = 1 (R272, R274). -/
def State.sharersBefore (s : State) (t : TaskContext) (o : Op) : List Nat :=
  match o.body with
  | .transform q => if q.acc = 0 ∨ t.part then [] else
      (List.range t.op.toNat).filter fun i => (s.op i).any fun w => s.inPass o.eval w && match w.body with
        | .transform p => p.out == q.out
        | _ => false
  | _ => []

/-- A forward part has been dispatched, or has completed. -/
def State.issued (s : State) (j : Nat) (mb : BitVec 12) (step : BitVec 48) : Bool :=
  s.partDone j mb.toNat false ||
    s.allContexts.any fun x => x.op.toNat == j && x.mb == mb && x.step == step && !x.part && (x.state == 3 || x.state == 4)

/-- An item a unit may take now. -/
def State.runnable (s : State) (r : Nat) (t : TaskContext) : Option (Op × Nat) :=
  (s.op t.op.toNat).bind fun o =>
    let allowed := if o.body.isIntake then s.mayIntake else s.mayDispatch
    let reclaimed := s.train.reclaimDone && decide (t.mb.toNat < 1024) &&
      (s.mbOf t.mb.toNat t.step.toNat).any fun m => !m.started
    let waits := (s.mbOf t.mb.toNat t.step.toNat).any fun m => !m.started && !s.mayBegin m
    let issued := s.cfg.sundial.det.not || (s.sharersBefore t o).all fun j => s.issued j t.mb t.step
    let spared := t.part || (o.writes.filter fun i => s.slotCfg.isKind i 3 &&
      ((s.mbOf t.mb.toNat t.step.toNat).any fun m => (pairOf i m.copies).isNone)).all fun i => s.copyToSpare i t.mb.toNat
    if !allowed || reclaimed || waits || !issued || o.body.isOptimize && s.memory.stepFault || !s.copiesFree t o || !spared || !s.firstOfEngine t then none else (s.chooseUnit r t o).map fun u => (o, u)

/-- FILLs run one at a time in dispatch order (R403): the first in the queue whose context stands is the running one, and FILL_STATUS is its (R407). -/
def State.runFills (s : State) : State :=
  let live := s.memory.fill.queue.filter fun c => (s.ctx c).isSome
  let s := s.onMemory fun m => { m with fill := { m.fill with queue := live, active := !live.isEmpty } }
  match (live.head?).bind s.ctx with
  | none => s
  | some t =>
    let base := match (s.op t.op.toNat).map (·.body) with
      | some (.fill i _) => (s.operand i).elim 0 (·.base)
      | _ => 0
    s.onMemory fun m => { m with fill := { m.fill with
      progress := 0, op := t.op, position := BitVec.ofNat 48 (field base 0 48), tier := BitVec.ofNat 4 (field base 48 4) } }

/-- The held entry of lowest key that a free unit can run is dispatched (R336). -/
def State.dispatch (s : State) (r unit : Nat) : State :=
  let rs := s.sched.getD r RegionSched.reset
  match (rs.ready s.run.c unit false).findSome? fun x => (s.runnable r x.2).map fun y => (x, y) with
  | none => s
  | some ((k, t), (o, u)) =>
    let mb := t.mb.toNat
    let step := t.step.toNat
    let s := if mb < 2048 then s.startMb mb step else s
    let s := if t.part then s else s.takeCopies mb step o
    let again := t.part && (s.mbOf mb step).any fun m => (o.stashesPre && m.recompute.contains (markOf t.op.toNat true)) ||
      (s.slotCfg.forwardValues o).any fun i => m.recompute.contains i || s.slotCfg.keptBy i == .regather
    let s := s.onRegion r fun x =>
      { x.setCtx k { t with state := 3, unitIndex := BitVec.ofNat 4 u, recompute := again } with dispatched := x.dispatched + 1 }
    let s := match o.body with
      | .transform q => s.onMb mb step fun m =>
          if t.part || (pairOf q.out m.segments).isSome then m else { m with segments := insertKey q.out u m.segments }
      | .optimize p =>
        match s.slotCfg.tableOf s.cfg.tables p.target with
        | some tb => s.onTables fun x => { x with updating := insertNat tb.id x.updating }
        | none => s
      | .fill _ _ => (s.onMemory fun m => { m with fill := { m.fill with queue := m.fill.queue ++ [(⟨Fin.ofNat 4 r, k⟩ : CtxId)] } }).runFills
      | .sample _ _ _ _ =>
        s.onCursor (bit (decide (1024 ≤ mb))) fun c => { c with baskets := c.baskets + 1 }
      | _ => s
    s.settle

/-- Unit code of a class. -/
def classUnit : UnitClass → Nat
  | .rambler => 0
  | .gather => 1
  | .block => 2
  | .spout => 3
  | .compressor => 4
  | .core => 5
  | .cascade => 6

/-- R65, R81, R124, R125, R129, R170, R274, R299, R300, R311, R334–R336, R338. -/
def execDispatch (region : Region) (cls : UnitClass) (s : State) : Out := .next <| s.settle.dispatch region.val (classUnit cls)

/-! ### Completion -/

/-- A micro-batch still needs its copy of an operand: to the end of its backward work, or of its work where it has none (R129); a forward
value kept by stash, re-gather or recomputation until its stash point is complete and its forward readers are done (R301). -/
def State.copyNeeded (s : State) (m : MicroBatch) (i : Nat) : Bool :=
  let sl := s.slotCfg
  let eval := decide (1024 ≤ m.mb)
  let todo (j : Nat) (part : Bool) : Bool := !s.partDone j m.mb part
  let mine := sl.ops.zipIdx.filter fun x => s.inPass eval x.1
  let early := m.recompute.contains i || sl.keptBy i != .copy && mine.any fun x => x.1.bwd && (sl.forwardValues x.1).contains i
  !early && (if mine.any (·.1.bwd) then mine.any fun x => x.1.bwd && todo x.2 true else mine.any fun x => todo x.2 false) ||
  mine.any fun x =>
    let o := x.1
    (o.reads.contains i || o.writes.contains i) && todo x.2 false ||
    -- a stash point not yet complete holds the copy
    (o.writes.contains i && !eval && sl.stashed.contains i && !m.recompute.contains i &&
      !(s.train.stash.any fun e => e.operand == i && !e.pre && e.mb == m.mb && e.step == m.step) &&
      sl.ops.zipIdx.any fun y => y.1.bwd && (sl.forwardValues y.1).contains i && todo y.2 true)

/-- A companion copy is still read by a backward part (R292). -/
def State.companionNeeded (s : State) (m : MicroBatch) (i : Nat) : Bool :=
  s.slotCfg.ops.zipIdx.any fun x => x.1.bwd && s.opOccurs x.1 && !s.partDone x.2 m.mb true &&
    (x.1.gradIn == some i || (s.slotCfg.gradOut x.1).contains i)

/-- A stash entry is still read (R304). -/
def State.stashNeeded (s : State) (e : StashEntry) : Bool :=
  s.slotCfg.ops.zipIdx.any fun x => x.1.bwd && s.opOccurs x.1 && !s.partDone x.2 e.mb true &&
    (if e.pre then x.2 == e.operand else (s.slotCfg.forwardValues x.1).contains e.operand)

/-- Release what a micro-batch no longer needs (R129, R292, R300, R301, R304). -/
def State.release (s : State) (mb step : Nat) : State :=
  let s := s.onMb mb step fun m =>
    { m with copies := m.copies.filter fun c => s.copyNeeded m c.1, companions := m.companions.filter fun c => s.companionNeeded m c.1 }
  s.onTrain fun t => { t with stash := t.stash.filter fun e => !(e.mb == mb && e.step == step) || s.stashNeeded e }

/-- Record a completion and free the context (R339); an evaluation micro-batch ends with its last forward part (R322). -/
def State.completeCtx (s : State) (c : CtxId) (t : TaskContext) : State :=
  let mb := t.mb.toNat
  let step := t.step.toNat
  let s := (s.freeCtx c).onRegion c.region.val fun r =>
    { r with completed := r.completed ++ [(t.op.toNat, mb, t.part)] }
  let ended := decide (1024 ≤ mb ∧ mb < 2048) &&
    s.slotCfg.ops.zipIdx.all fun x => !s.inPass true x.1 || s.partDone x.2 mb false
  let s := if ended then s.onMb mb step fun m => { m with committed := true } else s
  let s := if t.part then s.onMb mb step fun m => { m with reruns := m.reruns.filter fun x => x.1 / 4096 != t.op.toNat } else s
  let s := if mb < 2048 then s.release mb step else s
  s.settle

/-- What `subs` of a backward part into a table holds once the return sweep has folded it (R237). -/
def sweptMark : Nat := 65536

/-- A backward part that only the return sweep completes (R237). -/
def State.awaitsSweep (s : State) (t : TaskContext) : Bool :=
  t.part && !t.subs.contains sweptMark && (s.op t.op.toNat).any fun o => (s.slotCfg.returnsTo s.cfg.tables o).isSome

/-- R121, R124, R170, R237, R299, R300, R304, R323, R328, R329, R332, R335, R339. -/
def execInstanceComplete (ctx : CtxId) (s : State) : Out :=
  .next <| match s.ctx ctx with
  | some t => if t.state = 4 ∧ !s.awaitsSweep t then s.completeCtx ctx t else s
  | none => s

/-- R330: the context stays waiting; a firmware context, with a time-out in cycles, becomes ready. -/
def execContextTimeout (ctx : CtxId) (s : State) : Out :=
  .next <| match s.ctx ctx with
  | some t =>
    if t.timedOut || t.state != 1 then s
    else if t.toCycles then
      let cycles := (s.sched.getD ctx.region.val RegionSched.reset).cycles
      -- modulo 2^48, within half the range (log entry 27)
      if 2 ^ 47 ≤ (cycles - t.toValue).toNat then s
      else s.onRegion ctx.region.val fun r => r.enqueue s.run.c ctx.number { t with timedOut := true }
    else if s.dial.step.toNat = t.step.toNat ∧ s.dial.pos.toNat ≤ t.toValue.toNat then s
    else (s.setCtx ctx { t with timedOut := true }).onRegion ctx.region.val fun r => { r with timeouts := satAdd r.timeouts 1 }
  | none => s

/-- The item's micro-batch was dropped while it ran on its Spout core (R338): it ends without effect. -/
def State.itemDropped (s : State) (t : TaskContext) : Bool := t.mb.toNat != 4094 && (s.mbOf t.mb.toNat t.step.toNat).all (·.dropped)

/-- A running work item: its context, operation and micro-batch number. -/
def State.runItem (s : State) (c : CtxId) (part : Bool) (f : TaskContext → Op → State → State) : State :=
  match s.ctx c with
  | some t =>
    if t.state = 3 ∧ t.part = part then
      if s.itemDropped t then (s.endDropped c).settle else
      match s.op t.op.toNat with
      | some o => f t o s
      | none => s
    else s
  | none => s

/-- The item has run to its end (R338): state 4. -/
def State.finish (s : State) (c : CtxId) : State :=
  match s.ctx c with
  | some t => s.setCtx c { t with state := 4 }
  | none => s

/-- The micro-batch of an item; none for scope 1 and 2. -/
def State.itemMb (s : State) (t : TaskContext) : Option MicroBatch := s.mbOf t.mb.toNat t.step.toNat

end Sys2Proof.Machine
end

