-- ==== Sys2Proof/Machine/Ring.lean ====
section
/-! DEFINITION. Rings of the torus axes (R348), the beat tree (R52, R61, R74), control flits BEAT, PRESENCE, NOTICE, TREE_UP
(R426, R428), and withdrawing a contribution (R69, R357, R362, R363). -/

namespace Sys2Proof.Machine

/-- Time on the dial: step and position as one number. -/
def State.dialTime (s : State) : Nat := s.dial.step.toNat * 65536 + s.dial.pos.toNat

/-- Dimension of axis 0 X, 1 Y, 2 Z and this device's coordinate on it. -/
def State.axisDim (s : State) (axis : Nat) : Nat := if axis = 0 then s.dims.1 else if axis = 1 then s.dims.2.1 else s.dims.2.2
def axisOf (c : Coord) (axis : Nat) : Nat := if axis = 0 then c.x.toNat else if axis = 1 then c.y.toNat else c.z.toNat
def State.axisPos (s : State) (axis : Nat) : Nat := axisOf s.coord axis

/-- The ring member at a position, by the device's other coordinates. -/
def withAxis (c : Coord) (axis p : Nat) : Coord :=
  if axis = 0 then { c with x := BitVec.ofNat 4 p } else if axis = 1 then { c with y := BitVec.ofNat 4 p }
  else { c with z := BitVec.ofNat 4 p }

/-- Port of an axis's + or − neighbour; in a ring of 2 only the + port is used (R348). -/
def State.axisPort (s : State) (axis : Nat) (plus : Bool) : Nat := 2 * axis + (if plus || s.axisDim axis = 2 then 0 else 1)

def State.portUp (s : State) (p : Nat) : Bool := (s.port p).state == 2 || (s.port p).state == 3

/-! ### Beats -/

/-- A coordinate from a status field. -/
def coordFrom (v : Nat) : Coord := ⟨BitVec.ofNat 4 (field v 8 4), BitVec.ofNat 4 (field v 4 4), BitVec.ofNat 4 (field v 0 4)⟩

/-- The root whose beats the device accepts. -/
def State.rootOf (s : State) : Coord := coordFrom s.dial.rootCoord.toNat

/-- A BEAT flit (R426). -/
def beatFlit (f : BeatFlit) : Flit :=
  flitOf [(1, 4), (0x21, 6), (0, 3), (0, 3), (f.epoch.toNat, 8), (coordNum f.coord, 12), (f.grants.toNat, 2), (bit f.extRef, 1),
    (bit f.go, 1), (bit f.nextValid, 1), (0, 7), (f.pos.toNat, 16), (f.step.toNat, 48), (0, 16), (f.curPeriod.toNat, 40), (0, 24),
    (f.nextPeriod.toNat, 40), (0, 24), (f.age.toNat, 24), (f.hops.toNat, 5)]

/-- Hops a beat goes from its source in a ring of `n` (R52). -/
def beatReach (n : Nat) (plus : Bool) : Nat := if plus then n / 2 else ceilDiv n 2 - 1

/-- Distance from a root on an axis, in the direction a beat travels. -/
def State.fromRoot (s : State) (root : Coord) (axis : Nat) (plus : Bool) : Nat :=
  let n := s.axisDim axis
  let r := axisOf root axis
  let p := s.axisPos axis
  if plus then (p + n - r) % n else (r + n - p) % n

/-- Whether a root's beat that travels in a direction of an axis goes on from this device. -/
def State.goesOn (s : State) (root : Coord) (axis : Nat) (plus : Bool) : Bool :=
  decide (s.fromRoot root axis plus < beatReach (s.axisDim axis) plus)

/-- Ports a root's beat leaves by (R52): `inPort` is where it arrived, none at the root. A device opens every axis after the one the beat arrived
on, and the root all three. DEDUCED: R52's first three rules alone would leave devices of the root's Y and Z lines, and of the Z lines of its X
line, without a beat, and its last says that each device receives it once (log entry 74). -/
def State.beatPorts (s : State) (root : Coord) (inPort : Option Nat) : List Nat :=
  let axisOut (axis : Nat) : List Nat :=
    ([true, false].filter fun plus => decide (0 < beatReach (s.axisDim axis) plus)).map fun plus => 2 * axis + (if plus then 0 else 1)
  match inPort with
  | none => axisOut 0 ++ axisOut 1 ++ axisOut 2
  | some p =>
    let axis := p / 2
    -- a beat that arrives on a − port travels in the + direction
    let plus := decide (p % 2 = 1)
    (if s.goesOn root axis plus then [2 * axis + (if plus then 0 else 1)] else []) ++
      (List.range 3).flatMap fun a => if axis < a then axisOut a else []

/-- Queue a beat on ports. -/
def State.sendBeat (s : State) (ports : List Nat) (f : BeatFlit) : State :=
  ports.foldl (fun s p => s.onPort p fun x => if x.state == 2 || x.state == 3 then
    { x with beats := x.beats ++ [(s.dial.ns, beatFlit f)] } else x) s

/-- The port toward the root along the beat tree (R61): the one its beats arrive on. -/
def State.treeParent (s : State) : Option Nat :=
  let toward (axis : Nat) : Nat :=
    if s.fromRoot s.rootOf axis true ≤ beatReach (s.axisDim axis) true then 2 * axis + 1 else 2 * axis
  [2, 1, 0].findSome? fun axis => if axisOf s.rootOf axis = s.axisPos axis then none else some (toward axis)

/-- A TREE_UP flit (R428). -/
def treeUp (kind value : Nat) (source : Coord) (entry step : Nat) : Flit :=
  controlFlit 0x24 (pack [(kind, 2), (value, 16), (coordNum source, 12), (entry, 10)]) step

/-- Send a control flit over a port that is up. -/
def State.sendFlit (s : State) (p : Nat) (f : Flit) : State := if s.portUp p then s.sendControl p f else s

/-- Send a TREE_UP flit toward the root. -/
def State.sendUp (s : State) (f : Flit) : State := s.treeParent.elim s fun p => s.sendFlit p f

/-! ### Cascade: presence, notices, withdrawal -/

def State.engine (s : State) (e : Nat) : CascadeEngine := s.cascade.engines.getD e CascadeEngine.reset
def State.onEngine (s : State) (e : Nat) (f : CascadeEngine → CascadeEngine) : State :=
  s.onCascade fun c => { c with engines := modifyAt c.engines e f }
def State.onCascadeRun (s : State) (e : Nat) (f : CascadeRun → CascadeRun) : State :=
  s.onEngine e fun x => { x with run := x.run.map f }

/-- A PRESENCE flit (R361, R428). -/
def presenceFlit (entry axis engine step : Nat) : Flit :=
  controlFlit 0x22 (pack [(entry, 10), (axis, 2), (engine, 1)]) step

/-- A NOTICE flit (R363, R366, R428). -/
def noticeFlit (split : Bool) (coord : Coord) (cause restart entry step : Nat) : Flit :=
  controlFlit 0x23 (pack [(bit split, 1), (coordNum coord, 12), (cause, 2), (restart, 16), (entry, 10)]) step

/-- Restart position of a detection (R363): the first multiple of 256 at least 512 positions on, modulo 65,536 in the flit. -/
def State.restartTime (s : State) : Nat := roundUp (s.dialTime + 512) 256

/-- Send a notice both ways along the ring of an engine's axis (R363). -/
def State.sendNotice (s : State) (e : Nat) (split : Bool) (coord : Coord) (cause restart : Nat) : State :=
  let x := s.engine e
  let f := noticeFlit split coord cause (restart % 65536) x.entry.toNat s.dial.step.toNat
  let axis := x.axis.toNat
  let s := s.sendFlit (s.axisPort axis true) f
  if s.axisDim axis = 2 then s else s.sendFlit (s.axisPort axis false) f

/-- Drop the micro-batches whose samples a contribution carries (R69, R357): those committed in the step, whose totals go. -/
def State.dropCarried (s : State) : State :=
  let carried := s.mbs.filter fun m => m.committed && decide (m.mb < 1024)
  let s : State := { s with mbs := s.mbs.map fun m => if m.committed && decide (m.mb < 1024) then { m with dropped := true } else m }
  let s := s.onTrain fun t => { t with samples := 0, loss := 0, nonFinite := 0 }
  if carried.isEmpty then s else s.lapse

/-- Withdraw this device's contribution to the instance an engine runs (R357, R362, R363). -/
def State.withdraw (s : State) (e : Nat) : State :=
  let x := s.engine e
  match x.run with
  | none => s
  | some r =>
    if r.withdrawn.contains r.pos then s else
    let at' := s.restartTime
    let s := s.onCascadeRun e fun r =>
      { r with withdrawn := insertNat r.pos r.withdrawn, restartAt := some at', told := insertNat (r.pos * 65536 + at' % 65536) r.told }
    s.sendNotice e false s.coord 1 at'

end Sys2Proof.Machine
end

