-- ==== Sys2Proof/Machine/Power.lean ====
section
/-! DEFINITION. Input power, power-up and power-down, reset pins, domains, block voltage, temperature, clocks, telemetry
(R475–R495, R498, R499, R502). -/

namespace Sys2Proof.Machine

/-- A mask of domains. -/
def domainMask (ds : List Nat) : BitVec 96 := ds.foldl (fun m d => m ||| (1#96 <<< d)) 0

/-- The base domains (R479). -/
def baseDomains : List Nat := [83, 84, 85, 86, 87, 88, 89, 90, 91, 93, 94]

/-- Housekeeping (R478). -/
def housekeepingDomain : List Nat := [94]

/-- A block's rail when its domain is off. -/
def BlockPower.switchOff (b : BlockPower) : BlockPower :=
  { b with mv := 0, on := false, throttled := false, highRun := 0, limitRun := 0 }

/-- Switch off every domain that is not kept. -/
def PowerState.keepOnly (p : PowerState) (keep : BitVec 96) : PowerState :=
  let on := p.on &&& keep
  { p with
    on := on
    ramping := 0
    blocks := p.blocks.zipIdx.map fun b => if on.getLsbD b.2 then b.1 else b.1.switchOff
    perstA := p.perstA && on.getLsbD 79
    perstB := p.perstB && on.getLsbD 80 }

/-- A shutdown to housekeeping (R476, R483, R491, R494, R498): domains off, PG_OUT low, cause and code held, the device's
state lost. -/
def State.shutdown (s : State) (cause code : Nat) (hold : Hold) : State :=
  let p := s.power.keepOnly (domainMask housekeepingDomain)
  State.loseDevice { s with power := { p with
      stage := .housekeeping, hold := hold, pgOut := false, xspiResetN := false,
      cause := BitVec.ofNat 4 cause, code := BitVec.ofNat 12 code } }

/-- A shutdown that latches until an external reset (R482). -/
def Hold.latched : Hold → Bool
  | .thermal => true
  | .estop => true
  | .awaitReset => true
  | _ => false

/-- Stage 2 of R480 begins where EN is high, the input is in range and nothing holds the module. -/
def State.rampIfEnabled (s : State) : State :=
  if s.power.stage = .housekeeping ∧ s.power.hold = .none ∧ s.power.en ∧ s.power.vinOk then
    { s with power := { s.power with stage := .ramping } }
  else s

/-- Stage 3 of R480: the base domains are within tolerance and the clock is good, so PG_OUT is released. -/
def State.releasePg (s : State) : State :=
  if s.power.stage = .ramping ∧ s.power.refclkOk ∧ s.power.on.getLsbD 83 then
    { s with power := { s.power with stage := .good, pgOut := true } }
  else s

/-- R480 stage 1: the housekeeping domain comes on and the address strap is read (R496). -/
def execVinRise (strap : BitVec 3) (s : State) : Out :=
  .next <| if s.power.stage = .off then
    ({ s with power := { s.power with
        stage := .housekeeping, vinOk := true, strap := strap, on := domainMask housekeepingDomain } }).rampIfEnabled
  else s

/-- R480 stage 2, R483. -/
def execEnRise (s : State) : Out := .next ({ s with power := { s.power with en := true } }).rampIfEnabled

/-- R480 stage 3; XSPI_RESET_N is low during stage 2 (R502). -/
def execBaseDomainsGood (s : State) : Out :=
  .next <| if s.power.stage = .ramping then
    ({ s with power := { s.power with on := s.power.on ||| domainMask baseDomains, xspiResetN := true } }).releasePg
  else s

/-- R483; cause 1 of R492. A thermal shutdown no longer holds once EN has fallen (R491). -/
def execEnFall (s : State) : Out :=
  let s := { s with power := { s.power with en := false } }
  .next <| if s.power.stage = .ramping ∨ s.power.stage = .good then s.shutdown 1 0 .none
  else if s.power.hold = .thermal then { s with power := { s.power with hold := .none } }
  else s

/-- R482. Elsewhere only the level of the pin changes. -/
def execExternalReset (s : State) : Out :=
  let s := { s with power := { s.power with resetN := false } }
  .next <| if s.power.pgOut then
    State.loseDevice { s with power := s.power.keepOnly (domainMask baseDomains) }
  else if s.power.hold.latched then
    { s with power := { s.power with estop := false, hold := .awaitReset } }
  else s

/-- R482: power-up from stage 2 after a latched shutdown was cleared; boundary-scan pins are released (R500). -/
def execResetNRise (s : State) : Out :=
  let p := s.power
  let p := { p with resetN := true, scanDrives := false,
                    tap := if p.scanDrives then .bypass else p.tap }
  .next <| if p.hold = .awaitReset then
    ({ s with power := { p with hold := if p.vinOk then .none else .input } }).rampIfEnabled
  else { s with power := p }

/-- R475, R476: an undervoltage loses everything but the flash; the other shutdowns keep housekeeping. A latched shutdown
stays latched (R491, R498). -/
def execInputFault (kind : InputFault) (s : State) : Out :=
  .next <| if s.power.stage = .off then s else
  match kind with
  | .undervoltage =>
    { State.reset with
      pending := s.pending, draws := s.draws, flash := s.flash
      power := { PowerState.reset with
        en := s.power.en, resetN := s.power.resetN, strap := s.power.strap, refclkOk := s.power.refclkOk } }
  | _ =>
    let s := { s with power := { s.power with vinOk := false } }
    s.shutdown 4 0x123 (if s.power.hold.latched then s.power.hold else .input)

/-- R476: restart from stage 1 when housekeeping went off, otherwise from stage 2. -/
def execInputReturn (s : State) : Out :=
  let on := s.power.on ||| domainMask housekeepingDomain
  let stage := if s.power.stage = .off then .housekeeping else s.power.stage
  let hold := if s.power.hold = .input then .none else s.power.hold
  .next ({ s with power := { s.power with vinOk := true, on := on, stage := stage, hold := hold } }).rampIfEnabled

/-- R494: after PG_OUT is released, a shutdown with cause 5. -/
def execRefclkFault (s : State) : Out :=
  let s := { s with power := { s.power with refclkOk := false } }
  .next <| if s.power.pgOut then s.shutdown 5 0x127 .refclk else s

/-- R494, R503: the restart after a clock fault, or the end of stage 3's wait. -/
def execRefclkReturn (s : State) : Out :=
  let s := { s with power := { s.power with refclkOk := true } }
  .next <| if s.power.hold = .refclk then ({ s with power := { s.power with hold := .none } }).rampIfEnabled
  else s.releasePg

/-- R481, R492: PG_OUT is low while a base domain is out of tolerance; what it carried is lost. -/
def execBaseDomainToleranceLost (s : State) : Out :=
  .next <| if s.power.pgOut then
    let s := s.shutdown 6 0x125 .none
    { s with power := { s.power with stage := .ramping } }
  else s

/-! ### Temperature (R491) -/

/-- Thresholds of a sensor: refresh doubled (slices only), warning, throttle, shutdown. -/
def sensorThresholds : Sensor → List Nat
  | .slice _ => [85, 90, 95, 105]
  | _ => [256, 95, 100, 110]

/-- Level of a sensor after hysteresis: the highest threshold reached, or reached before and not 5 °C below. -/
def sensorLevel (sensor : Sensor) (old celsius : Nat) : Nat :=
  ([1, 2, 3].filter fun l =>
    let t := (sensorThresholds sensor).getD (l - 1) 256
    decide (t ≤ celsius) || (decide (l ≤ old) && decide (t ≤ celsius + 5))).foldl max 0

def PowerState.sensorState (p : PowerState) (sensor : Sensor) : SensorState :=
  (p.sensors.find? fun x => x.sensor == sensor).getD ⟨sensor, 0, 0⟩

/-- THERM_N (R502): low while any sensor is at or above its throttle threshold, or latched. -/
def PowerState.thermLevel (p : PowerState) : Bool := !(p.thermLatch || p.sensors.any fun x => x.level ≥ 3)

/-- What a sensor's temperature does to its block or slice (R488, R491). -/
def State.actOnSensor (s : State) (sensor : Sensor) (celsius : BitVec 8) (level : Nat) : State :=
  match sensor with
  | .block b => { s with power := { s.power with blocks := modifyAt s.power.blocks b.val fun x =>
      { x with tj := celsius, throttled := x.on && decide (level ≥ 3) } } }
  | .slice i => { s with memory := { s.memory with controllers := modifyAt s.memory.controllers i.val fun c =>
      { c with refreshDoubled := decide (level ≥ 1) } } }
  | _ => s

/-- R491. -/
def execTemperatureThreshold (sensor : Sensor) (celsius : BitVec 8) (s : State) : Out :=
  let old := s.power.sensorState sensor
  let level := sensorLevel sensor old.level celsius.toNat
  let p := s.power
  let p := { p with sensors := ⟨sensor, celsius, level⟩ :: p.sensors.filter fun x => x.sensor != sensor }
  let p := { p with thermN := p.thermLevel,
                    alert := if level ≥ 2 ∧ old.level < 2 then true
                             else p.alert && p.sensors.any fun x => x.level ≥ 2 }
  let s := ({ s with power := p }).actOnSensor sensor celsius level
  let running := s.power.stage = .ramping ∨ s.power.stage = .good
  let s := if level ≥ 2 ∧ old.level < 2 ∧ s.start.begun then s.logDevice 0x120 noName 0 0 else s
  let s := if level ≥ 3 ∧ old.level < 3 ∧ s.start.begun then s.logDevice 0x121 noName 0 0 else s
  .next <| if (sensorThresholds sensor).getD 3 256 ≤ celsius.toNat ∧ running then
    let s := s.shutdown 2 0x122 .thermal
    { s with power := { s.power with thermLatch := true, thermN := false } }
  else s

/-! ### Block voltage (R487, R488) -/

/-- One sample of the voltage loop. -/
def BlockPower.sample (b : BlockPower) (margin : BitVec 8) : BlockPower :=
  let b := { b with margin := margin }
  let m := margin.toNat
  if m < 5 then
    { b with
      mv := if b.mv.toNat + 5 ≤ 850 then b.mv + 5 else b.mv
      limitRun := if b.mv.toNat ≥ 850 then b.limitRun + 1 else 0
      highRun := 0 }
  else if m > 8 then
    if b.highRun ≥ 9 then
      { b with mv := if b.mv.toNat ≥ 655 then b.mv - 5 else b.mv, highRun := 0, limitRun := 0 }
    else { b with highRun := b.highRun + 1, limitRun := 0 }
  else { b with highRun := 0, limitRun := 0 }

/-- R487. The 1,000th consecutive sample at the limit logs AVS_LIMIT, and role 3 marks the block, once it has a core (R343). -/
def execAvsSample (block : Block) (margin : BitVec 8) (s : State) : Out :=
  .next <| match s.power.blocks[block.val]? with
  | none => s
  | some b =>
    if !b.on then s else
    let b' := b.sample margin
    let s := { s with power := { s.power with blocks := setAt s.power.blocks block.val b' } }
    let s := if b'.limitRun = 1000 then s.logDevice 0x126 noName 0 0 else s
    if 1000 ≤ b'.limitRun ∧ s.roleUp 3 then s.markSwap 1 (blockUnit block.val) 0 0x126 else s

/-- R488: one episode of `lowCycles` cycles with a margin of 2 taps or fewer, then 16 further cycles. A throttled block
stretches every cycle already. -/
def execClockStretch (block : Block) (lowCycles : Nat) (s : State) : Out :=
  .next { s with power := { s.power with blocks := modifyAt s.power.blocks block.val fun b =>
    if b.on && !b.throttled then { b with stretched := addN b.stretched (lowCycles + 16) } else b } }

/-- Hottest of the sensors that `f` picks. -/
def PowerState.hottest (p : PowerState) (f : Sensor → Bool) : BitVec 8 :=
  p.sensors.foldl (fun m x => if f x.sensor ∧ m < x.celsius then x.celsius else m) 0

def isSlice : Sensor → Bool
  | .slice _ => true
  | _ => false

/-- R343, R499: a sample of the input and the temperatures; the input fields come from housekeeping, the rest waits for its role's core. -/
def execTelemetrySample (vin iin pin : BitVec 16) (joules : Nat) (s : State) : Out :=
  .next <| if s.power.stage = .off then s else
  let p := s.power
  let whole := !s.start.loaded || s.roleUp 6
  { s with power := { p with telem :=
    { vin := vin, iin := iin, pin := pin
      pinPeak := if p.telem.pinPeak < pin then pin else p.telem.pinPeak
      energy := addN p.telem.energy joules
      sampled := if whole then s.dial.ns else p.telem.sampled
      tjMax := if whole then p.hottest fun x => !isSlice x else p.telem.tjMax
      stackMax := if whole then p.hottest isSlice else p.telem.stackMax } } }

/-- R498: 0xE5 is an emergency stop; any other byte, a bad PEC or a wrong length is not acknowledged (R497). -/
def execEstop (pec : Bool) (byte : Byte) (s : State) : Out :=
  .next <| if s.power.stage = .off then s
  else if pec ∧ byte = 0xE5 then
    let s := s.shutdown 3 0x124 .estop
    { s with power := { s.power with estop := true, reply := some [] } }
  else { s with power := { s.power with reply := none } }

end Sys2Proof.Machine
end

