-- ==== Sys2Proof/Machine/Smbus.lean ====
section
/-! DEFINITION. The SMBus commands (R496, R497, R518). `power.reply` holds the data of an acknowledged transaction, none
after one that was not acknowledged. Fields of a block read follow one another in the table's order, each in whole bytes,
zeros after the last (DESIGN CHOICE: R497 names the data and not their places; log entry 61). -/

namespace Sys2Proof.Machine

/-- Bytes 0–27 of a start-journal record (R109). -/
def JournalRecord.body (r : JournalRecord) : List Byte :=
  leBytes (pack [(r.startCount.toNat, 32), (1, 4), (r.outcome.toNat, 4), (r.step.toNat, 8), (r.code.toNat, 12), (0, 4),
    (r.unit.toNat, 16), (r.progress.toNat, 16), (r.imageSv.toNat, 32), (r.detail.toNat, 64)]) 28

/-- The 32 bytes of a start-journal record with its crc. -/
def JournalRecord.bytes (r : JournalRecord) : List Byte := r.body ++ leBytes (crc32 r.body).toNat 4

/-- Answer a transaction: acknowledged only while housekeeping is on and its PEC and length are right (R496, R497). -/
def State.smbus (s : State) (pec : Bool) (answer : State → State) : State :=
  if s.power.stage = .off then s
  else if pec then answer s
  else { s with power := { s.power with reply := none } }

def State.replyWith (s : State) (bs : List Byte) : State := { s with power := { s.power with reply := some bs } }

/-- 0x01: silicon step, ordering code, fingerprint, START_STATUS.state. -/
def execIdentity (pec : Bool) (s : State) : Out :=
  .next <| s.smbus pec fun s => s.replyWith <| padTo 32 <|
    leBytes 0xA1 1 ++ leBytes orderingCode 7 ++ leBytes s.start.fingerprint.toNat 8 ++ leBytes s.startState 1

/-- 0x02: START_STATUS, JOB_STATUS[63:0], SIDEBAND_STATE, DIAL_NOW. -/
def execState (pec : Bool) (s : State) : Out :=
  .next <| s.smbus pec fun s => s.replyWith <|
    leBytes s.startStatus 8 ++ leBytes s.jobStatus 8 ++ leBytes s.sidebandState 8 ++ leBytes s.dialNow 8

/-- 0x10: PWR_TELEM; pin_peak starts again (R499). -/
def execPower (pec : Bool) (s : State) : Out :=
  .next <| s.smbus pec fun s =>
    let s := s.replyWith (leBytes s.pwrTelem 32)
    { s with power := { s.power with telem := { s.power.telem with pinPeak := 0 } } }

/-- 0x11: the 36 block temperatures, the 16 slices, the 4 region fabrics. -/
def execThermal (pec : Bool) (s : State) : Out :=
  .next <| s.smbus pec fun s =>
    let t (x : Sensor) : Byte := (s.power.sensors.find? fun y => y.sensor == x).elim 0 (·.celsius)
    s.replyWith <| s.power.blocks.map (·.tj) ++ (List.finRange 16).map (fun i => t (.slice i)) ++
      (List.finRange 4).map fun r => t (.fabric r)

/-- 0x20: the offset for STATUS_READ. -/
def execStatusAddr (pec : Bool) (offset : BitVec 32) (s : State) : Out :=
  .next <| s.smbus pec fun s => { s with power := { s.power with statusPtr := offset, reply := some [] } }

/-- 0x21: 32 bytes from the offset, which advances; zeros outside the subset and before step 0x0F of a start. -/
def execStatusRead (pec : Bool) (s : State) : Out :=
  .next <| s.smbus pec fun s =>
    let ready := s.start.loaded || s.start.refused
    let s := s.replyWith (if ready then s.statusSample s.power.statusPtr.toNat else List.replicate 32 0)
    { s with power := { s.power with statusPtr := s.power.statusPtr + 32 } }

/-- 0x30: index of a start-journal record, 0 the newest. -/
def execJournalAddr (pec : Bool) (index : BitVec 32) (s : State) : Out :=
  .next <| s.smbus pec fun s => { s with power := { s.power with journalPtr := index, reply := some [] } }

/-- 0x31: the record at the index, which advances; refused by NACK while a program of the flash is in progress. -/
def execJournalRead (pec : Bool) (s : State) : Out :=
  .next <| s.smbus pec fun s =>
    if !s.staging.busy.isEmpty then { s with power := { s.power with reply := none } } else
    let rs := (s.flash.journal.filterMap id).reverse
    let s := s.replyWith ((rs[s.power.journalPtr.toNat]?).elim (List.replicate 32 0) JournalRecord.bytes)
    { s with power := { s.power with journalPtr := s.power.journalPtr + 1 } }

/-- 0x3E: releases SMB_ALERT_N (R492). -/
def execAlertClear (pec : Bool) (s : State) : Out :=
  .next <| s.smbus pec fun s => { s with power := { s.power with alert := false, reply := some [] } }

end Sys2Proof.Machine
end

