-- ==== Sys2Proof/Machine/Start.lean ====
section
/-! DEFINITION. The start sequence (R84–R113, R117, R340, R379, R380, R412, R429–R436, R446, R469, R480, R481, R485): one
command runs a start from step 0x01 to ready, refusal or failure; the restart after a failed start. -/

namespace Sys2Proof.Machine

/-! ### The start journal (R109, R110) -/

/-- Write a record at the next free place; the oldest sector of 128 records is erased ahead of need (R110). A written
code is counted (R516). -/
def State.journal (s : State) (r : JournalRecord) : State :=
  let full := s.flash.ringFree ≤ 128
  let js := (if full then s.flash.journal.drop 128 else s.flash.journal) ++ [some r]
  let free := (if full then s.flash.ringFree + 128 else s.flash.ringFree) - 1
  ({ s with
    flash := { s.flash with journal := js, ringFree := free }
    start := { s.start with records := s.start.records ++ [r] } }).countError r.code.toNat

def State.validRecords (s : State) : List JournalRecord := s.flash.journal.filterMap id

/-- A record of a start that reached ready. -/
def JournalRecord.reachesReady (r : JournalRecord) : Bool := r.step == 0x10 && r.outcome != 3

/-- The last record of the newest start that was not refused, if that start did not reach ready: it failed there, or was cut short (R107, R110, R112). -/
def State.lastFailure (s : State) : Option JournalRecord :=
  let rs := s.validRecords
  let refused := (rs.filter fun r => r.outcome == 5).map (·.startCount)
  (rs.reverse.find? fun r => !refused.contains r.startCount).filter fun r => !r.reachesReady

/-- Starts before `count` since the last that reached ready or the last commit that succeeded, the refused ones left out, and those of a pending
image that the next start dropped (R110–R112, R117, R118; log entry 77). -/
def State.failedStarts (s : State) (count : Nat) : Nat :=
  let rs := s.validRecords
  let first := rs.foldl (fun m r => if r.reachesReady then max m (r.startCount.toNat + 1) else m) s.flash.failedFrom
  let out := (rs.filter fun r => r.outcome == 5).map (·.startCount.toNat) ++
    (rs.filter fun r => r.step == 0x05 && r.code == 0x063).map (·.startCount.toNat - 1)
  min (count - first - ((out.eraseDups.filter fun n => decide (first ≤ n ∧ n < count)).length)) 14

/-- The number that follows the highest start_count of the ring, 0 in an empty ring (R109; DEDUCED, log entry 32). -/
def State.nextCount (s : State) : Nat := s.validRecords.foldl (fun m r => max m (r.startCount.toNat + 1)) 0

/-- What a step ends with: the state, the journal's outcome, code, unit, progress and detail (R109), and codes beyond
the record's own. -/
structure StepResult where
  s        : State
  outcome  : Nat := 0
  code     : Nat := 0
  unit     : Nat := 0xFFFF
  progress : Nat := 65535
  detail   : Nat := 0
  more     : List Nat := []

/-- A record of the current start. -/
def State.record (s : State) (step outcome code unit progress detail : Nat) : JournalRecord :=
  { startCount := s.start.startCount, outcome := BitVec.ofNat 4 outcome, step := BitVec.ofNat 8 step,
    code := BitVec.ofNat 12 code, unit := BitVec.ofNat 16 unit, progress := BitVec.ofNat 16 progress,
    imageSv := s.start.imageSv, detail := BitVec.ofNat 64 detail }

/-- A failed start (R112): state 4 until the device resets itself. -/
def State.failStart (s : State) (step progress : Nat) : State :=
  { s with
    start := { s.start with state := 4, step := BitVec.ofNat 8 step, progress := BitVec.ofNat 16 progress } }

/-- Run a step of a start that is still under way and write its record. -/
def State.runStep (s : State) (step : Nat) (f : State → StepResult) : State :=
  if s.start.state ≠ 0 then s else
  let r := f s
  let s := { r.s with start := { r.s.start with step := BitVec.ofNat 8 step, progress := BitVec.ofNat 16 r.progress } }
  let s := s.journal (s.record step r.outcome r.code r.unit r.progress r.detail)
  let s := r.more.foldl State.countError s
  if r.outcome = 3 then s.failStart step r.progress else s

/-! ### Repairs in force (R104, R469) -/

/-- Append a record to the active half of the repair journal; a full half is consolidated into the other, with a seal. -/
def State.repairRecord (s : State) (kind pendKind unit detail code : Nat) : State :=
  let half := s.repairHalf
  let seq := (half.filterMap id).foldl (fun m r => max m (r.seq.toNat + 1)) 0
  let r : RepairRecord :=
    { seq := BitVec.ofNat 32 seq, kind := BitVec.ofNat 4 kind, pendKind := BitVec.ofNat 4 pendKind, unit := BitVec.ofNat 16 unit,
      detail := BitVec.ofNat 32 detail, step := s.dial.step, startCount := s.start.startCount, code := BitVec.ofNat 12 code }
  let put (h : List (Option RepairRecord)) (b : Bool) (s : State) : State :=
    { s with
      flash := if b then { s.flash with repair1 := h, repair0 := if s.resil.half == b then s.flash.repair0 else [] }
               else { s.flash with repair0 := h, repair1 := if s.resil.half == b then s.flash.repair1 else [] }
      resil := { s.resil with half := b } }
  if half.length + 1 + 128 > 16384 then
    let all := half.filterMap id
    -- a mark stands until its swap's own record follows it
    let live := all.filter fun x => x.kind != 7 &&
      (x.kind != 8 || !all.any fun y => y.kind == x.pendKind && y.unit == x.unit && y.detail == x.detail)
    let kept := (live ++ [r]).zipIdx.map fun x => some { x.1 with seq := BitVec.ofNat 32 (seq + 1 + x.2) }
    put (kept ++ [some { r with kind := 7, seq := BitVec.ofNat 32 (seq + 2 + live.length) }]) (!s.resil.half) s
  else put (half ++ [some r]) s.resil.half s

/-- Records of a half up to the first whose crc is bad. -/
def trusted : List (Option RepairRecord) → List RepairRecord
  | some r :: rs => r :: trusted rs
  | _ => []

/-- Half in force (R469): the higher seq of the first record; a consolidation without its seal is ignored. -/
def repairHalfInForce (f : FlashState) : Bool :=
  let a := trusted f.repair0
  let b := trusted f.repair1
  match a.head?, b.head? with
  | some x, some y =>
    if x.seq < y.seq then b.any fun r => r.kind == 7 else !(a.any fun r => r.kind == 7)
  | none, some _ => true
  | _, none => false

/-- What the repair journal says of the units, as the start applies it. -/
def State.applyRepairs (s : State) : State :=
  let half := repairHalfInForce s.flash
  let all := if half then s.flash.repair1 else s.flash.repair0
  let rs := trusted all
  let unitsOf (cls : Nat) : List Nat :=
    (rs.filterMap fun r => if (r.kind = 1 ∨ (r.kind = 8 ∧ r.pendKind = 1)) ∧ unitClass r.unit.toNat = cls then some r.unit.toNat else none).eraseDups
  let s := if all.any Option.isNone then s.logDevice 0x11A noName 0 0 else s
  { s with resil := { s.resil with
      half := half
      failedCells := (unitsOf 0).map fun u => (field u 0 2, field u 2 4, unitIndex u)
      failedBlocks := (unitsOf 1).map fun u => (field u 0 2, field u 2 4)
      failedSpouts := (unitsOf 2).map fun u => (unitRegion u, unitIndex u)
      failedCores := (rs.filterMap fun r => if r.kind = 6 then some (field r.unit.toNat 0 3) else none).eraseDups
      groupsUsed := (rs.filterMap fun r => if r.kind = 4 ∨ (r.kind = 8 ∧ r.pendKind = 4) then some (field r.unit.toNat 0 4) else none).eraseDups
      baselines := rs.filterMap fun r => if r.kind = 0 then some (r.unit.toNat, r.detail.toNat) else none } }

/-- Lanes that the repair journal spared: port and physical lane. -/
def State.sparedLanes (s : State) : List (Nat × Nat) :=
  (trusted s.repairHalf).filterMap fun r =>
    if r.kind = 2 ∨ (r.kind = 8 ∧ r.pendKind = 2) then some (field r.unit.toNat 0 3, field r.unit.toNat 3 3) else none

/-- A mask with its failed units replaced by the others (R104). -/
def amendMask (w mask : Nat) (failed : Nat → Bool) : Nat :=
  let good := (List.range w).filter fun i => mask.testBit i && !failed i
  let spare := (List.range w).filter fun i => !mask.testBit i && !failed i
  let lost := popCount mask w - good.length
  (good ++ spare.take lost).foldl (fun m i => m ||| 2 ^ i) 0

/-- The unit map as amended by the repair journal (R104). -/
def State.applyUnitMap (s : State) : State :=
  let us := s.cfg.units
  let r := s.resil
  { s with
    resil := { r with
      activeBlocks := us.zipIdx.map fun u => BitVec.ofNat 9 (amendMask 9 u.1.blocks fun b => r.failedBlocks.contains (u.2, b))
      activeSpouts := us.zipIdx.map fun u => BitVec.ofNat 9 (amendMask 9 u.1.spouts fun i => r.failedSpouts.contains (u.2, i)) }
    blocks := s.blocks.zipIdx.map fun b =>
      let m := ((us[b.2 / 9]?).bind fun u => u.cells[b.2 % 9]?).getD 0
      { b.1 with active := BitVec.ofNat 17 (amendMask 17 m fun c => r.failedCells.contains (b.2 / 9, b.2 % 9, c)) } }

/-! ### The image in a slot -/

/-- Bytes of an image slot; an erased byte reads 0xFF. -/
def FlashState.image (f : FlashState) (slot : Bool) : ImageBytes := fun i =>
  ((lookupNat i (if slot then f.slot1 else f.slot0)).getD 0xFF).toNat

/-- The directory copy in force (R86). -/
def FlashState.directory (f : FlashState) : Option Directory :=
  match f.dir0, f.dir1 with
  | some a, some b => if a.seq < b.seq then some b else some a
  | some a, none => some a
  | none, d => d

/-- Write a directory record over the copy in use less recently, seq one higher (R86). -/
def FlashState.writeDirectory (f : FlashState) (active : Bool) (pending : Option Bool) : FlashState :=
  let seq := f.directory.elim 0 fun d => d.seq + 1
  let d : Directory := ⟨active, pending, seq⟩
  let firstInUse := match f.dir0, f.dir1 with
    | some a, some b => decide (b.seq ≤ a.seq)
    | some _, none => true
    | none, _ => false
  if firstInUse then { f with dir1 := some d } else { f with dir0 := some d }

/-- Consecutive failed starts before refusal: the image's limit, 3 where it cannot be read (R113). -/
def refuseAfter (b : ImageBytes) : Nat :=
  let h := parseHeader (b.num 0 64)
  if (headerFaults (b.num 0 64)).isEmpty ∧ (checkSections b h).isNone then
    match findSection (parseSections b h) 0x0B with
    | some e =>
      let n := (parsePolicy (b.num e.2.offset 16)).refuseAfter
      if 1 ≤ n ∧ n ≤ 14 then n else 3
    | none => 3
  else 3

/-- Failed units as the content checks need them. -/
def State.facts (s : State) : DeviceFacts :=
  ⟨s.start.fingerprint.toNat, s.resil.failedBlocks, s.resil.failedCells, s.resil.failedSpouts⟩

/-! ### The steps (R107) -/

/-- Steps 0x01 and 0x02, whose failure only the start carry holds (R110, R111). The flash mode is the next slower one than
the mode that failed last. -/
def flashMode (carry : Nat) : Nat := min (carry + 1) 3

def earlyFailure (s : State) (f : StartFindings) : Option (Nat × Nat) :=
  let mode := flashMode s.power.carryMode.toNat
  let flashOk := if mode = 1 then f.flashOk.1 else if mode = 2 then f.flashOk.2.1 else f.flashOk.2.2
  if !f.romOk then some (0x01, 0x000) else if !flashOk then some (0x02, 0x066) else none

/-- The carry after a start that wrote no record (R111). -/
def State.carryFailure (s : State) (step code : Nat) : State :=
  let p := s.power
  { s with power := { p with
      carryStep := BitVec.ofNat 8 step, carryCode := BitVec.ofNat 12 code, carried := BitVec.ofNat 4 (min (p.carried.toNat + 1) 14)
      carryMode := if step = 2 then BitVec.ofNat 2 (flashMode p.carryMode.toNat) else p.carryMode } }

/-- Refusal mode (R113): a single Hokuano lane, lane 0 or lane 2; its credits toward the adapter as negotiated (R431). -/
def State.enterRefusal (s : State) (f : StartFindings) : State :=
  let lane : Option Nat := if f.refusalLanes.1 then some 0 else if f.refusalLanes.2 then some 2 else none
  let s := { s with start := { s.start with state := 3, refused := true } }
  match lane with
  | none => s
  | some l =>
    let s := { s with power := { s.power with on := s.power.on ||| domainMask [70] } }
    s.onPort 6 fun p => { p with
      state := 2, stage := 0, gen := 1, lanes := 1, progress := 65535, laneMap := BitVec.ofNat 12 l
      spareUsed := l == 2
      credits := [f.hkCredits.1.toNat, f.hkCredits.2.toNat, 0, 0, 0, 0, 0, 0]
      creditMax := [f.hkCredits.1.toNat, f.hkCredits.2.toNat, 0, 0, 0, 0, 0, 0]
      rxRoom := [256, 2048, 0, 0, 0, 0, 0, 0] }

/-- Step 0x03 (R110, R111): the carried failure, the begun record, the held records of steps 0x01 and 0x02. -/
def State.scanJournal (s : State) : State :=
  let p := s.power
  let carried := p.carried.toNat
  let count := s.nextCount + carried
  let corrupt := s.flash.journal.any Option.isNone
  let mode := flashMode p.carryMode.toNat
  let failed := s.failedStarts count
  let s := { s with
    start := { s.start with startCount := BitVec.ofNat 32 count, failedRun := BitVec.ofNat 4 failed }
    power := { p with carryStep := 0, carryCode := 0, carryMode := 0, carried := 0 } }
  -- the carried start's record is not one of this start's (R99)
  let s := if carried = 0 then s else
    let s := s.journal { s.record p.carryStep.toNat 3 p.carryCode.toNat 0xFFFF 0 0 with startCount := BitVec.ofNat 32 (count - 1) }
    { s with start := { s.start with records := [] } }
  let s := s.journal (s.record 0x00 4 0 0xFFFF 0 0)
  let s := s.journal (s.record 0x01 0 0 0xFFFF 65535 0)
  let s := s.journal (s.record 0x02 (if mode = 1 then 0 else 1) 0 0xFFFF 65535 0)
  (s.runStep 0x03 fun s => { s := s, code := if corrupt then 0x067 else 0 }).applyRepairs

/-- Step 0x04 (R97). An erased helper area is enrolled; the enrolment's number stands for the helper data. -/
def stepIdentity (f : StartFindings) (s : State) : StepResult :=
  let derive (s : State) (k : Nat) : State :=
    let seed := Config.identitySeed k
    let key := Config.ed25519Public seed
    { s with start := { s.start with
        identified := true, seed := seed, identityKey := key
        fingerprint := BitVec.ofNat 64 (ofLe ((sha512 (leBytes key.toNat 32)).take 8)) } }
  match s.flash.helper with
  | none =>
    let k := s.draws
    { s := (derive { s with flash := { s.flash with helper := some k } } k).draw, outcome := 1 }
  | some k =>
    if f.pufOk.1 || f.pufOk.2.1 || f.pufOk.2.2 then
      { s := derive s k, progress := if f.pufOk.1 then 21845 else if f.pufOk.2.1 then 43690 else 65535 }
    else { s := s, outcome := 3, code := 0x058 }

/-- Step 0x05 (R86, R117): a pending slot that failed in steps 0x06–0x09 is dropped. Every start since its commit has tried it. Its failure is not a
failed start (R118; log entry 77). -/
def stepDirectory (last : Option JournalRecord) (s : State) : StepResult :=
  let d := s.flash.directory
  let active := d.elim false (·.active)
  let pending := (d.bind (·.pending)).filter fun p => p != active
  let lost := pending.isSome && last.any fun r =>
    0x06 ≤ r.step.toNat && r.step.toNat ≤ 0x09 && r.outcome == 3 && decide (s.flash.failedFrom ≤ r.startCount.toNat)
  let use := if lost then none else pending
  let s := if lost then { s with flash := s.flash.writeDirectory active none } else s
  { s := { s with start := { s.start with
      slot := use.getD active, pendingTry := use.isSome, failedRun := if lost then s.start.failedRun - 1 else s.start.failedRun } }
    outcome := if lost then 1 else 0
    code := if lost then 0x063 else if d.isNone then 0x067 else 0 }

/-- What the signature check leaves: a failure, or the header's values and the digest. -/
def State.takeVerify (s : State) (r : Option StepFault) (h : ImageHeader) (digest : List Byte) : StepResult :=
  match r with
  | some f => { s := s, outcome := 3, code := f.code, unit := f.unit, detail := f.detail,
                progress := if f.code = 0x054 ∨ f.code = 0x055 then 65535 else 0 }
  | none =>
    { s := { s with start := { s.start with
        imageSv := BitVec.ofNat 32 h.securityVersion, signer := BitVec.ofNat 8 h.signer, imageDigest := digest } } }

/-- Step 0x06 (R91–R94). -/
def stepVerify (s : State) : StepResult :=
  let b := s.flash.image s.start.slot
  let h := parseHeader (b.num 0 64)
  s.takeVerify (checkVerify b) h (imageDigest b h)

/-- Counter value C: the RPMC's, or the highest security_version of the journal (R95). -/
def State.rollbackFloor (s : State) : Nat :=
  if s.flash.rpmc then s.flash.rpmcValue.toNat else s.validRecords.foldl (fun m r => max m r.imageSv.toNat) 0

/-- Step 0x07 (R95, R96). -/
def stepRollback (f : StartFindings) (s : State) : StepResult :=
  let own := s.flash.rpmcOwn != some false && f.rpmcAuth
  let s := { s with start := { s.start with rpmcPresent := s.flash.rpmc } }
  if s.flash.rpmc && !own then { s := s, outcome := 3, code := 0x057 }
  else
    let s := if s.flash.rpmc then { s with flash := { s.flash with rpmcOwn := some true } } else s
    if s.start.imageSv.toNat < s.rollbackFloor then { s := s, outcome := 3, code := 0x056 } else { s := s }

/-- The order in which step 0x08 reads the sections (R92). -/
def contentOrder : List Nat := [0x06, 0x02, 0x0A, 0x0C, 0x0B, 0x07, 0x05, 0x04, 0x03, 0x08]

/-- What the content check leaves: a failure, or the configuration of an image without a fault. -/
def State.takeContent (s : State) (r : Option StepFault) (c : ImageCfg) : StepResult :=
  match r with
  | some f =>
    let place (type : Nat) : Nat := (contentOrder.findIdx? (· == type)).getD contentOrder.length
    let at' := place ((c.entries[f.unit]?).elim 0 (·.type))
    -- sections before the faulty one: those of an earlier place, and job slots that stand before it
    let checked := (c.entries.zipIdx.filter fun e => place e.1.type < at' || place e.1.type == at' && decide (e.2 < f.unit)).length
    { s := s, outcome := 3, code := f.code, unit := f.unit, detail := f.detail
      progress := if at' < contentOrder.length then (fraction checked c.entries.length).toNat else 0 }
  | none =>
    let p := (c.placement.find? fun p => p.fingerprint == s.start.fingerprint.toNat).getD default
    { s := ({ s with
        cfg := { c with digest := s.start.imageDigest }
        start := { s.start with
          x := BitVec.ofNat 4 p.x, y := BitVec.ofNat 4 p.y, z := BitVec.ofNat 4 p.z
          ownerId := BitVec.ofNat 16 (c.enrolment.elim 0 (·.ownerId)) } }).applyUnitMap }

/-- Step 0x08 (R92): the configuration is taken only from an image without a fault. -/
def stepContent (s : State) : StepResult :=
  let b := s.flash.image s.start.slot
  s.takeContent (checkContent b s.facts) (parseImage b)

/-- Step 0x09 (R340): roles to the lowest-numbered good cores; a core that fails is replaced by a spare. -/
def stepCores (f : StartFindings) (s : State) : StepResult :=
  let bad (i : Nat) : Bool := s.resil.failedCores.contains i || f.coresFailed.any fun c => c.val == i
  let good := (List.range 8).filter fun i => !bad i
  let role (i : Nat) : Nat := (good.take 6).findIdx? (· == i) |>.elim 0 (· + 1)
  let coreOf (r : Nat) : Nat := good.getD (r - 1) 0
  let cores := (List.range 8).map fun i =>
    let r := role i
    { ControlCore.reset with
      role := BitVec.ofNat 3 (if bad i then 7 else r), tested := !bad i
      watched := BitVec.ofNat 3 (if r = 0 then 0 else coreOf (r % 6 + 1)), watchValid := r != 0 }
  let news := f.coresFailed.filter fun c => !s.resil.failedCores.contains c.val
  let s := { s with resil := { s.resil with failedCores := (s.resil.failedCores ++ news.map (·.val)).eraseDups } }
  match news with
  | [] => { s := { s with cores := cores }, outcome := if good.length < 6 then 3 else 0,
            code := if good.length < 6 then 0x068 else 0, progress := (fraction good.length 6).toNat }
  | c :: _ =>
    if good.length < 6 then
      { s := s, outcome := 3, code := 0x068, unit := c.val, progress := (fraction good.length 6).toNat }
    else
      { s := news.foldl (fun s c => s.repairRecord 6 0 c.val 0 0x068) { s with cores := cores }, outcome := 1, code := 0x068,
        unit := c.val }

/-- A CXL port that the configuration uses (R485). -/
def State.cxlUsed (s : State) (port : Nat) : Bool :=
  s.cfg.partMap.parts.any (fun p => p.tier == 2 + port) || (port == 1 && s.cfg.nvme)

/-- An optional port that stays skipped (R106). -/
def State.cxlSkipped (s : State) (port : Nat) : Bool := if port = 0 then s.flash.skipA > 0 else s.flash.skipB > 0

/-- Torus ports of axes of dimension above 1 (R429). -/
def State.portUsed (s : State) (p : Nat) : Bool :=
  let d := s.dims
  p == 6 || decide ((if p / 2 = 0 then d.1 else if p / 2 = 1 then d.2.1 else d.2.2) > 1)

/-- Domains that step 0x0A brings up, in ascending number (R485). -/
def State.domainsUsed (s : State) : List Nat :=
  (List.range 96).filter fun d =>
    if d < 36 then (s.resil.activeBlocks.getD (d / 9) 0).getLsbD (d % 9)
    else if 64 ≤ d ∧ d ≤ 70 then s.portUsed (d - 64)
    else if d = 79 then s.cxlUsed 0
    else if d = 80 then s.cxlUsed 1
    else if d = 92 then s.cfg.nvme
    else !baseDomains.contains d

/-- Bring a domain up; a block's rail starts at 0.800 V (R487). -/
def State.domainUp (s : State) (d : Nat) : State :=
  { s with power := { s.power with
      on := s.power.on ||| domainMask [d]
      blocks := if d < 36 then modifyAt s.power.blocks d fun b => { b with on := true, mv := 800 } else s.power.blocks } }

/-- A block whose domain fails is marked failed and its spare comes up in its place (R485). -/
def State.replaceBlock (s : State) (failed : List (Fin 96)) (d : Nat) : Option State :=
  match (s.spareBlocks (d / 9)).find? fun b => !failed.any fun x => x.val == 9 * (d / 9) + b with
  | none => none
  | some b =>
    let s := { s with resil := { s.resil with failedBlocks := (d / 9, d % 9) :: s.resil.failedBlocks } }
    let s := s.repairRecord 1 0 (blockUnit d) 0 0x125
    let s := { s with resil := { s.resil with
      activeBlocks := modifyAt s.resil.activeBlocks (d / 9) fun m => (m &&& ~~~(1#9 <<< (d % 9))) ||| (1#9 <<< b) } }
    some (s.domainUp (9 * (d / 9) + b))

/-- Step 0x0A (R485). -/
def stepDomains (f : StartFindings) (s : State) : StepResult :=
  let used := s.domainsUsed
  let go (r : StepResult) (d : Nat) : StepResult :=
    if r.outcome = 3 then r
    else if !(f.domainsFailed.any fun x => x.val == d) then { r with s := r.s.domainUp d }
    else
      let s := { r.s with power := { r.s.power with failed := satAdd r.s.power.failed 1 } }
      let first := if r.code = 0 then d else r.unit
      if d < 36 then
        match s.replaceBlock f.domainsFailed d with
        | some s => { r with s := s, outcome := 1, code := 0x125, unit := first }
        | none => { r with s := s, outcome := 3, code := 0x125, unit := d,
                           progress := (fraction (used.findIdx (· == d)) used.length).toNat }
      else { r with s := s, outcome := 3, code := 0x125, unit := d,
                    progress := (fraction (used.findIdx (· == d)) used.length).toNat }
  used.foldl go { s := s }

/-- Rows of a slice whose spare rows a start brings in (R468, R469). -/
def State.sparedRows (s : State) (slice : Nat) : List Nat :=
  ((trusted s.repairHalf).filterMap fun r =>
    if (r.kind = 3 ∨ (r.kind = 8 ∧ r.pendKind = 3)) ∧ field r.unit.toNat 0 4 = slice then some r.detail.toNat else none).eraseDups

/-- Step 0x0B: a bank that fails is mapped to its slice's spare bank group; a slice with no spare left fails the start. -/
def stepStacked (f : StartFindings) (s : State) : StepResult :=
  let go (r : StepResult) (x : Fin 16 × BitVec 4) : StepResult :=
    if r.outcome = 3 then r
    else
      let unit := x.1.val + 16 * x.2.toNat
      if r.s.resil.groupsUsed.contains x.1.val then { r with outcome := 3, code := 0x05E, unit := unit, progress := f.stackedPart.toNat }
      else
        let s := { r.s with resil := { r.s.resil with groupsUsed := r.s.resil.groupsUsed ++ [x.1.val] } }
        { r with s := s.repairRecord 4 0 x.1.val x.2.toNat 0x05E, outcome := 1, code := 0x05E,
                 unit := if r.code = 0 then unit else r.unit }
  let r := f.stackedFailed.foldl go { s := s }
  let up (i : Nat) (c : ControllerState) : ControllerState :=
    if i < 16 then { c with up := true, capacity := 2, spareBg := r.s.resil.groupsUsed.contains i, spareRows := s.sparedRows i } else c
  if r.outcome = 3 then r
  else { r with s := { r.s with memory := { r.s.memory with controllers := r.s.memory.controllers.zipIdx.map fun c => up c.2 c.1 } } }

/-- Step 0x0C (R107, R379): a channel that failed last time runs at conservative timings where ddr_fallback is 1. -/
def stepDdr (last : Option JournalRecord) (f : StartFindings) (s : State) : StepResult :=
  if !f.ddrModulesOk then { s := s, outcome := 3, code := 0x0F5, progress := 0 } else
  let hint (c : Nat) : Nat := (s.cfg.hints.find? fun h => h.kind == 1 && h.unit == c).elim 0 (·.rate)
  let fallback (c : Nat) : Bool :=
    s.cfg.policy.ddrFallback && last.any fun r => r.step == 0x0C && r.code == 0x05D && r.unit.toNat == c
  let rate (c : Nat) : Nat :=
    if fallback c then 3 else max f.ddrRate.toNat (s.flash.memo.elim (hint c) fun m => m.rates.getD c 0)
  let fails (c : Nat) : Bool :=
    if rate c = 3 then f.ddrFailedSlow.any fun x => x.val == c else f.ddrFailed.any fun x => x.val == c
  match (List.range 8).find? fails with
  | some c => { s := s, outcome := 3, code := 0x05D, unit := c, progress := (fraction c 8).toNat }
  | none =>
    let up (i : Nat) (x : ControllerState) : ControllerState :=
      if 16 ≤ i ∧ i < 24 then { x with up := true, capacity := BitVec.ofNat 16 f.ddrGib, rate := BitVec.ofNat 2 (rate (i - 16)) } else x
    let news := (List.range 8).find? fallback
    { s := { s with
        memory := { s.memory with controllers := s.memory.controllers.zipIdx.map fun c => up c.2 c.1 }
        start := { s.start with ddrGib := 8 * f.ddrGib } }
      outcome := if news.isNone then 0 else 1
      unit := news.getD 0xFFFF }

/-- Bring up one CXL port (R106, R380): the state, and a code where it failed; failed says the start cannot go on. -/
def State.bringUpCxl (s : State) (port : Nat) (ok : Bool) (gib : Nat) : State × Nat × Bool :=
  let opt := if port = 0 then s.cfg.policy.cxlAOptional else s.cfg.policy.cxlBOptional && !s.cfg.nvme
  let setSkip (n : Nat) (s : State) : State :=
    { s with flash := if port = 0 then { s.flash with skipA := n } else { s.flash with skipB := n } }
  let onCtl (g : ControllerState → ControllerState) (s : State) : State :=
    { s with memory := { s.memory with controllers := modifyAt s.memory.controllers (24 + port) g } }
  let left := if port = 0 then s.flash.skipA else s.flash.skipB
  if !s.cxlUsed port then (s, 0, false)
  else if left > 0 ∧ opt then (setSkip (left - 1) (onCtl (fun c => { c with skipped := true }) s), 0, false)
  else if ok then
    let s := { s with
      start := if port = 0 then { s.start with cxlAGib := gib }
               else if s.cfg.nvme then { s.start with nvmeUp := true } else { s.start with cxlBGib := gib }
      power := if port = 0 then { s.power with perstA := true } else { s.power with perstB := true } }
    (if port = 1 && s.cfg.nvme then s else onCtl (fun c => { c with up := true, capacity := BitVec.ofNat 16 gib }) s, 0, false)
  else if opt then (setSkip s.cfg.policy.skipStarts (onCtl (fun c => { c with skipped := true }) s), 0x060, false)
  else (s, if port = 1 && s.cfg.nvme then 0x061 else 0x060, true)

/-- Z of the largest slot (R446, R447). -/
def State.largestSet (s : State) : Nat :=
  s.cfg.slots.foldl (fun m k => max m (k.2.setSize s.cfg.tables s.cfg.layouts s.start.x.toNat s.start.y.toNat s.start.z.toNat)) 0

/-- The namespace does not meet R446 for some slot. -/
def State.namespaceBad (s : State) (lba : Nat) : Bool :=
  s.cfg.sundial.table.any (fun e => e.type == 0x6) &&
    (lba != 4096 || s.cfg.slots.any fun k =>
      k.2.recovery.lbaCount + 1 < 2 * ceilDiv (k.2.setSize s.cfg.tables s.cfg.layouts s.start.x.toNat s.start.y.toNat s.start.z.toNat) 4096)

/-- Step 0x0D (R380, R446). A start that leaves a port skipped is done differently, as R107 puts it; outcome 2, which R109 lists and no rule gives to a
step, is never written (DESIGN CHOICE, log entry 78). -/
def stepCxl (f : StartFindings) (s : State) : StepResult :=
  let a := s.bringUpCxl 0 f.cxlA.1 f.cxlA.2
  if a.2.2 then { s := a.1, outcome := 3, code := a.2.1, unit := 0, progress := 0 } else
  let nvmeBad := s.cfg.nvme && s.namespaceBad f.nvmeLba
  let b := a.1.bringUpCxl 1 (f.cxlB.1 && !nvmeBad) f.cxlB.2
  let aUp := s.cxlUsed 0 && !(a.1.memory.controllers.getD 24 ControllerState.reset).skipped
  if b.2.2 then { s := b.1, outcome := 3, code := b.2.1, unit := 1, progress := (fraction (bit aUp) (1 + bit (s.cxlUsed 0))).toNat } else
  let skipped (p : Nat) : Bool := (b.1.memory.controllers.getD (24 + p) ControllerState.reset).skipped
  { s := b.1
    outcome := if skipped 0 || skipped 1 then 1 else 0
    code := if a.2.1 ≠ 0 then a.2.1 else b.2.1
    unit := if skipped 0 then 0 else if skipped 1 then 1 else 0xFFFF
    more := if a.2.1 ≠ 0 ∧ b.2.1 ≠ 0 then [b.2.1] else [] }

/-! ### Link training (R429–R432) -/

/-- A lane map word: physical lane of each logical lane, 3 bits each (R428). -/
def laneMapWord (ls : List Nat) : BitVec 12 := BitVec.ofNat 12 (pack (ls.map fun l => (l, 3)))

/-- A port after training: its state, a code (0 none) and the physical lane named. -/
def State.trainPort (s : State) (f : StartFindings) (p : Nat) : PortState × Nat × Nat :=
  let off := PortState.reset
  if !s.portUsed p then (off, 0, 0) else
  let n := dataLanes p
  let spared := s.sparedLanes
  let bad (l : Nat) : Bool :=
    (f.lanesFailed.any fun x => x.1.val == p && x.2.val == l) || spared.contains (p, l)
  let good := (List.range n).filter fun l => !bad l
  let spareOk := !bad n
  let missing := n - good.length
  let goodAll := (List.range (n + 1)).filter fun l => !bad l
  let trips := f.roundTrips.getD p []
  let lat := BitVec.ofNat 16 (((leastBy id (trips.map BitVec.toNat)).getD 0) / 2)
  let down (code lane : Nat) : PortState × Nat × Nat :=
    ({ off with state := 4, stage := 0, progress := fraction (min goodAll.length n) n }, code, lane)
  let room := if p = 6 then [f.hkCredits.1.toNat, f.hkCredits.2.toNat, 0, 0, 0, 0, 0, 0] else torusBuffers
  let upOn (ls : List Nat) (code lane : Nat) : PortState × Nat × Nat :=
    ({ off with
       state := 2, gen := 1, spareUsed := ls.contains n, progress := fraction ls.length n
       laneMap := laneMapWord ls, latency := lat, lanes := ls.length, margin := [100, 100, 100, 100, 100]
       rxRoom := buffersOf p, spareReady := spareOk && !ls.contains n
       credits := room, creditMax := room }, code, lane)
  let firstBad := ((List.range (n + 1)).find? bad).getD 0
  let failsLater := f.portsFailed.any fun x => x.val == p
  if failsLater ∨ lat > 1600 then down 0x05F 0
  else if p < 6 ∧ !(f.peerGenOk.getD p true) then down 0x102 0
  else if p < 6 ∧ !(f.peerMatch.getD p true) then down 0x103 0
  else if missing = 0 then upOn (List.range n) 0 0
  else if missing = 1 ∧ spareOk then
    upOn ((List.range n).map fun l => if bad l then n else l) 0x05F firstBad
  else if p = 6 ∧ goodAll.length ≥ 1 then upOn (goodAll.take 1) 0x05F firstBad
  else down 0x05F firstBad

/-- Step 0x0E: a torus port that fails is marked down and the start goes on; without a Hokuano lane the start fails. -/
def stepLinks (f : StartFindings) (s : State) : StepResult :=
  let rs := (List.range 7).map fun p => (p, s.trainPort f p)
  let faults := rs.filter fun r => r.2.2.1 != 0
  let unit := faults.head?.elim 0xFFFF fun r => r.1 + 8 * r.2.2.2
  let code := faults.head?.elim 0 fun r => r.2.2.1
  let s' := { s with links := { s.links with ports := rs.map fun r => r.2.1 } }
  let hkDown := (rs.getD 6 (6, PortState.reset, 0, 0)).2.1.state != 2
  let lanes := ((List.range 7).filter s.portUsed).map dataLanes
  let trained := rs.map fun r => if r.2.1.state = 2 then r.2.1.lanes else 0
  if hkDown then { s := s', outcome := 3, code := 0x05F, unit := 6, progress := (fraction trained.sum lanes.sum).toNat }
  else { s := s', outcome := if faults.isEmpty then 0 else 1, code := code, unit := unit,
         more := (faults.drop 1).map fun r => r.2.2.1 }

/-- Every layout is copied into control-core memory (R164). -/
def State.copyLayouts (s : State) : State :=
  match s.layoutCopy, findSection s.cfg.entries 0x03 with
  | some k, some (_, e) => s.store k ((s.flash.image s.start.slot).range (e.offset + 128) (32 * s.layoutsBefore s.cfg.layouts.length)) false
  | _, _ => s

/-- Step 0x0F: extents against the installed capacities (R386), then the load. A partition on a skipped port has capacity
zero (R106). -/
def stepLoad (f : StartFindings) (s : State) : StepResult :=
  let caps := s.caps
  let beyond (p : Partition) : Bool :=
    let skipped (i : Nat) : Bool := (s.memory.controllers.getD i ControllerState.reset).skipped
    match p.tier with
    | 1 => p.start + p.len > caps.ddr
    | 2 => p.start + p.len > caps.cxlA && !skipped 24
    | 3 => p.start + p.len > caps.cxlB && !skipped 25
    | _ => false
  if s.cfg.partMap.parts.any beyond then
    { s := s, outcome := 3, code := 0x012, unit := (findSection s.cfg.entries 0x05).elim 0xFFFF (·.1), progress := 0 }
  else if !f.loadOk then { s := s, outcome := 3, progress := f.loadPart.toNat }
  else { s := ({ s with start := { s.start with loaded := true } }).copyLayouts }

/-- The dial at the end of a start (R51, R54, R59): root 0 takes its own dial. -/
def State.startDial (s : State) : State :=
  let c := s.cfg.sundial
  let root0 := (c.root 0).1
  let isRoot := decide (root0 = coordNum s.coord)
  { s with dial := { DialState.reset with
      ns := s.dial.ns, periodNs := BitVec.ofNat 40 (field c.periodInit.toNat 0 40)
      rootCoord := BitVec.ofNat 12 root0, isRoot := isRoot, locked := isRoot, trim := 0 } }

/-- Step 0x10 (R95, R107, R117): RPMC advance, directory update, memo write. -/
def stepReady (f : StartFindings) (s : State) : StepResult :=
  let rises := s.flash.rpmc && s.start.imageSv.toNat > s.flash.rpmcValue.toNat
  if rises && !f.rpmcInc then { s := s, outcome := 3, code := 0x057, progress := 0 } else
  let fl := if rises then { s.flash with rpmcValue := s.start.imageSv } else s.flash
  let fl := if s.start.pendingTry && f.dirWriteOk then fl.writeDirectory s.start.slot none else fl
  let rates := (List.range 8).map fun c => (s.memory.controllers.getD (16 + c) ControllerState.reset).rate.toNat
  let equal := (List.range 7).map fun p => if (s.port p).state == 2 || (s.port p).state == 3 then some s.start.startCount else none
  let fl := { fl with memo := if f.memoWriteOk then some ⟨rates, equal⟩ else none }
  let lost := (s.start.pendingTry && !f.dirWriteOk) || !f.memoWriteOk
  { s := ({ s with flash := fl, start := { s.start with state := 1, failedRun := 0 } }).startDial
    code := if lost then 0x066 else 0 }

/-- Steps 0x06 to 0x10 in order; a failed one ends them (R107). -/
def State.lateSteps (s : State) (last : Option JournalRecord) (f : StartFindings) : State :=
  (((((((((((s.runStep 0x06 stepVerify).runStep 0x07 (stepRollback f)).runStep 0x08 stepContent).runStep 0x09 (stepCores f)).runStep 0x0A
    (stepDomains f)).runStep 0x0B (stepStacked f)).runStep 0x0C (stepDdr last f)).runStep 0x0D (stepCxl f)).runStep 0x0E
    (stepLinks f)).runStep 0x0F (stepLoad f)).runStep 0x10 (stepReady f))

/-- A start whose ROM and flash answer (R107, R113): from the journal scan to ready, failed or refusal mode. -/
def State.startSteps (s : State) (refuseEarly : Bool) (f : StartFindings) : State :=
  let last := s.lastFailure
  let lastCode := if s.power.carried = 0 then last.elim 0 (·.code.toNat) else s.power.carryCode.toNat
  let last := if s.power.carried = 0 then last else none
  let s := (s.scanJournal.runStep 0x04 (stepIdentity f)).runStep 0x05 (stepDirectory last)
  let limit := refuseAfter (s.flash.image s.start.slot)
  if s.start.state = 0 ∧ (refuseEarly ∨ s.start.failedRun.toNat ≥ limit) then
    (s.journal (s.record 0x05 5 0x062 0xFFFF 65535 lastCode)).enterRefusal f
  else s.lateSteps last f

/-- A start that fails before the journal can be read (R111): carried to the next, or refusal mode after three. -/
def State.startEarly (s : State) (refuseEarly : Bool) (step code : Nat) (f : StartFindings) : State :=
  if refuseEarly then
    (({ s with start := { s.start with step := BitVec.ofNat 8 step } }).countError code).enterRefusal f
  else
    let s := (s.carryFailure step code).countError code
    { s with start := { s.start with state := 4, step := BitVec.ofNat 8 step, progress := 0 } }

/-- The whole sequence (R107, R110–R113) once the pins have released the device (R480, R482). -/
def execStartSequence (f : StartFindings) (s : State) : Out :=
  .next <| if s.power.stage = .good ∧ s.power.resetN ∧ ¬ s.start.begun then
    let refuseEarly := decide (s.power.carried.toNat ≥ 3)
    let s := { s with start := { StartState.reset with begun := true } }
    match earlyFailure s f with
    | some (step, code) => s.startEarly refuseEarly step code f
    | none => s.startSteps refuseEarly f
  else s

/-- R112, R481: after a failed start the device resets itself; PG_OUT stays released, the base domains and the port
domains stay on. -/
def execStartRestart (s : State) : Out :=
  .next <| if s.start.begun ∧ s.start.state = 4 then
    State.loseDevice { s with power := s.power.keepOnly (domainMask (baseDomains ++ [64, 65, 66, 67, 68, 69, 70])) }
  else s

end Sys2Proof.Machine
end

