-- ==== Sys2Proof/Machine/Spares.lean ====
section
/-! DEFINITION. Wear and spares (R26, R27, R66, R467–R469, R473): wear counts, spare swaps in their windows, the repair journal at a
window's end. -/

namespace Sys2Proof.Machine

/-! ### Wear (R467) -/

/-- Events that trip a monitor within 1,000 consecutive steps: 0 operand-store parity and 1 Basin corrections of a cell, 2 Rill resends
of a block, 3 local-memory corrections of a Spout core. -/
def wearLimit (monitor : Nat) : Nat :=
  match monitor with
  | 0 => 8
  | 1 => 64
  | 2 => 1024
  | _ => 16

/-- A monitored event: at its limit the unit is marked with 0x117 and its count starts again. Without a core for role 3 nobody watches, and the
events wait to be counted with the next. -/
def State.noteWear (s : State) (monitor unit : Nat) : State :=
  let now := s.dial.step.toNat
  let kept := (s.resil.wear.filter fun w => decide (now < w.step + 1000)) ++ [⟨monitor, unit, now⟩]
  let mine (w : WearEvent) : Bool := w.monitor == monitor && w.unit == unit
  if (kept.filter mine).length < wearLimit monitor || !s.roleUp 3 then s.onResil fun r => { r with wear := kept }
  else
    let s := s.onResil fun r => { r with wear := kept.filter fun w => !mine w }
    s.wornOut 1 unit 0 noName

/-- A ring-oscillator reading: the first becomes the baseline; one 6 % or more below its baseline marks the unit. -/
def State.wearReading (s : State) (r : WearReading) : State :=
  let unit := match r.cell with
    | some c => cellUnit r.block.val c.val
    | none => blockUnit r.block.val
  match lookupNat unit s.resil.baselines with
  | none => s.onResil fun x => { x with
      baselines := insertKey unit r.kHz x.baselines, toRecord := x.toRecord ++ [s.repairNow 0 0 unit r.kHz 0] }
  | some b =>
    if 100 * r.kHz > 94 * b then s else s.wornOut 1 unit 0 noName

/-- R467: firmware of role 3 samples the oscillators. -/
def execWearSample (readings : List WearReading) (s : State) : Out :=
  .next <| if s.start.loaded && s.roleUp 3 then readings.foldl (fun s r => s.wearReading r) s else s

/-! ### Windows -/

/-- Place of a swap in R468's table, and its duration in ns. -/
def swapOrder (w : Swap) : Nat × Nat :=
  match w.kind with
  | 2 => (0, 1000)
  | 1 => if unitClass w.unit = 0 then (1, 20000) else if unitClass w.unit = 2 then (2, 10000) else (6, 1600000)
  | 3 => (3, 40000)
  | 5 => (4, 50000)
  | _ => (5, 200000)

/-- Time left before the close of an open spare-swap window, in 2^-19 ns: positions by the accumulator's threshold of one (R51, R71). -/
def State.windowLeft (s : State) : Option Nat :=
  s.dial.instances.findSome? fun d => (s.dialEntry d.entry).bind fun e =>
    if e.type = 0xA ∧ d.step = s.dial.step.toNat ∧ e.opens ≤ s.dial.pos.toNat ∧ s.dial.pos.toNat < e.closes then
      some ((e.closes - s.dial.pos.toNat) * (s.dial.periodNs.toNat * (8 + s.cfg.sundial.stretchQ * s.dial.grants.toNat))) else none

/-- A swap ends before the window closes and can be made: a lane needs its spare (R434). -/
def State.swapFits (s : State) (left : Nat) (w : Swap) : Bool :=
  decide ((swapOrder w).2 * 2 ^ 19 < left) &&
    (w.kind != 2 || (let x := s.port (field w.unit 0 3); x.state == 2 && x.spareReady && !x.spareUsed && x.mapped.contains (field w.unit 3 3)))

/-- The window opens: its swaps count from zero (R473). -/
def State.openSwapWindow (s : State) : State := s.onResil fun r => { r with
  winStarted := 0, winDone := 0, swapProgress := 0, swaps := r.swaps.map fun w => { w with running := false } }

/-- The window ends (R27, R47, R469): a swap that has not ended waits again; records wait for it; a unit still waiting is recorded once,
with kind 8. -/
def State.endSwapWindow (s : State) : State :=
  let s := s.onResil fun r => { r with swaps := r.swaps.map fun w => { w with running := false } }
  if !s.roleUp 3 then s else
  let waiting := (s.resil.swaps.filter fun w => !w.recorded).map fun w => s.repairNow 8 w.kind w.unit w.detail w.code
  let rs := s.resil.toRecord ++ waiting
  let s := s.onResil fun r => { r with
    toRecord := [], swaps := r.swaps.map fun w => { w with recorded := true } }
  let put (s : State) (r : RepairRecord) : State :=
    s.repairRecord r.kind.toNat r.pendKind.toNat r.unit.toNat r.detail.toNat r.code.toNat
  rs.foldl put s

/-! ### Swaps -/

/-- The next swap starts, in R468's order. -/
def execSpareSwap (s : State) : Out :=
  .next <|
    if !s.start.loaded || !s.roleUp 5 || s.resil.swaps.any (·.running) then s else
    match s.windowLeft with
    | none => s
    | some left =>
      match leastBy (fun w => (swapOrder w).1) (s.resil.swaps.filter (s.swapFits left)) with
      | none => s
      | some w =>
        s.onResil fun r => { r with
          winStarted := r.winStarted + 1, swapProgress := fraction r.winDone (r.winStarted + 1)
          swaps := r.swaps.map fun x => if x = w then { x with running := true, began := s.dial.ns } else x }

/-- A spare unit of kind 1 takes the failed one's place (R26, R27, R468); none where no spare is left. -/
def State.bringIn (s : State) (u : Nat) : Option State :=
  match unitClass u with
  | 0 =>
    let b := unitBlock u
    (s.spareCells b).head?.map fun c =>
      (s.onBlock b fun x => { x with
        active := (x.active &&& ~~~(1#17 <<< unitIndex u)) ||| (1#17 <<< c), cellsFenced := x.cellsFenced &&& ~~~(1#17 <<< unitIndex u) }).onResil
        fun r => { r with failedCells := (b / 9, b % 9, unitIndex u) :: r.failedCells }
  | 1 =>
    let b := unitBlock u
    (s.spareBlocks (b / 9)).head?.map fun n =>
      (s.onResil fun r => { r with
        activeBlocks := modifyAt r.activeBlocks (b / 9) fun m => (m &&& ~~~(1#9 <<< (b % 9))) ||| (1#9 <<< n)
        failedBlocks := (b / 9, b % 9) :: r.failedBlocks }).domainUp (9 * (b / 9) + n)
  | _ =>
    let r := unitRegion u
    (s.spareSpouts r).head?.map fun n =>
      s.onResil fun x => { x with
        activeSpouts := modifyAt x.activeSpouts r fun m => (m &&& ~~~(1#9 <<< unitIndex u)) ||| (1#9 <<< n)
        failedSpouts := (r, unitIndex u) :: x.failedSpouts, fencedSpouts := x.fencedSpouts.filter (· != (r, unitIndex u)) }

/-- The repaired unit (R467, R468). -/
def State.repairUnit (s : State) (w : Swap) : Option State :=
  match w.kind with
  | 1 => s.bringIn w.unit
  | 2 => some (s.useSpare (field w.unit 0 3) (field w.unit 3 3))
  | 3 => some (s.onMemory fun m => { m with controllers := modifyAt m.controllers w.unit fun c =>
      { c with spareRows := c.spareRows ++ [w.detail] } })
  | 4 => some ((s.onMemory fun m => { m with controllers := modifyAt m.controllers w.unit fun c =>
      { c with spareBg := true } }).onResil fun r => { r with groupsUsed := r.groupsUsed ++ [w.unit] })
  | _ => some s

/-- A spare block whose rail misses tolerance is marked failed with 0x125; the swap waits for another spare, or logs 0x119 (R485). -/
def State.sparePowerFailed (s : State) (w : Swap) : State :=
  let r := unitRegion w.unit
  match (s.spareBlocks r).head? with
  | none => s
  | some n =>
    let s := s.onResil fun x => { x with
      failedBlocks := (r, n) :: x.failedBlocks, toRecord := x.toRecord ++ [s.repairNow 1 0 (blockUnit (9 * r + n)) 0 0x125] }
    let s := s.logDevice 0x125 noName 0 0
    let s : State := { s with power := { s.power with failed := satAdd s.power.failed 1 } }
    if (s.spareBlocks r).isEmpty then
      (s.noSpare w.kind w.unit w.detail w.code w.recorded).onResil fun x => { x with swaps := x.swaps.filter (· != w) }
    else s.onResil fun x => { x with swaps := x.swaps.map fun y => { y with running := false } }

/-- R27, R47, R468, R469, R473, R485: the running swap ends, inside its window; `powerOk` says a spare block's rail came up. -/
def execSpareSwapComplete (powerOk : Bool) (s : State) : Out :=
  .next <| match s.resil.swaps.find? (·.running) with
  | none => s
  | some w =>
    if s.windowLeft.isNone then s
    else if w.kind = 1 ∧ unitClass w.unit = 1 ∧ !powerOk then s.sparePowerFailed w else
    match s.repairUnit w with
    | none => (s.noSpare w.kind w.unit w.detail w.code w.recorded).onResil fun r => { r with swaps := r.swaps.filter (· != w) }
    | some s =>
      (s.logDevice 0x118 noName 0 0).onResil fun r => { r with
        swaps := r.swaps.filter (· != w), swapsDone := satAdd r.swapsDone 1, winDone := r.winDone + 1
        swapProgress := fraction (r.winDone + 1) r.winStarted, toRecord := r.toRecord ++ [s.repairNow w.kind 0 w.unit w.detail w.code] }

end Sys2Proof.Machine
end

