-- ==== Sys2Proof/Machine/Dial.lean ====
section
/-! DEFINITION. The Sundial within a step (R49–R83): positions, beats, deadline faults, stretch, reclaim, the period loop,
SYNC. The dial advances one position a command; time is counted in 1 ns cycles. -/

namespace Sys2Proof.Machine

/-! ### Stretch requests -/

/-- Length of a step with grants at beat positions, in eighths of a period times 65,536 (R71). -/
def stepLength (q : Nat) (beats : List Nat) : Nat :=
  (beats.zipIdx.foldl (fun acc b => acc + (65536 - b.1) * q) (65536 * 8))

/-- A stretch request is denied (R70). -/
def State.denies (s : State) (step : Nat) : Bool :=
  let c := s.cfg.sundial
  let period := s.dial.periodNs.toNat
  let next := (s.dial.pos.toNat / 256 + 1) * 256
  c.stretchQ == 0 || s.dial.grants.toNat == c.stretchMax || c.extRef || decide (s.dial.pos.toNat ≥ 65280) ||
    decide (step < s.dial.step.toNat) ||
    decide (period * stepLength c.stretchQ (s.dial.grantBeats ++ [next]) > 10000000000 * 65536 * 8)

/-- The root takes a request (R70): served by an earlier grant, denied with 0x044, or waiting for the next beat. -/
def State.takeRequest (s : State) (entry step : Nat) : State :=
  match s.dialEntry entry with
  | none => s
  | some e =>
    let beats := if step = s.dial.step.toNat then s.dial.grantBeats else (s.dial.granted.filter (·.1 == step)).map (·.2)
    if beats.any fun b => decide (e.closes ≤ b) then s
    else if s.denies step then
      (s.onLogs fun l => { l with denials := satAdd l.denials 1 }).logDial 0x044 entry e.type 1 noName 0
    else s.onDial fun x => { x with waiting := x.waiting ++ [(entry, step)] }

/-- A request reaches the root (R343): while its role has no core it waits. -/
def State.askRoot (s : State) (entry step : Nat) : State :=
  if s.roleUp 2 then s.takeRequest entry step else s.onDial fun x => { x with held := x.held ++ [(entry, step)] }

/-- The role has a core again: the requests that waited are taken in their order (R343). -/
def State.takeHeldRequests (s : State) : State :=
  s.dial.held.foldl (fun s q => if s.dial.isRoot then s.takeRequest q.1 q.2 else s) (s.onDial fun x => { x with held := [] })

/-! ### Deadlines -/

/-- Policy of an instance that closes with the step, or is checked again at its boundary (R68, R72). -/
def finalPolicy (type policy : Nat) : Nat :=
  if policy = 1 then (if (typePolicies type).contains 0 then 0 else 2) else policy

/-- A drain or copy is abandoned (R69, R451): its sent rows return to dirty. -/
def State.abandonDrain (s : State) (t : Nat) : State :=
  let s := s.onTarget t fun x => { x with active := false, unacked := [], headerSent := false, bodySent := false }
  let s := if t = 1 then s.onResil fun r => { r with nvme := [] } else s
  s.onResil fun r => { r with rows := r.rows.map fun m => if m.target.val = t then { m with sent := false } else m }

/-- Drop an entry's unfinished work (R69); answers the number of micro-batches cancelled. -/
def State.dropEntry (s : State) (i : Nat) (e : DialEntry) (step : Nat) : State × Nat :=
  let late := s.lateMbs i step
  let s := late.foldl (fun s m => s.dropMb m step) s
  if e.type = 4 then
    let eng := field e.param 2 1
    let ops := (s.slotCfg.ops.zipIdx.filter fun o => o.1.entry == i).map (·.2)
    let carried := (s.mbs.filter fun m => m.committed && !m.dropped && decide (m.mb < 1024)).length
    let s := s.onCascade fun c => { c with withdrawn := c.withdrawn ++ ops }
    let s := if (s.engine eng).entry.toNat = i then s.withdraw eng else s
    (s.dropCarried, late.length + carried)
  else if e.type = 6 then
    (s.abandonDrain (field e.param 0 2), late.length)
  else
    let gone (r : RegionSched) : RegionSched :=
      let mine (t : TaskContext) : Bool := t.entry.toNat == i && t.step.toNat == step && t.mb == 4094
      { r with contexts := r.contexts.filter (fun x => !mine x.2)
               cancelled := satAdd r.cancelled (r.contexts.filter fun x => mine x.2).length }
    ({ s with sched := s.sched.map gone }, late.length)

/-- The unfinished work item of lowest task context under an instance, as a record names it (R73). -/
def State.namedUnder (s : State) (i step : Nat) : Named :=
  match leastBy (fun x : Nat × Nat × TaskContext => x.2.1 * 4 + x.1) (s.unfinished i step) with
  | some x => s.nameOf ⟨BitVec.toFin (BitVec.ofNat 2 x.1), x.2.1⟩
  | none => noName

/-- A copy ends (R453): the pin goes when no copy holds it; one that is abandoned logs its code. -/
def State.endCopy (s : State) (t code : Nat) : State :=
  let s := s.onTarget t fun x => { x with copying := false, copyPos := 0, copyEnd := 0, unacked := [], sent := 0, acked := 0
                                          progress := if code = 0 then 0xFFFF else x.progress }
  let s := if t = 1 then s.onResil fun r => { r with nvme := [] } else s
  let s := if (s.target 1).copying || (s.target 2).copying then s else s.onTarget 0 fun x => { x with pinned := false }
  if code = 0 then s else s.logDevice code noName 0 0

/-- A partner drain that heard no DRAIN_ACK by its close (R452): both partner sets are invalid, every row dirty in their maps.
A drain not complete at its close counts as failed (R470). -/
def State.drainMissed (s : State) (e : DialEntry) : State :=
  let t := field e.param 0 2
  let x := s.resil.targets.getD t CkptTarget.reset
  let s := s.onTarget t fun x => { x with failed := satAdd x.failed 1 }
  if t ≠ 0 ∨ x.ackSeen then s else
  let s := s.onTarget 0 fun x => { x with complete := [none, none], zeroed := [false, false], pinned := false }
  let marks := [false, true].flatMap fun set => s.ownRows.map fun x => (⟨0, set, x.1, x.2, false⟩ : RowMark)
  let s := s.onResil fun r => { r with rows := r.rows.filter (fun m => m.target != 0) ++ marks }
  let s := s.logDevice 0x111 noName 0 0
  -- the pinned set is lost: both copies are abandoned (R453)
  ([1, 2] : List Nat).foldl (fun s c => if (s.target c).copying then s.endCopy c 0x111 else s) s

/-- A deadline fault (R68, R69): one 0x040 record and the policy. `atEnd` marks the checks of R72. -/
def State.deadline (s : State) (d : DialInstance) (e : DialEntry) (atEnd : Bool) : State :=
  let p := resolvedPolicy s.cfg.sundial e
  let p := if atEnd then finalPolicy e.type p else p
  let who := s.namedUnder d.entry d.step
  let s := s.onDial fun x => { x with instances := x.instances.map fun y =>
    if y.entry = d.entry ∧ y.step = d.step then { y with faulted := true, stretched := p == 1 } else y }
  let s := s.onLogs fun l => { l with deadlines := satAdd l.deadlines 1 }
  let s := if e.type = 6 then s.drainMissed e else s
  match p with
  | 0 =>
    let r := s.dropEntry d.entry e d.step
    r.1.logDial 0x040 d.entry e.type 0 who r.2
  | 1 =>
    let s := s.logDial 0x040 d.entry e.type 1 who 0
    if s.dial.isRoot then s.askRoot d.entry d.step
    else s.sendUp (treeUp 1 0 s.coord d.entry d.step)
  | _ => (s.logDial 0x040 d.entry e.type 2 who 0).haltAtBoundary 2

/-- Check the instances that close at a position (R68), in ascending entry index. -/
def State.checkCloses (s : State) (pos : Nat) : State :=
  s.dial.instances.foldl (fun s d =>
    match s.dialEntry d.entry with
    | some e => if e.closes = pos ∧ d.completed.isNone ∧ d.step = s.dial.step.toNat ∧ !windowOnly e.type then s.deadline d e false else s
    | none => s) s

/-- Checks at the step boundary (R68, R72): instances that close at 65,535 and stretched ones, in ascending entry index. -/
def State.checkAtEnd (s : State) : State :=
  s.dial.instances.foldl (fun s d =>
    match s.dialEntry d.entry with
    | some e =>
      if d.completed.isNone ∧ d.step = s.dial.step.toNat ∧ !windowOnly e.type ∧ (e.closes = 65535 ∨ d.stretched) then s.deadline d e true
      else s
    | none => s) s

/-- Reclaim (R312): late micro-batches are dropped with 0x0C0. -/
def State.reclaim (s : State) : State :=
  let late := (s.mbs.filter fun m => decide (m.mb < 1024) && m.started && !m.committed && !m.dropped)
  let s := late.foldl (fun s m =>
    ((s.dropMb m.mb m.step).logDevice 0x0C0 (s.nameMb m) 1 0).onTrain fun t => { t with reclaimed := satAdd t.reclaimed 1 }) s
  s.onTrain fun t => { t with reclaimDone := true }

/-! ### Grants and the loop -/

/-- A grant rides the beat (R70, R71), made by the role's core (R343). -/
def State.grant (s : State) (pos : Nat) : State :=
  if s.dial.waiting.isEmpty || !s.roleUp 2 then s else
  let s := s.onDial fun x => { x with
    waiting := [], grants := x.grants + 1, grantBeats := x.grantBeats ++ [pos]
    instances := x.instances.map fun d => if d.stretched && (s.dialEntry d.entry).any fun e => decide (e.closes ≤ pos) then
      { d with served := true } else d }
  s.onLogs fun l => { l with grantsMade := satAdd l.grantsMade 1 }

/-- The period loop of the root (R75, R79, R343). -/
def State.periodLoop (s : State) : State :=
  let c := s.cfg.sundial
  let d := s.dial
  let t := d.step.toNat
  if !d.isRoot || !s.roleUp 2 || c.extRef then
    s.onDial fun x => { x with nextPeriod := if d.isRoot then some (d.nextPeriod.getD d.periodNs) else x.nextPeriod }
  else
    let period := d.periodNs.toNat
    let r : Nat × Nat :=
      match d.reportMin with
      | none => (period, d.calm)
      | some r =>
        if d.settledFrom ≤ t - 1 ∧ 1 ≤ t ∧ (c.upQ > 0 ∨ c.downQ > 0) then
          if r < (c.slackLow : Int) then (min (period * (64 + c.upQ) / 64) (field c.periodMax.toNat 0 40), 0)
          else if r > (c.slackHigh : Int) then
            if d.calm + 1 ≥ c.calmSteps then (max (period * (64 - c.downQ) / 64) (field c.periodMin.toNat 0 40), 0)
            else (period, d.calm + 1)
          else (period, 0)
        else (period, d.calm)
    s.onDial fun x => { x with
      nextPeriod := some (BitVec.ofNat 40 r.1), calm := r.2, settledFrom := if r.1 = period then x.settledFrom else t + 1 }

/-! ### Beats -/

/-- The beat the root sends at a position (R426). -/
def State.rootBeat (s : State) : BeatFlit :=
  let d := s.dial
  let rate := d.periodNs.toNat * (8 + s.cfg.sundial.stretchQ * d.grants.toNat) / 8
  { epoch := d.rootEpoch, coord := s.rootOf, grants := d.grants, extRef := d.extRefActive, go := d.go,
    nextValid := decide (d.pos.toNat ≥ 32768) && d.nextPeriod.isSome, pos := d.pos, step := d.step, curPeriod := BitVec.ofNat 40 rate,
    nextPeriod := if d.pos.toNat ≥ 32768 then d.nextPeriod.getD 0 else 0, age := 0, hops := 0 }

/-- Presence flits of open Cascade instances go out at each beat position (R361). -/
def State.sendPresence (s : State) : State :=
  s.dial.instances.foldl (fun s d =>
    match s.dialEntry d.entry with
    | some e =>
      if e.type ≠ 4 ∨ d.completed.isSome ∨ s.dial.pos.toNat < e.opens then s else
      let axis := field e.param 0 2
      if s.axisDim axis = 1 then s else
      let f := presenceFlit d.entry axis (field e.param 2 1) s.dial.step.toNat
      let s := s.sendFlit (s.axisPort axis true) f
      if s.axisDim axis = 2 then s else s.sendFlit (s.axisPort axis false) f
    | none => s) s

/-- SYNC_OUT's user (R101, R102). -/
def State.syncUser (s : State) : Option Nat := ownerOf s.cfg.resources 0x1000

/-- Level of SYNC_OUT (R77, R78, R502). -/
def State.syncLevel (s : State) : Bool :=
  match s.syncUser with
  | some 2 => decide (s.dial.pos.toNat % 256 < 64 ∨ s.dial.pos.toNat < 128)
  | some 3 => decide (s.dial.ns / 8 % 2 = 0)
  | _ => false

/-- What happens at a beat position (R52, R58, R70, R71, R75, R78). -/
def State.atBeat (s : State) : State :=
  let pos := s.dial.pos.toNat
  let s := if pos = 32768 then s.periodLoop else s
  let s := if s.dial.isRoot then
      let s := s.grant pos
      s.sendBeat (s.beatPorts s.rootOf none) s.rootBeat
    else if s.dial.locked then s.onDial fun x => { x with missed := if x.heard then 0 else x.missed + 1, heard := false }
    else s
  if s.run.run == 2 then s.sendPresence else s

/-! ### Opens -/

/-- Evaluation operations of scope 1 and 2 under an entry get their instances (R123, R331). -/
def State.evalInstances (s : State) (e : Nat) : State :=
  let mine (o : Op) : Bool := o.eval && o.entry == e && o.scope != 0
  let again (j : Nat) : Bool := (s.op j).any mine
  let s : State := { s with sched := s.sched.map fun r => { r with completed := r.completed.filter fun x => !(x.2.1 == 4094 && again x.1) } }
  s.createStepInstances mine

/-- A micro-batch as a step forms it (R121). -/
def newMb (m step pos : Nat) : MicroBatch :=
  { mb := m, evalOf := 0, step := step, basket := m, dataPos := pos, admitted := false, dropped := false, committed := false, segments := []
    started := false, versionB := [], weightV := 0, copies := [], companions := [], staging := [], rowsSet := [], samples := 0, loss := 0
    nonFinite := [], recompute := [], stashStop := false, reruns := [], passed := [], stamps := [] }

/-- The step's micro-batches again with the count and positions a rejoin has loaded (R200, R459): no work item of the step has run, those
dropped stay so. -/
def State.reformBatches (s : State) : State :=
  let t := s.dial.step.toNat
  let n := if s.slotCfg.header.seedSource then s.run.c else s.run.block.elim 0 fun b => min s.run.c b.mbs
  let first := if s.slotCfg.header.seedSource then (s.cursor 0).nextPos.toNat else s.run.block.elim 0 (·.dataPos)
  let mine (m : MicroBatch) : Bool := m.step == t && decide (m.mb < 1024)
  let again (i : Nat) : MicroBatch := (s.mbOf i t).elim (newMb i t (first + i)) fun m => { m with dataPos := first + i }
  let again := (List.range n).map again
  let s := s.onRun fun r => { r with mbCount := BitVec.ofNat 11 n }
  { s with
    mbs := (s.mbs.filter fun m => !mine m) ++ again
    sched := s.sched.map fun r => { r with contexts := r.contexts.filter fun x =>
      !(x.2.step.toNat == t && decide (n ≤ x.2.mb.toNat ∧ x.2.mb.toNat < 1024)) } }

/-- Evaluation micro-batches of an instance (R201, R322): numbers that an earlier instance's baskets still hold are passed over
(log entry 67). -/
def State.openEvaluation (s : State) (e : Nat) : State :=
  if !s.working || !s.slotCfg.ops.any fun o => o.eval && o.entry == e then s else
  let s := s.evalInstances e
  match s.basketFor true with
  | none => s
  | some b =>
    let n := b.evalMbs + 1
    let s := if b.evalRestart then s.onCursor 1 fun c => c.at s.rank 0 0 else s.checkCursor true n
    let first := (s.cursor 1).nextPos.toNat
    let free := ((List.range 1024).map (1024 + ·)).filter fun k => !s.mbs.any fun m => m.mb == k
    let mbs := (free.take n).zipIdx.map fun k => { newMb k.1 s.dial.step.toNat (first + k.2) with evalOf := e }
    let s := { s with mbs := s.mbs ++ mbs }
    s.onCursor 1 fun c => c.at s.rank c.epoch (c.k + n)

/-- A re-shard request opens (R372): the pending bank is loaded with the next layout. -/
def State.openReshard (s : State) : State :=
  if !s.working || !s.roleUp 5 then s else
  let next := (s.tables.activeLayout.toNat + 1) % s.cfg.layouts.length
  let s := s.layoutCopy.elim s fun k =>
    s.noteReads (k + 32 * s.layoutsBefore next) (32 * (s.cfg.layouts.getD next []).length) (s.roleName 5)
  s.onTables fun t => { t with
    pendingLayout := BitVec.ofNat 3 next, pendingValid := true, loadProgress := 0xFFFF
    reshardOn := true, holdEnded := false, reshardDone := false, moveProgress := 0 }

/-- A drain instance opens (R443): it takes V, or completes at once where the slot does not run. -/
def State.openDrain (s : State) (target : Nat) : State :=
  if !s.working then s else
  s.onTarget target fun x =>
    if target = 0 then { x with active := true, set := x.next, step := s.dial.step.toNat, version := s.weightVersion.toNat
                                slot := s.run.slot.toNat, ackSeen := false, headerSent := false
                                bodySent := false, unacked := [], size := 0, sent := 0, acked := 0, progress := 0 }
    else { x with active := true, bodySent := false, headerSent := false }

/-- Instances that open at the current position (R63, R65). -/
def State.openEntries (s : State) : State :=
  let pos := s.dial.pos.toNat
  s.dial.instances.foldl (fun s d =>
    match s.dialEntry d.entry with
    | some e =>
      if e.opens ≠ pos then s
      else if e.type = 9 then s.openEvaluation d.entry
      else if e.type = 0xC then s.openReshard
      else if e.type = 6 then s.openDrain (field e.param 0 2)
      else if e.type = 0xA then s.openSwapWindow
      else s
    | none => s) s

/-! ### Advancing -/

/-- Cycles pass (R51): the accumulator in eighths, region cycle counters, cycles a throttled block lost. -/
def State.elapse (s : State) (cycles : Nat) : State :=
  let gain := if s.dial.trim = 0 then 65536 * cycles else Config.interpolated s.dial.trim cycles
  let lost (b : BlockPower) : BlockPower :=
    if b.on && b.throttled then { b with stretched := addN b.stretched ((s.dial.ns + cycles) * 4 / 5 - s.dial.ns * 4 / 5) } else b
  { s with
    dial := { s.dial with ns := s.dial.ns + cycles, acc := s.dial.acc + 8 * gain }
    power := { s.power with blocks := s.power.blocks.map lost }
    sched := s.sched.map fun r => { r with cycles := addN r.cycles ((s.dial.ns + cycles) * 5 / 4 - s.dial.ns * 5 / 4) } }

/-- One position in eighths of the accumulator (R51, R71). -/
def State.threshold (s : State) : Nat := s.dial.periodNs.toNat * (8 + s.cfg.sundial.stretchQ * s.dial.grants.toNat)

/-- The dial runs: the image is loaded. -/
def State.dialRuns (s : State) : Bool := s.start.loaded && decide (0 < s.dial.periodNs.toNat)

/-- Spare-swap windows that close at a position end (R469). -/
def State.closeWindows (s : State) (pos : Nat) : State :=
  s.dial.instances.foldl (fun s d =>
    if (s.dialEntry d.entry).any fun e => e.type == 0xA && e.closes == pos && d.step == s.dial.step.toNat then s.endSwapWindow else s) s

/-- The dial has passed from a position to the next: close checks, then reclaim (R68, R312, R469). -/
def State.leave (s : State) (pos : Nat) : State :=
  let s := (s.checkCloses pos).closeWindows pos
  if s.run.run == 2 && s.reclaimPos == some pos && !s.train.reclaimDone then s.reclaim else s

/-- The beat of a beat position (R52). -/
def State.meetBeat (s : State) : State := if s.dial.pos.toNat % 256 = 0 then s.atBeat else s

/-- Arrive at a position: opens, SYNC_OUT, event flags. -/
def State.arrive (s : State) : State :=
  let s := s.openEntries
  let s := s.onDial fun d => { d with syncOut := s.syncLevel }
  s.settle

/-- R47, R49–R52, R63–R71, R73, R75, R78, R311, R312, R322, R328, R331, R361, R372, R443. Within a step the dial advances one
position when the accumulator reaches the period; at pos 65,535 it waits for the boundary. -/
def execDialAdvance (cycles : Nat) (s : State) : Out :=
  .next <|
    let s := s.elapse cycles
    if !s.dialRuns || s.dial.acc < s.threshold || s.dial.pos == 65535 then s
    else
      let t := s.threshold
      let old := s.dial.pos.toNat
      let s := s.noteCompletions
      let s := (s.onDial fun d => { d with pos := d.pos + 1, acc := d.acc - t }).meetBeat
      (s.leave old).arrive

/-! ### Beats received -/

/-- The beat passes on (R52, R53, R427): age grows by the port's latency. -/
def State.forwardBeat (s : State) (port : Nat) (f : BeatFlit) : State :=
  let age := f.age.toNat + (s.port port).latency.toNat
  s.sendBeat (s.beatPorts f.coord (some port)) { f with age := BitVec.ofNat 24 age, hops := f.hops + 1 }

/-- What a beat announces (R71, R72, R75, R374). -/
def State.adopt (s : State) (f : BeatFlit) : State :=
  let granted := decide (f.grants.toNat > s.dial.grants.toNat) && f.step == s.dial.step
  s.onDial fun d => { d with
    grants := if f.step = d.step then f.grants else d.grants
    grantBeats := if granted then d.grantBeats ++ [f.pos.toNat] else d.grantBeats
    instances := d.instances.map fun x => if granted && x.stretched && (s.dialEntry x.entry).any fun e => decide (e.closes ≤ f.pos.toNat)
      then { x with served := true } else x
    extRefActive := f.extRef
    go := d.go || (f.go && f.step == d.step)
    nextPeriod := if f.nextValid then some f.nextPeriod else d.nextPeriod
    missed := 0
    heard := true
    lossLogged := false }

/-- A beat's place moved on by its age and the port's latency (R53, R427), in parts of a position, and the parts of a position. -/
def State.beatPlace (s : State) (port : Nat) (f : BeatFlit) : Nat × Nat :=
  let parts := 4 * max f.curPeriod.toNat 1
  ((f.step.toNat * 65536 + f.pos.toNat) * parts + (f.age.toNat + (s.port port).latency.toNat) * 65536, parts)

/-- Phase error in positions, as numerator and denominator: the beat's place less the local dial, its part of a position included (R51, R53). -/
def State.phaseError (s : State) (port : Nat) (f : BeatFlit) : Int × Nat :=
  let b := s.beatPlace port f
  let t := max s.threshold 1
  (((b.1 * t : Nat) : Int) - (((s.dialTime * t + s.dial.acc) * b.2 : Nat) : Int), b.2 * t)

/-- The error exceeds the lock limit (R55). -/
def State.offLock (s : State) (port : Nat) (f : BeatFlit) : Bool :=
  let e := s.phaseError port f
  decide (s.cfg.sundial.lockLimit * e.2 < e.1.natAbs)

/-- Base period of the step a beat belongs to: its cur_period has the step's grants in it (R51, R71, R426). -/
def State.basePeriod (s : State) (f : BeatFlit) : Nat := ceilDiv (f.curPeriod.toNat * 8) (8 + s.cfg.sundial.stretchQ * f.grants.toNat)

/-- First beat of a device that is not locked (R54): its place and its part of a position, and the base period of its step. The instances of the
dial that the device ran before end with it, so the rest of the step has no checks (DESIGN CHOICE, log entry 75). -/
def State.acquire (s : State) (port : Nat) (f : BeatFlit) : State :=
  let b := s.beatPlace port f
  let n := b.1 / b.2
  let base := s.basePeriod f
  s.onDial fun d => { d with
    locked := true, crossed := false, step := BitVec.ofNat 48 (n / 65536), pos := BitVec.ofNat 16 (n % 65536), periodNs := BitVec.ofNat 40 base
    acc := b.1 % b.2 * (base * (8 + s.cfg.sundial.stretchQ * f.grants.toNat)) / b.2, missed := 0, lossLogged := false
    instances := [] }

/-- R52–R55, R61, R71, R72, R426, R427, R466: the link die of a device that resets passes beats on. -/
def execBeat (port : Port) (f : BeatFlit) (s : State) : Out :=
  .next <|
    let ahead := (f.epoch - s.dial.rootEpoch).toNat
    if !s.portUp port.val then s
    else if !s.dialRuns then s.forwardBeat port.val f
    else if ahead ≥ 128 then s.onLogs fun l => { l with staleBeats := satAdd l.staleBeats 1 }
    else if s.dial.isRoot && ahead == 0 then s
    else
      let s := if ahead = 0 then s else
        (s.onDial fun d => { d with rootEpoch := f.epoch, rootCoord := BitVec.ofNat 12 (coordNum f.coord), isRoot := false
                                    waiting := [], held := [], nextPeriod := none }).onLogs fun l => { l with epochs := satAdd l.epochs 1 }
      let s := s.forwardBeat port.val f
      if !s.dial.locked then (s.acquire port.val f).adopt f
      else
        let fresh := (s.port port.val).lastNakNs.any fun t => decide (s.dial.ns < t + 2000)
        let err := s.phaseError port.val f
        if !fresh && s.offLock port.val f then
          let s := s.onDial fun d => { d with locked := false, missed := 0, heard := false }
          let s := s.onLogs fun l => { l with lockLost := satAdd l.lockLost 1 }
          (s.logDial 0x041 0 0 0 noName 0).haltAtBoundary 3
        else
          let s := if fresh then s else s.onDial fun d => { d with trim := Config.trimNext d.trim err.1 err.2 }
          (s.adopt f).settle

/-- R58, R73: the limit of missed beat intervals is reached, counted once. -/
def execBeatLost (s : State) : Out :=
  .next <|
    if s.dial.locked && !s.dial.isRoot && !s.dial.lossLogged && decide (s.cfg.sundial.beatLossLimit ≤ s.dial.missed) then
      let s := s.onLogs fun l => { l with beatsLost := satAdd l.beatsLost 1 }
      (s.logDial 0x042 0 0 0 noName 0).onDial fun d => { d with lossLogged := true }
    else s

/-- Which backup this device is (R59). -/
def State.backupNumber (s : State) : Option Nat :=
  ([1, 2, 3] : List Nat).find? fun k => (s.cfg.sundial.root k).2 && (s.cfg.sundial.root k).1 == coordNum s.coord

/-- R60, R73, R466. The new root begins its loop anew: no report and no request waits, calm counts from 0, reports of the step under way and earlier ones
predate it, and a period that the old root announced is not applied (DESIGN CHOICE, log entry 76). -/
def execRootTakeover (s : State) : Out :=
  .next <| match s.backupNumber with
  | none => s
  | some k =>
    if s.dial.locked && !s.dial.isRoot && decide (s.dial.missed ≥ k * s.cfg.sundial.beatLossLimit) then
      let s := s.onDial fun d => { d with
        rootEpoch := d.rootEpoch + 1, isRoot := true, rootCoord := BitVec.ofNat 12 (coordNum s.coord), missed := 0, heard := false
        reportMin := none, reportEarly := none, waiting := [], held := [], nextPeriod := none, calm := 0, settledFrom := d.step.toNat + 1 }
      (s.onLogs fun l => { l with epochs := satAdd l.epochs 1 }).logDial 0x043 0 0 0 noName 0
    else s

/-- R61, R70, R73, R428: the root takes the request; other devices pass it on along the tree. -/
def execStretchRequest (source : Coord) (entry : BitVec 10) (step : BitVec 48) (s : State) : Out :=
  .next <|
    if !s.dialRuns then s
    else if s.dial.isRoot then s.askRoot entry.toNat step.toNat
    else s.sendUp (treeUp 1 0 source entry.toNat step.toNat)

/-- Least of two reports. -/
def leastReport (a : Option Int) (b : Int) : Option Int := some (a.elim b fun x => min x b)

/-- R61, R74, R428: the minimum of reports for the step before; a report for the current step, from a device that has passed its boundary first, waits for
this device's own; one for another step, or one that reaches the root when the loop has run, is counted and discarded. -/
def execSlackReport (port : Port) (step : BitVec 48) (value : BitVec 16) (s : State) : Out :=
  .next <|
    if !s.dialRuns || !s.portUp port.val then s
    else if step = s.dial.step then s.onDial fun d => { d with reportEarly := leastReport d.reportEarly (signed value.toNat 16) }
    else if step.toNat + 1 ≠ s.dial.step.toNat || (s.dial.isRoot && decide (s.dial.pos.toNat ≥ 32768)) then
      s.onLogs fun l => { l with lateReports := satAdd l.lateReports 1 }
    else
      let s := s.onDial fun d => { d with reportMin := leastReport d.reportMin (signed value.toNat 16) }
      if s.dial.isRoot then s else s.sendUp (treeUp 0 (toField (s.dial.reportMin.getD 0) 16) ⟨0, 0, 0⟩ 0 step.toNat)

/-- Devices of the job. -/
def State.jobSize (s : State) : Nat := s.dims.1 * s.dims.2.1 * s.dims.2.2

/-- The root announces go once every device has reported (R374). -/
def State.countCompletion (s : State) : State :=
  let s := s.onTables fun t => { t with reports := t.reports + 1 }
  if s.tables.reports ≥ s.jobSize then s.onDial fun d => { d with go := true } else s

/-- R61, R374, R428: the root counts a report a device; others pass it on. -/
def execReshardCompletionReport (port : Port) (step : BitVec 48) (s : State) : Out :=
  .next <|
    if !s.dialRuns || !s.portUp port.val || step != s.dial.step then s
    else if s.dial.isRoot then s.countCompletion
    else s.sendUp (treeUp 2 0 ⟨0, 0, 0⟩ 0 step.toNat)

/-! ### SYNC_IN -/

/-- The root follows SYNC_IN (R79). -/
def State.syncConfigured (s : State) : Bool := s.dialRuns && s.cfg.sundial.extRef && s.dial.isRoot

/-- A missing edge (R79): 0x045, and the last period goes on, without what closed the offset. -/
def State.syncMissing (s : State) : State :=
  if s.dial.extRefActive then
    (s.onDial fun d => { d with extRefActive := false, nextPeriod := some (BitVec.ofNat 40 (d.syncPeriod.getD d.periodNs.toNat)) }).logDial
      0x045 0 0 0 noName 0
  else s

/-- R79, R502: an edge within the period limits gives the next period, and the offset of pos 0 from the edge closes by at most
1 % of the period a step; an edge outside them is missing. -/
def execSyncInEdge (interval : Nat) (s : State) : Out :=
  .next <|
    if !s.syncConfigured then s
    else
      let c := s.cfg.sundial
      let period := s.dial.syncPeriod.getD s.dial.periodNs.toNat
      let bad := decide (interval < field c.periodMin.toNat 0 40 ∨ field c.periodMax.toNat 0 40 < interval) ||
        decide (s.dial.extRefActive = true ∧ interval * 100 > period * 101)
      if bad then
        s.syncMissing
      else
        -- time from pos 0 to the edge: positive where the dial's step began before the edge
        let period := s.dial.periodNs.toNat
        let into := s.dial.pos.toNat * period / 65536
        let off : Int := if into * 2 ≤ period then (into : Int) else (into : Int) - (period : Int)
        let limit : Int := ((interval / 100 : Nat) : Int)
        let step : Int := max (-limit) (min limit off)
        s.onDial fun d => { d with
          extRefActive := true, syncOffset := off - step, syncPeriod := some interval, nextPeriod := some (BitVec.ofNat 40 ((interval : Int) + step).toNat) }

/-- R73, R79: no edge within 1 % of the period after it was expected. -/
def execSyncInLost (s : State) : Out :=
  .next <|
    if s.syncConfigured then s.syncMissing else s

end Sys2Proof.Machine
end

