-- ==== Sys2Proof/Machine/Tables.lean ====
section
/-! DEFINITION. Table rows where they stand (R157, R170), the row directory and hot-row migration (R177–R181), the Cooler
(R172–R176), Shard Map reload (R165), re-sharding (R182, R372–R375). -/

namespace Sys2Proof.Machine

/-! ### Rows -/

/-- The directory entry of a row. -/
def State.dirEntry (s : State) (table node : Nat) : Option DirEntry :=
  s.tables.directory.find? fun e => e.table == table && e.node == node

/-- Key of a row's home (R157, R162). -/
def homeKey (t : TableDesc) (b : Bool) (e : ShardEntry) (off : Nat) : Nat := memKey e.tier (off + t.versionShift b)

/-- Where a request for a row of this device resolves (R177): a live entry's location, or home; a demotion's row stays at the
entry's location until it flips. An entry names no version, so its location serves whichever version is asked for. DESIGN CHOICE: R177
keys entries by table and node only (log entry 68). -/
def State.rowKey (s : State) (t : TableDesc) (b : Bool) (node : Nat) (e : ShardEntry) (off : Nat) : Nat :=
  match (if t.migrate then s.dirEntry t.id node else none) with
  | some d => if d.state = .live ∨ d.demote then d.location else homeKey t b e off
  | none => homeKey t b e off

/-- Home of a row this device owns. -/
def State.ownRowHome (s : State) (t : TableDesc) (node : Nat) : Option (ShardEntry × Nat) :=
  match s.lookup t node with
  | .row o e off => if o = s.coord then some (e, off) else none
  | _ => none

/-- Where a row this device owns stands. -/
def State.ownRowKey (s : State) (t : TableDesc) (b : Bool) (node : Nat) : Option Nat :=
  (s.ownRowHome t node).map fun h => s.rowKey t b node h.1 h.2

/-- Values of a row of a table held as a number (R157: laid out as a dense row of R130). -/
def TableDesc.values (t : TableDesc) (row : Nat) : List Val := (List.range (t.cols + 1)).map (denseVal t.format (t.cols + 1) 0 row)

def TableDesc.encode (t : TableDesc) (vs : List Val) : List Byte :=
  leBytes (encodeRow t.format 0 rne vs) (rowSize t.format 0 (t.cols + 1))

/-- The default row's key on this device (R167). -/
def TableDesc.defaultKey (t : TableDesc) : Nat := memKey (field t.default 48 4) (field t.default 0 48)

/-- Count a substitution (R167). -/
def State.countDefault (s : State) (id : Nat) : State :=
  s.onTables fun x => { x with tables := modifyAt x.tables id fun t => { t with defaults := satAdd t.defaults 1 } }

/-- A remote read has no reply 4,096 positions on (R231, R522): it counts as a time-out of the region's (R248) and the micro-batch is
dropped. -/
def State.timeOut (s : State) (c : CtxId) : State :=
  let s := s.onGather fun g => { g with regions := modifyAt g.regions c.region.val fun r => { r with timeouts := satAdd r.timeouts 1 } }
  (s.dropFor c 0x0A1 0).settle

/-! ### Sketches and the Cooler -/

/-- Values of four counters. -/
def counter (l : List (Nat × Nat)) (i : Nat) : Nat := (lookupNat i l).getD 0
def fourOf (h : Nat × Nat × Nat × Nat) : List Nat := [h.1, h.2.1, h.2.2.1, h.2.2.2]

/-- Estimate: the smallest of the four (R174, R178). -/
def estimate (l : List (Nat × Nat)) (h : Nat × Nat × Nat × Nat) : Nat := (fourOf h).foldl (fun m i => min m (counter l i)) 15

/-- Those of the counters that equal the minimum rise by one, to 15 (R174). -/
def bump (l : List (Nat × Nat)) (h : Nat × Nat × Nat × Nat) : List (Nat × Nat) :=
  let m := estimate l h
  (fourOf h).eraseDups.foldl (fun l i => if counter l i = m ∧ m < 15 then insertKey i (m + 1) l else l) l

/-- Rows of a table in a 1 KiB slot (R172). -/
def TableDesc.slotRows (t : TableDesc) : Nat := 2 ^ Nat.log2 (1024 / t.rowBytes)

/-- Set of a row block (R173). -/
def coolerSet (table b : Nat) : Nat :=
  field b 0 11 ^^^ field b 11 11 ^^^ field b 22 11 ^^^ field b 33 7 ^^^ table

/-- The slot that holds a row block (R172). -/
def Cooler.tagged (c : Cooler) (t : TableDesc) (v : Bool) (node : Nat) : Option (Nat × CoolerSlot) :=
  let b := node / t.slotRows
  ((List.range 16).map fun w => coolerSet t.id b * 16 + w).findSome? fun k =>
    ((lookupNat k c.slots).filter fun x => x.table == t.id && x.version == v && x.block == b).map fun x => (k, x)

/-- Slot of a Cooler that holds a row. -/
def Cooler.slotOf (c : Cooler) (t : TableDesc) (v : Bool) (node : Nat) : Option Nat :=
  (c.tagged t v node).bind fun x => if x.2.valid.getLsbD (node % t.slotRows) then some x.1 else none

/-- The estimate of a row's block in a region's admission sketch (R174). -/
def Cooler.estimateOf (c : Cooler) (region : Nat) (t : TableDesc) (v : Bool) (node : Nat) : Nat :=
  estimate c.sketch (Config.admissionHash region t.id (bit v) (node / t.slotRows))

/-- A lookup (R174 items 1 and 4): a hit raises its slot's count, every lookup its block's sketch counters. -/
def Cooler.look (c : Cooler) (region : Nat) (t : TableDesc) (v : Bool) (node : Nat) : Cooler :=
  let hit := c.slotOf t v node
  { c with
    slots := hit.elim c.slots fun k => c.slots.map fun x => if x.1 = k then (k, { x.2 with count := satAdd x.2.count 1 }) else x
    sketch := bump c.sketch (Config.admissionHash region t.id (bit v) (node / t.slotRows))
    hits := c.hits + bit hit.isSome, lookups := c.lookups + 1 }

/-- A clean row read on a miss enters its slot, or is admitted where its block's estimate exceeds the victim's count (R174 items 2
and 3). -/
def Cooler.fill (c : Cooler) (t : TableDesc) (v : Bool) (node est : Nat) : Cooler :=
  let b := node / t.slotRows
  let row := 1#16 <<< (node % t.slotRows)
  match c.tagged t v node with
  | some (k, x) =>
    if x.valid.getLsbD (node % t.slotRows) then c
    else { c with slots := insertKey k { x with valid := x.valid ||| row, count := satAdd x.count 1 } c.slots }
  | none =>
    let ways := (List.range 16).map fun w => coolerSet t.id b * 16 + w
    let victim := (ways.find? fun k => (lookupNat k c.slots).isNone).orElse fun _ =>
      leastBy (fun k => ((lookupNat k c.slots).elim 0 fun x => x.count.toNat) * 16 + k % 16) ways
    match victim with
    | none => c
    | some k =>
      if ((lookupNat k c.slots).map fun x => x.count.toNat).any fun n => decide (est ≤ n) then c
      else { c with slots := insertKey k ⟨t.id, v, b, row, BitVec.ofNat 8 est⟩ c.slots }

/-- An uncorrectable error invalidates the slot that holds a row and counts (R175). -/
def Cooler.spoil (c : Cooler) (t : TableDesc) (v : Bool) (node : Nat) : Cooler :=
  match c.slotOf t v node with
  | some k => { c with slots := c.slots.filter (fun x => x.1 != k), ecc := satAdd c.ecc 1 }
  | none => c

/-- A step's end: slot counts and sketch counters halve (R175), and the step's hits and lookups become hit_frac (R186). DESIGN CHOICE:
0 where the step made no lookup (log entry 68). -/
def Cooler.halve (c : Cooler) : Cooler :=
  { c with slots := c.slots.map fun x => (x.1, { x.2 with count := x.2.count >>> 1 })
           sketch := (c.sketch.map fun x => (x.1, x.2 / 2)).filter fun x => x.2 != 0
           hitFrac := if c.lookups = 0 then 0 else fraction c.hits c.lookups
           hits := 0, lookups := 0 }

/-- Key of a row in a Cooler (R39, R172). -/
def coolerKey (region slot : Nat) (t : TableDesc) (node : Nat) : Nat :=
  memKey 4 (region * 2 ^ 30 + 10 * 2 ^ 26 + slot * 1024 + (node % t.slotRows) * t.rowBytes)

def State.cooler (s : State) (region : Nat) : Cooler := s.tables.coolers.getD region Cooler.reset
def State.onCooler (s : State) (region : Nat) (f : Cooler → Cooler) : State :=
  s.onTables fun x => { x with coolers := modifyAt x.coolers region f }

/-- Where the Coolers hold copies of a row (R176). -/
def State.coolerCopies (s : State) (t : TableDesc) (b : Bool) (node : Nat) : List Nat :=
  (List.range 4).filterMap fun r => ((s.cooler r).slotOf t b node).map fun k => coolerKey r k t node

/-- A row read on a miss is offered to a region's Cooler: a poisoned row or one of a version that is not live never enters (R175,
R176). A tag match whose row comes poisoned leaves the slot's count as it was. DESIGN CHOICE: R174 counts the fill (log entry 68). -/
def State.fillCooler (s : State) (region : Nat) (t : TableDesc) (v : Bool) (node est : Nat) (bytes : List Byte) (poisoned : Bool) : State :=
  if poisoned || v != s.liveVersion t.id then s else
  let s := s.onCooler region fun c => c.fill t v node est
  match (s.cooler region).slotOf t v node with
  | some k => s.store (coolerKey region k t node) bytes false
  | none => s

/-- Count a row served by its owner (R178), a row it serves to itself from its Cooler among them. DESIGN CHOICE: R178 counts the rows it
serves and excepts none (log entry 68). -/
def State.countServed (s : State) (t : TableDesc) (node : Nat) : State :=
  if t.migrate then s.onTables fun x => { x with ownerSketch := bump x.ownerSketch (Config.ownerHash t.id node) } else s

/-! ### Promotion -/

/-- Rows a promotion batch may choose from (R178), with their estimates. -/
def State.promotable (s : State) : List (Nat × TableDesc × Nat) :=
  s.cfg.tables.flatMap fun t =>
    if !t.migrate then [] else
    (s.layout.zipIdx.filter fun e => e.1.table == t.id).flatMap fun e =>
      (List.range (shardRange s.layout (t.nodes + 1) e.2)).filterMap fun i =>
        let node := e.1.first + i
        let est := estimate s.tables.ownerSketch (Config.ownerHash t.id node)
        if (s.ownRowHome t node).any (fun h => h.1.tier != 0) && (s.dirEntry t.id node).isNone &&
            !s.tables.waitingRows.contains (t.id, node) && decide (t.promote ≤ est) then
          some (est, t, node) else none

/-- The lowest free place of a row in hot_part: a multiple of 64 that no entry's row overlaps. -/
def State.hotPlace (s : State) (t : TableDesc) : Option Nat :=
  (s.cfg.partMap.parts[t.hotPart]?).bind fun p =>
    let used := s.tables.directory.filterMap fun d => (s.table d.table).map fun u => (d.location, u.rowBytes)
    let start := memKey p.tier p.start
    let tries := sortBy id (start :: used.map fun u => roundUp (u.1 + u.2) 64)
    tries.find? fun k => start ≤ k && k + t.rowBytes ≤ start + p.len && !used.any fun u => overlaps k t.rowBytes u.1 u.2

/-- Promote one row; where hot_part has no room the coldest entry is demoted first and the row waits for it (R178, R181). A row that finds
no directory entry or no entry to demote is not started, so it never counts as flipped or aborted. -/
def State.promote (s : State) (t : TableDesc) (node : Nat) : State :=
  if s.tables.directory.length ≥ 16384 then (s.onTables fun x => { x with dirFull := satAdd x.dirFull 1 }).countError 0x087
  else match s.hotPlace t with
    | some k => s.onTables fun x => { x with directory := x.directory ++ [⟨t.id, node, k, .copying, 0, [], false, false, false⟩] }
    | none =>
      let est (d : DirEntry) : Nat := estimate s.tables.ownerSketch (Config.ownerHash d.table d.node)
      match leastBy est (s.tables.directory.filter fun d => d.state == .live && !d.demote &&
          (s.table d.table).any fun u => u.hotPart == t.hotPart) with
      | some d => s.onTables fun x => { x with
          directory := x.directory.map fun y => if y.table = d.table ∧ y.node = d.node then { y with demote := true } else y
          waitingRows := x.waitingRows ++ [(t.id, node)] }
      | none => s

/-- The first row that waits for room, once a demotion has ended (R178). -/
def State.promoteWaiting (s : State) : State :=
  match s.tables.waitingRows with
  | [] => s
  | (id, node) :: rest =>
    let s := s.onTables fun x => { x with waitingRows := rest }
    (s.table id).elim s fun t => s.promote t node

/-- The promotion batch of a boundary (R178, R181, R343): up to 64 rows, by estimate, table, node. DESIGN CHOICE: the boundary's halving
of the owner sketch follows the choice (log entry 68). -/
def State.promotionBatch (s : State) : State :=
  let halved := fun s : State => s.onTables fun x => { x with
    ownerSketch := (x.ownerSketch.map fun y => (y.1, y.2 / 2)).filter fun y => y.2 != 0 }
  if !s.roleUp 3 then halved s else
  let room := 64 - s.migrating
  let rows := (sortBy (fun r : Nat × TableDesc × Nat => ((15 - r.1) * 256 + r.2.1.id) * 2 ^ 40 + r.2.2) s.promotable).take room
  let s := if rows.isEmpty then s else s.onTables fun x => { x with
    batch := rows.length, batchDone := 0, batchRows := rows.map fun r => (r.2.1.id, r.2.2) }
  halved (rows.foldl (fun s r => s.promote r.2.1 r.2.2) s)

/-- A row of the current promotion batch has flipped or aborted (R187). -/
def State.endBatchRow (s : State) (table node : Nat) : State :=
  if s.tables.batchRows.contains (table, node) then
    s.onTables fun x => { x with batchDone := x.batchDone + 1, batchRows := x.batchRows.filter (· != (table, node)) }
  else s

/-- R44, R178–R181: the copy's log is replayed and the entry flips, a demotion's entry goes, or the migration aborts; a demotion's end makes
room for the row that waits. -/
def execMigrationCopyComplete (table : BitVec 8) (node : BitVec 40) (s : State) : Out :=
  .next <| match s.dirEntry table.toNat node.toNat, s.table table.toNat with
  | some d, some t =>
    if d.state = .live ∧ !d.demote then s else
    match s.ownRowHome t node.toNat with
    | none => s
    | some h =>
      let home := homeKey t (s.liveVersion t.id) h.1 h.2
      let src := if d.demote then d.location else home
      let dst := if d.demote then home else d.location
      let mine (y : DirEntry) : Bool := y.table == d.table && y.node == d.node
      if d.overflow || s.rangePoisoned src t.rowBytes then
        -- an aborted promotion releases the entry; an aborted demotion leaves the row where it is
        let s := (s.onTables fun x => { x with
          directory := if d.demote then x.directory.map fun y => if mine y then { y with demote := false, log := [], overflow := false } else y
            else x.directory.filter fun y => !mine y
          aborted := satAdd x.aborted 1 }).logDevice 0x086 noName 0 (nodeDetail d.node d.table)
        if d.demote then s.promoteWaiting else s.endBatchRow d.table d.node
      else
        let s := s.store dst (s.bytesAt src t.rowBytes) false
        let s := (s.onTables fun x => { x with
          directory := if d.demote then x.directory.filter fun y => !mine y
            else x.directory.map fun y => if mine y then { y with state := .live, gen := y.gen + 1, log := [] } else y }).draw
        if d.demote then s.promoteWaiting else s.endBatchRow d.table d.node
  | _, _ => s

/-- R165, R343: a corrected bank error is counted; an uncorrectable one is logged and stalls the region until firmware has reloaded the
entry, at once or when role 3 has a core again. -/
def execShardMapReload (region : Region) (corrected : Bool) (s : State) : Out :=
  .next <|
    if !s.start.loaded then s else
    if corrected then s.onTables fun t => { t with bankCorrected := t.bankCorrected + 1 } else
    let s := s.onTables fun t => { t with
      ecc := satAdd t.ecc 1
      stalled := if s.roleUp 3 then t.stalled.filter (· != region) else t.stalled.filter (· != region) ++ [region] }
    s.logDevice 0x088 (engineName region.val 1) 0 0

/-! ### Re-sharding -/

/-- The layout of the pending bank (R164). -/
def State.pendingMap (s : State) : List ShardEntry := s.cfg.layouts.getD s.tables.pendingLayout.toNat []

/-- Devices that receive a row from this device (R182), from its entries under the two banks: every X replica of a range that becomes x_own.
Where an x_own range gets one owner, the replica at that owner's x sends. DESIGN CHOICE: the replicas' rows are equal (log entry 69). -/
def State.newOwners (s : State) (e pe : ShardEntry) : List Coord :=
  let at' (x : Nat) : Coord := ⟨BitVec.ofNat 4 x, BitVec.ofNat 4 pe.y, BitVec.ofNat 4 pe.z⟩
  let own := s.start.x.toNat
  (if !pe.xOwn then (if e.xOwn && own != pe.x then [] else [at' pe.x])
   else if e.xOwn then [at' own] else (List.range s.dims.1).map at').filter (· != s.coord)

/-- Bytes of a row that moves: where they stand here, how many, the new owner, tier and offset there. -/
structure MovedPiece where
  key   : Nat
  len   : Nat
  owner : Coord
  tier  : Nat
  off   : Nat
  deriving DecidableEq, Repr

/-- Rows this device hands over under the pending bank (R182), each with its entries and offsets under both. -/
def State.movedRows (s : State) : List (TableDesc × Nat × ShardEntry × Nat × ShardEntry × Nat) :=
  s.cfg.tables.flatMap fun t =>
    (s.layout.zipIdx.filter fun e => e.1.table == t.id).flatMap fun e =>
      (List.range (shardRange s.layout (t.nodes + 1) e.2)).filterMap fun i =>
        let node := e.1.first + i
        match s.ownRowHome t node, lookupIn s.pendingMap t s.coord node with
        | some (e, off), .row _ pe poff => if (s.newOwners e pe).isEmpty then none else some (t, node, e, off, pe, poff)
        | _, _ => none

/-- The pieces of a row, of every version of its table: the row, or for an adjacency table its offset entry and its edges. DESIGN CHOICE: an
adjacency row's edges move with it and keep their indices (log entry 69). -/
def State.movedPieces (s : State) (r : TableDesc × Nat × ShardEntry × Nat × ShardEntry × Nat) : List MovedPiece :=
  let (t, node, e, off, pe, poff) := r
  (s.newOwners e pe).flatMap fun o => (if t.versions then [false, true] else [false]).flatMap fun b =>
    let d := t.versionShift b
    if t.kind = 3 then
      let k := memKey e.tier (off + d)
      let first := 8 * field (s.numAt k 8) 0 40
      [⟨k, 8, o, pe.tier, poff + d⟩, ⟨memKey e.auxTier (e.aux + d + first), 8 * field (s.numAt k 8) 40 24, o, pe.auxTier, pe.aux + d + first⟩]
    else [⟨s.rowKey t b node e off, t.rowBytes, o, pe.tier, poff + d⟩]

/-- Lines of a piece at its new owner, by key. -/
def MovedPiece.lines (p : MovedPiece) : List Nat :=
  (List.range (ceilDiv (p.off % 64 + p.len) 64)).map fun i => memKey p.tier (p.off / 64 * 64 + 64 * i)

/-- A line at a new owner as the pieces fill it; a byte that no piece fills is zero (DESIGN CHOICE, log entry 69). -/
def State.movedLine (s : State) (ps : List MovedPiece) (owner : Coord) (line : Nat) : Flit :=
  BitVec.ofNat 512 (ofLe ((List.range 64).map fun j =>
    match ps.find? fun p => p.owner == owner && decide (memKey p.tier p.off ≤ line + j) && decide (line + j < memKey p.tier p.off + p.len) with
    | some p => BitVec.ofNat 8 (s.numAt (p.key + (line + j - memKey p.tier p.off)) 1)
    | none => 0))

/-- Copy pieces to their new owners (R182): a row of whole lines as one MEM_WRITE, adjacency entries line by line. -/
def State.sendPieces (s : State) (ps : List MovedPiece) : State :=
  let whole (p : MovedPiece) : Bool := p.off % 64 == 0 && p.len % 64 == 0 && decide (p.len ≤ 4096)
  let s := (ps.filter whole).foldl (fun s p =>
    if p.len = 0 then s else s.sendTo p.owner 0x03 4 0 0 (coordNum p.owner * 2 ^ 52 + memKey p.tier p.off) (flitsOf (s.bytesAt p.key p.len))) s
  let parts := ps.filter fun p => !whole p
  ((parts.flatMap fun p => p.lines.map fun l => (p.owner, l)).eraseDups).foldl (fun s x =>
    s.sendTo x.1 0x03 4 0 0 (coordNum x.1 * 2 ^ 52 + x.2) [s.movedLine parts x.1 x.2]) s

/-- This device's writes onto rows it has copied are replayed onto the copies (R179, R182): the pieces that a written range meets go again. -/
def State.replayMoves (s : State) (k n : Nat) : State :=
  if !(s.tables.reshardOn && s.tables.holdEnded) then s else
  s.sendPieces ((s.movedRows.flatMap s.movedPieces).filter fun p => overlaps k n p.key p.len)

/-- Bytes of a row the device owns are written, from byte `o` on: where it stands and in every Cooler slot that holds it (R176); the write is
logged while a migration copies the row (R179), and replayed onto a re-shard's copy (R182). -/
def State.storeRow (s : State) (t : TableDesc) (b : Bool) (node o : Nat) (bs : List Byte) (poisoned : Bool) : State :=
  match s.ownRowKey t b node with
  | none => s
  | some k =>
    let note (d : DirEntry) : DirEntry :=
      if d.table = t.id ∧ d.node = node ∧ (d.state ≠ .live ∨ d.demote) then
        if d.log.length < 2 then { d with log := d.log ++ [(o, bs)] } else { d with overflow := true }
      else d
    let s := ((s.onTables fun x => { x with directory := x.directory.map note }).store (k + o) bs poisoned).replayMoves (k + o) bs.length
    (s.coolerCopies t b node).foldl (fun s k => s.store (k + o) bs poisoned) s

/-- The old-layout reductions of the step have completed (R373). -/
def State.oldReductionsDone (s : State) : Bool :=
  s.slotCfg.ops.zipIdx.all fun o => match o.1.body with
    | .reduce _ 3 _ _ => s.wholeDone o.2 o.1
    | .optimize p =>
      if s.slotCfg.isKind p.target 2 || (s.slotCfg.tableOf s.cfg.tables p.target).isSome then s.wholeDone o.2 o.1 else true
    | _ => true

/-- R182, R373, R374: once the old-layout reductions are done, every row that moves is copied to its new owners as MEM_WRITE
packets. -/
def execReshardHoldEnd (s : State) : Out :=
  .next <|
    if !s.tables.reshardOn || s.tables.holdEnded || !s.oldReductionsDone then s else
    let rows := s.movedRows
    ((s.onTables fun t => { t with
      holdEnded := true, movesAll := rows.length, movesLeft := rows.length, moveProgress := 0 }).sendPieces
        (rows.flatMap s.movedPieces)).draw

/-- R182, R374: the last copy has flipped and been acknowledged; the completion report goes toward the root, which counts its
own. -/
def execReshardMoveComplete (s : State) : Out :=
  .next <|
    if !s.tables.reshardOn || !s.tables.holdEnded || s.tables.reshardDone then s else
    let s := s.onTables fun t => { t with reshardDone := true, movesLeft := 0, moveProgress := 0xFFFF }
    let s := s.noteCompletions
    if s.dial.isRoot then
      let s := s.onTables fun t => { t with reports := t.reports + 1 }
      if s.tables.reports ≥ s.dims.1 * s.dims.2.1 * s.dims.2.2 then s.onDial fun d => { d with go := true } else s
    else s.sendUp (treeUp 2 0 ⟨0, 0, 0⟩ 0 s.dial.step.toNat)

end Sys2Proof.Machine
end

