-- ==== Sys2Proof/Machine/Checkpoint.lean ====
section
/-! DEFINITION. Checkpoints (R443–R455, R470): the layout of a set, the schedule record and header, partner drains, copies to
local flash and the shared store, NVMe commands of a copy. Set k of a partner partition lies at k × Z. -/

namespace Sys2Proof.Machine

/-! ### Sets -/

/-- The recovery block of the selected slot (R445). -/
def State.recovery (s : State) : RecoveryBlock := s.slotCfg.recovery

/-- Z (R447). -/
def State.setZ (s : State) : Nat :=
  s.slotCfg.setSize s.cfg.tables s.cfg.layouts s.start.x.toNat s.start.y.toNat s.start.z.toNat

/-- Dense objects of a set (R447): operand, offset, size. -/
def State.denseAt (s : State) : List (Nat × Nat × Nat) :=
  (s.slotCfg.denseObjects.foldl (fun (a : List (Nat × Nat × Nat) × Nat) x => (a.1 ++ [(x.1, a.2, x.2)], a.2 + x.2))
    ([], 8192 + s.slotCfg.seedBytes)).1

/-- Where the table objects begin. -/
def State.tablesStart (s : State) : Nat := 8192 + s.slotCfg.seedBytes + (s.slotCfg.denseObjects.map (·.2)).sum

/-- Table objects of a set under a layout (R447): entry, rows, offset. -/
def State.tableAt (s : State) (l : List ShardEntry) : List (ShardEntry × Nat × Nat) :=
  ((tableObjects s.cfg.tables l s.start.x.toNat s.start.y.toNat s.start.z.toNat).foldl
    (fun (a : List (ShardEntry × Nat × Nat) × Nat) x => (a.1 ++ [(x.1, x.2.1, a.2)], a.2 + x.2.2)) ([], s.tablesStart)).1

/-- Offset of a table row in a set under the active layout. -/
def State.rowAt (s : State) (t : TableDesc) (node : Nat) : Option Nat :=
  (s.tableAt s.layout).findSome? fun x =>
    if x.1.table = t.id ∧ x.1.first ≤ node ∧ node < x.1.first + x.2.1 then some (x.2.2 + (node - x.1.first) * t.rowBytes) else none

/-- What a drain reads: the job slot and the weight version it took at its open position (R311). -/
def State.drainView (s : State) : State :=
  let x := s.target 0
  let s : State := { s with run := { s.run with slot := BitVec.ofNat 2 x.slot } }
  s.onTrain fun t => { t with versions := setAt t.versions x.slot (BitVec.ofNat 48 x.version) }

/-- Offset of a set in the partner partition. -/
def State.setBase (s : State) (set : Bool) : Nat := if set then s.setZ else 0

/-- The schedule record (R449), 4 KiB. -/
def State.scheduleRecord (s : State) : List Byte :=
  let d := s.dial
  let us := s.slotCfg.ops.zipIdx.filterMap fun o => if o.1.body.isOptimize then some (s.updateCount o.2) else none
  let g := s.cascade.gns
  padTo 4096 (padTo 512 (leBytes (pack ([(1, 4), (s.run.slot.toNat, 2), (s.weightVersion.toNat, 1), (bit s.run.block.isSome, 1),
    (d.rootEpoch.toNat, 8), (d.step.toNat, 48), (0, 16), (d.periodNs.toNat, 40), (s.tables.generation.toNat, 8),
    (s.tables.activeLayout.toNat, 3), (s.tables.pendingLayout.toNat, 3), (bit s.tables.pendingValid, 1), (bit g.avgSet, 1), (s.run.c, 11),
    (0, 45), (g.avg.toNat, 64), (s.weightVersion.toNat, 48), (0, 16), (s.jobPending, 256), (s.cursorReg 0, 256), (s.cursorReg 1, 256)] ++
    ((List.range 256).map fun t => (bit (s.liveVersion t), 1)) ++ [(s.resil.tagDevice.toNat, 8)] ++
    ((List.range 4).map fun r => ((s.resil.tagRegions.getD r 0).toNat, 8)) ++
    ((List.range 36).map fun b => ((s.blocks.getD b BlockState.reset).tag.toNat, 8)) ++
    ((List.range 2).map fun e => ((s.engine e).instances.toNat, 32)) ++ [(us.length, 9)])) 512) ++ us.flatMap fun u => leBytes u 8)

/-- A set header (R448) from its fields below crc: 64 bytes. -/
def headerBytes (v : Nat) : List Byte :=
  let b := leBytes (v % 2 ^ 480) 60
  b ++ leBytes (crc32 b).toNat 4

/-- A partner set's header (R448), padded to 4 KiB: loss and samples hold the Weir decision of the drain's step where it has one; a delivery
of n = 0 is none (R321). -/
def State.setHeader (s : State) (complete : Bool) : List Byte :=
  let x := s.target 0
  let lossValid := complete && s.train.decided && s.train.lastFlag != 3 && x.step == s.dial.step.toNat
  padTo 4096 (headerBytes (pack [(0x54534B43, 32), (1, 4), (bit complete, 1), (bit lossValid, 1), (bit s.cfg.sundial.det, 1), (bit x.set, 1),
    (0, 2), (0, 6), (x.step, 48), (x.version, 48), (s.tables.generation.toNat, 8),
    (s.tables.activeLayout.toNat, 3), (x.slot, 2), (0, 3), (s.cfg.header.jobId, 64), (s.start.fingerprint.toNat, 64),
    (if lossValid then s.train.weirLoss.toNat else 0, 64), (if lossValid then s.train.weirCount.toNat else 0, 32), (s.drainView.setZ, 48)]))

/-! ### Partner drains -/

/-- Key of the partner partition's first byte (role 6 of R385). -/
def State.partnerStart (s : State) : Nat := (s.partOf 6).elim 0 fun p => memKey p.2.tier p.2.start

/-- Send a one-hop packet over a port that is up (R420). -/
def State.sendHop (s : State) (port : Nat) (dest : Coord) (type vc rest : Nat) (data : List Flit) : State :=
  if s.portUp port then s.sendPacket port ⟨BitVec.ofNat 3 vc, headerFlit (torusWord0 type vc data.length dest s.coord 0 0) rest :: data⟩
  else s

/-- The + and − neighbours on X. -/
def State.xNeighbour (s : State) (plus : Bool) : Coord :=
  let n := s.dims.1
  withAxis s.coord 0 ((s.start.x.toNat + (if plus then 1 else n - 1)) % n)

/-- The final header is acknowledged (R450, R451): the instance ends; a covering one leaves a complete set. -/
def State.finishDrain (s : State) : State :=
  let s := s.onTarget 0 fun x =>
    { x with active := false, progress := 0xFFFF
             complete := setAt x.complete (bit x.set) (if x.covering then some x.step else none)
             zeroed := setAt x.zeroed (bit x.set) (!x.covering)
             completed := if x.covering then x.completed + 1 else x.completed }
  s

/-- A part is acknowledged (R443, R451): its row becomes clean unless it was marked dirty after it was read. -/
def State.ackPart (s : State) (p : DrainPart) : State :=
  let s := s.onTarget 0 fun x => { x with acked := x.acked + p.bytes, ackSeen := true, progress := fraction (x.acked + p.bytes) x.size }
  let set := (s.target 0).set
  let s := match p.row with
    | some r => s.onResil fun x => { x with rows := x.rows.filter fun m =>
        !(m.target == 0 && m.set == set && m.table == r.1 && m.node == r.2 && m.sent) }
    | none => s
  if p.header then s.finishDrain else s

/-- Send bytes to an offset of the partner partition, in DRAIN packets of up to 64 flits; with shape_a = 0 they are written here,
and the write's completion stands for DRAIN_ACK (R443). `poison` marks poisoned lines. -/
def State.drainBytes (s : State) (off : Nat) (bs : List Byte) (poison : Nat → Bool) (row : Option (Nat × Nat)) (header : Bool) : State :=
  (List.range (ceilDiv bs.length 4096)).foldl (fun s i =>
    let part := (bs.drop (4096 * i)).take 4096
    let lines := ceilDiv part.length 64
    let last := decide (4096 * (i + 1) ≥ bs.length)
    let p : DrainPart := ⟨off + 4096 * i + part.length, part.length, if last then row else none, header && last⟩
    let s := s.onTarget 0 fun x => { x with sent := x.sent + part.length }
    if s.cfg.header.shapeA = 0 then
      ((List.range lines).foldl (fun s l =>
        s.store (s.partnerStart + off + 4096 * i + 64 * l) ((part.drop (64 * l)).take 64) (poison (64 * i + l))) s).ackPart p
    else
      let map := pack ((List.range lines).map fun l => (bit (poison (64 * i + l)), 1))
      let s := s.sendHop (s.axisPort 0 true) (s.xNeighbour true) 0x11 7
        (pack [(off + 4096 * i, 48), ((s.target 0).step, 16), (map, 64)]) (flitsOf part)
      s.onTarget 0 fun x => { x with unacked := x.unacked ++ [p] }) s

/-- Rows of w's map to send, in ascending table and node (R451). -/
def State.rowsToDrain (s : State) : List RowMark :=
  (sortBy (fun m : RowMark => m.table * 2 ^ 40 + m.node) (s.dirtyRows 0 (s.target 0).set)).take ((s.recovery.partnerRows + 1) * 1024)

/-- Bytes of the accepted seed block's ring row (R142, R143). -/
def State.seedRow (s : State) : List Byte :=
  match s.slotCfg.ring.bind fun r => (s.operand r).map fun x => (r, x) with
  | some (r, x) =>
    match s.run.block with
    | some b => leBytes (s.placeNum (s.rowPlace none 0 r x b.row) (s.slotCfg.rowStride r x)) (s.slotCfg.rowStride r x)
    | none => []
  | none => []

/-- Memory key of a place, where it is this device's. -/
def Place.key : Place → Nat
  | .own k => k
  | .remote _ => 0

/-- One row of a table: it is read, marked sent and sent. -/
def State.drainRow (s : State) (base : Nat) (m : RowMark) : State :=
  match s.table m.table with
  | none => s
  | some t =>
    match s.ownRowKey t (s.liveVersion t.id) m.node, s.drainView.rowAt t m.node with
    | some k, some off =>
      let s := s.onResil fun r => { r with rows := r.rows.map fun y => if y = m then { y with sent := true } else y }
      (s.noteReads k t.rowBytes (engineName 0 98)).drainBytes (base + off) (s.bytesAt k t.rowBytes) (fun l => s.memory.mem.poisoned (k + 64 * l)) (some (t.id, m.node)) false
    | _, _ => s

/-- Steps 1 to 3 of R450. -/
def State.drainBody (s : State) : State :=
  let x := s.target 0
  let v := s.drainView
  let base := v.setBase x.set
  let zero := !x.zeroed.getD (bit x.set) false
  let rows := s.rowsToDrain
  let dense := v.denseAt
  let rowLen (m : RowMark) : Nat := (s.table m.table).elim 0 (·.rowBytes)
  let size := (if zero then 4096 else 0) + 4096 + v.slotCfg.seedBytes + (dense.map (·.2.2)).sum + (rows.map rowLen).sum + 4096
  let s := s.onTarget 0 fun x => { x with size := size, bodySent := true, complete := setAt x.complete (bit x.set) none
                                          zeroed := setAt x.zeroed (bit x.set) true }
  let clean : Nat → Bool := fun _ => false
  let s := if zero then s.drainBytes base (s.setHeader false) clean none false else s
  let s := s.drainBytes (base + 4096) (padTo 4096 s.resil.capture) clean none false
  let s := s.drainBytes (base + 8192) (padTo v.slotCfg.seedBytes v.seedRow) clean none false
  let s := dense.foldl (fun s d =>
    match v.operand d.1 with
    | some o =>
      let k := (v.operandBase none x.version d.1 o).key
      (s.noteReads k (o.m * o.rowBytes) (engineName 0 98)).drainBytes (base + d.2.1) (padTo d.2.2 (s.bytesAt k (o.m * o.rowBytes))) (fun l => s.memory.mem.poisoned (k + 64 * l)) none false
    | none => s) s
  let s := rows.foldl (fun s m => s.drainRow base m) s
  s.onTarget 0 fun x => { x with covering := (s.dirtyRows 0 x.set).isEmpty }

/-- Step 4 of R450, once the step's Weir decision is made. -/
def State.drainHeader (s : State) : State :=
  let x := s.target 0
  if x.headerSent || !(s.train.decided || s.weirEntry.isNone || x.step != s.dial.step.toNat) then s else
  let s := s.onTarget 0 fun x => { x with headerSent := true }
  s.drainBytes (s.drainView.setBase x.set) (s.setHeader x.covering) (fun _ => false) none true

/-- R44, R343, R443, R444, R447, R448, R450, R451. -/
def execCheckpointDrain (s : State) : Out :=
  .next <|
    if !(s.target 0).active then s
    else if (s.target 0).bodySent then s.drainHeader.settle
    else if !s.roleUp 6 || s.memory.stepFault then s
    else (s.drainBody.drainHeader.draw).settle

/-- R397, R425, R443: bytes from the −X neighbour go into the partner partition, and the acknowledgement says that every byte
below its offset is written. -/
def execDrain (offset : BitVec 48) (stepLo : BitVec 16) (poison : Word) (data : List Flit) (s : State) : Out :=
  .next <|
    match s.partOf 6 with
    | none => s
    | some p =>
      let n := 64 * data.length
      if !s.start.loaded || offset.toNat % 64 ≠ 0 || offset.toNat + n > p.2.len then s else
      let s := data.zipIdx.foldl (fun s f =>
        s.store (memKey p.2.tier (p.2.start + offset.toNat + 64 * f.2)) (flitBytes f.1) (poison.getLsbD f.2)) s
      s.sendHop (s.axisPort 0 false) (s.xNeighbour false) 0x12 6 (pack [(offset.toNat + n, 48), (stepLo.toNat, 16)]) []

/-- Leading parts that an offset acknowledges: through the first that ends there, else those that end at or below it. -/
def ackedParts (ps : List DrainPart) (offset : Nat) : Nat :=
  match ps.findIdx? fun p => p.after == offset with
  | some i => i + 1
  | none => (ps.takeWhile fun p => decide (p.after ≤ offset)).length

/-- R44, R425, R443, R450, R451. -/
def execDrainAck (offset : BitVec 48) (stepLo : BitVec 16) (s : State) : Out :=
  .next <|
    let x := s.target 0
    if !x.active || BitVec.ofNat 16 x.step != stepLo then s else
    let n := ackedParts x.unacked offset.toNat
    let s := s.onTarget 0 fun y => { y with unacked := y.unacked.drop n }
    ((x.unacked.take n).foldl (fun s p => s.ackPart p) s).settle

/-! ### Copies -/

/-- MiB a copy instance of a target copies (R445). -/
def State.copyChunk (s : State) (t : Nat) : Nat :=
  ((if t = 1 then s.recovery.flashMib else s.recovery.storeMib) + 1) * 2 ^ 20

/-- The copy pins a set (R453): the one another copy holds, else the newest complete partner set. -/
def State.beginCopy (s : State) (t : Nat) : State :=
  let p := s.target 0
  let pick := if p.pinned then (p.complete.getD (bit p.pinSet) none).map fun n => (p.pinSet, n) else p.newest
  match pick with
  | none => s
  | some (set, step) =>
    let s := s.onTarget 0 fun x => { x with pinned := true, pinSet := set }
    s.onTarget t fun x => { x with copying := true, set := x.next, step := step, copyPos := 0, copyEnd := 0, sent := 0, acked := 0
                                   progress := 0, unacked := [] }

/-- Object number of a set on the shared store (R455). -/
def objectNumber (step : Nat) (set : Bool) : Nat := step % 2 ^ 31 * 2 + bit set

/-- Block of a set's byte in the checkpoint area of local flash (R454): set k starts at lba_base + k × ⌈Z ÷ 4,096⌉. -/
def State.areaLba (s : State) (set : Bool) (off : Nat) : Nat := s.recovery.lbaBase + bit set * ceilDiv s.setZ 4096 + off / 4096

/-- Send bytes of a copy at an offset of the set: NVMe Writes, or CKPT_DATA packets on the Hokuano port. -/
def State.copyBytes (s : State) (t off : Nat) (bs : List Byte) (header : Bool) : State :=
  if t = 1 then
    let lba := s.areaLba (s.target 1).set off
    s.onResil fun r => { r with nvme := r.nvme ++ (if header then [.flush, .header lba] else [.write lba bs.length]) }
  else
    let x := s.target t
    (List.range (ceilDiv bs.length 4096)).foldl (fun s i =>
      let part := (bs.drop (4096 * i)).take 4096
      let data := flitsOf part
      let rest := pack [(off + 4096 * i, 48), (0, 48), (objectNumber x.step x.set, 32)]
      let w0 := pack [(1, 4), (0x38, 6), (1, 3), (0, 3), (data.length, 7)]
      let s := s.sendPacket 6 ⟨1, headerFlit w0 rest :: data⟩
      let p : DrainPart := ⟨(s.target t).sent + part.length, part.length, none, header && decide (4096 * (i + 1) ≥ bs.length)⟩
      s.onTarget t fun y => { y with sent := y.sent + part.length, unacked := y.unacked ++ [p] }) s

/-- A pinned header with the target's own target, set and complete fields (R453). -/
def reheader (page : List Byte) (t : Nat) (set complete : Bool) : List Byte :=
  let v := ofLe (page.take 60)
  let kept := v - v % 2 ^ 42 + v % 2 ^ 36 + 2 ^ 36 * (bit complete) + 2 ^ 37 * field v 37 2 + 2 ^ 39 * bit set + 2 ^ 40 * t
  padTo 4096 (headerBytes kept)

/-- One instance of a copy (R453): the next bytes of the pinned set; the set's first page goes out with complete = 0, and the last
instance writes the header. -/
def State.copyPart (s : State) (t : Nat) (page bs : List Byte) : State :=
  let x := s.target t
  let z := s.setZ
  let stop := min (x.copyPos + s.copyChunk t) z
  let zero := !x.zeroed.getD (bit x.set) false || t == 2
  let s := s.onTarget t fun y => { y with copyEnd := stop, bodySent := true, complete := setAt y.complete (bit y.set) none
                                          zeroed := setAt y.zeroed (bit y.set) true }
  let s := if x.copyPos = 0 ∧ zero then s.copyBytes t 0 (reheader page t x.set false) false else s
  let skip := if x.copyPos = 0 then 4096 else 0
  let s := if x.copyPos + skip < stop then s.copyBytes t (x.copyPos + skip) (bs.drop skip) false else s
  if stop = z then (s.onTarget t fun y => { y with headerSent := true }).copyBytes t 0 (reheader page t x.set true) true else s

/-- The instance's bytes have reached the target (R63, R453, R470). -/
def State.copyDone (s : State) (t : Nat) : State :=
  let x := s.target t
  let s := s.onTarget t fun y => { y with active := false, copyPos := y.copyEnd, progress := fraction y.copyEnd s.setZ }
  if x.headerSent then
    (s.onTarget t fun y => { y with complete := setAt y.complete (bit y.set) (some y.step), zeroed := setAt y.zeroed (bit y.set) false
                                    completed := y.completed + 1 }).endCopy t 0
  else s

/-- R343, R443, R453–R455: `data` is what MEM_READs of the +X neighbour brought, the header page of the pinned set and then the
instance's bytes; with shape_a = 0 they are read here. With no complete partner set there is nothing to copy, and the instance
is complete. -/
def execCheckpointCopy (target : BitVec 2) (data : List Byte) (s : State) : Out :=
  .next <|
    let t := target.toNat
    if (t ≠ 1 ∧ t ≠ 2) || !(s.target t).active || (s.target t).bodySent || !s.roleUp 6 || s.memory.stepFault then s else
    let s := if (s.target t).copying then s else s.beginCopy t
    if !(s.target t).copying then (s.onTarget t fun x => { x with active := false }).settle else
    let n := min (s.copyChunk t) (s.setZ - (s.target t).copyPos)
    let k := s.partnerStart + s.setBase (s.target 0).pinSet
    let own := s.cfg.header.shapeA = 0
    let page := if own then s.bytesAt k 4096 else padTo 4096 (data.take 4096)
    let bs := if own then s.bytesAt (k + (s.target t).copyPos) n else padTo n ((data.drop 4096).take n)
    (s.copyPart t page bs).draw

/-- An acknowledgement from the shared store (R455): the parts it covers, and the instance when none is left. -/
def State.ackStore (s : State) (bytes object : Nat) : State :=
  let x := s.target 2
  if !x.copying || object != objectNumber x.step x.set then s else
  let n := (x.unacked.takeWhile fun p => decide (p.after ≤ bytes)).length
  let s := s.onTarget 2 fun y => { y with acked := max y.acked bytes, ackSeen := true, unacked := y.unacked.drop n }
  let y := s.target 2
  if y.active && y.bodySent && y.unacked.isEmpty then s.copyDone 2 else s

end Sys2Proof.Machine
end

