-- ==== Sys2Proof/Machine/Hokuano.lean ====
section
/-! DEFINITION. Checks of Hokuano requests (R439), WRITE, READ and ATTEST (R37, R38, R99, R171, R243, R437–R440, R504–R506). -/

namespace Sys2Proof.Machine

/-- The device answers the host: the Hokuano port is up, in a start that reached ready or in refusal mode (R113). -/
def State.hkUp (s : State) : Bool :=
  (s.port 6).state == 2 && s.start.begun && (s.start.state == 1 || s.start.refused)

/-- A packet that is a completion with a tag. -/
def completes (tag : BitVec 8) (k : Packet) : Bool :=
  match k.flits with
  | f :: _ => field f.toNat 4 6 == 0x3F && field f.toNat 24 8 == tag.toNat
  | [] => false

/-- Header of a request held for its role. -/
def headerOf : Instr → Option HkHeader
  | .select h _ => some h
  | .start h _ => some h
  | .pause h _ => some h
  | .stop h _ => some h
  | .eval h _ => some h
  | .ckpt h _ => some h
  | .attest h _ => some h
  | .stageOpen h => some h
  | .stageWrite h _ _ => some h
  | .stageCommit h => some h
  | .stageDiscard h => some h
  | _ => none

/-- A request with the tag waits for its completion (R439). -/
def State.tagBusy (s : State) (tag : BitVec 8) : Bool :=
  s.links.requests.any (fun r => r.tag == tag) || (s.port 6).queues.any (completes tag) ||
    s.staging.commitTag == some tag || s.staging.busy.any (fun w => w.tag == some tag) ||
    s.links.held.any fun h => (headerOf h.1).any fun x => x.tag == tag

/-- Faults of word 0 and of the reserved bits of words 1–7 (R414, R437, R439), at their bits. -/
def hkHeaderFaults (h : HkHeader) (busy flitsOk refused : Bool) : List (Nat × Nat) :=
  faultIf (h.gen != 1) 0 0x004 ++ faultIf refused 4 0x062 ++ rsvdFault (h.rsv13.toNat * 2 ^ 13) 13 3 ++
    faultIf (!flitsOk) 16 0x108 ++ faultIf h.rsv23 23 0x001 ++ faultIf busy 24 0x109 ++ rsvdFault (h.code.toNat * 2 ^ 32) 32 12 ++
    rsvdFault (h.rsv44.toNat * 2 ^ 44) 44 20 ++ (h.rest.elim [] fun p => [(p, 0x001)])

/-- Answer a request (R439): lost framing retrains the port, a fault is its completion, otherwise `act` answers it. `inRefusal`
says whether the request is answered in refusal mode (R113). -/
def State.request (s : State) (h : HkHeader) (inRefusal flitsOk : Bool) (fs : List (Nat × Nat)) (act : State → State) : State :=
  if !s.hkUp then s
  else if h.flits.toNat > 64 then s.linkProtocol 6
  else
    match firstFault (hkHeaderFaults h (s.tagBusy h.tag) flitsOk (s.start.refused && !inRefusal) ++ fs) with
    | some code => s.complete h code
    | none => act s

/-- Tier 0x4 or tier 0x5 line by line, or the range of a tier of this device, against an access of `lines` lines. -/
def State.rangeFaults (s : State) (a lines : Nat) : List (Nat × Nat) :=
  let tier := field a 48 4
  let off := field a 0 48
  let own := decide (field a 52 12 = s.start.z.toNat + 16 * s.start.y.toNat + 256 * s.start.x.toNat)
  let limit := if own then s.caps.of tier else maxCaps.of tier
  if tier = 4 then ((List.range lines).drop 1).flatMap fun i => windowFaults s.unitMap (off + 64 * i)
  else if tier = 5 then faultIf ((List.range lines).any fun i => (statusRowAt (off + 64 * i)).isNone) 0 0x012
  else faultIf (tier < 4 && !(tier == 3 && s.cfg.nvme) && off + 64 * lines > limit) 0 0x012

/-- Faults of a request's address at bit 64 (R37–R39, R439, R505). -/
def State.hkAddrFaults (s : State) (addr : Word) (lines : Nat) : List (Nat × Nat) :=
  let a := addr.toNat
  let fs := addressFaults s.cfg.header s.start.x.toNat s.start.y.toNat s.start.z.toNat s.cfg.nvme maxCaps s.unitMap a
  faultIf (a % 64 != 0) 64 0x108 ++ shiftFaults 64 (fs ++ s.rangeFaults a lines)

/-- Coordinate of a global address (R34). -/
def coordOf (a : Nat) : Coord := ⟨BitVec.ofNat 4 (field a 60 4), BitVec.ofNat 4 (field a 56 4), BitVec.ofNat 4 (field a 52 4)⟩

/-- The attestation report (R99). -/
def State.attestReport (s : State) (nonce : BitVec 256) : List Byte :=
  let t := s.start
  let body := leBytes (pack [(1, 4), (bit t.rpmcPresent, 1), (bit t.slot, 1), (bit t.refused, 1), (0, 9), (t.signer.toNat, 8), (0, 40),
    (t.imageSv.toNat, 32), (if t.rpmcPresent then s.flash.rpmcValue.toNat else 0, 32), (t.startCount.toNat, 32),
    (t.ownerId.toNat, 32), (nonce.toNat, 256), (t.identityKey.toNat, 256), (ofLe t.imageDigest, 512),
    (ofLe (sha512 (t.records.flatMap JournalRecord.bytes)), 512), (0, 320)]) 256
  body ++ leBytes (Config.ed25519Sign t.seed (sha512 body)).toNat 64

/-- Hold a request until its role has a core again (R343). -/
def State.hold (s : State) (c : Instr) : State :=
  { s with links := { s.links with held := s.links.held ++ [(c, s.dial.step.toNat)] } }

/-- ATTEST's answer: five data flits. -/
def State.answerAttest (s : State) (h : HkHeader) (nonce : BitVec 256) : State :=
  s.sendCompletion h.tag 0 0 (flitsOf (s.attestReport nonce))

/-- R99, R343: answered in the ready state, while running and in refusal mode; held while role 1 has no core. -/
def execAttest (h : HkHeader) (nonce : BitVec 256) (s : State) : Out :=
  .next <| s.request h true (h.flits == 0) [] fun s =>
    if s.start.refused || s.roleUp 1 then s.answerAttest h nonce else s.hold (.attest h nonce)

/-- A remote access: its tag waits for the target's answer (R440). -/
def State.forward (s : State) (r : HkRequest) (type vc rest : Nat) (data : List Flit) : State :=
  ({ s with links := { s.links with requests := s.links.requests ++ [r] } }).sendTo r.target type vc 0 0 rest data

/-- 64 bytes of memory from a key as a flit. -/
def State.lineAt (s : State) (k : Nat) : Flit := BitVec.ofNat 512 (s.numAt k 64)

/-- Lines of this device for a READ or MEM_READ: data, and the poison map (R397, R440). -/
def State.readLines (s : State) (tier off lines : Nat) : List Flit × Nat :=
  let at' (i : Nat) : Nat := off + 64 * i
  if tier = 5 then ((List.range lines).map fun i => BitVec.ofNat 512 (s.statusLine (at' i)), 0)
  else ((List.range lines).map fun i => s.lineAt (memKey tier (at' i)),
    pack ((List.range lines).map fun i => (bit (s.memory.mem.poisoned (memKey tier (at' i))), 1)))

end Sys2Proof.Machine
end

