-- ==== Sys2Proof/Machine/Restore.lean ====
section
/-! DEFINITION. Restores (R456–R460, R471), NVMe completions (R454), checkpoint objects of the host (R438, R455, R457), generation
tags (R32, R457), the replay check (R458). -/

namespace Sys2Proof.Machine

/-! ### Generation tags -/

/-- Engines with a tag, as records name them (R511): region × 1,024 + number for a region's engines, 8,192 + 17 × block + number for
cells. -/
def engineKeys : List Nat :=
  (List.range 4).flatMap (fun r => ([0, 1, 2, 3, 4, 5] ++ (List.range 9).map (· + 16)).map fun n => r * 1024 + n) ++
    (List.range 26).map (· + 64) ++ [90, 91, 96, 97, 98] ++ (List.range 7).map (· + 112) ++ (List.range 612).map (· + 8192)

/-- Advance the tags of engines. -/
def State.advanceEngines (s : State) (ks : List Nat) : State :=
  s.onResil fun r => { r with tagEngines := ks.foldl (fun ts k => insertKey k (((lookupNat k ts).getD 0) + 1) ts) r.tagEngines }

/-! ### Reading the source -/

/-- The slot has a range of a kind 2 table with x_own = 1 (R459). -/
def State.xOwnRange (s : State) : Bool :=
  s.cfg.layouts.any fun l => l.any fun e => e.xOwn && (findTable s.cfg.tables e.table).any fun t => t.kind == 2

/-- Bytes of a set gathered so far. -/
def RestoreState.bytes (r : RestoreState) (off n : Nat) : List Byte := (List.range n).map fun i => (lookupNat (off + i) r.data).getD 0
def RestoreState.num (r : RestoreState) (off n : Nat) : Nat := ofLe (r.bytes off n)

/-! ### Loading a set -/

/-- Store the bytes of the set that have come, poisoned where they came so. -/
def State.loadSpan (s : State) (off n key : Nat) : State :=
  let r := s.resil.restore
  (List.range (ceilDiv n 64)).foldl (fun s l =>
    if (lookupNat (off + 64 * l) r.data).isNone then s else
    s.store (key + 64 * l) (r.bytes (off + 64 * l) (min 64 (n - 64 * l))) (r.poison.contains ((off + 64 * l) / 64))) s

/-- Dense objects into the buffer of one parity. -/
def State.loadDense (s : State) (bufferB : Bool) : State :=
  s.denseAt.foldl (fun s d =>
    match s.operand d.1 with
    | some x => s.loadSpan d.2.1 (x.m * x.rowBytes) (s.operandBase none (bit bufferB) d.1 x).key
    | none => s) s

/-- Table rows into the locations they resolve to under the active layout. -/
def State.loadRows (s : State) : State :=
  (s.tableAt s.layout).foldl (fun s x =>
    match s.table x.1.table with
    | none => s
    | some t => (List.range x.2.1).foldl (fun s i =>
        match s.ownRowKey t (s.liveVersion t.id) (x.1.first + i) with
        | some k => s.loadSpan (x.2.2 + i * t.rowBytes) t.rowBytes k
        | none => s) s) s

/-- A restore fails (R457, R459): memory is left partly written, with the bytes that had come; a rejoin that had begun its step leaves the
device selected. DESIGN CHOICE: which bytes, no rule says (log entry 82). -/
def State.failRestore (s : State) (code : Nat) : State :=
  let r := s.resil.restore
  let bufferB := if r.rejoin then (match r.stage with | .dense b => b | _ => r.denseFrom.getD false) else r.data.any fun c => c.1 == 4096 && c.2.getLsbD 6
  let s := (s.loadDense bufferB).loadRows
  let s := s.onRestore fun r => { r with phase := 5, code := BitVec.ofNat 12 code, stage := .idle, armed := false, data := [], poison := [] }
  s.logDevice code noName 0 0

/-- Dense content of a set, row bytes without padding: offset, length. -/
def State.denseSpans (s : State) : List (Nat × Nat) :=
  s.denseAt.filterMap fun d => (s.operand d.1).map fun x => (d.2.1, x.m * x.rowBytes)

/-- Offset of the n-th byte of a list of spans. -/
def spanAt : List (Nat × Nat) → Nat → Nat
  | [], n => n
  | (o, l) :: r, n => if n < l then o + n else spanAt r (n - l)

/-- Where the next byte of a stage is placed among the bytes gathered: a set's own offsets; headers and status above them. -/
def State.placeAt (s : State) (n : Nat) : Nat :=
  match s.resil.restore.stage with
  | .headers => 2 ^ 50 + n
  | .body => if s.resil.restore.rejoin then s.tablesStart + n else n
  | .poll => 2 ^ 51 + n
  | .dense _ => spanAt s.denseSpans n
  | .status => 2 ^ 52 + n
  | .idle => n

/-- Place bytes (R457, R471): progress counts those of the set, for a rejoin those of all its stages. -/
def State.placeBytes (s : State) (bs : List Byte) (poisoned : Nat → Bool) : State :=
  let at0 := s.resil.restore.got
  let cells := bs.zipIdx.map fun b => (s.placeAt (at0 + b.2), b.1)
  let lines := ((List.range (ceilDiv bs.length 64)).filter poisoned).map fun l => s.placeAt (at0 + 64 * l) / 64
  s.onRestore fun r => { r with
    data := cells.foldl (fun d c => insertKey c.1 c.2 d) r.data, poison := r.poison ++ lines, got := r.got + bs.length
    progress := match r.stage with
      | .body => fraction (r.before + r.got + bs.length) r.total
      | .dense _ => fraction (r.before + r.got + bs.length) r.total
      | .status => fraction (r.before + r.got + bs.length) r.total
      | _ => r.progress }

/-- Read lines of the +X neighbour by MEM_READ packets of up to 64 lines (R425, R457). -/
def State.askLines (s : State) (tier off lines : Nat) : State :=
  (List.range (ceilDiv lines 64)).foldl (fun s i =>
    let n := min 64 (lines - 64 * i)
    let a := coordNum (s.xNeighbour true) * 2 ^ 52 + tier * 2 ^ 48 + off + 4096 * i
    s.sendTo (s.xNeighbour true) 0x04 0 0 0 (pack [(a, 64), (n - 1, 6), (0, 2), (0, 8)]) []) s

/-- Begin a stage that awaits bytes. -/
def State.await (s : State) (g : RestoreStage) (n : Nat) : State :=
  s.onRestore fun r => { r with stage := g, got := 0, wanted := n }

/-- Lines of the neighbour's status a rejoin reads at pos 0 of step S (R459). -/
def State.rejoinLines (s : State) : Nat := ceilDiv (8 * s.slotCfg.ops.length) 64

/-- The reading of a set's bytes begins, whose progress counts them, and for a rejoin the dense operands' and the status lines' (R23, R471). -/
def State.awaitBody (s : State) (n : Nat) : State :=
  let more := if s.resil.restore.rejoin then (s.denseSpans.map (·.2)).sum + 64 * (36 + s.rejoinLines) else 0
  (s.await .body n).onRestore fun r => { r with before := 0, total := n + more }

/-- A later stage of a rejoin: the bytes that still follow it are `after`. -/
def State.awaitNext (s : State) (g : RestoreStage) (n after : Nat) : State :=
  (s.await g n).onRestore fun r => { r with before := r.total - (n + after) }

/-- Lines of the partner partition: read here with shape_a = 0 (R443), else asked of the +X neighbour. -/
def State.readPartner (s : State) (off n : Nat) : State :=
  if s.cfg.header.shapeA = 0 then
    let k := s.partnerStart + off
    (s.placeBytes (s.bytesAt k n) fun l => s.memory.mem.poisoned (k + 64 * l)).draw
  else
    let k := s.partnerStart + off
    s.askLines (k / 2 ^ 48) (k % 2 ^ 48) (ceilDiv n 64)

/-- Read bytes of a set from the restore's source; a shared store sends them by itself (R457). -/
def State.readSet (s : State) (set : Bool) (off n : Nat) : State :=
  match s.resil.restore.source.toNat with
  | 0 => s.readPartner (s.setBase set + off) n
  | 1 =>
    let reads := (List.range (ceilDiv n (2 ^ 20))).map fun i => NvmeCommand.readSet (s.areaLba set (off + 2 ^ 20 * i)) (min (2 ^ 20) (n - 2 ^ 20 * i))
    s.onResil fun r => { r with nvme := r.nvme ++ reads }
  | _ => s

/-- A header that is whole (R448, R457): magic, gen and crc good, complete = 1. -/
def headerWhole (v : Nat) : Bool :=
  field v 0 32 == 0x54534B43 && field v 32 4 == 1 && field v 36 1 == 1 && field v 480 32 == (crc32 (leBytes (v % 2 ^ 480) 60)).toNat

/-- A header this device and slot can take (R457). -/
def State.headerFits (s : State) (v : Nat) : Bool :=
  headerWhole v && field v 160 64 == s.cfg.header.jobId && field v 224 64 == s.start.fingerprint.toNat &&
    field v 155 2 == s.run.slot.toNat && field v 384 48 == s.setZ

/-- Reading of a set begins (R457, R459): all of it, or for a rejoin its table rows. -/
def State.readBody (s : State) (set : Bool) : State :=
  let r := s.resil.restore
  let s := s.onRestore fun r => { r with set := set }
  if r.rejoin then
    let l := s.cfg.layouts.getD r.layout s.layout
    let n := s.slotCfg.setEnd s.cfg.tables l s.start.x.toNat s.start.y.toNat s.start.z.toNat - s.tablesStart
    (s.awaitBody n).readSet set s.tablesStart n
  else (s.awaitBody s.setZ).readSet set 0 s.setZ

/-! ### What a whole set loads -/

/-- The u list over the slot's OPTIMIZE operations (R449). -/
def State.loadCounts (s : State) (us : Nat → Nat) : State :=
  let ops := (s.slotCfg.ops.zipIdx.filter fun o => o.1.body.isOptimize).map (·.2)
  let mine := ops.zipIdx.map fun o => (s.run.slot.toNat, o.1, us o.2)
  s.onTrain fun t => { t with updates := t.updates.filter (fun u => u.1 != s.run.slot.toNat) ++ mine }

/-- Live versions, layout and its generation. -/
def State.loadTables (s : State) (live layout lgen : Nat) : State :=
  s.onTables fun t => { t with
    activeLayout := BitVec.ofNat 3 layout, generation := BitVec.ofNat 8 lgen
    tables := t.tables.zipIdx.map fun x => { x.1 with live := live.testBit x.2 } }

/-- V, c and the steering average. -/
def State.loadTraining (s : State) (v c : Nat) (avg : Word) (avgSet : Bool) : State :=
  let s := s.onTrain fun t => { t with versions := setAt t.versions s.run.slot.toNat (BitVec.ofNat 48 v) }
  let s := s.onRun fun r => { r with c := c }
  s.onCascade fun x => { x with gns := { x.gns with avg := avg, avgSet := avgSet, cNext := BitVec.ofNat 11 c } }

/-- Items 3 and 4 of R457. -/
def State.applySet (s : State) : State :=
  let r := s.resil.restore
  let v := r.num 4096 512
  let s := s.loadTables (field v 1088 256) (field v 128 3) (field v 120 8)
  let s := s.loadTraining (field v 256 48) (field v 136 11) (BitVec.ofNat 64 (field v 192 64)) (v.testBit 135)
  let s := (s.loadDense (v.testBit 6)).loadRows
  let s := s.loadCounts fun i => r.num (4608 + 8 * i) 8
  s.markAllDirty

/-- A cursor from its stored record (R215). -/
def State.loadCursor (s : State) (i v : Nat) : State :=
  let epoch := field v 48 16
  let c : Cursor := { nextPos := 0, baskets := BitVec.ofNat 48 (field v 64 48), skipped := BitVec.ofNat 16 (field v 112 16), ctrPos := 0
                      permEpoch := 0 }
  let c := c.at s.rank epoch (field v 0 36)
  let s := s.onCursor i fun _ => c
  let same := c.nextPos.toNat == field v 0 64 && c.ctrPos.toNat == field v 128 64 && c.permEpoch.toNat == field v 192 16
  if same then s else s.logDevice 0x091 noName 0 (i + 2 ^ 32 * field v 128 64 + 2 ^ 96 * c.ctrPos.toNat)

/-- Item 6 of R457: stored tags plus one, every other tag by one. -/
def State.loadTags (s : State) (v : Nat) : State :=
  let s := s.onResil fun r => { r with
    tagDevice := BitVec.ofNat 8 (field v 1344 8 + 1), tagRegions := (List.range 4).map fun i => BitVec.ofNat 8 (field v (1352 + 8 * i) 8 + 1) }
  let s : State := { s with blocks := s.blocks.zipIdx.map fun b => { b.1 with tag := BitVec.ofNat 8 (field v (1384 + 8 * b.2) 8 + 1) } }
  s.advanceEngines engineKeys

/-- A whole set has arrived (R457, R460). -/
def State.loadSet (s : State) : State :=
  let r := s.resil.restore
  let h := r.num 0 64
  if !s.headerFits h then s.failRestore 0x112 else
  let s := s.applySet
  let v := r.num 4096 512
  let s := if r.rollback then s else ((s.loadCursor 0 (field v 576 256)).loadCursor 1 (field v 832 256)).loadTags v
  s.onRestore fun r => { r with
    phase := 2, stage := .idle, progress := 0xFFFF, ckptStep := BitVec.ofNat 48 (field h 48 48), loss := BitVec.ofNat 64 (field h 288 64)
    lossValid := h.testBit 37, det := h.testBit 38, samples := BitVec.ofNat 32 (field h 352 32), armed := !r.rollback
    schedule := r.bytes 4096 512, seedBlock := r.bytes 8192 s.slotCfg.seedBytes, data := [], poison := [] }

/-- Both headers have arrived: the newest complete set is taken (R457, R459). -/
def State.chooseSet (s : State) : State :=
  let r := s.resil.restore
  let h (i : Nat) : Nat := r.num (2 ^ 50 + 64 * i) 64
  let best := (([0, 1] : List Nat).filter fun i => headerWhole (h i)).foldl (fun (b : Option Nat) i =>
    match b with
    | none => some i
    | some j => if field (h j) 48 48 < field (h i) 48 48 then some i else some j) none
  match best with
  | none => s.failRestore 0x112
  | some i =>
    if r.rejoin && !s.headerFits (h i) then s.failRestore 0x112
    else
      let s := s.onRestore fun r => { r with layout := field (h i) 152 3, ckptStep := BitVec.ofNat 48 (field (h i) 48 48) }
      s.readBody (i == 1)

/-! ### Rejoin -/

/-- The neighbour's WEIGHT_STATUS and WEIR_STATUS, in step S − 1. -/
def State.rejoinPoll (s : State) : State := ((s.await .poll 128).askLines 5 0x140 1).askLines 5 0x1C0 1

/-- What the poll says (R459): the buffer that becomes live at the boundary, or ask again. Past the close of the step's Weir entry the
neighbour's last decision is the step's. -/
def State.rejoinBuffer (s : State) : State :=
  let v := s.resil.restore.num (2 ^ 51) 128
  let live := v.testBit 304
  let flag := field v (512 + 244) 2
  let decided := s.weirEntry.any fun e => (s.dialEntry e).any fun x => decide (x.closes ≤ s.dial.pos.toNat)
  let skipped := decided && (flag == 3 || flag != 0 && s.slotCfg.header.weirAction != 0) || s.weightUpdates.isEmpty
  let take (b : Bool) : State :=
    let n := (s.denseSpans.map (·.2)).sum
    let s := s.awaitNext (.dense b) n (64 * (36 + s.rejoinLines))
    s.denseAt.foldl (fun s d =>
      match s.operand d.1 with
      | some x =>
        let k := (s.operandBase none (bit b) d.1 x).key
        s.askLines (k / 2 ^ 48) (k % 2 ^ 48) (x.m * x.rowBytes / 64)
      | none => s) s
  if v.testBit 305 then take !live else if skipped then take live else s.rejoinPoll

def State.rejoinAsk (s : State) : State :=
  let n := s.rejoinLines
  let s := s.awaitNext .status (64 * (36 + n)) 0
  (((((s.askLines 5 0x140 1).askLines 5 0x1C0 1).askLines 5 0x200 1).askLines 5 0x340 1).askLines 5 0x2000 32).askLines 5 0x40000 n

/-- The neighbour's state is applied (R459). -/
def State.rejoinApply (s : State) : State :=
  let r := s.resil.restore
  let line (i n : Nat) : Nat := r.num (2 ^ 52 + 64 * i) (64 * n)
  let a := line 0 1
  let weir := line 1 1
  let gns := line 2 1
  let cur := line 3 1
  let tabs := line 4 32
  let us := line 36 s.rejoinLines
  let fail (s : State) : State := (s.onRun fun r => { r with run := 1 }).failRestore 0x112
  if field a 64 3 ≠ r.layout then fail s else
  let live := pack ((List.range 256).map fun t => (field tabs (64 * t + 1) 1, 1))
  let s := s.loadTables live (field a 64 3) (field a (64 + 32) 8)
  let s := s.loadTraining (field a 256 48) (field gns 306 11) (BitVec.ofNat 64 (field gns 192 64)) (gns.testBit 305)
  let s := s.onTrain fun t => { t with weirMu := BitVec.ofNat 64 (field weir 0 64), weirSigma := BitVec.ofNat 64 (field weir 64 64)
                                       weirLoss := BitVec.ofNat 64 (field weir 128 64), weirCount := BitVec.ofNat 32 (field weir 192 32)
                                       weirClean := BitVec.ofNat 16 (field weir 224 16), rollbacks := BitVec.ofNat 4 (field weir 240 4)
                                       lastFlag := BitVec.ofNat 2 (field weir 244 2) }
  let s := (s.loadDense ((field a 256 48) % 2 == 1)).loadRows
  let ops := (s.slotCfg.ops.zipIdx.filter fun o => o.1.body.isOptimize).map (·.2)
  let s := s.loadCounts fun i => field us (64 * ops.getD i 0) 64
  let s := ((s.loadCursor 0 (field cur 0 256)).loadCursor 1 (field cur 256 256)).markAllDirty
  (s.reformBatches.onRestore fun r => { r with phase := 2, stage := .idle, progress := 0xFFFF, data := [], poison := [] }).settle

/-- The bytes of a stage have all arrived. -/
def State.stageEnd (s : State) : State :=
  let r := s.resil.restore
  if r.got < r.wanted then s else
  match r.stage with
  | .idle => s
  | .headers => s.chooseSet
  | .body =>
    if r.rejoin then
      let s := s.onRestore fun r => { r with phase := 6, stage := .idle }
      if s.startNext then s.rejoinPoll else s
    else s.loadSet
  | .poll => s.rejoinBuffer
  | .dense b => s.onRestore fun r => { r with stage := .idle, denseFrom := some b }
  | .status => s.rejoinApply

/-- Stages in turn: a local read ends several at once (headers, then the set). -/
def State.stagesEnd (s : State) : State := s.stageEnd.stageEnd

/-! ### RESTORE_CTL -/

/-- A restore begins (R456, R457, R459). -/
def State.beginRestore (s : State) (source set : Nat) (rejoin : Bool) : State :=
  let s := s.onRestore fun r => { RestoreState.reset with
    ctlSource := r.ctlSource, ctlRejoin := r.ctlRejoin, ctlSet := r.ctlSet, ctlStep := r.ctlStep
    phase := 1, source := BitVec.ofNat 2 (if rejoin then 0 else source), rejoin := rejoin }
  if rejoin && (decide (s.cfg.header.shapeA = 0) || s.xOwnRange) then s.failRestore 0x112
  else if source = 2 ∧ !rejoin then s.awaitBody s.setZ
  else if set ≠ 0 ∧ !rejoin then (s.readBody (set == 2)).stagesEnd
  else
    let s := s.await .headers 128
    let s := if s.resil.restore.source = 1 then s.onResil fun r => { r with nvme := r.nvme ++ [.readHeader (s.areaLba false 0), .readHeader (s.areaLba true 0)] }
      else (s.readPartner 0 64).readPartner s.setZ 64
    s.stagesEnd

/-- Faults of a write to RESTORE_CTL (R456): its run state at the address, reserved encodings in the data flit. -/
def State.ctlFaults (s : State) (v : Nat) : List (Nat × Nat) :=
  faultIf (s.run.run != 1 && s.run.run != 4) 64 0x078 ++ faultIf (field v 0 2 == 3) 512 0x002 ++ faultIf (field v 4 2 == 3) 516 0x002

/-- Its effect (R456, R506). -/
def State.writeCtl (s : State) (v : Nat) : State :=
  let s := s.onRestore fun r => { r with
    ctlSource := BitVec.ofNat 2 (field v 0 2), ctlRejoin := v.testBit 2, ctlSet := BitVec.ofNat 2 (field v 4 2)
    ctlStep := BitVec.ofNat 48 (field v 16 48) }
  if v.testBit 3 then s.beginRestore (field v 0 2) (field v 4 2) (v.testBit 2) else s

/-- RESTORE_CTL of its fields. -/
def ctlWord (source set step : Nat) (rejoin : Bool) : Nat :=
  pack [(source, 2), (bit rejoin, 1), (1, 1), (set, 2), (0, 10), (step, 48)]

/-- A Hokuano WRITE to RESTORE_CTL of this device. -/
def State.ctlRequest (s : State) (h : HkHeader) (v : Nat) : State :=
  s.request h false (decide (1 ≤ h.flits.toNat)) (s.ctlFaults v) fun s => (s.writeCtl v).complete h 0

/-- R201, R215, R451, R456, R457, R506. -/
def execRestore (h : HkHeader) (source set : BitVec 2) (step : BitVec 48) (s : State) : Out :=
  .next <| s.ctlRequest h (ctlWord source.toNat set.toNat step.toNat false)

/-- R215, R456, R459, R506. -/
def execRejoin (h : HkHeader) (source set : BitVec 2) (step : BitVec 48) (s : State) : Out :=
  .next <| s.ctlRequest h (ctlWord source.toNat set.toNat step.toNat true)

/-! ### The rollback of a Weir flag -/

/-- R460: the newest complete set of the partner or local flash, partner first on equal steps; none is 0x114. -/
def State.beginRollback (s : State) : State × Bool :=
  let pick := match (s.target 0).newest, (s.target 1).newest with
    | some a, some b => if a.2 < b.2 then some (1, b.1) else some (0, a.1)
    | some a, none => some (0, a.1)
    | none, some b => some (1, b.1)
    | none, none => none
  match pick with
  | none => (s.logDevice 0x114 noName 0 0, false)
  | some (source, set) =>
    let s := s.onRestore fun r => { RestoreState.reset with
      ctlSource := r.ctlSource, ctlRejoin := r.ctlRejoin, ctlSet := r.ctlSet, ctlStep := r.ctlStep
      phase := 1, source := BitVec.ofNat 2 source, rollback := true }
    ((s.readBody set).stagesEnd, true)

/-! ### What a START takes from a restore -/

/-- Held commands with their targets moved by S − s (R457). -/
def State.restorePending (s : State) (start : Nat) : State :=
  let v := ofLe s.resil.restore.schedule
  let moved (i : Nat) (now : Option (BitVec 48)) : Option (BitVec 48) :=
    let w := field v (320 + 64 * i) 64
    if w.testBit 63 then some (BitVec.ofNat 48 (field w 0 48 + start - field v 16 48)) else now
  s.onRun fun r => { r with pauseAt := moved 0 r.pauseAt, stopAt := moved 1 r.stopAt, evalAt := moved 2 r.evalAt, ckptAt := moved 3 r.ckptAt }

/-- Item 7 of R457: the seed block goes into ring row S mod R with its step field set to S. -/
def State.restoreSeed (s : State) (start : Nat) : State :=
  let r := s.resil.restore
  if !r.armed || !(ofLe r.schedule).testBit 7 then s else
  match s.slotCfg.ring.bind fun i => (s.operand i).map fun x => (i, x) with
  | none => s
  | some (i, x) =>
    let row := r.seedBlock.take (s.slotCfg.rowStride i x)
    s.placeStore (s.rowPlace none 0 i x (start % x.m)) (row.take 8 ++ leBytes start 6 ++ row.drop 14) false

/-! ### Replay -/

/-- L matches the set's loss (R458). -/
def State.replayMatches (s : State) (l : Word) (n : Nat) : Bool :=
  let r := s.resil.restore
  n == r.samples.toNat &&
    (if r.det && s.cfg.sundial.det then l == r.loss
     else
      let diff := ((v64 l).add (v64 r.loss).neg).abs
      let bound := (v32 s.recovery.tol).mul (v64 r.loss).abs
      !diff.isNan && !bound.isNan && !bound.lt diff)

/-- The replay step's Weir delivery (R458): a mismatch skips the updates and halts at the boundary. One of n = 0 has no L and matches no
sample count. -/
def State.replayCheck (s : State) (l : Option Word) (n : Nat) : State :=
  let r := s.resil.restore
  if r.replayStep != some s.dial.step.toNat then s else
  let s := s.onRestore fun r => { r with replayLoss := l.getD r.replayLoss, replayStep := none }
  if !r.lossValid then s.onRestore fun r => { r with phase := 4 }
  else if l.any fun l => s.replayMatches l n then s.onRestore fun r => { r with phase := 3 }
  else ((s.logDevice 0x113 noName 0 0).onTrain fun t => { t with skip := true }).haltAtBoundary 4

/-- A replay step without a Weir decision is accepted unverified (R458). -/
def State.replayEnd (s : State) : State :=
  if s.resil.restore.replayStep.any fun t => decide (t ≤ s.dial.step.toNat) then
    s.onRestore fun r => { r with phase := 4, replayStep := none } else s

/-! ### NVMe -/

def NvmeCommand.reads : NvmeCommand → Bool
  | .readHeader _ => true
  | .readSet _ _ => true
  | _ => false

/-- An NVMe command failed (R454): 0x111; the copy instance counts as not complete, a restore fails. -/
def State.nvmeFailed (s : State) (c : NvmeCommand) : State :=
  let s := s.onResil fun r => { r with nvme := r.nvme.filter fun x => x.reads != c.reads }
  if c.reads then s.failRestore 0x111 else s.logDevice 0x111 noName 0 0

/-- R443, R454, R457: the oldest command completes; `data` is what a Read brought. -/
def execNvmeCompletion (status : BitVec 16) (data : List Byte) (s : State) : Out :=
  .next <|
    match s.resil.nvme with
    | [] => s
    | c :: rest =>
      let s := s.onResil fun r => { r with nvme := rest }
      if status ≠ 0 then s.nvmeFailed c
      else match c with
        | .readHeader _ => (s.placeBytes (padTo 64 (data.take 64)) fun _ => false).stagesEnd
        | .readSet _ n => (s.placeBytes (padTo n (data.take n)) fun _ => false).stagesEnd
        | _ => if (s.target 1).active && !rest.any fun x => !x.reads then
            ((s.onTarget 1 fun x => { x with ackSeen := true }).copyDone 1).settle else s

/-- R454. -/
def execNvmeCommandTimeout (s : State) : Out :=
  .next <|
    match s.resil.nvme with
    | [] => s
    | c :: rest => (s.onResil fun r => { r with nvme := rest }).nvmeFailed c

/-! ### Checkpoint objects of the host -/

/-- A CKPT packet has no completion (R438): a fault discards it, counted and logged (R414). -/
def State.ckptPacket (s : State) (h : HkHeader) (flitsOk : Bool) (act : State → State) : State :=
  if !s.hkUp then s
  else if h.flits.toNat > 64 then s.linkProtocol 6
  else
    match firstFault (hkHeaderFaults h false flitsOk s.start.refused) with
    | some code => (s.onPort 6 fun x => { x with discards := satAdd x.discards 1 }).logDevice code noName 0 0
    | none => act s

/-- R438, R455. -/
def execCkptAck (h : HkHeader) (bytes : BitVec 48) (object : BitVec 32) (s : State) : Out :=
  .next <| s.ckptPacket h (h.flits == 0) fun s => (s.ackStore bytes.toNat object.toNat).settle

/-- R438, R457: data of the object the host chose, placed at its offset and acknowledged cumulatively. -/
def execCkptData (h : HkHeader) (offset : BitVec 48) (object : BitVec 32) (data : List Flit) (s : State) : Out :=
  .next <| s.ckptPacket h (decide (1 ≤ h.flits.toNat) && data.length == h.flits.toNat && offset.toNat % 64 == 0) fun s =>
    let r := s.resil.restore
    if r.phase ≠ 1 ∨ r.source ≠ 2 ∨ r.stage ≠ .body ∨ r.object.any (· != object) ∨ r.wanted < offset.toNat + 64 * data.length then s else
    let cells := (data.flatMap flitBytes).zipIdx.map fun b => (offset.toNat + b.2, b.1)
    let s := s.onRestore fun r => { r with
      object := some object, data := cells.foldl (fun d c => insertKey c.1 c.2 d) r.data, got := r.got + cells.length
      progress := fraction (r.got + cells.length) r.wanted }
    let w0 := pack [(1, 4), (0x39, 6), (0, 3)]
    (s.sendPacket 6 ⟨0, [headerFlit w0 (pack [(s.resil.restore.got, 48), (0, 48), (object.toNat, 32)])]⟩).stagesEnd

end Sys2Proof.Machine
end

