-- ==== Sys2Proof/Machine/RunControl.lean ====
section
/-! DEFINITION. Run control (R145–R151, R343, R438): SELECT, START, PAUSE, STOP, EVAL, CKPT. A command held for its role is
judged by the step of its receipt. -/

namespace Sys2Proof.Machine

/-- Command given in a run state it is not valid in (R145), at the command field. -/
def State.runStateFault (s : State) (valid : List Nat) : List (Nat × Nat) := faultIf (!valid.contains s.run.run.toNat) 64 0x078

/-- R145: the slot is in the image, no port of its ports field is down, no operand lies on a skipped CXL port. -/
def State.selectFaults (s : State) (slot : Nat) : List (Nat × Nat) :=
  s.runStateFault [0, 1, 4] ++
  match lookupNat slot s.cfg.slots with
  | none => [(67, 0x076)]
  | some j =>
    let down := (List.range 7).any fun p => j.header.ports.testBit p && (s.port p).state == 4
    let onSkipped := j.operands.any fun x =>
      match x.kind with
      | 1 => (x.loc || field x.base 52 12 == coordNum s.coord) && s.skippedTier (field x.base 48 4)
      | 2 => s.skippedTier (field x.base 48 4) || s.skippedTier (field x.baseB 48 4)
      | 4 => ((s.ownExtents s.layout).any fun e => e.1 == x.table && s.skippedTier e.2.2.1) ||
          (s.layout.any fun e => s.ownsEntry e && e.table == x.table && s.skippedTier e.auxTier)
      | _ => false
    faultIf (down || onSkipped) 67 0x077

/-- Counters "since SELECT" start again (R508). -/
def State.clearSelectCounters (s : State) : State :=
  { s with
    logs := { s.logs with deadlines := 0 }
    run := { s.run with cancelled := 0, intakeMissed := 0 }
    rambler := s.rambler.map fun _ => RamblerRegion.reset
    cursors := s.cursors.map fun c => { c with baskets := 0, skipped := 0 }
    gather := { s.gather with
      regions := s.gather.regions.map fun _ => GatherRegion.reset
      retEdges := 0
      full := 0
      poisoned := 0 }
    blocks := s.blocks.map fun b => { b with poisonDrops := 0, issued := 0, skipped := 0, steals := 0, swaps := 0 }
    train := { s.train with
      reclaimed := 0
      skippedV := 0
      weirFlags := 0
      evalCount := 0
      stashRegion := s.train.stashRegion.map fun _ => StashRegion.reset }
    sched := s.sched.map fun r => { r with ctxPeak := 0, dispatched := 0, spills := 0, timeouts := 0, cancelled := 0 }
    cascade := { s.cascade with
      engines := s.cascade.engines.map fun e => { e with instances := 0, absent := 0, restarts := 0 }
      gns := { s.cascade.gns with valid := false, avgSet := false, avg := 0, changes := 0 } }
    memory := { s.memory with
      parts := s.memory.parts.map fun p => { p with owed := 0, capped := 0, bulkBytes := 0 }
      fill := { s.memory.fill with fills := 0, active := false, queue := [] } }
    resil := { s.resil with targets := s.resil.targets.map fun t => { t with failed := 0, completed := 0 } } }

/-- SELECT's effect (R145, R149, R176, R201, R297, R304, R308, R318, R339, R370, R451): contexts and stash pages are free,
Coolers empty, both cursors at epoch 0, every gradient operand stored at its next commit, every owned row dirty. -/
def State.selectSlot (s : State) (slot : BitVec 2) : State :=
  let s := s.clearSelectCounters
  let s := s.onRun fun r => { RunState.reset with
    run := 1, slot := slot, runStep := r.runStep, accepted := none }
  let s : State := { s with
    mbs := []
    sched := s.sched.map fun r => { r with contexts := [], completed := [], spilledNow := 0 }
    cursors := s.cursors.map fun c => c.at s.rank 0 0
    tables := { s.tables with coolers := s.tables.coolers.map fun c => { c with slots := [] } }
    gather := { s.gather with requests := [], rows := [], sectors := [], badLines := [] }
    cascade := { s.cascade with
      engines := s.cascade.engines.map fun e => { e with running := false, run := none, proxyRun := none }, early := [], notices := [], heard := [] }
    blocks := s.blocks.map fun b => { b with product := none, segments := [], pieces := [] } }
  let s := s.onRun fun r => { r with c := s.slotCfg.header.mbInit + 1 }
  let s := s.onTrain fun t => { t with
    stash := []
    preRows := []
    storeFirst := (s.slotCfg.ops.flatMap fun o => o.gradFields.map (·.2)).eraseDups
    written := false
    samples := 0
    loss := 0
    nonFinite := 0
    weirMu := 0
    weirSigma := 0
    weirClean := 0
    rollbacks := 0
    decided := false
    flagged := false
    skip := false
    rollback := false
    weirRecord := none
    holdUntil := none
    tapSums := [] }
  s.markAllDirty

/-- Answer a run command, judged at a step of receipt: rejected with its fault, or acted on with 0x000. -/
def State.answerRun (s : State) (h : HkHeader) (fs : List (Nat × Nat)) (act : State → State) : State :=
  match firstFault fs with
  | some code => s.complete h code
  | none => (act s).complete h 0

/-- Faults of START (R145, R146). R146 rejects no second START while one is held: it takes the held one's place (log entry 36). -/
def State.startFaults (s : State) (step now : Nat) : List (Nat × Nat) :=
  s.runStateFault [1, 3] ++ faultIf (!s.dial.locked) 64 0x078 ++
    faultIf (decide (step ≤ now + 1)) 128 0x07A

/-- Faults of PAUSE, STOP, EVAL and CKPT while running (R145, R146). -/
def State.heldFaults (s : State) (heldNow avail : Bool) (step now : Nat) : List (Nat × Nat) :=
  s.runStateFault [2] ++ faultIf (!avail) 64 0x079 ++ faultIf heldNow 64 0x07B ++ faultIf (decide (step ≤ now)) 128 0x07A

/-- A STOP that arrives while paused (R145, R148). -/
def State.stopPaused (s : State) : State :=
  let s := s.run.held.elim s fun h => s.applyHandOver h
  s.onRun fun r => { r with run := 4, stopCause := 1, held := none, startAt := none }

/-- What a run command asks, with its faults at a step of receipt. -/
def State.runFaults (s : State) (now : Nat) : Instr → List (Nat × Nat)
  | .select _ slot => s.selectFaults slot.toNat
  | .start _ step => s.startFaults step.toNat now
  | .pause _ step => s.heldFaults s.run.pauseAt.isSome true step.toNat now
  | .stop _ step => if s.run.run = 3 then [] else s.heldFaults s.run.stopAt.isSome true step.toNat now
  | .eval _ step => s.heldFaults s.run.evalAt.isSome s.slotCfg.header.evalValid step.toNat now
  | .ckpt _ step => s.heldFaults s.run.ckptAt.isSome s.slotCfg.header.ckptValid step.toNat now
  | _ => []

/-- The effect of an accepted run command (R145). -/
def State.runEffect (s : State) : Instr → State
  | .select _ slot => s.selectSlot slot
  | .start _ step => s.onRun fun r => { r with startAt := some step }
  | .pause _ step => s.onRun fun r => { r with pauseAt := some step }
  | .stop _ step => if s.run.run = 3 then s.stopPaused else s.onRun fun r => { r with stopAt := some step }
  | .eval _ step => s.onRun fun r => { r with evalAt := some step }
  | .ckpt _ step => s.onRun fun r => { r with ckptAt := some step }
  | _ => s

/-- A RUN_CMD request (R438, R439): held while the job-orchestration role has no core (R343). -/
def State.runRequest (s : State) (h : HkHeader) (c : Instr) : State :=
  if s.roleUp 5 then s.request h false (h.flits == 0) (s.runFaults s.dial.step.toNat c) fun s => (s.runEffect c).complete h 0
  else s.request h false (h.flits == 0) [] fun s => s.hold c

/-- R2, R145, R146, R150. -/
def execSelect (h : HkHeader) (slot : BitVec 2) (s : State) : Out := .next <| s.runRequest h (.select h slot)

/-- R145, R146. -/
def execStart (h : HkHeader) (step : BitVec 48) (s : State) : Out := .next <| s.runRequest h (.start h step)

/-- R145, R146, R151. -/
def execPause (h : HkHeader) (step : BitVec 48) (s : State) : Out := .next <| s.runRequest h (.pause h step)

/-- R145, R146, R148, R151. -/
def execStop (h : HkHeader) (step : BitVec 48) (s : State) : Out := .next <| s.runRequest h (.stop h step)

/-- R145, R146, R151. -/
def execEval (h : HkHeader) (step : BitVec 48) (s : State) : Out := .next <| s.runRequest h (.eval h step)

/-- R145, R146, R151. -/
def execCkpt (h : HkHeader) (step : BitVec 48) (s : State) : Out := .next <| s.runRequest h (.ckpt h step)

end Sys2Proof.Machine
end

