-- ==== Sys2Proof/Machine/Boundary.lean ====
section
/-! DEFINITION. The step boundary (R48): checks, reports, hand-overs in their order, held commands (R145–R149), rollback (R320), the
step period, and what the new step begins with (R121, R143, R144, R331, R332, R339, R444). -/

namespace Sys2Proof.Machine

/-! ### Reports and statistics of the step that ends -/

/-- Slack of an instance (R73). -/
def DialInstance.slack (d : DialInstance) (e : DialEntry) : Int :=
  match d.completed with
  | none => -32768
  | some p => if d.faulted then (p : Int) - 65536 else (e.closes : Int) - (p : Int)

/-- The device's report: the least slack of instances that are neither window-only nor seed intake. -/
def State.slackOf (s : State) : Option Int :=
  s.dial.instances.foldl (fun m d =>
    match s.dialEntry d.entry with
    | some e => if windowOnly e.type ∨ e.type = 0xB ∨ d.step ≠ s.dial.step.toNat then m else leastReport m (d.slack e)
    | none => m) none

/-- The report goes to the root (R74). -/
def State.reportSlack (s : State) : State :=
  let own := s.slackOf.map fun i => max (-32768) (min i 32767)
  let r := s.dial.reportEarly.elim own (leastReport own)
  let s := s.onDial fun d => { d with reportMin := r, reportEarly := none, ownSlack := own }
  match r with
  | some i => if s.dial.isRoot then s else s.sendUp (treeUp 0 (toField i 16) ⟨0, 0, 0⟩ 0 s.dial.step.toNat)
  | none => s

/-- NORM_TAPS of the step (R315, R316). -/
def State.writeTaps (s : State) : State :=
  let record (i : Nat) (old : NormTap) : NormTap :=
    if s.slotCfg.header.layers < i then old else
    match lookupNat i s.train.tapSums with
    | some t => { wSq := narrow t.w, gSq := narrow t.g, uSq := narrow t.u, dwSq := narrow t.dw
                  nf := BitVec.ofNat 32 (min t.nf (2 ^ 32 - 1)), step := s.dial.step, updated := t.updated }
    | none => { NormTap.reset with step := s.dial.step }
  s.onTrain fun t => { t with taps := t.taps.zipIdx.map fun x => record x.2 x.1 }

/-- R369's sums over the step's chains, in ascending operation index. -/
def State.noiseSums (s : State) : Word × Word :=
  (sortBy (·.1) s.cascade.chains).foldl (fun (a : Word × Word) x =>
    let r := x.2.1
    let n := nat64 r.n.toNat
    let d := nat64 r.d.toNat
    let b := div64 n d
    let q := div64 r.q d
    let e := x.2.2
    (add64 a.1 (div64 (sub64 (mul64 n e) (mul64 b q)) (sub64 n b)),
     add64 a.2 (div64 (sub64 q e) (sub64 (div64 (nat64 1) b) (div64 (nat64 1) n))))) (0, 0)

/-- The estimate B of the step (R369). -/
def State.noiseScale (s : State) : Option (Word × Word × Word) :=
  let sums := s.noiseSums
  if s.cascade.chains.any (fun x => decide (x.2.1.d.toNat < 2)) || !lt64 0 sums.1 then none else some (div64 sums.2 sums.1, sums.1, sums.2)

/-- The steering loop (R370): the average and the next count. -/
def State.steer (s : State) (b : Option Word) : Word × Bool × Nat :=
  let g := s.cascade.gns
  let c := s.run.c
  let h := s.slotCfg.header
  match b, s.train.weirRecord with
  | some b, some w =>
    if !h.steer || w.absent then (g.avg, g.avgSet, c) else
    let avg := if g.avgSet then add64 g.avg (div64 (sub64 b g.avg) (nat64 16)) else b
    let target := div64 (mul64 avg (nat64 c)) (nat64 w.n.toNat)
    let size := max 1 (c / 8)
    let next :=
      if lt64 (div64 (mul64 (nat64 c) (nat64 5)) (nat64 4)) target then min (c + size) (h.mbMax + 1)
      else if lt64 target (div64 (mul64 (nat64 c) (nat64 3)) (nat64 4)) then max (c - size) (h.mbMin + 1)
      else c
    (avg, true, next)
  | _, _ => (g.avg, g.avgSet, c)

/-- R369 and R370: GNS_STATUS, and the count item 6 will apply. -/
def State.noise (s : State) : State × Nat :=
  let est := s.noiseScale
  let next := s.steer (est.map (·.1))
  let s := s.onCascade fun x => { x with gns :=
    match est with
    | some e => { x.gns with estimate := e.1, g2 := e.2.1, tr := e.2.2, step := s.dial.step, valid := true, avg := next.1, avgSet := next.2.1 }
    | none => { x.gns with avg := next.1, avgSet := next.2.1 } }
  (s, next.2.2)

/-- The training cursor passes the step's micro-batches (R200, R214); with host seed blocks those run from the last accepted block. -/
def State.advanceCursor (s : State) : State :=
  if s.slotCfg.header.seedSource then s.onCursor 0 fun c => c.at s.rank c.epoch (c.k + s.run.c)
  else match s.run.block with
    | none => s
    | some b => if s.run.accepted.isSome then s else s.onCursor 0 fun c => c.place (b.dataPos + s.run.mbCount.toNat)

/-- Every OPTIMIZE instance with a kind 2 target has written (R310); a step fault counts it as not complete (R398). -/
def State.advances (s : State) : Bool :=
  !s.weightUpdates.isEmpty && !s.train.skip && !s.memory.stepFault && s.weightUpdates.all fun j => s.partDone j 4094 false

/-- What the step leaves for items 3 to 6. -/
def State.handOver (s : State) (c : Nat) : HandOver := ⟨s.advances, s.dial.go && s.tables.reshardOn && s.tables.reshardDone, c⟩

/-! ### Halts and held commands -/

/-- Held commands, in R147's order. -/
def RunState.heldCount (r : RunState) : Nat :=
  ([r.pauseAt, r.stopAt, r.evalAt, r.ckptAt, r.startAt].filter (·.isSome)).length

/-- Item 1 halts the device (R48, R147). -/
def State.haltNow (s : State) (cause : BitVec 3) : State :=
  s.onRun fun r => { r with
    run := 4, stopCause := cause, cancelled := satAdd r.cancelled r.heldCount
    pauseAt := none, stopAt := none, evalAt := none, ckptAt := none, startAt := none, held := none }

/-- Items 3–6 in the running state; a rollback stands in their place (R320). -/
def State.handOverNow (s : State) (h : Option HandOver) : State :=
  match h with
  | some h => (s.applyHandOver h).applyCount h
  | none => s

/-- Take a held command whose target is the new step: whether it applies, and the rest. -/
def dueAt (t : Nat) (c : Option (BitVec 48)) : Bool := c.any fun x => x.toNat == t

/-- Item 2 and items 3–6 for the new step `t` (R48, R145–R148). A STOP held while the device pauses applies at its step, the rest of
what falls due in a run state it is not valid in is cancelled. -/
def State.takeCommands (s : State) (t : Nat) (h : Option HandOver) : State :=
  let r := s.run
  let stop := dueAt t r.stopAt
  let pause := dueAt t r.pauseAt
  let eval := dueAt t r.evalAt
  let ckpt := dueAt t r.ckptAt
  let clear (r : RunState) : RunState :=
    { r with stopAt := if stop then none else r.stopAt, pauseAt := if pause then none else r.pauseAt
             evalAt := if eval then none else r.evalAt, ckptAt := if ckpt then none else r.ckptAt }
  if r.run = 3 ∧ stop then
    s.stopPaused.onRun fun r => { clear r with cancelled := satAdd r.cancelled (bit pause + bit eval + bit ckpt) }
  else if r.run ≠ 2 then
    s.onRun fun r => { clear r with cancelled := satAdd r.cancelled (bit stop + bit pause + bit eval + bit ckpt) }
  else if stop then
    let s := h.elim s fun h => s.applyHandOver h
    s.onRun fun r => { clear r with run := 4, stopCause := 1, cancelled := satAdd r.cancelled (bit pause + bit eval + bit ckpt) }
  else if pause then
    s.onRun fun r => { clear r with run := 3, held := h, cancelled := satAdd r.cancelled (bit eval + bit ckpt) }
  else
    (s.handOverNow h).onRun fun r => { clear r with evalNow := eval, ckptNow := ckpt }

/-- A rollback at the boundary out of the step (R320, R460): the restore begins, or the device halts. -/
def State.rollBack (s : State) : State :=
  let r := s.beginRollback
  if !r.2 then r.1.haltNow 4 else
  r.1.onTrain fun t => { t with holdUntil := some (s.dial.step.toNat + s.slotCfg.training.rollbackSteps + 1) }

/-- A rollback whose restore has not completed by the step that resumes work (R320). -/
def State.rollbackLate (s : State) (t : Nat) : Bool :=
  (s.run.run == 2 || s.run.run == 3) && s.train.holdUntil.any (fun u => decide (u ≤ t)) &&
    !(s.resil.restore.rollback && s.resil.restore.phase == 2)

/-- A START takes effect at its step (R145, R148, R457–R459). -/
def State.startRun (s : State) : State :=
  let fresh := s.run.run == 1
  let r := s.resil.restore
  let s := s.onRun fun x => { x with startAt := none }
  if fresh && r.rejoin && (r.phase == 1 || r.phase == 6) && (r.phase == 1 || r.denseFrom.isNone) then s.failRestore 0x112
  else
    let s := if fresh && r.rejoin && r.phase == 6 then s.rejoinAsk else s
    let s := match s.run.held with
      | some h => s.handOverNow (some h)
      | none => s.applyCount ⟨false, false, s.run.c⟩
    let s := if r.armed then
        (s.restorePending s.dial.step.toNat).onRestore fun r => { r with armed := false, replayStep := some s.dial.step.toNat }
      else s
    s.onRun fun x => { x with run := 2, runStep := s.dial.step, held := none, firstRun := fresh }

/-! ### The new step -/

/-- What a step knows only of itself is cleared (R339, R418, R421, R463). -/
def State.clearStep (s : State) : State :=
  let live (x : Nat × TaskContext) : Bool := x.2.state == 3 || x.2.state == 4
  let s : State := { s with
    sched := s.sched.map fun r => { r with completed := [], admitted := 0, contexts := r.contexts.filter live }
    gather := { s.gather with skipped := [], abandoned := false, slotsUsed := 0
                              regions := s.gather.regions.map fun r => { r with reorderSeen := false } }
    memory := { s.memory with stepFault := false }
    links := { s.links with ports := s.links.ports.map fun p => { p with stepRetrains := 0, dropLogged := false } }
    resil := { s.resil with passed := [] } }
  let held (m : MicroBatch) : Bool := !m.committed &&
    s.sched.any fun r => r.contexts.any fun x => x.2.mb.toNat == m.mb && x.2.step.toNat == m.step
  let s : State := { s with mbs := s.mbs.filter held }
  -- totals already read start again (R297)
  let s := s.onTrain fun t => if t.storeFirst.contains noOperand then { t with samples := 0, loss := 0, nonFinite := 0 } else t
  let s := s.onTrain fun t => { t with
    decided := false, flagged := false, skip := false, rollback := false, weirRecord := none, reclaimDone := false, written := false
    tapSums := [] }
  let s := s.onCascade fun c => { c with records := [], absentLog := [], withdrawn := [], chains := [], notices := [], heard := [],
                                            early := c.early.filter (fun k => k.h.stepLo.toNat == (s.dial.step.toNat + 1) % 65536),
                                            engines := c.engines.map fun x => if x.running then x else { x with run := none, proxyRun := none } }
  let s := s.onTables fun t => { t with
    updating := [], reshardOn := false, holdEnded := false, reshardDone := true, reports := 0
    tables := t.tables.map fun x => { x with defaults := 0 } }
  s.onDial fun d => { d with
    granted := (d.grantBeats.getLast?).elim d.granted fun b => d.granted ++ [(d.step.toNat, b)]
    haltCause := 0, go := false, grants := 0, grantBeats := [], held := d.held ++ d.waiting, waiting := [], instances := [], crossed := d.locked }

/-- The step's micro-batches (R121, R143, R144, R149). -/
def State.formBatches (s : State) : State :=
  let t := s.dial.step.toNat
  let mine := s.run.accepted.filter fun b => b.step == t
  let s := s.onRun fun r => { r with accepted := r.accepted.filter fun b => decide (t < b.step), block := none, mbCount := 0 }
  if !s.working then s else
  if s.slotCfg.header.seedSource then
    let pos := (s.cursor 0).nextPos.toNat
    let s := s.onRun fun r => { r with mbCount := BitVec.ofNat 11 r.c }
    { s with mbs := s.mbs ++ (List.range s.run.c).map fun m => newMb m t (pos + m) }
  else match mine with
    | none => s.onRun fun r => { r with intakeMissed := satAdd r.intakeMissed 1 }
    | some b =>
      let n := min s.run.c b.mbs
      let s := s.onRun fun r => { r with block := some b, mbCount := BitVec.ofNat 11 n }
      { s with mbs := s.mbs ++ (List.range n).map fun m => newMb m t (b.dataPos + m) }

/-- Instances of the dial table in the new step (R62, R63, R145). -/
def State.newInstances (s : State) : State :=
  let h := s.slotCfg.header
  let asked (i : Nat) : Bool := (s.run.evalNow && i == h.evalEntry) || (s.run.ckptNow && i == h.ckptEntry)
  let is := (List.range s.cfg.sundial.table.length).filter fun i => s.occurs i || asked i
  s.onDial fun d => { d with instances := is.map fun i => ⟨i, d.step.toNat, none, false, false, false⟩ }

/-- The INTAKE that serves a START's step runs in the step before (R145, R331); a restored seed block is written for it (R457). -/
def State.prepareStart (s : State) : State :=
  if !s.startNext then s else
  let s := s.restoreSeed (s.dial.step.toNat + 1)
  if s.resil.restore.rejoin && s.resil.restore.phase == 6 then s.rejoinPoll else s

/-- The new step begins: micro-batches, instances, the capture point (R444, R449), work of scope 1 and 2. -/
def State.beginStep (s : State) : State :=
  let s := s.formBatches.newInstances
  let s := s.onResil fun r => { r with capture := s.scheduleRecord, captureV := s.weightVersion.toNat }
  let intake := s.run.run == 2 || s.startNext
  let s := s.createStepInstances fun o => !o.eval && (if o.body.isIntake then intake else s.working)
  s.prepareStart

/-- The checks, reports and statistics of the step that ends. -/
def State.endStep (s : State) : State × Nat :=
  let s := s.noteCompletions.checkAtEnd.closeWindows 65535
  let s := if s.working && s.reclaimPos == some 65535 && !s.train.reclaimDone then s.reclaim else s
  let s := s.replayEnd.reportSlack
  let ran := s.working
  let s := if ran then s.writeTaps else s
  let n := s.noise
  let s := if ran then n.1.advanceCursor else n.1
  let s := if ran && !s.weightUpdates.isEmpty && !s.advances then s.onTrain fun t => { t with skippedV := satAdd t.skippedV 1 } else s
  let s := if s.tables.reshardOn && !(s.dial.go && s.tables.reshardDone) then s.logDevice 0x0E5 noName 0 0 else s
  (if s.run.run = 2 then s.onMemory fun m => { m with
      scrubbing := true } else s, n.2)

/-- Items 1–6 for the step to come. -/
def State.handOvers (s : State) (c : Nat) : State :=
  let t := s.dial.step.toNat + 1
  let on := s.slotRunning
  if on && s.dial.haltCause != 0 then s.haltNow s.dial.haltCause
  else if on && s.rollbackLate t then s.haltNow 4
  else
    let h := s.handOver c
    let ran := s.working
    let s := if s.train.rollback && ran then s.rollBack else s
    if s.run.run = 4 ∧ on then s
    else s.takeCommands t (if !ran then (if s.run.run = 2 then some ⟨false, false, s.run.c⟩ else none) else if s.train.rollback then none else some h)

/-- Crossing into the next step. -/
def State.cross (s : State) (gain : Nat) : State :=
  let e := s.endStep
  let s := e.1.handOvers e.2
  let s := s.onRun fun r => { r with firstRun := false }
  let s := s.clearStep
  let s := s.onDial fun d => { d with
    pos := 0, step := d.step + 1, acc := d.acc - gain, periodNs := d.nextPeriod.getD d.periodNs, nextPeriod := none }
  let s := s.onTrain fun t => { t with holdUntil := t.holdUntil.filter fun u => decide (s.dial.step.toNat < u) }
  let s := if dueAt s.dial.step.toNat s.run.startAt && (s.run.run == 1 || s.run.run == 3) then s.startRun else s
  let s := (s.onTables fun t => { t with coolers := t.coolers.map Cooler.halve }).promotionBatch
  let s := s.beginStep
  (s.onRun fun r => { r with evalNow := false, ckptNow := false }).meetBeat.arrive

/-- R48, R49, R51, R54, R63, R68, R69, R72–R75, R121, R144, R147–R151, R164, R169, R170, R175, R176, R178, R179, R181, R182, R200, R214,
R308, R310, R316, R320, R331, R332, R339, R369, R370, R375, R399, R444, R449, R451, R459, R460. -/
def execStepBoundary (cycles : Nat) (s : State) : Out :=
  .next <|
    let s := s.elapse cycles
    if !s.dialRuns || s.dial.acc < s.threshold || s.dial.pos != 65535 then s else s.cross s.threshold

end Sys2Proof.Machine
end

