-- ==== Sys2Proof/Machine/Resets.lean ====
section
/-! DEFINITION. Progress watchdogs, hang records and the reset ladder (R461–R466). The unit whose watchdog expires, and how a rung
ends, are findings; what each rung drops and advances is computed. -/

namespace Sys2Proof.Machine

/-! ### What a unit holds -/

/-- Unit code and index of the work items that a watched unit runs, with its region (none: an engine that serves every region or
holds no context). -/
def watchedWork : WatchedUnit → Option (Option Nat × Nat × Option Nat)
  | .cell b _ => some (some (b.val / 9), 2, some (b.val % 9))
  | .spoutCore r i => some (some r.val, 3, some i.val)
  | .rambler r => some (some r.val, 0, none)
  | .gatherEngine r => some (some r.val, 1, none)
  | .cascadeEngine e => some (none, 6, some e.val)
  | _ => none

/-- Region of a unit, where it lies in one. -/
def watchedRegion : WatchedUnit → Option Nat
  | .cell b _ => some (b.val / 9)
  | .spoutCore r _ => some r.val
  | .rambler r => some r.val
  | .gatherEngine r => some r.val
  | .compressor r => some r.val
  | _ => none

/-- Level and unit number of a unit in a record (R73, R511). -/
def watchedName : WatchedUnit → Nat × Nat
  | .cell b c => (2, b.val % 9 + 16 * c.val)
  | .spoutCore _ i => (3, 16 + i.val)
  | .rambler _ => (3, 0)
  | .gatherEngine _ => (3, 1)
  | .compressor _ => (3, 3)
  | .controller c => (3, 64 + c.val)
  | .nvme => (3, 90)
  | .cascadeEngine e => (3, 96 + e.val)
  | .drainEngine => (3, 98)
  | .hokuano => (3, 118)

/-- The unit's generation tag, by its number in engineKeys. -/
def watchedTag (u : WatchedUnit) : Nat :=
  match u with
  | .cell b c => 8192 + 17 * b.val + c.val
  | u => ((watchedRegion u).getD 0) * 1024 + (watchedName u).2

/-- Contexts, with their regions. -/
def State.contextsWith (s : State) (f : Nat → TaskContext → Bool) : List (Nat × Nat × TaskContext) :=
  s.sched.zipIdx.flatMap fun r => (r.1.contexts.filter fun x => f r.2 x.2).map fun x => (r.2, x.1, x.2)

/-- Work items a unit holds, oldest first. -/
def State.heldBy (s : State) (u : WatchedUnit) : List (Nat × Nat × TaskContext) :=
  match watchedWork u with
  | none => []
  | some (r, code, index) =>
    sortBy (fun x => x.2.2.key s.run.c) (s.contextsWith fun q t =>
      r.all (· == q) && (t.state == 3 || t.state == 4) && t.unit.toNat == code && index.all (· == t.unitIndex.toNat))

/-- What a record of a unit names: the oldest work item it holds. -/
def State.nameUnit (s : State) (u : WatchedUnit) : Named :=
  let n := watchedName u
  match s.heldBy u with
  | x :: _ => { s.nameOf ⟨BitVec.toFin (BitVec.ofNat 2 x.1), x.2.1⟩ with level := n.1, unit := n.2 }
  | [] => ⟨(watchedRegion u).getD 0, n.1, n.2, 0, 0, 0, false⟩

/-! ### Hang records (R462) -/

/-- A list of fields of one size, the rest left to the firmware. -/
def bodyList (rec from' size slots : Nat) (vs : List Nat) : List Byte :=
  (List.range (size * slots)).map fun i =>
    if i / size < vs.length then BitVec.ofNat 8 ((vs.getD (i / size) 0) >>> (8 * (i % size))) else Config.hangInternal rec (from' + i)

/-- Bytes 64–4,095 of a record. -/
def State.hangBody (s : State) (u : WatchedUnit) (rec : Nat) : List Byte :=
  let region := ((s.heldBy u).head?.map (·.1)).getD ((watchedRegion u).getD 0)
  let rs := s.sched.getD region RegionSched.reset
  let queues := (List.range 7).flatMap fun unit =>
    bodyList rec (1120 + 64 * unit) 8 8 (((rs.ready s.run.c unit false).take 8).map fun x => (Config.hangKey (x.2.key s.run.c)).toNat)
  bodyList rec 64 64 16 ((s.heldBy u).map fun x => x.2.2.num) ++ leBytes (s.schedStatus region) 32 ++ queues ++ leBytes 0 64 ++
    leBytes (s.cascadeStatus 0) 32 ++ leBytes (s.cascadeStatus 1) 32 ++ leBytes (pack [(s.dialNow, 64), (s.dialState, 64)]) 16 ++
    leBytes s.jobStatus 16 ++ leBytes s.weightStatus 16 ++ leBytes 0 16 ++
    (List.range 2336).map fun i => Config.hangInternal rec (1760 + i)

def State.onHang (s : State) (i : Nat) (f : HangRecord → HangRecord) : State := s.onResil fun r => { r with hangs := modifyAt r.hangs i f }

/-! ### Rungs (R463–R465) -/

/-- The rungs a unit climbs. -/
def rungsOf (u : WatchedUnit) : List Nat :=
  match u with
  | .cell _ _ => [1, 2, 3, 4]
  | u => if (watchedRegion u).isSome then [1, 3, 4] else [1, 4]

def nextRung (u : WatchedUnit) (k : Nat) : Nat := ((rungsOf u).find? fun j => decide (k < j)).getD 4

/-- Block of a cell's unit. -/
def watchedBlock : WatchedUnit → Nat
  | .cell b _ => b.val
  | _ => 0

/-- Contexts in a rung's domain. -/
def State.inDomain (s : State) (u : WatchedUnit) (k : Nat) : List (Nat × Nat × TaskContext) :=
  if k = 1 then s.heldBy u
  else if k = 2 then s.contextsWith fun q t => q == watchedBlock u / 9 && (t.state == 3 || t.state == 4) && t.unit == 2 &&
    t.unitIndex.toNat == watchedBlock u % 9
  else s.contextsWith fun q _ => some q == watchedRegion u

/-- Tier 0x4 bytes of a block or region are lost with it (R40): cells, Coolers, region stores. -/
def State.loseStores (s : State) (f : Nat → Bool) : State :=
  let gone (k : Nat) : Bool := k / 2 ^ 48 == 4 && f (k % 2 ^ 48)
  s.withMem { cells := s.memory.mem.cells.filter fun c => !gone c.1, poison := s.memory.mem.poison.filter fun k => !gone k }

/-- Drop what a domain holds (R69, R464): micro-batches; a scope 1 or 2 instance that is cancelled halts the device. -/
def State.dropDomain (s : State) (xs : List (Nat × Nat × TaskContext)) : State :=
  let mbs := (xs.map fun x => (x.2.2.mb.toNat, x.2.2.step.toNat)).eraseDups.filter fun m => m.1 != 4094
  let s := mbs.foldl (fun s m => s.dropMb m.1 m.2) s
  let s := xs.foldl (fun s x => if x.2.2.mb.toNat = 4094 then s else s.endDropped ⟨BitVec.toFin (BitVec.ofNat 2 x.1), x.2.1⟩) s
  let wide := xs.filter fun x => x.2.2.mb.toNat == 4094
  let s := wide.foldl (fun s x =>
    (s.freeCtx ⟨BitVec.toFin (BitVec.ofNat 2 x.1), x.2.1⟩).onRegion x.1 fun r => { r with cancelled := satAdd r.cancelled 1 }) s
  if wide.isEmpty then s else s.runFills.haltAtBoundary 4

/-- Micro-batches whose segments stand in a block are dropped with its Basins (R272, R464). -/
def State.dropSegments (s : State) (b : Nat) : State :=
  (s.mbs.filter fun m => regionOfMb m.mb == b / 9 && m.segments.any fun x => x.2 == b % 9).foldl (fun s m => s.dropMb m.mb m.step) s

/-- Micro-batches whose rows a region's stash compressor holds are dropped (R464). -/
def State.dropCompressing (s : State) (r : Nat) : State :=
  (s.train.preRows.filter fun p => regionOfMb p.mb == r).foldl (fun s p => s.dropMb p.mb p.step) s

/-- Local memories of Spout cores are lost (R337, R463). -/
def State.loseSpouts (s : State) (f : Nat → Bool) : State :=
  s.onMemory fun m => { m with spoutLocal := m.spoutLocal.filter fun x => !f x.1 }

/-- A drain engine's transfers are lost: what was sent is dirty again, and nothing more is sent for the instance. -/
def State.resetDrain (s : State) : State :=
  let s := s.onTarget 0 fun x => if x.active then { x with unacked := [], headerSent := true, bodySent := true } else x
  s.onResil fun r => { r with rows := r.rows.map fun m => if m.target = 0 then { m with sent := false } else m }

/-- What rung 1 does to an engine beyond its work items: its queues and state. -/
def State.resetEngine (s : State) (u : WatchedUnit) : State :=
  match u with
  | .cell b c => s.onBlock b.val fun x => { x with retries := x.retries.filter fun y => y.1 != c.val }
  | .controller c => s.onController c.val fun x => { x with regulators := [] }
  | .spoutCore r i => s.loseSpouts (· == 9 * r.val + i.val)
  | .compressor r => s.dropCompressing r.val
  | .nvme => s.resil.nvme.foldl (fun s c => if s.resil.nvme.isEmpty then s else s.nvmeFailed c) s
  | .cascadeEngine e => s.onEngine e.val fun x => { x with running := false, proxy := false, run := none, proxyRun := none }
  | .drainEngine => s.resetDrain
  | .hokuano => (s.onPort 6 fun p => { p with queues := [] }).onLinks fun l => { l with requests := [] }
  | .gatherEngine r => s.onGather fun g => { g with
      requests := g.requests.filter fun q => q.region != r, rows := g.rows.filter fun x => x.ctx.region != r }
  | _ => s

/-- Rung 2: cells, Rill, weight areas and scoreboards of the block. -/
def State.resetBlock (s : State) (b : Nat) : State :=
  (s.onBlock b fun x => { x with retries := [], lastW := none, tilesOf := none, tiles := [] }).loseStores fun o => o / 2 ^ 26 == (b / 9) * 16 + b % 9

/-- Rung 3: the region, but for the row directory; the return sweep of the step is abandoned (R236, R464). -/
def State.resetRegion (s : State) (r : Nat) : State :=
  let s := (List.range 9).foldl (fun s b => s.resetBlock (9 * r + b)) s
  let s := (s.loseStores fun o => o / 2 ^ 30 == r).loseSpouts (· / 9 == r)
  let s := s.onRegion r fun x => { x with contexts := [], spilledNow := 0 }
  let s := s.onTables fun t => { t with
    coolers := modifyAt t.coolers r fun c => { c with slots := [], sketch := [] }
    stalled := t.stalled.filter fun q => q.val != r }
  let returned := s.cfg.tables.filterMap fun t => if t.kind = 2 then some t.id else none
  s.onGather fun g => { g with
    requests := g.requests.filter fun q => q.region.val != r, rows := g.rows.filter fun x => x.ctx.region.val != r
    sectors := g.sectors.filter fun x => x.ctx.region.val != r
    badLines := g.badLines.filter fun x => x.1.region.val != r
    abandoned := true
    skipped := returned.foldl (fun l i => insertNat i l) g.skipped }

/-- Tags of a rung's domain advance (R32, R465). -/
def State.advanceTags (s : State) (u : WatchedUnit) (k : Nat) : State :=
  let onBlock (s : State) (b : Nat) : State :=
    (s.onBlock b fun x => { x with tag := x.tag + 1 }).advanceEngines ((List.range 17).map fun c => 8192 + 17 * b + c)
  match k with
  | 1 => s.advanceEngines [watchedTag u]
  | 2 => onBlock s (watchedBlock u)
  | 3 =>
    let r := (watchedRegion u).getD 0
    let s := (List.range 9).foldl (fun s b => onBlock s (9 * r + b)) s
    (s.advanceEngines (([0, 1, 2, 3, 4, 5] ++ (List.range 9).map (· + 16)).map (r * 1024 + ·))).onResil fun x =>
      { x with tagRegions := modifyAt x.tagRegions r (· + 1) }
  | _ => s

/-- Rung 4 (R463, R464, R466): everything but the link die and what housekeeping holds; the start sequence follows. Every port stays
trained and routes on under the shape and coordinate it knows; tags advance, and no request of the host is completed. -/
def State.resetDevice (s : State) : State :=
  let old := s
  let s := State.loseDevice { s with power := s.power.keepOnly (domainMask (baseDomains ++ [64, 65, 66, 67, 68, 69, 70])) }
  let s : State := { s with
    links := { s.links with ports := old.links.ports }
    cfg := old.cfg
    start := { s.start with x := old.start.x, y := old.start.y, z := old.start.z }
    dial := { s.dial with rootEpoch := old.dial.rootEpoch, rootCoord := old.dial.rootCoord }
    blocks := s.blocks.zipIdx.map fun b => { b.1 with tag := (old.blocks.getD b.2 BlockState.reset).tag + 1 } }
  (s.onResil fun r => { r with
    tagDevice := old.resil.tagDevice + 1, tagRegions := old.resil.tagRegions.map (· + 1), tagEngines := old.resil.tagEngines, lastRung := 4
    half := old.resil.half }).advanceEngines engineKeys

/-- A rung begins. -/
def State.beginRung (s : State) (l : Ladder) (k : Nat) : State :=
  let s := s.onHang l.record fun h => { h with rungs := h.rungs + 1 }
  if k ≥ 4 then s.resetDevice else
  let s := s.dropDomain (s.inDomain l.unit k)
  let s := if k = 2 then s.dropSegments (watchedBlock l.unit) else s
  let s := match k with
    | 1 => s.resetEngine l.unit
    | 2 => s.resetBlock (watchedBlock l.unit)
    | _ => s.resetRegion ((watchedRegion l.unit).getD 0)
  let s := s.onResil fun r => { r with
    lastRung := BitVec.ofNat 3 k
    rung1 := if k = 1 then satAdd r.rung1 1 else r.rung1
    rung2 := if k = 2 then satAdd r.rung2 1 else r.rung2
    rung3 := if k = 3 then satAdd r.rung3 1 else r.rung3
    ladders := r.ladders.map fun x => if x.record = l.record then { x with rung := k } else x }
  s.settle

/-- R461, R462: the expiry is logged and counted, and the collection of a hang record begins. -/
def execWatchdogExpired (unit : WatchedUnit) (s : State) : Out :=
  .next <|
    if !s.start.loaded || s.resil.ladders.any (fun l => l.unit == unit) then s else
    let who := s.nameUnit unit
    let i := s.logs.hangNext.toNat
    let h : HangRecord :=
      { step := s.dial.step, pos := s.dial.pos, code := 0x115, region := BitVec.ofNat 2 who.region, level := BitVec.ofNat 2 who.level
        unit := BitVec.ofNat 14 who.unit, context := BitVec.ofNat 14 who.context, slot := BitVec.ofNat 2 who.slot
        basket := BitVec.ofNat 32 who.basket, rungs := 0, done := 0, partial_ := false, tag := s.engineTag (watchedTag unit), body := [] }
    let s := s.logDevice 0x115 who 0 0
    let s := s.onLogs fun l => { l with hangNext := l.hangNext + 1 }
    s.onResil fun r => { r with
      hangs := setAt r.hangs i HangRecord.zero, hangCount := satAdd r.hangCount 1, ladders := r.ladders ++ [⟨unit, 0, i, h⟩] }

/-- The first rung of a ladder (R463): a unit that passed a rung earlier in the step begins above it. -/
def State.firstRung (s : State) (u : WatchedUnit) : Nat :=
  nextRung u ((s.resil.passed.filter fun p => p.1 == u).foldl (fun m p => max m p.2) 0)

/-- The collection of the oldest hang record ends: its header is written (R514), and the reset proceeds. -/
def State.endCollection (s : State) (whole : Bool) : State :=
  match s.resil.ladders.find? fun l => l.rung == 0 with
  | none => s
  | some l =>
    let body := if whole then s.hangBody l.unit s.draws else (List.range 4032).map fun i => Config.hangInternal s.draws (64 + i)
    let s := s.onResil fun r => { r with
      hangs := setAt r.hangs l.record { l.header with body := body, partial_ := !whole }
      records := if r.records.toNat < 8 then r.records + 1 else r.records }
    s.draw.beginRung l (s.firstRung l.unit)

/-- R462: the record is whole. -/
def execHangRecordCollected (s : State) : Out := .next <| s.endCollection true

/-- R462: collection stopped at 50 µs; which bytes were collected is open. -/
def execHangRecordTimeout (s : State) : Out := .next <| s.endCollection false

/-- R463, R465: the oldest rung under way completes. -/
def execResetRungComplete (s : State) : Out :=
  .next <| match s.resil.ladders.find? fun l => l.rung != 0 with
  | none => s
  | some l =>
    let s := s.onHang l.record fun h => { h with done := h.done ||| (1#4 <<< (l.rung - 1)) }
    let s := s.advanceTags l.unit l.rung
    (s.onResil fun r => { r with
      ladders := r.ladders.filter fun x => x.record != l.record, passed := r.passed ++ [(l.unit, l.rung)] }).settle

/-- R463: 0x116, and the next rung begins. -/
def execResetRungTimeout (s : State) : Out :=
  .next <| match s.resil.ladders.find? fun l => l.rung != 0 with
  | none => s
  | some l => (s.logDevice 0x116 (s.nameUnit l.unit) 0 0).beginRung l (nextRung l.unit l.rung)

end Sys2Proof.Machine
end

