-- ==== Sys2Proof/Machine/Kept.lean ====
section
/-! DEFINITION. Forward values in the backward pass (R300–R307): stash entries read back, operations that a backward part re-runs,
and the work item a forward meaning runs for. -/

namespace Sys2Proof.Machine

/-- The micro-batch as a part of operation `j` sees it: the copies of its reruns before its own. -/
def MicroBatch.seenBy (m : MicroBatch) (j : Nat) : MicroBatch :=
  { m with copies := (m.reruns.filter fun x => x.1 / 4096 == j).foldl (fun l x => insertKey (x.1 % 4096) x.2 l) m.copies }

/-- The micro-batch a work item sees. -/
def State.viewMb (s : State) (t : TaskContext) : Option MicroBatch :=
  (s.itemMb t).map fun m => if t.part then m.seenBy t.op.toNat else m

/-- The next operation a running backward part re-runs: none where all have run. -/
def State.nextRerun (s : State) (t : TaskContext) : Option Nat :=
  match s.itemMb t, s.op t.op.toNat with
  | some m, some o => (s.rerunsFor m t.op.toNat o).find? fun k => !t.subs.contains k
  | _, _ => none

/-- Take copies for what a rerun writes (R300, R306): none where a copy is not free yet. -/
def State.takeReruns (s : State) (t : TaskContext) (o : Op) : Option State :=
  (o.writes.filter fun i => s.slotCfg.isKind i 3).foldlM (fun s i =>
    let key := 4096 * t.op.toNat + i
    match s.itemMb t with
    | none => none
    | some m =>
      if (pairOf key m.reruns).isSome then some s
      else (s.freeCopy i m.mb).map fun k => s.onMb m.mb m.step fun m => { m with reruns := insertKey key k m.reruns }) s

/-- Stash entries that a rerun reads. -/
def State.rerunEntries (s : State) (m : MicroBatch) (o : Op) : List StashEntry :=
  (o.reads.filter fun i => s.slotCfg.isKind i 3 && !s.mustRerun m i && (pairOf i m.copies).isNone).filterMap fun i => s.stashEntry m i false

/-- A running work item whose forward operation a command executes: the instance's own, or the next that a backward part re-runs.
`f` is given the operation's index. -/
def State.runForward (s : State) (c : CtxId) (f : TaskContext → Op → Nat → State → State) : State :=
  match s.ctx c with
  | some t =>
    if t.state ≠ 3 then s
    else if s.itemDropped t then (s.endDropped c).settle
    else if !t.part then (s.op t.op.toNat).elim s fun o => f t o t.op.toNat s
    else if !t.recompute then s
    else match s.nextRerun t, s.itemMb t with
      | some k, some m => (s.op k).elim s fun o =>
        if (s.rerunEntries m o).any (·.poisoned) then (s.dropFor c 0x0C1 0).settle
        else (s.takeReruns t o).elim s fun s => f t o k s
      | _, _ => s
  | none => s

/-- The forward operation has run: a forward instance ends, a rerun is done. -/
def State.endForward (s : State) (c : CtxId) (k : Nat) : State :=
  match s.ctx c with
  | some t => if t.part then s.setCtx c { t with subs := t.subs ++ [k] } else s.finish c
  | none => s

/-- A backward part whose reruns have all run. -/
def State.runBackward (s : State) (c : CtxId) (f : TaskContext → Op → State → State) : State :=
  s.runItem c true fun t o s => if t.recompute && (s.nextRerun t).isSome then s else f t o s

/-! ### Stash entries -/

/-- Elements are converted to FP8 (R302). -/
def State.converts (s : State) (x : Operand) : Bool := s.slotCfg.training.stashFp8 != 0 && decide (1 ≤ x.format ∧ x.format ≤ 3)

/-- Format code of the conversion and its scale. -/
def State.fp8Code (s : State) : Nat := 3 + s.slotCfg.training.stashFp8

/-- An element's FP8 code, and the value it returns as (R302). -/
def State.toFp8 (s : State) (v : Val) : Nat := elemCode s.fp8Code .nearestEven (v.scale s.slotCfg.training.fp8Scale)
def State.fromFp8 (s : State) (code : Nat) : Val := (elemVal s.fp8Code code).scale (-s.slotCfg.training.fp8Scale)

/-- Bytes of a row in an entry's stream: its values, then its winner indices. -/
def State.stashValueBytes (s : State) (x : Operand) : Nat := if s.converts x then roundUp x.n 64 else x.rowBytes
def State.stashRowBytes (s : State) (wins : Bool) (x : Operand) : Nat :=
  s.stashValueBytes x + (if wins then roundUp (4 * x.n) 64 else 0)

/-- Reverse of zero-run coding (R302): the words a mask byte lists, of those that follow. -/
def decodeBeat (mask : Nat) : List Nat → List Byte → List Byte × List Byte
  | [], bs => ([], bs)
  | i :: is, bs =>
    let here := if mask.testBit i then bs.take 8 else List.replicate 8 0
    let rest := decodeBeat mask is (if mask.testBit i then bs.drop 8 else bs)
    (here ++ rest.1, rest.2)

def decodeRuns : Nat → List Byte → List Byte
  | 0, _ => []
  | n + 1, bs =>
    let d := decodeBeat ((bs.head?).elim 0 (·.toNat)) (List.range 8) (bs.drop 1)
    d.1 ++ decodeRuns n d.2

/-- A region's part of a stash partition: first byte and pages (R303). A partition on a skipped port has none (R106). -/
def State.stashArea (s : State) (far : Bool) (region : Nat) : Option (Nat × Nat) :=
  let p := if far then (s.cfg.partMap.parts[s.slotCfg.training.farPart]?).filter fun p => s.slotCfg.training.farPart != 255 && !s.skippedTier p.tier
    else (s.partOf 3).map (·.2)
  p.map fun p => let pages := p.len / 4 / 4096; (memKey p.tier p.start + region * pages * 4096, pages)

def State.entryKey (s : State) (e : StashEntry) : Nat := (s.stashArea e.far e.region.val).elim 0 fun a => a.1 + e.page * 4096

/-- The raw stream of an entry of `n` bytes. -/
def State.entryStream (s : State) (e : StashEntry) (n : Nat) : List Byte :=
  decodeRuns (n / 64) (s.bytesAt (s.entryKey e + 64) (e.pages * 4096 - 64))

/-! ### Reading forward values -/

/-- What a backward part reads of an operand: a row as values, its winner indices, its poison. -/
structure KeptRow where
  vals   : List Val
  wins   : List Nat
  poison : Bool
  deriving DecidableEq, Repr

/-- Winner indices stored after a row's values (R228). -/
def winnersOf (n : Nat) (bytes : Nat) : List Nat := (List.range n).map fun k => field bytes (32 * k) 32

/-- A row of a copy. -/
def State.copyRow (s : State) (m : MicroBatch) (i : Nat) (x : Operand) (r : Nat) : KeptRow :=
  let place := s.rowPlace (some m) 0 i x r
  { vals := s.rowVals (some m) 0 i x r
    wins := if s.slotCfg.hasWinners i then winnersOf x.n (s.placeNum (place.plus x.rowBytes) (4 * x.n)) else []
    poison := s.placePoisoned place (x.rowBytes + (if s.slotCfg.hasWinners i then 4 * x.n else 0)) }

/-- The conversion of R302, there and back. -/
def State.through (s : State) (x : Operand) (v : Val) : Val := if s.converts x then s.fromFp8 (s.toFp8 v) else v

/-- Row `r` of a stash entry's stream. -/
def State.streamRow (s : State) (wins : Bool) (x : Operand) (stream : List Byte) (r : Nat) : KeptRow :=
  let n := s.stashRowBytes wins x
  let row := (stream.drop (r * n)).take n
  let v := s.stashValueBytes x
  { vals := if s.converts x then (List.range x.n).map fun k => s.fromFp8 ((row[k]?).elim 0 (·.toNat)) else x.values (ofLe (row.take v))
    wins := if wins then winnersOf x.n (ofLe (row.drop v)) else []
    poison := false }

/-- Every row that an operation's forward pass reads of an operand: its copy, or in a rerun what R306 gives it. `m` is the item's view. -/
def State.inputRows (s : State) (t : TaskContext) (m : MicroBatch) (v i : Nat) (x : Operand) : List KeptRow :=
  let plain (r : Nat) : KeptRow := ⟨s.rowVals (some m) v i x r, [], s.rowPoisoned (some m) v i x r⟩
  let rows := (List.range x.m).map plain
  if !t.part || x.kind ≠ 3 then rows
  else if (pairOf (4096 * t.op.toNat + i) m.reruns).isSome then
    if m.recompute.contains i then rows.map fun k => { k with vals := k.vals.map (s.through x) } else rows
  else match (if (pairOf i m.copies).isNone then s.stashEntry m i false else none) with
    | some e =>
      let wins := s.slotCfg.hasWinners i
      let stream := s.entryStream e (x.m * s.stashRowBytes wins x)
      (List.range x.m).map fun r => s.streamRow wins x stream r
    | none => rows

/-- Every row of a forward value (R301–R306), for operand `i`, or for the pre-activation of operation `j` whose `out` it is. -/
def State.keptRows (s : State) (t : TaskContext) (m : MicroBatch) (i : Nat) (x : Operand) (pre : Option Nat) : List KeptRow :=
  let marked := m.recompute.contains (pre.elim i fun j => markOf j true)
  let rows := (List.range x.m).map fun r => s.copyRow (m.seenBy t.op.toNat) i x r
  if marked then rows.map fun k => { k with vals := k.vals.map (s.through x) }
  else if pre.isNone && s.slotCfg.keptBy i != .stash then rows
  else match s.stashEntry m (pre.getD i) pre.isSome with
    | some e =>
      let wins := pre.isNone && s.slotCfg.hasWinners i
      let stream := s.entryStream e (x.m * s.stashRowBytes wins x)
      (List.range x.m).map fun r => s.streamRow wins x stream r
    | none => rows

/-- Stash entries a backward part reads. -/
def State.entriesRead (s : State) (m : MicroBatch) (j : Nat) (o : Op) : List StashEntry :=
  ((s.slotCfg.forwardValues o).filter fun i => s.slotCfg.keptBy i == .stash && !m.recompute.contains i).filterMap (fun i => s.stashEntry m i false) ++
    (if o.stashesPre && !m.recompute.contains (markOf j true) then (s.stashEntry m j true).toList else [])

/-- A backward part, unless a stash entry it reads is poisoned (R307): its lines are read, then the part runs. -/
def State.runUnpoisoned (s : State) (c : CtxId) (t : TaskContext) (o : Op) (f : MicroBatch → State → State) : State :=
  match s.itemMb t with
  | none => s
  | some m =>
    let es := s.entriesRead m t.op.toNat o
    let s := es.foldl (fun s e => s.noteReads (s.entryKey e) (e.pages * 4096) (s.nameOf c)) s
    if es.any (·.poisoned) then (s.dropFor c 0x0C1 0).settle else f m s

end Sys2Proof.Machine
end

