-- ==== Sys2Proof/Machine/Transcend.lean ====
section
/-! DEFINITION. Sigmoid, tanh, SiLU and GELU in its tanh form (R133) within 2 units in the last place of FP32 (R271): the true value is found
far beyond FP32's precision in fixed point, cut to FP32, and a free offset of −1 to 2 units says which of the results within the bound a
device gives (log entry 12). -/

namespace Sys2Proof.Machine

/-- Fraction bits of the fixed point. -/
def fixBits : Nat := 320

/-- ln 2 and 2 √(2/π) in fixed point. -/
def fixLn2 : Nat := 0xb17217f7d1cf79abc9e3b39803f2f6af40f343267298b62d8a0d175b8baafa2be7b876206debac98
def fixGelu : Nat := 0x19884533d436508d0fcb3c500bab8e2ff4e0a7cc1449c1b63011c6d20098e74ba77e2b15511f4f6dc

/-- e^r for r below 1, by its power series. -/
def fixExp (r : Nat) : Nat := (List.range 80).foldr (fun i acc => 2 ^ fixBits + acc * r / (2 ^ fixBits * (i + 1))) (2 ^ fixBits)

/-- e^−y as E ÷ D: values beyond 512 count as 512, where FP32 has come to its smallest number. -/
def expNeg (y : Nat) : Nat × Nat :=
  let y := min y (512 * 2 ^ fixBits)
  (2 ^ (2 * fixBits) / fixExp (y % fixLn2), 2 ^ (fixBits + y / fixLn2))

/-- m × 2^e in fixed point. -/
def fixOf (m : Nat) (e : Int) : Nat := m <<< (e + fixBits).toNat >>> (-(e + fixBits)).toNat

/-- |f(x)| as numerator and denominator for x = (−1)^neg × m × 2^e without its factor x, which SiLU and GELU have: functions 3 GELU,
4 SiLU, 5 sigmoid, 6 tanh. -/
def actRatio (f : Nat) (neg : Bool) (m : Nat) (e : Int) : Nat × Nat :=
  let x := fixOf m e
  let y := match f with
    | 3 => fixGelu * (x + x * x * x / 2 ^ (2 * fixBits) * 44715 / 1000000) / 2 ^ fixBits
    | 6 => 2 * x
    | _ => x
  let p := expNeg y
  (if f = 6 then p.2 - p.1 else if neg then p.1 else p.2, p.2 + p.1)

/-- |f(x)| cut to FP32. -/
def actMagnitude (f : Nat) (neg : Bool) (m : Nat) (e : Int) : Nat :=
  let q := actRatio f neg m e
  let factor := f = 3 ∨ f = 4
  fp32.roundMag (.stochastic 0) ((if factor then m else 1) * q.1 * 2 ^ 1400 / q.2) ((if factor then e else 0) - 1400)

/-- A magnitude code moved by units in the last place, as a signed FP32 number. -/
def moved (neg : Bool) (code : Nat) (by_ : Int) : BitVec 32 :=
  let c := (code : Int) + by_
  let neg := if c < 0 then !neg else neg
  BitVec.ofNat 32 (bit neg * 2 ^ 31 + min c.natAbs fp32.maxCode)

/-- A transcendental activation of an FP32 number (R133, R271). Of an infinity the result is free. -/
def transcend (f : Nat) (x : BitVec 32) : BitVec 32 :=
  match fp32.decode x.toNat with
  | .nan => BitVec.ofNat 32 fp32.nanCode
  | .inf _ => Config.activation f x
  | .fin neg m e => moved (neg && f != 5) (actMagnitude f neg m e) (((Config.activation f x).toNat % 4 : Nat) - 1)

end Sys2Proof.Machine
end

