-- ==== Sys2Proof/Machine/SpoutPool.lean ====
section
/-! DEFINITION. Work of the Spout pool: ACTIVATE, NORMALISE and LOSS (R136, R137), SPOUT (R139, R337), and the backward parts of
ACTIVATE and NORMALISE (R292, R293, R296). -/

namespace Sys2Proof.Machine

/-! ### Activation functions (R133, R271, R293) -/

def sub32 (a b : BitVec 32) : BitVec 32 := r32 ((v32 a).add (v32 b).neg)
/-- 1/64. -/
def leakySlope : BitVec 32 := r32 (.fin false 1 (-6))

/-- A function code applied in FP32. -/
def activate (f : Nat) (x : BitVec 32) : BitVec 32 :=
  match f with
  | 0 => x
  | 1 => if (v32 x).isNan || (v32 0).lt (v32 x) then x else 0
  | 2 => if (v32 x).isNan || (v32 0).lt (v32 x) then x else mul32 x leakySlope
  | _ => transcend f x

/-- Derivative (R293): from the stored output for ReLU, leaky ReLU, sigmoid and tanh, from the pre-activation for GELU and SiLU. -/
def derivative (f : Nat) (y : BitVec 32) : BitVec 32 :=
  match f with
  | 0 => one32
  | 1 => if (v32 0).lt (v32 y) then one32 else 0
  | 2 => if (v32 0).lt (v32 y) then one32 else leakySlope
  | 5 => mul32 y (sub32 one32 y)
  | 6 => sub32 one32 (mul32 y y)
  | _ => Config.activationDeriv f y

/-! ### Reads and drops -/

/-- A read of an operand's rows by a unit: stored poison is counted (R396, R398). -/
def State.noteOperand (s : State) (c : CtxId) (m : Option MicroBatch) (v i : Nat) (x : Operand) : State :=
  match s.rowPlace m v i x 0 with
  | .own k => s.noteReads k (x.m * s.slotCfg.rowStride i x) (s.nameOf c)
  | .remote _ => s

/-- A fabric word that a work item has read was poisoned (R31). -/
def State.readsBad (s : State) (c : CtxId) : Bool := s.gather.badLines.any fun x => x.1 == c

/-- A Spout core meets poison (R242, R286). -/
def State.dropPoison (s : State) (c : CtxId) : State := (s.dropFor c 0x0B0 0).settle

/-- Write an operand row by row. -/
def State.writeRows (s : State) (m : MicroBatch) (i : Nat) (x : Operand) (rows : List (List (BitVec 32))) : State :=
  rows.zipIdx.foldl (fun s r => s.writeRow (some m) 0 i x r.2 (valsOf r.1) false) s

/-! ### Forward -/

/-- R33, R121, R122, R130, R132, R136, R242, R271, R286, R306. -/
def execActivate (ctx : CtxId) (s : State) : Out :=
  .next <| s.runForward ctx fun t o k s =>
    match o.body, s.viewMb t with
    | .activate i out f, some m =>
      match s.operand i, s.operand out with
      | some x, some y =>
        let rows := s.inputRows t m 0 i x
        let s := s.noteOperand ctx (some m) 0 i x
        if rows.any (·.poison) || s.readsBad ctx then s.dropPoison ctx else
        ((s.writeRows m out y (rows.map fun r => (f32s r.vals).map (activate f))).endForward ctx k).draw
      | _, _ => s
    | _, _ => s

/-- Gain and bias rows of a NORMALISE (R136), and their poison. -/
def State.affineRows (s : State) (m : MicroBatch) (n : NormaliseOp) : List (BitVec 32) × List (BitVec 32) × Bool :=
  match s.operand n.affine with
  | some a =>
    let row (r : Nat) : List (BitVec 32) := f32s (s.rowVals (some m) m.weightV n.affine a r)
    (row 0, row 1, s.rowPoisoned (some m) m.weightV n.affine a 0 || s.rowPoisoned (some m) m.weightV n.affine a 1)
  | none => ([], [], false)

/-- R33, R121, R122, R130, R132, R136, R242, R286, R306, R308, R311. -/
def execNormalise (ctx : CtxId) (s : State) : Out :=
  .next <| s.runForward ctx fun t o k s =>
    match o.body, s.viewMb t with
    | .normalise n, some m =>
      match s.operand n.inp, s.operand n.out with
      | some x, some y =>
        let a := s.affineRows m n
        let rows := s.inputRows t m 0 n.inp x
        let s := s.noteOperand ctx (some m) 0 n.inp x
        let s := (s.operand n.affine).elim s fun z => s.noteOperand ctx (some m) m.weightV n.affine z
        if rows.any (·.poison) || a.2.2 || s.readsBad ctx then s.dropPoison ctx else
        ((s.writeRows m n.out y (rows.map fun r => Config.normaliseRow n.kind n.eps a.1 a.2.1 (f32s r.vals))).endForward ctx k).draw
      | _, _ => s
    | _, _ => s

/-- A target row that LOSS ignores (R137). -/
def ignoredTarget : Nat := 0xFFFFFFFFFFFFFFFF

/-- −1 in FP32. -/
def minusOne32 : BitVec 32 := r32 (v32 one32).neg

/-- The loss of a row in FP64 and the gradient rows it gives, by row of logits (R137). A margin ranking row with a positive loss has the derivatives −1
and 1 of margin − s_pos + s_neg; otherwise its loss and gradient are 0. -/
def lossOf (kind : Nat) (margin : BitVec 32) (logits : List (List (BitVec 32))) (r : Nat) (target : List Nat) : Word × List (Nat × List (BitVec 32)) :=
  if kind = 3 then
    let v := target.headD 0
    let score (i : Nat) : Val := v32 ((logits.getD i []).headD 0)
    let l := ((v32 margin).add (score (field v 0 32)).neg).add (score (field v 32 32))
    if l.isNan || (Val.fin false 0 0).lt l then
      (r64 l, [(field v 0 32, [minusOne32]), (field v 32 32, [one32])])
    else (0, [])
  else
    let x := Config.lossRow kind (logits.getD r []) target
    (x.1, [(r, x.2)])

/-- R33, R121, R122, R130, R132, R136, R137, R242, R286, R291, R297. -/
def execLoss (ctx : CtxId) (s : State) : Out :=
  .next <| s.runForward ctx fun t o k s =>
    match o.body, s.viewMb t with
    | .loss logits target grad kind margin, some m =>
      match s.operand logits, s.operand target with
      | some x, some y =>
        let rows := s.inputRows t m 0 logits x
        let bad := rows.any (·.poison) || s.operandPoisoned (some m) 0 target y || s.readsBad ctx
        let s := (s.noteOperand ctx (some m) 0 logits x).noteOperand ctx (some m) 0 target y
        if bad then s.dropPoison ctx else
        let vals := rows.map fun r => f32s r.vals
        let codes (r : Nat) : List Nat :=
          let row := s.rowNum (some m) 0 target y r
          if y.format = 0xC then [field row 0 64] else (List.range y.n).map fun j => storedCode y.format row j
        let live := (List.range y.m).filter fun r => !(y.format == 0xC && (codes r).headD 0 == ignoredTarget)
        let ls := live.map fun r => lossOf kind margin vals r (codes r)
        let s := s.onMb m.mb m.step fun m => { m with
          samples := m.samples + live.length, loss := ls.foldl (fun a l => add64 a l.1) m.loss }
        let give (gs : List (List (BitVec 32))) (g : Nat × List (BitVec 32)) : List (List (BitVec 32)) := modifyAt gs g.1 fun r => addRows r g.2
        let gs := (ls.flatMap (·.2)).foldl give (List.replicate x.m (List.replicate x.n 0))
        let s := if o.eval then s else (s.operand grad).elim s fun z => s.writeRows m grad z gs
        (s.endForward ctx k).draw
      | _, _ => s
    | _, _ => s

/-! ### SPOUT (R139) -/

/-- Bytes of one row of a table in an argument: a row, or an entry of an offset array. -/
def TableDesc.argRow (t : TableDesc) : Nat := if t.kind = 3 then 8 else t.rowBytes

/-- The node of a table argument at an offset along the rows that this device holds, in ascending entry (R161). -/
def State.argNode (s : State) (t : TableDesc) (off : Nat) : Option Nat :=
  ((s.layout.zipIdx.filter fun e => e.1.table == t.id && s.ownsEntry e.1).foldl (fun (a : Nat × Option Nat) e =>
    let n := shardRange s.layout (t.nodes + 1) e.2
    if a.2.isSome then a else if a.1 < n then (a.1, some (e.1.first + a.1)) else (a.1 - n, none)) (off / t.argRow, none)).2

/-- Where a byte of a table argument stands: in the live version of its row. -/
def State.tableKey (s : State) (t : TableDesc) (off : Nat) : Option Nat :=
  ((s.argNode t off).bind fun n => s.ownRowKey t (s.liveVersion t.id) n).map (· + off % t.argRow)

/-- A run of bytes cut at the rows it meets. -/
def rowPieces (size off : Nat) (bs : List Byte) : List (Nat × List Byte) :=
  let head := min bs.length (size - off % size)
  (off, bs.take head) ::
    (List.range (ceilDiv (bs.length - head) size)).map fun i => (off + head + size * i, (bs.drop (head + size * i)).take size)

/-- Bytes an item may address of an argument (R139): a copy of a tensor, the constants of a block, a table's rows on this device. -/
def State.argBytes (s : State) (i : Nat) : Nat :=
  match s.operand i with
  | none => 0
  | some x =>
    if x.kind = 5 then (x.cols + 1) * 16
    else if x.kind = 4 then (((s.ownExtents s.layout).filter fun y => y.1 == x.table && y.2.1 == s.liveVersion x.table).map (·.2.2.2.2)).sum
    else s.slotCfg.copyBytes i x

/-- An argument that Spout code may write: no constants, which are set from the image and read-only, no row that only OPTIMIZE writes (R156), and
at scope 0 only kind 3 (R337). -/
def State.mayWriteArg (s : State) (scope0 : Bool) (i : Nat) : Bool :=
  match s.operand i with
  | none => false
  | some x => if scope0 then x.kind == 3
      else x.kind != 5 && !(x.kind == 4 && (s.table x.table).any fun t => t.kind == 2 || t.kind == 4)

/-- An access outside the item's arguments (R139), or beyond the core's 128 KiB (R337). -/
def State.spoutBad (s : State) (args : List Nat) (scope0 : Bool) : SpoutAccess → Bool
  | .write a off bs =>
    let i := args.getD a.val noOperand
    !s.mayWriteArg scope0 i || decide (s.argBytes i < off + bs.length)
  | .read a off n => decide (s.argBytes (args.getD a.val noOperand) < off + n)
  | .keep off bs => decide (131072 < off + bs.length)

/-- One access within bounds, by a core. -/
def State.spoutAccess (s : State) (c : CtxId) (core : Nat) (m : Option MicroBatch) (args : List Nat) (acc : SpoutAccess) : State :=
  match acc with
  | .write a off bs =>
    let i := args.getD a.val noOperand
    (s.operand i).elim s fun x =>
      if x.kind = 4 then (s.table x.table).elim s fun t => (rowPieces t.argRow off bs).foldl (fun s b => (s.argNode t b.1).elim s fun n =>
        s.storeRow t (s.liveVersion t.id) n (b.1 % t.argRow) b.2 false) s
      else s.placeStore ((s.operandBase m s.weightVersion.toNat i x).plus off) bs false
  | .read a off n =>
    let i := args.getD a.val noOperand
    match s.operand i with
    | none => s
    | some x =>
      if x.kind = 5 then s
      else if x.kind = 4 then (s.table x.table).elim s fun t => (List.range n).foldl (fun s j => (s.tableKey t (off + j)).elim s fun k =>
        if j = 0 ∨ k % 64 = 0 then s.noteReads k 1 (s.nameOf c) else s) s
      else match (s.operandBase m s.weightVersion.toNat i x).plus off with
        | .own k => s.noteReads k n (s.nameOf c)
        | .remote _ => s
  | .keep off bs =>
    let old := (lookupNat core s.memory.spoutLocal).getD []
    s.onMemory fun y => { y with spoutLocal := insertKey core (bs.zipIdx.foldl (fun l b => insertKey (off + b.2) b.1 l) old) y.spoutLocal }

/-- An access reads poison. -/
def State.spoutPoison (s : State) (m : Option MicroBatch) (args : List Nat) : SpoutAccess → Bool
  | .read a off n =>
    let i := args.getD a.val noOperand
    (s.operand i).any fun x =>
      if x.kind = 5 then false
      else if x.kind = 4 then (s.table x.table).any fun t => (List.range n).any fun j => (s.tableKey t (off + j)).any fun k => s.rangePoisoned k 1
      else s.placePoisoned ((s.operandBase m s.weightVersion.toNat i x).plus off) n
  | _ => false

/-- An item's accesses in their order, and whether it has read poison, from memory or from the fabric (R31, R242). -/
def State.spoutRun (s : State) (c : CtxId) (core : Nat) (m : Option MicroBatch) (args : List Nat) (accs : List SpoutAccess) : State × Bool :=
  accs.foldl (fun x a => (x.1.spoutAccess c core m args a, x.2 || x.1.spoutPoison m args a)) (s, s.readsBad c)

/-- What exceeding bounds or budget does (R139): the micro-batch is cancelled, or the device halts at the boundary. -/
def State.spoutFault (s : State) (c : CtxId) (o : Op) (k code : Nat) : State :=
  if o.scope = 0 then (s.dropFor c code 0).settle
  else ((s.logDevice code (s.nameOf c) 0 0).haltAtBoundary 2).endForward c k

/-- R31, R122, R139, R242, R306, R337: the code's accesses; a scope-0 item that reads poison drops its micro-batch. A scope-2 instance runs as 32 sub-items, sub-item r on a core of region r mod 4, and ends with
the last of them. -/
def execSpout (ctx : CtxId) (sub : Fin 32) (accesses : List SpoutAccess) (s : State) : Out :=
  .next <| s.runForward ctx fun t o k s =>
    match o.body with
    | .spout _ args _ =>
      let whole := o.scope != 2
      let region := if whole then ctx.region.val else sub.val % 4
      match (if whole then some t.unitIndex.toNat else s.freeSpout region (some ctx)) with
      | none => s
      | some core =>
        if !whole && t.subs.contains sub.val then s
        else if accesses.any (s.spoutBad args (o.scope == 0)) then s.spoutFault ctx o k 0x07C
        else
          let m := s.viewMb t
          let r := s.spoutRun ctx (9 * region + core) m args accesses
          let s := r.1
          if o.scope == 0 && r.2 then s.dropPoison ctx else
          let t' := { t with subs := t.subs ++ [sub.val] }
          if whole then s.endForward ctx k
          else if t'.subs.length = 32 then (s.setCtx ctx t').endForward ctx k
          else s.setCtx ctx t'
    | _ => s

/-- R139: the budget counter exceeds SPOUT.budget. -/
def execSpoutBudget (ctx : CtxId) (s : State) : Out :=
  .next <| s.runForward ctx fun _ o k s =>
    match o.body with
    | .spout _ _ _ => s.spoutFault ctx o k 0x07D
    | _ => s

/-! ### Backward -/

/-- Gradient rows of an operand: values, and whether any is poisoned. -/
def State.gradRows (s : State) (m : MicroBatch) (i : Nat) (x : Operand) : List (List (BitVec 32)) × Bool :=
  let rows := List.range x.m
  (rows.map (s.companionVals m i x), rows.any fun r => s.companionSet m i r && s.placePoisoned (s.companionRow m i x r) (4 * x.n))

/-- Add rows into a companion in ascending row (R292). -/
def State.addGradRows (s : State) (m : MicroBatch) (i : Nat) (rows : List (List (BitVec 32))) : State :=
  rows.zipIdx.foldl (fun s r => s.addCompanion m.mb m.step i r.2 r.1 fun _ => false) s

/-- Sum of rows in ascending order. -/
def sumRows : List (List (BitVec 32)) → List (BitVec 32)
  | [] => []
  | r :: rs => rs.foldl addRows r

/-- R242, R286, R291–R293, R301, R306, R307: ACTIVATE. -/
def State.activateBack (s : State) (c : CtxId) (t : TaskContext) (m : MicroBatch) (i out f : Nat) : State :=
  match s.operand i, s.operand out with
  | some x, some y =>
    let from' := if f = 3 ∨ f = 4 then s.keptRows t m i x none else s.keptRows t m out y none
    let g := s.gradRows m out y
    if g.2 || from'.any (·.poison) || s.readsBad c then s.dropPoison c else
    let rows := List.zipWith (fun g k => List.zipWith (fun a b => mul32 a (derivative f b)) g (f32s k.vals)) g.1 from'
    ((s.addGradRows m i rows).finish c).draw
  | _, _ => s

/-- R136, R242, R286, R291, R292, R296, R301, R306, R307: NORMALISE. -/
def State.normaliseBack (s : State) (c : CtxId) (t : TaskContext) (o : Op) (m : MicroBatch) (n : NormaliseOp) : State :=
  match s.operand n.inp, s.operand n.out with
  | some x, some y =>
    let kept := s.keptRows t m n.inp x none
    let g := s.gradRows m n.out y
    let a := s.affineRows m n
    if g.2 || a.2.2 || kept.any (·.poison) || s.readsBad c then s.dropPoison c else
    let rows := List.zipWith (fun g k => Config.normaliseRowBack n.kind n.eps a.1 (f32s k.vals) g) g.1 kept
    let s := s.addGradRows m n.inp (rows.map (·.1))
    let j := t.op.toNat
    let s := if s.slotCfg.stagingBytes o = 0 then s else
      let s := s.takeStaging m.mb m.step j o
      match s.itemMb t with
      | none => s
      | some m =>
        let k := s.stagingBase m j o
        (s.store k (bytes32 (sumRows (rows.map (·.2.1)))) false).store (k + roundUp (4 * x.n) 64) (bytes32 (sumRows (rows.map (·.2.2)))) false
    (s.finish c).draw
  | _, _ => s

/-- R33, R140, R242, R286, R291–R293, R296, R301, R306, R307. -/
def execSpoutPoolBackward (ctx : CtxId) (s : State) : Out :=
  .next <| s.runBackward ctx fun t o s => s.runUnpoisoned ctx t o fun m s =>
    match o.body with
    | .activate i out f => s.activateBack ctx t m i out f
    | .normalise n => s.normaliseBack ctx t o m n
    | _ => s

end Sys2Proof.Machine
end

