-- ==== Sys2Proof/Machine/Array.lean ====
section
/-! DEFINITION. The tall array: how a product is cut into arcs, row tiles and passes (R251, R257, R258, R275, R276), the rows and
weights it multiplies (R252, R277, R278, R295), the Basin's tile rows (R265–R269). -/

namespace Sys2Proof.Machine

/-! ### Cutting a product -/

/-- A product of a TRANSFORM: 0 forward, 1 dX, 2 dW; its operands in_a, w and out; rows of a row tile, T. -/
structure Shape where
  q    : TransformOp
  kind : Nat
  x    : Operand
  w    : Operand
  y    : Operand
  tile : Nat
  deriving DecidableEq, Repr

/-- Operand whose format the streamed rows have: dY enters narrowed to the format of out (R295). -/
def Shape.stream (h : Shape) : Operand := if h.kind = 1 then { h.y with sparsity := 0 } else h.x

/-- Bytes of a streamed row, Rin (R258). -/
def Shape.rin (h : Shape) : Nat := h.stream.rowBytes

/-- Rows of a row tile of `rin`-byte rows, T (R258). -/
def tileRows (rin : Nat) : Nat :=
  let t := min 256 (131072 / rin)
  if 16 ≤ t then t / 16 * 16 else t

/-- Operations of a micro-batch that share an out operand's tile rows (R272); a backward product shares none. -/
def State.sharers (s : State) (p : Product) : List Nat :=
  if p.kind ≠ 0 then [p.op] else
  match s.op p.op with
  | none => []
  | some o => (s.slotCfg.ops.zipIdx.filter fun x => s.inPass o.eval x.1 && match x.1.body, o.body with
      | .transform a, .transform b => a.out == b.out
      | _, _ => false).map (·.2)

/-- Bytes of a row of an operation's in_a. -/
def State.inRow (s : State) (j : Nat) : Option Nat := (s.op j).bind fun o => match o.body with
  | .transform q => (s.operand q.inA).map (·.rowBytes)
  | _ => none

/-- The shape of a product. Operations that share out share its segments, so T is the smallest that one of them gives (DESIGN CHOICE, log
entry 72). -/
def State.shape (s : State) (p : Product) : Option Shape :=
  match s.op p.op with
  | some o => match o.body with
    | .transform q => match s.operand q.inA, s.operand q.w, s.operand q.out with
      | some x, some w, some y =>
        let h : Shape := ⟨q, p.kind, x, w, y, 0⟩
        let others := if p.kind = 0 then (s.sharers p).filterMap s.inRow else []
        some { h with tile := (others.map tileRows).foldl min (tileRows h.rin) }
      | _, _, _ => none
    | _ => none
  | none => none

/-- Cell columns and summed positions of the product (R275). -/
def Shape.cols (h : Shape) : Nat := if h.kind = 1 then h.w.n else h.w.m
def Shape.depth (h : Shape) : Nat := if h.kind = 0 then h.w.n else if h.kind = 1 then h.w.m else h.x.m

/-- Positions a chunk covers (R251, R277). -/
def Shape.chunk (h : Shape) : Nat := if h.kind = 0 ∧ h.w.sparsity ≠ 0 then 128 else 64

/-- Cells of an arc, G, and arcs, A (R257). -/
def Shape.arcCells (h : Shape) : Nat :=
  let n := ceilDiv (min h.cols 256) 16
  ([1, 2, 4, 8].find? fun g => n ≤ g).getD 16
def Shape.arcs (h : Shape) : Nat := 16 / h.arcCells

/-- Rows of row tile `t`, bytes it takes. -/
def Shape.tileRows (h : Shape) (t : Nat) : Nat := min h.tile (h.x.m - t * h.tile)
def Shape.tileBytes (h : Shape) (t : Nat) : Nat := h.tileRows t * h.rin

/-- Each issue slot carries two rows (R255). -/
def Shape.paired (h : Shape) : Bool :=
  let a := if h.kind = 0 then h.x.format else h.y.format
  let b := if h.kind = 2 then h.x.format else h.w.format
  max (rateClass a) (rateClass b) == 0

/-- A pass: row tile, column pass, group of 256 tile rows of dW, K position in chunks. -/
structure Pass where
  tile  : Nat
  col   : Nat
  group : Nat
  k     : Nat
  deriving DecidableEq, Repr, Inhabited

/-- Passes of arc `a` in order (R258, R275): the tile rows of dW are columns of X, so each of its groups runs over all row tiles of the
arc before the next. -/
def Shape.arcPasses (h : Shape) (a : Nat) : List Pass :=
  let tiles := (List.range (ceilDiv h.x.m h.tile)).filter fun t => t % h.arcs == a
  let cols := List.range (ceilDiv h.cols 256)
  if h.kind = 2 then
    cols.flatMap fun c => (List.range (ceilDiv h.w.n 256)).flatMap fun g => tiles.flatMap fun t =>
      (List.range (ceilDiv (h.tileRows t) 64)).map fun k => ⟨t, c, g, k⟩
  else tiles.flatMap fun t => cols.flatMap fun c => (List.range (ceilDiv h.depth h.chunk)).map fun k => ⟨t, c, 0, k⟩

/-- Tile rows that a pass writes. -/
def Shape.passRows (h : Shape) (p : Pass) : Nat := if h.kind = 2 then min 256 (h.w.n - 256 * p.group) else h.tileRows p.tile

/-- Issue units of a pass: rows, or pairs of rows (R255, R282). -/
def Shape.units (h : Shape) (p : Pass) : Nat := if h.paired then ceilDiv (h.passRows p) 2 else h.passRows p
def Shape.unitRows (h : Shape) (p : Pass) (u : Nat) : List Nat :=
  if h.paired then [2 * u, 2 * u + 1].filter fun r => r < h.passRows p else [u]

/-- Units of each lane at the start of a pass (R282). -/
def Shape.lanes (h : Shape) (p : Pass) : List (List Nat) :=
  let n := h.units p
  (List.range 4).map fun j => (List.range n).filter fun u => j * n / 4 ≤ u && u < (j + 1) * n / 4

/-- Bit `n` of the mask: its weight row is trained (R133, R276). -/
def State.maskBit (s : State) (q : TransformOp) (n : Nat) : Bool :=
  if !q.masked then true else
  match s.operand q.mask with
  | none => true
  | some x =>
    let i := if q.maskBlock then n / 16 else n
    (storedCode x.format (s.rowNum none 0 q.mask x (i / 64 / x.n)) (i / 64 % x.n)).testBit (i % 64)

/-- Columns that a cell's processing-element columns hold in a pass: element and column, the idle ones left out (R257, R276). -/
def State.passCols (s : State) (h : Shape) (place : Nat) (p : Pass) : List (Nat × Nat) :=
  ((List.range 16).map fun e => (e, 256 * p.col + 16 * place + e)).filter fun c =>
    c.2 < h.cols && (h.kind != 2 || s.maskBit h.q c.2)

/-- Passes in which a cell takes part. -/
def State.cellPasses (s : State) (h : Shape) (arc place : Nat) : List Pass :=
  (h.arcPasses arc).filter fun p => !(s.passCols h place p).isEmpty

/-- The passes over one row tile, one after the other, and the passes into one segment. -/
def Shape.visit (h : Shape) (p : Pass) : Nat × Nat × Nat := if h.kind = 2 then (p.col, p.group, p.tile) else (0, 0, p.tile)
def Shape.segKey (h : Shape) (p : Pass) : Nat × Nat × Nat := if h.kind = 2 then (0, p.col, p.group) else (p.tile, p.col, 0)

/-- Row tiles in the order a cell streams them. -/
def Shape.visits (h : Shape) : List Pass → List Nat
  | [] => []
  | [p] => [p.tile]
  | p :: q :: ps => if h.visit p = h.visit q then h.visits (q :: ps) else p.tile :: h.visits (q :: ps)

/-! ### Places in tier 0x4 (R40, R260, R265) -/

def cellBase (b c : Nat) : Nat := memKey 4 (b / 9 * 2 ^ 30 + b % 9 * 2 ^ 26 + c * 2 ^ 21)

/-- First byte of tile `slot` of a cell's weight area, of tiles of `size` bytes one after the other (DESIGN CHOICE, log entry 73). -/
def weightArea (b c slot size : Nat) : Nat := cellBase b c + slot * size

/-- First byte of half `f` of a cell's row area. -/
def rowArea (b c f : Nat) : Nat := cellBase b c + 0xC0000 + f * 0x20000

/-- A tile row of the Basin. -/
def tileRow (b c seg r : Nat) : Nat := cellBase b c + 0x100000 + (seg * 256 + r) * 64

/-! ### Streamed rows -/

/-- Micro-batch of a product as its part sees it (R306). -/
def State.productMb (s : State) (p : Product) : Option MicroBatch :=
  (s.mbOf p.mb p.step).map fun m => if p.part = 0 then m else m.seenBy (p.part - 1)

/-- 64-bit words of a dense row that hold an element or its block scale. -/
def elemWords (x : Operand) (j : Nat) : List Nat :=
  let w := elemBits x.format
  (List.range ((j * w + w - 1) / 64 - j * w / 64 + 1)).map (fun i => j * w / 64 + i) ++
    (if isMx x.format then [(valueBytes x.format x.sparsity x.n + j / 32) / 8] else [])

/-- dY of a row, narrowed to the format of out (R295): its bytes, and the marks of its words. -/
def State.dyRow (s : State) (m : MicroBatch) (h : Shape) (r : Nat) : List Byte × List Nat :=
  let y := { h.y with sparsity := 0 }
  let place := s.companionRow m h.q.out h.y r
  let bad (j : Nat) : Bool := s.companionSet m h.q.out r && s.placePoisoned (place.plus (4 * j)) 4
  (y.encode rne (valsOf (s.companionVals m h.q.out h.y r)), ((List.range y.n).filter bad).flatMap (elemWords y))

/-- Rows as the fabric delivers them to a head cell: their bytes, and the marks of their 64-bit words. -/
def State.sourceRows (s : State) (p : Product) (h : Shape) : List (List Byte × List Nat) :=
  match s.ctx p.ctx, s.productMb p with
  | some t, some m =>
    if h.kind = 1 then (List.range h.y.m).map (s.dyRow m h) else
    let i := h.q.inA
    let rows := if h.kind = 2 ∧ h.x.kind = 3 then s.keptRows t m i h.x none else s.inputRows t m 0 i h.x
    rows.zipIdx.map fun k =>
      let place := s.rowPlace (some m) 0 i h.x k.2
      let raw := s.placeNum place h.x.rowBytes
      (if h.x.values raw = k.1.vals then leBytes raw h.x.rowBytes else padTo h.x.rowBytes (h.x.encode rne k.1.vals),
        if k.1.poison then (List.range (h.x.rowBytes / 8)).filter fun w => s.placePoisoned (place.plus (8 * w)) 8 else [])
  | _, _ => []

/-- A value of a streamed row, and whether its element encodes zero whatever its block scale (R281). -/
def elemOf (x : Operand) (row j : Nat) : Val × Bool :=
  if j < x.n then (storedVal x.format x.sparsity x.n x.scale row j j, (elemVal x.format (storedCode x.format row j)).isZero)
  else (.fin false 0 0, true)

/-- The chunk of a pass that tile row `r` takes (R251, R275): for dW, a column of X over 64 rows. -/
def State.chunkVals (s : State) (b c : Nat) (h : Shape) (half : Nat) (p : Pass) (r : Nat) : List (Val × Bool) :=
  let x := h.stream
  let row (i : Nat) : Nat := s.numAt (rowArea b c half + i * h.rin) h.rin
  if h.kind = 2 then
    (List.range 64).map fun j => if 64 * p.k + j < h.tileRows p.tile then elemOf x (row (64 * p.k + j)) (256 * p.group + r)
      else (.fin false 0 0, true)
  else
    let v := row r
    (List.range h.chunk).map fun j => if h.chunk * p.k + j < h.depth then elemOf x v (h.chunk * p.k + j) else (.fin false 0 0, true)

/-- Words of the half's row tile that a chunk's values lie in. -/
def Shape.chunkWords (h : Shape) (p : Pass) (r : Nat) : List Nat :=
  let x := h.stream
  let at_ (i j : Nat) : List Nat := (elemWords x j).map fun w => i * h.rin / 8 + w
  if h.kind = 2 then ((List.range 64).filter fun j => 64 * p.k + j < h.tileRows p.tile).flatMap fun j => at_ (64 * p.k + j) (256 * p.group + r)
  else ((List.range h.chunk).filter fun j => h.chunk * p.k + j < h.depth).flatMap fun j => at_ r (h.chunk * p.k + j)

/-! ### Stationary tiles -/

/-- Winner indices of a row of out (R228). -/
def State.winnersAt (s : State) (p : Product) (h : Shape) (r : Nat) : List Nat :=
  match s.ctx p.ctx, s.mbOf p.mb p.step with
  | some t, some m => ((s.keptRows t m h.q.out h.y none).getD r ⟨[], [], false⟩).wins
  | _, _ => []

/-- Operand whose format a weight tile has: w, or dY narrowed to the format of out (R275, R295). -/
def Shape.station (h : Shape) : Operand := if h.kind = 2 then { h.y with sparsity := 0 } else h.w

/-- Block scales and metadata bits per value of a column of a weight tile (R253, R277); where the values come from as many rows, a scale
each. -/
def Shape.tileScales (h : Shape) : Nat := if !isMx h.station.format then 0 else if h.kind = 0 then h.chunk / 32 else 64
def Shape.tileMeta (h : Shape) : Nat := if h.kind ≠ 0 ∨ h.w.sparsity = 0 then 0 else if h.w.sparsity = 1 then 2 else 3

/-- Bytes of a column of a weight tile in stored form: 64 values, block scales, metadata. -/
def Shape.colBytes (h : Shape) : Nat := 8 * elemBits h.station.format + h.tileScales + 8 * h.tileMeta

/-- Bytes of a weight tile. -/
def Shape.weightBytes (h : Shape) : Nat := 16 * h.colBytes

/-- Code and block scale of a dense position of a stored row, sparse rows expanded (R275). -/
def Operand.denseCode (x : Operand) (row i : Nat) : Nat × Nat :=
  let code := if x.sparsity = 0 then storedCode x.format row i
    else (((List.range (storedVals x.format x.sparsity x.n)).filter fun j => metaPos x.format x.sparsity x.n row j == i).getLast?).elim 0
      (storedCode x.format row)
  (code, rowScale x.format x.sparsity x.n row i)

/-- A column of a weight tile as it is fetched (R251, R275, R277): of w, of w read the other way for dX, of dY for dW. -/
def State.tileColumn (s : State) (h : Shape) (m : MicroBatch) (q : Pass) (n : Nat) : List Byte :=
  let z := h.station
  let w (r : Nat) : Nat := s.rowNum (some m) m.weightV h.q.w h.w r
  let v := w n
  let pes := (List.range 64).map fun j =>
    let i := 64 * q.k + j
    if h.kind = 0 then (if (if z.sparsity = 0 then z.n else storedVals z.format z.sparsity z.n) ≤ i then 0 else storedCode z.format v i, 0)
    else if h.kind = 1 then (if h.w.m ≤ i then (0, 0) else h.w.denseCode (w i) n)
    else if h.tileRows q.tile ≤ i then (0, 0)
    else z.denseCode (ofLe (s.dyRow m h (q.tile * h.tile + i)).1) n
  let scales := if h.kind = 0 then (List.range h.tileScales).map fun b =>
      let i := h.chunk * q.k + 32 * b
      if i < z.n then rowScale z.format z.sparsity z.n v i else 0
    else (pes.map (·.2)).take h.tileScales
  let mark := field v (8 * (valueBytes z.format z.sparsity z.n + scaleBytes z.format z.sparsity z.n) + 64 * q.k * h.tileMeta) (64 * h.tileMeta)
  leBytes (pack (pes.map fun x => (x.1, elemBits z.format))) (8 * elemBits z.format) ++ scales.map (BitVec.ofNat 8) ++ leBytes mark (8 * h.tileMeta)

/-- A weight tile as it is fetched: the sixteen columns, the idle ones zero. -/
def State.fetchTile (s : State) (p : Product) (h : Shape) (place : Nat) (q : Pass) : List Byte :=
  let cols := s.passCols h place q
  (s.productMb p).elim [] fun m => (List.range 16).flatMap fun e =>
    (cols.find? (·.1 == e)).elim (List.replicate h.colBytes 0) fun c => s.tileColumn h m q c.2

/-- What element column `e` holds of a weight tile: chunk positions and values (R251, R277, R278). -/
def Shape.tileVals (h : Shape) (q : Pass) (tile : List Byte) (e : Nat) : List (Nat × Val) :=
  let z := h.station
  let w := elemBits z.format
  let c := ofLe ((tile.drop (e * h.colBytes)).take h.colBytes)
  let index (j : Nat) : Nat := field c (64 * w + 8 * h.tileScales + j * h.tileMeta) h.tileMeta
  let stored := if h.kind = 0 ∧ z.sparsity ≠ 0 then storedVals z.format z.sparsity z.n else 64 * q.k + 64
  ((List.range 64).filter fun j => 64 * q.k + j < stored).map fun j =>
    let at_ := if h.tileMeta = 0 then j else if h.tileMeta = 2 then 4 * (j / 2) + index j else 8 * (j / 4) + index j
    let v := elemVal z.format (field c (j * w) w)
    (at_, if h.kind = 0 && z.sparsity = 0 && decide (z.n ≤ 64 * q.k + j) then .fin false 0 0
      else if isMx z.format then mxScaled (field c (64 * w + 8 * (if h.kind = 0 then at_ / 32 else j)) 8) v
      else if z.format = 4 ∨ z.format = 5 then v.scale z.scale else v)

/-- What column `n`, element column `e`, multiplies a chunk by. With acc 1 or 2 the backward products take only what went to the winner
(R134). -/
def State.stationary (s : State) (p : Product) (h : Shape) (q : Pass) (tile : List Byte) (e n row : Nat) : List (Nat × Val) :=
  let vs := h.tileVals q tile e
  let zero : Val := .fin false 0 0
  if h.kind = 0 ∨ h.q.acc = 0 then vs
  else if h.kind = 1 then
    let wins := s.winnersAt p h (q.tile * h.tile + row)
    vs.map fun v => (v.1, if wins.getD (64 * q.k + v.1) 0xFFFFFFFF ≠ n then zero else v.2)
  else
    vs.map fun v => (v.1, if (s.winnersAt p h (q.tile * h.tile + 64 * q.k + v.1)).getD n 0xFFFFFFFF ≠ 256 * q.group + row then zero else v.2)

/-- A value of the pass's tile is poisoned in memory (R286). -/
def State.tilePoisoned (s : State) (p : Product) (h : Shape) (place : Nat) (q : Pass) : Bool :=
  match s.productMb p with
  | none => false
  | some m =>
    let cols := (s.passCols h place q).map (·.2)
    let w (r j : Nat) : Bool :=
      let at_ := s.rowPlace (some m) m.weightV h.q.w h.w r
      if h.w.sparsity ≠ 0 then s.placePoisoned at_ h.w.rowBytes
      else (elemWords h.w j).any fun i => s.placePoisoned (at_.plus (8 * i)) 8
    let ks (n : Nat) : List Nat := ((List.range h.chunk).map fun j => h.chunk * q.k + j).filter (· < n)
    if h.kind = 0 then cols.any fun n => (ks h.w.n).any (w n)
    else if h.kind = 1 then (ks h.w.m).any fun n => cols.any (w n)
    else (ks (h.tileRows q.tile)).any fun i =>
      let bad := (s.dyRow m h (q.tile * h.tile + i)).2
      cols.any fun n => (elemWords { h.y with sparsity := 0 } n).any bad.contains

/-- Products of a column (R252). -/
def terms (chunk : List (Val × Bool)) (st : List (Nat × Val)) : List (Val × Val) :=
  st.map fun x => ((chunk.getD x.1 (.fin false 0 0, true)).1, x.2)

/-! ### The Basin (R265–R269) -/

/-- The segment a cell has allocated for a pass. -/
def State.segmentFor (s : State) (b : Nat) (p : Product) (h : Shape) (c : Nat) (q : Pass) : Option Segment :=
  let k := h.segKey q
  (s.blocks.getD b BlockState.reset).segments.find? fun g =>
    g.cell == c && g.out == h.q.out && g.mb == p.mb && g.step == p.step && g.kind == p.kind && g.part == p.part &&
      g.tile == k.1 && g.col == k.2.1 && g.group == k.2.2

/-- The lowest segment a cell can allocate (R265): with an index plane, its partner is free too. -/
def BlockState.freeSegment (x : BlockState) (c acc : Nat) : Option Nat :=
  let used := (x.segments.filter fun g => g.cell == c).flatMap fun g => if g.acc = 0 then [g.num] else [g.num, g.num + 16]
  if acc = 0 then (List.range 32).find? fun n => !used.contains n
  else (List.range 16).find? fun n => !used.contains n && !used.contains (n + 16)

def State.onSegment (s : State) (b : Nat) (g : Segment) (f : Segment → Segment) : State :=
  s.onBlock b fun x => { x with segments := x.segments.map fun h => if h.cell == g.cell && h.num == g.num then f h else h }

/-- An element of a live tile row after another write (R267, R268): a value and its index. -/
def accumulate (acc : Nat) (old new : BitVec 32 × BitVec 32) : BitVec 32 × BitVec 32 :=
  if acc = 0 then (add32 old.1 new.1, 0)
  else if acc = 1 then (if betterMax new old then new else old)
  else if betterMin new old then new else old

/-- Write into a tile row (R266): elements with their values and indices. -/
def State.basinPut (s : State) (b : Nat) (g : Segment) (r : Nat) (vs : List (Nat × BitVec 32 × BitVec 32)) : State :=
  let live := (s.blocks.getD b BlockState.reset).segments.any fun h => h.cell == g.cell && h.num == g.num && h.live.contains r
  let word (seg e : Nat) : BitVec 32 := BitVec.ofNat 32 (s.numAt (tileRow b g.cell seg r + 4 * e) 4)
  let put (s : State) (v : Nat × BitVec 32 × BitVec 32) : State :=
    let x := if live then accumulate g.acc (word g.num v.1, word (g.num + 16) v.1) v.2 else v.2
    let s := s.store (tileRow b g.cell g.num r + 4 * v.1) (leBytes x.1.toNat 4) false
    if g.acc = 0 then s else s.store (tileRow b g.cell (g.num + 16) r + 4 * v.1) (leBytes x.2.toNat 4) false
  (vs.foldl put s).onSegment b g fun h => { h with live := insertNat r h.live }

/-- The best of a chunk's candidates (R268). -/
def bestOf (acc : Nat) : List (BitVec 32 × BitVec 32) → BitVec 32 × BitVec 32
  | [] => (0, 0xFFFFFFFF)
  | c :: cs => cs.foldl (fun w x => accumulate acc w x) c

/-- What a chunk gives each column of its tile row (R252, R268): a sum, or the best candidate with its index. -/
def State.chunkResult (s : State) (p : Product) (h : Shape) (place : Nat) (q : Pass) (tile : List Byte) (row : Nat) (chunk : List (Val × Bool)) :
    List (Nat × BitVec 32 × BitVec 32) :=
  (s.passCols h place q).map fun c =>
    let ts := terms chunk (s.stationary p h q tile c.1 c.2 row)
    if h.kind ≠ 0 ∨ h.q.acc = 0 then (c.1, r32 (dotExact ts), 0)
    else
      let cand := (ts.zipIdx.filter fun t => 64 * q.k + t.2 < h.depth).map fun t => (r32 (t.1.1.mul t.1.2), BitVec.ofNat 32 (64 * q.k + t.2))
      (c.1, bestOf h.q.acc cand)

end Sys2Proof.Machine
end

