-- ==== Sys2Proof/Machine/Generator.lean ====
section
/-! DEFINITION. The position-keyed generator Philox4x32-10 (R202), its derived values (R205) and the seed
permutation (R199). -/

namespace Sys2Proof.Machine

/-- One round of Philox4x32 as published by Salmon, Moraes, Dror and Shaw (2011). -/
def philoxRound (k0 k1 : BitVec 32) (c : BitVec 32 × BitVec 32 × BitVec 32 × BitVec 32) :
    BitVec 32 × BitVec 32 × BitVec 32 × BitVec 32 :=
  let p0 := 0xD2511F53 * c.1.toNat
  let p1 := 0xCD9E8D57 * c.2.2.1.toNat
  let hi (p : Nat) : BitVec 32 := BitVec.ofNat 32 (p >>> 32)
  (hi p1 ^^^ c.2.1 ^^^ k0, BitVec.ofNat 32 p1, hi p0 ^^^ c.2.2.2 ^^^ k1, BitVec.ofNat 32 p0)

/-- The rounds with the key bumped between them. -/
def philoxRounds : Nat → BitVec 32 → BitVec 32 → BitVec 32 × BitVec 32 × BitVec 32 × BitVec 32 →
    BitVec 32 × BitVec 32 × BitVec 32 × BitVec 32
  | 0, _, _, c => c
  | n + 1, k0, k1, c => philoxRounds n (k0 + 0x9E3779B9#32) (k1 + 0xBB67AE85#32) (philoxRound k0 k1 c)

/-- Four output words for a 64-bit key and a 128-bit counter, as one number w3:w2:w1:w0 (R202). -/
def philox (key ctr : Nat) : Nat :=
  let w (v i : Nat) : BitVec 32 := BitVec.ofNat 32 (v >>> (32 * i))
  let r := philoxRounds 10 (w key 0) (w key 1) (w ctr 0, w ctr 1, w ctr 2, w ctr 3)
  pack [(r.1.toNat, 32), (r.2.1.toNat, 32), (r.2.2.1.toNat, 32), (r.2.2.2.toNat, 32)]

/-- The generator at a place (R202): pos [63:0], hop [66:64], stream [71:67], draw [127:72]. -/
def draw (key pos hop stream drawIx : Nat) : Nat :=
  philox key (pack [(pos, 64), (hop, 3), (stream, 5), (drawIx, 56)])

/-- Index in [0, n) (R205). -/
def drawIndex (g n : Nat) : Nat := field g 0 64 * n / 2 ^ 64

/-- Fraction r as a numerator over 2^24 (R205). -/
def drawFraction (g : Nat) : Nat := field g 8 24

/-- Remote acceptance (R205). -/
def drawKeepsRemote (g keep : Nat) : Bool := field g 92 4 ≤ keep

/-- The smallest h ≥ 1 with 2^(2h) ≥ N (R199). -/
def feistelHalf (n : Nat) : Nat :=
  ((List.range 40).find? fun h => h ≥ 1 && 2 ^ (2 * h) ≥ n).getD 1

/-- One pass of four Feistel rounds (R199). -/
def feistelPass (key pos stream h x : Nat) : Nat :=
  let step (lr : Nat × Nat) (r : Nat) : Nat × Nat :=
    (lr.2, lr.1 ^^^ (field (draw key pos 0 stream (r * 2 ^ 32 + lr.2)) 0 32 % 2 ^ h))
  let lr := [0, 1, 2, 3].foldl step (x / 2 ^ h, x % 2 ^ h)
  lr.1 * 2 ^ h + lr.2

/-- Cycle walking until the value is below N (R199); 2^(2h) passes always suffice, for the pass is a bijection. -/
def feistelWalk (key pos stream h n : Nat) : Nat → Nat → Nat
  | 0, x => x
  | fuel + 1, x =>
    let y := feistelPass key pos stream h x
    if y < n then y else feistelWalk key pos stream h n fuel y

/-- The permutation of an epoch (R199): stream 1 for training, 3 for evaluation. -/
def permute (key epoch rank stream n i : Nat) : Nat :=
  let h := feistelHalf n
  feistelWalk key (epoch * 2 ^ 48 + rank * 2 ^ 36) stream h n (2 ^ (2 * h)) i

end Sys2Proof.Machine
end

