-- ==== Sys2Proof/Machine/Cells.lean ====
section
/-! DEFINITION. Cells at work: TRANSFORM and its backward products (R133, R134, R140, R257–R276, R291–R296), chunk issue (R281–R283),
Swap (R264), drain (R271, R272, R284, R294), the Rill (R262, R263), what a cell drops (R286, R287). -/

namespace Sys2Proof.Machine

def State.block (s : State) (b : Nat) : BlockState := s.blocks.getD b BlockState.reset

/-- A cell of the product that a block runs. -/
def State.cellRun (s : State) (b c : Nat) : Option (Product × Shape × CellRun) :=
  (s.block b).product.bind fun p => match s.shape p, p.cells.find? (·.cell == c) with
    | some h, some r => some (p, h, r)
    | _, _ => none

def State.onCell (s : State) (b c : Nat) (f : CellRun → CellRun) : State :=
  s.onBlock b fun x => { x with product := x.product.map fun p => { p with cells := p.cells.map fun r => if r.cell == c then f r else r } }

def State.runPasses (s : State) (h : Shape) (r : CellRun) : List Pass := s.cellPasses h r.arc r.place

/-- A cell drops the product's micro-batch (R286, R287): the record names level 2, block and cell. -/
def State.dropCell (s : State) (b c : Nat) (p : Product) : State :=
  let who : Named := { s.nameOf p.ctx with level := 2, unit := b % 9 + 16 * c }
  let s := (s.dropMb p.mb p.step).logDevice 0x0B0 who 1 0
  (s.onBlock b fun x => { x with poisonDrops := satAdd x.poisonDrops 1 }).settle

/-- What the Basin's code found: corrections are counted (R286, R467). -/
def State.countBasin (s : State) (b c : Nat) (f : BasinFinding) : State :=
  (List.range f.corrected.toNat).foldl (fun s _ => s.noteWear 1 (cellUnit b c))
    (s.onBlock b fun x => { x with basinCorrected := satAdd x.basinCorrected f.corrected.toNat })

/-- An operand-store parity failure is counted (R261, R467). -/
def State.parityFailure (s : State) (b c : Nat) : State :=
  (s.onBlock b fun x => { x with parity := satAdd x.parity 1 }).noteWear 0 (cellUnit b c)

/-! ### Rows -/

/-- Rows of the row tile a head cell is `ahead` of the one it streams come from the fabric into that tile's half (R260, R263). -/
def State.fillHalf (s : State) (b : Nat) (h : Shape) (rows : List (List Byte × List Nat)) (r : CellRun) (ahead : Nat) : State :=
  match (h.visits (s.runPasses h r))[r.load + ahead]? with
  | none => s
  | some t =>
    let half := (r.load + ahead) % 2
    let mine := (rows.drop (t * h.tile)).take (h.tileRows t)
    let marks := mine.zipIdx.flatMap fun x => x.1.2.map fun w => 16384 * half + x.2 * h.rin / 8 + w
    let s := mine.zipIdx.foldl (fun s x => s.store (rowArea b r.cell half + x.2 * h.rin) x.1.1 false) s
    s.onCell b r.cell fun y => { y with
      bytes := if ahead = 0 then (h.tileBytes t, y.bytes.2) else (y.bytes.1, h.tileBytes t)
      poison := y.poison.filter (fun w => w / 16384 != half) ++ marks }

/-- Free halves of head cells are filled. -/
def State.fillHeads (s : State) (b : Nat) : State :=
  match (s.block b).product with
  | none => s
  | some p => match s.shape p with
    | none => s
    | some h =>
      let rows := s.sourceRows p h
      (p.cells.filter fun r => r.place == 0).foldl (fun s r =>
        let s := if r.bytes.1 = 0 then s.fillHalf b h rows r 0 else s
        if r.bytes.2 = 0 then s.fillHalf b h rows r 1 else s) s

/-! ### Segments and preload (R265, R269) -/

/-- Values a preload writes into tile row `r`, by element, and whether one of them is poisoned (R269, R286). -/
def State.preloadRow (s : State) (p : Product) (h : Shape) (place : Nat) (q : Pass) (r : Nat) : List (Nat × BitVec 32 × BitVec 32) × Bool :=
  match s.ctx p.ctx, s.productMb p, s.operand h.q.pre with
  | some t, some m, some x =>
    let i := if h.q.preload = 1 then 0 else q.tile * h.tile + r
    let row : KeptRow :=
      if h.q.preload = 1 then ⟨s.rowVals (some m) m.weightV h.q.pre x 0, [], s.rowPoisoned (some m) m.weightV h.q.pre x 0⟩
      else (s.inputRows t m 0 h.q.pre x).getD i ⟨[], [], false⟩
    let at_ := s.rowPlace (some m) (if h.q.preload = 1 then m.weightV else 0) h.q.pre x i
    let cols := s.passCols h place q
    (cols.map fun c => (c.1, r32 (row.vals.getD c.2 (.fin false 0 0)), 0xFFFFFFFF),
      row.poison && cols.any fun c => (elemWords x c.2).any fun w => s.placePoisoned (at_.plus (8 * w)) 8)
  | _, _, _ => ([], false)

/-- Preload the tile rows of a segment for the product's operation. -/
def State.preload (s : State) (b : Nat) (p : Product) (h : Shape) (r : CellRun) (q : Pass) (g : Segment) : State :=
  if h.kind ≠ 0 ∨ h.q.preload = 0 then s else
  let rows := (List.range (h.passRows q)).map fun i => (i, s.preloadRow p h r.place q i)
  if rows.any (·.2.2) then s.dropCell b r.cell p
  else rows.foldl (fun s x => s.basinPut b g x.1 x.2.1) s

/-- A pass takes its segment, allocated and preloaded at the operation's first pass into it; without a free segment it waits. -/
def State.prepareCell (s : State) (b : Nat) (p : Product) (h : Shape) (r : CellRun) : State :=
  let ps := s.runPasses h r
  match ps[r.pass]? with
  | none => s
  | some q =>
    if r.ready then s else
    let first := r.pass == 0 || (ps[r.pass - 1]?).any fun o => h.segKey o != h.segKey q
    let acc := if h.kind = 0 then h.q.acc else 0
    let k := h.segKey q
    let new := (s.segmentFor b p h r.cell q).isNone
    let seg := (s.segmentFor b p h r.cell q).orElse fun _ => ((s.block b).freeSegment r.cell acc).map fun n =>
      ⟨r.cell, n, h.q.out, p.mb, p.step, p.kind, p.part, r.arc, k.1, k.2.1, k.2.2, acc, [], []⟩
    match seg with
    | none => s
    | some g =>
      let s := if new then s.onBlock b fun x => { x with segments := x.segments ++ [g] } else s
      let s := s.onCell b r.cell fun y => { y with ready := true }
      if first then s.preload b p h r q g else s

/-- Every cell of the block whose pass waits for its segment tries again. -/
def State.prepare (s : State) (b : Nat) : State :=
  match (s.block b).product with
  | none => s
  | some p => match s.shape p with
    | none => s
    | some h => p.cells.foldl (fun s r => if (s.block b).product.isSome then s.prepareCell b p h r else s) s

/-! ### Weight tiles (R253, R260, R264, R286) -/

/-- A place of the weight area for a new tile: one never used, else that of the least recently used tile (R260). -/
def BlockState.tilePlace (x : BlockState) (c size : Nat) : Nat :=
  let mine := x.tiles.filter (·.cell == c)
  ((List.range (786432 / size)).find? fun n => !mine.any (·.slot == n)).getD ((mine.head?).elim 0 (·.slot))

/-- The shadow load of a pass's tile: from the weight area where it stands there, unless it is fetched again, else fetched into a place of it. Rows of dY
do not stand in it (R275). A poisoned value drops the micro-batch. -/
def State.shadowLoad (s : State) (b : Nat) (p : Product) (h : Shape) (r : CellRun) (q : Pass) (again : Bool) : State :=
  let put (s : State) (tile : List Byte) : State := s.onCell b r.cell fun y => { y with shadow := tile }
  let size := h.weightBytes
  let kept := (s.block b).tiles.find? fun t => t.cell == r.cell && t.col == q.col && t.k == q.k && h.kind != 2
  let use (s : State) (n : Nat) : State := s.onBlock b fun x =>
    { x with tiles := x.tiles.filter (fun t => !(t.cell == r.cell && t.slot == n)) ++ [⟨r.cell, n, q.col, q.k⟩] }
  match (if again then none else kept) with
  | some t => put (use s t.slot) (s.bytesAt (weightArea b r.cell t.slot size) size)
  | none =>
    if s.tilePoisoned p h r.place q then s.dropCell b r.cell p
    else
      let tile := s.fetchTile p h r.place q
      if h.kind = 2 then put s tile
      else
        let n := (kept.map (·.slot)).getD ((s.block b).tilePlace r.cell size)
        put ((use s n).store (weightArea b r.cell n size) tile false) tile

/-! ### Products -/

/-- Active cells of a block by rank (R257). -/
def BlockState.ranks (x : BlockState) : List Nat := (List.range 17).filter fun c => x.active.getLsbD c

/-- A block starts a product: arcs, the shadow load of each cell's first tile, row tiles at the head cells. The tiles of another product leave the
weight area (R260). A dW all of whose columns are masked out has no pass (R276): its part ends. -/
def State.startProduct (s : State) (b : Nat) (c : CtxId) (op mb step kind part : Nat) (pre : Bool) : State :=
  let p : Product := ⟨c, op, mb, step, kind, part, pre, []⟩
  match s.shape p, s.productMb p with
  | some h, some m =>
    let ranks := (s.block b).ranks
    let runs := (List.range h.arcs).flatMap fun a => (List.range h.arcCells).filterMap fun i =>
      match ranks[a * h.arcCells + i]?, s.cellPasses h a i with
      | some cell, _ :: _ => some (⟨cell, a, i, 0, false, [], 0, [], [], false, 0, (0, 0), []⟩ : CellRun)
      | _, _ => none
    if runs.isEmpty then s.finish c else
    let owner := (op, kind, m.weightV, step)
    let s := s.onBlock b fun x => { x with
      product := some { p with cells := runs }
      lastW := if kind = 2 then x.lastW else s.weightBuffer (some m) h.q.w
      tilesOf := if kind = 2 then x.tilesOf else some owner
      tiles := if kind = 2 ∨ x.tilesOf = some owner then x.tiles else [] }
    let s := runs.foldl (fun s r => match (s.runPasses h r).head? with
      | some q => if (s.block b).product.isSome then s.shadowLoad b p h r q false else s
      | none => s) s
    if (s.block b).product.isSome then (s.fillHeads b).prepare b else s
  | _, _ => s

/-- A segment's owner is the product. -/
def Product.owns (p : Product) (h : Shape) (g : Segment) : Bool :=
  g.out == h.q.out && g.mb == p.mb && g.step == p.step && g.kind == p.kind && g.part == p.part

/-- The scoreboard releases a segment to drain: every sharing operation has issued every pass into it (R271–R273). -/
def State.released (s : State) (p : Product) (h : Shape) (g : Segment) : Bool := p.owns h g && (s.sharers p).all fun j => g.issued.contains j

/-- The work item's block. -/
def blockOf (c : CtxId) (t : TaskContext) : Nat := 9 * c.region.val + t.unitIndex.toNat

/-- The product of a backward part that follows `after` (0: the companion pass): dX, then dW (R140, R276). -/
def State.nextBackward (s : State) (b : Nat) (c : CtxId) (op mb step after : Nat) (q : TransformOp) : State :=
  if after = 0 ∧ !q.noDx then s.startProduct b c op mb step 1 0 false
  else if after < 2 ∧ !q.frozen then s.startProduct b c op mb step 2 0 false
  else s.finish c

/-- A product whose passes are all issued and whose released segments are drained ends. -/
def State.endProduct (s : State) (b : Nat) : State :=
  match (s.block b).product with
  | none => s
  | some p => match s.shape p with
    | none => s
    | some h =>
      if p.cells.any (fun r => decide (r.pass < (s.runPasses h r).length)) || (s.block b).segments.any (s.released p h) then s else
      let s := s.onBlock b fun x => { x with product := none }
      if p.kind = 0 then s.endForward p.ctx p.op else s.nextBackward b p.ctx p.op p.mb p.step p.kind h.q

/-- R28, R81, R133, R134, R251, R257, R258, R260, R263, R265, R266, R269, R272, R273, R286, R306. -/
def execTransform (ctx : CtxId) (s : State) : Out :=
  .next <| s.runForward ctx fun t o k s =>
    match o.body, s.viewMb t with
    | .transform q, some m =>
      let b := blockOf ctx t
      if (s.block b).product.isSome then s else
      let s := (s.operand q.inA).elim s fun x => s.noteOperand ctx (some m) 0 q.inA x
      let s := (s.operand q.w).elim s fun x => s.noteOperand ctx (some m) m.weightV q.w x
      let s := (s.operand q.pre).elim s fun x => s.noteOperand ctx (some m) m.weightV q.pre x
      (s.startProduct b ctx k t.mb.toNat t.step.toNat 0 (if t.part then t.op.toNat + 1 else 0) (t.part && k == t.op.toNat && o.stashesPre)).draw
    | _, _ => s

/-- The companion pass (R293): rows of dY, once in the micro-batch; none where what it reads is poisoned. -/
def State.companionPass (s : State) (t : TaskContext) (m : MicroBatch) (o : Op) (q : TransformOp) (y : Operand) : Option (List (List (BitVec 32))) :=
  let g := s.gradRows m q.out y
  if q.act = 0 ∧ ¬ (q.preload = 1 ∧ !q.frozen) then some g.1
  else if g.2 then none
  else if q.act = 0 ∨ m.passed.contains q.out then some g.1
  else
    let from' := s.keptRows t m q.out y (if o.stashesPre then some t.op.toNat else none)
    if from'.any (·.poison) then none
    else some (List.zipWith (fun g k => List.zipWith (fun a b => mul32 a (derivative q.act b)) g (f32s k.vals)) g.1 from')

/-- What the companion pass writes: the rows of dY, once in the micro-batch (R293); the column sums of a preloaded row's gradient into the staging
area (R296). -/
def State.writeCompanion (s : State) (t : TaskContext) (m : MicroBatch) (o : Op) (q : TransformOp) (dy : List (List (BitVec 32))) : State :=
  let j := t.op.toNat
  let s := if q.act = 0 ∨ m.passed.contains q.out then s
    else dy.zipIdx.foldl (fun s r => s.setCompanion m.mb m.step q.out r.2 r.1 false) s
  let s := s.onMb m.mb m.step fun m => { m with passed := insertNat q.out m.passed }
  if q.preGrad = noOperand ∨ q.frozen then s else
  let s := s.takeStaging m.mb m.step j o
  match s.operand q.w, s.itemMb t with
  | some w, some m => s.store (s.stagingBase m j o + roundUp (w.m * w.n * 4) 64) (bytes32 (sumRows dy)) false
  | _, _ => s

/-- R140, R244, R275, R276, R291–R293, R295, R296, R306, R307. -/
def execTransformBackward (ctx : CtxId) (s : State) : Out :=
  .next <| s.runBackward ctx fun t o s =>
    if (s.block (blockOf ctx t)).product.isSome then s else
    s.runUnpoisoned ctx t o fun m s =>
      match o.body with
      | .transform q =>
        match s.operand q.out, s.operand q.w with
        | some y, some w =>
          match s.companionPass t m o q y with
          | none => s.dropPoison ctx
          | some dy =>
            let s := (s.writeCompanion t m o q dy).noteOperand ctx (some m) m.weightV q.w w
            (s.nextBackward (blockOf ctx t) ctx t.op.toNat m.mb m.step 0 q).draw
        | _, _ => s
      | _ => s

/-! ### Chunk issue (R281–R283) -/

/-- What a lane found in its slot: lanes left, rows stolen, zero chunks passed over, the unit to issue. -/
structure LaneScan where
  lanes   : List (List Nat)
  steals  : Nat
  skipped : Nat
  unit    : Option Nat
  deriving DecidableEq, Repr

/-- An empty lane takes the last row of the next lane that has one (R283). -/
def LaneScan.steal (x : LaneScan) (j : Nat) : LaneScan :=
  if !(x.lanes.getD j []).isEmpty then x else
  match ([1, 2, 3].map fun i => (j + i) % 4).find? fun i => !(x.lanes.getD i []).isEmpty with
  | none => x
  | some i =>
    let l := x.lanes.getD i []
    { x with lanes := setAt (setAt x.lanes i l.dropLast) j (l.getLast?.toList), steals := x.steals + 1 }

/-- Scan a lane: pass over up to 8 zero chunks, take the first that is not (R282). `zeros u` is the number of chunks of a unit when all
are zero, else 0. -/
def LaneScan.scan (zeros : Nat → Nat) (j : Nat) : Nat → LaneScan → LaneScan
  | 0, x => x
  | fuel + 1, x =>
    let x := x.steal j
    match x.lanes.getD j [] with
    | [] => x
    | u :: us =>
      let z := zeros u
      if z = 0 then { x with lanes := setAt x.lanes j us, unit := some u }
      else if 8 < x.skipped + z then x
      else LaneScan.scan zeros j fuel { x with lanes := setAt x.lanes j us, skipped := x.skipped + z }

/-- A chunk of a pass with a poisoned word; a zero chunk (R281): every value encodes zero and no word is poisoned. -/
def CellRun.chunkPoisoned (r : CellRun) (h : Shape) (q : Pass) (i : Nat) : Bool :=
  (h.chunkWords q i).any fun w => r.poison.contains (16384 * (r.load % 2) + w)
def State.chunkZero (s : State) (b c : Nat) (h : Shape) (r : CellRun) (q : Pass) (i : Nat) : Bool :=
  !r.chunkPoisoned h q i && (s.chunkVals b c h (r.load % 2) q i).all (·.2)

/-- What a lane's slot issues: zero chunks are passed over where acc = 0, but for a parity failure met. -/
def State.scanLane (s : State) (b c : Nat) (h : Shape) (r : CellRun) (q : Pass) (parityFault : Bool) (lane : Nat) : LaneScan :=
  let zeros (u : Nat) : Nat :=
    if h.q.acc = 0 && !parityFault && (h.unitRows q u).all (s.chunkZero b c h r q) then (h.unitRows q u).length else 0
  LaneScan.scan zeros lane 9 ⟨r.lanes, 0, 0, none⟩

/-- A cell whose lanes are empty has issued its pass: the half of a finished row tile is freed (R260), its part of the segment is complete
(R273), and after the last pass the cell is done. -/
def State.passIssued (s : State) (b c : Nat) : State :=
  match s.cellRun b c with
  | none => s
  | some (p, h, r) =>
    let ps := s.runPasses h r
    match ps[r.pass]? with
    | none => s
    | some q =>
      if r.lanes.any fun l => !l.isEmpty then s else
      let next := ps[r.pass + 1]?
      let s := if next.any fun n => h.segKey n == h.segKey q then s
        else (s.segmentFor b p h c q).elim s fun g => s.onSegment b g fun g => { g with issued := insertNat p.op g.issued }
      let s := if next.any fun n => h.visit n == h.visit q then s
        else (s.onCell b c fun r => { r with
          load := r.load + 1, bytes := (r.bytes.2, 0), poison := r.poison.filter fun w => w / 16384 != r.load % 2 }).fillHeads b
      let s := if next.isNone then s.onCell b c fun r => { r with pass := r.pass + 1 } else s
      s.endProduct b

/-- A unit's rows write into the Basin: zero chunks of acc = 0 write nothing. -/
def State.writeBack (s : State) (b c : Nat) (p : Product) (h : Shape) (r : CellRun) (q : Pass) (u : Nat) : State :=
  (h.unitRows q u).foldl (fun s i =>
    if h.q.acc = 0 && s.chunkZero b c h r q i then s else
    (s.segmentFor b p h c q).elim s fun g =>
      s.basinPut b g i (s.chunkResult p h r.place q r.live i (s.chunkVals b c h (r.load % 2) q i))) s

/-- A unit's rows accumulate: a tile row they write is live (R266). -/
def State.accumulates (s : State) (b c : Nat) (p : Product) (h : Shape) (q : Pass) (u : Nat) : Bool :=
  (s.segmentFor b p h c q).any fun g => (h.unitRows q u).any g.live.contains

/-- R28, R31, R33, R242, R251–R256, R260, R261, R264–R268, R270, R273, R277–R279, R281–R283, R286, R287: slot `n` of a pass is lane n mod 4's. -/
def execChunkIssue (block : Block) (cell : Fin 17) (lane : Fin 4) (parityFault : Bool) (basin : BasinFinding) (s : State) : Out :=
  .next <|
    let b := block.val
    let c := cell.val
    let s := if (s.cellRun b c).any fun x => !x.2.2.ready then s.prepare b else s
    match s.cellRun b c with
    | none => s
    | some (p, h, r) =>
      match (s.runPasses h r)[r.pass]? with
      | none => s
      | some q =>
        if !r.on || !r.ready || r.bytes.1 < h.tileBytes q.tile || r.slot % 4 != lane.val then s else
        let x := s.scanLane b c h r q parityFault lane.val
        let s := s.onBlock b fun y => { y with skipped := addN y.skipped x.skipped, steals := addN y.steals x.steals }
        let s := s.onCell b c fun r => { r with lanes := x.lanes, slot := r.slot + 1 }
        match x.unit with
        | none => (s.passIssued b c).draw
        | some u =>
          let rows := h.unitRows q u
          if parityFault then (s.parityFailure b c).dropCell b c p
          else if rows.any (r.chunkPoisoned h q) then s.dropCell b c p
          else
            let s := if s.accumulates b c p h q u then s.countBasin b c basin else s
            if s.accumulates b c p h q u && basin.uncorrectable then s.dropCell b c p else
            let s := s.writeBack b c p h r q u
            let s := s.onBlock b fun y => { y with issued := addN y.issued rows.length }
            (s.passIssued b c).draw

/-- R253, R260, R261, R264, R277, R286: the tile of the cell's next pass, its first among them (DEDUCED, log entry 73), comes into the live registers,
and the shadow load of the following one begins. A parity failure at the shadow load has the tile fetched again before the Swap; one in rows of dY, which
come from the row area, drops the micro-batch. -/
def execSwap (block : Block) (cell : Fin 17) (parityFault : Bool) (s : State) : Out :=
  .next <|
    let b := block.val
    let c := cell.val
    match s.cellRun b c with
    | none => s
    | some (p, h, r) =>
      let next := if r.on then r.pass + 1 else r.pass
      match (s.runPasses h r)[next]? with
      | none => s
      | some q =>
        if r.lanes.any fun l => !l.isEmpty then s
        else if parityFault && h.kind == 2 then (s.parityFailure b c).dropCell b c p
        else
          let s := if parityFault then
              ((s.parityFailure b c).shadowLoad b p h r q true).logDevice 0x0B1 { s.nameOf p.ctx with level := 2, unit := b % 9 + 16 * c } 0 0
            else s
          if (s.block b).product.isNone then s else
          let s := s.onBlock b fun y => { y with swaps := addN y.swaps 1 }
          let s := s.onCell b c fun y => { y with
            pass := next, on := true, lanes := h.lanes q, slot := 0, live := y.shadow, shadow := y.live, ready := y.ready && !r.on }
          let s := ((s.runPasses h r)[next + 1]?).elim s fun q => s.shadowLoad b p h r q false
          (s.prepare b).draw

/-! ### Drain (R271, R272, R284, R294, R296) -/

/-- The tile row of a segment at drain: elements with their winner indices; one that is not live reads +0 (R266). -/
def State.segmentRow (s : State) (b : Nat) (g : Segment) (r e : Nat) : BitVec 32 × BitVec 32 :=
  let word (seg : Nat) : BitVec 32 := BitVec.ofNat 32 (s.numAt (tileRow b g.cell seg r + 4 * e) 4)
  if !g.live.contains r then (0, 0xFFFFFFFF) else (word g.num, if g.acc = 0 then 0 else word (g.num + 16))

/-- Rounding of an element of out (R284, R285). -/
def State.drainRounding (s : State) (m : MicroBatch) (op : Nat) (eval sr : Bool) (row col : Nat) : Rounding :=
  if !sr then .nearestEven
  else
    let g := Machine.draw s.slotCfg.training.srSeed m.dataPos (if eval then 3 else 0) 8 (op * 2 ^ 42 + row % 2 ^ 29 * 2 ^ 13 + col / 8)
    .stochastic (field g (16 * (col % 8)) 16)

/-- A whole row of out is written: act, narrowing, winner indices; its pre-activations go to the stash compressor (R271, R294). -/
def State.writeOut (s : State) (p : Product) (h : Shape) (m : MicroBatch) (row : Nat) (vals wins : List (BitVec 32)) : State :=
  let eval := (s.op p.op).any (·.eval)
  let op := ((s.sharers p).head?).getD p.op
  let post := if p.pre then vals else vals.map (activate h.q.act)
  let place := s.rowPlace (some m) 0 h.q.out h.y row
  -- a rerun's pre-activations are narrowed as those of the stash compressor are (R294, R306)
  let bytes := h.y.encode (if p.pre then rne else s.drainRounding m op eval h.q.sr row) (valsOf post)
  let s := s.placeStore place bytes false
  let s := if s.slotCfg.hasWinners h.q.out then s.placeStore (place.plus h.y.rowBytes) (bytes32 wins) false else s
  if p.part ≠ 0 then s else
  ((s.sharers p).filter fun j => (s.op j).any (·.stashesPre) && !m.recompute.contains (markOf j true)).foldl (fun s j =>
    let new := (row, h.y.encode rne (valsOf vals))
    let mine (e : PreRows) : Bool := e.op == j && e.mb == p.mb && e.step == p.step
    let add (l : List PreRows) : List PreRows :=
      if l.any mine then l.map fun e => if mine e then { e with rows := insertKey row new.2 e.rows } else e
      else l ++ [⟨j, p.mb, p.step, [new]⟩]
    s.onTrain fun t => { t with preRows := add t.preRows }) s

/-- Elements of a tile row join their row; a row that is whole is written (out), or added into the companion of in_a (dX). -/
def State.addPiece (s : State) (b : Nat) (p : Product) (h : Shape) (row col : Nat) (vals wins : List (BitVec 32)) : State :=
  let new : RowPiece := ⟨h.q.out, p.mb, p.step, p.kind, p.part, row, col, vals, wins⟩
  let mine (x : RowPiece) : Bool := x.out == h.q.out && x.mb == p.mb && x.step == p.step && x.kind == p.kind && x.part == p.part && x.row == row
  let have' := sortBy (·.col) ((s.block b).pieces.filter mine ++ [new])
  let vals := have'.flatMap (·.vals)
  let wins := have'.flatMap (·.wins)
  if vals.length < h.cols then s.onBlock b fun x => { x with pieces := x.pieces ++ [new] }
  else
    let s := s.onBlock b fun x => { x with pieces := x.pieces.filter fun y => !mine y }
    if p.kind = 1 then (if s.slotCfg.isKind h.q.inA 3 then s.addCompanion p.mb p.step h.q.inA row vals fun _ => false else s)
    else (s.productMb p).elim s fun m => s.writeOut p h m row vals wins

/-- A tile row of dW drains into the staging copy (R296): the first arc stores, a later arc adds. -/
def State.stageRow (s : State) (p : Product) (h : Shape) (o : Op) (k arc : Nat) (vs : List (Nat × BitVec 32)) : State :=
  match s.mbOf p.mb p.step with
  | none => s
  | some m =>
    let base := s.stagingBase m p.op o
    vs.foldl (fun s v =>
      let at_ := base + 4 * (v.1 * h.w.n + k)
      let x := if arc = 0 then v.2 else add32 (BitVec.ofNat 32 (s.numAt at_ 4)) v.2
      s.store at_ (leBytes x.toNat 4) false) s

/-- Arcs of lower number have drained the same part of dW. -/
def State.arcTurn (s : State) (b : Nat) (p : Product) (h : Shape) (g : Segment) : Bool :=
  g.kind != 2 ||
    let place := (p.cells.find? fun r => r.cell == g.cell).elim 0 (·.place)
    p.cells.all fun r => !(decide (r.arc < g.arc) && r.place == place) ||
      (!((s.block b).segments.any fun x => p.owns h x && x.cell == r.cell && x.col == g.col && x.group == g.group) &&
        !(((s.runPasses h r).drop (if r.lanes.all (·.isEmpty) then r.pass + 1 else r.pass)).any fun q => q.col == g.col && q.group == g.group))

/-- Non-finite values of a drain are counted by layer (R315). -/
def State.countNonFinite (s : State) (mb step layer n : Nat) : State :=
  if n = 0 then s else
  s.onMb mb step fun m => { m with nonFinite := insertKey layer ((lookupNat layer m.nonFinite).getD 0 + n) m.nonFinite }

/-- A released segment drains: each tile row in ascending order. -/
def State.drainSegment (s : State) (b : Nat) (p : Product) (h : Shape) (o : Op) (g : Segment) (q : Pass) (place : Nat) : State :=
  let cols := s.passCols h place q
  let s := if p.kind = 2 then s.takeStaging p.mb p.step p.op o else s
  let s := (List.range (h.passRows q)).foldl (fun s r =>
    let vs := cols.map fun c => (c.2, s.segmentRow b g r c.1)
    let post := vs.map fun v => if p.kind = 0 then activate h.q.act v.2.1 else v.2.1
    let s := s.countNonFinite p.mb p.step h.q.layer (post.filter fun v => !(v32 v).isFinite).length
    if p.kind = 2 then s.stageRow p h o (256 * q.group + r) g.arc (vs.map fun v => (v.1, v.2.1))
    else s.addPiece b p h (q.tile * h.tile + r) ((cols.head?).elim 0 (·.2)) (vs.map (·.2.1)) (vs.map (·.2.2))) s
  s.onBlock b fun x => { x with segments := x.segments.filter fun y => !(y.cell == g.cell && y.num == g.num) }

/-- R28, R132, R202, R265, R266, R270–R273, R284–R286, R294, R296, R315. -/
def execBasinDrain (block : Block) (cell : Fin 17) (segment : Fin 32) (basin : BasinFinding) (s : State) : Out :=
  .next <|
    let b := block.val
    let c := cell.val
    match s.cellRun b c, (s.block b).segments.find? fun g => g.cell == c && g.num == segment.val with
    | some (p, h, r), some g =>
      match (s.runPasses h r).find? fun q => h.segKey q == (g.tile, g.col, g.group), s.op p.op with
      | some q, some o =>
        if !s.released p h g || !s.arcTurn b p h g then s else
        let s := s.countBasin b c basin
        if basin.uncorrectable then s.dropCell b c p else
        (((s.drainSegment b p h o g q r.place).prepare b).endProduct b).draw
      | _, _ => s
    | _, _ => s

/-! ### The Rill (R262, R263) -/

/-- The same beat has failed four times (R31): the block is fenced, reported and marked, and what it held is cancelled. -/
def State.rillFailed (s : State) (b : Nat) : State :=
  let held := s.contextsWith fun q t => q == b / 9 && (t.state == 3 || t.state == 4) && t.unit == 2 && t.unitIndex.toNat == b % 9
  let live := (s.mbs.filter fun m => !m.dropped).length
  let who := (held.head?).elim noName fun x => s.nameOf ⟨Fin.ofNat 4 x.1, x.2.1⟩
  let s := (s.dropDomain held).dropSegments b
  let s := (s.onBlock b fun x => { x with product := none, retries := [] }).markSwap 1 (blockUnit b) 0 0x020
  (s.logDevice 0x020 who (live - (s.mbs.filter fun m => !m.dropped).length) 0).settle

/-- Row tile whose beats a cell takes next, counted along the arc's, and bytes of it that it has. -/
def CellRun.filling (r : CellRun) (size : Nat → Nat) : Option (Nat × Nat) :=
  if r.bytes.1 < size r.load then some (r.load, r.bytes.1)
  else if r.bytes.2 < size (r.load + 1) then some (r.load + 1, r.bytes.2)
  else none

/-- Row tiles that the head cell of an arc has written into its row area, and injects (R263). -/
def Product.injected (p : Product) (arc : Nat) : Nat :=
  (p.cells.find? fun r => r.arc == arc && r.place == 0).elim 0 fun r => r.load + bit (decide (0 < r.bytes.1)) + bit (decide (0 < r.bytes.2))

/-- The beat of a row tile at byte `pos` as the head cell injects it: data and poison bits (R262). -/
def State.beatAt (s : State) (p : Product) (h : Shape) (t pos : Nat) : BitVec 1024 × BitVec 16 :=
  let rows := ((s.sourceRows p h).drop (t * h.tile)).take (h.tileRows t)
  let marks := rows.zipIdx.flatMap fun x => x.1.2.map fun w => x.2 * h.rin / 8 + w
  (BitVec.ofNat 1024 (ofLe (((rows.flatMap (·.1)).drop pos).take 128)),
    BitVec.ofNat 16 (pack ((List.range 16).map fun w => (bit (marks.contains (pos / 8 + w)), 1))))

/-- A good beat is copied into the half of the row tile it belongs to. -/
def State.rillCopy (s : State) (b : Nat) (r : CellRun) (i pos size : Nat) (data : BitVec 1024) (poison : BitVec 16) : State :=
  let n := min 128 (size - pos)
  let marks := ((List.range 16).filter fun w => poison.getLsbD w && decide (8 * w < n)).map fun w => 16384 * (i % 2) + pos / 8 + w
  (s.store (rowArea b r.cell (i % 2) + pos) ((leBytes data.toNat 128).take n) false).onCell b r.cell fun y =>
    { y with poison := y.poison ++ marks, bytes := if i = r.load then (pos + n, y.bytes.2) else (y.bytes.1, pos + n) }

/-- R27, R31, R262, R263: the next beat that the head cell injected reaches a later cell of its arc, with the bits of `flips` turned over on the way: data,
poison bits, CRC. -/
def execRillBeat (block : Block) (cell : Fin 17) (flips : BitVec 1056) (s : State) : Out :=
  .next <|
    let b := block.val
    let c := cell.val
    match s.cellRun b c with
    | none => s
    | some (p, h, r) =>
      let tiles := h.visits (s.runPasses h r)
      let size (i : Nat) : Nat := (tiles[i]?).elim 0 h.tileBytes
      match r.filling size with
      | none => s
      | some (i, pos) =>
        if r.place = 0 ∨ p.injected r.arc ≤ i then s else
        let x := s.beatAt p h (tiles.getD i 0) pos
        let sent := crc16 (bitsLow x.1.toNat 1024 ++ bitsLow x.2.toNat 16)
        let data := x.1 ^^^ flips.extractLsb' 0 1024
        let poison := x.2 ^^^ flips.extractLsb' 1024 16
        if crc16 (bitsLow data.toNat 1024 ++ bitsLow poison.toNat 16) = sent ^^^ flips.extractLsb' 1040 16 then
          ((s.onBlock b fun x => { x with retries := x.retries.filter fun y => y.1 != c }).rillCopy b r i pos (size i) data poison).draw
        else
          let n := ((lookupNat c (s.block b).retries).getD 0) + 1
          if 4 ≤ n then s.rillFailed b
          else (s.onBlock b fun x => { x with retries := insertKey c n x.retries, rillRetx := satAdd x.rillRetx 1 }).noteWear 2 (blockUnit b)

end Sys2Proof.Machine
end

