-- ==== Sys2Proof/Machine/Gather.lean ====
section
/-! DEFINITION. GATHER and AGGREGATE (R164–R168, R172–R176, R183, R223–R232, R241–R244) and the remote rows they ask for (R230, R231,
R422–R424). -/

namespace Sys2Proof.Machine

/-! ### Rows as the fold stage takes them -/

/-- An FP32 element with its poison mark (R33, R225). -/
abbrev Elem := BitVec 32 × Bool

/-- Elements of a row of a format, marked by the 64-byte beats that hold them and their block scale (R241). -/
def elemsOf (fmt n : Nat) (vals : List Val) (beat : Nat → Bool) : List Elem :=
  vals.zipIdx.map fun v =>
    (r32 v.1, beat (v.2 * elemBits fmt / 512) || isMx fmt && beat ((valueBytes fmt 0 n + v.2 / 32) / 64))

/-- A row that has been read: the entry's index, its destination, its elements, and the slice whose lane folds it (R223, R224). -/
structure ReadRow where
  idx   : Nat
  dst   : Nat
  elems : List Elem
  slice : Option Nat
  deriving DecidableEq, Repr, Inhabited

/-- What an engine reads (R194, R227): an entry's index, node or row of a tensor, destination and weight. Entries above 2^21 are
destinations' own rows. -/
structure ReadItem where
  idx    : Nat
  node   : Nat
  pos    : Nat
  dst    : Nat
  weight : Nat
  deriving DecidableEq, Repr, Inhabited

def ownIndex : Nat := 2 ^ 21

/-- Where a table row is read (R162, R166, R167, R177). -/
inductive RowSource where
  | own (key : Nat)
  | remote (owner : Coord)
  | default (key : Nat)
  | invalid (code : Nat)
  deriving DecidableEq, Repr

def State.sourceOf (s : State) (t : TableDesc) (b : Bool) (node : Nat) : RowSource :=
  let bad (code : Nat) : RowSource := if t.invalid = 0 then .invalid code else .default t.defaultKey
  match s.lookup t node with
  | .outOfRange => bad 0x080
  | .missing => bad 0x081
  | .row owner e off => if owner = s.coord then .own (s.rowKey t b node e off) else .remote owner

/-! ### Baskets read back (R193, R194) -/

/-- A word of the basket record. -/
def State.recordField (s : State) (m : MicroBatch) (lists : Nat) (lo : Nat) : Nat :=
  (s.operand lists).elim 0 fun x => field (s.placeNum (s.rowPlace (some m) 0 lists x 0) 64) lo 32

/-- Nodes of list `hop`. -/
def State.listNodes (s : State) (m : MicroBatch) (lists hop : Nat) : List Nat :=
  match s.operand lists with
  | none => []
  | some x =>
    let first := ((List.range hop).map fun k => s.recordField m lists (192 + 32 * k)).sum
    (List.range (s.recordField m lists (192 + 32 * hop))).map fun i =>
      field (s.placeNum ((s.rowPlace (some m) 0 lists x 0).plus (64 + 8 * (first + i))) 8) 0 40

/-- Entries of hop `h` of a trail, ascending. -/
def State.trailItems (s : State) (m : MicroBatch) (lists trail h : Nat) : List ReadItem :=
  match s.operand trail with
  | none => []
  | some x =>
    let first := ((List.range (h - 1)).map fun k => s.recordField m lists (352 + 32 * k)).sum
    (List.range (s.recordField m lists (352 + 32 * (h - 1)))).map fun i =>
      let v := s.placeNum ((s.rowPlace (some m) 0 trail x 0).plus (16 * (first + i))) 16
      ⟨first + i, field v 0 40, field v 40 20, field v 64 20, field v 84 16⟩

/-- The lists operand of the SAMPLE of a pass that writes a trail. -/
def JobSlot.listsOf (j : JobSlot) (eval : Bool) (trail : Nat) : Nat :=
  (j.samplerOf eval trail).elim noOperand fun x => match x.2.1.body with
    | .sample _ _ lists _ => lists
    | _ => noOperand

/-- Destinations' own rows of an AGGREGATE with self = 1 (R227). -/
def State.ownItems (s : State) (m : MicroBatch) (lists : Nat) (a : AggregateOp) : List ReadItem :=
  if !a.self then [] else
  let count := s.recordField m lists (192 + 32 * a.hop)
  (s.listNodes m lists (a.hop - 1)).zipIdx.map fun x => ⟨ownIndex + x.2, x.1, count + x.2, x.2, bf16One⟩

/-! ### Remote rows -/

/-- Requests for kind 2 and kind 4 rows meet an update of their table (R168): the table, or the target whose state it is. -/
def State.isUpdating (s : State) (id : Nat) : Bool :=
  s.tables.updating.contains id || s.slotCfg.ops.any fun o => match o.body with
    | .optimize p =>
      ((s.slotCfg.tableOf s.cfg.tables p.target).any fun t => s.tables.updating.contains t.id) &&
        [p.state1, p.state2].any fun i => (s.slotCfg.tableOf s.cfg.tables i).any fun t => t.id == id
    | _ => false

/-- The lowest free tag of a region: a region's tags are its number modulo 4. -/
def State.freeTag (s : State) (region : Nat) : Option Nat :=
  ((List.range 262144).find? fun k => !s.gather.requests.any fun q => q.tag.toNat == 4 * k + region).map fun k => 4 * k + region

/-- The update of a table has begun in the step (R168, R244): its OPTIMIZE, or that of the target whose state it is, runs or is done. -/
def State.updateBegun (s : State) (id : Nat) : Bool :=
  s.isUpdating id || s.slotCfg.ops.zipIdx.any fun o => match o.1.body with
    | .optimize p => s.wholeDone o.2 o.1 && s.opOccurs o.1 &&
        [p.target, p.state1, p.state2].any fun i => (s.slotCfg.tableOf s.cfg.tables i).any fun t => t.id == id
    | _ => false

/-- A lookup of a work item in its region's Cooler (R174), after an uncorrectable error where the read meets one (R175): the slot that holds
the row, and the block's estimate. -/
def State.lookCooler (s : State) (region : Nat) (t : TableDesc) (v : Bool) (node : Nat) (bad : Bool) : Option Nat × Nat × State :=
  let s := if bad then s.onCooler region fun c => c.spoil t v node else s
  let c := s.cooler region
  (c.slotOf t v node, c.estimateOf region t v node, s.onCooler region fun c => c.look region t v node)

/-- A ROW_REQ entry (R422). -/
def rowEntry (q : RowRequest) (version : Bool) (step : Nat) : Nat :=
  pack [(q.node, 40), (q.table, 8), (bit version, 1), (0, 3), (q.tag.toNat, 20), (step, 48), (0, 8)]

/-- Pieces of a list, `n` at a time. -/
def chunksOf (n : Nat) : Nat → List α → List (List α)
  | 0, _ => []
  | fuel + 1, l => if l.isEmpty then [] else l.take n :: chunksOf n fuel (l.drop n)

/-- Send requests, three to a packet, owner by owner (R414, R422). -/
def State.sendRequests (s : State) (qs : List RowRequest) (version : Bool) (step : Nat) : State :=
  ((qs.map (·.owner)).eraseDups).foldl (fun s owner =>
    (chunksOf 3 qs.length (qs.filter fun q => q.owner == owner)).foldl (fun s p =>
      s.sendTo owner 0x01 0 s.tables.generation.toNat (p.length - 1) (pack ((0, 64) :: p.map fun q => (rowEntry q version step, 128))) []) s) s

/-- A remote row from the region's Cooler (R174), or a request for it while a tag is free (R422). -/
def State.askRow (s : State) (c : CtxId) (mb : Nat) (t : TableDesc) (b : Bool) (owner : Coord) (i : ReadItem) (bad : Bool) : State × List RowRequest :=
  let region := c.region.val
  match s.freeTag region with
  | none => (s, [])
  | some tag =>
    let l := if t.cooler = 2 then s.lookCooler region t b i.node bad else (none, 0, s)
    match l.1 with
    | some k =>
      let bytes := l.2.2.bytesAt (coolerKey region k t i.node) t.rowBytes
      (l.2.2.onGather fun g => { g with
        rows := g.rows ++ [⟨c, i.idx, bytes, 0, true⟩]
        regions := modifyAt g.regions region fun r => { r with coolerRows := r.coolerRows + 1 } }, [])
    | none =>
      let q : RowRequest :=
        ⟨BitVec.ofNat 20 tag, i.idx, c.region, s.engineTag (gatherEngineKey region), c, mb, i.node, t.id, owner, s.dialTime, l.2.1⟩
      (l.2.2.onGather fun g => { g with requests := g.requests ++ [q] }, [q])

/-- Ask for the remote rows an item has not got. -/
def State.askRows (s : State) (c : CtxId) (m : MicroBatch) (t : TableDesc) (b : Bool) (items : List ReadItem) (bad : List Nat) : State :=
  let r := items.foldl (fun (a : State × List RowRequest) i =>
    if a.1.gather.rows.any fun x => x.ctx == c && x.item == i.idx then a else
    match a.1.sourceOf t b i.node with
    | .remote owner => let x := a.1.askRow c m.mb t b owner i (bad.contains i.idx); (x.1, a.2 ++ x.2)
    | _ => a) (s, [])
  r.1.sendRequests r.2 b m.step

/-! ### Reading rows -/

/-- A row of a table read here or held from its owner (R223), with what the read counts. -/
def State.readTableRow (s : State) (c : CtxId) (t : TableDesc) (b : Bool) (i : ReadItem) (bad : Bool) : State × ReadRow :=
  let region := c.region.val
  let n := t.cols + 1
  let row (s : State) (k : Nat) (clean : Bool) : List Elem :=
    elemsOf t.format n (t.values (s.numAt k t.rowBytes)) fun j => !clean && s.lineBad c (k + 64 * j)
  let lane (k : Nat) : Option Nat := if k / 2 ^ 48 = 0 then some (field k 13 4) else none
  let read (s : State) (k : Nat) : State × ReadRow := (s.noteReads k t.rowBytes (s.nameOf c), ⟨i.idx, i.dst, row s k false, lane k⟩)
  match s.sourceOf t b i.node with
  | .default k => read (s.countDefault t.id) k
  | .own k =>
    let s := s.countServed t i.node
    if t.cooler = 0 then read s k else
    let l := s.lookCooler region t b i.node bad
    match l.1 with
    | some _ =>
      (l.2.2.onGather fun g => { g with regions := modifyAt g.regions region fun r => { r with coolerRows := r.coolerRows + 1 } },
        ⟨i.idx, i.dst, row l.2.2 k true, none⟩)
    | none => read (l.2.2.fillCooler region t b i.node l.2.1 (s.bytesAt k t.rowBytes)
        ((linesOf k t.rowBytes).any (s.lineBad c))) k
  | _ =>
    match s.gather.rows.find? fun x => x.ctx == c && x.item == i.idx with
    | none => (s, ⟨i.idx, i.dst, [], none⟩)
    | some h =>
      (s.onGather fun g => { g with regions := modifyAt g.regions region fun r =>
          { r with remoteRows := if h.cached then r.remoteRows else r.remoteRows + 1 } },
        ⟨i.idx, i.dst, elemsOf t.format n (t.values (ofLe h.bytes)) h.poison.testBit, none⟩)

def State.readTableRows (s : State) (c : CtxId) (t : TableDesc) (b : Bool) (items : List ReadItem) (bad : List Nat) : State × List ReadRow :=
  items.foldl (fun (a : State × List ReadRow) i => let r := a.1.readTableRow c t b i (bad.contains i.idx); (r.1, a.2 ++ [r.2])) (s, [])

/-- A line of a place reached a work item poisoned by a fabric word (R31). -/
def State.placeBad (s : State) (c : CtxId) : Place → Bool
  | .own k => s.gather.badLines.contains (c, lineKey k)
  | .remote _ => false

/-- A row of a kind 3 source, folded by the fold stage: `rows` are the operand's, marked by beat where they stand in a copy. -/
def State.readTensorRow (s : State) (c : CtxId) (m : MicroBatch) (i : Nat) (x : Operand) (rows : List KeptRow) (e : ReadItem) : State × ReadRow :=
  let place := s.rowPlace (some m) 0 i x e.pos
  let row := rows.getD e.pos ⟨[], [], false⟩
  let s' := match place with
    | .own k => s.noteReads k x.rowBytes (s.nameOf c)
    | .remote _ => s
  (s', ⟨e.idx, e.dst, elemsOf x.format x.n row.vals fun j => row.poison && s.placePoisoned (place.plus (64 * j)) 1 || s.placeBad c (place.plus (64 * j)), none⟩)

/-! ### Folds (R225–R232) -/

/-- An aggregate: its elements and, for max and min, the trail index of each winner. -/
structure Aggregate where
  elems : List Elem
  wins  : List (BitVec 32)
  deriving DecidableEq, Repr

def addElems (a b : List Elem) : List Elem := List.zipWith (fun x y => (add32 x.1 y.1, x.2 || y.2)) a b

def sumElems : List (List Elem) → List Elem
  | [] => []
  | r :: rs => rs.foldl addElems r

/-- Weight a row (R225). -/
def weigh (weighted : Bool) (w : Nat) (row : List Elem) : List Elem :=
  if weighted then row.map fun e => (mul32 e.1 (BitVec.ofNat 32 (w * 65536)), e.2) else row

/-- Rank of an arrival: its place in the order given, then its own number. -/
def arrival (order : List Nat) (event : Nat) : Nat := (order.idxOf? event).getD (order.length + event)

/-- Arrival at the fold stage of the partial that a slice's lane holds for a destination's segment. -/
def partialEvent (dst seg slice : Nat) : Nat := 2 ^ 24 + (dst * 4097 + seg) * 16 + slice

/-- A sum over a destination's rows (R229): ascending trail index, or lane partials and rows in their order of arrival. -/
def foldSum (det : Bool) (order : List Nat) (dst seg : Nat) (rows : List ReadRow) : List Elem :=
  if det then sumElems (rows.map (·.elems)) else
  let inOrder (l : List ReadRow) : List (List Elem) := (sortBy (fun r => arrival order r.idx) l).map (·.elems)
  let lanes := (rows.filterMap (·.slice)).eraseDups.map fun k =>
    (partialEvent dst seg k, sumElems (inOrder (rows.filter fun r => r.slice == some k)))
  let single := (rows.filter fun r => r.slice.isNone).map fun r => (r.idx, r.elems)
  sumElems ((sortBy (fun x => arrival order x.1) (lanes ++ single)).map (·.2))

/-- The better of two candidates of an element (R226). -/
def pickBetter (max : Bool) (a b : Elem × BitVec 32) : Elem × BitVec 32 :=
  let better := if max then betterMax (b.1.1, b.2) (a.1.1, a.2) else betterMin (b.1.1, b.2) (a.1.1, a.2)
  let w := if better then b else a
  ((w.1.1, a.1.2 || b.1.2), w.2)

def foldBest (max : Bool) : List (List (Elem × BitVec 32)) → List (Elem × BitVec 32)
  | [] => []
  | r :: rs => rs.foldl (fun a b => List.zipWith (pickBetter max) a b) r

/-- One segment's aggregate (R232), before the mean is divided. -/
def foldSegment (func : Nat) (det : Bool) (order : List Nat) (dst : Nat) (seg : Nat × List ReadRow) : Aggregate :=
  if func ≤ 1 then ⟨foldSum det order dst seg.1 seg.2, []⟩
  else
    let best := foldBest (func == 2) (seg.2.map fun r => r.elems.map fun e => (e, BitVec.ofNat 32 r.idx))
    ⟨best.map (·.1), best.map (·.2)⟩

/-- The aggregate of a destination from its rows in ascending trail index (R226, R227, R232); `split` edges make a segment. -/
def foldDest (func n : Nat) (det : Bool) (order : List Nat) (split : Option Nat) (dst : Nat) (rows : List ReadRow) : Aggregate :=
  if rows.isEmpty then ⟨List.replicate n (0, false), List.replicate n 0xFFFFFFFF⟩ else
  let segs := match split with
    | some d => if rows.length > d then chunksOf d rows.length rows else [rows]
    | none => [rows]
  let parts := segs.zipIdx.map fun g => foldSegment func det order dst (g.2, g.1)
  if func ≤ 1 then
    let sum := sumElems (parts.map (·.elems))
    ⟨if func = 1 then sum.map fun e => (div32 e.1 (nat32 rows.length), e.2) else sum, List.replicate n 0xFFFFFFFF⟩
  else
    let best := foldBest (func == 2) (parts.map fun p => p.elems.zip p.wins)
    ⟨best.map (·.1), best.map (·.2)⟩

/-- Edges of a segment of a hop's rows: none where the basket's reads are sampled (R183). -/
def State.splitOf (s : State) (eval : Bool) (trail hop : Nat) : Option Nat :=
  (s.slotCfg.samplerOf eval trail).bind fun x =>
    if x.2.2.method = 4 then (x.2.2.hop[hop - 1]?).bind fun h => (s.table h.table).map fun t => (t.split + 1) * 64 else none

/-! ### Writing rows -/

/-- Write a row of elements narrowed to an operand's format (R228), with winner indices where the operand keeps them. -/
def State.writeElems (s : State) (m : MicroBatch) (i : Nat) (x : Operand) (r : Nat) (es : List Elem) (wins : List (BitVec 32)) : State :=
  let place := s.rowPlace (some m) 0 i x r
  let bytes := x.encode rne (valsOf (es.map (·.1)))
  let mark (j : Nat) : Bool := es.zipIdx.any fun e => e.1.2 &&
    (e.2 * elemBits x.format / 512 == j || isMx x.format && (valueBytes x.format 0 x.n + e.2 / 32) / 64 == j)
  let s := s.storeBeats place bytes mark
  if s.slotCfg.hasWinners i then
    s.storeBeats (place.plus x.rowBytes) (bytes32 wins) fun j => es.zipIdx.any fun e => e.1.2 && e.2 / 16 == j
  else s

/-! ### Shard stamps (R243, R244) -/

/-- Updates of a table by its OPTIMIZE (R138). -/
def State.tableUpdates (s : State) (id : Nat) : Nat :=
  let isOf (i : Nat) : Bool := (s.slotCfg.tableOf s.cfg.tables i).any fun t => t.id == id
  (s.slotCfg.ops.zipIdx.find? fun o => match o.1.body with
    | .optimize p => isOf p.target || isOf p.state1 || isOf p.state2
    | _ => false).elim 0 fun o => s.updateCount o.2

def State.stampOf (s : State) (t : TableDesc) : BitVec 32 :=
  let x := s.tables.tables.getD t.id TableState.reset
  BitVec.ofNat 32 (pack [(x.switches.toNat, 8), (s.tables.generation.toNat, 8), (x.defaultWrites.toNat, 8),
    (if t.kind = 2 ∨ t.kind = 4 then s.tableUpdates t.id else 0, 8)])

/-- A re-gather whose stamp differs (R244): the stashed copy, where there is one, or the drop. -/
def State.drifted (s : State) (c : CtxId) (m : MicroBatch) (k out : Nat) (t : TableDesc) : State :=
  let count (s : State) (f : GatherRegion → GatherRegion) : State :=
    s.onGather fun g => { g with regions := modifyAt g.regions c.region.val f }
  match s.stashEntry m out false, s.operand out with
  | some e, some x =>
    let stream := s.entryStream e (x.m * s.stashRowBytes (s.slotCfg.hasWinners out) x)
    let s := (List.range x.m).foldl (fun s r => s.writeRow (some m) 0 out x r (s.streamRow (s.slotCfg.hasWinners out) x stream r).vals false) s
    (count s fun r => { r with stashUsed := satAdd r.stashUsed 1 }).endForward c k
  | _, _ => ((count s fun r => { r with drift := satAdd r.drift 1 }).dropFor c 0x0A0 (nodeDetail 0 t.id)).settle

/-! ### The work items -/

/-- Rows of a table for a work item (R164–R168, R223, R230): an invalid node or a late read drops the micro-batch, and so does a re-gather
(`again`) once the table's update has begun (R244); remote rows are asked for and the item waits for them; with every row at hand the item
folds. -/
def State.withTableRows (s : State) (c : CtxId) (m : MicroBatch) (again : Bool) (t : TableDesc) (items : List ReadItem) (bad : List Nat)
    (fold : State → List ReadRow → State) : State :=
  let b := m.versionB.contains t.id
  if s.tables.stalled.contains c.region || s.gather.requests.any fun q => q.ctx == c then s else
  let invalid (i : ReadItem) : Option (Nat × Nat) := match s.sourceOf t b i.node with
    | .invalid code => some (code, i.node)
    | _ => none
  match items.findSome? invalid with
  | some (code, node) => (s.dropFor c code (nodeDetail node t.id)).settle
  | none =>
    let late (i : ReadItem) : Bool := match s.sourceOf t b i.node with
      | .own _ => if again then s.updateBegun t.id else s.isUpdating t.id
      | .remote _ => again && s.updateBegun t.id
      | _ => false
    match (if t.kind = 2 ∨ t.kind = 4 then items.find? late else none) with
    | some i => (s.dropFor c 0x085 (nodeDetail i.node t.id)).settle
    | none =>
      let s := s.askRows c m t b items bad
      let missing (i : ReadItem) : Bool := (match s.sourceOf t b i.node with
        | .remote _ => true
        | _ => false) && !s.gather.rows.any fun x => x.ctx == c && x.item == i.idx
      if items.any missing then s
      else
        let r := s.readTableRows c t b items bad
        (fold r.1 r.2).onGather fun g => { g with rows := g.rows.filter fun x => x.ctx != c }

/-- Finish a gather of a table: the stamp is kept, or compared by a re-gather. -/
def State.stamped (s : State) (c : CtxId) (x : TaskContext) (m : MicroBatch) (k out : Nat) (t : TableDesc) (write : State → State) : State :=
  if !x.part then
    ((write s).onMb m.mb m.step fun m => { m with stamps := insertKey k (s.stampOf t) m.stamps }).endForward c k
  else if (lookupNat k m.stamps).all (· == s.stampOf t) then (write s).endForward c k
  else s.drifted c m k out t

/-- R121, R122, R130, R132, R164–R168, R170, R172–R178, R223, R225, R228, R230, R241, R243, R244, R306. -/
def execGather (ctx : CtxId) (bad : List Nat) (s : State) : Out :=
  .next <| s.runForward ctx fun t o k s =>
    match o.body, s.viewMb t with
    | .gather lists hop table out, some m =>
      match s.slotCfg.tableOf s.cfg.tables table, s.operand out with
      | some tb, some x =>
        let items := (s.listNodes m lists hop).zipIdx.map fun n => (⟨n.2, n.1, n.2, n.2, bf16One⟩ : ReadItem)
        (s.withTableRows ctx m t.part tb items bad fun s rows =>
          s.stamped ctx t m k out tb fun s => rows.foldl (fun s r => s.writeElems m out x r.dst r.elems []) s).draw
      | _, _ => s
    | _, _ => s

/-- Fold and write every destination of an AGGREGATE. -/
def State.foldAll (s : State) (m : MicroBatch) (a : AggregateOp) (order : List Nat) (x : Operand) (items : List ReadItem) (rows : List ReadRow) :
    State :=
  let eval := decide (1024 ≤ m.mb)
  let lists := s.slotCfg.listsOf eval a.trail
  let weights := items.map fun i => (i.idx, i.weight)
  let rows := rows.map fun r => { r with elems := weigh (a.weighted && r.idx < ownIndex) ((pairOf r.idx weights).getD bf16One) r.elems }
  let n := if a.self then x.n / 2 else x.n
  let free := BitVec.ofNat 32 (Config.undefinedField s.draws)
  (List.range (s.recordField m lists (192 + 32 * (a.hop - 1)))).foldl (fun s d =>
    let g := foldDest a.func n s.cfg.sundial.det order (s.splitOf eval a.trail a.hop) d (rows.filter fun r => r.dst == d && r.idx < ownIndex)
    match rows.find? fun r => r.idx == ownIndex + d with
    | some own => s.writeElems m a.out x d (own.elems ++ g.elems) (List.replicate own.elems.length free ++ g.wins)
    | none => s.writeElems m a.out x d g.elems g.wins) s

/-- Count folded edges (R7). -/
def State.countEdges (s : State) (c : CtxId) (n : Nat) : State :=
  s.onGather fun g => { g with regions := modifyAt g.regions c.region.val fun r => { r with fwdEdges := addN r.fwdEdges n } }

/-- Rows that wait in the reorder store once the first `n` of an order of arrival are in: a predecessor of theirs at the same destination is
not (R229). -/
def reorderHeld (arrived : List ReadRow) (rows : List ReadRow) : Nat :=
  (arrived.filter fun r => rows.any fun p => p.dst == r.dst && decide (p.idx < r.idx) && !arrived.any fun a => a.idx == p.idx).length

/-- With det = 1 a sum whose waiting rows fill the 1 MiB reorder store stalls issue: a step in which it does counts once (R229, R248). -/
def State.noteReorder (s : State) (c : CtxId) (a : AggregateOp) (order : List Nat) (rowBytes : Nat) (rows : List ReadRow) : State :=
  let byArrival := sortBy (fun r : ReadRow => arrival order r.idx) rows
  let full := s.cfg.sundial.det && decide (a.func ≤ 1) && decide (2 ^ 20 < rows.length * rowBytes) &&
    (List.range rows.length).any fun n => decide (2 ^ 20 < reorderHeld (byArrival.take (n + 1)) rows * rowBytes)
  if !full then s else
  s.onGather fun g => { g with regions := modifyAt g.regions c.region.val fun r =>
    if r.reorderSeen then r else { r with reorderSeen := true, reorderFull := satAdd r.reorderFull 1 } }

/-- R7, R33, R81, R121, R122, R130, R132, R164–R168, R170, R172–R178, R183, R220–R232, R241, R243, R244, R248, R306. `order` gives
the order of arrival, which timing decides. -/
def execAggregate (ctx : CtxId) (order bad : List Nat) (s : State) : Out :=
  .next <| s.runForward ctx fun t o k s =>
    match o.body, s.viewMb t with
    | .aggregate a, some m =>
      let lists := s.slotCfg.listsOf o.eval a.trail
      let edges := s.trailItems m lists a.trail a.hop
      let items := edges ++ s.ownItems m lists a
      match s.operand a.out, s.slotCfg.tableOf s.cfg.tables a.src, s.operand a.src with
      | some x, some tb, _ =>
        (s.withTableRows ctx m t.part tb items bad fun s rows =>
          s.stamped ctx t m k a.out tb fun s =>
            ((s.foldAll m a order x items rows).countEdges ctx edges.length).noteReorder ctx a order tb.rowBytes rows).draw
      | some x, none, some src =>
        let given := s.inputRows t m 0 a.src src
        let r := items.foldl (fun (p : State × List ReadRow) i => let y := p.1.readTensorRow ctx m a.src src given i; (y.1, p.2 ++ [y.2])) (s, [])
        ((((r.1.foldAll m a order x items r.2).countEdges ctx edges.length).noteReorder ctx a order src.rowBytes r.2).endForward ctx k).draw
      | _, _, _ => s
    | _, _ => s

/-! ### Requests and replies (R230, R422–R424) -/

/-- An owner's answer: its entry and, where served, the row with its poison by flit. -/
structure RowAnswer where
  tag    : Nat
  status : Nat
  flits  : List Flit
  poison : Nat
  deriving DecidableEq, Repr

/-- A ROW_REPLY packet (R423). -/
def State.sendReply (s : State) (dest : Coord) (as : List RowAnswer) : State :=
  let entry (a : RowAnswer) : Nat := pack [(a.tag, 20), (a.flits.length - 1, 6), (a.status, 2), (0, 4)]
  let poison := (as.foldl (fun (p : Nat × Nat) a => (p.1 + a.poison * 2 ^ p.2, p.2 + a.flits.length)) (0, 0)).1
  s.sendTo dest 0x02 2 s.tables.generation.toNat (as.length - 1) (pack ((poison, 64) :: as.map fun a => (entry a, 32))) (as.flatMap (·.flits))

/-- Answers gathered into packets while they have room: twelve entries and 64 flits. -/
def State.sendReplies (s : State) (dest : Coord) : List RowAnswer → List RowAnswer → State
  | [], full => if full.isEmpty then s else s.sendReply dest full
  | a :: rest, full =>
    if full.length = 12 ∨ (full.map fun f => f.flits.length).sum + a.flits.length > 64 then (s.sendReply dest full).sendReplies dest rest [a]
    else s.sendReplies dest rest (full ++ [a])

/-- A row served by its owner (R168, R177, R178, R230). -/
def State.serveRow (s : State) (t : TableDesc) (q : RowReqEntry) (k : Nat) : State × RowAnswer :=
  let n := t.rowBytes / 64
  let marks := (List.range n).foldl (fun p j => p + bit (s.memory.mem.poisoned (k + 64 * j)) * 2 ^ j) 0
  (((s.countServed t q.node.toNat).noteReads k t.rowBytes noName), ⟨q.tag.toNat, 0, flitsOf (s.bytesAt k t.rowBytes), marks⟩)

/-- What the owner does with a request: served, refused as late, flagged as of another layout, or held (R168, R424). -/
def State.takeRowReq (s : State) (src : Coord) (match_ : Bool) (q : RowReqEntry) : State × Option RowAnswer :=
  let refuse (status : Nat) : RowAnswer := ⟨q.tag.toNat, status, [], 0⟩
  match (if match_ then s.table q.table.toNat else none) with
  | none => (s, some (refuse 2))
  | some t =>
    match s.ownRowKey t q.version q.node.toNat with
    | none => (s, some (refuse 2))
    | some k =>
      if (t.kind = 2 ∨ t.kind = 4) ∧ s.isUpdating t.id then
        if q.step.toNat ≤ s.dial.step.toNat then (s, some (refuse 1))
        else (s.onTables fun x => { x with heldRequests := x.heldRequests ++ [(t.id, src, q)] }, none)
      else let r := s.serveRow t q k; (r.1, some r.2)

/-- Answer a requester's entries in order. -/
def State.answerRows (s : State) (src : Coord) (match_ : Bool) (qs : List RowReqEntry) : State :=
  let r := qs.foldl (fun (a : State × List RowAnswer) q => let x := a.1.takeRowReq src match_ q; (x.1, a.2 ++ x.2.toList)) (s, [])
  r.1.sendReplies src r.2 []

/-- R168, R177, R178, R230, R422–R424. -/
def execRowReq (lgen : BitVec 8) (src : Coord) (entries : List RowReqEntry) (s : State) : Out :=
  .next <| if !s.start.loaded then s else (s.answerRows src (lgen == s.tables.generation) entries).draw

/-- Requests held for a table's update are answered once it completes (R168). -/
def State.answerHeldRows (s : State) : State :=
  let held := s.tables.heldRequests.filter fun h => !s.isUpdating h.1
  let s := s.onTables fun x => { x with heldRequests := x.heldRequests.filter fun h => s.isUpdating h.1 }
  ((held.map fun h => h.2.1).eraseDups).foldl (fun s src => s.answerRows src true ((held.filter fun h => h.2.1 == src).map fun h => h.2.2)) s

/-- One reply entry reaches its request (R174, R230, R424). -/
def State.takeReply (s : State) (e : RowReplyEntry) (bytes : List Byte) (poison : Nat) : State :=
  match s.gather.requests.find? fun q => q.tag == e.tag with
  | none => s.onGather fun g => { g with regions := modifyAt g.regions (e.tag.toNat % 4) fun r => { r with lateReplies := satAdd r.lateReplies 1 } }
  | some q =>
    let s := s.onGather fun g => { g with requests := g.requests.filter fun x => x.tag != e.tag }
    match e.status.toNat with
    | 0 =>
      let s := match s.table q.table, s.mbs.find? (fun m => m.mb == q.mb && !m.dropped) with
        | some t, some m =>
          if t.cooler = 2 then s.fillCooler q.region.val t (m.versionB.contains t.id) q.node q.est bytes (poison != 0) else s
        | _, _ => s
      s.onGather fun g => { g with rows := g.rows ++ [⟨q.ctx, q.item, bytes, poison, false⟩] }
    | 1 => (s.dropFor q.ctx 0x085 (nodeDetail q.node q.table)).settle
    | _ => ((s.dropFor q.ctx 0x0E4 0).haltAtBoundary 4).settle

/-- The entries of a reply with the data flits that follow for each. -/
def splitReply (poison : Nat) : List RowReplyEntry → List Flit → List (RowReplyEntry × List Byte × Nat)
  | [], _ => []
  | e :: es, fs =>
    let n := if e.status = 0 then e.flits.toNat + 1 else 0
    (e, (fs.take n).flatMap flitBytes, poison % 2 ^ n) :: splitReply (poison / 2 ^ n) es (fs.drop n)

/-- R32, R174, R230, R241, R423, R424. An entry whose generation tag is not that of its gather engine now is dropped and counted. -/
def execRowReply (src : Coord) (poison : Word) (entries : List RowReplyEntry) (data : List Flit) (s : State) : Out :=
  .next <|
    if !s.start.loaded then s
    else if entries.any fun e => e.status == 3 then s.logDevice 0x002 noName 0 0
    else if (entries.map fun e => if e.status = 0 then e.flits.toNat + 1 else 0).sum ≠ data.length ∨ entries.any fun e => e.status != 0 && e.flits != 0
    then s.logDevice 0x003 noName 0 0
    else (splitReply poison.toNat entries data).foldl (fun s x =>
      if x.1.gen ≠ s.engineTag (gatherEngineKey (x.1.tag.toNat % 4)) then s.onResil fun r => { r with stale := r.stale + 1 }
      else if (s.gather.requests.find? fun q => q.tag == x.1.tag).any fun q => q.owner != src then s else s.takeReply x.1 x.2.1 x.2.2) s

/-- R230, R231. -/
def execGatherTimeout (tag : BitVec 20) (s : State) : Out :=
  .next <| match s.gather.requests.find? fun q => q.tag == tag with
    | some q =>
      if s.dialTime < q.sent + 4096 then s else
      s.timeOut q.ctx
    | none => s

end Sys2Proof.Machine
end

