-- ==== Sys2Proof/Machine/Trail.lean ====
section
/-! DEFINITION. The return trail (R233–R242): contributions, gradient companions of kind 3 sources, return slots, the return sweep. -/

namespace Sys2Proof.Machine

/-! ### Contributions (R233) -/

/-- A contribution to the gradient of a source row: node, or row of a kind 3 source, and its elements. -/
structure Contribution where
  node  : Nat
  pos   : Nat
  elems : List Elem
  deriving DecidableEq, Repr, Inhabited

/-- The gradient row of a destination, marked by beat. -/
def State.gradRow (s : State) (m : MicroBatch) (i : Nat) (x : Operand) (r : Nat) : List Elem :=
  let place := s.companionRow m i x r
  let set := s.companionSet m i r
  (s.companionVals m i x r).zipIdx.map fun v => (v.1, set && s.placePoisoned (place.plus (v.2 / 16 * 64)) 1)

/-- c_e of an entry whose destination has gradient row `g`, `n` entries and winners `wins`. -/
def contribution (a : AggregateOp) (e : ReadItem) (g : List Elem) (n : Nat) (wins : List Nat) : List Elem :=
  let w := weigh a.weighted e.weight g
  match a.func with
  | 0 => w
  | 1 => w.map fun x => (div32 x.1 (nat32 n), x.2)
  | _ => w.zipIdx.map fun x => (if wins.getD x.2 0xFFFFFFFF = e.idx then x.1.1 else 0, x.1.2)

/-- Contributions of an AGGREGATE for a micro-batch in trail order, a destination's own row before its first entry; own rows of
destinations without an entry last. -/
def State.aggContributions (s : State) (t : TaskContext) (m : MicroBatch) (a : AggregateOp) : List Contribution :=
  match s.operand a.out with
  | none => []
  | some x =>
    let lists := s.slotCfg.listsOf false a.trail
    let items := s.trailItems m lists a.trail a.hop
    let own := s.ownItems m lists a
    let half := if a.self then x.n / 2 else 0
    let kept := if a.func ≥ 2 then s.keptRows t m a.out x none else []
    let row (d : Nat) : List Elem := s.gradRow m a.out x d
    let wins (d : Nat) : List Nat := ((kept.getD d ⟨[], [], false⟩).wins).drop half
    let self (d : Nat) : List Contribution := (own.filter fun o => o.dst == d).map fun o => ⟨o.node, o.pos, (row d).take half⟩
    let of (e : ReadItem) : Contribution :=
      ⟨e.node, e.pos, contribution a e ((row e.dst).drop half) (items.filter fun i => i.dst == e.dst).length (wins e.dst)⟩
    let r := items.foldl (fun (acc : List Contribution × List Nat) e =>
      let before := if acc.2.contains e.dst then [] else self e.dst
      (acc.1 ++ before ++ [of e], if acc.2.contains e.dst then acc.2 else e.dst :: acc.2)) ([], [])
    r.1 ++ (own.filter fun o => !r.2.contains o.dst).flatMap fun o => self o.dst

/-- Contributions of a part, in trail-index order. -/
def State.contributions (s : State) (t : TaskContext) (m : MicroBatch) (o : Op) : List Contribution :=
  match o.body with
  | .aggregate a => s.aggContributions t m a
  | .gather lists hop _ out => (s.operand out).elim [] fun x =>
      (s.listNodes m lists hop).zipIdx.map fun n => ⟨n.1, n.2, s.gradRow m out x n.2⟩
  | _ => []

/-- R33, R140, R233, R234, R237, R241, R244, R292, R306. A part into a table has its walk ready and waits for the sweep. -/
def execTrailReturn (ctx : CtxId) (s : State) : Out :=
  .next <| s.runBackward ctx fun t o s => s.runUnpoisoned ctx t o fun m s =>
    match o.body with
    | .gather _ _ _ _ => s.finish ctx
    | .aggregate a =>
      if !s.slotCfg.isKind a.src 3 then s.finish ctx else
      let s := (s.contributions t m o).foldl (fun s c =>
        s.addCompanion m.mb m.step a.src c.pos (c.elems.map (·.1)) fun j => ((c.elems.drop (16 * j)).take 16).any (·.2)) s
      (s.finish ctx).draw
    | _ => s

/-! ### Return slots (R235, R236) -/

/-- Tables that return into slots. -/
def State.returnTables (s : State) : List TableDesc := (s.slotCfg.ops.filterMap (s.slotCfg.returnsTo s.cfg.tables)).eraseDups

def State.slotBytes (s : State) : Nat := (s.returnTables.map returnSlotBytes).foldl max 64

/-- First byte of the return partition and its number of sets. -/
def State.slotArea (s : State) : Option (Nat × Nat) :=
  (s.partOf 1).map fun p => (memKey p.2.tier p.2.start, p.2.len / (8 * s.slotBytes))

/-- The eight slots of a row's set. -/
def State.slotKeys (s : State) (table node : Nat) : List Nat :=
  match s.slotArea with
  | none => []
  | some a => (List.range 8).map fun w => a.1 + (((node + table * 2 ^ 40) % a.2) * 8 + w) * s.slotBytes

/-- The slot at a key holds contributions of the current step. -/
def State.slotCurrent (s : State) (k : Nat) : Bool := s.numAt (k + 8) 6 == s.dial.step.toNat

def State.slotNode (s : State) (k : Nat) : Nat := s.numAt k 5
def State.slotTable (s : State) (k : Nat) : Nat := s.numAt (k + 5) 1
def State.slotCount (s : State) (k : Nat) : Nat := s.numAt (k + 16) 4
def State.slotPoisoned (s : State) (k : Nat) : Bool := s.numAt (k + 6) 1 % 2 == 1

/-- The current slot of a row. -/
def State.slotOf (s : State) (table node : Nat) : Option Nat :=
  (s.slotKeys table node).find? fun k => s.slotCurrent k && s.slotNode k == node && s.slotTable k == table

/-- Elements of a slot's row, marked by beat. A read that is uncorrectable poisons every beat (R241): the header's line is poisoned, or a line
of the row is while the header says that no poison has met the slot. -/
def State.slotRow (s : State) (t : TableDesc) (k : Nat) : List Elem :=
  let fmt := returnRowFormat t
  let n := t.cols + 1
  let row := s.numAt (k + 64) (rowSize fmt 0 n)
  let lost := s.memory.mem.poisoned k || !s.slotPoisoned k && s.rangePoisoned (k + 64) (rowSize fmt 0 n)
  elemsOf fmt n ((List.range n).map (denseVal fmt n 0 row)) fun j => lost || s.memory.mem.poisoned (k + 64 + 64 * j)

/-- Write a slot. -/
def State.writeSlot (s : State) (t : TableDesc) (node k count : Nat) (met : Bool) (es : List Elem) : State :=
  let fmt := returnRowFormat t
  let header := pack [(node, 40), (t.id, 8), (bit (met || es.any (·.2)), 1), (0, 15), (s.dial.step.toNat, 48), (0, 16), (min count 0xFFFFFFFF, 32)]
  let s := s.store k (leBytes header 64) false
  s.storeBeats (.own (k + 64)) (leBytes (encodeRow fmt 0 rne (valsOf (es.map (·.1)))) (rowSize fmt 0 (t.cols + 1))) fun j =>
    es.zipIdx.any fun e => e.1.2 && e.2 * elemBits fmt / 512 == j

/-- A fold finds its row's slot or a free one (R236). -/
def State.slotRoom (s : State) (t : TableDesc) (node : Nat) : Bool :=
  (s.slotOf t.id node).isSome || (s.slotKeys t.id node).any fun k => !s.slotCurrent k

/-- Fold a row with its count of contributions into its slot; a full set discards it (R236). `met` is the poisoned bit it brings. -/
def State.foldSlot (s : State) (t : TableDesc) (node count : Nat) (met : Bool) (es : List Elem) (combine : List Elem → List Elem → List Elem) :
    State :=
  match s.slotOf t.id node with
  | some k =>
    let s := s.noteReads k (returnSlotBytes t) (engineName 0 1)
    s.writeSlot t node k (s.slotCount k + count) (met || s.slotPoisoned k) (combine (s.slotRow t k) es)
  | none =>
    match (s.slotKeys t.id node).find? fun k => !s.slotCurrent k with
    | some k => (s.writeSlot t node k count met es).onGather fun g => { g with slotsUsed := g.slotsUsed + 1 }
    | none => (s.onGather fun g => { g with full := satAdd g.full 1, skipped := insertNat t.id g.skipped }).logDevice 0x0A3 noName 0 0

/-! ### The sweep (R237–R239) -/

/-- An entry of a return cache: table, node, contributions, FP32 partial row. -/
structure CacheEntry where
  t     : TableDesc
  node  : Nat
  count : Nat
  elems : List Elem
  deriving DecidableEq, Repr, Inhabited

/-- A count of contributions has been applied to a slot of this device; as the row's owner it counts them (R7, R240). -/
def State.countReturn (s : State) (t : TableDesc) (node count : Nat) : State :=
  if (s.ownRowHome t node).isSome then s.onGather fun g => { g with retEdges := addN g.retEdges count } else s

/-- Fold contributions into their slot and count them, unless the set is full (R236, R240). -/
def State.foldCounted (s : State) (t : TableDesc) (node count : Nat) (met : Bool) (es : List Elem) (combine : List Elem → List Elem → List Elem) :
    State :=
  let room := s.slotRoom t node
  let s := s.foldSlot t node count met es combine
  if room then s.countReturn t node count else s

/-- A sweep under way: the device, the contributions folded into slots so far, the return caches by region and set. -/
abbrev Sweep := State × Nat × List (Nat × List CacheEntry)

/-- An entry leaves the cache as one fold into its slot (R238). -/
def Sweep.writeBack (x : Sweep) (e : CacheEntry) : Sweep :=
  (x.1.foldCounted e.t e.node e.count false e.elems addElems, x.2.1 + (if x.1.slotRoom e.t e.node then e.count else 0), x.2.2)

/-- Sets of a return cache: 4 MiB of FP32 partial rows, 16 ways (R238). DEDUCED: every entry has room for the largest row that returns (log
entry 16). -/
def State.cacheSets (s : State) : Nat :=
  max 1 (2 ^ 22 / (16 * (s.returnTables.map fun t => rowSize 1 0 (t.cols + 1)).foldl max 64))

/-- The folding region of a row: that of the slice of its set's first slot. -/
def State.foldingRegion (s : State) (t : TableDesc) (node : Nat) : Nat := ((s.slotKeys t.id node).head?).elim 0 fun k => field k 15 2

/-- Add a contribution into a cache set of 16 ways, oldest touch first. -/
def Sweep.touch (x : Sweep) (t : TableDesc) (c : Contribution) : Sweep :=
  let s := x.1
  let key := s.foldingRegion t c.node * 2 ^ 40 + Config.returnCacheSet t.id c.node % s.cacheSets
  let set := (lookupNat key x.2.2).getD []
  let mine (e : CacheEntry) : Bool := e.t.id == t.id && e.node == c.node
  let put (x : Sweep) (set : List CacheEntry) : Sweep := (x.1, x.2.1, insertKey key set x.2.2)
  match set.find? mine with
  | some e => put x (set.filter (fun e => !mine e) ++ [{ e with count := e.count + 1, elems := addElems e.elems c.elems }])
  | none =>
    let new : CacheEntry := ⟨t, c.node, 1, c.elems⟩
    if set.length < 16 then put x (set ++ [new])
    else match set with
      | old :: rest => put (x.writeBack old) (rest ++ [new])
      | [] => put x [new]

/-- Parts that the sweep serves: their contexts, in ascending basket and operation. -/
def State.sweepParts (s : State) : List (CtxId × TaskContext × MicroBatch × Op × TableDesc) :=
  let all := s.sched.zipIdx.flatMap fun (r : RegionSched × Nat) => r.1.contexts.filterMap fun (x : Nat × TaskContext) =>
    if x.2.state == 4 && s.awaitsSweep x.2 && x.2.step == s.dial.step then
      match s.itemMb x.2, s.op x.2.op.toNat with
      | some m, some o => (s.slotCfg.returnsTo s.cfg.tables o).map fun t => (⟨Fin.ofNat 4 r.2, x.1⟩, x.2, m, o, t)
      | _, _ => none
    else none
  sortBy (fun x => x.2.2.1.basket * 16384 + x.2.1.op.toNat) all

/-- Every micro-batch of the step has done its other backward work or been dropped, and its parts into tables wait (R237). -/
def State.sweepReady (s : State) : Bool :=
  let waiting (j mb : Nat) : Bool := s.sweepParts.any fun x => x.2.1.op.toNat == j && x.2.1.mb.toNat == mb
  s.mbs.all fun m => m.dropped || m.committed || decide (1024 ≤ m.mb) || m.step != s.dial.step.toNat ||
    s.slotCfg.ops.zipIdx.all fun o => !o.1.bwd || !s.opOccurs o.1 ||
      s.partDone o.2 m.mb true || (s.slotCfg.returnsTo s.cfg.tables o.1).isSome && waiting o.2 m.mb

/-- A micro-batch whose gradient rows hold a poisoned beat is dropped before the sweep (R242). -/
def State.dropPoisonedWalks (s : State) : State :=
  s.sweepParts.foldl (fun s x =>
    match x.2.2.2.1.gradIn.bind fun i => (s.operand i).map fun y => (i, y) with
    | some (i, y) =>
      if (List.range y.m).any fun r => (s.gradRow x.2.2.1 i y r).any (·.2) then s.dropMb x.2.2.1.mb x.2.2.1.step else s
    | none => s) s

/-- Contributions of the sweep in the merged order, with their tables: a default row takes none (R167, R238). -/
def State.sweepList (s : State) : List (TableDesc × Contribution) :=
  s.sweepParts.flatMap fun x => ((s.contributions x.2.1 x.2.2.1 x.2.2.2.1).filter fun c =>
    match s.sourceOf x.2.2.2.2 false c.node with
    | .own _ => true
    | .remote _ => true
    | _ => false).map fun c => (x.2.2.2.2, c)

/-- The sweep of a list of contributions, and how many reached their slots (R238, R239). -/
def State.sweep (s : State) (l : List (TableDesc × Contribution)) : State × Nat :=
  let r : Sweep := l.foldl (fun x c => Sweep.touch x c.1 c.2) (s, 0, [])
  let r := (r.2.2.flatMap (·.2)).foldl Sweep.writeBack r
  (r.1, r.2.1)

/-- R7, R23, R33, R167, R235–R242, R249, R299, R464. A new sweep's progress is the share of its contributions that it folds: none where the
sweep is abandoned. -/
def execReturnSweep (s : State) : Out :=
  .next <|
    if s.sweepParts.isEmpty || !s.sweepReady then s else
    let s := s.dropPoisonedWalks
    let parts := s.sweepParts
    let list := s.sweepList
    let r := if s.gather.abandoned then (s, 0) else s.sweep list
    let s := parts.foldl (fun s x => s.setCtx x.1 { x.2.1 with subs := x.2.1.subs ++ [sweptMark] }) r.1
    let progress := if s.gather.abandoned then 0 else fraction r.2 list.length
    ((s.onGather fun g => { g with progress := progress }).draw).settle

end Sys2Proof.Machine
end

