-- ==== Sys2Proof/Machine/Train.lean ====
section
/-! DEFINITION. Training across micro-batches: stash entries (R302–R305, R307), commits (R297, R298), OPTIMIZE (R138, R309, R313, R319,
R337), norm taps (R315). -/

namespace Sys2Proof.Machine

/-! ### Stash entries (R302, R303) -/

/-- Zero-run coding of a stream of marked 64-byte beats: bytes, each with its beat's mark. -/
def codeBeats : List (List Byte × Bool) → List (Byte × Bool)
  | [] => []
  | (b, p) :: bs =>
    let words := (List.range 8).map fun i => (b.drop (8 * i)).take 8
    let kept := words.zipIdx.filter fun w => w.1.any (· != 0)
    let mask := (kept.map fun w => 2 ^ w.2).sum
    (BitVec.ofNat 8 mask, p) :: (kept.flatMap (·.1)).map (fun x => (x, p)) ++ codeBeats bs

/-- A byte string as marked beats. -/
def beatsOf (bs : List Byte) (mark : Nat → Bool) : List (List Byte × Bool) :=
  (List.range (ceilDiv bs.length 64)).map fun i => (padTo 64 ((bs.drop (64 * i)).take 64), mark i)

/-- Beats of a row of a copy as the compressor takes it: values, converted or as stored, then winner indices (R302, R307). -/
def State.stashBeats (s : State) (m : MicroBatch) (i : Nat) (x : Operand) (r : Nat) : List (List Byte × Bool) :=
  let place := s.rowPlace (some m) 0 i x r
  let bad (off : Nat) : Bool := s.placePoisoned (place.plus off) 1
  let vals := if s.converts x then
      beatsOf (padTo (s.stashValueBytes x) ((s.rowVals (some m) 0 i x r).map fun v => BitVec.ofNat 8 (s.toFp8 v))) fun l =>
        (List.range 64).any fun j => decide (64 * l + j < x.n) && (elemWords x (64 * l + j)).any fun w => bad (8 * w)
    else beatsOf (leBytes (s.placeNum place x.rowBytes) x.rowBytes) fun l => bad (64 * l)
  let wins := if s.slotCfg.hasWinners i then
      beatsOf (leBytes (s.placeNum (place.plus x.rowBytes) (4 * x.n)) (4 * x.n)) fun l => bad (x.rowBytes + 64 * l)
    else []
  vals ++ wins

/-- Beats of a row of pre-activations. -/
def State.preBeats (s : State) (y : Operand) (bytes : List Byte) : List (List Byte × Bool) :=
  let bs := if s.converts y then padTo (s.stashValueBytes y) ((y.values (ofLe bytes)).map fun v => BitVec.ofNat 8 (s.toFp8 v)) else bytes
  beatsOf bs fun _ => false

/-- Pages of an area in use. -/
def State.usedPages (s : State) (far : Bool) (region : Nat) : List Nat :=
  (s.train.stash.filter fun e => e.far == far && e.region.val == region).flatMap fun e => (List.range e.pages).map (e.page + ·)

/-- The lowest run of free pages that holds `n` (R303). -/
def State.freeRun (s : State) (far : Bool) (region n : Nat) : Option Nat :=
  (s.stashArea far region).bind fun a =>
    if a.2 < n then none else
    let used := s.usedPages far region
    (List.range (a.2 - n + 1)).find? fun p => (List.range n).all fun i => !used.contains (p + i)

/-- Stash points of a micro-batch that have no entry and no mark (R302, R305): operand or operation, pre-activation. -/
def State.openPoints (s : State) (m : MicroBatch) : List (Nat × Bool) :=
  let sl := s.slotCfg
  let done (i : Nat) (pre : Bool) : Bool := m.recompute.contains (markOf i pre) || (s.stashEntry m i pre).isSome
  let reader (i : Nat) : Bool := sl.ops.zipIdx.any fun x => x.1.bwd && s.opOccurs x.1 && !s.partDone x.2 m.mb true && (sl.forwardValues x.1).contains i
  ((sl.stashed.filter fun i => reader i && !done i false).map fun i => (i, false)) ++
    ((sl.ops.zipIdx.filter fun x => x.1.stashesPre && s.opOccurs x.1 && !s.partDone x.2 m.mb true && !done x.2 true).map fun x => (x.2, true))

/-- The point is reached: the last forward operation that writes it has completed (R302). -/
def State.pointReached (s : State) (m : MicroBatch) (i : Nat) (pre : Bool) : Bool :=
  if pre then s.partDone i m.mb false
  else (s.slotCfg.writersOf i).all fun j => (s.op j).any (fun o => !s.inPass false o) || s.partDone j m.mb false

/-- No run holds the entry (R305): this point and every later one of the micro-batch are recomputed. -/
def State.markRecompute (s : State) (m : MicroBatch) : State :=
  let marks := (s.openPoints m).map fun x => markOf x.1 x.2
  let s := s.onMb m.mb m.step fun m => { m with recompute := m.recompute ++ marks, stashStop := true }
  s.onTrain fun t => { t with
    preRows := t.preRows.filter fun e => !(e.mb == m.mb && e.step == m.step)
    stashRegion := modifyAt t.stashRegion (regionOfMb m.mb) fun r =>
      { r with recomputeOps := satAdd r.recomputeOps marks.length, recomputeMbs := satAdd r.recomputeMbs 1 } }

/-- Header of an entry (R303). -/
def State.stashHeader (s : State) (e : StashEntry) (x : Operand) (raw coded : Nat) : Nat :=
  let c := s.converts x
  pack [(1, 4), (bit e.poisoned, 1), (bit e.far, 1), (if c then s.slotCfg.training.stashFp8 else 0, 2),
    (if c then toField s.slotCfg.training.fp8Scale 8 else 0, 8), (e.operand, 12), (bit e.pre, 1), (0, 3), (e.mb, 10), (0, 6), (e.step, 48),
    (raw, 32), (coded, 32), (e.pages - 1, 16)]

/-- Write an entry (R303): coded stream with its marks, then the header. -/
def State.putEntry (s : State) (e : StashEntry) (x : Operand) (raw : Nat) (coded : List (Byte × Bool)) : State :=
  let k := s.entryKey e
  let s := s.onTrain fun t => { t with stash := t.stash ++ [e] }
  let s := s.storeBeats (.own (k + 64)) (coded.map (·.1)) fun l => ((coded.drop (64 * l)).take 64).any (·.2)
  let s := s.store k (leBytes (s.stashHeader e x raw coded.length) 64) false
  let used := (s.usedPages false e.region.val).length
  s.onTrain fun t => { t with
    preRows := if e.pre then t.preRows.filter fun p => !(p.op == e.operand && p.mb == e.mb && p.step == e.step) else t.preRows
    stashRegion := modifyAt t.stashRegion e.region.val fun r => { r with
      pagesPeak := BitVec.ofNat 32 (max r.pagesPeak.toNat used), poisoned := if e.poisoned then satAdd r.poisoned 1 else r.poisoned
      codedBytes := addN r.codedBytes coded.length, farEntries := if e.far then satAdd r.farEntries 1 else r.farEntries } }

/-- Marked beats of a stash point, and the operand whose rows they are. -/
def State.pointBeats (s : State) (m : MicroBatch) (i : Nat) (pre : Bool) : Option (Operand × List (List Byte × Bool)) :=
  if pre then
    match (s.op i).map Op.body, s.train.preRows.find? fun e => e.op == i && e.mb == m.mb && e.step == m.step with
    | some (OpBody.transform q), some e => (s.operand q.out).map fun y => (y, e.rows.flatMap fun r => s.preBeats y r.2)
    | _, _ => none
  else (s.operand i).map fun x => (x, (List.range x.m).flatMap (s.stashBeats m i x))

/-- R44, R132, R294, R301–R303, R305, R307. -/
def execStashEntry (region : Region) (index : BitVec 14) (pre : Bool) (mb : BitVec 10) (s : State) : Out :=
  .next <|
    let i := index.toNat
    match s.mbs.find? fun m => m.mb == mb.toNat && !m.dropped && !m.committed with
    | none => s
    | some m =>
      if regionOfMb m.mb ≠ region.val ∨ !(s.openPoints m).contains (i, pre) ∨ !s.pointReached m i pre then s else
      match s.pointBeats m i pre with
      | none => s
      | some (x, beats) =>
        let coded := codeBeats beats
        let coded := coded ++ List.replicate (roundUp coded.length 64 - coded.length) (0, false)
        let pages := ceilDiv (64 + coded.length) 4096
        let entry (far : Bool) (p : Nat) : StashEntry := ⟨region, far, p, pages, i, pre, m.mb, m.step, beats.any (·.2), 0⟩
        let s := if pre then s else s.noteReads (match s.rowPlace (some m) 0 i x 0 with
          | .own k => k
          | .remote _ => 0) (x.m * s.slotCfg.rowStride i x) (engineName region.val 3)
        let s := match s.freeRun false region.val pages, s.freeRun true region.val pages with
          | some p, _ => s.putEntry (entry false p) x (64 * beats.length) coded
          | none, some p => s.putEntry (entry true p) x (64 * beats.length) coded
          | none, none => s.markRecompute m
        ((s.release m.mb m.step).draw).settle

/-! ### Commit (R297, R298) -/

/-- Every backward part of a training micro-batch has completed (R297); where the step has none, every forward part (DESIGN CHOICE, log
entry 30). -/
def State.partsDone (s : State) (m : MicroBatch) : Bool :=
  let mine := s.slotCfg.ops.zipIdx.filter fun x => s.inPass false x.1
  let back := mine.filter (·.1.bwd)
  if back.isEmpty then mine.all fun x => s.partDone x.2 m.mb false else back.all fun x => s.partDone x.2 m.mb true

/-- A row of staged values goes into a gradient operand: stored where the operand was read since, else added (R297). -/
def State.commitRow (s : State) (fresh : Bool) (i : Nat) (x : Operand) (r : Nat) (vs : List (BitVec 32)) (poisoned : Bool) : State :=
  let old := f32s (s.rowVals none 0 i x r)
  let vals := if fresh then vs else addRows old vs
  s.writeRow none 0 i x r (valsOf vals) (poisoned || !fresh && s.rowPoisoned none 0 i x r)

/-- FP32 values in memory. -/
def State.f32At (s : State) (k n : Nat) : List (BitVec 32) :=
  let v := s.numAt k (4 * n)
  (List.range n).map fun j => BitVec.ofNat 32 (field v (32 * j) 32)

/-- Staged rows of an operation: gradient operand, row, values, poison, and whether dw_sq counts them (R296, R297, R315). -/
def State.stagedRows (s : State) (m : MicroBatch) (j : Nat) (o : Op) : List (Nat × Nat × List (BitVec 32) × Bool × Bool) :=
  let base := s.stagingBase m j o
  let row (g r k n : Nat) (tap : Bool) : Nat × Nat × List (BitVec 32) × Bool × Bool := (g, r, s.f32At k n, s.rangePoisoned k (4 * n), tap)
  match o.body with
  | .transform q => (s.operand q.w).elim [] fun w =>
      ((List.range w.m).filter (s.maskBit q)).map (fun r => row q.grad r (base + r * w.n * 4) w.n true) ++
        (if q.preGrad = noOperand then [] else [row q.preGrad 0 (base + roundUp (w.m * w.n * 4) 64) w.m true])
  | .normalise n => (s.operand n.affineGrad).elim [] fun x =>
      (List.range 2).map fun r => row n.affineGrad r (base + r * roundUp (4 * x.n) 64) x.n false
  | _ => []

/-- Sum of squares added to an FP64 sum, in order. -/
def addSquares (a : Word) (vs : List Word) : Word := vs.foldl (fun a v => add64 a (mul64 v v)) a

def TapSum.zero : TapSum := ⟨0, 0, 0, 0, 0, false⟩
def State.onTap (s : State) (layer : Nat) (f : TapSum → TapSum) : State :=
  s.onTrain fun t => { t with tapSums := insertKey layer (f ((lookupNat layer t.tapSums).getD TapSum.zero)) t.tapSums }

/-- Layer of an operation (R315). -/
def OpBody.layerOf : OpBody → Nat
  | .transform q => q.layer
  | .normalise n => n.layer
  | _ => 0

/-- One operation's staged gradients are committed. -/
def State.commitOp (s : State) (m : MicroBatch) (x : Op × Nat) : State :=
  if s.slotCfg.stagingBytes x.1 = 0 ∨ !s.opOccurs x.1 ∨ (pairOf x.2 m.staging).isNone then s else
  let rows := s.stagedRows m x.2 x.1
  let fresh := s.train.storeFirst
  let s := rows.foldl (fun s r => (s.operand r.1).elim s fun g => s.commitRow (fresh.contains r.1) r.1 g r.2.1 r.2.2.1 r.2.2.2.1) s
  let s := s.onTrain fun t => { t with storeFirst := t.storeFirst.filter fun i => !(rows.any fun r => r.1 == i) }
  s.onTap x.1.body.layerOf fun t => { t with dw := addSquares t.dw ((rows.filter (·.2.2.2.2)).flatMap fun r => r.2.2.1.map widen) }

/-- A micro-batch adds its counts to the step's (R297): stored where the gradients were read since. -/
def State.commitCounts (s : State) (m : MicroBatch) : State :=
  let nf := (m.nonFinite.map (·.2)).sum
  let s := s.onTrain fun t =>
    if t.storeFirst.contains noOperand then
      { t with samples := m.samples, loss := m.loss, nonFinite := nf, storeFirst := t.storeFirst.filter (· != noOperand) }
    else { t with samples := t.samples + m.samples, loss := add64 t.loss m.loss, nonFinite := t.nonFinite + nf }
  m.nonFinite.foldl (fun s x => s.onTap x.1 fun t => { t with nf := t.nf + x.2 }) s

/-- R81, R170, R297, R298, R315. -/
def execMicroBatchCommit (mb : BitVec 10) (s : State) : Out :=
  .next <|
    match s.mbs.find? fun m => m.mb == mb.toNat && !m.dropped && !m.committed with
    | none => s
    | some m =>
      let waits := s.cfg.sundial.det && s.mbs.any fun o => o.step == m.step && decide (o.mb < m.mb) && !o.dropped && !o.committed
      if !m.admitted ∨ !s.partsDone m ∨ waits then s else
      let s := s.slotCfg.ops.zipIdx.foldl (fun s x => s.commitOp m x) s
      let s := s.commitCounts m
      let s := s.onMb m.mb m.step fun m => { m with committed := true, staging := [], reruns := [] }
      let s := s.onTrain fun t => { t with preRows := t.preRows.filter fun e => !(e.mb == m.mb && e.step == m.step) }
      ((s.release m.mb m.step).settle).draw

/-! ### OPTIMIZE (R138, R309, R319, R337) -/

/-- cos(π x) in FP32: exact at 0 and 1 (R138). -/
def cosPi (x : BitVec 32) : BitVec 32 := if (v32 x).isZero then one32 else if x = one32 then minusOne32 else Config.cosPi x

/-- Learning rate at update `u` (R138): the warm-up, then the cosine, each operation of the formula in FP32. -/
def learningRate (sched : Nat) (consts : List (BitVec 32)) (u : Nat) : BitVec 32 :=
  let c (i : Nat) : BitVec 32 := consts.getD i 0
  let v (i : Nat) : Val := v32 (c i)
  if sched = 0 then c 0
  else if (ofInt u 0).lt (v 5) then div32 (mul32 (c 0) (nat32 (u + 1))) (c 5)
  else
    let q := div32 (r32 ((ofInt u 0).add (v 5).neg)) (c 6)
    let x := if (v32 one32).lt (v32 q) then one32 else q
    add32 (c 7) (mul32 (mul32 (sub32 (c 0) (c 7)) (add32 one32 (cosPi x))) (r32 (.fin false 1 (-1))))

/-- How an OPTIMIZE updates elements: method, learning rate, constants, u. -/
structure Update where
  method : Nat
  lr     : BitVec 32
  consts : List (BitVec 32)
  u      : Nat
  deriving DecidableEq, Repr

def State.updateOf (s : State) (j : Nat) (p : OptimizeOp) : Update :=
  let consts := (List.range 8).map (s.const32 p.consts)
  let u := s.updateCount j
  ⟨p.method, learningRate p.sched consts u, consts, u⟩

/-- A row after an update: values, first and second state; only the elements named take part. -/
def Update.row (w : Update) (at_ : List Nat) (vs gs s1 s2 : List (BitVec 32)) : List (BitVec 32) × List (BitVec 32) × List (BitVec 32) :=
  let sums := at_.map fun i => gs.getD i 0
  at_.foldl (fun acc i =>
    let r := Config.optimizerStep w.method w.lr w.consts w.u sums (vs.getD i 0) (gs.getD i 0) (s1.getD i 0) (s2.getD i 0)
    (setAt acc.1 i r.1, setAt acc.2.1 i r.2.1, setAt acc.2.2 i r.2.2)) (vs, s1, s2)

/-- Dense positions a stored row holds: every column, or those its metadata names (R275). -/
def Operand.positions (x : Operand) (row : Nat) : List Nat :=
  if x.sparsity = 0 then List.range x.n
  else (List.range (storedVals x.format x.sparsity x.n)).map (metaPos x.format x.sparsity x.n row) |>.filter (· < x.n)

/-- Bytes of a row with new values, its sparsity metadata kept (R275). -/
def Operand.encodeLike (x : Operand) (row : Nat) (vs : List Val) : List Byte :=
  if x.sparsity = 0 then x.encode rne vs
  else
    let n := storedVals x.format x.sparsity x.n
    let pos (j : Nat) : Nat := metaPos x.format x.sparsity x.n row j
    let val (j : Nat) : Val := vs.getD (pos j) (.fin false 0 0)
    let blocks := scaleBytes x.format x.sparsity x.n
    let scale (b : Nat) : Nat := mxBlockScale x.format (((List.range n).filter fun j => pos j / 32 == b).map val)
    let shift (j : Nat) : Int := if isMx x.format then 127 - (scale (pos j / 32) : Int) else if x.format = 4 ∨ x.format = 5 then -x.scale else 0
    let codes := pack ((List.range n).map fun j => (elemCode x.format .nearestEven ((val j).scale (shift j)), elemBits x.format))
    let vb := valueBytes x.format x.sparsity x.n
    let scales := pack ((List.range blocks).map fun b => (scale b, 8))
    let mb := metaBytes x.format x.sparsity x.n
    leBytes (codes + scales * 2 ^ (8 * vb) + field row (8 * (vb + blocks)) (8 * mb) * 2 ^ (8 * (vb + blocks))) x.rowBytes

/-- Whether an operation gives row `r` of a gradient operand a gradient: none where it does not write the operand (R138, R276). -/
def State.givesGrad (s : State) (g r : Nat) (o : Op) : Option Bool :=
  if !o.bwd then none else
  match o.body with
  | .transform q => if q.preGrad = g then some !q.frozen else if q.grad = g then some (!q.frozen && s.maskBit q r) else none
  | .normalise n => if n.affineGrad = g then some true else none
  | _ => none

/-- Every operation that writes a gradient operand leaves this row out: its mask bit is clear, or its weights are frozen (R138). -/
def State.rowMasked (s : State) (p : OptimizeOp) (r : Nat) : Bool :=
  let gs := s.slotCfg.ops.filterMap (s.givesGrad p.grad r)
  !gs.isEmpty && gs.all (! ·)

/-- A gradient operand has received a gradient since its last use (R138, R297): a commit on this device, or a reduction that delivered one. -/
def State.gradReceived (s : State) (g : Nat) : Bool :=
  !s.train.storeFirst.contains g || s.cascade.records.any fun r => r.1 == g && r.2.n != 0

/-- Any beat of a gradient row is poisoned (R357). -/
def State.gradPoisoned (s : State) (p : OptimizeOp) (r : Nat) : Bool := (s.operand p.grad).any fun g => s.rowPoisoned none 0 p.grad g r

/-- An operation reads a row: stored poison is counted (R396, R398). -/
def State.notePlace (s : State) (p : Place) (n : Nat) (c : CtxId) : State :=
  match p with
  | .own k => s.noteReads k n (s.nameOf c)
  | .remote _ => s

/-- Write a kind 2 row into the other buffer (R309). -/
def State.writeOther (s : State) (i : Nat) (x : Operand) (r : Nat) (bs : List Byte) (poisoned : Bool) : State :=
  s.placeStore (s.rowPlace none (s.weightVersion.toNat + 1) i x r) bs poisoned

/-- A kind 2 row and its state: updated, or copied from the live buffer (R138, R309, R357). -/
def State.updateDense (s : State) (c : CtxId) (p : OptimizeOp) (w : Update) (x : Operand) (r : Nat) : State :=
  let v := s.weightVersion.toNat
  let live (i : Nat) (y : Operand) : List (BitVec 32) := f32s (s.rowVals none v i y r)
  let state (i : Nat) : List (BitVec 32) := (s.operand i).elim (List.replicate x.n 0) (live i)
  let keep := s.rowMasked p r || s.gradPoisoned p r || !s.gradReceived p.grad
  let g := (s.operand p.grad).elim [] fun y => f32s (s.rowVals none 0 p.grad y r)
  let row := s.rowNum none v p.target x r
  let new := w.row (x.positions row) (live p.target x) g (state p.state1) (state p.state2)
  let put (s' : State) (i : Nat) (vs : List (BitVec 32)) : State := (s.operand i).elim s' fun y =>
    let s' := s'.notePlace (s.rowPlace none v i y r) y.rowBytes c
    let old := s.rowNum none v i y r
    s'.writeOther i y r (if keep then leBytes old y.rowBytes else y.encodeLike old (valsOf vs)) (s.rowPoisoned none v i y r)
  put (put (put s p.target new.1) p.state1 new.2.1) p.state2 new.2.2

/-- The step's sample count as the dense reductions delivered it (R240). -/
def State.stepSamples (s : State) : Nat :=
  match s.train.weirRecord with
  | some r => r.n.toNat
  | none => match s.cascade.records.find? fun r => s.slotCfg.gradOperands.contains r.1 with
    | some r => r.2.n.toNat
    | none => s.train.samples

/-- A table row with its state is written whole, and marked in its row maps (R138, R176, R451). -/
def State.writeTableRow (s : State) (t : TableDesc) (node : Nat) (bs : List Byte) (poisoned : Bool) : State :=
  (s.storeRow t false node 0 bs poisoned).markDirty t.id node

/-- A table row the device owns: its slot's row divided by the sample count is its gradient (R240, R242). -/
def State.updateSparse (s : State) (c : CtxId) (p : OptimizeOp) (w : Update) (t : TableDesc) (node : Nat) : State :=
  match s.slotOf t.id node with
  | none => s
  | some k =>
    let slot := s.slotRow t k
    if s.gather.skipped.contains t.id then s
    else if s.slotPoisoned k || slot.any (·.2) then
      (s.onGather fun g => { g with poisoned := satAdd g.poisoned 1 }).logDevice 0x0A2 (s.nameOf c) 0 0
    else
      let g := slot.map fun e => div32 e.1 (nat32 s.stepSamples)
      let key (t : TableDesc) : Option Nat := s.ownRowKey t false node
      let read (t : TableDesc) : List (BitVec 32) :=
        (key t).elim (List.replicate (t.cols + 1) 0) fun k => f32s (t.values (s.numAt k t.rowBytes))
      let bad (t : TableDesc) : Bool := (key t).any fun k => s.rangePoisoned k t.rowBytes
      let state (i : Nat) : Option TableDesc := s.slotCfg.tableOf s.cfg.tables i
      let zero := List.replicate (t.cols + 1) 0
      let new := w.row (List.range (t.cols + 1)) (read t) g ((state p.state1).elim zero read) ((state p.state2).elim zero read)
      let put (s' : State) (t : Option TableDesc) (vs : List (BitVec 32)) : State :=
        t.elim s' fun t => s'.writeTableRow t node (t.encode (valsOf vs)) (bad t)
      let s := ([some t, state p.state1, state p.state2].filterMap id).foldl (fun s t =>
        (key t).elim s fun k => s.noteReads k t.rowBytes (s.nameOf c)) s
      put (put (put s (some t) new.1) (state p.state1) new.2.1) (state p.state2) new.2.2

/-! ### Norm taps of an update (R315) -/

/-- Layer of the operation whose weight, bias or affine parameters an OPTIMIZE's target is. -/
def JobSlot.layerOfTarget (j : JobSlot) (i : Nat) : Option Nat :=
  j.ops.findSome? fun o => match o.body with
    | .transform q => if q.w = i ∨ q.preload = 1 ∧ q.pre = i then some q.layer else none
    | .normalise n => if n.affine = i then some n.layer else none
    | _ => none

/-- An OPTIMIZE of the step has written all its rows. -/
def State.hasWritten (s : State) (j : Nat) : Bool :=
  s.partDone j 4094 false || s.sched.any fun r => r.contexts.any fun x => x.2.op.toNat == j && x.2.state == 4 && x.2.step == s.dial.step && x.2.mb == 4094

/-- Squares that an OPTIMIZE with a kind 2 target adds, row by row: live values, gradients applied, differences written. -/
def State.tapRows (s : State) (p : OptimizeOp) (x : Operand) : List (List Word × List Word × List Word) :=
  let v := s.weightVersion.toNat
  (List.range x.m).map fun r =>
    let row := s.rowNum none v p.target x r
    let at_ := x.positions row
    let pick (vs : List Val) : List Word := at_.map fun i => widen (r32 (vs.getD i (.fin false 0 0)))
    let live := pick (x.values row)
    let new := pick (s.rowVals none (v + 1) p.target x r)
    let g := if s.rowMasked p r || s.gradPoisoned p r || !s.gradReceived p.grad then [] else (s.operand p.grad).elim [] fun y => pick (s.rowVals none 0 p.grad y r)
    (live, g, List.zipWith sub64 new live)

/-- The layer's sums over the updates written so far, in ascending OPTIMIZE index, row, element. -/
def State.tapLayer (s : State) (layer : Nat) : State :=
  let rows := s.slotCfg.ops.zipIdx.flatMap fun o => match o.1.body with
    | .optimize p =>
      if s.slotCfg.isKind p.target 2 && s.slotCfg.layerOfTarget p.target == some layer && s.opOccurs o.1 && s.hasWritten o.2
      then (s.operand p.target).elim [] (s.tapRows p) else []
    | _ => []
  s.onTap layer fun t => { t with
    w := addSquares 0 (rows.flatMap (·.1)), g := addSquares 0 (rows.flatMap (·.2.1)), u := addSquares 0 (rows.flatMap (·.2.2)), updated := true }

/-! ### The instance -/

/-- Holders of the version whose buffer is about to be written are cancelled (R313). -/
def State.cancelHolders (s : State) : State :=
  let v := s.weightVersion.toNat
  let old := s.mbs.filter fun m => m.started && !m.committed && !m.dropped && decide (m.weightV < v)
  let s := old.foldl (fun s m =>
    ((s.dropMb m.mb m.step).logDevice 0x0C0 (s.nameMb m) 1 0).onTrain fun t => { t with reclaimed := satAdd t.reclaimed 1 }) s
  if (s.target 0).active && decide ((s.target 0).version < v) then (s.abandonDrain 0).logDevice 0x0C0 noName 0 0 else s

/-- An OPTIMIZE instance has written every row, or is skipped (R319): its gradient counts as read (R297); u advances (R138); the taps and
WEIGHT_STATUS.written follow; requests for the table that waited are answered (R168). -/
def State.endOptimize (s : State) (c : CtxId) (j : Nat) (p : OptimizeOp) (wrote : Bool) : State :=
  let s := s.finish c
  let dense := s.slotCfg.isKind p.target 2
  let s := if dense then s.onTrain fun t => { t with storeFirst := insertNat noOperand (insertNat p.grad t.storeFirst) } else s
  let slot := s.run.slot.toNat
  let s := if wrote then
      let u := s.updateCount j
      s.onTrain fun t => { t with updates := t.updates.filter (fun x => !(x.1 == slot && x.2.1 == j)) ++ [(slot, j, u + 1)] }
    else s
  let s := if wrote && dense then
      let s := (s.slotCfg.layerOfTarget p.target).elim s s.tapLayer
      s.onTrain fun t => { t with written := s.weightUpdates.all s.hasWritten }
    else s
  match s.slotCfg.tableOf s.cfg.tables p.target with
  | some tb => (s.onTables fun x => { x with updating := x.updating.filter (· != tb.id) }).answerHeldRows
  | none => s

/-- Rows of a sub-item (R337). -/
def subRows (rows sub : Nat) : List Nat := (List.range rows).filter fun r => sub * rows / 32 ≤ r && r < (sub + 1) * rows / 32

/-- R33, R136, R138, R156, R168, R176, R236, R240, R242, R309, R313, R315, R319, R337, R357, R451, R452. -/
def execOptimize (ctx : CtxId) (sub : Fin 32) (s : State) : Out :=
  .next <| s.runItem ctx false fun t o s =>
    match o.body with
    | .optimize p =>
      let j := t.op.toNat
      if s.train.skip then s.endOptimize ctx j p false
      else if t.subs.contains sub.val || (s.freeSpout (sub.val % 4) (some ctx)).isNone then s
      else
        let w := s.updateOf j p
        let table := s.slotCfg.tableOf s.cfg.tables p.target
        if table.isSome && (s.target 0).active && (s.target 0).step == s.dial.step.toNat && !(s.target 0).bodySent then s else
        let s : State := match table, s.operand p.target with
          | some tb, _ =>
            let mine := ((s.ownRows.filter fun x => x.1 == tb.id).map (·.2)).filter fun n =>
              sub.val * (tb.nodes + 1) / 32 ≤ n && n < (sub.val + 1) * (tb.nodes + 1) / 32
            mine.foldl (fun s n => s.updateSparse ctx p w tb n) s
          | none, some x =>
            let s := if t.subs.isEmpty then s.cancelHolders else s
            let rows := subRows x.m sub.val
            let s := (s.operand p.grad).elim s fun y => rows.foldl (fun s r => s.notePlace (s.rowPlace none 0 p.grad y r) y.rowBytes ctx) s
            let s := rows.foldl (fun s r => s.updateDense ctx p w x r) s
            if rows.any (s.gradPoisoned p) then s.logDevice 0x0E3 (s.nameOf ctx) 0 0 else s
          | none, none => s
        let t' := { t with subs := t.subs ++ [sub.val] }
        let s := s.setCtx ctx t'
        (if t'.subs.length = 32 then s.endOptimize ctx j p true else s).draw
    | _ => s

end Sys2Proof.Machine
end

