-- ==== Sys2Proof/Machine/Cascade.lean ====
section
/-! DEFINITION. Cascade (R348–R371): instances and their chains, count records, data phases in ring order, line folds, proxies, delivery;
the Weir decision a delivery makes (R317–R319). -/

namespace Sys2Proof.Machine

/-! ### Instances and chains (R350, R351, R354) -/

/-- A REDUCE instance as this device runs it: tensor, op, wire format, mean, axis, engine, ring size, the rows it acts on, columns, whether
it heads its chain, the axis of the chain's first instance. -/
structure Reduction where
  tensor : Nat
  op     : Nat
  wire   : Nat
  mean   : Bool
  axis   : Nat
  engine : Nat
  n      : Nat
  lo     : Nat
  hi     : Nat
  cols   : Nat
  head   : Bool
  first  : Nat
  deriving DecidableEq, Repr

/-- Axis of a REDUCE (R64). -/
def State.reduceAxis (s : State) (o : Op) : Nat := field ((s.dialEntry o.entry).elim 0 (·.param)) 0 2

/-- A tensor's chain in the step, in ascending index: operation, REDUCE.op (R351). -/
def State.chainOf (s : State) (tensor : Nat) : List (Nat × Op × Nat) :=
  s.slotCfg.ops.zipIdx.filterMap fun x => match x.1.body with
    | .reduce t op _ _ => if t = tensor ∧ s.opOccurs x.1 then some (x.2, x.1, op) else none
    | _ => none

/-- Rows of chunk `j` of a range cut for `n` members (R354). -/
def chunkOf (lo hi n j : Nat) : Nat × Nat :=
  let h := ceilDiv (hi - lo) n
  let a := min (lo + j * h) hi
  (a, min (a + h) hi)

/-- Rows that instance `j` of a chain acts on (R354): this device's chunk of every op 1 still open; an op 2 acts where its op 1 did. -/
def State.rangeOf (s : State) (tensor rows j : Nat) : Nat × Nat :=
  let step (acc : (Nat × Nat) × List (Nat × Nat × Nat)) (x : Nat × Op × Nat) : (Nat × Nat) × List (Nat × Nat × Nat) :=
    let axis := s.reduceAxis x.2.1
    if x.2.2 = 1 then (chunkOf acc.1.1 acc.1.2 (s.axisDim axis) (s.axisPos axis), (axis, acc.1.1, acc.1.2) :: acc.2)
    else if x.2.2 = 2 then match lookupNat axis acc.2 with
      | some r => (r, acc.2.filter fun y => y.1 != axis)
      | none => acc
    else acc
  let chain := s.chainOf tensor
  let before := (chain.filter fun x => decide (x.1 < j)).foldl step ((0, rows), [])
  match chain.find? fun x => x.1 == j with
  | some x => if x.2.2 = 2 then (lookupNat (s.reduceAxis x.2.1) before.2).getD before.1 else before.1
  | none => before.1

def State.reduction (s : State) (j : Nat) : Option Reduction :=
  match s.op j with
  | some o => match o.body with
    | .reduce t op wire mean =>
      (s.operand t).map fun x =>
        let axis := s.reduceAxis o
        let range := s.rangeOf t x.m j
        let first := ((s.chainOf t).head?).elim (j, axis) fun y => (y.1, s.reduceAxis y.2.1)
        { tensor := t, op := op, wire := wire, mean := mean, axis := axis, engine := field ((s.dialEntry o.entry).elim 0 (·.param)) 2 1
          n := s.axisDim axis, lo := range.1, hi := range.2, cols := x.n, head := first.1 == j, first := first.2 }
    | _ => none
  | none => none

/-! ### Elements, segments, wire format (R355) -/

/-- First element and count of chunk `c`, within the range. -/
def Reduction.chunk (r : Reduction) (c : Nat) : Nat × Nat :=
  let x := chunkOf r.lo r.hi r.n c
  ((x.1 - r.lo) * r.cols, (x.2 - x.1) * r.cols)

/-- Elements of a 4 KiB segment and of a 64-byte flit in wire format. -/
def Reduction.segElems (r : Reduction) : Nat := 32768 / elemBits r.wire
def Reduction.flitElems (r : Reduction) : Nat := 512 / elemBits r.wire

/-- Segments of a chunk; an empty chunk travels as one segment without data, for its count record. -/
def Reduction.segs (r : Reduction) (c : Nat) : Nat := max 1 (ceilDiv (r.chunk c).2 r.segElems)

/-- Elements of a segment: first within the range, count. -/
def Reduction.seg (r : Reduction) (c g : Nat) : Nat × Nat :=
  let x := r.chunk c
  (x.1 + g * r.segElems, min r.segElems (x.2 - g * r.segElems))

/-- An FP32 value as the wire carries it, and back. -/
def toWire (wire : Nat) (v : BitVec 32) : Nat := elemCode wire .nearestEven (v32 v)
def fromWire (wire code : Nat) : BitVec 32 := r32 (elemVal wire code)
def overWire (wire : Nat) (v : BitVec 32) : BitVec 32 := fromWire wire (toWire wire v)

def Reduction.encode (r : Reduction) (vs : List (BitVec 32)) : List Flit :=
  let w := elemBits r.wire
  flitsOf (leBytes (pack (vs.map fun v => (toWire r.wire v, w))) (vs.length * w / 8))

def Reduction.decode (r : Reduction) (n : Nat) (data : List Flit) : List (BitVec 32) :=
  let w := elemBits r.wire
  let v := ofLe (data.flatMap flitBytes)
  (List.range n).map fun i => fromWire r.wire (field v (w * i) w)

/-! ### Count records (R353) -/

def zeroRecord : CountRecord := ⟨0, 0, 0, 0, 0, false⟩

/-- Fold a member's record into the one that arrives. -/
def foldRecord (a b : CountRecord) : CountRecord :=
  ⟨a.n + b.n, add64 a.loss b.loss, a.nf + b.nf, add64 a.q b.q, a.d + b.d, a.absent || b.absent⟩

/-- Sum of squares in FP64, in ascending order. -/
def squares (vs : List Word) : Word := vs.foldl (fun a v => add64 a (mul64 v v)) 0

/-- The record a head enters with (R353, R368): the device's step values and its own squared mean-gradient norm. -/
def State.headRecord (s : State) (own : List (BitVec 32)) : CountRecord :=
  let n := s.train.samples
  { n := BitVec.ofNat 48 n, loss := s.train.loss, nf := BitVec.ofNat 48 s.train.nonFinite
    q := if n = 0 then 0 else squares (own.map fun v => div64 (widen v) (nat64 n)), d := if n = 0 then 0 else 1, absent := false }

/-- What a member contributes (R362, R364): nothing where it is withdrawn; an absence at a head is marked. -/
def CascadeRun.goneAt (x : CascadeRun) (p : Nat) : Bool := x.withdrawn.contains p
def CascadeRun.gone (x : CascadeRun) : Bool := x.goneAt x.pos
def CascadeRun.ownRecord (x : CascadeRun) (r : Reduction) : CountRecord :=
  let absent := r.head && (!x.lost.isEmpty || !x.withdrawn.isEmpty)
  if x.gone then { zeroRecord with absent := true } else { x.record with absent := x.record.absent || absent }

/-- Own elements of a segment, and the flits of it that are poisoned. -/
def CascadeRun.ownSeg (x : CascadeRun) (r : Reduction) (c g : Nat) : List (BitVec 32) :=
  let e := r.seg c g
  if x.gone then List.replicate e.2 0 else (x.own.drop e.1).take e.2
def CascadeRun.ownMarks (x : CascadeRun) (r : Reduction) (c g : Nat) : List Nat :=
  let e := r.seg c g
  if x.gone then [] else
  ((x.ownPoison.filter fun i => decide (e.1 ≤ i ∧ i < e.1 + e.2)).map fun i => (i - e.1) / r.flitElems).eraseDups

/-! ### Sending -/

def State.onProxyRun (s : State) (e : Nat) (f : CascadeRun → CascadeRun) : State :=
  s.onEngine e fun x => { x with proxyRun := x.proxyRun.map f }
def State.onMember (s : State) (e : Nat) (proxy : Bool) (f : CascadeRun → CascadeRun) : State :=
  if proxy then s.onProxyRun e f else s.onCascadeRun e f
def State.member (s : State) (e : Nat) (proxy : Bool) : Option CascadeRun := if proxy then (s.engine e).proxyRun else (s.engine e).run

/-- A member of a ring with its instance. -/
def State.memberOf (s : State) (e : Nat) (proxy : Bool) : Option (CascadeRun × Reduction) :=
  (s.member e proxy).bind fun x => (s.reduction x.op).map fun r => (x, r)

/-- Words 1–7 of a CASCADE header (R425). -/
def cascadeRest (h : CascadeHeader) : Nat :=
  let r := h.record
  pack [(h.entry.toNat, 10), (h.axis.toNat, 2), (h.op.toNat, 2), (bit h.engine, 1), (bit h.phase, 1), (h.hop.toNat, 4), (h.chunk.toNat, 4),
    (h.restarts.toNat, 8), (h.seg.toNat, 16), (h.stepLo.toNat, 16), (h.poison.toNat, 64), (r.n.toNat, 48), (r.d.toNat, 16), (r.loss.toNat, 64),
    (r.nf.toNat, 48), (bit h.proxy, 1), (0, 15), (r.q.toNat, 64), (bit r.absent, 1)]

/-- Where a member's packets in a direction go (R364, R420): port, destination, proxy flag. -/
def State.ringWay (s : State) (x : CascadeRun) (r : Reduction) (proxy plus : Bool) : Nat × Coord × Bool :=
  let next := (x.pos + (if plus then 1 else r.n - 1)) % r.n
  let side := s.axisDim r.first
  if proxy then
    -- the proxy stands one + step along the proxy axis: the ring it serves lies one step back
    let ring := withAxis s.coord r.first ((s.axisPos r.first + side - 1) % side)
    (s.axisPort r.axis plus, withAxis ring r.axis next, true)
  else if !r.head && r.op != 3 && x.lost.contains next then
    (s.axisPort r.first true, withAxis (withAxis s.coord r.axis next) r.first ((s.axisPos r.first + 1) % side), true)
  else (s.axisPort r.axis plus, withAxis s.coord r.axis next, false)

/-- Queue a packet on a ring port that is up. -/
def State.sendRing (s : State) (p : Nat) (k : Packet) : State := if s.portUp p then s.sendPacket p k else s

/-- Header of a member's packet: phase, hop, chunk, segment, poison map, record. -/
def State.cascadeHeader (s : State) (e : Nat) (x : CascadeRun) (r : Reduction) (proxied phase : Bool) (hop c g marks : Nat) (cnt : CountRecord) :
    CascadeHeader :=
  { src := s.coord, lgen := (s.engine e).generation, entry := BitVec.ofNat 10 ((s.op x.op).elim 0 (·.entry)), axis := BitVec.ofNat 2 r.axis
    op := BitVec.ofNat 2 r.op, engine := e == 1, phase := phase, hop := BitVec.ofNat 4 hop, chunk := BitVec.ofNat 4 c
    restarts := BitVec.ofNat 8 x.restarts, seg := BitVec.ofNat 16 g, stepLo := BitVec.ofNat 16 s.dial.step.toNat, poison := BitVec.ofNat 64 marks
    proxy := proxied, record := cnt }

def cascadePacket (h : CascadeHeader) (dest : Coord) (data : List Flit) : Packet :=
  ⟨6, headerFlit (torusWord0 0x10 6 data.length dest h.src h.lgen.toNat 0) (cascadeRest h) :: data⟩

/-- Send one segment (R355, R425). -/
def State.sendSeg (s : State) (e : Nat) (proxy plus phase : Bool) (hop c g : Nat) (vals : List (BitVec 32)) (marks : List Nat) (cnt : CountRecord) : State :=
  match s.memberOf e proxy with
  | none => s
  | some (x, r) =>
    let way := s.ringWay x r proxy plus
    let h := s.cascadeHeader e x r way.2.2 phase hop c g ((marks.map fun i => 2 ^ i).sum) (if g = 0 then cnt else zeroRecord)
    s.sendRing way.1 (cascadePacket h way.2.1 (r.encode vals))

/-! ### Delivery (R353, R356, R365, R368) -/

/-- A ring runs as a line fold about its lost member (R364). -/
def CascadeRun.lineAt (x : CascadeRun) (r : Reduction) : Option Nat := if r.head && r.op != 3 then x.lost.head? else none

/-- Chunks an instance writes on a member. -/
def Reduction.chunksOut (r : Reduction) (pos : Nat) : List Nat := if r.op = 1 then [pos] else List.range r.n

/-- A member has sent and received all that its part takes (R63). -/
def CascadeRun.complete (x : CascadeRun) (r : Reduction) : Bool :=
  let has (c : Nat) : Bool := (List.range (r.segs c)).all fun g => x.finals.any fun f => f.1 == c && f.2.1 == g
  let took (c : Nat) : Bool := (List.range (r.segs c)).all fun g => x.seen.contains (0, c, g)
  if r.n = 1 then true
  else if r.op = 1 && (x.lineAt r).isNone then
    has x.pos && (List.range r.n).all fun c => c == (x.pos + r.n - 1) % r.n || took c
  else (List.range r.n).all has && x.delivered.isSome

/-- The delivered record: that of chunk 0's fold; in a reduce-scatter the members' records in the order of chunk 0. -/
def CascadeRun.deliveredRecord (x : CascadeRun) (r : Reduction) : CountRecord :=
  if r.n = 1 then x.ownRecord r
  else if r.op = 1 && (x.lineAt r).isNone then
    let of (q : Nat) : CountRecord := if q = x.pos then x.ownRecord r else (lookupNat q x.others).getD zeroRecord
    (List.range (r.n - 1)).foldl (fun a i => foldRecord a (of ((i + 2) % r.n))) (of 1)
  else x.delivered.getD zeroRecord

/-- Hops of a data phase by which a member receives (R355, R364): phase and chunk. -/
def CascadeRun.hops (x : CascadeRun) (r : Reduction) : List (Nat × Nat) :=
  let all (phase : Nat) (on : Nat → Bool) : List (Nat × Nat) := ((List.range r.n).filter on).map fun c => (phase, c)
  match x.lineAt r with
  | some k => all 0 (fun _ => x.pos != (k + 1) % r.n) ++ all 1 (fun _ => x.pos != (k + r.n - 1) % r.n)
  | none => (if r.op = 2 then [] else all 0 (· != (x.pos + r.n - 1) % r.n)) ++ (if r.op = 1 then [] else all 1 (· != x.pos))

/-- Hops completed of those of the data phase (R376): every segment of the chunk has arrived. -/
def CascadeRun.denseProgress (x : CascadeRun) (r : Reduction) : BitVec 16 :=
  let done (p : Nat × Nat) : Bool := (List.range (r.segs p.2)).all fun g => x.seen.contains (p.1, p.2, g)
  fraction ((x.hops r).filter done).length (x.hops r).length

/-- Elements of a chunk as delivered. -/
def CascadeRun.chunkVals (x : CascadeRun) (r : Reduction) (c : Nat) : List (BitVec 32) :=
  (List.range (r.segs c)).flatMap fun g => ((x.finals.find? fun f => f.1 == c && f.2.1 == g).map (·.2.2)).getD []

/-- Divide by the delivered count (R356). -/
def Reduction.meaned (r : Reduction) (n : Nat) (vs : List (BitVec 32)) : List (BitVec 32) :=
  if !r.mean then vs else vs.map fun v => if n = 0 then 0 else div32 v (nat32 n)

/-- Write the result in place, poison by 64-byte beat (R33, R350, R357). -/
def State.writeResult (s : State) (x : CascadeRun) (r : Reduction) (n : Nat) : State :=
  match s.operand r.tensor with
  | none => s
  | some y =>
    let bad (i : Nat) : Bool := x.poison.any fun p => decide (p.1 ≤ i ∧ i < p.1 + p.2)
    (r.chunksOut x.pos).foldl (fun s c =>
      let e := r.chunk c
      let vs := r.meaned n (x.chunkVals r c)
      (List.range (e.2 / r.cols)).foldl (fun s i =>
        let first := e.1 + i * r.cols
        s.storeBeats (s.rowPlace none 0 r.tensor y (r.lo + first / r.cols)) (y.encode rne (valsOf ((vs.drop (i * r.cols)).take r.cols))) fun b =>
          (List.range 16).any fun j => decide (16 * b + j < r.cols) && bad (first + 16 * b + j)) s) s

/-- The first coordinate a notice named (R365, R513). -/
def State.namedAbsent (s : State) (x : CascadeRun) (r : Reduction) : Nat :=
  ((x.lost ++ x.withdrawn).head?).elim 0 fun p => coordNum (withAxis s.coord r.axis p)

/-- 0x0E1, once per chain (R82, R365). -/
def State.noteAbsent (s : State) (e : Nat) (x : CascadeRun) (r : Reduction) (cnt : CountRecord) : State :=
  if !cnt.absent then s else
  let s := s.onEngine e fun y => { y with absent := satAdd y.absent 1 }
  let s := if s.cascade.absentLog.contains r.tensor then s else
    (s.logDevice 0x0E1 noName 0 (pack [(r.axis, 2), (cnt.n.toNat, 48), (s.namedAbsent x r, 12)])).onCascade fun c =>
      { c with absentLog := insertNat r.tensor c.absentLog }
  s.lapse

/-! ### The Weir decision (R317–R320) -/

/-- Flag of a step: 0 none, 1 non-finite, 2 spike. -/
def State.weirFlag (s : State) (l : Word) (f : Nat) : Nat :=
  let t := s.slotCfg.training
  let bound := add64 s.train.weirMu (max64 (mul64 (div64 (nat64 t.weirK) (nat64 16)) s.train.weirSigma) (widen t.spikeFloor))
  if decide (0 < f) && t.nfFlag || !(v64 l).isFinite then 1
  else if decide (t.weirWarmup ≤ s.train.weirClean.toNat) && lt64 bound l then 2
  else 0

/-- A step without a flag moves the averages. -/
def State.weirClear (s : State) (l : Word) : State :=
  let a := div64 (nat64 s.slotCfg.training.weirAlpha) (nat64 256)
  s.onTrain fun t => { t with
    weirMu := if t.weirClean = 0 then l else add64 t.weirMu (mul64 a (sub64 l t.weirMu))
    weirSigma := if t.weirClean = 0 then 0 else add64 t.weirSigma (mul64 a (sub64 (abs64 (sub64 l t.weirMu)) t.weirSigma))
    weirClean := satAdd t.weirClean 1, rollbacks := 0 }

/-- A flag (R319, R320). -/
def State.weirRaise (s : State) (kind : Nat) (l : Word) : State :=
  let s := s.logDevice 0x0C2 noName 0 (kind + l.toNat * 2 ^ 32)
  let s := s.onTrain fun t => { t with flagged := true, weirFlags := satAdd t.weirFlags 1 }
  match s.slotCfg.header.weirAction with
  | 0 => s
  | 1 => s.onTrain fun t => { t with skip := true }
  | _ =>
    let s := s.onTrain fun t => { t with skip := true }
    if s.train.rollbacks.toNat ≥ s.slotCfg.training.rollbackMax then (s.logDevice 0x0C3 noName 0 0).haltAtBoundary 4
    else s.onTrain fun t => { t with rollback := true, rollbacks := t.rollbacks + 1 }

/-- The Weir instance delivers. -/
def State.weirDecide (s : State) (cnt : CountRecord) : State :=
  let n := cnt.n.toNat
  let s := s.onTrain fun t => { t with weirRecord := some cnt, decided := true }
  if n = 0 then (s.onTrain fun t => { t with skip := true, lastFlag := 3 }).replayCheck none 0 else
  let l := div64 cnt.loss (nat64 n)
  let flag := s.weirFlag l cnt.nf.toNat
  let s := s.onTrain fun t => { t with weirLoss := l, weirCount := BitVec.ofNat 32 n, lastFlag := BitVec.ofNat 2 flag }
  let s := if flag = 0 then s.weirClear l else s.weirRaise flag l
  s.replayCheck (some l) n

/-- An instance is the step's Weir instance. -/
def State.isWeir (s : State) (x : CascadeRun) (r : Reduction) : Bool :=
  r.op == 0 && r.mean && !s.train.decided && s.weirEntry == (s.op x.op).map (·.entry) &&
    s.slotCfg.ops.any fun o => match o.body with
      | .transform q => q.grad == r.tensor
      | _ => false

/-- Chains that R369 counts: those that end in an op 0 with mean and have no op 1. -/
def State.countChain (s : State) (x : CascadeRun) (r : Reduction) (cnt : CountRecord) : State :=
  if r.op ≠ 0 ∨ !r.mean ∨ (s.chainOf r.tensor).any (fun y => y.2.2 == 1) then s else
  let sums := (List.range r.n).map fun c => squares ((r.meaned cnt.n.toNat (x.chunkVals r c)).map widen)
  s.onCascade fun c => { c with chains := c.chains ++ [(x.op, cnt, sums.foldl add64 0)] }

/-- A member's instance ends: the engine is free and its work item has run to its end. -/
def State.endRun (s : State) (e : Nat) (x : CascadeRun) : State :=
  ((s.onEngine e fun y => { y with running := false, instances := y.instances + 1, progress := 0xFFFF }).finish x.ctx).settle

/-- A dense instance of this device's own delivers once its part is complete; none does while a restart is due. -/
def State.deliver (s : State) (e : Nat) : State :=
  match s.memberOf e false with
  | none => s
  | some (x, r) =>
    if !(s.engine e).running || x.restartAt.isSome || !x.complete r then s else
    let cnt := x.deliveredRecord r
    let s := s.writeResult x r cnt.n.toNat
    let s := s.onCascade fun c => { c with records := insertKey r.tensor cnt c.records }
    let s := s.noteAbsent e x r cnt
    let s := s.countChain x r cnt
    let s := if s.isWeir x r then s.weirDecide cnt else s
    s.endRun e x

/-! ### Data phases (R355, R356, R364) -/

/-- Positions of a ring whose contribution is present (R376). -/
def CascadeRun.presentMap (x : CascadeRun) (r : Reduction) : BitVec 16 :=
  BitVec.ofNat 16 (((List.range r.n).map fun p => if x.goneAt p || (r.head || r.op == 3) && x.lost.contains p then 0 else 2 ^ p).sum)

/-- Every segment of a chunk, sent from a member's own contribution. -/
def State.sendOwn (s : State) (e : Nat) (proxy plus phase : Bool) (c : Nat) (cnt : CountRecord) : State :=
  match s.memberOf e proxy with
  | none => s
  | some (x, r) => (List.range (r.segs c)).foldl (fun s g => s.sendSeg e proxy plus phase 0 c g (x.ownSeg r c g) (x.ownMarks r c g) cnt) s

/-- Store a final segment with its poisoned flits. -/
def State.storeFinal (s : State) (e : Nat) (proxy : Bool) (r : Reduction) (c g : Nat) (vals : List (BitVec 32)) (marks : List Nat) : State :=
  let at_ := r.seg c g
  s.onMember e proxy fun x => { x with
    finals := x.finals ++ [(c, g, vals)]
    poison := x.poison ++ marks.map fun i => (at_.1 + i * r.flitElems, min r.flitElems (at_.2 - i * r.flitElems)) }

/-- The record of chunk 0 is the delivered one. -/
def State.storeRecord (s : State) (e : Nat) (proxy : Bool) (c g : Nat) (cnt : CountRecord) : State :=
  if c = 0 ∧ g = 0 then s.onMember e proxy fun x => { x with delivered := some cnt } else s

/-- Own chunk as final: narrowed to the wire, except in a ring of 1 (R348, R356). -/
def State.ownFinal (s : State) (e : Nat) (proxy : Bool) (c : Nat) : State :=
  match s.memberOf e proxy with
  | none => s
  | some (x, r) =>
    let s := (List.range (r.segs c)).foldl (fun s g =>
      s.storeFinal e proxy r c g (if r.n = 1 then x.ownSeg r c g else (x.ownSeg r c g).map (overWire r.wire)) (x.ownMarks r c g)) s
    s.storeRecord e proxy c 0 (x.ownRecord r)

/-- A dense data phase begins. -/
def State.startDense (s : State) (e : Nat) (proxy : Bool) : State :=
  match s.memberOf e proxy with
  | none => s
  | some (x, r) =>
    let cnt := x.ownRecord r
    if x.lost.contains x.pos then s
    else if r.n = 1 then s.ownFinal e proxy 0
    else match x.lineAt r with
    | some k =>
      if (k + 1) % r.n ≠ x.pos then s
      else if r.n = 2 then (List.range 2).foldl (fun s c => s.ownFinal e proxy c) s
      else (List.range r.n).foldl (fun s c => s.sendOwn e proxy true false c cnt) s
    | none =>
      if r.op = 2 then (s.ownFinal e proxy x.pos).sendOwn e proxy true true x.pos cnt
      else s.sendOwn e proxy true false ((x.pos + r.n - 1) % r.n) cnt

/-- A member's addition to a partial (R356, R362): nothing where it is withdrawn; the first contribution starts the sum. `before` are the
members ahead of it. -/
def CascadeRun.added (x : CascadeRun) (r : Reduction) (before : List Nat) (c g : Nat) (vals : List (BitVec 32)) : List (BitVec 32) :=
  if x.gone then vals
  else if before.all x.goneAt then x.ownSeg r c g
  else (addRows vals (x.ownSeg r c g)).map (overWire r.wire)

/-- A partial arrives (phase 0). -/
def State.takePartial (s : State) (e : Nat) (proxy : Bool) (x : CascadeRun) (r : Reduction) (h : CascadeHeader) (vals : List (BitVec 32))
    (marks : List Nat) : State :=
  let c := h.chunk.toNat
  let g := h.seg.toNat
  let hop := h.hop.toNat
  let marks := (marks ++ x.ownMarks r c g).eraseDups
  let line := x.lineAt r
  let start := line.elim (c + 1) (· + 1)
  let ahead := (x.pos + r.n - start % r.n) % r.n
  let vals := x.added r ((List.range ahead).map fun i => (start + i) % r.n) c g vals
  let cnt := foldRecord h.record (x.ownRecord r)
  match line with
  | some _ =>
    if ahead + 2 < r.n then s.sendSeg e proxy true false (hop + 1) c g vals marks cnt
    else ((s.storeFinal e proxy r c g (vals.map (overWire r.wire)) marks).storeRecord e proxy c g cnt).sendSeg e proxy false true 0 c g vals marks cnt
  | none =>
    -- a reduce-scatter passes on each member's record; an all-reduce folds them along the chunk
    let s := if r.op = 1 ∧ g = 0 then s.onMember e proxy fun y => { y with others := insertKey ((x.pos + 2 * r.n - 1 - hop) % r.n) h.record y.others } else s
    let cnt := if r.op = 1 then h.record else cnt
    if c ≠ x.pos then s.sendSeg e proxy true false (hop + 1) c g vals marks cnt
    else
      let s := s.storeFinal e proxy r c g (vals.map (overWire r.wire)) marks
      if r.op = 1 then s else (s.storeRecord e proxy c g cnt).sendSeg e proxy true true 0 c g vals marks cnt

/-- A final segment arrives (phase 1). -/
def State.takeFinal (s : State) (e : Nat) (proxy : Bool) (x : CascadeRun) (r : Reduction) (h : CascadeHeader) (vals : List (BitVec 32))
    (marks : List Nat) : State :=
  let c := h.chunk.toNat
  let g := h.seg.toNat
  let s := (s.storeFinal e proxy r c g vals marks).storeRecord e proxy c g h.record
  match x.lineAt r with
  | some k => if (k + 1) % r.n = x.pos then s else s.sendSeg e proxy false true (h.hop.toNat + 1) c g vals marks h.record
  | none => if h.hop.toNat + 2 < r.n then s.sendSeg e proxy true true (h.hop.toNat + 1) c g vals marks h.record else s

/-- A dense segment of a member's ring is taken. -/
def State.takeDense (s : State) (e : Nat) (proxy : Bool) (h : CascadeHeader) (data : List Flit) : State :=
  match s.memberOf e proxy with
  | none => s
  | some (x, r) =>
    let c := h.chunk.toNat
    let g := h.seg.toNat
    if r.n ≤ c ∨ r.segs c ≤ g ∨ x.lost.contains x.pos then s else
    let vals := r.decode (r.seg c g).2 data
    let marks := (List.range data.length).filter fun i => h.poison.getLsbD i
    let s := s.onMember e proxy fun x => { x with seen := x.seen ++ [(bit h.phase, c, g)] }
    let s := if proxy then s else s.onEngine e fun y => { y with progress := y.run.elim y.progress fun x => x.denseProgress r }
    let s := if h.phase then s.takeFinal e proxy x r h vals marks else s.takePartial e proxy x r h vals marks
    if proxy then s else s.deliver e

end Sys2Proof.Machine
end

