-- ==== Sys2Proof/Machine/Combine.lean ====
section
/-! DEFINITION. The sparse-row combine (R359, R360, R367): slots and their targets, lower and upper runs, the exchange of x_own rows. -/

namespace Sys2Proof.Machine

/-! ### Slots and targets -/

/-- Coordinate on an axis of the device that owns a row under the active bank (R359). -/
def State.targetOn (s : State) (t : TableDesc) (node axis : Nat) : Option Nat :=
  match s.lookup t node with
  | .row owner _ _ => some (axisOf owner axis)
  | _ => none

/-- The row lies in a range with x_own = 1. -/
def State.rowShared (s : State) (t : TableDesc) (node : Nat) : Bool :=
  match s.lookup t node with
  | .row _ e _ => e.xOwn
  | _ => false

/-- Axes a sparse chain takes before one (R352). -/
def axesBefore (axis : Nat) : List Nat := if axis = 1 then [] else if axis = 2 then [1] else [1, 2]

/-- Slots of the step that the device has not sent on an earlier axis: table, node, key. -/
def State.heldSlots (s : State) (axis : Nat) : List (TableDesc × Nat × Nat) :=
  match s.slotArea with
  | none => []
  | some a =>
    let at_ (i : Nat) : Option (TableDesc × Nat × Nat) :=
      let k := a.1 + i * s.slotBytes
      if s.slotCurrent k then (s.table (s.slotTable k)).map fun t => (t, s.slotNode k, k) else none
    ((List.range (8 * a.2)).filterMap at_).filter fun x =>
      (axesBefore axis).all fun b => s.targetOn x.1 x.2.1 b == some (s.axisPos b)

/-- A slot as it travels, from its elements. -/
def slotFrom (t : TableDesc) (node count : Nat) (met : Bool) (es : List Elem) : SparseSlot :=
  let fmt := returnRowFormat t
  let mark (j : Nat) : Bool := es.zipIdx.any fun e => e.1.2 && e.2 * elemBits fmt / 512 == j
  { table := BitVec.ofNat 8 t.id, node := BitVec.ofNat 40 node, count := BitVec.ofNat 32 (min count 0xFFFFFFFF), poisoned := met || es.any (·.2)
    marks := BitVec.ofNat 64 (((List.range 64).filter mark).map fun j => 2 ^ j).sum
    row := leBytes (encodeRow fmt 0 rne (valsOf (es.map (·.1)))) (rowSize fmt 0 (t.cols + 1)) }

/-- Elements of a slot that travels. -/
def slotElems (t : TableDesc) (x : SparseSlot) : List Elem :=
  let fmt := returnRowFormat t
  let n := t.cols + 1
  elemsOf fmt n ((List.range n).map (denseVal fmt n 0 (ofLe x.row))) fun j => x.marks.getLsbD j

/-- Two rows added in FP32 and narrowed to the slot format (R235). -/
def addSlotRows (t : TableDesc) (a b : List Elem) : List Elem := slotElems t (slotFrom t 0 0 false (addElems a b))

def State.slotOut (s : State) (x : TableDesc × Nat × Nat) : SparseSlot :=
  slotFrom x.1 x.2.1 (s.slotCount x.2.2) (s.slotPoisoned x.2.2) (s.slotRow x.1 x.2.2)

/-- What a member adds to a run for a target; on X no row of an x_own range. -/
def State.slotsFor (s : State) (axis target : Nat) : List SparseSlot :=
  ((s.heldSlots axis).filter fun x => s.targetOn x.1 x.2.1 axis == some target && !(axis == 0 && s.rowShared x.1 x.2.1)).map s.slotOut

def sameRow (a b : SparseSlot) : Bool := a.table == b.table && a.node == b.node

/-- A member folds its slots into those that arrive. -/
def State.foldRun (s : State) (arriving own : List SparseSlot) : List SparseSlot :=
  own.foldl (fun acc o =>
    if acc.any (sameRow o) then acc.map fun a =>
      if sameRow o a then (s.table a.table.toNat).elim a fun t =>
        slotFrom t a.node.toNat (a.count.toNat + o.count.toNat) (a.poisoned || o.poisoned) (addSlotRows t (slotElems t a) (slotElems t o))
      else a
    else acc ++ [o]) arriving

/-! ### Runs (R360, R367) -/

/-- Positions of a ring that are not lost. -/
def CascadeRun.present (x : CascadeRun) (r : Reduction) : List Nat := (List.range r.n).filter fun p => !x.lost.contains p

/-- Members that a run passes, the first to the target: the lower run rises to it; the upper run rises, then passes the lower positions. -/
def routeTo (present : List Nat) (target : Nat) (upper : Bool) : List Nat :=
  let below := present.filter (· < target)
  let above := present.filter (target < ·)
  if upper then (if above.isEmpty then [] else above ++ below ++ [target]) else if below.isEmpty then [] else below ++ [target]

/-- The member after a position. -/
def nextOf : List Nat → Nat → Option Nat
  | a :: b :: rest, p => if a = p then some b else nextOf (b :: rest) p
  | _, _ => none

/-- Flits of a slot and the poison of each. -/
def State.slotFlits (s : State) (x : SparseSlot) : List (Flit × Bool) :=
  let header := pack [(x.node.toNat, 40), (x.table.toNat, 8), (bit x.poisoned, 1), (0, 15), (s.dial.step.toNat, 48), (0, 16), (x.count.toNat, 32)]
  (BitVec.ofNat 512 header, false) :: (flitsOf x.row).zipIdx.map fun f => (f.1, x.marks.getLsbD f.2)

/-- Send slots to a neighbour, 64 flits a packet. -/
def State.sendSlots (s : State) (e : Nat) (plus phase : Bool) (hop c : Nat) (slots : List SparseSlot) : State :=
  match s.memberOf e false with
  | none => s
  | some (x, r) =>
    let way := s.ringWay x r false plus
    let flits := slots.flatMap s.slotFlits
    (List.range (max 1 (ceilDiv flits.length 64))).foldl (fun s g =>
      let part := (flits.drop (64 * g)).take 64
      let marks := (part.zipIdx.map fun f => bit f.1.2 * 2 ^ f.2).sum
      let h := s.cascadeHeader e x r false phase hop c g marks zeroRecord
      s.sendRing way.1 (cascadePacket h way.2.1 (part.map (·.1)))) s

/-- Send a run on: in the + direction, or back past the lost member to the next one, relayed with hop 2 or 3. -/
def State.sendRun (s : State) (e : Nat) (x : CascadeRun) (r : Reduction) (target : Nat) (upper : Bool) (slots : List SparseSlot) : State :=
  match nextOf (routeTo (x.present r) target upper) x.pos with
  | none => s
  | some q =>
    if q = (x.pos + 1) % r.n then s.sendSlots e true false (bit upper) target slots
    else s.sendSlots e false false (2 + bit upper) target slots

/-- A sparse data phase begins: the first member of each run sends it; on X each member sends its x_own slots to all. -/
def State.startSparse (s : State) (e : Nat) : State :=
  match s.memberOf e false with
  | none => s
  | some (x, r) =>
    if x.lost.contains x.pos then s else
    let mine (o : Nat) : List SparseSlot := if x.gone then [] else s.slotsFor r.axis o
    let s' := ((x.present r).filter (· != x.pos)).foldl (fun (s' : State) o => [false, true].foldl (fun (s' : State) u =>
      if (routeTo (x.present r) o u).head? = some x.pos then s'.sendRun e x r o u (mine o) else s') s') s
    if r.axis ≠ 0 ∨ r.n = 1 then s' else
    let shared := if x.gone then [] else ((s.heldSlots 0).filter fun y => s.rowShared y.1 y.2.1).map s.slotOut
    let plus := (x.pos + 1) % r.n
    let minus := (x.pos + r.n - 1) % r.n
    let s' := if x.lost.contains plus then s' else s'.sendSlots e true true 0 x.pos shared
    if x.lost.isEmpty ∨ x.lost.contains minus then s' else s'.sendSlots e false true 0 x.pos shared

/-! ### Delivery -/

/-- Hops by which a member receives (R359, R360): the runs that pass or end here, and on X every other member's x_own slots. -/
def CascadeRun.sparseHops (x : CascadeRun) (r : Reduction) : List (Nat × Nat × Nat) :=
  let passes (o : Nat) (u : Bool) : Bool :=
    let route := routeTo (x.present r) o u
    route.contains x.pos && route.head? != some x.pos
  (x.present r).flatMap fun o =>
    ((([false, true] : List Bool).filter (passes o)).map fun u => (bit u, o, 0)) ++ (if r.axis = 0 ∧ o ≠ x.pos then [(2, o, 0)] else [])

def CascadeRun.sparseDone (x : CascadeRun) (r : Reduction) : Bool := (x.sparseHops r).all fun h => x.seen.contains h

/-- Hops completed of those of the data phase (R376). -/
def CascadeRun.sparseProgress (x : CascadeRun) (r : Reduction) : BitVec 16 :=
  fraction ((x.sparseHops r).filter fun h => x.seen.contains h).length (x.sparseHops r).length

def State.showSparse (s : State) (e : Nat) (r : Reduction) : State :=
  s.onEngine e fun y => { y with progress := y.run.elim y.progress fun x => x.sparseProgress r }

/-- A row arrives at its target's slot; the owner counts its contributions (R240). -/
def State.takeRow (s : State) (x : SparseSlot) (t : TableDesc) (count : Nat) (es : List Elem) (combine : List Elem → List Elem → List Elem) : State :=
  s.foldCounted t x.node.toNat count x.poisoned es combine

/-- (lower + own) + upper at the target. -/
def State.applyRun (s : State) (upper : Bool) (x : SparseSlot) : State :=
  match s.table x.table.toNat with
  | none => s
  | some t => s.takeRow x t x.count.toNat (slotElems t x) (if upper then addElems else fun own new => addElems new own)

/-- Rows of an x_own range fold in ascending x on every member. -/
def State.applyShared (s : State) (x : CascadeRun) : State :=
  let rows := (x.shared.map (·.2)).foldl (fun (acc : List SparseSlot) y => if acc.any (sameRow y) then acc else acc ++ [y]) []
  rows.foldl (fun s y => match s.table y.table.toNat with
    | none => s
    | some t =>
      let others := x.shared.filter fun z => sameRow y z.2
      let own := (s.slotOf t.id y.node.toNat).toList.filter (fun _ => !x.gone) |>.map fun k => (x.pos, s.slotRow t k)
      let all := sortBy (·.1) (own ++ others.map fun z => (z.1, slotElems t z.2))
      let sum := match all.map (·.2) with
        | [] => []
        | a :: as => as.foldl (addSlotRows t) a
      s.takeRow { y with poisoned := others.any fun z => z.2.poisoned } t ((others.map fun z => z.2.count.toNat).sum) sum fun _ new => new) s

/-- The instance ends once its part is complete. -/
def State.deliverSparse (s : State) (e : Nat) : State :=
  match s.memberOf e false with
  | none => s
  | some (x, r) =>
    if !(s.engine e).running || x.restartAt.isSome || !x.sparseDone r then s else
    let apply (u : Bool) (s : State) : State := ((x.slots.filter fun y => y.1 == u).map (·.2)).foldl (fun s y => s.applyRun u y) s
    ((apply true (apply false s)).applyShared x).endRun e x

/-- A member's slots arrive. -/
def State.takeSparse (s : State) (e : Nat) (port : Nat) (h : CascadeHeader) (slots : List SparseSlot) : State :=
  match s.memberOf e false with
  | none => s
  | some (x, r) =>
    let c := h.chunk.toNat
    if r.n ≤ c ∨ x.lost.contains x.pos then s else
    if h.phase then
      let plus := decide (port % 2 = 1)
      let next := (x.pos + (if plus then 1 else r.n - 1)) % r.n
      let s := s.onCascadeRun e fun y => { y with seen := y.seen ++ [(2, c, 0)], shared := y.shared ++ slots.map fun z => (c, z) }
      let s := s.showSparse e r
      (if next = c ∨ r.n = 2 ∨ x.lost.contains next then s else s.sendSlots e plus true (h.hop.toNat + 1) c slots).deliverSparse e
    else
      let upper := h.hop.getLsbD 0
      let s := (s.onCascadeRun e fun y => { y with seen := y.seen ++ [(bit upper, c, 0)] }).showSparse e r
      let s := if c = x.pos then s.onCascadeRun e fun y => { y with slots := y.slots ++ slots.map fun z => (upper, z) }
        else
          let adds := !x.gone && (!upper || decide (c < x.pos))
          s.sendRun e x r c upper (if adds then s.foldRun slots (s.slotsFor r.axis c) else slots)
      s.deliverSparse e

end Sys2Proof.Machine
end

