-- ==== Sys2Proof/Machine/Collective.lean ====
section
/-! DEFINITION. REDUCE and what reaches its instance (R350–R367, R373): packets, presence flits, lost neighbours, notices, restarts. -/

namespace Sys2Proof.Machine

/-! ### Packets -/

/-- Entry that governs a member's instance. -/
def State.entryOfRun (s : State) (x : CascadeRun) : Nat := (s.op x.op).elim 0 (·.entry)

/-- A packet belongs to a member's instance. -/
def State.belongs (s : State) (x : CascadeRun) (r : Reduction) (h : CascadeHeader) : Bool :=
  s.entryOfRun x == h.entry.toNat && r.axis == h.axis.toNat && r.op == h.op.toNat && h.stepLo.toNat == s.dial.step.toNat % 65536

/-- Note a flit from a neighbour (R361). -/
def State.noteHeard (s : State) (entry : Nat) (port : Nat) : State :=
  s.onCascade fun c => { c with heard := insertKey (2 * entry + bit (port % 2 == 0)) s.dialTime c.heard }

/-- Keep a packet until its instance or data phase begins. -/
def State.keepEarly (s : State) (k : CascadePacket) : State := s.onCascade fun c => { c with early := c.early ++ [k] }

/-- Key of a packet in a data phase. -/
def packetKey (h : CascadeHeader) : Nat × Nat × Nat :=
  if h.op = 3 then (if h.phase then 2 else bit (h.hop.getLsbD 0), h.chunk.toNat, 0) else (bit h.phase, h.chunk.toNat, h.seg.toNat)

/-- A packet goes to this device's own instance, or to the ring it serves as a proxy: there it came along the ring axis (R364). A data phase
to come keeps it; one gone by, or a second copy, drops it. -/
def State.takeCascade (s : State) (k : CascadePacket) : State :=
  let h := k.h
  let e := bit h.engine
  let proxy := h.proxy && k.port.val / 2 == h.axis.toNat
  let s := if h.proxy then s else s.noteHeard h.entry.toNat k.port.val
  match s.memberOf e proxy with
  | none => s.keepEarly k
  | some (x, r) =>
    if !s.belongs x r h then s.keepEarly k
    else
      let ahead := (h.restarts - BitVec.ofNat 8 x.restarts).toNat
      let relay := decide (h.op = 3) && !h.phase && h.hop.getLsbD 1 && x.lost.head?.any fun l => (l + 1) % r.n != x.pos
      if ahead ≠ 0 then (if ahead < 128 then s.keepEarly k else s)
      else if relay then s.sendSlots e false false h.hop.toNat h.chunk.toNat k.slots
      else if x.seen.contains (packetKey h) || !proxy && !(s.engine e).running then s
      else if h.op = 3 then s.takeSparse e k.port.val h k.slots
      else s.takeDense e proxy h k.data

/-- Packets that waited are taken in order of arrival. -/
def State.replayEarly (s : State) : State :=
  s.cascade.early.foldl (fun s k => s.takeCascade k) (s.onCascade fun c => { c with early := [] })

/-- R7, R33, R82, R132, R235, R236, R240, R317–R320, R350, R353–R357, R359, R360, R362, R365, R367, R368, R373, R420, R425, R458. A device
whose slot does not run relays nothing (R361). -/
def execCascade (port : Port) (h : CascadeHeader) (data : List Flit) (slots : List SparseSlot) (s : State) : Out :=
  .next <|
    if !s.dialRuns || s.run.run != 2 || !s.portUp port.val then s
    else if h.lgen ≠ s.tables.generation then (s.logDevice 0x0E4 noName 0 0).haltAtBoundary 4
    else (s.takeCascade ⟨port, h, data, slots⟩).draw

/-! ### Beginning an instance -/

/-- This device's contribution (R350): elements of its rows, and the elements whose beat is poisoned. A gradient that no commit has
reached since its last use contributes zeros (R297, R298). -/
def State.ownContribution (s : State) (r : Reduction) : List (BitVec 32) × List Nat :=
  match s.operand r.tensor with
  | none => ([], [])
  | some x =>
    let count := (r.hi - r.lo) * r.cols
    if r.op = 3 then ([], [])
    else if r.head && s.train.storeFirst.contains r.tensor then (List.replicate count 0, [])
    else
      let place (i : Nat) : Place := (s.rowPlace none 0 r.tensor x (r.lo + i / r.cols)).plus (4 * (i % r.cols))
      ((List.range (r.hi - r.lo)).flatMap fun i => f32s (s.rowVals none 0 r.tensor x (r.lo + i)),
        (List.range count).filter fun i => s.placePoisoned (place i) 4)

/-- CASCADE_STATUS as a data phase begins (R376). -/
def State.showPhase (s : State) (e : Nat) (x : CascadeRun) (r : Reduction) : State :=
  s.onEngine e fun y => { y with
    present := x.presentMap r, progress := 0, line := (x.lineAt r).isSome, proxy := !r.head && r.op != 3 && !x.lost.isEmpty }

/-- A data phase of this device's own instance begins. -/
def State.startPhase (s : State) (e : Nat) : State :=
  match s.memberOf e false with
  | none => s
  | some (x, r) =>
    let s := s.showPhase e x r
    (if r.op = 3 then (s.startSparse e).deliverSparse e else (s.startDense e false).deliver e).replayEarly

/-! ### Notices (R363, R366) -/

/-- Position in the ring of the coordinate a notice names; its key among those told. -/
def HeldNotice.key (n : HeldNotice) (axis : Nat) : Nat := axisOf n.coord axis * 65536 + n.restart % 65536 + bit n.split * 2 ^ 24

/-- A notice's restart position as a time. -/
def State.noticeTime (s : State) (restart : Nat) : Nat :=
  let base := s.dial.step.toNat * 65536
  if restart < s.dial.pos.toNat then base + 65536 + restart else base + restart

/-- The later of a pending restart and another. -/
def laterOf (a : Option Nat) (b : Nat) : Option Nat := some (a.elim b fun x => max x b)

/-- A notice about this device's own ring takes effect. -/
def State.applyNotice (s : State) (e : Nat) (axis : Nat) (n : HeldNotice) : State :=
  if n.split then s.haltAtBoundary 4 else
  if !(s.engine e).running then s else
  let p := axisOf n.coord axis
  s.onCascadeRun e fun x => { x with
    lost := if n.cause = 0 then insertNat p x.lost else x.lost
    withdrawn := if n.cause = 1 then insertNat p x.withdrawn else x.withdrawn
    restartAt := laterOf x.restartAt (s.noticeTime n.restart) }

/-- This device serves as a proxy of a lost member (R364): it runs the member's ring from its own equal input, from the restart position. -/
def State.serveProxy (s : State) (e : Nat) (x : CascadeRun) (k : Nat) (restart : Nat) : State :=
  let at' := s.noticeTime restart
  match (s.engine e).proxyRun with
  | some y =>
    if y.op = x.op ∧ y.pos = k then s.onProxyRun e fun y => { y with restartAt := laterOf y.restartAt at' } else s
  | none => s.onEngine e fun y => { y with
      proxied := satAdd y.proxied 1
      proxyRun := some { x with
        pos := k, lost := [], withdrawn := [], restartAt := some at', restarts := 0, told := [], finals := [], poison := [], delivered := none
        others := [], slots := [], shared := [], seen := [] } }

/-- The engine that has begun the instance of an entry. -/
def State.engineOf (s : State) (entry : Nat) : Option (Nat × CascadeRun) :=
  ([0, 1] : List Nat).findSome? fun e => ((s.engine e).run.filter fun x => s.entryOfRun x == entry).map fun x => (e, x)

/-- The first REDUCE an entry governs. -/
def State.reductionOf (s : State) (entry : Nat) : Option Reduction :=
  (s.slotCfg.ops.zipIdx.find? fun o => o.1.entry == entry && o.1.body.unit == 6).bind fun o => s.reduction o.2

/-- A notice passes on along the ring, out of the opposite port (R363); in a ring of 2 it has reached both. -/
def State.forwardNotice (s : State) (axis : Nat) (n : HeldNotice) (f : Flit) : State :=
  if s.axisDim axis = 2 then s else s.sendFlit (if n.port.val % 2 = 0 then n.port.val + 1 else n.port.val - 1) f

/-- A notice between a ring and its proxy (R364): it came along the proxy axis, and goes along the ring axis to the proxy. -/
def State.proxyNotice (s : State) (r : Reduction) (n : HeldNotice) (f : Flit) : State :=
  let k := axisOf n.coord r.axis
  let p := s.axisPos r.axis
  if p = k then
    match s.engineOf n.entry with
    | some (e, x) => s.serveProxy e x k n.restart
    | none => s.onCascade fun c => { c with notices := c.notices ++ [n] }
  else if n.port.val / 2 ≠ r.first then s
  else if (p + 1) % r.n = k then s.sendFlit (s.axisPort r.axis true) f
  else if (k + 1) % r.n = p then s.sendFlit (s.axisPort r.axis false) f
  else s

/-- A notice arrives: forwarded once; it takes effect, or waits for its instance to begin. -/
def State.takeNotice (s : State) (n : HeldNotice) : State :=
  let f := noticeFlit n.split n.coord n.cause n.restart n.entry s.dial.step.toNat
  match s.reductionOf n.entry with
  | none => s
  | some r =>
    if withAxis n.coord r.axis 0 = withAxis s.coord r.axis 0 then
      let key := n.key r.axis
      match s.engineOf n.entry with
      | some (e, x) =>
        if x.told.contains key then s else
        ((s.onCascadeRun e fun x => { x with told := insertNat key x.told }).forwardNotice r.axis n f).applyNotice e r.axis n
      | none =>
        if s.cascade.notices.any fun m => m.entry == n.entry && m.key r.axis == key then s else
        (s.onCascade fun c => { c with notices := c.notices ++ [n] }).forwardNotice r.axis n f
    else if n.split || withAxis (withAxis n.coord r.axis 0) r.first ((axisOf n.coord r.first + 1) % s.axisDim r.first) ≠ withAxis s.coord r.axis 0
    then s
    else s.proxyNotice r n f

/-- Notices that waited for an instance take effect as it begins. -/
def State.replayNotices (s : State) (e : Nat) (r : Reduction) (entry : Nat) : State :=
  let mine := s.cascade.notices.filter fun n => n.entry == entry
  let s := s.onCascade fun c => { c with notices := c.notices.filter fun n => n.entry != entry }
  mine.foldl (fun s n =>
    if withAxis n.coord r.axis 0 = withAxis s.coord r.axis 0 then
      (s.onCascadeRun e fun x => { x with told := insertNat (n.key r.axis) x.told }).applyNotice e r.axis n
    else (s.member e false).elim s fun x => s.serveProxy e x (axisOf n.coord r.axis) n.restart) s

/-- R363, R366, R428. -/
def execNotice (port : Port) (step : BitVec 48) (split : Bool) (coord : Coord) (cause : BitVec 2) (restart : BitVec 16) (entry : BitVec 10)
    (s : State) : Out :=
  .next <|
    if !s.dialRuns || s.run.run != 2 || !s.portUp port.val || step != s.dial.step then s
    else s.takeNotice ⟨port, split, coord, cause.toNat, restart.toNat, entry.toNat⟩

/-! ### REDUCE -/

/-- The operation's gradient counts as read (R297). -/
def State.noteReduced (s : State) (tensor : Nat) : State :=
  if s.slotCfg.gradOperands.contains tensor then s.onTrain fun t => { t with storeFirst := insertNat noOperand (insertNat tensor t.storeFirst) }
  else s

/-- An instance begins on its engine: what the device contributes, its record, a withdrawal that is due (R69, R357). -/
def State.beginReduce (s : State) (ctx : CtxId) (j : Nat) (o : Op) (r : Reduction) : State :=
  let e := r.engine
  let own := s.ownContribution r
  let cnt := if r.op = 3 then zeroRecord else if r.head then s.headRecord own.1 else (lookupNat r.tensor s.cascade.records).getD zeroRecord
  let run : CascadeRun :=
    { ctx := ctx, op := j, pos := s.axisPos r.axis, opened := s.dial.step.toNat * 65536 + (s.dialEntry o.entry).elim 0 (·.opens), lost := []
      withdrawn := [], restartAt := none, restarts := 0, told := [], own := own.1, ownPoison := own.2, record := cnt, finals := [], poison := []
      delivered := none, others := [], slots := [], shared := [], seen := [] }
  let s := s.onEngine e fun y => { y with
    axis := BitVec.ofNat 2 r.axis, op := BitVec.ofNat 2 r.op, running := true, entry := BitVec.ofNat 10 o.entry, generation := s.tables.generation
    run := some run, proxyRun := none }
  let s := s.noteReduced r.tensor
  let s := if r.head && !own.2.isEmpty then
      let carried := (s.mbs.filter fun m => m.committed && !m.dropped && decide (m.mb < 1024)).length
      ((s.logDevice 0x0E3 (s.nameOf ctx) carried 0).dropCarried).withdraw e
    else if s.cascade.withdrawn.contains j then s.withdraw e
    else s
  (s.replayNotices e r o.entry).startPhase e

/-- R136, R317, R350, R353–R357, R368. -/
def execReduce (ctx : CtxId) (s : State) : Out :=
  .next <| s.runItem ctx false fun t o s =>
    let j := t.op.toNat
    match s.reduction j with
    | none => s
    | some r =>
      let begun := (s.engine r.engine).run.any fun x => x.ctx == ctx && x.op == j && x.opened / 65536 == s.dial.step.toNat
      if begun || (s.engine r.engine).running then s else (s.beginReduce ctx j o r).draw

/-! ### Presence and loss (R361) -/

/-- R361, R428. -/
def execPresence (port : Port) (step : BitVec 48) (entry : BitVec 10) (axis : BitVec 2) (_engine : Bool) (s : State) : Out :=
  .next <|
    if !s.dialRuns || !s.portUp port.val || step != s.dial.step || port.val / 2 != axis.toNat then s
    else s.noteHeard entry.toNat port.val

/-- R361, R363, R466: a neighbour whose port is down, or that sent nothing for 768 positions, is lost; notices go both ways, and to the
proxy of a follower's lost member (R364). -/
def execCascadeNeighbourLost (engine : Fin 2) (plus : Bool) (s : State) : Out :=
  .next <|
    let e := engine.val
    match s.memberOf e false with
    | none => s
    | some (x, r) =>
      let p := s.axisPort r.axis plus
      let nb := (x.pos + (if plus then 1 else r.n - 1)) % r.n
      let last := (lookupNat (2 * s.entryOfRun x + bit (p % 2 == 0)) s.cascade.heard).getD x.opened
      if !(s.engine e).running || r.n == 1 || (r.n == 2 && !plus) || x.lost.contains nb then s
      else if (s.port p).state ≠ 4 ∧ s.dialTime < max last x.opened + 768 then s
      else
        let at' := s.restartTime
        let coord := withAxis s.coord r.axis nb
        let s := s.onCascadeRun e fun x => { x with
          lost := insertNat nb x.lost, restartAt := laterOf x.restartAt at', told := insertNat (nb * 65536 + at' % 65536) x.told }
        let s := s.sendNotice e false coord 0 at'
        if r.head || r.op == 3 || s.axisDim r.first == 1 then s
        else s.sendFlit (s.axisPort r.first true)
          (noticeFlit false coord 0 (at' % 65536) (s.entryOfRun x) s.dial.step.toNat)

/-! ### Restarts (R363, R364, R366) -/

/-- A data phase is abandoned. -/
def CascadeRun.again (x : CascadeRun) : CascadeRun :=
  { x with restartAt := none, restarts := x.restarts + 1, finals := [], poison := [], delivered := none, others := [], slots := [], shared := [],
           seen := [] }

/-- No proxy holds a lost member's input: the first axis of the chain has dimension 1, is the ring's own, or stands under an open op 1. -/
def State.noProxy (s : State) (x : CascadeRun) (r : Reduction) : Bool :=
  let open_ := (s.chainOf r.tensor).foldl (fun (acc : List Nat) y =>
    if x.op ≤ y.1 then acc else if y.2.2 = 1 then s.reduceAxis y.2.1 :: acc else if y.2.2 = 2 then acc.filter (· != s.reduceAxis y.2.1) else acc) []
  s.axisDim r.first == 1 || r.first == r.axis || open_.contains r.first

/-- The ring cannot close (R364, R366): 0x0E2, a split notice, no result. -/
def State.splitRing (s : State) (e : Nat) (x : CascadeRun) (r : Reduction) : State :=
  let coord := withAxis s.coord r.axis (x.lost.headD x.pos)
  let s := (s.logDevice 0x0E2 noName 0 0).sendNotice e true coord 2 0
  (s.onEngine e fun y => { y with running := false }).haltAtBoundary 4

/-- This device's own instance restarts. -/
def State.restartOwn (s : State) (e : Nat) : State :=
  match s.memberOf e false with
  | none => s
  | some (x, r) =>
    let s := (s.onCascadeRun e CascadeRun.again).onEngine e fun y => { y with restarts := satAdd y.restarts 1 }
    if 2 ≤ x.lost.length || !x.lost.isEmpty && !r.head && r.op != 3 && s.noProxy x r then s.splitRing e x r else s.startPhase e

/-- R363, R364, R366: what is due at this position restarts, this device's own ring and the one it serves as a proxy. -/
def execCascadeRestart (engine : Fin 2) (s : State) : Out :=
  .next <|
    let e := engine.val
    let due (x : CascadeRun) : Bool := x.restartAt.any fun t => decide (t ≤ s.dialTime)
    let own := (s.engine e).running && (s.engine e).run.any due
    let other := (s.engine e).proxyRun.any due
    let s := if own then s.restartOwn e else s
    if other then ((s.onProxyRun e CascadeRun.again).startDense e true).replayEarly else s

end Sys2Proof.Machine
end

