-- ==== Sys2Proof/Machine/Staging.lean ====
section
/-! DEFINITION. Staging a new image and the end of flash programs (R114–R117, R343, R438, R497). -/

namespace Sys2Proof.Machine

/-- Bytes of an image slot (R85). -/
def imageSlotBytes : Nat := 29360128

/-- A staging request: held while role 1 has no core, except in refusal mode, where no role runs (R113, R343). -/
def State.stagingRequest (s : State) (h : HkHeader) (c : Instr) (flitsOk : Bool) (fs : List (Nat × Nat)) (act : State → State) : State :=
  s.request h true flitsOk fs fun s => if s.start.refused || s.roleUp 1 then act s else s.hold c

def State.onStaging (s : State) (f : StagingState → StagingState) : State := { s with staging := f s.staging }

/-- The slot that is not active (R114). -/
def State.inactiveSlot (s : State) : Bool := !(s.flash.directory.elim false (·.active))

/-- Begin a program or erase that owes a completion. -/
def State.startFlash (s : State) (w : FlashWork) : State := s.onStaging fun g => { g with busy := g.busy ++ [w] }

/-- R114: the inactive slot is erased; a second open is 0x064. -/
def State.openStaging (s : State) (h : HkHeader) : State :=
  if s.staging.open_ then s.complete h 0x064
  else (s.onStaging fun g => { g with open_ := true, phase := 1, code := 0, progress := 0, bytes := 0 }).startFlash
    ⟨.stageErase, some h.tag, s.inactiveSlot, 0, []⟩

/-- R114, R115: a write before open, during verification or outside the slot is 0x065. -/
def State.writeStaging (s : State) (h : HkHeader) (offset : Nat) (data : List Flit) : State :=
  if ¬ s.staging.open_ ∨ s.staging.phase ≠ 1 ∨ offset + 64 * data.length > imageSlotBytes then s.complete h 0x065
  else s.startFlash ⟨.stageWrite, some h.tag, s.inactiveSlot, offset, data.flatMap flitBytes⟩

/-- R114, R115: a commit without open is 0x065. -/
def State.commitStaging (s : State) (h : HkHeader) : State :=
  if ¬ s.staging.open_ ∨ s.staging.phase ≠ 1 then s.complete h 0x065
  else s.onStaging fun g => { g with phase := 2, progress := 0, commitTag := some h.tag }

/-- R115: the session ends without a pending slot. A commit still verifying ends with it. -/
def State.discardStaging (s : State) (h : HkHeader) : State :=
  let s := match s.staging.commitTag with
    | some t => (s.sendCompletion t 0x065 0 []).countError 0x065
    | none => s
  (s.onStaging fun g => { g with open_ := false, phase := 0, progress := 0, commitTag := none }).startFlash
    ⟨.discard, some h.tag, false, 0, []⟩

/-- R114, R115, R438. -/
def execStageOpen (h : HkHeader) (s : State) : Out :=
  .next <| s.stagingRequest h (.stageOpen h) (h.flits == 0) [] fun s => s.openStaging h

/-- R114, R115, R438: a multiple of 4 flits at a multiple of 256 bytes. -/
def execStageWrite (h : HkHeader) (offset : BitVec 32) (data : List Flit) (s : State) : Out :=
  .next <| s.stagingRequest h (.stageWrite h offset data) (decide (4 ≤ h.flits.toNat ∧ h.flits.toNat % 4 = 0))
    (faultIf (offset.toNat % 256 != 0) 64 0x108) fun s => s.writeStaging h offset.toNat data

/-- R114, R116: verification starts; the completion follows it. -/
def execStageCommit (h : HkHeader) (s : State) : Out :=
  .next <| s.stagingRequest h (.stageCommit h) (h.flits == 0) [] fun s => s.commitStaging h

/-- R115. -/
def execStageDiscard (h : HkHeader) (s : State) : Out :=
  .next <| s.stagingRequest h (.stageDiscard h) (h.flits == 0) [] fun s => s.discardStaging h

/-- Steps 0x06–0x08 on the staged bytes, against this device (R114): the first fault. -/
def State.checkStaged (s : State) : Option Nat :=
  let b := s.flash.image s.inactiveSlot
  match checkVerify b with
  | some f => some f.code
  | none =>
    if (parseHeader (b.num 0 64)).securityVersion < s.rollbackFloor then some 0x056
    else (checkContent b s.facts).map (·.code)

/-- What the verification of the staged bytes leaves: the inactive slot pending, or a rejection with its code. -/
def State.endVerify (s : State) (r : Option Nat) : State :=
  match r with
  | none =>
    { s with
      flash := { s.flash.writeDirectory (!s.inactiveSlot) (some s.inactiveSlot) with failedFrom := s.start.startCount.toNat + 1, memo := none }
      start := { s.start with failedRun := 0 }
      staging := { s.staging with phase := 3, progress := 0xFFFF } }
  | some code =>
    ({ s with staging := { s.staging with phase := 4, progress := 0, code := BitVec.ofNat 12 code } }).countError code

/-- R114, R116, R107, R112: on success the directory names the slot as pending, failed_run clears and the training memo
starts anew; a rejection stands in STAGE_STATUS.code. -/
def execStageCommitDone (s : State) : Out :=
  .next <| match s.staging.commitTag with
  | none => s
  | some tag =>
    if !s.staging.busy.isEmpty then s
    else ((s.endVerify s.checkStaged).onStaging fun g => { g with open_ := false, commitTag := none }).sendCompletion tag 0 0 []

/-- Write bytes into an image slot. -/
def writeImage (cells : List Host.Cell) (off : Nat) : List Byte → List Host.Cell
  | [] => cells
  | b :: bs =>
    let cells := if b = 0xFF then cells.filter (·.1 != off) else insertKey off b cells
    writeImage cells (off + 1) bs

/-- What a flash program leaves when it ends (R114, R115). -/
def State.endFlash (s : State) (w : FlashWork) : State :=
  let noPending (f : FlashState) : FlashState :=
    match f.directory.bind (·.pending) with
    | some _ => f.writeDirectory (f.directory.elim false (·.active)) none
    | none => f
  let onSlot (f : FlashState) (g : List Host.Cell → List Host.Cell) : FlashState :=
    if w.slot then { f with slot1 := g f.slot1 } else { f with slot0 := g f.slot0 }
  match w.job with
  | .stageErase => { s with flash := onSlot (noPending s.flash) fun _ => [] }
  | .stageWrite =>
    { s with
      flash := onSlot s.flash fun c => writeImage c w.offset w.bytes
      staging := { s.staging with bytes := addN s.staging.bytes w.bytes.length } }
  | .discard => { s with flash := noPending s.flash }
  | _ => s

/-- R114, R115, R497: the program ends, its completion is sent where one is owed, and the interface is free. A program that
failed leaves the flash as it was; its completion carries 0x066. -/
def execFlashProgramDone (job : FlashJob) (ok : Bool) (s : State) : Out :=
  .next <| match s.staging.busy with
  | [] => s
  | w :: rest =>
    if w.job ≠ job then s else
    let s := s.onStaging fun g => { g with busy := rest }
    let s := if ok then s.endFlash w else s
    match w.tag with
    | none => s
    | some t => if ok then s.sendCompletion t 0 0 [] else (s.sendCompletion t 0x066 0 []).countError 0x066

end Sys2Proof.Machine
end

