-- ==== Sys2Proof/Machine/Cores.lean ====
section
/-! DEFINITION. Control cores (R340–R344, R346): heartbeats, watching, take-over by a spare, requests held for a role. -/

namespace Sys2Proof.Machine

def State.core (s : State) (i : Nat) : ControlCore := s.cores.getD i ControlCore.reset
def State.onCore (s : State) (i : Nat) (f : ControlCore → ControlCore) : State := { s with cores := modifyAt s.cores i f }

/-- The core holds one of the roles 1–6. -/
def ControlCore.active (c : ControlCore) : Bool := c.tested && decide (1 ≤ c.role.toNat ∧ c.role.toNat ≤ 6)

/-- The core with a role. -/
def State.coreWith (s : State) (role : Nat) : Option Nat := (List.range 8).find? fun i => (s.core i).active && (s.core i).role.toNat == role

/-- The role that role k watches (R341). -/
def watchedRole (k : Nat) : Nat := k % 6 + 1

/-- R341: an active core's counter rises by one. -/
def execHeartbeat (core : Fin 8) (s : State) : Out :=
  .next <| if s.start.loaded && (s.core core.val).active then s.onCore core.val fun c => { c with heartbeat := c.heartbeat + 1 } else s

/-- The spare that takes over (R342): the lowest-numbered core without a role that passed its self-test and is not taking one. -/
def State.spareCore (s : State) : Option Nat :=
  (List.range 8).find? fun i => let c := s.core i; c.role == 0 && c.tested && c.taking.isNone

/-- A core is declared failed (R342, R344): fenced, logged, recorded at the next spare-swap window, and a spare starts. -/
def State.coreFailed (s : State) (watcher w : Nat) : State :=
  let role := (s.core w).role
  let s := s.onCore w fun c => { c with role := 7, watchValid := false, missed := 0 }
  let s := s.onCore watcher fun c => { c with watchValid := false }
  let r : RepairRecord :=
    { seq := 0, kind := 6, pendKind := 0, unit := BitVec.ofNat 16 w, detail := 0, step := s.dial.step, startCount := s.start.startCount
      code := 0x0D2 }
  let s := s.onResil fun x => { x with failedCores := x.failedCores ++ [w], toRecord := x.toRecord ++ [r] }
  let s := s.logDevice 0x0D2 (engineName 0 (104 + w)) 0 0
  match s.spareCore with
  | some k => s.onCore k fun c => { c with taking := some role }
  | none => (s.logDevice 0x0D3 (engineName 0 (104 + w)) 0 0).haltAtBoundary 4

/-- R341, R342, R344: the watcher's reading of the core it watches; the fourth without change declares it failed. -/
def execWatcherRead (core : Fin 8) (s : State) : Out :=
  .next <|
    let c := s.core core.val
    if !s.start.loaded || !c.active || !c.watchValid then s else
    let beat := (s.core c.watched.toNat).heartbeat
    if beat ≠ c.lastSeen then s.onCore core.val fun c => { c with missed := 0, lastSeen := beat }
    else
      let s := s.onCore core.val fun c => { c with missed := satAdd c.missed 1 }
      if (s.core core.val).missed.toNat ≥ 4 then s.coreFailed core.val c.watched.toNat else s

/-- A held request, answered as of the step of its receipt (R146, R343). -/
def State.answerHeld (s : State) (c : Instr) (step : Nat) : State :=
  match c with
  | .attest h nonce => s.answerAttest h nonce
  | .stageOpen h => s.openStaging h
  | .stageWrite h offset data => s.writeStaging h offset.toNat data
  | .stageCommit h => s.commitStaging h
  | .stageDiscard h => s.discardStaging h
  | c => match headerOf c with
    | some h => s.answerRun h (s.runFaults step c) fun s => s.runEffect c
    | none => s

/-- The role that answers a held request. -/
def heldRole : Instr → Nat
  | .attest _ _ => 1
  | .stageOpen _ => 1
  | .stageWrite _ _ _ => 1
  | .stageCommit _ => 1
  | .stageDiscard _ => 1
  | _ => 5

/-- Requests held for a role, oldest first. -/
def State.answerAllHeld (s : State) (role : Nat) : State :=
  let mine := s.links.held.filter fun h => heldRole h.1 == role
  let s := s.onLinks fun l => { l with held := l.held.filter fun h => heldRole h.1 != role }
  mine.foldl (fun s h => s.answerHeld h.1 h.2) s

/-- R165, R342, R343: the spare has the role and sends its first heartbeat; its watcher and the core it watches are those of the role.
A Shard Map reload that waited for role 3 is done, stretch requests that waited for role 2 are taken. -/
def execTakeoverComplete (core : Fin 8) (s : State) : Out :=
  .next <| match (s.core core.val).taking with
  | none => s
  | some role =>
    let below := s.coreWith (watchedRole role.toNat)
    let s := s.onCore core.val fun c =>
      { c with role := role, taking := none, tested := true, heartbeat := c.heartbeat + 1, missed := 0
               watched := BitVec.ofNat 3 (below.getD 0), watchValid := below.isSome
               lastSeen := below.elim 0 fun w => (s.core w).heartbeat }
    let s := match (List.range 8).find? fun i => (s.core i).active && watchedRole (s.core i).role.toNat == role.toNat with
      | some w => s.onCore w fun c => { c with watched := BitVec.ofNat 3 core.val, watchValid := true, missed := 0, lastSeen := (s.core core.val).heartbeat }
      | none => s
    let s := if role = 3 then s.onTables fun t => { t with stalled := [] } else if role = 2 then s.takeHeldRequests else s
    (s.answerAllHeld role.toNat).settle

end Sys2Proof.Machine
end

