-- ==== Sys2Proof/Machine/HostData.lean ====
section
/-! DEFINITION. Hokuano READ, WRITE and status-space writes (R37, R143, R171, R243, R438–R440, R456, R506), and the packets that carry
reads and writes between devices (R425, R440): MEM_WRITE, MEM_READ, MEM_DATA, MEM_ACK. -/

namespace Sys2Proof.Machine

/-! ### Reads of this device -/

/-- Failing words that a Hokuano read meets in a cell's operand store are counted, and mark nothing (R40, R261). -/
def State.countParity (s : State) (off n : Nat) : State :=
  let b := 9 * field off 30 2 + field off 26 4
  if field off 26 4 ≤ 8 ∧ field off 20 1 = 0 then
    (List.range n).foldl (fun s _ => s.noteWear 0 (cellUnit b (field off 21 5))) (s.onBlock b fun x => { x with parity := satAdd x.parity n })
  else s

/-- R37, R40, R261, R396–R398, R438, R440, R504–R507. -/
def execRead (h : HkHeader) (addr : Word) (lines : BitVec 6) (parity : BitVec 16) (s : State) : Out :=
  let n := lines.toNat + 1
  let tier := field addr.toNat 48 4
  .next <| s.request h (tier == 5) (h.flits == 0) (s.hkAddrFaults addr n) fun s =>
    let target := coordOf addr.toNat
    if target = s.coord then
      let r := s.readLines tier (field addr.toNat 0 48) n
      let s := if tier = 4 then s.countParity (field addr.toNat 0 48) parity.toNat else s
      ((s.sendCompletion h.tag 0 r.2 r.1).noteReads (memKey tier (field addr.toNat 0 48)) (64 * n) noName).draw
    else
      s.forward ⟨h.tag, true, target, n⟩ 0x04 0 (pack [(addr.toNat, 64), (lines.toNat, 6), (0, 2), (h.tag.toNat, 8)]) []

/-! ### Writes of this device -/

/-- A data stream into the ring row of the block that INTAKE looks for lets its instances check again (R143): their event bit. -/
def State.wakeIntake (s : State) (tier off n : Nat) : State :=
  let hit := (s.slotCfg.ring.bind fun i => (s.operand i).map fun x => (i, x)).any fun r =>
    match s.rowPlace none 0 r.1 r.2 ((s.dial.step.toNat + 1) % r.2.m) with
    | .own k => overlaps (memKey tier off) n k (s.slotCfg.rowStride r.1 r.2)
    | .remote _ => false
  if !hit then s else
  let wake (t : TaskContext) : TaskContext :=
    if t.state = 1 && (s.op t.op.toNat).any fun o => o.body.isIntake then { t with flags := t.flags ||| 0x10000000 } else t
  { s with sched := s.sched.map fun r => { r with contexts := r.contexts.map fun x => (x.1, wake x.2) } }

/-- A data stream's lines reach their point of completion (R143, R243, R397). -/
def State.streamIn (s : State) (tier off : Nat) (data : List Flit) : State :=
  let n := 64 * data.length
  let s := data.zipIdx.foldl (fun s f => s.store (memKey tier (off + 64 * f.2)) (flitBytes f.1) false) s
  (((s.countDefaultWrites tier off n).wakeIntake tier off n).replayMoves (memKey tier off) n).settle

/-- Faults a write adds at its address: tier 0x4 while a job slot runs (R37), a live or held table version (R171). -/
def State.streamFaults (s : State) (a n : Nat) : List (Nat × Nat) :=
  let tier := field a 48 4
  let own := field a 52 12 == coordNum s.coord
  faultIf (tier == 4 && s.slotRunning) 112 0x013 ++ faultIf (own && tier < 4 && s.versionHeld tier (field a 0 48) n) 64 0x084

/-- The RESTORE_CTL line of status space. -/
def ctlLine : Nat := 0x80

/-- Line of a write that holds RESTORE_CTL: its first 8 bytes (R506). -/
def ctlOf (a : Nat) (data : List Flit) : Option Nat :=
  (data.zipIdx.find? fun f => field a 0 48 + 64 * f.2 == ctlLine).map fun f => f.1.toNat % 2 ^ 64

/-- A write to status space (R456, R506). -/
def State.writeStatus (s : State) (a : Nat) (data : List Flit) : State := (ctlOf a data).elim s fun v => s.writeCtl v

/-- Faults of a write to status space. -/
def State.statusWriteFaults (s : State) (a : Nat) (data : List Flit) : List (Nat × Nat) :=
  (ctlOf a data).elim [] fun v => s.ctlFaults v

/-- A Hokuano WRITE (R438–R440). -/
def State.writeRequest (s : State) (h : HkHeader) (addr : Word) (data : List Flit) : State :=
  let a := addr.toNat
  let tier := field a 48 4
  let n := data.length
  let extra := if tier = 5 then s.statusWriteFaults a data else s.streamFaults a (64 * n)
  s.request h false (decide (1 ≤ n) && n == h.flits.toNat) (s.hkAddrFaults addr n ++ extra) fun s =>
    if tier = 5 then (s.writeStatus a data).complete h 0
    else if coordOf a = s.coord then (s.streamIn tier (field a 0 48) data).complete h 0
    else s.forward ⟨h.tag, false, coordOf a, n⟩ 0x03 4 (pack [(a, 64), (h.tag.toNat, 8)]) data

/-- R37, R143, R171, R243, R397, R438–R440, R504–R506. -/
def execWrite (h : HkHeader) (addr : Word) (data : List Flit) (s : State) : Out := .next <| s.writeRequest h addr data

/-- R14, R456, R506: tier 0x5 of this device; RW fields of RESTORE_CTL change, nothing else. -/
def execStatusSpaceWrite (h : HkHeader) (addr : Word) (data : List Flit) (s : State) : Out :=
  .next <|
    if field addr.toNat 48 4 ≠ 5 then s
    else s.request h false (decide (1 ≤ data.length) && data.length == h.flits.toNat)
      (s.hkAddrFaults addr data.length ++ s.statusWriteFaults addr.toNat data) fun s => (s.writeStatus addr.toNat data).complete h 0

/-! ### Packets between devices -/

/-- A MEM_ACK or MEM_DATA back to a requester (R425). -/
def State.answerMem (s : State) (src : Coord) (data : Option (List Flit)) (tag code poison : Nat) : State :=
  match data with
  | none => s.sendTo src 0x06 2 0 0 (pack [(tag, 8), (code, 12)]) []
  | some fs => s.sendTo src 0x05 2 0 0 (pack [(tag, 8), (code, 12), (0, 44), (poison, 64)]) fs

/-- Faults of a MEM_WRITE or MEM_READ at its target, as of the request it carries (R439). -/
def State.memFaults (s : State) (a lines : Nat) : List (Nat × Nat) :=
  faultIf (a % 64 != 0) 64 0x108 ++ shiftFaults 64 (addressFaults s.cfg.header s.start.x.toNat s.start.y.toNat s.start.z.toNat s.cfg.nvme s.caps
    s.unitMap a ++ s.rangeFaults a lines)

/-- R37, R171, R243, R397, R425, R440: the target writes and acknowledges, or rejects with a code. -/
def execMemWrite (src : Coord) (addr : Word) (hkTag : BitVec 8) (data : List Flit) (s : State) : Out :=
  .next <|
    let a := addr.toNat
    let tier := field a 48 4
    if !s.start.loaded || coordOf a ≠ s.coord then s else
    let fs := s.memFaults a data.length ++ faultIf (decide (4 ≤ tier)) 112 0x013 ++ s.streamFaults a (64 * data.length)
    match firstFault fs with
    | some code => (s.answerMem src none hkTag.toNat code 0).countError code
    | none => (s.streamIn tier (field a 0 48) data).answerMem src none hkTag.toNat 0 0

/-- R37, R396–R398, R425, R440: the target answers with its lines and their poison map; a rejection carries one data flit, of no
meaning. Tier 0x5 is read by a rejoining neighbour (R459). -/
def execMemRead (src : Coord) (addr : Word) (len : BitVec 6) (hkTag : BitVec 8) (s : State) : Out :=
  .next <|
    let a := addr.toNat
    let tier := field a 48 4
    let n := len.toNat + 1
    if !s.start.loaded || coordOf a ≠ s.coord then s else
    match firstFault (s.memFaults a n ++ faultIf (tier == 4) 112 0x013) with
    | some code => (s.answerMem src (some [BitVec.ofNat 512 (Config.undefinedField s.draws)]) hkTag.toNat code 0).draw.countError code
    | none =>
      let r := s.readLines tier (field a 0 48) n
      ((s.answerMem src (some r.1) hkTag.toNat 0 r.2).noteReads (memKey tier (field a 0 48)) (64 * n) noName).draw

/-- The Hokuano request that a packet from a device answers (R440). -/
def State.requestOf (s : State) (src : Coord) (tag : BitVec 8) (read : Bool) : Option HkRequest :=
  s.links.requests.find? fun r => r.tag == tag && r.target == src && r.read == read

/-- The domain a MEM_READ or MEM_WRITE was issued by: the Hokuano engine for the host's, the drain engine for a restore's. DEDUCED: R32 names
no issuer (log entry 70). -/
def State.memIssuer (s : State) (src : Coord) (hkTag : BitVec 8) (read : Bool) : Nat :=
  if (s.requestOf src hkTag read).isSome then hokuanoKey else drainEngineKey

/-- R32, R438, R440, R457, R459: lines for the host, or for a restore that reads the +X neighbour; a reply of an older generation is
dropped and counted. -/
def execMemData (src : Coord) (hkTag : BitVec 8) (code : BitVec 12) (gen : BitVec 8) (poison : Word) (data : List Flit) (s : State) : Out :=
  .next <|
    if gen ≠ s.engineTag (s.memIssuer src hkTag true) then s.onResil fun r => { r with stale := r.stale + 1 }
    else match s.requestOf src hkTag true with
      | some _ =>
        let s := s.dropTag hkTag
        if code = 0 then s.sendCompletion hkTag 0 poison.toNat data else (s.sendCompletion hkTag code.toNat 0 []).countError code.toNat
      | none =>
        if s.resil.restore.stage = .idle ∨ src ≠ s.xNeighbour true ∨ s.resil.restore.source ≠ 0 then s
        else if code ≠ 0 then s.failRestore 0x112
        else (s.placeBytes (data.flatMap flitBytes) fun l => poison.getLsbD l).stagesEnd

/-- R32, R440: the write's completion. -/
def execMemAck (src : Coord) (hkTag : BitVec 8) (code : BitVec 12) (gen : BitVec 8) (s : State) : Out :=
  .next <|
    if gen ≠ s.engineTag (s.memIssuer src hkTag false) then s.onResil fun r => { r with stale := r.stale + 1 }
    else match s.requestOf src hkTag false with
      | some _ => ((s.dropTag hkTag).sendCompletion hkTag code.toNat 0 []).countError code.toNat
      | none => s

end Sys2Proof.Machine
end

