-- ==== Sys2Proof/Machine/Links.lean ====
section
/-! DEFINITION. The links (R409–R441): codewords received and sent, replay, credits, arbitration, forwarding, fast retrains, lanes,
NEGOTIATE and CALIBRATE. What a packet for this device does is the command of its type. -/

namespace Sys2Proof.Machine

/-! ### Fields of flits -/

/-- Bits `[lo + w - 1 : lo]`. -/
abbrev BitRange := Nat × Nat

/-- Bits of words 1–7 that a packet type lays out (R422, R423, R425); `entries` is its entries field. -/
def packetRanges (type entries : Nat) : List BitRange :=
  match type with
  | 0x01 => (List.range (min (entries + 1) 3)).flatMap fun i => [(128 * (i + 1), 49), (128 * (i + 1) + 52, 68)]
  | 0x02 => (64, 64) :: (List.range (min (entries + 1) 12)).map fun i => (128 + 32 * i, 28)
  | 0x03 => [(64, 72)]
  | 0x04 => [(64, 70), (136, 8)]
  | 0x05 => [(64, 20), (128, 64)]
  | 0x06 => [(64, 20)]
  | 0x10 => [(64, 305), (384, 65)]
  | 0x11 => [(64, 128)]
  | 0x12 => [(64, 64)]
  | _ => []

/-- Bits of word 0 of a packet that are not reserved (R414): lgen and entries only where the type has them. -/
def packetWord0 (type : Nat) : List BitRange :=
  [(0, 13), (16, 7), (24, 24)] ++ (if type = 0x01 ∨ type = 0x02 ∨ type = 0x10 then [(48, 8)] else []) ++
    (if type = 0x01 ∨ type = 0x02 then [(56, 4)] else [])

/-- Bits that a control flit lays out (R419, R426, R428). -/
def controlRanges (type : Nat) : List BitRange :=
  (0, 10) :: match type with
  | 0x20 => [(13, 11), (64, 96)]
  | 0x21 => [(16, 25), (48, 64), (128, 40), (192, 40), (256, 29)]
  | 0x22 => [(13, 13), (64, 48)]
  | 0x23 => [(13, 41), (64, 48)]
  | 0x24 => [(13, 40), (64, 48)]
  | 0x25 => [(13, 23), (64, 176), (256, 48), (320, 48), (384, 32)]
  | 0x26 => [(13, 8)]
  | _ => [(13, 23)]

/-- The lowest bit outside the ranges that is set is 0x001 there (R414). -/
def outsideFault (v : Nat) (rs : List BitRange) : List (Nat × Nat) :=
  let mask := rs.foldl (fun m r => m ||| ((2 ^ r.2 - 1) <<< r.1)) 0
  match (List.range 512).find? fun i => v.testBit i && !mask.testBit i with
  | some i => [(i, 0x001)]
  | none => []

def isControl (type : Nat) : Bool := decide (0x20 ≤ type ∧ type ≤ 0x27)
def isRouted (type : Nat) : Bool := decide (1 ≤ type ∧ type ≤ 6)
def isTorusPacket (type : Nat) : Bool := isRouted type || type == 0x10 || type == 0x11 || type == 0x12

/-- Faults of a ROW_REPLY's entries (R20, R423): a reserved status, flits of an entry not served, a sum that is not data_flits. -/
def replyFaults (v : Nat) : List (Nat × Nat) :=
  let at' (i : Nat) : Nat := 128 + 32 * i
  let entries := List.range (min (field v 56 4 + 1) 12)
  let flits (i : Nat) : Nat := if field v (at' i + 26) 2 = 0 then field v (at' i + 20) 6 + 1 else 0
  (entries.flatMap fun i => faultIf (field v (at' i + 26) 2 == 3) (at' i + 26) 0x002 ++
      faultIf (field v (at' i + 26) 2 != 0 && field v (at' i + 20) 6 != 0) (at' i + 20) 0x003) ++
    faultIf ((entries.map flits).sum != field v 16 7) 16 0x003

/-- Why a torus receiver discards a packet or control flit (R414, R423): its code. -/
def discardCode (v : Nat) : Option Nat :=
  let type := field v 4 6
  firstFault (genFault v ++
    (if isControl type then outsideFault v (controlRanges type)
     else if isTorusPacket type then outsideFault v (packetWord0 type ++ packetRanges type (field v 56 4)) ++
       (if type = 0x02 then replyFaults v else [])
     else [(4, 0x104)]))

/-! ### LINK_CTL (R417, R419) -/

/-- A LINK_CTL flit. -/
def linkCtlFlit (nak : Bool) (ackSeq : BitVec 10) (credits : List Nat) : Flit :=
  flitOf ([(1, 4), (0x20, 6), (0, 3), (bit nak, 1), (ackSeq.toNat, 10), (0, 40)] ++ credits.map fun c => (c, 12))

/-- Send a LINK_CTL flit with the credits held. -/
def State.acknowledge (s : State) (p : Nat) (nak : Bool) : State :=
  let x := s.port p
  let s := s.sendControl p (linkCtlFlit nak (x.rxExpected - 1) x.toReturn)
  s.onPort p fun x => { x with
    rxRoom := List.zipWith (· + ·) x.rxRoom x.toReturn, toReturn := x.toReturn.map fun _ => 0, rxSinceAck := 0 }

/-- A codeword is not accepted (R417, R418): a NAK names the last one accepted; the eighth in a row for one codeword is the limit. -/
def State.sendNak (s : State) (p : Nat) : State :=
  let s := s.acknowledge p true
  let s := s.onPort p fun x => { x with
    rxRejecting := true, replays := x.replays + 1, lastNakNs := some s.dial.ns
    nakRun := if x.nakSeq = some x.rxExpected then x.nakRun + 1 else 1, nakSeq := some x.rxExpected }
  if (s.port p).nakRun ≥ 8 then s.fastRetrain p else s

/-! ### Forwarding (R420, R421) -/

/-- Virtual channel of a routed packet on its way out: b once it has crossed the dateline of the axis it stays on. -/
def State.nextVc (s : State) (inPort outPort vc : Nat) : Nat :=
  let a := vc / 2 * 2
  let axis := outPort / 2
  if inPort / 2 ≠ axis then a
  else
    let pos := s.axisPos axis
    let crossed := if inPort % 2 = 1 then pos == 0 else pos + 1 == s.axisDim axis
    if crossed then a + 1 else vc

/-- A header with another virtual channel. -/
def withVc (f : Flit) (vc : Nat) : Flit :=
  let v := f.toNat
  BitVec.ofNat 512 (v - field v 10 3 * 1024 + vc * 1024)

/-- Port of a proxied CASCADE packet's second axis (R364): the one axis on which this device is not its destination. -/
def State.proxyPort (s : State) (dest : Coord) : Option Nat :=
  ([0, 1, 2] : List Nat).findSome? fun axis =>
    (axisWay (s.axisPos axis) (axisOf dest axis) (s.axisDim axis)).map fun plus => s.axisPort axis plus

/-- A packet for another device goes on (R420, R421, R466). -/
def State.forwardPacket (s : State) (inPort : Nat) (flits : List Flit) : State :=
  match flits with
  | [] => s
  | h :: data =>
    let v := h.toNat
    let type := field v 4 6
    let dest := coordFrom (field v 24 12)
    let vc := field v 10 3
    if dest = s.coord then s
    else if isRouted type then
      match s.portToward dest with
      | none => s
      | some p =>
        let w := s.nextVc inPort p vc
        s.route p ⟨BitVec.ofNat 3 w, withVc h w :: data⟩
    else if type = 0x10 ∧ v.testBit 368 then
      (s.proxyPort dest).elim s fun p => s.route p ⟨6, h :: data⟩
    else s

/-! ### Reception -/

/-- The last flit of a packet is here: its buffer frees, and it goes on or to its command. -/
def State.endPacket (s : State) (p : Nat) : State :=
  let x := s.port p
  let v := (x.rxPacket.head?).elim 0 (·.toNat)
  let vc := field v 10 3
  let s := s.onPort p fun x => { x with
    toReturn := modifyAt x.toReturn vc (· + x.rxPacket.length), rxPacket := [], rxDiscard := false, rxPending := 0 }
  if x.rxDiscard then s
  else if p < 6 then s.forwardPacket p x.rxPacket
  else
    -- a reserved type, or one of the device's own, is answered (R439)
    let type := field v 4 6
    if decide (0x30 ≤ type ∧ type ≤ 0x39) || !s.hkUp then s else
    match firstFault (genFault v ++ faultIf s.start.refused 4 0x062 ++ [(4, 0x107)]) with
    | some code => (s.sendCompletion (BitVec.ofNat 8 (field v 24 8)) code 0 []).countError code
    | none => s

/-- A flit of an accepted codeword (R413–R415, R419, R436, R439). -/
def State.rxFlit (s : State) (p : Nat) (f : Flit) : State :=
  let x := s.port p
  if x.state ≠ 2 then s
  else if x.rxPending > 0 then
    let s := s.onPort p fun x => { x with rxPending := x.rxPending - 1, rxPacket := x.rxPacket ++ [f] }
    if x.rxPending = 1 then s.endPacket p else s
  else if f = 0 then s
  else
    let v := f.toNat
    let type := field v 4 6
    let drop (s : State) : State := s.onPort p fun x => { x with discards := satAdd x.discards 1 }
    if isControl type then
      if p = 6 ∧ 0x21 ≤ type ∧ type ≤ 0x24 then drop s
      else match discardCode v with
        | some code => (drop s).logDevice code noName 0 (if code = 0x104 then portDetail p 0 else 0)
        | none => s
    else
      let n := field v 16 7
      let vc := field v 10 3
      if n > 64 ∨ x.rxRoom.getD vc 0 < 1 + n then s.linkProtocol p
      else
        let fault := if p = 6 then none else discardCode v
        let s := match fault with
          | some code => (drop s).logDevice code noName 0 (if code = 0x104 then portDetail p 0 else 0)
          | none => s
        let s := s.onPort p fun x => { x with
          rxRoom := modifyAt x.rxRoom vc (· - (1 + n)), rxPending := n, rxDiscard := fault.isSome, rxPacket := [f] }
        if n = 0 then s.endPacket p else s

/-- Message bits that CRC-10 covers (R410). -/
def codewordBits (flits : List Flit) (seq : BitVec 10) : List Bool :=
  (flits.flatMap fun f => (List.range 512).map f.getLsbD) ++ (List.range 10).map seq.getLsbD

/-- A lane map takes effect (R434, R435). -/
def PortState.takeMap (x : PortState) (p : Nat) (map : BitVec 12) : PortState :=
  let x := { x with laneMap := map }
  { x with spareUsed := x.mapped.contains (dataLanes p), weak := x.mapped.any fun l => decide ((x.margin.getD l 0).toNat < 25) }

/-- R410, R413–R415, R417–R421, R423, R425, R436, R437, R439, R466. -/
def execCodewordReceive (port : Port) (uncorrectable : Bool) (seq : BitVec 10) (crc : BitVec 10) (flits : List Flit) (s : State) : Out :=
  .next <|
    let p := port.val
    let x := s.port p
    let bad := uncorrectable || flits.length != 10 || crc10 (codewordBits flits seq) != crc
    if x.state ≠ 2 then s
    else if bad then (s.onPort p fun x => { x with badCodewords := x.badCodewords + 1 }).sendNak p
    else if seq ≠ x.rxExpected then if x.rxRejecting then s else s.sendNak p
    else
      let s := s.onPort p fun x =>
        let x := match x.newMap with
          | some (map, at') => if at' = seq then { x.takeMap p map with newMap := none } else x
          | none => x
        { x with rxExpected := x.rxExpected + 1, rxSinceAck := x.rxSinceAck + 1, rxRejecting := false, nakSeq := none, nakRun := 0 }
      let s := flits.foldl (fun s f => s.rxFlit p f) s
      let x := s.port p
      if x.state = 2 && (decide (x.rxSinceAck ≥ 64) || x.toReturn.any fun n => decide (n ≥ 64)) then s.acknowledge p false else s

/-- R415, R417–R419: acknowledgement, replay, credits. -/
def execLinkCtl (port : Port) (nak : Bool) (ackSeq : BitVec 10) (credits : List (BitVec 12)) (s : State) : Out :=
  .next <|
    let p := port.val
    if (s.port p).state ≠ 2 then s else
    let beyond := (List.range 8).any fun v =>
      decide ((s.port p).credits.getD v 0 + (credits.getD v 0).toNat > (s.port p).creditMax.getD v 0)
    if beyond then s.linkProtocol p else
    let covered (x : PortState) : Nat := ((x.replay.findIdx? fun c => c.1 == ackSeq).map (· + 1)).getD 0
    let s := s.onPort p fun x =>
      let gone := (x.replay.take (covered x)).map (·.1)
      { x with
        credits := x.credits.zipIdx.map fun c => c.1 + (credits.getD c.2 0).toNat
        replay := x.replay.drop (covered x), resend := x.resend.filter fun c => !gone.contains c.1 }
    if !nak then s else
    let s := s.onPort p fun x => { x with
      replays := x.replays + 1, resend := x.replay
      heardRun := if x.heardSeq = some ackSeq then x.heardRun + 1 else 1, heardSeq := some ackSeq }
    if (s.port p).heardRun ≥ 8 then s.fastRetrain p else s

/-- R418: 8 µs without an acknowledgement while the replay buffer holds codewords. -/
def execReplayAckTimeout (port : Port) (s : State) : Out :=
  .next <| if (s.port port.val).state = 2 ∧ (s.port port.val).replay ≠ [] then s.fastRetrain port.val else s

/-- R418: replay resumes, or the port goes down. -/
def execFastRetrainDone (port : Port) (ok : Bool) (s : State) : Out :=
  .next <|
    let p := port.val
    if (s.port p).state ≠ 3 then s
    else if ok then s.onPort p fun x => { x with state := 2, resend := x.replay, rxRejecting := false }
    else s.portDown p 0x100

/-! ### Transmission (R410, R415–R417, R427, R432) -/

/-- A BEAT's age grows by its wait (R427). -/
def agedBeat (f : Flit) (ns : Nat) : Flit :=
  let v := f.toNat
  BitVec.ofNat 512 (v - field v 256 24 * 2 ^ 256 + (field v 256 24 + 4 * ns) % 2 ^ 24 * 2 ^ 256)

/-- A NEGOTIATE flit's time stamps as it leaves (R428, R432): t_send, and in a reply the time since the arrival that t_held holds
while it waits. -/
def stampedNegotiate (f : Flit) (now : Nat) : Flit :=
  let v := f.toNat
  let v := v - field v 192 48 * 2 ^ 192 + now % 2 ^ 48 * 2 ^ 192
  BitVec.ofNat 512 (if v.testBit 20 then v - field v 320 48 * 2 ^ 320 + (now + 2 ^ 48 - field v 320 48) % 2 ^ 48 * 2 ^ 320 else v)

def flitType (f : Flit) : Nat := field f.toNat 4 6

/-- The first packet of a VC that has credits (R415). -/
def PortState.readyPacket (x : PortState) (vc : Nat) : Option Packet :=
  (x.queues.find? fun k => k.vc.toNat == vc).filter fun k => decide (k.flits.length ≤ x.credits.getD vc 0)

/-- Grant a packet: its VC drops to the lowest rank (R29, R416). -/
def PortState.grantPacket (x : PortState) (k : Packet) (bulkWaits : Bool) : PortState :=
  let vc := k.vc.toNat
  let turn (l : List Nat) : List Nat := if l.contains vc then l.filter (· != vc) ++ [vc] else l
  { x with
    queues := x.queues.erase k, credits := modifyAt x.credits vc (· - k.flits.length)
    steadyRank := turn x.steadyRank, bulkRank := turn x.bulkRank
    bulkWait := if x.bulkRank.contains vc then 0 else if bulkWaits then x.bulkWait + 1 else x.bulkWait }

/-- What the transmitter takes next (R416): a control flit, or a packet. -/
def PortState.nextUnit (x : PortState) (ns : Nat) : Option (List Flit × PortState) :=
  match x.beats with
  | (t, f) :: r => some ([agedBeat f (ns - t)], { x with beats := r })
  | [] =>
    match (x.control.find? fun f => flitType f == 0x20).orElse fun _ => x.control.head? with
    | some f => some ([if flitType f = 0x25 then stampedNegotiate f (4 * ns) else f], { x with control := x.control.erase f })
    | none =>
      let steady := x.steadyRank.findSome? x.readyPacket
      let bulk := x.bulkRank.findSome? x.readyPacket
      let pick := if bulk.isSome && decide (x.bulkWait ≥ 7) then bulk else steady.orElse fun _ => bulk
      pick.map fun k => (k.flits, x.grantPacket k bulk.isSome)

/-- Fill flit slots; a slot with nothing to send is IDLE. -/
def PortState.fillSlots (x : PortState) (ns : Nat) : Nat → List Flit × PortState
  | 0 => ([], x)
  | n + 1 =>
    match x.txRest with
    | f :: r =>
      let t := PortState.fillSlots { x with txRest := r } ns n
      (f :: t.1, t.2)
    | [] =>
      match x.nextUnit ns with
      | some (f :: r, y) =>
        let t := PortState.fillSlots { y with txRest := r } ns n
        (f :: t.1, t.2)
      | _ =>
        let t := x.fillSlots ns n
        (0 :: t.1, t.2)

/-- R410, R413, R415–R417, R427, R435: the next codeword leaves, one of a replay, or one of new flits while the replay buffer has room. -/
def execCodewordTransmit (port : Port) (s : State) : Out :=
  .next <|
    let p := port.val
    let x := s.port p
    if x.state ≠ 2 then s
    else match x.resend with
      | _ :: r => s.onPort p fun x => { x with resend := r }
      | [] =>
        if x.replay.length ≥ 256 then s else
        s.onPort p fun x =>
          let x := match x.txMap with
            | some (map, at') => if at' = x.txNext then { x.takeMap p map with txMap := none } else x
            | none => x
          let t := x.fillSlots s.dial.ns 10
          { t.2 with replay := t.2.replay ++ [(x.txNext, t.1)], txNext := x.txNext + 1 }

/-! ### Lanes -/

/-- R418, R435: the spare takes the lane's place; without one the port retrains. A lane that carries nothing costs the spare. -/
def execLaneLossOfLock (port : Port) (lane : Fin 5) (s : State) : Out :=
  .next <|
    let p := port.val
    let x := s.port p
    if x.state ≠ 2 then s
    else if !x.mapped.contains lane.val then s.onPort p fun x => { x with spareReady := false }
    else if x.spareUsed || !x.spareReady then s.fastRetrain p
    else (s.useSpare p lane.val).logDevice 0x101 noName 0 (portDetail p lane.val)

/-- R428, R434, R435: the peer's map for what this device sends, confirmed; or the peer's confirmation. -/
def execLaneMap (port : Port) (map : BitVec 12) (atSeq : BitVec 10) (ack : Bool) (s : State) : Out :=
  .next <|
    let p := port.val
    if (s.port p).state ≠ 2 ∨ ack then s
    else (s.onPort p fun x => { x with txMap := some (map, atSeq) }).sendControl p (laneMapFlit map atSeq true)

/-- The port's calibration window is open and the links role uses it (R64, R343, R433). -/
def State.calibrating (s : State) (p : Nat) : Bool := s.roleUp 4 && s.windowOpen 8 fun q => q.testBit p

/-- A CALIBRATE flit (R428). -/
def calibrateFlit (lane : BitVec 3) (tap move : BitVec 2) (reply : Bool) : Flit :=
  flitOf [(1, 4), (0x26, 6), (0, 3), (lane.toNat, 3), (tap.toNat, 2), (move.toNat, 2), (bit reply, 1)]

/-- Value of an equaliser tap, in steps from training. -/
def PortState.tapAt (x : PortState) (lane : BitVec 3) (tap : BitVec 2) : Int :=
  (x.taps.find? fun t => t.1 == lane && t.2.1 == tap).elim 0 fun t => t.2.2

/-- R64, R428, R433: an answer to this device's own request, or a request of the peer: applied inside the window while the tap is
within its limits, else refused. -/
def execCalibrate (port : Port) (lane : BitVec 3) (tap move : BitVec 2) (reply : Bool) (s : State) : Out :=
  .next <|
    let p := port.val
    let x := s.port p
    if x.state ≠ 2 then s
    else if reply || x.asked.contains (lane, tap) then s.onPort p fun x => { x with asked := x.asked.filter (· != (lane, tap)) }
    else
      let v := x.tapAt lane tap
      let applied := s.calibrating p && move != 3 && (move == 0 || !Config.tapAtLimit tap.toNat v (move == 1))
      let w := if move = 1 then v + 1 else if move = 2 then v - 1 else v
      let s := if applied then s.onPort p fun x =>
        { x with taps := (lane, tap, w) :: x.taps.filter fun t => !(t.1 == lane && t.2.1 == tap) } else s
      s.sendControl p (calibrateFlit lane tap move applied)

/-- R433, R434, R467: a lane's margin is measured inside the window, and one tap move is asked of the peer, which one being the
adaptation's choice; a weak lane waits for a spare swap. -/
def execEyeMarginScan (port : Port) (lane : Fin 5) (margin : BitVec 8) (s : State) : Out :=
  .next <|
    let p := port.val
    let x := s.port p
    if x.state ≠ 2 || !s.calibrating p || decide (lane.val > dataLanes p) then s else
    let weak := decide (margin.toNat < 25)
    let active := x.mapped.contains lane.val
    let old := active && decide ((x.margin.getD lane.val 0).toNat < 25)
    let s := s.onPort p fun x =>
      let x := { x with margin := setAt x.margin lane.val margin, spareReady := if active then x.spareReady else !weak }
      { x with weak := x.mapped.any fun l => decide ((x.margin.getD l 0).toNat < 25) }
    let ask := Config.undefinedField s.draws
    let tap := BitVec.ofNat 2 ask
    let move := BitVec.ofNat 2 (ask / 4 % 3)
    let s := (s.sendControl p (calibrateFlit (BitVec.ofNat 3 lane.val) tap move false)).draw
    let s := s.onPort p fun x => { x with asked := x.asked ++ [(BitVec.ofNat 3 lane.val, tap)] }
    if !active || !weak || old then s
    else (s.logDevice 0x106 noName 0 (portDetail p lane.val)).markSwap 2 (p + 8 * lane.val) 0 0x106

/-! ### NEGOTIATE (R430–R432) -/

/-- This device's NEGOTIATE: an offer, or the answer to one with the time of its arrival. -/
def State.negotiateFlit (s : State) (p : Nat) (reply : Bool) (echo arrival : Nat) : Flit :=
  flitOf [(1, 4), (0x25, 6), (0, 3), (7, 3), (1, 4), (bit reply, 1), (p, 3), (coordNum s.coord, 12), (0, 28), (s.cfg.header.jobId, 64),
    (s.start.fingerprint.toNat, 64), (0, 48), (0, 16), (echo, 48), (0, 16), (arrival, 48), (0, 16), (if p = 6 then 256 else 0, 16),
    (if p = 6 then 2048 else 0, 16)]

/-- The neighbour in a port's direction (R348). -/
def State.neighbour (s : State) (p : Nat) : Coord :=
  let axis := p / 2
  let n := s.axisDim axis
  withAxis s.coord axis ((s.axisPos axis + (if p % 2 = 0 then 1 else n - 1)) % n)

/-- R21, R428, R430–R432: the peer is checked and a request answered. Round trips are taken in start step 0x0E alone, and the latency
stands until the next start. -/
def execNegotiate (port : Port) (f : NegotiateFlit) (s : State) : Out :=
  .next <|
    let p := port.val
    if (s.port p).state ≠ 2 then s
    else if f.impl = 0 || !f.offer.getLsbD (min f.impl.toNat 1 - 1) then s.portDown p 0x102
    else if p < 6 && (f.coord != s.neighbour p || f.jobId.toNat != s.cfg.header.jobId) then s.portDown p 0x103
    else
      let s := s.onPort p fun x => { x with gen := BitVec.ofNat 4 (min f.impl.toNat 1) }
      let s := if p = 6 then s.onPort p fun x =>
          let room := [f.credits0.toNat, f.credits1.toNat, 0, 0, 0, 0, 0, 0]
          if x.creditMax = room then x else { x with credits := room, creditMax := room } else s
      if f.reply then s else s.sendControl p (s.negotiateFlit p true f.tSend.toNat f.arrival.toNat)

end Sys2Proof.Machine
end

