-- ==== Sys2Proof/Machine/MemoryCtl.lean ====
section
/-! DEFINITION. Commands of the memory tiers (R29, R30, R41–R46, R382–R401): a controller's reads and writes, arbiters, regulators,
the correctable log, the scrubber. -/

namespace Sys2Proof.Machine

/-- A line of this device that a controller in service holds, which no running swap closes (R468). -/
def State.ownLine (s : State) (a : Nat) : Option (Nat × Nat × Nat) :=
  let tier := field a 48 4
  let off := field a 0 48
  match controllerOf tier off with
  | some c => if s.start.loaded && field a 52 12 == coordNum s.coord && (s.controller c).up && decide (off < s.caps.of tier) &&
      !s.closedTo c off then some (c, tier, off) else none
  | none => none

/-- Who issued a request: a work item's context, else nobody the record can name. -/
def State.issuer (s : State) (ctx : Option CtxId) : Named := ctx.elim noName fun c => s.nameOf c

/-- R18, R382, R389, R393, R394, R396–R398. -/
def execMemoryRead (addr : Word) (ctx : Option CtxId) (finding : LineFinding) (s : State) : Out :=
  .next <| match s.ownLine addr.toNat with
  | some (_, tier, off) => s.readLine tier (off / 64 * 64) finding (s.issuer ctx)
  | none => s

/-- A write of whole words, or of whole lines in a Keep partition, needs no read (R392). -/
def State.writesWhole (s : State) (tier off n : Nat) : Bool :=
  let unit := if s.keepLine tier off then 64 else 8
  off % unit == 0 && n % unit == 0

/-- Bytes reach one line (R392): a smaller write reads the line first, and stores it poisoned where that read is bad. -/
def State.writeLine (s : State) (tier off : Nat) (bytes : List Byte) (poisoned : Bool) (finding : LineFinding) : State :=
  let k := memKey tier off
  if s.writesWhole tier off bytes.length then s.store k bytes poisoned
  else
    let s := s.readLine tier (off / 64 * 64) finding noName
    let bad := s.memory.mem.poisoned k
    (s.store k bytes poisoned).withMem ((s.store k bytes poisoned).memory.mem.setPoison k (bad || poisoned))

/-- R382, R392, R393, R396–R398: bytes that reach beyond a line go to the next. -/
def execMemoryWrite (addr : Word) (bytes : List Byte) (poisoned : Bool) (finding : LineFinding) (s : State) : Out :=
  .next <| match s.ownLine addr.toNat with
  | none => s
  | some (_, tier, off) =>
    if off + bytes.length > s.caps.of tier then s else
    let head := min bytes.length (64 - off % 64)
    let s := s.writeLine tier off (bytes.take head) poisoned finding
    (List.range (ceilDiv (bytes.length - head) 64)).foldl (fun s i =>
      s.writeLine tier (off + head + 64 * i) ((bytes.drop (head + 64 * i)).take 64) poisoned finding) s

/-! ### Arbiters and regulators -/

/-- Number of an arbiter. -/
def arbiterKey : Arbiter → Nat
  | .fabric r => r.val
  | .rill b => 16 + b.val
  | .crossbar => 64
  | .controller c => 128 + c.val

/-- A requester's rank at an arbiter, 0 the highest (R29): those that have won stand below the others, the latest winner lowest. DESIGN
CHOICE: those that have not won stand by number, since no rule gives the order at reset (log entry 71). -/
def State.rankOf (s : State) (arb cls requester : Nat) : Nat :=
  match ((lookupNat (arb * 4 + cls) s.memory.ranks).getD []).findIdx? (· == requester) with
  | some i => 2 ^ 31 + i
  | none => requester

/-- Peak bytes of a window in tenths of 1,000 bytes: bytes × 10,000 (R387). -/
def State.peakOf (s : State) (ctl : Nat) : Nat :=
  let w := (s.cfg.partMap.regWindow + 1) * 256
  let rate := 8800 - 800 * (s.controller ctl).rate.toNat
  if ctl < 16 then 12288000 * w else if ctl < 24 then 64 * rate * w else 512000 * w

/-- Share and ceiling bytes of a partition at a controller (R386, R387). -/
def State.shareBytes (s : State) (ctl part : Nat) : Nat :=
  ((s.cfg.partMap.parts[part]?).elim 0 (·.share)) * s.peakOf ctl / (256 * 10000)
def State.ceilingBytes (s : State) (ctl part : Nat) : Nat :=
  ((s.cfg.partMap.parts[part]?).elim 256 fun p => p.ceiling + 1) * s.peakOf ctl / (256 * 10000)

/-- Tier and offset of a request's line, its controller and its partition (R388). -/
def lineTier (q : FabricRequest) : Nat := field q.line.toNat 48 4
def lineOff (q : FabricRequest) : Nat := field q.line.toNat 0 48
def lineController (q : FabricRequest) : Option Nat := controllerOf (lineTier q) (lineOff q)
def State.partitionOf (s : State) (q : FabricRequest) : Option Nat := (s.partitionAt (lineTier q) (lineOff q)).map (·.1)

/-- Key of a regulator: its partition, 64 where there is none; a CXL port counts writes apart (R386, R387). -/
def State.regulatorKey (s : State) (ctl : Nat) (q : FabricRequest) : Nat :=
  (s.partitionOf q).getD 64 + (if 24 ≤ ctl ∧ q.write then 128 else 0)

def ControllerState.regulator (c : ControllerState) (k : Nat) : Regulator :=
  (c.regulators.find? fun r => r.part == k).getD ⟨k, 0, false, false, false⟩
def ControllerState.setRegulator (c : ControllerState) (r : Regulator) : ControllerState :=
  { c with regulators := insertBy (·.part) r (c.regulators.filter fun x => x.part != r.part) }

/-- A Bulk request that takes Steady rank, at every arbiter on its way: its partition is owed at its controller and below its share (R45,
R387). -/
def State.isOwed (s : State) (q : FabricRequest) : Bool :=
  (lineController q).any fun c =>
    let k := s.regulatorKey c q
    let r := (s.controller c).regulator k
    r.owed && decide (r.count < s.shareBytes c (k % 128))

/-- A Bulk request below its partition's ceiling (R387). -/
def State.belowCeiling (s : State) (ctl : Nat) (q : FabricRequest) : Bool :=
  let k := s.regulatorKey ctl q
  decide (((s.controller ctl).regulator k).count < s.ceilingBytes ctl (k % 128))

/-- Controller of an arbiter. -/
def controllerArb : Arbiter → Option Nat
  | .controller c => some c.val
  | _ => none

/-- Class a request competes in: 0 Steady, 1 Bulk, 2 background (R45, R46). At a controller a Bulk request that its ceiling stops does not
compete (R387), and no background request does while a Steady or Bulk request is present, a stopped one among them. None competes for a bank
that a swap closes (R468). -/
def State.gradeOf (s : State) (arb : Arbiter) (present : List FabricRequest) (q : FabricRequest) : Option Nat :=
  if (controllerArb arb).any fun c => s.closedTo c (lineOff q) then none else
  match q.cls with
  | .steady => some 0
  | .background => if present.any fun x => x.cls != .background then none else some 2
  | .bulk => if s.isOwed q then some 0 else if (controllerArb arb).all fun c => s.belowCeiling c q then some 1 else none

/-- The request a grant goes to: the best class, then the highest rank. -/
def State.winner (s : State) (arb : Arbiter) (qs : List FabricRequest) : Option (FabricRequest × Nat) :=
  let graded := qs.filterMap fun q => (s.gradeOf arb qs q).map fun g => (q, g)
  leastBy (fun x => x.2 * 2 ^ 32 + s.rankOf (arbiterKey arb) x.2 x.1.requester) graded

/-- The winner drops to the lowest rank, and every requester below it moves up one (R29). -/
def State.rotate (s : State) (arb cls won : Nat) : State :=
  let order := (lookupNat (arb * 4 + cls) s.memory.ranks).getD []
  s.onMemory fun m => { m with ranks := insertKey (arb * 4 + cls) (order.filter (· != won) ++ [won]) m.ranks }

/-- Bytes of a requester's row or stream that earlier grants of an arbiter have carried. -/
def State.carriedBy (s : State) (arb requester : Nat) : Nat :=
  ((s.memory.carried.find? fun x => x.1 == arb && x.2.1 == requester).map (·.2.2)).getD 0

/-- Most bytes of one grant (R42, R43, R46): a Steady burst, a Bulk transfer, one background beat. A Rill carries whole rows. -/
def grantLimit (arb : Arbiter) (q : FabricRequest) : Nat :=
  match arb, q.cls with
  | .rill _, _ => q.bytes
  | _, .steady => 256
  | _, .bulk => 4096
  | _, .background => 64

/-- Bytes of one beat at an arbiter: 64 on the fabric (R42), 128 on a Rill (R262). -/
def beatBytes : Arbiter → Nat
  | .rill _ => 128
  | _ => 64

/-- A region fabric's words as their SEC-DED code leaves them (R31): a single-bit error is corrected and counted; a double-bit error poisons
the line that the transfer writes, or what the work item that reads gets of it. -/
def State.fabricWords (s : State) (arb : Arbiter) (h : PortGrant) (fault : FabricFault) : State :=
  match arb, fault with
  | .fabric r, .single => s.onMemory fun m => { m with fabricCorrected := modifyAt m.fabricCorrected r.val (· + 1) }
  | .fabric _, .double =>
    let k := lineKey (memKey (lineTier h.q) (lineOff h.q))
    if h.q.write then s.withMem (s.memory.mem.setPoison k true)
    else h.q.ctx.elim s fun c => s.onGather fun g => { g with badLines := g.badLines ++ [(c, k)] }
  | _, _ => s

/-- The transfer that holds a port ends: a row longer than what has been carried goes on in another burst (R42). -/
def State.endGrant (s : State) (arb : Arbiter) (h : PortGrant) (fault : FabricFault) : State :=
  let k := arbiterKey arb
  let done := s.carriedBy k h.q.requester + h.bytes
  let rest := s.memory.carried.filter fun x => !(x.1 == k && x.2.1 == h.q.requester)
  (s.fabricWords arb h fault).onMemory fun m => { m with
    grants := m.grants.filter fun x => x.1 != k
    carried := if done < h.q.bytes then rest ++ [(k, h.q.requester, done)] else rest }

/-- A Bulk grant is revoked (R43): nothing of the transfer counts as carried, and its window's count is withdrawn (R387). -/
def State.revokeGrant (s : State) (arb : Arbiter) (h : PortGrant) : State :=
  let s := s.onMemory fun m => { m with grants := m.grants.filter fun x => x.1 != arbiterKey arb }
  match (if h.counted then controllerArb arb else none) with
  | none => s
  | some c => s.onController c fun x =>
      let r := x.regulator (s.regulatorKey c h.q)
      x.setRegulator { r with count := r.count - h.bytes }

/-- Bulk requests wait at a controller (R387). -/
def State.noteWaits (s : State) (c : Nat) (requests : List FabricRequest) : State :=
  let wait (x : ControllerState) (y : FabricRequest) : ControllerState :=
    if y.cls = .bulk then x.setRegulator { x.regulator (s.regulatorKey c y) with waited := true } else x
  s.onController c fun x => requests.foldl wait x

/-- At a controller, Bulk requests that did not win have waited, and a Bulk grant is counted in full (R387, R405). -/
def State.regulate (s : State) (c : Nat) (requests : List FabricRequest) (q : FabricRequest) (bytes : Nat) : State :=
  let s' := s.noteWaits c (requests.filter (· != q))
  if q.cls ≠ .bulk then s' else
  let k := s.regulatorKey c q
  let limit := s.ceilingBytes c (k % 128)
  let s' := s'.onController c fun x =>
    let r := x.regulator k
    x.setRegulator { r with count := r.count + bytes, capped := r.capped || decide (limit ≤ r.count + bytes) }
  (s.partitionOf q).elim s' fun p => s'.onPart p fun x => { x with bulkBytes := addN x.bulkBytes bytes }

/-- One decision of an arbiter whose port is free. -/
def State.arbitrate (s : State) (arb : Arbiter) (requests : List FabricRequest) : State :=
  match s.winner arb requests with
  | none => (controllerArb arb).elim s fun c => s.noteWaits c requests
  | some (q, g) =>
    let k := arbiterKey arb
    let bytes := min (grantLimit arb q) (q.bytes - s.carriedBy k q.requester)
    let s' := (s.rotate k g q.requester).onMemory fun m => { m with
      grants := insertKey k ⟨q, bytes, q.cls != .bulk || g == 0, (controllerArb arb).isSome⟩ m.grants }
    (controllerArb arb).elim s' fun c => s'.regulate c requests q bytes

/-- A port's holder yields to a Steady request (R43, R45). -/
def PortGrant.revoked (h : PortGrant) (requests : List FabricRequest) : Bool :=
  h.q.cls == .bulk && !h.exempt && requests.any fun x => x.cls == .steady

/-- R29–R31, R41–R46, R387, R388: in the last beat of a transfer the arbiter decides the next grant. Before it, only a Bulk transfer that is not
exempt gives way, at once, to a Steady request, and competes again from its first byte. -/
def execFabricGrant (arb : Arbiter) (beats : Nat) (fault : FabricFault) (requests : List FabricRequest) (s : State) : Out :=
  .next <|
    if !s.start.loaded then s else
    match lookupNat (arbiterKey arb) s.memory.grants with
    | none => s.arbitrate arb requests
    | some h =>
      if ceilDiv h.bytes (beatBytes arb) ≤ beats then (s.endGrant arb h fault).arbitrate arb requests
      else if h.revoked requests then
        (s.revokeGrant arb h).arbitrate arb (if requests.contains h.q then requests else requests ++ [h.q])
      else (controllerArb arb).elim s fun c => s.noteWaits c (requests.filter (· != h.q))

/-- R387, R405: a window ends on every controller. -/
def execRegulatorWindow (s : State) : Out :=
  .next <|
    if !s.start.loaded then s else
    let owes (c : Nat) (r : Regulator) : Bool := r.waited && decide (r.count < s.shareBytes c (r.part % 128))
    let turned := s.memory.controllers.zipIdx.map fun x =>
      { x.1 with regulators := x.1.regulators.map fun r => { r with count := 0, owed := owes x.2 r, waited := false, capped := false } }
    let any (p : Nat) (f : Nat → Regulator → Bool) : Bool :=
      s.memory.controllers.zipIdx.any fun x => x.1.regulators.any fun r => r.part % 128 == p && f x.2 r
    let parts := s.memory.parts.zipIdx.map fun x =>
      { x.1 with owed := if any x.2 owes then satAdd x.1.owed 1 else x.1.owed
                 capped := if any x.2 (fun _ r => r.capped) then satAdd x.1.capped 1 else x.1.capped }
    s.onMemory fun m => { m with
      controllers := turned, parts := parts, grants := m.grants.map fun g => (g.1, { g.2 with counted := false }) }

/-! ### The correctable log -/

/-- Place of a new entry (R393): the lowest free one, else that of the lowest count, and of those the oldest. -/
def logVictim (l : List CeEntry) : Nat :=
  match (List.range 64).find? fun i => (l[i]?).all fun e => e.kind == 0 with
  | some i => i
  | none => (leastBy (fun x : CeEntry × Nat => (x.1.count.toNat * 2 ^ 32 + x.1.step.toNat) * 65536 + x.1.pos.toNat) l.zipIdx).elim 0 (·.2)

/-- R41, R46, R393, R395. -/
def execCeLogUpdate (ctl : Controller) (offset : BitVec 48) (chip : BitVec 4) (kind : BitVec 2) (s : State) : Out :=
  .next <|
    let c := ctl.val
    let off := offset.toNat / 64 * 64
    match s.partitionAt (tierOf c) off with
    | none => s
    | some (p, _) =>
      if !s.start.loaded || c ≥ 24 || controllerOf (tierOf c) off != some c then s else
      let log := (s.controller c).log
      let fresh : CeEntry := ⟨BitVec.ofNat 48 off, BitVec.ofNat 4 (tierOf c), chip, kind, BitVec.ofNat 6 p, 1, s.dial.pos,
        BitVec.ofNat 32 s.dial.step.toNat⟩
      let log := match log.findIdx? fun e => e.kind != 0 && e.offset.toNat == off with
        | some i => modifyAt log i fun e => { e with chip := chip, kind := kind, count := satAdd e.count 1, pos := fresh.pos, step := fresh.step }
        | none => setAt (log ++ List.replicate (64 - log.length) default) (logVictim log) fresh
      s.onController c fun x => { x with log := log }

/-- R41, R46, R393. -/
def execCeLogUpdateDropped (ctl : Controller) (offset : BitVec 48) (s : State) : Out :=
  .next <| match s.partitionAt (tierOf ctl.val) offset.toNat with
  | some (p, _) => if s.start.loaded then s.onPart p fun x => { x with logLost := satAdd x.logLost 1 } else s
  | none => s

/-- R394: every bucket leaks. -/
def execCeBucketLeak (s : State) : Out :=
  .next <|
    let leak (x : PartState × Nat) : PartState :=
      { x.1 with level := BitVec.ofNat 16 (x.1.level.toNat - (s.cfg.partMap.parts[x.2]?).elim 0 (·.ceLeak)) }
    if s.start.loaded then s.onMemory fun m => { m with parts := m.parts.zipIdx.map leak } else s

/-! ### The scrubber -/

/-- R399: every slice and DDR controller gains a permission, to 4. -/
def execScrubTick (s : State) : Out :=
  .next <|
    if !s.memory.scrubbing then s else
    s.onMemory fun m => { m with controllers := m.controllers.zipIdx.map fun c =>
      if c.2 < 24 then { c.1 with permissions := min 4 (c.1.permissions + 1) } else c.1 }

/-- The next line to scrub at or after an offset (R399): none where the tier has no scrubbed partition. -/
def State.nextScrub (s : State) (ctl off : Nat) : Option Nat :=
  let ps := sortBy (·.start) (s.cfg.partMap.parts.filter fun p => p.scrub && p.tier == tierOf ctl)
  let line := lineFrom ctl off
  (ps.findSome? fun p => if line < p.start + p.len then some (if p.start ≤ line then line else lineFrom ctl p.start) else none).orElse
    fun _ => ps.head?.map fun p => lineFrom ctl p.start

/-- The lap has passed the lowest line, or the highest, on every controller (R401). -/
def PartState.passed (x : PartState) (part : Partition) (n : Nat) : Bool := (tierControllers part.tier).all fun c => decide (n ≤ x.linesOn c)

/-- A controller has scrubbed a line of a partition (R401, R406), and whether that ends the lap: its time runs from every controller having
passed the lowest line to every one having passed the highest. -/
def PartState.scrub (x : PartState) (part : Partition) (c now : Nat) : PartState × Bool :=
  let y := { x with lapLines := insertKey c (x.linesOn c + 1) x.lapLines }
  let y := if !x.passed part 1 && y.passed part 1 then { y with lapStartNs := now } else y
  if !y.passed part part.perController then (y, false) else
  ({ y with
      lapLines := y.lapLines.map fun k => (k.1, k.2 - part.perController)
      laps := satAdd y.laps 1, lastLapMs := BitVec.ofNat 32 (min ((now - y.lapStartNs) / 1000000) (2 ^ 32 - 1))
      long := decide (0 < part.lapLimit ∧ part.lapLimit * 1000000000 < now - y.lapStartNs) }, true)

/-- A line of a partition has been scrubbed: a lap that took too long is logged (R401). -/
def State.scrubbedLine (s : State) (p : Nat) (part : Partition) (c : Nat) : State :=
  let y := (s.memory.parts.getD p PartState.reset).scrub part c s.dial.ns
  let s := s.onPart p fun _ => y.1
  if y.2 && y.1.long then s.logDevice 0x0F4 noName 0 0 else s

/-- The scrubber's action on a finding (R400). -/
def State.scrubLine (s : State) (tier off : Nat) (finding : LineFinding) : State :=
  let k := memKey tier off
  let who := engineName 0 (64 + (controllerOf tier off).getD 0)
  match finding with
  | .uncorrectable =>
    let s := (s.partitionAt tier off).elim s fun p => s.onPart p.1 fun x => { x with uncorrectable := satAdd x.uncorrectable 1 }
    if s.keepLine tier off then (s.logDevice 0x0F2 who 0 (s.memDetail tier off)).stepFault tier off who
    else (s.logDevice 0x0F2 who 0 (s.memDetail tier off)).withMem (s.memory.mem.setPoison k true)
  | f =>
    if s.memory.mem.poisoned k then
      (s.partitionAt tier off).elim s fun p => s.onPart p.1 fun x => { x with poisonReads := satAdd x.poisonReads 1 }
    else s.readLine tier off f who

/-- R46, R343, R389, R393, R394, R396, R398–R401, R406. While role 3 has no core no new lap begins. -/
def execScrubRead (ctl : Controller) (finding : LineFinding) (s : State) : Out :=
  .next <|
    let c := ctl.val
    let x := s.controller c
    if !s.memory.scrubbing || c ≥ 24 || x.permissions = 0 || !x.up then s else
    match s.nextScrub c (x.scrubAt.getD 0) with
    | none => s
    | some off =>
      if (!s.roleUp 3 && s.nextScrub c 0 == some off) || s.closedTo c off then s else
      let s := s.onController c fun y => { y with permissions := y.permissions - 1, scrubAt := s.nextScrub c (off + 64) }
      let s := s.scrubLine (tierOf c) off finding
      match s.partitionAt (tierOf c) off with
      | some (p, part) => s.scrubbedLine p part c
      | none => s

end Sys2Proof.Machine
end

