-- ==== Sys2Proof/Machine/Rambler.lean ====
section
/-! DEFINITION. Rambler (R189–R217, R522, R158, R159, R166, R167): seeds, hops, sampling methods, locality, budgets, and the lists,
trail and basket record that a SAMPLE writes. -/

namespace Sys2Proof.Machine

/-! ### Reading adjacency -/

/-- Why a basket is dropped: the code, the node and table it names, the generator calls made, and the range of this device's memory
that came poisoned. Code 0 is no fault: the basket waits for a remote sector, at the address `sector` (R211). -/
structure SampleFault where
  code   : Nat
  node   : Nat
  table  : Nat
  calls  : Nat
  range  : Option (Nat × Nat)
  sector : Nat
  deriving DecidableEq, Repr

/-- A global address (R34). -/
def globalAddr (c : Coord) (tier off : Nat) : Nat := coordNum c * 2 ^ 52 + memKey tier off

/-- What a SAMPLE reads with: the sectors that came from other devices, the table and its version, the node read. -/
structure AdjReader where
  remote  : List RemoteSector
  t       : TableDesc
  b       : Bool
  node    : Nat
  deriving DecidableEq, Repr

/-- An 8-byte entry of an offset or edge array (R158, R522); a sector of another device that has not come is waited for. -/
def State.adjEntry (s : State) (r : AdjReader) (owner : Coord) (tier off : Nat) : Except SampleFault Nat :=
  let k := memKey tier off
  let fault (code : Nat) (range : Option (Nat × Nat)) (sector : Nat) : SampleFault := ⟨code, r.node, r.t.id, 0, range, sector⟩
  if owner = s.coord then
    if s.rangePoisoned k 8 then .error (fault 0x092 (some (k, 8)) 0) else .ok (s.numAt k 8)
  else
    let a := globalAddr owner tier off
    match r.remote.find? fun x => x.addr.toNat == a / 32 * 32 with
    | none => .error (fault 0 none (a / 32 * 32))
    | some x => if x.poisoned then .error (fault 0x092 none 0) else .ok (field x.data.toNat (8 * (a % 32)) 64)

/-- A node's edges (R158, R159): where they lie and how many. -/
structure AdjRow where
  owner  : Coord
  tier   : Nat
  first  : Nat
  degree : Nat
  deriving DecidableEq, Repr

/-- R159: the edges run beyond the partition that holds their array. -/
def State.edgesBeyond (s : State) (tier base first degree : Nat) : Bool :=
  match s.partitionAt tier base with
  | some p => degree != 0 && decide (base + (first + degree) * 8 > p.2.start + p.2.len)
  | none => degree != 0

/-- A node's row in a hop's table (R159, R162, R166, R167): none where an invalid node has degree zero. -/
def State.adjRow (s : State) (r : AdjReader) : Except SampleFault (Option AdjRow) :=
  let fault (code : Nat) : SampleFault := ⟨code, r.node, r.t.id, 0, none, 0⟩
  match s.lookup r.t r.node with
  | .outOfRange => if r.t.invalid = 0 then .error (fault 0x080) else .ok none
  | .missing => if r.t.invalid = 0 then .error (fault 0x081) else .ok none
  | .row owner e off => do
    let v ← s.adjEntry r owner e.tier (off + r.t.versionShift r.b)
    let first := field v 0 40
    let degree := field v 40 24
    let base := e.aux + r.t.versionShift r.b
    if degree = 0xFFFFFF || s.edgesBeyond e.auxTier base first degree then .error (fault 0x089)
    else pure (some ⟨owner, e.auxTier, base + first * 8, degree⟩)

/-- An edge: neighbour, BF16 weight, type, index in its row. -/
structure Edge where
  nbr    : Nat
  weight : Nat
  etype  : Nat
  index  : Nat
  deriving DecidableEq, Repr, Inhabited

def State.edgeAt (s : State) (r : AdjReader) (row : AdjRow) (i : Nat) : Except SampleFault Edge := do
  let v ← s.adjEntry r row.owner row.tier (row.first + 8 * i)
  pure ⟨field v 0 40, if r.t.weighted then field v 40 16 else bf16One, field v 56 8, i⟩

def State.allEdges (s : State) (r : AdjReader) (row : AdjRow) : Except SampleFault (List Edge) := (List.range row.degree).mapM (s.edgeAt r row)

/-! ### Weights (R207) -/

/-- FP32 of an edge's weight for drawing: one that is not finite or not above zero counts as zero. -/
def drawWeight (e : Edge) : BitVec 32 :=
  let w := BitVec.ofNat 32 (e.weight * 65536)
  if (v32 w).isFinite && (v32 0).lt (v32 w) then w else 0

/-- Prefix weights, summed in edge order. -/
def prefixWeights (es : List Edge) : List (BitVec 32) :=
  (es.foldl (fun (a : List (BitVec 32) × BitVec 32) e =>
    let p := if a.1.isEmpty then drawWeight e else add32 a.2 (drawWeight e)
    (a.1 ++ [p], p)) ([], 0)).1

/-- The edge that a draw takes by weight (R206, R207). -/
def pickWeighted (es : List Edge) (ps : List (BitVec 32)) (g : Nat) : Nat :=
  let x := mul32 (r32 (.fin false (drawFraction g) (-24))) (ps.getLastD 0)
  match ps.findIdx? fun p => (v32 x).lt (v32 p) with
  | some i => i
  | none => (es.zipIdx.foldl (fun b e => if drawWeight e.1 = 0 then b else e.2) 0)

/-! ### One source node -/

/-- R211: the owner of the node's row in bias_table is another device. -/
def State.remoteNode (s : State) (b : BasketDesc) (node : Nat) : Bool :=
  match s.table b.biasTable with
  | none => false
  | some t => match s.lookup t node with
    | .row owner _ _ => owner != s.coord
    | _ => false

/-- The place of a basket's draws (R202–R204). -/
structure DrawPlace where
  desc   : BasketDesc
  pos    : Nat
  stream : Nat
  hop    : Nat
  /-- Position of the source node in its list. -/
  p      : Nat
  deriving DecidableEq, Repr

def DrawPlace.gen (d : DrawPlace) (ix : Nat) : Nat := draw d.desc.jobSeed d.pos d.hop d.stream ix

/-- The candidate of draw number i with its attempts (R204, R205, R211): the edge kept, and the calls made. -/
def State.attempts (s : State) (r : AdjReader) (row : AdjRow) (d : DrawPlace) (i : Nat) (pick : Nat → Nat) :
    Nat → Except SampleFault (Edge × Nat)
  | 0 => do
    let g := d.gen (d.p * 2 ^ 32 + d.desc.redraws * 64 + i)
    let e ← s.edgeAt r row (pick g)
    pure (e, 1)
  | n + 1 => do
    let a := d.desc.redraws - (n + 1)
    let g := d.gen (d.p * 2 ^ 32 + a * 64 + i)
    let e ← s.edgeAt r row (pick g)
    if !s.remoteNode d.desc e.nbr || drawKeepsRemote g d.desc.remoteKeep then pure (e, 1)
    else do
      let x ← s.attempts r row d i pick n
      pure (x.1, x.2 + 1)

/-- Draws in order, each with its pick. -/
def State.drawEdges (s : State) (r : AdjReader) (row : AdjRow) (d : DrawPlace) (n : Nat) (pick : Nat → Nat → Nat) :
    Except SampleFault (List Edge × Nat) :=
  (List.range n).foldlM (fun a i => do
    let x ← s.attempts r row d i (pick i) d.desc.redraws
    pure (a.1 ++ [x.1], a.2 + x.2)) ([], 0)

/-- Floyd's selection (R206): F distinct edges of more than F, in ascending index (R209). -/
def State.floyd (s : State) (r : AdjReader) (row : AdjRow) (d : DrawPlace) (f : Nat) : Except SampleFault (List Edge × Nat) := do
  let x ← (List.range f).foldlM (fun (a : List Edge × Nat) i => do
    let pick (g : Nat) : Nat :=
      let t := drawIndex g (row.degree - f + i + 1)
      if a.1.any fun e => e.index == t then row.degree - f + i else t
    let y ← s.attempts r row d i pick d.desc.redraws
    pure (a.1 ++ [y.1], a.2 + y.2)) (([], 0) : List Edge × Nat)
  pure (sortBy (·.index) x.1, x.2)

/-- The edges a source node contributes at a hop (R206, R207, R209), with the generator calls made. -/
def State.sampleNode (s : State) (r : AdjReader) (d : DrawPlace) (fanout : Nat) : Except SampleFault (List Edge × Nat) := do
  match ← s.adjRow r with
  | none => pure ([], 0)
  | some row =>
    let byWeight (n : Nat) : Except SampleFault (List Edge × Nat) := do
      let es ← s.allEdges r row
      let ps := prefixWeights es
      if ps.getLastD 0 = 0 then pure ([], 0) else s.drawEdges r row d n fun _ g => pickWeighted es ps g
    let uniform (n : Nat) : Except SampleFault (List Edge × Nat) := s.drawEdges r row d n fun _ g => drawIndex g row.degree
    if row.degree = 0 then pure ([], 0) else
    match d.desc.method with
    | 0 =>
      if d.desc.replace then uniform fanout
      else if row.degree ≤ fanout then do
        let es ← s.allEdges r row
        pure (es, 0)
      else s.floyd r row d fanout
    | 1 => byWeight fanout
    | 2 =>
      let n := if d.hop = 1 then fanout else 1
      if r.t.weighted then byWeight n else uniform n
    | _ => do
      let es ← s.allEdges r row
      pure (es, 0)

/-! ### Baskets -/

/-- A basket as it grows: its lists (a node and whether it is remote), trail entries, trail lengths by hop, calls, substitutions. -/
structure Basket where
  lists    : List (List (Nat × Bool))
  trail    : List Nat
  trails   : List Nat
  remote   : Nat
  calls    : Nat
  defaults : List Nat
  clipHop  : Nat
  done     : Nat
  deriving DecidableEq, Repr

def Basket.nodes (b : Basket) : Nat := (b.lists.map List.length).sum
def Basket.clip (b : Basket) (h : Nat) : Basket := { b with clipHop := h, done := h }

/-- A trail entry (R194). -/
def trailEntry (src pos hop : Nat) (remote : Bool) (dst weight etype : Nat) : Nat :=
  pack [(src, 40), (pos, 20), (hop, 3), (bit remote, 1), (dst, 20), (weight, 16), (etype, 8)]

/-- Add a group of edges, by destination position, to the hop's list; none where it does not fit (R210, R212). -/
def State.addGroup (s : State) (d : BasketDesc) (b : Basket) (h : Nat) (cur : List (Nat × Bool)) (group : List (Nat × Edge)) :
    Option (Basket × List (Nat × Bool)) :=
  let x := group.foldl (fun (a : List (Nat × Bool) × List Nat × Nat) g =>
    let e := g.2
    let remote := s.remoteNode d e.nbr
    let seen := if d.dedup then a.1.findIdx? fun n => n.1 == e.nbr else none
    let pos := seen.getD a.1.length
    (if seen.isSome then a.1 else a.1 ++ [(e.nbr, remote)],
     a.2.1 ++ [trailEntry e.nbr pos h remote g.1 e.weight e.etype], a.2.2 + bit remote)) (cur, [], 0)
  if b.nodes + x.1.length > d.nodeBudget + 1 ∨ b.trail.length + x.2.1.length > d.trailBudget + 1 then none
  else some ({ b with trail := b.trail ++ x.2.1, remote := b.remote + x.2.2 }, x.1)

/-- A table reader for a node of a hop. -/
def State.reader (s : State) (m : MicroBatch) (remote : List RemoteSector) (table node : Nat) : AdjReader :=
  ⟨remote, (s.table table).getD default, m.versionB.contains table, node⟩

/-- A source node that an invalid-index rule replaces (R167). -/
def State.substituted (s : State) (r : AdjReader) : Bool :=
  match s.lookup r.t r.node with
  | .row _ _ _ => false
  | _ => true

def withCalls (n : Nat) (x : Except SampleFault α) : Except SampleFault α :=
  match x with
  | .error f => .error { f with calls := f.calls + n }
  | .ok a => .ok a

/-- A hop of every method but 3, source node by source node (R206, R209, R212). -/
def State.nodeHop (s : State) (m : MicroBatch) (remote : List RemoteSector) (d : DrawPlace) (hop : HopRecord) :
    List ((Nat × Bool) × Nat) → Basket → List (Nat × Bool) → Except SampleFault (Basket × List (Nat × Bool))
  | [], b, cur => pure (b, cur)
  | ((node, _), p) :: rest, b, cur => do
    let r := s.reader m remote hop.table node
    let x ← withCalls b.calls (s.sampleNode r { d with p := p } (hop.fanout + 1))
    let b := { b with calls := b.calls + x.2, defaults := if s.substituted r then b.defaults ++ [r.t.id] else b.defaults }
    match s.addGroup d.desc b d.hop cur (x.1.map fun e => (p, e)) with
    | none => pure (b.clip d.hop, cur)
    | some y => s.nodeHop m remote d hop rest y.1 y.2

/-- The pool of method 3 (R208): every edge of every node, with its destination position. -/
def State.pool (s : State) (m : MicroBatch) (remote : List RemoteSector) (table : Nat) (src : List (Nat × Bool)) (b : Basket) :
    Except SampleFault (Basket × Option (List (Nat × Edge))) := do
  let rows ← src.zipIdx.mapM fun x => do
    let r := s.reader m remote table x.1.1
    let row ← withCalls b.calls (s.adjRow r)
    pure (r, row, x.2)
  let b := { b with defaults := b.defaults ++ (rows.filter fun x => s.substituted x.1).map fun x => x.1.t.id }
  if (rows.map fun x => x.2.1.elim 0 (·.degree)).sum > 16777216 then pure (b, none) else do
    let es ← rows.mapM fun x =>
      match x.2.1 with
      | none => pure []
      | some row => do
        let es ← withCalls b.calls (s.allEdges x.1 row)
        pure (es.map fun e => (x.2.2, e))
    pure (b, some es.flatten)

/-- BF16 of an FP32 value. -/
def bf16Of (x : BitVec 32) : Nat := bf16.encode .saturate .nearestEven (v32 x)

/-- A hop of method 3 (R208): layer-wise draws over the pool. A pool whose weights sum to zero contributes no edge, as R207 has it for a node;
DESIGN CHOICE: no generator call is made for it (log entry 68). -/
def State.layerHop (s : State) (m : MicroBatch) (remote : List RemoteSector) (d : DrawPlace) (hop : HopRecord) (src : List (Nat × Bool))
    (b : Basket) : Except SampleFault (Basket × List (Nat × Bool)) := do
  let x ← s.pool m remote hop.table src b
  match x.2 with
  | none => pure (x.1.clip d.hop, [])
  | some pool =>
    let size := d.desc.layer.getD (d.hop - 1) 0 + 1
    let es := pool.map (·.2)
    let ps := prefixWeights es
    let w := ps.getLastD 0
    if w = 0 then pure (x.1, []) else
    let hits := (List.range size).foldl (fun (l : List (Nat × Nat)) i =>
      let k := pickWeighted es ps (d.gen i)
      insertKey k ((pairCount k l) + 1) l) []
    let group := hits.map fun h =>
      let g := pool.getD h.1 (0, default)
      (g.1, { g.2 with weight := bf16Of (div32 (mul32 (nat32 h.2) w) (nat32 size)), etype := 0 })
    let b := { x.1 with calls := x.1.calls + size }
    match s.addGroup d.desc b d.hop [] group with
    | none => pure (b.clip d.hop, [])
    | some y => pure y
where
  pairCount (k : Nat) (l : List (Nat × Nat)) : Nat := (lookupNat k l).getD 0

/-- The hops of a basket, until one clips (R212). -/
def State.hops (s : State) (m : MicroBatch) (remote : List RemoteSector) (d : DrawPlace) : List (HopRecord × Nat) → Basket → Except SampleFault Basket
  | [], b => pure b
  | (hop, i) :: rest, b => do
    let d := { d with hop := i + 1 }
    let src := b.lists.getLastD []
    let before := b.trail.length
    let x ← if d.desc.method = 3 then s.layerHop m remote d hop src b else s.nodeHop m remote d hop src.zipIdx b []
    let b : Basket := { x.1 with lists := x.1.lists ++ [x.2], trails := x.1.trails ++ [x.1.trail.length - before] }
    if b.clipHop ≠ 0 then pure b else s.hops m remote d rest { b with done := i + 1 }

/-! ### Seeds (R196–R201) -/

/-- Seeds of a training micro-batch from the accepted block (R142, R196). -/
def State.blockSeeds (s : State) (m : MicroBatch) (ring seeds : Nat) : List Nat :=
  match s.run.block, s.operand ring with
  | some b, some x =>
    (List.range (min b.seeds seeds)).map fun i =>
      field (s.placeNum ((s.rowPlace none 0 ring x b.row).plus (64 + 8 * (m.mb * b.seeds + i))) 8) 0 40
  | _, _ => []

/-- Seeds of a cursor's basket (R197–R199). -/
def State.cursorSeeds (s : State) (m : MicroBatch) (b : BasketDesc) (stream : Nat) : List Nat :=
  match s.operand b.seedList with
  | none => []
  | some x =>
    let epoch := field m.dataPos 48 16
    let k := field m.dataPos 0 36
    (List.range (b.seeds + 1)).map fun i =>
      let j := permute b.jobSeed epoch s.rank stream x.m (k * (b.seeds + 1) + i)
      field (s.placeNum (s.rowPlace none 0 b.seedList x j) 8) 0 40

/-- The basket of a micro-batch (R213). -/
def State.sampleBasket (s : State) (m : MicroBatch) (o : Op) (desc : BasketDesc) (ring : Nat) (remote : List RemoteSector) :
    Except SampleFault Basket :=
  let seeds := if o.eval then s.cursorSeeds m desc 3 else if s.slotCfg.header.seedSource then s.cursorSeeds m desc 1
    else s.blockSeeds m ring (desc.seeds + 1)
  let first : Basket := ⟨[seeds.map fun n => (n, s.remoteNode desc n)], [], [], 0, 0, [], 0, 0⟩
  s.hops m remote ⟨desc, m.dataPos, if o.eval then 2 else 0, 0, 0⟩ (desc.hop.zipIdx.take (desc.hops + 1)) first

/-- The basket record (R193). -/
def Basket.record (b : Basket) (m : MicroBatch) : Nat :=
  pack ([(1, 4), (bit (b.clipHop != 0), 1), (b.clipHop, 3), (b.done, 3), (0, 5), (m.basket, 16), (0, 32), (m.dataPos, 64), (m.step, 48), (0, 16)] ++
    ((List.range 5).map fun k => ((b.lists.getD k []).length, 32)) ++ ((List.range 4).map fun k => (b.trails.getD k 0, 32)) ++
    [(b.remote, 32)])

/-- Write a basket: node entries, trail entries, then the record (R192–R195). -/
def State.writeBasket (s : State) (m : MicroBatch) (lists trail : Nat) (b : Basket) : State :=
  match s.operand lists, s.operand trail with
  | some l, some t =>
    let place := s.rowPlace (some m) 0 lists l 0
    let node (n : Nat × Bool) : List Byte := leBytes (n.1 + bit n.2 * 2 ^ 63) 8
    let s := s.placeStore (place.plus 64) (b.lists.flatten.flatMap node) false
    let s := s.placeStore (s.rowPlace (some m) 0 trail t 0) (b.trail.flatMap fun e => leBytes e 16) false
    s.placeStore place (leBytes (b.record m) 64) false
  | _, _ => s

/-- A dropped basket (R166, R522): calls made count, a poisoned read of this device counts, the fault names context, table, node. -/
def State.dropSample (s : State) (c : CtxId) (f : SampleFault) : State :=
  let s : State := { s with rambler := modifyAt s.rambler c.region.val fun r => { r with candidates := addN r.candidates f.calls } }
  let s := f.range.elim s fun x => s.noteReads x.1 x.2 (s.nameOf c)
  (s.dropFor c f.code (nodeDetail f.node f.table)).settle

/-- A basket waits for a sector of another device (R211): it is asked for, and with no reply 4,096 positions on the micro-batch is dropped with
0x0A1, which counts as a time-out (R231, R248, R522). -/
def State.awaitSector (s : State) (c : CtxId) (addr : Nat) : State :=
  match s.gather.sectors.find? fun x => x.ctx == c && x.addr == addr with
  | none => s.onGather fun g => { g with sectors := g.sectors ++ [⟨c, addr, s.dialTime⟩] }
  | some x => if s.dialTime < x.sent + 4096 then s else s.timeOut c

/-- R33, R121, R122, R135, R142, R158, R159, R162, R165–R167, R170, R183, R189–R213, R217, R522. `remote` holds the sectors of other devices
that have come. A region whose lookups stall samples nothing meanwhile (R165). -/
def execSample (ctx : CtxId) (remote : List RemoteSector) (s : State) : Out :=
  .next <| s.runItem ctx false fun t o s =>
    if s.tables.stalled.contains ctx.region then s else
    match o.body, s.itemMb t with
    | .sample basket seeds lists trail, some m =>
      match s.sampleBasket m o (s.slotCfg.basketOf basket) seeds remote with
      | .error f => if f.code = 0 then s.awaitSector ctx f.sector else (s.dropSample ctx f).draw
      | .ok b =>
        let s := (s.writeBasket m lists trail b).draw
        let s := b.defaults.foldl (fun s id => s.countDefault id) s
        let s : State := { s with rambler := modifyAt s.rambler ctx.region.val fun r => { r with
          baskets := r.baskets + 1, clipped := addN r.clipped (bit (b.clipHop != 0)), edges := addN r.edges b.trail.length
          candidates := addN r.candidates b.calls, remoteEdges := addN r.remoteEdges b.remote } }
        s.finish ctx
    | _, _ => s

end Sys2Proof.Machine
end

