-- ==== Sys2Proof/Machine/Roles.lean ====
section
/-! DEFINITION. Work items of the control cores: FILL (R403, R407), TABLE_SWITCH (R169), INTAKE (R142–R144, R338). -/

namespace Sys2Proof.Machine

/-! ### FILL -/

/-- Extents of a FILL's target: first key and bytes (R403); both buffers of a kind 2 operand, every region of tier 0x4. -/
def State.fillExtents (s : State) (i : Nat) (x : Operand) : List (Nat × Nat) :=
  let n := s.slotCfg.extentLen i x
  let at' (a : Nat) : List (Nat × Nat) :=
    match s.placeOf x.loc a with
    | .own k => if k / 2 ^ 48 = 4 then (List.range 4).map fun r => (k + r * 2 ^ 30, n) else [(k, n)]
    | .remote _ => []
  at' x.base ++ (if x.kind = 2 then at' x.baseB else [])

/-- Write a pattern over a range; every line it covers is clean. -/
def State.fillRange (s : State) (pattern : BitVec 64) (k n : Nat) : State :=
  let bytes := ((List.replicate (ceilDiv n 8) (leBytes pattern.toNat 8)).flatten).take n
  let s := s.store k bytes false
  s.withMem ((linesOf k n).foldl (fun m l => m.setPoison l false) s.memory.mem)

/-- R338, R402, R403, R407: the extent is written whole and its poison cleared. A FILL dispatched before it runs first. -/
def execFill (ctx : CtxId) (s : State) : Out :=
  .next <| s.runItem ctx false fun _ o s =>
    match o.body with
    | .fill target pattern =>
      if (s.memory.fill.queue.find? fun c => (s.ctx c).isSome) != some ctx then s else
      match s.operand target with
      | some x =>
        let es := s.fillExtents target x
        let s := es.foldl (fun s e => s.fillRange pattern e.1 e.2) s
        let last := (es.getLast?).elim 0 fun e => e.1 + e.2
        let s := s.onMemory fun m => { m with fill := { m.fill with
          queue := m.fill.queue.filter (· != ctx), progress := 0xFFFF, fills := m.fill.fills + 1
          position := BitVec.ofNat 48 (last % 2 ^ 48), tier := BitVec.ofNat 4 (field x.base 48 4) } }
        (s.finish ctx).runFills
      | none => s
    | _ => s

/-! ### TABLE_SWITCH -/

/-- A later TABLE_SWITCH of the table has already run in the step (R125, R169). -/
def State.laterSwitch (s : State) (j table : Nat) : Bool :=
  s.slotCfg.ops.zipIdx.any fun o => decide (j < o.2) && (match o.1.body with
    | .tableSwitch id _ => id == table
    | _ => false) && (s.partDone o.2 4094 false || s.sched.any fun r => r.contexts.any fun x => x.2.op.toNat == o.2 && x.2.state == 4)

/-- R122, R125, R169. -/
def execTableSwitch (ctx : CtxId) (s : State) : Out :=
  .next <| s.runItem ctx false fun t o s =>
    match o.body with
    | .tableSwitch table version =>
      let s := if s.laterSwitch t.op.toNat table then s else
        s.onTables fun x => { x with tables := modifyAt x.tables table fun y => { y with switchPending := true, pendingVersion := version } }
      s.finish ctx
    | _ => s

/-! ### INTAKE -/

/-- Faults of a seed block whose step has come (R18, R20, R142, R143), in bits from the row's start. -/
def seedFaults (row rowBytes : Nat) : List (Nat × Nat) :=
  let mbs := field row 16 10 + 1
  let seeds := field row 32 12 + 1
  let big := decide (rowBytes < 64 + 8 * mbs * seeds)
  let entries := if big then [] else (List.range (mbs * seeds)).flatMap fun i => rsvdFault row (512 + 64 * i + 40) 24
  genFault row ++ rsvdFault row 4 12 ++ faultIf big 16 0x003 ++ rsvdFault row 26 6 ++ rsvdFault row 44 20 ++ rsvdFault row 112 16 ++
    rsvdFault row 192 320 ++ entries

/-- The check of the ring row for the next step (R143): re-armed where no block for it stands there. -/
def State.checkRing (s : State) (c : CtxId) (t : TaskContext) (i : Nat) (x : Operand) : State :=
  let next := s.dial.step.toNat + 1
  let row := next % x.m
  let place := s.rowPlace none 0 i x row
  let n := x.rowBytes
  let v := s.placeNum place n
  let s := match place with
    | .own k => s.noteReads k n (s.nameOf c)
    | .remote _ => s
  let rearm (s : State) : State := s.setCtx c { t with state := 1, flags := t.flags &&& 0xEFFFFFFF#32 }
  if field v 64 48 ≠ next then rearm s
  else match firstFault (seedFaults v n) with
    | some code => rearm (s.logDevice code (s.nameOf c) 0 0)
    | none =>
      let s := s.onCursor 0 fun x => x.place (field v 128 64)
      (s.onRun fun r => { r with accepted := some ⟨next, field v 16 10 + 1, field v 32 12 + 1, field v 128 64, row⟩ }).finish c

/-- R18, R120, R142–R144, R328, R338. -/
def execIntake (ctx : CtxId) (s : State) : Out :=
  .next <| s.runItem ctx false fun t o s =>
    match o.body with
    | .intake ring => (s.operand ring).elim s fun x => (s.checkRing ctx t ring x).draw.settle
    | _ => s

end Sys2Proof.Machine
end

