-- ==== Sys2Proof/Machine/Tap.lean ====
section
/-! DEFINITION. The test access port (R500): which instruction is loaded and what it captures. -/

namespace Sys2Proof.Machine

/-- The device identification code (R500). -/
def idcodeValue : Nat := 0x14B313A7

/-- Instructions that drive pins are accepted only while RESET_N is low and PG_OUT is released (R500). -/
def PowerState.scanAllowed (p : PowerState) : Bool := !p.resetN && p.pgOut

/-- Load an instruction that never drives pins: `capture` goes to the selected register. -/
def State.tapLoad (s : State) (i : TapInstr) (capture : Nat) : State :=
  if s.power.stage = .off then s else
  { s with power := { s.power with tap := i, scanReg := capture, scanDrives := false } }

/-- Load an instruction that drives pins, or BYPASS where it is not accepted (R500). -/
def State.tapDrive (s : State) (i : TapInstr) (capture : Nat) : State :=
  if s.power.scanAllowed then { s with power := { s.power with tap := i, scanReg := capture, scanDrives := true } }
  else s.tapLoad .bypass 0

/-- Capture the boundary cells: their state at the pins is the environment's (a free value each time). -/
def State.captured (s : State) : Nat := Config.scanCapture s.draws

/-- R500: TRST_N low, or five TCK cycles with TMS high. IDCODE is what IEEE 1149.1 loads at reset. -/
def execTapReset (s : State) : Out := .next (s.tapLoad .idcode idcodeValue)

/-- The bypass register captures 0 (IEEE 1149.1). -/
def execBypass (s : State) : Out := .next (s.tapLoad .bypass 0)

def execIdcode (s : State) : Out := .next (s.tapLoad .idcode idcodeValue)

/-- SAMPLE/PRELOAD captures the pins and leaves them to the core. -/
def execSamplePreload (s : State) : Out := .next ((s.tapLoad .samplePreload s.captured).draw)

/-- EXTEST drives the pins from the chain and captures them. -/
def execExtest (s : State) : Out := .next ((s.tapDrive .extest s.captured).draw)

/-- EXTEST_PULSE and EXTEST_TRAIN drive AC test signals on the AC-coupled lanes (IEEE 1149.6). -/
def execExtestPulse (s : State) : Out := .next ((s.tapDrive .extestPulse s.captured).draw)

def execExtestTrain (s : State) : Out := .next ((s.tapDrive .extestTrain s.captured).draw)

/-- CLAMP drives the pins from the chain with the bypass register selected. -/
def execClamp (s : State) : Out := .next (s.tapDrive .clamp 0)

/-- HIGHZ floats the outputs with the bypass register selected. -/
def execHighz (s : State) : Out := .next (s.tapDrive .highz 0)

end Sys2Proof.Machine
end

