-- ==== Sys2Proof/Machine/Dispatch.lean ====
section
/-! DEFINITION. exec: one arm per command, each one direct call of its meaning. -/

namespace Sys2Proof.Machine

def exec (i : Instr) (s : State) : Host.Outcome State Fault Refusal :=
  match i with
  | .vinRise strap => Sys2Proof.Machine.execVinRise strap s
  | .enRise => Sys2Proof.Machine.execEnRise s
  | .baseDomainsGood => Sys2Proof.Machine.execBaseDomainsGood s
  | .enFall => Sys2Proof.Machine.execEnFall s
  | .externalReset => Sys2Proof.Machine.execExternalReset s
  | .resetNRise => Sys2Proof.Machine.execResetNRise s
  | .inputFault kind => Sys2Proof.Machine.execInputFault kind s
  | .inputReturn => Sys2Proof.Machine.execInputReturn s
  | .refclkFault => Sys2Proof.Machine.execRefclkFault s
  | .temperatureThreshold sensor celsius => Sys2Proof.Machine.execTemperatureThreshold sensor celsius s
  | .avsSample block margin => Sys2Proof.Machine.execAvsSample block margin s
  | .clockStretch block lowCycles => Sys2Proof.Machine.execClockStretch block lowCycles s
  | .telemetrySample vin iin pin joules => Sys2Proof.Machine.execTelemetrySample vin iin pin joules s
  | .identity pec => Sys2Proof.Machine.execIdentity pec s
  | .state pec => Sys2Proof.Machine.execState pec s
  | .power pec => Sys2Proof.Machine.execPower pec s
  | .thermal pec => Sys2Proof.Machine.execThermal pec s
  | .statusAddr pec offset => Sys2Proof.Machine.execStatusAddr pec offset s
  | .statusRead pec => Sys2Proof.Machine.execStatusRead pec s
  | .journalAddr pec index => Sys2Proof.Machine.execJournalAddr pec index s
  | .journalRead pec => Sys2Proof.Machine.execJournalRead pec s
  | .alertClear pec => Sys2Proof.Machine.execAlertClear pec s
  | .estop pec byte => Sys2Proof.Machine.execEstop pec byte s
  | .tapReset => Sys2Proof.Machine.execTapReset s
  | .bypass => Sys2Proof.Machine.execBypass s
  | .idcode => Sys2Proof.Machine.execIdcode s
  | .samplePreload => Sys2Proof.Machine.execSamplePreload s
  | .extest => Sys2Proof.Machine.execExtest s
  | .extestPulse => Sys2Proof.Machine.execExtestPulse s
  | .extestTrain => Sys2Proof.Machine.execExtestTrain s
  | .clamp => Sys2Proof.Machine.execClamp s
  | .highz => Sys2Proof.Machine.execHighz s
  | .startSequence f => Sys2Proof.Machine.execStartSequence f s
  | .startRestart => Sys2Proof.Machine.execStartRestart s
  | .stageOpen h => Sys2Proof.Machine.execStageOpen h s
  | .stageWrite h offset data => Sys2Proof.Machine.execStageWrite h offset data s
  | .stageCommit h => Sys2Proof.Machine.execStageCommit h s
  | .stageCommitDone => Sys2Proof.Machine.execStageCommitDone s
  | .stageDiscard h => Sys2Proof.Machine.execStageDiscard h s
  | .select h slot => Sys2Proof.Machine.execSelect h slot s
  | .start h step => Sys2Proof.Machine.execStart h step s
  | .pause h step => Sys2Proof.Machine.execPause h step s
  | .stop h step => Sys2Proof.Machine.execStop h step s
  | .eval h step => Sys2Proof.Machine.execEval h step s
  | .ckpt h step => Sys2Proof.Machine.execCkpt h step s
  | .write h addr data => Sys2Proof.Machine.execWrite h addr data s
  | .read h addr lines parity => Sys2Proof.Machine.execRead h addr lines parity s
  | .attest h nonce => Sys2Proof.Machine.execAttest h nonce s
  | .ckptData h offset object data => Sys2Proof.Machine.execCkptData h offset object data s
  | .ckptAck h bytes object => Sys2Proof.Machine.execCkptAck h bytes object s
  | .restore h source set step => Sys2Proof.Machine.execRestore h source set step s
  | .rejoin h source set step => Sys2Proof.Machine.execRejoin h source set step s
  | .statusSpaceWrite h addr data => Sys2Proof.Machine.execStatusSpaceWrite h addr data s
  | .dialAdvance cycles => Sys2Proof.Machine.execDialAdvance cycles s
  | .stepBoundary cycles => Sys2Proof.Machine.execStepBoundary cycles s
  | .beat port f => Sys2Proof.Machine.execBeat port f s
  | .beatLost => Sys2Proof.Machine.execBeatLost s
  | .rootTakeover => Sys2Proof.Machine.execRootTakeover s
  | .stretchRequest source entry step => Sys2Proof.Machine.execStretchRequest source entry step s
  | .slackReport port step value => Sys2Proof.Machine.execSlackReport port step value s
  | .reshardCompletionReport port step => Sys2Proof.Machine.execReshardCompletionReport port step s
  | .syncInEdge interval => Sys2Proof.Machine.execSyncInEdge interval s
  | .syncInLost => Sys2Proof.Machine.execSyncInLost s
  | .dispatch region cls => Sys2Proof.Machine.execDispatch region cls s
  | .instanceComplete ctx => Sys2Proof.Machine.execInstanceComplete ctx s
  | .contextTimeout ctx => Sys2Proof.Machine.execContextTimeout ctx s
  | .sample ctx remote => Sys2Proof.Machine.execSample ctx remote s
  | .gather ctx bad => Sys2Proof.Machine.execGather ctx bad s
  | .aggregate ctx order bad => Sys2Proof.Machine.execAggregate ctx order bad s
  | .transform ctx => Sys2Proof.Machine.execTransform ctx s
  | .activate ctx => Sys2Proof.Machine.execActivate ctx s
  | .normalise ctx => Sys2Proof.Machine.execNormalise ctx s
  | .loss ctx => Sys2Proof.Machine.execLoss ctx s
  | .optimize ctx sub => Sys2Proof.Machine.execOptimize ctx sub s
  | .reduce ctx => Sys2Proof.Machine.execReduce ctx s
  | .spout ctx sub accesses => Sys2Proof.Machine.execSpout ctx sub accesses s
  | .spoutBudget ctx => Sys2Proof.Machine.execSpoutBudget ctx s
  | .fill ctx => Sys2Proof.Machine.execFill ctx s
  | .tableSwitch ctx => Sys2Proof.Machine.execTableSwitch ctx s
  | .intake ctx => Sys2Proof.Machine.execIntake ctx s
  | .transformBackward ctx => Sys2Proof.Machine.execTransformBackward ctx s
  | .spoutPoolBackward ctx => Sys2Proof.Machine.execSpoutPoolBackward ctx s
  | .trailReturn ctx => Sys2Proof.Machine.execTrailReturn ctx s
  | .returnSweep => Sys2Proof.Machine.execReturnSweep s
  | .microBatchCommit mb => Sys2Proof.Machine.execMicroBatchCommit mb s
  | .stashEntry region index pre mb => Sys2Proof.Machine.execStashEntry region index pre mb s
  | .chunkIssue block cell lane parityFault basin => Sys2Proof.Machine.execChunkIssue block cell lane parityFault basin s
  | .swap block cell parityFault => Sys2Proof.Machine.execSwap block cell parityFault s
  | .basinDrain block cell segment basin => Sys2Proof.Machine.execBasinDrain block cell segment basin s
  | .rillBeat block cell flips => Sys2Proof.Machine.execRillBeat block cell flips s
  | .rowReq lgen src entries => Sys2Proof.Machine.execRowReq lgen src entries s
  | .rowReply src poison entries data => Sys2Proof.Machine.execRowReply src poison entries data s
  | .gatherTimeout tag => Sys2Proof.Machine.execGatherTimeout tag s
  | .shardMapReload region corrected => Sys2Proof.Machine.execShardMapReload region corrected s
  | .migrationCopyComplete table node => Sys2Proof.Machine.execMigrationCopyComplete table node s
  | .reshardHoldEnd => Sys2Proof.Machine.execReshardHoldEnd s
  | .reshardMoveComplete => Sys2Proof.Machine.execReshardMoveComplete s
  | .cascade port h data slots => Sys2Proof.Machine.execCascade port h data slots s
  | .presence port step entry axis engine => Sys2Proof.Machine.execPresence port step entry axis engine s
  | .cascadeNeighbourLost engine plus => Sys2Proof.Machine.execCascadeNeighbourLost engine plus s
  | .notice port step split coord cause restart entry => Sys2Proof.Machine.execNotice port step split coord cause restart entry s
  | .cascadeRestart engine => Sys2Proof.Machine.execCascadeRestart engine s
  | .memoryRead addr ctx finding => Sys2Proof.Machine.execMemoryRead addr ctx finding s
  | .memoryWrite addr bytes poisoned finding => Sys2Proof.Machine.execMemoryWrite addr bytes poisoned finding s
  | .fabricGrant arb beats fault requests => Sys2Proof.Machine.execFabricGrant arb beats fault requests s
  | .regulatorWindow => Sys2Proof.Machine.execRegulatorWindow s
  | .ceLogUpdate ctl offset chip kind => Sys2Proof.Machine.execCeLogUpdate ctl offset chip kind s
  | .ceLogUpdateDropped ctl offset => Sys2Proof.Machine.execCeLogUpdateDropped ctl offset s
  | .ceBucketLeak => Sys2Proof.Machine.execCeBucketLeak s
  | .scrubTick => Sys2Proof.Machine.execScrubTick s
  | .scrubRead ctl finding => Sys2Proof.Machine.execScrubRead ctl finding s
  | .codewordReceive port uncorrectable seq crc flits => Sys2Proof.Machine.execCodewordReceive port uncorrectable seq crc flits s
  | .linkCtl port nak ackSeq credits => Sys2Proof.Machine.execLinkCtl port nak ackSeq credits s
  | .replayAckTimeout port => Sys2Proof.Machine.execReplayAckTimeout port s
  | .fastRetrainDone port ok => Sys2Proof.Machine.execFastRetrainDone port ok s
  | .laneLossOfLock port lane => Sys2Proof.Machine.execLaneLossOfLock port lane s
  | .negotiate port f => Sys2Proof.Machine.execNegotiate port f s
  | .calibrate port lane tap move reply => Sys2Proof.Machine.execCalibrate port lane tap move reply s
  | .laneMap port map atSeq ack => Sys2Proof.Machine.execLaneMap port map atSeq ack s
  | .memWrite src addr hkTag data => Sys2Proof.Machine.execMemWrite src addr hkTag data s
  | .memRead src addr len hkTag => Sys2Proof.Machine.execMemRead src addr len hkTag s
  | .memData src hkTag code gen poison data => Sys2Proof.Machine.execMemData src hkTag code gen poison data s
  | .memAck src hkTag code gen => Sys2Proof.Machine.execMemAck src hkTag code gen s
  | .drain offset stepLo poison data => Sys2Proof.Machine.execDrain offset stepLo poison data s
  | .drainAck offset stepLo => Sys2Proof.Machine.execDrainAck offset stepLo s
  | .heartbeat core => Sys2Proof.Machine.execHeartbeat core s
  | .watcherRead core => Sys2Proof.Machine.execWatcherRead core s
  | .takeoverComplete core => Sys2Proof.Machine.execTakeoverComplete core s
  | .checkpointDrain => Sys2Proof.Machine.execCheckpointDrain s
  | .checkpointCopy target data => Sys2Proof.Machine.execCheckpointCopy target data s
  | .nvmeCompletion status data => Sys2Proof.Machine.execNvmeCompletion status data s
  | .nvmeCommandTimeout => Sys2Proof.Machine.execNvmeCommandTimeout s
  | .watchdogExpired unit => Sys2Proof.Machine.execWatchdogExpired unit s
  | .hangRecordTimeout => Sys2Proof.Machine.execHangRecordTimeout s
  | .resetRungComplete => Sys2Proof.Machine.execResetRungComplete s
  | .resetRungTimeout => Sys2Proof.Machine.execResetRungTimeout s
  | .wearSample readings => Sys2Proof.Machine.execWearSample readings s
  | .spareSwap => Sys2Proof.Machine.execSpareSwap s
  | .spareSwapComplete powerOk => Sys2Proof.Machine.execSpareSwapComplete powerOk s
  | .refclkReturn => Sys2Proof.Machine.execRefclkReturn s
  | .baseDomainToleranceLost => Sys2Proof.Machine.execBaseDomainToleranceLost s
  | .hangRecordCollected => Sys2Proof.Machine.execHangRecordCollected s
  | .eyeMarginScan port lane margin => Sys2Proof.Machine.execEyeMarginScan port lane margin s
  | .codewordTransmit port => Sys2Proof.Machine.execCodewordTransmit port s
  | .flashProgramDone job ok => Sys2Proof.Machine.execFlashProgramDone job ok s

end Sys2Proof.Machine
end

