-- ==== Sys2Proof/Safety.lean ====
section
/-! DEFINITION. The terms claims use: what a command leaves unchanged, part by part, and the invariants of the state. -/

namespace Sys2Proof.Machine

/-- The parts of the state; `bytes` is what the memory tiers hold, a part of `memory`. -/
inductive Part where
  | pending
  | draws
  | power
  | flash
  | start
  | staging
  | cfg
  | dial
  | logs
  | run
  | mbs
  | sched
  | cores
  | memory
  | tables
  | cursors
  | rambler
  | gather
  | train
  | blocks
  | cascade
  | links
  | resil
  | bytes
  deriving DecidableEq, Repr

/-- A part is the same in two states. -/
def Part.same (s t : State) : Part → Prop
  | .pending => t.pending = s.pending
  | .draws => t.draws = s.draws
  | .power => t.power = s.power
  | .flash => t.flash = s.flash
  | .start => t.start = s.start
  | .staging => t.staging = s.staging
  | .cfg => t.cfg = s.cfg
  | .dial => t.dial = s.dial
  | .logs => t.logs = s.logs
  | .run => t.run = s.run
  | .mbs => t.mbs = s.mbs
  | .sched => t.sched = s.sched
  | .cores => t.cores = s.cores
  | .memory => t.memory = s.memory
  | .tables => t.tables = s.tables
  | .cursors => t.cursors = s.cursors
  | .rambler => t.rambler = s.rambler
  | .gather => t.gather = s.gather
  | .train => t.train = s.train
  | .blocks => t.blocks = s.blocks
  | .cascade => t.cascade = s.cascade
  | .links => t.links = s.links
  | .resil => t.resil = s.resil
  | .bytes => t.memory.mem = s.memory.mem

/-- Every part but those named is unchanged. -/
def State.onlyIn (s t : State) (changed : List Part) : Prop := ∀ p, p ∉ changed → p.same s t

/-- A command takes its effect: it answers a next state of which `post` holds. -/
def runs (c : Instr) (s : State) (post : State → Prop) : Prop := ∃ t, exec c s = .next t ∧ post t

/-- The tiers hold bytes in their canonical form: keys strictly rising, poisoned lines strictly rising. -/
abbrev State.memoryOk (s : State) : Prop := s.memory.mem.wf = true

/-- Of the links only one port changed. -/
def State.onlyPort (s t : State) (p : Nat) : Prop :=
  (∀ q, q ≠ p → t.port q = s.port q) ∧ t.links.requests = s.links.requests ∧ t.links.held = s.links.held

/-! ### Starts (R107) -/

/-- The steps of a start after its journal scan, in order: number, and what the step does. -/
def startStages (last : Option JournalRecord) (f : StartFindings) : List (Nat × (State → StepResult)) :=
  [(0x04, stepIdentity f), (0x05, stepDirectory last), (0x06, stepVerify), (0x07, stepRollback f), (0x08, stepContent), (0x09, stepCores f),
   (0x0A, stepDomains f), (0x0B, stepStacked f), (0x0C, stepDdr last f), (0x0D, stepCxl f), (0x0E, stepLinks f), (0x0F, stepLoad f),
   (0x10, stepReady f)]

/-- Every one of a list of steps passes, run in order. -/
def State.stagesPass (s : State) (stages : List (Nat × (State → StepResult))) : Prop :=
  match stages with
  | [] => True
  | x :: l => (x.2 s).outcome ≠ 3 ∧ (s.runStep x.1 x.2).stagesPass l

/-! ### The host's requests (R437, R439) -/

/-- The device answers the host and no request with the tag waits: the Hokuano port is up, the start reached ready. -/
abbrev State.hostReady (s : State) (tag : BitVec 8) : Prop :=
  (s.port 6).state = 2 ∧ s.start.begun = true ∧ s.start.state = 1 ∧ s.start.refused = false ∧ s.tagBusy tag = false

/-- A request header without a fault, its flits as given. -/
abbrev cleanHeader (h : HkHeader) (flits : Nat) : Prop :=
  h.gen = 1 ∧ h.rsv13 = 0 ∧ h.rsv23 = false ∧ h.code = 0 ∧ h.rsv44 = 0 ∧ h.rest = none ∧ h.flits.toNat = flits ∧ flits ≤ 64

/-- A completion without data (R437): generation 1, type 0x3F, VC 0, tag in [31:24], code in [43:32]. -/
def completionPacket (tag : BitVec 8) (code : Nat) : Packet :=
  ⟨0, [BitVec.ofNat 512 (1 + 0x3F * 2 ^ 4 + tag.toNat * 2 ^ 24 + code * 2 ^ 32)]⟩

/-- A request was answered: its completion is the last packet queued at the Hokuano port, and nothing else of the links changed. -/
def State.answered (s t : State) (tag : BitVec 8) (code : Nat) : Prop :=
  t.links = (s.sendPacket 6 (completionPacket tag code)).links

/-! ### Work items (R306, R338) -/

/-- A command of a forward operation finds its work item: context `c` holds the running item `t`, and operation `k` with body `o` is the
item's own, or the next one that a backward part re-runs; its micro-batch was not dropped; `u` is the state with the copies a rerun takes. -/
def State.runsForward (s : State) (c : CtxId) (t : TaskContext) (o : Op) (k : Nat) (u : State) : Prop :=
  s.ctx c = some t ∧ t.state = 3 ∧ s.itemDropped t = false ∧ s.op k = some o ∧
    (t.part = false ∧ k = t.op.toNat ∧ u = s ∨
      t.part = true ∧ t.recompute = true ∧ s.nextRerun t = some k ∧
        ∃ m, s.itemMb t = some m ∧ (s.rerunEntries m o).any (·.poisoned) = false ∧ s.takeReruns t o = some u)

/-- A running work item, of an instance or of a backward part, whose own operation is `o`; its micro-batch was not dropped. -/
abbrev State.runsItem (s : State) (c : CtxId) (part : Bool) (t : TaskContext) (o : Op) : Prop :=
  s.ctx c = some t ∧ t.state = 3 ∧ t.part = part ∧ s.itemDropped t = false ∧ s.op t.op.toNat = some o

/-- A backward part whose reruns have run, and that reads no poisoned stash entry; `u` is the state once those entries are read. -/
def State.runsPart (s : State) (c : CtxId) (t : TaskContext) (o : Op) (m : MicroBatch) (u : State) : Prop :=
  s.runsItem c true t o ∧ (t.recompute = true → s.nextRerun t = none) ∧ s.itemMb t = some m ∧
    (s.entriesRead m t.op.toNat o).any (·.poisoned) = false ∧
    u = (s.entriesRead m t.op.toNat o).foldl (fun s e => s.noteReads (s.entryKey e) (e.pages * 4096) (s.nameOf c)) s

/-- The work item `t` has run: an instance is in state 4, a backward part notes the operation `k` it re-ran. -/
def TaskContext.ran (t : TaskContext) (k : Nat) : TaskContext := if t.part then { t with subs := t.subs ++ [k] } else { t with state := 4 }

/-- A byte lies in one of a list of ranges: first key and length. -/
def inRanges (rs : List (Nat × Nat)) (a : Nat) : Prop := ∃ r ∈ rs, r.1 ≤ a ∧ a < r.1 + r.2

/-- Of the bytes that were written, only those in the ranges changed. -/
def State.bytesOnlyIn (s t : State) (rs : List (Nat × Nat)) : Prop := ∀ a, ¬ inRanges rs a → t.memory.mem.byte? a = s.memory.mem.byte? a

/-- Ranges of this device's memory that a place of `n` bytes takes. -/
def Place.range (p : Place) (n : Nat) : List (Nat × Nat) :=
  match p with
  | .own k => [(k, n)]
  | .remote _ => []

/-- The first item whose node its table's lookup calls invalid: the code and the node (R166). -/
def State.firstInvalid (s : State) (m : MicroBatch) (t : TableDesc) (items : List ReadItem) : Option (Nat × Nat) :=
  items.findSome? fun i => match s.sourceOf t (m.versionB.contains t.id) i.node with
    | .invalid code => some (code, i.node)
    | _ => none

/-- The first item that reads a row under update (R168), or once its update has begun for a re-gather (R244). -/
def State.firstLate (s : State) (m : MicroBatch) (again : Bool) (t : TableDesc) (items : List ReadItem) : Option ReadItem :=
  if t.kind = 2 ∨ t.kind = 4 then items.find? fun i => match s.sourceOf t (m.versionB.contains t.id) i.node with
    | .own _ => if again then s.updateBegun t.id else s.isUpdating t.id
    | .remote _ => again && s.updateBegun t.id
    | _ => false
  else none

/-- A work item waits before it looks at a row: its region's lookups stall (R165), or its requests are out (R230). -/
def State.rowsStalled (s : State) (c : CtxId) : Bool := s.tables.stalled.contains c.region || s.gather.requests.any fun q => q.ctx == c

/-- A work item can take its table rows now (R164–R168, R230): its region resolves, no request is out, no node is invalid and no row is under
update. -/
def State.rowsClear (s : State) (c : CtxId) (m : MicroBatch) (again : Bool) (t : TableDesc) (items : List ReadItem) : Prop :=
  s.rowsStalled c = false ∧ s.firstInvalid m t items = none ∧ s.firstLate m again t items = none

/-- An item's row of another device has come. -/
abbrev State.rowHeld (s : State) (c : CtxId) (i : ReadItem) : Prop := ∃ x ∈ s.gather.rows, x.ctx = c ∧ x.item = i.idx

/-- Every row of another device has come. -/
def State.rowsHeld (s : State) (c : CtxId) (m : MicroBatch) (t : TableDesc) (items : List ReadItem) : Prop :=
  ∀ i ∈ items, ∀ owner, s.sourceOf t (m.versionB.contains t.id) i.node = .remote owner → s.rowHeld c i

/-- A block can start a product (R257, R258): one of its active cells has a pass of it. -/
def State.hasPass (s : State) (b : Nat) (p : Product) : Prop :=
  ∃ h a i cell q, s.shape p = some h ∧ a < h.arcs ∧ i < h.arcCells ∧ (s.block b).ranks[a * h.arcCells + i]? = some cell ∧
    (s.cellPasses h a i).head? = some q

/-- Ranges of the rows of a micro-batch's operand. -/
def State.rowRanges (s : State) (m : Option MicroBatch) (i : Nat) (x : Operand) (rows : Nat) : List (Nat × Nat) :=
  (List.range rows).flatMap fun r => (s.rowPlace m 0 i x r).range x.rowBytes

/-! ### What each command can change -/

/-- Parts that a command can change: the device loses everything but its flash at a reset or a shutdown, and a work item can drop its
micro-batch. -/
def changedBy (c : Instr) : List Part :=
  let lost : List Part := [.power, .start, .staging, .cfg, .dial, .logs, .run, .mbs, .sched, .cores, .memory, .tables, .cursors,
    .rambler, .gather, .train, .blocks, .cascade, .links, .resil, .bytes]
  match c with
  | .vinRise .. | .enRise | .baseDomainsGood | .inputReturn | .telemetrySample .. | .identity .. | .state .. | .power .. | .thermal .. |
      .statusAddr .. | .statusRead .. | .journalAddr .. | .journalRead .. | .alertClear .. | .tapReset | .bypass | .idcode | .clamp |
      .highz | .refclkReturn => [.power]
  | .enFall | .externalReset | .inputFault .. | .refclkFault | .temperatureThreshold .. | .estop .. | .startRestart | .resetRungTimeout
      | .baseDomainToleranceLost => lost
  | .resetNRise => [.power, .links]
  | .avsSample .. => [.power, .logs, .blocks, .resil]
  | .clockStretch .. => [.power, .blocks]
  | .samplePreload | .extest | .extestPulse | .extestTrain => [.draws, .power]
  | .startSequence .. => [.draws, .power, .flash, .start, .cfg, .dial, .logs, .cores, .memory, .blocks, .links, .resil, .bytes]
  | .stageOpen .. | .stageWrite .. | .stageCommit .. | .stageDiscard .. => [.staging, .logs, .links]
  | .stageCommitDone => [.flash, .start, .staging, .logs, .links]
  | .select .. | .start .. | .pause .. | .stop .. | .eval .. | .ckpt .. => [.flash, .start, .logs, .run, .mbs, .sched, .memory, .tables,
      .cursors, .rambler, .gather, .train, .blocks, .cascade, .links, .resil]
  | .write .. | .ckptData .. | .restore .. | .rejoin .. | .statusSpaceWrite .. | .memData .. | .nvmeCompletion .. => [.draws, .dial,
      .logs, .run, .mbs, .sched, .memory, .tables, .cursors, .train, .blocks, .cascade, .links, .resil, .bytes]
  | .read .. => [.draws, .dial, .logs, .memory, .blocks, .links, .resil]
  | .attest .. | .codewordReceive .. | .linkCtl .. | .replayAckTimeout .. | .fastRetrainDone .. | .negotiate .. => [.logs, .links]
  | .ckptAck .. | .drainAck .. => [.dial, .logs, .mbs, .sched, .train, .links, .resil]
  | .dialAdvance .. => [.power, .flash, .dial, .logs, .mbs, .sched, .memory, .tables, .cursors, .gather, .train, .blocks, .cascade,
      .links, .resil]
  | .stepBoundary .. => [.draws, .power, .flash, .dial, .logs, .run, .mbs, .sched, .memory, .tables, .cursors, .gather, .train, .blocks,
      .cascade, .links, .resil, .bytes]
  | .beat .. => [.dial, .logs, .mbs, .sched, .train, .links]
  | .beatLost | .rootTakeover | .syncInEdge .. | .syncInLost => [.dial, .logs]
  | .stretchRequest .. | .slackReport .. => [.dial, .logs, .links]
  | .reshardCompletionReport .. | .reshardMoveComplete => [.dial, .tables, .links]
  | .dispatch .. => [.dial, .mbs, .sched, .memory, .tables, .cursors, .train]
  | .instanceComplete .. => [.dial, .mbs, .sched, .gather, .train]
  | .contextTimeout .. => [.sched]
  | .sample .. => [.draws, .dial, .logs, .mbs, .sched, .memory, .tables, .rambler, .gather, .train, .blocks, .links, .bytes]
  | .gather .. | .aggregate .. => [.draws, .dial, .logs, .mbs, .sched, .memory, .tables, .gather, .train, .blocks, .links, .bytes]
  | .transform .. => [.draws, .dial, .logs, .mbs, .sched, .memory, .gather, .train, .blocks, .bytes]
  | .activate .. | .normalise .. | .loss .. | .transformBackward .. | .spoutPoolBackward .. | .trailReturn .. | .returnSweep => [.draws,
      .dial, .logs, .mbs, .sched, .memory, .gather, .train, .blocks, .links, .bytes]
  | .optimize .. => [.draws, .dial, .logs, .mbs, .sched, .memory, .tables, .gather, .train, .blocks, .links, .resil, .bytes]
  | .reduce .. | .cascade .. => [.draws, .dial, .logs, .mbs, .sched, .memory, .gather, .train, .cascade, .links, .resil, .bytes]
  | .spout .. => [.dial, .logs, .mbs, .sched, .memory, .tables, .gather, .train, .blocks, .links, .bytes]
  | .spoutBudget .. | .gatherTimeout .. => [.dial, .logs, .mbs, .sched, .gather, .train, .blocks]
  | .fill .. => [.dial, .mbs, .sched, .memory, .gather, .train, .bytes]
  | .tableSwitch .. => [.dial, .mbs, .sched, .tables, .gather, .train]
  | .intake .. => [.draws, .dial, .logs, .run, .mbs, .sched, .memory, .cursors, .gather, .train]
  | .microBatchCommit .. | .stashEntry .. => [.draws, .dial, .logs, .mbs, .sched, .memory, .train, .links, .bytes]
  | .chunkIssue .. | .swap .. | .rillBeat .. => [.draws, .dial, .logs, .mbs, .sched, .memory, .gather, .train, .blocks, .resil, .bytes]
  | .basinDrain .. => [.draws, .dial, .logs, .mbs, .sched, .memory, .gather, .train, .blocks, .links, .resil, .bytes]
  | .rowReq .. => [.draws, .dial, .logs, .memory, .tables, .links]
  | .rowReply .. => [.dial, .logs, .mbs, .sched, .memory, .tables, .gather, .train, .blocks, .resil, .bytes]
  | .shardMapReload .. => [.logs, .tables]
  | .migrationCopyComplete .. => [.draws, .logs, .memory, .tables, .bytes]
  | .reshardHoldEnd => [.draws, .logs, .tables, .links]
  | .presence .. => [.cascade]
  | .cascadeNeighbourLost .. => [.cascade, .links]
  | .notice .. => [.dial, .cascade, .links]
  | .cascadeRestart .. => [.dial, .logs, .mbs, .sched, .memory, .gather, .train, .cascade, .links, .resil, .bytes]
  | .memoryRead .. | .memoryWrite .. | .scrubRead .. => [.dial, .logs, .memory, .blocks, .resil, .bytes]
  | .fabricGrant .. => [.memory, .gather, .bytes]
  | .regulatorWindow | .ceLogUpdate .. | .ceLogUpdateDropped .. | .ceBucketLeak | .scrubTick => [.memory]
  | .laneLossOfLock .. => [.draws, .logs, .links]
  | .calibrate .. | .laneMap .. | .codewordTransmit .. => [.links]
  | .memWrite .. => [.dial, .logs, .mbs, .sched, .memory, .tables, .train, .links, .bytes]
  | .memRead .. => [.draws, .dial, .logs, .memory, .links]
  | .memAck .. => [.logs, .links, .resil]
  | .drain .. => [.memory, .links, .bytes]
  | .heartbeat .. => [.cores]
  | .watcherRead .. => [.dial, .logs, .cores, .resil]
  | .takeoverComplete .. => [.flash, .start, .staging, .dial, .logs, .run, .mbs, .sched, .cores, .memory, .tables, .cursors, .rambler,
      .gather, .train, .blocks, .cascade, .links, .resil]
  | .checkpointDrain => [.draws, .dial, .logs, .run, .mbs, .sched, .memory, .train, .links, .resil, .bytes]
  | .checkpointCopy .. => [.draws, .dial, .logs, .mbs, .sched, .train, .links, .resil]
  | .nvmeCommandTimeout => [.logs, .memory, .resil, .bytes]
  | .watchdogExpired .. => [.logs, .resil]
  | .hangRecordTimeout | .hangRecordCollected => [.draws] ++ lost
  | .resetRungComplete => [.dial, .mbs, .sched, .train, .blocks, .resil]
  | .wearSample .. => [.logs, .blocks, .resil]
  | .spareSwap => [.resil]
  | .spareSwapComplete .. => [.draws, .power, .logs, .memory, .blocks, .links, .resil]
  | .eyeMarginScan .. => [.draws, .logs, .blocks, .links, .resil]
  | .flashProgramDone .. => [.flash, .staging, .logs, .links]

end Sys2Proof.Machine
end

