-- ==== Sys2Proof/Certificates/Slice0/Obligations.lean ====
section
/-! DEFINITION. What the model claims, for the provers: one statement per definition. -/

open Sys2Proof Sys2Proof.Machine

/-- Power-up stages 1 to 3 and the restarts that lead into stage 2 (R476, R480, R482, R494): VIN rising brings housekeeping up and reads
the strap; EN high, an input back in range, RESET_N rising after a cleared latch and a clock that returns begin stage 2 as their holds
allow; good base domains release PG_OUT with a good clock. Only the power block changes.
Where the rules leave a choice, it rests on the model's readings of log entry 60. -/
def Obligations.PowerUpStages : Prop :=
  ∀ s : State,
    (∀ strap, s.power.stage = .off → runs (.vinRise strap) s fun t =>
      t.power.vinOk = true ∧ t.power.strap = strap ∧ t.power.on = domainMask [94] ∧
      t.power.stage = (if s.power.hold = .none ∧ s.power.en = true then .ramping else .housekeeping) ∧ s.onlyIn t [.power]) ∧
    (runs .enRise s fun t => t.power.en = true ∧
      t.power.stage = (if s.power.stage = .housekeeping ∧ s.power.hold = .none ∧ s.power.vinOk = true then .ramping else s.power.stage) ∧
      s.onlyIn t [.power]) ∧
    (s.power.stage = .ramping → runs .baseDomainsGood s fun t =>
      t.power.on = (s.power.on ||| domainMask [83, 84, 85, 86, 87, 88, 89, 90, 91, 93, 94]) ∧ t.power.xspiResetN = true ∧
      t.power.stage = (if s.power.refclkOk = true then .good else .ramping) ∧
      t.power.pgOut = (s.power.pgOut || s.power.refclkOk) ∧ s.onlyIn t [.power]) ∧
    (s.power.stage = .housekeeping → s.power.hold = .input → runs .inputReturn s fun t =>
      t.power.vinOk = true ∧ t.power.hold = .none ∧ t.power.stage = (if s.power.en = true then .ramping else .housekeeping) ∧
      s.onlyIn t [.power]) ∧
    (s.power.stage = .housekeeping → s.power.hold = .awaitReset → s.power.vinOk = true → runs .resetNRise s fun t =>
      t.power.resetN = true ∧ t.power.hold = .none ∧ t.power.stage = (if s.power.en = true then .ramping else .housekeeping) ∧
      s.onlyIn t [.power]) ∧
    (s.power.stage = .housekeeping → s.power.hold = .refclk → s.power.vinOk = true → runs .refclkReturn s fun t =>
      t.power.refclkOk = true ∧ t.power.hold = .none ∧ t.power.stage = (if s.power.en = true then .ramping else .housekeeping) ∧
      s.onlyIn t [.power])

/-- Shutdowns (R476, R482, R483, R494, R498): an EN fall, an input fault, a clock that leaves its band, a lost base domain and an emergency
stop switch off every domain but housekeeping, drive PG_OUT low, hold their cause and code, and lose what the device held; an external
reset keeps the base domains. Flash, pins held by housekeeping and the queue stay.
Where the rules leave a choice, it rests on the model's readings of log entries 32 and 60. -/
def Obligations.Shutdowns : Prop :=
  let off (cause code : Nat) (s t : State) : Prop :=
    t.power.on = s.power.on &&& domainMask [94] ∧ t.power.pgOut = false ∧ t.power.cause = BitVec.ofNat 4 cause ∧
    t.power.code = BitVec.ofNat 12 code ∧ t.start.begun = false ∧ t.start.loaded = false ∧ t.run.run = 0 ∧
    t.flash = s.flash ∧ t.pending = s.pending
  ∀ s : State,
    (s.power.stage = .good → runs .enFall s fun t => off 1 0 s t ∧ t.power.en = false ∧ t.power.stage = .housekeeping) ∧
    (s.power.stage ≠ .off → runs (.inputFault .overvoltage) s fun t => off 4 0x123 s t ∧ t.power.vinOk = false) ∧
    (s.power.stage ≠ .off → runs (.inputFault .overcurrent) s fun t => off 4 0x123 s t ∧ t.power.vinOk = false) ∧
    (s.power.stage ≠ .off → runs (.inputFault .undervoltage) s fun t =>
      t.power.on = 0 ∧ t.power.stage = .off ∧ t.power.cause = 0 ∧ t.power.code = 0 ∧ t.power.carried = 0 ∧ t.power.estop = false ∧
      t.power.pgOut = false ∧ t.start.loaded = false ∧ t.flash = s.flash ∧ t.pending = s.pending) ∧
    (s.power.pgOut = true → runs .refclkFault s fun t => off 5 0x127 s t ∧ t.power.refclkOk = false ∧ t.power.hold = .refclk) ∧
    (s.power.pgOut = true → runs .baseDomainToleranceLost s fun t => off 6 0x125 s t) ∧
    (s.power.stage ≠ .off → runs (.estop true 0xE5) s fun t =>
      off 3 0x124 s t ∧ t.power.estop = true ∧ t.power.hold = .estop ∧ t.power.en = s.power.en) ∧
    (s.power.pgOut = true → runs .externalReset s fun t =>
      t.power.resetN = false ∧ t.power.on = s.power.on &&& domainMask [83, 84, 85, 86, 87, 88, 89, 90, 91, 93, 94] ∧
      t.power.pgOut = true ∧ t.start.begun = false ∧ t.start.refused = false ∧ t.flash = s.flash ∧ t.pending = s.pending) ∧
    (s.power.pgOut = false → s.power.hold = .estop → runs .externalReset s fun t =>
      t.power.estop = false ∧ t.power.hold = .awaitReset ∧ t.power.cause = s.power.cause ∧ t.power.code = s.power.code ∧ s.onlyIn t [.power])

/-- Temperature (R491, R488), for every sensor: it holds the highest of its thresholds reached, or reached before and not 5 °C below; 95 and 100 °C
of a logic sensor (90 and 95 °C of a slice) warn and throttle, 85 °C doubles a slice's refresh, 110 °C (105 °C) shuts the module down. Block voltage, clock
stretching and telemetry (R487, R488, R499): every sample moves the rail by its margin, the 1,000th at the limit marks the block; a stretch episode lasts
its cycles and 16 more; a telemetry sample takes the input and, with its role's core, the hottest sensors.
Where the rules leave a choice, it rests on the model's readings of log entry 60. -/
def Obligations.PowerMonitors : Prop :=
  ∀ s : State,
    (∀ (sensor : Sensor) (celsius : BitVec 8),
      let limits : List Nat := match sensor with
        | .slice _ => [85, 90, 95, 105]
        | _ => [256, 95, 100, 110]
      let old := (s.power.sensorState sensor).level
      let reached (l : Nat) : Bool := limits.getD (l - 1) 0 ≤ celsius.toNat || (l ≤ old && limits.getD (l - 1) 0 ≤ celsius.toNat + 5)
      let level := if reached 3 then 3 else if reached 2 then 2 else if reached 1 then 1 else 0
      let warned := if s.start.begun = true ∧ 2 ≤ level ∧ old < 2 then s.logDevice 0x120 noName 0 0 else s
      (celsius.toNat < limits.getD 3 0 ∨ s.power.stage = .off ∨ s.power.stage = .housekeeping →
        runs (.temperatureThreshold sensor celsius) s fun t =>
          t.power.sensorState sensor = ⟨sensor, celsius, level⟩ ∧
          (∀ other, other ≠ sensor → t.power.sensorState other = s.power.sensorState other) ∧
          t.power.thermN = (!s.power.thermLatch && !t.power.sensors.any fun x => decide (3 ≤ x.level)) ∧
          t.power.alert = (decide (2 ≤ level ∧ old < 2) || s.power.alert && t.power.sensors.any fun x => decide (2 ≤ x.level)) ∧
          t.logs = (if s.start.begun = true ∧ 3 ≤ level ∧ old < 3 then warned.logDevice 0x121 noName 0 0 else warned).logs ∧
          (∀ (b : Block) (x : BlockPower), sensor = .block b → s.power.blocks[b.val]? = some x → t.memory = s.memory ∧
            t.power.blocks = s.power.blocks.set b.val { x with tj := celsius, throttled := x.on && decide (3 ≤ level) }) ∧
          (∀ (i : Fin 16) (x : ControllerState), sensor = .slice i → s.memory.controllers[i.val]? = some x → t.power.blocks = s.power.blocks ∧
            t.memory = { s.memory with controllers := s.memory.controllers.set i.val { x with refreshDoubled := decide (1 ≤ level) } }) ∧
          ((sensor = .linkDie ∨ ∃ r, sensor = .fabric r) → t.power.blocks = s.power.blocks ∧ t.memory = s.memory) ∧
          s.onlyIn t [.power, .logs, .memory]) ∧
      (limits.getD 3 0 ≤ celsius.toNat → s.power.stage = .ramping ∨ s.power.stage = .good →
        runs (.temperatureThreshold sensor celsius) s fun t =>
          t.power.on = s.power.on &&& domainMask [94] ∧ t.power.pgOut = false ∧ t.power.cause = 2 ∧ t.power.code = 0x122 ∧
          t.power.stage = .housekeeping ∧ t.power.hold = .thermal ∧ t.power.thermN = false ∧ t.start.begun = false ∧ t.start.loaded = false ∧
          t.run.run = 0 ∧ t.flash = s.flash ∧ t.pending = s.pending)) ∧
    (∀ (b : Block) (m : BitVec 8) (x : BlockPower), s.power.blocks[b.val]? = some x →
      let y : BlockPower :=
        if m.toNat < 5 then { x with
          margin := m, mv := if x.mv.toNat ≤ 845 then x.mv + 5 else x.mv, highRun := 0
          limitRun := if 850 ≤ x.mv.toNat then x.limitRun + 1 else 0 }
        else if m.toNat ≤ 8 then { x with margin := m, highRun := 0, limitRun := 0 }
        else if x.highRun < 9 then { x with margin := m, highRun := x.highRun + 1, limitRun := 0 }
        else { x with margin := m, mv := if 655 ≤ x.mv.toNat then x.mv - 5 else x.mv, highRun := 0, limitRun := 0 }
      (x.on = false → runs (.avsSample b m) s fun t => t = s) ∧
      (x.on = true → runs (.avsSample b m) s fun t => t.power = { s.power with blocks := s.power.blocks.set b.val y } ∧
        (y.limitRun < 1000 → s.onlyIn t [.power]) ∧
        (y.limitRun = 1000 → t.logs.errorCounts[0x126]? = (s.logs.errorCounts[0x126]?).map (satAdd · 1)) ∧
        (1000 ≤ y.limitRun → s.roleUp 3 = true → t.isMarked 1 (blockUnit b.val) 0 = true) ∧
        s.onlyIn t [.power, .logs, .blocks, .resil])) ∧
    (∀ (b : Block) (n : Nat) (x : BlockPower), s.power.blocks[b.val]? = some x →
      (x.on = true → x.throttled = false → runs (.clockStretch b n) s fun t =>
        t.power = { s.power with
          blocks := s.power.blocks.set b.val { x with stretched := x.stretched + BitVec.ofNat 32 (n + 16) } } ∧ s.onlyIn t [.power]) ∧
      (x.on = false ∨ x.throttled = true → runs (.clockStretch b n) s fun t => t = s)) ∧
    (∀ (vin iin pin : BitVec 16) (joules : Nat),
      let whole := s.start.loaded = false ∨ s.roleUp 6 = true
      let hottest (slices : Bool) : Nat := ((s.power.sensors.filter fun x => isSlice x.sensor == slices).map (·.celsius.toNat)).foldl max 0
      s.power.stage ≠ .off → runs (.telemetrySample vin iin pin joules) s fun t =>
        t.power.telem.vin = vin ∧ t.power.telem.iin = iin ∧ t.power.telem.pin = pin ∧
        t.power.telem.energy = s.power.telem.energy + BitVec.ofNat 48 joules ∧ 
        t.power.telem.pinPeak = (if s.power.telem.pinPeak < pin then pin else s.power.telem.pinPeak) ∧
        (whole → t.power.telem.sampled = s.dial.ns ∧ t.power.telem.tjMax.toNat = hottest false ∧ t.power.telem.stackMax.toNat = hottest true) ∧
        (¬ whole → t.power.telem.sampled = s.power.telem.sampled ∧ t.power.telem.tjMax = s.power.telem.tjMax ∧
          t.power.telem.stackMax = s.power.telem.stackMax) ∧
        t.power = { s.power with telem := t.power.telem } ∧ s.onlyIn t [.power])

/-- SMBus reads (R496, R497): with housekeeping on and a right PEC, each answers the data its row names; the two read commands advance their pointers;
POWER starts the peak again. SMBus writes (R492, R497, R498): pointers take their operands, ALERT_CLEAR releases the alert. A bad PEC, a JOURNAL_READ while
a flash program runs and an ESTOP byte other than 0xE5 are not acknowledged. Nothing outside the sideband changes.
Where the rules leave a choice, it rests on the model's readings of log entries 60 and 61. -/
def Obligations.SidebandRequests : Prop :=
  ∀ s : State, s.power.stage ≠ .off →
    (runs (.identity true) s fun t => s.onlyIn t [.power] ∧ t.power = { s.power with
      reply := some (padTo 32 (leBytes 0xA1 1 ++ leBytes orderingCode 7 ++ leBytes s.start.fingerprint.toNat 8 ++ leBytes s.startState 1)) }) ∧
    (runs (.state true) s fun t => s.onlyIn t [.power] ∧ t.power = { s.power with 
      reply := some (leBytes s.startStatus 8 ++ leBytes s.jobStatus 8 ++ leBytes s.sidebandState 8 ++ leBytes s.dialNow 8) }) ∧
    (runs (.power true) s fun t => s.onlyIn t [.power] ∧
      t.power = { s.power with reply := some (leBytes s.pwrTelem 32), telem := { s.power.telem with pinPeak := 0 } }) ∧
    (runs (.thermal true) s fun t => s.onlyIn t [.power] ∧ ∃ slices fabrics, slices.length = 16 ∧ fabrics.length = 4 ∧
      t.power = { s.power with reply := some (s.power.blocks.map (·.tj) ++ slices ++ fabrics) } ∧
      (∀ i : Fin 16, slices[i.val]? = some (s.power.sensorState (.slice i)).celsius) ∧
      (∀ r : Region, fabrics[r.val]? = some (s.power.sensorState (.fabric r)).celsius)) ∧
    (runs (.statusRead true) s fun t => s.onlyIn t [.power] ∧ t.power = { s.power with
      statusPtr := s.power.statusPtr + 32
      reply := some (if s.start.loaded = true ∨ s.start.refused = true then s.statusSample s.power.statusPtr.toNat else List.replicate 32 0) }) ∧
    (s.staging.busy = [] → runs (.journalRead true) s fun t => s.onlyIn t [.power] ∧ t.power = { s.power with
      journalPtr := s.power.journalPtr + 1
      reply := some (((s.flash.journal.filterMap id).reverse[s.power.journalPtr.toNat]?).elim (List.replicate 32 0) JournalRecord.bytes) }) ∧
    (s.staging.busy ≠ [] → runs (.journalRead true) s fun t => t.power = { s.power with reply := none } ∧ s.onlyIn t [.power]) ∧
    (∀ offset, runs (.statusAddr true offset) s fun t => t.power = { s.power with statusPtr := offset, reply := some [] } ∧ s.onlyIn t [.power]) ∧
    (∀ index, runs (.journalAddr true index) s fun t => t.power = { s.power with journalPtr := index, reply := some [] } ∧ s.onlyIn t [.power]) ∧
    (runs (.alertClear true) s fun t => t.power = { s.power with alert := false, reply := some [] } ∧ s.onlyIn t [.power]) ∧
    (∀ pec byte, (pec = false ∨ byte ≠ 0xE5) → runs (.estop pec byte) s fun t =>
      t.power = { s.power with reply := none } ∧ s.onlyIn t [.power]) ∧
    (∀ (offset : BitVec 32) (c : Instr), c ∈ [Instr.identity false, .state false, .power false, .thermal false, .statusAddr false offset, .statusRead false,
        .journalAddr false offset, .journalRead false, .alertClear false] →
      runs c s fun t => t.power = { s.power with reply := none } ∧ s.onlyIn t [.power])

/-- Boundary scan (R500): BYPASS, IDCODE and SAMPLE/PRELOAD always load; the instructions that drive pins load only while RESET_N is low and
PG_OUT is released, and otherwise load as BYPASS; the port's reset loads IDCODE (DEDUCED, log entry 3). -/
def Obligations.BoundaryScan : Prop :=
  ∀ s : State, s.power.stage ≠ .off →
    let loads (i : TapInstr) (drives : Bool) (t : State) : Prop := t.power.tap = i ∧ t.power.scanDrives = drives ∧
      t.power = { s.power with tap := t.power.tap, scanReg := t.power.scanReg, scanDrives := t.power.scanDrives } ∧ s.onlyIn t [.power, .draws]
    (runs .bypass s (loads .bypass false)) ∧
    (runs .idcode s fun t => loads .idcode false t ∧ t.power.scanReg = 0x14B313A7) ∧
    (runs .tapReset s fun t => loads .idcode false t ∧ t.power.scanReg = 0x14B313A7) ∧
    (runs .samplePreload s (loads .samplePreload false)) ∧
    (s.power.resetN = false → s.power.pgOut = true →
      runs .extest s (loads .extest true) ∧ runs .extestPulse s (loads .extestPulse true) ∧ runs .extestTrain s (loads .extestTrain true) ∧
      runs .clamp s (loads .clamp true) ∧ runs .highz s (loads .highz true)) ∧
    (s.power.resetN = true ∨ s.power.pgOut = false →
      runs .extest s (loads .bypass false) ∧ runs .extestPulse s (loads .bypass false) ∧ runs .extestTrain s (loads .bypass false) ∧
      runs .clamp s (loads .bypass false) ∧ runs .highz s (loads .bypass false))

/-- A start begins only with PG_OUT released, RESET_N high and no start begun (R480, R482). Where ROM and flash answer it runs the steps of R107 in order,
each recorded, and is ready if and only if every step passes; at the limit of failed starts it enters refusal mode with 0x062 (R113); an early failure is
carried, and the fourth such start enters refusal mode (R107, R111, R113). After a failed start the device resets itself (R112, R481): PG_OUT stays
released, the base and port domains stay on, the flash stays.
Where the rules leave a choice, it rests on the model's readings of log entries 7 and 32. -/
def Obligations.Starts : Prop :=
  (∀ (s : State) (f : StartFindings), s.power.stage = .good → s.power.resetN = true → s.start.begun = false →
    let u : State := { s with start := { StartState.reset with begun := true } }
    let stages := startStages (if s.power.carried = 0 then u.lastFailure else none) f
    let read := (stages.take 2).foldl (fun v x => v.runStep x.1 x.2) u.scanJournal
    let limit := refuseAfter (read.flash.image read.start.slot)
    (runs (.startSequence f) s fun t =>
      t.start.begun = true ∧ (t.start.state = 1 ∨ t.start.state = 3 ∨ t.start.state = 4) ∧ (t.start.refused = true ↔ t.start.state = 3) ∧
      (t.start.state = 1 → t.start.loaded = true ∧ t.start.progress = 0xFFFF ∧ t.start.step = 0x10) ∧ t.pending = s.pending ∧ t.run = s.run) ∧
    (earlyFailure u f = none → s.power.carried.toNat < 3 → read.start.state ≠ 0 ∨ read.start.failedRun.toNat < limit →
      runs (.startSequence f) s fun t => t = stages.foldl (fun v x => v.runStep x.1 x.2) u.scanJournal ∧
        (t.start.state = 1 ↔ u.scanJournal.stagesPass stages)) ∧
    (earlyFailure u f = none → read.start.state = 0 → 3 ≤ s.power.carried.toNat ∨ limit ≤ read.start.failedRun.toNat →
      runs (.startSequence f) s fun t => t.start.state = 3 ∧ t.start.refused = true ∧ t.start.step = 5 ∧
        (∃ r, t.start.records = read.start.records ++ [r] ∧ r.step = 5 ∧ r.outcome = 5 ∧ r.code = 0x062)) ∧
    (∀ step code, earlyFailure u f = some (step, code) →
      (s.power.carried.toNat < 3 → runs (.startSequence f) s fun t =>
        t.start.state = 4 ∧ t.start.step = BitVec.ofNat 8 step ∧ t.power.carryStep = BitVec.ofNat 8 step ∧
        t.power.carryCode = BitVec.ofNat 12 code ∧ t.power.carried = s.power.carried + 1 ∧ t.flash = s.flash) ∧
      (3 ≤ s.power.carried.toNat → runs (.startSequence f) s fun t => t.start.state = 3 ∧ t.start.refused = true ∧ t.flash = s.flash))) ∧
  (∀ s : State, s.start.begun = true → s.start.state = 4 → runs .startRestart s fun t =>
    t.start = StartState.reset ∧ t.power.pgOut = s.power.pgOut ∧ t.power.stage = s.power.stage ∧
    t.power.on = s.power.on &&& domainMask [83, 84, 85, 86, 87, 88, 89, 90, 91, 93, 94, 64, 65, 66, 67, 68, 69, 70] ∧
    t.flash = s.flash ∧ t.pending = s.pending ∧ t.memory = MemState.reset)

/-- Staging (R114, R115): open erases the inactive slot, writes go to it at their offset, commit begins the verification, discard ends the
session; each owes its completion when its flash work ends. Only the staging state changes.
Where the rules leave a choice, it rests on the model's readings of log entries 33 and 35. -/
def Obligations.StagingRequests : Prop :=
  ∀ (s : State) (h : HkHeader), s.hostReady h.tag → s.roleUp 1 = true →
    (cleanHeader h 0 → s.staging.open_ = false → runs (.stageOpen h) s fun t =>
      t.staging = { s.staging with
        open_ := true, phase := 1, code := 0, progress := 0, bytes := 0
        busy := s.staging.busy ++ [⟨.stageErase, some h.tag, s.inactiveSlot, 0, []⟩] } ∧ s.onlyIn t [.staging]) ∧
    (∀ (offset : BitVec 32) (data : List Flit), cleanHeader h data.length → data.length % 4 = 0 → data ≠ [] → offset.toNat % 256 = 0 →
      s.staging.open_ = true → s.staging.phase = 1 → offset.toNat + 64 * data.length ≤ 28 * 2 ^ 20 → runs (.stageWrite h offset data) s fun t =>
        t.staging = { s.staging with
          busy := s.staging.busy ++ [⟨.stageWrite, some h.tag, s.inactiveSlot, offset.toNat, data.flatMap flitBytes⟩] } ∧ s.onlyIn t [.staging]) ∧
    (cleanHeader h 0 → s.staging.open_ = true → s.staging.phase = 1 → runs (.stageCommit h) s fun t =>
      t.staging = { s.staging with phase := 2, progress := 0, commitTag := some h.tag } ∧ s.onlyIn t [.staging]) ∧
    (cleanHeader h 0 → s.staging.commitTag = none → runs (.stageDiscard h) s fun t =>
      t.staging = { s.staging with
        open_ := false, phase := 0, progress := 0, commitTag := none
        busy := s.staging.busy ++ [⟨.discard, some h.tag, false, 0, []⟩] } ∧ s.onlyIn t [.staging])

/-- The end of a commit's verification (R114, R116): staged bytes that pass make the inactive slot pending in a newer directory record, clear
the failed-start count and drop the training memo; bytes that do not leave the flash as it was and their code in STAGE_STATUS. Either way
the commit completes with 0x000 (log entry 31). The end of a flash program (R115, R497): an erase empties its slot, a write puts its bytes there, a program that failed leaves the flash
as it was; the completion owed carries 0x000 or 0x066. -/
def Obligations.FlashWorkEnds : Prop :=
  (∀ (s : State) (tag : BitVec 8), s.staging.commitTag = some tag → s.staging.busy = [] → runs .stageCommitDone s fun t =>
    t.staging.open_ = false ∧ t.staging.commitTag = none ∧ s.answered t tag 0 ∧
    match s.checkStaged with
    | none =>
      t.staging.phase = 3 ∧ t.staging.progress = 0xFFFF ∧ t.start.failedRun = 0 ∧ t.flash.failedFrom = s.start.startCount.toNat + 1 ∧ t.flash.memo = none ∧
      t.flash.slot0 = s.flash.slot0 ∧ t.flash.slot1 = s.flash.slot1 ∧
      (∃ d, (t.flash.dir0 = some d ∨ t.flash.dir1 = some d) ∧ d.pending = some s.inactiveSlot ∧ d.active = !s.inactiveSlot) ∧
      s.onlyIn t [.staging, .flash, .start, .links]
    | some code => t.staging.phase = 4 ∧ t.staging.code = BitVec.ofNat 12 code ∧ s.onlyIn t [.staging, .logs, .links]) ∧
  (∀ (s : State) (w : FlashWork) (rest : List FlashWork), s.staging.busy = w :: rest →
    let owed (t : State) (code : Nat) : Prop := (∀ tag, w.tag = some tag → s.answered t tag code) ∧ (w.tag = none → t.links = s.links)
    let other (t : State) : Prop := ∀ a, t.flash.image (!w.slot) a = s.flash.image (!w.slot) a
    let unpending (t : State) : Prop := ∀ d slot, s.flash.directory = some d → d.pending = some slot →
      t.flash.dir0 = some ⟨d.active, none, d.seq + 1⟩ ∨ t.flash.dir1 = some ⟨d.active, none, d.seq + 1⟩
    (runs (.flashProgramDone w.job false) s fun t =>
      t.staging = { s.staging with busy := rest } ∧ t.flash = s.flash ∧ owed t 0x066 ∧ s.onlyIn t [.staging, .logs, .links]) ∧
    (w.job = .stageErase → runs (.flashProgramDone .stageErase true) s fun t =>
      (∀ a, t.flash.image w.slot a = 0xFF) ∧ other t ∧ unpending t ∧
      t.staging = { s.staging with busy := rest } ∧ owed t 0 ∧ s.onlyIn t [.staging, .flash, .links]) ∧
    (w.job = .stageWrite → runs (.flashProgramDone .stageWrite true) s fun t =>
      (∀ i b, w.bytes[i]? = some b → t.flash.image w.slot (w.offset + i) = b.toNat) ∧
      (∀ a, a < w.offset ∨ w.offset + w.bytes.length ≤ a → t.flash.image w.slot a = s.flash.image w.slot a) ∧ other t ∧
      t.staging = { s.staging with busy := rest, bytes := s.staging.bytes + BitVec.ofNat 32 w.bytes.length } ∧ owed t 0 ∧
      s.onlyIn t [.staging, .flash, .links]) ∧
    (w.job = .discard → runs (.flashProgramDone .discard true) s fun t =>
      (∀ slot a, t.flash.image slot a = s.flash.image slot a) ∧ unpending t ∧
      t.staging = { s.staging with busy := rest } ∧ owed t 0 ∧ s.onlyIn t [.staging, .flash, .links]) ∧
    (∀ job ∈ [FlashJob.directory, .journal, .repairJournal], w.job = job → runs (.flashProgramDone job true) s fun t =>
      t.staging = { s.staging with busy := rest } ∧ owed t 0 ∧ s.onlyIn t [.staging, .links]))

/-- Run commands of the host (R145, R146): SELECT takes a slot in the ready and halted states; START, PAUSE, STOP, EVAL and CKPT are held
with their target steps, a STOP while paused stops the slot at once; each completes with
0x000.
Where the rules leave a choice, it rests on the model's readings of log entries 35 and 36. -/
def Obligations.RunCommands : Prop :=
  ∀ (s : State) (h : HkHeader), s.hostReady h.tag → cleanHeader h 0 → s.roleUp 5 = true →
    (∀ slot, s.selectFaults slot.toNat = [] → runs (.select h slot) s fun t =>
      t.run.run = 1 ∧ t.run.slot = slot ∧ t.run.c = t.slotCfg.header.mbInit + 1 ∧ t.run.pauseAt = none ∧ t.mbs = [] ∧
      t.train.weirMu = 0 ∧ t.train.weirSigma = 0 ∧ t.train.weirClean = 0 ∧ t.train.stash = [] ∧
      t.memory.mem = s.memory.mem ∧ s.answered t h.tag 0 ∧ t.flash = s.flash ∧ t.power = s.power ∧ t.cfg = s.cfg ∧ t.dial = s.dial) ∧
    (∀ step : BitVec 48, s.run.run = 1 ∨ s.run.run = 3 → s.dial.locked = true → s.dial.step.toNat + 2 ≤ step.toNat →
      runs (.start h step) s fun t => t.run = { s.run with startAt := some step } ∧ s.answered t h.tag 0 ∧ s.onlyIn t [.run, .links]) ∧
    (∀ step : BitVec 48, s.run.run = 2 → s.dial.step.toNat < step.toNat →
      (s.run.pauseAt = none → runs (.pause h step) s fun t =>
        t.run = { s.run with pauseAt := some step } ∧ s.answered t h.tag 0 ∧ s.onlyIn t [.run, .links]) ∧
      (s.run.stopAt = none → runs (.stop h step) s fun t =>
        t.run = { s.run with stopAt := some step } ∧ s.answered t h.tag 0 ∧ s.onlyIn t [.run, .links]) ∧
      (s.run.evalAt = none → s.slotCfg.header.evalValid = true → runs (.eval h step) s fun t =>
        t.run = { s.run with evalAt := some step } ∧ s.answered t h.tag 0 ∧ s.onlyIn t [.run, .links]) ∧
      (s.run.ckptAt = none → s.slotCfg.header.ckptValid = true → runs (.ckpt h step) s fun t =>
        t.run = { s.run with ckptAt := some step } ∧ s.answered t h.tag 0 ∧ s.onlyIn t [.run, .links])) ∧
    (∀ step : BitVec 48, s.run.run = 3 → runs (.stop h step) s fun t =>
      t.run.run = 4 ∧ t.run.stopCause = 1 ∧ t.run.held = none ∧ t.run.startAt = none ∧ t.memory = s.memory ∧
      (s.run.held = none → s.answered t h.tag 0 ∧ s.onlyIn t [.run, .links]))

/-- A request whose header or address breaks a rule is completed with the fault of lowest bit position and changes nothing else (R439): a
generation other than 1, a reserved field that is not zero, a tag that waits.
Where the rules leave a choice, it rests on the model's readings of log entries 33 and 34. -/
def Obligations.RequestFaults : Prop :=
  ∀ (s : State) (h : HkHeader) (slot : BitVec 2), (s.port 6).state = 2 → s.start.begun = true → s.start.state = 1 → s.start.refused = false →
    h.flits.toNat ≤ 64 → h.rsv13 = 0 → h.flits = 0 → h.code = 0 → h.rsv44 = 0 → h.rest = none →
    (h.gen ≠ 1 → runs (.select h slot) s fun t => s.answered t h.tag 0x004 ∧ s.onlyIn t [.links, .logs]) ∧
    (h.gen = 1 → h.rsv23 = true → runs (.select h slot) s fun t => s.answered t h.tag 0x001 ∧ s.onlyIn t [.links, .logs]) ∧
    (h.gen = 1 → h.rsv23 = false → s.tagBusy h.tag = true → runs (.select h slot) s fun t =>
      s.answered t h.tag 0x109 ∧ s.onlyIn t [.links, .logs])

/-- WRITE and READ (R37, R40, R261, R438, R440): of this device's tiers, a write stores its lines, clean, from the address upward and nothing
outside them, and completes with 0x000; a read queues its lines, or those of the status space, as data on VC 1 and stores nothing; failing words of an
operand store are counted. Of another device's, the request goes there and its tag waits. ATTEST answers with five data flits (R99).
Where the rules leave a choice, it rests on the model's readings of log entries 6 and 9. -/
def Obligations.HostAccess : Prop :=
  (∀ (s : State) (h : HkHeader) (addr : Word), s.hostReady h.tag → coordOf addr.toNat ≠ s.coord → field addr.toNat 48 4 < 4 →
    let target := coordOf addr.toNat
    (∀ data : List Flit, data ≠ [] → cleanHeader h data.length → s.hkAddrFaults addr data.length = [] → runs (.write h addr data) s fun t =>
      t.links.requests = s.links.requests ++ [⟨h.tag, false, target, data.length⟩] ∧ s.onlyIn t [.links]) ∧
    (∀ (lines : BitVec 6) (parity : BitVec 16), cleanHeader h 0 → s.hkAddrFaults addr (lines.toNat + 1) = [] →
      runs (.read h addr lines parity) s fun t =>
        t.links.requests = s.links.requests ++ [⟨h.tag, true, target, lines.toNat + 1⟩] ∧ s.onlyIn t [.links])) ∧
  ∀ (s : State) (h : HkHeader) (addr : Word), s.hostReady h.tag → coordOf addr.toNat = s.coord →
    (∀ data : List Flit, data ≠ [] → cleanHeader h data.length → field addr.toNat 48 4 ≠ 5 → s.hkAddrFaults addr data.length = [] →
      s.streamFaults addr.toNat (64 * data.length) = [] → runs (.write h addr data) s fun t =>
        let k := memKey (field addr.toNat 48 4) (field addr.toNat 0 48)
        (∀ i, i < 64 * data.length → t.memory.mem.byte? (k + i) = (data.flatMap flitBytes)[i]?) ∧
        (∀ a, a < k ∨ k + 64 * data.length ≤ a → t.memory.mem.byte? a = s.memory.mem.byte? a) ∧
        (s.tables.reshardOn = false → s.answered t h.tag 0) ∧ t.power = s.power ∧ t.flash = s.flash ∧ t.run = s.run ∧ t.cfg = s.cfg) ∧
    (∀ (lines : BitVec 6) (parity : BitVec 16), cleanHeader h 0 → s.hkAddrFaults addr (lines.toNat + 1) = [] →
      runs (.read h addr lines parity) s fun t =>
        (∃ head, (t.port 6).queues = (s.port 6).queues ++ [⟨1, head :: (List.range (lines.toNat + 1)).map fun i =>
          if field addr.toNat 48 4 = 5 then BitVec.ofNat 512 (s.statusLine (field addr.toNat 0 48 + 64 * i))
          else s.lineAt (memKey (field addr.toNat 48 4) (field addr.toNat 0 48 + 64 * i))⟩]) ∧
        (∀ b : Block, ∀ off, off = field addr.toNat 0 48 → field addr.toNat 48 4 = 4 → field off 26 4 ≤ 8 → field off 20 1 = 0 →
          b.val = 9 * field off 30 2 + field off 26 4 → b.val < s.blocks.length → 
          (t.block b.val).parity = satAdd (s.block b.val).parity parity.toNat) ∧
        t.memory.mem.cells = s.memory.mem.cells ∧ t.power = s.power ∧ t.flash = s.flash ∧ t.run = s.run) ∧
    (∀ nonce, cleanHeader h 0 → s.roleUp 1 = true → runs (.attest h nonce) s fun t =>
      (∃ head, (t.port 6).queues = (s.port 6).queues ++ [⟨1, head :: flitsOf (s.attestReport nonce)⟩]) ∧
      (flitsOf (s.attestReport nonce)).length = 5 ∧ s.onlyIn t [.links])

/-- R506: of a write to the line at 0x80 only the first 8 bytes count, and RESTORE_CTL takes them under R456; a write to any other line of the
map completes with 0x000 and changes nothing. -/
def Obligations.StatusSpaceWrites : Prop :=
  let obeys (w : HkHeader → Word → List Flit → Instr) : Prop := ∀ (s : State) (h : HkHeader) (addr : Word) (data : List Flit), s.hostReady h.tag → cleanHeader h data.length → data ≠ [] → field addr.toNat 48 4 = 5 →
    s.hkAddrFaults addr data.length = [] →
    let off := field addr.toNat 0 48
    ((∀ i, i < data.length → off + 64 * i ≠ 0x80) → runs (w h addr data) s fun t => s.answered t h.tag 0 ∧ s.onlyIn t [.links]) ∧
    (∀ (i : Nat) (v : Flit), data[i]? = some v → off + 64 * i = 0x80 →
      (∀ data' : List Flit, data'.length = data.length → (data'[i]?).map (·.toNat % 2 ^ 64) = some (v.toNat % 2 ^ 64) →
        exec (w h addr data') s = exec (w h addr data) s) ∧
      (s.run.run = 1 ∨ s.run.run = 4 → field v.toNat 0 2 ≠ 3 → field v.toNat 4 2 ≠ 3 →
        (runs (w h addr data) s fun t => t = (s.writeCtl (v.toNat % 2 ^ 64)).complete h 0) ∧
        (v.toNat.testBit 3 = false → runs (w h addr data) s fun t =>
          t.resil = { s.resil with restore := { s.resil.restore with
            ctlSource := BitVec.ofNat 2 (field v.toNat 0 2), ctlRejoin := v.toNat.testBit 2, ctlSet := BitVec.ofNat 2 (field v.toNat 4 2)
            ctlStep := BitVec.ofNat 48 (field v.toNat 16 48) } } ∧ s.answered t h.tag 0 ∧ s.onlyIn t [.resil, .links])))
  obeys Instr.statusSpaceWrite ∧ obeys Instr.write

/-- Restore and rejoin begin with RESTORE_CTL.go (R456, R457, R459). A restore of source 2 waits for the host's data from its first byte; one of local
flash or of a partner on the torus asks for both headers, or at once for the set it names; one whose partner partition is its own ends with it. A rejoin
asks the +X neighbour for both headers of its −X copies; a rejoin of a job without a torus X axis, or with a range of x_own, fails with 0x112.
Where the rules leave a choice, it rests on the model's readings of log entries 56 and 81. -/
def Obligations.RestoreBegins : Prop :=
  ∀ (s : State) (h : HkHeader) (source set : BitVec 2) (step : BitVec 48), s.hostReady h.tag → cleanHeader h 1 → source ≠ 3 → set ≠ 3 →
    s.run.run = 1 ∨ s.run.run = 4 →
    let begun (t : State) (source : BitVec 2) (rejoin : Bool) (stage : RestoreStage) (wanted : Nat) : Prop :=
      t.resil.restore.phase = 1 ∧ t.resil.restore.source = source ∧ t.resil.restore.rejoin = rejoin ∧ t.resil.restore.stage = stage ∧
      t.resil.restore.wanted = wanted ∧ t.resil.restore.got = 0 ∧ t.resil.restore.ctlStep = step ∧ t.memory = s.memory
    (source = 2 → runs (.restore h source set step) s fun t =>
      begun t 2 false .body s.setZ ∧ s.answered t h.tag 0 ∧ s.onlyIn t [.resil, .links]) ∧
    (source = 1 → set = 0 → runs (.restore h source set step) s fun t => begun t 1 false .headers 128 ∧
      t.resil.nvme = s.resil.nvme ++ [.readHeader (s.areaLba false 0), .readHeader (s.areaLba true 0)] ∧ s.answered t h.tag 0 ∧
      s.onlyIn t [.resil, .links]) ∧
    (source = 1 → set ≠ 0 → 0 < s.setZ → runs (.restore h source set step) s fun t => begun t 1 false .body s.setZ ∧
      t.resil.restore.set = (set == 2) ∧ t.resil.nvme.length = s.resil.nvme.length + ceilDiv s.setZ (2 ^ 20) ∧ s.answered t h.tag 0 ∧
      s.onlyIn t [.resil, .links]) ∧
    (source = 0 → s.cfg.header.shapeA ≠ 0 → 0 < s.setZ → runs (.restore h source set step) s fun t =>
      begun t 0 false (if set = 0 then .headers else .body) (if set = 0 then 128 else s.setZ) ∧ s.onlyIn t [.resil, .links]) ∧
    (source = 0 → s.cfg.header.shapeA = 0 → runs (.restore h source set step) s fun t =>
      t.resil.restore.source = 0 ∧ t.resil.restore.rejoin = false ∧ (t.resil.restore.phase = 2 ∨ t.resil.restore.phase = 5) ∧
      t.resil.restore.stage = .idle) ∧
    (s.cfg.header.shapeA ≠ 0 → s.xOwnRange = false → runs (.rejoin h source set step) s fun t =>
      begun t 0 true .headers 128 ∧ s.onlyIn t [.resil, .links]) ∧
    (s.cfg.header.shapeA = 0 ∨ s.xOwnRange = true → runs (.rejoin h source set step) s fun t =>
      t.resil.restore.phase = 5 ∧ t.resil.restore.code = 0x112 ∧ t.resil.restore.stage = .idle ∧ t.memory = s.memory)

/-- A codeword at a port in use (R410, R417): the expected one is accepted, whatever its flits; one of idle flits changes the sequence
state and nothing else; a damaged one is counted and answered by a NAK that names the last one accepted, one out of sequence by such a NAK, and
while codewords are rejected it is discarded. What leaves (R410, R413, R416, R417): codewords to be replayed leave first; then one new codeword of ten flits takes the next sequence
number and stays in the replay buffer; with nothing to send its flits are IDLE; a full buffer holds the sender.
Where the rules leave a choice, it rests on the model's readings of log entries 19 and 53. -/
def Obligations.Codewords : Prop :=
  (∀ (s : State) (p : Port) (seq crc : BitVec 10) (flits : List Flit), (s.port p.val).state = 2 →
    let x := s.port p.val
    (flits.length = 10 → crc = crc10 (codewordBits flits seq) → seq = x.rxExpected → runs (.codewordReceive p false seq crc flits) s fun t =>
      (t.port p.val).rxExpected = x.rxExpected + 1 ∧ (t.port p.val).badCodewords = x.badCodewords ∧ s.onlyIn t [.logs, .links]) ∧
    (flits = List.replicate 10 0 → crc = crc10 (codewordBits flits seq) → seq = x.rxExpected → x.newMap = none → x.rxPending = 0 →
      x.rxSinceAck < 63 → (x.toReturn.all fun n => decide (n < 64)) = true → runs (.codewordReceive p false seq crc flits) s fun t =>
        t.port p.val = { x with rxExpected := x.rxExpected + 1, rxSinceAck := x.rxSinceAck + 1, rxRejecting := false, nakSeq := none, nakRun := 0 } ∧
        s.onlyPort t p.val ∧ s.onlyIn t [.links]) ∧
    (x.nakRun < 7 → runs (.codewordReceive p true seq crc flits) s fun t =>
      (t.port p.val).badCodewords = x.badCodewords + 1 ∧ (t.port p.val).replays = x.replays + 1 ∧ (t.port p.val).rxRejecting = true ∧
      (t.port p.val).rxExpected = x.rxExpected ∧ (t.port p.val).control = x.control ++ [linkCtlFlit true (x.rxExpected - 1) x.toReturn] ∧
      s.onlyPort t p.val ∧ s.onlyIn t [.links]) ∧
    (flits.length = 10 → crc = crc10 (codewordBits flits seq) → seq ≠ x.rxExpected → x.rxRejecting = true →
      runs (.codewordReceive p false seq crc flits) s fun t => t = s) ∧
    (flits.length = 10 → crc = crc10 (codewordBits flits seq) → seq ≠ x.rxExpected → x.rxRejecting = false → x.nakRun < 7 →
      runs (.codewordReceive p false seq crc flits) s fun t =>
        (t.port p.val).badCodewords = x.badCodewords ∧ (t.port p.val).replays = x.replays + 1 ∧ (t.port p.val).rxRejecting = true ∧
        (t.port p.val).rxExpected = x.rxExpected ∧
        (t.port p.val).control = x.control ++ [linkCtlFlit true (x.rxExpected - 1) x.toReturn] ∧ s.onlyPort t p.val ∧ s.onlyIn t [.links])) ∧
  (∀ (s : State) (p : Port), (s.port p.val).state = 2 →
    let x := s.port p.val
    (∀ c r, x.resend = c :: r → runs (.codewordTransmit p) s fun t => t.port p.val = { x with resend := r } ∧ s.onlyPort t p.val ∧ s.onlyIn t [.links]) ∧
    (x.resend = [] → x.replay.length < 256 → runs (.codewordTransmit p) s fun t =>
      (t.port p.val).txNext = x.txNext + 1 ∧ (∃ fs, fs.length = 10 ∧ (t.port p.val).replay = x.replay ++ [(x.txNext, fs)]) ∧
      s.onlyPort t p.val ∧ s.onlyIn t [.links]) ∧
    (x.resend = [] → x.replay.length < 256 → x.txMap = none → x.txRest = [] → x.beats = [] → x.control = [] → x.queues = [] →
      runs (.codewordTransmit p) s fun t =>
        t.port p.val = { x with replay := x.replay ++ [(x.txNext, List.replicate 10 0)], txNext := x.txNext + 1 } ∧
        s.onlyPort t p.val ∧ s.onlyIn t [.links]) ∧
    (x.resend = [] → 256 ≤ x.replay.length → runs (.codewordTransmit p) s fun t => t = s))

/-- Acknowledgements and retrains (R415, R417–R419): LINK_CTL returns credits and frees the replay buffer up to the codeword it names; with
nak = 1 the rest is sent again; credits beyond the buffer are a protocol fault; 8 µs without an acknowledgement retrain the port, at the
third time in a step it goes down; a retrain that succeeds resumes by replay, one that fails discards what waits.
Where the rules leave a choice, it rests on the model's readings of log entry 53. -/
def Obligations.LinkRecovery : Prop :=
  ∀ (s : State) (p : Port),
    let x := s.port p.val
    let down (t : State) : Prop := (t.port p.val).state = 4 ∧ (t.port p.val).replay = [] ∧ (t.port p.val).queues = [] ∧
      t.logs = (s.logDevice 0x100 noName 0 p.val).logs ∧ s.onlyPort t p.val ∧ s.onlyIn t [.logs, .links]
    (∀ (ackSeq : BitVec 10) (credits : List (BitVec 12)), x.state = 2 →
      (∀ v, v < 8 → x.credits.getD v 0 + (credits.getD v 0).toNat ≤ x.creditMax.getD v 0) →
      let freed := ((x.replay.findIdx? fun c => c.1 == ackSeq).map (· + 1)).getD 0
      (runs (.linkCtl p false ackSeq credits) s fun t =>
        t.port p.val = { x with
          credits := x.credits.zipIdx.map fun c => c.1 + (credits.getD c.2 0).toNat
          replay := x.replay.drop freed
          resend := x.resend.filter fun c => !((x.replay.take freed).map (·.1)).contains c.1 } ∧
        s.onlyPort t p.val ∧ s.onlyIn t [.links]) ∧
      (x.heardRun < 7 → runs (.linkCtl p true ackSeq credits) s fun t =>
        (t.port p.val).replay = x.replay.drop freed ∧ (t.port p.val).resend = x.replay.drop freed ∧ (t.port p.val).replays = x.replays + 1 ∧
        (t.port p.val).credits = x.credits.zipIdx.map (fun c => c.1 + (credits.getD c.2 0).toNat) ∧
        (t.port p.val).state = 2 ∧ s.onlyPort t p.val ∧ s.onlyIn t [.links])) ∧
    (∀ (nak : Bool) (ackSeq : BitVec 10) (credits : List (BitVec 12)), x.state = 2 → x.stepRetrains < 2 →
      x.creditMax.getD 0 0 < x.credits.getD 0 0 + (credits.getD 0 0).toNat → runs (.linkCtl p nak ackSeq credits) s fun t =>
        (t.port p.val).state = 3 ∧ t.logs = (s.logDevice 0x104 noName 0 p.val).logs ∧ s.onlyPort t p.val ∧ s.onlyIn t [.logs, .links]) ∧
    (x.state = 2 → x.replay ≠ [] → x.stepRetrains < 2 → runs (.replayAckTimeout p) s fun t =>
      (t.port p.val).state = 3 ∧ (t.port p.val).retrains = satAdd x.retrains 1 ∧ (t.port p.val).replay = x.replay ∧
      s.onlyPort t p.val ∧ s.onlyIn t [.links]) ∧
    (x.state = 2 → x.replay ≠ [] → 2 ≤ x.stepRetrains → runs (.replayAckTimeout p) s down) ∧
    (x.state = 3 → runs (.fastRetrainDone p true) s fun t =>
      t.port p.val = { x with state := 2, resend := x.replay, rxRejecting := false } ∧ s.onlyPort t p.val ∧ s.onlyIn t [.links]) ∧
    (x.state = 3 → runs (.fastRetrainDone p false) s down)

/-- Lanes (R428, R434, R435): a lane that loses lock goes to the spare, with LANE_MAP and 0x101, or retrains the port; a peer's LANE_MAP is
confirmed and stands from its codeword on. Calibration (R428, R433, R434): inside the port's window a request within the tap's limits is applied and confirmed; outside it every
coefficient stays and the request is refused; an answer settles the request it answers; a scan stores the lane's margin and asks one tap
move, and an active lane newly under 25 logs 0x106 and waits for a swap.
Where the rules leave a choice, it rests on the model's readings of log entries 54 and 21. -/
def Obligations.Lanes : Prop :=
  (∀ (s : State) (p : Port), (s.port p.val).state = 2 →
    let x := s.port p.val
    (∀ lane : Fin 5, x.mapped.contains lane.val = true → x.spareUsed = false → x.spareReady = true → runs (.laneLossOfLock p lane) s fun t =>
      (∃ atSeq, (t.port p.val).newMap = some (x.spareMap p.val lane.val, atSeq) ∧
        (t.port p.val).control = x.control ++ [laneMapFlit (x.spareMap p.val lane.val) atSeq false]) ∧
      (t.port p.val).spareReady = false ∧ t.logs = (s.logDevice 0x101 noName 0 (portDetail p.val lane.val)).logs ∧
      s.onlyPort t p.val ∧ s.onlyIn t [.draws, .logs, .links]) ∧
    (∀ lane : Fin 5, x.mapped.contains lane.val = true → x.spareUsed = true ∨ x.spareReady = false → runs (.laneLossOfLock p lane) s fun t =>
      (t.port p.val).state = (if x.stepRetrains < 2 then 3 else 4) ∧ s.onlyPort t p.val ∧ s.onlyIn t [.logs, .links]) ∧
    (∀ lane : Fin 5, x.mapped.contains lane.val = false → runs (.laneLossOfLock p lane) s fun t =>
      t.port p.val = { x with spareReady := false } ∧ s.onlyPort t p.val ∧ s.onlyIn t [.links]) ∧
    (∀ (map : BitVec 12) (atSeq : BitVec 10), runs (.laneMap p map atSeq false) s fun t =>
      t.port p.val = { x with txMap := some (map, atSeq), control := x.control ++ [laneMapFlit map atSeq true] } ∧
      s.onlyPort t p.val ∧ s.onlyIn t [.links]) ∧
    (∀ (map : BitVec 12) (atSeq : BitVec 10), runs (.laneMap p map atSeq true) s fun t => t = s)) ∧
  (∀ (s : State) (p : Port), (s.port p.val).state = 2 →
    let x := s.port p.val
    (∀ (lane : BitVec 3) (tap move : BitVec 2), x.asked.contains (lane, tap) = false →
      let applied := s.calibrating p.val = true ∧ move ≠ 3 ∧ (move = 0 ∨ Config.tapAtLimit tap.toNat (x.tapAt lane tap) (move == 1) = false)
      (¬ applied → runs (.calibrate p lane tap move false) s fun t =>
        t.port p.val = { x with control := x.control ++ [calibrateFlit lane tap move false] } ∧ s.onlyPort t p.val ∧ s.onlyIn t [.links]) ∧
      (applied → runs (.calibrate p lane tap move false) s fun t =>
        (t.port p.val).tapAt lane tap = x.tapAt lane tap + (if move = 1 then 1 else if move = 2 then -1 else 0) ∧
        (∀ l u, (l, u) ≠ (lane, tap) → (t.port p.val).tapAt l u = x.tapAt l u) ∧
        (t.port p.val).control = x.control ++ [calibrateFlit lane tap move true] ∧ s.onlyPort t p.val ∧ s.onlyIn t [.links])) ∧
    (∀ (lane : BitVec 3) (tap move : BitVec 2), runs (.calibrate p lane tap move true) s fun t =>
      t.port p.val = { x with asked := x.asked.filter (· != (lane, tap)) } ∧ s.onlyPort t p.val ∧ s.onlyIn t [.links]) ∧
    (∀ (lane : Fin 5) (margin : BitVec 8), s.calibrating p.val = true → lane.val ≤ dataLanes p.val →
      let scanned (t : State) : Prop := (t.port p.val).margin = setAt x.margin lane.val margin ∧
        (∃ tap move, (t.port p.val).asked = x.asked ++ [(BitVec.ofNat 3 lane.val, tap)] ∧
          (t.port p.val).control = x.control ++ [calibrateFlit (BitVec.ofNat 3 lane.val) tap move false]) ∧ s.onlyPort t p.val
      (25 ≤ margin.toNat ∨ x.mapped.contains lane.val = false ∨ (x.margin.getD lane.val 0).toNat < 25 → runs (.eyeMarginScan p lane margin) s fun t => scanned t ∧ s.onlyIn t [.draws, .links]) ∧
      (margin.toNat < 25 → x.mapped.contains lane.val = true → 25 ≤ (x.margin.getD lane.val 0).toNat →
        runs (.eyeMarginScan p lane margin) s fun t => scanned t ∧ 
          t.logs = (s.logDevice 0x106 noName 0 (portDetail p.val lane.val)).logs ∧
          t.isMarked 2 (p.val + 8 * lane.val) 0 = true ∧ s.onlyIn t [.draws, .logs, .links, .resil])))

/-- NEGOTIATE (R21, R428, R430, R431): a peer without generation 1 takes the port down with 0x102, a torus peer of another place or job with
0x103; otherwise the link is of generation 1, an offer is answered, and the Hokuano adapter's credits set those toward it.
Where the rules leave a choice, it rests on the model's readings of log entry 53. -/
def Obligations.Negotiation : Prop :=
  ∀ (s : State) (p : Port) (f : NegotiateFlit), (s.port p.val).state = 2 →
    let x := s.port p.val
    (f.impl = 0 ∨ f.offer.getLsbD 0 = false → runs (.negotiate p f) s fun t =>
      (t.port p.val).state = 4 ∧ t.logs = (s.logDevice 0x102 noName 0 p.val).logs ∧ s.onlyPort t p.val ∧ s.onlyIn t [.logs, .links]) ∧
    (f.impl ≠ 0 → f.offer.getLsbD 0 = true → p.val < 6 → (f.coord ≠ s.neighbour p.val ∨ f.jobId.toNat ≠ s.cfg.header.jobId) →
      runs (.negotiate p f) s fun t =>
        (t.port p.val).state = 4 ∧ t.logs = (s.logDevice 0x103 noName 0 p.val).logs ∧ s.onlyPort t p.val ∧ s.onlyIn t [.logs, .links]) ∧
    (f.impl ≠ 0 → f.offer.getLsbD 0 = true → p.val < 6 → f.coord = s.neighbour p.val → f.jobId.toNat = s.cfg.header.jobId →
      runs (.negotiate p f) s fun t =>
        t.port p.val = { x with gen := 1, control := if f.reply = true then x.control else
          x.control ++ [s.negotiateFlit p.val true f.tSend.toNat f.arrival.toNat] } ∧ s.onlyPort t p.val ∧ s.onlyIn t [.links]) ∧
    (f.impl ≠ 0 → f.offer.getLsbD 0 = true → p.val = 6 → runs (.negotiate p f) s fun t =>
      (t.port 6).gen = 1 ∧ (t.port 6).creditMax = [f.credits0.toNat, f.credits1.toNat, 0, 0, 0, 0, 0, 0] ∧ s.onlyPort t 6 ∧ s.onlyIn t [.links])

/-- Packets that carry memory accesses between devices (R32, R425, R440): a MEM_WRITE stores its lines and nothing else and is acknowledged
with 0x000; a MEM_READ stores nothing; the answer to a request of the host completes it and frees its tag, one to a restore brings its bytes;
an answer of an older generation is counted as stale.
Where the rules leave a choice, it rests on the model's readings of log entries 52, 70 and 9. -/
def Obligations.RemoteMemory : Prop :=
  ∀ (s : State) (src : Coord) (addr : Word) (hkTag : BitVec 8),
    let k := memKey (field addr.toNat 48 4) (field addr.toNat 0 48)
    (∀ data : List Flit, s.start.loaded = true → coordOf addr.toNat = s.coord → field addr.toNat 48 4 < 4 →
      s.memFaults addr.toNat data.length = [] → s.streamFaults addr.toNat (64 * data.length) = [] →
      runs (.memWrite src addr hkTag data) s fun t =>
        (∀ i, i < 64 * data.length → t.memory.mem.byte? (k + i) = (data.flatMap flitBytes)[i]?) ∧
        (∀ a, a < k ∨ k + 64 * data.length ≤ a → t.memory.mem.byte? a = s.memory.mem.byte? a) ∧
        (s.tables.reshardOn = false → t.links = (s.sendTo src 0x06 2 0 0 hkTag.toNat []).links) ∧ t.run = s.run ∧ t.cfg = s.cfg ∧ t.flash = s.flash ∧ t.power = s.power) ∧
    (∀ len : BitVec 6, s.start.loaded = true → coordOf addr.toNat = s.coord → field addr.toNat 48 4 ≠ 4 →
      s.memFaults addr.toNat (len.toNat + 1) = [] → runs (.memRead src addr len hkTag) s fun t =>
        let r := s.readLines (field addr.toNat 48 4) (field addr.toNat 0 48) (len.toNat + 1)
        t.links = (s.sendTo src 0x05 2 0 0 (pack [(hkTag.toNat, 8), (0, 12), (0, 44), (r.2, 64)]) r.1).links ∧
        t.memory.mem = s.memory.mem ∧ t.run = s.run ∧ t.cfg = s.cfg ∧ t.flash = s.flash ∧ t.power = s.power) ∧
    (∀ (q : HkRequest) (code : BitVec 12) (gen : BitVec 8), s.requestOf src hkTag false = some q → gen = s.engineTag hokuanoKey →
      runs (.memAck src hkTag code gen) s fun t =>
      t.links.requests = s.links.requests.filter (fun r => r.tag != hkTag) ∧
      (t.port 6) = ((s.sendCompletion hkTag code.toNat 0 []).port 6) ∧ s.onlyIn t [.logs, .links]) ∧
    (∀ (q : HkRequest) (poison : Word) (data : List Flit) (gen : BitVec 8), s.requestOf src hkTag true = some q → gen = s.engineTag hokuanoKey →
      runs (.memData src hkTag 0 gen poison data) s fun t =>
        t.links.requests = s.links.requests.filter (fun r => r.tag != hkTag) ∧
        (t.port 6) = ((s.sendCompletion hkTag 0 poison.toNat data).port 6) ∧ s.onlyIn t [.links]) ∧
    (∀ (poison : Word) (data : List Flit) (gen : BitVec 8), s.requestOf src hkTag true = none → gen = s.engineTag drainEngineKey →
      s.resil.restore.stage ≠ .idle → s.resil.restore.source = 0 → src = s.xNeighbour true →
      s.resil.restore.got + 64 * data.length < s.resil.restore.wanted → runs (.memData src hkTag 0 gen poison data) s fun t =>
        t.resil.restore.got = s.resil.restore.got + 64 * data.length ∧ s.onlyIn t [.resil]) ∧
    (∀ (code : BitVec 12) (gen : BitVec 8), gen ≠ s.engineTag (s.memIssuer src hkTag false) → runs (.memAck src hkTag code gen) s fun t =>
      t.resil = { s.resil with stale := s.resil.stale + 1 } ∧ s.onlyIn t [.resil]) ∧
    (∀ (code : BitVec 12) (gen : BitVec 8) (poison : Word) (data : List Flit), gen ≠ s.engineTag (s.memIssuer src hkTag true) →
      runs (.memData src hkTag code gen poison data) s fun t =>
        t.resil = { s.resil with stale := s.resil.stale + 1 } ∧ s.onlyIn t [.resil])


/-- What a controller finds in a line it reads (R389, R393, R396, R398): a clean line changes nothing; on-die corrections are counted in tier
0x0, others in the partition, whose bucket fills and at its capacity overflows to half of it with 0x0F1; a line stored poisoned is counted; an
uncorrectable line is logged and stays poisoned, and in a Keep partition is a step fault
that halts the device at the boundary. No byte changes.
Where the rules leave a choice, it rests on the model's readings of log entry 52. -/
def Obligations.MemoryReads : Prop :=
  ∀ (s : State) (addr : Word) (ctx : Option CtxId) (c tier off : Nat), s.ownLine addr.toNat = some (c, tier, off) →
    let line := off / 64 * 64
    (s.memory.mem.poisoned (memKey tier line) = false → runs (.memoryRead addr ctx .clean) s fun t => t = s) ∧
    (∀ (dies : Nat) (x : ControllerState), tier = 0 → s.memory.mem.poisoned (memKey tier line) = false → s.memory.controllers[c]? = some x →
      runs (.memoryRead addr ctx (.inner dies)) s fun t =>
        t.memory = { s.memory with controllers := s.memory.controllers.set c { x with inner := addN x.inner dies } } ∧ s.onlyIn t [.memory]) ∧
    (∀ (chip : BitVec 4) (kind : BitVec 2) (p : Nat) (part : Partition) (y : PartState), tier ≤ 1 →
      s.memory.mem.poisoned (memKey tier line) = false → s.partitionAt tier line = some (p, part) → s.memory.parts[p]? = some y →
      y.level.toNat + 1 < part.ceCapacity → runs (.memoryRead addr ctx (.corrected chip kind)) s fun t =>
        t.memory = { s.memory with
          parts := s.memory.parts.set p { y with corrected := y.corrected + 1, level := BitVec.ofNat 16 (y.level.toNat + 1) } } ∧
        s.onlyIn t [.memory]) ∧
    (∀ (chip : BitVec 4) (kind : BitVec 2) (p : Nat) (part : Partition) (y : PartState), tier ≤ 1 →
      s.memory.mem.poisoned (memKey tier line) = false → s.partitionAt tier line = some (p, part) → s.memory.parts[p]? = some y →
      part.ceCapacity ≤ y.level.toNat + 1 → runs (.memoryRead addr ctx (.corrected chip kind)) s fun t =>
        t.memory.parts[p]? = some { y with
          corrected := y.corrected + 1, level := BitVec.ofNat 16 (part.ceCapacity / 2), overflows := satAdd y.overflows 1 } ∧
        t.logs.errorCounts[0xF1]? = (s.logs.errorCounts[0xF1]?).map (satAdd · 1) ∧ t.memory.mem = s.memory.mem) ∧
    (∀ (finding : LineFinding) (p : Nat) (part : Partition) (y : PartState), tier ≤ 1 → finding ≠ .uncorrectable →
      s.memory.mem.poisoned (memKey tier line) = true → s.partitionAt tier line = some (p, part) → s.memory.parts[p]? = some y →
      runs (.memoryRead addr ctx finding) s fun t => t.memory.parts[p]? = some { y with poisonReads := satAdd y.poisonReads 1 } ∧
        t.memory.mem = s.memory.mem ∧ t.memory.stepFault = (s.memory.stepFault || s.keepLine tier line)) ∧
    (runs (.memoryRead addr ctx .uncorrectable) s fun t =>
      t.memory.mem.cells = s.memory.mem.cells ∧ t.memory.mem.poisoned (memKey tier line) = true ∧
      (s.keepLine tier line = true → t.memory.stepFault = true ∧ t.dial.haltCause ≠ 0 ∧ s.onlyIn t [.dial, .logs, .memory, .bytes]) ∧
      (s.keepLine tier line = false → t.memory.stepFault = s.memory.stepFault ∧ s.onlyIn t [.logs, .memory, .bytes]))

/-- Writes of a unit (R392, R396, R397): a write stores its bytes and nothing else, over as many lines as they reach; within one line, a write of
whole words leaves the line poisoned where its data are, a smaller write of a good line stores its bytes clean; one of a line that cannot be corrected stores them poisoned.
Where the rules leave a choice, it rests on the model's readings of log entry 52. -/
def Obligations.MemoryWrites : Prop :=
  ∀ (s : State) (addr : Word) (bytes : List Byte) (poisoned : Bool) (finding : LineFinding) (c tier off : Nat),
    s.ownLine addr.toNat = some (c, tier, off) → off + bytes.length ≤ s.caps.of tier →
    let stored (t : State) : Prop :=
      (∀ i, i < bytes.length → t.memory.mem.byte? (memKey tier off + i) = bytes[i]?) ∧
      (∀ a, a < memKey tier off ∨ memKey tier off + bytes.length ≤ a → t.memory.mem.byte? a = s.memory.mem.byte? a)
    (runs (.memoryWrite addr bytes poisoned finding) s fun t => stored t ∧ s.onlyIn t [.dial, .logs, .memory, .blocks, .resil, .bytes]) ∧
    (off % 64 + bytes.length ≤ 64 → s.writesWhole tier off bytes.length = true → runs (.memoryWrite addr bytes poisoned finding) s fun t =>
      stored t ∧ (poisoned = true → ∀ l ∈ linesOf (memKey tier off) bytes.length, t.memory.mem.poisoned l = true) ∧
      s.onlyIn t [.memory, .bytes]) ∧
    (off % 64 + bytes.length ≤ 64 → s.writesWhole tier off bytes.length = false → s.memory.mem.poisoned (memKey tier off) = false →
      runs (.memoryWrite addr bytes false .clean) s fun t =>
        stored t ∧ t.memory.mem.poisoned (memKey tier off) = false ∧ s.onlyIn t [.memory, .bytes]) ∧
    (off % 64 + bytes.length ≤ 64 → s.writesWhole tier off bytes.length = false → s.keepLine tier (off / 64 * 64) = false →
      runs (.memoryWrite addr bytes false .uncorrectable) s fun t =>
        stored t ∧ t.memory.mem.poisoned (memKey tier off) = true ∧ s.onlyIn t [.logs, .memory, .bytes])

/-- Arbiters and regulators (R29–R31, R42, R43, R45, R46, R387): a free port's grant goes to the winner, which moves to the lowest rank of its class, for
256 bytes of a Steady row, 4 KiB of a Bulk transfer or one background beat; in a transfer's last beat the port is free again, what it carried is kept for
the rest of a longer row, and its fabric words' errors are corrected or poison what they carry; before it only a Bulk transfer that is not exempt gives way,
to a Steady request. At a controller a Bulk grant is counted against its regulator; the end of a window clears every count and says which regulators are
owed.
Where the rules leave a choice, it rests on the model's readings of log entries 51 and 71. -/
def Obligations.Arbitration : Prop :=
  ∀ s : State, s.start.loaded = true →
    (∀ (arb : Arbiter) (beats : Nat) (fault : FabricFault) (requests : List FabricRequest),
      let k := arbiterKey arb
      let limit (q : FabricRequest) : Nat := match arb, q.cls with
        | .rill _, _ => q.bytes
        | _, .steady => 256
        | _, .bulk => 4096
        | _, .background => 64
      let beat : Nat := match arb with
        | .rill _ => 128
        | _ => 64
      (lookupNat k s.memory.grants = none →
        (s.winner arb requests = none → runs (.fabricGrant arb beats fault requests) s fun t =>
          (controllerArb arb = none → t = s) ∧ t.memory.grants = s.memory.grants ∧ t.memory.ranks = s.memory.ranks ∧
          t.memory.mem = s.memory.mem ∧ s.onlyIn t [.memory] ∧
          (∀ (c : Controller) (x : ControllerState) (q : FabricRequest), arb = .controller c → s.memory.controllers[c.val]? = some x →
            q ∈ requests → q.cls = .bulk → ((t.controller c.val).regulator (s.regulatorKey c.val q)).waited = true)) ∧
        (∀ (q : FabricRequest) (g : Nat), s.winner arb requests = some (q, g) → runs (.fabricGrant arb beats fault requests) s fun t =>
          let bytes := min (limit q) (q.bytes - s.carriedBy k q.requester)
          (∃ l, q.requester ∉ l ∧ lookupNat (k * 4 + g) t.memory.ranks = some (l ++ [q.requester])) ∧
          (lookupNat k t.memory.grants).map (fun h => (h.q, h.bytes)) = some (q, bytes) ∧
          (∀ (c : Controller) (x : ControllerState), arb = .controller c → q.cls = .bulk → s.memory.controllers[c.val]? = some x →
            ((t.controller c.val).regulator (s.regulatorKey c.val q)).count = (x.regulator (s.regulatorKey c.val q)).count + bytes) ∧
          t.memory.mem = s.memory.mem ∧ s.onlyIn t [.memory])) ∧
      (∀ h : PortGrant, lookupNat k s.memory.grants = some h →
        (ceilDiv h.bytes beat ≤ beats → runs (.fabricGrant arb beats fault []) s fun t =>
          lookupNat k t.memory.grants = none ∧
          t.carriedBy k h.q.requester =
            (if s.carriedBy k h.q.requester + h.bytes < h.q.bytes then s.carriedBy k h.q.requester + h.bytes else 0) ∧
          t.memory.mem.cells = s.memory.mem.cells ∧
          (∀ r : Region, arb = .fabric r → fault = .single →
            t.memory.fabricCorrected[r.val]? = (s.memory.fabricCorrected[r.val]?).map (· + 1)) ∧
          (∀ r : Region, arb = .fabric r → fault = .double → h.q.write = true →
            t.memory.mem.poisoned (lineKey (memKey (lineTier h.q) (lineOff h.q))) = true) ∧
          (∀ (r : Region) (c : CtxId), arb = .fabric r → fault = .double → h.q.write = false → h.q.ctx = some c →
            t.lineBad c (memKey (lineTier h.q) (lineOff h.q)) = true) ∧
          s.onlyIn t [.memory, .gather, .bytes]) ∧
        (beats < ceilDiv h.bytes beat → h.q.cls ≠ .bulk ∨ h.exempt = true ∨ (requests.any fun x => x.cls == .steady) = false →
          runs (.fabricGrant arb beats fault requests) s fun t => t.memory.grants = s.memory.grants ∧ t.memory.ranks = s.memory.ranks ∧
            t.memory.carried = s.memory.carried ∧ t.memory.mem = s.memory.mem ∧ (controllerArb arb = none → t = s) ∧ s.onlyIn t [.memory]) ∧
        (beats < ceilDiv h.bytes beat → h.q.cls = .bulk → h.exempt = false → controllerArb arb = none →
          ∀ q : FabricRequest, q.cls = .steady → q.requester ≠ h.q.requester → s.isOwed h.q = false → s.rankOf k 0 q.requester < 2 ^ 32 →
            runs (.fabricGrant arb beats fault [q]) s fun t =>
              (lookupNat k t.memory.grants).map (·.q) = some q ∧ t.memory.carried = s.memory.carried ∧ t.memory.mem = s.memory.mem ∧
              s.onlyIn t [.memory]))) ∧
    (runs .regulatorWindow s fun t =>
      (∀ (c : Nat) (x : ControllerState), s.memory.controllers[c]? = some x → t.memory.controllers[c]? = some { x with
        regulators := x.regulators.map fun r =>
          { r with count := 0, owed := r.waited && decide (r.count < s.shareBytes c (r.part % 128)), waited := false, capped := false } }) ∧
      t.memory.mem = s.memory.mem ∧ t.memory.ranks = s.memory.ranks ∧ s.onlyIn t [.memory])

/-- The log of corrections (R393, R394): a line already listed counts up, a new one takes a place; a dropped update is counted in its
partition; every bucket leaks by its rate, to 0 at the least. The scrubber (R399, R400, R406): a tick grants each slice and DDR controller one line, four at most; a scrub spends one, counts its line and
goes on to the next; the lap (R401) ends when the highest line has been passed on every controller; a line it cannot correct is poisoned and logged. No byte changes.
Where the rules leave a choice, it rests on the model's readings of log entries 51 and 52. -/
def Obligations.MemoryCare : Prop :=
  (∀ s : State, s.start.loaded = true →
    (∀ (ctl : Controller) (offset : BitVec 48) (chip : BitVec 4) (kind : BitVec 2) (p : Nat) (part : Partition) (x : ControllerState),
      ctl.val < 24 → s.partitionAt (tierOf ctl.val) (offset.toNat / 64 * 64) = some (p, part) →
      controllerOf (tierOf ctl.val) (offset.toNat / 64 * 64) = some ctl.val → s.memory.controllers[ctl.val]? = some x →
      (∀ (i : Nat) (e : CeEntry), x.log.findIdx? (fun e => e.kind != 0 && e.offset.toNat == offset.toNat / 64 * 64) = some i → x.log[i]? = some e →
        runs (.ceLogUpdate ctl offset chip kind) s fun t =>
          t.memory = { s.memory with controllers := s.memory.controllers.set ctl.val { x with log := x.log.set i { e with
            chip := chip, kind := kind, count := satAdd e.count 1, pos := s.dial.pos, step := BitVec.ofNat 32 s.dial.step.toNat } } } ∧
          s.onlyIn t [.memory]) ∧
      (x.log.findIdx? (fun e => e.kind != 0 && e.offset.toNat == offset.toNat / 64 * 64) = none → runs (.ceLogUpdate ctl offset chip kind) s fun t =>
        ((t.controller ctl.val).log[logVictim x.log]?).map (fun e => (e.offset.toNat, e.chip, e.kind, e.count.toNat, e.pos)) =
          some (offset.toNat / 64 * 64, chip, kind, 1, s.dial.pos) ∧
        (∀ i, i < x.log.length → i ≠ logVictim x.log → (t.controller ctl.val).log[i]? = x.log[i]?) ∧
        t.memory.mem = s.memory.mem ∧ s.onlyIn t [.memory])) ∧
    (∀ (ctl : Controller) (offset : BitVec 48) (p : Nat) (part : Partition) (y : PartState),
      s.partitionAt (tierOf ctl.val) offset.toNat = some (p, part) → s.memory.parts[p]? = some y → runs (.ceLogUpdateDropped ctl offset) s fun t =>
        t.memory = { s.memory with parts := s.memory.parts.set p { y with logLost := satAdd y.logLost 1 } } ∧ s.onlyIn t [.memory]) ∧
    (runs .ceBucketLeak s fun t =>
      (∀ (p : Nat) (y : PartState) (part : Partition), s.memory.parts[p]? = some y → s.cfg.partMap.parts[p]? = some part →
        ∃ z, t.memory.parts[p]? = some z ∧ z.level.toNat = y.level.toNat - part.ceLeak ∧ z.corrected = y.corrected) ∧
      t.memory.mem = s.memory.mem ∧ t.memory.controllers = s.memory.controllers ∧ s.onlyIn t [.memory])) ∧
  (∀ s : State, s.memory.scrubbing = true →
    (runs .scrubTick s fun t =>
      (∀ (c : Nat) (x : ControllerState), c < 24 → s.memory.controllers[c]? = some x →
        t.memory.controllers[c]? = some { x with permissions := min 4 (x.permissions + 1) }) ∧
      t.memory.mem = s.memory.mem ∧ t.memory.parts = s.memory.parts ∧ s.onlyIn t [.memory]) ∧
    (∀ (ctl : Controller) (x : ControllerState) (off p : Nat) (part : Partition), ctl.val < 24 → s.memory.controllers[ctl.val]? = some x →
      x.up = true → 0 < x.permissions → s.nextScrub ctl.val (x.scrubAt.getD 0) = some off → s.partitionAt (tierOf ctl.val) off = some (p, part) →
      s.closedTo ctl.val off = false → s.roleUp 3 = true ∨ s.nextScrub ctl.val 0 ≠ some off →
      (∀ finding, runs (.scrubRead ctl finding) s fun t =>
        (t.controller ctl.val).permissions = x.permissions - 1 ∧ (t.controller ctl.val).scrubAt = s.nextScrub ctl.val (off + 64) ∧
        (∀ y, s.memory.parts[p]? = some y →
          let lines (c : Nat) : Nat := y.linesOn c + (if c = ctl.val then 1 else 0)
          let lap := ∀ c ∈ tierControllers part.tier, part.perController ≤ lines c
          ∃ z, t.memory.parts[p]? = some z ∧
            (lap → (∀ c, z.linesOn c = lines c - part.perController) ∧ z.laps = satAdd y.laps 1 ∧
              ((∀ c ∈ tierControllers part.tier, 1 ≤ y.linesOn c) →
                z.long = decide (0 < part.lapLimit ∧ part.lapLimit * 1000000000 < s.dial.ns - y.lapStartNs))) ∧
            (¬ lap → (∀ c, z.linesOn c = lines c) ∧ z.laps = y.laps ∧ z.long = y.long)) ∧
        t.memory.mem.cells = s.memory.mem.cells) ∧
      (s.memory.mem.poisoned (memKey (tierOf ctl.val) off) = false → runs (.scrubRead ctl .clean) s fun t =>
        t.memory.controllers[ctl.val]? = some { x with permissions := x.permissions - 1, scrubAt := s.nextScrub ctl.val (off + 64) } ∧
        t.memory.mem = s.memory.mem ∧ s.onlyIn t [.logs, .memory]) ∧
      (s.keepLine (tierOf ctl.val) off = false → runs (.scrubRead ctl .uncorrectable) s fun t =>
        t.memory.mem.poisoned (memKey (tierOf ctl.val) off) = true ∧ t.logs.errorCounts[0xF2]? = (s.logs.errorCounts[0xF2]?).map (satAdd · 1)) ∧
      (s.memory.mem.poisoned (memKey (tierOf ctl.val) off) = true → ∀ finding, finding ≠ .uncorrectable → runs (.scrubRead ctl finding) s fun t =>
        (t.memory.parts[p]?).map (·.poisonReads) = (s.memory.parts[p]?).map (fun y => satAdd y.poisonReads 1))))


/-- The dial within a step (R51, R71): cycles add to the accumulator, 65,536 a nanosecond with no trim; below one position's time nothing
else of the dial changes, nor past pos 65,535; at it the dial goes on one position and keeps the rest. The step number stays.
Where the rules leave a choice, it rests on the model's readings of log entries 8 and 20. -/
def Obligations.DialPositions : Prop :=
  ∀ (s : State) (cycles : Nat),
    let acc := s.dial.acc + 8 * (if s.dial.trim = 0 then 65536 * cycles else Config.interpolated s.dial.trim cycles)
    let position := s.dial.periodNs.toNat * (8 + s.cfg.sundial.stretchQ * s.dial.grants.toNat)
    (acc < position ∨ s.dial.pos = 65535 ∨ s.dialRuns = false → runs (.dialAdvance cycles) s fun t =>
      t.dial = { s.dial with ns := s.dial.ns + cycles, acc := acc } ∧ s.onlyIn t [.power, .dial, .sched]) ∧
    (s.dialRuns = true → s.dial.pos ≠ 65535 → position ≤ acc → runs (.dialAdvance cycles) s fun t =>
      t.dial.pos = s.dial.pos + 1 ∧ t.dial.step = s.dial.step ∧ t.dial.acc = acc - position ∧ t.dial.ns = s.dial.ns + cycles ∧
      t.memory.mem = s.memory.mem ∧ t.start = s.start ∧ t.staging = s.staging ∧ t.cfg = s.cfg ∧ t.run = s.run ∧ t.cores = s.cores ∧
      t.rambler = s.rambler)

/-- The boundary (R48, R71, R147, R148): the dial enters the next step at pos 0 with the announced period; a halt that is due stops a running
or paused slot with its cause and cancels what is held; a STOP for the new step stops it with cause 1, a PAUSE pauses it, and a START for it begins
the run.
Where the rules leave a choice, it rests on the model's readings of log entry 37. -/
def Obligations.StepBoundaryCrossing : Prop :=
  ∀ (s : State) (cycles : Nat),
    let acc := s.dial.acc + 8 * (if s.dial.trim = 0 then 65536 * cycles else Config.interpolated s.dial.trim cycles)
    let position := s.dial.periodNs.toNat * (8 + s.cfg.sundial.stretchQ * s.dial.grants.toNat)
    let quiet : Prop := s.run.run = 2 ∧ s.dial.haltCause = 0 ∧ s.dial.instances = [] ∧ s.train.rollback = false ∧ s.train.holdUntil = none ∧
      s.resil.restore.replayStep = none ∧ s.run.startAt = none
    (acc < position ∨ s.dial.pos ≠ 65535 ∨ s.dialRuns = false → runs (.stepBoundary cycles) s fun t =>
      t.dial = { s.dial with ns := s.dial.ns + cycles, acc := acc } ∧ s.onlyIn t [.power, .dial, .sched]) ∧
    (s.dialRuns = true → s.dial.pos = 65535 → position ≤ acc →
      (runs (.stepBoundary cycles) s fun t =>
        t.dial.pos = 0 ∧ t.dial.step = s.dial.step + 1 ∧ t.dial.grants = 0 ∧ t.dial.crossed = s.dial.locked ∧ t.dial.acc = acc - position ∧
        (s.cfg.sundial.table.all (fun e => e.type != 0xC) = true → t.dial.haltCause = 0 ∧ t.memory.stepFault = false) ∧
        (s.dial.isRoot = false → t.dial.periodNs = s.dial.nextPeriod.getD s.dial.periodNs) ∧
        t.start = s.start ∧ t.staging = s.staging ∧ t.cfg = s.cfg ∧ t.cores = s.cores ∧ t.rambler = s.rambler) ∧
      (s.run.run = 2 ∨ s.run.run = 3 → s.dial.haltCause ≠ 0 → runs (.stepBoundary cycles) s fun t =>
        t.run.run = 4 ∧ t.run.stopCause = s.dial.haltCause ∧ t.run.pauseAt = none ∧ t.run.stopAt = none ∧ t.run.evalAt = none ∧
        t.run.ckptAt = none ∧ t.run.startAt = none) ∧
      (quiet → s.run.stopAt = some (s.dial.step + 1) → s.dial.step.toNat < 2 ^ 48 - 1 → runs (.stepBoundary cycles) s fun t =>
        t.run.run = 4 ∧ t.run.stopCause = 1 ∧ t.run.stopAt = none) ∧
      (quiet → s.run.stopAt = none → s.run.pauseAt = some (s.dial.step + 1) → s.dial.step.toNat < 2 ^ 48 - 1 →
        runs (.stepBoundary cycles) s fun t => t.run.run = 3 ∧ t.run.pauseAt = none) ∧
      (s.run.run = 1 → s.run.startAt = some (s.dial.step + 1) → s.resil.restore.rejoin = false → runs (.stepBoundary cycles) s fun t =>
        t.run.run = 2 ∧ t.run.startAt = none ∧ t.run.runStep = s.dial.step + 1 ∧ t.run.firstRun = true))

/-- Beats (R54, R55, R61): one of a lower epoch is dropped and counted; one of a higher epoch makes its sender's root this device's root; a
device without lock takes the beat's place, moved on by its age, as its own; one further off than the limit costs the lock and halts the device; any other is
adopted and steers the trim. Lost beats, takeover and SYNC_IN (R58, R60, R73, R79): the limit of missed beats is counted and logged once; backup k becomes
root after k times the limit, in the next epoch, without a break in its step; an edge in its limits gives the next period and closes the offset by 1 % at
most, a missing one leaves the root to go on by itself.
Where the rules leave a choice, it rests on the model's readings of log entries 20, 37, 74, 75 and 76. -/
def Obligations.Beats : Prop :=
  (∀ (s : State) (port : Port) (f : BeatFlit), s.portUp port.val = true →
    let ahead := (f.epoch - s.dial.rootEpoch).toNat
    let late := s.dial.isRoot = false ∧ s.dial.locked = true ∧ ((s.port port.val).lastNakNs.any fun n => decide (s.dial.ns < n + 2000)) = false ∧
      s.offLock port.val f = true
    (s.dialRuns = false → runs (.beat port f) s fun t => t = s.forwardBeat port.val f ∧ s.onlyIn t [.links]) ∧
    (s.dialRuns = true → 128 ≤ ahead → runs (.beat port f) s fun t =>
      t.logs = { s.logs with staleBeats := satAdd s.logs.staleBeats 1 } ∧ s.onlyIn t [.logs]) ∧
    (s.dialRuns = true → 0 < ahead → ahead < 128 → runs (.beat port f) s fun t =>
      t.dial.rootEpoch = f.epoch ∧ t.dial.rootCoord = BitVec.ofNat 12 (coordNum f.coord) ∧ t.dial.isRoot = false ∧
      t.logs.epochs = satAdd s.logs.epochs 1 ∧ s.onlyIn t [.dial, .logs, .mbs, .sched, .train, .links]) ∧
    (s.dialRuns = true → ahead = 0 → s.dial.isRoot = true → runs (.beat port f) s fun t => t = s) ∧
    (s.dialRuns = true → ahead = 0 → s.dial.isRoot = false → s.dial.locked = false → runs (.beat port f) s fun t =>
      let parts := 4 * max f.curPeriod.toNat 1
      let place := ((f.step.toNat * 65536 + f.pos.toNat) * parts + (f.age.toNat + (s.port port.val).latency.toNat) * 65536) / parts
      t.dial.locked = true ∧ t.dial.crossed = false ∧ t.dial.step = BitVec.ofNat 48 (place / 65536) ∧
      t.dial.pos = BitVec.ofNat 16 (place % 65536) ∧ t.dial.missed = 0 ∧
      t.dial.periodNs = BitVec.ofNat 40 (ceilDiv (f.curPeriod.toNat * 8) (8 + s.cfg.sundial.stretchQ * f.grants.toNat)) ∧
      s.onlyIn t [.dial, .links]) ∧
    (s.dialRuns = true → ahead = 0 → late → runs (.beat port f) s fun t =>
      t.dial.locked = false ∧ t.logs.lockLost = satAdd s.logs.lockLost 1 ∧
      t.dial.haltCause = (if s.dial.haltCause = 0 then 3 else s.dial.haltCause) ∧ t.dial.pos = s.dial.pos ∧ t.dial.step = s.dial.step ∧
      s.onlyIn t [.dial, .logs, .links]) ∧
    (s.dialRuns = true → ahead = 0 → s.dial.isRoot = false → s.dial.locked = true → ¬ late → runs (.beat port f) s fun t => ∃ v : State,
      t = v.settle ∧ v.dial.locked = true ∧ v.dial.missed = 0 ∧ v.dial.lossLogged = false ∧ v.dial.extRefActive = f.extRef ∧
      v.dial.nextPeriod = (if f.nextValid = true then some f.nextPeriod else s.dial.nextPeriod) ∧
      v.dial.grants = (if f.step = s.dial.step then f.grants else s.dial.grants) ∧ v.dial.pos = s.dial.pos ∧ v.dial.step = s.dial.step ∧
      s.onlyIn v [.dial, .links])) ∧
  (∀ s : State,
    (s.dial.locked = true → s.dial.isRoot = false → s.dial.lossLogged = false → s.cfg.sundial.beatLossLimit ≤ s.dial.missed →
      runs .beatLost s fun t => t.dial = { s.dial with lossLogged := true } ∧ t.logs.beatsLost = satAdd s.logs.beatsLost 1 ∧
        s.onlyIn t [.dial, .logs]) ∧
    (∀ k : Nat, s.backupNumber = some k → s.dial.locked = true → s.dial.isRoot = false → k * s.cfg.sundial.beatLossLimit ≤ s.dial.missed →
      runs .rootTakeover s fun t =>
        t.dial.rootEpoch = s.dial.rootEpoch + 1 ∧ t.dial.isRoot = true ∧ t.dial.rootCoord = BitVec.ofNat 12 (coordNum s.coord) ∧
        t.dial.step = s.dial.step ∧ t.dial.pos = s.dial.pos ∧ t.logs.epochs = satAdd s.logs.epochs 1 ∧ s.onlyIn t [.dial, .logs]) ∧
    (s.syncConfigured = true →
      let missing (t : State) : Prop := s.onlyIn t [.dial, .logs] ∧ t.dial = { s.dial with
        extRefActive := false, nextPeriod := some (BitVec.ofNat 40 (s.dial.syncPeriod.getD s.dial.periodNs.toNat)) }
      (s.dial.extRefActive = true → runs .syncInLost s missing) ∧
      (s.dial.extRefActive = false → runs .syncInLost s fun t => t = s) ∧
      (∀ interval : Nat,
        let within := field s.cfg.sundial.periodMin.toNat 0 40 ≤ interval ∧ interval ≤ field s.cfg.sundial.periodMax.toNat 0 40 ∧
          (s.dial.extRefActive = true → interval * 100 ≤ s.dial.syncPeriod.getD s.dial.periodNs.toNat * 101)
        let period := s.dial.periodNs.toNat
        let into := s.dial.pos.toNat * period / 65536
        let off : Int := if into * 2 ≤ period then (into : Int) else (into : Int) - (period : Int)
        let close : Int := max (-((interval / 100 : Nat) : Int)) (min ((interval / 100 : Nat) : Int) off)
        (within → runs (.syncInEdge interval) s fun t => s.onlyIn t [.dial] ∧ t.dial = { s.dial with
          extRefActive := true, syncOffset := off - close, syncPeriod := some interval
          nextPeriod := some (BitVec.ofNat 40 ((interval : Int) + close).toNat) }) ∧
        (¬ within → s.dial.extRefActive = true → runs (.syncInEdge interval) s missing) ∧
        (¬ within → s.dial.extRefActive = false → runs (.syncInEdge interval) s fun t => t = s))))

/-- Reports along the beat tree (R70, R74, R343, R374): the root keeps the least slack, serves a stretch request by an earlier grant, takes it for the next
beat, denies it with 0x044 or keeps it until its role has a core, and announces go once every device has reported; other devices pass each on; a late report
is counted and discarded.
Where the rules leave a choice, it rests on the model's readings of log entry 39. -/
def Obligations.TreeReports : Prop :=
  ∀ s : State, s.dialRuns = true →
    (∀ (source : Coord) (entry : BitVec 10) (step : BitVec 48) (e : DialEntry), s.dial.isRoot = true → s.dialEntry entry.toNat = some e →
      let beats := if step = s.dial.step then s.dial.grantBeats else (s.dial.granted.filter fun g => g.1 == step.toNat).map (·.2)
      (s.roleUp 2 = false → runs (.stretchRequest source entry step) s fun t =>
        t.dial = { s.dial with held := s.dial.held ++ [(entry.toNat, step.toNat)] } ∧ s.onlyIn t [.dial]) ∧
      (s.roleUp 2 = true → (∃ b ∈ beats, e.closes ≤ b) → runs (.stretchRequest source entry step) s fun t => t = s) ∧
      (s.roleUp 2 = true → (∀ b ∈ beats, b < e.closes) → s.denies step.toNat = false → runs (.stretchRequest source entry step) s fun t =>
        t.dial = { s.dial with waiting := s.dial.waiting ++ [(entry.toNat, step.toNat)] } ∧ s.onlyIn t [.dial]) ∧
      (s.roleUp 2 = true → (∀ b ∈ beats, b < e.closes) → s.denies step.toNat = true → runs (.stretchRequest source entry step) s fun t =>
        t.logs.denials = satAdd s.logs.denials 1 ∧ t.logs.dialNext = s.logs.dialNext + 1 ∧ s.onlyIn t [.logs])) ∧
    (∀ (source : Coord) (entry : BitVec 10) (step : BitVec 48), s.dial.isRoot = false → runs (.stretchRequest source entry step) s fun t =>
      t.links = (s.sendUp (treeUp 1 0 source entry.toNat step.toNat)).links ∧ s.onlyIn t [.links]) ∧
    (∀ (port : Port) (step : BitVec 48) (value : BitVec 16), s.portUp port.val = true →
      let least (a : Option Int) : Int := a.elim (signed value.toNat 16) fun x => min x (signed value.toNat 16)
      let late : Prop := step ≠ s.dial.step ∧ (step.toNat + 1 ≠ s.dial.step.toNat ∨ s.dial.isRoot = true ∧ 32768 ≤ s.dial.pos.toNat)
      (step = s.dial.step → runs (.slackReport port step value) s fun t =>
        t.dial = { s.dial with reportEarly := some (least s.dial.reportEarly) } ∧ s.onlyIn t [.dial]) ∧
      (step ≠ s.dial.step → ¬ late → s.dial.isRoot = true → runs (.slackReport port step value) s fun t =>
        t.dial = { s.dial with reportMin := some (least s.dial.reportMin) } ∧ s.onlyIn t [.dial]) ∧
      (step ≠ s.dial.step → ¬ late → s.dial.isRoot = false → runs (.slackReport port step value) s fun t =>
        t.dial = { s.dial with reportMin := some (least s.dial.reportMin) } ∧
        t.links = (s.sendUp (treeUp 0 (toField (least s.dial.reportMin) 16) ⟨0, 0, 0⟩ 0 step.toNat)).links ∧ s.onlyIn t [.dial, .links]) ∧
      (late → runs (.slackReport port step value) s fun t =>
        t.logs = { s.logs with lateReports := satAdd s.logs.lateReports 1 } ∧ s.onlyIn t [.logs])) ∧
    (∀ port : Port, s.portUp port.val = true →
      (s.dial.isRoot = true → runs (.reshardCompletionReport port s.dial.step) s fun t =>
        t.tables = { s.tables with reports := s.tables.reports + 1 } ∧
        (t.dial.go = if s.jobSize ≤ s.tables.reports + 1 then true else s.dial.go) ∧ s.onlyIn t [.dial, .tables]) ∧
      (s.dial.isRoot = false → runs (.reshardCompletionReport port s.dial.step) s fun t =>
        t.links = (s.sendUp (treeUp 2 0 ⟨0, 0, 0⟩ 0 s.dial.step.toNat)).links ∧ s.onlyIn t [.links]) ∧
      (∀ step, step ≠ s.dial.step → runs (.reshardCompletionReport port step) s fun t => t = s))

/-- Dispatch (R65, R336, R338): once the scheduler is up to date, of the held ready contexts of the class the one of lowest key that a free
unit can run goes to state 3 on that unit and is counted; where none can run, nothing is dispatched. The tiers' bytes stay.
Where the rules leave a choice, it rests on the model's readings of log entries 39 and 40. -/
def Obligations.Dispatching : Prop :=
  ∀ (s : State) (region : Region) (cls : UnitClass),
    let held := (s.settle.sched.getD region.val RegionSched.reset).ready s.settle.run.c (classUnit cls) false
    let choice := held.findSome? fun x => (s.settle.runnable region.val x.2).map fun y => (x, y)
    (choice = none → runs (.dispatch region cls) s fun t => t = s.settle) ∧
    (∀ (k : Nat) (x : TaskContext) (o : Op) (unit : Nat), choice = some ((k, x), (o, unit)) → runs (.dispatch region cls) s fun t =>
      ∃ v : State, t = v.settle ∧
        (∃ again, v.ctx ⟨region, k⟩ = some { x with state := 3, unitIndex := BitVec.ofNat 4 unit, recompute := again } ∧
          (x.part = false → again = false)) ∧
        (v.sched[region.val]?).map (·.dispatched) = (s.settle.sched[region.val]?).map (fun r => r.dispatched + 1) ∧
        s.onlyIn t [.dial, .mbs, .sched, .memory, .tables, .cursors, .train])

/-- Completion and time-outs (R330, R339): a work item that has run is recorded in its region's completion table and its context freed, one
that still runs is left; a waiting job-slot context past its entry's close stays waiting with timed_out set and is counted; one in its time
is left; a context of control-core firmware past its cycle, modulo 2^48, becomes ready with timed_out set.
Where the rules leave a choice, it rests on the model's readings of log entries 27 and 40. -/
def Obligations.InstanceEnds : Prop :=
  ∀ (s : State) (c : CtxId) (x : TaskContext), s.ctx c = some x →
    (x.state = 4 → s.awaitsSweep x = false → runs (.instanceComplete c) s fun t => ∃ v : State, t = v.settle ∧ v.ctx c = none ∧
      (v.sched[c.region.val]?).map (·.completed) =
        (s.sched[c.region.val]?).map (fun r => r.completed ++ [(x.op.toNat, x.mb.toNat, x.part)]) ∧
      v.gather.rows = s.gather.rows.filter (fun y => y.ctx != c) ∧ s.onlyIn t [.dial, .mbs, .sched, .gather, .train]) ∧
    (x.state ≠ 4 ∨ s.awaitsSweep x = true → runs (.instanceComplete c) s fun t => t = s) ∧
    (x.state = 1 → x.timedOut = false → x.toCycles = false →
      (s.dial.step.toNat ≠ x.step.toNat ∨ x.toValue.toNat < s.dial.pos.toNat → runs (.contextTimeout c) s fun t =>
        t.ctx c = some { x with timedOut := true } ∧
        (t.sched[c.region.val]?).map (·.timeouts) = (s.sched[c.region.val]?).map (fun r => satAdd r.timeouts 1) ∧ s.onlyIn t [.sched]) ∧
      (s.dial.step.toNat = x.step.toNat → s.dial.pos.toNat ≤ x.toValue.toNat → runs (.contextTimeout c) s fun t => t = s)) ∧
    (x.state = 1 → x.timedOut = false → x.toCycles = true →
      let past := (s.sched.getD c.region.val RegionSched.reset).cycles - x.toValue
      (past.toNat < 2 ^ 47 → runs (.contextTimeout c) s fun t =>
        (∃ spilled, t.ctx c = some { x with timedOut := true, state := 2, spilled := spilled }) ∧ s.onlyIn t [.sched]) ∧
      (2 ^ 47 ≤ past.toNat → runs (.contextTimeout c) s fun t => t = s))

/-- ACTIVATE, NORMALISE and LOSS (R136, R137, R242, R306): with clean inputs each writes its rows, LOSS adds the rows it does not ignore to the
micro-batch's samples and loss, and the item has run; only bytes of the rows written change. Poison in what one reads drops the
micro-batch.
Where the rules leave a choice, it rests on the model's readings of log entries 12, 13, 14 and 46. -/
def Obligations.PoolForward : Prop :=
  ∀ (s : State) (c : CtxId) (x : TaskContext) (o : Op) (k : Nat) (u : State) (m : MicroBatch), s.runsForward c x o k u → u.viewMb x = some m →
    let changed : List Part := [.draws, .dial, .logs, .mbs, .sched, .memory, .gather, .train, .blocks, .links, .bytes]
    (∀ (i out f : Nat) (a b : Operand), o.body = .activate i out f → u.operand i = some a → u.operand out = some b →
      let r := u.noteOperand c (some m) 0 i a
      let bad := (u.inputRows x m 0 i a).any (·.poison) || r.readsBad c
      (bad = true → runs (.activate c) s fun t => t = r.dropPoison c) ∧
      (bad = false → runs (.activate c) s fun t =>
        t = (((r.writeRows m out b ((u.inputRows x m 0 i a).map fun r => (f32s r.vals).map (Machine.activate f))).endForward c k).draw) ∧
        t.ctx c = some (x.ran k) ∧ u.bytesOnlyIn t (u.rowRanges (some m) out b a.m) ∧ s.onlyIn t changed)) ∧
    (∀ (n : NormaliseOp) (a b : Operand), o.body = .normalise n → u.operand n.inp = some a → u.operand n.out = some b →
      let r := u.noteOperand c (some m) 0 n.inp a
      let r := (r.operand n.affine).elim r fun z => r.noteOperand c (some m) m.weightV n.affine z
      let bad := (u.inputRows x m 0 n.inp a).any (·.poison) || (u.affineRows m n).2.2 || r.readsBad c
      (bad = true → runs (.normalise c) s fun t => t = r.dropPoison c) ∧
      (bad = false → runs (.normalise c) s fun t =>
        t = (((r.writeRows m n.out b ((u.inputRows x m 0 n.inp a).map fun r =>
          Config.normaliseRow n.kind n.eps (u.affineRows m n).1 (u.affineRows m n).2.1 (f32s r.vals))).endForward c k).draw) ∧
        t.ctx c = some (x.ran k) ∧ u.bytesOnlyIn t (u.rowRanges (some m) n.out b a.m) ∧ s.onlyIn t changed)) ∧
    (∀ (logits target grad kind : Nat) (margin : BitVec 32) (a b : Operand), o.body = .loss logits target grad kind margin →
      u.operand logits = some a → u.operand target = some b →
      let bad := (u.inputRows x m 0 logits a).any (·.poison) || u.operandPoisoned (some m) 0 target b || u.readsBad c
      (bad = true → runs (.loss c) s fun t =>
        t = ((u.noteOperand c (some m) 0 logits a).noteOperand c (some m) 0 target b).dropPoison c) ∧
      (bad = false → runs (.loss c) s fun t =>
        t.ctx c = some (x.ran k) ∧ s.onlyIn t changed ∧
        u.bytesOnlyIn t (if o.eval then [] else (u.operand grad).elim [] fun z => u.rowRanges (some m) grad z a.m) ∧
        (let codes (r : Nat) : List Nat :=
          let row := u.rowNum (some m) 0 target b r
          if b.format = 0xC then [field row 0 64] else (List.range b.n).map fun j => storedCode b.format row j
        let live := (List.range b.m).filter fun r => !(b.format == 0xC && (codes r).headD 0 == ignoredTarget)
        let logit := (u.inputRows x m 0 logits a).map fun r => f32s r.vals
        t.mbs = u.mbs.map fun q => if q.mb == m.mb && q.step == m.step then
          { q with samples := q.samples + live.length
                   loss := live.foldl (fun acc r => add64 acc (lossOf kind margin logit r (codes r)).1) q.loss }
        else q)))

/-- SPOUT within its arguments (R122, R139, R242, R306, R337): the code's accesses are done and the item has run, at scope 2 once each of its 32
sub-items, sub-item r on a free core of region r mod 4, has run; only bytes written to the operands named change, with
the Coolers' copies of table rows (R176). A scope-0 item that has read poison drops its micro-batch.
Where the rules leave a choice, it rests on the model's readings of log entries 41 and 66. -/
def Obligations.SpoutWrites : Prop :=
  ∀ (s : State) (c : CtxId) (x : TaskContext) (o : Op) (k : Nat) (u : State) (code : Nat) (args : List Nat) (budget : Nat)
    (sub : Fin 32) (accesses : List SpoutAccess), s.runsForward c x o k u → o.body = .spout code args budget →
    accesses.any (u.spoutBad args (o.scope == 0)) = false →
    let parts (w : SpoutAccess) : List (Nat × Nat) :=
      match w with
      | .write a off bs => (u.operand (args.getD a.val noOperand)).elim [] fun y =>
        if y.kind = 4 then (u.table y.table).elim [] fun z => (List.range bs.length).flatMap fun j =>
          (((u.tableKey z (off + j)).toList ++ ((u.argNode z (off + j)).elim [] fun n =>
            (u.coolerCopies z (u.liveVersion z.id) n).map (· + (off + j) % z.argRow))).map fun k => (k, 1))
        else ((u.operandBase (u.viewMb x) u.weightVersion.toNat (args.getD a.val noOperand) y).plus off).range bs.length
      | _ => []
    let ran (core : Nat) : State × Bool := u.spoutRun c core (u.viewMb x) args accesses
    let done (core : Nat) (t : State) : Prop := s.onlyIn t [.dial, .logs, .mbs, .sched, .memory, .tables, .links, .bytes] ∧
      u.bytesOnlyIn t (accesses.flatMap parts) ∧ t.memory = (ran core).1.memory ∧ t.logs = (ran core).1.logs ∧ t.links = (ran core).1.links
    let own : Nat := 9 * c.region.val + x.unitIndex.toNat
    (o.scope = 0 → (ran own).2 = true → runs (.spout c sub accesses) s fun t => t = (ran own).1.dropPoison c) ∧
    (o.scope ≠ 2 → (o.scope = 0 → (ran own).2 = false) → runs (.spout c sub accesses) s fun t => t.ctx c = some (x.ran k) ∧ done own t) ∧
    (∀ core : Nat, o.scope = 2 → u.freeSpout (sub.val % 4) (some c) = some core → x.subs.contains sub.val = false →
      runs (.spout c sub accesses) s fun t => done (9 * (sub.val % 4) + core) t ∧
        (x.part = false → t.ctx c = some { x with
          subs := x.subs ++ [sub.val], state := if x.subs.length = 31 then 4 else x.state }))

/-- SPOUT beyond its arguments or its budget (R139). At scopes 1 and 2 the halt at the boundary is the stop of R48: cause 2. -/
def Obligations.SpoutFaults : Prop :=
  ∀ (s : State) (c : CtxId) (x : TaskContext) (o : Op) (k : Nat) (u : State) (code : Nat) (args : List Nat) (budget : Nat)
    (sub : Fin 32) (accesses : List SpoutAccess), s.runsForward c x o k u → o.body = .spout code args budget →
    ∀ fault : Instr × Nat, (fault = (.spoutBudget c, 0x07D) ∨ fault = (.spout c sub accesses, 0x07C) ∧
        accesses.any (u.spoutBad args (o.scope == 0)) = true ∧
        (o.scope = 2 → x.subs.contains sub.val = false ∧ u.freeSpout (sub.val % 4) (some c) ≠ none)) →
      runs fault.1 s fun t =>
        t.logs.errorCounts[fault.2]? = (s.logs.errorCounts[fault.2]?).map (satAdd · 1) ∧ t.memory = s.memory ∧
        (o.scope = 0 → ∀ m, u.itemMb x = some m → m.dropped = false → m.committed = false →
          ∀ q ∈ t.mbs, q.mb = m.mb → q.step = m.step → q.dropped = true) ∧
        (o.scope ≠ 0 → t.ctx c = some (x.ran k) ∧ t.dial.haltCause = (if s.dial.haltCause = 0 then 2 else s.dial.haltCause))

/-- FILL (R403, R407): the first FILL of the queue leaves every byte of the target's extents at the pattern, their lines clean; FILL_STATUS
counts it and shows the next FILL of the queue; nothing else of memory changes. A later FILL waits. The extents are disjoint in a slot that
start accepts.
Where the rules leave a choice, it rests on the model's readings of log entry 40. -/
def Obligations.Fills : Prop :=
  ∀ (s : State) (c : CtxId) (x : TaskContext) (o : Op) (target : Nat) (pattern : BitVec 64) (y : Operand), s.runsItem c false x o →
    o.body = .fill target pattern → s.operand target = some y →
    let first := s.memory.fill.queue.find? fun d => (s.ctx d).isSome
    let next := s.memory.fill.queue.filter fun d => d != c && (s.ctx d).isSome
    (first ≠ some c → runs (.fill c) s fun t => t = s) ∧
    (first = some c →
      (∀ e ∈ s.fillExtents target y, ∀ f ∈ s.fillExtents target y, e = f ∨ e.1 + e.2 ≤ f.1 ∨ f.1 + f.2 ≤ e.1) → runs (.fill c) s fun t =>
      t.ctx c = some { x with state := 4 } ∧ s.bytesOnlyIn t (s.fillExtents target y) ∧
      (∀ e ∈ s.fillExtents target y, ∀ j, j < e.2 →
        t.memory.mem.byte? (e.1 + j) = (leBytes pattern.toNat 8)[j % 8]? ∧ t.memory.mem.poisoned (e.1 + j) = false) ∧
      t.memory.fill.fills = s.memory.fill.fills + 1 ∧ t.memory.fill.queue = next ∧ t.memory.fill.active = !next.isEmpty ∧
      t.memory.fill.progress = (if next = [] then 0xFFFF else 0) ∧
      (next.head?.bind s.ctx).all (fun z => t.memory.fill.op == z.op) = true ∧ s.onlyIn t [.sched, .memory, .bytes])

/-- TABLE_SWITCH and INTAKE (R142, R143, R169, R338): a switch is staged for the boundary unless a later instance has staged one; INTAKE accepts
the block of the next step from its ring row and places the read cursor, and re-arms where that row holds another step's block or a fault.
Where the rules leave a choice, it rests on the model's readings of log entry 37. -/
def Obligations.RoleItems : Prop :=
  ∀ (s : State) (c : CtxId) (x : TaskContext) (o : Op), s.runsItem c false x o →
    (∀ (table : Nat) (version : Bool), o.body = .tableSwitch table version → runs (.tableSwitch c) s fun t =>
      t.ctx c = some { x with state := 4 } ∧ s.onlyIn t [.sched, .tables] ∧
      t.tables = (if s.laterSwitch x.op.toNat table then s.tables else { s.tables with
        tables := modifyAt s.tables.tables table fun y => { y with switchPending := true, pendingVersion := version } })) ∧
    (∀ (ring : Nat) (y : Operand), o.body = .intake ring → s.operand ring = some y →
      let next := s.dial.step.toNat + 1
      let n := y.rowBytes
      let v := s.placeNum (s.rowPlace none 0 ring y (next % y.m)) n
      let rearmed (t : State) : Prop := (∃ w : State, t = w.settle ∧
        w.ctx c = some { x with state := 1, flags := x.flags &&& 0xEFFFFFFF#32 }) ∧ t.run = s.run ∧ t.cursors = s.cursors
      let moved : List Part := [.draws, .dial, .logs, .run, .mbs, .sched, .memory, .cursors, .train]
      (field v 64 48 ≠ next → runs (.intake c) s fun t => rearmed t ∧ s.onlyIn t moved) ∧
      (field v 64 48 = next → firstFault (seedFaults v n) = none → runs (.intake c) s fun t => (∃ w : State, t = w.settle ∧
        w.ctx c = some { x with state := 4 }) ∧ s.onlyIn t moved ∧
        t.cursors = (s.onCursor 0 fun z => z.place (field v 128 64)).cursors ∧
        t.run = { s.run with accepted := some ⟨next, field v 16 10 + 1, field v 32 12 + 1, field v 128 64, next % y.m⟩ }) ∧
      (∀ code, field v 64 48 = next → firstFault (seedFaults v n) = some code → runs (.intake c) s fun t => rearmed t ∧ s.onlyIn t moved ∧
        (s.placePoisoned (s.rowPlace none 0 ring y (next % y.m)) n = false → t.logs.written = s.logs.written + 1)))

/-- SAMPLE (R165, R193–R195, R211, R213, R217, R522): a basket whose hops succeed is written, node and trail entries before its record, and
counted; a fault drops it; a sector of another device is asked for once and waited for, 4,096 positions; a stalled region samples nothing.
Only its lists and trail change in memory.
Where the rules leave a choice, it rests on the model's readings of log entries 42 and 68. -/
def Obligations.Sampling : Prop :=
  ∀ (s : State) (c : CtxId) (x : TaskContext) (o : Op) (m : MicroBatch) (basket seeds lists trail : Nat) (remote : List RemoteSector),
    s.runsItem c false x o → s.itemMb x = some m → o.body = .sample basket seeds lists trail →
    (s.tables.stalled.contains c.region = true → runs (.sample c remote) s fun t => t = s) ∧
    (s.tables.stalled.contains c.region = false →
      (∀ (b : Basket) (l y : Operand), s.sampleBasket m o (s.slotCfg.basketOf basket) seeds remote = .ok b → s.operand lists = some l →
        s.operand trail = some y → runs (.sample c remote) s fun t =>
          let at' := s.rowPlace (some m) 0 lists l 0
          t.ctx c = some { x with state := 4 } ∧
          s.bytesOnlyIn t (at'.range 64 ++ (at'.plus 64).range (8 * b.nodes) ++ (s.rowPlace (some m) 0 trail y 0).range (16 * b.trail.length)) ∧
          (∀ k i, at' = .own k → i < 64 → t.memory.mem.byte? (k + i) = (leBytes (b.record m) 64)[i]?) ∧
          t.rambler[c.region.val]? = (s.rambler[c.region.val]?).map (fun r => { r with
            baskets := r.baskets + 1, clipped := addN r.clipped (bit (b.clipHop != 0)), edges := addN r.edges b.trail.length
            candidates := addN r.candidates b.calls, remoteEdges := addN r.remoteEdges b.remote }) ∧
          s.onlyIn t [.draws, .logs, .sched, .memory, .tables, .rambler, .links, .bytes]) ∧
      (∀ f, s.sampleBasket m o (s.slotCfg.basketOf basket) seeds remote = .error f →
        let asked := s.gather.sectors.find? fun y => y.ctx == c && y.addr == f.sector
        (f.code ≠ 0 → runs (.sample c remote) s fun t => t = (s.dropSample c f).draw) ∧
        (f.code = 0 → asked = none → runs (.sample c remote) s fun t =>
          t.gather.sectors = s.gather.sectors ++ [⟨c, f.sector, s.dialTime⟩] ∧ t.ctx c = some x ∧ s.onlyIn t [.gather]) ∧
        (∀ y, f.code = 0 → asked = some y → s.dialTime < y.sent + 4096 → runs (.sample c remote) s fun t => t = s) ∧
        (∀ y, f.code = 0 → asked = some y → y.sent + 4096 ≤ s.dialTime → runs (.sample c remote) s fun t =>
          (t.gather.regions[c.region.val]?).map (·.timeouts) = (s.gather.regions[c.region.val]?).map (fun r => satAdd r.timeouts 1) ∧
          t.logs.errorCounts[0xA1]? = (s.logs.errorCounts[0xA1]?).map (satAdd · 1) ∧ t.memory = s.memory)))

/-- GATHER (R164–R168, R223, R230, R243, R244): with every row at hand the rows are read and written, the shard stamp is kept, and the item has
run; a re-gather whose stamp differs is dropped with 0x0A0; a row still to come leaves it running; an invalid node drops the micro-batch
with its code, a row under update with 0x085.
Where the rules leave a choice, it rests on the model's readings of log entries 43 and 44. -/
def Obligations.Gathering : Prop :=
  ∀ (s : State) (c : CtxId) (bad : List Nat) (x : TaskContext) (o : Op) (k : Nat) (u : State) (m : MicroBatch) (lists hop table out : Nat)
    (tb : TableDesc) (y : Operand), s.runsForward c x o k u → u.viewMb x = some m → o.body = .gather lists hop table out →
    u.slotCfg.tableOf u.cfg.tables table = some tb → u.operand out = some y →
    let items := (u.listNodes m lists hop).zipIdx.map fun n => (⟨n.2, n.1, n.2, n.2, bf16One⟩ : ReadItem)
    let changed : List Part := [.draws, .dial, .logs, .mbs, .sched, .memory, .tables, .gather, .train, .blocks, .links, .bytes]
    (u.rowsClear c m x.part tb items → u.rowsHeld c m tb items →
      let read := u.readTableRows c tb (m.versionB.contains tb.id) items bad
      ((x.part = true → ∀ stamp, lookupNat k m.stamps = some stamp → stamp = u.stampOf tb) → runs (.gather c bad) s fun t =>
        t.ctx c = some (x.ran k) ∧ (∀ q ∈ t.gather.rows, q.ctx ≠ c) ∧
        t.memory.mem = (read.2.foldl (fun v r => v.writeElems m out y r.dst r.elems []) read.1).memory.mem ∧
        (x.part = false → ∀ q ∈ t.mbs, q.mb = m.mb → q.step = m.step → lookupNat k q.stamps = some (u.stampOf tb)) ∧
        (tb.cooler = 0 → u.bytesOnlyIn t (u.rowRanges (some m) out y items.length)) ∧ s.onlyIn t changed) ∧
      (∀ stamp, x.part = true → lookupNat k m.stamps = some stamp → stamp ≠ u.stampOf tb → u.stashEntry m out false = none →
        runs (.gather c bad) s fun t => t.memory.mem = read.1.memory.mem ∧
          (t.gather.regions[c.region.val]?).map (·.drift) = (s.gather.regions[c.region.val]?).map (fun r => satAdd r.drift 1) ∧
          t.logs.errorCounts[0xA0]? = (s.logs.errorCounts[0xA0]?).map (satAdd · 1))) ∧
    (u.rowsClear c m x.part tb items → ¬ u.rowsHeld c m tb items → tb.cooler ≠ 2 → runs (.gather c bad) s fun t =>
      t.ctx c = some x ∧ t.memory.mem = u.memory.mem ∧ ∀ q ∈ u.gather.requests, q ∈ t.gather.requests) ∧
    (u.rowsStalled c = true → runs (.gather c bad) s fun t => t = u.draw) ∧
    (∀ code node, u.rowsStalled c = false → u.firstInvalid m tb items = some (code, node) → runs (.gather c bad) s fun t =>
      t = ((u.dropFor c code (nodeDetail node tb.id)).settle).draw) ∧
    (∀ i, u.rowsStalled c = false → u.firstInvalid m tb items = none → u.firstLate m x.part tb items = some i → runs (.gather c bad) s fun t =>
      t = ((u.dropFor c 0x085 (nodeDetail i.node tb.id)).settle).draw)

/-- AGGREGATE (R7, R164–R168, R223–R230, R243, R244): with its rows at hand it folds every destination, counts its edges and has run, from a table or from
a kind 3 operand; a re-gather whose stamp differs is dropped with 0x0A0; a row still to come leaves it running; an invalid node or a row under
update drops the micro-batch.
Where the rules leave a choice, it rests on the model's readings of log entry 44. -/
def Obligations.Aggregation : Prop :=
  ∀ (s : State) (c : CtxId) (order bad : List Nat) (x : TaskContext) (o : Op) (k : Nat) (u : State) (m : MicroBatch) (a : AggregateOp)
    (y : Operand), s.runsForward c x o k u → u.viewMb x = some m → o.body = .aggregate a → u.operand a.out = some y →
    let lists := u.slotCfg.listsOf o.eval a.trail
    let edges := u.trailItems m lists a.trail a.hop
    let items := edges ++ u.ownItems m lists a
    let changed : List Part := [.draws, .dial, .logs, .mbs, .sched, .memory, .tables, .gather, .train, .blocks, .links, .bytes]
    let counted (t : State) : Prop := t.ctx c = some (x.ran k) ∧ s.onlyIn t changed ∧
      (t.gather.regions[c.region.val]?).map (·.fwdEdges) = (u.gather.regions[c.region.val]?).map (fun r => addN r.fwdEdges edges.length)
    let rows := u.rowRanges (some m) a.out y (u.recordField m lists (192 + 32 * (a.hop - 1)))
    (∀ (tb : TableDesc) (src : Operand), u.slotCfg.tableOf u.cfg.tables a.src = some tb → u.operand a.src = some src →
      (u.rowsClear c m x.part tb items → u.rowsHeld c m tb items →
        (x.part = true → ∀ stamp, lookupNat k m.stamps = some stamp → stamp = u.stampOf tb) → runs (.aggregate c order bad) s fun t =>
          let read := u.readTableRows c tb (m.versionB.contains tb.id) items bad
          counted t ∧ (∀ q ∈ t.gather.rows, q.ctx ≠ c) ∧ t.memory.mem = (read.1.foldAll m a order y items read.2).memory.mem ∧
          (tb.cooler = 0 → u.slotCfg.hasWinners a.out = false → u.bytesOnlyIn t rows)) ∧
      (u.rowsClear c m x.part tb items → u.rowsHeld c m tb items → ∀ stamp, x.part = true → lookupNat k m.stamps = some stamp →
        stamp ≠ u.stampOf tb → u.stashEntry m a.out false = none → runs (.aggregate c order bad) s fun t =>
          t.memory.mem = (u.readTableRows c tb (m.versionB.contains tb.id) items bad).1.memory.mem ∧
          (t.gather.regions[c.region.val]?).map (·.drift) = (s.gather.regions[c.region.val]?).map (fun r => satAdd r.drift 1) ∧
          t.logs.errorCounts[0xA0]? = (s.logs.errorCounts[0xA0]?).map (satAdd · 1)) ∧
      (u.rowsClear c m x.part tb items → ¬ u.rowsHeld c m tb items → tb.cooler ≠ 2 → runs (.aggregate c order bad) s fun t =>
        t.ctx c = some x ∧ t.memory.mem = u.memory.mem ∧ ∀ q ∈ u.gather.requests, q ∈ t.gather.requests) ∧
      (u.rowsStalled c = true → runs (.aggregate c order bad) s fun t => t = u.draw) ∧
      (∀ code node, u.rowsStalled c = false → u.firstInvalid m tb items = some (code, node) → runs (.aggregate c order bad) s fun t =>
        t = ((u.dropFor c code (nodeDetail node tb.id)).settle).draw) ∧
      (∀ i, u.rowsStalled c = false → u.firstInvalid m tb items = none → u.firstLate m x.part tb items = some i →
        runs (.aggregate c order bad) s fun t => t = ((u.dropFor c 0x085 (nodeDetail i.node tb.id)).settle).draw)) ∧
    (∀ src : Operand, u.slotCfg.tableOf u.cfg.tables a.src = none → u.operand a.src = some src → runs (.aggregate c order bad) s fun t =>
      let read := items.foldl (fun (p : State × List ReadRow) i =>
        let z := p.1.readTensorRow c m a.src src (u.inputRows x m 0 a.src src) i; (z.1, p.2 ++ [z.2])) (u, [])
      counted t ∧ t.memory.mem = (read.1.foldAll m a order y items read.2).memory.mem ∧
      (u.slotCfg.hasWinners a.out = false → u.bytesOnlyIn t rows))

/-- Rows of other devices (R32, R168, R230, R231, R422–R424): an owner answers a request with its row, refuses it while the table is updated,
holds one of a later step, and flags one of another layout; a reply with its engine's tag reaches its request once, a refusal drops the
micro-batch with 0x085, one of another layout drops it with 0x0E4 and halts; a stale reply is dropped and counted; a request
unanswered for 4,096 positions drops its micro-batch with 0x0A1.
Where the rules leave a choice, it rests on the model's readings of log entry 43. -/
def Obligations.RemoteRows : Prop :=
  ∀ s : State,
    (∀ (lgen : BitVec 8) (src : Coord) (q : RowReqEntry), s.start.loaded = true →
      let refused (status : Nat) : State := (s.sendReply src [⟨q.tag.toNat, status, [], 0⟩]).draw
      (lgen ≠ s.tables.generation → runs (.rowReq lgen src [q]) s fun t => t = refused 2) ∧
      (∀ (tb : TableDesc) (k : Nat), lgen = s.tables.generation → s.table q.table.toNat = some tb → s.ownRowKey tb q.version q.node.toNat = some k →
        (¬ ((tb.kind = 2 ∨ tb.kind = 4) ∧ s.isUpdating tb.id = true) → tb.rowBytes ≤ 4096 → runs (.rowReq lgen src [q]) s fun t =>
          t = ((s.serveRow tb q k).1.sendReply src [⟨q.tag.toNat, 0, flitsOf (s.bytesAt k tb.rowBytes),
            (List.range (tb.rowBytes / 64)).foldl (fun p j => p + bit (s.memory.mem.poisoned (k + 64 * j)) * 2 ^ j) 0⟩]).draw ∧
          t.memory.mem = s.memory.mem) ∧
        ((tb.kind = 2 ∨ tb.kind = 4) → s.isUpdating tb.id = true → q.step.toNat ≤ s.dial.step.toNat → runs (.rowReq lgen src [q]) s fun t =>
          t = refused 1) ∧
        ((tb.kind = 2 ∨ tb.kind = 4) → s.isUpdating tb.id = true → s.dial.step.toNat < q.step.toNat → runs (.rowReq lgen src [q]) s fun t =>
          t.tables = { s.tables with heldRequests := s.tables.heldRequests ++ [(tb.id, src, q)] } ∧ s.onlyIn t [.tables, .draws]))) ∧
    (∀ (src : Coord) (poison : Word) (e : RowReplyEntry) (data : List Flit), s.start.loaded = true → e.status ≠ 3 →
      (if e.status = 0 then data.length = e.flits.toNat + 1 else data = [] ∧ e.flits = 0) →
      let current := e.gen = s.engineTag (gatherEngineKey (e.tag.toNat % 4))
      let asked := s.gather.requests.find? fun q => q.tag == e.tag
      (∀ q : RowRequest, current → asked = some q → q.owner = src →
        (e.status = 0 → runs (.rowReply src poison [e] data) s fun t =>
          t.gather.rows = s.gather.rows ++ [⟨q.ctx, q.item, data.flatMap flitBytes, poison.toNat % 2 ^ data.length, false⟩] ∧
          t.gather.requests = s.gather.requests.filter (fun y => y.tag != e.tag) ∧ s.onlyIn t [.gather, .tables, .memory, .bytes]) ∧
        (e.status = 1 → runs (.rowReply src poison [e] data) s fun t =>
          t.logs.errorCounts[0x85]? = (s.logs.errorCounts[0x85]?).map (satAdd · 1) ∧ t.memory = s.memory) ∧
        (e.status = 2 → runs (.rowReply src poison [e] data) s fun t =>
          t.logs.errorCounts[0xE4]? = (s.logs.errorCounts[0xE4]?).map (satAdd · 1) ∧ t.memory = s.memory ∧
          t.dial.haltCause = (if s.dial.haltCause = 0 then 4 else s.dial.haltCause))) ∧
      (∀ q : RowRequest, current → asked = some q → q.owner ≠ src → runs (.rowReply src poison [e] data) s fun t => t = s) ∧
      (current → asked = none → runs (.rowReply src poison [e] data) s fun t =>
        t.gather = { s.gather with regions := modifyAt s.gather.regions (e.tag.toNat % 4) fun r => { r with
          lateReplies := satAdd r.lateReplies 1 } } ∧ s.onlyIn t [.gather]) ∧
      (¬ current → runs (.rowReply src poison [e] data) s fun t => t.resil.stale = s.resil.stale + 1 ∧ s.onlyIn t [.resil])) ∧
    (∀ (tag : BitVec 20) (q : RowRequest), s.gather.requests.find? (fun q => q.tag == tag) = some q →
      (s.dialTime < q.sent + 4096 → runs (.gatherTimeout tag) s fun t => t = s) ∧
      (q.sent + 4096 ≤ s.dialTime → runs (.gatherTimeout tag) s fun t =>
        (t.gather.regions[q.ctx.region.val]?).map (·.timeouts) = (s.gather.regions[q.ctx.region.val]?).map (fun r => satAdd r.timeouts 1) ∧
        t.logs.errorCounts[0xA1]? = (s.logs.errorCounts[0xA1]?).map (satAdd · 1) ∧ t.memory = s.memory ∧
        (∀ y m, s.ctx q.ctx = some y → s.itemMb y = some m → m.dropped = false → m.committed = false →
          ∀ z ∈ t.mbs, z.mb = m.mb → z.step = m.step → z.dropped = true)))

/-- Backward parts of the Spout pool and of gathers (R140, R233, R237, R242, R291–R293, R296, R306): with clean inputs ACTIVATE adds its rows into
the companion of its input, NORMALISE too, and it stages its affine gradient; poison drops the micro-batch; a gather into a table has its walk ready
and waits for the sweep; into a kind 3 operand the contributions are added in trail order.
Where the rules leave a choice, it rests on the model's readings of log entries 14, 29 and 45. -/
def Obligations.BackwardItems : Prop :=
  ∀ (s : State) (c : CtxId) (x : TaskContext) (o : Op) (m : MicroBatch) (u : State), s.runsPart c x o m u →
    let changed : List Part := [.draws, .dial, .logs, .mbs, .sched, .memory, .gather, .train, .blocks, .links, .bytes]
    let done (t : State) : Prop := t.ctx c = some { x with state := 4 } ∧ s.onlyIn t changed
    (∀ (i out f : Nat) (a b : Operand), o.body = .activate i out f → u.operand i = some a → u.operand out = some b →
      let from' := if f = 3 ∨ f = 4 then u.keptRows x m i a none else u.keptRows x m out b none
      let bad := (u.gradRows m out b).2 || from'.any (·.poison) || u.readsBad c
      (bad = true → runs (.spoutPoolBackward c) s fun t => t = u.dropPoison c) ∧
      (bad = false → runs (.spoutPoolBackward c) s fun t => done t ∧
        t = (((u.addGradRows m i (List.zipWith (fun g k => List.zipWith (fun p q => mul32 p (derivative f q)) g (f32s k.vals))
          (u.gradRows m out b).1 from')).finish c).draw))) ∧
    (∀ (n : NormaliseOp) (a b : Operand), o.body = .normalise n → u.operand n.inp = some a → u.operand n.out = some b →
      let kept := u.keptRows x m n.inp a none
      let bad := (u.gradRows m n.out b).2 || (u.affineRows m n).2.2 || kept.any (·.poison) || u.readsBad c
      let rows := List.zipWith (fun g k => Config.normaliseRowBack n.kind n.eps (u.affineRows m n).1 (f32s k.vals) g) (u.gradRows m n.out b).1 kept
      let added := u.addGradRows m n.inp (rows.map (·.1))
      (bad = true → runs (.spoutPoolBackward c) s fun t => t = u.dropPoison c) ∧
      (bad = false → runs (.spoutPoolBackward c) s fun t => done t ∧
        (u.slotCfg.stagingBytes o = 0 → t = ((added.finish c).draw)) ∧
        (∀ z, u.slotCfg.stagingBytes o ≠ 0 → (added.takeStaging m.mb m.step x.op.toNat o).itemMb x = some z →
          let v := added.takeStaging m.mb m.step x.op.toNat o
          let k := v.stagingBase z x.op.toNat o
          t.memory.mem = ((v.store k (bytes32 (sumRows (rows.map (·.2.1)))) false).store (k + roundUp (4 * a.n) 64)
            (bytes32 (sumRows (rows.map (·.2.2)))) false).memory.mem))) ∧
    (∀ lists hop table out : Nat, o.body = .gather lists hop table out → runs (.trailReturn c) s fun t => done t ∧ t = u.finish c) ∧
    (∀ a : AggregateOp, o.body = .aggregate a →
      (u.slotCfg.isKind a.src 3 = false → runs (.trailReturn c) s fun t => done t ∧ t = u.finish c) ∧
      (u.slotCfg.isKind a.src 3 = true → runs (.trailReturn c) s fun t => done t ∧
        t = ((((u.contributions x m o).foldl (fun s y => s.addCompanion m.mb m.step a.src y.pos (y.elems.map (·.1)) fun j =>
          ((y.elems.drop (16 * j)).take 16).any (·.2)) u).finish c).draw)))

/-- The return sweep (R236–R239, R242, R249): it waits until every part of the step's micro-batches is done or waits for it; then those with
poison are dropped, the contributions are folded in merged order unless the step's sweep was abandoned, progress is the share folded, and
every part it serves is marked as folded.
Where the rules leave a choice, it rests on the model's readings of log entries 16 and 45. -/
def Obligations.Sweeping : Prop :=
  ∀ s : State,
    (s.sweepParts = [] ∨ s.sweepReady = false → runs .returnSweep s fun t => t = s) ∧
    (s.sweepParts ≠ [] → s.sweepReady = true → runs .returnSweep s fun t =>
      let w := s.dropPoisonedWalks
      let swept := w.sweep w.sweepList
      (∃ v : State, t = v.settle ∧ ∀ p ∈ w.sweepParts, ∃ y, v.ctx p.1 = some y ∧ sweptMark ∈ y.subs) ∧
      t.gather.progress = (if w.gather.abandoned = true then 0 else fraction swept.2 w.sweepList.length) ∧
      t.memory.mem = (if w.gather.abandoned = true then s.memory.mem else swept.1.memory.mem) ∧
      s.onlyIn t [.draws, .dial, .logs, .mbs, .sched, .memory, .gather, .train, .blocks, .links, .bytes])

/-- TRANSFORM forward and backward (R140, R257, R275, R276, R291–R293, R296): a forward item, or the part's next product where dX or dW is due,
takes its block, its rows and tiles clean; a dW all of whose columns are masked out ends its part; a part without dX and dW has run; a
poisoned input of the companion pass drops the micro-batch; a busy block is left to its product.
Where the rules leave a choice, it rests on the model's readings of log entries 26, 72 and 73. -/
def Obligations.Products : Prop :=
  ∀ (s : State) (c : CtxId) (x : TaskContext) (o : Op) (q : TransformOp) (y w z : Operand), o.body = .transform q →
    let b := blockOf c x
    let taken (t : State) (op mb step kind : Nat) : Prop := b < s.blocks.length →
      ((t.block b).product).map (fun p => (p.ctx, p.op, p.mb, p.step, p.kind)) = some (c, op, mb, step, kind)
    (∀ (k : Nat) (u : State) (m : MicroBatch), s.runsForward c x o k u → u.viewMb x = some m →
      u.operand q.inA = some z → u.operand q.w = some w → u.operand q.out = some y →
      let p : Product := ⟨c, k, x.mb.toNat, x.step.toNat, 0, if x.part then x.op.toNat + 1 else 0, x.part && k == x.op.toNat && o.stashesPre, []⟩
      ((u.block b).product ≠ none → runs (.transform c) s fun t => t = u) ∧
      ((u.block b).product = none → u.memory.mem.poison = [] → u.hasPass b p → runs (.transform c) s fun t =>
        taken t k x.mb.toNat x.step.toNat 0 ∧ s.onlyIn t [.draws, .dial, .logs, .mbs, .sched, .memory, .gather, .train, .blocks, .bytes])) ∧
    (∀ (m : MicroBatch) (u : State), s.runsPart c x o m u →
      u.operand q.out = some y → u.operand q.w = some w → u.operand q.inA = some z →
      let idle := (s.block b).product = none
      let changed : List Part := [.draws, .dial, .logs, .mbs, .sched, .memory, .gather, .train, .blocks, .links, .bytes]
      let dX : Product := ⟨c, x.op.toNat, m.mb, m.step, 1, 0, false, []⟩
      let dW : Product := ⟨c, x.op.toNat, m.mb, m.step, 2, 0, false, []⟩
      (¬ idle → runs (.transformBackward c) s fun t => t = s) ∧
      (idle → u.companionPass x m o q y = none → runs (.transformBackward c) s fun t => t = u.dropPoison c) ∧
      (∀ dy, idle → u.companionPass x m o q y = some dy →
        let v := u.writeCompanion x m o q dy
        (q.frozen = true → q.noDx = true → runs (.transformBackward c) s fun t => t.ctx c = some { x with state := 4 } ∧ s.onlyIn t changed) ∧
        (u.memory.mem.poison = [] → q.noDx = false → v.hasPass b dX → runs (.transformBackward c) s fun t =>
          taken t x.op.toNat m.mb m.step 1 ∧ s.onlyIn t changed) ∧
        (u.memory.mem.poison = [] → q.noDx = true → q.frozen = false → v.hasPass b dW → runs (.transformBackward c) s fun t =>
          taken t x.op.toNat m.mb m.step 2 ∧ s.onlyIn t changed) ∧
        (∀ h, q.noDx = true → q.frozen = false → v.shape dW = some h → (∀ a i, v.cellPasses h a i = []) → runs (.transformBackward c) s fun t =>
          t.ctx c = some { x with state := 4 } ∧ s.onlyIn t changed)))

/-- Stash entries and commits (R297, R302, R303, R305): a reached stash point takes the lowest run of pages that holds it, in its region's area
and then in the far one, else it and the later points are marked for recomputation; a point not open or not reached waits; a micro-batch whose
parts are done adds its staged gradients, samples and losses and gives up what it holds; one whose parts are not done is left.
Where the rules leave a choice, it rests on the model's readings of log entries 29 and 30. -/
def Obligations.StashAndCommit : Prop :=
  ∀ (s : State) (m : MicroBatch),
    (∀ (region : Region) (index : BitVec 14) (pre : Bool) (mb : BitVec 10) (y : Operand) (beats : List (List Byte × Bool)),
      s.mbs.find? (fun q => q.mb == mb.toNat && !q.dropped && !q.committed) = some m → regionOfMb m.mb = region.val →
      s.pointBeats m index.toNat pre = some (y, beats) →
      let due := (s.openPoints m).contains (index.toNat, pre) && s.pointReached m index.toNat pre
      let coded := roundUp (codeBeats beats).length 64
      let pages := ceilDiv (64 + coded) 4096
      let entry (far : Bool) (p : Nat) : StashEntry := ⟨region, far, p, pages, index.toNat, pre, m.mb, m.step, beats.any (·.2), 0⟩
      (due = false → runs (.stashEntry region index pre mb) s fun t => t = s) ∧
      (due = true → runs (.stashEntry region index pre mb) s fun t => ∃ v : State, t = ((v.release m.mb m.step).draw).settle ∧
        s.onlyIn t [.draws, .dial, .logs, .mbs, .sched, .memory, .train, .links, .bytes] ∧
        match s.freeRun false region.val pages, s.freeRun true region.val pages with
        | some p, _ => v.train.stash = s.train.stash ++ [entry false p]
        | none, some p => v.train.stash = s.train.stash ++ [entry true p]
        | none, none => v.train.stash = s.train.stash ∧ v.mbs = s.mbs.map fun z => if z.mb == m.mb && z.step == m.step then
            { z with recompute := z.recompute ++ (s.openPoints m).map (fun p => markOf p.1 p.2), stashStop := true } else z)) ∧
    (∀ mb : BitVec 10, s.mbs.find? (fun q => q.mb == mb.toNat && !q.dropped && !q.committed) = some m →
      (m.admitted = false ∨ s.partsDone m = false → runs (.microBatchCommit mb) s fun t => t = s) ∧
      (m.admitted = true → s.partsDone m = true →
        (s.cfg.sundial.det = true → ∀ z ∈ s.mbs, z.step = m.step → z.mb < m.mb → z.dropped = true ∨ z.committed = true) →
        let w := s.slotCfg.ops.zipIdx.foldl (fun s x => s.commitOp m x) s
        runs (.microBatchCommit mb) s fun t => ∃ v : State, t = ((v.release m.mb m.step).settle).draw ∧
          v.mbs = s.mbs.map (fun z => if z.mb == m.mb && z.step == m.step then { z with committed := true, staging := [], reruns := [] } else z) ∧
          v.train.samples = (if w.train.storeFirst.contains noOperand then m.samples else s.train.samples + m.samples) ∧
          v.train.loss = (if w.train.storeFirst.contains noOperand then m.loss else add64 s.train.loss m.loss) ∧
          t.memory = w.memory ∧ s.onlyIn t [.draws, .dial, .logs, .mbs, .sched, .memory, .train, .links, .bytes]))

/-- OPTIMIZE (R138, R308, R309, R319, R337, R452): a sub-item on a free core of its region writes its rows: of a kind 2 target, target and state in the
other buffer only; the 32nd ends the instance and advances u; a step that Weir skips ends it with nothing written; a sub-item that has run, or finds no
core, or whose table a drain still copies, does nothing.
Where the rules leave a choice, it rests on the model's readings of log entries 15 and 47. -/
def Obligations.Optimizing : Prop :=
  ∀ (s : State) (c : CtxId) (sub : Fin 32) (x : TaskContext) (o : Op) (p : OptimizeOp), s.runsItem c false x o → o.body = .optimize p →
    let changed : List Part := [.draws, .dial, .logs, .mbs, .sched, .memory, .tables, .gather, .train, .blocks, .links, .resil, .bytes]
    let waits := x.subs.contains sub.val || (s.freeSpout (sub.val % 4) (some c)).isNone
    let copying := (s.target 0).active && (s.target 0).step == s.dial.step.toNat && !(s.target 0).bodySent
    let ran (t : State) : Prop := s.onlyIn t changed ∧
      (x.subs.length ≠ 31 → t.ctx c = some { x with subs := x.subs ++ [sub.val] } ∧ t.updateCount x.op.toNat = s.updateCount x.op.toNat) ∧
      (x.subs.length = 31 → t.ctx c = some { x with state := 4, subs := x.subs ++ [sub.val] } ∧
        t.updateCount x.op.toNat = s.updateCount x.op.toNat + 1)
    (s.train.skip = true → runs (.optimize c sub) s fun t =>
      t.ctx c = some { x with state := 4 } ∧ t.memory.mem = s.memory.mem ∧ t.updateCount x.op.toNat = s.updateCount x.op.toNat ∧
      s.onlyIn t changed) ∧
    (s.train.skip = false → waits = true → runs (.optimize c sub) s fun t => t = s) ∧
    (s.train.skip = false → waits = false →
      (∀ y : Operand, s.slotCfg.tableOf s.cfg.tables p.target = none → s.operand p.target = some y → runs (.optimize c sub) s fun t => ran t ∧
        s.bytesOnlyIn t (([p.target, p.state1, p.state2].flatMap fun i => (s.operand i).elim [] fun z =>
          (subRows y.m sub.val).flatMap fun r => (s.rowPlace none (s.weightVersion.toNat + 1) i z r).range z.rowBytes))) ∧
      (∀ tb : TableDesc, s.slotCfg.tableOf s.cfg.tables p.target = some tb →
        (copying = true → runs (.optimize c sub) s fun t => t = s) ∧ (copying = false → runs (.optimize c sub) s ran)))

/-- Cells at work (R31, R261–R264, R271, R273, R281–R283, R286): the slot's lane issues the first chunk it meets that is not zero; Swap brings the tile of
the next pass, the first among them, of a cell whose lanes are empty, and loads the one after it; a segment that every pass into it has issued drains
and is freed; a beat that the head cell injected is copied if its CRC is right, else sent again three times and then the block is fenced; parity
and Basin errors are counted; what is poisoned drops the micro-batch.
Where the rules leave a choice, it rests on the model's readings of log entries 27, 28 and 73. -/
def Obligations.CellEvents : Prop :=
  ∀ (s : State) (block : Block) (cell : Fin 17) (p : Product) (h : Shape) (r : CellRun), s.cellRun block.val cell.val = some (p, h, r) →
    let b := block.val
    let c := cell.val
    (∀ (q : Pass) (lane : Fin 4) (parity : Bool) (basin : BasinFinding), (s.runPasses h r)[r.pass]? = some q → r.ready = true →
      let slot := r.on && decide (h.tileBytes q.tile ≤ r.bytes.1) && r.slot % 4 == lane.val
      let x := s.scanLane b c h r q parity lane.val
      let lost (t : State) : Prop := (t.block b).poisonDrops = satAdd (s.block b).poisonDrops 1 ∧ t.memory = s.memory
      (slot = false → runs (.chunkIssue block cell lane parity basin) s fun t => t = s) ∧
      (slot = true → x.unit = none → runs (.chunkIssue block cell lane parity basin) s fun t =>
        (t.block b).issued = (s.block b).issued ∧ (t.block b).skipped = addN (s.block b).skipped x.skipped) ∧
      (∀ u, slot = true → x.unit = some u →
        let bad := (h.unitRows q u).any (r.chunkPoisoned h q)
        let reads := s.accumulates b c p h q u
        (parity = false → bad = false → (reads && basin.uncorrectable) = false → runs (.chunkIssue block cell lane parity basin) s fun t =>
          (t.block b).issued = addN (s.block b).issued (h.unitRows q u).length ∧ (t.block b).skipped = addN (s.block b).skipped x.skipped ∧
          (t.block b).steals = addN (s.block b).steals x.steals ∧
          (t.block b).basinCorrected = (if reads then satAdd (s.block b).basinCorrected basin.corrected.toNat else (s.block b).basinCorrected) ∧
          s.onlyIn t [.draws, .dial, .logs, .mbs, .sched, .memory, .gather, .train, .blocks, .resil, .bytes]) ∧
        (parity = true ∨ bad = true ∨ (reads && basin.uncorrectable) = true → runs (.chunkIssue block cell lane parity basin) s fun t => lost t ∧
          (parity = true → (t.block b).parity = satAdd (s.block b).parity 1)))) ∧
    (∀ (q : Pass) (parity : Bool),
      let next := if r.on then r.pass + 1 else r.pass
      let busy := r.lanes.any (fun l => !l.isEmpty)
      (s.runPasses h r)[next]? = some q →
      (busy = true → runs (.swap block cell parity) s fun t => t = s) ∧
      (busy = false → parity = false → runs (.swap block cell parity) s fun t =>
        let v := (s.onBlock b fun y => { y with swaps := addN y.swaps 1 }).onCell b c fun y => { y with
          pass := next, on := true, lanes := h.lanes q, slot := 0, live := y.shadow, shadow := y.live, ready := y.ready && !r.on }
        t = ((((v.runPasses h r)[next + 1]?).elim v fun q => v.shadowLoad b p h r q false).prepare b).draw ∧
        (t.block b).swaps = addN (s.block b).swaps 1) ∧
      (busy = false → parity = true → runs (.swap block cell parity) s fun t => (t.block b).parity = satAdd (s.block b).parity 1 ∧
        (h.kind = 2 → (t.block b).poisonDrops = satAdd (s.block b).poisonDrops 1 ∧ t.memory = s.memory) ∧
        (h.kind ≠ 2 → t.logs.errorCounts[0xB1]? = (s.logs.errorCounts[0xB1]?).map (satAdd · 1) ∧
          (s.tilePoisoned p h r.place q = false → (t.block b).swaps = addN (s.block b).swaps 1)))) ∧
    (∀ (segment : Fin 32) (g : Segment) (q : Pass) (o : Op) (basin : BasinFinding),
      (s.block b).segments.find? (fun g => g.cell == c && g.num == segment.val) = some g →
      (s.runPasses h r).find? (fun q => h.segKey q == (g.tile, g.col, g.group)) = some q → s.op p.op = some o →
      let counted := s.countBasin b c basin
      ((s.released p h g && s.arcTurn b p h g) = false → runs (.basinDrain block cell segment basin) s fun t => t = s) ∧
      ((s.released p h g && s.arcTurn b p h g) = true → basin.uncorrectable = false → ∀ v, v = counted.drainSegment b p h o g q r.place →
        runs (.basinDrain block cell segment basin) s fun t =>
          t = ((v.prepare b).endProduct b).draw ∧ ∀ z ∈ (v.block b).segments, z.cell = g.cell → z.num ≠ g.num) ∧
      ((s.released p h g && s.arcTurn b p h g) = true → basin.uncorrectable = true → runs (.basinDrain block cell segment basin) s fun t =>
        t = counted.dropCell b c p ∧ (t.block b).basinCorrected = satAdd (s.block b).basinCorrected basin.corrected.toNat)) ∧
    (∀ flips : BitVec 1056,
      let tiles := h.visits (s.runPasses h r)
      let size (i : Nat) : Nat := (tiles[i]?).elim 0 h.tileBytes
      (r.place = 0 ∨ r.filling size = none → runs (.rillBeat block cell flips) s fun t => t = s) ∧
      (∀ i pos, r.place ≠ 0 → r.filling size = some (i, pos) →
        let sent := s.beatAt p h (tiles.getD i 0) pos
        let data := sent.1 ^^^ flips.extractLsb' 0 1024
        let poison := sent.2 ^^^ flips.extractLsb' 1024 16
        let good := crc16 (bitsLow data.toNat 1024 ++ bitsLow poison.toNat 16) ==
          crc16 (bitsLow sent.1.toNat 1024 ++ bitsLow sent.2.toNat 16) ^^^ flips.extractLsb' 1040 16
        let failed := (lookupNat c (s.block b).retries).getD 0
        (p.injected r.arc ≤ i → runs (.rillBeat block cell flips) s fun t => t = s) ∧
        (i < p.injected r.arc → good = true → runs (.rillBeat block cell flips) s fun t =>
          let k := rowArea b r.cell (i % 2) + pos
          let n := min 128 (size i - pos)
          lookupNat c (t.block b).retries = none ∧ s.onlyIn t [.draws, .memory, .blocks, .bytes] ∧
          (∀ i, i < n → t.memory.mem.byte? (k + i) = (leBytes data.toNat 128)[i]?) ∧ s.bytesOnlyIn t [(k, n)]) ∧
        (i < p.injected r.arc → good = false → failed < 3 → runs (.rillBeat block cell flips) s fun t =>
          lookupNat c (t.block b).retries = some (failed + 1) ∧ (t.block b).rillRetx = satAdd (s.block b).rillRetx 1 ∧
          t.memory = s.memory ∧ s.onlyIn t [.logs, .blocks, .resil]) ∧
        (i < p.injected r.arc → good = false → 3 ≤ failed → runs (.rillBeat block cell flips) s fun t =>
          (t.block b).product = none ∧ t.memory.mem = s.memory.mem ∧ t.logs.errorCounts[0x20]? = (s.logs.errorCounts[0x20]?).map (satAdd · 1))))

/-- Tables under way (R165, R179–R182, R343, R373, R374): a corrected bank error is counted, an uncorrectable one is logged and stalls the region while role 3
has no core; a finished copy moves the row whole and flips its entry, or aborts, and a finished demotion starts the promotion that waits for its
room; a hold that ends sends every moving row; the last move reports completion.
Where the rules leave a choice, it rests on the model's readings of log entry 63. -/
def Obligations.TableMoves : Prop :=
  ∀ s : State,
    (∀ (region : Region) (corrected : Bool), s.start.loaded = false → runs (.shardMapReload region corrected) s fun t => t = s) ∧
    (∀ region : Region, s.start.loaded = true → runs (.shardMapReload region true) s fun t =>
      t.tables = { s.tables with bankCorrected := s.tables.bankCorrected + 1 } ∧ s.onlyIn t [.tables]) ∧
    (∀ region : Region, s.start.loaded = true → runs (.shardMapReload region false) s fun t =>
      t.tables.ecc = satAdd s.tables.ecc 1 ∧ (region ∈ t.tables.stalled ↔ s.roleUp 3 = false) ∧
      (∀ q, q ≠ region → (q ∈ t.tables.stalled ↔ q ∈ s.tables.stalled)) ∧
      t.logs.errorCounts[0x88]? = (s.logs.errorCounts[0x88]?).map (satAdd · 1) ∧ s.onlyIn t [.logs, .tables]) ∧
    (∀ (table : BitVec 8) (node : BitVec 40) (d : DirEntry) (tb : TableDesc) (h : ShardEntry × Nat), s.dirEntry table.toNat node.toNat = some d →
      s.table table.toNat = some tb → s.ownRowHome tb node.toNat = some h →
      let home := homeKey tb (s.liveVersion tb.id) h.1 h.2
      let src := if d.demote then d.location else home
      let dst := if d.demote then home else d.location
      (d.state = .live → d.demote = false → runs (.migrationCopyComplete table node) s fun t => t = s) ∧
      (d.state ≠ .live ∨ d.demote = true → (d.overflow || s.rangePoisoned src tb.rowBytes) = false →
        runs (.migrationCopyComplete table node) s fun t =>
          (∀ i, i < tb.rowBytes → t.memory.mem.byte? (dst + i) = some (s.byteAt (src + i))) ∧ s.bytesOnlyIn t [(dst, tb.rowBytes)] ∧
          (d.demote = false → t.tables.directory = s.tables.directory.map fun y => if y.table == d.table && y.node == d.node then
            { y with state := .live, gen := y.gen + 1, log := [] } else y) ∧
          (d.demote = true → ∃ v : State, t = v.promoteWaiting ∧ s.onlyIn v [.draws, .memory, .tables, .bytes] ∧
            v.tables.directory = s.tables.directory.filter fun y => !(y.table == d.table && y.node == d.node)) ∧
          s.onlyIn t [.draws, .logs, .memory, .tables, .bytes]) ∧
      (d.state ≠ .live ∨ d.demote = true → (d.overflow || s.rangePoisoned src tb.rowBytes) = true →
        runs (.migrationCopyComplete table node) s fun t =>
          t.tables.aborted = satAdd s.tables.aborted 1 ∧ t.memory = s.memory ∧
          t.logs.errorCounts[0x86]? = (s.logs.errorCounts[0x86]?).map (satAdd · 1) ∧ s.onlyIn t [.logs, .tables])) ∧
    (s.tables.reshardOn = true → s.tables.holdEnded = false → s.oldReductionsDone = true → runs .reshardHoldEnd s fun t =>
      t.tables = { s.tables with
        holdEnded := true, movesAll := s.movedRows.length, movesLeft := s.movedRows.length, moveProgress := 0 } ∧
      s.onlyIn t [.draws, .logs, .tables, .links]) ∧
    (s.oldReductionsDone = false → runs .reshardHoldEnd s fun t => t = s) ∧
    (s.tables.reshardOn = true → s.tables.holdEnded = true → s.tables.reshardDone = false → runs .reshardMoveComplete s fun t =>
      t.tables = { s.tables with
        reshardDone := true, movesLeft := 0, moveProgress := 0xFFFF
        reports := if s.dial.isRoot then s.tables.reports + 1 else s.tables.reports } ∧
      (s.dial.isRoot = true → s.dims.1 * s.dims.2.1 * s.dims.2.2 ≤ s.tables.reports + 1 → t.dial.go = true) ∧
      s.onlyIn t [.dial, .tables, .links])

/-- Presence and notices (R361, R363, R366): a presence flit of the step notes when its neighbour was heard; a neighbour whose port is down or
that was silent for 768 positions is lost, told both ways, and its ring restarts; a notice about the device's own ring takes effect once, at
its restart position, or waits for its instance.
Where the rules leave a choice, it rests on the model's readings of log entry 49. -/
def Obligations.CascadePresence : Prop :=
  ∀ s : State,
    (∀ (port : Port) (step : BitVec 48) (entry : BitVec 10) (axis : BitVec 2) (engine : Bool), s.dialRuns = true → s.portUp port.val = true →
      port.val / 2 = axis.toNat →
      (step = s.dial.step → runs (.presence port step entry axis engine) s fun t =>
        t.cascade = { s.cascade with heard := insertKey (2 * entry.toNat + bit (port.val % 2 == 0)) s.dialTime s.cascade.heard } ∧
        s.onlyIn t [.cascade]) ∧
      (step ≠ s.dial.step → runs (.presence port step entry axis engine) s fun t => t = s)) ∧
    (∀ (engine : Fin 2) (plus : Bool) (x : CascadeRun) (r : Reduction), s.memberOf engine.val false = some (x, r) →
      (s.engine engine.val).running = true → r.n ≠ 1 → (r.n = 2 → plus = true) →
      let p := s.axisPort r.axis plus
      let nb := (x.pos + (if plus then 1 else r.n - 1)) % r.n
      let last := (lookupNat (2 * s.entryOfRun x + bit (p % 2 == 0)) s.cascade.heard).getD x.opened
      x.lost.contains nb = false →
      ((s.port p).state = 4 ∨ max last x.opened + 768 ≤ s.dialTime → runs (.cascadeNeighbourLost engine plus) s fun t =>
        (t.engine engine.val).run = some { x with
          lost := insertNat nb x.lost, restartAt := laterOf x.restartAt s.restartTime
          told := insertNat (nb * 65536 + s.restartTime % 65536) x.told } ∧ s.onlyIn t [.cascade, .links]) ∧
      ((s.port p).state ≠ 4 → s.dialTime < max last x.opened + 768 → runs (.cascadeNeighbourLost engine plus) s fun t => t = s)) ∧
    (∀ (port : Port) (split : Bool) (coord : Coord) (cause : BitVec 2) (restart : BitVec 16) (entry : BitVec 10) (r : Reduction),
      s.dialRuns = true → s.run.run = 2 → s.portUp port.val = true → s.reductionOf entry.toNat = some r →
      withAxis coord r.axis 0 = withAxis s.coord r.axis 0 →
      let n : HeldNotice := ⟨port, split, coord, cause.toNat, restart.toNat, entry.toNat⟩
      (∀ (e : Nat) (x : CascadeRun), s.engineOf entry.toNat = some (e, x) →
        (x.told.contains (n.key r.axis) = true → runs (.notice port s.dial.step split coord cause restart entry) s fun t => t = s) ∧
        (x.told.contains (n.key r.axis) = false → split = false → (s.engine e).running = true →
          runs (.notice port s.dial.step split coord cause restart entry) s fun t =>
            (t.engine e).run = some { x with
              told := insertNat (n.key r.axis) x.told
              lost := if cause = 0 then insertNat (axisOf coord r.axis) x.lost else x.lost
              withdrawn := if cause = 1 then insertNat (axisOf coord r.axis) x.withdrawn else x.withdrawn
              restartAt := laterOf x.restartAt (s.noticeTime restart.toNat) } ∧ s.onlyIn t [.cascade, .links]) ∧
        (x.told.contains (n.key r.axis) = false → split = true →
          runs (.notice port s.dial.step split coord cause restart entry) s fun t =>
            t.dial.haltCause = (if s.dial.haltCause = 0 then 4 else s.dial.haltCause) ∧ s.onlyIn t [.dial, .cascade, .links])) ∧
      (s.engineOf entry.toNat = none → (s.cascade.notices.any fun m => m.entry == n.entry && m.key r.axis == n.key r.axis) = false →
        runs (.notice port s.dial.step split coord cause restart entry) s fun t =>
          t.cascade.notices = s.cascade.notices ++ [n] ∧ s.onlyIn t [.cascade, .links]))

/-- REDUCE (R350, R353, R356, R357): an instance begins on its engine with the device's contribution and its withdrawal where one is due; a
busy engine waits; in a ring of 1 it delivers at once, and only its own rows change.
Where the rules leave a choice, it rests on the model's readings of log entry 48. -/
def Obligations.Reductions : Prop :=
  ∀ (s : State) (c : CtxId) (x : TaskContext) (o : Op) (r : Reduction), s.runsItem c false x o → s.reduction x.op.toNat = some r →
    s.cascade.engines.length = 2 →
    let e := r.engine
    let own := s.ownContribution r
    ((s.engine e).running = true → runs (.reduce c) s fun t => t = s) ∧
    ((s.engine e).running = false → (s.engine e).run.any (fun y => y.ctx == c && y.op == x.op.toNat && y.opened / 65536 == s.dial.step.toNat) = false →
      (runs (.reduce c) s fun t => ∃ v : State, t = ((v.replayNotices e r o.entry).startPhase e).draw ∧ (v.engine e).running = true ∧
        (v.engine e).entry = BitVec.ofNat 10 o.entry ∧ (v.engine e).generation = s.tables.generation ∧
        (v.engine e).run.map (fun y => (y.ctx, y.op, y.pos, y.lost, y.own, y.ownPoison)) =
          some (c, x.op.toNat, s.axisPos r.axis, [], own.1, own.2) ∧
        (v.engine e).run.map (·.withdrawn) = some
          (if (r.head && !own.2.isEmpty) || s.cascade.withdrawn.contains x.op.toNat then [s.axisPos r.axis] else []) ∧
        v.memory = s.memory) ∧
      (∀ y : Operand, r.n = 1 → r.op = 0 → own.2 = [] → s.cascade.withdrawn.contains x.op.toNat = false →
        s.cascade.notices = [] → s.cascade.early = [] → s.operand r.tensor = some y → runs (.reduce c) s fun t =>
          (t.engine e).running = false ∧ (t.engine e).instances = (s.engine e).instances + 1 ∧ (t.engine e).progress = 0xFFFF ∧
          s.bytesOnlyIn t ((List.range (r.hi - r.lo)).flatMap fun i => (s.rowPlace none 0 r.tensor y (r.lo + i)).range y.rowBytes)))

/-- CASCADE packets (R355, R356, R360, R373): one of another layout generation halts the device at the boundary; one whose instance has not
begun waits for it; a dense segment is taken once, noted and, in the second phase, kept as final; then the instance delivers if its part is
complete. A device whose slot does not run takes none.
Where the rules leave a choice, it rests on the model's readings of log entries 48, 49 and 50. -/
def Obligations.CascadePackets : Prop :=
  ∀ (s : State) (port : Port) (h : CascadeHeader) (data : List Flit) (slots : List SparseSlot),
    (s.run.run ≠ 2 → runs (.cascade port h data slots) s fun t => t = s) ∧
    (s.dialRuns = true → s.run.run = 2 → s.portUp port.val = true →
      let e := bit h.engine
      let c := h.chunk.toNat
      let g := h.seg.toNat
      (h.lgen ≠ s.tables.generation → runs (.cascade port h data slots) s fun t =>
        t.logs = (s.logDevice 0x0E4 noName 0 0).logs ∧ t.dial.haltCause = (if s.dial.haltCause = 0 then 4 else s.dial.haltCause) ∧
        s.onlyIn t [.dial, .logs]) ∧
      (h.lgen = s.tables.generation → s.memberOf e (h.proxy && port.val / 2 == h.axis.toNat) = none →
        runs (.cascade port h data slots) s fun t =>
          t.cascade.early = s.cascade.early ++ [⟨port, h, data, slots⟩] ∧ s.onlyIn t [.draws, .cascade]) ∧
      (∀ (x : CascadeRun) (r : Reduction), h.lgen = s.tables.generation → h.proxy = false → s.memberOf e false = some (x, r) →
        s.belongs x r h = true → (s.engine e).running = true → h.restarts = BitVec.ofNat 8 x.restarts → h.op ≠ 3 →
        (x.seen.contains (packetKey h) = true → runs (.cascade port h data slots) s fun t =>
          (t.engine e).run = some x ∧ s.onlyIn t [.draws, .cascade]) ∧
        (x.seen.contains (packetKey h) = false → c < r.n → g < r.segs c → x.lost.contains x.pos = false →
          runs (.cascade port h data slots) s fun t => ∃ v : State, t = (v.deliver e).draw ∧ s.onlyIn v [.cascade, .links] ∧
            (v.engine e).run.map (·.seen) = some (x.seen ++ [packetKey h]) ∧
            (h.phase = true → (v.engine e).run.map (·.finals) = some (x.finals ++ [(c, g, r.decode (r.seg c g).2 data)])))))

/-- Restarts (R363, R364, R366): nothing happens before the restart position; an instance that can still close abandons its data phase and
begins again; two lost members, or no proxy, split the ring: 0x0E2, no result, a halt at the boundary; the ring a device serves as a proxy begins
again from that device's equal input.
Where the rules leave a choice, it rests on the model's readings of log entry 49. -/
def Obligations.CascadeRestarts : Prop :=
  ∀ (s : State) (engine : Fin 2),
    let e := engine.val
    ((∀ y, (s.engine e).run = some y ∨ (s.engine e).proxyRun = some y → ∀ at', y.restartAt = some at' → s.dialTime < at') →
      runs (.cascadeRestart engine) s fun t => t = s) ∧
    (∀ (y : CascadeRun) (at' : Nat), (s.engine e).proxyRun = some y → y.restartAt = some at' → at' ≤ s.dialTime →
      ((s.engine e).running = false ∨ ∀ x, (s.engine e).run = some x → x.restartAt = none) → runs (.cascadeRestart engine) s fun t =>
        ∃ v : State, t = (v.startDense e true).replayEarly ∧ (v.engine e).proxyRun = some { y with
          restartAt := none, restarts := y.restarts + 1, finals := [], poison := [], delivered := none, others := [], slots := [], shared := []
          seen := [] } ∧ (v.engine e).run = (s.engine e).run ∧ s.onlyIn v [.cascade]) ∧
    (∀ (x : CascadeRun) (r : Reduction) (at' : Nat), s.memberOf e false = some (x, r) → (s.engine e).running = true → x.restartAt = some at' →
      at' ≤ s.dialTime → (s.engine e).proxyRun = none →
      (x.lost.length < 2 → (x.lost = [] ∨ r.head = true ∨ r.op = 3 ∨ s.noProxy x r = false) → runs (.cascadeRestart engine) s fun t =>
        ∃ v : State, t = v.startPhase e ∧ (v.engine e).run = some { x with
          restartAt := none, restarts := x.restarts + 1, finals := [], poison := [], delivered := none, others := [], slots := [], shared := []
          seen := [] } ∧ (v.engine e).restarts = satAdd (s.engine e).restarts 1 ∧ s.onlyIn v [.cascade]) ∧
      (2 ≤ x.lost.length ∨ x.lost ≠ [] ∧ r.head = false ∧ r.op ≠ 3 ∧ s.noProxy x r = true → runs (.cascadeRestart engine) s fun t =>
        (t.engine e).running = false ∧ (t.engine e).restarts = satAdd (s.engine e).restarts 1 ∧
        t.logs.errorCounts[0xE2]? = (s.logs.errorCounts[0xE2]?).map (satAdd · 1) ∧
        t.dial.haltCause = (if s.dial.haltCause = 0 then 4 else s.dial.haltCause) ∧ s.onlyIn t [.dial, .logs, .cascade, .links]))


/-- Partner drains (R343, R397, R443, R450, R451): DRAIN bytes go into the partner partition, marked by line, and are acknowledged by their
end; one that does not fit is ignored; DRAIN_ACK frees the parts it covers; the drain itself sends the body once, and its header as soon as
the step's Weir decision is made.
Where the rules leave a choice, it rests on the model's readings of log entry 55. -/
def Obligations.PartnerDrains : Prop :=
  ∀ s : State,
    (∀ (offset : BitVec 48) (stepLo : BitVec 16) (poison : Word) (data : List Flit) (i : Nat) (p : Partition), s.partOf 6 = some (i, p) →
      (offset.toNat % 64 ≠ 0 ∨ p.len < offset.toNat + 64 * data.length → runs (.drain offset stepLo poison data) s fun t => t = s) ∧
      (s.start.loaded = true → p.start % 64 = 0 → offset.toNat % 64 = 0 → offset.toNat + 64 * data.length ≤ p.len →
        let k := memKey p.tier (p.start + offset.toNat)
        runs (.drain offset stepLo poison data) s fun t =>
          (∀ j, j < 64 * data.length → t.memory.mem.byte? (k + j) = (data.flatMap flitBytes)[j]?) ∧
          (∀ j, j < data.length → t.memory.mem.poisoned (k + 64 * j) = poison.getLsbD j) ∧ s.bytesOnlyIn t [(k, 64 * data.length)] ∧
          t.links = (s.sendHop (s.axisPort 0 false) (s.xNeighbour false) 0x12 6
            (pack [(offset.toNat + 64 * data.length, 48), (stepLo.toNat, 16)]) []).links ∧ s.onlyIn t [.memory, .links, .bytes])) ∧
    (∀ (offset : BitVec 48) (stepLo : BitVec 16),
      let x := s.target 0
      let n := ackedParts x.unacked offset.toNat
      (x.active = false ∨ BitVec.ofNat 16 x.step ≠ stepLo → runs (.drainAck offset stepLo) s fun t => t = s) ∧
      (x.active = true → BitVec.ofNat 16 x.step = stepLo → runs (.drainAck offset stepLo) s fun t => ∃ v : State, t = v.settle ∧
        (v.target 0).unacked = x.unacked.drop n ∧ (v.target 0).acked = x.acked + ((x.unacked.take n).map (·.bytes)).sum ∧ s.onlyIn v [.resil])) ∧
    ((s.target 0).active = false → runs .checkpointDrain s fun t => t = s) ∧
    ((s.target 0).active = true → (s.target 0).bodySent = true → (s.target 0).headerSent = true → runs .checkpointDrain s fun t => t = s.settle) ∧
    ((s.target 0).active = true → (s.target 0).bodySent = false → s.roleUp 6 = true → s.memory.stepFault = false →
      runs .checkpointDrain s fun t => ∃ v : State, t = v.settle ∧ (v.target 0).bodySent = true ∧
        (v.target 0).headerSent = ((s.target 0).headerSent || s.train.decided || s.weirEntry.isNone) ∧
        s.onlyIn v [.draws, .dial, .logs, .memory, .links, .resil, .bytes])

/-- Copies to local flash and the shared store (R443, R453–R455, R457): an instance takes the next bytes of the pinned set, or ends where there
is none; acknowledgements and completions end it once nothing is left; a failed or late command is 0x111; what a restore reads is gathered, and
loaded once it is whole.
Where the rules leave a choice, it rests on the model's readings of log entry 55. -/
def Obligations.SetCopies : Prop :=
  ∀ s : State,
    (∀ (target : BitVec 2) (data : List Byte), target = 1 ∨ target = 2 →
      let x := s.target target.toNat
      (x.active = false ∨ x.bodySent = true → runs (.checkpointCopy target data) s fun t => t = s) ∧
      (x.active = true → x.bodySent = false → s.roleUp 6 = true → s.memory.stepFault = false →
        (x.copying = true → runs (.checkpointCopy target data) s fun t => (t.target target.toNat).bodySent = true ∧
          (t.target target.toNat).copyEnd = min (x.copyPos + s.copyChunk target.toNat) s.setZ ∧ s.onlyIn t [.draws, .links, .resil]) ∧
        (∀ set step, x.copying = false → (s.target 0).pinned = false → (s.target 0).newest = some (set, step) →
          runs (.checkpointCopy target data) s fun t => (t.target target.toNat).copying = true ∧ (t.target target.toNat).step = step ∧
            (t.target target.toNat).copyEnd = min (s.copyChunk target.toNat) s.setZ ∧ (t.target 0).pinned = true ∧ (t.target 0).pinSet = set ∧
            s.onlyIn t [.draws, .links, .resil]) ∧
        (x.copying = false → (s.target 0).pinned = false → (s.target 0).newest = none → runs (.checkpointCopy target data) s fun t =>
          ∃ v : State, t = v.settle ∧ (v.target target.toNat).active = false ∧ s.onlyIn v [.resil]))) ∧
    (∀ (h : HkHeader) (offset : BitVec 48) (object : BitVec 32) (data : List Flit), s.hostReady h.tag → cleanHeader h data.length → data ≠ [] →
      offset.toNat % 64 = 0 →
      let r := s.resil.restore
      (r.phase ≠ 1 ∨ r.source ≠ 2 ∨ r.stage ≠ .body ∨ r.object.any (· != object) = true ∨ r.wanted < offset.toNat + 64 * data.length →
        runs (.ckptData h offset object data) s fun t => t = s) ∧
      (r.phase = 1 → r.source = 2 → r.stage = .body → r.object.any (· != object) = false → offset.toNat + 64 * data.length ≤ r.wanted →
        runs (.ckptData h offset object data) s fun t => ∃ v : State, t = v.stagesEnd ∧ (r.got + 64 * data.length < r.wanted → t = v) ∧
          v.resil.restore.object = some object ∧ v.resil.restore.got = r.got + 64 * data.length ∧ v.resil.restore.phase = 1 ∧
          (∀ j, j < 64 * data.length → lookupNat (offset.toNat + j) v.resil.restore.data = (data.flatMap flitBytes)[j]?) ∧
          (∃ head, (v.port 6).queues = (s.port 6).queues ++ [⟨0, [head]⟩]) ∧ s.onlyIn v [.links, .resil])) ∧
    (∀ (h : HkHeader) (bytes : BitVec 48) (object : BitVec 32), s.hostReady h.tag → cleanHeader h 0 →
      let x := s.target 2
      let left := x.unacked.drop (x.unacked.takeWhile fun p => decide (p.after ≤ bytes.toNat)).length
      (x.copying = false ∨ object.toNat ≠ objectNumber x.step x.set → runs (.ckptAck h bytes object) s fun t => t = s.settle) ∧
      (x.copying = true → object.toNat = objectNumber x.step x.set → left ≠ [] ∨ x.active = false ∨ x.bodySent = false →
        runs (.ckptAck h bytes object) s fun t => ∃ v : State, t = v.settle ∧ s.onlyIn v [.resil] ∧
          v.target 2 = { x with acked := max x.acked bytes.toNat, ackSeen := true, unacked := left }) ∧
      (x.copying = true → object.toNat = objectNumber x.step x.set → left = [] → x.active = true → x.bodySent = true →
        runs (.ckptAck h bytes object) s fun t => ∃ v : State, t = v.settle ∧ (v.target 2).active = false ∧
          (v.target 2).copyPos = (if x.headerSent = true then 0 else x.copyEnd) ∧ s.onlyIn v [.logs, .resil])) ∧
    (s.resil.nvme = [] → runs .nvmeCommandTimeout s fun t => t = s) ∧
    (∀ status data, s.resil.nvme = [] → runs (.nvmeCompletion status data) s fun t => t = s) ∧
    (∀ (c : NvmeCommand) (rest : List NvmeCommand), s.resil.nvme = c :: rest →
      let failed (t : State) : Prop := t.resil.nvme = rest.filter (fun x => x.reads != c.reads) ∧
        t.logs.errorCounts[0x111]? = (s.logs.errorCounts[0x111]?).map (satAdd · 1) ∧
        (c.reads = true → t.resil.restore.phase = 5 ∧ t.resil.restore.code = 0x111) ∧
        (c.reads = false → t.resil.restore = s.resil.restore ∧ s.onlyIn t [.logs, .resil]) ∧ s.onlyIn t [.logs, .memory, .resil, .bytes]
      (runs .nvmeCommandTimeout s failed) ∧
      (∀ (status : BitVec 16) (data : List Byte), status ≠ 0 → runs (.nvmeCompletion status data) s failed) ∧
      (∀ data : List Byte, c.reads = false → rest.any (fun x => !x.reads) = true ∨ (s.target 1).active = false → runs (.nvmeCompletion 0 data) s fun t =>
        t.resil = { s.resil with nvme := rest } ∧ s.onlyIn t [.resil]) ∧
      (∀ data : List Byte, c.reads = false → rest.any (fun x => !x.reads) = false → (s.target 1).active = true →
        runs (.nvmeCompletion 0 data) s fun t => ∃ v : State, t = v.settle ∧ (v.target 1).active = false ∧
          (v.target 1).copyPos = (if (s.target 1).headerSent = true then 0 else (s.target 1).copyEnd) ∧ s.onlyIn v [.logs, .resil]) ∧
      (∀ (data : List Byte) (n : Nat), (∃ lba, c = .readHeader lba ∧ n = 64 ∨ c = .readSet lba n) → runs (.nvmeCompletion 0 data) s fun t =>
        t = (({ s with resil := { s.resil with nvme := rest } }).placeBytes (padTo n (data.take n)) fun _ => false).stagesEnd) ∧
      (∀ (data : List Byte) (off n : Nat), c = .readSet off n → s.resil.restore.got + n < s.resil.restore.wanted →
        runs (.nvmeCompletion 0 data) s fun t =>
          t.resil.restore.got = s.resil.restore.got + n ∧ t.resil.nvme = rest ∧ s.onlyIn t [.resil]))


/-- Control cores (R341–R344): a heartbeat counts; a watcher that sees a new count clears its misses; the fourth reading without a change
declares the core failed: it is fenced and logged, and a spare takes its role, or, with no spare left, 0x0D3 halts the device at the
boundary; a take-over that ends gives the spare the role, and with role 3 the Shard Map reloads that waited are done.
Where the rules leave a choice, it rests on the model's readings of log entry 59. -/
def Obligations.ControlCores : Prop :=
  ∀ (s : State) (core : Fin 8), s.cores.length = 8 →
    let c := s.core core.val
    let w := c.watched.toNat
    (s.start.loaded = true → c.active = true → runs (.heartbeat core) s fun t =>
      t.core core.val = { c with heartbeat := c.heartbeat + 1 } ∧ (∀ i, i ≠ core.val → t.core i = s.core i) ∧ s.onlyIn t [.cores]) ∧
    (c.active = false → runs (.heartbeat core) s fun t => t = s) ∧
    (s.start.loaded = true → c.active = true → c.watchValid = true →
      ((s.core w).heartbeat ≠ c.lastSeen → runs (.watcherRead core) s fun t =>
        t.core core.val = { c with missed := 0, lastSeen := (s.core w).heartbeat } ∧ (∀ i, i ≠ core.val → t.core i = s.core i) ∧
        s.onlyIn t [.cores]) ∧
      ((s.core w).heartbeat = c.lastSeen → c.missed.toNat < 3 → runs (.watcherRead core) s fun t =>
        t.core core.val = { c with missed := c.missed + 1 } ∧ (∀ i, i ≠ core.val → t.core i = s.core i) ∧ s.onlyIn t [.cores]) ∧
      ((s.core w).heartbeat = c.lastSeen → 3 ≤ c.missed.toNat → w ≠ core.val → (s.core w).role ≠ 0 → runs (.watcherRead core) s fun t =>
        (t.core w).role = 7 ∧ (t.core core.val).watchValid = false ∧
        t.logs.errorCounts[0xD2]? = (s.logs.errorCounts[0xD2]?).map (satAdd · 1) ∧ s.onlyIn t [.dial, .logs, .cores, .resil] ∧
        (∀ k, s.spareCore = some k → (t.core k).taking = some (s.core w).role ∧ t.dial = s.dial) ∧
        (s.spareCore = none → t.logs.errorCounts[0xD3]? = (s.logs.errorCounts[0xD3]?).map (satAdd · 1) ∧
          t.dial.haltCause = (if s.dial.haltCause = 0 then 4 else s.dial.haltCause)))) ∧
    (c.taking = none → runs (.takeoverComplete core) s fun t => t = s) ∧
    (∀ role, c.taking = some role → runs (.takeoverComplete core) s fun t => (t.core core.val).role = role ∧ (t.core core.val).taking = none ∧
      (t.core core.val).tested = true ∧ (t.core core.val).heartbeat = c.heartbeat + 1 ∧ (role = 3 → t.tables.stalled = []) ∧
      t.links.held = s.links.held.filter (fun h => heldRole h.1 != role.toNat))

/-- Watchdogs and the reset ladder (R461–R466): an expiry is logged and opens a hang record; the record's end, whole or partial, writes it and begins the
unit's next rung; a rung that completes advances the tags of its domain and ends the ladder; one that does not is 0x116 and the next begins.
Where the rules leave a choice, it rests on the model's readings of log entries 57 and 23. -/
def Obligations.ResetLadder : Prop :=
  ∀ s : State,
    (∀ u : WatchedUnit, s.start.loaded = true → s.resil.ladders.any (fun l => l.unit == u) = false → runs (.watchdogExpired u) s fun t =>
      (∃ h : HangRecord, t.resil.ladders = s.resil.ladders ++ [⟨u, 0, s.logs.hangNext.toNat, h⟩] ∧ h.step = s.dial.step ∧ h.pos = s.dial.pos ∧
        h.code = 0x115 ∧ h.tag = s.engineTag (watchedTag u) ∧ h.rungs = 0 ∧ h.done = 0) ∧ t.resil.hangCount = satAdd s.resil.hangCount 1 ∧
      t.logs.hangNext = s.logs.hangNext + 1 ∧ t.logs.errorCounts[0x115]? = (s.logs.errorCounts[0x115]?).map (satAdd · 1) ∧
      s.onlyIn t [.logs, .resil]) ∧
    (∀ u : WatchedUnit, s.start.loaded = false ∨ s.resil.ladders.any (fun l => l.unit == u) = true → runs (.watchdogExpired u) s fun t => t = s) ∧
    (∀ l : Ladder, s.resil.ladders.find? (fun l => l.rung == 0) = some l →
      (∀ c ∈ [Instr.hangRecordCollected, .hangRecordTimeout],
        (s.firstRung l.unit < 4 → runs c s fun t =>
          t.resil.lastRung = BitVec.ofNat 3 (s.firstRung l.unit) ∧
          t.resil.ladders = (s.resil.ladders.map fun x => if x.record = l.record then { x with rung := s.firstRung l.unit } else x) ∧
          (l.record < s.resil.hangs.length → ∃ h : HangRecord, t.resil.hangs[l.record]? = some h ∧ h.partial_ = (c == .hangRecordTimeout) ∧
            h.step = l.header.step ∧ h.pos = l.header.pos ∧ h.code = l.header.code ∧ h.tag = l.header.tag ∧ h.rungs = l.header.rungs + 1) ∧
          t.cfg = s.cfg ∧ t.power = s.power ∧ t.flash = s.flash ∧ t.start = s.start ∧ t.run = s.run) ∧
        (4 ≤ s.firstRung l.unit → runs c s fun t => t.resil.lastRung = 4 ∧ t.start.begun = false ∧ t.start.loaded = false ∧
          t.links.ports = s.links.ports ∧ t.cfg = s.cfg ∧ t.flash = s.flash ∧ t.pending = s.pending ∧
          t.resil.tagDevice = s.resil.tagDevice + 1))) ∧
    (s.resil.ladders.find? (fun l => l.rung == 0) = none →
      runs .hangRecordCollected s (fun t => t = s) ∧ runs .hangRecordTimeout s fun t => t = s) ∧
    (s.resil.ladders.find? (fun l => l.rung != 0) = none →
      runs .resetRungComplete s (fun t => t = s) ∧ runs .resetRungTimeout s fun t => t = s) ∧
    (∀ l : Ladder, s.resil.ladders.find? (fun l => l.rung != 0) = some l →
      (runs .resetRungComplete s fun t => ∃ v : State, t = v.settle ∧
        v.resil.ladders = s.resil.ladders.filter (fun x => x.record != l.record) ∧ v.resil.passed = s.resil.passed ++ [(l.unit, l.rung)] ∧
        (l.rung = 1 → lookupNat (watchedTag l.unit) v.resil.tagEngines = some ((lookupNat (watchedTag l.unit) s.resil.tagEngines).getD 0 + 1)) ∧
        (l.rung = 2 → (v.block (watchedBlock l.unit)).tag = (s.block (watchedBlock l.unit)).tag + 1 ∨ s.blocks.length ≤ watchedBlock l.unit) ∧
        s.onlyIn v [.blocks, .resil]) ∧
      (nextRung l.unit l.rung < 4 → runs .resetRungTimeout s fun t =>
        t.resil.lastRung = BitVec.ofNat 3 (nextRung l.unit l.rung) ∧
        t.logs.errorCounts[0x116]? = (s.logs.errorCounts[0x116]?).map (satAdd · 1)) ∧
      (4 ≤ nextRung l.unit l.rung → runs .resetRungTimeout s fun t => t.resil.lastRung = 4 ∧ t.start.begun = false ∧ t.start.loaded = false))

/-- Wear and spares (R27, R467–R469, R485): a unit's first oscillator reading is its baseline; one 6 % or more below it marks the unit, once, with
0x119 where no spare is left; a swap starts in an open window, in R468's order, and its end inside the window brings the spare of its kind in,
records it and logs 0x118, or 0x119 without a spare; a spare block without power is marked failed.
Where the rules leave a choice, it rests on the model's readings of log entries 58 and 22. -/
def Obligations.WearAndSpares : Prop :=
  let counted (s t : State) (code : Nat) : Prop := t.logs.errorCounts[code]? = (s.logs.errorCounts[code]?).map (satAdd · 1)
  ∀ s : State,
    (s.start.loaded = false ∨ s.roleUp 3 = false → ∀ rs, runs (.wearSample rs) s fun t => t = s) ∧
    (s.start.loaded = true → s.roleUp 3 = true →
      (∀ rs, runs (.wearSample rs) s fun t => t = rs.foldl (fun s r => s.wearReading r) s) ∧
      (∀ r : WearReading,
        let unit := match r.cell with
          | some c => cellUnit r.block.val c.val
          | none => blockUnit r.block.val
        (lookupNat unit s.resil.baselines = none → runs (.wearSample [r]) s fun t =>
          t.resil.baselines = insertKey unit r.kHz s.resil.baselines ∧ s.onlyIn t [.resil]) ∧
        (∀ b, lookupNat unit s.resil.baselines = some b →
          (94 * b < 100 * r.kHz ∨ s.isMarked 1 unit 0 = true → runs (.wearSample [r]) s fun t => t = s) ∧
          (100 * r.kHz ≤ 94 * b → s.isMarked 1 unit 0 = false → runs (.wearSample [r]) s fun t =>
            t.resil.baselines = s.resil.baselines ∧ counted s t 0x117 ∧
            (s.hasSpare 1 unit = true → t.resil.swaps = s.resil.swaps ++ [⟨1, unit, 0, 0x117, false, false, 0⟩]) ∧
            (s.hasSpare 1 unit = false → t.resil.swaps = s.resil.swaps ∧ t.resil.exhausted = s.resil.exhausted ++ [(1, unit, 0)] ∧
              counted s t 0x119) ∧ s.onlyIn t [.logs, .blocks, .resil])))) ∧
    (∀ (left : Nat) (w : Swap), s.start.loaded = true → s.roleUp 5 = true → s.resil.swaps.any (·.running) = false → s.windowLeft = some left →
      leastBy (fun w => (swapOrder w).1) (s.resil.swaps.filter (s.swapFits left)) = some w →
      runs .spareSwap s fun t => t.resil.winStarted = s.resil.winStarted + 1 ∧
        t.resil.swaps = (s.resil.swaps.map fun x => if x = w then { x with running := true, began := s.dial.ns } else x) ∧ s.onlyIn t [.resil]) ∧
    (s.start.loaded = false ∨ s.roleUp 5 = false ∨ s.resil.swaps.any (·.running) = true ∨ s.windowLeft = none ∨
      (∃ left, s.windowLeft = some left ∧ s.resil.swaps.filter (s.swapFits left) = []) → runs .spareSwap s fun t => t = s) ∧
    (∀ powerOk, s.resil.swaps.find? (·.running) = none ∨ s.windowLeft = none → runs (.spareSwapComplete powerOk) s fun t => t = s) ∧
    (∀ (w : Swap) (powerOk : Bool), s.resil.swaps.find? (·.running) = some w → s.windowLeft ≠ none →
      let left := s.resil.swaps.filter (· != w)
      let ends (post : State → Prop) : Prop := runs (.spareSwapComplete powerOk) s fun t => post t ∧ t.resil.swaps = left ∧
        t.resil.swapsDone = satAdd s.resil.swapsDone 1 ∧ t.resil.winDone = s.resil.winDone + 1 ∧ counted s t 0x118
      let noSpare : Prop := runs (.spareSwapComplete powerOk) s fun t => t.resil.swaps = left ∧
        t.resil.exhausted = s.resil.exhausted ++ [(w.kind, w.unit, w.detail)] ∧ counted s t 0x119 ∧ s.onlyIn t [.logs, .resil]
      let block := unitBlock w.unit
      let region := unitRegion w.unit
      (w.kind = 1 → unitClass w.unit = 0 → s.spareCells block = [] → noSpare) ∧
      (∀ c rest, w.kind = 1 → unitClass w.unit = 0 → s.spareCells block = c :: rest → block < s.blocks.length → ends fun t =>
        (t.block block).active = ((s.block block).active &&& ~~~(1#17 <<< unitIndex w.unit)) ||| (1#17 <<< c) ∧
        t.resil.failedCells = (block / 9, block % 9, unitIndex w.unit) :: s.resil.failedCells) ∧
      (w.kind = 1 → unitClass w.unit = 1 → powerOk = true → s.spareBlocks (block / 9) = [] → noSpare) ∧
      (∀ n rest, w.kind = 1 → unitClass w.unit = 1 → powerOk = true → s.spareBlocks (block / 9) = n :: rest → ends fun t =>
        t.resil.activeBlocks = modifyAt s.resil.activeBlocks (block / 9) (fun m => (m &&& ~~~(1#9 <<< (block % 9))) ||| (1#9 <<< n)) ∧
        t.resil.failedBlocks = (block / 9, block % 9) :: s.resil.failedBlocks) ∧
      (∀ n rest, w.kind = 1 → unitClass w.unit = 1 → powerOk = false → s.spareBlocks region = n :: rest →
        runs (.spareSwapComplete powerOk) s fun t => t.resil.failedBlocks = (region, n) :: s.resil.failedBlocks ∧ counted s t 0x125 ∧
          t.power.failed = satAdd s.power.failed 1 ∧ (rest = [] → t.resil.swaps = left ∧ counted s t 0x119) ∧
          (rest ≠ [] → t.resil.swaps = s.resil.swaps.map fun y => { y with running := false })) ∧
      (w.kind = 1 → 2 ≤ unitClass w.unit → s.spareSpouts region = [] → noSpare) ∧
      (∀ n rest, w.kind = 1 → 2 ≤ unitClass w.unit → s.spareSpouts region = n :: rest → ends fun t =>
        t.resil.activeSpouts = modifyAt s.resil.activeSpouts region (fun m => (m &&& ~~~(1#9 <<< unitIndex w.unit)) ||| (1#9 <<< n)) ∧
        t.resil.failedSpouts = (region, unitIndex w.unit) :: s.resil.failedSpouts) ∧
      (w.kind = 2 → ends fun t => field w.unit 0 3 < s.links.ports.length → (t.port (field w.unit 0 3)).spareReady = false ∧
        ∃ seq, (t.port (field w.unit 0 3)).newMap = some ((s.port (field w.unit 0 3)).spareMap (field w.unit 0 3) (field w.unit 3 3), seq)) ∧
      (∀ x, w.kind = 3 → s.memory.controllers[w.unit]? = some x → ends fun t =>
        (t.memory.controllers[w.unit]?).map (·.spareRows) = some (x.spareRows ++ [w.detail])) ∧
      (∀ x, w.kind = 4 → s.memory.controllers[w.unit]? = some x → ends fun t =>
        (t.memory.controllers[w.unit]?).map (·.spareBg) = some true ∧ t.resil.groupsUsed = s.resil.groupsUsed ++ [w.unit]) ∧
      (w.kind = 5 → ends fun t => s.onlyIn t [.logs, .resil]))

/-- R465: a rung advances by one the tag of every domain it resets, a region's also its blocks and engines, the device's all; a reply with an
older tag is dropped and counted. -/
def Obligations.RungTags : Prop :=
  ∀ s : State, s.blocks.length = 36 → s.resil.tagRegions.length = 4 →
    (∀ l : Ladder, s.resil.ladders.find? (fun l => l.rung != 0) = some l →
      let region := (watchedRegion l.unit).getD 0
      let blocks : List Nat := if l.rung = 2 then [watchedBlock l.unit] else if l.rung = 3 then (List.range 9).map (9 * region + ·) else []
      let engines : List Nat := (if l.rung = 1 then [watchedTag l.unit] else []) ++
        blocks.flatMap (fun b => (List.range 17).map fun c => 8192 + 17 * b + c) ++
        (if l.rung = 3 then ([0, 1, 2, 3, 4, 5] ++ (List.range 9).map (· + 16)).map (region * 1024 + ·) else [])
      (l.rung < 4 → runs .resetRungComplete s fun t =>
        (∀ k, t.engineTag k = if k ∈ engines then s.engineTag k + 1 else s.engineTag k) ∧
        (∀ b, b < 36 → (t.block b).tag = if b ∈ blocks then (s.block b).tag + 1 else (s.block b).tag) ∧
        t.resil.tagRegions = (if l.rung = 3 then modifyAt s.resil.tagRegions region (· + 1) else s.resil.tagRegions) ∧
        t.resil.tagDevice = s.resil.tagDevice) ∧
      (4 ≤ nextRung l.unit l.rung → runs .resetRungTimeout s fun t =>
        (∀ k ∈ engineKeys, t.engineTag k = s.engineTag k + 1) ∧ (∀ b, b < 36 → (t.block b).tag = (s.block b).tag + 1) ∧
        t.resil.tagRegions = s.resil.tagRegions.map (· + 1) ∧ t.resil.tagDevice = s.resil.tagDevice + 1)) ∧
    (∀ (src : Coord) (tag : BitVec 8) (code : BitVec 12) (gen : BitVec 8) (poison : Word) (data : List Flit),
      ∀ c, c = Instr.memAck src tag code gen ∧ gen ≠ s.engineTag (s.memIssuer src tag false) ∨
          c = Instr.memData src tag code gen poison data ∧ gen ≠ s.engineTag (s.memIssuer src tag true) →
        runs c s fun t => t.resil = { s.resil with stale := s.resil.stale + 1 } ∧ s.onlyIn t [.resil])


/-- R477: with the input removed the device holds nothing: every domain is unpowered, and every state, counter, key and memory content is as
it is before the first start. The flash, the pins' levels and the queue of waiting commands are not the device's to lose.
Where the rules leave a choice, it rests on the model's readings of log entry 60. -/
def Obligations.InputRemoved : Prop :=
  ∀ s : State, s.power.stage ≠ .off → runs (.inputFault .undervoltage) s fun t =>
    State.reset.onlyIn t [.pending, .draws, .flash, .power] ∧ t.flash = s.flash ∧ t.pending = s.pending ∧ t.power.on = 0 ∧
    t.power = { PowerState.reset with en := s.power.en, resetN := s.power.resetN, strap := s.power.strap, refclkOk := s.power.refclkOk }

/-- One step takes the command at the front of the queue and runs it with the queue's rest; on an empty queue the block idles (the model's
choice, log entry 1). -/
def Obligations.StepRunsFront : Prop :=
  (∀ (c : Instr) (s : State), step { s with pending := c :: s.pending } = exec c s) ∧
  ∀ s : State, s.pending = [] → step s = .next s

/-- Reset (R477): nothing listed in memory, whose form is canonical; nothing powered, no start begun, no command waiting.
Where the rules leave a choice, it rests on the model's readings of log entry 2. -/
def Obligations.ResetState : Prop :=
  State.reset.memoryOk ∧ State.reset.memory.mem = ⟨[], []⟩ ∧ State.reset.pending = [] ∧ State.reset.power.on = 0 ∧
  State.reset.start.begun = false ∧ State.reset.start.loaded = false ∧ State.reset.run.run = 0

/-- Every step keeps the memory's canonical form: keys and poisoned lines strictly rising. -/
def Obligations.MemoryKept : Prop :=
  ∀ s t : State, s.memoryOk → step s = .next t → t.memoryOk

/-- Every command completes, and only a step takes commands from the queue: each step leaves the rest of the queue in its order.
Where the rules leave a choice, it rests on the model's readings of log entries 1 and 6. -/
def Obligations.QueueOrder : Prop :=
  ∀ s : State, ∃ t, step s = .next t ∧ t.pending = s.pending.tail

/-- Every one of the 145 commands of the table completes: in every state and on all operands exec answers a next state, which differs only in the
parts listed for that command (changedBy). Who changes what: between a start and the next device reset the loaded configuration does not change (R1); the flash changes only with
its journal, directory and slots' own commands; the control cores only with starts, resets and their own events; an emergency stop's latch
clears only at an external reset or when the input falls below its undervoltage threshold (R498).
Where the rules leave a choice, it rests on the model's readings of log entry 6. -/
def Obligations.OnlyNamedCommands : Prop :=
  ∀ (s : State) (c : Instr), runs c s fun t => s.onlyIn t (changedBy c) ∧
    (s.start.begun = true → t.start.begun = true → t.cfg = s.cfg) ∧
    (s.start.begun = true → t.start.begun = true → t.cores ≠ s.cores → ∃ i, c = .heartbeat i ∨ c = .watcherRead i ∨ c = .takeoverComplete i) ∧
    (t.flash ≠ s.flash → c = .stageCommitDone ∨ (∃ n, c = .dialAdvance n ∨ c = .stepBoundary n) ∨ (∃ f, c = .startSequence f) ∨
      (∃ job ok, c = .flashProgramDone job ok) ∨ (∃ i, c = .takeoverComplete i) ∨ (∃ h slot, c = .select h slot) ∨
      ∃ h step, c = .start h step ∨ c = .pause h step ∨ c = .stop h step ∨ c = .eval h step ∨ c = .ckpt h step) ∧
    (s.power.estop = true → t.power.estop = false → c = .externalReset ∨ c = .inputFault .undervoltage)
end

