-- ==== Sys2Proof/Laws/Memory.lean ====
section
/-! SUPPORT. Memory: what the named operations read back, and that each keeps the canonical form. -/

namespace Sys2Proof.Machine

/-! ### Ordered lists -/

/-- A list rises when its head is below every later entry and the rest rises. -/
theorem rising_cons (a : Nat) (l : List Nat) : rising (a :: l) = true ↔ (∀ b ∈ l, a < b) ∧ rising l = true := by
  induction l generalizing a with
  | nil => simp [rising]
  | cons b l ih =>
    simp only [rising, Bool.and_eq_true, decide_eq_true_eq, List.mem_cons, forall_eq_or_imp]
    constructor
    · intro ⟨hab, hr⟩
      exact ⟨⟨hab, fun c hc => lt_trans hab (((ih b).1 hr).1 c hc)⟩, hr⟩
    · intro ⟨⟨hab, _⟩, hr⟩
      exact ⟨hab, hr⟩

theorem mem_insertNat {n k : Nat} {l : List Nat} : k ∈ insertNat n l ↔ k = n ∨ k ∈ l := by
  induction l with
  | nil => simp [insertNat]
  | cons m l ih => rw [insertNat]; split; · simp
                   split
                   · subst_vars; simp
                   · simp only [List.mem_cons, ih]; tauto

theorem rising_insertNat {n : Nat} {l : List Nat} (h : rising l = true) : rising (insertNat n l) = true := by
  induction l with
  | nil => rfl
  | cons m l ih =>
    obtain ⟨hm, hl⟩ := (rising_cons m l).1 h
    rw [insertNat]
    split
    · refine (rising_cons n _).2 ⟨fun b hb => ?_, h⟩
      rcases List.mem_cons.1 hb with rfl | hb
      · assumption
      · exact lt_trans ‹n < m› (hm b hb)
    · split
      · exact h
      · refine (rising_cons m _).2 ⟨fun b hb => ?_, ih hl⟩
        rcases mem_insertNat.1 hb with rfl | hb
        · omega
        · exact hm b hb

theorem rising_filter {p : Nat → Bool} {l : List Nat} (h : rising l = true) : rising (l.filter p) = true := by
  induction l with
  | nil => rfl
  | cons m l ih =>
    obtain ⟨hm, hl⟩ := (rising_cons m l).1 h
    rw [List.filter_cons]
    split
    · exact (rising_cons m _).2 ⟨fun b hb => hm b (List.mem_filter.1 hb).1, ih hl⟩
    · exact ih hl

theorem mem_insertKey {α : Type} {k j : Nat} {a : α} {l : List (Nat × α)} : j ∈ (insertKey k a l).map (·.1) ↔ j = k ∨ j ∈ l.map (·.1) := by
  induction l with
  | nil => simp [insertKey]
  | cons x l ih =>
    obtain ⟨i, b⟩ := x
    rw [insertKey]
    split
    · simp
    · split
      · subst_vars; simp
      · simp only [List.map_cons, List.mem_cons, ih]; tauto

theorem rising_insertKey {α : Type} {k : Nat} {a : α} {l : List (Nat × α)} (h : rising (l.map (·.1)) = true) :
    rising ((insertKey k a l).map (·.1)) = true := by
  induction l with
  | nil => rfl
  | cons x l ih =>
    obtain ⟨i, b⟩ := x
    obtain ⟨hi, hl⟩ := (rising_cons i _).1 h
    rw [insertKey]
    split
    · refine (rising_cons k _).2 ⟨fun c hc => ?_, h⟩
      rcases List.mem_cons.1 hc with rfl | hc
      · assumption
      · exact lt_trans ‹k < i› (hi c hc)
    · split
      · subst_vars; exact h
      · refine (rising_cons i _).2 ⟨fun c hc => ?_, ih hl⟩
        rcases mem_insertKey.1 hc with rfl | hc
        · omega
        · exact hi c hc

theorem lookupNat_insertKey {α : Type} {k j : Nat} {a : α} {l : List (Nat × α)} :
    lookupNat j (insertKey k a l) = if k = j then some a else lookupNat j l := by
  induction l with
  | nil => simp [insertKey, lookupNat]
  | cons x l ih =>
    obtain ⟨i, b⟩ := x
    rw [insertKey]
    split
    · simp [lookupNat]
    · split
      · subst_vars
        simp only [lookupNat]
        split <;> rfl
      · simp only [lookupNat, ih]
        split
        · rw [if_neg (by omega)]
        · rfl

/-! ### Bytes -/

theorem Memory.byte?_set (m : Memory) (k j : Nat) (b : Byte) : (m.set k b).byte? j = if k = j then some b else m.byte? j := by
  simp [Memory.set, Memory.byte?, lookupNat_insertKey]

@[simp] theorem Memory.set_poison (m : Memory) (k : Nat) (b : Byte) : (m.set k b).poison = m.poison := rfl

@[simp] theorem Memory.write_poison (m : Memory) (k : Nat) (bs : List Byte) : (m.write k bs).poison = m.poison := by
  induction bs generalizing m k with
  | nil => rfl
  | cons b bs ih => rw [Memory.write, ih]; rfl

/-- A write puts its bytes from its key upward and leaves every other byte. -/
theorem Memory.byte?_write (m : Memory) (k : Nat) (bs : List Byte) (j : Nat) :
    (m.write k bs).byte? j = if k ≤ j ∧ j < k + bs.length then bs[j - k]? else m.byte? j := by
  induction bs generalizing m k with
  | nil => simp [Memory.write]
  | cons b bs ih =>
    rw [Memory.write, ih, Memory.byte?_set]
    simp only [List.length_cons]
    by_cases hk : k = j
    · subst hk; simp
    · rw [if_neg hk]
      by_cases h1 : k + 1 ≤ j ∧ j < k + 1 + bs.length
      · rw [if_pos h1, if_pos (by omega)]
        obtain ⟨n, rfl⟩ : ∃ n, j = k + 1 + n := ⟨j - (k + 1), by omega⟩
        rw [show k + 1 + n - (k + 1) = n by omega, show k + 1 + n - k = n + 1 by omega]
        simp
      · rw [if_neg h1, if_neg (by omega)]

@[simp] theorem Memory.setPoison_cells (m : Memory) (k : Nat) (p : Bool) : (m.setPoison k p).cells = m.cells := by
  rw [Memory.setPoison]; split <;> rfl

@[simp] theorem Memory.byte?_setPoison (m : Memory) (k j : Nat) (p : Bool) : (m.setPoison k p).byte? j = m.byte? j := by
  simp [Memory.byte?]

/-! ### The canonical form -/

theorem Memory.wf_iff (m : Memory) : m.wf = true ↔ rising (m.cells.map (·.1)) = true ∧ rising m.poison = true := by
  simp [Memory.wf]

theorem Memory.set_wf {m : Memory} (k : Nat) (b : Byte) (h : m.wf = true) : (m.set k b).wf = true := by
  rw [Memory.wf_iff] at *
  exact ⟨rising_insertKey h.1, h.2⟩

theorem Memory.write_wf {m : Memory} (k : Nat) (bs : List Byte) (h : m.wf = true) : (m.write k bs).wf = true := by
  induction bs generalizing m k with
  | nil => exact h
  | cons b bs ih => exact ih _ (Memory.set_wf _ _ h)

theorem Memory.setPoison_wf {m : Memory} (k : Nat) (p : Bool) (h : m.wf = true) : (m.setPoison k p).wf = true := by
  rw [Memory.wf_iff] at *
  rw [Memory.setPoison]
  split
  · exact ⟨h.1, rising_insertNat h.2⟩
  · exact ⟨h.1, rising_filter h.2⟩

/-- Marking or clearing lines keeps the form. -/
theorem Memory.marks_wf {m : Memory} {l : List Nat} {f : Memory → Nat → Memory} (hf : ∀ m k, m.wf = true → (f m k).wf = true) (h : m.wf = true) :
    (l.foldl f m).wf = true := by
  induction l generalizing m with
  | nil => exact h
  | cons a l ih => exact ih (hf m a h)

/-- Dropping bytes and marks keeps the form. -/
theorem Memory.filter_wf {m : Memory} (p : Nat → Bool) (h : m.wf = true) :
    (Memory.wf { cells := m.cells.filter fun c => p c.1, poison := m.poison.filter p }) = true := by
  rw [Memory.wf_iff] at *
  refine ⟨?_, rising_filter h.2⟩
  have : (m.cells.filter fun c => p c.1).map (·.1) = (m.cells.map (·.1)).filter p := by
    rw [List.filter_map]; rfl
  rw [this]
  exact rising_filter h.1

/-! ### The store of a unit -/

theorem marks_cells {l : List Nat} {m : Memory} {f : Memory → Nat → Memory} (hf : ∀ m k, (f m k).cells = m.cells) : (l.foldl f m).cells = m.cells := by
  induction l generalizing m with
  | nil => rfl
  | cons a l ih => rw [List.foldl_cons, ih, hf]

/-- What a store leaves in the tiers: its bytes from its key upward, every other byte as before. -/
theorem State.store_byte (s : State) (k : Nat) (bs : List Byte) (p : Bool) (j : Nat) :
    (s.store k bs p).memory.mem.byte? j = if k ≤ j ∧ j < k + bs.length then bs[j - k]? else s.memory.mem.byte? j := by
  rw [← Memory.byte?_write]
  unfold State.store State.withMem Memory.byte?
  dsimp only
  rw [marks_cells]
  intro m l
  split
  · simp
  · split <;> simp

theorem State.store_wf {s : State} (k : Nat) (bs : List Byte) (p : Bool) (h : s.memoryOk) : (s.store k bs p).memoryOk := by
  unfold State.memoryOk State.store State.withMem at *
  dsimp only
  refine Memory.marks_wf (fun m l hm => ?_) (Memory.write_wf _ _ h)
  split
  · exact Memory.setPoison_wf _ _ hm
  · split
    · exact Memory.setPoison_wf _ _ hm
    · exact hm

end Sys2Proof.Machine
end

