-- ==== Sys2Proof/Laws/Frame.lean ====
section
/-! SUPPORT. Frames: which parts of the state a function of the model can change. -/

namespace Sys2Proof.Machine

/-- From one state to another only named parts change, and memory stays in its canonical form. -/
def State.within (s0 : State) (L : List Part) (s : State) : Prop := s0.onlyIn s L ∧ (s0.memoryOk → s.memoryOk)

/-- Every part of one list is in another, both in the order the parts are declared. -/
def Part.covers : List Part → List Part → Bool
  | [], _ => true
  | _ :: _, [] => false
  | p :: ps, q :: qs => if p.ctorIdx == q.ctorIdx then Part.covers ps qs else Part.covers (p :: ps) qs

theorem Part.ctorIdx_eq {p q : Part} (h : p.ctorIdx = q.ctorIdx) : p = q := by
  cases p <;> cases q <;> first | rfl | (exact absurd h (by decide))

theorem Part.covers_mem : ∀ {M L : List Part}, Part.covers M L = true → M ⊆ L
  | [], _, _ => by simp
  | p :: ps, [], h => by simp [Part.covers] at h
  | p :: ps, q :: qs, h => by
    intro r hr
    by_cases he : p.ctorIdx = q.ctorIdx
    · have := Part.ctorIdx_eq he
      subst this
      rw [Part.covers, if_pos (by simp)] at h
      rcases List.mem_cons.1 hr with rfl | hr
      · simp
      · exact List.mem_cons_of_mem _ (Part.covers_mem h hr)
    · rw [Part.covers, if_neg (by simpa using he)] at h
      exact List.mem_cons_of_mem _ (Part.covers_mem h hr)

theorem Part.sub_of {A B L : List Part} (hL : A ⊆ L) (h : Part.covers B A = true) : B ⊆ L :=
  fun _ hp => hL (Part.covers_mem h hp)

theorem Part.in_of {p : Part} {A L : List Part} (hL : A ⊆ L) (h : Part.covers [p] A = true) : p ∈ L := Part.sub_of hL h (by simp)

theorem State.within_refl (s : State) (L : List Part) : s.within L s := ⟨fun p _ => by cases p <;> rfl, id⟩

theorem Part.same_trans {s t u : State} (p : Part) (h : p.same s t) (h' : p.same t u) : p.same s u := by
  cases p <;> exact h'.trans h

theorem State.within_step {s0 s t : State} {L M : List Part} (h' : s.within M t) (h : s0.within L s) (hs : M ⊆ L) :
    s0.within L t := by
  refine ⟨fun p hp => p.same_trans (h.1 p hp) (h'.1 p fun hm => hp ?_), fun hm => h'.2 (h.2 hm)⟩
  exact hs hm

theorem State.within_fold {α : Type} {s0 s : State} {L : List Part} {f : State → α → State} {l : List α}
    (hf : ∀ s x, s0.within L s → s0.within L (f s x)) (h : s0.within L s) : s0.within L (l.foldl f s) := by
  induction l generalizing s with
  | nil => exact h
  | cons a l ih => exact ih (hf s a h)

theorem State.within_fold_fst {α β : Type} {s0 : State} {L : List Part} {f : State × β → α → State × β} {l : List α} {a : State × β}
    (hf : ∀ a x, s0.within L a.1 → s0.within L (f a x).1) (h : s0.within L a.1) : s0.within L (l.foldl f a).1 := by
  induction l generalizing a with
  | nil => exact h
  | cons x l ih => exact ih (hf a x h)

theorem State.within_ite {s0 a b : State} {L : List Part} {c : Prop} [Decidable c] (ha : s0.within L a) (hb : s0.within L b) :
    s0.within L (if c then a else b) := by split <;> assumption

theorem State.within_elim {α : Type} {s0 b : State} {f : α → State} {o : Option α} {L : List Part} (ha : ∀ x, s0.within L (f x)) (hb : s0.within L b) :
    s0.within L (o.elim b f) := by cases o <;> simp [ha, hb]

theorem State.within_fst {α : Type} {s0 : State} {L : List Part} {g : State × α} {s : State} {x : α} (h : g = (s, x)) (hg : s0.within L g.1) :
    s0.within L s := by subst h; exact hg
theorem State.within_snd {α : Type} {s0 : State} {L : List Part} {g : α × State} {s : State} {x : α} (h : g = (x, s)) (hg : s0.within L g.2) :
    s0.within L s := by subst h; exact hg

theorem State.within_upd {s0 X : State} {L : List Part}
    {draws power flash start staging cfg dial logs run mbs sched cores memory tables cursors rambler gather train blocks cascade links resil}
    (h : s0.within L X)
    (h1 : draws = X.draws ∨ .draws ∈ L) (h2 : power = X.power ∨ .power ∈ L) (h3 : flash = X.flash ∨ .flash ∈ L)
    (h4 : start = X.start ∨ .start ∈ L) (h5 : staging = X.staging ∨ .staging ∈ L) (h6 : cfg = X.cfg ∨ .cfg ∈ L)
    (h7 : dial = X.dial ∨ .dial ∈ L) (h8 : logs = X.logs ∨ .logs ∈ L) (h9 : run = X.run ∨ .run ∈ L)
    (h10 : mbs = X.mbs ∨ .mbs ∈ L) (h11 : sched = X.sched ∨ .sched ∈ L) (h12 : cores = X.cores ∨ .cores ∈ L)
    (h13 : memory = X.memory ∨ .memory ∈ L) (h14 : tables = X.tables ∨ .tables ∈ L)
    (h15 : cursors = X.cursors ∨ .cursors ∈ L) (h16 : rambler = X.rambler ∨ .rambler ∈ L)
    (h17 : gather = X.gather ∨ .gather ∈ L) (h18 : train = X.train ∨ .train ∈ L)
    (h19 : blocks = X.blocks ∨ .blocks ∈ L) (h20 : cascade = X.cascade ∨ .cascade ∈ L)
    (h21 : links = X.links ∨ .links ∈ L) (h22 : resil = X.resil ∨ .resil ∈ L)
    (h23 : memory.mem = X.memory.mem ∨ (.bytes ∈ L ∧ (X.memory.mem.wf = true → memory.mem.wf = true))) :
    s0.within L ⟨X.pending, draws, power, flash, start, staging, cfg, dial, logs, run, mbs, sched, cores, memory, tables, cursors, rambler, gather,
      train, blocks, cascade, links, resil⟩ := by
  refine ⟨fun p hp => p.same_trans (h.1 p hp) ?_, fun hm => ?_⟩
  · cases p <;> first | rfl | (simp_all [Part.same])
  · rcases h23 with h23 | h23
    · simpa [State.memoryOk, h23] using h.2 hm
    · exact h23.2 (h.2 hm)

theorem State.withMem_within {s0 : State} {L : List Part} {s : State} {m : Memory} (hm : s.memory.mem.wf = true → m.wf = true) (h : s0.within L s)
    (hL : [.memory, .bytes] ⊆ L) : s0.within L (s.withMem m) := by
  refine State.within_step ⟨fun p hp => ?_, hm⟩ h hL
  cases p <;> first | rfl | (exfalso; simp at hp)

theorem State.onMemory_within {s0 : State} {L : List Part} {s : State} {f : MemState → MemState} (hf : (f s.memory).mem = s.memory.mem)
    (h : s0.within L s) (hL : [.memory] ⊆ L) : s0.within L (s.onMemory f) := by
  refine State.within_step ⟨fun p hp => ?_, fun hm => ?_⟩ h hL
  · cases p <;> first | rfl | exact hf | (exfalso; simp at hp)
  · simpa [State.memoryOk, State.onMemory, hf] using hm

theorem State.loseDevice_within {s0 : State} {L : List Part} {s : State} (h : s0.within L s)
    (hL : [.start, .staging, .cfg, .dial, .logs, .run, .mbs, .sched, .cores, .memory, .tables, .cursors, .rambler, .gather, .train, .blocks,
      .cascade, .links, .resil, .bytes] ⊆ L) : s0.within L s.loseDevice := by
  refine State.within_step ⟨fun p hp => ?_, fun _ => rfl⟩ h hL
  cases p <;> first | rfl | (exfalso; simp at hp)

theorem State.store_within {s0 : State} {L : List Part} {s : State} {k : Nat} {bs : List Byte} {p : Bool} (h : s0.within L s)
    (hL : [.memory, .bytes] ⊆ L) : s0.within L (s.store k bs p) := by
  refine State.within_step ⟨fun p hp => ?_, State.store_wf k bs p⟩ h hL
  cases p <;> first | rfl | (exfalso; simp at hp)

end Sys2Proof.Machine
end

