-- ==== Sys2Proof/Laws/FrameOps.lean ====
section
/-! SUPPORT. Frames of the functions of one area: shared operations, ports, hand-over, operands. Each names the parts it can change; memory keeps its form. -/

namespace Sys2Proof.Machine

set_option Elab.async false
set_option linter.all false

theorem State.draw_within {s0 : State} {L : List Part} {s : State} (hw : s0.within L s) (hL : [.draws] ⊆ L) :
    s0.within L (State.draw s) := by
  unfold State.draw
  try dsimp only
  repeat' first
    | with_reducible assumption | exact Part.sub_of hL (by decide) | exact .inr (Part.in_of hL (by decide)) | with_reducible exact .inl rfl
    | with_reducible apply State.within_upd

theorem State.onRun_within {s0 : State} {L : List Part} {s : State} {f : RunState → RunState} (hw : s0.within L s) (hL : [.run] ⊆ L) :
    s0.within L (State.onRun s f) := by
  unfold State.onRun
  try dsimp only
  repeat' first
    | with_reducible assumption | exact Part.sub_of hL (by decide) | exact .inr (Part.in_of hL (by decide)) | with_reducible exact .inl rfl
    | with_reducible apply State.within_upd

theorem State.onDial_within {s0 : State} {L : List Part} {s : State} {f : DialState → DialState} (hw : s0.within L s) (hL : [.dial] ⊆ L) :
    s0.within L (State.onDial s f) := by
  unfold State.onDial
  try dsimp only
  repeat' first
    | with_reducible assumption | exact Part.sub_of hL (by decide) | exact .inr (Part.in_of hL (by decide)) | with_reducible exact .inl rfl
    | with_reducible apply State.within_upd

theorem State.onLogs_within {s0 : State} {L : List Part} {s : State} {f : LogState → LogState} (hw : s0.within L s) (hL : [.logs] ⊆ L) :
    s0.within L (State.onLogs s f) := by
  unfold State.onLogs
  try dsimp only
  repeat' first
    | with_reducible assumption | exact Part.sub_of hL (by decide) | exact .inr (Part.in_of hL (by decide)) | with_reducible exact .inl rfl
    | with_reducible apply State.within_upd

theorem State.onTrain_within {s0 : State} {L : List Part} {s : State} {f : TrainState → TrainState} (hw : s0.within L s) (hL : [.train] ⊆
    L) :
    s0.within L (State.onTrain s f) := by
  unfold State.onTrain
  try dsimp only
  repeat' first
    | with_reducible assumption | exact Part.sub_of hL (by decide) | exact .inr (Part.in_of hL (by decide)) | with_reducible exact .inl rfl
    | with_reducible apply State.within_upd

theorem State.onTables_within {s0 : State} {L : List Part} {s : State} {f : TablesState → TablesState} (hw : s0.within L s) (hL :
    [.tables] ⊆ L) :
    s0.within L (State.onTables s f) := by
  unfold State.onTables
  try dsimp only
  repeat' first
    | with_reducible assumption | exact Part.sub_of hL (by decide) | exact .inr (Part.in_of hL (by decide)) | with_reducible exact .inl rfl
    | with_reducible apply State.within_upd

theorem State.onGather_within {s0 : State} {L : List Part} {s : State} {f : GatherState → GatherState} (hw : s0.within L s) (hL :
    [.gather] ⊆ L) :
    s0.within L (State.onGather s f) := by
  unfold State.onGather
  try dsimp only
  repeat' first
    | with_reducible assumption | exact Part.sub_of hL (by decide) | exact .inr (Part.in_of hL (by decide)) | with_reducible exact .inl rfl
    | with_reducible apply State.within_upd

theorem State.onCascade_within {s0 : State} {L : List Part} {s : State} {f : CascadeState → CascadeState} (hw : s0.within L s) (hL :
    [.cascade] ⊆ L) :
    s0.within L (State.onCascade s f) := by
  unfold State.onCascade
  try dsimp only
  repeat' first
    | with_reducible assumption | exact Part.sub_of hL (by decide) | exact .inr (Part.in_of hL (by decide)) | with_reducible exact .inl rfl
    | with_reducible apply State.within_upd

theorem State.onResil_within {s0 : State} {L : List Part} {s : State} {f : ResilState → ResilState} (hw : s0.within L s) (hL : [.resil] ⊆
    L) :
    s0.within L (State.onResil s f) := by
  unfold State.onResil
  try dsimp only
  repeat' first
    | with_reducible assumption | exact Part.sub_of hL (by decide) | exact .inr (Part.in_of hL (by decide)) | with_reducible exact .inl rfl
    | with_reducible apply State.within_upd

theorem State.onLinks_within {s0 : State} {L : List Part} {s : State} {f : LinkState → LinkState} (hw : s0.within L s) (hL : [.links] ⊆ L) :
    s0.within L (State.onLinks s f) := by
  unfold State.onLinks
  try dsimp only
  repeat' first
    | with_reducible assumption | exact Part.sub_of hL (by decide) | exact .inr (Part.in_of hL (by decide)) | with_reducible exact .inl rfl
    | with_reducible apply State.within_upd

theorem State.onBlock_within {s0 : State} {L : List Part} {s : State} {b : Nat} {f : BlockState → BlockState} (hw : s0.within L s) (hL :
    [.blocks] ⊆ L) :
    s0.within L (State.onBlock s b f) := by
  unfold State.onBlock
  try dsimp only
  repeat' first
    | with_reducible assumption | exact Part.sub_of hL (by decide) | exact .inr (Part.in_of hL (by decide)) | with_reducible exact .inl rfl
    | with_reducible apply State.within_upd

theorem State.onRestore_within {s0 : State} {L : List Part} {s : State} {f : RestoreState → RestoreState} (hw : s0.within L s) (hL :
    [.resil] ⊆ L) :
    s0.within L (State.onRestore s f) := by
  unfold State.onRestore
  try dsimp only
  repeat' first
    | with_reducible assumption | exact Part.sub_of hL (by decide) | exact .inr (Part.in_of hL (by decide)) | with_reducible exact .inl rfl
    | with_reducible apply State.onResil_within | with_reducible apply State.within_upd

theorem State.onTarget_within {s0 : State} {L : List Part} {s : State} {t : Nat} {f : CkptTarget → CkptTarget} (hw : s0.within L s) (hL :
    [.resil] ⊆ L) :
    s0.within L (State.onTarget s t f) := by
  unfold State.onTarget
  try dsimp only
  repeat' first
    | with_reducible assumption | exact Part.sub_of hL (by decide) | exact .inr (Part.in_of hL (by decide)) | with_reducible exact .inl rfl
    | with_reducible apply State.onResil_within | with_reducible apply State.within_upd

theorem State.countError_within {s0 : State} {L : List Part} {s : State} {code : Nat} (hw : s0.within L s) (hL : [.logs] ⊆ L) :
    s0.within L (State.countError s code) := by
  unfold State.countError
  try dsimp only
  repeat' first
    | with_reducible assumption | exact Part.sub_of hL (by decide) | exact .inr (Part.in_of hL (by decide)) | with_reducible exact .inl rfl
    | with_reducible apply State.within_ite | with_reducible apply State.within_upd

theorem State.logDevice_within {s0 : State} {L : List Part} {s : State} {code : Nat} {who : Named} {dropped : Nat} {detail : Nat} (hw :
    s0.within L s) (hL : [.logs] ⊆ L) :
    s0.within L (State.logDevice s code who dropped detail) := by
  unfold State.logDevice
  try dsimp only
  repeat' first
    | with_reducible assumption | exact Part.sub_of hL (by decide) | exact .inr (Part.in_of hL (by decide)) | with_reducible exact .inl rfl
    | with_reducible apply State.countError_within | with_reducible apply State.within_ite | with_reducible apply State.within_upd

theorem State.logDial_within {s0 : State} {L : List Part} {s : State} {code : Nat} {entry : Nat} {type : Nat} {policy : Nat} {n : Named}
    {dropped : Nat} (hw : s0.within L s) (hL : [.logs] ⊆ L) :
    s0.within L (State.logDial s code entry type policy n dropped) := by
  unfold State.logDial
  try dsimp only
  repeat' first
    | with_reducible assumption | exact Part.sub_of hL (by decide) | exact .inr (Part.in_of hL (by decide)) | with_reducible exact .inl rfl
    | with_reducible apply State.countError_within | with_reducible apply State.within_ite | with_reducible apply State.within_upd

theorem State.lapse_within {s0 : State} {L : List Part} {s : State} (hw : s0.within L s) (hL : [.dial, .logs] ⊆ L) :
    s0.within L (State.lapse s) := by
  unfold State.lapse
  try dsimp only
  repeat' first
    | with_reducible assumption | exact Part.sub_of hL (by decide) | exact .inr (Part.in_of hL (by decide)) | with_reducible exact .inl rfl
    | with_reducible apply State.logDial_within | with_reducible apply State.within_ite | with_reducible apply State.within_upd

theorem State.haltAtBoundary_within {s0 : State} {L : List Part} {s : State} {cause : Nat} (hw : s0.within L s) (hL : [.dial] ⊆ L) :
    s0.within L (State.haltAtBoundary s cause) := by
  unfold State.haltAtBoundary
  try dsimp only
  repeat' first
    | with_reducible assumption | exact Part.sub_of hL (by decide) | exact .inr (Part.in_of hL (by decide)) | with_reducible exact .inl rfl
    | with_reducible apply State.within_ite | with_reducible apply State.within_upd

theorem State.onPort_within {s0 : State} {L : List Part} {s : State} {p : Nat} {f : PortState → PortState} (hw : s0.within L s) (hL :
    [.links] ⊆ L) :
    s0.within L (State.onPort s p f) := by
  unfold State.onPort
  try dsimp only
  repeat' first
    | with_reducible assumption | exact Part.sub_of hL (by decide) | exact .inr (Part.in_of hL (by decide)) | with_reducible exact .inl rfl
    | with_reducible apply State.within_upd

theorem State.sendPacket_within {s0 : State} {L : List Part} {s : State} {p : Nat} {k : Packet} (hw : s0.within L s) (hL : [.links] ⊆ L) :
    s0.within L (State.sendPacket s p k) := by
  unfold State.sendPacket
  try dsimp only
  repeat' first
    | with_reducible assumption | exact Part.sub_of hL (by decide) | exact .inr (Part.in_of hL (by decide)) | with_reducible exact .inl rfl
    | with_reducible apply State.onPort_within | with_reducible apply State.within_upd

theorem State.sendControl_within {s0 : State} {L : List Part} {s : State} {p : Nat} {f : Flit} (hw : s0.within L s) (hL : [.links] ⊆ L) :
    s0.within L (State.sendControl s p f) := by
  unfold State.sendControl
  try dsimp only
  repeat' first
    | with_reducible assumption | exact Part.sub_of hL (by decide) | exact .inr (Part.in_of hL (by decide)) | with_reducible exact .inl rfl
    | with_reducible apply State.onPort_within | with_reducible apply State.within_upd

theorem State.dropTag_within {s0 : State} {L : List Part} {s : State} {tag : BitVec 8} (hw : s0.within L s) (hL : [.links] ⊆ L) :
    s0.within L (State.dropTag s tag) := by
  unfold State.dropTag
  try dsimp only
  repeat' first
    | with_reducible assumption | exact Part.sub_of hL (by decide) | exact .inr (Part.in_of hL (by decide)) | with_reducible exact .inl rfl
    | with_reducible apply State.within_upd

theorem State.sendCompletion_within {s0 : State} {L : List Part} {s : State} {tag : BitVec 8} {code : Nat} {poison : Nat} {data : List
    Flit} (hw : s0.within L s) (hL : [.links] ⊆ L) :
    s0.within L (State.sendCompletion s tag code poison data) := by
  unfold State.sendCompletion
  try dsimp only
  repeat' first
    | with_reducible assumption | exact Part.sub_of hL (by decide) | with_reducible apply State.sendPacket_within
    | with_reducible apply State.within_ite

theorem State.complete_within {s0 : State} {L : List Part} {s : State} {h : HkHeader} {code : Nat} (hw : s0.within L s) (hL : [.logs,
    .links] ⊆ L) :
    s0.within L (State.complete s h code) := by
  unfold State.complete
  try dsimp only
  repeat' first
    | with_reducible assumption | exact Part.sub_of hL (by decide) | with_reducible apply State.countError_within
    | with_reducible apply State.sendCompletion_within

theorem State.fence_within {s0 : State} {L : List Part} {s : State} {u : Nat} (hw : s0.within L s) (hL : [.blocks, .resil] ⊆ L) :
    s0.within L (State.fence s u) := by
  unfold State.fence
  try dsimp only
  repeat' first
    | with_reducible assumption | exact Part.sub_of hL (by decide) | exact .inr (Part.in_of hL (by decide)) | with_reducible exact .inl rfl
    | split | with_reducible apply State.within_upd

theorem State.noSpare_within {s0 : State} {L : List Part} {s : State} {kind : Nat} {unit : Nat} {detail : Nat} {code : Nat} {recorded :
    Bool} (hw : s0.within L s) (hL : [.logs, .resil] ⊆ L) :
    s0.within L (State.noSpare s kind unit detail code recorded) := by
  unfold State.noSpare
  try dsimp only
  repeat' first
    | with_reducible assumption | exact Part.sub_of hL (by decide) | exact .inr (Part.in_of hL (by decide)) | with_reducible exact .inl rfl
    | with_reducible apply State.logDevice_within | with_reducible apply State.within_ite | with_reducible apply State.within_upd

theorem State.markSwap_within {s0 : State} {L : List Part} {s : State} {kind : Nat} {unit : Nat} {detail : Nat} {code : Nat} (hw :
    s0.within L s) (hL : [.logs, .blocks, .resil] ⊆ L) :
    s0.within L (State.markSwap s kind unit detail code) := by
  unfold State.markSwap
  try dsimp only
  repeat' first
    | with_reducible assumption | exact Part.sub_of hL (by decide) | exact .inr (Part.in_of hL (by decide)) | with_reducible exact .inl rfl
    | with_reducible apply State.fence_within | with_reducible apply State.noSpare_within | with_reducible apply State.within_ite
    | with_reducible apply State.within_upd

theorem State.wornOut_within {s0 : State} {L : List Part} {s : State} {kind : Nat} {unit : Nat} {detail : Nat} {who : Named} (hw :
    s0.within L s) (hL : [.logs, .blocks, .resil] ⊆ L) :
    s0.within L (State.wornOut s kind unit detail who) := by
  unfold State.wornOut
  try dsimp only
  repeat' first
    | with_reducible assumption | exact Part.sub_of hL (by decide) | with_reducible apply State.logDevice_within
    | with_reducible apply State.markSwap_within | with_reducible apply State.within_ite

theorem State.onRegion_within {s0 : State} {L : List Part} {s : State} {r : Nat} {f : RegionSched → RegionSched} (hw : s0.within L s) (hL
    : [.sched] ⊆ L) :
    s0.within L (State.onRegion s r f) := by
  unfold State.onRegion
  try dsimp only
  repeat' first
    | with_reducible assumption | exact Part.sub_of hL (by decide) | exact .inr (Part.in_of hL (by decide)) | with_reducible exact .inl rfl
    | with_reducible apply State.within_upd

theorem State.setCtx_within {s0 : State} {L : List Part} {s : State} {c : CtxId} {t : TaskContext} (hw : s0.within L s) (hL : [.sched] ⊆
    L) :
    s0.within L (State.setCtx s c t) := by
  unfold State.setCtx
  try dsimp only
  repeat' first
    | with_reducible assumption | exact Part.sub_of hL (by decide) | exact .inr (Part.in_of hL (by decide)) | with_reducible exact .inl rfl
    | with_reducible apply State.onRegion_within | with_reducible apply State.within_upd

theorem State.freeCtx_within {s0 : State} {L : List Part} {s : State} {c : CtxId} (hw : s0.within L s) (hL : [.sched, .gather] ⊆ L) :
    s0.within L (State.freeCtx s c) := by
  unfold State.freeCtx
  try dsimp only
  repeat' first
    | with_reducible assumption | exact Part.sub_of hL (by decide) | exact .inr (Part.in_of hL (by decide)) | with_reducible exact .inl rfl
    | with_reducible apply State.onRegion_within | with_reducible apply State.within_upd

theorem State.onMb_within {s0 : State} {L : List Part} {s : State} {mb : Nat} {step : Nat} {f : MicroBatch → MicroBatch} (hw : s0.within L
    s) (hL : [.mbs] ⊆ L) :
    s0.within L (State.onMb s mb step f) := by
  unfold State.onMb
  try dsimp only
  repeat' first
    | with_reducible assumption | exact Part.sub_of hL (by decide) | exact .inr (Part.in_of hL (by decide)) | with_reducible exact .inl rfl
    | with_reducible apply State.within_ite | with_reducible apply State.within_upd

theorem State.freeDropped_within {s0 : State} {L : List Part} {s : State} {mb : Nat} {step : Nat} (hw : s0.within L s) (hL : [.mbs] ⊆ L) :
    s0.within L (State.freeDropped s mb step) := by
  unfold State.freeDropped
  try dsimp only
  repeat' first
    | with_reducible assumption | exact Part.sub_of hL (by decide) | exact .inr (Part.in_of hL (by decide)) | with_reducible exact .inl rfl
    | with_reducible apply State.onMb_within | with_reducible apply State.within_ite | with_reducible apply State.within_upd

theorem State.dropMb_within {s0 : State} {L : List Part} {s : State} {mb : Nat} {step : Nat} (hw : s0.within L s) (hL : [.dial, .logs,
    .mbs, .sched, .gather, .train, .blocks] ⊆ L) :
    s0.within L (State.dropMb s mb step) := by
  unfold State.dropMb
  try dsimp only
  repeat' first
    | with_reducible assumption | exact Part.sub_of hL (by decide) | exact .inr (Part.in_of hL (by decide)) | with_reducible exact .inl rfl
    | with_reducible apply State.freeDropped_within | with_reducible apply State.lapse_within | with_reducible apply State.onMb_within
    | with_reducible apply State.within_ite | split | with_reducible apply State.within_upd

theorem State.endDropped_within {s0 : State} {L : List Part} {s : State} {c : CtxId} (hw : s0.within L s) (hL : [.mbs, .sched, .gather] ⊆
    L) :
    s0.within L (State.endDropped s c) := by
  unfold State.endDropped
  try dsimp only
  repeat' first
    | with_reducible assumption | exact Part.sub_of hL (by decide) | with_reducible apply State.freeCtx_within
    | with_reducible apply State.freeDropped_within | split

theorem State.dropFor_within {s0 : State} {L : List Part} {s : State} {c : CtxId} {code : Nat} {detail : Nat} (hw : s0.within L s) (hL :
    [.dial, .logs, .mbs, .sched, .gather, .train, .blocks] ⊆ L) :
    s0.within L (State.dropFor s c code detail) := by
  unfold State.dropFor
  try dsimp only
  repeat' first
    | with_reducible assumption | exact Part.sub_of hL (by decide) | with_reducible apply State.dropMb_within
    | with_reducible apply State.endDropped_within | with_reducible apply State.logDevice_within | split

theorem State.countDefaultWrites_within {s0 : State} {L : List Part} {s : State} {tier : Nat} {off : Nat} {n : Nat} (hw : s0.within L s)
    (hL : [.tables] ⊆ L) :
    s0.within L (State.countDefaultWrites s tier off n) := by
  unfold State.countDefaultWrites
  try dsimp only
  repeat' first
    | with_reducible assumption | exact Part.sub_of hL (by decide) | exact .inr (Part.in_of hL (by decide)) | with_reducible exact .inl rfl
    | with_reducible apply State.within_ite | with_reducible apply State.within_upd

theorem State.portDown_within {s0 : State} {L : List Part} {s : State} {p : Nat} {code : Nat} (hw : s0.within L s) (hL : [.logs, .links] ⊆
    L) :
    s0.within L (State.portDown s p code) := by
  unfold State.portDown
  try dsimp only
  repeat' first
    | with_reducible assumption | exact Part.sub_of hL (by decide) | exact .inr (Part.in_of hL (by decide)) | with_reducible exact .inl rfl
    | with_reducible apply State.logDevice_within | with_reducible apply State.onPort_within | with_reducible apply State.within_upd

theorem State.fastRetrain_within {s0 : State} {L : List Part} {s : State} {p : Nat} (hw : s0.within L s) (hL : [.logs, .links] ⊆ L) :
    s0.within L (State.fastRetrain s p) := by
  unfold State.fastRetrain
  try dsimp only
  repeat' first
    | with_reducible assumption | exact Part.sub_of hL (by decide) | exact .inr (Part.in_of hL (by decide)) | with_reducible exact .inl rfl
    | with_reducible apply State.onPort_within | with_reducible apply State.portDown_within | with_reducible apply State.within_ite
    | with_reducible apply State.within_upd

theorem State.linkProtocol_within {s0 : State} {L : List Part} {s : State} {p : Nat} (hw : s0.within L s) (hL : [.logs, .links] ⊆ L) :
    s0.within L (State.linkProtocol s p) := by
  unfold State.linkProtocol
  try dsimp only
  repeat' first
    | with_reducible assumption | exact Part.sub_of hL (by decide) | with_reducible apply State.fastRetrain_within
    | with_reducible apply State.logDevice_within

theorem State.useSpare_within {s0 : State} {L : List Part} {s : State} {p : Nat} {lane : Nat} (hw : s0.within L s) (hL : [.draws, .links]
    ⊆ L) :
    s0.within L (State.useSpare s p lane) := by
  unfold State.useSpare
  try dsimp only
  repeat' first
    | with_reducible assumption | exact Part.sub_of hL (by decide) | exact .inr (Part.in_of hL (by decide)) | with_reducible exact .inl rfl
    | with_reducible apply State.draw_within | with_reducible apply State.onPort_within | with_reducible apply State.sendControl_within
    | with_reducible apply State.within_upd

theorem State.route_within {s0 : State} {L : List Part} {s : State} {p : Nat} {k : Packet} (hw : s0.within L s) (hL : [.logs, .links] ⊆ L) :
    s0.within L (State.route s p k) := by
  unfold State.route
  try dsimp only
  repeat' first
    | with_reducible assumption | exact Part.sub_of hL (by decide) | exact .inr (Part.in_of hL (by decide)) | with_reducible exact .inl rfl
    | with_reducible apply State.logDevice_within | with_reducible apply State.onPort_within | with_reducible apply State.sendPacket_within
    | with_reducible apply State.within_ite | with_reducible apply State.within_upd

theorem State.sendTo_within {s0 : State} {L : List Part} {s : State} {dest : Coord} {type : Nat} {vc : Nat} {lgen : Nat} {entries : Nat}
    {rest : Nat} {data : List Flit} (hw : s0.within L s) (hL : [.logs, .links] ⊆ L) :
    s0.within L (State.sendTo s dest type vc lgen entries rest data) := by
  unfold State.sendTo
  try dsimp only
  repeat' first
    | with_reducible assumption | exact Part.sub_of hL (by decide) | with_reducible apply State.route_within | split

theorem State.onCursor_within {s0 : State} {L : List Part} {s : State} {i : Nat} {f : Cursor → Cursor} (hw : s0.within L s) (hL :
    [.cursors] ⊆ L) :
    s0.within L (State.onCursor s i f) := by
  unfold State.onCursor
  try dsimp only
  repeat' first
    | with_reducible assumption | exact Part.sub_of hL (by decide) | exact .inr (Part.in_of hL (by decide)) | with_reducible exact .inl rfl
    | with_reducible apply State.within_upd

theorem State.checkCursor_within {s0 : State} {L : List Part} {s : State} {eval : Bool} {c : Nat} (hw : s0.within L s) (hL : [.cursors] ⊆
    L) :
    s0.within L (State.checkCursor s eval c) := by
  unfold State.checkCursor
  try dsimp only
  repeat' first
    | with_reducible assumption | exact Part.sub_of hL (by decide) | exact .inr (Part.in_of hL (by decide)) | with_reducible exact .inl rfl
    | with_reducible apply State.onCursor_within | with_reducible apply State.within_ite | with_reducible apply State.within_upd

theorem State.markDirty_within {s0 : State} {L : List Part} {s : State} {table : Nat} {node : Nat} (hw : s0.within L s) (hL : [.resil] ⊆
    L) :
    s0.within L (State.markDirty s table node) := by
  unfold State.markDirty
  try dsimp only
  repeat' first
    | with_reducible assumption | exact Part.sub_of hL (by decide) | exact .inr (Part.in_of hL (by decide)) | with_reducible exact .inl rfl
    | with_reducible apply State.onResil_within | with_reducible apply State.within_upd

theorem State.markAllDirty_within {s0 : State} {L : List Part} {s : State} (hw : s0.within L s) (hL : [.resil] ⊆ L) :
    s0.within L (State.markAllDirty s) := by
  unfold State.markAllDirty
  try dsimp only
  repeat' first
    | with_reducible assumption | exact Part.sub_of hL (by decide) | exact .inr (Part.in_of hL (by decide)) | with_reducible exact .inl rfl
    | with_reducible apply State.onResil_within | with_reducible apply State.within_upd

theorem State.dropCoolers_within {s0 : State} {L : List Part} {s : State} {f : CoolerSlot → Bool} (hw : s0.within L s) (hL : [.tables] ⊆
    L) :
    s0.within L (State.dropCoolers s f) := by
  unfold State.dropCoolers
  try dsimp only
  repeat' first
    | with_reducible assumption | exact Part.sub_of hL (by decide) | exact .inr (Part.in_of hL (by decide)) | with_reducible exact .inl rfl
    | with_reducible apply State.onTables_within | with_reducible apply State.within_upd

theorem State.applyVersion_within {s0 : State} {L : List Part} {s : State} {h : HandOver} (hw : s0.within L s) (hL : [.train] ⊆ L) :
    s0.within L (State.applyVersion s h) := by
  unfold State.applyVersion
  try dsimp only
  repeat' first
    | with_reducible assumption | exact Part.sub_of hL (by decide) | exact .inr (Part.in_of hL (by decide)) | with_reducible exact .inl rfl
    | with_reducible apply State.onTrain_within | with_reducible apply State.within_ite | with_reducible apply State.within_upd

theorem State.applySwitches_within {s0 : State} {L : List Part} {s : State} (hw : s0.within L s) (hL : [.tables] ⊆ L) :
    s0.within L (State.applySwitches s) := by
  unfold State.applySwitches
  try dsimp only
  repeat' first
    | with_reducible assumption | exact Part.sub_of hL (by decide) | exact .inr (Part.in_of hL (by decide)) | with_reducible exact .inl rfl
    | with_reducible apply State.dropCoolers_within | with_reducible apply State.onTables_within | with_reducible apply State.within_ite
    | with_reducible apply State.within_upd

theorem State.applyLayout_within {s0 : State} {L : List Part} {s : State} {h : HandOver} (hw : s0.within L s) (hL : [.tables, .resil] ⊆ L) :
    s0.within L (State.applyLayout s h) := by
  unfold State.applyLayout
  try dsimp only
  repeat' first
    | with_reducible assumption | exact Part.sub_of hL (by decide) | exact .inr (Part.in_of hL (by decide)) | with_reducible exact .inl rfl
    | with_reducible apply State.dropCoolers_within | with_reducible apply State.markAllDirty_within
    | with_reducible apply State.onTables_within | with_reducible apply State.within_ite | split | with_reducible apply State.within_upd

theorem State.applyCount_within {s0 : State} {L : List Part} {s : State} {h : HandOver} (hw : s0.within L s) (hL : [.run, .cursors,
    .cascade] ⊆ L) :
    s0.within L (State.applyCount s h) := by
  unfold State.applyCount
  try dsimp only
  repeat' first
    | with_reducible assumption | exact Part.sub_of hL (by decide) | exact .inr (Part.in_of hL (by decide)) | with_reducible exact .inl rfl
    | with_reducible apply State.checkCursor_within | with_reducible apply State.onCascade_within | with_reducible apply State.onRun_within
    | with_reducible apply State.within_ite | with_reducible apply State.within_upd

theorem State.applyHandOver_within {s0 : State} {L : List Part} {s : State} {h : HandOver} (hw : s0.within L s) (hL : [.tables, .train,
    .resil] ⊆ L) :
    s0.within L (State.applyHandOver s h) := by
  unfold State.applyHandOver
  try dsimp only
  repeat' first
    | with_reducible assumption | exact Part.sub_of hL (by decide) | with_reducible apply State.applyLayout_within
    | with_reducible apply State.applySwitches_within | with_reducible apply State.applyVersion_within

theorem State.placeStore_within {s0 : State} {L : List Part} {s : State} {p : Place} {bs : List Byte} {poisoned : Bool} (hw : s0.within L
    s) (hL : [.logs, .memory, .links, .bytes] ⊆ L) :
    s0.within L (State.placeStore s p bs poisoned) := by
  unfold State.placeStore
  try dsimp only
  repeat' first
    | with_reducible assumption | exact Part.sub_of hL (by decide) | with_reducible apply State.sendTo_within
    | with_reducible apply State.store_within | split

theorem State.storeBeats_within {s0 : State} {L : List Part} {s : State} {p : Place} {bs : List Byte} {mark : Nat → Bool} (hw : s0.within
    L s) (hL : [.logs, .memory, .links, .bytes] ⊆ L) :
    s0.within L (State.storeBeats s p bs mark) := by
  unfold State.storeBeats
  try dsimp only
  repeat' first
    | with_reducible assumption | exact Part.sub_of hL (by decide) | intro _ | with_reducible apply State.placeStore_within
    | with_reducible apply State.within_fold

theorem State.writeRow_within {s0 : State} {L : List Part} {s : State} {m : Option MicroBatch} {v : Nat} {i : Nat} {x : Operand} {r : Nat}
    {vs : List Val} {poisoned : Bool} (hw : s0.within L s) (hL : [.logs, .memory, .links, .bytes] ⊆ L) :
    s0.within L (State.writeRow s m v i x r vs poisoned) := by
  unfold State.writeRow
  try dsimp only
  repeat' first
    | with_reducible assumption | exact Part.sub_of hL (by decide) | with_reducible apply State.placeStore_within

theorem State.takeCompanion_within {s0 : State} {L : List Part} {s : State} {mb : Nat} {step : Nat} {i : Nat} (hw : s0.within L s) (hL :
    [.mbs] ⊆ L) :
    s0.within L (State.takeCompanion s mb step i) := by
  unfold State.takeCompanion
  try dsimp only
  repeat' first
    | with_reducible assumption | exact Part.sub_of hL (by decide) | exact .inr (Part.in_of hL (by decide)) | with_reducible exact .inl rfl
    | with_reducible apply State.onMb_within | with_reducible apply State.within_ite | split | with_reducible apply State.within_upd

theorem State.takeStaging_within {s0 : State} {L : List Part} {s : State} {mb : Nat} {step : Nat} {j : Nat} {o : Op} (hw : s0.within L s)
    (hL : [.mbs] ⊆ L) :
    s0.within L (State.takeStaging s mb step j o) := by
  unfold State.takeStaging
  try dsimp only
  repeat' first
    | with_reducible assumption | exact Part.sub_of hL (by decide) | exact .inr (Part.in_of hL (by decide)) | with_reducible exact .inl rfl
    | with_reducible apply State.onMb_within | with_reducible apply State.within_ite | split | with_reducible apply State.within_upd

theorem State.addCompanion_within {s0 : State} {L : List Part} {s : State} {mb : Nat} {step : Nat} {i : Nat} {r : Nat} {vs : List (BitVec
    32)} {mark : Nat → Bool} (hw : s0.within L s) (hL : [.logs, .mbs, .memory, .links, .bytes] ⊆ L) :
    s0.within L (State.addCompanion s mb step i r vs mark) := by
  unfold State.addCompanion
  try dsimp only
  repeat' first
    | with_reducible assumption | exact Part.sub_of hL (by decide) | exact .inr (Part.in_of hL (by decide)) | with_reducible exact .inl rfl
    | with_reducible apply State.onMb_within | with_reducible apply State.storeBeats_within
    | with_reducible apply State.takeCompanion_within | with_reducible apply State.within_ite | split
    | with_reducible apply State.within_upd

theorem State.setCompanion_within {s0 : State} {L : List Part} {s : State} {mb : Nat} {step : Nat} {i : Nat} {r : Nat} {vs : List (BitVec
    32)} {poisoned : Bool} (hw : s0.within L s) (hL : [.logs, .mbs, .memory, .links, .bytes] ⊆ L) :
    s0.within L (State.setCompanion s mb step i r vs poisoned) := by
  unfold State.setCompanion
  try dsimp only
  repeat' first
    | with_reducible assumption | exact Part.sub_of hL (by decide) | exact .inr (Part.in_of hL (by decide)) | with_reducible exact .inl rfl
    | with_reducible apply State.onMb_within | with_reducible apply State.placeStore_within | with_reducible apply State.within_ite | split
    | with_reducible apply State.within_upd

end Sys2Proof.Machine
end

