-- ==== Sys2Proof/Laws/FrameSched.lean ====
section
/-! SUPPORT. Frames of the functions of one area: scheduler, controllers, kept values, ring, tables, SPOUT pool. Each names the parts it can change; memory keeps its form. -/

namespace Sys2Proof.Machine

set_option Elab.async false
set_option linter.all false

theorem State.newCtx_within {s0 : State} {L : List Part} {s : State} {region : Nat} {j : Nat} {o : Op} {part : Bool} {mb : Nat} {step :
    Nat} (hw : s0.within L s) (hL : [.sched] ⊆ L) :
    s0.within L (State.newCtx s region j o part mb step) := by
  unfold State.newCtx
  try dsimp only
  repeat' first
    | with_reducible assumption | exact Part.sub_of hL (by decide) | exact .inr (Part.in_of hL (by decide)) | with_reducible exact .inl rfl
    | intro _ | with_reducible apply State.onRegion_within | with_reducible apply State.within_ite | with_reducible apply State.within_elim
    | split | with_reducible apply State.within_upd

theorem State.createStepInstances_within {s0 : State} {L : List Part} {s : State} {which : Op → Bool} (hw : s0.within L s) (hL : [.sched]
    ⊆ L) :
    s0.within L (State.createStepInstances s which) := by
  unfold State.createStepInstances
  try dsimp only
  repeat' first
    | with_reducible assumption | exact Part.sub_of hL (by decide) | intro _ | with_reducible apply State.newCtx_within
    | with_reducible apply State.within_fold | with_reducible apply State.within_ite

theorem State.openReady_within {s0 : State} {L : List Part} {s : State} (hw : s0.within L s) (hL : [.mbs, .sched] ⊆ L) :
    s0.within L (State.openReady s) := by
  unfold State.openReady
  try dsimp only
  repeat' first
    | with_reducible assumption | exact Part.sub_of hL (by decide) | exact .inr (Part.in_of hL (by decide)) | with_reducible exact .inl rfl
    | intro _ | with_reducible apply State.newCtx_within | with_reducible apply State.onMb_within
    | with_reducible apply State.onRegion_within | with_reducible apply State.within_fold | with_reducible apply State.within_ite
    | with_reducible apply State.within_upd

theorem State.noteCompletions_within {s0 : State} {L : List Part} {s : State} (hw : s0.within L s) (hL : [.dial] ⊆ L) :
    s0.within L (State.noteCompletions s) := by
  unfold State.noteCompletions
  try dsimp only
  repeat' first
    | with_reducible assumption | exact Part.sub_of hL (by decide) | exact .inr (Part.in_of hL (by decide)) | with_reducible exact .inl rfl
    | with_reducible apply State.onDial_within | with_reducible apply State.within_ite | split | with_reducible apply State.within_upd

theorem State.endEvaluationOf_within {s0 : State} {L : List Part} {s : State} {entry : Nat} (hw : s0.within L s) (hL : [.mbs, .sched,
    .train] ⊆ L) :
    s0.within L (State.endEvaluationOf s entry) := by
  unfold State.endEvaluationOf
  try dsimp only
  repeat' first
    | with_reducible assumption | exact Part.sub_of hL (by decide) | exact .inr (Part.in_of hL (by decide)) | with_reducible exact .inl rfl
    | intro _ | with_reducible apply State.onTrain_within | with_reducible apply State.within_fold | with_reducible apply State.within_ite
    | with_reducible apply State.within_elim | with_reducible apply State.within_upd

theorem State.endEvaluation_within {s0 : State} {L : List Part} {s : State} (hw : s0.within L s) (hL : [.mbs, .sched, .train] ⊆ L) :
    s0.within L (State.endEvaluation s) := by
  unfold State.endEvaluation
  try dsimp only
  repeat' first
    | with_reducible assumption | exact Part.sub_of hL (by decide) | intro _ | with_reducible apply State.endEvaluationOf_within
    | with_reducible apply State.within_fold

theorem State.settle_within {s0 : State} {L : List Part} {s : State} (hw : s0.within L s) (hL : [.dial, .mbs, .sched, .train] ⊆ L) :
    s0.within L (State.settle s) := by
  unfold State.settle
  try dsimp only
  repeat' first
    | with_reducible assumption | exact Part.sub_of hL (by decide) | exact .inr (Part.in_of hL (by decide)) | with_reducible exact .inl rfl
    | with_reducible apply State.endEvaluation_within | with_reducible apply State.noteCompletions_within
    | with_reducible apply State.openReady_within | with_reducible apply State.within_upd

theorem State.startMb_within {s0 : State} {L : List Part} {s : State} {mb : Nat} {step : Nat} (hw : s0.within L s) (hL : [.mbs] ⊆ L) :
    s0.within L (State.startMb s mb step) := by
  unfold State.startMb
  try dsimp only
  repeat' first
    | with_reducible assumption | exact Part.sub_of hL (by decide) | exact .inr (Part.in_of hL (by decide)) | with_reducible exact .inl rfl
    | with_reducible apply State.onMb_within | with_reducible apply State.within_ite | with_reducible apply State.within_upd

theorem State.takeCopies_within {s0 : State} {L : List Part} {s : State} {mb : Nat} {step : Nat} {o : Op} (hw : s0.within L s) (hL :
    [.mbs] ⊆ L) :
    s0.within L (State.takeCopies s mb step o) := by
  unfold State.takeCopies
  try dsimp only
  repeat' first
    | with_reducible assumption | exact Part.sub_of hL (by decide) | exact .inr (Part.in_of hL (by decide)) | with_reducible exact .inl rfl
    | intro _ | with_reducible apply State.onMb_within | with_reducible apply State.within_fold | split
    | with_reducible apply State.within_upd

theorem State.runFills_within {s0 : State} {L : List Part} {s : State} (hw : s0.within L s) (hL : [.memory] ⊆ L) :
    s0.within L (State.runFills s) := by
  unfold State.runFills
  try dsimp only
  repeat' first
    | with_reducible assumption | exact Part.sub_of hL (by decide) | exact .inr (Part.in_of hL (by decide)) | with_reducible exact .inl rfl
    | intro _ | with_reducible rfl | exact Memory.setPoison_wf _ _ | with_reducible apply State.onMemory_within
    | with_reducible apply State.within_elim | split | with_reducible apply State.within_upd

theorem State.dispatch_within {s0 : State} {L : List Part} {s : State} {r : Nat} {unit : Nat} (hw : s0.within L s) (hL : [.dial, .mbs,
    .sched, .memory, .tables, .cursors, .train] ⊆ L) :
    s0.within L (State.dispatch s r unit) := by
  unfold State.dispatch
  try dsimp only
  repeat' first
    | with_reducible assumption | exact Part.sub_of hL (by decide) | exact .inr (Part.in_of hL (by decide)) | with_reducible exact .inl rfl
    | with_reducible rfl | exact Memory.setPoison_wf _ _ | with_reducible apply State.onCursor_within
    | with_reducible apply State.onMb_within | with_reducible apply State.onMemory_within | with_reducible apply State.onRegion_within
    | with_reducible apply State.onTables_within | with_reducible apply State.runFills_within | with_reducible apply State.setCtx_within
    | with_reducible apply State.settle_within | with_reducible apply State.startMb_within | with_reducible apply State.takeCopies_within
    | with_reducible apply State.within_ite | split | with_reducible apply State.within_upd

theorem State.release_within {s0 : State} {L : List Part} {s : State} {mb : Nat} {step : Nat} (hw : s0.within L s) (hL : [.mbs, .train] ⊆
    L) :
    s0.within L (State.release s mb step) := by
  unfold State.release
  try dsimp only
  repeat' first
    | with_reducible assumption | exact Part.sub_of hL (by decide) | exact .inr (Part.in_of hL (by decide)) | with_reducible exact .inl rfl
    | with_reducible apply State.onMb_within | with_reducible apply State.onTrain_within | with_reducible apply State.within_upd

theorem State.completeCtx_within {s0 : State} {L : List Part} {s : State} {c : CtxId} {t : TaskContext} (hw : s0.within L s) (hL : [.dial,
    .mbs, .sched, .gather, .train] ⊆ L) :
    s0.within L (State.completeCtx s c t) := by
  unfold State.completeCtx
  try dsimp only
  repeat' first
    | with_reducible assumption | exact Part.sub_of hL (by decide) | exact .inr (Part.in_of hL (by decide)) | with_reducible exact .inl rfl
    | with_reducible apply State.freeCtx_within | with_reducible apply State.onMb_within | with_reducible apply State.onRegion_within
    | with_reducible apply State.release_within | with_reducible apply State.settle_within | with_reducible apply State.within_ite
    | with_reducible apply State.within_upd

theorem State.runItem_within {s0 : State} {L : List Part} {s : State} {c : CtxId} {part : Bool} {f : TaskContext → Op → State → State} (hw
    : s0.within L s) (hf : ∀ (x0 : TaskContext) (x1 : Op) (x2 : State), s0.within L x2 → s0.within L (f x0 x1 x2)) (hL : [.dial, .mbs,
    .sched, .gather, .train] ⊆ L) :
    s0.within L (State.runItem s c part f) := by
  unfold State.runItem
  try dsimp only
  repeat' first
    | with_reducible assumption | exact Part.sub_of hL (by decide) | intro _ | with_reducible apply hf
    | with_reducible apply State.endDropped_within | with_reducible apply State.settle_within | with_reducible apply State.within_ite
    | split

theorem State.finish_within {s0 : State} {L : List Part} {s : State} {c : CtxId} (hw : s0.within L s) (hL : [.sched] ⊆ L) :
    s0.within L (State.finish s c) := by
  unfold State.finish
  try dsimp only
  repeat' first
    | with_reducible assumption | exact Part.sub_of hL (by decide) | exact .inr (Part.in_of hL (by decide)) | with_reducible exact .inl rfl
    | with_reducible apply State.setCtx_within | split | with_reducible apply State.within_upd

theorem State.onController_within {s0 : State} {L : List Part} {s : State} {c : Nat} {f : ControllerState → ControllerState} (hw :
    s0.within L s) (hL : [.memory] ⊆ L) :
    s0.within L (State.onController s c f) := by
  unfold State.onController
  try dsimp only
  repeat' first
    | with_reducible assumption | exact Part.sub_of hL (by decide) | exact .inr (Part.in_of hL (by decide)) | with_reducible exact .inl rfl
    | with_reducible rfl | exact Memory.setPoison_wf _ _ | with_reducible apply State.onMemory_within
    | with_reducible apply State.within_upd

theorem State.onPart_within {s0 : State} {L : List Part} {s : State} {p : Nat} {f : PartState → PartState} (hw : s0.within L s) (hL :
    [.memory] ⊆ L) :
    s0.within L (State.onPart s p f) := by
  unfold State.onPart
  try dsimp only
  repeat' first
    | with_reducible assumption | exact Part.sub_of hL (by decide) | exact .inr (Part.in_of hL (by decide)) | with_reducible exact .inl rfl
    | with_reducible rfl | exact Memory.setPoison_wf _ _ | with_reducible apply State.onMemory_within
    | with_reducible apply State.within_upd

theorem State.stepFault_within {s0 : State} {L : List Part} {s : State} {tier : Nat} {off : Nat} {who : Named} (hw : s0.within L s) (hL :
    [.dial, .logs, .memory] ⊆ L) :
    s0.within L (State.stepFault s tier off who) := by
  unfold State.stepFault
  try dsimp only
  repeat' first
    | with_reducible assumption | exact Part.sub_of hL (by decide) | exact .inr (Part.in_of hL (by decide)) | with_reducible exact .inl rfl
    | with_reducible rfl | exact Memory.setPoison_wf _ _ | with_reducible apply State.haltAtBoundary_within
    | with_reducible apply State.logDevice_within | with_reducible apply State.onMemory_within | with_reducible apply State.within_upd

theorem State.readStored_within {s0 : State} {L : List Part} {s : State} {tier : Nat} {off : Nat} {who : Named} (hw : s0.within L s) (hL :
    [.dial, .logs, .memory] ⊆ L) :
    s0.within L (State.readStored s tier off who) := by
  unfold State.readStored
  try dsimp only
  repeat' first
    | with_reducible assumption | exact Part.sub_of hL (by decide) | exact .inr (Part.in_of hL (by decide)) | with_reducible exact .inl rfl
    | intro _ | with_reducible apply State.logDevice_within | with_reducible apply State.onPart_within
    | with_reducible apply State.stepFault_within | with_reducible apply State.within_ite | with_reducible apply State.within_elim
    | with_reducible apply State.within_upd

theorem State.noteReads_within {s0 : State} {L : List Part} {s : State} {k : Nat} {n : Nat} {who : Named} (hw : s0.within L s) (hL :
    [.dial, .logs, .memory] ⊆ L) :
    s0.within L (State.noteReads s k n who) := by
  unfold State.noteReads
  try dsimp only
  repeat' first
    | with_reducible assumption | exact Part.sub_of hL (by decide) | intro _ | with_reducible apply State.readStored_within
    | with_reducible apply State.within_fold

theorem State.readBad_within {s0 : State} {L : List Part} {s : State} {tier : Nat} {off : Nat} {who : Named} (hw : s0.within L s) (hL :
    [.dial, .logs, .memory, .bytes] ⊆ L) :
    s0.within L (State.readBad s tier off who) := by
  unfold State.readBad
  try dsimp only
  repeat' first
    | with_reducible assumption | exact Part.sub_of hL (by decide) | exact .inr (Part.in_of hL (by decide)) | with_reducible exact .inl rfl
    | intro _ | with_reducible rfl | exact Memory.setPoison_wf _ _ ‹_› | with_reducible apply State.logDevice_within
    | with_reducible apply State.onPart_within | with_reducible apply State.stepFault_within | with_reducible apply State.withMem_within
    | with_reducible apply State.within_ite | with_reducible apply State.within_elim | with_reducible apply State.within_upd

theorem State.repairRows_within {s0 : State} {L : List Part} {s : State} {ctl : Nat} {part : Nat} (hw : s0.within L s) (hL : [.logs,
    .blocks, .resil] ⊆ L) :
    s0.within L (State.repairRows s ctl part) := by
  unfold State.repairRows
  try dsimp only
  repeat' first
    | with_reducible assumption | exact Part.sub_of hL (by decide) | intro _ | with_reducible apply State.wornOut_within
    | with_reducible apply State.within_fold | with_reducible apply State.within_ite

theorem State.countCorrection_within {s0 : State} {L : List Part} {s : State} {tier : Nat} {off : Nat} (hw : s0.within L s) (hL : [.logs,
    .memory, .blocks, .resil] ⊆ L) :
    s0.within L (State.countCorrection s tier off) := by
  unfold State.countCorrection
  try dsimp only
  repeat' first
    | with_reducible assumption | exact Part.sub_of hL (by decide) | exact .inr (Part.in_of hL (by decide)) | with_reducible exact .inl rfl
    | intro _ | with_reducible apply State.logDevice_within | with_reducible apply State.onPart_within
    | with_reducible apply State.repairRows_within | with_reducible apply State.within_fold | with_reducible apply State.within_ite | split
    | with_reducible apply State.within_upd

theorem State.readLine_within {s0 : State} {L : List Part} {s : State} {tier : Nat} {off : Nat} {finding : LineFinding} {who : Named} (hw
    : s0.within L s) (hL : [.dial, .logs, .memory, .blocks, .resil, .bytes] ⊆ L) :
    s0.within L (State.readLine s tier off finding who) := by
  unfold State.readLine
  try dsimp only
  repeat' first
    | with_reducible assumption | exact Part.sub_of hL (by decide) | exact .inr (Part.in_of hL (by decide)) | with_reducible exact .inl rfl
    | with_reducible apply State.countCorrection_within | with_reducible apply State.onController_within
    | with_reducible apply State.readBad_within | with_reducible apply State.readStored_within | with_reducible apply State.within_ite
    | split | with_reducible apply State.within_upd

theorem State.takeReruns_within {s0 : State} {L : List Part} {s u : State} {t : TaskContext} {o : Op} (ht : s.takeReruns t o = some u)
    (hw : s0.within L s) (hL : [.mbs] ⊆ L) : s0.within L u := by
  unfold State.takeReruns at ht
  revert ht hw
  generalize (o.writes.filter fun i => s.slotCfg.isKind i 3) = l
  generalize s = v
  induction l generalizing v with
  | nil => intro ht hw; cases ht; exact hw
  | cons i l ih =>
    intro ht hw
    rw [List.foldlM_cons] at ht
    obtain ⟨w, hs, ht⟩ := Option.bind_eq_some_iff.1 ht
    refine ih w ht ?_
    dsimp only at hs
    split at hs
    · cases hs
    · split at hs
      · cases hs; exact hw
      · obtain ⟨k, _, rfl⟩ := Option.map_eq_some_iff.1 hs
        exact State.onMb_within hw hL

theorem State.runForward_within {s0 : State} {L : List Part} {s : State} {c : CtxId} {f : TaskContext → Op → Nat → State → State} (hw :
    s0.within L s) (hf : ∀ (x0 : TaskContext) (x1 : Op) (x2 : Nat) (x3 : State), s0.within L x3 → s0.within L (f x0 x1 x2 x3)) (hL :
    [.dial, .logs, .mbs, .sched, .gather, .train, .blocks] ⊆ L) :
    s0.within L (State.runForward s c f) := by
  unfold State.runForward
  split
  · split
    · exact hw
    · split
      · exact State.settle_within (State.endDropped_within hw (Part.sub_of hL (by decide))) (Part.sub_of hL (by decide))
      · split
        · cases s.op _ with
          | none => exact hw
          | some o => exact hf _ _ _ _ hw
        · split
          · exact hw
          · split
            · cases s.op _ with
              | none => exact hw
              | some o =>
                dsimp only [Option.elim]
                split
                · exact State.settle_within (State.dropFor_within hw (Part.sub_of hL (by decide))) (Part.sub_of hL (by decide))
                · cases ht : s.takeReruns _ o with
                  | none => exact hw
                  | some u => exact hf _ _ _ _ (State.takeReruns_within ht hw (Part.sub_of hL (by decide)))
            · exact hw
  · exact hw

theorem State.endForward_within {s0 : State} {L : List Part} {s : State} {c : CtxId} {k : Nat} (hw : s0.within L s) (hL : [.sched] ⊆ L) :
    s0.within L (State.endForward s c k) := by
  unfold State.endForward
  try dsimp only
  repeat' first
    | with_reducible assumption | exact Part.sub_of hL (by decide) | exact .inr (Part.in_of hL (by decide)) | with_reducible exact .inl rfl
    | with_reducible apply State.finish_within | with_reducible apply State.setCtx_within | with_reducible apply State.within_ite | split
    | with_reducible apply State.within_upd

theorem State.runBackward_within {s0 : State} {L : List Part} {s : State} {c : CtxId} {f : TaskContext → Op → State → State} (hw :
    s0.within L s) (hf : ∀ (x0 : TaskContext) (x1 : Op) (x2 : State), s0.within L x2 → s0.within L (f x0 x1 x2)) (hL : [.dial, .mbs,
    .sched, .gather, .train] ⊆ L) :
    s0.within L (State.runBackward s c f) := by
  unfold State.runBackward
  try dsimp only
  repeat' first
    | with_reducible assumption | exact Part.sub_of hL (by decide) | intro _ | with_reducible apply hf
    | with_reducible apply State.runItem_within | with_reducible apply State.within_ite

theorem State.runUnpoisoned_within {s0 : State} {L : List Part} {s : State} {c : CtxId} {t : TaskContext} {o : Op} {f : MicroBatch → State
    → State} (hw : s0.within L s) (hf : ∀ (x0 : MicroBatch) (x1 : State), s0.within L x1 → s0.within L (f x0 x1)) (hL : [.dial, .logs,
    .mbs, .sched, .memory, .gather, .train, .blocks] ⊆ L) :
    s0.within L (State.runUnpoisoned s c t o f) := by
  unfold State.runUnpoisoned
  try dsimp only
  repeat' first
    | with_reducible assumption | exact Part.sub_of hL (by decide) | intro _ | with_reducible apply hf
    | with_reducible apply State.dropFor_within | with_reducible apply State.noteReads_within | with_reducible apply State.settle_within
    | with_reducible apply State.within_fold | with_reducible apply State.within_ite | split

theorem State.sendBeat_within {s0 : State} {L : List Part} {s : State} {ports : List Nat} {f : BeatFlit} (hw : s0.within L s) (hL :
    [.links] ⊆ L) :
    s0.within L (State.sendBeat s ports f) := by
  unfold State.sendBeat
  try dsimp only
  repeat' first
    | with_reducible assumption | exact Part.sub_of hL (by decide) | exact .inr (Part.in_of hL (by decide)) | with_reducible exact .inl rfl
    | intro _ | with_reducible apply State.onPort_within | with_reducible apply State.within_fold | with_reducible apply State.within_ite
    | with_reducible apply State.within_upd

theorem State.sendFlit_within {s0 : State} {L : List Part} {s : State} {p : Nat} {f : Flit} (hw : s0.within L s) (hL : [.links] ⊆ L) :
    s0.within L (State.sendFlit s p f) := by
  unfold State.sendFlit
  try dsimp only
  repeat' first
    | with_reducible assumption | exact Part.sub_of hL (by decide) | with_reducible apply State.sendControl_within
    | with_reducible apply State.within_ite

theorem State.sendUp_within {s0 : State} {L : List Part} {s : State} {f : Flit} (hw : s0.within L s) (hL : [.links] ⊆ L) :
    s0.within L (State.sendUp s f) := by
  unfold State.sendUp
  try dsimp only
  repeat' first
    | with_reducible assumption | exact Part.sub_of hL (by decide) | intro _ | with_reducible apply State.sendFlit_within
    | with_reducible apply State.within_elim

theorem State.onEngine_within {s0 : State} {L : List Part} {s : State} {e : Nat} {f : CascadeEngine → CascadeEngine} (hw : s0.within L s)
    (hL : [.cascade] ⊆ L) :
    s0.within L (State.onEngine s e f) := by
  unfold State.onEngine
  try dsimp only
  repeat' first
    | with_reducible assumption | exact Part.sub_of hL (by decide) | exact .inr (Part.in_of hL (by decide)) | with_reducible exact .inl rfl
    | with_reducible apply State.onCascade_within | with_reducible apply State.within_upd

theorem State.onCascadeRun_within {s0 : State} {L : List Part} {s : State} {e : Nat} {f : CascadeRun → CascadeRun} (hw : s0.within L s)
    (hL : [.cascade] ⊆ L) :
    s0.within L (State.onCascadeRun s e f) := by
  unfold State.onCascadeRun
  try dsimp only
  repeat' first
    | with_reducible assumption | exact Part.sub_of hL (by decide) | exact .inr (Part.in_of hL (by decide)) | with_reducible exact .inl rfl
    | with_reducible apply State.onEngine_within | with_reducible apply State.within_upd

theorem State.sendNotice_within {s0 : State} {L : List Part} {s : State} {e : Nat} {split : Bool} {coord : Coord} {cause : Nat} {restart :
    Nat} (hw : s0.within L s) (hL : [.links] ⊆ L) :
    s0.within L (State.sendNotice s e split coord cause restart) := by
  unfold State.sendNotice
  try dsimp only
  repeat' first
    | with_reducible assumption | exact Part.sub_of hL (by decide) | with_reducible apply State.sendFlit_within
    | with_reducible apply State.within_ite

theorem State.dropCarried_within {s0 : State} {L : List Part} {s : State} (hw : s0.within L s) (hL : [.dial, .logs, .mbs, .train] ⊆ L) :
    s0.within L (State.dropCarried s) := by
  unfold State.dropCarried
  try dsimp only
  repeat' first
    | with_reducible assumption | exact Part.sub_of hL (by decide) | exact .inr (Part.in_of hL (by decide)) | with_reducible exact .inl rfl
    | with_reducible apply State.lapse_within | with_reducible apply State.onTrain_within | with_reducible apply State.within_ite
    | with_reducible apply State.within_upd

theorem State.withdraw_within {s0 : State} {L : List Part} {s : State} {e : Nat} (hw : s0.within L s) (hL : [.cascade, .links] ⊆ L) :
    s0.within L (State.withdraw s e) := by
  unfold State.withdraw
  try dsimp only
  repeat' first
    | with_reducible assumption | exact Part.sub_of hL (by decide) | exact .inr (Part.in_of hL (by decide)) | with_reducible exact .inl rfl
    | with_reducible apply State.onCascadeRun_within | with_reducible apply State.sendNotice_within | with_reducible apply State.within_ite
    | split | with_reducible apply State.within_upd

theorem State.countDefault_within {s0 : State} {L : List Part} {s : State} {id : Nat} (hw : s0.within L s) (hL : [.tables] ⊆ L) :
    s0.within L (State.countDefault s id) := by
  unfold State.countDefault
  try dsimp only
  repeat' first
    | with_reducible assumption | exact Part.sub_of hL (by decide) | exact .inr (Part.in_of hL (by decide)) | with_reducible exact .inl rfl
    | with_reducible apply State.onTables_within | with_reducible apply State.within_upd

theorem State.timeOut_within {s0 : State} {L : List Part} {s : State} {c : CtxId} (hw : s0.within L s) (hL : [.dial, .logs, .mbs, .sched,
    .gather, .train, .blocks] ⊆ L) :
    s0.within L (State.timeOut s c) := by
  unfold State.timeOut
  try dsimp only
  repeat' first
    | with_reducible assumption | exact Part.sub_of hL (by decide) | exact .inr (Part.in_of hL (by decide)) | with_reducible exact .inl rfl
    | with_reducible apply State.dropFor_within | with_reducible apply State.onGather_within | with_reducible apply State.settle_within
    | with_reducible apply State.within_upd

theorem State.onCooler_within {s0 : State} {L : List Part} {s : State} {region : Nat} {f : Cooler → Cooler} (hw : s0.within L s) (hL :
    [.tables] ⊆ L) :
    s0.within L (State.onCooler s region f) := by
  unfold State.onCooler
  try dsimp only
  repeat' first
    | with_reducible assumption | exact Part.sub_of hL (by decide) | exact .inr (Part.in_of hL (by decide)) | with_reducible exact .inl rfl
    | with_reducible apply State.onTables_within | with_reducible apply State.within_upd

theorem State.fillCooler_within {s0 : State} {L : List Part} {s : State} {region : Nat} {t : TableDesc} {v : Bool} {node : Nat} {est :
    Nat} {bytes : List Byte} {poisoned : Bool} (hw : s0.within L s) (hL : [.memory, .tables, .bytes] ⊆ L) :
    s0.within L (State.fillCooler s region t v node est bytes poisoned) := by
  unfold State.fillCooler
  try dsimp only
  repeat' first
    | with_reducible assumption | exact Part.sub_of hL (by decide) | with_reducible apply State.onCooler_within
    | with_reducible apply State.store_within | with_reducible apply State.within_ite | split

theorem State.countServed_within {s0 : State} {L : List Part} {s : State} {t : TableDesc} {node : Nat} (hw : s0.within L s) (hL :
    [.tables] ⊆ L) :
    s0.within L (State.countServed s t node) := by
  unfold State.countServed
  try dsimp only
  repeat' first
    | with_reducible assumption | exact Part.sub_of hL (by decide) | exact .inr (Part.in_of hL (by decide)) | with_reducible exact .inl rfl
    | with_reducible apply State.onTables_within | with_reducible apply State.within_ite | with_reducible apply State.within_upd

theorem State.promote_within {s0 : State} {L : List Part} {s : State} {t : TableDesc} {node : Nat} (hw : s0.within L s) (hL : [.logs,
    .tables] ⊆ L) :
    s0.within L (State.promote s t node) := by
  unfold State.promote
  try dsimp only
  repeat' first
    | with_reducible assumption | exact Part.sub_of hL (by decide) | exact .inr (Part.in_of hL (by decide)) | with_reducible exact .inl rfl
    | with_reducible apply State.countError_within | with_reducible apply State.onTables_within | with_reducible apply State.within_ite
    | split | with_reducible apply State.within_upd

theorem State.promoteWaiting_within {s0 : State} {L : List Part} {s : State} (hw : s0.within L s) (hL : [.logs, .tables] ⊆ L) :
    s0.within L (State.promoteWaiting s) := by
  unfold State.promoteWaiting
  try dsimp only
  repeat' first
    | with_reducible assumption | exact Part.sub_of hL (by decide) | exact .inr (Part.in_of hL (by decide)) | with_reducible exact .inl rfl
    | intro _ | with_reducible apply State.onTables_within | with_reducible apply State.promote_within
    | with_reducible apply State.within_elim | split | with_reducible apply State.within_upd

theorem State.promotionBatch_within {s0 : State} {L : List Part} {s : State} (hw : s0.within L s) (hL : [.logs, .tables] ⊆ L) :
    s0.within L (State.promotionBatch s) := by
  unfold State.promotionBatch
  try dsimp only
  repeat' first
    | with_reducible assumption | exact Part.sub_of hL (by decide) | exact .inr (Part.in_of hL (by decide)) | with_reducible exact .inl rfl
    | intro _ | with_reducible apply State.onTables_within | with_reducible apply State.promote_within
    | with_reducible apply State.within_fold | with_reducible apply State.within_ite | with_reducible apply State.within_upd

theorem State.endBatchRow_within {s0 : State} {L : List Part} {s : State} {table : Nat} {node : Nat} (hw : s0.within L s) (hL : [.tables]
    ⊆ L) :
    s0.within L (State.endBatchRow s table node) := by
  unfold State.endBatchRow
  try dsimp only
  repeat' first
    | with_reducible assumption | exact Part.sub_of hL (by decide) | exact .inr (Part.in_of hL (by decide)) | with_reducible exact .inl rfl
    | with_reducible apply State.onTables_within | with_reducible apply State.within_ite | with_reducible apply State.within_upd

theorem State.sendPieces_within {s0 : State} {L : List Part} {s : State} {ps : List MovedPiece} (hw : s0.within L s) (hL : [.logs, .links]
    ⊆ L) :
    s0.within L (State.sendPieces s ps) := by
  unfold State.sendPieces
  try dsimp only
  repeat' first
    | with_reducible assumption | exact Part.sub_of hL (by decide) | intro _ | with_reducible apply State.sendTo_within
    | with_reducible apply State.within_fold | with_reducible apply State.within_ite

theorem State.replayMoves_within {s0 : State} {L : List Part} {s : State} {k : Nat} {n : Nat} (hw : s0.within L s) (hL : [.logs, .links] ⊆
    L) :
    s0.within L (State.replayMoves s k n) := by
  unfold State.replayMoves
  try dsimp only
  repeat' first
    | with_reducible assumption | exact Part.sub_of hL (by decide) | with_reducible apply State.sendPieces_within
    | with_reducible apply State.within_ite

theorem State.storeRow_within {s0 : State} {L : List Part} {s : State} {t : TableDesc} {b : Bool} {node : Nat} {o : Nat} {bs : List Byte}
    {poisoned : Bool} (hw : s0.within L s) (hL : [.logs, .memory, .tables, .links, .bytes] ⊆ L) :
    s0.within L (State.storeRow s t b node o bs poisoned) := by
  unfold State.storeRow
  try dsimp only
  repeat' first
    | with_reducible assumption | exact Part.sub_of hL (by decide) | exact .inr (Part.in_of hL (by decide)) | with_reducible exact .inl rfl
    | intro _ | with_reducible apply State.onTables_within | with_reducible apply State.replayMoves_within
    | with_reducible apply State.store_within | with_reducible apply State.within_fold | with_reducible apply State.within_ite | split
    | with_reducible apply State.within_upd

theorem State.noteOperand_within {s0 : State} {L : List Part} {s : State} {c : CtxId} {m : Option MicroBatch} {v : Nat} {i : Nat} {x :
    Operand} (hw : s0.within L s) (hL : [.dial, .logs, .memory] ⊆ L) :
    s0.within L (State.noteOperand s c m v i x) := by
  unfold State.noteOperand
  try dsimp only
  repeat' first
    | with_reducible assumption | exact Part.sub_of hL (by decide) | with_reducible apply State.noteReads_within | split

theorem State.dropPoison_within {s0 : State} {L : List Part} {s : State} {c : CtxId} (hw : s0.within L s) (hL : [.dial, .logs, .mbs,
    .sched, .gather, .train, .blocks] ⊆ L) :
    s0.within L (State.dropPoison s c) := by
  unfold State.dropPoison
  try dsimp only
  repeat' first
    | with_reducible assumption | exact Part.sub_of hL (by decide) | with_reducible apply State.dropFor_within
    | with_reducible apply State.settle_within

theorem State.writeRows_within {s0 : State} {L : List Part} {s : State} {m : MicroBatch} {i : Nat} {x : Operand} {rows : List (List
    (BitVec 32))} (hw : s0.within L s) (hL : [.logs, .memory, .links, .bytes] ⊆ L) :
    s0.within L (State.writeRows s m i x rows) := by
  unfold State.writeRows
  try dsimp only
  repeat' first
    | with_reducible assumption | exact Part.sub_of hL (by decide) | intro _ | with_reducible apply State.writeRow_within
    | with_reducible apply State.within_fold

theorem State.spoutAccess_within {s0 : State} {L : List Part} {s : State} {c : CtxId} {core : Nat} {m : Option MicroBatch} {args : List
    Nat} {acc : SpoutAccess} (hw : s0.within L s) (hL : [.dial, .logs, .memory, .tables, .links, .bytes] ⊆ L) :
    s0.within L (State.spoutAccess s c core m args acc) := by
  unfold State.spoutAccess
  try dsimp only
  repeat' first
    | with_reducible assumption | exact Part.sub_of hL (by decide) | exact .inr (Part.in_of hL (by decide)) | with_reducible exact .inl rfl
    | intro _ | with_reducible rfl | exact Memory.setPoison_wf _ _ | with_reducible apply State.noteReads_within
    | with_reducible apply State.onMemory_within | with_reducible apply State.placeStore_within
    | with_reducible apply State.storeRow_within | with_reducible apply State.within_fold | with_reducible apply State.within_ite
    | with_reducible apply State.within_elim | split | with_reducible apply State.within_upd

theorem State.spoutRun_within {s0 : State} {L : List Part} {s : State} {c : CtxId} {core : Nat} {m : Option MicroBatch} {args : List Nat}
    {accs : List SpoutAccess} (hw : s0.within L s) (hL : [.dial, .logs, .memory, .tables, .links, .bytes] ⊆ L) :
    s0.within L (State.spoutRun s c core m args accs).1 := by
  exact State.within_fold_fst (fun _ _ h => State.spoutAccess_within h (Part.sub_of hL (by decide))) hw

theorem State.spoutFault_within {s0 : State} {L : List Part} {s : State} {c : CtxId} {o : Op} {k : Nat} {code : Nat} (hw : s0.within L s)
    (hL : [.dial, .logs, .mbs, .sched, .gather, .train, .blocks] ⊆ L) :
    s0.within L (State.spoutFault s c o k code) := by
  unfold State.spoutFault
  try dsimp only
  repeat' first
    | with_reducible assumption | exact Part.sub_of hL (by decide) | with_reducible apply State.dropFor_within
    | with_reducible apply State.endForward_within | with_reducible apply State.haltAtBoundary_within
    | with_reducible apply State.logDevice_within | with_reducible apply State.settle_within | with_reducible apply State.within_ite

theorem State.addGradRows_within {s0 : State} {L : List Part} {s : State} {m : MicroBatch} {i : Nat} {rows : List (List (BitVec 32))} (hw
    : s0.within L s) (hL : [.logs, .mbs, .memory, .links, .bytes] ⊆ L) :
    s0.within L (State.addGradRows s m i rows) := by
  unfold State.addGradRows
  try dsimp only
  repeat' first
    | with_reducible assumption | exact Part.sub_of hL (by decide) | intro _ | with_reducible apply State.addCompanion_within
    | with_reducible apply State.within_fold

theorem State.activateBack_within {s0 : State} {L : List Part} {s : State} {c : CtxId} {t : TaskContext} {m : MicroBatch} {i : Nat} {out :
    Nat} {f : Nat} (hw : s0.within L s) (hL : [.draws, .dial, .logs, .mbs, .sched, .memory, .gather, .train, .blocks, .links, .bytes] ⊆ L)
    :
    s0.within L (State.activateBack s c t m i out f) := by
  unfold State.activateBack
  try dsimp only
  repeat' first
    | with_reducible assumption | exact Part.sub_of hL (by decide) | with_reducible apply State.addGradRows_within
    | with_reducible apply State.draw_within | with_reducible apply State.dropPoison_within | with_reducible apply State.finish_within
    | with_reducible apply State.within_ite | split

theorem State.normaliseBack_within {s0 : State} {L : List Part} {s : State} {c : CtxId} {t : TaskContext} {o : Op} {m : MicroBatch} {n :
    NormaliseOp} (hw : s0.within L s) (hL : [.draws, .dial, .logs, .mbs, .sched, .memory, .gather, .train, .blocks, .links, .bytes] ⊆ L) :
    s0.within L (State.normaliseBack s c t o m n) := by
  unfold State.normaliseBack
  try dsimp only
  repeat' first
    | with_reducible assumption | exact Part.sub_of hL (by decide) | with_reducible apply State.addGradRows_within
    | with_reducible apply State.draw_within | with_reducible apply State.dropPoison_within | with_reducible apply State.finish_within
    | with_reducible apply State.store_within | with_reducible apply State.takeStaging_within | with_reducible apply State.within_ite
    | split

end Sys2Proof.Machine
end

