-- ==== Sys2Proof/Laws/FramePower.lean ====
section
/-! SUPPORT. Frames of the functions of one area: power, SMBus, start, spares. Each names the parts it can change; memory keeps its form. -/

namespace Sys2Proof.Machine

set_option Elab.async false
set_option linter.all false

theorem State.shutdown_within {s0 : State} {L : List Part} {s : State} {cause : Nat} {code : Nat} {hold : Hold} (hw : s0.within L s) (hL :
    [.power, .start, .staging, .cfg, .dial, .logs, .run, .mbs, .sched, .cores, .memory, .tables, .cursors, .rambler, .gather, .train,
    .blocks, .cascade, .links, .resil, .bytes] ⊆ L) :
    s0.within L (State.shutdown s cause code hold) := by
  unfold State.shutdown
  try dsimp only
  repeat' first
    | with_reducible assumption | exact Part.sub_of hL (by decide) | exact .inr (Part.in_of hL (by decide)) | with_reducible exact .inl rfl
    | with_reducible apply State.loseDevice_within | with_reducible apply State.within_upd

theorem State.rampIfEnabled_within {s0 : State} {L : List Part} {s : State} (hw : s0.within L s) (hL : [.power] ⊆ L) :
    s0.within L (State.rampIfEnabled s) := by
  unfold State.rampIfEnabled
  try dsimp only
  repeat' first
    | with_reducible assumption | exact Part.sub_of hL (by decide) | exact .inr (Part.in_of hL (by decide)) | with_reducible exact .inl rfl
    | with_reducible apply State.within_ite | with_reducible apply State.within_upd

theorem State.releasePg_within {s0 : State} {L : List Part} {s : State} (hw : s0.within L s) (hL : [.power] ⊆ L) :
    s0.within L (State.releasePg s) := by
  unfold State.releasePg
  try dsimp only
  repeat' first
    | with_reducible assumption | exact Part.sub_of hL (by decide) | exact .inr (Part.in_of hL (by decide)) | with_reducible exact .inl rfl
    | with_reducible apply State.within_ite | with_reducible apply State.within_upd

theorem State.actOnSensor_within {s0 : State} {L : List Part} {s : State} {sensor : Sensor} {celsius : BitVec 8} {level : Nat} (hw :
    s0.within L s) (hL : [.power, .memory, .blocks] ⊆ L) :
    s0.within L (State.actOnSensor s sensor celsius level) := by
  unfold State.actOnSensor
  try dsimp only
  repeat' first
    | with_reducible assumption | exact Part.sub_of hL (by decide) | exact .inr (Part.in_of hL (by decide)) | with_reducible exact .inl rfl
    | split | with_reducible apply State.within_upd

theorem State.smbus_within {s0 : State} {L : List Part} {s : State} {pec : Bool} {answer : State → State} (hw : s0.within L s) (hanswer :
    ∀ (x0 : State), s0.within L x0 → s0.within L (answer x0)) (hL : [.power] ⊆ L) :
    s0.within L (State.smbus s pec answer) := by
  unfold State.smbus
  try dsimp only
  repeat' first
    | with_reducible assumption | exact Part.sub_of hL (by decide) | exact .inr (Part.in_of hL (by decide)) | with_reducible exact .inl rfl
    | intro _ | with_reducible apply hanswer | with_reducible apply State.within_ite | with_reducible apply State.within_upd

theorem State.replyWith_within {s0 : State} {L : List Part} {s : State} {bs : List Byte} (hw : s0.within L s) (hL : [.power] ⊆ L) :
    s0.within L (State.replyWith s bs) := by
  unfold State.replyWith
  try dsimp only
  repeat' first
    | with_reducible assumption | exact Part.sub_of hL (by decide) | exact .inr (Part.in_of hL (by decide)) | with_reducible exact .inl rfl
    | with_reducible apply State.within_upd

theorem State.journal_within {s0 : State} {L : List Part} {s : State} {r : JournalRecord} (hw : s0.within L s) (hL : [.flash, .start,
    .logs] ⊆ L) :
    s0.within L (State.journal s r) := by
  unfold State.journal
  try dsimp only
  repeat' first
    | with_reducible assumption | exact Part.sub_of hL (by decide) | exact .inr (Part.in_of hL (by decide)) | with_reducible exact .inl rfl
    | with_reducible apply State.countError_within | with_reducible apply State.within_ite | with_reducible apply State.within_upd

theorem State.failStart_within {s0 : State} {L : List Part} {s : State} {step : Nat} {progress : Nat} (hw : s0.within L s) (hL : [.start]
    ⊆ L) :
    s0.within L (State.failStart s step progress) := by
  unfold State.failStart
  try dsimp only
  repeat' first
    | with_reducible assumption | exact Part.sub_of hL (by decide) | exact .inr (Part.in_of hL (by decide)) | with_reducible exact .inl rfl
    | with_reducible apply State.within_upd

theorem State.runStep_within {s0 : State} {L : List Part} {s : State} {step : Nat} {f : State → StepResult} (hw : s0.within L s) (hf : ∀
    (x0 : State), s0.within L x0 → s0.within L (f x0).s) (hL : [.flash, .start, .logs] ⊆ L) :
    s0.within L (State.runStep s step f) := by
  unfold State.runStep
  try dsimp only
  repeat' first
    | with_reducible assumption | exact Part.sub_of hL (by decide) | exact .inr (Part.in_of hL (by decide)) | with_reducible exact .inl rfl
    | intro _ | with_reducible apply hf | with_reducible apply State.countError_within | with_reducible apply State.failStart_within
    | with_reducible apply State.journal_within | with_reducible apply State.within_fold | with_reducible apply State.within_ite
    | with_reducible apply State.within_upd

theorem State.repairRecord_within {s0 : State} {L : List Part} {s : State} {kind : Nat} {pendKind : Nat} {unit : Nat} {detail : Nat} {code
    : Nat} (hw : s0.within L s) (hL : [.flash, .resil] ⊆ L) :
    s0.within L (State.repairRecord s kind pendKind unit detail code) := by
  unfold State.repairRecord
  try dsimp only
  repeat' first
    | with_reducible assumption | exact Part.sub_of hL (by decide) | exact .inr (Part.in_of hL (by decide)) | with_reducible exact .inl rfl
    | intro _ | with_reducible apply State.within_fold | with_reducible apply State.within_ite | with_reducible apply State.within_upd

theorem State.applyRepairs_within {s0 : State} {L : List Part} {s : State} (hw : s0.within L s) (hL : [.logs, .resil] ⊆ L) :
    s0.within L (State.applyRepairs s) := by
  unfold State.applyRepairs
  try dsimp only
  repeat' first
    | with_reducible assumption | exact Part.sub_of hL (by decide) | exact .inr (Part.in_of hL (by decide)) | with_reducible exact .inl rfl
    | with_reducible apply State.logDevice_within | with_reducible apply State.within_ite | with_reducible apply State.within_upd

theorem State.applyUnitMap_within {s0 : State} {L : List Part} {s : State} (hw : s0.within L s) (hL : [.blocks, .resil] ⊆ L) :
    s0.within L (State.applyUnitMap s) := by
  unfold State.applyUnitMap
  try dsimp only
  repeat' first
    | with_reducible assumption | exact Part.sub_of hL (by decide) | exact .inr (Part.in_of hL (by decide)) | with_reducible exact .inl rfl
    | with_reducible apply State.within_upd

theorem State.carryFailure_within {s0 : State} {L : List Part} {s : State} {step : Nat} {code : Nat} (hw : s0.within L s) (hL : [.power] ⊆
    L) :
    s0.within L (State.carryFailure s step code) := by
  unfold State.carryFailure
  try dsimp only
  repeat' first
    | with_reducible assumption | exact Part.sub_of hL (by decide) | exact .inr (Part.in_of hL (by decide)) | with_reducible exact .inl rfl
    | with_reducible apply State.within_ite | with_reducible apply State.within_upd

theorem State.enterRefusal_within {s0 : State} {L : List Part} {s : State} {f : StartFindings} (hw : s0.within L s) (hL : [.power, .start,
    .links] ⊆ L) :
    s0.within L (State.enterRefusal s f) := by
  unfold State.enterRefusal
  try dsimp only
  repeat' first
    | with_reducible assumption | exact Part.sub_of hL (by decide) | exact .inr (Part.in_of hL (by decide)) | with_reducible exact .inl rfl
    | with_reducible apply State.onPort_within | with_reducible apply State.within_ite | split | with_reducible apply State.within_upd

theorem State.scanJournal_within {s0 : State} {L : List Part} {s : State} (hw : s0.within L s) (hL : [.power, .flash, .start, .logs,
    .resil] ⊆ L) :
    s0.within L (State.scanJournal s) := by
  unfold State.scanJournal
  try dsimp only
  repeat' first
    | with_reducible assumption | exact Part.sub_of hL (by decide) | exact .inr (Part.in_of hL (by decide)) | with_reducible exact .inl rfl
    | intro _ | with_reducible apply State.applyRepairs_within | with_reducible apply State.journal_within
    | with_reducible apply State.runStep_within | with_reducible apply State.within_ite | with_reducible apply State.within_upd

theorem stepIdentity_within {s0 : State} {L : List Part} {f : StartFindings} {s : State} (hw : s0.within L s) (hL : [.draws, .flash,
    .start] ⊆ L) :
    s0.within L (stepIdentity f s).s := by
  unfold stepIdentity
  try dsimp only
  repeat' first
    | with_reducible assumption | exact Part.sub_of hL (by decide) | exact .inr (Part.in_of hL (by decide)) | with_reducible exact .inl rfl
    | with_reducible apply State.draw_within | with_reducible apply State.within_ite | split | with_reducible apply State.within_upd

theorem stepDirectory_within {s0 : State} {L : List Part} {last : Option JournalRecord} {s : State} (hw : s0.within L s) (hL : [.flash,
    .start] ⊆ L) :
    s0.within L (stepDirectory last s).s := by
  unfold stepDirectory
  try dsimp only
  repeat' first
    | with_reducible assumption | exact Part.sub_of hL (by decide) | exact .inr (Part.in_of hL (by decide)) | with_reducible exact .inl rfl
    | intro _ | with_reducible apply State.within_ite | with_reducible apply State.within_elim | split
    | with_reducible apply State.within_upd

theorem StepResult.within_fold {α : Type} {s0 : State} {L : List Part} {f : StepResult → α → StepResult} {l : List α} {a : StepResult}
    (hf : ∀ a x, s0.within L a.s → s0.within L (f a x).s) (h : s0.within L a.s) : s0.within L (l.foldl f a).s := by
  induction l generalizing a with
  | nil => exact h
  | cons x l ih => exact ih (hf a x h)

theorem State.takeVerify_within {s0 : State} {L : List Part} {s : State} {r : Option StepFault} {h : ImageHeader} {digest : List Byte} (hw
    : s0.within L s) (hL : [.start] ⊆ L) :
    s0.within L (State.takeVerify s r h digest).s := by
  unfold State.takeVerify
  try dsimp only
  repeat' first
    | with_reducible assumption | exact Part.sub_of hL (by decide) | exact .inr (Part.in_of hL (by decide)) | with_reducible exact .inl rfl
    | with_reducible apply State.within_ite | split | with_reducible apply State.within_upd

theorem stepVerify_within {s0 : State} {L : List Part} {s : State} (hw : s0.within L s) (hL : [.start] ⊆ L) :
    s0.within L (stepVerify s).s := by
  unfold stepVerify
  exact State.takeVerify_within hw hL

theorem stepRollback_within {s0 : State} {L : List Part} {f : StartFindings} {s : State} (hw : s0.within L s) (hL : [.flash, .start] ⊆ L) :
    s0.within L (stepRollback f s).s := by
  unfold stepRollback
  try dsimp only
  repeat' first
    | with_reducible assumption | exact Part.sub_of hL (by decide) | exact .inr (Part.in_of hL (by decide)) | with_reducible exact .inl rfl
    | with_reducible apply State.within_ite | split | with_reducible apply State.within_upd

theorem State.takeContent_within {s0 : State} {L : List Part} {s : State} {r : Option StepFault} {c : ImageCfg} (hw : s0.within L s) (hL :
    [.start, .cfg, .blocks, .resil] ⊆ L) :
    s0.within L (State.takeContent s r c).s := by
  unfold State.takeContent
  try dsimp only
  repeat' first
    | with_reducible assumption | exact Part.sub_of hL (by decide) | exact .inr (Part.in_of hL (by decide)) | with_reducible exact .inl rfl
    | intro _ | with_reducible apply State.applyUnitMap_within | with_reducible apply State.within_ite
    | with_reducible apply State.within_elim | split | with_reducible apply State.within_upd

theorem stepContent_within {s0 : State} {L : List Part} {s : State} (hw : s0.within L s) (hL : [.start, .cfg, .blocks, .resil] ⊆ L) :
    s0.within L (stepContent s).s := by
  unfold stepContent
  exact State.takeContent_within hw hL

theorem stepCores_within {s0 : State} {L : List Part} {f : StartFindings} {s : State} (hw : s0.within L s) (hL : [.flash, .cores, .resil]
    ⊆ L) :
    s0.within L (stepCores f s).s := by
  unfold stepCores
  try dsimp only
  repeat' first
    | with_reducible assumption | exact Part.sub_of hL (by decide) | exact .inr (Part.in_of hL (by decide)) | with_reducible exact .inl rfl
    | intro _ | with_reducible apply State.repairRecord_within | with_reducible apply State.within_fold
    | with_reducible apply State.within_ite | with_reducible apply State.within_elim | split | with_reducible apply State.within_upd

theorem State.domainUp_within {s0 : State} {L : List Part} {s : State} {d : Nat} (hw : s0.within L s) (hL : [.power, .blocks] ⊆ L) :
    s0.within L (State.domainUp s d) := by
  unfold State.domainUp
  try dsimp only
  repeat' first
    | with_reducible assumption | exact Part.sub_of hL (by decide) | exact .inr (Part.in_of hL (by decide)) | with_reducible exact .inl rfl
    | with_reducible apply State.within_ite | with_reducible apply State.within_upd

theorem State.replaceBlock_within {s0 : State} {L : List Part} {s u : State} {failed : List (Fin 96)} {d : Nat}
    (hu : s.replaceBlock failed d = some u) (hw : s0.within L s) (hL : [.power, .flash, .blocks, .resil] ⊆ L) : s0.within L u := by
  unfold State.replaceBlock at hu
  dsimp only at hu
  split at hu
  · cases hu
  · cases hu
    refine State.domainUp_within ?_ (Part.sub_of hL (by decide))
    repeat' first
      | with_reducible assumption | exact Part.sub_of hL (by decide) | exact .inr (Part.in_of hL (by decide)) | with_reducible exact .inl rfl
      | with_reducible apply State.repairRecord_within | with_reducible apply State.within_upd

theorem stepDomains_within {s0 : State} {L : List Part} {f : StartFindings} {s : State} (hw : s0.within L s) (hL : [.power, .flash,
    .blocks, .resil] ⊆ L) :
    s0.within L (stepDomains f s).s := by
  unfold stepDomains
  dsimp only
  refine StepResult.within_fold (fun r d h => ?_) hw
  split
  · exact h
  · split
    · exact State.domainUp_within h (Part.sub_of hL (by decide))
    · have hu : ∀ v, v = ({ r.s with power := { r.s.power with failed := satAdd r.s.power.failed 1 } } : State) → s0.within L v := by
        intro v hv
        subst hv
        repeat' first
          | with_reducible assumption | exact .inr (Part.in_of hL (by decide)) | with_reducible exact .inl rfl
          | with_reducible apply State.within_upd
      split
      · split
        · exact State.replaceBlock_within (by assumption) (hu _ rfl) (Part.sub_of hL (by decide))
        · exact hu _ rfl
      · exact hu _ rfl

theorem stepStacked_within {s0 : State} {L : List Part} {f : StartFindings} {s : State} (hw : s0.within L s) (hL : [.flash, .memory,
    .resil] ⊆ L) :
    s0.within L (stepStacked f s).s := by
  unfold stepStacked
  dsimp only
  generalize hr : List.foldl _ _ _ = r
  have h : s0.within L r.s := by
    subst hr
    refine StepResult.within_fold (fun r x h => ?_) hw
    split
    · exact h
    · split
      · exact h
      · refine State.repairRecord_within ?_ (Part.sub_of hL (by decide))
        repeat' first
          | with_reducible assumption | exact .inr (Part.in_of hL (by decide)) | with_reducible exact .inl rfl
          | with_reducible apply State.within_upd
  split
  · exact h
  · repeat' first
      | with_reducible assumption | exact .inr (Part.in_of hL (by decide)) | with_reducible exact .inl rfl
      | with_reducible apply State.within_upd

theorem stepDdr_within {s0 : State} {L : List Part} {last : Option JournalRecord} {f : StartFindings} {s : State} (hw : s0.within L s) (hL
    : [.start, .memory] ⊆ L) :
    s0.within L (stepDdr last f s).s := by
  unfold stepDdr
  try dsimp only
  repeat' first
    | with_reducible assumption | exact Part.sub_of hL (by decide) | exact .inr (Part.in_of hL (by decide)) | with_reducible exact .inl rfl
    | intro _ | with_reducible apply State.within_ite | with_reducible apply State.within_elim | split
    | with_reducible apply State.within_upd

theorem State.bringUpCxl_within {s0 : State} {L : List Part} {s : State} {port : Nat} {ok : Bool} {gib : Nat} (hw : s0.within L s) (hL :
    [.power, .flash, .start, .memory] ⊆ L) :
    s0.within L (State.bringUpCxl s port ok gib).1 := by
  unfold State.bringUpCxl
  try dsimp only
  repeat' first
    | with_reducible assumption | exact Part.sub_of hL (by decide) | exact .inr (Part.in_of hL (by decide)) | with_reducible exact .inl rfl
    | with_reducible apply State.within_ite | split | with_reducible apply State.within_upd

theorem stepCxl_within {s0 : State} {L : List Part} {f : StartFindings} {s : State} (hw : s0.within L s) (hL : [.power, .flash, .start,
    .memory] ⊆ L) :
    s0.within L (stepCxl f s).s := by
  unfold stepCxl
  try dsimp only
  repeat' first
    | with_reducible assumption | exact Part.sub_of hL (by decide) | with_reducible apply State.bringUpCxl_within
    | with_reducible apply State.within_ite | split | with_reducible refine State.within_fst (by assumption) ?_

theorem stepLinks_within {s0 : State} {L : List Part} {f : StartFindings} {s : State} (hw : s0.within L s) (hL : [.links] ⊆ L) :
    s0.within L (stepLinks f s).s := by
  unfold stepLinks
  try dsimp only
  repeat' first
    | with_reducible assumption | exact Part.sub_of hL (by decide) | exact .inr (Part.in_of hL (by decide)) | with_reducible exact .inl rfl
    | intro _ | with_reducible apply State.within_ite | with_reducible apply State.within_elim | split
    | with_reducible apply State.within_upd

theorem State.copyLayouts_within {s0 : State} {L : List Part} {s : State} (hw : s0.within L s) (hL : [.memory, .bytes] ⊆ L) :
    s0.within L (State.copyLayouts s) := by
  unfold State.copyLayouts
  try dsimp only
  repeat' first
    | with_reducible assumption | exact Part.sub_of hL (by decide) | with_reducible apply State.store_within | split

theorem stepLoad_within {s0 : State} {L : List Part} {f : StartFindings} {s : State} (hw : s0.within L s) (hL : [.start, .memory, .bytes]
    ⊆ L) :
    s0.within L (stepLoad f s).s := by
  unfold stepLoad
  try dsimp only
  repeat' first
    | with_reducible assumption | exact Part.sub_of hL (by decide) | exact .inr (Part.in_of hL (by decide)) | with_reducible exact .inl rfl
    | intro _ | with_reducible apply State.copyLayouts_within | with_reducible apply State.within_ite
    | with_reducible apply State.within_elim | split | with_reducible apply State.within_upd

theorem State.startDial_within {s0 : State} {L : List Part} {s : State} (hw : s0.within L s) (hL : [.dial] ⊆ L) :
    s0.within L (State.startDial s) := by
  unfold State.startDial
  try dsimp only
  repeat' first
    | with_reducible assumption | exact Part.sub_of hL (by decide) | exact .inr (Part.in_of hL (by decide)) | with_reducible exact .inl rfl
    | with_reducible apply State.within_upd

theorem stepReady_within {s0 : State} {L : List Part} {f : StartFindings} {s : State} (hw : s0.within L s) (hL : [.flash, .start, .dial] ⊆
    L) :
    s0.within L (stepReady f s).s := by
  unfold stepReady
  try dsimp only
  repeat' first
    | with_reducible assumption | exact Part.sub_of hL (by decide) | exact .inr (Part.in_of hL (by decide)) | with_reducible exact .inl rfl
    | with_reducible apply State.startDial_within | with_reducible apply State.within_ite | split | with_reducible apply State.within_upd

theorem State.lateSteps_within {s0 : State} {L : List Part} {s : State} {last : Option JournalRecord} {f : StartFindings} (hw : s0.within
    L s) (hL : [.power, .flash, .start, .cfg, .dial, .logs, .cores, .memory, .blocks, .links, .resil, .bytes] ⊆ L) :
    s0.within L (State.lateSteps s last f) := by
  unfold State.lateSteps
  try dsimp only
  repeat' first
    | with_reducible assumption | exact Part.sub_of hL (by decide) | intro _ | with_reducible apply State.runStep_within
    | with_reducible apply stepContent_within | with_reducible apply stepCores_within | with_reducible apply stepCxl_within
    | with_reducible apply stepDdr_within | with_reducible apply stepDomains_within | with_reducible apply stepLinks_within
    | with_reducible apply stepLoad_within | with_reducible apply stepReady_within | with_reducible apply stepRollback_within
    | with_reducible apply stepStacked_within | with_reducible apply stepVerify_within

theorem State.startSteps_within {s0 : State} {L : List Part} {s : State} {refuseEarly : Bool} {f : StartFindings} (hw : s0.within L s) (hL
    : [.draws, .power, .flash, .start, .cfg, .dial, .logs, .cores, .memory, .blocks, .links, .resil, .bytes] ⊆ L) :
    s0.within L (State.startSteps s refuseEarly f) := by
  unfold State.startSteps
  try dsimp only
  repeat' first
    | with_reducible assumption | exact Part.sub_of hL (by decide) | intro _ | with_reducible apply State.enterRefusal_within
    | with_reducible apply State.journal_within | with_reducible apply State.lateSteps_within | with_reducible apply State.runStep_within
    | with_reducible apply State.scanJournal_within | with_reducible apply stepDirectory_within | with_reducible apply stepIdentity_within
    | with_reducible apply State.within_ite | with_reducible apply State.within_elim

theorem State.startEarly_within {s0 : State} {L : List Part} {s : State} {refuseEarly : Bool} {step : Nat} {code : Nat} {f :
    StartFindings} (hw : s0.within L s) (hL : [.power, .start, .logs, .links] ⊆ L) :
    s0.within L (State.startEarly s refuseEarly step code f) := by
  unfold State.startEarly
  try dsimp only
  repeat' first
    | with_reducible assumption | exact Part.sub_of hL (by decide) | exact .inr (Part.in_of hL (by decide)) | with_reducible exact .inl rfl
    | with_reducible apply State.carryFailure_within | with_reducible apply State.countError_within
    | with_reducible apply State.enterRefusal_within | with_reducible apply State.within_ite | with_reducible apply State.within_upd

theorem State.noteWear_within {s0 : State} {L : List Part} {s : State} {monitor : Nat} {unit : Nat} (hw : s0.within L s) (hL : [.logs,
    .blocks, .resil] ⊆ L) :
    s0.within L (State.noteWear s monitor unit) := by
  unfold State.noteWear
  try dsimp only
  repeat' first
    | with_reducible assumption | exact Part.sub_of hL (by decide) | exact .inr (Part.in_of hL (by decide)) | with_reducible exact .inl rfl
    | with_reducible apply State.onResil_within | with_reducible apply State.wornOut_within | with_reducible apply State.within_ite
    | with_reducible apply State.within_upd

theorem State.wearReading_within {s0 : State} {L : List Part} {s : State} {r : WearReading} (hw : s0.within L s) (hL : [.logs, .blocks,
    .resil] ⊆ L) :
    s0.within L (State.wearReading s r) := by
  unfold State.wearReading
  try dsimp only
  repeat' first
    | with_reducible assumption | exact Part.sub_of hL (by decide) | exact .inr (Part.in_of hL (by decide)) | with_reducible exact .inl rfl
    | with_reducible apply State.onResil_within | with_reducible apply State.wornOut_within | with_reducible apply State.within_ite | split
    | with_reducible apply State.within_upd

theorem State.openSwapWindow_within {s0 : State} {L : List Part} {s : State} (hw : s0.within L s) (hL : [.resil] ⊆ L) :
    s0.within L (State.openSwapWindow s) := by
  unfold State.openSwapWindow
  try dsimp only
  repeat' first
    | with_reducible assumption | exact Part.sub_of hL (by decide) | exact .inr (Part.in_of hL (by decide)) | with_reducible exact .inl rfl
    | with_reducible apply State.onResil_within | with_reducible apply State.within_upd

theorem State.endSwapWindow_within {s0 : State} {L : List Part} {s : State} (hw : s0.within L s) (hL : [.flash, .resil] ⊆ L) :
    s0.within L (State.endSwapWindow s) := by
  unfold State.endSwapWindow
  try dsimp only
  repeat' first
    | with_reducible assumption | exact Part.sub_of hL (by decide) | exact .inr (Part.in_of hL (by decide)) | with_reducible exact .inl rfl
    | intro _ | with_reducible apply State.onResil_within | with_reducible apply State.repairRecord_within
    | with_reducible apply State.within_fold | with_reducible apply State.within_ite | with_reducible apply State.within_upd

theorem State.sparePowerFailed_within {s0 : State} {L : List Part} {s : State} {w : Swap} (hw : s0.within L s) (hL : [.power, .logs,
    .resil] ⊆ L) :
    s0.within L (State.sparePowerFailed s w) := by
  unfold State.sparePowerFailed
  try dsimp only
  repeat' first
    | with_reducible assumption | exact Part.sub_of hL (by decide) | exact .inr (Part.in_of hL (by decide)) | with_reducible exact .inl rfl
    | with_reducible apply State.logDevice_within | with_reducible apply State.noSpare_within | with_reducible apply State.onResil_within
    | with_reducible apply State.within_ite | split | with_reducible apply State.within_upd

end Sys2Proof.Machine
end

