-- ==== Sys2Proof/Laws/FrameDial.lean ====
section
/-! SUPPORT. Frames of the functions of one area: dial, checkpoints, Hokuano requests. Each names the parts it can change; memory keeps its form. -/

namespace Sys2Proof.Machine

set_option Elab.async false
set_option linter.all false

theorem State.takeRequest_within {s0 : State} {L : List Part} {s : State} {entry : Nat} {step : Nat} (hw : s0.within L s) (hL : [.dial,
    .logs] ⊆ L) :
    s0.within L (State.takeRequest s entry step) := by
  unfold State.takeRequest
  try dsimp only
  repeat' first
    | with_reducible assumption | exact Part.sub_of hL (by decide) | exact .inr (Part.in_of hL (by decide)) | with_reducible exact .inl rfl
    | with_reducible apply State.logDial_within | with_reducible apply State.onDial_within | with_reducible apply State.onLogs_within
    | with_reducible apply State.within_ite | split | with_reducible apply State.within_upd

theorem State.askRoot_within {s0 : State} {L : List Part} {s : State} {entry : Nat} {step : Nat} (hw : s0.within L s) (hL : [.dial, .logs]
    ⊆ L) :
    s0.within L (State.askRoot s entry step) := by
  unfold State.askRoot
  try dsimp only
  repeat' first
    | with_reducible assumption | exact Part.sub_of hL (by decide) | exact .inr (Part.in_of hL (by decide)) | with_reducible exact .inl rfl
    | with_reducible apply State.onDial_within | with_reducible apply State.takeRequest_within | with_reducible apply State.within_ite
    | with_reducible apply State.within_upd

theorem State.takeHeldRequests_within {s0 : State} {L : List Part} {s : State} (hw : s0.within L s) (hL : [.dial, .logs] ⊆ L) :
    s0.within L (State.takeHeldRequests s) := by
  unfold State.takeHeldRequests
  try dsimp only
  repeat' first
    | with_reducible assumption | exact Part.sub_of hL (by decide) | exact .inr (Part.in_of hL (by decide)) | with_reducible exact .inl rfl
    | intro _ | with_reducible apply State.onDial_within | with_reducible apply State.takeRequest_within
    | with_reducible apply State.within_fold | with_reducible apply State.within_ite | with_reducible apply State.within_upd

theorem State.abandonDrain_within {s0 : State} {L : List Part} {s : State} {t : Nat} (hw : s0.within L s) (hL : [.resil] ⊆ L) :
    s0.within L (State.abandonDrain s t) := by
  unfold State.abandonDrain
  try dsimp only
  repeat' first
    | with_reducible assumption | exact Part.sub_of hL (by decide) | exact .inr (Part.in_of hL (by decide)) | with_reducible exact .inl rfl
    | with_reducible apply State.onResil_within | with_reducible apply State.onTarget_within | with_reducible apply State.within_ite
    | with_reducible apply State.within_upd

theorem State.dropEntry_within {s0 : State} {L : List Part} {s : State} {i : Nat} {e : DialEntry} {step : Nat} (hw : s0.within L s) (hL :
    [.dial, .logs, .mbs, .sched, .gather, .train, .blocks, .cascade, .links, .resil] ⊆ L) :
    s0.within L (State.dropEntry s i e step).1 := by
  have hd : s0.within L ((s.lateMbs i step).foldl (fun s m => s.dropMb m step) s) :=
    State.within_fold (fun _ _ h => State.dropMb_within h (Part.sub_of hL (by decide))) hw
  unfold State.dropEntry
  dsimp only
  generalize (s.lateMbs i step).foldl (fun s m => s.dropMb m step) s = u at hd ⊢
  split
  · have hc := State.onCascade_within (f := fun c => { c with withdrawn := c.withdrawn ++
      ((u.slotCfg.ops.zipIdx.filter fun o => o.1.entry == i).map (·.2)) }) hd (Part.sub_of hL (by decide))
    refine State.dropCarried_within (State.within_ite (State.withdraw_within hc (Part.sub_of hL (by decide))) hc) (Part.sub_of hL (by decide))
  · split
    · exact State.abandonDrain_within hd (Part.sub_of hL (by decide))
    · repeat' first
        | with_reducible assumption | exact .inr (Part.in_of hL (by decide)) | with_reducible exact .inl rfl
        | with_reducible apply State.within_upd

theorem State.endCopy_within {s0 : State} {L : List Part} {s : State} {t : Nat} {code : Nat} (hw : s0.within L s) (hL : [.logs, .resil] ⊆
    L) :
    s0.within L (State.endCopy s t code) := by
  unfold State.endCopy
  try dsimp only
  repeat' first
    | with_reducible assumption | exact Part.sub_of hL (by decide) | exact .inr (Part.in_of hL (by decide)) | with_reducible exact .inl rfl
    | with_reducible apply State.logDevice_within | with_reducible apply State.onResil_within | with_reducible apply State.onTarget_within
    | with_reducible apply State.within_ite | with_reducible apply State.within_upd

theorem State.drainMissed_within {s0 : State} {L : List Part} {s : State} {e : DialEntry} (hw : s0.within L s) (hL : [.logs, .resil] ⊆ L) :
    s0.within L (State.drainMissed s e) := by
  unfold State.drainMissed
  try dsimp only
  repeat' first
    | with_reducible assumption | exact Part.sub_of hL (by decide) | exact .inr (Part.in_of hL (by decide)) | with_reducible exact .inl rfl
    | intro _ | with_reducible apply State.endCopy_within | with_reducible apply State.logDevice_within
    | with_reducible apply State.onResil_within | with_reducible apply State.onTarget_within | with_reducible apply State.within_fold
    | with_reducible apply State.within_ite | with_reducible apply State.within_upd

theorem State.deadline_within {s0 : State} {L : List Part} {s : State} {d : DialInstance} {e : DialEntry} {atEnd : Bool} (hw : s0.within L
    s) (hL : [.dial, .logs, .mbs, .sched, .gather, .train, .blocks, .cascade, .links, .resil] ⊆ L) :
    s0.within L (State.deadline s d e atEnd) := by
  unfold State.deadline
  try dsimp only
  repeat' first
    | with_reducible assumption | exact Part.sub_of hL (by decide) | exact .inr (Part.in_of hL (by decide)) | with_reducible exact .inl rfl
    | with_reducible apply State.askRoot_within | with_reducible apply State.drainMissed_within
    | with_reducible apply State.dropEntry_within | with_reducible apply State.haltAtBoundary_within
    | with_reducible apply State.logDial_within | with_reducible apply State.onDial_within | with_reducible apply State.onLogs_within
    | with_reducible apply State.sendUp_within | with_reducible apply State.within_ite | split
    | with_reducible refine State.within_fst (by assumption) ?_ | with_reducible apply State.within_upd

theorem State.checkCloses_within {s0 : State} {L : List Part} {s : State} {pos : Nat} (hw : s0.within L s) (hL : [.dial, .logs, .mbs,
    .sched, .gather, .train, .blocks, .cascade, .links, .resil] ⊆ L) :
    s0.within L (State.checkCloses s pos) := by
  unfold State.checkCloses
  try dsimp only
  repeat' first
    | with_reducible assumption | exact Part.sub_of hL (by decide) | intro _ | with_reducible apply State.deadline_within
    | with_reducible apply State.within_fold | with_reducible apply State.within_ite | split

theorem State.checkAtEnd_within {s0 : State} {L : List Part} {s : State} (hw : s0.within L s) (hL : [.dial, .logs, .mbs, .sched, .gather,
    .train, .blocks, .cascade, .links, .resil] ⊆ L) :
    s0.within L (State.checkAtEnd s) := by
  unfold State.checkAtEnd
  try dsimp only
  repeat' first
    | with_reducible assumption | exact Part.sub_of hL (by decide) | intro _ | with_reducible apply State.deadline_within
    | with_reducible apply State.within_fold | with_reducible apply State.within_ite | split

theorem State.reclaim_within {s0 : State} {L : List Part} {s : State} (hw : s0.within L s) (hL : [.dial, .logs, .mbs, .sched, .gather,
    .train, .blocks] ⊆ L) :
    s0.within L (State.reclaim s) := by
  unfold State.reclaim
  try dsimp only
  repeat' first
    | with_reducible assumption | exact Part.sub_of hL (by decide) | exact .inr (Part.in_of hL (by decide)) | with_reducible exact .inl rfl
    | intro _ | with_reducible apply State.dropMb_within | with_reducible apply State.logDevice_within
    | with_reducible apply State.onTrain_within | with_reducible apply State.within_fold | with_reducible apply State.within_upd

theorem State.grant_within {s0 : State} {L : List Part} {s : State} {pos : Nat} (hw : s0.within L s) (hL : [.dial, .logs] ⊆ L) :
    s0.within L (State.grant s pos) := by
  unfold State.grant
  try dsimp only
  repeat' first
    | with_reducible assumption | exact Part.sub_of hL (by decide) | exact .inr (Part.in_of hL (by decide)) | with_reducible exact .inl rfl
    | with_reducible apply State.onDial_within | with_reducible apply State.onLogs_within | with_reducible apply State.within_ite
    | with_reducible apply State.within_upd

theorem State.periodLoop_within {s0 : State} {L : List Part} {s : State} (hw : s0.within L s) (hL : [.dial] ⊆ L) :
    s0.within L (State.periodLoop s) := by
  unfold State.periodLoop
  try dsimp only
  repeat' first
    | with_reducible assumption | exact Part.sub_of hL (by decide) | exact .inr (Part.in_of hL (by decide)) | with_reducible exact .inl rfl
    | with_reducible apply State.onDial_within | with_reducible apply State.within_ite | split | with_reducible apply State.within_upd

theorem State.sendPresence_within {s0 : State} {L : List Part} {s : State} (hw : s0.within L s) (hL : [.links] ⊆ L) :
    s0.within L (State.sendPresence s) := by
  unfold State.sendPresence
  try dsimp only
  repeat' first
    | with_reducible assumption | exact Part.sub_of hL (by decide) | intro _ | with_reducible apply State.sendFlit_within
    | with_reducible apply State.within_fold | with_reducible apply State.within_ite | split

theorem State.atBeat_within {s0 : State} {L : List Part} {s : State} (hw : s0.within L s) (hL : [.dial, .logs, .links] ⊆ L) :
    s0.within L (State.atBeat s) := by
  unfold State.atBeat
  try dsimp only
  repeat' first
    | with_reducible assumption | exact Part.sub_of hL (by decide) | exact .inr (Part.in_of hL (by decide)) | with_reducible exact .inl rfl
    | with_reducible apply State.grant_within | with_reducible apply State.onDial_within | with_reducible apply State.periodLoop_within
    | with_reducible apply State.sendBeat_within | with_reducible apply State.sendPresence_within | with_reducible apply State.within_ite
    | with_reducible apply State.within_upd

theorem State.evalInstances_within {s0 : State} {L : List Part} {s : State} {e : Nat} (hw : s0.within L s) (hL : [.sched] ⊆ L) :
    s0.within L (State.evalInstances s e) := by
  unfold State.evalInstances
  try dsimp only
  repeat' first
    | with_reducible assumption | exact Part.sub_of hL (by decide) | exact .inr (Part.in_of hL (by decide)) | with_reducible exact .inl rfl
    | with_reducible apply State.createStepInstances_within | with_reducible apply State.within_upd

theorem State.reformBatches_within {s0 : State} {L : List Part} {s : State} (hw : s0.within L s) (hL : [.run, .mbs, .sched] ⊆ L) :
    s0.within L (State.reformBatches s) := by
  unfold State.reformBatches
  try dsimp only
  repeat' first
    | with_reducible assumption | exact Part.sub_of hL (by decide) | exact .inr (Part.in_of hL (by decide)) | with_reducible exact .inl rfl
    | intro _ | with_reducible apply State.onRun_within | with_reducible apply State.within_ite | with_reducible apply State.within_elim
    | with_reducible apply State.within_upd

theorem State.openEvaluation_within {s0 : State} {L : List Part} {s : State} {e : Nat} (hw : s0.within L s) (hL : [.mbs, .sched, .cursors]
    ⊆ L) :
    s0.within L (State.openEvaluation s e) := by
  unfold State.openEvaluation
  try dsimp only
  repeat' first
    | with_reducible assumption | exact Part.sub_of hL (by decide) | exact .inr (Part.in_of hL (by decide)) | with_reducible exact .inl rfl
    | with_reducible apply State.checkCursor_within | with_reducible apply State.evalInstances_within
    | with_reducible apply State.onCursor_within | with_reducible apply State.within_ite | split | with_reducible apply State.within_upd

theorem State.openReshard_within {s0 : State} {L : List Part} {s : State} (hw : s0.within L s) (hL : [.dial, .logs, .memory, .tables] ⊆ L) :
    s0.within L (State.openReshard s) := by
  unfold State.openReshard
  try dsimp only
  repeat' first
    | with_reducible assumption | exact Part.sub_of hL (by decide) | exact .inr (Part.in_of hL (by decide)) | with_reducible exact .inl rfl
    | intro _ | with_reducible apply State.noteReads_within | with_reducible apply State.onTables_within
    | with_reducible apply State.within_ite | with_reducible apply State.within_elim | with_reducible apply State.within_upd

theorem State.openDrain_within {s0 : State} {L : List Part} {s : State} {target : Nat} (hw : s0.within L s) (hL : [.resil] ⊆ L) :
    s0.within L (State.openDrain s target) := by
  unfold State.openDrain
  try dsimp only
  repeat' first
    | with_reducible assumption | exact Part.sub_of hL (by decide) | exact .inr (Part.in_of hL (by decide)) | with_reducible exact .inl rfl
    | with_reducible apply State.onTarget_within | with_reducible apply State.within_ite | with_reducible apply State.within_upd

theorem State.openEntries_within {s0 : State} {L : List Part} {s : State} (hw : s0.within L s) (hL : [.dial, .logs, .mbs, .sched, .memory,
    .tables, .cursors, .resil] ⊆ L) :
    s0.within L (State.openEntries s) := by
  unfold State.openEntries
  try dsimp only
  repeat' first
    | with_reducible assumption | exact Part.sub_of hL (by decide) | intro _ | with_reducible apply State.openDrain_within
    | with_reducible apply State.openEvaluation_within | with_reducible apply State.openReshard_within
    | with_reducible apply State.openSwapWindow_within | with_reducible apply State.within_fold | with_reducible apply State.within_ite
    | split

theorem State.elapse_within {s0 : State} {L : List Part} {s : State} {cycles : Nat} (hw : s0.within L s) (hL : [.power, .dial, .sched,
    .blocks] ⊆ L) :
    s0.within L (State.elapse s cycles) := by
  unfold State.elapse
  try dsimp only
  repeat' first
    | with_reducible assumption | exact Part.sub_of hL (by decide) | exact .inr (Part.in_of hL (by decide)) | with_reducible exact .inl rfl
    | with_reducible apply State.within_ite | with_reducible apply State.within_upd

theorem State.closeWindows_within {s0 : State} {L : List Part} {s : State} {pos : Nat} (hw : s0.within L s) (hL : [.flash, .resil] ⊆ L) :
    s0.within L (State.closeWindows s pos) := by
  unfold State.closeWindows
  try dsimp only
  repeat' first
    | with_reducible assumption | exact Part.sub_of hL (by decide) | intro _ | with_reducible apply State.endSwapWindow_within
    | with_reducible apply State.within_fold | with_reducible apply State.within_ite

theorem State.leave_within {s0 : State} {L : List Part} {s : State} {pos : Nat} (hw : s0.within L s) (hL : [.flash, .dial, .logs, .mbs,
    .sched, .gather, .train, .blocks, .cascade, .links, .resil] ⊆ L) :
    s0.within L (State.leave s pos) := by
  unfold State.leave
  try dsimp only
  repeat' first
    | with_reducible assumption | exact Part.sub_of hL (by decide) | with_reducible apply State.checkCloses_within
    | with_reducible apply State.closeWindows_within | with_reducible apply State.reclaim_within | with_reducible apply State.within_ite

theorem State.meetBeat_within {s0 : State} {L : List Part} {s : State} (hw : s0.within L s) (hL : [.dial, .logs, .links] ⊆ L) :
    s0.within L (State.meetBeat s) := by
  unfold State.meetBeat
  try dsimp only
  repeat' first
    | with_reducible assumption | exact Part.sub_of hL (by decide) | with_reducible apply State.atBeat_within
    | with_reducible apply State.within_ite

theorem State.arrive_within {s0 : State} {L : List Part} {s : State} (hw : s0.within L s) (hL : [.dial, .logs, .mbs, .sched, .memory,
    .tables, .cursors, .train, .resil] ⊆ L) :
    s0.within L (State.arrive s) := by
  unfold State.arrive
  try dsimp only
  repeat' first
    | with_reducible assumption | exact Part.sub_of hL (by decide) | exact .inr (Part.in_of hL (by decide)) | with_reducible exact .inl rfl
    | with_reducible apply State.onDial_within | with_reducible apply State.openEntries_within | with_reducible apply State.settle_within
    | with_reducible apply State.within_upd

theorem State.forwardBeat_within {s0 : State} {L : List Part} {s : State} {port : Nat} {f : BeatFlit} (hw : s0.within L s) (hL : [.links]
    ⊆ L) :
    s0.within L (State.forwardBeat s port f) := by
  unfold State.forwardBeat
  try dsimp only
  repeat' first
    | with_reducible assumption | exact Part.sub_of hL (by decide) | exact .inr (Part.in_of hL (by decide)) | with_reducible exact .inl rfl
    | with_reducible apply State.sendBeat_within | with_reducible apply State.within_upd

theorem State.adopt_within {s0 : State} {L : List Part} {s : State} {f : BeatFlit} (hw : s0.within L s) (hL : [.dial] ⊆ L) :
    s0.within L (State.adopt s f) := by
  unfold State.adopt
  try dsimp only
  repeat' first
    | with_reducible assumption | exact Part.sub_of hL (by decide) | exact .inr (Part.in_of hL (by decide)) | with_reducible exact .inl rfl
    | with_reducible apply State.onDial_within | with_reducible apply State.within_ite | with_reducible apply State.within_upd

theorem State.acquire_within {s0 : State} {L : List Part} {s : State} {port : Nat} {f : BeatFlit} (hw : s0.within L s) (hL : [.dial] ⊆ L) :
    s0.within L (State.acquire s port f) := by
  unfold State.acquire
  try dsimp only
  repeat' first
    | with_reducible assumption | exact Part.sub_of hL (by decide) | exact .inr (Part.in_of hL (by decide)) | with_reducible exact .inl rfl
    | with_reducible apply State.onDial_within | with_reducible apply State.within_upd

theorem State.countCompletion_within {s0 : State} {L : List Part} {s : State} (hw : s0.within L s) (hL : [.dial, .tables] ⊆ L) :
    s0.within L (State.countCompletion s) := by
  unfold State.countCompletion
  try dsimp only
  repeat' first
    | with_reducible assumption | exact Part.sub_of hL (by decide) | exact .inr (Part.in_of hL (by decide)) | with_reducible exact .inl rfl
    | with_reducible apply State.onDial_within | with_reducible apply State.onTables_within | with_reducible apply State.within_ite
    | with_reducible apply State.within_upd

theorem State.syncMissing_within {s0 : State} {L : List Part} {s : State} (hw : s0.within L s) (hL : [.dial, .logs] ⊆ L) :
    s0.within L (State.syncMissing s) := by
  unfold State.syncMissing
  try dsimp only
  repeat' first
    | with_reducible assumption | exact Part.sub_of hL (by decide) | exact .inr (Part.in_of hL (by decide)) | with_reducible exact .inl rfl
    | with_reducible apply State.logDial_within | with_reducible apply State.onDial_within | with_reducible apply State.within_ite
    | with_reducible apply State.within_upd

theorem State.drainView_within {s0 : State} {L : List Part} {s : State} (hw : s0.within L s) (hL : [.run, .train] ⊆ L) :
    s0.within L (State.drainView s) := by
  unfold State.drainView
  try dsimp only
  repeat' first
    | with_reducible assumption | exact Part.sub_of hL (by decide) | exact .inr (Part.in_of hL (by decide)) | with_reducible exact .inl rfl
    | with_reducible apply State.onTrain_within | with_reducible apply State.within_upd

theorem State.sendHop_within {s0 : State} {L : List Part} {s : State} {port : Nat} {dest : Coord} {type : Nat} {vc : Nat} {rest : Nat}
    {data : List Flit} (hw : s0.within L s) (hL : [.links] ⊆ L) :
    s0.within L (State.sendHop s port dest type vc rest data) := by
  unfold State.sendHop
  try dsimp only
  repeat' first
    | with_reducible assumption | exact Part.sub_of hL (by decide) | with_reducible apply State.sendPacket_within
    | with_reducible apply State.within_ite

theorem State.finishDrain_within {s0 : State} {L : List Part} {s : State} (hw : s0.within L s) (hL : [.logs, .links, .resil] ⊆ L) :
    s0.within L (State.finishDrain s) := by
  unfold State.finishDrain
  try dsimp only
  repeat' first
    | with_reducible assumption | exact Part.sub_of hL (by decide) | exact .inr (Part.in_of hL (by decide)) | with_reducible exact .inl rfl
    | with_reducible apply State.complete_within | with_reducible apply State.onTarget_within | with_reducible apply State.within_ite
    | with_reducible apply State.within_upd

theorem State.ackPart_within {s0 : State} {L : List Part} {s : State} {p : DrainPart} (hw : s0.within L s) (hL : [.logs, .links, .resil] ⊆
    L) :
    s0.within L (State.ackPart s p) := by
  unfold State.ackPart
  try dsimp only
  repeat' first
    | with_reducible assumption | exact Part.sub_of hL (by decide) | exact .inr (Part.in_of hL (by decide)) | with_reducible exact .inl rfl
    | with_reducible apply State.finishDrain_within | with_reducible apply State.onResil_within
    | with_reducible apply State.onTarget_within | with_reducible apply State.within_ite | split | with_reducible apply State.within_upd

theorem State.drainBytes_within {s0 : State} {L : List Part} {s : State} {off : Nat} {bs : List Byte} {poison : Nat → Bool} {row : Option
    (Nat × Nat)} {header : Bool} (hw : s0.within L s) (hL : [.logs, .memory, .links, .resil, .bytes] ⊆ L) :
    s0.within L (State.drainBytes s off bs poison row header) := by
  unfold State.drainBytes
  try dsimp only
  repeat' first
    | with_reducible assumption | exact Part.sub_of hL (by decide) | exact .inr (Part.in_of hL (by decide)) | with_reducible exact .inl rfl
    | intro _ | with_reducible apply State.ackPart_within | with_reducible apply State.onTarget_within
    | with_reducible apply State.sendHop_within | with_reducible apply State.store_within | with_reducible apply State.within_fold
    | with_reducible apply State.within_ite | with_reducible apply State.within_upd

theorem State.drainRow_within {s0 : State} {L : List Part} {s : State} {base : Nat} {m : RowMark} (hw : s0.within L s) (hL : [.dial,
    .logs, .run, .memory, .train, .links, .resil, .bytes] ⊆ L) :
    s0.within L (State.drainRow s base m) := by
  unfold State.drainRow
  try dsimp only
  repeat' first
    | with_reducible assumption | exact Part.sub_of hL (by decide) | exact .inr (Part.in_of hL (by decide)) | with_reducible exact .inl rfl
    | with_reducible apply State.drainBytes_within | with_reducible apply State.drainView_within
    | with_reducible apply State.noteReads_within | with_reducible apply State.onResil_within | with_reducible apply State.within_ite
    | split | with_reducible apply State.within_upd

theorem State.drainBody_within {s0 : State} {L : List Part} {s : State} (hw : s0.within L s) (hL : [.dial, .logs, .run, .memory, .train,
    .links, .resil, .bytes] ⊆ L) :
    s0.within L (State.drainBody s) := by
  unfold State.drainBody
  try dsimp only
  repeat' first
    | with_reducible assumption | exact Part.sub_of hL (by decide) | exact .inr (Part.in_of hL (by decide)) | with_reducible exact .inl rfl
    | intro _ | with_reducible apply State.complete_within | with_reducible apply State.drainBytes_within
    | with_reducible apply State.drainRow_within | with_reducible apply State.drainView_within
    | with_reducible apply State.noteReads_within | with_reducible apply State.onTarget_within | with_reducible apply State.within_fold
    | with_reducible apply State.within_ite | with_reducible apply State.within_elim | split | with_reducible apply State.within_upd

theorem State.drainHeader_within {s0 : State} {L : List Part} {s : State} (hw : s0.within L s) (hL : [.logs, .run, .memory, .train,
    .links, .resil, .bytes] ⊆ L) :
    s0.within L (State.drainHeader s) := by
  unfold State.drainHeader
  try dsimp only
  repeat' first
    | with_reducible assumption | exact Part.sub_of hL (by decide) | exact .inr (Part.in_of hL (by decide)) | with_reducible exact .inl rfl
    | with_reducible apply State.drainBytes_within | with_reducible apply State.drainView_within
    | with_reducible apply State.onTarget_within | with_reducible apply State.within_ite | with_reducible apply State.within_upd

theorem State.beginCopy_within {s0 : State} {L : List Part} {s : State} {t : Nat} (hw : s0.within L s) (hL : [.logs, .links, .resil] ⊆ L) :
    s0.within L (State.beginCopy s t) := by
  unfold State.beginCopy
  try dsimp only
  repeat' first
    | with_reducible assumption | exact Part.sub_of hL (by decide) | exact .inr (Part.in_of hL (by decide)) | with_reducible exact .inl rfl
    | with_reducible apply State.complete_within | with_reducible apply State.onTarget_within | with_reducible apply State.within_ite
    | split | with_reducible apply State.within_upd

theorem State.copyBytes_within {s0 : State} {L : List Part} {s : State} {t : Nat} {off : Nat} {bs : List Byte} {header : Bool} (hw :
    s0.within L s) (hL : [.links, .resil] ⊆ L) :
    s0.within L (State.copyBytes s t off bs header) := by
  unfold State.copyBytes
  try dsimp only
  repeat' first
    | with_reducible assumption | exact Part.sub_of hL (by decide) | exact .inr (Part.in_of hL (by decide)) | with_reducible exact .inl rfl
    | intro _ | with_reducible apply State.onResil_within | with_reducible apply State.onTarget_within
    | with_reducible apply State.sendPacket_within | with_reducible apply State.within_fold | with_reducible apply State.within_ite
    | with_reducible apply State.within_upd

theorem State.copyPart_within {s0 : State} {L : List Part} {s : State} {t : Nat} {page : List Byte} {bs : List Byte} (hw : s0.within L s)
    (hL : [.logs, .links, .resil] ⊆ L) :
    s0.within L (State.copyPart s t page bs) := by
  unfold State.copyPart
  try dsimp only
  repeat' first
    | with_reducible assumption | exact Part.sub_of hL (by decide) | exact .inr (Part.in_of hL (by decide)) | with_reducible exact .inl rfl
    | with_reducible apply State.complete_within | with_reducible apply State.copyBytes_within | with_reducible apply State.onTarget_within
    | with_reducible apply State.within_ite | with_reducible apply State.within_upd

theorem State.copyDone_within {s0 : State} {L : List Part} {s : State} {t : Nat} (hw : s0.within L s) (hL : [.logs, .links, .resil] ⊆ L) :
    s0.within L (State.copyDone s t) := by
  unfold State.copyDone
  try dsimp only
  repeat' first
    | with_reducible assumption | exact Part.sub_of hL (by decide) | exact .inr (Part.in_of hL (by decide)) | with_reducible exact .inl rfl
    | with_reducible apply State.complete_within | with_reducible apply State.endCopy_within | with_reducible apply State.onTarget_within
    | with_reducible apply State.within_ite | with_reducible apply State.within_upd

theorem State.ackStore_within {s0 : State} {L : List Part} {s : State} {bytes : Nat} {object : Nat} (hw : s0.within L s) (hL : [.logs,
    .links, .resil] ⊆ L) :
    s0.within L (State.ackStore s bytes object) := by
  unfold State.ackStore
  try dsimp only
  repeat' first
    | with_reducible assumption | exact Part.sub_of hL (by decide) | exact .inr (Part.in_of hL (by decide)) | with_reducible exact .inl rfl
    | with_reducible apply State.copyDone_within | with_reducible apply State.onTarget_within | with_reducible apply State.within_ite
    | with_reducible apply State.within_upd

theorem State.request_within {s0 : State} {L : List Part} {s : State} {h : HkHeader} {inRefusal : Bool} {flitsOk : Bool} {fs : List (Nat ×
    Nat)} {act : State → State} (hw : s0.within L s) (hact : ∀ (x0 : State), s0.within L x0 → s0.within L (act x0)) (hL : [.logs, .links]
    ⊆ L) :
    s0.within L (State.request s h inRefusal flitsOk fs act) := by
  unfold State.request
  try dsimp only
  repeat' first
    | with_reducible assumption | exact Part.sub_of hL (by decide) | intro _ | with_reducible apply hact
    | with_reducible apply State.complete_within | with_reducible apply State.linkProtocol_within | with_reducible apply State.within_ite
    | split

theorem State.hold_within {s0 : State} {L : List Part} {s : State} {c : Instr} (hw : s0.within L s) (hL : [.links] ⊆ L) :
    s0.within L (State.hold s c) := by
  unfold State.hold
  try dsimp only
  repeat' first
    | with_reducible assumption | exact Part.sub_of hL (by decide) | exact .inr (Part.in_of hL (by decide)) | with_reducible exact .inl rfl
    | with_reducible apply State.within_upd

theorem State.answerAttest_within {s0 : State} {L : List Part} {s : State} {h : HkHeader} {nonce : BitVec 256} (hw : s0.within L s) (hL :
    [.links] ⊆ L) :
    s0.within L (State.answerAttest s h nonce) := by
  unfold State.answerAttest
  try dsimp only
  repeat' first
    | with_reducible assumption | exact Part.sub_of hL (by decide) | with_reducible apply State.sendCompletion_within

theorem State.forward_within {s0 : State} {L : List Part} {s : State} {r : HkRequest} {type : Nat} {vc : Nat} {rest : Nat} {data : List
    Flit} (hw : s0.within L s) (hL : [.logs, .links] ⊆ L) :
    s0.within L (State.forward s r type vc rest data) := by
  unfold State.forward
  try dsimp only
  repeat' first
    | with_reducible assumption | exact Part.sub_of hL (by decide) | exact .inr (Part.in_of hL (by decide)) | with_reducible exact .inl rfl
    | with_reducible apply State.sendTo_within | with_reducible apply State.within_upd

end Sys2Proof.Machine
end

