-- ==== Sys2Proof/Laws/FrameRestore.lean ====
section
/-! SUPPORT. Frames of the functions of one area: restores, resets, array, run control, boundary. Each names the parts it can change; memory keeps its form. -/

namespace Sys2Proof.Machine

set_option Elab.async false
set_option linter.all false

theorem State.advanceEngines_within {s0 : State} {L : List Part} {s : State} {ks : List Nat} (hw : s0.within L s) (hL : [.resil] ⊆ L) :
    s0.within L (State.advanceEngines s ks) := by
  unfold State.advanceEngines
  try dsimp only
  repeat' first
    | with_reducible assumption | exact Part.sub_of hL (by decide) | exact .inr (Part.in_of hL (by decide)) | with_reducible exact .inl rfl
    | intro _ | with_reducible apply State.onResil_within | with_reducible apply State.within_fold | with_reducible apply State.within_upd

theorem State.loadSpan_within {s0 : State} {L : List Part} {s : State} {off : Nat} {n : Nat} {key : Nat} (hw : s0.within L s) (hL :
    [.memory, .bytes] ⊆ L) :
    s0.within L (State.loadSpan s off n key) := by
  unfold State.loadSpan
  try dsimp only
  repeat' first
    | with_reducible assumption | exact Part.sub_of hL (by decide) | intro _ | with_reducible apply State.store_within
    | with_reducible apply State.within_fold | with_reducible apply State.within_ite

theorem State.loadDense_within {s0 : State} {L : List Part} {s : State} {bufferB : Bool} (hw : s0.within L s) (hL : [.memory, .bytes] ⊆ L) :
    s0.within L (State.loadDense s bufferB) := by
  unfold State.loadDense
  try dsimp only
  repeat' first
    | with_reducible assumption | exact Part.sub_of hL (by decide) | intro _ | with_reducible apply State.loadSpan_within
    | with_reducible apply State.within_fold | split

theorem State.loadRows_within {s0 : State} {L : List Part} {s : State} (hw : s0.within L s) (hL : [.memory, .bytes] ⊆ L) :
    s0.within L (State.loadRows s) := by
  unfold State.loadRows
  try dsimp only
  repeat' first
    | with_reducible assumption | exact Part.sub_of hL (by decide) | intro _ | with_reducible apply State.loadSpan_within
    | with_reducible apply State.within_fold | split

theorem State.failRestore_within {s0 : State} {L : List Part} {s : State} {code : Nat} (hw : s0.within L s) (hL : [.logs, .memory, .resil,
    .bytes] ⊆ L) :
    s0.within L (State.failRestore s code) := by
  unfold State.failRestore
  try dsimp only
  repeat' first
    | with_reducible assumption | exact Part.sub_of hL (by decide) | exact .inr (Part.in_of hL (by decide)) | with_reducible exact .inl rfl
    | with_reducible apply State.loadDense_within | with_reducible apply State.loadRows_within
    | with_reducible apply State.logDevice_within | with_reducible apply State.onRestore_within | with_reducible apply State.within_ite
    | split | with_reducible apply State.within_upd

theorem State.placeBytes_within {s0 : State} {L : List Part} {s : State} {bs : List Byte} {poisoned : Nat → Bool} (hw : s0.within L s) (hL
    : [.resil] ⊆ L) :
    s0.within L (State.placeBytes s bs poisoned) := by
  unfold State.placeBytes
  try dsimp only
  repeat' first
    | with_reducible assumption | exact Part.sub_of hL (by decide) | exact .inr (Part.in_of hL (by decide)) | with_reducible exact .inl rfl
    | intro _ | with_reducible apply State.onRestore_within | with_reducible apply State.within_fold | split
    | with_reducible apply State.within_upd

theorem State.askLines_within {s0 : State} {L : List Part} {s : State} {tier : Nat} {off : Nat} {lines : Nat} (hw : s0.within L s) (hL :
    [.logs, .links] ⊆ L) :
    s0.within L (State.askLines s tier off lines) := by
  unfold State.askLines
  try dsimp only
  repeat' first
    | with_reducible assumption | exact Part.sub_of hL (by decide) | intro _ | with_reducible apply State.sendTo_within
    | with_reducible apply State.within_fold

theorem State.await_within {s0 : State} {L : List Part} {s : State} {g : RestoreStage} {n : Nat} (hw : s0.within L s) (hL : [.resil] ⊆ L) :
    s0.within L (State.await s g n) := by
  unfold State.await
  try dsimp only
  repeat' first
    | with_reducible assumption | exact Part.sub_of hL (by decide) | exact .inr (Part.in_of hL (by decide)) | with_reducible exact .inl rfl
    | with_reducible apply State.onRestore_within | with_reducible apply State.within_upd

theorem State.awaitBody_within {s0 : State} {L : List Part} {s : State} {n : Nat} (hw : s0.within L s) (hL : [.resil] ⊆ L) :
    s0.within L (State.awaitBody s n) := by
  unfold State.awaitBody
  try dsimp only
  repeat' first
    | with_reducible assumption | exact Part.sub_of hL (by decide) | exact .inr (Part.in_of hL (by decide)) | with_reducible exact .inl rfl
    | with_reducible apply State.await_within | with_reducible apply State.onRestore_within | with_reducible apply State.within_ite
    | with_reducible apply State.within_upd

theorem State.awaitNext_within {s0 : State} {L : List Part} {s : State} {g : RestoreStage} {n : Nat} {after : Nat} (hw : s0.within L s)
    (hL : [.resil] ⊆ L) :
    s0.within L (State.awaitNext s g n after) := by
  unfold State.awaitNext
  try dsimp only
  repeat' first
    | with_reducible assumption | exact Part.sub_of hL (by decide) | exact .inr (Part.in_of hL (by decide)) | with_reducible exact .inl rfl
    | with_reducible apply State.await_within | with_reducible apply State.onRestore_within | with_reducible apply State.within_upd

theorem State.readPartner_within {s0 : State} {L : List Part} {s : State} {off : Nat} {n : Nat} (hw : s0.within L s) (hL : [.draws, .logs,
    .links, .resil] ⊆ L) :
    s0.within L (State.readPartner s off n) := by
  unfold State.readPartner
  try dsimp only
  repeat' first
    | with_reducible assumption | exact Part.sub_of hL (by decide) | with_reducible apply State.askLines_within
    | with_reducible apply State.draw_within | with_reducible apply State.placeBytes_within | with_reducible apply State.within_ite

theorem State.readSet_within {s0 : State} {L : List Part} {s : State} {set : Bool} {off : Nat} {n : Nat} (hw : s0.within L s) (hL :
    [.draws, .logs, .links, .resil] ⊆ L) :
    s0.within L (State.readSet s set off n) := by
  unfold State.readSet
  try dsimp only
  repeat' first
    | with_reducible assumption | exact Part.sub_of hL (by decide) | exact .inr (Part.in_of hL (by decide)) | with_reducible exact .inl rfl
    | with_reducible apply State.onResil_within | with_reducible apply State.readPartner_within | split
    | with_reducible apply State.within_upd

theorem State.readBody_within {s0 : State} {L : List Part} {s : State} {set : Bool} (hw : s0.within L s) (hL : [.draws, .logs, .links,
    .resil] ⊆ L) :
    s0.within L (State.readBody s set) := by
  unfold State.readBody
  try dsimp only
  repeat' first
    | with_reducible assumption | exact Part.sub_of hL (by decide) | exact .inr (Part.in_of hL (by decide)) | with_reducible exact .inl rfl
    | with_reducible apply State.awaitBody_within | with_reducible apply State.onRestore_within | with_reducible apply State.readSet_within
    | with_reducible apply State.within_ite | with_reducible apply State.within_upd

theorem State.loadCounts_within {s0 : State} {L : List Part} {s : State} {us : Nat → Nat} (hw : s0.within L s) (hL : [.train] ⊆ L) :
    s0.within L (State.loadCounts s us) := by
  unfold State.loadCounts
  try dsimp only
  repeat' first
    | with_reducible assumption | exact Part.sub_of hL (by decide) | exact .inr (Part.in_of hL (by decide)) | with_reducible exact .inl rfl
    | with_reducible apply State.onTrain_within | with_reducible apply State.within_upd

theorem State.loadTables_within {s0 : State} {L : List Part} {s : State} {live : Nat} {layout : Nat} {lgen : Nat} (hw : s0.within L s) (hL
    : [.tables] ⊆ L) :
    s0.within L (State.loadTables s live layout lgen) := by
  unfold State.loadTables
  try dsimp only
  repeat' first
    | with_reducible assumption | exact Part.sub_of hL (by decide) | exact .inr (Part.in_of hL (by decide)) | with_reducible exact .inl rfl
    | with_reducible apply State.onTables_within | with_reducible apply State.within_upd

theorem State.loadTraining_within {s0 : State} {L : List Part} {s : State} {v : Nat} {c : Nat} {avg : Word} {avgSet : Bool} (hw :
    s0.within L s) (hL : [.run, .train, .cascade] ⊆ L) :
    s0.within L (State.loadTraining s v c avg avgSet) := by
  unfold State.loadTraining
  try dsimp only
  repeat' first
    | with_reducible assumption | exact Part.sub_of hL (by decide) | exact .inr (Part.in_of hL (by decide)) | with_reducible exact .inl rfl
    | with_reducible apply State.onCascade_within | with_reducible apply State.onRun_within | with_reducible apply State.onTrain_within
    | with_reducible apply State.within_upd

theorem State.applySet_within {s0 : State} {L : List Part} {s : State} (hw : s0.within L s) (hL : [.run, .memory, .tables, .train,
    .cascade, .resil, .bytes] ⊆ L) :
    s0.within L (State.applySet s) := by
  unfold State.applySet
  try dsimp only
  repeat' first
    | with_reducible assumption | exact Part.sub_of hL (by decide) | with_reducible apply State.loadCounts_within
    | with_reducible apply State.loadDense_within | with_reducible apply State.loadRows_within
    | with_reducible apply State.loadTables_within | with_reducible apply State.loadTraining_within
    | with_reducible apply State.markAllDirty_within

theorem State.loadCursor_within {s0 : State} {L : List Part} {s : State} {i : Nat} {v : Nat} (hw : s0.within L s) (hL : [.logs, .cursors]
    ⊆ L) :
    s0.within L (State.loadCursor s i v) := by
  unfold State.loadCursor
  try dsimp only
  repeat' first
    | with_reducible assumption | exact Part.sub_of hL (by decide) | with_reducible apply State.logDevice_within
    | with_reducible apply State.onCursor_within | with_reducible apply State.within_ite

theorem State.loadTags_within {s0 : State} {L : List Part} {s : State} {v : Nat} (hw : s0.within L s) (hL : [.blocks, .resil] ⊆ L) :
    s0.within L (State.loadTags s v) := by
  unfold State.loadTags
  try dsimp only
  repeat' first
    | with_reducible assumption | exact Part.sub_of hL (by decide) | exact .inr (Part.in_of hL (by decide)) | with_reducible exact .inl rfl
    | with_reducible apply State.advanceEngines_within | with_reducible apply State.onResil_within | with_reducible apply State.within_upd

theorem State.loadSet_within {s0 : State} {L : List Part} {s : State} (hw : s0.within L s) (hL : [.logs, .run, .memory, .tables, .cursors,
    .train, .blocks, .cascade, .resil, .bytes] ⊆ L) :
    s0.within L (State.loadSet s) := by
  unfold State.loadSet
  try dsimp only
  repeat' first
    | with_reducible assumption | exact Part.sub_of hL (by decide) | exact .inr (Part.in_of hL (by decide)) | with_reducible exact .inl rfl
    | with_reducible apply State.applySet_within | with_reducible apply State.failRestore_within
    | with_reducible apply State.loadCursor_within | with_reducible apply State.loadTags_within
    | with_reducible apply State.onRestore_within | with_reducible apply State.within_ite | with_reducible apply State.within_upd

theorem State.chooseSet_within {s0 : State} {L : List Part} {s : State} (hw : s0.within L s) (hL : [.draws, .logs, .memory, .links,
    .resil, .bytes] ⊆ L) :
    s0.within L (State.chooseSet s) := by
  unfold State.chooseSet
  try dsimp only
  repeat' first
    | with_reducible assumption | exact Part.sub_of hL (by decide) | exact .inr (Part.in_of hL (by decide)) | with_reducible exact .inl rfl
    | intro _ | with_reducible apply State.failRestore_within | with_reducible apply State.onRestore_within
    | with_reducible apply State.readBody_within | with_reducible apply State.within_fold | with_reducible apply State.within_ite | split
    | with_reducible apply State.within_upd

theorem State.rejoinPoll_within {s0 : State} {L : List Part} {s : State} (hw : s0.within L s) (hL : [.logs, .links, .resil] ⊆ L) :
    s0.within L (State.rejoinPoll s) := by
  unfold State.rejoinPoll
  try dsimp only
  repeat' first
    | with_reducible assumption | exact Part.sub_of hL (by decide) | with_reducible apply State.askLines_within
    | with_reducible apply State.await_within

theorem State.rejoinBuffer_within {s0 : State} {L : List Part} {s : State} (hw : s0.within L s) (hL : [.logs, .links, .resil] ⊆ L) :
    s0.within L (State.rejoinBuffer s) := by
  unfold State.rejoinBuffer
  try dsimp only
  repeat' first
    | with_reducible assumption | exact Part.sub_of hL (by decide) | intro _ | with_reducible apply State.askLines_within
    | with_reducible apply State.awaitNext_within | with_reducible apply State.rejoinPoll_within | with_reducible apply State.within_fold
    | with_reducible apply State.within_ite | split

theorem State.rejoinAsk_within {s0 : State} {L : List Part} {s : State} (hw : s0.within L s) (hL : [.logs, .links, .resil] ⊆ L) :
    s0.within L (State.rejoinAsk s) := by
  unfold State.rejoinAsk
  try dsimp only
  repeat' first
    | with_reducible assumption | exact Part.sub_of hL (by decide) | with_reducible apply State.askLines_within
    | with_reducible apply State.awaitNext_within

theorem State.rejoinApply_within {s0 : State} {L : List Part} {s : State} (hw : s0.within L s) (hL : [.dial, .logs, .run, .mbs, .sched,
    .memory, .tables, .cursors, .train, .cascade, .resil, .bytes] ⊆ L) :
    s0.within L (State.rejoinApply s) := by
  unfold State.rejoinApply
  try dsimp only
  repeat' first
    | with_reducible assumption | exact Part.sub_of hL (by decide) | exact .inr (Part.in_of hL (by decide)) | with_reducible exact .inl rfl
    | with_reducible apply State.failRestore_within | with_reducible apply State.loadCounts_within
    | with_reducible apply State.loadCursor_within | with_reducible apply State.loadDense_within
    | with_reducible apply State.loadRows_within | with_reducible apply State.loadTables_within
    | with_reducible apply State.loadTraining_within | with_reducible apply State.markAllDirty_within
    | with_reducible apply State.onRestore_within | with_reducible apply State.onRun_within | with_reducible apply State.onTrain_within
    | with_reducible apply State.reformBatches_within | with_reducible apply State.settle_within | with_reducible apply State.within_ite
    | with_reducible apply State.within_upd

theorem State.stageEnd_within {s0 : State} {L : List Part} {s : State} (hw : s0.within L s) (hL : [.draws, .dial, .logs, .run, .mbs,
    .sched, .memory, .tables, .cursors, .train, .blocks, .cascade, .links, .resil, .bytes] ⊆ L) :
    s0.within L (State.stageEnd s) := by
  unfold State.stageEnd
  try dsimp only
  repeat' first
    | with_reducible assumption | exact Part.sub_of hL (by decide) | exact .inr (Part.in_of hL (by decide)) | with_reducible exact .inl rfl
    | with_reducible apply State.chooseSet_within | with_reducible apply State.loadSet_within | with_reducible apply State.onRestore_within
    | with_reducible apply State.rejoinApply_within | with_reducible apply State.rejoinBuffer_within
    | with_reducible apply State.rejoinPoll_within | with_reducible apply State.within_ite | split | with_reducible apply State.within_upd

theorem State.stagesEnd_within {s0 : State} {L : List Part} {s : State} (hw : s0.within L s) (hL : [.draws, .dial, .logs, .run, .mbs,
    .sched, .memory, .tables, .cursors, .train, .blocks, .cascade, .links, .resil, .bytes] ⊆ L) :
    s0.within L (State.stagesEnd s) := by
  unfold State.stagesEnd
  try dsimp only
  repeat' first
    | with_reducible assumption | exact Part.sub_of hL (by decide) | with_reducible apply State.stageEnd_within

theorem State.beginRestore_within {s0 : State} {L : List Part} {s : State} {source : Nat} {set : Nat} {rejoin : Bool} (hw : s0.within L s)
    (hL : [.draws, .dial, .logs, .run, .mbs, .sched, .memory, .tables, .cursors, .train, .blocks, .cascade, .links, .resil, .bytes] ⊆ L) :
    s0.within L (State.beginRestore s source set rejoin) := by
  unfold State.beginRestore
  try dsimp only
  repeat' first
    | with_reducible assumption | exact Part.sub_of hL (by decide) | exact .inr (Part.in_of hL (by decide)) | with_reducible exact .inl rfl
    | with_reducible apply State.await_within | with_reducible apply State.awaitBody_within | with_reducible apply State.failRestore_within
    | with_reducible apply State.onResil_within | with_reducible apply State.onRestore_within | with_reducible apply State.readBody_within
    | with_reducible apply State.readPartner_within | with_reducible apply State.stagesEnd_within | with_reducible apply State.within_ite
    | with_reducible apply State.within_upd

theorem State.writeCtl_within {s0 : State} {L : List Part} {s : State} {v : Nat} (hw : s0.within L s) (hL : [.draws, .dial, .logs, .run,
    .mbs, .sched, .memory, .tables, .cursors, .train, .blocks, .cascade, .links, .resil, .bytes] ⊆ L) :
    s0.within L (State.writeCtl s v) := by
  unfold State.writeCtl
  try dsimp only
  repeat' first
    | with_reducible assumption | exact Part.sub_of hL (by decide) | exact .inr (Part.in_of hL (by decide)) | with_reducible exact .inl rfl
    | with_reducible apply State.beginRestore_within | with_reducible apply State.onRestore_within | with_reducible apply State.within_ite
    | with_reducible apply State.within_upd

theorem State.ctlRequest_within {s0 : State} {L : List Part} {s : State} {h : HkHeader} {v : Nat} (hw : s0.within L s) (hL : [.draws,
    .dial, .logs, .run, .mbs, .sched, .memory, .tables, .cursors, .train, .blocks, .cascade, .links, .resil, .bytes] ⊆ L) :
    s0.within L (State.ctlRequest s h v) := by
  unfold State.ctlRequest
  try dsimp only
  repeat' first
    | with_reducible assumption | exact Part.sub_of hL (by decide) | intro _ | with_reducible apply State.complete_within
    | with_reducible apply State.request_within | with_reducible apply State.writeCtl_within

theorem State.beginRollback_within {s0 : State} {L : List Part} {s : State} (hw : s0.within L s) (hL : [.draws, .dial, .logs, .run, .mbs,
    .sched, .memory, .tables, .cursors, .train, .blocks, .cascade, .links, .resil, .bytes] ⊆ L) :
    s0.within L (State.beginRollback s).1 := by
  unfold State.beginRollback
  try dsimp only
  repeat' first
    | with_reducible assumption | exact Part.sub_of hL (by decide) | exact .inr (Part.in_of hL (by decide)) | with_reducible exact .inl rfl
    | with_reducible apply State.logDevice_within | with_reducible apply State.onRestore_within
    | with_reducible apply State.readBody_within | with_reducible apply State.stagesEnd_within | with_reducible apply State.within_ite
    | split | with_reducible apply State.within_upd

theorem State.restorePending_within {s0 : State} {L : List Part} {s : State} {start : Nat} (hw : s0.within L s) (hL : [.run] ⊆ L) :
    s0.within L (State.restorePending s start) := by
  unfold State.restorePending
  try dsimp only
  repeat' first
    | with_reducible assumption | exact Part.sub_of hL (by decide) | exact .inr (Part.in_of hL (by decide)) | with_reducible exact .inl rfl
    | with_reducible apply State.onRun_within | with_reducible apply State.within_ite | with_reducible apply State.within_upd

theorem State.restoreSeed_within {s0 : State} {L : List Part} {s : State} {start : Nat} (hw : s0.within L s) (hL : [.logs, .memory,
    .links, .bytes] ⊆ L) :
    s0.within L (State.restoreSeed s start) := by
  unfold State.restoreSeed
  try dsimp only
  repeat' first
    | with_reducible assumption | exact Part.sub_of hL (by decide) | with_reducible apply State.placeStore_within
    | with_reducible apply State.within_ite | split

theorem State.replayCheck_within {s0 : State} {L : List Part} {s : State} {l : Option Word} {n : Nat} (hw : s0.within L s) (hL : [.dial,
    .logs, .train, .resil] ⊆ L) :
    s0.within L (State.replayCheck s l n) := by
  unfold State.replayCheck
  try dsimp only
  repeat' first
    | with_reducible assumption | exact Part.sub_of hL (by decide) | exact .inr (Part.in_of hL (by decide)) | with_reducible exact .inl rfl
    | with_reducible apply State.haltAtBoundary_within | with_reducible apply State.logDevice_within
    | with_reducible apply State.onRestore_within | with_reducible apply State.onTrain_within | with_reducible apply State.within_ite
    | with_reducible apply State.within_upd

theorem State.replayEnd_within {s0 : State} {L : List Part} {s : State} (hw : s0.within L s) (hL : [.resil] ⊆ L) :
    s0.within L (State.replayEnd s) := by
  unfold State.replayEnd
  try dsimp only
  repeat' first
    | with_reducible assumption | exact Part.sub_of hL (by decide) | exact .inr (Part.in_of hL (by decide)) | with_reducible exact .inl rfl
    | with_reducible apply State.onRestore_within | with_reducible apply State.within_ite | with_reducible apply State.within_upd

theorem State.nvmeFailed_within {s0 : State} {L : List Part} {s : State} {c : NvmeCommand} (hw : s0.within L s) (hL : [.logs, .memory,
    .resil, .bytes] ⊆ L) :
    s0.within L (State.nvmeFailed s c) := by
  unfold State.nvmeFailed
  try dsimp only
  repeat' first
    | with_reducible assumption | exact Part.sub_of hL (by decide) | exact .inr (Part.in_of hL (by decide)) | with_reducible exact .inl rfl
    | with_reducible apply State.failRestore_within | with_reducible apply State.logDevice_within
    | with_reducible apply State.onResil_within | with_reducible apply State.within_ite | with_reducible apply State.within_upd

theorem State.ckptPacket_within {s0 : State} {L : List Part} {s : State} {h : HkHeader} {flitsOk : Bool} {act : State → State} (hw :
    s0.within L s) (hact : ∀ (x0 : State), s0.within L x0 → s0.within L (act x0)) (hL : [.logs, .links] ⊆ L) :
    s0.within L (State.ckptPacket s h flitsOk act) := by
  unfold State.ckptPacket
  try dsimp only
  repeat' first
    | with_reducible assumption | exact Part.sub_of hL (by decide) | exact .inr (Part.in_of hL (by decide)) | with_reducible exact .inl rfl
    | intro _ | with_reducible apply hact | with_reducible apply State.linkProtocol_within | with_reducible apply State.logDevice_within
    | with_reducible apply State.onPort_within | with_reducible apply State.within_ite | split | with_reducible apply State.within_upd

theorem State.onHang_within {s0 : State} {L : List Part} {s : State} {i : Nat} {f : HangRecord → HangRecord} (hw : s0.within L s) (hL :
    [.resil] ⊆ L) :
    s0.within L (State.onHang s i f) := by
  unfold State.onHang
  try dsimp only
  repeat' first
    | with_reducible assumption | exact Part.sub_of hL (by decide) | exact .inr (Part.in_of hL (by decide)) | with_reducible exact .inl rfl
    | with_reducible apply State.onResil_within | with_reducible apply State.within_upd

theorem State.loseStores_within {s0 : State} {L : List Part} {s : State} {f : Nat → Bool} (hw : s0.within L s) (hL : [.memory, .bytes] ⊆
    L) :
    s0.within L (State.loseStores s f) := by
  exact State.withMem_within (Memory.filter_wf (m := s.memory.mem) fun k => !(k / 2 ^ 48 == 4 && f (k % 2 ^ 48))) hw hL

theorem State.dropDomain_within {s0 : State} {L : List Part} {s : State} {xs : List (Nat × Nat × TaskContext)} (hw : s0.within L s) (hL :
    [.dial, .logs, .mbs, .sched, .memory, .gather, .train, .blocks] ⊆ L) :
    s0.within L (State.dropDomain s xs) := by
  unfold State.dropDomain
  try dsimp only
  repeat' first
    | with_reducible assumption | exact Part.sub_of hL (by decide) | exact .inr (Part.in_of hL (by decide)) | with_reducible exact .inl rfl
    | intro _ | with_reducible apply State.dropMb_within | with_reducible apply State.endDropped_within
    | with_reducible apply State.freeCtx_within | with_reducible apply State.haltAtBoundary_within
    | with_reducible apply State.onRegion_within | with_reducible apply State.runFills_within | with_reducible apply State.within_fold
    | with_reducible apply State.within_ite | with_reducible apply State.within_upd

theorem State.dropSegments_within {s0 : State} {L : List Part} {s : State} {b : Nat} (hw : s0.within L s) (hL : [.dial, .logs, .mbs,
    .sched, .gather, .train, .blocks] ⊆ L) :
    s0.within L (State.dropSegments s b) := by
  unfold State.dropSegments
  try dsimp only
  repeat' first
    | with_reducible assumption | exact Part.sub_of hL (by decide) | intro _ | with_reducible apply State.dropMb_within
    | with_reducible apply State.within_fold

theorem State.dropCompressing_within {s0 : State} {L : List Part} {s : State} {r : Nat} (hw : s0.within L s) (hL : [.dial, .logs, .mbs,
    .sched, .gather, .train, .blocks] ⊆ L) :
    s0.within L (State.dropCompressing s r) := by
  unfold State.dropCompressing
  try dsimp only
  repeat' first
    | with_reducible assumption | exact Part.sub_of hL (by decide) | intro _ | with_reducible apply State.dropMb_within
    | with_reducible apply State.within_fold

theorem State.loseSpouts_within {s0 : State} {L : List Part} {s : State} {f : Nat → Bool} (hw : s0.within L s) (hL : [.memory] ⊆ L) :
    s0.within L (State.loseSpouts s f) := by
  unfold State.loseSpouts
  try dsimp only
  repeat' first
    | with_reducible assumption | exact Part.sub_of hL (by decide) | exact .inr (Part.in_of hL (by decide)) | with_reducible exact .inl rfl
    | with_reducible rfl | exact Memory.setPoison_wf _ _ | with_reducible apply State.onMemory_within
    | with_reducible apply State.within_upd

theorem State.resetDrain_within {s0 : State} {L : List Part} {s : State} (hw : s0.within L s) (hL : [.resil] ⊆ L) :
    s0.within L (State.resetDrain s) := by
  unfold State.resetDrain
  try dsimp only
  repeat' first
    | with_reducible assumption | exact Part.sub_of hL (by decide) | exact .inr (Part.in_of hL (by decide)) | with_reducible exact .inl rfl
    | with_reducible apply State.onResil_within | with_reducible apply State.onTarget_within | with_reducible apply State.within_ite
    | with_reducible apply State.within_upd

theorem State.resetEngine_within {s0 : State} {L : List Part} {s : State} {u : WatchedUnit} (hw : s0.within L s) (hL : [.dial, .logs,
    .mbs, .sched, .memory, .gather, .train, .blocks, .cascade, .links, .resil, .bytes] ⊆ L) :
    s0.within L (State.resetEngine s u) := by
  unfold State.resetEngine
  try dsimp only
  repeat' first
    | with_reducible assumption | exact Part.sub_of hL (by decide) | exact .inr (Part.in_of hL (by decide)) | with_reducible exact .inl rfl
    | intro _ | with_reducible apply State.dropCompressing_within | with_reducible apply State.loseSpouts_within
    | with_reducible apply State.nvmeFailed_within | with_reducible apply State.onBlock_within
    | with_reducible apply State.onController_within | with_reducible apply State.onEngine_within
    | with_reducible apply State.onGather_within | with_reducible apply State.onLinks_within | with_reducible apply State.onPort_within
    | with_reducible apply State.resetDrain_within | with_reducible apply State.within_fold | with_reducible apply State.within_ite | split
    | with_reducible apply State.within_upd

theorem State.resetBlock_within {s0 : State} {L : List Part} {s : State} {b : Nat} (hw : s0.within L s) (hL : [.memory, .blocks, .bytes] ⊆
    L) :
    s0.within L (State.resetBlock s b) := by
  unfold State.resetBlock
  try dsimp only
  repeat' first
    | with_reducible assumption | exact Part.sub_of hL (by decide) | exact .inr (Part.in_of hL (by decide)) | with_reducible exact .inl rfl
    | with_reducible apply State.loseStores_within | with_reducible apply State.onBlock_within | with_reducible apply State.within_upd

theorem State.resetRegion_within {s0 : State} {L : List Part} {s : State} {r : Nat} (hw : s0.within L s) (hL : [.sched, .memory, .tables,
    .gather, .blocks, .bytes] ⊆ L) :
    s0.within L (State.resetRegion s r) := by
  unfold State.resetRegion
  try dsimp only
  repeat' first
    | with_reducible assumption | exact Part.sub_of hL (by decide) | exact .inr (Part.in_of hL (by decide)) | with_reducible exact .inl rfl
    | intro _ | with_reducible apply State.loseSpouts_within | with_reducible apply State.loseStores_within
    | with_reducible apply State.onGather_within | with_reducible apply State.onRegion_within | with_reducible apply State.onTables_within
    | with_reducible apply State.resetBlock_within | with_reducible apply State.within_fold | with_reducible apply State.within_ite
    | with_reducible apply State.within_upd

theorem State.advanceTags_within {s0 : State} {L : List Part} {s : State} {u : WatchedUnit} {k : Nat} (hw : s0.within L s) (hL : [.blocks,
    .resil] ⊆ L) :
    s0.within L (State.advanceTags s u k) := by
  unfold State.advanceTags
  try dsimp only
  repeat' first
    | with_reducible assumption | exact Part.sub_of hL (by decide) | exact .inr (Part.in_of hL (by decide)) | with_reducible exact .inl rfl
    | intro _ | with_reducible apply State.advanceEngines_within | with_reducible apply State.onBlock_within
    | with_reducible apply State.onResil_within | with_reducible apply State.within_fold | split | with_reducible apply State.within_upd

theorem State.resetDevice_within {s0 : State} {L : List Part} {s : State} (hw : s0.within L s) (hL : [.power, .start, .staging, .cfg,
    .dial, .logs, .run, .mbs, .sched, .cores, .memory, .tables, .cursors, .rambler, .gather, .train, .blocks, .cascade, .links, .resil,
    .bytes] ⊆ L) :
    s0.within L (State.resetDevice s) := by
  unfold State.resetDevice
  try dsimp only
  repeat' first
    | with_reducible assumption | exact Part.sub_of hL (by decide) | exact .inr (Part.in_of hL (by decide)) | with_reducible exact .inl rfl
    | with_reducible apply State.advanceEngines_within | with_reducible apply State.loseDevice_within
    | with_reducible apply State.onResil_within | with_reducible apply State.within_upd

theorem State.beginRung_within {s0 : State} {L : List Part} {s : State} {l : Ladder} {k : Nat} (hw : s0.within L s) (hL : [.power, .start,
    .staging, .cfg, .dial, .logs, .run, .mbs, .sched, .cores, .memory, .tables, .cursors, .rambler, .gather, .train, .blocks, .cascade,
    .links, .resil, .bytes] ⊆ L) :
    s0.within L (State.beginRung s l k) := by
  unfold State.beginRung
  try dsimp only
  repeat' first
    | with_reducible assumption | exact Part.sub_of hL (by decide) | exact .inr (Part.in_of hL (by decide)) | with_reducible exact .inl rfl
    | with_reducible apply State.dropDomain_within | with_reducible apply State.dropSegments_within
    | with_reducible apply State.onHang_within | with_reducible apply State.onResil_within | with_reducible apply State.resetBlock_within
    | with_reducible apply State.resetDevice_within | with_reducible apply State.resetEngine_within
    | with_reducible apply State.resetRegion_within | with_reducible apply State.settle_within | with_reducible apply State.within_ite
    | split | with_reducible apply State.within_upd

theorem State.endCollection_within {s0 : State} {L : List Part} {s : State} {whole : Bool} (hw : s0.within L s) (hL : [.draws, .power,
    .start, .staging, .cfg, .dial, .logs, .run, .mbs, .sched, .cores, .memory, .tables, .cursors, .rambler, .gather, .train, .blocks,
    .cascade, .links, .resil, .bytes] ⊆ L) :
    s0.within L (State.endCollection s whole) := by
  unfold State.endCollection
  try dsimp only
  repeat' first
    | with_reducible assumption | exact Part.sub_of hL (by decide) | exact .inr (Part.in_of hL (by decide)) | with_reducible exact .inl rfl
    | with_reducible apply State.beginRung_within | with_reducible apply State.draw_within | with_reducible apply State.onResil_within
    | with_reducible apply State.within_ite | split | with_reducible apply State.within_upd

theorem State.onSegment_within {s0 : State} {L : List Part} {s : State} {b : Nat} {g : Segment} {f : Segment → Segment} (hw : s0.within L
    s) (hL : [.blocks] ⊆ L) :
    s0.within L (State.onSegment s b g f) := by
  unfold State.onSegment
  try dsimp only
  repeat' first
    | with_reducible assumption | exact Part.sub_of hL (by decide) | exact .inr (Part.in_of hL (by decide)) | with_reducible exact .inl rfl
    | with_reducible apply State.onBlock_within | with_reducible apply State.within_ite | with_reducible apply State.within_upd

theorem State.basinPut_within {s0 : State} {L : List Part} {s : State} {b : Nat} {g : Segment} {r : Nat} {vs : List (Nat × BitVec 32 ×
    BitVec 32)} (hw : s0.within L s) (hL : [.memory, .blocks, .bytes] ⊆ L) :
    s0.within L (State.basinPut s b g r vs) := by
  unfold State.basinPut
  try dsimp only
  repeat' first
    | with_reducible assumption | exact Part.sub_of hL (by decide) | exact .inr (Part.in_of hL (by decide)) | with_reducible exact .inl rfl
    | intro _ | with_reducible apply State.onSegment_within | with_reducible apply State.store_within
    | with_reducible apply State.within_fold | with_reducible apply State.within_ite | with_reducible apply State.within_upd

theorem State.clearSelectCounters_within {s0 : State} {L : List Part} {s : State} (hw : s0.within L s) (hL : [.logs, .run, .sched,
    .memory, .cursors, .rambler, .gather, .train, .blocks, .cascade, .resil] ⊆ L) :
    s0.within L (State.clearSelectCounters s) := by
  unfold State.clearSelectCounters
  try dsimp only
  repeat' first
    | with_reducible assumption | exact Part.sub_of hL (by decide) | exact .inr (Part.in_of hL (by decide)) | with_reducible exact .inl rfl
    | with_reducible apply State.within_upd

theorem State.selectSlot_within {s0 : State} {L : List Part} {s : State} {slot : BitVec 2} (hw : s0.within L s) (hL : [.flash, .start,
    .logs, .run, .mbs, .sched, .memory, .tables, .cursors, .rambler, .gather, .train, .blocks, .cascade, .resil] ⊆ L) :
    s0.within L (State.selectSlot s slot) := by
  unfold State.selectSlot
  try dsimp only
  repeat' first
    | with_reducible assumption | exact Part.sub_of hL (by decide) | exact .inr (Part.in_of hL (by decide)) | with_reducible exact .inl rfl
    | intro _ | with_reducible apply State.clearSelectCounters_within | with_reducible apply State.markAllDirty_within
    | with_reducible apply State.onRun_within | with_reducible apply State.onTrain_within | with_reducible apply State.runStep_within
    | with_reducible apply State.within_upd

theorem State.answerRun_within {s0 : State} {L : List Part} {s : State} {h : HkHeader} {fs : List (Nat × Nat)} {act : State → State} (hw :
    s0.within L s) (hact : ∀ (x0 : State), s0.within L x0 → s0.within L (act x0)) (hL : [.logs, .links] ⊆ L) :
    s0.within L (State.answerRun s h fs act) := by
  unfold State.answerRun
  try dsimp only
  repeat' first
    | with_reducible assumption | exact Part.sub_of hL (by decide) | intro _ | with_reducible apply hact
    | with_reducible apply State.complete_within | split

theorem State.stopPaused_within {s0 : State} {L : List Part} {s : State} (hw : s0.within L s) (hL : [.run, .tables, .train, .resil] ⊆ L) :
    s0.within L (State.stopPaused s) := by
  unfold State.stopPaused
  try dsimp only
  repeat' first
    | with_reducible assumption | exact Part.sub_of hL (by decide) | exact .inr (Part.in_of hL (by decide)) | with_reducible exact .inl rfl
    | intro _ | with_reducible apply State.applyHandOver_within | with_reducible apply State.onRun_within
    | with_reducible apply State.within_elim | with_reducible apply State.within_upd

theorem State.runEffect_within {s0 : State} {L : List Part} {s : State} {c : Instr} (hw : s0.within L s)
    (hL : [.flash, .start, .logs, .run, .mbs, .sched, .memory, .tables, .cursors, .rambler, .gather, .train, .blocks, .cascade, .resil] ⊆ L) : s0.within L (s.runEffect c) := by
  cases c <;> unfold State.runEffect <;> dsimp only
  all_goals
    repeat' first
      | with_reducible assumption | exact Part.sub_of hL (by decide) | with_reducible apply State.selectSlot_within
      | with_reducible apply State.onRun_within | with_reducible apply State.stopPaused_within | with_reducible apply State.within_ite

theorem State.runRequest_within {s0 : State} {L : List Part} {s : State} {h : HkHeader} {c : Instr} (hw : s0.within L s) (hL : [.flash,
    .start, .logs, .run, .mbs, .sched, .memory, .tables, .cursors, .rambler, .gather, .train, .blocks, .cascade, .links, .resil] ⊆ L) :
    s0.within L (State.runRequest s h c) := by
  unfold State.runRequest
  try dsimp only
  repeat' first
    | with_reducible assumption | exact Part.sub_of hL (by decide) | intro _ | with_reducible apply State.complete_within
    | with_reducible apply State.runEffect_within | with_reducible apply State.hold_within | with_reducible apply State.request_within | with_reducible apply State.within_ite

theorem State.reportSlack_within {s0 : State} {L : List Part} {s : State} (hw : s0.within L s) (hL : [.dial, .links] ⊆ L) :
    s0.within L (State.reportSlack s) := by
  unfold State.reportSlack
  try dsimp only
  repeat' first
    | with_reducible assumption | exact Part.sub_of hL (by decide) | exact .inr (Part.in_of hL (by decide)) | with_reducible exact .inl rfl
    | intro _ | with_reducible apply State.onDial_within | with_reducible apply State.sendUp_within | with_reducible apply State.within_ite
    | with_reducible apply State.within_elim | split | with_reducible apply State.within_upd

theorem State.writeTaps_within {s0 : State} {L : List Part} {s : State} (hw : s0.within L s) (hL : [.train] ⊆ L) :
    s0.within L (State.writeTaps s) := by
  unfold State.writeTaps
  try dsimp only
  repeat' first
    | with_reducible assumption | exact Part.sub_of hL (by decide) | exact .inr (Part.in_of hL (by decide)) | with_reducible exact .inl rfl
    | with_reducible apply State.onTrain_within | with_reducible apply State.within_ite | split | with_reducible apply State.within_upd

theorem State.noise_within {s0 : State} {L : List Part} {s : State} (hw : s0.within L s) (hL : [.cascade] ⊆ L) :
    s0.within L (State.noise s).1 := by
  unfold State.noise
  try dsimp only
  repeat' first
    | with_reducible assumption | exact Part.sub_of hL (by decide) | exact .inr (Part.in_of hL (by decide)) | with_reducible exact .inl rfl
    | with_reducible apply State.onCascade_within | split | with_reducible apply State.within_upd

theorem State.advanceCursor_within {s0 : State} {L : List Part} {s : State} (hw : s0.within L s) (hL : [.cursors] ⊆ L) :
    s0.within L (State.advanceCursor s) := by
  unfold State.advanceCursor
  try dsimp only
  repeat' first
    | with_reducible assumption | exact Part.sub_of hL (by decide) | with_reducible apply State.onCursor_within
    | with_reducible apply State.within_ite | split

theorem State.haltNow_within {s0 : State} {L : List Part} {s : State} {cause : BitVec 3} (hw : s0.within L s) (hL : [.run] ⊆ L) :
    s0.within L (State.haltNow s cause) := by
  unfold State.haltNow
  try dsimp only
  repeat' first
    | with_reducible assumption | exact Part.sub_of hL (by decide) | exact .inr (Part.in_of hL (by decide)) | with_reducible exact .inl rfl
    | with_reducible apply State.onRun_within | with_reducible apply State.within_upd

theorem State.handOverNow_within {s0 : State} {L : List Part} {s : State} {h : Option HandOver} (hw : s0.within L s) (hL : [.run, .tables,
    .cursors, .train, .cascade, .resil] ⊆ L) :
    s0.within L (State.handOverNow s h) := by
  unfold State.handOverNow
  try dsimp only
  repeat' first
    | with_reducible assumption | exact Part.sub_of hL (by decide) | with_reducible apply State.applyCount_within
    | with_reducible apply State.applyHandOver_within | split

theorem State.takeCommands_within {s0 : State} {L : List Part} {s : State} {t : Nat} {h : Option HandOver} (hw : s0.within L s) (hL :
    [.run, .tables, .cursors, .train, .cascade, .resil] ⊆ L) :
    s0.within L (State.takeCommands s t h) := by
  unfold State.takeCommands
  try dsimp only
  repeat' first
    | with_reducible assumption | exact Part.sub_of hL (by decide) | exact .inr (Part.in_of hL (by decide)) | with_reducible exact .inl rfl
    | intro _ | with_reducible apply State.applyHandOver_within | with_reducible apply State.handOverNow_within
    | with_reducible apply State.onRun_within | with_reducible apply State.stopPaused_within | with_reducible apply State.within_ite
    | with_reducible apply State.within_elim | with_reducible apply State.within_upd

theorem State.rollBack_within {s0 : State} {L : List Part} {s : State} (hw : s0.within L s) (hL : [.draws, .dial, .logs, .run, .mbs,
    .sched, .memory, .tables, .cursors, .train, .blocks, .cascade, .links, .resil, .bytes] ⊆ L) :
    s0.within L (State.rollBack s) := by
  unfold State.rollBack
  try dsimp only
  repeat' first
    | with_reducible assumption | exact Part.sub_of hL (by decide) | exact .inr (Part.in_of hL (by decide)) | with_reducible exact .inl rfl
    | with_reducible apply State.beginRollback_within | with_reducible apply State.haltNow_within
    | with_reducible apply State.onTrain_within | with_reducible apply State.within_ite
    | with_reducible refine State.within_fst (by assumption) ?_ | with_reducible apply State.within_upd

theorem State.startRun_within {s0 : State} {L : List Part} {s : State} (hw : s0.within L s) (hL : [.logs, .run, .memory, .tables,
    .cursors, .train, .cascade, .links, .resil, .bytes] ⊆ L) :
    s0.within L (State.startRun s) := by
  unfold State.startRun
  try dsimp only
  repeat' first
    | with_reducible assumption | exact Part.sub_of hL (by decide) | exact .inr (Part.in_of hL (by decide)) | with_reducible exact .inl rfl
    | with_reducible apply State.applyCount_within | with_reducible apply State.failRestore_within
    | with_reducible apply State.handOverNow_within | with_reducible apply State.onRestore_within | with_reducible apply State.onRun_within
    | with_reducible apply State.rejoinAsk_within | with_reducible apply State.restorePending_within
    | with_reducible apply State.within_ite | split | with_reducible apply State.within_upd

theorem State.clearStep_within {s0 : State} {L : List Part} {s : State} (hw : s0.within L s) (hL : [.dial, .mbs, .sched, .memory, .tables,
    .gather, .train, .cascade, .links, .resil] ⊆ L) :
    s0.within L (State.clearStep s) := by
  unfold State.clearStep
  try dsimp only
  repeat' first
    | with_reducible assumption | exact Part.sub_of hL (by decide) | exact .inr (Part.in_of hL (by decide)) | with_reducible exact .inl rfl
    | intro _ | with_reducible apply State.onCascade_within | with_reducible apply State.onDial_within
    | with_reducible apply State.onTables_within | with_reducible apply State.onTrain_within | with_reducible apply State.within_ite
    | with_reducible apply State.within_elim | with_reducible apply State.within_upd

theorem State.formBatches_within {s0 : State} {L : List Part} {s : State} (hw : s0.within L s) (hL : [.run, .mbs] ⊆ L) :
    s0.within L (State.formBatches s) := by
  unfold State.formBatches
  try dsimp only
  repeat' first
    | with_reducible assumption | exact Part.sub_of hL (by decide) | exact .inr (Part.in_of hL (by decide)) | with_reducible exact .inl rfl
    | with_reducible apply State.onRun_within | with_reducible apply State.within_ite | split | with_reducible apply State.within_upd

theorem State.newInstances_within {s0 : State} {L : List Part} {s : State} (hw : s0.within L s) (hL : [.dial] ⊆ L) :
    s0.within L (State.newInstances s) := by
  unfold State.newInstances
  try dsimp only
  repeat' first
    | with_reducible assumption | exact Part.sub_of hL (by decide) | exact .inr (Part.in_of hL (by decide)) | with_reducible exact .inl rfl
    | with_reducible apply State.onDial_within | with_reducible apply State.within_upd

theorem State.prepareStart_within {s0 : State} {L : List Part} {s : State} (hw : s0.within L s) (hL : [.logs, .memory, .links, .resil,
    .bytes] ⊆ L) :
    s0.within L (State.prepareStart s) := by
  unfold State.prepareStart
  try dsimp only
  repeat' first
    | with_reducible assumption | exact Part.sub_of hL (by decide) | with_reducible apply State.rejoinPoll_within
    | with_reducible apply State.restoreSeed_within | with_reducible apply State.within_ite

theorem State.beginStep_within {s0 : State} {L : List Part} {s : State} (hw : s0.within L s) (hL : [.dial, .logs, .run, .mbs, .sched,
    .memory, .links, .resil, .bytes] ⊆ L) :
    s0.within L (State.beginStep s) := by
  unfold State.beginStep
  try dsimp only
  repeat' first
    | with_reducible assumption | exact Part.sub_of hL (by decide) | exact .inr (Part.in_of hL (by decide)) | with_reducible exact .inl rfl
    | with_reducible apply State.createStepInstances_within | with_reducible apply State.formBatches_within
    | with_reducible apply State.newInstances_within | with_reducible apply State.onResil_within
    | with_reducible apply State.prepareStart_within | with_reducible apply State.within_ite | with_reducible apply State.within_upd

theorem State.endStep_within {s0 : State} {L : List Part} {s : State} (hw : s0.within L s) (hL : [.flash, .dial, .logs, .mbs, .sched,
    .memory, .cursors, .gather, .train, .blocks, .cascade, .links, .resil] ⊆ L) :
    s0.within L (State.endStep s).1 := by
  unfold State.endStep
  try dsimp only
  repeat' first
    | with_reducible assumption | exact Part.sub_of hL (by decide) | exact .inr (Part.in_of hL (by decide)) | with_reducible exact .inl rfl
    | with_reducible rfl | exact Memory.setPoison_wf _ _ | with_reducible apply State.advanceCursor_within
    | with_reducible apply State.checkAtEnd_within | with_reducible apply State.closeWindows_within
    | with_reducible apply State.logDevice_within | with_reducible apply State.noise_within
    | with_reducible apply State.noteCompletions_within | with_reducible apply State.onMemory_within
    | with_reducible apply State.onTrain_within | with_reducible apply State.reclaim_within | with_reducible apply State.replayEnd_within
    | with_reducible apply State.reportSlack_within | with_reducible apply State.writeTaps_within | with_reducible apply State.within_ite
    | split | with_reducible refine State.within_fst (by assumption) ?_ | with_reducible apply State.within_upd

theorem State.handOvers_within {s0 : State} {L : List Part} {s : State} {c : Nat} (hw : s0.within L s) (hL : [.draws, .dial, .logs, .run,
    .mbs, .sched, .memory, .tables, .cursors, .train, .blocks, .cascade, .links, .resil, .bytes] ⊆ L) :
    s0.within L (State.handOvers s c) := by
  unfold State.handOvers
  try dsimp only
  repeat' first
    | with_reducible assumption | exact Part.sub_of hL (by decide) | with_reducible apply State.haltNow_within
    | with_reducible apply State.rollBack_within | with_reducible apply State.takeCommands_within | with_reducible apply State.within_ite

theorem State.cross_within {s0 : State} {L : List Part} {s : State} {gain : Nat} (hw : s0.within L s) (hL : [.draws, .flash, .dial, .logs,
    .run, .mbs, .sched, .memory, .tables, .cursors, .gather, .train, .blocks, .cascade, .links, .resil, .bytes] ⊆ L) :
    s0.within L (State.cross s gain) := by
  unfold State.cross
  try dsimp only
  repeat' first
    | with_reducible assumption | exact Part.sub_of hL (by decide) | exact .inr (Part.in_of hL (by decide)) | with_reducible exact .inl rfl
    | with_reducible apply State.arrive_within | with_reducible apply State.beginStep_within | with_reducible apply State.clearStep_within
    | with_reducible apply State.endStep_within | with_reducible apply State.handOvers_within | with_reducible apply State.meetBeat_within
    | with_reducible apply State.onDial_within | with_reducible apply State.onRun_within | with_reducible apply State.onTables_within
    | with_reducible apply State.onTrain_within | with_reducible apply State.promotionBatch_within
    | with_reducible apply State.startRun_within | with_reducible apply State.within_ite
    | with_reducible refine State.within_fst (by assumption) ?_ | with_reducible apply State.within_upd

end Sys2Proof.Machine
end

