-- ==== Sys2Proof/Laws/FrameGather.lean ====
section
/-! SUPPORT. Frames of the functions of one area: gathers, reverse trail, cells, training. Each names the parts it can change; memory keeps its form. -/

namespace Sys2Proof.Machine

set_option Elab.async false
set_option linter.all false

theorem State.lookCooler_within {s0 : State} {L : List Part} {s : State} {region : Nat} {t : TableDesc} {v : Bool} {node : Nat} {bad :
    Bool} (hw : s0.within L s) (hL : [.tables] ⊆ L) :
    s0.within L (State.lookCooler s region t v node bad).2.2 := by
  unfold State.lookCooler
  dsimp only
  refine State.onCooler_within ?_ (Part.sub_of hL (by decide))
  split
  · exact State.onCooler_within hw (Part.sub_of hL (by decide))
  · exact hw

theorem State.sendRequests_within {s0 : State} {L : List Part} {s : State} {qs : List RowRequest} {version : Bool} {step : Nat} (hw :
    s0.within L s) (hL : [.logs, .links] ⊆ L) :
    s0.within L (State.sendRequests s qs version step) := by
  unfold State.sendRequests
  try dsimp only
  repeat' first
    | with_reducible assumption | exact Part.sub_of hL (by decide) | intro _ | with_reducible apply State.sendTo_within
    | with_reducible apply State.within_fold

theorem State.askRow_within {s0 : State} {L : List Part} {s : State} {c : CtxId} {mb : Nat} {t : TableDesc} {b : Bool} {owner : Coord} {i
    : ReadItem} {bad : Bool} (hw : s0.within L s) (hL : [.tables, .gather] ⊆ L) :
    s0.within L (State.askRow s c mb t b owner i bad).1 := by
  unfold State.askRow
  dsimp only
  split
  · exact hw
  · have hl : s0.within L (if t.cooler = 2 then s.lookCooler c.region.val t b i.node bad else (none, 0, s)).2.2 := by
      split
      · exact State.lookCooler_within hw (Part.sub_of hL (by decide))
      · exact hw
    generalize (if t.cooler = 2 then s.lookCooler c.region.val t b i.node bad else (none, 0, s)) = l at hl ⊢
    split
    all_goals exact State.onGather_within hl (Part.sub_of hL (by decide))

theorem State.askRows_within {s0 : State} {L : List Part} {s : State} {c : CtxId} {m : MicroBatch} {t : TableDesc} {b : Bool} {items :
    List ReadItem} {bad : List Nat} (hw : s0.within L s) (hL : [.logs, .tables, .gather, .links] ⊆ L) :
    s0.within L (State.askRows s c m t b items bad) := by
  unfold State.askRows
  extract_lets r
  have hr : s0.within L r.1 := by
    refine State.within_fold_fst (fun a x h => ?_) hw
    split
    · exact h
    · split
      · dsimp only
        with_reducible exact State.askRow_within h (Part.sub_of hL (by decide))
      · exact h
  clear_value r
  exact State.sendRequests_within hr (Part.sub_of hL (by decide))

theorem State.readTableRow_within {s0 : State} {L : List Part} {s : State} {c : CtxId} {t : TableDesc} {b : Bool} {i : ReadItem} {bad :
    Bool} (hw : s0.within L s) (hL : [.dial, .logs, .memory, .tables, .gather, .bytes] ⊆ L) :
    s0.within L (State.readTableRow s c t b i bad).1 := by
  unfold State.readTableRow
  dsimp only
  split
  · repeat' first
      | with_reducible assumption | exact Part.sub_of hL (by decide) | with_reducible apply State.countDefault_within
      | with_reducible apply State.noteReads_within
  · have hs := State.countServed_within (t := t) (node := i.node) hw (Part.sub_of hL (by decide))
    generalize s.countServed t i.node = u at hs ⊢
    split
    · exact State.noteReads_within hs (Part.sub_of hL (by decide))
    · have hl := State.lookCooler_within (region := c.region.val) (t := t) (v := b) (node := i.node) (bad := bad) hs (Part.sub_of hL (by decide))
      generalize u.lookCooler c.region.val t b i.node bad = l at hl ⊢
      split
      · exact State.onGather_within hl (Part.sub_of hL (by decide))
      · exact State.noteReads_within (State.fillCooler_within hl (Part.sub_of hL (by decide))) (Part.sub_of hL (by decide))
  · split
    · exact hw
    · exact State.onGather_within hw (Part.sub_of hL (by decide))

theorem State.readTableRows_within {s0 : State} {L : List Part} {s : State} {c : CtxId} {t : TableDesc} {b : Bool} {items : List ReadItem}
    {bad : List Nat} (hw : s0.within L s) (hL : [.dial, .logs, .memory, .tables, .gather, .bytes] ⊆ L) :
    s0.within L (State.readTableRows s c t b items bad).1 := by
  unfold State.readTableRows
  exact State.within_fold_fst (fun a x h => State.readTableRow_within h (Part.sub_of hL (by decide))) hw

theorem State.readTensorRow_within {s0 : State} {L : List Part} {s : State} {c : CtxId} {m : MicroBatch} {i : Nat} {x : Operand} {rows :
    List KeptRow} {e : ReadItem} (hw : s0.within L s) (hL : [.dial, .logs, .memory] ⊆ L) :
    s0.within L (State.readTensorRow s c m i x rows e).1 := by
  unfold State.readTensorRow
  try dsimp only
  repeat' first
    | with_reducible assumption | exact Part.sub_of hL (by decide) | with_reducible apply State.noteReads_within | split

theorem State.writeElems_within {s0 : State} {L : List Part} {s : State} {m : MicroBatch} {i : Nat} {x : Operand} {r : Nat} {es : List
    Elem} {wins : List (BitVec 32)} (hw : s0.within L s) (hL : [.logs, .memory, .links, .bytes] ⊆ L) :
    s0.within L (State.writeElems s m i x r es wins) := by
  unfold State.writeElems
  try dsimp only
  repeat' first
    | with_reducible assumption | exact Part.sub_of hL (by decide) | with_reducible apply State.storeBeats_within
    | with_reducible apply State.within_ite

theorem State.drifted_within {s0 : State} {L : List Part} {s : State} {c : CtxId} {m : MicroBatch} {k : Nat} {out : Nat} {t : TableDesc}
    (hw : s0.within L s) (hL : [.dial, .logs, .mbs, .sched, .memory, .gather, .train, .blocks, .links, .bytes] ⊆ L) :
    s0.within L (State.drifted s c m k out t) := by
  unfold State.drifted
  try dsimp only
  repeat' first
    | with_reducible assumption | exact Part.sub_of hL (by decide) | exact .inr (Part.in_of hL (by decide)) | with_reducible exact .inl rfl
    | intro _ | with_reducible apply State.dropFor_within | with_reducible apply State.endForward_within
    | with_reducible apply State.onGather_within | with_reducible apply State.settle_within | with_reducible apply State.writeRow_within
    | with_reducible apply State.within_fold | split | with_reducible apply State.within_upd

theorem State.withTableRows_within {s0 : State} {L : List Part} {s : State} {c : CtxId} {m : MicroBatch} {again : Bool} {t : TableDesc}
    {items : List ReadItem} {bad : List Nat} {fold : State → List ReadRow → State} (hw : s0.within L s) (hfold : ∀ (x0 : State) (x1 : List
    ReadRow), s0.within L x0 → s0.within L (fold x0 x1)) (hL : [.dial, .logs, .mbs, .sched, .memory, .tables, .gather, .train, .blocks,
    .links, .bytes] ⊆ L) :
    s0.within L (State.withTableRows s c m again t items bad fold) := by
  unfold State.withTableRows
  try dsimp only
  repeat' first
    | with_reducible assumption | exact Part.sub_of hL (by decide) | exact .inr (Part.in_of hL (by decide)) | with_reducible exact .inl rfl
    | intro _ | with_reducible apply hfold | with_reducible apply State.askRows_within | with_reducible apply State.dropFor_within
    | with_reducible apply State.onGather_within | with_reducible apply State.readTableRows_within
    | with_reducible apply State.settle_within | with_reducible apply State.within_fold | with_reducible apply State.within_ite | split
    | with_reducible refine State.within_fst (by assumption) ?_ | with_reducible apply State.within_upd

theorem State.stamped_within {s0 : State} {L : List Part} {s : State} {c : CtxId} {x : TaskContext} {m : MicroBatch} {k : Nat} {out : Nat}
    {t : TableDesc} {write : State → State} (hw : s0.within L s) (hwrite : ∀ (x0 : State), s0.within L x0 → s0.within L (write x0)) (hL :
    [.dial, .logs, .mbs, .sched, .memory, .gather, .train, .blocks, .links, .bytes] ⊆ L) :
    s0.within L (State.stamped s c x m k out t write) := by
  unfold State.stamped
  try dsimp only
  repeat' first
    | with_reducible assumption | exact Part.sub_of hL (by decide) | exact .inr (Part.in_of hL (by decide)) | with_reducible exact .inl rfl
    | intro _ | with_reducible apply hwrite | with_reducible apply State.drifted_within | with_reducible apply State.endForward_within
    | with_reducible apply State.onMb_within | with_reducible apply State.within_ite | with_reducible apply State.within_upd

theorem State.foldAll_within {s0 : State} {L : List Part} {s : State} {m : MicroBatch} {a : AggregateOp} {order : List Nat} {x : Operand}
    {items : List ReadItem} {rows : List ReadRow} (hw : s0.within L s) (hL : [.logs, .memory, .links, .bytes] ⊆ L) :
    s0.within L (State.foldAll s m a order x items rows) := by
  unfold State.foldAll
  try dsimp only
  repeat' first
    | with_reducible assumption | exact Part.sub_of hL (by decide) | exact .inr (Part.in_of hL (by decide)) | with_reducible exact .inl rfl
    | intro _ | with_reducible apply State.writeElems_within | with_reducible apply State.within_fold
    | with_reducible apply State.within_ite | split | with_reducible apply State.within_upd

theorem State.countEdges_within {s0 : State} {L : List Part} {s : State} {c : CtxId} {n : Nat} (hw : s0.within L s) (hL : [.gather] ⊆ L) :
    s0.within L (State.countEdges s c n) := by
  unfold State.countEdges
  try dsimp only
  repeat' first
    | with_reducible assumption | exact Part.sub_of hL (by decide) | exact .inr (Part.in_of hL (by decide)) | with_reducible exact .inl rfl
    | with_reducible apply State.onGather_within | with_reducible apply State.within_upd

theorem State.noteReorder_within {s0 : State} {L : List Part} {s : State} {c : CtxId} {a : AggregateOp} {order : List Nat} {rowBytes :
    Nat} {rows : List ReadRow} (hw : s0.within L s) (hL : [.gather] ⊆ L) :
    s0.within L (State.noteReorder s c a order rowBytes rows) := by
  unfold State.noteReorder
  try dsimp only
  repeat' first
    | with_reducible assumption | exact Part.sub_of hL (by decide) | exact .inr (Part.in_of hL (by decide)) | with_reducible exact .inl rfl
    | with_reducible apply State.onGather_within | with_reducible apply State.within_ite | with_reducible apply State.within_upd

theorem State.sendReply_within {s0 : State} {L : List Part} {s : State} {dest : Coord} {as : List RowAnswer} (hw : s0.within L s) (hL :
    [.logs, .links] ⊆ L) :
    s0.within L (State.sendReply s dest as) := by
  unfold State.sendReply
  try dsimp only
  repeat' first
    | with_reducible assumption | exact Part.sub_of hL (by decide) | intro _ | with_reducible apply State.sendTo_within
    | with_reducible apply State.within_fold

theorem State.serveRow_within {s0 : State} {L : List Part} {s : State} {t : TableDesc} {q : RowReqEntry} {k : Nat} (hw : s0.within L s)
    (hL : [.dial, .logs, .memory, .tables] ⊆ L) :
    s0.within L (State.serveRow s t q k).1 := by
  unfold State.serveRow
  try dsimp only
  repeat' first
    | with_reducible assumption | exact Part.sub_of hL (by decide) | intro _ | with_reducible apply State.countServed_within
    | with_reducible apply State.noteReads_within | with_reducible apply State.within_fold

theorem State.takeRowReq_within {s0 : State} {L : List Part} {s : State} {src : Coord} {match_ : Bool} {q : RowReqEntry} (hw : s0.within L
    s) (hL : [.dial, .logs, .memory, .tables] ⊆ L) :
    s0.within L (State.takeRowReq s src match_ q).1 := by
  unfold State.takeRowReq
  try dsimp only
  repeat' first
    | with_reducible assumption | exact Part.sub_of hL (by decide) | exact .inr (Part.in_of hL (by decide)) | with_reducible exact .inl rfl
    | with_reducible apply State.onTables_within | with_reducible apply State.serveRow_within | with_reducible apply State.within_ite
    | split | with_reducible refine State.within_fst (by assumption) ?_ | with_reducible apply State.within_upd

theorem State.sendReplies_within {s0 : State} {L : List Part} {s : State} {dest : Coord} {l full : List RowAnswer} (hw : s0.within L s)
    (hL : [.logs, .links] ⊆ L) : s0.within L (s.sendReplies dest l full) := by
  induction l generalizing s full with
  | nil =>
    unfold State.sendReplies
    split
    · exact hw
    · exact State.sendReply_within hw (Part.sub_of hL (by decide))
  | cons a l ih =>
    unfold State.sendReplies
    split
    · exact ih (State.sendReply_within hw (Part.sub_of hL (by decide)))
    · exact ih hw

theorem State.answerRows_within {s0 : State} {L : List Part} {s : State} {src : Coord} {match_ : Bool} {qs : List RowReqEntry} (hw :
    s0.within L s) (hL : [.dial, .logs, .memory, .tables, .links] ⊆ L) :
    s0.within L (State.answerRows s src match_ qs) := by
  unfold State.answerRows
  dsimp only
  refine State.sendReplies_within (State.within_fold_fst (fun a x h => ?_) hw) (Part.sub_of hL (by decide))
  exact State.takeRowReq_within h (Part.sub_of hL (by decide))

theorem State.answerHeldRows_within {s0 : State} {L : List Part} {s : State} (hw : s0.within L s) (hL : [.dial, .logs, .memory, .tables,
    .links] ⊆ L) :
    s0.within L (State.answerHeldRows s) := by
  unfold State.answerHeldRows
  try dsimp only
  repeat' first
    | with_reducible assumption | exact Part.sub_of hL (by decide) | exact .inr (Part.in_of hL (by decide)) | with_reducible exact .inl rfl
    | intro _ | with_reducible apply State.answerRows_within | with_reducible apply State.onTables_within
    | with_reducible apply State.within_fold | with_reducible apply State.within_upd

theorem State.takeReply_within {s0 : State} {L : List Part} {s : State} {e : RowReplyEntry} {bytes : List Byte} {poison : Nat} (hw :
    s0.within L s) (hL : [.dial, .logs, .mbs, .sched, .memory, .tables, .gather, .train, .blocks, .bytes] ⊆ L) :
    s0.within L (State.takeReply s e bytes poison) := by
  unfold State.takeReply
  try dsimp only
  repeat' first
    | with_reducible assumption | exact Part.sub_of hL (by decide) | exact .inr (Part.in_of hL (by decide)) | with_reducible exact .inl rfl
    | with_reducible apply State.dropFor_within | with_reducible apply State.fillCooler_within
    | with_reducible apply State.haltAtBoundary_within | with_reducible apply State.onGather_within
    | with_reducible apply State.settle_within | with_reducible apply State.within_ite | split | with_reducible apply State.within_upd

theorem State.writeSlot_within {s0 : State} {L : List Part} {s : State} {t : TableDesc} {node : Nat} {k : Nat} {count : Nat} {met : Bool}
    {es : List Elem} (hw : s0.within L s) (hL : [.logs, .memory, .links, .bytes] ⊆ L) :
    s0.within L (State.writeSlot s t node k count met es) := by
  unfold State.writeSlot
  try dsimp only
  repeat' first
    | with_reducible assumption | exact Part.sub_of hL (by decide) | with_reducible apply State.store_within
    | with_reducible apply State.storeBeats_within

theorem State.foldSlot_within {s0 : State} {L : List Part} {s : State} {t : TableDesc} {node : Nat} {count : Nat} {met : Bool} {es : List
    Elem} {combine : List Elem → List Elem → List Elem} (hw : s0.within L s) (hL : [.dial, .logs, .memory, .gather, .links, .bytes] ⊆ L) :
    s0.within L (State.foldSlot s t node count met es combine) := by
  unfold State.foldSlot
  try dsimp only
  repeat' first
    | with_reducible assumption | exact Part.sub_of hL (by decide) | exact .inr (Part.in_of hL (by decide)) | with_reducible exact .inl rfl
    | with_reducible apply State.logDevice_within | with_reducible apply State.noteReads_within
    | with_reducible apply State.onGather_within | with_reducible apply State.writeSlot_within | split
    | with_reducible apply State.within_upd

theorem State.countReturn_within {s0 : State} {L : List Part} {s : State} {t : TableDesc} {node : Nat} {count : Nat} (hw : s0.within L s)
    (hL : [.gather] ⊆ L) :
    s0.within L (State.countReturn s t node count) := by
  unfold State.countReturn
  try dsimp only
  repeat' first
    | with_reducible assumption | exact Part.sub_of hL (by decide) | exact .inr (Part.in_of hL (by decide)) | with_reducible exact .inl rfl
    | with_reducible apply State.onGather_within | with_reducible apply State.within_ite | with_reducible apply State.within_upd

theorem State.foldCounted_within {s0 : State} {L : List Part} {s : State} {t : TableDesc} {node : Nat} {count : Nat} {met : Bool} {es :
    List Elem} {combine : List Elem → List Elem → List Elem} (hw : s0.within L s) (hL : [.dial, .logs, .memory, .gather, .links, .bytes] ⊆
    L) :
    s0.within L (State.foldCounted s t node count met es combine) := by
  unfold State.foldCounted
  try dsimp only
  repeat' first
    | with_reducible assumption | exact Part.sub_of hL (by decide) | intro _ | with_reducible apply State.countReturn_within
    | with_reducible apply State.foldSlot_within | with_reducible apply State.within_fold | with_reducible apply State.within_ite

theorem State.dropPoisonedWalks_within {s0 : State} {L : List Part} {s : State} (hw : s0.within L s) (hL : [.dial, .logs, .mbs, .sched,
    .gather, .train, .blocks] ⊆ L) :
    s0.within L (State.dropPoisonedWalks s) := by
  unfold State.dropPoisonedWalks
  try dsimp only
  repeat' first
    | with_reducible assumption | exact Part.sub_of hL (by decide) | intro _ | with_reducible apply State.dropMb_within
    | with_reducible apply State.within_fold | with_reducible apply State.within_ite | split

theorem Sweep.writeBack_within {s0 : State} {L : List Part} {x : Sweep} {e : CacheEntry} (hw : s0.within L x.1) (hL : [.dial, .logs,
    .memory, .gather, .links, .bytes] ⊆ L) :
    s0.within L (x.writeBack e).1 := State.foldCounted_within hw (Part.sub_of hL (by decide))

theorem Sweep.touch_within {s0 : State} {L : List Part} {x : Sweep} {t : TableDesc} {c : Contribution} (hw : s0.within L x.1) (hL :
    [.dial, .logs, .memory, .gather, .links, .bytes] ⊆ L) :
    s0.within L (x.touch t c).1 := by
  unfold Sweep.touch
  dsimp only
  split
  · exact hw
  · split
    · exact hw
    · split
      · exact Sweep.writeBack_within hw hL
      · exact hw

theorem State.sweep_within {s0 : State} {L : List Part} {s : State} {l : List (TableDesc × Contribution)} (hw : s0.within L s) (hL :
    [.dial, .logs, .memory, .gather, .links, .bytes] ⊆ L) :
    s0.within L (State.sweep s l).1 := by
  unfold State.sweep
  dsimp only
  exact State.within_fold_fst (fun a x h => Sweep.writeBack_within h (Part.sub_of hL (by decide)))
    (State.within_fold_fst (fun a x h => Sweep.touch_within h (Part.sub_of hL (by decide))) hw)

theorem State.onCell_within {s0 : State} {L : List Part} {s : State} {b : Nat} {c : Nat} {f : CellRun → CellRun} (hw : s0.within L s) (hL
    : [.blocks] ⊆ L) :
    s0.within L (State.onCell s b c f) := by
  unfold State.onCell
  try dsimp only
  repeat' first
    | with_reducible assumption | exact Part.sub_of hL (by decide) | exact .inr (Part.in_of hL (by decide)) | with_reducible exact .inl rfl
    | with_reducible apply State.onBlock_within | with_reducible apply State.within_ite | with_reducible apply State.within_upd

theorem State.dropCell_within {s0 : State} {L : List Part} {s : State} {b : Nat} {c : Nat} {p : Product} (hw : s0.within L s) (hL :
    [.dial, .logs, .mbs, .sched, .gather, .train, .blocks] ⊆ L) :
    s0.within L (State.dropCell s b c p) := by
  unfold State.dropCell
  try dsimp only
  repeat' first
    | with_reducible assumption | exact Part.sub_of hL (by decide) | exact .inr (Part.in_of hL (by decide)) | with_reducible exact .inl rfl
    | with_reducible apply State.dropMb_within | with_reducible apply State.logDevice_within | with_reducible apply State.onBlock_within
    | with_reducible apply State.settle_within | with_reducible apply State.within_upd

theorem State.countBasin_within {s0 : State} {L : List Part} {s : State} {b : Nat} {c : Nat} {f : BasinFinding} (hw : s0.within L s) (hL :
    [.logs, .blocks, .resil] ⊆ L) :
    s0.within L (State.countBasin s b c f) := by
  unfold State.countBasin
  try dsimp only
  repeat' first
    | with_reducible assumption | exact Part.sub_of hL (by decide) | exact .inr (Part.in_of hL (by decide)) | with_reducible exact .inl rfl
    | intro _ | with_reducible apply State.noteWear_within | with_reducible apply State.onBlock_within
    | with_reducible apply State.within_fold | with_reducible apply State.within_upd

theorem State.parityFailure_within {s0 : State} {L : List Part} {s : State} {b : Nat} {c : Nat} (hw : s0.within L s) (hL : [.logs,
    .blocks, .resil] ⊆ L) :
    s0.within L (State.parityFailure s b c) := by
  unfold State.parityFailure
  try dsimp only
  repeat' first
    | with_reducible assumption | exact Part.sub_of hL (by decide) | exact .inr (Part.in_of hL (by decide)) | with_reducible exact .inl rfl
    | with_reducible apply State.noteWear_within | with_reducible apply State.onBlock_within | with_reducible apply State.within_upd

theorem State.fillHalf_within {s0 : State} {L : List Part} {s : State} {b : Nat} {h : Shape} {rows : List (List Byte × List Nat)} {r :
    CellRun} {ahead : Nat} (hw : s0.within L s) (hL : [.memory, .blocks, .bytes] ⊆ L) :
    s0.within L (State.fillHalf s b h rows r ahead) := by
  unfold State.fillHalf
  try dsimp only
  repeat' first
    | with_reducible assumption | exact Part.sub_of hL (by decide) | exact .inr (Part.in_of hL (by decide)) | with_reducible exact .inl rfl
    | intro _ | with_reducible apply State.onCell_within | with_reducible apply State.store_within | with_reducible apply State.within_fold
    | with_reducible apply State.within_ite | split | with_reducible apply State.within_upd

theorem State.fillHeads_within {s0 : State} {L : List Part} {s : State} {b : Nat} (hw : s0.within L s) (hL : [.memory, .blocks, .bytes] ⊆
    L) :
    s0.within L (State.fillHeads s b) := by
  unfold State.fillHeads
  try dsimp only
  repeat' first
    | with_reducible assumption | exact Part.sub_of hL (by decide) | intro _ | with_reducible apply State.fillHalf_within
    | with_reducible apply State.within_fold | with_reducible apply State.within_ite | split

theorem State.preload_within {s0 : State} {L : List Part} {s : State} {b : Nat} {p : Product} {h : Shape} {r : CellRun} {q : Pass} {g :
    Segment} (hw : s0.within L s) (hL : [.dial, .logs, .mbs, .sched, .memory, .gather, .train, .blocks, .bytes] ⊆ L) :
    s0.within L (State.preload s b p h r q g) := by
  unfold State.preload
  try dsimp only
  repeat' first
    | with_reducible assumption | exact Part.sub_of hL (by decide) | intro _ | with_reducible apply State.basinPut_within
    | with_reducible apply State.dropCell_within | with_reducible apply State.within_fold | with_reducible apply State.within_ite

theorem State.prepareCell_within {s0 : State} {L : List Part} {s : State} {b : Nat} {p : Product} {h : Shape} {r : CellRun} (hw :
    s0.within L s) (hL : [.dial, .logs, .mbs, .sched, .memory, .gather, .train, .blocks, .bytes] ⊆ L) :
    s0.within L (State.prepareCell s b p h r) := by
  unfold State.prepareCell
  try dsimp only
  repeat' first
    | with_reducible assumption | exact Part.sub_of hL (by decide) | exact .inr (Part.in_of hL (by decide)) | with_reducible exact .inl rfl
    | with_reducible apply State.onBlock_within | with_reducible apply State.onCell_within | with_reducible apply State.preload_within
    | with_reducible apply State.within_ite | split | with_reducible apply State.within_upd

theorem State.prepare_within {s0 : State} {L : List Part} {s : State} {b : Nat} (hw : s0.within L s) (hL : [.dial, .logs, .mbs, .sched,
    .memory, .gather, .train, .blocks, .bytes] ⊆ L) :
    s0.within L (State.prepare s b) := by
  unfold State.prepare
  try dsimp only
  repeat' first
    | with_reducible assumption | exact Part.sub_of hL (by decide) | intro _ | with_reducible apply State.prepareCell_within
    | with_reducible apply State.within_fold | with_reducible apply State.within_ite | split

theorem State.shadowLoad_within {s0 : State} {L : List Part} {s : State} {b : Nat} {p : Product} {h : Shape} {r : CellRun} {q : Pass}
    {again : Bool} (hw : s0.within L s) (hL : [.dial, .logs, .mbs, .sched, .memory, .gather, .train, .blocks, .bytes] ⊆ L) :
    s0.within L (State.shadowLoad s b p h r q again) := by
  unfold State.shadowLoad
  try dsimp only
  repeat' first
    | with_reducible assumption | exact Part.sub_of hL (by decide) | exact .inr (Part.in_of hL (by decide)) | with_reducible exact .inl rfl
    | with_reducible apply State.dropCell_within | with_reducible apply State.onBlock_within | with_reducible apply State.onCell_within
    | with_reducible apply State.store_within | with_reducible apply State.within_ite | split | with_reducible apply State.within_upd

theorem State.startProduct_within {s0 : State} {L : List Part} {s : State} {b : Nat} {c : CtxId} {op : Nat} {mb : Nat} {step : Nat} {kind
    : Nat} {part : Nat} {pre : Bool} (hw : s0.within L s) (hL : [.dial, .logs, .mbs, .sched, .memory, .gather, .train, .blocks, .bytes] ⊆
    L) :
    s0.within L (State.startProduct s b c op mb step kind part pre) := by
  unfold State.startProduct
  try dsimp only
  repeat' first
    | with_reducible assumption | exact Part.sub_of hL (by decide) | exact .inr (Part.in_of hL (by decide)) | with_reducible exact .inl rfl
    | intro _ | with_reducible apply State.fillHeads_within | with_reducible apply State.finish_within
    | with_reducible apply State.onBlock_within | with_reducible apply State.prepare_within | with_reducible apply State.shadowLoad_within
    | with_reducible apply State.within_fold | with_reducible apply State.within_ite | split | with_reducible apply State.within_upd

theorem State.nextBackward_within {s0 : State} {L : List Part} {s : State} {b : Nat} {c : CtxId} {op : Nat} {mb : Nat} {step : Nat} {after
    : Nat} {q : TransformOp} (hw : s0.within L s) (hL : [.dial, .logs, .mbs, .sched, .memory, .gather, .train, .blocks, .bytes] ⊆ L) :
    s0.within L (State.nextBackward s b c op mb step after q) := by
  unfold State.nextBackward
  try dsimp only
  repeat' first
    | with_reducible assumption | exact Part.sub_of hL (by decide) | with_reducible apply State.finish_within
    | with_reducible apply State.startProduct_within | with_reducible apply State.within_ite

theorem State.endProduct_within {s0 : State} {L : List Part} {s : State} {b : Nat} (hw : s0.within L s) (hL : [.dial, .logs, .mbs, .sched,
    .memory, .gather, .train, .blocks, .bytes] ⊆ L) :
    s0.within L (State.endProduct s b) := by
  unfold State.endProduct
  try dsimp only
  repeat' first
    | with_reducible assumption | exact Part.sub_of hL (by decide) | exact .inr (Part.in_of hL (by decide)) | with_reducible exact .inl rfl
    | with_reducible apply State.endForward_within | with_reducible apply State.nextBackward_within
    | with_reducible apply State.onBlock_within | with_reducible apply State.within_ite | split | with_reducible apply State.within_upd

theorem State.writeCompanion_within {s0 : State} {L : List Part} {s : State} {t : TaskContext} {m : MicroBatch} {o : Op} {q : TransformOp}
    {dy : List (List (BitVec 32))} (hw : s0.within L s) (hL : [.logs, .mbs, .memory, .links, .bytes] ⊆ L) :
    s0.within L (State.writeCompanion s t m o q dy) := by
  unfold State.writeCompanion
  try dsimp only
  repeat' first
    | with_reducible assumption | exact Part.sub_of hL (by decide) | exact .inr (Part.in_of hL (by decide)) | with_reducible exact .inl rfl
    | intro _ | with_reducible apply State.onMb_within | with_reducible apply State.setCompanion_within
    | with_reducible apply State.store_within | with_reducible apply State.takeStaging_within | with_reducible apply State.within_fold
    | with_reducible apply State.within_ite | split | with_reducible apply State.within_upd

theorem State.passIssued_within {s0 : State} {L : List Part} {s : State} {b : Nat} {c : Nat} (hw : s0.within L s) (hL : [.dial, .logs,
    .mbs, .sched, .memory, .gather, .train, .blocks, .bytes] ⊆ L) :
    s0.within L (State.passIssued s b c) := by
  unfold State.passIssued
  try dsimp only
  repeat' first
    | with_reducible assumption | exact Part.sub_of hL (by decide) | exact .inr (Part.in_of hL (by decide)) | with_reducible exact .inl rfl
    | intro _ | with_reducible apply State.endProduct_within | with_reducible apply State.fillHeads_within
    | with_reducible apply State.onCell_within | with_reducible apply State.onSegment_within | with_reducible apply State.within_ite
    | with_reducible apply State.within_elim | split | with_reducible apply State.within_upd

theorem State.writeBack_within {s0 : State} {L : List Part} {s : State} {b : Nat} {c : Nat} {p : Product} {h : Shape} {r : CellRun} {q :
    Pass} {u : Nat} (hw : s0.within L s) (hL : [.memory, .blocks, .bytes] ⊆ L) :
    s0.within L (State.writeBack s b c p h r q u) := by
  unfold State.writeBack
  try dsimp only
  repeat' first
    | with_reducible assumption | exact Part.sub_of hL (by decide) | intro _ | with_reducible apply State.basinPut_within
    | with_reducible apply State.within_fold | with_reducible apply State.within_ite | with_reducible apply State.within_elim

theorem State.writeOut_within {s0 : State} {L : List Part} {s : State} {p : Product} {h : Shape} {m : MicroBatch} {row : Nat} {vals : List
    (BitVec 32)} {wins : List (BitVec 32)} (hw : s0.within L s) (hL : [.logs, .memory, .train, .links, .bytes] ⊆ L) :
    s0.within L (State.writeOut s p h m row vals wins) := by
  unfold State.writeOut
  try dsimp only
  repeat' first
    | with_reducible assumption | exact Part.sub_of hL (by decide) | exact .inr (Part.in_of hL (by decide)) | with_reducible exact .inl rfl
    | intro _ | with_reducible apply State.onTrain_within | with_reducible apply State.placeStore_within
    | with_reducible apply State.within_fold | with_reducible apply State.within_ite | with_reducible apply State.within_upd

theorem State.addPiece_within {s0 : State} {L : List Part} {s : State} {b : Nat} {p : Product} {h : Shape} {row : Nat} {col : Nat} {vals :
    List (BitVec 32)} {wins : List (BitVec 32)} (hw : s0.within L s) (hL : [.logs, .mbs, .memory, .train, .blocks, .links, .bytes] ⊆ L) :
    s0.within L (State.addPiece s b p h row col vals wins) := by
  unfold State.addPiece
  try dsimp only
  repeat' first
    | with_reducible assumption | exact Part.sub_of hL (by decide) | exact .inr (Part.in_of hL (by decide)) | with_reducible exact .inl rfl
    | intro _ | with_reducible apply State.addCompanion_within | with_reducible apply State.onBlock_within
    | with_reducible apply State.writeOut_within | with_reducible apply State.within_ite | with_reducible apply State.within_elim
    | with_reducible apply State.within_upd

theorem State.stageRow_within {s0 : State} {L : List Part} {s : State} {p : Product} {h : Shape} {o : Op} {k : Nat} {arc : Nat} {vs : List
    (Nat × BitVec 32)} (hw : s0.within L s) (hL : [.memory, .bytes] ⊆ L) :
    s0.within L (State.stageRow s p h o k arc vs) := by
  unfold State.stageRow
  try dsimp only
  repeat' first
    | with_reducible assumption | exact Part.sub_of hL (by decide) | intro _ | with_reducible apply State.store_within
    | with_reducible apply State.within_fold | with_reducible apply State.within_ite | split

theorem State.countNonFinite_within {s0 : State} {L : List Part} {s : State} {mb : Nat} {step : Nat} {layer : Nat} {n : Nat} (hw :
    s0.within L s) (hL : [.mbs] ⊆ L) :
    s0.within L (State.countNonFinite s mb step layer n) := by
  unfold State.countNonFinite
  try dsimp only
  repeat' first
    | with_reducible assumption | exact Part.sub_of hL (by decide) | exact .inr (Part.in_of hL (by decide)) | with_reducible exact .inl rfl
    | with_reducible apply State.onMb_within | with_reducible apply State.within_ite | with_reducible apply State.within_upd

theorem State.drainSegment_within {s0 : State} {L : List Part} {s : State} {b : Nat} {p : Product} {h : Shape} {o : Op} {g : Segment} {q :
    Pass} {place : Nat} (hw : s0.within L s) (hL : [.logs, .mbs, .memory, .train, .blocks, .links, .bytes] ⊆ L) :
    s0.within L (State.drainSegment s b p h o g q place) := by
  unfold State.drainSegment
  try dsimp only
  repeat' first
    | with_reducible assumption | exact Part.sub_of hL (by decide) | exact .inr (Part.in_of hL (by decide)) | with_reducible exact .inl rfl
    | intro _ | with_reducible apply State.addPiece_within | with_reducible apply State.countNonFinite_within
    | with_reducible apply State.onBlock_within | with_reducible apply State.stageRow_within
    | with_reducible apply State.takeStaging_within | with_reducible apply State.within_fold | with_reducible apply State.within_ite
    | with_reducible apply State.within_elim | with_reducible apply State.within_upd

theorem State.rillFailed_within {s0 : State} {L : List Part} {s : State} {b : Nat} (hw : s0.within L s) (hL : [.dial, .logs, .mbs, .sched,
    .memory, .gather, .train, .blocks, .resil] ⊆ L) :
    s0.within L (State.rillFailed s b) := by
  unfold State.rillFailed
  try dsimp only
  repeat' first
    | with_reducible assumption | exact Part.sub_of hL (by decide) | exact .inr (Part.in_of hL (by decide)) | with_reducible exact .inl rfl
    | intro _ | with_reducible apply State.dropDomain_within | with_reducible apply State.dropSegments_within
    | with_reducible apply State.logDevice_within | with_reducible apply State.markSwap_within | with_reducible apply State.onBlock_within
    | with_reducible apply State.settle_within | with_reducible apply State.within_elim | with_reducible apply State.within_upd

theorem State.rillCopy_within {s0 : State} {L : List Part} {s : State} {b : Nat} {r : CellRun} {i : Nat} {pos : Nat} {size : Nat} {data :
    BitVec 1024} {poison : BitVec 16} (hw : s0.within L s) (hL : [.memory, .blocks, .bytes] ⊆ L) :
    s0.within L (State.rillCopy s b r i pos size data poison) := by
  unfold State.rillCopy
  try dsimp only
  repeat' first
    | with_reducible assumption | exact Part.sub_of hL (by decide) | exact .inr (Part.in_of hL (by decide)) | with_reducible exact .inl rfl
    | with_reducible apply State.onCell_within | with_reducible apply State.store_within | with_reducible apply State.within_ite
    | with_reducible apply State.within_upd

theorem State.markRecompute_within {s0 : State} {L : List Part} {s : State} {m : MicroBatch} (hw : s0.within L s) (hL : [.mbs, .train] ⊆
    L) :
    s0.within L (State.markRecompute s m) := by
  unfold State.markRecompute
  try dsimp only
  repeat' first
    | with_reducible assumption | exact Part.sub_of hL (by decide) | exact .inr (Part.in_of hL (by decide)) | with_reducible exact .inl rfl
    | with_reducible apply State.onMb_within | with_reducible apply State.onTrain_within | with_reducible apply State.within_upd

theorem State.putEntry_within {s0 : State} {L : List Part} {s : State} {e : StashEntry} {x : Operand} {raw : Nat} {coded : List (Byte ×
    Bool)} (hw : s0.within L s) (hL : [.logs, .memory, .train, .links, .bytes] ⊆ L) :
    s0.within L (State.putEntry s e x raw coded) := by
  unfold State.putEntry
  try dsimp only
  repeat' first
    | with_reducible assumption | exact Part.sub_of hL (by decide) | exact .inr (Part.in_of hL (by decide)) | with_reducible exact .inl rfl
    | with_reducible apply State.onTrain_within | with_reducible apply State.store_within | with_reducible apply State.storeBeats_within
    | with_reducible apply State.within_ite | with_reducible apply State.within_upd

theorem State.commitRow_within {s0 : State} {L : List Part} {s : State} {fresh : Bool} {i : Nat} {x : Operand} {r : Nat} {vs : List
    (BitVec 32)} {poisoned : Bool} (hw : s0.within L s) (hL : [.logs, .memory, .links, .bytes] ⊆ L) :
    s0.within L (State.commitRow s fresh i x r vs poisoned) := by
  unfold State.commitRow
  try dsimp only
  repeat' first
    | with_reducible assumption | exact Part.sub_of hL (by decide) | with_reducible apply State.writeRow_within
    | with_reducible apply State.within_ite

theorem State.onTap_within {s0 : State} {L : List Part} {s : State} {layer : Nat} {f : TapSum → TapSum} (hw : s0.within L s) (hL :
    [.train] ⊆ L) :
    s0.within L (State.onTap s layer f) := by
  unfold State.onTap
  try dsimp only
  repeat' first
    | with_reducible assumption | exact Part.sub_of hL (by decide) | exact .inr (Part.in_of hL (by decide)) | with_reducible exact .inl rfl
    | with_reducible apply State.onTrain_within | with_reducible apply State.within_upd

theorem State.commitOp_within {s0 : State} {L : List Part} {s : State} {m : MicroBatch} {x : Op × Nat} (hw : s0.within L s) (hL : [.logs,
    .memory, .train, .links, .bytes] ⊆ L) :
    s0.within L (State.commitOp s m x) := by
  unfold State.commitOp
  try dsimp only
  repeat' first
    | with_reducible assumption | exact Part.sub_of hL (by decide) | exact .inr (Part.in_of hL (by decide)) | with_reducible exact .inl rfl
    | intro _ | with_reducible apply State.commitRow_within | with_reducible apply State.onTap_within
    | with_reducible apply State.onTrain_within | with_reducible apply State.within_fold | with_reducible apply State.within_ite
    | with_reducible apply State.within_elim | with_reducible apply State.within_upd

theorem State.commitCounts_within {s0 : State} {L : List Part} {s : State} {m : MicroBatch} (hw : s0.within L s) (hL : [.train] ⊆ L) :
    s0.within L (State.commitCounts s m) := by
  unfold State.commitCounts
  try dsimp only
  repeat' first
    | with_reducible assumption | exact Part.sub_of hL (by decide) | exact .inr (Part.in_of hL (by decide)) | with_reducible exact .inl rfl
    | intro _ | with_reducible apply State.onTap_within | with_reducible apply State.onTrain_within
    | with_reducible apply State.within_fold | with_reducible apply State.within_ite | with_reducible apply State.within_upd

theorem State.notePlace_within {s0 : State} {L : List Part} {s : State} {p : Place} {n : Nat} {c : CtxId} (hw : s0.within L s) (hL :
    [.dial, .logs, .memory] ⊆ L) :
    s0.within L (State.notePlace s p n c) := by
  unfold State.notePlace
  try dsimp only
  repeat' first
    | with_reducible assumption | exact Part.sub_of hL (by decide) | with_reducible apply State.noteReads_within | split

theorem State.writeOther_within {s0 : State} {L : List Part} {s : State} {i : Nat} {x : Operand} {r : Nat} {bs : List Byte} {poisoned :
    Bool} (hw : s0.within L s) (hL : [.logs, .memory, .links, .bytes] ⊆ L) :
    s0.within L (State.writeOther s i x r bs poisoned) := by
  unfold State.writeOther
  try dsimp only
  repeat' first
    | with_reducible assumption | exact Part.sub_of hL (by decide) | with_reducible apply State.placeStore_within

theorem State.updateDense_within {s0 : State} {L : List Part} {s : State} {c : CtxId} {p : OptimizeOp} {w : Update} {x : Operand} {r :
    Nat} (hw : s0.within L s) (hL : [.dial, .logs, .memory, .links, .bytes] ⊆ L) :
    s0.within L (State.updateDense s c p w x r) := by
  unfold State.updateDense
  try dsimp only
  repeat' first
    | with_reducible assumption | exact Part.sub_of hL (by decide) | intro _ | with_reducible apply State.notePlace_within
    | with_reducible apply State.writeOther_within | with_reducible apply State.within_ite | with_reducible apply State.within_elim

theorem State.writeTableRow_within {s0 : State} {L : List Part} {s : State} {t : TableDesc} {node : Nat} {bs : List Byte} {poisoned :
    Bool} (hw : s0.within L s) (hL : [.logs, .memory, .tables, .links, .resil, .bytes] ⊆ L) :
    s0.within L (State.writeTableRow s t node bs poisoned) := by
  unfold State.writeTableRow
  try dsimp only
  repeat' first
    | with_reducible assumption | exact Part.sub_of hL (by decide) | with_reducible apply State.markDirty_within
    | with_reducible apply State.storeRow_within

theorem State.updateSparse_within {s0 : State} {L : List Part} {s : State} {c : CtxId} {p : OptimizeOp} {w : Update} {t : TableDesc} {node
    : Nat} (hw : s0.within L s) (hL : [.dial, .logs, .memory, .tables, .gather, .links, .resil, .bytes] ⊆ L) :
    s0.within L (State.updateSparse s c p w t node) := by
  unfold State.updateSparse
  try dsimp only
  repeat' first
    | with_reducible assumption | exact Part.sub_of hL (by decide) | exact .inr (Part.in_of hL (by decide)) | with_reducible exact .inl rfl
    | intro _ | with_reducible apply State.logDevice_within | with_reducible apply State.noteReads_within
    | with_reducible apply State.onGather_within | with_reducible apply State.writeTableRow_within | with_reducible apply State.within_fold
    | with_reducible apply State.within_ite | with_reducible apply State.within_elim | split | with_reducible apply State.within_upd

theorem State.tapLayer_within {s0 : State} {L : List Part} {s : State} {layer : Nat} (hw : s0.within L s) (hL : [.train] ⊆ L) :
    s0.within L (State.tapLayer s layer) := by
  unfold State.tapLayer
  try dsimp only
  repeat' first
    | with_reducible assumption | exact Part.sub_of hL (by decide) | exact .inr (Part.in_of hL (by decide)) | with_reducible exact .inl rfl
    | intro _ | with_reducible apply State.onTap_within | with_reducible apply State.within_ite | with_reducible apply State.within_elim
    | split | with_reducible apply State.within_upd

theorem State.cancelHolders_within {s0 : State} {L : List Part} {s : State} (hw : s0.within L s) (hL : [.dial, .logs, .mbs, .sched,
    .gather, .train, .blocks, .resil] ⊆ L) :
    s0.within L (State.cancelHolders s) := by
  unfold State.cancelHolders
  try dsimp only
  repeat' first
    | with_reducible assumption | exact Part.sub_of hL (by decide) | exact .inr (Part.in_of hL (by decide)) | with_reducible exact .inl rfl
    | intro _ | with_reducible apply State.abandonDrain_within | with_reducible apply State.dropMb_within
    | with_reducible apply State.logDevice_within | with_reducible apply State.onTrain_within | with_reducible apply State.within_fold
    | with_reducible apply State.within_ite | with_reducible apply State.within_upd

theorem State.endOptimize_within {s0 : State} {L : List Part} {s : State} {c : CtxId} {j : Nat} {p : OptimizeOp} {wrote : Bool} (hw :
    s0.within L s) (hL : [.dial, .logs, .sched, .memory, .tables, .train, .links] ⊆ L) :
    s0.within L (State.endOptimize s c j p wrote) := by
  unfold State.endOptimize
  try dsimp only
  repeat' first
    | with_reducible assumption | exact Part.sub_of hL (by decide) | exact .inr (Part.in_of hL (by decide)) | with_reducible exact .inl rfl
    | intro _ | with_reducible apply State.answerHeldRows_within | with_reducible apply State.finish_within
    | with_reducible apply State.onTables_within | with_reducible apply State.onTrain_within | with_reducible apply State.tapLayer_within
    | with_reducible apply State.within_ite | with_reducible apply State.within_elim | split | with_reducible apply State.within_upd

end Sys2Proof.Machine
end

