-- ==== Sys2Proof/Laws/FrameCascade.lean ====
section
/-! SUPPORT. Frames of the functions of one area: cascade, and the remaining units. Each names the parts it can change; memory keeps its form. -/

namespace Sys2Proof.Machine

set_option Elab.async false
set_option linter.all false

theorem State.onProxyRun_within {s0 : State} {L : List Part} {s : State} {e : Nat} {f : CascadeRun → CascadeRun} (hw : s0.within L s) (hL
    : [.cascade] ⊆ L) :
    s0.within L (State.onProxyRun s e f) := by
  unfold State.onProxyRun
  try dsimp only
  repeat' first
    | with_reducible assumption | exact Part.sub_of hL (by decide) | exact .inr (Part.in_of hL (by decide)) | with_reducible exact .inl rfl
    | with_reducible apply State.onEngine_within | with_reducible apply State.within_upd

theorem State.onMember_within {s0 : State} {L : List Part} {s : State} {e : Nat} {proxy : Bool} {f : CascadeRun → CascadeRun} (hw :
    s0.within L s) (hL : [.cascade] ⊆ L) :
    s0.within L (State.onMember s e proxy f) := by
  unfold State.onMember
  try dsimp only
  repeat' first
    | with_reducible assumption | exact Part.sub_of hL (by decide) | with_reducible apply State.onCascadeRun_within
    | with_reducible apply State.onProxyRun_within | with_reducible apply State.within_ite

theorem State.sendRing_within {s0 : State} {L : List Part} {s : State} {p : Nat} {k : Packet} (hw : s0.within L s) (hL : [.links] ⊆ L) :
    s0.within L (State.sendRing s p k) := by
  unfold State.sendRing
  try dsimp only
  repeat' first
    | with_reducible assumption | exact Part.sub_of hL (by decide) | with_reducible apply State.sendPacket_within
    | with_reducible apply State.within_ite

theorem State.sendSeg_within {s0 : State} {L : List Part} {s : State} {e : Nat} {proxy : Bool} {plus : Bool} {phase : Bool} {hop : Nat} {c
    : Nat} {g : Nat} {vals : List (BitVec 32)} {marks : List Nat} {cnt : CountRecord} (hw : s0.within L s) (hL : [.links] ⊆ L) :
    s0.within L (State.sendSeg s e proxy plus phase hop c g vals marks cnt) := by
  unfold State.sendSeg
  try dsimp only
  repeat' first
    | with_reducible assumption | exact Part.sub_of hL (by decide) | with_reducible apply State.sendRing_within
    | with_reducible apply State.within_ite | split

theorem State.writeResult_within {s0 : State} {L : List Part} {s : State} {x : CascadeRun} {r : Reduction} {n : Nat} (hw : s0.within L s)
    (hL : [.logs, .memory, .links, .bytes] ⊆ L) :
    s0.within L (State.writeResult s x r n) := by
  unfold State.writeResult
  try dsimp only
  repeat' first
    | with_reducible assumption | exact Part.sub_of hL (by decide) | intro _ | with_reducible apply State.storeBeats_within
    | with_reducible apply State.within_fold | split

theorem State.noteAbsent_within {s0 : State} {L : List Part} {s : State} {e : Nat} {x : CascadeRun} {r : Reduction} {cnt : CountRecord}
    (hw : s0.within L s) (hL : [.dial, .logs, .cascade] ⊆ L) :
    s0.within L (State.noteAbsent s e x r cnt) := by
  unfold State.noteAbsent
  try dsimp only
  repeat' first
    | with_reducible assumption | exact Part.sub_of hL (by decide) | exact .inr (Part.in_of hL (by decide)) | with_reducible exact .inl rfl
    | with_reducible apply State.lapse_within | with_reducible apply State.logDevice_within | with_reducible apply State.onCascade_within
    | with_reducible apply State.onEngine_within | with_reducible apply State.within_ite | with_reducible apply State.within_upd

theorem State.weirClear_within {s0 : State} {L : List Part} {s : State} {l : Word} (hw : s0.within L s) (hL : [.train] ⊆ L) :
    s0.within L (State.weirClear s l) := by
  unfold State.weirClear
  try dsimp only
  repeat' first
    | with_reducible assumption | exact Part.sub_of hL (by decide) | exact .inr (Part.in_of hL (by decide)) | with_reducible exact .inl rfl
    | with_reducible apply State.onTrain_within | with_reducible apply State.within_ite | with_reducible apply State.within_upd

theorem State.weirRaise_within {s0 : State} {L : List Part} {s : State} {kind : Nat} {l : Word} (hw : s0.within L s) (hL : [.dial, .logs,
    .train] ⊆ L) :
    s0.within L (State.weirRaise s kind l) := by
  unfold State.weirRaise
  try dsimp only
  repeat' first
    | with_reducible assumption | exact Part.sub_of hL (by decide) | exact .inr (Part.in_of hL (by decide)) | with_reducible exact .inl rfl
    | with_reducible apply State.haltAtBoundary_within | with_reducible apply State.logDevice_within
    | with_reducible apply State.onTrain_within | with_reducible apply State.within_ite | split | with_reducible apply State.within_upd

theorem State.weirDecide_within {s0 : State} {L : List Part} {s : State} {cnt : CountRecord} (hw : s0.within L s) (hL : [.dial, .logs,
    .train, .resil] ⊆ L) :
    s0.within L (State.weirDecide s cnt) := by
  unfold State.weirDecide
  try dsimp only
  repeat' first
    | with_reducible assumption | exact Part.sub_of hL (by decide) | exact .inr (Part.in_of hL (by decide)) | with_reducible exact .inl rfl
    | with_reducible apply State.onTrain_within | with_reducible apply State.replayCheck_within
    | with_reducible apply State.weirClear_within | with_reducible apply State.weirRaise_within | with_reducible apply State.within_ite
    | with_reducible apply State.within_upd

theorem State.countChain_within {s0 : State} {L : List Part} {s : State} {x : CascadeRun} {r : Reduction} {cnt : CountRecord} (hw :
    s0.within L s) (hL : [.cascade] ⊆ L) :
    s0.within L (State.countChain s x r cnt) := by
  unfold State.countChain
  try dsimp only
  repeat' first
    | with_reducible assumption | exact Part.sub_of hL (by decide) | exact .inr (Part.in_of hL (by decide)) | with_reducible exact .inl rfl
    | intro _ | with_reducible apply State.onCascade_within | with_reducible apply State.within_fold
    | with_reducible apply State.within_ite | with_reducible apply State.within_upd

theorem State.endRun_within {s0 : State} {L : List Part} {s : State} {e : Nat} {x : CascadeRun} (hw : s0.within L s) (hL : [.dial, .mbs,
    .sched, .train, .cascade] ⊆ L) :
    s0.within L (State.endRun s e x) := by
  unfold State.endRun
  try dsimp only
  repeat' first
    | with_reducible assumption | exact Part.sub_of hL (by decide) | exact .inr (Part.in_of hL (by decide)) | with_reducible exact .inl rfl
    | with_reducible apply State.finish_within | with_reducible apply State.onEngine_within | with_reducible apply State.settle_within
    | with_reducible apply State.within_upd

theorem State.deliver_within {s0 : State} {L : List Part} {s : State} {e : Nat} (hw : s0.within L s) (hL : [.dial, .logs, .mbs, .sched,
    .memory, .train, .cascade, .links, .resil, .bytes] ⊆ L) :
    s0.within L (State.deliver s e) := by
  unfold State.deliver
  try dsimp only
  repeat' first
    | with_reducible assumption | exact Part.sub_of hL (by decide) | exact .inr (Part.in_of hL (by decide)) | with_reducible exact .inl rfl
    | with_reducible apply State.complete_within | with_reducible apply State.countChain_within | with_reducible apply State.endRun_within
    | with_reducible apply State.noteAbsent_within | with_reducible apply State.onCascade_within
    | with_reducible apply State.weirDecide_within | with_reducible apply State.writeResult_within | with_reducible apply State.within_ite
    | split | with_reducible apply State.within_upd

theorem State.sendOwn_within {s0 : State} {L : List Part} {s : State} {e : Nat} {proxy : Bool} {plus : Bool} {phase : Bool} {c : Nat} {cnt
    : CountRecord} (hw : s0.within L s) (hL : [.links] ⊆ L) :
    s0.within L (State.sendOwn s e proxy plus phase c cnt) := by
  unfold State.sendOwn
  try dsimp only
  repeat' first
    | with_reducible assumption | exact Part.sub_of hL (by decide) | intro _ | with_reducible apply State.sendSeg_within
    | with_reducible apply State.within_fold | split

theorem State.storeFinal_within {s0 : State} {L : List Part} {s : State} {e : Nat} {proxy : Bool} {r : Reduction} {c : Nat} {g : Nat}
    {vals : List (BitVec 32)} {marks : List Nat} (hw : s0.within L s) (hL : [.cascade] ⊆ L) :
    s0.within L (State.storeFinal s e proxy r c g vals marks) := by
  unfold State.storeFinal
  try dsimp only
  repeat' first
    | with_reducible assumption | exact Part.sub_of hL (by decide) | exact .inr (Part.in_of hL (by decide)) | with_reducible exact .inl rfl
    | with_reducible apply State.onMember_within | with_reducible apply State.within_upd

theorem State.storeRecord_within {s0 : State} {L : List Part} {s : State} {e : Nat} {proxy : Bool} {c : Nat} {g : Nat} {cnt : CountRecord}
    (hw : s0.within L s) (hL : [.cascade] ⊆ L) :
    s0.within L (State.storeRecord s e proxy c g cnt) := by
  unfold State.storeRecord
  try dsimp only
  repeat' first
    | with_reducible assumption | exact Part.sub_of hL (by decide) | exact .inr (Part.in_of hL (by decide)) | with_reducible exact .inl rfl
    | with_reducible apply State.onMember_within | with_reducible apply State.within_ite | with_reducible apply State.within_upd

theorem State.ownFinal_within {s0 : State} {L : List Part} {s : State} {e : Nat} {proxy : Bool} {c : Nat} (hw : s0.within L s) (hL :
    [.cascade] ⊆ L) :
    s0.within L (State.ownFinal s e proxy c) := by
  unfold State.ownFinal
  try dsimp only
  repeat' first
    | with_reducible assumption | exact Part.sub_of hL (by decide) | intro _ | with_reducible apply State.storeFinal_within
    | with_reducible apply State.storeRecord_within | with_reducible apply State.within_fold | with_reducible apply State.within_ite
    | split

theorem State.startDense_within {s0 : State} {L : List Part} {s : State} {e : Nat} {proxy : Bool} (hw : s0.within L s) (hL : [.cascade,
    .links] ⊆ L) :
    s0.within L (State.startDense s e proxy) := by
  unfold State.startDense
  try dsimp only
  repeat' first
    | with_reducible assumption | exact Part.sub_of hL (by decide) | intro _ | with_reducible apply State.ownFinal_within
    | with_reducible apply State.sendOwn_within | with_reducible apply State.within_fold | with_reducible apply State.within_ite | split

theorem State.takePartial_within {s0 : State} {L : List Part} {s : State} {e : Nat} {proxy : Bool} {x : CascadeRun} {r : Reduction} {h :
    CascadeHeader} {vals : List (BitVec 32)} {marks : List Nat} (hw : s0.within L s) (hL : [.cascade, .links] ⊆ L) :
    s0.within L (State.takePartial s e proxy x r h vals marks) := by
  unfold State.takePartial
  try dsimp only
  repeat' first
    | with_reducible assumption | exact Part.sub_of hL (by decide) | exact .inr (Part.in_of hL (by decide)) | with_reducible exact .inl rfl
    | intro _ | with_reducible apply State.onMember_within | with_reducible apply State.sendSeg_within
    | with_reducible apply State.storeFinal_within | with_reducible apply State.storeRecord_within | with_reducible apply State.within_fold
    | with_reducible apply State.within_ite | with_reducible apply State.within_elim | split | with_reducible apply State.within_upd

theorem State.takeFinal_within {s0 : State} {L : List Part} {s : State} {e : Nat} {proxy : Bool} {x : CascadeRun} {r : Reduction} {h :
    CascadeHeader} {vals : List (BitVec 32)} {marks : List Nat} (hw : s0.within L s) (hL : [.cascade, .links] ⊆ L) :
    s0.within L (State.takeFinal s e proxy x r h vals marks) := by
  unfold State.takeFinal
  try dsimp only
  repeat' first
    | with_reducible assumption | exact Part.sub_of hL (by decide) | with_reducible apply State.sendSeg_within
    | with_reducible apply State.storeFinal_within | with_reducible apply State.storeRecord_within | with_reducible apply State.within_ite
    | split

theorem State.takeDense_within {s0 : State} {L : List Part} {s : State} {e : Nat} {proxy : Bool} {h : CascadeHeader} {data : List Flit}
    (hw : s0.within L s) (hL : [.dial, .logs, .mbs, .sched, .memory, .train, .cascade, .links, .resil, .bytes] ⊆ L) :
    s0.within L (State.takeDense s e proxy h data) := by
  unfold State.takeDense
  try dsimp only
  repeat' first
    | with_reducible assumption | exact Part.sub_of hL (by decide) | exact .inr (Part.in_of hL (by decide)) | with_reducible exact .inl rfl
    | intro _ | with_reducible apply State.deliver_within | with_reducible apply State.onEngine_within
    | with_reducible apply State.onMember_within | with_reducible apply State.takeFinal_within
    | with_reducible apply State.takePartial_within | with_reducible apply State.within_ite | with_reducible apply State.within_elim
    | split | with_reducible apply State.within_upd

theorem State.sendSlots_within {s0 : State} {L : List Part} {s : State} {e : Nat} {plus : Bool} {phase : Bool} {hop : Nat} {c : Nat}
    {slots : List SparseSlot} (hw : s0.within L s) (hL : [.links] ⊆ L) :
    s0.within L (State.sendSlots s e plus phase hop c slots) := by
  unfold State.sendSlots
  try dsimp only
  repeat' first
    | with_reducible assumption | exact Part.sub_of hL (by decide) | intro _ | with_reducible apply State.sendRing_within
    | with_reducible apply State.within_fold | split

theorem State.sendRun_within {s0 : State} {L : List Part} {s : State} {e : Nat} {x : CascadeRun} {r : Reduction} {target : Nat} {upper :
    Bool} {slots : List SparseSlot} (hw : s0.within L s) (hL : [.links] ⊆ L) :
    s0.within L (State.sendRun s e x r target upper slots) := by
  unfold State.sendRun
  try dsimp only
  repeat' first
    | with_reducible assumption | exact Part.sub_of hL (by decide) | with_reducible apply State.sendSlots_within
    | with_reducible apply State.within_ite | split

theorem State.startSparse_within {s0 : State} {L : List Part} {s : State} {e : Nat} (hw : s0.within L s) (hL : [.links] ⊆ L) :
    s0.within L (State.startSparse s e) := by
  unfold State.startSparse
  try dsimp only
  repeat' first
    | with_reducible assumption | exact Part.sub_of hL (by decide) | intro _ | with_reducible apply State.sendRun_within
    | with_reducible apply State.sendSlots_within | with_reducible apply State.within_fold | with_reducible apply State.within_ite | split

theorem State.showSparse_within {s0 : State} {L : List Part} {s : State} {e : Nat} {r : Reduction} (hw : s0.within L s) (hL : [.cascade] ⊆
    L) :
    s0.within L (State.showSparse s e r) := by
  unfold State.showSparse
  try dsimp only
  repeat' first
    | with_reducible assumption | exact Part.sub_of hL (by decide) | exact .inr (Part.in_of hL (by decide)) | with_reducible exact .inl rfl
    | intro _ | with_reducible apply State.onEngine_within | with_reducible apply State.within_elim | with_reducible apply State.within_upd

theorem State.takeRow_within {s0 : State} {L : List Part} {s : State} {x : SparseSlot} {t : TableDesc} {count : Nat} {es : List Elem}
    {combine : List Elem → List Elem → List Elem} (hw : s0.within L s) (hL : [.dial, .logs, .memory, .gather, .links, .bytes] ⊆ L) :
    s0.within L (State.takeRow s x t count es combine) := by
  unfold State.takeRow
  try dsimp only
  repeat' first
    | with_reducible assumption | exact Part.sub_of hL (by decide) | intro _ | with_reducible apply State.foldCounted_within
    | with_reducible apply State.within_fold

theorem State.applyRun_within {s0 : State} {L : List Part} {s : State} {upper : Bool} {x : SparseSlot} (hw : s0.within L s) (hL : [.dial,
    .logs, .memory, .gather, .links, .bytes] ⊆ L) :
    s0.within L (State.applyRun s upper x) := by
  unfold State.applyRun
  try dsimp only
  repeat' first
    | with_reducible assumption | exact Part.sub_of hL (by decide) | with_reducible apply State.takeRow_within
    | with_reducible apply State.within_ite | split

theorem State.applyShared_within {s0 : State} {L : List Part} {s : State} {x : CascadeRun} (hw : s0.within L s) (hL : [.dial, .logs,
    .memory, .gather, .links, .bytes] ⊆ L) :
    s0.within L (State.applyShared s x) := by
  unfold State.applyShared
  try dsimp only
  repeat' first
    | with_reducible assumption | exact Part.sub_of hL (by decide) | exact .inr (Part.in_of hL (by decide)) | with_reducible exact .inl rfl
    | intro _ | with_reducible apply State.takeRow_within | with_reducible apply State.within_fold | with_reducible apply State.within_ite
    | split | with_reducible apply State.within_upd

theorem State.deliverSparse_within {s0 : State} {L : List Part} {s : State} {e : Nat} (hw : s0.within L s) (hL : [.dial, .logs, .mbs,
    .sched, .memory, .gather, .train, .cascade, .links, .bytes] ⊆ L) :
    s0.within L (State.deliverSparse s e) := by
  unfold State.deliverSparse
  try dsimp only
  repeat' first
    | with_reducible assumption | exact Part.sub_of hL (by decide) | intro _ | with_reducible apply State.applyRun_within
    | with_reducible apply State.applyShared_within | with_reducible apply State.endRun_within | with_reducible apply State.within_fold
    | with_reducible apply State.within_ite | split

theorem State.takeSparse_within {s0 : State} {L : List Part} {s : State} {e : Nat} {port : Nat} {h : CascadeHeader} {slots : List
    SparseSlot} (hw : s0.within L s) (hL : [.dial, .logs, .mbs, .sched, .memory, .gather, .train, .cascade, .links, .bytes] ⊆ L) :
    s0.within L (State.takeSparse s e port h slots) := by
  unfold State.takeSparse
  try dsimp only
  repeat' first
    | with_reducible assumption | exact Part.sub_of hL (by decide) | exact .inr (Part.in_of hL (by decide)) | with_reducible exact .inl rfl
    | intro _ | with_reducible apply State.deliverSparse_within | with_reducible apply State.onCascadeRun_within
    | with_reducible apply State.sendRun_within | with_reducible apply State.sendSlots_within
    | with_reducible apply State.showSparse_within | with_reducible apply State.within_fold | with_reducible apply State.within_ite | split
    | with_reducible apply State.within_upd

theorem State.noteHeard_within {s0 : State} {L : List Part} {s : State} {entry : Nat} {port : Nat} (hw : s0.within L s) (hL : [.cascade] ⊆
    L) :
    s0.within L (State.noteHeard s entry port) := by
  unfold State.noteHeard
  try dsimp only
  repeat' first
    | with_reducible assumption | exact Part.sub_of hL (by decide) | exact .inr (Part.in_of hL (by decide)) | with_reducible exact .inl rfl
    | with_reducible apply State.onCascade_within | with_reducible apply State.within_upd

theorem State.keepEarly_within {s0 : State} {L : List Part} {s : State} {k : CascadePacket} (hw : s0.within L s) (hL : [.cascade] ⊆ L) :
    s0.within L (State.keepEarly s k) := by
  unfold State.keepEarly
  try dsimp only
  repeat' first
    | with_reducible assumption | exact Part.sub_of hL (by decide) | exact .inr (Part.in_of hL (by decide)) | with_reducible exact .inl rfl
    | with_reducible apply State.onCascade_within | with_reducible apply State.within_upd

theorem State.takeCascade_within {s0 : State} {L : List Part} {s : State} {k : CascadePacket} (hw : s0.within L s) (hL : [.dial, .logs,
    .mbs, .sched, .memory, .gather, .train, .cascade, .links, .resil, .bytes] ⊆ L) :
    s0.within L (State.takeCascade s k) := by
  unfold State.takeCascade
  try dsimp only
  repeat' first
    | with_reducible assumption | exact Part.sub_of hL (by decide) | with_reducible apply State.keepEarly_within
    | with_reducible apply State.noteHeard_within | with_reducible apply State.sendSlots_within
    | with_reducible apply State.takeDense_within | with_reducible apply State.takeSparse_within | with_reducible apply State.within_ite
    | split

theorem State.replayEarly_within {s0 : State} {L : List Part} {s : State} (hw : s0.within L s) (hL : [.dial, .logs, .mbs, .sched, .memory,
    .gather, .train, .cascade, .links, .resil, .bytes] ⊆ L) :
    s0.within L (State.replayEarly s) := by
  unfold State.replayEarly
  try dsimp only
  repeat' first
    | with_reducible assumption | exact Part.sub_of hL (by decide) | exact .inr (Part.in_of hL (by decide)) | with_reducible exact .inl rfl
    | intro _ | with_reducible apply State.onCascade_within | with_reducible apply State.takeCascade_within
    | with_reducible apply State.within_fold | with_reducible apply State.within_upd

theorem State.showPhase_within {s0 : State} {L : List Part} {s : State} {e : Nat} {x : CascadeRun} {r : Reduction} (hw : s0.within L s)
    (hL : [.cascade] ⊆ L) :
    s0.within L (State.showPhase s e x r) := by
  unfold State.showPhase
  try dsimp only
  repeat' first
    | with_reducible assumption | exact Part.sub_of hL (by decide) | exact .inr (Part.in_of hL (by decide)) | with_reducible exact .inl rfl
    | with_reducible apply State.onEngine_within | with_reducible apply State.within_upd

theorem State.startPhase_within {s0 : State} {L : List Part} {s : State} {e : Nat} (hw : s0.within L s) (hL : [.dial, .logs, .mbs, .sched,
    .memory, .gather, .train, .cascade, .links, .resil, .bytes] ⊆ L) :
    s0.within L (State.startPhase s e) := by
  unfold State.startPhase
  try dsimp only
  repeat' first
    | with_reducible assumption | exact Part.sub_of hL (by decide) | with_reducible apply State.deliver_within
    | with_reducible apply State.deliverSparse_within | with_reducible apply State.replayEarly_within
    | with_reducible apply State.showPhase_within | with_reducible apply State.startDense_within
    | with_reducible apply State.startSparse_within | with_reducible apply State.within_ite | split

theorem State.applyNotice_within {s0 : State} {L : List Part} {s : State} {e : Nat} {axis : Nat} {n : HeldNotice} (hw : s0.within L s) (hL
    : [.dial, .cascade] ⊆ L) :
    s0.within L (State.applyNotice s e axis n) := by
  unfold State.applyNotice
  try dsimp only
  repeat' first
    | with_reducible assumption | exact Part.sub_of hL (by decide) | exact .inr (Part.in_of hL (by decide)) | with_reducible exact .inl rfl
    | with_reducible apply State.haltAtBoundary_within | with_reducible apply State.onCascadeRun_within
    | with_reducible apply State.within_ite | with_reducible apply State.within_upd

theorem State.serveProxy_within {s0 : State} {L : List Part} {s : State} {e : Nat} {x : CascadeRun} {k : Nat} {restart : Nat} (hw :
    s0.within L s) (hL : [.cascade] ⊆ L) :
    s0.within L (State.serveProxy s e x k restart) := by
  unfold State.serveProxy
  try dsimp only
  repeat' first
    | with_reducible assumption | exact Part.sub_of hL (by decide) | exact .inr (Part.in_of hL (by decide)) | with_reducible exact .inl rfl
    | with_reducible apply State.onEngine_within | with_reducible apply State.onProxyRun_within | with_reducible apply State.within_ite
    | split | with_reducible apply State.within_upd

theorem State.forwardNotice_within {s0 : State} {L : List Part} {s : State} {axis : Nat} {n : HeldNotice} {f : Flit} (hw : s0.within L s)
    (hL : [.links] ⊆ L) :
    s0.within L (State.forwardNotice s axis n f) := by
  unfold State.forwardNotice
  try dsimp only
  repeat' first
    | with_reducible assumption | exact Part.sub_of hL (by decide) | with_reducible apply State.sendFlit_within
    | with_reducible apply State.within_ite

theorem State.proxyNotice_within {s0 : State} {L : List Part} {s : State} {r : Reduction} {n : HeldNotice} {f : Flit} (hw : s0.within L s)
    (hL : [.cascade, .links] ⊆ L) :
    s0.within L (State.proxyNotice s r n f) := by
  unfold State.proxyNotice
  try dsimp only
  repeat' first
    | with_reducible assumption | exact Part.sub_of hL (by decide) | exact .inr (Part.in_of hL (by decide)) | with_reducible exact .inl rfl
    | with_reducible apply State.onCascade_within | with_reducible apply State.sendFlit_within
    | with_reducible apply State.serveProxy_within | with_reducible apply State.within_ite | split | with_reducible apply State.within_upd

theorem State.takeNotice_within {s0 : State} {L : List Part} {s : State} {n : HeldNotice} (hw : s0.within L s) (hL : [.dial, .cascade,
    .links] ⊆ L) :
    s0.within L (State.takeNotice s n) := by
  unfold State.takeNotice
  try dsimp only
  repeat' first
    | with_reducible assumption | exact Part.sub_of hL (by decide) | exact .inr (Part.in_of hL (by decide)) | with_reducible exact .inl rfl
    | with_reducible apply State.applyNotice_within | with_reducible apply State.forwardNotice_within
    | with_reducible apply State.onCascade_within | with_reducible apply State.onCascadeRun_within
    | with_reducible apply State.proxyNotice_within | with_reducible apply State.within_ite | split | with_reducible apply State.within_upd

theorem State.replayNotices_within {s0 : State} {L : List Part} {s : State} {e : Nat} {r : Reduction} {entry : Nat} (hw : s0.within L s)
    (hL : [.dial, .cascade] ⊆ L) :
    s0.within L (State.replayNotices s e r entry) := by
  unfold State.replayNotices
  try dsimp only
  repeat' first
    | with_reducible assumption | exact Part.sub_of hL (by decide) | exact .inr (Part.in_of hL (by decide)) | with_reducible exact .inl rfl
    | intro _ | with_reducible apply State.applyNotice_within | with_reducible apply State.onCascade_within
    | with_reducible apply State.onCascadeRun_within | with_reducible apply State.serveProxy_within
    | with_reducible apply State.within_fold | with_reducible apply State.within_ite | with_reducible apply State.within_elim
    | with_reducible apply State.within_upd

theorem State.noteReduced_within {s0 : State} {L : List Part} {s : State} {tensor : Nat} (hw : s0.within L s) (hL : [.train] ⊆ L) :
    s0.within L (State.noteReduced s tensor) := by
  unfold State.noteReduced
  try dsimp only
  repeat' first
    | with_reducible assumption | exact Part.sub_of hL (by decide) | exact .inr (Part.in_of hL (by decide)) | with_reducible exact .inl rfl
    | with_reducible apply State.onTrain_within | with_reducible apply State.within_ite | with_reducible apply State.within_upd

theorem State.beginReduce_within {s0 : State} {L : List Part} {s : State} {ctx : CtxId} {j : Nat} {o : Op} {r : Reduction} (hw : s0.within
    L s) (hL : [.dial, .logs, .mbs, .sched, .memory, .gather, .train, .cascade, .links, .resil, .bytes] ⊆ L) :
    s0.within L (State.beginReduce s ctx j o r) := by
  unfold State.beginReduce
  try dsimp only
  repeat' first
    | with_reducible assumption | exact Part.sub_of hL (by decide) | exact .inr (Part.in_of hL (by decide)) | with_reducible exact .inl rfl
    | intro _ | with_reducible apply State.dropCarried_within | with_reducible apply State.logDevice_within
    | with_reducible apply State.noteReduced_within | with_reducible apply State.onEngine_within
    | with_reducible apply State.replayNotices_within | with_reducible apply State.startPhase_within
    | with_reducible apply State.withdraw_within | with_reducible apply State.within_ite | with_reducible apply State.within_elim
    | with_reducible apply State.within_upd

theorem State.splitRing_within {s0 : State} {L : List Part} {s : State} {e : Nat} {x : CascadeRun} {r : Reduction} (hw : s0.within L s)
    (hL : [.dial, .logs, .cascade, .links] ⊆ L) :
    s0.within L (State.splitRing s e x r) := by
  unfold State.splitRing
  try dsimp only
  repeat' first
    | with_reducible assumption | exact Part.sub_of hL (by decide) | exact .inr (Part.in_of hL (by decide)) | with_reducible exact .inl rfl
    | with_reducible apply State.haltAtBoundary_within | with_reducible apply State.logDevice_within
    | with_reducible apply State.onEngine_within | with_reducible apply State.sendNotice_within | with_reducible apply State.within_upd

theorem State.restartOwn_within {s0 : State} {L : List Part} {s : State} {e : Nat} (hw : s0.within L s) (hL : [.dial, .logs, .mbs, .sched,
    .memory, .gather, .train, .cascade, .links, .resil, .bytes] ⊆ L) :
    s0.within L (State.restartOwn s e) := by
  unfold State.restartOwn
  try dsimp only
  repeat' first
    | with_reducible assumption | exact Part.sub_of hL (by decide) | exact .inr (Part.in_of hL (by decide)) | with_reducible exact .inl rfl
    | with_reducible apply State.onCascadeRun_within | with_reducible apply State.onEngine_within
    | with_reducible apply State.splitRing_within | with_reducible apply State.startPhase_within | with_reducible apply State.within_ite
    | split | with_reducible apply State.within_upd

theorem State.stagingRequest_within {s0 : State} {L : List Part} {s : State} {h : HkHeader} {c : Instr} {flitsOk : Bool} {fs : List (Nat ×
    Nat)} {act : State → State} (hw : s0.within L s) (hact : ∀ (x0 : State), s0.within L x0 → s0.within L (act x0)) (hL : [.logs, .links]
    ⊆ L) :
    s0.within L (State.stagingRequest s h c flitsOk fs act) := by
  unfold State.stagingRequest
  try dsimp only
  repeat' first
    | with_reducible assumption | exact Part.sub_of hL (by decide) | intro _ | with_reducible apply hact
    | with_reducible apply State.hold_within | with_reducible apply State.request_within | with_reducible apply State.within_ite

theorem State.onStaging_within {s0 : State} {L : List Part} {s : State} {f : StagingState → StagingState} (hw : s0.within L s) (hL :
    [.staging] ⊆ L) :
    s0.within L (State.onStaging s f) := by
  unfold State.onStaging
  try dsimp only
  repeat' first
    | with_reducible assumption | exact Part.sub_of hL (by decide) | exact .inr (Part.in_of hL (by decide)) | with_reducible exact .inl rfl
    | with_reducible apply State.within_upd

theorem State.startFlash_within {s0 : State} {L : List Part} {s : State} {w : FlashWork} (hw : s0.within L s) (hL : [.staging] ⊆ L) :
    s0.within L (State.startFlash s w) := by
  unfold State.startFlash
  try dsimp only
  repeat' first
    | with_reducible assumption | exact Part.sub_of hL (by decide) | exact .inr (Part.in_of hL (by decide)) | with_reducible exact .inl rfl
    | with_reducible apply State.onStaging_within | with_reducible apply State.within_upd

theorem State.openStaging_within {s0 : State} {L : List Part} {s : State} {h : HkHeader} (hw : s0.within L s) (hL : [.staging, .logs,
    .links] ⊆ L) :
    s0.within L (State.openStaging s h) := by
  unfold State.openStaging
  try dsimp only
  repeat' first
    | with_reducible assumption | exact Part.sub_of hL (by decide) | exact .inr (Part.in_of hL (by decide)) | with_reducible exact .inl rfl
    | with_reducible apply State.complete_within | with_reducible apply State.onStaging_within
    | with_reducible apply State.startFlash_within | with_reducible apply State.within_ite | with_reducible apply State.within_upd

theorem State.writeStaging_within {s0 : State} {L : List Part} {s : State} {h : HkHeader} {offset : Nat} {data : List Flit} (hw :
    s0.within L s) (hL : [.staging, .logs, .links] ⊆ L) :
    s0.within L (State.writeStaging s h offset data) := by
  unfold State.writeStaging
  try dsimp only
  repeat' first
    | with_reducible assumption | exact Part.sub_of hL (by decide) | with_reducible apply State.complete_within
    | with_reducible apply State.startFlash_within | with_reducible apply State.within_ite

theorem State.commitStaging_within {s0 : State} {L : List Part} {s : State} {h : HkHeader} (hw : s0.within L s) (hL : [.staging, .logs,
    .links] ⊆ L) :
    s0.within L (State.commitStaging s h) := by
  unfold State.commitStaging
  try dsimp only
  repeat' first
    | with_reducible assumption | exact Part.sub_of hL (by decide) | exact .inr (Part.in_of hL (by decide)) | with_reducible exact .inl rfl
    | with_reducible apply State.complete_within | with_reducible apply State.onStaging_within | with_reducible apply State.within_ite
    | with_reducible apply State.within_upd

theorem State.discardStaging_within {s0 : State} {L : List Part} {s : State} {h : HkHeader} (hw : s0.within L s) (hL : [.staging, .logs,
    .links] ⊆ L) :
    s0.within L (State.discardStaging s h) := by
  unfold State.discardStaging
  try dsimp only
  repeat' first
    | with_reducible assumption | exact Part.sub_of hL (by decide) | exact .inr (Part.in_of hL (by decide)) | with_reducible exact .inl rfl
    | with_reducible apply State.countError_within | with_reducible apply State.onStaging_within
    | with_reducible apply State.sendCompletion_within | with_reducible apply State.startFlash_within | split
    | with_reducible apply State.within_upd

theorem State.endVerify_within {s0 : State} {L : List Part} {s : State} {r : Option Nat} (hw : s0.within L s) (hL : [.flash, .start,
    .staging, .logs] ⊆ L) :
    s0.within L (State.endVerify s r) := by
  unfold State.endVerify
  try dsimp only
  repeat' first
    | with_reducible assumption | exact Part.sub_of hL (by decide) | exact .inr (Part.in_of hL (by decide)) | with_reducible exact .inl rfl
    | with_reducible apply State.countError_within | split | with_reducible apply State.within_upd

theorem State.endFlash_within {s0 : State} {L : List Part} {s : State} {w : FlashWork} (hw : s0.within L s) (hL : [.flash, .staging] ⊆ L) :
    s0.within L (State.endFlash s w) := by
  unfold State.endFlash
  try dsimp only
  repeat' first
    | with_reducible assumption | exact Part.sub_of hL (by decide) | exact .inr (Part.in_of hL (by decide)) | with_reducible exact .inl rfl
    | intro _ | with_reducible apply State.within_ite | with_reducible apply State.within_elim | split
    | with_reducible apply State.within_upd

theorem State.onCore_within {s0 : State} {L : List Part} {s : State} {i : Nat} {f : ControlCore → ControlCore} (hw : s0.within L s) (hL :
    [.cores] ⊆ L) :
    s0.within L (State.onCore s i f) := by
  unfold State.onCore
  try dsimp only
  repeat' first
    | with_reducible assumption | exact Part.sub_of hL (by decide) | exact .inr (Part.in_of hL (by decide)) | with_reducible exact .inl rfl
    | with_reducible apply State.within_upd

theorem State.coreFailed_within {s0 : State} {L : List Part} {s : State} {watcher : Nat} {w : Nat} (hw : s0.within L s) (hL : [.dial,
    .logs, .cores, .resil] ⊆ L) :
    s0.within L (State.coreFailed s watcher w) := by
  unfold State.coreFailed
  try dsimp only
  repeat' first
    | with_reducible assumption | exact Part.sub_of hL (by decide) | exact .inr (Part.in_of hL (by decide)) | with_reducible exact .inl rfl
    | with_reducible apply State.haltAtBoundary_within | with_reducible apply State.logDevice_within
    | with_reducible apply State.onCore_within | with_reducible apply State.onResil_within | split | with_reducible apply State.within_upd

theorem State.answerHeld_within {s0 : State} {L : List Part} {s : State} {c : Instr} {step : Nat} (hw : s0.within L s) (hL : [.flash,
    .start, .staging, .logs, .run, .mbs, .sched, .memory, .tables, .cursors, .rambler, .gather, .train, .blocks, .cascade, .links, .resil]
    ⊆ L) :
    s0.within L (State.answerHeld s c step) := by
  unfold State.answerHeld
  split
  case h_6 =>
    split
    · exact State.answerRun_within hw (fun x hx => State.runEffect_within hx (Part.sub_of hL (by decide))) (Part.sub_of hL (by decide))
    · exact hw
  all_goals
    first
      | exact State.answerAttest_within hw (Part.sub_of hL (by decide)) | exact State.openStaging_within hw (Part.sub_of hL (by decide))
      | exact State.writeStaging_within hw (Part.sub_of hL (by decide)) | exact State.commitStaging_within hw (Part.sub_of hL (by decide))
      | exact State.discardStaging_within hw (Part.sub_of hL (by decide))

theorem State.answerAllHeld_within {s0 : State} {L : List Part} {s : State} {role : Nat} (hw : s0.within L s) (hL : [.flash, .start,
    .staging, .logs, .run, .mbs, .sched, .memory, .tables, .cursors, .rambler, .gather, .train, .blocks, .cascade, .links, .resil] ⊆ L) :
    s0.within L (State.answerAllHeld s role) := by
  unfold State.answerAllHeld
  try dsimp only
  repeat' first
    | with_reducible assumption | exact Part.sub_of hL (by decide) | exact .inr (Part.in_of hL (by decide)) | with_reducible exact .inl rfl
    | intro _ | with_reducible apply State.answerHeld_within | with_reducible apply State.onLinks_within
    | with_reducible apply State.within_fold | with_reducible apply State.within_upd

theorem State.countParity_within {s0 : State} {L : List Part} {s : State} {off : Nat} {n : Nat} (hw : s0.within L s) (hL : [.logs,
    .blocks, .resil] ⊆ L) :
    s0.within L (State.countParity s off n) := by
  unfold State.countParity
  try dsimp only
  repeat' first
    | with_reducible assumption | exact Part.sub_of hL (by decide) | exact .inr (Part.in_of hL (by decide)) | with_reducible exact .inl rfl
    | intro _ | with_reducible apply State.noteWear_within | with_reducible apply State.onBlock_within
    | with_reducible apply State.within_fold | with_reducible apply State.within_ite | with_reducible apply State.within_upd

theorem State.wakeIntake_within {s0 : State} {L : List Part} {s : State} {tier : Nat} {off : Nat} {n : Nat} (hw : s0.within L s) (hL :
    [.sched] ⊆ L) :
    s0.within L (State.wakeIntake s tier off n) := by
  unfold State.wakeIntake
  try dsimp only
  repeat' first
    | with_reducible assumption | exact Part.sub_of hL (by decide) | exact .inr (Part.in_of hL (by decide)) | with_reducible exact .inl rfl
    | with_reducible apply State.within_ite | split | with_reducible apply State.within_upd

theorem State.streamIn_within {s0 : State} {L : List Part} {s : State} {tier : Nat} {off : Nat} {data : List Flit} (hw : s0.within L s)
    (hL : [.dial, .logs, .mbs, .sched, .memory, .tables, .train, .links, .bytes] ⊆ L) :
    s0.within L (State.streamIn s tier off data) := by
  unfold State.streamIn
  try dsimp only
  repeat' first
    | with_reducible assumption | exact Part.sub_of hL (by decide) | intro _ | with_reducible apply State.countDefaultWrites_within
    | with_reducible apply State.replayMoves_within | with_reducible apply State.settle_within | with_reducible apply State.store_within
    | with_reducible apply State.wakeIntake_within | with_reducible apply State.within_fold

theorem State.writeStatus_within {s0 : State} {L : List Part} {s : State} {a : Nat} {data : List Flit} (hw : s0.within L s) (hL : [.draws,
    .dial, .logs, .run, .mbs, .sched, .memory, .tables, .cursors, .train, .blocks, .cascade, .links, .resil, .bytes] ⊆ L) :
    s0.within L (State.writeStatus s a data) := by
  unfold State.writeStatus
  try dsimp only
  repeat' first
    | with_reducible assumption | exact Part.sub_of hL (by decide) | intro _ | with_reducible apply State.writeCtl_within
    | with_reducible apply State.within_elim

theorem State.writeRequest_within {s0 : State} {L : List Part} {s : State} {h : HkHeader} {addr : Word} {data : List Flit} (hw : s0.within
    L s) (hL : [.draws, .dial, .logs, .run, .mbs, .sched, .memory, .tables, .cursors, .train, .blocks, .cascade, .links, .resil, .bytes] ⊆
    L) :
    s0.within L (State.writeRequest s h addr data) := by
  unfold State.writeRequest
  try dsimp only
  repeat' first
    | with_reducible assumption | exact Part.sub_of hL (by decide) | intro _ | with_reducible apply State.complete_within
    | with_reducible apply State.forward_within | with_reducible apply State.request_within | with_reducible apply State.streamIn_within
    | with_reducible apply State.writeStatus_within | with_reducible apply State.within_ite

theorem State.answerMem_within {s0 : State} {L : List Part} {s : State} {src : Coord} {data : Option (List Flit)} {tag : Nat} {code : Nat}
    {poison : Nat} (hw : s0.within L s) (hL : [.logs, .links] ⊆ L) :
    s0.within L (State.answerMem s src data tag code poison) := by
  unfold State.answerMem
  try dsimp only
  repeat' first
    | with_reducible assumption | exact Part.sub_of hL (by decide) | with_reducible apply State.sendTo_within | split

theorem State.acknowledge_within {s0 : State} {L : List Part} {s : State} {p : Nat} {nak : Bool} (hw : s0.within L s) (hL : [.links] ⊆ L) :
    s0.within L (State.acknowledge s p nak) := by
  unfold State.acknowledge
  try dsimp only
  repeat' first
    | with_reducible assumption | exact Part.sub_of hL (by decide) | exact .inr (Part.in_of hL (by decide)) | with_reducible exact .inl rfl
    | with_reducible apply State.onPort_within | with_reducible apply State.sendControl_within | with_reducible apply State.within_upd

theorem State.sendNak_within {s0 : State} {L : List Part} {s : State} {p : Nat} (hw : s0.within L s) (hL : [.logs, .links] ⊆ L) :
    s0.within L (State.sendNak s p) := by
  unfold State.sendNak
  try dsimp only
  repeat' first
    | with_reducible assumption | exact Part.sub_of hL (by decide) | exact .inr (Part.in_of hL (by decide)) | with_reducible exact .inl rfl
    | with_reducible apply State.acknowledge_within | with_reducible apply State.fastRetrain_within
    | with_reducible apply State.onPort_within | with_reducible apply State.within_ite | with_reducible apply State.within_upd

theorem State.forwardPacket_within {s0 : State} {L : List Part} {s : State} {inPort : Nat} {flits : List Flit} (hw : s0.within L s) (hL :
    [.logs, .links] ⊆ L) :
    s0.within L (State.forwardPacket s inPort flits) := by
  unfold State.forwardPacket
  try dsimp only
  repeat' first
    | with_reducible assumption | exact Part.sub_of hL (by decide) | intro _ | with_reducible apply State.route_within
    | with_reducible apply State.within_ite | with_reducible apply State.within_elim | split

theorem State.endPacket_within {s0 : State} {L : List Part} {s : State} {p : Nat} (hw : s0.within L s) (hL : [.logs, .links] ⊆ L) :
    s0.within L (State.endPacket s p) := by
  unfold State.endPacket
  try dsimp only
  repeat' first
    | with_reducible assumption | exact Part.sub_of hL (by decide) | exact .inr (Part.in_of hL (by decide)) | with_reducible exact .inl rfl
    | intro _ | with_reducible apply State.countError_within | with_reducible apply State.forwardPacket_within
    | with_reducible apply State.onPort_within | with_reducible apply State.sendCompletion_within | with_reducible apply State.within_ite
    | with_reducible apply State.within_elim | split | with_reducible apply State.within_upd

theorem State.rxFlit_within {s0 : State} {L : List Part} {s : State} {p : Nat} {f : Flit} (hw : s0.within L s) (hL : [.logs, .links] ⊆ L) :
    s0.within L (State.rxFlit s p f) := by
  unfold State.rxFlit
  try dsimp only
  repeat' first
    | with_reducible assumption | exact Part.sub_of hL (by decide) | exact .inr (Part.in_of hL (by decide)) | with_reducible exact .inl rfl
    | with_reducible apply State.endPacket_within | with_reducible apply State.linkProtocol_within
    | with_reducible apply State.logDevice_within | with_reducible apply State.onPort_within | with_reducible apply State.within_ite
    | split | with_reducible apply State.within_upd

theorem State.writeLine_within {s0 : State} {L : List Part} {s : State} {tier : Nat} {off : Nat} {bytes : List Byte} {poisoned : Bool}
    {finding : LineFinding} (hw : s0.within L s) (hL : [.dial, .logs, .memory, .blocks, .resil, .bytes] ⊆ L) :
    s0.within L (State.writeLine s tier off bytes poisoned finding) := by
  unfold State.writeLine
  try dsimp only
  repeat' first
    | with_reducible assumption | exact Part.sub_of hL (by decide) | with_reducible rfl | exact Memory.setPoison_wf _ _
    | with_reducible apply State.readLine_within | with_reducible apply State.store_within | with_reducible apply State.withMem_within
    | with_reducible apply State.within_ite

theorem State.rotate_within {s0 : State} {L : List Part} {s : State} {arb : Nat} {cls : Nat} {won : Nat} (hw : s0.within L s) (hL :
    [.memory] ⊆ L) :
    s0.within L (State.rotate s arb cls won) := by
  unfold State.rotate
  try dsimp only
  repeat' first
    | with_reducible assumption | exact Part.sub_of hL (by decide) | exact .inr (Part.in_of hL (by decide)) | with_reducible exact .inl rfl
    | with_reducible rfl | exact Memory.setPoison_wf _ _ | with_reducible apply State.onMemory_within
    | with_reducible apply State.within_upd

theorem State.fabricWords_within {s0 : State} {L : List Part} {s : State} {arb : Arbiter} {h : PortGrant} {fault : FabricFault} (hw :
    s0.within L s) (hL : [.memory, .gather, .bytes] ⊆ L) :
    s0.within L (State.fabricWords s arb h fault) := by
  unfold State.fabricWords
  try dsimp only
  repeat' first
    | with_reducible assumption | exact Part.sub_of hL (by decide) | exact .inr (Part.in_of hL (by decide)) | with_reducible exact .inl rfl
    | intro _ | with_reducible rfl | exact Memory.setPoison_wf _ _ ‹_› | with_reducible apply State.onGather_within
    | with_reducible apply State.onMemory_within | with_reducible apply State.withMem_within | with_reducible apply State.within_ite
    | with_reducible apply State.within_elim | split | with_reducible apply State.within_upd

theorem State.endGrant_within {s0 : State} {L : List Part} {s : State} {arb : Arbiter} {h : PortGrant} {fault : FabricFault} (hw :
    s0.within L s) (hL : [.memory, .gather, .bytes] ⊆ L) :
    s0.within L (State.endGrant s arb h fault) := by
  unfold State.endGrant
  try dsimp only
  repeat' first
    | with_reducible assumption | exact Part.sub_of hL (by decide) | exact .inr (Part.in_of hL (by decide)) | with_reducible exact .inl rfl
    | with_reducible rfl | exact Memory.setPoison_wf _ _ | with_reducible apply State.fabricWords_within
    | with_reducible apply State.onMemory_within | with_reducible apply State.within_ite | with_reducible apply State.within_upd

theorem State.revokeGrant_within {s0 : State} {L : List Part} {s : State} {arb : Arbiter} {h : PortGrant} (hw : s0.within L s) (hL :
    [.memory] ⊆ L) :
    s0.within L (State.revokeGrant s arb h) := by
  unfold State.revokeGrant
  try dsimp only
  repeat' first
    | with_reducible assumption | exact Part.sub_of hL (by decide) | exact .inr (Part.in_of hL (by decide)) | with_reducible exact .inl rfl
    | with_reducible rfl | exact Memory.setPoison_wf _ _ | with_reducible apply State.onController_within
    | with_reducible apply State.onMemory_within | with_reducible apply State.within_ite | split | with_reducible apply State.within_upd

theorem State.noteWaits_within {s0 : State} {L : List Part} {s : State} {c : Nat} {requests : List FabricRequest} (hw : s0.within L s) (hL
    : [.memory] ⊆ L) :
    s0.within L (State.noteWaits s c requests) := by
  unfold State.noteWaits
  try dsimp only
  repeat' first
    | with_reducible assumption | exact Part.sub_of hL (by decide) | exact .inr (Part.in_of hL (by decide)) | with_reducible exact .inl rfl
    | intro _ | with_reducible apply State.onController_within | with_reducible apply State.within_fold
    | with_reducible apply State.within_ite | with_reducible apply State.within_upd

theorem State.regulate_within {s0 : State} {L : List Part} {s : State} {c : Nat} {requests : List FabricRequest} {q : FabricRequest}
    {bytes : Nat} (hw : s0.within L s) (hL : [.memory] ⊆ L) :
    s0.within L (State.regulate s c requests q bytes) := by
  unfold State.regulate
  try dsimp only
  repeat' first
    | with_reducible assumption | exact Part.sub_of hL (by decide) | exact .inr (Part.in_of hL (by decide)) | with_reducible exact .inl rfl
    | intro _ | with_reducible apply State.noteWaits_within | with_reducible apply State.onController_within
    | with_reducible apply State.onPart_within | with_reducible apply State.within_ite | with_reducible apply State.within_elim
    | with_reducible apply State.within_upd

theorem State.arbitrate_within {s0 : State} {L : List Part} {s : State} {arb : Arbiter} {requests : List FabricRequest} (hw : s0.within L
    s) (hL : [.memory] ⊆ L) :
    s0.within L (State.arbitrate s arb requests) := by
  unfold State.arbitrate
  try dsimp only
  repeat' first
    | with_reducible assumption | exact Part.sub_of hL (by decide) | exact .inr (Part.in_of hL (by decide)) | with_reducible exact .inl rfl
    | intro _ | with_reducible rfl | exact Memory.setPoison_wf _ _ | with_reducible apply State.noteWaits_within
    | with_reducible apply State.onMemory_within | with_reducible apply State.regulate_within | with_reducible apply State.rotate_within
    | with_reducible apply State.within_elim | split | with_reducible apply State.within_upd

theorem State.scrubbedLine_within {s0 : State} {L : List Part} {s : State} {p : Nat} {part : Partition} {c : Nat} (hw : s0.within L s) (hL
    : [.logs, .memory] ⊆ L) :
    s0.within L (State.scrubbedLine s p part c) := by
  unfold State.scrubbedLine
  try dsimp only
  repeat' first
    | with_reducible assumption | exact Part.sub_of hL (by decide) | with_reducible apply State.logDevice_within
    | with_reducible apply State.onPart_within | with_reducible apply State.within_ite

theorem State.scrubLine_within {s0 : State} {L : List Part} {s : State} {tier : Nat} {off : Nat} {finding : LineFinding} (hw : s0.within L
    s) (hL : [.dial, .logs, .memory, .blocks, .resil, .bytes] ⊆ L) :
    s0.within L (State.scrubLine s tier off finding) := by
  unfold State.scrubLine
  try dsimp only
  repeat' first
    | with_reducible assumption | exact Part.sub_of hL (by decide) | exact .inr (Part.in_of hL (by decide)) | with_reducible exact .inl rfl
    | intro _ | with_reducible rfl | exact Memory.setPoison_wf _ _ ‹_› | with_reducible apply State.logDevice_within
    | with_reducible apply State.onPart_within | with_reducible apply State.readLine_within | with_reducible apply State.stepFault_within
    | with_reducible apply State.withMem_within | with_reducible apply State.within_ite | with_reducible apply State.within_elim | split
    | with_reducible apply State.within_upd

theorem State.writeBasket_within {s0 : State} {L : List Part} {s : State} {m : MicroBatch} {lists : Nat} {trail : Nat} {b : Basket} (hw :
    s0.within L s) (hL : [.logs, .memory, .links, .bytes] ⊆ L) :
    s0.within L (State.writeBasket s m lists trail b) := by
  unfold State.writeBasket
  try dsimp only
  repeat' first
    | with_reducible assumption | exact Part.sub_of hL (by decide) | with_reducible apply State.placeStore_within | split

theorem State.dropSample_within {s0 : State} {L : List Part} {s : State} {c : CtxId} {f : SampleFault} (hw : s0.within L s) (hL : [.dial,
    .logs, .mbs, .sched, .memory, .rambler, .gather, .train, .blocks] ⊆ L) :
    s0.within L (State.dropSample s c f) := by
  unfold State.dropSample
  try dsimp only
  repeat' first
    | with_reducible assumption | exact Part.sub_of hL (by decide) | exact .inr (Part.in_of hL (by decide)) | with_reducible exact .inl rfl
    | intro _ | with_reducible apply State.dropFor_within | with_reducible apply State.noteReads_within
    | with_reducible apply State.settle_within | with_reducible apply State.within_elim | with_reducible apply State.within_upd

theorem State.awaitSector_within {s0 : State} {L : List Part} {s : State} {c : CtxId} {addr : Nat} (hw : s0.within L s) (hL : [.dial,
    .logs, .mbs, .sched, .gather, .train, .blocks] ⊆ L) :
    s0.within L (State.awaitSector s c addr) := by
  unfold State.awaitSector
  try dsimp only
  repeat' first
    | with_reducible assumption | exact Part.sub_of hL (by decide) | exact .inr (Part.in_of hL (by decide)) | with_reducible exact .inl rfl
    | with_reducible apply State.onGather_within | with_reducible apply State.timeOut_within | with_reducible apply State.within_ite
    | split | with_reducible apply State.within_upd

theorem State.fillRange_within {s0 : State} {L : List Part} {s : State} {pattern : BitVec 64} {k : Nat} {n : Nat} (hw : s0.within L s) (hL
    : [.memory, .bytes] ⊆ L) :
    s0.within L (State.fillRange s pattern k n) := by
  unfold State.fillRange
  dsimp only
  exact State.withMem_within (Memory.marks_wf fun m k hm => Memory.setPoison_wf _ _ hm) (State.store_within hw hL) hL

theorem State.checkRing_within {s0 : State} {L : List Part} {s : State} {c : CtxId} {t : TaskContext} {i : Nat} {x : Operand} (hw :
    s0.within L s) (hL : [.dial, .logs, .run, .sched, .memory, .cursors] ⊆ L) :
    s0.within L (State.checkRing s c t i x) := by
  unfold State.checkRing
  try dsimp only
  repeat' first
    | with_reducible assumption | exact Part.sub_of hL (by decide) | exact .inr (Part.in_of hL (by decide)) | with_reducible exact .inl rfl
    | with_reducible apply State.finish_within | with_reducible apply State.logDevice_within | with_reducible apply State.noteReads_within
    | with_reducible apply State.onCursor_within | with_reducible apply State.onRun_within | with_reducible apply State.setCtx_within
    | with_reducible apply State.within_ite | split | with_reducible apply State.within_upd

theorem State.tapLoad_within {s0 : State} {L : List Part} {s : State} {i : TapInstr} {capture : Nat} (hw : s0.within L s) (hL : [.power] ⊆
    L) :
    s0.within L (State.tapLoad s i capture) := by
  unfold State.tapLoad
  try dsimp only
  repeat' first
    | with_reducible assumption | exact Part.sub_of hL (by decide) | exact .inr (Part.in_of hL (by decide)) | with_reducible exact .inl rfl
    | with_reducible apply State.within_ite | with_reducible apply State.within_upd

theorem State.tapDrive_within {s0 : State} {L : List Part} {s : State} {i : TapInstr} {capture : Nat} (hw : s0.within L s) (hL : [.power]
    ⊆ L) :
    s0.within L (State.tapDrive s i capture) := by
  unfold State.tapDrive
  try dsimp only
  repeat' first
    | with_reducible assumption | exact Part.sub_of hL (by decide) | exact .inr (Part.in_of hL (by decide)) | with_reducible exact .inl rfl
    | with_reducible apply State.tapLoad_within | with_reducible apply State.within_ite | with_reducible apply State.within_upd

end Sys2Proof.Machine
end

