-- ==== Sys2Proof/Laws/Commands.lean ====
section
/-! SUPPORT. Every command answers a next state, and changes only the parts named here. -/

namespace Sys2Proof.Machine

set_option Elab.async false
set_option linter.all false

theorem execDispatch_within {region : Region} {cls : UnitClass} {s : State} {L : List Part} (hL : [.dial, .mbs, .sched, .memory, .tables,
    .cursors, .train] ⊆ L) :
    ∃ t, execDispatch region cls s = .next t ∧ s.within L t := by
  have hw := State.within_refl s L
  refine ⟨_, rfl, ?_⟩
  try dsimp only
  repeat' first
    | with_reducible assumption | exact Part.sub_of hL (by decide) | with_reducible apply State.dispatch_within
    | with_reducible apply State.settle_within

theorem execInstanceComplete_within {ctx : CtxId} {s : State} {L : List Part} (hL : [.dial, .mbs, .sched, .gather, .train] ⊆ L) :
    ∃ t, execInstanceComplete ctx s = .next t ∧ s.within L t := by
  have hw := State.within_refl s L
  refine ⟨_, rfl, ?_⟩
  try dsimp only
  repeat' first
    | with_reducible assumption | exact Part.sub_of hL (by decide) | with_reducible apply State.completeCtx_within
    | with_reducible apply State.within_ite | split

theorem execContextTimeout_within {ctx : CtxId} {s : State} {L : List Part} (hL : [.sched] ⊆ L) :
    ∃ t, execContextTimeout ctx s = .next t ∧ s.within L t := by
  have hw := State.within_refl s L
  refine ⟨_, rfl, ?_⟩
  try dsimp only
  repeat' first
    | with_reducible assumption | exact Part.sub_of hL (by decide) | exact .inr (Part.in_of hL (by decide)) | with_reducible exact .inl rfl
    | with_reducible apply State.onRegion_within | with_reducible apply State.setCtx_within | with_reducible apply State.within_ite | split
    | with_reducible apply State.within_upd

theorem execMigrationCopyComplete_within {table : BitVec 8} {node : BitVec 40} {s : State} {L : List Part} (hL : [.draws, .logs, .memory,
    .tables, .bytes] ⊆ L) :
    ∃ t, execMigrationCopyComplete table node s = .next t ∧ s.within L t := by
  have hw := State.within_refl s L
  refine ⟨_, rfl, ?_⟩
  try dsimp only
  repeat' first
    | with_reducible assumption | exact Part.sub_of hL (by decide) | exact .inr (Part.in_of hL (by decide)) | with_reducible exact .inl rfl
    | with_reducible apply State.draw_within | with_reducible apply State.endBatchRow_within | with_reducible apply State.logDevice_within
    | with_reducible apply State.onTables_within | with_reducible apply State.promoteWaiting_within
    | with_reducible apply State.store_within | with_reducible apply State.within_ite | split | with_reducible apply State.within_upd

theorem execShardMapReload_within {region : Region} {corrected : Bool} {s : State} {L : List Part} (hL : [.logs, .tables] ⊆ L) :
    ∃ t, execShardMapReload region corrected s = .next t ∧ s.within L t := by
  have hw := State.within_refl s L
  refine ⟨_, rfl, ?_⟩
  try dsimp only
  repeat' first
    | with_reducible assumption | exact Part.sub_of hL (by decide) | exact .inr (Part.in_of hL (by decide)) | with_reducible exact .inl rfl
    | with_reducible apply State.logDevice_within | with_reducible apply State.onTables_within | with_reducible apply State.within_ite
    | with_reducible apply State.within_upd

theorem execReshardHoldEnd_within {s : State} {L : List Part} (hL : [.draws, .logs, .tables, .links] ⊆ L) :
    ∃ t, execReshardHoldEnd s = .next t ∧ s.within L t := by
  have hw := State.within_refl s L
  refine ⟨_, rfl, ?_⟩
  try dsimp only
  repeat' first
    | with_reducible assumption | exact Part.sub_of hL (by decide) | exact .inr (Part.in_of hL (by decide)) | with_reducible exact .inl rfl
    | with_reducible apply State.draw_within | with_reducible apply State.onTables_within | with_reducible apply State.sendPieces_within
    | with_reducible apply State.within_ite | with_reducible apply State.within_upd

theorem execReshardMoveComplete_within {s : State} {L : List Part} (hL : [.dial, .tables, .links] ⊆ L) :
    ∃ t, execReshardMoveComplete s = .next t ∧ s.within L t := by
  have hw := State.within_refl s L
  refine ⟨_, rfl, ?_⟩
  try dsimp only
  repeat' first
    | with_reducible assumption | exact Part.sub_of hL (by decide) | exact .inr (Part.in_of hL (by decide)) | with_reducible exact .inl rfl
    | with_reducible apply State.noteCompletions_within | with_reducible apply State.onDial_within
    | with_reducible apply State.onTables_within | with_reducible apply State.sendUp_within | with_reducible apply State.within_ite
    | with_reducible apply State.within_upd

theorem execActivate_within {ctx : CtxId} {s : State} {L : List Part} (hL : [.draws, .dial, .logs, .mbs, .sched, .memory, .gather, .train,
    .blocks, .links, .bytes] ⊆ L) :
    ∃ t, execActivate ctx s = .next t ∧ s.within L t := by
  have hw := State.within_refl s L
  refine ⟨_, rfl, ?_⟩
  try dsimp only
  repeat' first
    | with_reducible assumption | exact Part.sub_of hL (by decide) | intro _ | with_reducible apply State.draw_within
    | with_reducible apply State.dropPoison_within | with_reducible apply State.endForward_within
    | with_reducible apply State.noteOperand_within | with_reducible apply State.runForward_within
    | with_reducible apply State.writeRows_within | with_reducible apply State.within_ite | split

theorem execNormalise_within {ctx : CtxId} {s : State} {L : List Part} (hL : [.draws, .dial, .logs, .mbs, .sched, .memory, .gather,
    .train, .blocks, .links, .bytes] ⊆ L) :
    ∃ t, execNormalise ctx s = .next t ∧ s.within L t := by
  have hw := State.within_refl s L
  refine ⟨_, rfl, ?_⟩
  try dsimp only
  repeat' first
    | with_reducible assumption | exact Part.sub_of hL (by decide) | intro _ | with_reducible apply State.draw_within
    | with_reducible apply State.dropPoison_within | with_reducible apply State.endForward_within
    | with_reducible apply State.noteOperand_within | with_reducible apply State.runForward_within
    | with_reducible apply State.writeRows_within | with_reducible apply State.within_ite | with_reducible apply State.within_elim | split

theorem execLoss_within {ctx : CtxId} {s : State} {L : List Part} (hL : [.draws, .dial, .logs, .mbs, .sched, .memory, .gather, .train,
    .blocks, .links, .bytes] ⊆ L) :
    ∃ t, execLoss ctx s = .next t ∧ s.within L t := by
  have hw := State.within_refl s L
  refine ⟨_, rfl, ?_⟩
  try dsimp only
  repeat' first
    | with_reducible assumption | exact Part.sub_of hL (by decide) | exact .inr (Part.in_of hL (by decide)) | with_reducible exact .inl rfl
    | intro _ | with_reducible apply State.draw_within | with_reducible apply State.dropPoison_within
    | with_reducible apply State.endForward_within | with_reducible apply State.noteOperand_within | with_reducible apply State.onMb_within
    | with_reducible apply State.runForward_within | with_reducible apply State.writeRows_within | with_reducible apply State.within_fold
    | with_reducible apply State.within_ite | with_reducible apply State.within_elim | split | with_reducible apply State.within_upd

theorem execSpout_within {ctx : CtxId} {sub : Fin 32} {accesses : List SpoutAccess} {s : State} {L : List Part} (hL : [.dial, .logs, .mbs,
    .sched, .memory, .tables, .gather, .train, .blocks, .links, .bytes] ⊆ L) :
    ∃ t, execSpout ctx sub accesses s = .next t ∧ s.within L t := by
  have hw := State.within_refl s L
  refine ⟨_, rfl, ?_⟩
  try dsimp only
  repeat' first
    | with_reducible assumption | exact Part.sub_of hL (by decide) | exact .inr (Part.in_of hL (by decide)) | with_reducible exact .inl rfl
    | intro _ | with_reducible apply State.dropPoison_within | with_reducible apply State.endForward_within
    | with_reducible apply State.runForward_within | with_reducible apply State.setCtx_within
    | with_reducible apply State.spoutFault_within | with_reducible apply State.spoutRun_within | with_reducible apply State.within_ite
    | split | with_reducible refine State.within_fst (by assumption) ?_ | with_reducible apply State.within_upd

theorem execSpoutBudget_within {ctx : CtxId} {s : State} {L : List Part} (hL : [.dial, .logs, .mbs, .sched, .gather, .train, .blocks] ⊆ L) :
    ∃ t, execSpoutBudget ctx s = .next t ∧ s.within L t := by
  have hw := State.within_refl s L
  refine ⟨_, rfl, ?_⟩
  try dsimp only
  repeat' first
    | with_reducible assumption | exact Part.sub_of hL (by decide) | intro _ | with_reducible apply State.runForward_within
    | with_reducible apply State.spoutFault_within | split

theorem execSpoutPoolBackward_within {ctx : CtxId} {s : State} {L : List Part} (hL : [.draws, .dial, .logs, .mbs, .sched, .memory,
    .gather, .train, .blocks, .links, .bytes] ⊆ L) :
    ∃ t, execSpoutPoolBackward ctx s = .next t ∧ s.within L t := by
  have hw := State.within_refl s L
  refine ⟨_, rfl, ?_⟩
  try dsimp only
  repeat' first
    | with_reducible assumption | exact Part.sub_of hL (by decide) | intro _ | with_reducible apply State.activateBack_within
    | with_reducible apply State.normaliseBack_within | with_reducible apply State.runBackward_within
    | with_reducible apply State.runUnpoisoned_within | split

theorem execVinRise_within {strap : BitVec 3} {s : State} {L : List Part} (hL : [.power] ⊆ L) :
    ∃ t, execVinRise strap s = .next t ∧ s.within L t := by
  have hw := State.within_refl s L
  refine ⟨_, rfl, ?_⟩
  try dsimp only
  repeat' first
    | with_reducible assumption | exact Part.sub_of hL (by decide) | exact .inr (Part.in_of hL (by decide)) | with_reducible exact .inl rfl
    | with_reducible apply State.rampIfEnabled_within | with_reducible apply State.within_ite | with_reducible apply State.within_upd

theorem execEnRise_within {s : State} {L : List Part} (hL : [.power] ⊆ L) :
    ∃ t, execEnRise s = .next t ∧ s.within L t := by
  have hw := State.within_refl s L
  refine ⟨_, rfl, ?_⟩
  try dsimp only
  repeat' first
    | with_reducible assumption | exact Part.sub_of hL (by decide) | exact .inr (Part.in_of hL (by decide)) | with_reducible exact .inl rfl
    | with_reducible apply State.rampIfEnabled_within | with_reducible apply State.within_upd

theorem execBaseDomainsGood_within {s : State} {L : List Part} (hL : [.power] ⊆ L) :
    ∃ t, execBaseDomainsGood s = .next t ∧ s.within L t := by
  have hw := State.within_refl s L
  refine ⟨_, rfl, ?_⟩
  try dsimp only
  repeat' first
    | with_reducible assumption | exact Part.sub_of hL (by decide) | exact .inr (Part.in_of hL (by decide)) | with_reducible exact .inl rfl
    | with_reducible apply State.releasePg_within | with_reducible apply State.within_ite | with_reducible apply State.within_upd

theorem execEnFall_within {s : State} {L : List Part} (hL : [.power, .start, .staging, .cfg, .dial, .logs, .run, .mbs, .sched, .cores,
    .memory, .tables, .cursors, .rambler, .gather, .train, .blocks, .cascade, .links, .resil, .bytes] ⊆ L) :
    ∃ t, execEnFall s = .next t ∧ s.within L t := by
  have hw := State.within_refl s L
  refine ⟨_, rfl, ?_⟩
  try dsimp only
  repeat' first
    | with_reducible assumption | exact Part.sub_of hL (by decide) | exact .inr (Part.in_of hL (by decide)) | with_reducible exact .inl rfl
    | with_reducible apply State.shutdown_within | with_reducible apply State.within_ite | with_reducible apply State.within_upd

theorem execExternalReset_within {s : State} {L : List Part} (hL : [.power, .start, .staging, .cfg, .dial, .logs, .run, .mbs, .sched,
    .cores, .memory, .tables, .cursors, .rambler, .gather, .train, .blocks, .cascade, .links, .resil, .bytes] ⊆ L) :
    ∃ t, execExternalReset s = .next t ∧ s.within L t := by
  have hw := State.within_refl s L
  refine ⟨_, rfl, ?_⟩
  try dsimp only
  repeat' first
    | with_reducible assumption | exact Part.sub_of hL (by decide) | exact .inr (Part.in_of hL (by decide)) | with_reducible exact .inl rfl
    | with_reducible apply State.loseDevice_within | with_reducible apply State.within_ite | with_reducible apply State.within_upd

theorem execResetNRise_within {s : State} {L : List Part} (hL : [.power, .links] ⊆ L) :
    ∃ t, execResetNRise s = .next t ∧ s.within L t := by
  have hw := State.within_refl s L
  refine ⟨_, rfl, ?_⟩
  try dsimp only
  repeat' first
    | with_reducible assumption | exact Part.sub_of hL (by decide) | exact .inr (Part.in_of hL (by decide)) | with_reducible exact .inl rfl
    | with_reducible apply State.hold_within | with_reducible apply State.rampIfEnabled_within | with_reducible apply State.within_ite
    | with_reducible apply State.within_upd

theorem execInputFault_within {kind : InputFault} {s : State} {L : List Part} (hL : [.power, .start, .staging, .cfg, .dial, .logs, .run,
    .mbs, .sched, .cores, .memory, .tables, .cursors, .rambler, .gather, .train, .blocks, .cascade, .links, .resil, .bytes] ⊆ L) :
    ∃ t, execInputFault kind s = .next t ∧ s.within L t := by
  have hw := State.within_refl s L
  refine ⟨_, rfl, ?_⟩
  try dsimp only
  repeat' first
    | with_reducible assumption | exact .inr ⟨Part.in_of hL (by decide), fun _ => rfl⟩ | exact Part.sub_of hL (by decide) | exact .inr (Part.in_of hL (by decide)) | with_reducible exact .inl rfl
    | with_reducible apply State.shutdown_within | with_reducible apply State.within_ite | split | with_reducible apply State.within_upd

theorem execInputReturn_within {s : State} {L : List Part} (hL : [.power] ⊆ L) :
    ∃ t, execInputReturn s = .next t ∧ s.within L t := by
  have hw := State.within_refl s L
  refine ⟨_, rfl, ?_⟩
  try dsimp only
  repeat' first
    | with_reducible assumption | exact Part.sub_of hL (by decide) | exact .inr (Part.in_of hL (by decide)) | with_reducible exact .inl rfl
    | with_reducible apply State.rampIfEnabled_within | with_reducible apply State.within_ite | with_reducible apply State.within_upd

theorem execRefclkFault_within {s : State} {L : List Part} (hL : [.power, .start, .staging, .cfg, .dial, .logs, .run, .mbs, .sched,
    .cores, .memory, .tables, .cursors, .rambler, .gather, .train, .blocks, .cascade, .links, .resil, .bytes] ⊆ L) :
    ∃ t, execRefclkFault s = .next t ∧ s.within L t := by
  have hw := State.within_refl s L
  refine ⟨_, rfl, ?_⟩
  try dsimp only
  repeat' first
    | with_reducible assumption | exact Part.sub_of hL (by decide) | exact .inr (Part.in_of hL (by decide)) | with_reducible exact .inl rfl
    | with_reducible apply State.shutdown_within | with_reducible apply State.within_ite | with_reducible apply State.within_upd

theorem execRefclkReturn_within {s : State} {L : List Part} (hL : [.power] ⊆ L) :
    ∃ t, execRefclkReturn s = .next t ∧ s.within L t := by
  have hw := State.within_refl s L
  refine ⟨_, rfl, ?_⟩
  try dsimp only
  repeat' first
    | with_reducible assumption | exact Part.sub_of hL (by decide) | exact .inr (Part.in_of hL (by decide)) | with_reducible exact .inl rfl
    | with_reducible apply State.rampIfEnabled_within | with_reducible apply State.releasePg_within | with_reducible apply State.within_ite
    | with_reducible apply State.within_upd

theorem execBaseDomainToleranceLost_within {s : State} {L : List Part} (hL : [.power, .start, .staging, .cfg, .dial, .logs, .run, .mbs,
    .sched, .cores, .memory, .tables, .cursors, .rambler, .gather, .train, .blocks, .cascade, .links, .resil, .bytes] ⊆ L) :
    ∃ t, execBaseDomainToleranceLost s = .next t ∧ s.within L t := by
  have hw := State.within_refl s L
  refine ⟨_, rfl, ?_⟩
  try dsimp only
  repeat' first
    | with_reducible assumption | exact Part.sub_of hL (by decide) | exact .inr (Part.in_of hL (by decide)) | with_reducible exact .inl rfl
    | with_reducible apply State.shutdown_within | with_reducible apply State.within_ite | with_reducible apply State.within_upd

theorem execTemperatureThreshold_within {sensor : Sensor} {celsius : BitVec 8} {s : State} {L : List Part} (hL : [.power, .start,
    .staging, .cfg, .dial, .logs, .run, .mbs, .sched, .cores, .memory, .tables, .cursors, .rambler, .gather, .train, .blocks, .cascade,
    .links, .resil, .bytes] ⊆ L) :
    ∃ t, execTemperatureThreshold sensor celsius s = .next t ∧ s.within L t := by
  have hw := State.within_refl s L
  refine ⟨_, rfl, ?_⟩
  try dsimp only
  repeat' first
    | with_reducible assumption | exact Part.sub_of hL (by decide) | exact .inr (Part.in_of hL (by decide)) | with_reducible exact .inl rfl
    | with_reducible apply State.actOnSensor_within | with_reducible apply State.logDevice_within
    | with_reducible apply State.shutdown_within | with_reducible apply State.within_ite | with_reducible apply State.within_upd

theorem execAvsSample_within {block : Block} {margin : BitVec 8} {s : State} {L : List Part} (hL : [.power, .logs, .blocks, .resil] ⊆ L) :
    ∃ t, execAvsSample block margin s = .next t ∧ s.within L t := by
  have hw := State.within_refl s L
  refine ⟨_, rfl, ?_⟩
  try dsimp only
  repeat' first
    | with_reducible assumption | exact Part.sub_of hL (by decide) | exact .inr (Part.in_of hL (by decide)) | with_reducible exact .inl rfl
    | with_reducible apply State.logDevice_within | with_reducible apply State.markSwap_within | with_reducible apply State.within_ite
    | split | with_reducible apply State.within_upd

theorem execClockStretch_within {block : Block} {lowCycles : Nat} {s : State} {L : List Part} (hL : [.power, .blocks] ⊆ L) :
    ∃ t, execClockStretch block lowCycles s = .next t ∧ s.within L t := by
  have hw := State.within_refl s L
  refine ⟨_, rfl, ?_⟩
  try dsimp only
  repeat' first
    | with_reducible assumption | exact Part.sub_of hL (by decide) | exact .inr (Part.in_of hL (by decide)) | with_reducible exact .inl rfl
    | with_reducible apply State.within_ite | with_reducible apply State.within_upd

theorem execTelemetrySample_within {vin : BitVec 16} {iin : BitVec 16} {pin : BitVec 16} {joules : Nat} {s : State} {L : List Part} (hL :
    [.power] ⊆ L) :
    ∃ t, execTelemetrySample vin iin pin joules s = .next t ∧ s.within L t := by
  have hw := State.within_refl s L
  refine ⟨_, rfl, ?_⟩
  try dsimp only
  repeat' first
    | with_reducible assumption | exact Part.sub_of hL (by decide) | exact .inr (Part.in_of hL (by decide)) | with_reducible exact .inl rfl
    | with_reducible apply State.within_ite | with_reducible apply State.within_upd

theorem execEstop_within {pec : Bool} {byte : Byte} {s : State} {L : List Part} (hL : [.power, .start, .staging, .cfg, .dial, .logs, .run,
    .mbs, .sched, .cores, .memory, .tables, .cursors, .rambler, .gather, .train, .blocks, .cascade, .links, .resil, .bytes] ⊆ L) :
    ∃ t, execEstop pec byte s = .next t ∧ s.within L t := by
  have hw := State.within_refl s L
  refine ⟨_, rfl, ?_⟩
  try dsimp only
  repeat' first
    | with_reducible assumption | exact Part.sub_of hL (by decide) | exact .inr (Part.in_of hL (by decide)) | with_reducible exact .inl rfl
    | with_reducible apply State.shutdown_within | with_reducible apply State.within_ite | with_reducible apply State.within_upd

theorem execIdentity_within {pec : Bool} {s : State} {L : List Part} (hL : [.power] ⊆ L) :
    ∃ t, execIdentity pec s = .next t ∧ s.within L t := by
  have hw := State.within_refl s L
  refine ⟨_, rfl, ?_⟩
  try dsimp only
  repeat' first
    | with_reducible assumption | exact Part.sub_of hL (by decide) | intro _ | with_reducible apply State.replyWith_within
    | with_reducible apply State.smbus_within

theorem execState_within {pec : Bool} {s : State} {L : List Part} (hL : [.power] ⊆ L) :
    ∃ t, execState pec s = .next t ∧ s.within L t := by
  have hw := State.within_refl s L
  refine ⟨_, rfl, ?_⟩
  try dsimp only
  repeat' first
    | with_reducible assumption | exact Part.sub_of hL (by decide) | intro _ | with_reducible apply State.replyWith_within
    | with_reducible apply State.smbus_within

theorem execPower_within {pec : Bool} {s : State} {L : List Part} (hL : [.power] ⊆ L) :
    ∃ t, execPower pec s = .next t ∧ s.within L t := by
  have hw := State.within_refl s L
  refine ⟨_, rfl, ?_⟩
  try dsimp only
  repeat' first
    | with_reducible assumption | exact Part.sub_of hL (by decide) | exact .inr (Part.in_of hL (by decide)) | with_reducible exact .inl rfl
    | intro _ | with_reducible apply State.replyWith_within | with_reducible apply State.smbus_within
    | with_reducible apply State.within_upd

theorem execThermal_within {pec : Bool} {s : State} {L : List Part} (hL : [.power] ⊆ L) :
    ∃ t, execThermal pec s = .next t ∧ s.within L t := by
  have hw := State.within_refl s L
  refine ⟨_, rfl, ?_⟩
  try dsimp only
  repeat' first
    | with_reducible assumption | exact Part.sub_of hL (by decide) | intro _ | with_reducible apply State.replyWith_within
    | with_reducible apply State.smbus_within | with_reducible apply State.within_elim

theorem execStatusAddr_within {pec : Bool} {offset : BitVec 32} {s : State} {L : List Part} (hL : [.power] ⊆ L) :
    ∃ t, execStatusAddr pec offset s = .next t ∧ s.within L t := by
  have hw := State.within_refl s L
  refine ⟨_, rfl, ?_⟩
  try dsimp only
  repeat' first
    | with_reducible assumption | exact Part.sub_of hL (by decide) | exact .inr (Part.in_of hL (by decide)) | with_reducible exact .inl rfl
    | intro _ | with_reducible apply State.smbus_within | with_reducible apply State.within_upd

theorem execStatusRead_within {pec : Bool} {s : State} {L : List Part} (hL : [.power] ⊆ L) :
    ∃ t, execStatusRead pec s = .next t ∧ s.within L t := by
  have hw := State.within_refl s L
  refine ⟨_, rfl, ?_⟩
  try dsimp only
  repeat' first
    | with_reducible assumption | exact Part.sub_of hL (by decide) | exact .inr (Part.in_of hL (by decide)) | with_reducible exact .inl rfl
    | intro _ | with_reducible apply State.replyWith_within | with_reducible apply State.smbus_within
    | with_reducible apply State.within_ite | with_reducible apply State.within_upd

theorem execJournalAddr_within {pec : Bool} {index : BitVec 32} {s : State} {L : List Part} (hL : [.power] ⊆ L) :
    ∃ t, execJournalAddr pec index s = .next t ∧ s.within L t := by
  have hw := State.within_refl s L
  refine ⟨_, rfl, ?_⟩
  try dsimp only
  repeat' first
    | with_reducible assumption | exact Part.sub_of hL (by decide) | exact .inr (Part.in_of hL (by decide)) | with_reducible exact .inl rfl
    | intro _ | with_reducible apply State.smbus_within | with_reducible apply State.within_upd

theorem execJournalRead_within {pec : Bool} {s : State} {L : List Part} (hL : [.power] ⊆ L) :
    ∃ t, execJournalRead pec s = .next t ∧ s.within L t := by
  have hw := State.within_refl s L
  refine ⟨_, rfl, ?_⟩
  try dsimp only
  repeat' first
    | with_reducible assumption | exact Part.sub_of hL (by decide) | exact .inr (Part.in_of hL (by decide)) | with_reducible exact .inl rfl
    | intro _ | with_reducible apply State.replyWith_within | with_reducible apply State.smbus_within
    | with_reducible apply State.within_ite | with_reducible apply State.within_elim | with_reducible apply State.within_upd

theorem execAlertClear_within {pec : Bool} {s : State} {L : List Part} (hL : [.power] ⊆ L) :
    ∃ t, execAlertClear pec s = .next t ∧ s.within L t := by
  have hw := State.within_refl s L
  refine ⟨_, rfl, ?_⟩
  try dsimp only
  repeat' first
    | with_reducible assumption | exact Part.sub_of hL (by decide) | exact .inr (Part.in_of hL (by decide)) | with_reducible exact .inl rfl
    | intro _ | with_reducible apply State.smbus_within | with_reducible apply State.within_upd

theorem execStartSequence_within {f : StartFindings} {s : State} {L : List Part} (hL : [.draws, .power, .flash, .start, .cfg, .dial,
    .logs, .cores, .memory, .blocks, .links, .resil, .bytes] ⊆ L) :
    ∃ t, execStartSequence f s = .next t ∧ s.within L t := by
  have hw := State.within_refl s L
  refine ⟨_, rfl, ?_⟩
  try dsimp only
  repeat' first
    | with_reducible assumption | exact Part.sub_of hL (by decide) | exact .inr (Part.in_of hL (by decide)) | with_reducible exact .inl rfl
    | with_reducible apply State.startEarly_within | with_reducible apply State.startSteps_within | with_reducible apply State.within_ite
    | split | with_reducible apply State.within_upd

theorem execStartRestart_within {s : State} {L : List Part} (hL : [.power, .start, .staging, .cfg, .dial, .logs, .run, .mbs, .sched,
    .cores, .memory, .tables, .cursors, .rambler, .gather, .train, .blocks, .cascade, .links, .resil, .bytes] ⊆ L) :
    ∃ t, execStartRestart s = .next t ∧ s.within L t := by
  have hw := State.within_refl s L
  refine ⟨_, rfl, ?_⟩
  try dsimp only
  repeat' first
    | with_reducible assumption | exact Part.sub_of hL (by decide) | exact .inr (Part.in_of hL (by decide)) | with_reducible exact .inl rfl
    | with_reducible apply State.loseDevice_within | with_reducible apply State.within_ite | with_reducible apply State.within_upd

theorem execWearSample_within {readings : List WearReading} {s : State} {L : List Part} (hL : [.logs, .blocks, .resil] ⊆ L) :
    ∃ t, execWearSample readings s = .next t ∧ s.within L t := by
  have hw := State.within_refl s L
  refine ⟨_, rfl, ?_⟩
  try dsimp only
  repeat' first
    | with_reducible assumption | exact Part.sub_of hL (by decide) | intro _ | with_reducible apply State.wearReading_within
    | with_reducible apply State.within_fold | with_reducible apply State.within_ite

theorem execSpareSwap_within {s : State} {L : List Part} (hL : [.resil] ⊆ L) :
    ∃ t, execSpareSwap s = .next t ∧ s.within L t := by
  have hw := State.within_refl s L
  refine ⟨_, rfl, ?_⟩
  try dsimp only
  repeat' first
    | with_reducible assumption | exact Part.sub_of hL (by decide) | exact .inr (Part.in_of hL (by decide)) | with_reducible exact .inl rfl
    | with_reducible apply State.onResil_within | with_reducible apply State.within_ite | split | with_reducible apply State.within_upd

theorem State.bringIn_within {s0 : State} {L : List Part} {s u : State} {x : Nat} (hu : s.bringIn x = some u) (hw : s0.within L s)
    (hL : [.power, .blocks, .resil] ⊆ L) : s0.within L u := by
  unfold State.bringIn at hu
  dsimp only at hu
  split at hu
  all_goals
    obtain ⟨c, _, rfl⟩ := Option.map_eq_some_iff.1 hu
    repeat' first
      | with_reducible assumption | exact Part.sub_of hL (by decide) | with_reducible apply State.onBlock_within
      | with_reducible apply State.onResil_within | with_reducible apply State.domainUp_within

theorem State.repairUnit_within {s0 : State} {L : List Part} {s u : State} {w : Swap} (hu : s.repairUnit w = some u) (hw : s0.within L s)
    (hL : [.draws, .power, .memory, .blocks, .links, .resil] ⊆ L) : s0.within L u := by
  unfold State.repairUnit at hu
  split at hu
  · exact State.bringIn_within hu hw (Part.sub_of hL (by decide))
  all_goals
    cases hu
    repeat' first
      | with_reducible assumption | exact Part.sub_of hL (by decide) | with_reducible rfl | with_reducible apply State.onMemory_within
      | with_reducible apply State.onResil_within | with_reducible apply State.useSpare_within

theorem execSpareSwapComplete_within {powerOk : Bool} {s : State} {L : List Part} (hL : [.draws, .power, .logs, .memory, .blocks, .links,
    .resil] ⊆ L) :
    ∃ t, execSpareSwapComplete powerOk s = .next t ∧ s.within L t := by
  have hw := State.within_refl s L
  refine ⟨_, rfl, ?_⟩
  try dsimp only
  split
  · exact hw
  · split
    · exact hw
    · split
      · exact State.sparePowerFailed_within hw (Part.sub_of hL (by decide))
      · split
        · exact State.onResil_within (State.noSpare_within hw (Part.sub_of hL (by decide))) (Part.sub_of hL (by decide))
        · exact State.onResil_within (State.logDevice_within (State.repairUnit_within (by assumption) hw (Part.sub_of hL (by decide)))
            (Part.sub_of hL (by decide))) (Part.sub_of hL (by decide))

theorem execDialAdvance_within {cycles : Nat} {s : State} {L : List Part} (hL : [.power, .flash, .dial, .logs, .mbs, .sched, .memory,
    .tables, .cursors, .gather, .train, .blocks, .cascade, .links, .resil] ⊆ L) :
    ∃ t, execDialAdvance cycles s = .next t ∧ s.within L t := by
  have hw := State.within_refl s L
  refine ⟨_, rfl, ?_⟩
  try dsimp only
  repeat' first
    | with_reducible assumption | exact Part.sub_of hL (by decide) | exact .inr (Part.in_of hL (by decide)) | with_reducible exact .inl rfl
    | with_reducible apply State.arrive_within | with_reducible apply State.elapse_within | with_reducible apply State.leave_within
    | with_reducible apply State.meetBeat_within | with_reducible apply State.noteCompletions_within
    | with_reducible apply State.onDial_within | with_reducible apply State.within_ite | with_reducible apply State.within_upd

theorem execBeat_within {port : Port} {f : BeatFlit} {s : State} {L : List Part} (hL : [.dial, .logs, .mbs, .sched, .train, .links] ⊆ L) :
    ∃ t, execBeat port f s = .next t ∧ s.within L t := by
  have hw := State.within_refl s L
  refine ⟨_, rfl, ?_⟩
  try dsimp only
  repeat' first
    | with_reducible assumption | exact Part.sub_of hL (by decide) | exact .inr (Part.in_of hL (by decide)) | with_reducible exact .inl rfl
    | with_reducible apply State.acquire_within | with_reducible apply State.adopt_within | with_reducible apply State.forwardBeat_within
    | with_reducible apply State.haltAtBoundary_within | with_reducible apply State.logDial_within
    | with_reducible apply State.onDial_within | with_reducible apply State.onLogs_within | with_reducible apply State.settle_within
    | with_reducible apply State.within_ite | with_reducible apply State.within_upd

theorem execBeatLost_within {s : State} {L : List Part} (hL : [.dial, .logs] ⊆ L) :
    ∃ t, execBeatLost s = .next t ∧ s.within L t := by
  have hw := State.within_refl s L
  refine ⟨_, rfl, ?_⟩
  try dsimp only
  repeat' first
    | with_reducible assumption | exact Part.sub_of hL (by decide) | exact .inr (Part.in_of hL (by decide)) | with_reducible exact .inl rfl
    | with_reducible apply State.logDial_within | with_reducible apply State.onDial_within | with_reducible apply State.onLogs_within
    | with_reducible apply State.within_ite | with_reducible apply State.within_upd

theorem execRootTakeover_within {s : State} {L : List Part} (hL : [.dial, .logs] ⊆ L) :
    ∃ t, execRootTakeover s = .next t ∧ s.within L t := by
  have hw := State.within_refl s L
  refine ⟨_, rfl, ?_⟩
  try dsimp only
  repeat' first
    | with_reducible assumption | exact Part.sub_of hL (by decide) | exact .inr (Part.in_of hL (by decide)) | with_reducible exact .inl rfl
    | with_reducible apply State.logDial_within | with_reducible apply State.onDial_within | with_reducible apply State.onLogs_within
    | with_reducible apply State.within_ite | split | with_reducible apply State.within_upd

theorem execStretchRequest_within {source : Coord} {entry : BitVec 10} {step : BitVec 48} {s : State} {L : List Part} (hL : [.dial, .logs,
    .links] ⊆ L) :
    ∃ t, execStretchRequest source entry step s = .next t ∧ s.within L t := by
  have hw := State.within_refl s L
  refine ⟨_, rfl, ?_⟩
  try dsimp only
  repeat' first
    | with_reducible assumption | exact Part.sub_of hL (by decide) | with_reducible apply State.askRoot_within
    | with_reducible apply State.sendUp_within | with_reducible apply State.within_ite

theorem execSlackReport_within {port : Port} {step : BitVec 48} {value : BitVec 16} {s : State} {L : List Part} (hL : [.dial, .logs,
    .links] ⊆ L) :
    ∃ t, execSlackReport port step value s = .next t ∧ s.within L t := by
  have hw := State.within_refl s L
  refine ⟨_, rfl, ?_⟩
  try dsimp only
  repeat' first
    | with_reducible assumption | exact Part.sub_of hL (by decide) | exact .inr (Part.in_of hL (by decide)) | with_reducible exact .inl rfl
    | with_reducible apply State.onDial_within | with_reducible apply State.onLogs_within | with_reducible apply State.sendUp_within
    | with_reducible apply State.within_ite | with_reducible apply State.within_upd

theorem execReshardCompletionReport_within {port : Port} {step : BitVec 48} {s : State} {L : List Part} (hL : [.dial, .tables, .links] ⊆
    L) :
    ∃ t, execReshardCompletionReport port step s = .next t ∧ s.within L t := by
  have hw := State.within_refl s L
  refine ⟨_, rfl, ?_⟩
  try dsimp only
  repeat' first
    | with_reducible assumption | exact Part.sub_of hL (by decide) | with_reducible apply State.countCompletion_within
    | with_reducible apply State.sendUp_within | with_reducible apply State.within_ite

theorem execSyncInEdge_within {interval : Nat} {s : State} {L : List Part} (hL : [.dial, .logs] ⊆ L) :
    ∃ t, execSyncInEdge interval s = .next t ∧ s.within L t := by
  have hw := State.within_refl s L
  refine ⟨_, rfl, ?_⟩
  try dsimp only
  repeat' first
    | with_reducible assumption | exact Part.sub_of hL (by decide) | exact .inr (Part.in_of hL (by decide)) | with_reducible exact .inl rfl
    | with_reducible apply State.onDial_within | with_reducible apply State.syncMissing_within | with_reducible apply State.within_ite
    | with_reducible apply State.within_upd

theorem execSyncInLost_within {s : State} {L : List Part} (hL : [.dial, .logs] ⊆ L) :
    ∃ t, execSyncInLost s = .next t ∧ s.within L t := by
  have hw := State.within_refl s L
  refine ⟨_, rfl, ?_⟩
  try dsimp only
  repeat' first
    | with_reducible assumption | exact Part.sub_of hL (by decide) | with_reducible apply State.syncMissing_within
    | with_reducible apply State.within_ite

theorem execCheckpointDrain_within {s : State} {L : List Part} (hL : [.draws, .dial, .logs, .run, .mbs, .sched, .memory, .train, .links,
    .resil, .bytes] ⊆ L) :
    ∃ t, execCheckpointDrain s = .next t ∧ s.within L t := by
  have hw := State.within_refl s L
  refine ⟨_, rfl, ?_⟩
  try dsimp only
  repeat' first
    | with_reducible assumption | exact Part.sub_of hL (by decide) | with_reducible apply State.drainBody_within
    | with_reducible apply State.drainHeader_within | with_reducible apply State.draw_within | with_reducible apply State.settle_within
    | with_reducible apply State.within_ite

theorem execDrain_within {offset : BitVec 48} {stepLo : BitVec 16} {poison : Word} {data : List Flit} {s : State} {L : List Part} (hL :
    [.memory, .links, .bytes] ⊆ L) :
    ∃ t, execDrain offset stepLo poison data s = .next t ∧ s.within L t := by
  have hw := State.within_refl s L
  refine ⟨_, rfl, ?_⟩
  try dsimp only
  repeat' first
    | with_reducible assumption | exact Part.sub_of hL (by decide) | intro _ | with_reducible apply State.sendHop_within
    | with_reducible apply State.store_within | with_reducible apply State.within_fold | with_reducible apply State.within_ite | split

theorem execDrainAck_within {offset : BitVec 48} {stepLo : BitVec 16} {s : State} {L : List Part} (hL : [.dial, .logs, .mbs, .sched,
    .train, .links, .resil] ⊆ L) :
    ∃ t, execDrainAck offset stepLo s = .next t ∧ s.within L t := by
  have hw := State.within_refl s L
  refine ⟨_, rfl, ?_⟩
  try dsimp only
  repeat' first
    | with_reducible assumption | exact Part.sub_of hL (by decide) | exact .inr (Part.in_of hL (by decide)) | with_reducible exact .inl rfl
    | intro _ | with_reducible apply State.ackPart_within | with_reducible apply State.onTarget_within
    | with_reducible apply State.settle_within | with_reducible apply State.within_fold | with_reducible apply State.within_ite
    | with_reducible apply State.within_upd

theorem execCheckpointCopy_within {target : BitVec 2} {data : List Byte} {s : State} {L : List Part} (hL : [.draws, .dial, .logs, .mbs,
    .sched, .train, .links, .resil] ⊆ L) :
    ∃ t, execCheckpointCopy target data s = .next t ∧ s.within L t := by
  have hw := State.within_refl s L
  refine ⟨_, rfl, ?_⟩
  try dsimp only
  repeat' first
    | with_reducible assumption | exact Part.sub_of hL (by decide) | exact .inr (Part.in_of hL (by decide)) | with_reducible exact .inl rfl
    | with_reducible apply State.beginCopy_within | with_reducible apply State.copyPart_within | with_reducible apply State.draw_within
    | with_reducible apply State.onTarget_within | with_reducible apply State.settle_within | with_reducible apply State.within_ite
    | with_reducible apply State.within_upd

theorem execAttest_within {h : HkHeader} {nonce : BitVec 256} {s : State} {L : List Part} (hL : [.logs, .links] ⊆ L) :
    ∃ t, execAttest h nonce s = .next t ∧ s.within L t := by
  have hw := State.within_refl s L
  refine ⟨_, rfl, ?_⟩
  try dsimp only
  repeat' first
    | with_reducible assumption | exact Part.sub_of hL (by decide) | intro _ | with_reducible apply State.answerAttest_within
    | with_reducible apply State.hold_within | with_reducible apply State.request_within | with_reducible apply State.within_ite

theorem execRestore_within {h : HkHeader} {source : BitVec 2} {set : BitVec 2} {step : BitVec 48} {s : State} {L : List Part} (hL :
    [.draws, .dial, .logs, .run, .mbs, .sched, .memory, .tables, .cursors, .train, .blocks, .cascade, .links, .resil, .bytes] ⊆ L) :
    ∃ t, execRestore h source set step s = .next t ∧ s.within L t := by
  have hw := State.within_refl s L
  refine ⟨_, rfl, ?_⟩
  try dsimp only
  repeat' first
    | with_reducible assumption | exact Part.sub_of hL (by decide) | with_reducible apply State.ctlRequest_within

theorem execRejoin_within {h : HkHeader} {source : BitVec 2} {set : BitVec 2} {step : BitVec 48} {s : State} {L : List Part} (hL :
    [.draws, .dial, .logs, .run, .mbs, .sched, .memory, .tables, .cursors, .train, .blocks, .cascade, .links, .resil, .bytes] ⊆ L) :
    ∃ t, execRejoin h source set step s = .next t ∧ s.within L t := by
  have hw := State.within_refl s L
  refine ⟨_, rfl, ?_⟩
  try dsimp only
  repeat' first
    | with_reducible assumption | exact Part.sub_of hL (by decide) | with_reducible apply State.ctlRequest_within

theorem execNvmeCompletion_within {status : BitVec 16} {data : List Byte} {s : State} {L : List Part} (hL : [.draws, .dial, .logs, .run,
    .mbs, .sched, .memory, .tables, .cursors, .train, .blocks, .cascade, .links, .resil, .bytes] ⊆ L) :
    ∃ t, execNvmeCompletion status data s = .next t ∧ s.within L t := by
  have hw := State.within_refl s L
  refine ⟨_, rfl, ?_⟩
  try dsimp only
  repeat' first
    | with_reducible assumption | exact Part.sub_of hL (by decide) | exact .inr (Part.in_of hL (by decide)) | with_reducible exact .inl rfl
    | with_reducible apply State.copyDone_within | with_reducible apply State.nvmeFailed_within | with_reducible apply State.onResil_within
    | with_reducible apply State.onTarget_within | with_reducible apply State.placeBytes_within | with_reducible apply State.readSet_within
    | with_reducible apply State.settle_within | with_reducible apply State.stagesEnd_within | with_reducible apply State.within_ite
    | split | with_reducible apply State.within_upd

theorem execNvmeCommandTimeout_within {s : State} {L : List Part} (hL : [.logs, .memory, .resil, .bytes] ⊆ L) :
    ∃ t, execNvmeCommandTimeout s = .next t ∧ s.within L t := by
  have hw := State.within_refl s L
  refine ⟨_, rfl, ?_⟩
  try dsimp only
  repeat' first
    | with_reducible assumption | exact Part.sub_of hL (by decide) | exact .inr (Part.in_of hL (by decide)) | with_reducible exact .inl rfl
    | with_reducible apply State.nvmeFailed_within | with_reducible apply State.onResil_within | split
    | with_reducible apply State.within_upd

theorem execCkptAck_within {h : HkHeader} {bytes : BitVec 48} {object : BitVec 32} {s : State} {L : List Part} (hL : [.dial, .logs, .mbs,
    .sched, .train, .links, .resil] ⊆ L) :
    ∃ t, execCkptAck h bytes object s = .next t ∧ s.within L t := by
  have hw := State.within_refl s L
  refine ⟨_, rfl, ?_⟩
  try dsimp only
  repeat' first
    | with_reducible assumption | exact Part.sub_of hL (by decide) | intro _ | with_reducible apply State.ackStore_within
    | with_reducible apply State.ckptPacket_within | with_reducible apply State.settle_within

theorem execCkptData_within {h : HkHeader} {offset : BitVec 48} {object : BitVec 32} {data : List Flit} {s : State} {L : List Part} (hL :
    [.draws, .dial, .logs, .run, .mbs, .sched, .memory, .tables, .cursors, .train, .blocks, .cascade, .links, .resil, .bytes] ⊆ L) :
    ∃ t, execCkptData h offset object data s = .next t ∧ s.within L t := by
  have hw := State.within_refl s L
  refine ⟨_, rfl, ?_⟩
  try dsimp only
  repeat' first
    | with_reducible assumption | exact Part.sub_of hL (by decide) | exact .inr (Part.in_of hL (by decide)) | with_reducible exact .inl rfl
    | intro _ | with_reducible apply State.ckptPacket_within | with_reducible apply State.onRestore_within
    | with_reducible apply State.sendPacket_within | with_reducible apply State.stagesEnd_within | with_reducible apply State.within_fold
    | with_reducible apply State.within_ite | with_reducible apply State.within_upd

theorem execWatchdogExpired_within {unit : WatchedUnit} {s : State} {L : List Part} (hL : [.logs, .resil] ⊆ L) :
    ∃ t, execWatchdogExpired unit s = .next t ∧ s.within L t := by
  have hw := State.within_refl s L
  refine ⟨_, rfl, ?_⟩
  try dsimp only
  repeat' first
    | with_reducible assumption | exact Part.sub_of hL (by decide) | exact .inr (Part.in_of hL (by decide)) | with_reducible exact .inl rfl
    | with_reducible apply State.logDevice_within | with_reducible apply State.onLogs_within | with_reducible apply State.onResil_within
    | with_reducible apply State.within_ite | with_reducible apply State.within_upd

theorem execHangRecordCollected_within {s : State} {L : List Part} (hL : [.draws, .power, .start, .staging, .cfg, .dial, .logs, .run,
    .mbs, .sched, .cores, .memory, .tables, .cursors, .rambler, .gather, .train, .blocks, .cascade, .links, .resil, .bytes] ⊆ L) :
    ∃ t, execHangRecordCollected s = .next t ∧ s.within L t := by
  have hw := State.within_refl s L
  refine ⟨_, rfl, ?_⟩
  try dsimp only
  repeat' first
    | with_reducible assumption | exact Part.sub_of hL (by decide) | with_reducible apply State.endCollection_within

theorem execHangRecordTimeout_within {s : State} {L : List Part} (hL : [.draws, .power, .start, .staging, .cfg, .dial, .logs, .run, .mbs,
    .sched, .cores, .memory, .tables, .cursors, .rambler, .gather, .train, .blocks, .cascade, .links, .resil, .bytes] ⊆ L) :
    ∃ t, execHangRecordTimeout s = .next t ∧ s.within L t := by
  have hw := State.within_refl s L
  refine ⟨_, rfl, ?_⟩
  try dsimp only
  repeat' first
    | with_reducible assumption | exact Part.sub_of hL (by decide) | with_reducible apply State.endCollection_within

theorem execResetRungComplete_within {s : State} {L : List Part} (hL : [.dial, .mbs, .sched, .train, .blocks, .resil] ⊆ L) :
    ∃ t, execResetRungComplete s = .next t ∧ s.within L t := by
  have hw := State.within_refl s L
  refine ⟨_, rfl, ?_⟩
  try dsimp only
  repeat' first
    | with_reducible assumption | exact Part.sub_of hL (by decide) | exact .inr (Part.in_of hL (by decide)) | with_reducible exact .inl rfl
    | with_reducible apply State.advanceTags_within | with_reducible apply State.onHang_within | with_reducible apply State.onResil_within
    | with_reducible apply State.settle_within | split | with_reducible apply State.within_upd

theorem execResetRungTimeout_within {s : State} {L : List Part} (hL : [.power, .start, .staging, .cfg, .dial, .logs, .run, .mbs, .sched,
    .cores, .memory, .tables, .cursors, .rambler, .gather, .train, .blocks, .cascade, .links, .resil, .bytes] ⊆ L) :
    ∃ t, execResetRungTimeout s = .next t ∧ s.within L t := by
  have hw := State.within_refl s L
  refine ⟨_, rfl, ?_⟩
  try dsimp only
  repeat' first
    | with_reducible assumption | exact Part.sub_of hL (by decide) | with_reducible apply State.beginRung_within
    | with_reducible apply State.logDevice_within | split

theorem execSelect_within {h : HkHeader} {slot : BitVec 2} {s : State} {L : List Part} (hL : [.flash, .start, .logs, .run, .mbs, .sched,
    .memory, .tables, .cursors, .rambler, .gather, .train, .blocks, .cascade, .links, .resil] ⊆ L) :
    ∃ t, execSelect h slot s = .next t ∧ s.within L t := by
  have hw := State.within_refl s L
  refine ⟨_, rfl, ?_⟩
  try dsimp only
  repeat' first
    | with_reducible assumption | exact Part.sub_of hL (by decide) | with_reducible apply State.runRequest_within

theorem execStart_within {h : HkHeader} {step : BitVec 48} {s : State} {L : List Part} (hL : [.flash, .start, .logs, .run, .mbs, .sched,
    .memory, .tables, .cursors, .rambler, .gather, .train, .blocks, .cascade, .links, .resil] ⊆ L) :
    ∃ t, execStart h step s = .next t ∧ s.within L t := by
  have hw := State.within_refl s L
  refine ⟨_, rfl, ?_⟩
  try dsimp only
  repeat' first
    | with_reducible assumption | exact Part.sub_of hL (by decide) | with_reducible apply State.runRequest_within

theorem execPause_within {h : HkHeader} {step : BitVec 48} {s : State} {L : List Part} (hL : [.flash, .start, .logs, .run, .mbs, .sched,
    .memory, .tables, .cursors, .rambler, .gather, .train, .blocks, .cascade, .links, .resil] ⊆ L) :
    ∃ t, execPause h step s = .next t ∧ s.within L t := by
  have hw := State.within_refl s L
  refine ⟨_, rfl, ?_⟩
  try dsimp only
  repeat' first
    | with_reducible assumption | exact Part.sub_of hL (by decide) | with_reducible apply State.runRequest_within

theorem execStop_within {h : HkHeader} {step : BitVec 48} {s : State} {L : List Part} (hL : [.flash, .start, .logs, .run, .mbs, .sched,
    .memory, .tables, .cursors, .rambler, .gather, .train, .blocks, .cascade, .links, .resil] ⊆ L) :
    ∃ t, execStop h step s = .next t ∧ s.within L t := by
  have hw := State.within_refl s L
  refine ⟨_, rfl, ?_⟩
  try dsimp only
  repeat' first
    | with_reducible assumption | exact Part.sub_of hL (by decide) | with_reducible apply State.runRequest_within

theorem execEval_within {h : HkHeader} {step : BitVec 48} {s : State} {L : List Part} (hL : [.flash, .start, .logs, .run, .mbs, .sched,
    .memory, .tables, .cursors, .rambler, .gather, .train, .blocks, .cascade, .links, .resil] ⊆ L) :
    ∃ t, execEval h step s = .next t ∧ s.within L t := by
  have hw := State.within_refl s L
  refine ⟨_, rfl, ?_⟩
  try dsimp only
  repeat' first
    | with_reducible assumption | exact Part.sub_of hL (by decide) | with_reducible apply State.runRequest_within

theorem execCkpt_within {h : HkHeader} {step : BitVec 48} {s : State} {L : List Part} (hL : [.flash, .start, .logs, .run, .mbs, .sched,
    .memory, .tables, .cursors, .rambler, .gather, .train, .blocks, .cascade, .links, .resil] ⊆ L) :
    ∃ t, execCkpt h step s = .next t ∧ s.within L t := by
  have hw := State.within_refl s L
  refine ⟨_, rfl, ?_⟩
  try dsimp only
  repeat' first
    | with_reducible assumption | exact Part.sub_of hL (by decide) | with_reducible apply State.runRequest_within

theorem execStepBoundary_within {cycles : Nat} {s : State} {L : List Part} (hL : [.draws, .power, .flash, .dial, .logs, .run, .mbs,
    .sched, .memory, .tables, .cursors, .gather, .train, .blocks, .cascade, .links, .resil, .bytes] ⊆ L) :
    ∃ t, execStepBoundary cycles s = .next t ∧ s.within L t := by
  have hw := State.within_refl s L
  refine ⟨_, rfl, ?_⟩
  try dsimp only
  repeat' first
    | with_reducible assumption | exact Part.sub_of hL (by decide) | with_reducible apply State.cross_within
    | with_reducible apply State.elapse_within | with_reducible apply State.within_ite

theorem execGather_within {ctx : CtxId} {bad : List Nat} {s : State} {L : List Part} (hL : [.draws, .dial, .logs, .mbs, .sched, .memory,
    .tables, .gather, .train, .blocks, .links, .bytes] ⊆ L) :
    ∃ t, execGather ctx bad s = .next t ∧ s.within L t := by
  have hw := State.within_refl s L
  refine ⟨_, rfl, ?_⟩
  try dsimp only
  repeat' first
    | with_reducible assumption | exact Part.sub_of hL (by decide) | intro _ | with_reducible apply State.draw_within
    | with_reducible apply State.runForward_within | with_reducible apply State.stamped_within
    | with_reducible apply State.withTableRows_within | with_reducible apply State.writeElems_within
    | with_reducible apply State.within_fold | split

theorem execAggregate_within {ctx : CtxId} {order : List Nat} {bad : List Nat} {s : State} {L : List Part} (hL : [.draws, .dial, .logs,
    .mbs, .sched, .memory, .tables, .gather, .train, .blocks, .links, .bytes] ⊆ L) :
    ∃ t, execAggregate ctx order bad s = .next t ∧ s.within L t := by
  have hw := State.within_refl s L
  refine ⟨_, rfl, ?_⟩
  try dsimp only
  refine State.runForward_within hw (fun t o k s hs => ?_) (Part.sub_of hL (by decide))
  split
  · split
    · refine State.draw_within (State.withTableRows_within hs (fun x l hx => ?_) (Part.sub_of hL (by decide))) (Part.sub_of hL (by decide))
      refine State.stamped_within hx (fun y hy => ?_) (Part.sub_of hL (by decide))
      exact State.noteReorder_within (State.countEdges_within (State.foldAll_within hy (Part.sub_of hL (by decide)))
        (Part.sub_of hL (by decide))) (Part.sub_of hL (by decide))
    · refine State.draw_within (State.endForward_within (State.noteReorder_within (State.countEdges_within (State.foldAll_within ?_
        (Part.sub_of hL (by decide))) (Part.sub_of hL (by decide))) (Part.sub_of hL (by decide))) (Part.sub_of hL (by decide)))
        (Part.sub_of hL (by decide))
      exact State.within_fold_fst (fun a i h => by
        dsimp only
        with_reducible apply State.readTensorRow_within
        · exact h
        · exact Part.sub_of hL (by decide)) hs
    · exact hs
  · exact hs

theorem execRowReq_within {lgen : BitVec 8} {src : Coord} {entries : List RowReqEntry} {s : State} {L : List Part} (hL : [.draws, .dial,
    .logs, .memory, .tables, .links] ⊆ L) :
    ∃ t, execRowReq lgen src entries s = .next t ∧ s.within L t := by
  have hw := State.within_refl s L
  refine ⟨_, rfl, ?_⟩
  try dsimp only
  repeat' first
    | with_reducible assumption | exact Part.sub_of hL (by decide) | with_reducible apply State.answerRows_within
    | with_reducible apply State.draw_within | with_reducible apply State.within_ite

theorem execRowReply_within {src : Coord} {poison : Word} {entries : List RowReplyEntry} {data : List Flit} {s : State} {L : List Part}
    (hL : [.dial, .logs, .mbs, .sched, .memory, .tables, .gather, .train, .blocks, .resil, .bytes] ⊆ L) :
    ∃ t, execRowReply src poison entries data s = .next t ∧ s.within L t := by
  have hw := State.within_refl s L
  refine ⟨_, rfl, ?_⟩
  try dsimp only
  repeat' first
    | with_reducible assumption | exact Part.sub_of hL (by decide) | exact .inr (Part.in_of hL (by decide)) | with_reducible exact .inl rfl
    | intro _ | with_reducible apply State.logDevice_within | with_reducible apply State.onResil_within
    | with_reducible apply State.takeReply_within | with_reducible apply State.within_fold | with_reducible apply State.within_ite
    | with_reducible apply State.within_upd

theorem execGatherTimeout_within {tag : BitVec 20} {s : State} {L : List Part} (hL : [.dial, .logs, .mbs, .sched, .gather, .train,
    .blocks] ⊆ L) :
    ∃ t, execGatherTimeout tag s = .next t ∧ s.within L t := by
  have hw := State.within_refl s L
  refine ⟨_, rfl, ?_⟩
  try dsimp only
  repeat' first
    | with_reducible assumption | exact Part.sub_of hL (by decide) | with_reducible apply State.timeOut_within
    | with_reducible apply State.within_ite | split

theorem execTrailReturn_within {ctx : CtxId} {s : State} {L : List Part} (hL : [.draws, .dial, .logs, .mbs, .sched, .memory, .gather,
    .train, .blocks, .links, .bytes] ⊆ L) :
    ∃ t, execTrailReturn ctx s = .next t ∧ s.within L t := by
  have hw := State.within_refl s L
  refine ⟨_, rfl, ?_⟩
  try dsimp only
  repeat' first
    | with_reducible assumption | exact Part.sub_of hL (by decide) | intro _ | with_reducible apply State.addCompanion_within
    | with_reducible apply State.draw_within | with_reducible apply State.finish_within | with_reducible apply State.runBackward_within
    | with_reducible apply State.runUnpoisoned_within | with_reducible apply State.within_fold | with_reducible apply State.within_ite
    | split

theorem execReturnSweep_within {s : State} {L : List Part} (hL : [.draws, .dial, .logs, .mbs, .sched, .memory, .gather, .train, .blocks,
    .links, .bytes] ⊆ L) :
    ∃ t, execReturnSweep s = .next t ∧ s.within L t := by
  have hw := State.within_refl s L
  refine ⟨_, rfl, ?_⟩
  try dsimp only
  split
  · exact hw
  · have hd := State.dropPoisonedWalks_within hw (Part.sub_of hL (by decide))
    generalize s.dropPoisonedWalks = u at hd ⊢
    have hr : State.within s L (if u.gather.abandoned then (u, 0) else u.sweep u.sweepList).1 := by
      split
      · exact hd
      · exact State.sweep_within hd (Part.sub_of hL (by decide))
    generalize (if u.gather.abandoned then (u, 0) else u.sweep u.sweepList) = r at hr ⊢
    refine State.settle_within (State.draw_within (State.onGather_within ?_ (Part.sub_of hL (by decide))) (Part.sub_of hL (by decide)))
      (Part.sub_of hL (by decide))
    exact State.within_fold (fun _ _ h => State.setCtx_within h (Part.sub_of hL (by decide))) hr

theorem execTransform_within {ctx : CtxId} {s : State} {L : List Part} (hL : [.draws, .dial, .logs, .mbs, .sched, .memory, .gather,
    .train, .blocks, .bytes] ⊆ L) :
    ∃ t, execTransform ctx s = .next t ∧ s.within L t := by
  have hw := State.within_refl s L
  refine ⟨_, rfl, ?_⟩
  try dsimp only
  repeat' first
    | with_reducible assumption | exact Part.sub_of hL (by decide) | intro _ | with_reducible apply State.draw_within
    | with_reducible apply State.noteOperand_within | with_reducible apply State.runForward_within
    | with_reducible apply State.startProduct_within | with_reducible apply State.within_ite | with_reducible apply State.within_elim
    | split

theorem execTransformBackward_within {ctx : CtxId} {s : State} {L : List Part} (hL : [.draws, .dial, .logs, .mbs, .sched, .memory,
    .gather, .train, .blocks, .links, .bytes] ⊆ L) :
    ∃ t, execTransformBackward ctx s = .next t ∧ s.within L t := by
  have hw := State.within_refl s L
  refine ⟨_, rfl, ?_⟩
  try dsimp only
  repeat' first
    | with_reducible assumption | exact Part.sub_of hL (by decide) | intro _ | with_reducible apply State.draw_within
    | with_reducible apply State.dropPoison_within | with_reducible apply State.nextBackward_within
    | with_reducible apply State.noteOperand_within | with_reducible apply State.runBackward_within
    | with_reducible apply State.runUnpoisoned_within | with_reducible apply State.writeCompanion_within
    | with_reducible apply State.within_ite | split

theorem execChunkIssue_within {block : Block} {cell : Fin 17} {lane : Fin 4} {parityFault : Bool} {basin : BasinFinding} {s : State} {L :
    List Part} (hL : [.draws, .dial, .logs, .mbs, .sched, .memory, .gather, .train, .blocks, .resil, .bytes] ⊆ L) :
    ∃ t, execChunkIssue block cell lane parityFault basin s = .next t ∧ s.within L t := by
  have hw := State.within_refl s L
  refine ⟨_, rfl, ?_⟩
  try dsimp only
  repeat' first
    | with_reducible assumption | exact Part.sub_of hL (by decide) | exact .inr (Part.in_of hL (by decide)) | with_reducible exact .inl rfl
    | with_reducible apply State.countBasin_within | with_reducible apply State.draw_within | with_reducible apply State.dropCell_within
    | with_reducible apply State.onBlock_within | with_reducible apply State.onCell_within
    | with_reducible apply State.parityFailure_within | with_reducible apply State.passIssued_within
    | with_reducible apply State.prepare_within | with_reducible apply State.writeBack_within | with_reducible apply State.within_ite
    | split | with_reducible apply State.within_upd

theorem execSwap_within {block : Block} {cell : Fin 17} {parityFault : Bool} {s : State} {L : List Part} (hL : [.draws, .dial, .logs,
    .mbs, .sched, .memory, .gather, .train, .blocks, .resil, .bytes] ⊆ L) :
    ∃ t, execSwap block cell parityFault s = .next t ∧ s.within L t := by
  have hw := State.within_refl s L
  refine ⟨_, rfl, ?_⟩
  try dsimp only
  repeat' first
    | with_reducible assumption | exact Part.sub_of hL (by decide) | exact .inr (Part.in_of hL (by decide)) | with_reducible exact .inl rfl
    | intro _ | with_reducible apply State.draw_within | with_reducible apply State.dropCell_within
    | with_reducible apply State.logDevice_within | with_reducible apply State.onBlock_within | with_reducible apply State.onCell_within
    | with_reducible apply State.parityFailure_within | with_reducible apply State.prepare_within
    | with_reducible apply State.shadowLoad_within | with_reducible apply State.within_ite | with_reducible apply State.within_elim | split
    | with_reducible apply State.within_upd

theorem execBasinDrain_within {block : Block} {cell : Fin 17} {segment : Fin 32} {basin : BasinFinding} {s : State} {L : List Part} (hL :
    [.draws, .dial, .logs, .mbs, .sched, .memory, .gather, .train, .blocks, .links, .resil, .bytes] ⊆ L) :
    ∃ t, execBasinDrain block cell segment basin s = .next t ∧ s.within L t := by
  have hw := State.within_refl s L
  refine ⟨_, rfl, ?_⟩
  try dsimp only
  repeat' first
    | with_reducible assumption | exact Part.sub_of hL (by decide) | with_reducible apply State.countBasin_within
    | with_reducible apply State.drainSegment_within | with_reducible apply State.draw_within | with_reducible apply State.dropCell_within
    | with_reducible apply State.endProduct_within | with_reducible apply State.prepare_within | with_reducible apply State.within_ite
    | split

theorem execRillBeat_within {block : Block} {cell : Fin 17} {flips : BitVec 1056} {s : State} {L : List Part} (hL : [.draws, .dial, .logs,
    .mbs, .sched, .memory, .gather, .train, .blocks, .resil, .bytes] ⊆ L) :
    ∃ t, execRillBeat block cell flips s = .next t ∧ s.within L t := by
  have hw := State.within_refl s L
  refine ⟨_, rfl, ?_⟩
  try dsimp only
  repeat' first
    | with_reducible assumption | exact Part.sub_of hL (by decide) | exact .inr (Part.in_of hL (by decide)) | with_reducible exact .inl rfl
    | intro _ | with_reducible apply State.draw_within | with_reducible apply State.noteWear_within
    | with_reducible apply State.onBlock_within | with_reducible apply State.rillCopy_within | with_reducible apply State.rillFailed_within
    | with_reducible apply State.within_ite | with_reducible apply State.within_elim | split | with_reducible apply State.within_upd

theorem execStashEntry_within {region : Region} {index : BitVec 14} {pre : Bool} {mb : BitVec 10} {s : State} {L : List Part} (hL :
    [.draws, .dial, .logs, .mbs, .sched, .memory, .train, .links, .bytes] ⊆ L) :
    ∃ t, execStashEntry region index pre mb s = .next t ∧ s.within L t := by
  have hw := State.within_refl s L
  refine ⟨_, rfl, ?_⟩
  try dsimp only
  repeat' first
    | with_reducible assumption | exact Part.sub_of hL (by decide) | with_reducible apply State.draw_within
    | with_reducible apply State.markRecompute_within | with_reducible apply State.noteReads_within
    | with_reducible apply State.putEntry_within | with_reducible apply State.release_within | with_reducible apply State.settle_within
    | with_reducible apply State.within_ite | split

theorem execMicroBatchCommit_within {mb : BitVec 10} {s : State} {L : List Part} (hL : [.draws, .dial, .logs, .mbs, .sched, .memory,
    .train, .links, .bytes] ⊆ L) :
    ∃ t, execMicroBatchCommit mb s = .next t ∧ s.within L t := by
  have hw := State.within_refl s L
  refine ⟨_, rfl, ?_⟩
  try dsimp only
  repeat' first
    | with_reducible assumption | exact Part.sub_of hL (by decide) | exact .inr (Part.in_of hL (by decide)) | with_reducible exact .inl rfl
    | intro _ | with_reducible apply State.commitCounts_within | with_reducible apply State.commitOp_within
    | with_reducible apply State.draw_within | with_reducible apply State.onMb_within | with_reducible apply State.onTrain_within
    | with_reducible apply State.release_within | with_reducible apply State.settle_within | with_reducible apply State.within_fold
    | with_reducible apply State.within_ite | split | with_reducible apply State.within_upd

theorem execOptimize_within {ctx : CtxId} {sub : Fin 32} {s : State} {L : List Part} (hL : [.draws, .dial, .logs, .mbs, .sched, .memory,
    .tables, .gather, .train, .blocks, .links, .resil, .bytes] ⊆ L) :
    ∃ t, execOptimize ctx sub s = .next t ∧ s.within L t := by
  have hw := State.within_refl s L
  refine ⟨_, rfl, ?_⟩
  try dsimp only
  repeat' first
    | with_reducible assumption | exact Part.sub_of hL (by decide) | exact .inr (Part.in_of hL (by decide)) | with_reducible exact .inl rfl
    | intro _ | with_reducible apply State.cancelHolders_within | with_reducible apply State.draw_within
    | with_reducible apply State.endOptimize_within | with_reducible apply State.logDevice_within
    | with_reducible apply State.notePlace_within | with_reducible apply State.runItem_within | with_reducible apply State.setCtx_within
    | with_reducible apply State.updateDense_within | with_reducible apply State.updateSparse_within
    | with_reducible apply State.within_fold | with_reducible apply State.within_ite | with_reducible apply State.within_elim | split
    | with_reducible apply State.within_upd

theorem execCascade_within {port : Port} {h : CascadeHeader} {data : List Flit} {slots : List SparseSlot} {s : State} {L : List Part} (hL
    : [.draws, .dial, .logs, .mbs, .sched, .memory, .gather, .train, .cascade, .links, .resil, .bytes] ⊆ L) :
    ∃ t, execCascade port h data slots s = .next t ∧ s.within L t := by
  have hw := State.within_refl s L
  refine ⟨_, rfl, ?_⟩
  try dsimp only
  repeat' first
    | with_reducible assumption | exact Part.sub_of hL (by decide) | with_reducible apply State.draw_within
    | with_reducible apply State.haltAtBoundary_within | with_reducible apply State.logDevice_within
    | with_reducible apply State.takeCascade_within | with_reducible apply State.within_ite

theorem execNotice_within {port : Port} {step : BitVec 48} {split : Bool} {coord : Coord} {cause : BitVec 2} {restart : BitVec 16} {entry
    : BitVec 10} {s : State} {L : List Part} (hL : [.dial, .cascade, .links] ⊆ L) :
    ∃ t, execNotice port step split coord cause restart entry s = .next t ∧ s.within L t := by
  have hw := State.within_refl s L
  refine ⟨_, rfl, ?_⟩
  try dsimp only
  repeat' first
    | with_reducible assumption | exact Part.sub_of hL (by decide) | with_reducible apply State.takeNotice_within
    | with_reducible apply State.within_ite

theorem execReduce_within {ctx : CtxId} {s : State} {L : List Part} (hL : [.draws, .dial, .logs, .mbs, .sched, .memory, .gather, .train,
    .cascade, .links, .resil, .bytes] ⊆ L) :
    ∃ t, execReduce ctx s = .next t ∧ s.within L t := by
  have hw := State.within_refl s L
  refine ⟨_, rfl, ?_⟩
  try dsimp only
  repeat' first
    | with_reducible assumption | exact Part.sub_of hL (by decide) | intro _ | with_reducible apply State.beginReduce_within
    | with_reducible apply State.draw_within | with_reducible apply State.runItem_within | with_reducible apply State.within_ite | split

theorem execPresence_within {port : Port} {step : BitVec 48} {entry : BitVec 10} {axis : BitVec 2} {_engine : Bool} {s : State} {L : List
    Part} (hL : [.cascade] ⊆ L) :
    ∃ t, execPresence port step entry axis _engine s = .next t ∧ s.within L t := by
  have hw := State.within_refl s L
  refine ⟨_, rfl, ?_⟩
  try dsimp only
  repeat' first
    | with_reducible assumption | exact Part.sub_of hL (by decide) | with_reducible apply State.noteHeard_within
    | with_reducible apply State.within_ite

theorem execCascadeNeighbourLost_within {engine : Fin 2} {plus : Bool} {s : State} {L : List Part} (hL : [.cascade, .links] ⊆ L) :
    ∃ t, execCascadeNeighbourLost engine plus s = .next t ∧ s.within L t := by
  have hw := State.within_refl s L
  refine ⟨_, rfl, ?_⟩
  try dsimp only
  repeat' first
    | with_reducible assumption | exact Part.sub_of hL (by decide) | exact .inr (Part.in_of hL (by decide)) | with_reducible exact .inl rfl
    | with_reducible apply State.onCascadeRun_within | with_reducible apply State.sendFlit_within
    | with_reducible apply State.sendNotice_within | with_reducible apply State.within_ite | split | with_reducible apply State.within_upd

theorem execCascadeRestart_within {engine : Fin 2} {s : State} {L : List Part} (hL : [.dial, .logs, .mbs, .sched, .memory, .gather,
    .train, .cascade, .links, .resil, .bytes] ⊆ L) :
    ∃ t, execCascadeRestart engine s = .next t ∧ s.within L t := by
  have hw := State.within_refl s L
  refine ⟨_, rfl, ?_⟩
  try dsimp only
  repeat' first
    | with_reducible assumption | exact Part.sub_of hL (by decide) | with_reducible apply State.onProxyRun_within
    | with_reducible apply State.replayEarly_within | with_reducible apply State.restartOwn_within
    | with_reducible apply State.startDense_within | with_reducible apply State.within_ite

theorem execStageOpen_within {h : HkHeader} {s : State} {L : List Part} (hL : [.staging, .logs, .links] ⊆ L) :
    ∃ t, execStageOpen h s = .next t ∧ s.within L t := by
  have hw := State.within_refl s L
  refine ⟨_, rfl, ?_⟩
  try dsimp only
  repeat' first
    | with_reducible assumption | exact Part.sub_of hL (by decide) | intro _ | with_reducible apply State.openStaging_within
    | with_reducible apply State.stagingRequest_within

theorem execStageWrite_within {h : HkHeader} {offset : BitVec 32} {data : List Flit} {s : State} {L : List Part} (hL : [.staging, .logs,
    .links] ⊆ L) :
    ∃ t, execStageWrite h offset data s = .next t ∧ s.within L t := by
  have hw := State.within_refl s L
  refine ⟨_, rfl, ?_⟩
  try dsimp only
  repeat' first
    | with_reducible assumption | exact Part.sub_of hL (by decide) | intro _ | with_reducible apply State.stagingRequest_within
    | with_reducible apply State.writeStaging_within

theorem execStageCommit_within {h : HkHeader} {s : State} {L : List Part} (hL : [.staging, .logs, .links] ⊆ L) :
    ∃ t, execStageCommit h s = .next t ∧ s.within L t := by
  have hw := State.within_refl s L
  refine ⟨_, rfl, ?_⟩
  try dsimp only
  repeat' first
    | with_reducible assumption | exact Part.sub_of hL (by decide) | intro _ | with_reducible apply State.commitStaging_within
    | with_reducible apply State.stagingRequest_within

theorem execStageDiscard_within {h : HkHeader} {s : State} {L : List Part} (hL : [.staging, .logs, .links] ⊆ L) :
    ∃ t, execStageDiscard h s = .next t ∧ s.within L t := by
  have hw := State.within_refl s L
  refine ⟨_, rfl, ?_⟩
  try dsimp only
  repeat' first
    | with_reducible assumption | exact Part.sub_of hL (by decide) | intro _ | with_reducible apply State.discardStaging_within
    | with_reducible apply State.stagingRequest_within

theorem execStageCommitDone_within {s : State} {L : List Part} (hL : [.flash, .start, .staging, .logs, .links] ⊆ L) :
    ∃ t, execStageCommitDone s = .next t ∧ s.within L t := by
  have hw := State.within_refl s L
  refine ⟨_, rfl, ?_⟩
  split
  · exact hw
  · split
    · exact hw
    · exact State.sendCompletion_within (State.onStaging_within (State.endVerify_within hw (Part.sub_of hL (by decide)))
        (Part.sub_of hL (by decide))) (Part.sub_of hL (by decide))

theorem execFlashProgramDone_within {job : FlashJob} {ok : Bool} {s : State} {L : List Part} (hL : [.flash, .staging, .logs, .links] ⊆ L) :
    ∃ t, execFlashProgramDone job ok s = .next t ∧ s.within L t := by
  have hw := State.within_refl s L
  refine ⟨_, rfl, ?_⟩
  try dsimp only
  repeat' first
    | with_reducible assumption | exact Part.sub_of hL (by decide) | exact .inr (Part.in_of hL (by decide)) | with_reducible exact .inl rfl
    | with_reducible apply State.countError_within | with_reducible apply State.endFlash_within
    | with_reducible apply State.onStaging_within | with_reducible apply State.sendCompletion_within
    | with_reducible apply State.within_ite | split | with_reducible apply State.within_upd

theorem execHeartbeat_within {core : Fin 8} {s : State} {L : List Part} (hL : [.cores] ⊆ L) :
    ∃ t, execHeartbeat core s = .next t ∧ s.within L t := by
  have hw := State.within_refl s L
  refine ⟨_, rfl, ?_⟩
  try dsimp only
  repeat' first
    | with_reducible assumption | exact Part.sub_of hL (by decide) | exact .inr (Part.in_of hL (by decide)) | with_reducible exact .inl rfl
    | with_reducible apply State.onCore_within | with_reducible apply State.within_ite | with_reducible apply State.within_upd

theorem execWatcherRead_within {core : Fin 8} {s : State} {L : List Part} (hL : [.dial, .logs, .cores, .resil] ⊆ L) :
    ∃ t, execWatcherRead core s = .next t ∧ s.within L t := by
  have hw := State.within_refl s L
  refine ⟨_, rfl, ?_⟩
  try dsimp only
  repeat' first
    | with_reducible assumption | exact Part.sub_of hL (by decide) | exact .inr (Part.in_of hL (by decide)) | with_reducible exact .inl rfl
    | with_reducible apply State.coreFailed_within | with_reducible apply State.onCore_within | with_reducible apply State.within_ite
    | with_reducible apply State.within_upd

theorem execTakeoverComplete_within {core : Fin 8} {s : State} {L : List Part} (hL : [.flash, .start, .staging, .dial, .logs, .run, .mbs,
    .sched, .cores, .memory, .tables, .cursors, .rambler, .gather, .train, .blocks, .cascade, .links, .resil] ⊆ L) :
    ∃ t, execTakeoverComplete core s = .next t ∧ s.within L t := by
  have hw := State.within_refl s L
  refine ⟨_, rfl, ?_⟩
  try dsimp only
  repeat' first
    | with_reducible assumption | exact Part.sub_of hL (by decide) | exact .inr (Part.in_of hL (by decide)) | with_reducible exact .inl rfl
    | intro _ | with_reducible apply State.answerAllHeld_within | with_reducible apply State.onCore_within
    | with_reducible apply State.onTables_within | with_reducible apply State.settle_within
    | with_reducible apply State.takeHeldRequests_within | with_reducible apply State.within_ite | with_reducible apply State.within_elim
    | split | with_reducible apply State.within_upd

theorem execRead_within {h : HkHeader} {addr : Word} {lines : BitVec 6} {parity : BitVec 16} {s : State} {L : List Part} (hL : [.draws,
    .dial, .logs, .memory, .blocks, .links, .resil] ⊆ L) :
    ∃ t, execRead h addr lines parity s = .next t ∧ s.within L t := by
  have hw := State.within_refl s L
  refine ⟨_, rfl, ?_⟩
  try dsimp only
  repeat' first
    | with_reducible assumption | exact Part.sub_of hL (by decide) | intro _ | with_reducible apply State.countParity_within
    | with_reducible apply State.draw_within | with_reducible apply State.forward_within | with_reducible apply State.noteReads_within
    | with_reducible apply State.request_within | with_reducible apply State.sendCompletion_within | with_reducible apply State.within_ite

theorem execWrite_within {h : HkHeader} {addr : Word} {data : List Flit} {s : State} {L : List Part} (hL : [.draws, .dial, .logs, .run,
    .mbs, .sched, .memory, .tables, .cursors, .train, .blocks, .cascade, .links, .resil, .bytes] ⊆ L) :
    ∃ t, execWrite h addr data s = .next t ∧ s.within L t := by
  have hw := State.within_refl s L
  refine ⟨_, rfl, ?_⟩
  try dsimp only
  repeat' first
    | with_reducible assumption | exact Part.sub_of hL (by decide) | with_reducible apply State.writeRequest_within

theorem execStatusSpaceWrite_within {h : HkHeader} {addr : Word} {data : List Flit} {s : State} {L : List Part} (hL : [.draws, .dial,
    .logs, .run, .mbs, .sched, .memory, .tables, .cursors, .train, .blocks, .cascade, .links, .resil, .bytes] ⊆ L) :
    ∃ t, execStatusSpaceWrite h addr data s = .next t ∧ s.within L t := by
  have hw := State.within_refl s L
  refine ⟨_, rfl, ?_⟩
  try dsimp only
  repeat' first
    | with_reducible assumption | exact Part.sub_of hL (by decide) | intro _ | with_reducible apply State.complete_within
    | with_reducible apply State.request_within | with_reducible apply State.writeStatus_within | with_reducible apply State.within_ite

theorem execMemWrite_within {src : Coord} {addr : Word} {hkTag : BitVec 8} {data : List Flit} {s : State} {L : List Part} (hL : [.dial,
    .logs, .mbs, .sched, .memory, .tables, .train, .links, .bytes] ⊆ L) :
    ∃ t, execMemWrite src addr hkTag data s = .next t ∧ s.within L t := by
  have hw := State.within_refl s L
  refine ⟨_, rfl, ?_⟩
  try dsimp only
  repeat' first
    | with_reducible assumption | exact Part.sub_of hL (by decide) | with_reducible apply State.answerMem_within
    | with_reducible apply State.countError_within | with_reducible apply State.streamIn_within | with_reducible apply State.within_ite
    | split

theorem execMemRead_within {src : Coord} {addr : Word} {len : BitVec 6} {hkTag : BitVec 8} {s : State} {L : List Part} (hL : [.draws,
    .dial, .logs, .memory, .links] ⊆ L) :
    ∃ t, execMemRead src addr len hkTag s = .next t ∧ s.within L t := by
  have hw := State.within_refl s L
  refine ⟨_, rfl, ?_⟩
  try dsimp only
  repeat' first
    | with_reducible assumption | exact Part.sub_of hL (by decide) | with_reducible apply State.answerMem_within
    | with_reducible apply State.countError_within | with_reducible apply State.draw_within | with_reducible apply State.noteReads_within
    | with_reducible apply State.within_ite | split

theorem execMemData_within {src : Coord} {hkTag : BitVec 8} {code : BitVec 12} {gen : BitVec 8} {poison : Word} {data : List Flit} {s :
    State} {L : List Part} (hL : [.draws, .dial, .logs, .run, .mbs, .sched, .memory, .tables, .cursors, .train, .blocks, .cascade, .links,
    .resil, .bytes] ⊆ L) :
    ∃ t, execMemData src hkTag code gen poison data s = .next t ∧ s.within L t := by
  have hw := State.within_refl s L
  refine ⟨_, rfl, ?_⟩
  try dsimp only
  repeat' first
    | with_reducible assumption | exact Part.sub_of hL (by decide) | exact .inr (Part.in_of hL (by decide)) | with_reducible exact .inl rfl
    | with_reducible apply State.countError_within | with_reducible apply State.dropTag_within
    | with_reducible apply State.failRestore_within | with_reducible apply State.onResil_within
    | with_reducible apply State.placeBytes_within | with_reducible apply State.sendCompletion_within
    | with_reducible apply State.stagesEnd_within | with_reducible apply State.within_ite | split | with_reducible apply State.within_upd

theorem execMemAck_within {src : Coord} {hkTag : BitVec 8} {code : BitVec 12} {gen : BitVec 8} {s : State} {L : List Part} (hL : [.logs,
    .links, .resil] ⊆ L) :
    ∃ t, execMemAck src hkTag code gen s = .next t ∧ s.within L t := by
  have hw := State.within_refl s L
  refine ⟨_, rfl, ?_⟩
  try dsimp only
  repeat' first
    | with_reducible assumption | exact Part.sub_of hL (by decide) | exact .inr (Part.in_of hL (by decide)) | with_reducible exact .inl rfl
    | with_reducible apply State.countError_within | with_reducible apply State.dropTag_within | with_reducible apply State.onResil_within
    | with_reducible apply State.sendCompletion_within | with_reducible apply State.within_ite | split
    | with_reducible apply State.within_upd

theorem execCodewordReceive_within {port : Port} {uncorrectable : Bool} {seq : BitVec 10} {crc : BitVec 10} {flits : List Flit} {s :
    State} {L : List Part} (hL : [.logs, .links] ⊆ L) :
    ∃ t, execCodewordReceive port uncorrectable seq crc flits s = .next t ∧ s.within L t := by
  have hw := State.within_refl s L
  refine ⟨_, rfl, ?_⟩
  try dsimp only
  repeat' first
    | with_reducible assumption | exact Part.sub_of hL (by decide) | exact .inr (Part.in_of hL (by decide)) | with_reducible exact .inl rfl
    | intro _ | with_reducible apply State.acknowledge_within | with_reducible apply State.onPort_within
    | with_reducible apply State.rxFlit_within | with_reducible apply State.sendNak_within | with_reducible apply State.within_fold
    | with_reducible apply State.within_ite | split | with_reducible apply State.within_upd

theorem execLinkCtl_within {port : Port} {nak : Bool} {ackSeq : BitVec 10} {credits : List (BitVec 12)} {s : State} {L : List Part} (hL :
    [.logs, .links] ⊆ L) :
    ∃ t, execLinkCtl port nak ackSeq credits s = .next t ∧ s.within L t := by
  have hw := State.within_refl s L
  refine ⟨_, rfl, ?_⟩
  try dsimp only
  repeat' first
    | with_reducible assumption | exact Part.sub_of hL (by decide) | exact .inr (Part.in_of hL (by decide)) | with_reducible exact .inl rfl
    | with_reducible apply State.fastRetrain_within | with_reducible apply State.linkProtocol_within
    | with_reducible apply State.onPort_within | with_reducible apply State.within_ite | with_reducible apply State.within_upd

theorem execReplayAckTimeout_within {port : Port} {s : State} {L : List Part} (hL : [.logs, .links] ⊆ L) :
    ∃ t, execReplayAckTimeout port s = .next t ∧ s.within L t := by
  have hw := State.within_refl s L
  refine ⟨_, rfl, ?_⟩
  try dsimp only
  repeat' first
    | with_reducible assumption | exact Part.sub_of hL (by decide) | with_reducible apply State.fastRetrain_within
    | with_reducible apply State.within_ite

theorem execFastRetrainDone_within {port : Port} {ok : Bool} {s : State} {L : List Part} (hL : [.logs, .links] ⊆ L) :
    ∃ t, execFastRetrainDone port ok s = .next t ∧ s.within L t := by
  have hw := State.within_refl s L
  refine ⟨_, rfl, ?_⟩
  try dsimp only
  repeat' first
    | with_reducible assumption | exact Part.sub_of hL (by decide) | exact .inr (Part.in_of hL (by decide)) | with_reducible exact .inl rfl
    | with_reducible apply State.onPort_within | with_reducible apply State.portDown_within | with_reducible apply State.within_ite
    | with_reducible apply State.within_upd

theorem execCodewordTransmit_within {port : Port} {s : State} {L : List Part} (hL : [.links] ⊆ L) :
    ∃ t, execCodewordTransmit port s = .next t ∧ s.within L t := by
  have hw := State.within_refl s L
  refine ⟨_, rfl, ?_⟩
  try dsimp only
  repeat' first
    | with_reducible assumption | exact Part.sub_of hL (by decide) | exact .inr (Part.in_of hL (by decide)) | with_reducible exact .inl rfl
    | with_reducible apply State.onPort_within | with_reducible apply State.within_ite | split | with_reducible apply State.within_upd

theorem execLaneLossOfLock_within {port : Port} {lane : Fin 5} {s : State} {L : List Part} (hL : [.draws, .logs, .links] ⊆ L) :
    ∃ t, execLaneLossOfLock port lane s = .next t ∧ s.within L t := by
  have hw := State.within_refl s L
  refine ⟨_, rfl, ?_⟩
  try dsimp only
  repeat' first
    | with_reducible assumption | exact Part.sub_of hL (by decide) | exact .inr (Part.in_of hL (by decide)) | with_reducible exact .inl rfl
    | with_reducible apply State.fastRetrain_within | with_reducible apply State.logDevice_within
    | with_reducible apply State.onPort_within | with_reducible apply State.useSpare_within | with_reducible apply State.within_ite
    | with_reducible apply State.within_upd

theorem execLaneMap_within {port : Port} {map : BitVec 12} {atSeq : BitVec 10} {ack : Bool} {s : State} {L : List Part} (hL : [.links] ⊆
    L) :
    ∃ t, execLaneMap port map atSeq ack s = .next t ∧ s.within L t := by
  have hw := State.within_refl s L
  refine ⟨_, rfl, ?_⟩
  try dsimp only
  repeat' first
    | with_reducible assumption | exact Part.sub_of hL (by decide) | exact .inr (Part.in_of hL (by decide)) | with_reducible exact .inl rfl
    | with_reducible apply State.onPort_within | with_reducible apply State.sendControl_within | with_reducible apply State.within_ite
    | with_reducible apply State.within_upd

theorem execCalibrate_within {port : Port} {lane : BitVec 3} {tap : BitVec 2} {move : BitVec 2} {reply : Bool} {s : State} {L : List Part}
    (hL : [.links] ⊆ L) :
    ∃ t, execCalibrate port lane tap move reply s = .next t ∧ s.within L t := by
  have hw := State.within_refl s L
  refine ⟨_, rfl, ?_⟩
  try dsimp only
  repeat' first
    | with_reducible assumption | exact Part.sub_of hL (by decide) | exact .inr (Part.in_of hL (by decide)) | with_reducible exact .inl rfl
    | with_reducible apply State.onPort_within | with_reducible apply State.sendControl_within | with_reducible apply State.within_ite
    | with_reducible apply State.within_upd

theorem execEyeMarginScan_within {port : Port} {lane : Fin 5} {margin : BitVec 8} {s : State} {L : List Part} (hL : [.draws, .logs,
    .blocks, .links, .resil] ⊆ L) :
    ∃ t, execEyeMarginScan port lane margin s = .next t ∧ s.within L t := by
  have hw := State.within_refl s L
  refine ⟨_, rfl, ?_⟩
  try dsimp only
  repeat' first
    | with_reducible assumption | exact Part.sub_of hL (by decide) | exact .inr (Part.in_of hL (by decide)) | with_reducible exact .inl rfl
    | with_reducible apply State.draw_within | with_reducible apply State.logDevice_within | with_reducible apply State.markSwap_within
    | with_reducible apply State.onPort_within | with_reducible apply State.sendControl_within | with_reducible apply State.within_ite
    | with_reducible apply State.within_upd

theorem execNegotiate_within {port : Port} {f : NegotiateFlit} {s : State} {L : List Part} (hL : [.logs, .links] ⊆ L) :
    ∃ t, execNegotiate port f s = .next t ∧ s.within L t := by
  have hw := State.within_refl s L
  refine ⟨_, rfl, ?_⟩
  try dsimp only
  repeat' first
    | with_reducible assumption | exact Part.sub_of hL (by decide) | exact .inr (Part.in_of hL (by decide)) | with_reducible exact .inl rfl
    | with_reducible apply State.onPort_within | with_reducible apply State.portDown_within | with_reducible apply State.sendControl_within
    | with_reducible apply State.within_ite | with_reducible apply State.within_upd

theorem execMemoryRead_within {addr : Word} {ctx : Option CtxId} {finding : LineFinding} {s : State} {L : List Part} (hL : [.dial, .logs,
    .memory, .blocks, .resil, .bytes] ⊆ L) :
    ∃ t, execMemoryRead addr ctx finding s = .next t ∧ s.within L t := by
  have hw := State.within_refl s L
  refine ⟨_, rfl, ?_⟩
  try dsimp only
  repeat' first
    | with_reducible assumption | exact Part.sub_of hL (by decide) | with_reducible apply State.readLine_within | split

theorem execMemoryWrite_within {addr : Word} {bytes : List Byte} {poisoned : Bool} {finding : LineFinding} {s : State} {L : List Part} (hL
    : [.dial, .logs, .memory, .blocks, .resil, .bytes] ⊆ L) :
    ∃ t, execMemoryWrite addr bytes poisoned finding s = .next t ∧ s.within L t := by
  have hw := State.within_refl s L
  refine ⟨_, rfl, ?_⟩
  try dsimp only
  repeat' first
    | with_reducible assumption | exact Part.sub_of hL (by decide) | intro _ | with_reducible apply State.writeLine_within
    | with_reducible apply State.within_fold | with_reducible apply State.within_ite | split

theorem execFabricGrant_within {arb : Arbiter} {beats : Nat} {fault : FabricFault} {requests : List FabricRequest} {s : State} {L : List
    Part} (hL : [.memory, .gather, .bytes] ⊆ L) :
    ∃ t, execFabricGrant arb beats fault requests s = .next t ∧ s.within L t := by
  have hw := State.within_refl s L
  refine ⟨_, rfl, ?_⟩
  try dsimp only
  repeat' first
    | with_reducible assumption | exact Part.sub_of hL (by decide) | intro _ | with_reducible apply State.arbitrate_within
    | with_reducible apply State.endGrant_within | with_reducible apply State.noteWaits_within
    | with_reducible apply State.revokeGrant_within | with_reducible apply State.within_ite | with_reducible apply State.within_elim
    | split

theorem execRegulatorWindow_within {s : State} {L : List Part} (hL : [.memory] ⊆ L) :
    ∃ t, execRegulatorWindow s = .next t ∧ s.within L t := by
  have hw := State.within_refl s L
  refine ⟨_, rfl, ?_⟩
  try dsimp only
  repeat' first
    | with_reducible assumption | exact Part.sub_of hL (by decide) | exact .inr (Part.in_of hL (by decide)) | with_reducible exact .inl rfl
    | with_reducible rfl | exact Memory.setPoison_wf _ _ | with_reducible apply State.onMemory_within
    | with_reducible apply State.within_ite | with_reducible apply State.within_upd

theorem execCeLogUpdate_within {ctl : Controller} {offset : BitVec 48} {chip : BitVec 4} {kind : BitVec 2} {s : State} {L : List Part} (hL
    : [.memory] ⊆ L) :
    ∃ t, execCeLogUpdate ctl offset chip kind s = .next t ∧ s.within L t := by
  have hw := State.within_refl s L
  refine ⟨_, rfl, ?_⟩
  try dsimp only
  repeat' first
    | with_reducible assumption | exact Part.sub_of hL (by decide) | exact .inr (Part.in_of hL (by decide)) | with_reducible exact .inl rfl
    | with_reducible apply State.onController_within | with_reducible apply State.within_ite | split
    | with_reducible apply State.within_upd

theorem execCeLogUpdateDropped_within {ctl : Controller} {offset : BitVec 48} {s : State} {L : List Part} (hL : [.memory] ⊆ L) :
    ∃ t, execCeLogUpdateDropped ctl offset s = .next t ∧ s.within L t := by
  have hw := State.within_refl s L
  refine ⟨_, rfl, ?_⟩
  try dsimp only
  repeat' first
    | with_reducible assumption | exact Part.sub_of hL (by decide) | exact .inr (Part.in_of hL (by decide)) | with_reducible exact .inl rfl
    | with_reducible apply State.onPart_within | with_reducible apply State.within_ite | split | with_reducible apply State.within_upd

theorem execCeBucketLeak_within {s : State} {L : List Part} (hL : [.memory] ⊆ L) :
    ∃ t, execCeBucketLeak s = .next t ∧ s.within L t := by
  have hw := State.within_refl s L
  refine ⟨_, rfl, ?_⟩
  try dsimp only
  repeat' first
    | with_reducible assumption | exact Part.sub_of hL (by decide) | exact .inr (Part.in_of hL (by decide)) | with_reducible exact .inl rfl
    | intro _ | with_reducible rfl | exact Memory.setPoison_wf _ _ | with_reducible apply State.onMemory_within
    | with_reducible apply State.within_ite | with_reducible apply State.within_elim | with_reducible apply State.within_upd

theorem execScrubTick_within {s : State} {L : List Part} (hL : [.memory] ⊆ L) :
    ∃ t, execScrubTick s = .next t ∧ s.within L t := by
  have hw := State.within_refl s L
  refine ⟨_, rfl, ?_⟩
  try dsimp only
  repeat' first
    | with_reducible assumption | exact Part.sub_of hL (by decide) | exact .inr (Part.in_of hL (by decide)) | with_reducible exact .inl rfl
    | with_reducible rfl | exact Memory.setPoison_wf _ _ | with_reducible apply State.onMemory_within
    | with_reducible apply State.within_ite | with_reducible apply State.within_upd

theorem execScrubRead_within {ctl : Controller} {finding : LineFinding} {s : State} {L : List Part} (hL : [.dial, .logs, .memory, .blocks,
    .resil, .bytes] ⊆ L) :
    ∃ t, execScrubRead ctl finding s = .next t ∧ s.within L t := by
  have hw := State.within_refl s L
  refine ⟨_, rfl, ?_⟩
  try dsimp only
  repeat' first
    | with_reducible assumption | exact Part.sub_of hL (by decide) | exact .inr (Part.in_of hL (by decide)) | with_reducible exact .inl rfl
    | with_reducible apply State.onController_within | with_reducible apply State.scrubLine_within
    | with_reducible apply State.scrubbedLine_within | with_reducible apply State.within_ite | split
    | with_reducible apply State.within_upd

theorem execSample_within {ctx : CtxId} {remote : List RemoteSector} {s : State} {L : List Part} (hL : [.draws, .dial, .logs, .mbs,
    .sched, .memory, .tables, .rambler, .gather, .train, .blocks, .links, .bytes] ⊆ L) :
    ∃ t, execSample ctx remote s = .next t ∧ s.within L t := by
  have hw := State.within_refl s L
  refine ⟨_, rfl, ?_⟩
  try dsimp only
  repeat' first
    | with_reducible assumption | exact Part.sub_of hL (by decide) | exact .inr (Part.in_of hL (by decide)) | with_reducible exact .inl rfl
    | intro _ | with_reducible apply State.awaitSector_within | with_reducible apply State.countDefault_within
    | with_reducible apply State.draw_within | with_reducible apply State.dropSample_within | with_reducible apply State.finish_within
    | with_reducible apply State.runItem_within | with_reducible apply State.writeBasket_within | with_reducible apply State.within_fold
    | with_reducible apply State.within_ite | split | with_reducible apply State.within_upd

theorem execFill_within {ctx : CtxId} {s : State} {L : List Part} (hL : [.dial, .mbs, .sched, .memory, .gather, .train, .bytes] ⊆ L) :
    ∃ t, execFill ctx s = .next t ∧ s.within L t := by
  have hw := State.within_refl s L
  refine ⟨_, rfl, ?_⟩
  try dsimp only
  repeat' first
    | with_reducible assumption | exact Part.sub_of hL (by decide) | exact .inr (Part.in_of hL (by decide)) | with_reducible exact .inl rfl
    | intro _ | with_reducible rfl | exact Memory.setPoison_wf _ _ | with_reducible apply State.fillRange_within
    | with_reducible apply State.finish_within | with_reducible apply State.onMemory_within | with_reducible apply State.runFills_within
    | with_reducible apply State.runItem_within | with_reducible apply State.within_fold | with_reducible apply State.within_ite
    | with_reducible apply State.within_elim | split | with_reducible apply State.within_upd

theorem execTableSwitch_within {ctx : CtxId} {s : State} {L : List Part} (hL : [.dial, .mbs, .sched, .tables, .gather, .train] ⊆ L) :
    ∃ t, execTableSwitch ctx s = .next t ∧ s.within L t := by
  have hw := State.within_refl s L
  refine ⟨_, rfl, ?_⟩
  try dsimp only
  repeat' first
    | with_reducible assumption | exact Part.sub_of hL (by decide) | exact .inr (Part.in_of hL (by decide)) | with_reducible exact .inl rfl
    | intro _ | with_reducible apply State.finish_within | with_reducible apply State.onTables_within
    | with_reducible apply State.runItem_within | with_reducible apply State.within_ite | split | with_reducible apply State.within_upd

theorem execIntake_within {ctx : CtxId} {s : State} {L : List Part} (hL : [.draws, .dial, .logs, .run, .mbs, .sched, .memory, .cursors,
    .gather, .train] ⊆ L) :
    ∃ t, execIntake ctx s = .next t ∧ s.within L t := by
  have hw := State.within_refl s L
  refine ⟨_, rfl, ?_⟩
  try dsimp only
  repeat' first
    | with_reducible assumption | exact Part.sub_of hL (by decide) | intro _ | with_reducible apply State.checkRing_within
    | with_reducible apply State.draw_within | with_reducible apply State.runItem_within | with_reducible apply State.settle_within
    | with_reducible apply State.within_elim | split

theorem execTapReset_within {s : State} {L : List Part} (hL : [.power] ⊆ L) :
    ∃ t, execTapReset s = .next t ∧ s.within L t := by
  have hw := State.within_refl s L
  refine ⟨_, rfl, ?_⟩
  try dsimp only
  repeat' first
    | with_reducible assumption | exact Part.sub_of hL (by decide) | with_reducible apply State.tapLoad_within

theorem execBypass_within {s : State} {L : List Part} (hL : [.power] ⊆ L) :
    ∃ t, execBypass s = .next t ∧ s.within L t := by
  have hw := State.within_refl s L
  refine ⟨_, rfl, ?_⟩
  try dsimp only
  repeat' first
    | with_reducible assumption | exact Part.sub_of hL (by decide) | with_reducible apply State.tapLoad_within

theorem execIdcode_within {s : State} {L : List Part} (hL : [.power] ⊆ L) :
    ∃ t, execIdcode s = .next t ∧ s.within L t := by
  have hw := State.within_refl s L
  refine ⟨_, rfl, ?_⟩
  try dsimp only
  repeat' first
    | with_reducible assumption | exact Part.sub_of hL (by decide) | with_reducible apply State.tapLoad_within

theorem execSamplePreload_within {s : State} {L : List Part} (hL : [.draws, .power] ⊆ L) :
    ∃ t, execSamplePreload s = .next t ∧ s.within L t := by
  have hw := State.within_refl s L
  refine ⟨_, rfl, ?_⟩
  try dsimp only
  repeat' first
    | with_reducible assumption | exact Part.sub_of hL (by decide) | with_reducible apply State.draw_within
    | with_reducible apply State.tapLoad_within

theorem execExtest_within {s : State} {L : List Part} (hL : [.draws, .power] ⊆ L) :
    ∃ t, execExtest s = .next t ∧ s.within L t := by
  have hw := State.within_refl s L
  refine ⟨_, rfl, ?_⟩
  try dsimp only
  repeat' first
    | with_reducible assumption | exact Part.sub_of hL (by decide) | with_reducible apply State.draw_within
    | with_reducible apply State.tapDrive_within

theorem execExtestPulse_within {s : State} {L : List Part} (hL : [.draws, .power] ⊆ L) :
    ∃ t, execExtestPulse s = .next t ∧ s.within L t := by
  have hw := State.within_refl s L
  refine ⟨_, rfl, ?_⟩
  try dsimp only
  repeat' first
    | with_reducible assumption | exact Part.sub_of hL (by decide) | with_reducible apply State.draw_within
    | with_reducible apply State.tapDrive_within

theorem execExtestTrain_within {s : State} {L : List Part} (hL : [.draws, .power] ⊆ L) :
    ∃ t, execExtestTrain s = .next t ∧ s.within L t := by
  have hw := State.within_refl s L
  refine ⟨_, rfl, ?_⟩
  try dsimp only
  repeat' first
    | with_reducible assumption | exact Part.sub_of hL (by decide) | with_reducible apply State.draw_within
    | with_reducible apply State.tapDrive_within

theorem execClamp_within {s : State} {L : List Part} (hL : [.power] ⊆ L) :
    ∃ t, execClamp s = .next t ∧ s.within L t := by
  have hw := State.within_refl s L
  refine ⟨_, rfl, ?_⟩
  try dsimp only
  repeat' first
    | with_reducible assumption | exact Part.sub_of hL (by decide) | with_reducible apply State.tapDrive_within

theorem execHighz_within {s : State} {L : List Part} (hL : [.power] ⊆ L) :
    ∃ t, execHighz s = .next t ∧ s.within L t := by
  have hw := State.within_refl s L
  refine ⟨_, rfl, ?_⟩
  try dsimp only
  repeat' first
    | with_reducible assumption | exact Part.sub_of hL (by decide) | with_reducible apply State.tapDrive_within

end Sys2Proof.Machine
end

