-- ==== Sys2Proof/Laws/State.lean ====
section
/-! SUPPORT. Each update of the state read back field by field, and element by element. -/

namespace Sys2Proof.Machine

variable (s : State)

/-! `onRun` -/

@[simp] theorem State.onRun_pending (f : RunState → RunState) : (s.onRun f).pending = s.pending := rfl
@[simp] theorem State.onRun_draws (f : RunState → RunState) : (s.onRun f).draws = s.draws := rfl
@[simp] theorem State.onRun_power (f : RunState → RunState) : (s.onRun f).power = s.power := rfl
@[simp] theorem State.onRun_flash (f : RunState → RunState) : (s.onRun f).flash = s.flash := rfl
@[simp] theorem State.onRun_start (f : RunState → RunState) : (s.onRun f).start = s.start := rfl
@[simp] theorem State.onRun_staging (f : RunState → RunState) : (s.onRun f).staging = s.staging := rfl
@[simp] theorem State.onRun_cfg (f : RunState → RunState) : (s.onRun f).cfg = s.cfg := rfl
@[simp] theorem State.onRun_dial (f : RunState → RunState) : (s.onRun f).dial = s.dial := rfl
@[simp] theorem State.onRun_logs (f : RunState → RunState) : (s.onRun f).logs = s.logs := rfl
@[simp] theorem State.onRun_run (f : RunState → RunState) : (s.onRun f).run = f s.run := rfl
@[simp] theorem State.onRun_mbs (f : RunState → RunState) : (s.onRun f).mbs = s.mbs := rfl
@[simp] theorem State.onRun_sched (f : RunState → RunState) : (s.onRun f).sched = s.sched := rfl
@[simp] theorem State.onRun_cores (f : RunState → RunState) : (s.onRun f).cores = s.cores := rfl
@[simp] theorem State.onRun_memory (f : RunState → RunState) : (s.onRun f).memory = s.memory := rfl
@[simp] theorem State.onRun_tables (f : RunState → RunState) : (s.onRun f).tables = s.tables := rfl
@[simp] theorem State.onRun_cursors (f : RunState → RunState) : (s.onRun f).cursors = s.cursors := rfl
@[simp] theorem State.onRun_rambler (f : RunState → RunState) : (s.onRun f).rambler = s.rambler := rfl
@[simp] theorem State.onRun_gather (f : RunState → RunState) : (s.onRun f).gather = s.gather := rfl
@[simp] theorem State.onRun_train (f : RunState → RunState) : (s.onRun f).train = s.train := rfl
@[simp] theorem State.onRun_blocks (f : RunState → RunState) : (s.onRun f).blocks = s.blocks := rfl
@[simp] theorem State.onRun_cascade (f : RunState → RunState) : (s.onRun f).cascade = s.cascade := rfl
@[simp] theorem State.onRun_links (f : RunState → RunState) : (s.onRun f).links = s.links := rfl
@[simp] theorem State.onRun_resil (f : RunState → RunState) : (s.onRun f).resil = s.resil := rfl

/-! `onDial` -/

@[simp] theorem State.onDial_pending (f : DialState → DialState) : (s.onDial f).pending = s.pending := rfl
@[simp] theorem State.onDial_draws (f : DialState → DialState) : (s.onDial f).draws = s.draws := rfl
@[simp] theorem State.onDial_power (f : DialState → DialState) : (s.onDial f).power = s.power := rfl
@[simp] theorem State.onDial_flash (f : DialState → DialState) : (s.onDial f).flash = s.flash := rfl
@[simp] theorem State.onDial_start (f : DialState → DialState) : (s.onDial f).start = s.start := rfl
@[simp] theorem State.onDial_staging (f : DialState → DialState) : (s.onDial f).staging = s.staging := rfl
@[simp] theorem State.onDial_cfg (f : DialState → DialState) : (s.onDial f).cfg = s.cfg := rfl
@[simp] theorem State.onDial_dial (f : DialState → DialState) : (s.onDial f).dial = f s.dial := rfl
@[simp] theorem State.onDial_logs (f : DialState → DialState) : (s.onDial f).logs = s.logs := rfl
@[simp] theorem State.onDial_run (f : DialState → DialState) : (s.onDial f).run = s.run := rfl
@[simp] theorem State.onDial_mbs (f : DialState → DialState) : (s.onDial f).mbs = s.mbs := rfl
@[simp] theorem State.onDial_sched (f : DialState → DialState) : (s.onDial f).sched = s.sched := rfl
@[simp] theorem State.onDial_cores (f : DialState → DialState) : (s.onDial f).cores = s.cores := rfl
@[simp] theorem State.onDial_memory (f : DialState → DialState) : (s.onDial f).memory = s.memory := rfl
@[simp] theorem State.onDial_tables (f : DialState → DialState) : (s.onDial f).tables = s.tables := rfl
@[simp] theorem State.onDial_cursors (f : DialState → DialState) : (s.onDial f).cursors = s.cursors := rfl
@[simp] theorem State.onDial_rambler (f : DialState → DialState) : (s.onDial f).rambler = s.rambler := rfl
@[simp] theorem State.onDial_gather (f : DialState → DialState) : (s.onDial f).gather = s.gather := rfl
@[simp] theorem State.onDial_train (f : DialState → DialState) : (s.onDial f).train = s.train := rfl
@[simp] theorem State.onDial_blocks (f : DialState → DialState) : (s.onDial f).blocks = s.blocks := rfl
@[simp] theorem State.onDial_cascade (f : DialState → DialState) : (s.onDial f).cascade = s.cascade := rfl
@[simp] theorem State.onDial_links (f : DialState → DialState) : (s.onDial f).links = s.links := rfl
@[simp] theorem State.onDial_resil (f : DialState → DialState) : (s.onDial f).resil = s.resil := rfl

/-! `onLogs` -/

@[simp] theorem State.onLogs_pending (f : LogState → LogState) : (s.onLogs f).pending = s.pending := rfl
@[simp] theorem State.onLogs_draws (f : LogState → LogState) : (s.onLogs f).draws = s.draws := rfl
@[simp] theorem State.onLogs_power (f : LogState → LogState) : (s.onLogs f).power = s.power := rfl
@[simp] theorem State.onLogs_flash (f : LogState → LogState) : (s.onLogs f).flash = s.flash := rfl
@[simp] theorem State.onLogs_start (f : LogState → LogState) : (s.onLogs f).start = s.start := rfl
@[simp] theorem State.onLogs_staging (f : LogState → LogState) : (s.onLogs f).staging = s.staging := rfl
@[simp] theorem State.onLogs_cfg (f : LogState → LogState) : (s.onLogs f).cfg = s.cfg := rfl
@[simp] theorem State.onLogs_dial (f : LogState → LogState) : (s.onLogs f).dial = s.dial := rfl
@[simp] theorem State.onLogs_logs (f : LogState → LogState) : (s.onLogs f).logs = f s.logs := rfl
@[simp] theorem State.onLogs_run (f : LogState → LogState) : (s.onLogs f).run = s.run := rfl
@[simp] theorem State.onLogs_mbs (f : LogState → LogState) : (s.onLogs f).mbs = s.mbs := rfl
@[simp] theorem State.onLogs_sched (f : LogState → LogState) : (s.onLogs f).sched = s.sched := rfl
@[simp] theorem State.onLogs_cores (f : LogState → LogState) : (s.onLogs f).cores = s.cores := rfl
@[simp] theorem State.onLogs_memory (f : LogState → LogState) : (s.onLogs f).memory = s.memory := rfl
@[simp] theorem State.onLogs_tables (f : LogState → LogState) : (s.onLogs f).tables = s.tables := rfl
@[simp] theorem State.onLogs_cursors (f : LogState → LogState) : (s.onLogs f).cursors = s.cursors := rfl
@[simp] theorem State.onLogs_rambler (f : LogState → LogState) : (s.onLogs f).rambler = s.rambler := rfl
@[simp] theorem State.onLogs_gather (f : LogState → LogState) : (s.onLogs f).gather = s.gather := rfl
@[simp] theorem State.onLogs_train (f : LogState → LogState) : (s.onLogs f).train = s.train := rfl
@[simp] theorem State.onLogs_blocks (f : LogState → LogState) : (s.onLogs f).blocks = s.blocks := rfl
@[simp] theorem State.onLogs_cascade (f : LogState → LogState) : (s.onLogs f).cascade = s.cascade := rfl
@[simp] theorem State.onLogs_links (f : LogState → LogState) : (s.onLogs f).links = s.links := rfl
@[simp] theorem State.onLogs_resil (f : LogState → LogState) : (s.onLogs f).resil = s.resil := rfl

/-! `onTrain` -/

@[simp] theorem State.onTrain_pending (f : TrainState → TrainState) : (s.onTrain f).pending = s.pending := rfl
@[simp] theorem State.onTrain_draws (f : TrainState → TrainState) : (s.onTrain f).draws = s.draws := rfl
@[simp] theorem State.onTrain_power (f : TrainState → TrainState) : (s.onTrain f).power = s.power := rfl
@[simp] theorem State.onTrain_flash (f : TrainState → TrainState) : (s.onTrain f).flash = s.flash := rfl
@[simp] theorem State.onTrain_start (f : TrainState → TrainState) : (s.onTrain f).start = s.start := rfl
@[simp] theorem State.onTrain_staging (f : TrainState → TrainState) : (s.onTrain f).staging = s.staging := rfl
@[simp] theorem State.onTrain_cfg (f : TrainState → TrainState) : (s.onTrain f).cfg = s.cfg := rfl
@[simp] theorem State.onTrain_dial (f : TrainState → TrainState) : (s.onTrain f).dial = s.dial := rfl
@[simp] theorem State.onTrain_logs (f : TrainState → TrainState) : (s.onTrain f).logs = s.logs := rfl
@[simp] theorem State.onTrain_run (f : TrainState → TrainState) : (s.onTrain f).run = s.run := rfl
@[simp] theorem State.onTrain_mbs (f : TrainState → TrainState) : (s.onTrain f).mbs = s.mbs := rfl
@[simp] theorem State.onTrain_sched (f : TrainState → TrainState) : (s.onTrain f).sched = s.sched := rfl
@[simp] theorem State.onTrain_cores (f : TrainState → TrainState) : (s.onTrain f).cores = s.cores := rfl
@[simp] theorem State.onTrain_memory (f : TrainState → TrainState) : (s.onTrain f).memory = s.memory := rfl
@[simp] theorem State.onTrain_tables (f : TrainState → TrainState) : (s.onTrain f).tables = s.tables := rfl
@[simp] theorem State.onTrain_cursors (f : TrainState → TrainState) : (s.onTrain f).cursors = s.cursors := rfl
@[simp] theorem State.onTrain_rambler (f : TrainState → TrainState) : (s.onTrain f).rambler = s.rambler := rfl
@[simp] theorem State.onTrain_gather (f : TrainState → TrainState) : (s.onTrain f).gather = s.gather := rfl
@[simp] theorem State.onTrain_train (f : TrainState → TrainState) : (s.onTrain f).train = f s.train := rfl
@[simp] theorem State.onTrain_blocks (f : TrainState → TrainState) : (s.onTrain f).blocks = s.blocks := rfl
@[simp] theorem State.onTrain_cascade (f : TrainState → TrainState) : (s.onTrain f).cascade = s.cascade := rfl
@[simp] theorem State.onTrain_links (f : TrainState → TrainState) : (s.onTrain f).links = s.links := rfl
@[simp] theorem State.onTrain_resil (f : TrainState → TrainState) : (s.onTrain f).resil = s.resil := rfl

/-! `onTables` -/

@[simp] theorem State.onTables_pending (f : TablesState → TablesState) : (s.onTables f).pending = s.pending := rfl
@[simp] theorem State.onTables_draws (f : TablesState → TablesState) : (s.onTables f).draws = s.draws := rfl
@[simp] theorem State.onTables_power (f : TablesState → TablesState) : (s.onTables f).power = s.power := rfl
@[simp] theorem State.onTables_flash (f : TablesState → TablesState) : (s.onTables f).flash = s.flash := rfl
@[simp] theorem State.onTables_start (f : TablesState → TablesState) : (s.onTables f).start = s.start := rfl
@[simp] theorem State.onTables_staging (f : TablesState → TablesState) : (s.onTables f).staging = s.staging := rfl
@[simp] theorem State.onTables_cfg (f : TablesState → TablesState) : (s.onTables f).cfg = s.cfg := rfl
@[simp] theorem State.onTables_dial (f : TablesState → TablesState) : (s.onTables f).dial = s.dial := rfl
@[simp] theorem State.onTables_logs (f : TablesState → TablesState) : (s.onTables f).logs = s.logs := rfl
@[simp] theorem State.onTables_run (f : TablesState → TablesState) : (s.onTables f).run = s.run := rfl
@[simp] theorem State.onTables_mbs (f : TablesState → TablesState) : (s.onTables f).mbs = s.mbs := rfl
@[simp] theorem State.onTables_sched (f : TablesState → TablesState) : (s.onTables f).sched = s.sched := rfl
@[simp] theorem State.onTables_cores (f : TablesState → TablesState) : (s.onTables f).cores = s.cores := rfl
@[simp] theorem State.onTables_memory (f : TablesState → TablesState) : (s.onTables f).memory = s.memory := rfl
@[simp] theorem State.onTables_tables (f : TablesState → TablesState) : (s.onTables f).tables = f s.tables := rfl
@[simp] theorem State.onTables_cursors (f : TablesState → TablesState) : (s.onTables f).cursors = s.cursors := rfl
@[simp] theorem State.onTables_rambler (f : TablesState → TablesState) : (s.onTables f).rambler = s.rambler := rfl
@[simp] theorem State.onTables_gather (f : TablesState → TablesState) : (s.onTables f).gather = s.gather := rfl
@[simp] theorem State.onTables_train (f : TablesState → TablesState) : (s.onTables f).train = s.train := rfl
@[simp] theorem State.onTables_blocks (f : TablesState → TablesState) : (s.onTables f).blocks = s.blocks := rfl
@[simp] theorem State.onTables_cascade (f : TablesState → TablesState) : (s.onTables f).cascade = s.cascade := rfl
@[simp] theorem State.onTables_links (f : TablesState → TablesState) : (s.onTables f).links = s.links := rfl
@[simp] theorem State.onTables_resil (f : TablesState → TablesState) : (s.onTables f).resil = s.resil := rfl

/-! `onGather` -/

@[simp] theorem State.onGather_pending (f : GatherState → GatherState) : (s.onGather f).pending = s.pending := rfl
@[simp] theorem State.onGather_draws (f : GatherState → GatherState) : (s.onGather f).draws = s.draws := rfl
@[simp] theorem State.onGather_power (f : GatherState → GatherState) : (s.onGather f).power = s.power := rfl
@[simp] theorem State.onGather_flash (f : GatherState → GatherState) : (s.onGather f).flash = s.flash := rfl
@[simp] theorem State.onGather_start (f : GatherState → GatherState) : (s.onGather f).start = s.start := rfl
@[simp] theorem State.onGather_staging (f : GatherState → GatherState) : (s.onGather f).staging = s.staging := rfl
@[simp] theorem State.onGather_cfg (f : GatherState → GatherState) : (s.onGather f).cfg = s.cfg := rfl
@[simp] theorem State.onGather_dial (f : GatherState → GatherState) : (s.onGather f).dial = s.dial := rfl
@[simp] theorem State.onGather_logs (f : GatherState → GatherState) : (s.onGather f).logs = s.logs := rfl
@[simp] theorem State.onGather_run (f : GatherState → GatherState) : (s.onGather f).run = s.run := rfl
@[simp] theorem State.onGather_mbs (f : GatherState → GatherState) : (s.onGather f).mbs = s.mbs := rfl
@[simp] theorem State.onGather_sched (f : GatherState → GatherState) : (s.onGather f).sched = s.sched := rfl
@[simp] theorem State.onGather_cores (f : GatherState → GatherState) : (s.onGather f).cores = s.cores := rfl
@[simp] theorem State.onGather_memory (f : GatherState → GatherState) : (s.onGather f).memory = s.memory := rfl
@[simp] theorem State.onGather_tables (f : GatherState → GatherState) : (s.onGather f).tables = s.tables := rfl
@[simp] theorem State.onGather_cursors (f : GatherState → GatherState) : (s.onGather f).cursors = s.cursors := rfl
@[simp] theorem State.onGather_rambler (f : GatherState → GatherState) : (s.onGather f).rambler = s.rambler := rfl
@[simp] theorem State.onGather_gather (f : GatherState → GatherState) : (s.onGather f).gather = f s.gather := rfl
@[simp] theorem State.onGather_train (f : GatherState → GatherState) : (s.onGather f).train = s.train := rfl
@[simp] theorem State.onGather_blocks (f : GatherState → GatherState) : (s.onGather f).blocks = s.blocks := rfl
@[simp] theorem State.onGather_cascade (f : GatherState → GatherState) : (s.onGather f).cascade = s.cascade := rfl
@[simp] theorem State.onGather_links (f : GatherState → GatherState) : (s.onGather f).links = s.links := rfl
@[simp] theorem State.onGather_resil (f : GatherState → GatherState) : (s.onGather f).resil = s.resil := rfl

/-! `onCascade` -/

@[simp] theorem State.onCascade_pending (f : CascadeState → CascadeState) : (s.onCascade f).pending = s.pending := rfl
@[simp] theorem State.onCascade_draws (f : CascadeState → CascadeState) : (s.onCascade f).draws = s.draws := rfl
@[simp] theorem State.onCascade_power (f : CascadeState → CascadeState) : (s.onCascade f).power = s.power := rfl
@[simp] theorem State.onCascade_flash (f : CascadeState → CascadeState) : (s.onCascade f).flash = s.flash := rfl
@[simp] theorem State.onCascade_start (f : CascadeState → CascadeState) : (s.onCascade f).start = s.start := rfl
@[simp] theorem State.onCascade_staging (f : CascadeState → CascadeState) : (s.onCascade f).staging = s.staging := rfl
@[simp] theorem State.onCascade_cfg (f : CascadeState → CascadeState) : (s.onCascade f).cfg = s.cfg := rfl
@[simp] theorem State.onCascade_dial (f : CascadeState → CascadeState) : (s.onCascade f).dial = s.dial := rfl
@[simp] theorem State.onCascade_logs (f : CascadeState → CascadeState) : (s.onCascade f).logs = s.logs := rfl
@[simp] theorem State.onCascade_run (f : CascadeState → CascadeState) : (s.onCascade f).run = s.run := rfl
@[simp] theorem State.onCascade_mbs (f : CascadeState → CascadeState) : (s.onCascade f).mbs = s.mbs := rfl
@[simp] theorem State.onCascade_sched (f : CascadeState → CascadeState) : (s.onCascade f).sched = s.sched := rfl
@[simp] theorem State.onCascade_cores (f : CascadeState → CascadeState) : (s.onCascade f).cores = s.cores := rfl
@[simp] theorem State.onCascade_memory (f : CascadeState → CascadeState) : (s.onCascade f).memory = s.memory := rfl
@[simp] theorem State.onCascade_tables (f : CascadeState → CascadeState) : (s.onCascade f).tables = s.tables := rfl
@[simp] theorem State.onCascade_cursors (f : CascadeState → CascadeState) : (s.onCascade f).cursors = s.cursors := rfl
@[simp] theorem State.onCascade_rambler (f : CascadeState → CascadeState) : (s.onCascade f).rambler = s.rambler := rfl
@[simp] theorem State.onCascade_gather (f : CascadeState → CascadeState) : (s.onCascade f).gather = s.gather := rfl
@[simp] theorem State.onCascade_train (f : CascadeState → CascadeState) : (s.onCascade f).train = s.train := rfl
@[simp] theorem State.onCascade_blocks (f : CascadeState → CascadeState) : (s.onCascade f).blocks = s.blocks := rfl
@[simp] theorem State.onCascade_cascade (f : CascadeState → CascadeState) : (s.onCascade f).cascade = f s.cascade := rfl
@[simp] theorem State.onCascade_links (f : CascadeState → CascadeState) : (s.onCascade f).links = s.links := rfl
@[simp] theorem State.onCascade_resil (f : CascadeState → CascadeState) : (s.onCascade f).resil = s.resil := rfl

/-! `onResil` -/

@[simp] theorem State.onResil_pending (f : ResilState → ResilState) : (s.onResil f).pending = s.pending := rfl
@[simp] theorem State.onResil_draws (f : ResilState → ResilState) : (s.onResil f).draws = s.draws := rfl
@[simp] theorem State.onResil_power (f : ResilState → ResilState) : (s.onResil f).power = s.power := rfl
@[simp] theorem State.onResil_flash (f : ResilState → ResilState) : (s.onResil f).flash = s.flash := rfl
@[simp] theorem State.onResil_start (f : ResilState → ResilState) : (s.onResil f).start = s.start := rfl
@[simp] theorem State.onResil_staging (f : ResilState → ResilState) : (s.onResil f).staging = s.staging := rfl
@[simp] theorem State.onResil_cfg (f : ResilState → ResilState) : (s.onResil f).cfg = s.cfg := rfl
@[simp] theorem State.onResil_dial (f : ResilState → ResilState) : (s.onResil f).dial = s.dial := rfl
@[simp] theorem State.onResil_logs (f : ResilState → ResilState) : (s.onResil f).logs = s.logs := rfl
@[simp] theorem State.onResil_run (f : ResilState → ResilState) : (s.onResil f).run = s.run := rfl
@[simp] theorem State.onResil_mbs (f : ResilState → ResilState) : (s.onResil f).mbs = s.mbs := rfl
@[simp] theorem State.onResil_sched (f : ResilState → ResilState) : (s.onResil f).sched = s.sched := rfl
@[simp] theorem State.onResil_cores (f : ResilState → ResilState) : (s.onResil f).cores = s.cores := rfl
@[simp] theorem State.onResil_memory (f : ResilState → ResilState) : (s.onResil f).memory = s.memory := rfl
@[simp] theorem State.onResil_tables (f : ResilState → ResilState) : (s.onResil f).tables = s.tables := rfl
@[simp] theorem State.onResil_cursors (f : ResilState → ResilState) : (s.onResil f).cursors = s.cursors := rfl
@[simp] theorem State.onResil_rambler (f : ResilState → ResilState) : (s.onResil f).rambler = s.rambler := rfl
@[simp] theorem State.onResil_gather (f : ResilState → ResilState) : (s.onResil f).gather = s.gather := rfl
@[simp] theorem State.onResil_train (f : ResilState → ResilState) : (s.onResil f).train = s.train := rfl
@[simp] theorem State.onResil_blocks (f : ResilState → ResilState) : (s.onResil f).blocks = s.blocks := rfl
@[simp] theorem State.onResil_cascade (f : ResilState → ResilState) : (s.onResil f).cascade = s.cascade := rfl
@[simp] theorem State.onResil_links (f : ResilState → ResilState) : (s.onResil f).links = s.links := rfl
@[simp] theorem State.onResil_resil (f : ResilState → ResilState) : (s.onResil f).resil = f s.resil := rfl

/-! `onMemory` -/

@[simp] theorem State.onMemory_pending (f : MemState → MemState) : (s.onMemory f).pending = s.pending := rfl
@[simp] theorem State.onMemory_draws (f : MemState → MemState) : (s.onMemory f).draws = s.draws := rfl
@[simp] theorem State.onMemory_power (f : MemState → MemState) : (s.onMemory f).power = s.power := rfl
@[simp] theorem State.onMemory_flash (f : MemState → MemState) : (s.onMemory f).flash = s.flash := rfl
@[simp] theorem State.onMemory_start (f : MemState → MemState) : (s.onMemory f).start = s.start := rfl
@[simp] theorem State.onMemory_staging (f : MemState → MemState) : (s.onMemory f).staging = s.staging := rfl
@[simp] theorem State.onMemory_cfg (f : MemState → MemState) : (s.onMemory f).cfg = s.cfg := rfl
@[simp] theorem State.onMemory_dial (f : MemState → MemState) : (s.onMemory f).dial = s.dial := rfl
@[simp] theorem State.onMemory_logs (f : MemState → MemState) : (s.onMemory f).logs = s.logs := rfl
@[simp] theorem State.onMemory_run (f : MemState → MemState) : (s.onMemory f).run = s.run := rfl
@[simp] theorem State.onMemory_mbs (f : MemState → MemState) : (s.onMemory f).mbs = s.mbs := rfl
@[simp] theorem State.onMemory_sched (f : MemState → MemState) : (s.onMemory f).sched = s.sched := rfl
@[simp] theorem State.onMemory_cores (f : MemState → MemState) : (s.onMemory f).cores = s.cores := rfl
@[simp] theorem State.onMemory_memory (f : MemState → MemState) : (s.onMemory f).memory = f s.memory := rfl
@[simp] theorem State.onMemory_tables (f : MemState → MemState) : (s.onMemory f).tables = s.tables := rfl
@[simp] theorem State.onMemory_cursors (f : MemState → MemState) : (s.onMemory f).cursors = s.cursors := rfl
@[simp] theorem State.onMemory_rambler (f : MemState → MemState) : (s.onMemory f).rambler = s.rambler := rfl
@[simp] theorem State.onMemory_gather (f : MemState → MemState) : (s.onMemory f).gather = s.gather := rfl
@[simp] theorem State.onMemory_train (f : MemState → MemState) : (s.onMemory f).train = s.train := rfl
@[simp] theorem State.onMemory_blocks (f : MemState → MemState) : (s.onMemory f).blocks = s.blocks := rfl
@[simp] theorem State.onMemory_cascade (f : MemState → MemState) : (s.onMemory f).cascade = s.cascade := rfl
@[simp] theorem State.onMemory_links (f : MemState → MemState) : (s.onMemory f).links = s.links := rfl
@[simp] theorem State.onMemory_resil (f : MemState → MemState) : (s.onMemory f).resil = s.resil := rfl

/-! `onLinks` -/

@[simp] theorem State.onLinks_pending (f : LinkState → LinkState) : (s.onLinks f).pending = s.pending := rfl
@[simp] theorem State.onLinks_draws (f : LinkState → LinkState) : (s.onLinks f).draws = s.draws := rfl
@[simp] theorem State.onLinks_power (f : LinkState → LinkState) : (s.onLinks f).power = s.power := rfl
@[simp] theorem State.onLinks_flash (f : LinkState → LinkState) : (s.onLinks f).flash = s.flash := rfl
@[simp] theorem State.onLinks_start (f : LinkState → LinkState) : (s.onLinks f).start = s.start := rfl
@[simp] theorem State.onLinks_staging (f : LinkState → LinkState) : (s.onLinks f).staging = s.staging := rfl
@[simp] theorem State.onLinks_cfg (f : LinkState → LinkState) : (s.onLinks f).cfg = s.cfg := rfl
@[simp] theorem State.onLinks_dial (f : LinkState → LinkState) : (s.onLinks f).dial = s.dial := rfl
@[simp] theorem State.onLinks_logs (f : LinkState → LinkState) : (s.onLinks f).logs = s.logs := rfl
@[simp] theorem State.onLinks_run (f : LinkState → LinkState) : (s.onLinks f).run = s.run := rfl
@[simp] theorem State.onLinks_mbs (f : LinkState → LinkState) : (s.onLinks f).mbs = s.mbs := rfl
@[simp] theorem State.onLinks_sched (f : LinkState → LinkState) : (s.onLinks f).sched = s.sched := rfl
@[simp] theorem State.onLinks_cores (f : LinkState → LinkState) : (s.onLinks f).cores = s.cores := rfl
@[simp] theorem State.onLinks_memory (f : LinkState → LinkState) : (s.onLinks f).memory = s.memory := rfl
@[simp] theorem State.onLinks_tables (f : LinkState → LinkState) : (s.onLinks f).tables = s.tables := rfl
@[simp] theorem State.onLinks_cursors (f : LinkState → LinkState) : (s.onLinks f).cursors = s.cursors := rfl
@[simp] theorem State.onLinks_rambler (f : LinkState → LinkState) : (s.onLinks f).rambler = s.rambler := rfl
@[simp] theorem State.onLinks_gather (f : LinkState → LinkState) : (s.onLinks f).gather = s.gather := rfl
@[simp] theorem State.onLinks_train (f : LinkState → LinkState) : (s.onLinks f).train = s.train := rfl
@[simp] theorem State.onLinks_blocks (f : LinkState → LinkState) : (s.onLinks f).blocks = s.blocks := rfl
@[simp] theorem State.onLinks_cascade (f : LinkState → LinkState) : (s.onLinks f).cascade = s.cascade := rfl
@[simp] theorem State.onLinks_links (f : LinkState → LinkState) : (s.onLinks f).links = f s.links := rfl
@[simp] theorem State.onLinks_resil (f : LinkState → LinkState) : (s.onLinks f).resil = s.resil := rfl

/-! `onStaging` -/

@[simp] theorem State.onStaging_pending (f : StagingState → StagingState) : (s.onStaging f).pending = s.pending := rfl
@[simp] theorem State.onStaging_draws (f : StagingState → StagingState) : (s.onStaging f).draws = s.draws := rfl
@[simp] theorem State.onStaging_power (f : StagingState → StagingState) : (s.onStaging f).power = s.power := rfl
@[simp] theorem State.onStaging_flash (f : StagingState → StagingState) : (s.onStaging f).flash = s.flash := rfl
@[simp] theorem State.onStaging_start (f : StagingState → StagingState) : (s.onStaging f).start = s.start := rfl
@[simp] theorem State.onStaging_staging (f : StagingState → StagingState) : (s.onStaging f).staging = f s.staging := rfl
@[simp] theorem State.onStaging_cfg (f : StagingState → StagingState) : (s.onStaging f).cfg = s.cfg := rfl
@[simp] theorem State.onStaging_dial (f : StagingState → StagingState) : (s.onStaging f).dial = s.dial := rfl
@[simp] theorem State.onStaging_logs (f : StagingState → StagingState) : (s.onStaging f).logs = s.logs := rfl
@[simp] theorem State.onStaging_run (f : StagingState → StagingState) : (s.onStaging f).run = s.run := rfl
@[simp] theorem State.onStaging_mbs (f : StagingState → StagingState) : (s.onStaging f).mbs = s.mbs := rfl
@[simp] theorem State.onStaging_sched (f : StagingState → StagingState) : (s.onStaging f).sched = s.sched := rfl
@[simp] theorem State.onStaging_cores (f : StagingState → StagingState) : (s.onStaging f).cores = s.cores := rfl
@[simp] theorem State.onStaging_memory (f : StagingState → StagingState) : (s.onStaging f).memory = s.memory := rfl
@[simp] theorem State.onStaging_tables (f : StagingState → StagingState) : (s.onStaging f).tables = s.tables := rfl
@[simp] theorem State.onStaging_cursors (f : StagingState → StagingState) : (s.onStaging f).cursors = s.cursors := rfl
@[simp] theorem State.onStaging_rambler (f : StagingState → StagingState) : (s.onStaging f).rambler = s.rambler := rfl
@[simp] theorem State.onStaging_gather (f : StagingState → StagingState) : (s.onStaging f).gather = s.gather := rfl
@[simp] theorem State.onStaging_train (f : StagingState → StagingState) : (s.onStaging f).train = s.train := rfl
@[simp] theorem State.onStaging_blocks (f : StagingState → StagingState) : (s.onStaging f).blocks = s.blocks := rfl
@[simp] theorem State.onStaging_cascade (f : StagingState → StagingState) : (s.onStaging f).cascade = s.cascade := rfl
@[simp] theorem State.onStaging_links (f : StagingState → StagingState) : (s.onStaging f).links = s.links := rfl
@[simp] theorem State.onStaging_resil (f : StagingState → StagingState) : (s.onStaging f).resil = s.resil := rfl

/-! `draw` -/

@[simp] theorem State.draw_pending : (s.draw).pending = s.pending := rfl
@[simp] theorem State.draw_draws : (s.draw).draws = s.draws + 1 := rfl
@[simp] theorem State.draw_power : (s.draw).power = s.power := rfl
@[simp] theorem State.draw_flash : (s.draw).flash = s.flash := rfl
@[simp] theorem State.draw_start : (s.draw).start = s.start := rfl
@[simp] theorem State.draw_staging : (s.draw).staging = s.staging := rfl
@[simp] theorem State.draw_cfg : (s.draw).cfg = s.cfg := rfl
@[simp] theorem State.draw_dial : (s.draw).dial = s.dial := rfl
@[simp] theorem State.draw_logs : (s.draw).logs = s.logs := rfl
@[simp] theorem State.draw_run : (s.draw).run = s.run := rfl
@[simp] theorem State.draw_mbs : (s.draw).mbs = s.mbs := rfl
@[simp] theorem State.draw_sched : (s.draw).sched = s.sched := rfl
@[simp] theorem State.draw_cores : (s.draw).cores = s.cores := rfl
@[simp] theorem State.draw_memory : (s.draw).memory = s.memory := rfl
@[simp] theorem State.draw_tables : (s.draw).tables = s.tables := rfl
@[simp] theorem State.draw_cursors : (s.draw).cursors = s.cursors := rfl
@[simp] theorem State.draw_rambler : (s.draw).rambler = s.rambler := rfl
@[simp] theorem State.draw_gather : (s.draw).gather = s.gather := rfl
@[simp] theorem State.draw_train : (s.draw).train = s.train := rfl
@[simp] theorem State.draw_blocks : (s.draw).blocks = s.blocks := rfl
@[simp] theorem State.draw_cascade : (s.draw).cascade = s.cascade := rfl
@[simp] theorem State.draw_links : (s.draw).links = s.links := rfl
@[simp] theorem State.draw_resil : (s.draw).resil = s.resil := rfl

/-! `withMem` -/

@[simp] theorem State.withMem_pending (m : Memory) : (s.withMem m).pending = s.pending := rfl
@[simp] theorem State.withMem_draws (m : Memory) : (s.withMem m).draws = s.draws := rfl
@[simp] theorem State.withMem_power (m : Memory) : (s.withMem m).power = s.power := rfl
@[simp] theorem State.withMem_flash (m : Memory) : (s.withMem m).flash = s.flash := rfl
@[simp] theorem State.withMem_start (m : Memory) : (s.withMem m).start = s.start := rfl
@[simp] theorem State.withMem_staging (m : Memory) : (s.withMem m).staging = s.staging := rfl
@[simp] theorem State.withMem_cfg (m : Memory) : (s.withMem m).cfg = s.cfg := rfl
@[simp] theorem State.withMem_dial (m : Memory) : (s.withMem m).dial = s.dial := rfl
@[simp] theorem State.withMem_logs (m : Memory) : (s.withMem m).logs = s.logs := rfl
@[simp] theorem State.withMem_run (m : Memory) : (s.withMem m).run = s.run := rfl
@[simp] theorem State.withMem_mbs (m : Memory) : (s.withMem m).mbs = s.mbs := rfl
@[simp] theorem State.withMem_sched (m : Memory) : (s.withMem m).sched = s.sched := rfl
@[simp] theorem State.withMem_cores (m : Memory) : (s.withMem m).cores = s.cores := rfl
@[simp] theorem State.withMem_memory (m : Memory) : (s.withMem m).memory = { s.memory with mem := m } := rfl
@[simp] theorem State.withMem_tables (m : Memory) : (s.withMem m).tables = s.tables := rfl
@[simp] theorem State.withMem_cursors (m : Memory) : (s.withMem m).cursors = s.cursors := rfl
@[simp] theorem State.withMem_rambler (m : Memory) : (s.withMem m).rambler = s.rambler := rfl
@[simp] theorem State.withMem_gather (m : Memory) : (s.withMem m).gather = s.gather := rfl
@[simp] theorem State.withMem_train (m : Memory) : (s.withMem m).train = s.train := rfl
@[simp] theorem State.withMem_blocks (m : Memory) : (s.withMem m).blocks = s.blocks := rfl
@[simp] theorem State.withMem_cascade (m : Memory) : (s.withMem m).cascade = s.cascade := rfl
@[simp] theorem State.withMem_links (m : Memory) : (s.withMem m).links = s.links := rfl
@[simp] theorem State.withMem_resil (m : Memory) : (s.withMem m).resil = s.resil := rfl

/-! `onBlock` -/

@[simp] theorem State.onBlock_pending (i : Nat) (f : BlockState → BlockState) : (s.onBlock i f).pending = s.pending := rfl
@[simp] theorem State.onBlock_draws (i : Nat) (f : BlockState → BlockState) : (s.onBlock i f).draws = s.draws := rfl
@[simp] theorem State.onBlock_power (i : Nat) (f : BlockState → BlockState) : (s.onBlock i f).power = s.power := rfl
@[simp] theorem State.onBlock_flash (i : Nat) (f : BlockState → BlockState) : (s.onBlock i f).flash = s.flash := rfl
@[simp] theorem State.onBlock_start (i : Nat) (f : BlockState → BlockState) : (s.onBlock i f).start = s.start := rfl
@[simp] theorem State.onBlock_staging (i : Nat) (f : BlockState → BlockState) : (s.onBlock i f).staging = s.staging := rfl
@[simp] theorem State.onBlock_cfg (i : Nat) (f : BlockState → BlockState) : (s.onBlock i f).cfg = s.cfg := rfl
@[simp] theorem State.onBlock_dial (i : Nat) (f : BlockState → BlockState) : (s.onBlock i f).dial = s.dial := rfl
@[simp] theorem State.onBlock_logs (i : Nat) (f : BlockState → BlockState) : (s.onBlock i f).logs = s.logs := rfl
@[simp] theorem State.onBlock_run (i : Nat) (f : BlockState → BlockState) : (s.onBlock i f).run = s.run := rfl
@[simp] theorem State.onBlock_mbs (i : Nat) (f : BlockState → BlockState) : (s.onBlock i f).mbs = s.mbs := rfl
@[simp] theorem State.onBlock_sched (i : Nat) (f : BlockState → BlockState) : (s.onBlock i f).sched = s.sched := rfl
@[simp] theorem State.onBlock_cores (i : Nat) (f : BlockState → BlockState) : (s.onBlock i f).cores = s.cores := rfl
@[simp] theorem State.onBlock_memory (i : Nat) (f : BlockState → BlockState) : (s.onBlock i f).memory = s.memory := rfl
@[simp] theorem State.onBlock_tables (i : Nat) (f : BlockState → BlockState) : (s.onBlock i f).tables = s.tables := rfl
@[simp] theorem State.onBlock_cursors (i : Nat) (f : BlockState → BlockState) : (s.onBlock i f).cursors = s.cursors := rfl
@[simp] theorem State.onBlock_rambler (i : Nat) (f : BlockState → BlockState) : (s.onBlock i f).rambler = s.rambler := rfl
@[simp] theorem State.onBlock_gather (i : Nat) (f : BlockState → BlockState) : (s.onBlock i f).gather = s.gather := rfl
@[simp] theorem State.onBlock_train (i : Nat) (f : BlockState → BlockState) : (s.onBlock i f).train = s.train := rfl
@[simp] theorem State.onBlock_blocks (i : Nat) (f : BlockState → BlockState) : (s.onBlock i f).blocks = modifyAt s.blocks i f := rfl
@[simp] theorem State.onBlock_cascade (i : Nat) (f : BlockState → BlockState) : (s.onBlock i f).cascade = s.cascade := rfl
@[simp] theorem State.onBlock_links (i : Nat) (f : BlockState → BlockState) : (s.onBlock i f).links = s.links := rfl
@[simp] theorem State.onBlock_resil (i : Nat) (f : BlockState → BlockState) : (s.onBlock i f).resil = s.resil := rfl

/-! `onCore` -/

@[simp] theorem State.onCore_pending (i : Nat) (f : ControlCore → ControlCore) : (s.onCore i f).pending = s.pending := rfl
@[simp] theorem State.onCore_draws (i : Nat) (f : ControlCore → ControlCore) : (s.onCore i f).draws = s.draws := rfl
@[simp] theorem State.onCore_power (i : Nat) (f : ControlCore → ControlCore) : (s.onCore i f).power = s.power := rfl
@[simp] theorem State.onCore_flash (i : Nat) (f : ControlCore → ControlCore) : (s.onCore i f).flash = s.flash := rfl
@[simp] theorem State.onCore_start (i : Nat) (f : ControlCore → ControlCore) : (s.onCore i f).start = s.start := rfl
@[simp] theorem State.onCore_staging (i : Nat) (f : ControlCore → ControlCore) : (s.onCore i f).staging = s.staging := rfl
@[simp] theorem State.onCore_cfg (i : Nat) (f : ControlCore → ControlCore) : (s.onCore i f).cfg = s.cfg := rfl
@[simp] theorem State.onCore_dial (i : Nat) (f : ControlCore → ControlCore) : (s.onCore i f).dial = s.dial := rfl
@[simp] theorem State.onCore_logs (i : Nat) (f : ControlCore → ControlCore) : (s.onCore i f).logs = s.logs := rfl
@[simp] theorem State.onCore_run (i : Nat) (f : ControlCore → ControlCore) : (s.onCore i f).run = s.run := rfl
@[simp] theorem State.onCore_mbs (i : Nat) (f : ControlCore → ControlCore) : (s.onCore i f).mbs = s.mbs := rfl
@[simp] theorem State.onCore_sched (i : Nat) (f : ControlCore → ControlCore) : (s.onCore i f).sched = s.sched := rfl
@[simp] theorem State.onCore_cores (i : Nat) (f : ControlCore → ControlCore) : (s.onCore i f).cores = modifyAt s.cores i f := rfl
@[simp] theorem State.onCore_memory (i : Nat) (f : ControlCore → ControlCore) : (s.onCore i f).memory = s.memory := rfl
@[simp] theorem State.onCore_tables (i : Nat) (f : ControlCore → ControlCore) : (s.onCore i f).tables = s.tables := rfl
@[simp] theorem State.onCore_cursors (i : Nat) (f : ControlCore → ControlCore) : (s.onCore i f).cursors = s.cursors := rfl
@[simp] theorem State.onCore_rambler (i : Nat) (f : ControlCore → ControlCore) : (s.onCore i f).rambler = s.rambler := rfl
@[simp] theorem State.onCore_gather (i : Nat) (f : ControlCore → ControlCore) : (s.onCore i f).gather = s.gather := rfl
@[simp] theorem State.onCore_train (i : Nat) (f : ControlCore → ControlCore) : (s.onCore i f).train = s.train := rfl
@[simp] theorem State.onCore_blocks (i : Nat) (f : ControlCore → ControlCore) : (s.onCore i f).blocks = s.blocks := rfl
@[simp] theorem State.onCore_cascade (i : Nat) (f : ControlCore → ControlCore) : (s.onCore i f).cascade = s.cascade := rfl
@[simp] theorem State.onCore_links (i : Nat) (f : ControlCore → ControlCore) : (s.onCore i f).links = s.links := rfl
@[simp] theorem State.onCore_resil (i : Nat) (f : ControlCore → ControlCore) : (s.onCore i f).resil = s.resil := rfl

/-! `onCursor` -/

@[simp] theorem State.onCursor_pending (i : Nat) (f : Cursor → Cursor) : (s.onCursor i f).pending = s.pending := rfl
@[simp] theorem State.onCursor_draws (i : Nat) (f : Cursor → Cursor) : (s.onCursor i f).draws = s.draws := rfl
@[simp] theorem State.onCursor_power (i : Nat) (f : Cursor → Cursor) : (s.onCursor i f).power = s.power := rfl
@[simp] theorem State.onCursor_flash (i : Nat) (f : Cursor → Cursor) : (s.onCursor i f).flash = s.flash := rfl
@[simp] theorem State.onCursor_start (i : Nat) (f : Cursor → Cursor) : (s.onCursor i f).start = s.start := rfl
@[simp] theorem State.onCursor_staging (i : Nat) (f : Cursor → Cursor) : (s.onCursor i f).staging = s.staging := rfl
@[simp] theorem State.onCursor_cfg (i : Nat) (f : Cursor → Cursor) : (s.onCursor i f).cfg = s.cfg := rfl
@[simp] theorem State.onCursor_dial (i : Nat) (f : Cursor → Cursor) : (s.onCursor i f).dial = s.dial := rfl
@[simp] theorem State.onCursor_logs (i : Nat) (f : Cursor → Cursor) : (s.onCursor i f).logs = s.logs := rfl
@[simp] theorem State.onCursor_run (i : Nat) (f : Cursor → Cursor) : (s.onCursor i f).run = s.run := rfl
@[simp] theorem State.onCursor_mbs (i : Nat) (f : Cursor → Cursor) : (s.onCursor i f).mbs = s.mbs := rfl
@[simp] theorem State.onCursor_sched (i : Nat) (f : Cursor → Cursor) : (s.onCursor i f).sched = s.sched := rfl
@[simp] theorem State.onCursor_cores (i : Nat) (f : Cursor → Cursor) : (s.onCursor i f).cores = s.cores := rfl
@[simp] theorem State.onCursor_memory (i : Nat) (f : Cursor → Cursor) : (s.onCursor i f).memory = s.memory := rfl
@[simp] theorem State.onCursor_tables (i : Nat) (f : Cursor → Cursor) : (s.onCursor i f).tables = s.tables := rfl
@[simp] theorem State.onCursor_cursors (i : Nat) (f : Cursor → Cursor) : (s.onCursor i f).cursors = modifyAt s.cursors i f := rfl
@[simp] theorem State.onCursor_rambler (i : Nat) (f : Cursor → Cursor) : (s.onCursor i f).rambler = s.rambler := rfl
@[simp] theorem State.onCursor_gather (i : Nat) (f : Cursor → Cursor) : (s.onCursor i f).gather = s.gather := rfl
@[simp] theorem State.onCursor_train (i : Nat) (f : Cursor → Cursor) : (s.onCursor i f).train = s.train := rfl
@[simp] theorem State.onCursor_blocks (i : Nat) (f : Cursor → Cursor) : (s.onCursor i f).blocks = s.blocks := rfl
@[simp] theorem State.onCursor_cascade (i : Nat) (f : Cursor → Cursor) : (s.onCursor i f).cascade = s.cascade := rfl
@[simp] theorem State.onCursor_links (i : Nat) (f : Cursor → Cursor) : (s.onCursor i f).links = s.links := rfl
@[simp] theorem State.onCursor_resil (i : Nat) (f : Cursor → Cursor) : (s.onCursor i f).resil = s.resil := rfl

/-! `onRegion` -/

@[simp] theorem State.onRegion_pending (i : Nat) (f : RegionSched → RegionSched) : (s.onRegion i f).pending = s.pending := rfl
@[simp] theorem State.onRegion_draws (i : Nat) (f : RegionSched → RegionSched) : (s.onRegion i f).draws = s.draws := rfl
@[simp] theorem State.onRegion_power (i : Nat) (f : RegionSched → RegionSched) : (s.onRegion i f).power = s.power := rfl
@[simp] theorem State.onRegion_flash (i : Nat) (f : RegionSched → RegionSched) : (s.onRegion i f).flash = s.flash := rfl
@[simp] theorem State.onRegion_start (i : Nat) (f : RegionSched → RegionSched) : (s.onRegion i f).start = s.start := rfl
@[simp] theorem State.onRegion_staging (i : Nat) (f : RegionSched → RegionSched) : (s.onRegion i f).staging = s.staging := rfl
@[simp] theorem State.onRegion_cfg (i : Nat) (f : RegionSched → RegionSched) : (s.onRegion i f).cfg = s.cfg := rfl
@[simp] theorem State.onRegion_dial (i : Nat) (f : RegionSched → RegionSched) : (s.onRegion i f).dial = s.dial := rfl
@[simp] theorem State.onRegion_logs (i : Nat) (f : RegionSched → RegionSched) : (s.onRegion i f).logs = s.logs := rfl
@[simp] theorem State.onRegion_run (i : Nat) (f : RegionSched → RegionSched) : (s.onRegion i f).run = s.run := rfl
@[simp] theorem State.onRegion_mbs (i : Nat) (f : RegionSched → RegionSched) : (s.onRegion i f).mbs = s.mbs := rfl
@[simp] theorem State.onRegion_sched (i : Nat) (f : RegionSched → RegionSched) : (s.onRegion i f).sched = modifyAt s.sched i f := rfl
@[simp] theorem State.onRegion_cores (i : Nat) (f : RegionSched → RegionSched) : (s.onRegion i f).cores = s.cores := rfl
@[simp] theorem State.onRegion_memory (i : Nat) (f : RegionSched → RegionSched) : (s.onRegion i f).memory = s.memory := rfl
@[simp] theorem State.onRegion_tables (i : Nat) (f : RegionSched → RegionSched) : (s.onRegion i f).tables = s.tables := rfl
@[simp] theorem State.onRegion_cursors (i : Nat) (f : RegionSched → RegionSched) : (s.onRegion i f).cursors = s.cursors := rfl
@[simp] theorem State.onRegion_rambler (i : Nat) (f : RegionSched → RegionSched) : (s.onRegion i f).rambler = s.rambler := rfl
@[simp] theorem State.onRegion_gather (i : Nat) (f : RegionSched → RegionSched) : (s.onRegion i f).gather = s.gather := rfl
@[simp] theorem State.onRegion_train (i : Nat) (f : RegionSched → RegionSched) : (s.onRegion i f).train = s.train := rfl
@[simp] theorem State.onRegion_blocks (i : Nat) (f : RegionSched → RegionSched) : (s.onRegion i f).blocks = s.blocks := rfl
@[simp] theorem State.onRegion_cascade (i : Nat) (f : RegionSched → RegionSched) : (s.onRegion i f).cascade = s.cascade := rfl
@[simp] theorem State.onRegion_links (i : Nat) (f : RegionSched → RegionSched) : (s.onRegion i f).links = s.links := rfl
@[simp] theorem State.onRegion_resil (i : Nat) (f : RegionSched → RegionSched) : (s.onRegion i f).resil = s.resil := rfl

/-! `onPort` -/

@[simp] theorem State.onPort_pending (i : Nat) (f : PortState → PortState) : (s.onPort i f).pending = s.pending := rfl
@[simp] theorem State.onPort_draws (i : Nat) (f : PortState → PortState) : (s.onPort i f).draws = s.draws := rfl
@[simp] theorem State.onPort_power (i : Nat) (f : PortState → PortState) : (s.onPort i f).power = s.power := rfl
@[simp] theorem State.onPort_flash (i : Nat) (f : PortState → PortState) : (s.onPort i f).flash = s.flash := rfl
@[simp] theorem State.onPort_start (i : Nat) (f : PortState → PortState) : (s.onPort i f).start = s.start := rfl
@[simp] theorem State.onPort_staging (i : Nat) (f : PortState → PortState) : (s.onPort i f).staging = s.staging := rfl
@[simp] theorem State.onPort_cfg (i : Nat) (f : PortState → PortState) : (s.onPort i f).cfg = s.cfg := rfl
@[simp] theorem State.onPort_dial (i : Nat) (f : PortState → PortState) : (s.onPort i f).dial = s.dial := rfl
@[simp] theorem State.onPort_logs (i : Nat) (f : PortState → PortState) : (s.onPort i f).logs = s.logs := rfl
@[simp] theorem State.onPort_run (i : Nat) (f : PortState → PortState) : (s.onPort i f).run = s.run := rfl
@[simp] theorem State.onPort_mbs (i : Nat) (f : PortState → PortState) : (s.onPort i f).mbs = s.mbs := rfl
@[simp] theorem State.onPort_sched (i : Nat) (f : PortState → PortState) : (s.onPort i f).sched = s.sched := rfl
@[simp] theorem State.onPort_cores (i : Nat) (f : PortState → PortState) : (s.onPort i f).cores = s.cores := rfl
@[simp] theorem State.onPort_memory (i : Nat) (f : PortState → PortState) : (s.onPort i f).memory = s.memory := rfl
@[simp] theorem State.onPort_tables (i : Nat) (f : PortState → PortState) : (s.onPort i f).tables = s.tables := rfl
@[simp] theorem State.onPort_cursors (i : Nat) (f : PortState → PortState) : (s.onPort i f).cursors = s.cursors := rfl
@[simp] theorem State.onPort_rambler (i : Nat) (f : PortState → PortState) : (s.onPort i f).rambler = s.rambler := rfl
@[simp] theorem State.onPort_gather (i : Nat) (f : PortState → PortState) : (s.onPort i f).gather = s.gather := rfl
@[simp] theorem State.onPort_train (i : Nat) (f : PortState → PortState) : (s.onPort i f).train = s.train := rfl
@[simp] theorem State.onPort_blocks (i : Nat) (f : PortState → PortState) : (s.onPort i f).blocks = s.blocks := rfl
@[simp] theorem State.onPort_cascade (i : Nat) (f : PortState → PortState) : (s.onPort i f).cascade = s.cascade := rfl
@[simp] theorem State.onPort_links (i : Nat) (f : PortState → PortState) : (s.onPort i f).links = { s.links with ports := modifyAt s.links.ports i f } := rfl
@[simp] theorem State.onPort_resil (i : Nat) (f : PortState → PortState) : (s.onPort i f).resil = s.resil := rfl

/-! `onController` -/

@[simp] theorem State.onController_pending (i : Nat) (f : ControllerState → ControllerState) : (s.onController i f).pending = s.pending := rfl
@[simp] theorem State.onController_draws (i : Nat) (f : ControllerState → ControllerState) : (s.onController i f).draws = s.draws := rfl
@[simp] theorem State.onController_power (i : Nat) (f : ControllerState → ControllerState) : (s.onController i f).power = s.power := rfl
@[simp] theorem State.onController_flash (i : Nat) (f : ControllerState → ControllerState) : (s.onController i f).flash = s.flash := rfl
@[simp] theorem State.onController_start (i : Nat) (f : ControllerState → ControllerState) : (s.onController i f).start = s.start := rfl
@[simp] theorem State.onController_staging (i : Nat) (f : ControllerState → ControllerState) : (s.onController i f).staging = s.staging := rfl
@[simp] theorem State.onController_cfg (i : Nat) (f : ControllerState → ControllerState) : (s.onController i f).cfg = s.cfg := rfl
@[simp] theorem State.onController_dial (i : Nat) (f : ControllerState → ControllerState) : (s.onController i f).dial = s.dial := rfl
@[simp] theorem State.onController_logs (i : Nat) (f : ControllerState → ControllerState) : (s.onController i f).logs = s.logs := rfl
@[simp] theorem State.onController_run (i : Nat) (f : ControllerState → ControllerState) : (s.onController i f).run = s.run := rfl
@[simp] theorem State.onController_mbs (i : Nat) (f : ControllerState → ControllerState) : (s.onController i f).mbs = s.mbs := rfl
@[simp] theorem State.onController_sched (i : Nat) (f : ControllerState → ControllerState) : (s.onController i f).sched = s.sched := rfl
@[simp] theorem State.onController_cores (i : Nat) (f : ControllerState → ControllerState) : (s.onController i f).cores = s.cores := rfl
@[simp] theorem State.onController_memory (i : Nat) (f : ControllerState → ControllerState) : (s.onController i f).memory = { s.memory with controllers := modifyAt s.memory.controllers i f } := rfl
@[simp] theorem State.onController_tables (i : Nat) (f : ControllerState → ControllerState) : (s.onController i f).tables = s.tables := rfl
@[simp] theorem State.onController_cursors (i : Nat) (f : ControllerState → ControllerState) : (s.onController i f).cursors = s.cursors := rfl
@[simp] theorem State.onController_rambler (i : Nat) (f : ControllerState → ControllerState) : (s.onController i f).rambler = s.rambler := rfl
@[simp] theorem State.onController_gather (i : Nat) (f : ControllerState → ControllerState) : (s.onController i f).gather = s.gather := rfl
@[simp] theorem State.onController_train (i : Nat) (f : ControllerState → ControllerState) : (s.onController i f).train = s.train := rfl
@[simp] theorem State.onController_blocks (i : Nat) (f : ControllerState → ControllerState) : (s.onController i f).blocks = s.blocks := rfl
@[simp] theorem State.onController_cascade (i : Nat) (f : ControllerState → ControllerState) : (s.onController i f).cascade = s.cascade := rfl
@[simp] theorem State.onController_links (i : Nat) (f : ControllerState → ControllerState) : (s.onController i f).links = s.links := rfl
@[simp] theorem State.onController_resil (i : Nat) (f : ControllerState → ControllerState) : (s.onController i f).resil = s.resil := rfl

/-! `onPart` -/

@[simp] theorem State.onPart_pending (i : Nat) (f : PartState → PartState) : (s.onPart i f).pending = s.pending := rfl
@[simp] theorem State.onPart_draws (i : Nat) (f : PartState → PartState) : (s.onPart i f).draws = s.draws := rfl
@[simp] theorem State.onPart_power (i : Nat) (f : PartState → PartState) : (s.onPart i f).power = s.power := rfl
@[simp] theorem State.onPart_flash (i : Nat) (f : PartState → PartState) : (s.onPart i f).flash = s.flash := rfl
@[simp] theorem State.onPart_start (i : Nat) (f : PartState → PartState) : (s.onPart i f).start = s.start := rfl
@[simp] theorem State.onPart_staging (i : Nat) (f : PartState → PartState) : (s.onPart i f).staging = s.staging := rfl
@[simp] theorem State.onPart_cfg (i : Nat) (f : PartState → PartState) : (s.onPart i f).cfg = s.cfg := rfl
@[simp] theorem State.onPart_dial (i : Nat) (f : PartState → PartState) : (s.onPart i f).dial = s.dial := rfl
@[simp] theorem State.onPart_logs (i : Nat) (f : PartState → PartState) : (s.onPart i f).logs = s.logs := rfl
@[simp] theorem State.onPart_run (i : Nat) (f : PartState → PartState) : (s.onPart i f).run = s.run := rfl
@[simp] theorem State.onPart_mbs (i : Nat) (f : PartState → PartState) : (s.onPart i f).mbs = s.mbs := rfl
@[simp] theorem State.onPart_sched (i : Nat) (f : PartState → PartState) : (s.onPart i f).sched = s.sched := rfl
@[simp] theorem State.onPart_cores (i : Nat) (f : PartState → PartState) : (s.onPart i f).cores = s.cores := rfl
@[simp] theorem State.onPart_memory (i : Nat) (f : PartState → PartState) : (s.onPart i f).memory = { s.memory with parts := modifyAt s.memory.parts i f } := rfl
@[simp] theorem State.onPart_tables (i : Nat) (f : PartState → PartState) : (s.onPart i f).tables = s.tables := rfl
@[simp] theorem State.onPart_cursors (i : Nat) (f : PartState → PartState) : (s.onPart i f).cursors = s.cursors := rfl
@[simp] theorem State.onPart_rambler (i : Nat) (f : PartState → PartState) : (s.onPart i f).rambler = s.rambler := rfl
@[simp] theorem State.onPart_gather (i : Nat) (f : PartState → PartState) : (s.onPart i f).gather = s.gather := rfl
@[simp] theorem State.onPart_train (i : Nat) (f : PartState → PartState) : (s.onPart i f).train = s.train := rfl
@[simp] theorem State.onPart_blocks (i : Nat) (f : PartState → PartState) : (s.onPart i f).blocks = s.blocks := rfl
@[simp] theorem State.onPart_cascade (i : Nat) (f : PartState → PartState) : (s.onPart i f).cascade = s.cascade := rfl
@[simp] theorem State.onPart_links (i : Nat) (f : PartState → PartState) : (s.onPart i f).links = s.links := rfl
@[simp] theorem State.onPart_resil (i : Nat) (f : PartState → PartState) : (s.onPart i f).resil = s.resil := rfl

/-! `onTarget` -/

@[simp] theorem State.onTarget_pending (i : Nat) (f : CkptTarget → CkptTarget) : (s.onTarget i f).pending = s.pending := rfl
@[simp] theorem State.onTarget_draws (i : Nat) (f : CkptTarget → CkptTarget) : (s.onTarget i f).draws = s.draws := rfl
@[simp] theorem State.onTarget_power (i : Nat) (f : CkptTarget → CkptTarget) : (s.onTarget i f).power = s.power := rfl
@[simp] theorem State.onTarget_flash (i : Nat) (f : CkptTarget → CkptTarget) : (s.onTarget i f).flash = s.flash := rfl
@[simp] theorem State.onTarget_start (i : Nat) (f : CkptTarget → CkptTarget) : (s.onTarget i f).start = s.start := rfl
@[simp] theorem State.onTarget_staging (i : Nat) (f : CkptTarget → CkptTarget) : (s.onTarget i f).staging = s.staging := rfl
@[simp] theorem State.onTarget_cfg (i : Nat) (f : CkptTarget → CkptTarget) : (s.onTarget i f).cfg = s.cfg := rfl
@[simp] theorem State.onTarget_dial (i : Nat) (f : CkptTarget → CkptTarget) : (s.onTarget i f).dial = s.dial := rfl
@[simp] theorem State.onTarget_logs (i : Nat) (f : CkptTarget → CkptTarget) : (s.onTarget i f).logs = s.logs := rfl
@[simp] theorem State.onTarget_run (i : Nat) (f : CkptTarget → CkptTarget) : (s.onTarget i f).run = s.run := rfl
@[simp] theorem State.onTarget_mbs (i : Nat) (f : CkptTarget → CkptTarget) : (s.onTarget i f).mbs = s.mbs := rfl
@[simp] theorem State.onTarget_sched (i : Nat) (f : CkptTarget → CkptTarget) : (s.onTarget i f).sched = s.sched := rfl
@[simp] theorem State.onTarget_cores (i : Nat) (f : CkptTarget → CkptTarget) : (s.onTarget i f).cores = s.cores := rfl
@[simp] theorem State.onTarget_memory (i : Nat) (f : CkptTarget → CkptTarget) : (s.onTarget i f).memory = s.memory := rfl
@[simp] theorem State.onTarget_tables (i : Nat) (f : CkptTarget → CkptTarget) : (s.onTarget i f).tables = s.tables := rfl
@[simp] theorem State.onTarget_cursors (i : Nat) (f : CkptTarget → CkptTarget) : (s.onTarget i f).cursors = s.cursors := rfl
@[simp] theorem State.onTarget_rambler (i : Nat) (f : CkptTarget → CkptTarget) : (s.onTarget i f).rambler = s.rambler := rfl
@[simp] theorem State.onTarget_gather (i : Nat) (f : CkptTarget → CkptTarget) : (s.onTarget i f).gather = s.gather := rfl
@[simp] theorem State.onTarget_train (i : Nat) (f : CkptTarget → CkptTarget) : (s.onTarget i f).train = s.train := rfl
@[simp] theorem State.onTarget_blocks (i : Nat) (f : CkptTarget → CkptTarget) : (s.onTarget i f).blocks = s.blocks := rfl
@[simp] theorem State.onTarget_cascade (i : Nat) (f : CkptTarget → CkptTarget) : (s.onTarget i f).cascade = s.cascade := rfl
@[simp] theorem State.onTarget_links (i : Nat) (f : CkptTarget → CkptTarget) : (s.onTarget i f).links = s.links := rfl
@[simp] theorem State.onTarget_resil (i : Nat) (f : CkptTarget → CkptTarget) : (s.onTarget i f).resil = { s.resil with targets := modifyAt s.resil.targets i f } := rfl

/-! `onRestore` -/

@[simp] theorem State.onRestore_pending (f : RestoreState → RestoreState) : (s.onRestore f).pending = s.pending := rfl
@[simp] theorem State.onRestore_draws (f : RestoreState → RestoreState) : (s.onRestore f).draws = s.draws := rfl
@[simp] theorem State.onRestore_power (f : RestoreState → RestoreState) : (s.onRestore f).power = s.power := rfl
@[simp] theorem State.onRestore_flash (f : RestoreState → RestoreState) : (s.onRestore f).flash = s.flash := rfl
@[simp] theorem State.onRestore_start (f : RestoreState → RestoreState) : (s.onRestore f).start = s.start := rfl
@[simp] theorem State.onRestore_staging (f : RestoreState → RestoreState) : (s.onRestore f).staging = s.staging := rfl
@[simp] theorem State.onRestore_cfg (f : RestoreState → RestoreState) : (s.onRestore f).cfg = s.cfg := rfl
@[simp] theorem State.onRestore_dial (f : RestoreState → RestoreState) : (s.onRestore f).dial = s.dial := rfl
@[simp] theorem State.onRestore_logs (f : RestoreState → RestoreState) : (s.onRestore f).logs = s.logs := rfl
@[simp] theorem State.onRestore_run (f : RestoreState → RestoreState) : (s.onRestore f).run = s.run := rfl
@[simp] theorem State.onRestore_mbs (f : RestoreState → RestoreState) : (s.onRestore f).mbs = s.mbs := rfl
@[simp] theorem State.onRestore_sched (f : RestoreState → RestoreState) : (s.onRestore f).sched = s.sched := rfl
@[simp] theorem State.onRestore_cores (f : RestoreState → RestoreState) : (s.onRestore f).cores = s.cores := rfl
@[simp] theorem State.onRestore_memory (f : RestoreState → RestoreState) : (s.onRestore f).memory = s.memory := rfl
@[simp] theorem State.onRestore_tables (f : RestoreState → RestoreState) : (s.onRestore f).tables = s.tables := rfl
@[simp] theorem State.onRestore_cursors (f : RestoreState → RestoreState) : (s.onRestore f).cursors = s.cursors := rfl
@[simp] theorem State.onRestore_rambler (f : RestoreState → RestoreState) : (s.onRestore f).rambler = s.rambler := rfl
@[simp] theorem State.onRestore_gather (f : RestoreState → RestoreState) : (s.onRestore f).gather = s.gather := rfl
@[simp] theorem State.onRestore_train (f : RestoreState → RestoreState) : (s.onRestore f).train = s.train := rfl
@[simp] theorem State.onRestore_blocks (f : RestoreState → RestoreState) : (s.onRestore f).blocks = s.blocks := rfl
@[simp] theorem State.onRestore_cascade (f : RestoreState → RestoreState) : (s.onRestore f).cascade = s.cascade := rfl
@[simp] theorem State.onRestore_links (f : RestoreState → RestoreState) : (s.onRestore f).links = s.links := rfl
@[simp] theorem State.onRestore_resil (f : RestoreState → RestoreState) : (s.onRestore f).resil = { s.resil with restore := f s.resil.restore } := rfl

/-! `onHang` -/

@[simp] theorem State.onHang_pending (i : Nat) (f : HangRecord → HangRecord) : (s.onHang i f).pending = s.pending := rfl
@[simp] theorem State.onHang_draws (i : Nat) (f : HangRecord → HangRecord) : (s.onHang i f).draws = s.draws := rfl
@[simp] theorem State.onHang_power (i : Nat) (f : HangRecord → HangRecord) : (s.onHang i f).power = s.power := rfl
@[simp] theorem State.onHang_flash (i : Nat) (f : HangRecord → HangRecord) : (s.onHang i f).flash = s.flash := rfl
@[simp] theorem State.onHang_start (i : Nat) (f : HangRecord → HangRecord) : (s.onHang i f).start = s.start := rfl
@[simp] theorem State.onHang_staging (i : Nat) (f : HangRecord → HangRecord) : (s.onHang i f).staging = s.staging := rfl
@[simp] theorem State.onHang_cfg (i : Nat) (f : HangRecord → HangRecord) : (s.onHang i f).cfg = s.cfg := rfl
@[simp] theorem State.onHang_dial (i : Nat) (f : HangRecord → HangRecord) : (s.onHang i f).dial = s.dial := rfl
@[simp] theorem State.onHang_logs (i : Nat) (f : HangRecord → HangRecord) : (s.onHang i f).logs = s.logs := rfl
@[simp] theorem State.onHang_run (i : Nat) (f : HangRecord → HangRecord) : (s.onHang i f).run = s.run := rfl
@[simp] theorem State.onHang_mbs (i : Nat) (f : HangRecord → HangRecord) : (s.onHang i f).mbs = s.mbs := rfl
@[simp] theorem State.onHang_sched (i : Nat) (f : HangRecord → HangRecord) : (s.onHang i f).sched = s.sched := rfl
@[simp] theorem State.onHang_cores (i : Nat) (f : HangRecord → HangRecord) : (s.onHang i f).cores = s.cores := rfl
@[simp] theorem State.onHang_memory (i : Nat) (f : HangRecord → HangRecord) : (s.onHang i f).memory = s.memory := rfl
@[simp] theorem State.onHang_tables (i : Nat) (f : HangRecord → HangRecord) : (s.onHang i f).tables = s.tables := rfl
@[simp] theorem State.onHang_cursors (i : Nat) (f : HangRecord → HangRecord) : (s.onHang i f).cursors = s.cursors := rfl
@[simp] theorem State.onHang_rambler (i : Nat) (f : HangRecord → HangRecord) : (s.onHang i f).rambler = s.rambler := rfl
@[simp] theorem State.onHang_gather (i : Nat) (f : HangRecord → HangRecord) : (s.onHang i f).gather = s.gather := rfl
@[simp] theorem State.onHang_train (i : Nat) (f : HangRecord → HangRecord) : (s.onHang i f).train = s.train := rfl
@[simp] theorem State.onHang_blocks (i : Nat) (f : HangRecord → HangRecord) : (s.onHang i f).blocks = s.blocks := rfl
@[simp] theorem State.onHang_cascade (i : Nat) (f : HangRecord → HangRecord) : (s.onHang i f).cascade = s.cascade := rfl
@[simp] theorem State.onHang_links (i : Nat) (f : HangRecord → HangRecord) : (s.onHang i f).links = s.links := rfl
@[simp] theorem State.onHang_resil (i : Nat) (f : HangRecord → HangRecord) : (s.onHang i f).resil = { s.resil with hangs := modifyAt s.resil.hangs i f } := rfl

/-! `onEngine` -/

@[simp] theorem State.onEngine_pending (i : Nat) (f : CascadeEngine → CascadeEngine) : (s.onEngine i f).pending = s.pending := rfl
@[simp] theorem State.onEngine_draws (i : Nat) (f : CascadeEngine → CascadeEngine) : (s.onEngine i f).draws = s.draws := rfl
@[simp] theorem State.onEngine_power (i : Nat) (f : CascadeEngine → CascadeEngine) : (s.onEngine i f).power = s.power := rfl
@[simp] theorem State.onEngine_flash (i : Nat) (f : CascadeEngine → CascadeEngine) : (s.onEngine i f).flash = s.flash := rfl
@[simp] theorem State.onEngine_start (i : Nat) (f : CascadeEngine → CascadeEngine) : (s.onEngine i f).start = s.start := rfl
@[simp] theorem State.onEngine_staging (i : Nat) (f : CascadeEngine → CascadeEngine) : (s.onEngine i f).staging = s.staging := rfl
@[simp] theorem State.onEngine_cfg (i : Nat) (f : CascadeEngine → CascadeEngine) : (s.onEngine i f).cfg = s.cfg := rfl
@[simp] theorem State.onEngine_dial (i : Nat) (f : CascadeEngine → CascadeEngine) : (s.onEngine i f).dial = s.dial := rfl
@[simp] theorem State.onEngine_logs (i : Nat) (f : CascadeEngine → CascadeEngine) : (s.onEngine i f).logs = s.logs := rfl
@[simp] theorem State.onEngine_run (i : Nat) (f : CascadeEngine → CascadeEngine) : (s.onEngine i f).run = s.run := rfl
@[simp] theorem State.onEngine_mbs (i : Nat) (f : CascadeEngine → CascadeEngine) : (s.onEngine i f).mbs = s.mbs := rfl
@[simp] theorem State.onEngine_sched (i : Nat) (f : CascadeEngine → CascadeEngine) : (s.onEngine i f).sched = s.sched := rfl
@[simp] theorem State.onEngine_cores (i : Nat) (f : CascadeEngine → CascadeEngine) : (s.onEngine i f).cores = s.cores := rfl
@[simp] theorem State.onEngine_memory (i : Nat) (f : CascadeEngine → CascadeEngine) : (s.onEngine i f).memory = s.memory := rfl
@[simp] theorem State.onEngine_tables (i : Nat) (f : CascadeEngine → CascadeEngine) : (s.onEngine i f).tables = s.tables := rfl
@[simp] theorem State.onEngine_cursors (i : Nat) (f : CascadeEngine → CascadeEngine) : (s.onEngine i f).cursors = s.cursors := rfl
@[simp] theorem State.onEngine_rambler (i : Nat) (f : CascadeEngine → CascadeEngine) : (s.onEngine i f).rambler = s.rambler := rfl
@[simp] theorem State.onEngine_gather (i : Nat) (f : CascadeEngine → CascadeEngine) : (s.onEngine i f).gather = s.gather := rfl
@[simp] theorem State.onEngine_train (i : Nat) (f : CascadeEngine → CascadeEngine) : (s.onEngine i f).train = s.train := rfl
@[simp] theorem State.onEngine_blocks (i : Nat) (f : CascadeEngine → CascadeEngine) : (s.onEngine i f).blocks = s.blocks := rfl
@[simp] theorem State.onEngine_cascade (i : Nat) (f : CascadeEngine → CascadeEngine) : (s.onEngine i f).cascade = { s.cascade with engines := modifyAt s.cascade.engines i f } := rfl
@[simp] theorem State.onEngine_links (i : Nat) (f : CascadeEngine → CascadeEngine) : (s.onEngine i f).links = s.links := rfl
@[simp] theorem State.onEngine_resil (i : Nat) (f : CascadeEngine → CascadeEngine) : (s.onEngine i f).resil = s.resil := rfl

/-! `onMb` -/

@[simp] theorem State.onMb_pending (mb step : Nat) (f : MicroBatch → MicroBatch) : (s.onMb mb step f).pending = s.pending := rfl
@[simp] theorem State.onMb_draws (mb step : Nat) (f : MicroBatch → MicroBatch) : (s.onMb mb step f).draws = s.draws := rfl
@[simp] theorem State.onMb_power (mb step : Nat) (f : MicroBatch → MicroBatch) : (s.onMb mb step f).power = s.power := rfl
@[simp] theorem State.onMb_flash (mb step : Nat) (f : MicroBatch → MicroBatch) : (s.onMb mb step f).flash = s.flash := rfl
@[simp] theorem State.onMb_start (mb step : Nat) (f : MicroBatch → MicroBatch) : (s.onMb mb step f).start = s.start := rfl
@[simp] theorem State.onMb_staging (mb step : Nat) (f : MicroBatch → MicroBatch) : (s.onMb mb step f).staging = s.staging := rfl
@[simp] theorem State.onMb_cfg (mb step : Nat) (f : MicroBatch → MicroBatch) : (s.onMb mb step f).cfg = s.cfg := rfl
@[simp] theorem State.onMb_dial (mb step : Nat) (f : MicroBatch → MicroBatch) : (s.onMb mb step f).dial = s.dial := rfl
@[simp] theorem State.onMb_logs (mb step : Nat) (f : MicroBatch → MicroBatch) : (s.onMb mb step f).logs = s.logs := rfl
@[simp] theorem State.onMb_run (mb step : Nat) (f : MicroBatch → MicroBatch) : (s.onMb mb step f).run = s.run := rfl
@[simp] theorem State.onMb_mbs (mb step : Nat) (f : MicroBatch → MicroBatch) : (s.onMb mb step f).mbs = s.mbs.map fun m => if m.mb == mb && m.step == step then f m else m := rfl
@[simp] theorem State.onMb_sched (mb step : Nat) (f : MicroBatch → MicroBatch) : (s.onMb mb step f).sched = s.sched := rfl
@[simp] theorem State.onMb_cores (mb step : Nat) (f : MicroBatch → MicroBatch) : (s.onMb mb step f).cores = s.cores := rfl
@[simp] theorem State.onMb_memory (mb step : Nat) (f : MicroBatch → MicroBatch) : (s.onMb mb step f).memory = s.memory := rfl
@[simp] theorem State.onMb_tables (mb step : Nat) (f : MicroBatch → MicroBatch) : (s.onMb mb step f).tables = s.tables := rfl
@[simp] theorem State.onMb_cursors (mb step : Nat) (f : MicroBatch → MicroBatch) : (s.onMb mb step f).cursors = s.cursors := rfl
@[simp] theorem State.onMb_rambler (mb step : Nat) (f : MicroBatch → MicroBatch) : (s.onMb mb step f).rambler = s.rambler := rfl
@[simp] theorem State.onMb_gather (mb step : Nat) (f : MicroBatch → MicroBatch) : (s.onMb mb step f).gather = s.gather := rfl
@[simp] theorem State.onMb_train (mb step : Nat) (f : MicroBatch → MicroBatch) : (s.onMb mb step f).train = s.train := rfl
@[simp] theorem State.onMb_blocks (mb step : Nat) (f : MicroBatch → MicroBatch) : (s.onMb mb step f).blocks = s.blocks := rfl
@[simp] theorem State.onMb_cascade (mb step : Nat) (f : MicroBatch → MicroBatch) : (s.onMb mb step f).cascade = s.cascade := rfl
@[simp] theorem State.onMb_links (mb step : Nat) (f : MicroBatch → MicroBatch) : (s.onMb mb step f).links = s.links := rfl
@[simp] theorem State.onMb_resil (mb step : Nat) (f : MicroBatch → MicroBatch) : (s.onMb mb step f).resil = s.resil := rfl

/-! `setCtx` -/

@[simp] theorem State.setCtx_pending (c : CtxId) (x : TaskContext) : (s.setCtx c x).pending = s.pending := rfl
@[simp] theorem State.setCtx_draws (c : CtxId) (x : TaskContext) : (s.setCtx c x).draws = s.draws := rfl
@[simp] theorem State.setCtx_power (c : CtxId) (x : TaskContext) : (s.setCtx c x).power = s.power := rfl
@[simp] theorem State.setCtx_flash (c : CtxId) (x : TaskContext) : (s.setCtx c x).flash = s.flash := rfl
@[simp] theorem State.setCtx_start (c : CtxId) (x : TaskContext) : (s.setCtx c x).start = s.start := rfl
@[simp] theorem State.setCtx_staging (c : CtxId) (x : TaskContext) : (s.setCtx c x).staging = s.staging := rfl
@[simp] theorem State.setCtx_cfg (c : CtxId) (x : TaskContext) : (s.setCtx c x).cfg = s.cfg := rfl
@[simp] theorem State.setCtx_dial (c : CtxId) (x : TaskContext) : (s.setCtx c x).dial = s.dial := rfl
@[simp] theorem State.setCtx_logs (c : CtxId) (x : TaskContext) : (s.setCtx c x).logs = s.logs := rfl
@[simp] theorem State.setCtx_run (c : CtxId) (x : TaskContext) : (s.setCtx c x).run = s.run := rfl
@[simp] theorem State.setCtx_mbs (c : CtxId) (x : TaskContext) : (s.setCtx c x).mbs = s.mbs := rfl
@[simp] theorem State.setCtx_sched (c : CtxId) (x : TaskContext) : (s.setCtx c x).sched = modifyAt s.sched c.region.val fun r => { r with contexts := insertKey c.number x r.contexts } := rfl
@[simp] theorem State.setCtx_cores (c : CtxId) (x : TaskContext) : (s.setCtx c x).cores = s.cores := rfl
@[simp] theorem State.setCtx_memory (c : CtxId) (x : TaskContext) : (s.setCtx c x).memory = s.memory := rfl
@[simp] theorem State.setCtx_tables (c : CtxId) (x : TaskContext) : (s.setCtx c x).tables = s.tables := rfl
@[simp] theorem State.setCtx_cursors (c : CtxId) (x : TaskContext) : (s.setCtx c x).cursors = s.cursors := rfl
@[simp] theorem State.setCtx_rambler (c : CtxId) (x : TaskContext) : (s.setCtx c x).rambler = s.rambler := rfl
@[simp] theorem State.setCtx_gather (c : CtxId) (x : TaskContext) : (s.setCtx c x).gather = s.gather := rfl
@[simp] theorem State.setCtx_train (c : CtxId) (x : TaskContext) : (s.setCtx c x).train = s.train := rfl
@[simp] theorem State.setCtx_blocks (c : CtxId) (x : TaskContext) : (s.setCtx c x).blocks = s.blocks := rfl
@[simp] theorem State.setCtx_cascade (c : CtxId) (x : TaskContext) : (s.setCtx c x).cascade = s.cascade := rfl
@[simp] theorem State.setCtx_links (c : CtxId) (x : TaskContext) : (s.setCtx c x).links = s.links := rfl
@[simp] theorem State.setCtx_resil (c : CtxId) (x : TaskContext) : (s.setCtx c x).resil = s.resil := rfl

/-! ### Elements -/

theorem modifyAt_getD {α : Type} (l : List α) (i j : Nat) (f : α → α) (d : α) :
    (modifyAt l i f).getD j d = if i = j ∧ i < l.length then f (l.getD j d) else l.getD j d := by
  simp only [modifyAt, List.getD_eq_getElem?_getD, List.getElem?_modify]
  by_cases h : i = j
  · subst h
    by_cases hl : i < l.length
    · simp [hl]
    · simp [hl]
  · simp [h]

@[simp] theorem modifyAt_length {α : Type} (l : List α) (i : Nat) (f : α → α) : (modifyAt l i f).length = l.length := by simp [modifyAt]

theorem State.onPort_port (i j : Nat) (f : PortState → PortState) :
    (s.onPort i f).port j = if i = j ∧ i < s.links.ports.length then f (s.port j) else s.port j := by
  simpa [State.port, ← List.getD_eq_getElem?_getD] using modifyAt_getD s.links.ports i j f PortState.reset

theorem State.onBlock_block (i j : Nat) (f : BlockState → BlockState) :
    (s.onBlock i f).block j = if i = j ∧ i < s.blocks.length then f (s.block j) else s.block j := modifyAt_getD ..

theorem State.onCore_core (i j : Nat) (f : ControlCore → ControlCore) :
    (s.onCore i f).core j = if i = j ∧ i < s.cores.length then f (s.core j) else s.core j := modifyAt_getD ..

theorem State.onController_controller (i j : Nat) (f : ControllerState → ControllerState) :
    (s.onController i f).controller j = if i = j ∧ i < s.memory.controllers.length then f (s.controller j) else s.controller j := modifyAt_getD ..

theorem State.onEngine_engine (i j : Nat) (f : CascadeEngine → CascadeEngine) :
    (s.onEngine i f).engine j = if i = j ∧ i < s.cascade.engines.length then f (s.engine j) else s.engine j := modifyAt_getD ..

theorem State.onTarget_target (i j : Nat) (f : CkptTarget → CkptTarget) :
    (s.onTarget i f).target j = if i = j ∧ i < s.resil.targets.length then f (s.target j) else s.target j := modifyAt_getD ..

end Sys2Proof.Machine
end

