-- ==== Sys2Proof/WellFormed.lean ====
section
/-! DEFINITION. The commands the environment can form: task contexts that exist (R326), packets of 1 to 64 data flits
(R413), at most three requests and twelve replies (R422, R423), codewords of ten flits (R410), accesses within one
line (R382), lanes a port has (R409), moves that are not reserved (R428). -/

namespace Sys2Proof

/-- A command's operands are in range. -/
def Instr.wellFormed : Instr → Bool
  | .vinRise _ => true
  | .enRise => true
  | .baseDomainsGood => true
  | .enFall => true
  | .externalReset => true
  | .resetNRise => true
  | .inputFault _ => true
  | .inputReturn => true
  | .refclkFault => true
  | .temperatureThreshold _ _ => true
  | .avsSample _ _ => true
  | .clockStretch _ lowCycles => decide (0 < lowCycles)
  | .telemetrySample _ _ _ _ => true
  | .identity _ => true
  | .state _ => true
  | .power _ => true
  | .thermal _ => true
  | .statusAddr _ _ => true
  | .statusRead _ => true
  | .journalAddr _ _ => true
  | .journalRead _ => true
  | .alertClear _ => true
  | .estop _ _ => true
  | .tapReset => true
  | .bypass => true
  | .idcode => true
  | .samplePreload => true
  | .extest => true
  | .extestPulse => true
  | .extestTrain => true
  | .clamp => true
  | .highz => true
  | .startSequence _ => true
  | .startRestart => true
  | .stageOpen _ => true
  | .stageWrite h _ data => h.flits.toNat == data.length && decide (data.length ≤ 64)
  | .stageCommit _ => true
  | .stageCommitDone => true
  | .stageDiscard _ => true
  | .select _ _ => true
  | .start _ _ => true
  | .pause _ _ => true
  | .stop _ _ => true
  | .eval _ _ => true
  | .ckpt _ _ => true
  | .write h _ data => h.flits.toNat == data.length && decide (data.length ≤ 64)
  | .read _ _ _ _ => true
  | .attest _ _ => true
  | .ckptData h _ _ data => h.flits.toNat == data.length && decide (data.length ≤ 64)
  | .ckptAck _ _ _ => true
  | .restore _ _ _ _ => true
  | .rejoin _ _ _ _ => true
  | .statusSpaceWrite h _ data => h.flits.toNat == data.length && decide (data.length ≤ 64)
  | .dialAdvance _ => true
  | .stepBoundary _ => true
  | .beat _ f => decide (f.pos.toNat % 256 = 0)
  | .beatLost => true
  | .rootTakeover => true
  | .stretchRequest _ _ _ => true
  | .slackReport _ _ _ => true
  | .reshardCompletionReport _ _ => true
  | .syncInEdge _ => true
  | .syncInLost => true
  | .dispatch _ _ => true
  | .instanceComplete ctx => decide (ctx.number < 12288)
  | .contextTimeout ctx => decide (ctx.number < 12288)
  | .sample ctx _ => decide (ctx.number < 12288)
  | .gather ctx _ => decide (ctx.number < 12288)
  | .aggregate ctx _ _ => decide (ctx.number < 12288)
  | .transform ctx => decide (ctx.number < 12288)
  | .activate ctx => decide (ctx.number < 12288)
  | .normalise ctx => decide (ctx.number < 12288)
  | .loss ctx => decide (ctx.number < 12288)
  | .optimize ctx _ => decide (ctx.number < 12288)
  | .reduce ctx => decide (ctx.number < 12288)
  | .spout ctx _ _ => decide (ctx.number < 12288)
  | .spoutBudget ctx => decide (ctx.number < 12288)
  | .fill ctx => decide (ctx.number < 12288)
  | .tableSwitch ctx => decide (ctx.number < 12288)
  | .intake ctx => decide (ctx.number < 12288)
  | .transformBackward ctx => decide (ctx.number < 12288)
  | .spoutPoolBackward ctx => decide (ctx.number < 12288)
  | .trailReturn ctx => decide (ctx.number < 12288)
  | .returnSweep => true
  | .microBatchCommit _ => true
  | .stashEntry _ _ _ _ => true
  | .chunkIssue _ _ _ _ _ => true
  | .swap _ _ _ => true
  | .basinDrain _ _ _ _ => true
  | .rillBeat _ _ _ => true
  | .rowReq _ _ entries => decide (1 ≤ entries.length) && decide (entries.length ≤ 3)
  | .rowReply _ _ entries data => decide (data.length ≤ 64) && decide (1 ≤ entries.length) && decide (entries.length ≤ 12)
  | .gatherTimeout _ => true
  | .shardMapReload _ _ => true
  | .migrationCopyComplete _ _ => true
  | .reshardHoldEnd => true
  | .reshardMoveComplete => true
  | .cascade _ h data _ => decide (data.length ≤ 64) && h.axis != 3
  | .presence _ _ _ _ _ => true
  | .cascadeNeighbourLost _ _ => true
  | .notice _ _ _ _ _ _ _ => true
  | .cascadeRestart _ => true
  | .memoryRead addr _ _ => decide (addr.toNat % 64 = 0)
  | .memoryWrite addr bytes _ _ => decide (addr.toNat % 64 + bytes.length ≤ 64)
  | .fabricGrant _ _ _ _ => true
  | .regulatorWindow => true
  | .ceLogUpdate _ _ _ _ => true
  | .ceLogUpdateDropped _ _ => true
  | .ceBucketLeak => true
  | .scrubTick => true
  | .scrubRead _ _ => true
  | .codewordReceive _ uncorrectable _ _ flits => uncorrectable || flits.length == 10
  | .linkCtl _ _ _ _ => true
  | .replayAckTimeout _ => true
  | .fastRetrainDone _ _ => true
  | .laneLossOfLock port lane => decide (port.val < 6 ∨ lane.val < 3)
  | .negotiate _ f => f.port != 7
  | .calibrate _ lane _ move _ => decide (lane.toNat ≤ 4) && move != 3
  | .laneMap _ _ _ _ => true
  | .memWrite _ _ _ data => decide (data.length ≤ 64)
  | .memRead _ _ _ _ => true
  | .memData _ _ _ _ _ data => decide (data.length ≤ 64)
  | .memAck _ _ _ _ => true
  | .drain _ _ _ data => decide (data.length ≤ 64)
  | .drainAck _ _ => true
  | .heartbeat _ => true
  | .watcherRead _ => true
  | .takeoverComplete _ => true
  | .checkpointDrain => true
  | .checkpointCopy _ _ => true
  | .nvmeCompletion _ _ => true
  | .nvmeCommandTimeout => true
  | .watchdogExpired _ => true
  | .hangRecordTimeout => true
  | .resetRungComplete => true
  | .resetRungTimeout => true
  | .wearSample _ => true
  | .spareSwap => true
  | .spareSwapComplete _ => true
  | .refclkReturn => true
  | .baseDomainToleranceLost => true
  | .hangRecordCollected => true
  | .eyeMarginScan port lane _ => decide (port.val < 6 ∨ lane.val < 3)
  | .codewordTransmit _ => true
  | .flashProgramDone _ _ => true

end Sys2Proof
end

