-- ==== Sys2Proof/Tests/Slice0.lean ====
section
/-! SUPPORT. Tests: ill-formed commands are refused; single steps with results taken from the spec's examples and tables; and, for every
statement, states and operands that meet its hypotheses. -/

namespace Sys2Proof.Tests
open Sys2Proof.Machine

set_option maxRecDepth 100000
set_option exponentiation.threshold 1024

/-! ### States -/

/-- A device that a start has made ready: every port up, every role on a core, a job slot selected, the dial locked at pos 0 of step 7. -/
def up : State :=
  { State.reset with
    power := { PowerState.reset with stage := .good, vinOk := true, en := true, pgOut := true, on := BitVec.allOnes 96 }
    start := { StartState.reset with begun := true, state := 1, loaded := true, ddrGib := 64 }
    cores := (List.range 8).map fun i => { ControlCore.reset with role := BitVec.ofNat 3 (if i < 6 then i + 1 else 0), tested := true }
    links := { LinkState.reset with ports := List.replicate 7 { PortState.reset with state := 2 } }
    dial := { DialState.reset with locked := true, periodNs := 2000000, step := 7 }
    run := { RunState.reset with run := 1 } }

/-- `up` with a port's state changed. -/
def onPort (p : Nat) (f : PortState → PortState) : State := up.onPort p f

/-- A clean request header. -/
def hk (flits : Nat) : HkHeader := ⟨1, 3, 0, BitVec.ofNat 7 flits, false, 5, 0, 0, none⟩

/-- Context 3 of region 0. -/
def c0 : CtxId := ⟨0, 3⟩

/-- A running work item of operation 0. -/
def task : TaskContext := { (default : TaskContext) with state := 3, step := 7 }

/-- Micro-batch 0 of step 7, admitted and started. -/
def mb0 : MicroBatch := { (default : MicroBatch) with step := 7, admitted := true, started := true }

/-- A dense FP32 operand of 2 rows of 32 in tier 0x1. -/
def x0 : Operand := { (default : Operand) with kind := 3, format := 0x1, loc := true, cols := 31, rows := 1, base := 2 ^ 48 }

/-- `up`, running, with a slot of the given operations and operands, and the work item. -/
def job (ops : List Op) (operands : List Operand) (t : TaskContext) : State :=
  { up with
    cfg := { up.cfg with slots := [(0, { (default : JobSlot) with ops := ops, operands := operands })] }
    run := { up.run with run := 2, runStep := 7 }
    sched := setAt up.sched 0 { RegionSched.reset with contexts := [(3, t)] }
    mbs := [mb0] }

def opOf (b : OpBody) : Op := { (default : Op) with body := b }

/-! ### What the statements assume holds somewhere: power, sideband, start, host -/

theorem test_powerUpStages_met :
    State.reset.power.stage = .off ∧
    ({ up.power with stage := .ramping } : PowerState).stage = .ramping ∧
    (let p : PowerState := { up.power with stage := .housekeeping, hold := .input, vinOk := false }
     p.stage = .housekeeping ∧ p.hold = .input) ∧
    (let p : PowerState := { up.power with stage := .housekeeping, hold := .awaitReset }
     p.stage = .housekeeping ∧ p.hold = .awaitReset ∧ p.vinOk = true) ∧
    (let p : PowerState := { up.power with stage := .housekeeping, hold := .refclk }
     p.stage = .housekeeping ∧ p.hold = .refclk ∧ p.vinOk = true) := by decide

theorem test_shutdowns_met :
    up.power.stage = .good ∧ up.power.pgOut = true ∧
    (let p : PowerState := { PowerState.reset with stage := .housekeeping, hold := .estop, estop := true }
     p.pgOut = false ∧ p.hold = .estop) := by decide

theorem test_powerMonitors_met :
    ((109#8).toNat < 110 ∧ 110 ≤ (110#8).toNat ∧ up.power.stage = .good) ∧
    ((15 : Fin 16).val < up.memory.controllers.length ∧ (89#8).toNat < 90 ∧ (up.power.sensorState (.slice 15)).level = 0) ∧
    (let x : BlockPower := ⟨845, true, false, 60, 4, 0, 9, 0⟩
     let s : State := { up with power := { up.power with blocks := up.power.blocks.set 35 x } }
     s.power.blocks[(35 : Block).val]? = some x ∧ x.on = true ∧ (4#8).toNat < 5 ∧ x.mv.toNat ≤ 845 ∧ 8 < (9#8).toNat ∧ x.highRun = 9 ∧
       655 ≤ x.mv.toNat ∧ x.throttled = false) ∧
    (let x : BlockPower := ⟨850, true, true, 60, 4, 0, 0, 999⟩
     (4#8).toNat < 5 ∧ 850 ≤ x.mv.toNat ∧ x.limitRun + 1 = 1000 ∧ x.throttled = true) ∧
    State.reset.power.blocks.all (fun x => !x.on) = true ∧
    (up.roleUp 3 = true ∧ up.roleUp 6 = true ∧ ({ up with cores := [] } : State).roleUp 6 = false ∧ up.start.loaded = true) := by decide

theorem test_sidebandRequests_met :
    up.power.stage ≠ .off ∧ up.power.blocks.length = 36 ∧ up.staging.busy = [] ∧
    ({ up.staging with busy := [⟨.stageErase, none, false, 0, []⟩] } : StagingState).busy ≠ [] ∧ (0xE4#8) ≠ 0xE5 := by decide

theorem test_starts_met :
    (let s : State := { up with start := StartState.reset, power := { up.power with carried := 2 } }
     s.power.stage = .good ∧ s.power.resetN = true ∧ s.start.begun = false ∧ (default : StartFindings).romOk = false ∧
       s.power.carried.toNat < 3 ∧ earlyFailure { s with start := { StartState.reset with begun := true } } default = some (1, 0) ∧
       earlyFailure { s with start := { StartState.reset with begun := true } } { (default : StartFindings) with romOk := true, flashOk := (true, true, true) } =
         none) ∧
    ({ up.power with carried := 3 } : PowerState).carried.toNat = 3 ∧
    (let s : State := { up with start := { StartState.reset with begun := true, state := 4 } }
     s.start.begun = true ∧ s.start.state = 4) := by decide

theorem test_hostReady : up.hostReady (hk 0).tag ∧ cleanHeader (hk 0) 0 ∧ cleanHeader (hk 4) 4 := by decide

theorem test_stagingRequests_met :
    up.roleUp 1 = true ∧ up.staging.open_ = false ∧ up.staging.commitTag = none ∧
    (let s : State := { up with staging := { up.staging with open_ := true, phase := 1 } }
     let data : List Flit := [1, 2, 3, 4]
     s.hostReady (hk 4).tag ∧ cleanHeader (hk 4) data.length ∧ data.length % 4 = 0 ∧ data ≠ [] ∧
       (29359872#32).toNat % 256 = 0 ∧ s.staging.open_ = true ∧ s.staging.phase = 1 ∧ (29359872#32).toNat + 64 * data.length ≤ 28 * 2 ^ 20) := by
  decide

theorem test_flashWorkEnds_met :
    (let s : State := { up with staging := { up.staging with open_ := true, phase := 2, commitTag := some 5 } }
     s.staging.commitTag = some 5 ∧ s.staging.busy = []) ∧
    (let w : FlashWork := ⟨.stageWrite, some 5, true, 256, [0]⟩
     let s : State := { up with staging := { up.staging with busy := [w] } }
     s.staging.busy = w :: [] ∧ w.tag = some 5 ∧ w.job = .stageWrite ∧ w.bytes = [0]) ∧
    (let w : FlashWork := ⟨.stageErase, some 5, false, 0, []⟩
     w.tag = some 5 ∧ w.job = .stageErase) ∧
    (∀ job ∈ [FlashJob.discard, .directory, .journal, .repairJournal], ∃ w : FlashWork, w.job = job ∧ w.tag = none) := by
  refine ⟨by decide, by decide, by decide, fun job _ => ⟨⟨job, none, false, 0, []⟩, rfl, rfl⟩⟩

theorem test_runCommands_met :
    (let s := { job [] [] task with run := up.run }
     s.hostReady (hk 0).tag ∧ s.roleUp 5 = true ∧ s.selectFaults (0#2).toNat = [] ∧ s.run.run = 1 ∧ s.dial.locked = true ∧
       s.run.startAt = none ∧ s.dial.step.toNat + 2 ≤ (9#48).toNat) ∧
    (let s := job [] [] task
     let v : State := { s with cfg := { s.cfg with slots := [(0, { (default : JobSlot) with
       header := { (default : SlotHeader) with evalValid := true, ckptValid := true } })] } }
     v.hostReady (hk 0).tag ∧ v.roleUp 5 = true ∧ v.run.run = 2 ∧ v.dial.step.toNat < (8#48).toNat ∧ v.run.pauseAt = none ∧
       v.run.stopAt = none ∧ v.run.evalAt = none ∧ v.run.ckptAt = none ∧ v.slotCfg.header.evalValid = true ∧
       v.slotCfg.header.ckptValid = true) ∧
    (let s : State := { up with run := { up.run with run := 3 } }
     s.hostReady (hk 0).tag ∧ s.roleUp 5 = true ∧ s.run.run = 3 ∧ s.run.held = none) := by decide

theorem test_requestFaults_met :
    (let h := { hk 0 with gen := 2 }
     (up.port 6).state = 2 ∧ up.start.begun = true ∧ up.start.state = 1 ∧ up.start.refused = false ∧ h.flits.toNat ≤ 64 ∧ h.rsv13 = 0 ∧
       h.flits = 0 ∧ h.code = 0 ∧ h.rsv44 = 0 ∧ h.rest = none ∧ h.gen ≠ 1) ∧
    (let h := { hk 0 with rsv23 := true }
     h.gen = 1 ∧ h.rsv23 = true) ∧
    (let s : State := { up with links := { up.links with requests := [⟨5, true, ⟨0, 0, 0⟩, 1⟩] } }
     s.tagBusy (hk 0).tag = true ∧ (hk 0).rsv23 = false) := by decide

theorem test_hostAccess_met :
    (let addr : Word := 0x1000000000000
     let data : List Flit := [1]
     up.hostReady (hk 1).tag ∧ coordOf addr.toNat = up.coord ∧ data ≠ [] ∧ cleanHeader (hk 1) data.length ∧ field addr.toNat 48 4 < 4 ∧
       up.hkAddrFaults addr data.length = [] ∧ up.streamFaults addr.toNat (64 * data.length) = [] ∧
       up.hkAddrFaults addr ((63#6).toNat + 1) = [] ∧ up.roleUp 1 = true ∧ up.tables.reshardOn = false) ∧
    (let s : State := { up with cfg := { up.cfg with header := { up.cfg.header with shapeA := 3 } } }
     let addr : Word := 0x1001000000000000
     s.hostReady (hk 1).tag ∧ coordOf addr.toNat ≠ s.coord ∧ field addr.toNat 48 4 < 4 ∧ s.hkAddrFaults addr 1 = []) ∧
    (let addr : Word := 0x0004000000000000
     let s : State := { up with
       cfg := { up.cfg with units := List.replicate 4 default }
       resil := { up.resil with activeBlocks := List.replicate 4 0xFF }
       blocks := up.blocks.map fun b => { b with active := 0xFFFF } }
     s.hkAddrFaults addr 1 = [] ∧ field addr.toNat 48 4 = 4 ∧ field 0 26 4 ≤ 8 ∧ field 0 20 1 = 0 ∧ 0 < s.blocks.length) ∧
    up.hkAddrFaults 0x0005000000000080 1 = [] := by decide

theorem test_statusSpaceWrites_met :
    (let addr : Word := 0x5000000000080
     let v : Flit := 0x51
     up.hostReady (hk 1).tag ∧ cleanHeader (hk 1) 1 ∧ field addr.toNat 48 4 = 5 ∧ up.hkAddrFaults addr 1 = [] ∧
       field addr.toNat 0 48 + 64 * 0 = 0x80 ∧ ([v] : List Flit)[0]? = some v ∧ up.run.run = 1 ∧ field v.toNat 0 2 ≠ 3 ∧ field v.toNat 4 2 ≠ 3 ∧
       v.toNat.testBit 3 = false) ∧
    (let addr : Word := 0x50000000000C0
     up.hkAddrFaults addr 1 = [] ∧ ∀ i, i < 1 → field addr.toNat 0 48 + 64 * i ≠ 0x80) := by decide

theorem test_restoreBegins_met :
    (up.hostReady (hk 1).tag ∧ cleanHeader (hk 1) 1 ∧ (2#2) ≠ 3 ∧ up.run.run = 1 ∧ up.cfg.header.shapeA = 0) ∧
    0 < ({ up with cfg := { up.cfg with layouts := [[]] } } : State).setZ ∧
    (let s : State := { up with cfg := { up.cfg with header := { up.cfg.header with shapeA := 3 } } }
     s.cfg.header.shapeA ≠ 0 ∧ s.xOwnRange = false) := by decide

/-! ### Links and memory -/

theorem test_codewords_met :
    (let fs : List Flit := List.replicate 10 0
     let x := up.port 3
     x.state = 2 ∧ fs.length = 10 ∧ (0#10) = x.rxExpected ∧ x.newMap = none ∧ x.rxPending = 0 ∧ x.rxSinceAck < 63 ∧
       (x.toReturn.all fun n => decide (n < 64)) = true ∧ x.nakRun < 7) ∧
    (let s := onPort 3 fun x => { x with rxRejecting := true, rxExpected := 9 }
     (s.port 3).state = 2 ∧ (8#10) ≠ (s.port 3).rxExpected ∧ (s.port 3).rxRejecting = true) ∧
    ((8#10) ≠ (up.port 3).rxExpected ∧ (up.port 3).rxRejecting = false) ∧
    (let s := onPort 3 fun x => { x with resend := [(4, [1])] }
     (s.port 3).state = 2 ∧ (s.port 3).resend = (4, [1]) :: []) ∧
    (let x := up.port 3
     x.resend = [] ∧ x.replay.length < 256 ∧ x.txMap = none ∧ x.txRest = [] ∧ x.beats = [] ∧ x.control = [] ∧ x.queues = []) ∧
    (let s := onPort 3 fun x => { x with replay := List.replicate 256 (0, []) }
     (s.port 3).resend = [] ∧ 256 ≤ (s.port 3).replay.length) := by decide

theorem test_linkRecovery_met :
    (let s := onPort 3 fun x => { x with replay := [(7, [])], creditMax := [8, 0, 0, 0, 0, 0, 0, 0] }
     let x := s.port 3
     let credits : List (BitVec 12) := [8]
     x.state = 2 ∧ (∀ v, v < 8 → x.credits.getD v 0 + (credits.getD v 0).toNat ≤ x.creditMax.getD v 0) ∧ x.replay = (7, []) :: [] ∧
       x.resend = [] ∧ x.heardRun < 7 ∧ x.stepRetrains < 2 ∧ x.replay ≠ []) ∧
    (let x := up.port 3
     x.state = 2 ∧ x.stepRetrains < 2 ∧ x.creditMax.getD 0 0 < x.credits.getD 0 0 + (([1] : List (BitVec 12)).getD 0 0).toNat) ∧
    (let s := onPort 3 fun x => { x with replay := [(7, [])], stepRetrains := 2 }
     (s.port 3).state = 2 ∧ (s.port 3).replay ≠ [] ∧ 2 ≤ (s.port 3).stepRetrains) ∧
    (let s := onPort 3 fun x => { x with state := 3 }
     (s.port 3).state = 3) := by decide

/-- A calibration window of the port is open. -/
def window (p : Nat) : State :=
  { up with
    cfg := { up.cfg with sundial := { up.cfg.sundial with table := [{ (default : DialEntry) with type := 8, closes := 9, param := 2 ^ p }] } }
    dial := { up.dial with instances := [⟨0, 7, none, false, false, false⟩] } }

theorem test_lanes_met :
    (let s := onPort 0 fun x => { x with laneMap := 0x688, lanes := 4, spareReady := true }
     (s.port 0).state = 2 ∧ ∃ lane : Fin 5, (s.port 0).mapped.contains lane.val = true ∧ (s.port 0).spareUsed = false ∧ (s.port 0).spareReady = true) ∧
    (let s := onPort 0 fun x => { x with laneMap := 0x688, lanes := 4, spareUsed := true }
     ∃ lane : Fin 5, (s.port 0).mapped.contains lane.val = true ∧ (s.port 0).spareUsed = true ∧ (s.port 0).stepRetrains < 2) ∧
    (let s := onPort 0 fun x => { x with laneMap := 0x688, lanes := 4 }
     ∃ lane : Fin 5, (s.port 0).mapped.contains lane.val = false) ∧
    ((up.port 0).asked.contains ((0 : BitVec 3), (1 : BitVec 2)) = false ∧ up.calibrating 0 = false) ∧
    ((window 1).calibrating 1 = true ∧ ((window 1).port 1).state = 2 ∧ (4 : Fin 5).val ≤ dataLanes 1 ∧ 25 ≤ (25#8).toNat) ∧
    (let s := (window 1).onPort 1 fun x => { x with laneMap := 0x688, lanes := 4, margin := [25, 25, 25, 25, 25] }
     s.calibrating 1 = true ∧ ∃ lane : Fin 5, lane.val ≤ dataLanes 1 ∧ (24#8).toNat < 25 ∧ (s.port 1).mapped.contains lane.val = true ∧
       25 ≤ ((s.port 1).margin.getD lane.val 0).toNat) := by decide

theorem test_negotiation_met :
    (let f : NegotiateFlit := default
     (up.port 5).state = 2 ∧ f.impl = 0) ∧
    (let f : NegotiateFlit := { (default : NegotiateFlit) with impl := 1, offer := 7, coord := ⟨1, 0, 0⟩ }
     f.impl ≠ 0 ∧ f.offer.getLsbD 0 = true ∧ f.coord ≠ up.neighbour 5) ∧
    (let f : NegotiateFlit := { (default : NegotiateFlit) with impl := 1, offer := 7 }
     f.impl ≠ 0 ∧ f.offer.getLsbD 0 = true ∧ f.coord = up.neighbour 5 ∧ f.jobId.toNat = up.cfg.header.jobId ∧ (up.port 6).state = 2) := by decide

theorem test_remoteMemory_met :
    (let addr : Word := 0x1000000000000
     let data : List Flit := [1, 2]
     up.start.loaded = true ∧ coordOf addr.toNat = up.coord ∧ field addr.toNat 48 4 < 4 ∧ up.memFaults addr.toNat data.length = [] ∧
       up.streamFaults addr.toNat (64 * data.length) = [] ∧ up.memFaults addr.toNat ((63#6).toNat + 1) = []) ∧
    (let s : State := { up with links := { up.links with requests := [⟨5, true, ⟨0, 0, 1⟩, 1⟩, ⟨6, false, ⟨0, 0, 1⟩, 1⟩] } }
     s.requestOf ⟨0, 0, 1⟩ 5 true = some ⟨5, true, ⟨0, 0, 1⟩, 1⟩ ∧ s.requestOf ⟨0, 0, 1⟩ 6 false = some ⟨6, false, ⟨0, 0, 1⟩, 1⟩) := by decide

/-- A Keep partition and one without, in tier 0x1, and a stacked one; every controller up. -/
def parted : State :=
  { up with
    cfg := { up.cfg with partMap := ⟨0, 0, [⟨1, true, true, 0, 0, 0, 0, 0, 0, 100, 3, 0⟩, ⟨1, false, true, 6, 1, 0, 0, 0, 0, 100, 3, 0⟩,
      ⟨0, false, true, 3, 0, 0, 0, 0, 0, 100, 3, 0⟩]⟩ }
    memory := { up.memory with controllers := up.memory.controllers.map fun x => { x with up := true }, scrubbing := true } }

theorem test_memoryReads_met :
    (parted.ownLine (0x0000000000040#64).toNat = some (0, 0, 64) ∨ ∃ c : Fin 26, parted.ownLine (0x0000000000040#64).toNat = some (c.val, 0, 64)) ∧
    (∃ c : Fin 26, parted.ownLine (0x1000000000040#64).toNat = some (c.val, 1, 64)) ∧
    parted.memory.mem.poisoned (memKey 1 64) = false ∧
    (∃ p : Fin 3, (parted.partitionAt 1 64).map (·.1) = some p.val ∧ parted.memory.parts[p.val]? = some PartState.reset ∧
      PartState.reset.level.toNat + 1 < 100 ∧ 100 ≤ ({ PartState.reset with level := 99 } : PartState).level.toNat + 1) ∧
    (parted.memory.mem.setPoison (memKey 1 64) true).poisoned (memKey 1 64) = true ∧
    parted.keepLine 1 64 = true ∧ parted.keepLine 0 64 = false := by decide

theorem test_memoryWrites_met :
    (64 + (List.replicate 64 (1 : Byte)).length ≤ parted.caps.of 1 ∧ parted.writesWhole 1 64 (List.replicate 64 (1 : Byte)).length = true) ∧
    (parted.writesWhole 0 64 ([1] : List Byte).length = false ∧ parted.memory.mem.poisoned (memKey 0 64) = false ∧
      parted.keepLine 0 (64 / 64 * 64) = false ∧ 64 + ([1] : List Byte).length ≤ parted.caps.of 0) ∧
    (60 % 64 + (List.replicate 8 (1 : Byte)).length > 64 ∧ 60 + (List.replicate 8 (1 : Byte)).length ≤ parted.caps.of 1) := by decide

theorem test_arbitration_met :
    parted.start.loaded = true ∧
    (let q : FabricRequest := ⟨4, .stash, 64, none, false, 5000⟩
     let steady : FabricRequest := ⟨2, .gather, 128, none, false, 640⟩
     let holding (q : FabricRequest) (bytes : Nat) (exempt : Bool) (arb : Arbiter) : State :=
       { parted with memory := { parted.memory with grants := [(arbiterKey arb, ⟨q, bytes, exempt, false⟩)] } }
     lookupNat (arbiterKey (.controller 16)) parted.memory.grants = none ∧ parted.winner (.controller 16) [] = none ∧
       (parted.winner (.controller 16) [q]).map (·.1) = some q ∧ q.cls = .bulk ∧ steady.cls = .steady ∧
       (parted.memory.controllers[(16 : Controller).val]?).isSome = true ∧
       lookupNat (arbiterKey (.fabric 2)) (holding q 4096 false (.fabric 2)).memory.grants = some ⟨q, 4096, false, false⟩ ∧
       ceilDiv 4096 64 ≤ 64 ∧ 63 < ceilDiv 4096 64 ∧ controllerArb (.fabric 2) = none ∧ steady.requester ≠ q.requester ∧
       parted.isOwed q = false ∧ (parted.rankOf (arbiterKey (.fabric 2)) 0 steady.requester) < 2 ^ 32 ∧
       ({ q with write := true, ctx := some c0 } : FabricRequest).write = true ∧
       (let shut : State := { parted with resil := { parted.resil with swaps := [⟨5, 0, 0, 0, false, true, 0⟩] } }
        let stopped : FabricRequest := { q with line := 0x1000000000040#52 }
        shut.winner (.controller 16) [stopped] = none ∧ stopped.cls = .bulk)) := by decide

theorem test_memoryCare_met :
    (∃ c : Controller, c.val < 24 ∧ controllerOf (tierOf c.val) (64 / 64 * 64) = some c.val ∧
      (parted.partitionAt (tierOf c.val) (64 / 64 * 64)).isSome = true ∧
      (parted.memory.controllers[c.val]?).map (·.log) = some []) ∧
    (let e : CeEntry := { (default : CeEntry) with kind := 1, offset := 64 }
     ([e].findIdx? fun e => e.kind != 0 && e.offset.toNat == 64 / 64 * 64) = some 0) ∧
    parted.memory.scrubbing = true ∧
    (let s : State := { parted with memory := { parted.memory with
      controllers := parted.memory.controllers.map fun x => { x with permissions := 1 } } }
     ∃ c : Controller, c.val < 24 ∧ (s.controller c.val).up = true ∧ 0 < (s.controller c.val).permissions ∧
       (s.nextScrub c.val ((s.controller c.val).scrubAt.getD 0)).any (fun off => (s.partitionAt (tierOf c.val) off).isSome &&
         !s.memory.mem.poisoned (memKey (tierOf c.val) off)) = true) := by decide

/-- A lap of a DDR partition of 128 KiB, 256 lines on each channel (R401, R406). -/
theorem test_scrubLap :
    (let part : Partition := ⟨1, false, true, 6, 1, 0, 0, 0, 2, 100, 3, 0⟩
     let on (n last : Nat) : List (Nat × Nat) := (List.range 8).map fun i => (16 + i, if i = 7 then last else n)
     let x : PartState := { PartState.reset with lapLines := on 256 255, lapStartNs := 1000000000 }
     let y := x.scrub part 23 4000000000
     part.perController = 256 ∧ y.2 = true ∧ y.1.laps = 1 ∧ y.1.lastLapMs = 3000 ∧ y.1.long = true ∧ y.1.lapLines = on 0 0 ∧
       y.1.lowest part = part.start ∧ x.lapDone part = 2047 ∧
       (∀ c ∈ tierControllers part.tier, 1 ≤ x.linesOn c ∧ part.perController ≤ x.linesOn c + (if c = 23 then 1 else 0)) ∧
       (({ PartState.reset with lapLines := on 1 0 } : PartState).scrub part 23 7).1.lapStartNs = 7 ∧
       (PartState.reset.scrub part 16 7).2 = false ∧ (PartState.reset.scrub part 16 7).1.lowest part = part.start + 64) := by decide

/-! ### The dial -/

/-- `up` at pos 65,535, with a sundial section. -/
def late : State :=
  { up with
    cfg := { up.cfg with sundial := { up.cfg.sundial with ctl := 0x0000000001020002, roots := 0x80008000, periodMax := 4000000 } }
    dial := { up.dial with pos := 65535, acc := 2000000 * 8 } }

theorem test_dialPositions_met :
    (let s := late
     s.dial.trim = 0 ∧ s.dial.pos = 65535) ∧
    (up.dial.trim = 0 ∧ up.dialRuns = true ∧ up.dial.pos ≠ 65535 ∧
      up.dial.periodNs.toNat * (8 + up.cfg.sundial.stretchQ * up.dial.grants.toNat) ≤ up.dial.acc + 8 * (65536 * 31) ∧
      up.dial.acc + 8 * (65536 * 30) < up.dial.periodNs.toNat * (8 + up.cfg.sundial.stretchQ * up.dial.grants.toNat)) := by decide

theorem test_stepBoundaryCrossing_met :
    (late.dial.trim = 0 ∧ late.dialRuns = true ∧ late.dial.pos = 65535 ∧
      late.dial.periodNs.toNat * (8 + late.cfg.sundial.stretchQ * late.dial.grants.toNat) ≤ late.dial.acc + 8 * (65536 * 0)) ∧
    (let s : State := { late with run := { late.run with run := 2 }, dial := { late.dial with haltCause := 4 } }
     s.run.run = 2 ∧ s.dial.haltCause ≠ 0) ∧
    (let s : State := { late with run := { late.run with run := 2, stopAt := some 8 } }
     s.run.run = 2 ∧ s.dial.haltCause = 0 ∧ s.dial.instances = [] ∧ s.train.rollback = false ∧ s.train.holdUntil = none ∧
       s.resil.restore.replayStep = none ∧ s.run.stopAt = some (s.dial.step + 1) ∧ s.dial.step.toNat < 2 ^ 48 - 1 ∧
       s.run.startAt = none) ∧
    (let s : State := { late with run := { late.run with run := 2, pauseAt := some 8 } }
     s.run.run = 2 ∧ s.run.stopAt = none ∧ s.run.pauseAt = some (s.dial.step + 1)) ∧
    (let s : State := { late with run := { late.run with run := 1, startAt := some 8 } }
     s.run.run = 1 ∧ s.run.startAt = some (s.dial.step + 1) ∧ s.resil.restore.rejoin = false) ∧
    late.cfg.sundial.table.all (fun e => e.type != 0xC) = true ∧ late.dial.isRoot = false ∧ up.dial.pos ≠ 65535 := by decide

theorem test_beats_met :
    (up.portUp 3 = true ∧ up.dialRuns = true ∧ 128 ≤ ((128#8) - up.dial.rootEpoch).toNat ∧ 0 < ((127#8) - up.dial.rootEpoch).toNat ∧
      ((127#8) - up.dial.rootEpoch).toNat < 128 ∧ ((0#8) - up.dial.rootEpoch).toNat = 0 ∧ up.dial.isRoot = false ∧
      (up.port 3).latency = 0 ∧ (up.port 3).lastNakNs = none) ∧
    (let s : State := { up with dial := { up.dial with locked := false } }
     s.dial.locked = false) ∧
    (let f : BeatFlit := { (default : BeatFlit) with step := 7, pos := 256, curPeriod := 2000000 }
     up.offLock 3 f = true ∧ up.offLock 3 { f with pos := 0 } = false) ∧
    (let s : State := { up with start := { up.start with loaded := false } }
     s.dialRuns = false ∧ s.portUp 3 = true) ∧
    (let s : State := { late with dial := { late.dial with missed := 2 } }
     s.dial.locked = true ∧ s.dial.isRoot = false ∧ s.dial.lossLogged = false ∧ s.cfg.sundial.beatLossLimit ≤ s.dial.missed ∧
       s.backupNumber = some 1 ∧ 1 * s.cfg.sundial.beatLossLimit ≤ s.dial.missed) ∧
    (let s : State := { late with dial := { late.dial with isRoot := true, extRefActive := true, pos := 0 } }
     s.syncConfigured = true ∧ s.dial.extRefActive = true ∧ s.dial.pos = 0 ∧ field s.cfg.sundial.periodMin.toNat 0 40 ≤ 2020000 ∧
       2020000 ≤ field s.cfg.sundial.periodMax.toNat 0 40 ∧ 2020000 * 100 ≤ s.dial.periodNs.toNat * 101) := by decide

theorem test_treeReports_met :
    (let s : State := { window 0 with dial := { up.dial with isRoot := true } }
     s.dialRuns = true ∧ s.dial.isRoot = true ∧ s.roleUp 2 = true ∧ (s.dialEntry (0#10).toNat).map (·.closes) = some 9 ∧ s.dial.grantBeats = [] ∧
       s.denies (7#48).toNat = true ∧ ({ s with cores := [] } : State).roleUp 2 = false ∧
       ({ s.dial with granted := [(6, 256)] } : DialState).granted.filter (fun g => g.1 == (6#48).toNat) = [(6, 256)]) ∧
    (let s : State := { up with dial := { up.dial with isRoot := true }
                                cfg := { up.cfg with sundial := { up.cfg.sundial with ctl := 0x110, table := [default] } } }
     s.dialRuns = true ∧ (s.dialEntry (0#10).toNat).isSome = true ∧ s.denies (7#48).toNat = false ∧ s.portUp 0 = true ∧
       (6#48) ≠ s.dial.step ∧ (6#48).toNat + 1 = s.dial.step.toNat ∧ s.dial.pos.toNat < 32768 ∧ (7#48) = s.dial.step ∧
       (5#48).toNat + 1 ≠ s.dial.step.toNat ∧ 32768 ≤ ({ s.dial with pos := 32768 } : DialState).pos.toNat) ∧
    up.dial.isRoot = false ∧ up.jobSize ≤ up.tables.reports + 1 ∧ (6#48) ≠ up.dial.step := by decide


/-! ### Work items -/

/-- A running instance's own operation is the one it runs forward. -/
theorem runsOwn {s : State} {c : CtxId} {t : TaskContext} {o : Op} (found : s.ctx c = some t) (running : t.state = 3) (kept : s.itemDropped t = false)
    (own : s.op t.op.toNat = some o) (first : t.part = false) : s.runsForward c t o t.op.toNat s :=
  ⟨found, running, kept, own, .inl ⟨first, rfl, rfl⟩⟩

/-- A context of a table switch, ready; the dial has crossed a boundary. -/
def readySwitch : State :=
  let s : State := job [opOf (.tableSwitch 0 true)] [] { task with state := 2, mb := 4094, unit := BitVec.ofNat 3 (classUnit .core) }
  { s with dial := { s.dial with crossed := true } }

theorem test_dispatching_met :
    (let held (s : State) := (s.settle.sched.getD 0 RegionSched.reset).ready s.settle.run.c (classUnit .core) false
     let choice (s : State) := (held s).findSome? fun x => (s.settle.runnable 0 x.2).map fun y => (x, y)
     choice up = none ∧ (choice readySwitch).map (fun x => (x.1.1, x.2.2)) = some (3, 0)) := by decide

theorem test_instanceEnds_met :
    (let s : State := job [opOf (.tableSwitch 0 true)] [] { task with state := 4, mb := 4094 }
     ∃ x, s.ctx c0 = some x ∧ x.state = 4 ∧ s.awaitsSweep x = false) ∧
    (let s : State := job [] [] { task with state := 1, toValue := 0 }
     let late : State := { s with dial := { s.dial with pos := 1 } }
     (∃ x, late.ctx c0 = some x ∧ x.state = 1 ∧ x.timedOut = false ∧ x.toCycles = false ∧ x.toValue.toNat < late.dial.pos.toNat) ∧
     ∃ x, s.ctx c0 = some x ∧ s.dial.step.toNat = x.step.toNat ∧ s.dial.pos.toNat ≤ x.toValue.toNat) ∧
    (let s : State := job [] [] { task with state := 1, toCycles := true }
     ∃ x, s.ctx c0 = some x ∧ x.state = 1 ∧ x.timedOut = false ∧ x.toCycles = true ∧
       ((s.sched.getD 0 RegionSched.reset).cycles - x.toValue).toNat < 2 ^ 47 ∧
       2 ^ 47 ≤ ((s.sched.getD 0 RegionSched.reset).cycles - ({ x with toValue := 1 } : TaskContext).toValue).toNat) := by decide

/-- A job of one operation over `x0` and a second operand like it. -/
def pool (b : OpBody) : State := job [opOf b] [x0, { x0 with base := 2 ^ 48 + 4096 }] task

def labels : Operand := { x0 with format := 0xC, cols := 0, base := 2 ^ 48 + 8192 }

theorem test_poolForward_met :
    (let s := pool (.activate 0 1 0)
     s.runsForward c0 task (opOf (.activate 0 1 0)) 0 s ∧ s.viewMb task = some mb0 ∧ s.operand 0 = some x0 ∧ s.operand 1 ≠ none ∧
       ((s.inputRows task mb0 0 0 x0).any (·.poison)) = false) ∧
    (let n : NormaliseOp := { (default : NormaliseOp) with inp := 0, out := 1, affine := noOperand, affineGrad := noOperand }
     let s := pool (.normalise n)
     s.runsForward c0 task (opOf (.normalise n)) 0 s ∧ s.viewMb task = some mb0 ∧ s.operand n.inp = some x0 ∧ s.operand n.out ≠ none ∧
       ((s.inputRows task mb0 0 n.inp x0).any (·.poison) || (s.affineRows mb0 n).2.2) = false) ∧
    (let b : OpBody := .loss 0 1 noOperand 0 0
     let s := job [opOf b] [x0, labels] task
     s.runsForward c0 task (opOf b) 0 s ∧ s.viewMb task = some mb0 ∧ s.operand 0 = some x0 ∧ s.operand 1 = some labels ∧
       ((s.inputRows task mb0 0 0 x0).any (·.poison) || s.operandPoisoned (some mb0) 0 1 labels) = false) := by
  refine ⟨⟨runsOwn (by decide) (by decide) (by decide) (by decide) rfl, by decide⟩, ⟨runsOwn (by decide) (by decide) (by decide) (by decide) rfl, by decide⟩,
    runsOwn (by decide) (by decide) (by decide) (by decide) rfl, by decide⟩

/-- A state with poisoned lines. -/
def spoiled (s : State) (l : List Nat) : State := { s with memory := { s.memory with mem := { s.memory.mem with poison := l } } }

theorem test_poolPoison_met :
    (let s := spoiled (pool (.activate 0 1 0)) [memKey 1 0]
     s.runsForward c0 task (opOf (.activate 0 1 0)) 0 s ∧ (s.inputRows task mb0 0 0 x0).any (·.poison) = true) ∧
    (let b : OpBody := .loss 0 1 noOperand 0 0
     let s := spoiled (job [opOf b] [x0, labels] task) [memKey 1 8192]
     s.runsForward c0 task (opOf b) 0 s ∧ s.operandPoisoned (some mb0) 0 1 labels = true) := by
  refine ⟨⟨runsOwn (by decide) (by decide) (by decide) (by decide) rfl, by decide⟩, runsOwn (by decide) (by decide) (by decide) (by decide) rfl, by decide⟩

/-- Two code writes: the last byte of argument 0's copy, and one byte beyond it. -/
def inside : SpoutAccess := .write 0 255 [1]
def beyond : SpoutAccess := .write 0 256 [1]

/-- A state whose Spout cores are active. -/
def withSpouts (s : State) : State := { s with resil := { s.resil with activeSpouts := List.replicate 4 0xFF } }

theorem test_spout_met :
    (let s := pool (.spout 0 [0] 1)
     s.runsForward c0 task (opOf (.spout 0 [0] 1)) 0 s ∧ ([inside].any (s.spoutBad [0] true)) = false ∧
       ([beyond].any (s.spoutBad [0] true)) = true ∧ s.itemMb task = some mb0 ∧ mb0.dropped = false ∧ mb0.committed = false) ∧
    (let o : Op := { opOf (.spout 0 [0] 1) with scope := 1 }
     let t := { task with mb := 4094 }
     let s := job [o] [x0] t
     s.runsForward c0 t o 0 s ∧ o.scope ≠ 0) ∧
    (let o : Op := { opOf (.spout 0 [0] 1) with scope := 2 }
     let t := { task with mb := 4094 }
     let s := withSpouts (job [o] [x0] t)
     s.runsForward c0 t o 0 s ∧ o.scope = 2 ∧ (s.freeSpout ((5 : Fin 32).val % 4) (some c0)).isSome = true ∧ t.subs.contains (5 : Fin 32).val = false ∧
       ([SpoutAccess.read 0 0 256, .keep 131071 [1]].any (s.spoutBad [0] false)) = false ∧ ([SpoutAccess.keep 131072 [1]].any (s.spoutBad [0] false)) = true) := by
  refine ⟨⟨runsOwn (by decide) (by decide) (by decide) (by decide) rfl, by decide⟩, ⟨runsOwn (by decide) (by decide) (by decide) (by decide) rfl, by decide⟩,
    runsOwn (by decide) (by decide) (by decide) (by decide) rfl, by decide⟩

theorem test_spoutPoison_met :
    (let s := spoiled (pool (.spout 0 [0] 1)) [memKey 1 64]
     s.runsForward c0 task (opOf (.spout 0 [0] 1)) 0 s ∧ ([SpoutAccess.read 0 60 8].any (s.spoutBad [0] true)) = false ∧
       (s.spoutRun c0 0 (s.viewMb task) [0] [.read 0 60 8]).2 = true ∧ (s.spoutRun c0 0 (s.viewMb task) [0] [.read 0 0 8]).2 = false) ∧
    (let o : Op := { opOf (.spout 0 [0] 1) with scope := 2 }
     let t := { task with mb := 4094 }
     let s := withSpouts (job [o] [x0] t)
     o.scope ≠ 0 ∧ ([beyond].any (s.spoutBad [0] (o.scope == 0))) = true ∧ s.freeSpout ((5 : Fin 32).val % 4) (some c0) ≠ none) := by
  refine ⟨⟨runsOwn (by decide) (by decide) (by decide) (by decide) rfl, by decide⟩, by decide⟩

theorem test_fills_met :
    (let t := { task with mb := 4094 }
     let o : Op := { opOf (.fill 0 0xA5) with scope := 1 }
     let y : Operand := { x0 with kind := 2, baseB := 2 ^ 48 + 4096 }
     let s0 := job [o] [y] t
     let s : State := { s0 with memory := { s0.memory with fill := { s0.memory.fill with queue := [c0] } } }
     s.runsItem c0 false t o ∧ s.operand 0 = some y ∧ (s.fillExtents 0 y).length = 2 ∧
       s.memory.fill.queue.find? (fun d => (s.ctx d).isSome) = some c0 ∧ s0.memory.fill.queue.find? (fun d => (s0.ctx d).isSome) ≠ some c0 ∧
       ∀ e ∈ s.fillExtents 0 y, ∀ f ∈ s.fillExtents 0 y, e = f ∨ e.1 + e.2 ≤ f.1 ∨ f.1 + f.2 ≤ e.1) := by decide

/-- A ring of two rows of 128 bytes in tier 0x1, and one of its rows holding a block for `step`, with its generation. -/
def ring : Operand := { x0 with kind := 1, format := 0xC, cols := 8, stride := 128 }
def ringState (gen step : Nat) : State :=
  let s : State := job [opOf (.intake 0)] [ring] { task with mb := 4094 }
  { s with memory := { s.memory with mem := s.memory.mem.write (memKey 1 0) (leBytes (gen + step * 2 ^ 64) 128) } }

theorem test_roleItems_met :
    (let s := job [opOf (.tableSwitch 0 true)] [] task
     s.runsItem c0 false task (opOf (.tableSwitch 0 true)) ∧ s.laterSwitch 0 0 = false) ∧
    (let o := opOf (.intake 0)
     let row (s : State) : Nat := s.placeNum (s.rowPlace none 0 0 ring 0) ring.rowBytes
     (ringState 1 8).runsItem c0 false { task with mb := 4094 } o ∧ (ringState 1 8).operand 0 = some ring ∧
       field (row (ringState 1 8)) 64 48 = 8 ∧ firstFault (seedFaults (row (ringState 1 8)) 128) = none ∧
       field (row (ringState 1 6)) 64 48 ≠ 8 ∧ field (row (ringState 2 8)) 64 48 = 8 ∧
       firstFault (seedFaults (row (ringState 2 8)) 128) = some 0x004 ∧
       (ringState 2 8).placePoisoned ((ringState 2 8).rowPlace none 0 0 ring 0) 128 = false) := by decide

/-- A SAMPLE and one more operation over its basket: one node in list 0 and one trail entry of hop 1, of `node`, into destination 0. Table 0
has 10 nodes, which the device at z = `z` owns. The item runs operation `k`. -/
def graph (b : OpBody) (k node z kind : Nat) : State :=
  let bytes : Operand := { x0 with format := 0xC, cols := 0, rows := 255 }
  let s := job [opOf (.sample 0 1 1 2), opOf b] [{ bytes with kind := 5, base := 0 }, bytes, { bytes with base := 2 ^ 48 + 4096 },
    { bytes with kind := 4, table := 0, format := 1, cols := 31, rows := 9 }, { x0 with base := 2 ^ 48 + 8192, rows := 255 }] { task with op := BitVec.ofNat 14 k }
  { s with
    cfg := { s.cfg with tables := [{ (default : TableDesc) with kind := kind, nodes := 9, rowUnits := 1, cols := 31, format := 1, default := 2 ^ 48 }],
                        layouts := [[{ (default : ShardEntry) with z := z, tier := 1, base := 65536 }]] }
    memory := { s.memory with mem := (s.memory.mem.write (memKey 1 0) (leBytes (2 ^ 192 + 2 ^ 352 + node * 2 ^ 512) 72)).write (memKey 1 4096) (leBytes node 16) } }

theorem test_sampling_met :
    (let b : OpBody := .sample 0 1 1 2
     let s := graph (.sample 0 1 1 2) 0 3 0 3
     let u : State := { s with run := { s.run with block := some ⟨7, 1, 1, 0, 0⟩ }, cfg := { s.cfg with layouts := [[]] } }
     s.runsItem c0 false task (opOf b) ∧ s.itemMb task = some mb0 ∧ (s.operand 1).isSome = true ∧ (s.operand 2).isSome = true ∧
       (s.sampleBasket mb0 (opOf b) (s.slotCfg.basketOf 0) 1 []).toOption.map (·.nodes) = some 0 ∧
       u.runsItem c0 false task (opOf b) ∧ u.itemMb task = some mb0 ∧ (u.sampleBasket mb0 (opOf b) (u.slotCfg.basketOf 0) 1 []).isOk = false) := by
  decide

/-- What `sampleBasket` finds where it stops: the code, 0 with the sector it needs. -/
def sampleStop (s : State) : Nat × Nat :=
  match s.sampleBasket mb0 (opOf (.sample 0 1 1 2)) (s.slotCfg.basketOf 0) 1 [] with
  | .ok _ => (0, 0)
  | .error f => (f.code, f.sector)

theorem test_sampleStops_met :
    (let s := graph (.sample 0 1 1 2) 0 3 1 3
     let u : State := { s with run := { s.run with block := some ⟨7, 1, 1, 0, 0⟩ } }
     let asked (sent : Nat) : State := { u with gather := { u.gather with sectors := [⟨c0, (sampleStop u).2, sent⟩] } }
     u.runsItem c0 false task (opOf (.sample 0 1 1 2)) ∧ u.tables.stalled.contains c0.region = false ∧ (sampleStop u).1 = 0 ∧ (sampleStop u).2 ≠ 0 ∧
       u.gather.sectors.find? (fun y => y.ctx == c0 && y.addr == (sampleStop u).2) = none ∧
       (asked 0).gather.sectors.find? (fun y => y.ctx == c0 && y.addr == (sampleStop (asked 0)).2) = some ⟨c0, (sampleStop u).2, 0⟩ ∧
       0 + 4096 ≤ (asked 0).dialTime ∧ (asked 0).dialTime < ((asked 0).dialTime - 4095) + 4096) ∧
    (let s := graph (.sample 0 1 1 2) 0 3 0 3
     let t : State := { s with tables := { s.tables with stalled := [0] } }
     t.runsItem c0 false task (opOf (.sample 0 1 1 2)) ∧ t.tables.stalled.contains c0.region = true) := by decide

/-- A gather item's rows, of the one node of list 0. -/
def items (s : State) : List ReadItem := (s.listNodes mb0 1 0).zipIdx.map fun n => (⟨n.2, n.1, n.2, n.2, bf16One⟩ : ReadItem)

/-- The work item of operation 1. -/
def second : TaskContext := { task with op := 1 }

/-- Rows that are all of one source, which is not invalid, are clear in a region that resolves, no table being updated. -/
theorem rowsClear_of {s : State} {c : CtxId} {m : MicroBatch} {tb : TableDesc} {l : List ReadItem} {src : RowSource}
    (one : ∀ i ∈ l, s.sourceOf tb (m.versionB.contains tb.id) i.node = src) (valid : ∀ code, src ≠ .invalid code)
    (region : c.region ∉ s.tables.stalled) (none' : s.gather.requests = []) (still : s.isUpdating tb.id = false) : s.rowsClear c m false tb l := by
  refine ⟨by simp [State.rowsStalled, none', region], ?_, ?_⟩
  · refine List.findSome?_eq_none_iff.mpr fun i hi => ?_
    rw [one i hi]
    cases src with
    | invalid code => exact absurd rfl (valid code)
    | _ => rfl
  · simp only [State.firstLate]
    split
    · refine List.find?_eq_none.mpr fun i hi => ?_
      rw [one i hi]
      cases src <;> simp [still]
    · rfl

theorem rowsHeld_of {s : State} {c : CtxId} {m : MicroBatch} {tb : TableDesc} {l : List ReadItem} {k : Nat}
    (one : ∀ i ∈ l, s.sourceOf tb (m.versionB.contains tb.id) i.node = .own k) : s.rowsHeld c m tb l :=
  fun i hi owner h => by rw [one i hi] at h; cases h

theorem test_gathering_met :
    (let b : OpBody := .gather 1 0 3 4
     let s := graph b 1 9 0 1
     s.runsForward c0 second (opOf b) 1 s ∧ s.viewMb second = some mb0 ∧ ∃ tb, s.slotCfg.tableOf s.cfg.tables 3 = some tb ∧
       s.rowsClear c0 mb0 false tb (items s) ∧ s.rowsHeld c0 mb0 tb (items s) ∧ items s ≠ []) ∧
    (let s := graph (.gather 1 0 3 4) 1 9 1 1
     ∃ tb, s.slotCfg.tableOf s.cfg.tables 3 = some tb ∧ s.rowsClear c0 mb0 false tb (items s) ∧ ¬ s.rowsHeld c0 mb0 tb (items s) ∧ tb.cooler ≠ 2) ∧
    (let s := graph (.gather 1 0 3 4) 1 10 0 1
     ∃ tb, s.slotCfg.tableOf s.cfg.tables 3 = some tb ∧ s.rowsStalled c0 = false ∧ s.firstInvalid mb0 tb (items s) = some (0x080, 10)) ∧
    (let s0 := graph (.gather 1 0 3 4) 1 9 0 2
     let s : State := { s0 with tables := { s0.tables with updating := [0] } }
     let t : State := { s0 with tables := { s0.tables with stalled := [0] } }
     t.rowsStalled c0 = true ∧ ∃ tb, s.slotCfg.tableOf s.cfg.tables 3 = some tb ∧ s.rowsStalled c0 = false ∧ s.firstInvalid mb0 tb (items s) = none ∧
       (s.firstLate mb0 false tb (items s)).isSome = true) := by
  refine ⟨⟨runsOwn (by decide) (by decide) (by decide) (by decide) rfl, by decide, _, rfl, ?_, ?_, by decide⟩, ⟨_, rfl, ?_, ?_, by decide⟩, by decide⟩
  · exact rowsClear_of (src := .own (memKey 1 (65536 + 9 * 128))) (by decide) (fun _ h => by cases h) (by decide) (by decide) (by decide)
  · exact rowsHeld_of (k := memKey 1 (65536 + 9 * 128)) (by decide)
  · exact rowsClear_of (src := .remote ⟨0, 0, 1⟩) (by decide) (fun _ h => by cases h) (by decide) (by decide) (by decide)
  · intro h
    have := h ⟨0, 9, 0, 0, bf16One⟩ (by decide) ⟨0, 0, 1⟩ (by decide)
    revert this
    decide

/-- A backward part that gathers again what operation 1 of `graph` gathered under a stamp. -/
def againPart : TaskContext := { second with op := 2, part := true, recompute := true, subs := [0] }
def again (b : OpBody) (kept : BitVec 32) : State :=
  let s := graph b 1 9 0 1
  { s with
    cfg := { s.cfg with slots := s.cfg.slots.map fun x => (x.1, { x.2 with
      ops := x.2.ops ++ [{ opOf (.activate 4 5 4) with bwd := true }], operands := x.2.operands ++ [{ x0 with base := 2 ^ 48 + 12288 }] }) }
    sched := setAt s.sched 0 { RegionSched.reset with contexts := [(3, againPart)] }
    mbs := [{ mb0 with recompute := [4], stamps := [(1, kept)] }] }

theorem test_regather_met :
    (let b : OpBody := .gather 1 0 3 4
     let s := again b 5
     ∃ u m tb, s.runsForward c0 againPart (opOf b) 1 u ∧ u.viewMb againPart = some m ∧ u.slotCfg.tableOf u.cfg.tables 3 = some tb ∧
       lookupNat 1 m.stamps = some 5 ∧ 5 ≠ u.stampOf tb ∧ u.stashEntry m 4 false = none ∧ u.rowsStalled c0 = false) ∧
    (let s := again (.gather 1 0 3 4) 0
     ∃ tb, s.slotCfg.tableOf s.cfg.tables 3 = some tb ∧ s.stampOf tb = 0) := by
  refine ⟨⟨_, _, _, ⟨by decide, by decide, by decide, by decide, .inr ⟨by decide, by decide, by decide, _, rfl, by decide, rfl⟩⟩, rfl, rfl, by decide⟩,
    _, rfl, by decide⟩

/-- A mean over table 0, and one over a kind 3 operand. -/
def mean (src : Nat) : AggregateOp := { (default : AggregateOp) with trail := 2, hop := 1, src := src, out := 4, func := 1, self := false }

theorem test_aggregation_met :
    (let b : OpBody := .aggregate (mean 3)
     let s := graph b 1 9 0 1
     let edges := s.trailItems mb0 (s.slotCfg.listsOf false 2) 2 1
     s.runsForward c0 second (opOf b) 1 s ∧ s.viewMb second = some mb0 ∧ edges.length = 1 ∧ ∃ tb, s.slotCfg.tableOf s.cfg.tables 3 = some tb ∧
       s.rowsClear c0 mb0 false tb (edges ++ s.ownItems mb0 (s.slotCfg.listsOf false 2) (mean 3)) ∧
       s.rowsHeld c0 mb0 tb (edges ++ s.ownItems mb0 (s.slotCfg.listsOf false 2) (mean 3)) ∧ tb.cooler = 0 ∧ s.slotCfg.hasWinners 4 = false) ∧
    (let b : OpBody := .aggregate (mean 4)
     let s := graph b 1 0 0 1
     s.runsForward c0 second (opOf b) 1 s ∧ s.viewMb second = some mb0 ∧ s.slotCfg.tableOf s.cfg.tables 4 = none ∧ (s.operand 4).isSome = true) := by
  refine ⟨⟨runsOwn (by decide) (by decide) (by decide) (by decide) rfl, by decide, by decide, _, rfl, ?_, ?_, by decide⟩,
    runsOwn (by decide) (by decide) (by decide) (by decide) rfl, by decide⟩
  · exact rowsClear_of (src := .own (memKey 1 (65536 + 9 * 128))) (by decide) (fun _ h => by cases h) (by decide) (by decide) (by decide)
  · exact rowsHeld_of (k := memKey 1 (65536 + 9 * 128)) (by decide)

/-- `graph` with a request out for a row of 2 flits, sent at dial time `sent`. -/
def asking (sent : Nat) : State :=
  let s := graph (.gather 1 0 3 4) 1 9 1 1
  { s with gather := { s.gather with requests := [{ (default : RowRequest) with ctx := c0, tag := 4, region := 0, owner := ⟨0, 0, 1⟩, sent := sent }] } }

theorem test_remoteRows_met :
    (let s := graph (.gather 1 0 3 4) 1 9 0 2
     let q : RowReqEntry := { (default : RowReqEntry) with node := 9, table := 0, step := 7 }
     let busy : State := { s with tables := { s.tables with updating := [0] } }
     s.start.loaded = true ∧ (1 : BitVec 8) ≠ s.tables.generation ∧ (0 : BitVec 8) = s.tables.generation ∧
       (∃ tb, s.table q.table.toNat = some tb ∧ ∃ k, s.ownRowKey tb q.version q.node.toNat = some k ∧
         ¬ ((tb.kind = 2 ∨ tb.kind = 4) ∧ s.isUpdating tb.id = true) ∧ tb.rowBytes ≤ 4096) ∧
       (∃ tb, busy.table q.table.toNat = some tb ∧ ∃ k, busy.ownRowKey tb q.version q.node.toNat = some k ∧ tb.kind = 2 ∧
         busy.isUpdating tb.id = true ∧ q.step.toNat ≤ busy.dial.step.toNat ∧
         busy.dial.step.toNat < ({ q with step := 8 } : RowReqEntry).step.toNat)) ∧
    (let s := asking 0
     let e : RowReplyEntry := { (default : RowReplyEntry) with tag := 4, flits := 1 }
     let data : List Flit := [0, 0]
     s.start.loaded = true ∧ e.status = 0 ∧ data.length = e.flits.toNat + 1 ∧
       (∃ q, s.gather.requests.find? (fun q => q.tag == e.tag) = some q ∧ q.owner = ⟨0, 0, 1⟩) ∧
       (s.gather.requests.find? fun q => q.tag == ({ e with tag := 8 } : RowReplyEntry).tag) = none) ∧
    ((1#8) ≠ (asking 0).engineTag (gatherEngineKey ((4 : BitVec 20).toNat % 4)) ∧
      (0#8) = (asking 0).engineTag (gatherEngineKey ((4 : BitVec 20).toNat % 4)) ∧ (⟨0, 0, 1⟩ : Coord) ≠ ⟨0, 0, 2⟩) ∧
    ((∃ q, (asking 0).gather.requests.find? (fun q => q.tag == 4) = some q ∧ q.sent + 4096 ≤ (asking 0).dialTime ∧
        (∃ y, (asking 0).ctx q.ctx = some y ∧ ∃ m, (asking 0).itemMb y = some m ∧ m.dropped = false ∧ m.committed = false)) ∧
      ∃ q, (asking ((asking 0).dialTime - 4095)).gather.requests.find? (fun q => q.tag == 4) = some q ∧
        (asking 0).dialTime < q.sent + 4096) := by decide

/-! ### Backward parts and products -/

theorem runsPart_of {s : State} {c : CtxId} {t : TaskContext} {o : Op} {m : MicroBatch} (item : s.runsItem c true t o) (first : t.recompute = false)
    (mb : s.itemMb t = some m) (unread : s.entriesRead m t.op.toNat o = []) : s.runsPart c t o m s :=
  ⟨item, fun h => by simp [first] at h, mb, by simp [unread], by simp [unread]⟩

/-- A backward part of operation 0. -/
def part : TaskContext := { task with part := true }

/-- A job of one operation with a backward part over `x0` and an operand like it. -/
def back (b : OpBody) : State := job [{ opOf b with bwd := true }] [x0, { x0 with base := 2 ^ 48 + 4096 }] part

theorem test_backwardItems_met :
    (let b : OpBody := .activate 0 1 0
     let s := back b
     s.runsPart c0 part { opOf b with bwd := true } mb0 s ∧ s.operand 0 = some x0 ∧ ∃ y, s.operand 1 = some y ∧
       (s.gradRows mb0 1 y).2 = false ∧ (s.keptRows part mb0 1 y none).any (·.poison) = false) ∧
    (let n : NormaliseOp := { (default : NormaliseOp) with inp := 0, out := 1, affine := noOperand, affineGrad := noOperand }
     let s := back (.normalise n)
     s.runsPart c0 part { opOf (.normalise n) with bwd := true } mb0 s ∧ (∃ y, s.operand 1 = some y ∧ (s.gradRows mb0 1 y).2 = false) ∧
       (s.affineRows mb0 n).2.2 = false ∧ (s.keptRows part mb0 0 x0 none).any (·.poison) = false) ∧
    (let b : OpBody := .gather 0 0 0 1
     (back b).runsPart c0 part { opOf b with bwd := true } mb0 (back b)) ∧
    (let b : OpBody := .aggregate { (default : AggregateOp) with src := 0, out := 1 }
     (back b).runsPart c0 part { opOf b with bwd := true } mb0 (back b) ∧ (back b).slotCfg.isKind 0 3 = true ∧
       (back b).slotCfg.isKind 7 3 = false) := by
  refine ⟨⟨runsPart_of (by decide) rfl (by decide) (by decide), by decide⟩, ⟨runsPart_of (by decide) rfl (by decide) (by decide), by decide⟩,
    runsPart_of (by decide) rfl (by decide) (by decide), runsPart_of (by decide) rfl (by decide) (by decide), by decide⟩

theorem test_backwardPoison_met :
    (let b : OpBody := .activate 0 1 0
     let s := spoiled (back b) [memKey 1 4096]
     s.runsPart c0 part { opOf b with bwd := true } mb0 s ∧ ∃ y, s.operand 1 = some y ∧ (s.keptRows part mb0 1 y none).any (·.poison) = true) := by
  refine ⟨runsPart_of (by decide) rfl (by decide) (by decide), _, rfl, by decide⟩

theorem test_sweeping_met :
    up.sweepParts = [] ∧
    (let b : OpBody := .gather 1 0 3 4
     let s := graph b 1 9 0 2
     let t := { second with part := true, state := 4 }
     let u : State := { s with
       cfg := { s.cfg with slots := s.cfg.slots.map fun x => (x.1, { x.2 with ops := [opOf (.sample 0 1 1 2), { opOf b with bwd := true }] }) }
       sched := setAt s.sched 0 { RegionSched.reset with contexts := [(3, t)] } }
     u.sweepParts ≠ [] ∧ u.sweepReady = true ∧
       (let w : State := { u with sched := setAt u.sched 0 { RegionSched.reset with contexts := [(3, t), (4, { t with state := 3, mb := 4 })] }
                                  mbs := u.mbs ++ [{ mb0 with mb := 4 }]
                                  cfg := { u.cfg with sundial := { u.cfg.sundial with table := [default] } } }
        w.sweepParts ≠ [] ∧ w.sweepReady = false)) := by decide

/-- A TRANSFORM with an activation that its backward part needs, its two factors and its result. -/
def product (frozen : Bool) (w : TransformOp) : TransformOp := { w with inA := 0, w := 1, out := 2, pre := noOperand, act := 3, frozen := frozen }
def transforming (q : TransformOp) (t : TaskContext) : State :=
  let s := job [{ opOf (.transform q) with bwd := true }] [x0, { x0 with kind := 2, rows := 31, base := 2 ^ 48 + 4096 },
    { x0 with base := 2 ^ 48 + 16384 }] t
  ({ s with cfg := { s.cfg with sundial := { s.cfg.sundial with table := [default] } } } : State).onBlock 0 fun b => { b with active := 0xFFFF }

theorem test_products_met :
    (let q := product false default
     let s := transforming q task
     s.runsForward c0 task { opOf (.transform q) with bwd := true } 0 s ∧ s.viewMb task = some mb0 ∧ (s.block (blockOf c0 task)).product = none ∧
       blockOf c0 task < s.blocks.length ∧ (s.operand q.inA).isSome = true ∧ (s.operand q.w).isSome = true ∧ (s.operand q.out).isSome = true ∧
       s.memory.mem.poison = [] ∧ q.preload = 0) ∧
    (let q := product false default
     let s := transforming q part
     s.runsPart c0 part { opOf (.transform q) with bwd := true } mb0 s ∧ (s.block (blockOf c0 part)).product = none ∧
       blockOf c0 part < s.blocks.length ∧ s.memory.mem.poison = [] ∧ q.noDx = false ∧ s.slotCfg.isKind q.inA 3 = true ∧ q.frozen = false ∧
       ∃ y, s.operand q.out = some y ∧ (s.companionPass part mb0 { opOf (.transform q) with bwd := true } q y).isSome = true) ∧
    (let q := { product false default with noDx := true }
     let s := transforming q part
     s.runsPart c0 part { opOf (.transform q) with bwd := true } mb0 s ∧ q.noDx = true ∧ q.frozen = false ∧
       ∃ y, s.operand q.out = some y ∧ (s.companionPass part mb0 { opOf (.transform q) with bwd := true } q y).isSome = true) ∧
    (let q := { product true default with noDx := true }
     let s := transforming q part
     s.runsPart c0 part { opOf (.transform q) with bwd := true } mb0 s ∧ q.frozen = true ∧
       ∃ y, s.operand q.out = some y ∧ (s.companionPass part mb0 { opOf (.transform q) with bwd := true } q y).isSome = true) ∧
    (let q := product false default
     let s0 := transforming q part
     let s : State := { s0 with memory := { s0.memory with mem := { s0.memory.mem with poison := [memKey 1 16384] } } }
     s.runsPart c0 part { opOf (.transform q) with bwd := true } mb0 s ∧
       ∃ y, s.operand q.out = some y ∧ (s.companionPass part mb0 { opOf (.transform q) with bwd := true } q y).isNone = true) := by
  refine ⟨⟨runsOwn (by decide) (by decide) (by decide) (by decide) rfl, by decide⟩, ⟨runsPart_of (by decide) rfl (by decide) (by decide), by decide⟩,
    ⟨runsPart_of (by decide) rfl (by decide) (by decide), by decide⟩, ⟨runsPart_of (by decide) rfl (by decide) (by decide), by decide⟩,
    runsPart_of (by decide) rfl (by decide) (by decide), by decide⟩

theorem test_hasPass_met :
    (let s := transforming (product false default) task
     s.hasPass (blockOf c0 task) ⟨c0, 0, 0, 7, 0, 0, false, []⟩ ∧ s.hasPass (blockOf c0 task) ⟨c0, 0, 0, 7, 1, 0, false, []⟩ ∧
       s.hasPass (blockOf c0 task) ⟨c0, 0, 0, 7, 2, 0, false, []⟩) :=
  ⟨⟨_, 0, 0, _, _, rfl, by decide, by decide, rfl, rfl⟩, ⟨_, 0, 0, _, _, rfl, by decide, by decide, rfl, rfl⟩,
    ⟨_, 0, 0, _, _, rfl, by decide, by decide, rfl, rfl⟩⟩

/-- A mask of clear bits leaves dW without a column. -/
theorem test_maskedOut_met :
    (let q := { product false default with noDx := true, masked := true, mask := 3 }
     let s0 := transforming q part
     let s : State := { s0 with
       cfg := { s0.cfg with slots := s0.cfg.slots.map fun x => (x.1, { x.2 with
         operands := x.2.operands ++ [{ x0 with kind := 1, format := 0xC, cols := 0, rows := 0, base := 2 ^ 48 + 20480 }] }) }
       memory := { s0.memory with mem := s0.memory.mem.write (memKey 1 20480) (List.replicate 64 0) } }
     ∃ h, s.shape ⟨c0, 0, 0, 7, 2, 0, false, []⟩ = some h ∧ h.cols = 32 ∧ (List.range 32).all (fun n => !s.maskBit q n) = true) :=
  ⟨_, rfl, by decide, by decide⟩

/-- `transforming`, its forward part done, the pre-activation rows with the compressor; the region's near and far pages are free where said. -/
def stashing (near far : Bool) : State :=
  let s := transforming (product false default) part
  let full (f : Bool) : StashEntry := { (default : StashEntry) with far := f, pages := 64 }
  { s with
    cfg := { s.cfg with partMap := ⟨0, 0, [⟨1, false, true, 3, 0, 0, 0, 0, 0, 0, 0, 0⟩, ⟨1, false, true, 0, 1, 0, 0, 0, 0, 0, 0, 0⟩]⟩
                        slots := s.cfg.slots.map fun x => (x.1, { x.2 with consts := [0, 0, 1] }) }
    sched := setAt s.sched 0 { RegionSched.reset with completed := [(0, 0, false)] }
    train := { s.train with preRows := [⟨0, 0, 7, [(0, List.replicate 128 1), (1, List.replicate 128 2)]⟩]
                            stash := (if near then [] else [full false]) ++ (if far then [] else [full true]) } }

/-- A test of what R303 looks for. -/
def roomFor (s : State) : Bool × Bool := ((s.freeRun false 0 1).isSome, (s.freeRun true 0 1).isSome)

theorem test_stashEntry_met :
    (let s := stashing true true
     s.mbs.find? (fun q => q.mb == 0 && !q.dropped && !q.committed) = some mb0 ∧ regionOfMb mb0.mb = 0 ∧
       (s.openPoints mb0).contains (0, true) = true ∧ s.pointReached mb0 0 true = true ∧ (s.pointBeats mb0 0 true).isSome = true) ∧
    roomFor (stashing true true) = (true, true) ∧ roomFor (stashing false true) = (false, true) ∧ roomFor (stashing false false) = (false, false) := by
  decide

theorem test_commit_met :
    (let s := stashing true true
     mb0.admitted = true ∧ s.partsDone mb0 = false) ∧
    (let s0 := stashing true true
     let s : State := { s0 with sched := setAt s0.sched 0 { RegionSched.reset with completed := [(0, 0, false), (0, 0, true)] } }
     s.mbs.find? (fun q => q.mb == 0 && !q.dropped && !q.committed) = some mb0 ∧ s.partsDone mb0 = true ∧ s.cfg.sundial.det = false) := by decide

/-- An update of a kind 2 operand with its state. -/
def update : OptimizeOp := { (default : OptimizeOp) with target := 0, grad := 1, state1 := 2, state2 := noOperand, consts := noOperand }
def updating (subs : List Nat) : State :=
  job [{ opOf (.optimize update) with scope := 2 }]
    [{ x0 with kind := 2, baseB := 2 ^ 48 + 4096 }, { x0 with kind := 1, base := 2 ^ 48 + 8192 }, { x0 with kind := 2, base := 2 ^ 48 + 12288, baseB := 2 ^ 48 + 16384 }]
    { task with mb := 4094, subs := subs }

theorem test_optimizing_met :
    (let o : Op := { opOf (.optimize update) with scope := 2 }
     let s := withSpouts (updating [])
     let last := withSpouts (updating (List.range 31))
     let s' : State := { s with train := { s.train with skip := true } }
     s.runsItem c0 false { task with mb := 4094 } o ∧ s.train.skip = false ∧ (0 : Fin 32).val ∉ ([] : List Nat) ∧
       s.slotCfg.tableOf s.cfg.tables update.target = none ∧ (s.operand update.target).isSome = true ∧
       last.runsItem c0 false { task with mb := 4094, subs := List.range 31 } o ∧ (31 : Fin 32).val ∉ List.range 31 ∧
       (30 : Fin 32).val ∈ List.range 31 ∧ (s.freeSpout ((0 : Fin 32).val % 4) (some c0)).isNone = false ∧
       (last.freeSpout ((31 : Fin 32).val % 4) (some c0)).isNone = false ∧ ((updating []).freeSpout 0 (some c0)).isNone = true ∧ s'.runsItem c0 false { task with mb := 4094 } o ∧ s'.train.skip = true) ∧
    (let p : OptimizeOp := { update with target := 3, state1 := noOperand }
     let s := withSpouts (graph (.optimize p) 1 9 0 2)
     let copying : State := s.onTarget 0 fun x => { x with active := true, step := 7 }
     s.runsItem c0 false second (opOf (.optimize p)) ∧ s.train.skip = false ∧ (s.slotCfg.tableOf s.cfg.tables p.target).isSome = true ∧
       (s.freeSpout 0 (some c0)).isNone = false ∧ (s.target 0).active = false ∧
       ((copying.target 0).active && (copying.target 0).step == copying.dial.step.toNat && !(copying.target 0).bodySent) = true) := by decide

/-! ### Cells -/

/-- One BF16 row of 128 against 32 weight rows; the head cell 0 and cell 1 of the arc, with the row in cell 0's row area: `fill` in every byte. -/
def tiles : TransformOp := { product false default with act := 0 }
def cellAt (place : Nat) (lanes : List (List Nat)) : CellRun := ⟨place, 0, place, 0, true, lanes, 0, [], [], true, 0, (256, 256), []⟩
def working (fill : Byte) (lanes : List (List Nat)) : State :=
  let row : Operand := { x0 with format := 3, cols := 127, rows := 0 }
  let s := job [opOf (.transform tiles)] [row, { row with kind := 2, rows := 31, base := 2 ^ 48 + 4096 }, { x0 with base := 2 ^ 48 + 16384, rows := 0 }] task
  let s : State := { s with cfg := { s.cfg with sundial := { s.cfg.sundial with table := [default] } }, memory := { s.memory with mem := ⟨(List.range 256).map fun i => (rowArea 0 0 0 + i, fill), []⟩ } }
  s.onBlock 0 fun b => { b with
    product := some ⟨c0, 0, 0, 7, 0, 0, false, [cellAt 0 lanes, cellAt 1 lanes]⟩
    segments := [{ (default : Segment) with out := 2, step := 7, issued := [0] }] }

/-- What `CellEvents` takes of a cell: its product, shape and run, and its first two passes. -/
def atWork (s : State) (c : Nat) (f : Product → Shape → CellRun → Pass → Pass → Bool) : Bool :=
  match s.cellRun 0 c with
  | some (p, h, r) => match s.runPasses h r with
    | [q, q'] => f p h r q q'
    | _ => false
  | none => false

theorem test_chunkIssue_met :
    atWork (working 0x3F [[0], [], [], []]) 0 (fun _ h r q _ => r.pass == 0 && r.ready && decide (h.tileBytes q.tile ≤ r.bytes.1) &&
      ((working 0x3F [[0], [], [], []]).scanLane 0 0 h r q false 0).unit == some 0 && !(h.unitRows q 0).any (r.chunkPoisoned h q) &&
      ((working 0x3F [[0], [], [], []]).scanLane 0 0 h r q true 0).unit == some 0 && r.on && r.slot % 4 == 0 && r.slot % 4 != 1) = true ∧
    atWork (working 0 [[0], [], [], []]) 0 (fun _ h r q _ => ((working 0 [[0], [], [], []]).scanLane 0 0 h r q false 0).unit == none) = true := by decide

/-- `working` where the row has been written before: another write accumulates. -/
def accumulating : State :=
  (working 0x3F [[0], [], [], []]).onBlock 0 fun b => { b with segments := b.segments.map fun g => { g with live := [0] } }

theorem test_accumulate_met :
    atWork accumulating 0 (fun p h r q _ => r.ready && accumulating.accumulates 0 0 p h q 0 &&
      (accumulating.scanLane 0 0 h r q false 0).unit == some 0) = true := by decide

/-- `working`, its lanes empty, with a line poisoned. -/
def poisoned (k : Nat) : State :=
  let s := working 0 [[], [], [], []]
  { s with memory := { s.memory with mem := { s.memory.mem with poison := [k] } } }

theorem test_swap_met :
    atWork (working 0x3F [[0], [], [], []]) 0 (fun _ h r _ q => (working 0x3F [[0], [], [], []]).runPasses h r |>.length |> fun n =>
      n == 2 && r.lanes.any (fun l => !l.isEmpty) && q.k == 1) = true ∧
    atWork (working 0 [[], [], [], []]) 0 (fun p h r _ q => !r.lanes.any (fun l => !l.isEmpty) &&
      !(working 0 [[], [], [], []]).tilePoisoned p h r.place q) = true ∧
    atWork (poisoned (memKey 1 4224)) 0 (fun p h r _ q => !r.lanes.any (fun l => !l.isEmpty) && (poisoned (memKey 1 4224)).tilePoisoned p h r.place q) =
      true := by decide

theorem test_basinDrain_met :
    atWork (working 0 [[], [], [], []]) 0 (fun p h r q _ =>
      let s := working 0 [[], [], [], []]
      match (s.block 0).segments.find? (fun g => g.cell == 0 && g.num == 0) with
      | some g => (s.runPasses h r).find? (fun q => h.segKey q == (g.tile, g.col, g.group)) == some q && (s.op p.op).isSome && s.released p h g &&
          s.arcTurn 0 p h g
      | none => false) = true := by decide

/-- A cell that is not its arc's head, whose first row tile is under way or complete, with failures of its beat. -/
def onRill (bytes : Nat × Nat) (fails : Nat) : State :=
  (working 0 [[], [], [], []]).onBlock 0 fun b => { b with
    retries := [(1, fails)], product := b.product.map fun p => { p with cells := p.cells.map fun r => { r with bytes := bytes } } }

theorem test_rillFilling_met :
    (let met (s : State) (f : Option (Nat × Nat)) (n : Nat) : Bool := atWork s 1 fun p h r _ _ =>
      let size (i : Nat) : Nat := ((h.visits (s.runPasses h r))[i]?).elim 0 h.tileBytes
      r.place != 0 && r.filling size == f && p.injected r.arc == n
     met (onRill (128, 0) 0) (some (0, 128)) 1 && met (onRill (0, 0) 0) (some (0, 0)) 0 && met (onRill (256, 0) 0) none 1) = true := by decide

theorem test_rillBeat_met :
    atWork (onRill (128, 0) 0) 0 (fun _ _ r _ _ => r.place == 0) = true ∧
    atWork (onRill (128, 0) 0) 1 (fun _ h r q _ => r.place == 1 && decide (r.bytes.1 < h.tileBytes q.tile)) = true ∧
    atWork (onRill (256, 0) 0) 1 (fun _ h r q _ => h.tileBytes q.tile == r.bytes.1 && ((h.visits ((onRill (256, 0) 0).runPasses h r))[r.load + 1]?).isNone) =
      true ∧
    lookupNat 1 ((onRill (128, 0) 2).block 0).retries = some 2 ∧ lookupNat 1 ((onRill (128, 0) 3).block 0).retries = some 3 ∧
    crc16 (List.replicate 1040 false) ≠ 0 := by decide

/-! ### Tables and the Cascade -/

/-- Row 9 of table 0 in the directory. -/
def listed (st : DirState) (demote overflow : Bool) : State :=
  let s := graph (.gather 1 0 3 4) 1 9 0 2
  let s : State := { s with cfg := { s.cfg with tables := s.cfg.tables.map fun t => { t with migrate := true } } }
  { s with tables := { s.tables with directory := [{ (default : DirEntry) with node := 9, location := memKey 0 4096, state := st, demote := demote, overflow := overflow }] } }

theorem test_tableMoves_met :
    up.start.loaded = true ∧
    (let met (s : State) : Bool := (s.dirEntry (0#8).toNat (9#40).toNat).isSome &&
        (s.table (0#8).toNat).any fun tb => (s.ownRowHome tb (9#40).toNat).isSome
     (met (listed .live false false) && met (listed .copying false false) && met (listed .live true false) && met (listed .copying false true)) = true) ∧
    (let s : State := { up with tables := { up.tables with reshardOn := true, reshardDone := false } }
     s.tables.holdEnded = false ∧ s.oldReductionsDone = true ∧ s.tables.reshardDone = false) ∧
    (let s := graph (.reduce 4 3 1 false) 1 9 0 2
     let s : State := { s with cfg := { s.cfg with sundial := { s.cfg.sundial with table := [default] } } }
     s.oldReductionsDone = false) ∧
    (let s : State := { up with tables := { up.tables with reshardOn := true, holdEnded := true, reshardDone := false }, dial := { up.dial with isRoot := true } }
     s.dims.1 * s.dims.2.1 * s.dims.2.2 ≤ s.tables.reports + 1) := by decide

/-- A REDUCE along X of a gradient of 4 rows, in a ring of `n`. -/
def reducing (n op : Nat) : State :=
  let s := job [{ opOf (.reduce 0 op 1 true) with scope := 2 }] [{ x0 with kind := 1, rows := 3 }] { task with mb := 4094 }
  { s with cfg := { s.cfg with header := { s.cfg.header with shapeA := n - 1 }, sundial := { s.cfg.sundial with table := [{ (default : DialEntry) with type := 4, closes := 65535 }] } } }

/-- `reducing`, its instance begun by engine 0. -/
def begun (n op : Nat) (x : CascadeRun) : State :=
  (reducing n op).onCascade fun c => { c with engines := setAt c.engines 0 { (c.engines.getD 0 default) with
    running := true, run := some { x with ctx := c0, opened := 7 * 65536 } } }

theorem test_presence_met :
    (up.dialRuns = true ∧ up.portUp (1 : Fin 6).val = true ∧ (1 : Fin 6).val / 2 = (0 : BitVec 2).toNat ∧ (7 : BitVec 48) = up.dial.step) ∧
    (let s0 := begun 4 0 default
     let s : State := { s0 with dial := { s0.dial with pos := 768 } }
     let early : State := { s0 with dial := { s0.dial with pos := 767 } }
     let down := s0.onPort 0 fun x => { x with state := 4 }
     ∃ y, s.memberOf 0 false = some y ∧ (s.engine 0).running = true ∧ y.2.n = 4 ∧ y.1.lost = [] ∧ s.axisPort y.2.axis true = 0 ∧
       max y.1.opened y.1.opened + 768 ≤ s.dialTime ∧ early.dialTime < y.1.opened + 768 ∧ (early.port 0).state ≠ 4 ∧ (down.port 0).state = 4) ∧
    (let s := begun 2 0 default
     ∃ y, s.memberOf 0 false = some y ∧ y.2.n = 2) ∧
    (let s := begun 4 0 default
     ∃ r, s.reductionOf (0 : BitVec 10).toNat = some r ∧ s.run.run = 2 ∧ s.portUp 1 = true ∧
       withAxis ⟨2, 0, 0⟩ r.axis 0 = withAxis s.coord r.axis 0 ∧ (∃ y, s.engineOf 0 = some y ∧ y.2.told = []) ∧ (reducing 4 0).engineOf 0 = none ∧
       (reducing 4 0).cascade.notices = []) ∧
    (let n : HeldNotice := ⟨1, false, ⟨2, 0, 0⟩, 0, 100, 0⟩
     ∃ y, (begun 4 0 { (default : CascadeRun) with told := [n.key 0] }).engineOf 0 = some y ∧ y.2.told.contains (n.key 0) = true) := by decide

theorem test_reductions_met :
    (let s := begun 4 0 default
     ∃ r, s.reduction 0 = some r ∧ s.runsItem c0 false { task with mb := 4094 } { opOf (.reduce 0 0 1 true) with scope := 2 } ∧
       s.cascade.engines.length = 2 ∧ (s.engine r.engine).running = true) ∧
    (let s := reducing 4 0
     ∃ r, s.reduction 0 = some r ∧ s.runsItem c0 false { task with mb := 4094 } { opOf (.reduce 0 0 1 true) with scope := 2 } ∧
       s.cascade.engines.length = 2 ∧ (s.engine r.engine).running = false ∧ (s.engine r.engine).run = none) ∧
    (let s := reducing 1 0
     ∃ r, s.reduction 0 = some r ∧ r.n = 1 ∧ r.op = 0 ∧ (s.ownContribution r).2 = [] ∧ s.cascade.withdrawn = [] ∧ s.cascade.notices = [] ∧
       s.cascade.early = [] ∧ (s.operand r.tensor).isSome = true) := by decide

/-- A packet of a reduce-scatter's second phase for the instance of `begun`. -/
def packet : CascadeHeader := { (default : CascadeHeader) with op := 0, phase := true, stepLo := 7, chunk := 3 }

theorem test_cascadePackets_met :
    up.run.run ≠ 2 ∧
    (let s := begun 4 0 default
     s.dialRuns = true ∧ s.run.run = 2 ∧ s.portUp 1 = true ∧ ({ packet with lgen := 1 } : CascadeHeader).lgen ≠ s.tables.generation ∧
       packet.lgen = s.tables.generation ∧ packet.proxy = false ∧ packet.op ≠ 3 ∧
       ∃ y, s.memberOf 0 false = some y ∧ s.belongs y.1 y.2 packet = true ∧ packet.restarts = BitVec.ofNat 8 y.1.restarts ∧ y.1.seen = [] ∧
         packet.chunk.toNat < y.2.n ∧ packet.seg.toNat < y.2.segs packet.chunk.toNat ∧ y.1.lost = []) ∧
    (reducing 4 0).memberOf 0 (packet.proxy && decide (1 / 2 = packet.axis.toNat)) = none ∧
    (∃ y, (begun 4 0 { (default : CascadeRun) with seen := [packetKey packet] }).memberOf 0 false = some y ∧
      y.1.seen.contains (packetKey packet) = true) := by decide

theorem test_proxyRestart_met :
    (let s := (reducing 4 0).onCascade fun c => { c with engines := setAt c.engines 0 { (c.engines.getD 0 default) with
       proxyRun := some { (default : CascadeRun) with restartAt := some (7 * 65536) } } }
     ∃ y, (s.engine 0).proxyRun = some y ∧ y.restartAt = some (7 * 65536) ∧ 7 * 65536 ≤ s.dialTime ∧ (s.engine 0).running = false) := by decide

theorem test_cascadeRestarts_met :
    (let s := begun 4 0 { (default : CascadeRun) with restartAt := some (7 * 65536 + 1) }
     (s.engine 0).proxyRun = none ∧ ∃ y, (s.engine 0).run = some y ∧ ∃ at', y.restartAt = some at' ∧ s.dialTime < at') ∧
    (let s := begun 4 0 { (default : CascadeRun) with restartAt := some (7 * 65536), lost := [1] }
     ∃ y, s.memberOf 0 false = some y ∧ (s.engine 0).running = true ∧ (s.engine 0).proxyRun = none ∧ y.1.restartAt = some (7 * 65536) ∧
       7 * 65536 ≤ s.dialTime ∧ y.1.lost.length < 2 ∧ y.2.head = true) ∧
    (let s := begun 4 0 { (default : CascadeRun) with restartAt := some (7 * 65536), lost := [1, 2] }
     ∃ y, s.memberOf 0 false = some y ∧ 2 ≤ y.1.lost.length) ∧
    (let s0 := begun 4 0 { (default : CascadeRun) with restartAt := some (7 * 65536), lost := [1], op := 1 }
     let s : State := { s0 with cfg := { s0.cfg with slots := s0.cfg.slots.map fun x => (x.1, { x.2 with ops := x.2.ops ++ x.2.ops }) } }
     ∃ y, s.memberOf 0 false = some y ∧ y.1.lost ≠ [] ∧ y.2.head = false ∧ y.2.op ≠ 3 ∧ s.noProxy y.1 y.2 = true) := by decide

/-! ### Checkpoints, cores, recovery -/

/-- `up` with partition 0 the partner partition, and a checkpoint target changed. -/
def saving (k : Nat) (f : CkptTarget → CkptTarget) : State :=
  { up with
    cfg := { up.cfg with partMap := ⟨0, 0, [⟨0, false, true, 6, 1, 0, 0, 0, 0, 0, 0, 0⟩]⟩ }
    resil := { up.resil with targets := modifyAt up.resil.targets k f } }

theorem test_partnerDrains_met :
    (let s := saving 0 id
     ∃ p, s.partOf 6 = some p ∧ (64 : BitVec 48).toNat % 64 = 0 ∧ (32 : BitVec 48).toNat % 64 ≠ 0 ∧ p.2.start % 64 = 0 ∧
       (BitVec.ofNat 48 (p.2.len - 64)).toNat + 64 * ([0] : List Flit).length ≤ p.2.len ∧
       p.2.len < (BitVec.ofNat 48 p.2.len).toNat + 64 * ([0] : List Flit).length) ∧
    (let s := saving 0 fun x => { x with active := true, step := 65543 }
     (s.target 0).active = true ∧ BitVec.ofNat 16 (s.target 0).step = 7 ∧ BitVec.ofNat 16 (s.target 0).step ≠ 8 ∧ s.roleUp 6 = true ∧
       (s.target 0).bodySent = false ∧ s.memory.stepFault = false) ∧
    (let s := saving 0 fun x => { x with active := true, bodySent := true, headerSent := true }
     (s.target 0).active = true ∧ (s.target 0).bodySent = true ∧ (s.target 0).headerSent = true) ∧
    (up.target 0).active = false := by decide

theorem test_setCopies_met :
    ((up.target (1 : BitVec 2).toNat).active = false ∧
      (let s := saving 1 fun x => { x with active := true, copying := true }
       (s.target 1).active = true ∧ (s.target 1).bodySent = false ∧ s.roleUp 6 = true ∧ s.memory.stepFault = false ∧ (s.target 1).copying = true) ∧
      (let s := saving 2 fun x => { x with active := true }
       (s.target 2).copying = false ∧ (s.target 0).pinned = false ∧ (s.target 0).newest = none)) ∧
    (let s : State := { up with resil := { up.resil with restore := { up.resil.restore with phase := 1, source := 2, stage := .body, wanted := 4096 } } }
     s.hostReady 5 ∧ cleanHeader (hk 1) ([0] : List Flit).length ∧ s.resil.restore.object = none ∧
       (0 : BitVec 48).toNat + 64 * ([0] : List Flit).length ≤ s.resil.restore.wanted ∧
       s.resil.restore.got + 64 * ([0] : List Flit).length < s.resil.restore.wanted) ∧
    (let s := saving 2 fun x => { x with copying := true, unacked := [{ (default : DrainPart) with after := 64 }] }
     s.hostReady 5 ∧ cleanHeader (hk 0) 0 ∧ (BitVec.ofNat 32 (objectNumber (s.target 2).step (s.target 2).set)).toNat =
       objectNumber (s.target 2).step (s.target 2).set ∧ (s.target 2).copying = true ∧
       (s.target 2).unacked.drop ((s.target 2).unacked.takeWhile fun p => decide (p.after ≤ (63 : BitVec 48).toNat)).length ≠ []) ∧
    up.resil.nvme = [] ∧
    (let s := saving 1 fun x => { x with active := true }
     let s : State := { s with resil := { s.resil with nvme := [.write 64 4096, .flush] } }
     s.resil.nvme = .write 64 4096 :: [.flush] ∧ (NvmeCommand.write 64 4096).reads = false ∧ ([NvmeCommand.flush].any fun x => !x.reads) = true ∧
       (([] : List NvmeCommand).any fun x => !x.reads) = false ∧ (s.target 1).active = true ∧ (up.target 1).active = false) ∧
    (let s := saving 0 fun x => { x with complete := [some 7, none] }
     (s.target 0).newest = some (false, 7) ∧ (s.target 0).pinned = false) ∧
    (let s := saving 2 fun x => { x with active := true, bodySent := true, copying := true }
     (s.target 2).copying = true ∧ (s.target 2).unacked = [] ∧ (s.target 2).active = true ∧ (s.target 2).bodySent = true) ∧
    (let s : State := { up with resil := { up.resil with nvme := [.readSet 0 64], restore := { up.resil.restore with wanted := 65 } } }
     s.resil.nvme = .readSet 0 64 :: [] ∧ s.resil.restore.got + 64 < s.resil.restore.wanted) := by decide

/-- `up` with a core changed. -/
def withCore (i : Nat) (f : ControlCore → ControlCore) : State := { up with cores := modifyAt up.cores i f }

theorem test_controlCores_met :
    (up.cores.length = 8 ∧ up.start.loaded = true ∧ (up.core 0).active = true ∧ (up.core 0).taking = none ∧
      (State.reset.core 0).active = false) ∧
    (let watching (missed seen : Nat) : State :=
        withCore 0 fun c => { c with watched := 1, watchValid := true, missed := BitVec.ofNat 3 missed, lastSeen := BitVec.ofNat 32 seen }
     ((watching 0 1).core 0).active = true ∧ ((watching 0 1).core 1).heartbeat ≠ ((watching 0 1).core 0).lastSeen ∧
       ((watching 2 0).core 1).heartbeat = ((watching 2 0).core 0).lastSeen ∧ ((watching 2 0).core 0).missed.toNat < 3 ∧
       3 ≤ ((watching 3 0).core 0).missed.toNat ∧ ((watching 3 0).core 0).watched.toNat ≠ 0 ∧ ((watching 3 0).core 1).role ≠ 0 ∧
       (watching 3 0).spareCore.isSome = true) ∧
    (let watch : ControlCore := { up.core 0 with watched := 1, watchValid := true, missed := 3 }
     let s : State := { up with cores := setAt (up.cores.take 6 ++ List.replicate 2 { ControlCore.reset with role := 7 }) 0 watch }
     s.cores.length = 8 ∧ (s.core 0).active = true ∧ s.spareCore = none) ∧
    ((withCore 6 fun c => { c with taking := some 2 }).core 6).taking = some 2 := by decide

/-- `up` with a ladder, and rungs passed before. -/
def resetting (u : WatchedUnit) (rung : Nat) (passed : List (WatchedUnit × Nat)) : State :=
  { up with resil := { up.resil with ladders := [⟨u, rung, 0, default⟩], passed := passed } }

theorem test_resetLadder_met :
    up.resil.ladders.any (fun l => l.unit == WatchedUnit.nvme) = false ∧
    (let s := resetting .nvme 0 []
     s.resil.ladders.any (fun l => l.unit == WatchedUnit.nvme) = true ∧ s.resil.ladders.find? (fun l => l.rung == 0) = some ⟨.nvme, 0, 0, default⟩ ∧
       s.firstRung .nvme < 4) ∧
    4 ≤ (resetting .nvme 0 [(.nvme, 3)]).firstRung .nvme ∧
    (let s := resetting (.cell 9 0) 1 []
     s.resil.ladders.find? (fun l => l.rung != 0) = some ⟨.cell 9 0, 1, 0, default⟩ ∧ nextRung (.cell 9 0) 1 < 4) ∧
    4 ≤ nextRung (.cell 9 0) 3 ∧
    up.resil.ladders.find? (fun l => l.rung == 0) = none ∧ 0 < up.resil.hangs.length ∧
    up.blocks.length = 36 ∧ up.resil.tagRegions.length = 4 := by decide

/-- Row 40 of bank group 0 of a slice, cell 0 of block 0 and block 0 as swaps, running. -/
def swapping (kind unit : Nat) : Swap := { (default : Swap) with kind := kind, unit := unit, detail := 40, running := true }
def swaps (l : List Swap) : State :=
  { window 0 with
    resil := { up.resil with swaps := l }
    cfg := { up.cfg with sundial := { up.cfg.sundial with table := [{ (default : DialEntry) with type := 0xA, closes := 65535 }] } } }

theorem test_wearAndSpares_met :
    (up.start.loaded = true ∧ up.roleUp 3 = true ∧
      (let s : State := { up with resil := { up.resil with baselines := [(cellUnit 0 0, 1000000)] } }
       lookupNat (cellUnit 0 0) up.resil.baselines = none ∧ lookupNat (cellUnit 0 0) s.resil.baselines = some 1000000 ∧
         94 * 1000000 < 100 * 940001 ∧ 100 * 940000 ≤ 94 * 1000000 ∧ s.isMarked 1 (cellUnit 0 0) 0 = false ∧
         s.hasSpare 1 (cellUnit 0 0) = true ∧
         ({ s with resil := { s.resil with failedCells := (List.range 17).map fun c => (0, 0, c) } } : State).hasSpare 1 (cellUnit 0 0) = false)) ∧
    (let s := swaps [⟨1, cellUnit 0 0, 0, 0x117, false, false, 0⟩]
     ∃ left, s.windowLeft = some left ∧ s.roleUp 5 = true ∧ s.resil.swaps.any (·.running) = false ∧
       ∃ w, leastBy (fun w => (swapOrder w).1) (s.resil.swaps.filter (s.swapFits left)) = some w ∧ w.kind ≠ 2) ∧
    ((swaps [swapping 1 (cellUnit 0 0)]).resil.swaps.any (·.running) = true ∧ up.windowLeft = none) ∧
    (let s := swaps [swapping 1 (cellUnit 0 0)]
     s.resil.swaps.find? (·.running) = some (swapping 1 (cellUnit 0 0)) ∧ unitClass (cellUnit 0 0) = 0 ∧ s.spareCells 0 ≠ [] ∧ 0 < s.blocks.length) ∧
    (unitClass (blockUnit 0) = 1 ∧ (swaps [swapping 1 (blockUnit 0)]).spareBlocks (unitRegion (blockUnit 0)) ≠ []) ∧
    ((swaps [swapping 3 0]).resil.swaps.find? (·.running) = some (swapping 3 0) ∧ ((swaps [swapping 3 0]).memory.controllers[0]?).isSome = true) ∧
    up.resil.swaps.find? (·.running) = none := by decide

theorem test_swapKinds_met :
    ([swapping 2 0, swapping 4 0, swapping 5 0, swapping 1 (spoutUnit 0 0), swapping 1 (blockUnit 0)].all fun w =>
      (swaps [w]).resil.swaps.find? (·.running) == some w && (swaps [w]).windowLeft.isSome) = true ∧
    unitClass (spoutUnit 0 0) = 2 ∧ (swaps []).spareSpouts 0 ≠ [] ∧
    (let s0 := swaps []
     let s : State := { s0 with resil := { s0.resil with failedCells := (List.range 17).map fun c => (0, 0, c)
                                                         failedBlocks := (List.range 9).map fun b => (0, b)
                                                         failedSpouts := (List.range 9).map fun b => (0, b) } }
     s.spareCells 0 = [] ∧ s.spareBlocks 0 = [] ∧ s.spareSpouts 0 = []) := by decide

/-! ### The whole device -/

theorem test_inputRemoved_met : up.power.stage ≠ .off := by decide

theorem test_memoryKept_met :
    (let s : State := { parted with pending := [.externalReset] }
     s.memoryOk ∧ ∃ t, step s = .next t) ∧ State.reset.pending = [] := ⟨⟨by decide, _, rfl⟩, rfl⟩

theorem test_onlyNamedCommands_met :
    (∃ t, exec (.heartbeat 0) up = .next t ∧ up.start.begun = true ∧ t.start.begun = true ∧ t.cores ≠ up.cores) ∧
    (let s : State := { State.reset with power := { State.reset.power with stage := .housekeeping, estop := true, hold := .estop, vinOk := true } }
     ∃ t, exec .externalReset s = .next t ∧ s.power.estop = true ∧ t.power.estop = false) :=
  ⟨⟨_, rfl, by decide⟩, ⟨_, rfl, by decide⟩⟩

theorem test_rungTags_met :
    up.blocks.length = 36 ∧ up.resil.tagRegions.length = 4 ∧
    (∀ x ∈ [((.cell 9 0 : WatchedUnit), 1), (.cell 9 0, 2), (.cell 9 0, 3)], ∃ l,
      (resetting x.1 x.2 []).resil.ladders.find? (fun l => l.rung != 0) = some l ∧ l.rung = x.2 ∧ l.rung < 4) ∧
    4 ≤ nextRung (.cell 9 0) 3 ∧
    (1#8) ≠ up.engineTag (up.memIssuer ⟨0, 0, 1⟩ 5 false) ∧ (1#8) ≠ up.engineTag (up.memIssuer ⟨0, 0, 1⟩ 5 true) := by decide

theorem test_boundaryScan_met : up.power.stage ≠ .off ∧ State.reset.power.stage = .off := by decide

/-! ### Ill-formed commands -/

/-- Every check of WellFormed.lean refuses a command just out of its range, and takes one just in it. -/
theorem test_wellFormed_counts :
    (Instr.clockStretch 0 0).wellFormed = false ∧ (Instr.clockStretch 0 1).wellFormed = true ∧
    (Instr.stageWrite (hk 1) 0 []).wellFormed = false ∧ (Instr.stageWrite (hk 65) 0 (List.replicate 65 0)).wellFormed = false ∧
    (Instr.stageWrite (hk 64) 0 (List.replicate 64 0)).wellFormed = true ∧
    (Instr.write (hk 0) 0 [0]).wellFormed = false ∧ (Instr.write (hk 65) 0 (List.replicate 65 0)).wellFormed = false ∧
    (Instr.ckptData (hk 2) 0 0 [0]).wellFormed = false ∧ (Instr.ckptData (hk 65) 0 0 (List.replicate 65 0)).wellFormed = false ∧
    (Instr.statusSpaceWrite (hk 0) 128 [0]).wellFormed = false ∧ (Instr.statusSpaceWrite (hk 65) 128 (List.replicate 65 0)).wellFormed = false ∧
    (Instr.cascade 0 default (List.replicate 65 0) []).wellFormed = false ∧ (Instr.memWrite ⟨0, 0, 0⟩ 0 0 (List.replicate 65 0)).wellFormed = false ∧
    (Instr.memData ⟨0, 0, 0⟩ 0 0 0 0 (List.replicate 65 0)).wellFormed = false ∧ (Instr.drain 0 0 0 (List.replicate 65 0)).wellFormed = false ∧
    (Instr.rowReq 0 ⟨0, 0, 0⟩ []).wellFormed = false ∧ (Instr.rowReq 0 ⟨0, 0, 0⟩ (List.replicate 4 default)).wellFormed = false ∧
    (Instr.rowReq 0 ⟨0, 0, 0⟩ (List.replicate 3 default)).wellFormed = true ∧
    (Instr.rowReply ⟨0, 0, 0⟩ 0 [] []).wellFormed = false ∧ (Instr.rowReply ⟨0, 0, 0⟩ 0 (List.replicate 13 default) []).wellFormed = false ∧
    (Instr.rowReply ⟨0, 0, 0⟩ 0 [default] (List.replicate 65 0)).wellFormed = false ∧
    (Instr.codewordReceive 0 false 0 0 (List.replicate 9 0)).wellFormed = false ∧ (Instr.codewordReceive 0 true 0 0 []).wellFormed = true := by decide

theorem test_wellFormed_ranges :
    (Instr.beat 0 { (default : BeatFlit) with pos := 255 }).wellFormed = false ∧ (Instr.beat 0 { (default : BeatFlit) with pos := 256 }).wellFormed = true ∧
    (Instr.cascade 0 { (default : CascadeHeader) with axis := 3 } [] []).wellFormed = false ∧
    (Instr.memoryRead 32 none default).wellFormed = false ∧ (Instr.memoryRead 64 none default).wellFormed = true ∧
    (Instr.memoryWrite 63 [0, 0] false default).wellFormed = false ∧ (Instr.memoryWrite 63 [0] false default).wellFormed = true ∧
    (Instr.laneLossOfLock 6 3).wellFormed = false ∧ (Instr.laneLossOfLock 6 2).wellFormed = true ∧ (Instr.laneLossOfLock 0 4).wellFormed = true ∧
    (Instr.negotiate 0 { (default : NegotiateFlit) with port := 7 }).wellFormed = false ∧
    (Instr.calibrate 0 5 0 0 false).wellFormed = false ∧ (Instr.calibrate 0 4 0 3 false).wellFormed = false ∧
    (Instr.calibrate 0 4 0 2 false).wellFormed = true ∧ (Instr.eyeMarginScan 6 3 0).wellFormed = false := by decide

/-- A command on a context that no region has. -/
theorem test_wellFormed_contexts :
    (let c : CtxId := ⟨0, 12288⟩
     ([.instanceComplete c, .contextTimeout c, .sample c [], .gather c [], .aggregate c [] [], .transform c, .activate c, .normalise c, .loss c, .optimize c 0,
       .reduce c, .spout c 0 [], .spoutBudget c, .fill c, .tableSwitch c, .intake c, .transformBackward c, .spoutPoolBackward c, .trailReturn c] : List Instr).all
         (fun i => !i.wellFormed)) = true ∧
    (Instr.gather ⟨3, 12287⟩ []).wellFormed = true := by decide

/-! ### Examples and tables of the spec -/

/-- Address 0x2310_0000_4000_0000 is 1 GiB into the stacked tier of device (2, 3, 1) (00_scope). -/
theorem test_address_example :
    coordOf 0x2310000040000000 = ⟨2, 3, 1⟩ ∧ field 0x2310000040000000 48 4 = 0 ∧ field 0x2310000040000000 0 48 = 2 ^ 30 := by decide

/-- Tile row 100 of the Basin of cell C5.3 lies at offset 0x9470_1900 of tier 0x4 (01_step_anatomy). -/
theorem test_tileRow_example : tileRow (9 * 2 + 5) 3 0 100 = memKey 4 (0x80000000 + 0x14000000 + 0x600000 + 0x100000 + 0x1900) := by decide

/-- Operand 4 (W1) of the example slot (04_job_slots): kind 2, BF16, local, 128 rows of 256, B 64 KiB above A. -/
theorem test_operand_example :
    (let y := parseOperand (0x0000007F00FF4321 + 0x0000000700000000 * 2 ^ 64 + 0x0000000700010000 * 2 ^ 192)
     y.loc = true ∧ [y.kind, y.format, y.rows + 1, y.cols + 1, y.base, y.baseB, y.rowBytes] = [2, 3, 128, 256, 0x700000000, 0x700010000, 512]) := by decide

/-- Operation 9 of the example slot (04_job_slots): TRANSFORM, entry 1, bwd_entry 2, in_a 3, out 5, bias 6, ReLU, no_dx, grad 7, pre_grad 8. -/
theorem test_op_example :
    (let o := parseOp (0x000200094F001041 + 0x0841006005004003 * 2 ^ 64 + 0x0000000800FFF007 * 2 ^ 128)
     match o.body with
      | .transform q => [o.entry, o.bwdEntry, q.inA, q.w, q.out, q.pre, q.act, q.noDx.toNat, q.grad, q.preGrad]
      | _ => []) = [1, 2, 3, 4, 5, 6, 1, 1, 7, 8] := by decide

/-- Node 431,250,017 of table 3 lies with device (2, 6, 0) at offset 0x0003_5A56_0100 (05_graph_tables). -/
theorem test_lookup_example :
    (let t : TableDesc := { (default : TableDesc) with kind := 1, id := 3, format := 3, cols := 127, rowUnits := 3, nodes := 999999999 }
     let e : ShardEntry := { (default : ShardEntry) with table := 3, xOwn := true, first := 374998112, y := 6 }
     let f : ShardEntry := { e with first := 437501376, y := 7 }
     lookupIn [e, f] t ⟨2, 11, 0⟩ 431250017 = .row ⟨2, 6, 0⟩ e 0x35A560100) := by decide

/-- Task context 5,000 of region C reads at offset 0x002C_E200 of the status space (16_status_reference). -/
theorem test_context_address_example :
    (let s := { up with sched := setAt up.sched 2 { RegionSched.reset with contexts := [(5000, { task with mb := 41 })] } }
     s.statusLine 0x2CE200 = ({ task with mb := 41 } : TaskContext).num) := by decide
end Sys2Proof.Tests
end

section
/-! PROOFS. A SPOUT work item that exceeds its arguments or its budget (R139): how a command reaches the item, what a fault leaves in
the error counts, that a dropped micro-batch stays dropped, and the halt at scopes 1 and 2. -/

namespace Sys2Proof.Machine

/-! ### A command reaches its work item -/

/-- A command of a forward operation executes its body on the item that it finds. -/
theorem State.runForward_eq {s u : State} {c : CtxId} {x : TaskContext} {o : Op} {k : Nat} (h : s.runsForward c x o k u)
    (f : TaskContext → Op → Nat → State → State) : s.runForward c f = f x o k u := by
  obtain ⟨hctx, hstate, hkept, hop, ⟨hpart, rfl, rfl⟩ | ⟨hpart, hrec, hnext, m, hm, hclean, htake⟩⟩ := h
  · simp [State.runForward, hctx, hstate, hkept, hpart, hop]
  · simp [State.runForward, hctx, hstate, hkept, hpart, hrec, hnext, hm, hop, hclean, htake, -List.any_eq_true]

/-- Reaching the item changes only the micro-batches: a rerun takes copies. -/
theorem State.runsForward_within {s u : State} {c : CtxId} {x : TaskContext} {o : Op} {k : Nat} (h : s.runsForward c x o k u) :
    s.within [.mbs] u := by
  obtain ⟨-, -, -, -, ⟨-, -, rfl⟩ | ⟨-, -, -, -, -, -, htake⟩⟩ := h
  · exact State.within_refl _ _
  · exact State.takeReruns_within htake (State.within_refl _ _) (List.Subset.refl _)

/-- The item's context stands where the command reaches it. -/
theorem State.runsForward_ctx {s u : State} {c : CtxId} {x : TaskContext} {o : Op} {k : Nat} (h : s.runsForward c x o k u) :
    u.ctx c = some x := by
  have hsched : u.sched = s.sched := (State.runsForward_within h).1 .sched (by decide)
  rw [State.ctx, hsched]
  exact h.1

/-! ### Error counts (R516) -/

theorem State.countError_errorCounts_same {s : State} {code : Nat} (hpos : code ≠ 0) (hlt : code < 512) :
    (s.countError code).logs.errorCounts[code]? = (s.logs.errorCounts[code]?).map (satAdd · 1) := by
  rw [State.countError, if_neg (by omega)]
  simp [modifyAt]

theorem State.countError_errorCounts_ne {s : State} {code j : Nat} (h : code ≠ j) :
    (s.countError code).logs.errorCounts[j]? = s.logs.errorCounts[j]? := by
  rw [State.countError]
  split
  · rfl
  · simp [modifyAt, h]

theorem State.logDevice_errorCounts_same {s : State} {code : Nat} {who : Named} {dropped detail : Nat} (hpos : code ≠ 0) (hlt : code < 512) :
    (s.logDevice code who dropped detail).logs.errorCounts[code]? = (s.logs.errorCounts[code]?).map (satAdd · 1) :=
  State.countError_errorCounts_same hpos hlt

/-- A lapse of the guarantee counts 0x047 and no other code (R82). -/
theorem State.lapse_errorCounts_ne {s : State} {j : Nat} (h : 0x047 ≠ j) : s.lapse.logs.errorCounts[j]? = s.logs.errorCounts[j]? := by
  rw [State.lapse]
  split
  · exact State.countError_errorCounts_ne h
  · rfl

/-! ### Dropping a micro-batch (R69) -/

/-- Every record of a micro-batch is dropped. -/
def State.mbDropped (s : State) (mb step : Nat) : Prop := ∀ q ∈ s.mbs, q.mb = mb → q.step = step → q.dropped = true

theorem State.mbDropped_of_subset {s t : State} {mb step : Nat} (hs : s.mbDropped mb step) (h : t.mbs ⊆ s.mbs) : t.mbDropped mb step :=
  fun q hq => hs q (h hq)

/-- A function whose frame leaves the micro-batches out keeps a drop. -/
theorem State.mbDropped_of_within {s t : State} {mb step : Nat} {L : List Part} (hs : s.mbDropped mb step) (h : s.within L t)
    (hL : .mbs ∉ L) : t.mbDropped mb step :=
  State.mbDropped_of_subset hs ((h.1 .mbs hL : t.mbs = s.mbs) ▸ List.Subset.refl _)

/-- An update of any micro-batch that names it as before and does not take a drop back keeps a drop. -/
theorem State.onMb_mbDropped {s : State} {mb step mb' step' : Nat} {f : MicroBatch → MicroBatch} (hs : s.mbDropped mb step)
    (hmb : ∀ m, (f m).mb = m.mb) (hstep : ∀ m, (f m).step = m.step) (hf : ∀ m, m.dropped = true → (f m).dropped = true) :
    (s.onMb mb' step' f).mbDropped mb step := by
  intro q hq
  obtain ⟨m, hm, rfl⟩ := List.mem_map.1 hq
  split
  · rw [hmb, hstep]
    exact fun h1 h2 => hf m (hs m hm h1 h2)
  · exact hs m hm

theorem State.freeDropped_mbDropped {s : State} {mb step mb' step' : Nat} (hs : s.mbDropped mb step) :
    (s.freeDropped mb' step').mbDropped mb step := by
  rw [State.freeDropped]
  split
  · exact hs
  · refine State.onMb_mbDropped hs (fun m => ?_) (fun m => ?_) (fun m hm => ?_)
    · split <;> rfl
    · split <;> rfl
    · rw [if_pos hm]; exact hm

theorem State.endDropped_mbDropped {s : State} {c : CtxId} {mb step : Nat} (hs : s.mbDropped mb step) : (s.endDropped c).mbDropped mb step := by
  rw [State.endDropped]
  split
  · exact State.freeDropped_mbDropped (State.mbDropped_of_subset hs (List.Subset.refl _))
  · exact hs

/-- A drop marks every record of the micro-batch. -/
theorem State.onMb_drop_mbDropped (s : State) (mb step : Nat) :
    (s.onMb mb step fun m => { m with dropped := true }).mbDropped mb step := by
  intro q hq h1 h2
  obtain ⟨m, -, rfl⟩ := List.mem_map.1 hq
  split
  · rfl
  next hne =>
    rw [if_neg hne] at h1 h2
    simp [h1, h2] at hne

/-- What dropping can do: nothing, where the micro-batch is not held or has ended; or a change of the state that leaves the logs and marks
every record of the micro-batch, upon which the guarantee lapses. -/
theorem State.dropMb_cases (s : State) (mb step : Nat) :
    (s.dropMb mb step = s ∧ ∀ m, s.mbOf mb step = some m → m.dropped = true ∨ m.committed = true) ∨
      ∃ v : State, s.dropMb mb step = v.lapse ∧ v.logs = s.logs ∧ v.mbDropped mb step := by
  unfold State.dropMb
  split
  next hnone => exact .inl ⟨rfl, by simp [hnone]⟩
  next m hm =>
    split
    next hended => exact .inl ⟨rfl, by simpa [hm] using hended⟩
    next =>
      refine .inr ⟨_, rfl, ?_, ?_⟩
      · exact (State.freeDropped_within (State.within_refl _ [.mbs]) (List.Subset.refl _)).1 .logs (by decide)
      · exact State.mbDropped_of_subset (State.freeDropped_mbDropped (State.onMb_drop_mbDropped _ mb step)) (List.Subset.refl _)

theorem State.dropMb_errorCounts_ne {s : State} {mb step j : Nat} (h : 0x047 ≠ j) :
    (s.dropMb mb step).logs.errorCounts[j]? = s.logs.errorCounts[j]? := by
  obtain ⟨heq, -⟩ | ⟨v, heq, hlogs, -⟩ := s.dropMb_cases mb step
  · rw [heq]
  · rw [heq, State.lapse_errorCounts_ne h, hlogs]

theorem State.dropMb_mbDropped {s : State} {mb step : Nat} {m : MicroBatch} (hm : s.mbOf mb step = some m) (hd : m.dropped = false)
    (hc : m.committed = false) : (s.dropMb mb step).mbDropped mb step := by
  obtain ⟨-, hended⟩ | ⟨v, heq, -, hv⟩ := s.dropMb_cases mb step
  · simpa [hd, hc] using hended m hm
  · rw [heq]
    exact State.mbDropped_of_within hv (State.lapse_within (State.within_refl _ [.dial, .logs]) (List.Subset.refl _)) (by decide)

/-- Cancelling an item counts its code once, apart from the lapse's own. -/
theorem State.dropFor_errorCounts {s : State} {c : CtxId} {x : TaskContext} {code detail : Nat} (hctx : s.ctx c = some x)
    (hpos : code ≠ 0) (hlt : code < 512) (hlapse : 0x047 ≠ code) :
    (s.dropFor c code detail).logs.errorCounts[code]? = (s.logs.errorCounts[code]?).map (satAdd · 1) := by
  have hend (v : State) : (v.endDropped c).logs = v.logs :=
    (State.endDropped_within (State.within_refl _ [.mbs, .sched, .gather]) (List.Subset.refl _)).1 .logs (by decide)
  simp only [State.dropFor, hctx]
  rw [State.logDevice_errorCounts_same hpos hlt, hend, State.dropMb_errorCounts_ne hlapse]

/-- Cancelling an item drops its micro-batch. -/
theorem State.dropFor_mbDropped {s : State} {c : CtxId} {x : TaskContext} {code detail : Nat} {m : MicroBatch} (hctx : s.ctx c = some x)
    (hm : s.itemMb x = some m) (hd : m.dropped = false) (hc : m.committed = false) :
    (s.dropFor c code detail).mbDropped x.mb.toNat x.step.toNat := by
  simp only [State.dropFor, hctx]
  exact State.mbDropped_of_within (State.endDropped_mbDropped (State.dropMb_mbDropped hm hd hc))
    (State.logDevice_within (State.within_refl _ [.logs]) (List.Subset.refl _)) (by decide)

/-! ### A drop survives the settling of the schedulers -/

theorem State.openReady_mbDropped {s : State} {mb step : Nat} (hs : s.mbDropped mb step) : s.openReady.mbDropped mb step := by
  unfold State.openReady
  refine List.foldlRecOn (motive := fun v : State => v.mbDropped mb step) _ _ hs fun v hv m _ => ?_
  dsimp only
  split
  · exact hv
  · have hadmitted : (v.onMb m.mb m.step fun m => { m with admitted := true }).mbDropped mb step :=
      State.onMb_mbDropped hv (fun _ => rfl) (fun _ => rfl) fun _ h => h
    -- the region's count and the new contexts are the scheduler's
    refine State.mbDropped_of_within (L := [.sched]) hadmitted (State.within_fold (fun w y hw => ?_) ?_) (by decide)
    · have hL : [Part.sched] ⊆ [Part.sched] := List.Subset.refl _
      exact State.within_ite hw (State.within_ite (State.newCtx_within (State.newCtx_within hw hL) hL) (State.newCtx_within hw hL))
    · exact State.onRegion_within (State.within_refl _ _) (List.Subset.refl _)

theorem State.endEvaluationOf_mbs_subset (s : State) (entry : Nat) : (s.endEvaluationOf entry).mbs ⊆ s.mbs := by
  unfold State.endEvaluationOf
  dsimp only
  split
  · exact List.Subset.refl _
  · exact List.filter_subset_self _

theorem State.endEvaluation_mbDropped {s : State} {mb step : Nat} (hs : s.mbDropped mb step) : s.endEvaluation.mbDropped mb step :=
  List.foldlRecOn (motive := fun v : State => v.mbDropped mb step) _ _ hs fun v hv entry _ =>
    State.mbDropped_of_subset hv (v.endEvaluationOf_mbs_subset entry)

theorem State.settle_mbDropped {s : State} {mb step : Nat} (hs : s.mbDropped mb step) : s.settle.mbDropped mb step := by
  refine State.mbDropped_of_within (L := [.dial]) ?_ (State.noteCompletions_within (State.within_refl _ _) (List.Subset.refl _)) (by decide)
  exact State.endEvaluation_mbDropped (State.mbDropped_of_subset (State.openReady_mbDropped hs) (List.Subset.refl _))

theorem State.settle_logs (s : State) : s.settle.logs = s.logs :=
  (State.settle_within (State.within_refl _ [.dial, .mbs, .sched, .train]) (List.Subset.refl _)).1 .logs (by decide)

/-! ### The halt at the boundary, and the end of the item -/

/-- The first halt cause stands (R48). -/
theorem State.haltAtBoundary_haltCause (s : State) (cause : Nat) :
    (s.haltAtBoundary cause).dial.haltCause = if s.dial.haltCause = 0 then BitVec.ofNat 3 cause else s.dial.haltCause := by
  rw [State.haltAtBoundary]
  split <;> rfl

/-- A context that stands reads back what is written to it. -/
theorem State.setCtx_ctx_same {s : State} {c : CtxId} {x : TaskContext} (hctx : s.ctx c = some x) (y : TaskContext) :
    (s.setCtx c y).ctx c = some y := by
  obtain ⟨r, hr, -⟩ := Option.bind_eq_some_iff.1 hctx
  simp [State.ctx, modifyAt, hr, lookupNat_insertKey]

theorem State.endForward_ctx {s : State} {c : CtxId} {x : TaskContext} (hctx : s.ctx c = some x) (k : Nat) :
    (s.endForward c k).ctx c = some (x.ran k) := by
  simp only [State.endForward, State.finish, TaskContext.ran, hctx]
  split <;> exact State.setCtx_ctx_same hctx _

/-! ### The fault of a SPOUT item -/

/-- At scope 0 a fault cancels the item's micro-batch, at scopes 1 and 2 it stops the device at the boundary (R139, R48). -/
theorem State.spoutFault_scope0 {s : State} {c : CtxId} {o : Op} {k code : Nat} (h : o.scope = 0) :
    s.spoutFault c o k code = (s.dropFor c code 0).settle := by
  rw [State.spoutFault, if_pos h]

theorem State.spoutFault_scope12 {s : State} {c : CtxId} {o : Op} {k code : Nat} (h : o.scope ≠ 0) :
    s.spoutFault c o k code = ((s.logDevice code (s.nameOf c) 0 0).haltAtBoundary 2).endForward c k := by
  rw [State.spoutFault, if_neg h]

theorem State.spoutFault_errorCounts {s : State} {c : CtxId} {x : TaskContext} {o : Op} {k code : Nat} (hctx : s.ctx c = some x)
    (hpos : code ≠ 0) (hlt : code < 512) (hlapse : 0x047 ≠ code) :
    (s.spoutFault c o k code).logs.errorCounts[code]? = (s.logs.errorCounts[code]?).map (satAdd · 1) := by
  by_cases h : o.scope = 0
  · rw [State.spoutFault_scope0 h, State.settle_logs, State.dropFor_errorCounts hctx hpos hlt hlapse]
  · have hlogs (v : State) : ((v.haltAtBoundary 2).endForward c k).logs = v.logs :=
      (State.endForward_within (State.haltAtBoundary_within (State.within_refl _ [.dial, .sched]) (by simp)) (by simp)).1 .logs (by decide)
    rw [State.spoutFault_scope12 h, hlogs, State.logDevice_errorCounts_same hpos hlt]

theorem State.spoutFault_memory (s : State) (c : CtxId) (o : Op) (k code : Nat) : (s.spoutFault c o k code).memory = s.memory :=
  (State.spoutFault_within (State.within_refl _ [.dial, .logs, .mbs, .sched, .gather, .train, .blocks]) (List.Subset.refl _)).1 .memory
    (by decide)

theorem State.spoutFault_mbDropped {s : State} {c : CtxId} {x : TaskContext} {o : Op} {k code : Nat} {m : MicroBatch} (h : o.scope = 0)
    (hctx : s.ctx c = some x) (hm : s.itemMb x = some m) (hd : m.dropped = false) (hc : m.committed = false) :
    (s.spoutFault c o k code).mbDropped x.mb.toNat x.step.toNat := by
  rw [State.spoutFault_scope0 h]
  exact State.settle_mbDropped (State.dropFor_mbDropped hctx hm hd hc)

theorem State.spoutFault_ctx {s : State} {c : CtxId} {x : TaskContext} {o : Op} {k code : Nat} (h : o.scope ≠ 0)
    (hctx : s.ctx c = some x) : (s.spoutFault c o k code).ctx c = some (x.ran k) := by
  have hsched : ((s.logDevice code (s.nameOf c) 0 0).haltAtBoundary 2).sched = s.sched :=
    (State.haltAtBoundary_within (State.logDevice_within (State.within_refl _ [.dial, .logs]) (by simp)) (by simp)).1 .sched (by decide)
  rw [State.spoutFault_scope12 h]
  refine State.endForward_ctx ?_ k
  rw [State.ctx, hsched]
  exact hctx

theorem State.spoutFault_haltCause {s : State} {c : CtxId} {o : Op} {k code : Nat} (h : o.scope ≠ 0) :
    (s.spoutFault c o k code).dial.haltCause = if s.dial.haltCause = 0 then 2 else s.dial.haltCause := by
  have hend (v : State) : (v.endForward c k).dial = v.dial :=
    (State.endForward_within (State.within_refl _ [.sched]) (List.Subset.refl _)).1 .dial (by decide)
  have hlog : (s.logDevice code (s.nameOf c) 0 0).dial = s.dial :=
    (State.logDevice_within (State.within_refl _ [.logs]) (List.Subset.refl _)).1 .dial (by decide)
  rw [State.spoutFault_scope12 h, hend, State.haltAtBoundary_haltCause, hlog]
  rfl

/-! ### The commands -/

theorem exec_spoutBudget_of_runsForward {s u : State} {c : CtxId} {x : TaskContext} {o : Op} {k code : Nat} {args : List Nat} {budget : Nat}
    (h : s.runsForward c x o k u) (hbody : o.body = .spout code args budget) :
    exec (.spoutBudget c) s = .next (u.spoutFault c o k 0x07D) := by
  change execSpoutBudget c s = _
  rw [execSpoutBudget, State.runForward_eq h, hbody]

/-- An access out of bounds ends SPOUT's run in its fault; a sub-item of scope 2 must have a core and not have ended (R337). -/
theorem exec_spout_of_spoutBad {s u : State} {c : CtxId} {x : TaskContext} {o : Op} {k code : Nat} {args : List Nat} {budget : Nat}
    {sub : Fin 32} {accesses : List SpoutAccess} (h : s.runsForward c x o k u) (hbody : o.body = .spout code args budget)
    (hbad : accesses.any (u.spoutBad args (o.scope == 0)) = true)
    (hsub : o.scope = 2 → x.subs.contains sub.val = false ∧ u.freeSpout (sub.val % 4) (some c) ≠ none) :
    exec (.spout c sub accesses) s = .next (u.spoutFault c o k 0x07C) := by
  change execSpout c sub accesses s = _
  rw [execSpout, State.runForward_eq h, hbody]
  by_cases h2 : o.scope = 2
  · obtain ⟨hnew, hcore⟩ := hsub h2
    obtain ⟨core, hcore⟩ := Option.ne_none_iff_exists'.1 hcore
    have hwhole : (o.scope != 2) = false := by simp [h2]
    simp [hwhole, hnew, hcore, hbad, -List.any_eq_true, -List.contains_eq_mem]
  · have hwhole : (o.scope != 2) = true := by simp [h2]
    simp [hwhole, hbad, -List.any_eq_true]

/-- The effect of a fault on the item that a command reached, against the state before the command. -/
theorem State.spoutFault_effect {s u : State} {c : CtxId} {x : TaskContext} {o : Op} {k code : Nat} (h : s.runsForward c x o k u)
    (hpos : code ≠ 0) (hlt : code < 512) (hlapse : 0x047 ≠ code) :
    let t := u.spoutFault c o k code
    t.logs.errorCounts[code]? = (s.logs.errorCounts[code]?).map (satAdd · 1) ∧ t.memory = s.memory ∧
      (o.scope = 0 → ∀ m, u.itemMb x = some m → m.dropped = false → m.committed = false →
        ∀ q ∈ t.mbs, q.mb = m.mb → q.step = m.step → q.dropped = true) ∧
      (o.scope ≠ 0 → t.ctx c = some (x.ran k) ∧ t.dial.haltCause = (if s.dial.haltCause = 0 then 2 else s.dial.haltCause)) := by
  have hu := (State.runsForward_within h).1
  have hlogs : u.logs = s.logs := hu .logs (by decide)
  have hmem : u.memory = s.memory := hu .memory (by decide)
  have hdial : u.dial = s.dial := hu .dial (by decide)
  have hctx := State.runsForward_ctx h
  refine ⟨?_, ?_, fun h0 m hm hd hc q hq hmb hstep => ?_, fun h0 => ⟨State.spoutFault_ctx h0 hctx, ?_⟩⟩
  · rw [State.spoutFault_errorCounts hctx hpos hlt hlapse, hlogs]
  · rw [State.spoutFault_memory, hmem]
  · have hname := List.find?_some hm
    simp only [Bool.and_eq_true, beq_iff_eq] at hname
    exact State.spoutFault_mbDropped h0 hctx hm hd hc q hq (hmb.trans hname.1) (hstep.trans hname.2)
  · rw [State.spoutFault_haltCause h0, hdial]

/-- Settles O31: both commands end in `State.spoutFault`, whose effect holds for either code. -/
theorem spoutFaults : Obligations.SpoutFaults := by
  intro s c x o k u code args budget sub accesses h hbody fault hfault
  obtain rfl | ⟨rfl, hbad, hsub⟩ := hfault
  · exact ⟨_, exec_spoutBudget_of_runsForward h hbody, State.spoutFault_effect h (by decide) (by decide) (by decide)⟩
  · exact ⟨_, exec_spout_of_spoutBad h hbody hbad hsub, State.spoutFault_effect h (by decide) (by decide) (by decide)⟩

end Sys2Proof.Machine
end

section
/-! PROOFS. The generation tags that a rung of the reset ladder advances, and the replies that an advanced tag makes stale (R32, R465):
first how tags advance one by one, then which blocks and engines a rung's domain holds, then the commands. -/

namespace Sys2Proof.Machine

/-! ### Tags of engines -/

@[simp] theorem State.advanceEngines_nil (s : State) : s.advanceEngines [] = s := rfl

theorem State.advanceEngines_cons (s : State) (k : Nat) (ks : List Nat) :
    s.advanceEngines (k :: ks) = (s.advanceEngines [k]).advanceEngines ks := rfl

theorem State.advanceEngines_append (s : State) (ks ls : List Nat) :
    s.advanceEngines (ks ++ ls) = (s.advanceEngines ks).advanceEngines ls := by
  simp [State.advanceEngines, State.onResil]

@[simp] theorem State.advanceEngines_tagRegions (s : State) (ks : List Nat) :
    (s.advanceEngines ks).resil.tagRegions = s.resil.tagRegions := rfl
@[simp] theorem State.advanceEngines_tagDevice (s : State) (ks : List Nat) :
    (s.advanceEngines ks).resil.tagDevice = s.resil.tagDevice := rfl

theorem State.advanceEngines_singleton_engineTag (s : State) (k j : Nat) :
    (s.advanceEngines [k]).engineTag j = if j = k then s.engineTag j + 1 else s.engineTag j := by
  change ((lookupNat j (insertKey k (s.engineTag k + 1) s.resil.tagEngines)).getD 0) = _
  rw [lookupNat_insertKey]
  by_cases h : k = j
  · subst h; simp
  · rw [if_neg h, if_neg (Ne.symm h)]; rfl

/-- Each engine named once advances by one, and no other. -/
theorem State.advanceEngines_engineTag {ks : List Nat} (hks : ks.Nodup) (s : State) (j : Nat) :
    (s.advanceEngines ks).engineTag j = if j ∈ ks then s.engineTag j + 1 else s.engineTag j := by
  induction ks generalizing s with
  | nil => simp
  | cons k ks ih =>
    obtain ⟨hk, hks⟩ := List.nodup_cons.1 hks
    rw [State.advanceEngines_cons, ih hks, State.advanceEngines_singleton_engineTag]
    by_cases hj : j = k
    · subst hj; simp [hk]
    · simp [hj]

/-! ### Tags of blocks -/

/-- The tag of one block advances. -/
def State.advanceBlockTag (s : State) (b : Nat) : State := s.onBlock b fun x => { x with tag := x.tag + 1 }

/-- The tags of blocks advance. -/
def State.advanceBlockTags (s : State) (bs : List Nat) : State := bs.foldl State.advanceBlockTag s

@[simp] theorem State.advanceBlockTags_nil (s : State) : s.advanceBlockTags [] = s := rfl

theorem State.advanceBlockTags_cons (s : State) (b : Nat) (bs : List Nat) :
    s.advanceBlockTags (b :: bs) = (s.advanceBlockTag b).advanceBlockTags bs := rfl

@[simp] theorem State.advanceBlockTags_resil (s : State) (bs : List Nat) : (s.advanceBlockTags bs).resil = s.resil := by
  induction bs generalizing s with
  | nil => rfl
  | cons b bs ih => rw [State.advanceBlockTags_cons, ih]; rfl

theorem State.advanceBlockTag_tag {s : State} {b : Nat} (c : Nat) (hb : b < s.blocks.length) :
    ((s.advanceBlockTag c).block b).tag = if b = c then (s.block b).tag + 1 else (s.block b).tag := by
  rw [State.advanceBlockTag, State.onBlock_block]
  by_cases h : c = b
  · subst h; simp [hb]
  · simp [h, Ne.symm h]

/-- Each block named once advances by one, and no other. -/
theorem State.advanceBlockTags_tag {bs : List Nat} (hbs : bs.Nodup) {s : State} {b : Nat} (hb : b < s.blocks.length) :
    ((s.advanceBlockTags bs).block b).tag = if b ∈ bs then (s.block b).tag + 1 else (s.block b).tag := by
  induction bs generalizing s with
  | nil => simp
  | cons c bs ih =>
    obtain ⟨hc, hbs⟩ := List.nodup_cons.1 hbs
    have hlen : b < (s.advanceBlockTag c).blocks.length := by simpa [State.advanceBlockTag] using hb
    rw [State.advanceBlockTags_cons, ih hbs hlen, State.advanceBlockTag_tag c hb]
    by_cases h : b = c
    · subst h; simp [hc]
    · simp [h]

/-- Blocks and engines advance independently. -/
theorem State.advanceEngines_advanceBlockTags (s : State) (ks bs : List Nat) :
    (s.advanceEngines ks).advanceBlockTags bs = (s.advanceBlockTags bs).advanceEngines ks := by
  induction bs generalizing s with
  | nil => rfl
  | cons b bs ih => exact ih (s.advanceBlockTag b)

/-! ### The domain of a rung -/

/-- Keys of a block's 17 cells (R511). -/
def cellKeys (b : Nat) : List Nat := (List.range 17).map fun c => 8192 + 17 * b + c

/-- Keys of a region's own engines (R511). -/
def regionKeys (r : Nat) : List Nat := ([0, 1, 2, 3, 4, 5] ++ (List.range 9).map (· + 16)).map (r * 1024 + ·)

/-- Region that a watched unit's rung 3 resets. -/
def rungRegion (u : WatchedUnit) : Nat := (watchedRegion u).getD 0

/-- Blocks that a rung below 4 resets. -/
def rungBlocks (u : WatchedUnit) (k : Nat) : List Nat :=
  if k = 2 then [watchedBlock u] else if k = 3 then (List.range 9).map (9 * rungRegion u + ·) else []

/-- Engines that a rung below 4 resets: the unit itself, the cells of its blocks, its region's own. -/
def rungEngines (u : WatchedUnit) (k : Nat) : List Nat :=
  (if k = 1 then [watchedTag u] else []) ++ (rungBlocks u k).flatMap cellKeys ++ (if k = 3 then regionKeys (rungRegion u) else [])

theorem mem_cellKeys {b k : Nat} : k ∈ cellKeys b ↔ ∃ c < 17, 8192 + 17 * b + c = k := by simp [cellKeys]

theorem cellKeys_nodup (b : Nat) : (cellKeys b).Nodup := List.nodup_range.map fun _ _ h => by simpa using h

theorem flatMap_cellKeys_nodup {bs : List Nat} (h : bs.Nodup) : (bs.flatMap cellKeys).Nodup := by
  refine List.nodup_flatMap.2 ⟨fun b _ => cellKeys_nodup b, h.imp fun {a b} hab k ha hb => ?_⟩
  obtain ⟨c, hc, rfl⟩ := mem_cellKeys.1 ha
  obtain ⟨d, hd, heq⟩ := mem_cellKeys.1 hb
  omega

theorem regionKeys_nodup (r : Nat) : (regionKeys r).Nodup :=
  List.Nodup.map (fun _ _ h => by simpa using h) (by decide)

theorem mem_regionKeys_bounds {r k : Nat} (h : k ∈ regionKeys r) : r * 1024 ≤ k ∧ k < r * 1024 + 25 := by
  obtain ⟨n, hn, rfl⟩ := List.mem_map.1 h
  have hlt : ∀ n ∈ [0, 1, 2, 3, 4, 5] ++ (List.range 9).map (· + 16), n < 25 := by decide
  have := hlt n hn
  omega

theorem rungRegion_lt (u : WatchedUnit) : rungRegion u < 4 := by
  cases u <;> simp [rungRegion, watchedRegion]
  case cell b c => omega

/-- A region's own engines are numbered below every cell. -/
theorem cellKeys_disjoint_regionKeys {r : Nat} (hr : r < 4) (bs : List Nat) : (bs.flatMap cellKeys).Disjoint (regionKeys r) := by
  intro k hcell hregion
  obtain ⟨b, -, hb⟩ := List.mem_flatMap.1 hcell
  obtain ⟨c, -, rfl⟩ := mem_cellKeys.1 hb
  have := mem_regionKeys_bounds hregion
  omega

theorem rungBlocks_nodup (u : WatchedUnit) (k : Nat) : (rungBlocks u k).Nodup := by
  unfold rungBlocks
  split
  · exact List.nodup_singleton _
  · split
    · exact List.nodup_range.map fun _ _ h => by simpa using h
    · exact List.nodup_nil

theorem rungEngines_nodup (u : WatchedUnit) (k : Nat) : (rungEngines u k).Nodup := by
  have hcells := flatMap_cellKeys_nodup (rungBlocks_nodup u k)
  unfold rungEngines
  by_cases h1 : k = 1
  · simp [h1, rungBlocks]
  by_cases h3 : k = 3
  · simpa [h1, h3] using List.nodup_append'.2
      ⟨h3 ▸ hcells, regionKeys_nodup _, cellKeys_disjoint_regionKeys (rungRegion_lt u) _⟩
  · simpa [h1, h3] using hcells

/-! ### How a rung below 4 advances its domain -/

/-- The tag of a block advances, and those of its cells (R465). -/
def State.advanceBlock (s : State) (b : Nat) : State := (s.advanceBlockTag b).advanceEngines (cellKeys b)

/-- Blocks that advance with their cells, one after another, advance as blocks and then as cells. -/
theorem State.foldl_advanceBlock (s : State) (bs : List Nat) :
    bs.foldl State.advanceBlock s = (s.advanceBlockTags bs).advanceEngines (bs.flatMap cellKeys) := by
  induction bs generalizing s with
  | nil => rfl
  | cons b bs ih =>
    rw [List.foldl_cons, ih, State.advanceBlock, State.advanceEngines_advanceBlockTags, ← State.advanceEngines_append,
      ← State.advanceBlockTags_cons, List.flatMap_cons]

theorem State.advanceTags_rung1 (s : State) (u : WatchedUnit) : s.advanceTags u 1 = s.advanceEngines [watchedTag u] := rfl

theorem State.advanceTags_rung2 (s : State) (u : WatchedUnit) : s.advanceTags u 2 = s.advanceBlock (watchedBlock u) := rfl

theorem State.advanceTags_rung3 (s : State) (u : WatchedUnit) :
    s.advanceTags u 3 = ((((List.range 9).map (9 * rungRegion u + ·)).foldl State.advanceBlock s).advanceEngines
      (regionKeys (rungRegion u))).onResil fun x => { x with tagRegions := modifyAt x.tagRegions (rungRegion u) (· + 1) } := by
  rw [List.foldl_map]; rfl

theorem State.onResil_tagRegions_id (s : State) : (s.onResil fun x => { x with tagRegions := x.tagRegions }) = s := rfl

/-- What a rung below 4 does: its blocks and its engines advance, and at rung 3 its region. -/
theorem State.advanceTags_eq (s : State) (u : WatchedUnit) {k : Nat} (hpos : k ≠ 0) (hlt : k < 4) :
    s.advanceTags u k = ((s.advanceBlockTags (rungBlocks u k)).advanceEngines (rungEngines u k)).onResil fun x =>
      { x with tagRegions := if k = 3 then modifyAt x.tagRegions (rungRegion u) (· + 1) else x.tagRegions } := by
  obtain rfl | rfl | rfl : k = 1 ∨ k = 2 ∨ k = 3 := by omega
  · simp [State.advanceTags_rung1, State.onResil_tagRegions_id, rungBlocks, rungEngines]
  · simp [State.advanceTags_rung2, State.onResil_tagRegions_id, rungBlocks, rungEngines, State.advanceBlock, State.advanceBlockTags]
  · simp [State.advanceTags_rung3, State.foldl_advanceBlock, ← State.advanceEngines_append, rungBlocks, rungEngines,
      -List.map_append]

/-! ### What leaves every tag alone -/

/-- The tags of one state stand in another. -/
structure State.sameTags (s t : State) : Prop where
  blocks : t.blocks = s.blocks
  tagEngines : t.resil.tagEngines = s.resil.tagEngines
  tagRegions : t.resil.tagRegions = s.resil.tagRegions
  tagDevice : t.resil.tagDevice = s.resil.tagDevice

theorem State.sameTags.trans {s t u : State} (h : s.sameTags t) (h' : t.sameTags u) : s.sameTags u :=
  ⟨h'.blocks.trans h.blocks, h'.tagEngines.trans h.tagEngines, h'.tagRegions.trans h.tagRegions, h'.tagDevice.trans h.tagDevice⟩

theorem State.sameTags.engineTag {s t : State} (h : s.sameTags t) (k : Nat) : t.engineTag k = s.engineTag k := by
  simp only [State.engineTag, h.tagEngines]

theorem State.sameTags.block {s t : State} (h : s.sameTags t) (b : Nat) : t.block b = s.block b := by
  simp only [State.block, h.blocks]

/-- A function whose frame leaves out the blocks and the tags' part keeps the tags. -/
theorem State.sameTags_of_within {s t : State} {L : List Part} (h : s.within L t) (hblocks : .blocks ∉ L) (hresil : .resil ∉ L) :
    s.sameTags t := by
  have hr : t.resil = s.resil := h.1 .resil hresil
  exact ⟨h.1 .blocks hblocks, by rw [hr], by rw [hr], by rw [hr]⟩

theorem State.onResil_sameTags (s : State) {f : ResilState → ResilState} (hengines : (f s.resil).tagEngines = s.resil.tagEngines)
    (hregions : (f s.resil).tagRegions = s.resil.tagRegions) (hdevice : (f s.resil).tagDevice = s.resil.tagDevice) :
    s.sameTags (s.onResil f) := ⟨rfl, hengines, hregions, hdevice⟩

theorem State.onHang_sameTags (s : State) (i : Nat) (f : HangRecord → HangRecord) : s.sameTags (s.onHang i f) :=
  s.onResil_sameTags rfl rfl rfl

theorem State.settle_sameTags (s : State) : s.sameTags s.settle :=
  State.sameTags_of_within (State.settle_within (State.within_refl _ [.dial, .mbs, .sched, .train]) (List.Subset.refl _))
    (by decide) (by decide)

theorem State.logDevice_sameTags (s : State) (code : Nat) (who : Named) (dropped detail : Nat) :
    s.sameTags (s.logDevice code who dropped detail) :=
  State.sameTags_of_within (State.logDevice_within (State.within_refl _ [.logs]) (List.Subset.refl _)) (by decide) (by decide)

/-! ### A rung below 4 completes -/

/-- From one state to another the tags of the domain of a unit's rung below 4 advance by one, and no others. -/
def State.rungAdvances (s t : State) (u : WatchedUnit) (k : Nat) : Prop :=
  (∀ j, t.engineTag j = if j ∈ rungEngines u k then s.engineTag j + 1 else s.engineTag j) ∧
    (∀ b, b < 36 → (t.block b).tag = if b ∈ rungBlocks u k then (s.block b).tag + 1 else (s.block b).tag) ∧
    t.resil.tagRegions = (if k = 3 then modifyAt s.resil.tagRegions (rungRegion u) (· + 1) else s.resil.tagRegions) ∧
    t.resil.tagDevice = s.resil.tagDevice

theorem State.advanceTags_rungAdvances {s : State} (hlen : s.blocks.length = 36) (u : WatchedUnit) {k : Nat} (hpos : k ≠ 0)
    (hlt : k < 4) : s.rungAdvances (s.advanceTags u k) u k := by
  rw [State.advanceTags_eq s u hpos hlt]
  refine ⟨fun j => ?_, fun b hb => State.advanceBlockTags_tag (rungBlocks_nodup u k) (hlen ▸ hb), by simp, by simp⟩
  have hkept : (s.advanceBlockTags (rungBlocks u k)).engineTag j = s.engineTag j := by simp [State.engineTag]
  rw [← hkept]
  exact State.advanceEngines_engineTag (rungEngines_nodup u k) _ j

/-- What leaves the tags alone before and after a rung does not count. -/
theorem State.rungAdvances_of_sameTags {s s' t t' : State} {u : WatchedUnit} {k : Nat} (h : s'.rungAdvances t' u k)
    (hs : s.sameTags s') (ht : t'.sameTags t) : s.rungAdvances t u k := by
  obtain ⟨hengines, hblocks, hregions, hdevice⟩ := h
  refine ⟨fun j => ?_, fun b hb => ?_, ?_, ?_⟩
  · rw [ht.engineTag, hengines, hs.engineTag]
  · rw [ht.block, hblocks b hb, hs.block]
  · rw [ht.tagRegions, hregions, hs.tagRegions]
  · rw [ht.tagDevice, hdevice, hs.tagDevice]

/-- The oldest rung under way completes (R463). -/
theorem exec_resetRungComplete_of_ladder {s : State} {l : Ladder} (hl : s.resil.ladders.find? (fun l => l.rung != 0) = some l) :
    exec .resetRungComplete s = .next
      ((((s.onHang l.record fun h => { h with done := h.done ||| (1#4 <<< (l.rung - 1)) }).advanceTags l.unit l.rung).onResil fun r =>
        { r with ladders := r.ladders.filter fun x => x.record != l.record, passed := r.passed ++ [(l.unit, l.rung)] }).settle) := by
  change execResetRungComplete s = _
  rw [execResetRungComplete, hl]

theorem exec_resetRungComplete_rungAdvances {s : State} {l : Ladder} (hlen : s.blocks.length = 36)
    (hl : s.resil.ladders.find? (fun l => l.rung != 0) = some l) (hlt : l.rung < 4) :
    runs .resetRungComplete s fun t => s.rungAdvances t l.unit l.rung := by
  have hpos : l.rung ≠ 0 := by simpa using List.find?_some hl
  refine ⟨_, exec_resetRungComplete_of_ladder hl, ?_⟩
  have hnoted := s.onHang_sameTags l.record fun h => { h with done := h.done ||| (1#4 <<< (l.rung - 1)) }
  refine State.rungAdvances_of_sameTags (State.advanceTags_rungAdvances (hnoted.blocks ▸ hlen) l.unit hpos hlt) hnoted ?_
  refine State.sameTags.trans ?_ (State.settle_sameTags _)
  exact State.onResil_sameTags _ rfl rfl rfl

/-! ### Rung 4 begins -/

/-- Keys of the engines that are no cells. -/
def nonCellKeys : List Nat :=
  (List.range 4).flatMap regionKeys ++ (List.range 26).map (· + 64) ++ [90, 91, 96, 97, 98] ++ (List.range 7).map (· + 112)

theorem engineKeys_eq : engineKeys = nonCellKeys ++ (List.range 612).map (· + 8192) := rfl

theorem nonCellKeys_lt : ∀ k ∈ nonCellKeys, k < 8192 := by decide

theorem engineKeys_nodup : engineKeys.Nodup := by
  rw [engineKeys_eq]
  refine List.nodup_append'.2 ⟨by decide, List.nodup_range.map fun _ _ h => by simpa using h, fun k hk hcell => ?_⟩
  obtain ⟨c, -, rfl⟩ := List.mem_map.1 hcell
  have := nonCellKeys_lt _ hk
  omega

/-- Blocks that take their tag by their number read it back. -/
theorem getD_zipIdx_map_tag (bs : List BlockState) (f : Nat → BitVec 8) (d : BlockState) {b : Nat} (hb : b < bs.length) :
    ((bs.zipIdx.map fun x => { x.1 with tag := f x.2 }).getD b d).tag = f b := by simp [hb]

theorem State.resetDevice_engineTag (s : State) {k : Nat} (hk : k ∈ engineKeys) : s.resetDevice.engineTag k = s.engineTag k + 1 := by
  rw [State.resetDevice, State.advanceEngines_engineTag engineKeys_nodup, if_pos hk]
  rfl

theorem State.resetDevice_tag (s : State) {b : Nat} (hb : b < 36) : (s.resetDevice.block b).tag = (s.block b).tag + 1 :=
  getD_zipIdx_map_tag State.reset.blocks (fun i => (s.block i).tag + 1) _ hb

theorem State.beginRung_of_four_le (s : State) (l : Ladder) {k : Nat} (hk : 4 ≤ k) :
    s.beginRung l k = (s.onHang l.record fun h => { h with rungs := h.rungs + 1 }).resetDevice := by
  rw [State.beginRung, if_pos hk]

/-- All tags of a device advance by one from one state to another. -/
def State.allTagsAdvance (s t : State) : Prop :=
  (∀ k ∈ engineKeys, t.engineTag k = s.engineTag k + 1) ∧ (∀ b, b < 36 → (t.block b).tag = (s.block b).tag + 1) ∧
    t.resil.tagRegions = s.resil.tagRegions.map (· + 1) ∧ t.resil.tagDevice = s.resil.tagDevice + 1

theorem State.resetDevice_allTagsAdvance (s : State) : s.allTagsAdvance s.resetDevice :=
  ⟨fun _ hk => s.resetDevice_engineTag hk, fun _ hb => s.resetDevice_tag hb, rfl, rfl⟩

theorem State.allTagsAdvance_of_sameTags {s s' t : State} (h : s'.allTagsAdvance t) (hs : s.sameTags s') : s.allTagsAdvance t := by
  obtain ⟨hengines, hblocks, hregions, hdevice⟩ := h
  refine ⟨fun k hk => ?_, fun b hb => ?_, ?_, ?_⟩
  · rw [hengines k hk, hs.engineTag]
  · rw [hblocks b hb, hs.block]
  · rw [hregions, hs.tagRegions]
  · rw [hdevice, hs.tagDevice]

/-- The oldest rung under way times out: 0x116, and the next one begins (R463). -/
theorem exec_resetRungTimeout_of_ladder {s : State} {l : Ladder} (hl : s.resil.ladders.find? (fun l => l.rung != 0) = some l) :
    exec .resetRungTimeout s = .next ((s.logDevice 0x116 (s.nameUnit l.unit) 0 0).beginRung l (nextRung l.unit l.rung)) := by
  change execResetRungTimeout s = _
  rw [execResetRungTimeout, hl]

/-- Where rung 4 is next, the whole device's tags advance. -/
theorem exec_resetRungTimeout_allTagsAdvance {s : State} {l : Ladder}
    (hl : s.resil.ladders.find? (fun l => l.rung != 0) = some l) (hnext : 4 ≤ nextRung l.unit l.rung) :
    runs .resetRungTimeout s s.allTagsAdvance := by
  refine ⟨_, exec_resetRungTimeout_of_ladder hl, ?_⟩
  rw [State.beginRung_of_four_le _ _ hnext]
  exact State.allTagsAdvance_of_sameTags (State.resetDevice_allTagsAdvance _)
    ((State.logDevice_sameTags ..).trans (State.onHang_sameTags ..))

/-! ### Stale replies -/

/-- A read's reply of an older generation counts as stale and does nothing else (R32). -/
theorem exec_memData_of_stale {s : State} {src : Coord} {tag gen : BitVec 8} (code : BitVec 12) (poison : Word) (data : List Flit)
    (h : gen ≠ s.engineTag (s.memIssuer src tag true)) :
    exec (.memData src tag code gen poison data) s = .next (s.onResil fun r => { r with stale := r.stale + 1 }) := by
  change execMemData src tag code gen poison data s = _
  rw [execMemData, if_pos h]

theorem exec_memAck_of_stale {s : State} {src : Coord} {tag gen : BitVec 8} (code : BitVec 12)
    (h : gen ≠ s.engineTag (s.memIssuer src tag false)) :
    exec (.memAck src tag code gen) s = .next (s.onResil fun r => { r with stale := r.stale + 1 }) := by
  change execMemAck src tag code gen s = _
  rw [execMemAck, if_pos h]

theorem State.onResil_onlyIn (s : State) (f : ResilState → ResilState) : s.onlyIn (s.onResil f) [.resil] :=
  (State.onResil_within (State.within_refl s [.resil]) (List.Subset.refl _)).1

/-- Settles O54: a rung below 4 advances the tags of its domain as it completes, rung 4 the whole device's as it begins, and a
reply whose tag is not its issuer's is counted before anything else is read of it. -/
theorem rungTags : Obligations.RungTags := by
  intro s hlen _
  refine ⟨fun l hl => ⟨fun hlt => exec_resetRungComplete_rungAdvances hlen hl hlt,
    fun hnext => exec_resetRungTimeout_allTagsAdvance hl hnext⟩, ?_⟩
  rintro src tag code gen poison data c (⟨rfl, hstale⟩ | ⟨rfl, hstale⟩)
  · exact ⟨_, exec_memAck_of_stale code hstale, rfl, s.onResil_onlyIn _⟩
  · exact ⟨_, exec_memData_of_stale code poison data hstale, rfl, s.onResil_onlyIn _⟩

end Sys2Proof.Machine
end

section
/-! PROOFS. A host write to status space (R456, R506): a request without a fault is answered by its action, the line at 0x80 gives its
first 8 bytes to RESTORE_CTL, and both commands of such a write are one request. -/

namespace Sys2Proof.Machine

/-! ### Requests and completions without a fault (R437, R439) -/

theorem hkHeaderFaults_eq_nil {h : HkHeader} {flits : Nat} (hh : cleanHeader h flits) : hkHeaderFaults h false true false = [] := by
  obtain ⟨hgen, hrsv13, hrsv23, hcode, hrsv44, hrest, -, -⟩ := hh
  rw [hkHeaderFaults, hgen, hrsv13, hrsv23, hcode, hrsv44, hrest]
  rfl

/-- A request without a fault is answered by its action. -/
theorem State.request_of_clean {s : State} {h : HkHeader} {flits : Nat} {fs : List (Nat × Nat)} (hs : s.hostReady h.tag)
    (hh : cleanHeader h flits) (hfs : fs = []) (inRefusal : Bool) (act : State → State) : s.request h inRefusal true fs act = act s := by
  obtain ⟨hport, hbegun, hstart, hrefused, htag⟩ := hs
  have hup : s.hkUp = true := by simp [State.hkUp, hport, hbegun, hstart]
  have hlen : ¬ h.flits.toNat > 64 := by
    obtain ⟨-, -, -, -, -, -, heq, hle⟩ := hh
    omega
  have hfault : hkHeaderFaults h (s.tagBusy h.tag) true (s.start.refused && !inRefusal) ++ fs = [] := by
    rw [htag, hrefused, Bool.false_and, hkHeaderFaults_eq_nil hh, hfs, List.append_nil]
  simp [State.request, hup, hlen, hfault, firstFault, leastBy]

theorem State.sendCompletion_nil (s : State) (tag : BitVec 8) {code : Nat} (hcode : code < 2 ^ 12) :
    s.sendCompletion tag code 0 [] = s.sendPacket 6 (completionPacket tag code) := by
  have hpack : pack [(1, 4), (0x3F, 6), (0, 3), (0, 3), (0, 7), (0, 1), (tag.toNat, 8), (code, 12), (0, 20), (0, 64)] =
      1 + 0x3F * 2 ^ 4 + tag.toNat * 2 ^ 24 + code * 2 ^ 32 := by
    have htag := tag.isLt
    simp only [pack]
    omega
  rw [completionPacket, ← hpack]
  rfl

/-- Completion 0x000 counts no error. -/
theorem State.complete_zero (s : State) (h : HkHeader) : s.complete h 0 = s.sendPacket 6 (completionPacket h.tag 0) := by
  rw [State.complete, State.sendCompletion_nil s h.tag (by decide)]
  rfl

theorem State.complete_zero_onlyIn {s t : State} {L : List Part} (ht : s.within L t) (hL : [.links] ⊆ L) (h : HkHeader) :
    s.onlyIn (t.complete h 0) L := by
  rw [State.complete_zero]
  exact (State.sendPacket_within ht hL).1

/-- A completion with 0x000 answers the request, whatever happened before outside the links. -/
theorem State.complete_zero_answered {s t : State} (hlinks : t.links = s.links) (h : HkHeader) :
    s.answered (t.complete h 0) h.tag 0 := by
  rw [State.answered, State.complete_zero, State.sendPacket, State.sendPacket, State.onPort_links, State.onPort_links, hlinks]

/-! ### RESTORE_CTL in a write's lines (R506) -/

theorem ctlOf_eq_none {a : Nat} {data : List Flit} (h : ∀ i < data.length, field a 0 48 + 64 * i ≠ ctlLine) : ctlOf a data = none := by
  have hfind : data.zipIdx.find? (fun f => field a 0 48 + 64 * f.2 == ctlLine) = none := by
    refine List.find?_eq_none.2 fun f hf => ?_
    simpa using h f.2 (List.snd_lt_of_mem_zipIdx hf)
  rw [ctlOf, hfind, Option.map_none]

/-- Lines lie 64 bytes apart, so at most one of them is RESTORE_CTL's. -/
theorem ctlOf_eq_some {a i : Nat} {data : List Flit} {v : Flit} (hv : data[i]? = some v) (hi : field a 0 48 + 64 * i = ctlLine) :
    ctlOf a data = some (v.toNat % 2 ^ 64) := by
  have hmem : (v, i) ∈ data.zipIdx := List.mem_zipIdx_iff_getElem?.2 hv
  cases hfind : data.zipIdx.find? fun f => field a 0 48 + 64 * f.2 == ctlLine with
  | none => exact absurd hi (by simpa using List.find?_eq_none.1 hfind _ hmem)
  | some f =>
    have hline : field a 0 48 + 64 * f.2 = ctlLine := by simpa using List.find?_some hfind
    have hf : data[f.2]? = some f.1 := List.mem_zipIdx_iff_getElem?.1 (List.mem_of_find?_eq_some hfind)
    have hsame : f.2 = i := by omega
    rw [hsame, hv, Option.some.injEq] at hf
    rw [ctlOf, hfind, Option.map_some, hf]

theorem testBit_mod_two_pow_of_lt {v i n : Nat} (h : i < n) : (v % 2 ^ n).testBit i = v.testBit i := by
  rw [Nat.testBit_mod_two_pow, decide_eq_true h, Bool.true_and]

/-- A field below bit `n` is in the low `n` bits. -/
theorem field_mod_two_pow {v lo w n : Nat} (h : lo + w ≤ n) : field (v % 2 ^ n) lo w = field v lo w := by
  refine Nat.eq_of_testBit_eq fun i => ?_
  by_cases hi : i < w
  · simp [field, hi, testBit_mod_two_pow_of_lt (by omega : lo + i < n)]
  · simp [field, hi]

theorem State.ctlFaults_eq_nil {s : State} {v : Nat} (hrun : s.run.run = 1 ∨ s.run.run = 4) (hsource : field v 0 2 ≠ 3)
    (hset : field v 4 2 ≠ 3) : s.ctlFaults v = [] := by
  obtain hrun | hrun := hrun <;> simp [State.ctlFaults, faultIf, hrun, hsource, hset]

/-- The fields of RESTORE_CTL take the value written. -/
def RestoreState.withCtl (r : RestoreState) (v : Nat) : RestoreState :=
  { r with ctlSource := BitVec.ofNat 2 (field v 0 2), ctlRejoin := v.testBit 2, ctlSet := BitVec.ofNat 2 (field v 4 2)
           ctlStep := BitVec.ofNat 48 (field v 16 48) }

theorem RestoreState.withCtl_mod (r : RestoreState) (v : Nat) : r.withCtl (v % 2 ^ 64) = r.withCtl v := by
  rw [RestoreState.withCtl, RestoreState.withCtl, testBit_mod_two_pow_of_lt (by decide : 2 < 64),
    field_mod_two_pow (by decide : 0 + 2 ≤ 64), field_mod_two_pow (by decide : 4 + 2 ≤ 64),
    field_mod_two_pow (by decide : 16 + 48 ≤ 64)]

/-- Without go, a write of RESTORE_CTL begins no restore. -/
theorem State.writeCtl_of_not_go {s : State} {v : Nat} (hgo : v.testBit 3 = false) : s.writeCtl v = s.onRestore (·.withCtl v) := by
  rw [State.writeCtl, hgo]
  rfl

/-- The whole effect of such a write, answered. -/
theorem State.writeCtl_complete_of_not_go (s : State) (h : HkHeader) {v : Nat} (hgo : v.testBit 3 = false) :
    let t := (s.writeCtl (v % 2 ^ 64)).complete h 0
    t.resil = { s.resil with restore := s.resil.restore.withCtl v } ∧ s.answered t h.tag 0 ∧ s.onlyIn t [.resil, .links] := by
  have hlow : (v % 2 ^ 64).testBit 3 = false := by rw [testBit_mod_two_pow_of_lt (by decide), hgo]
  simp only [State.writeCtl_of_not_go hlow, RestoreState.withCtl_mod]
  refine ⟨?_, State.complete_zero_answered (State.onRestore_links ..) h,
    State.complete_zero_onlyIn (State.onRestore_within (State.within_refl ..) (by simp)) (by simp) h⟩
  rw [State.complete_zero, State.sendPacket, State.onPort_resil, State.onRestore_resil]

/-! ### The request of both commands -/

/-- A host write to status space as a request. -/
def State.statusRequest (s : State) (h : HkHeader) (addr : Word) (data : List Flit) : State :=
  s.request h false (decide (1 ≤ data.length) && data.length == h.flits.toNat)
    (s.hkAddrFaults addr data.length ++ s.statusWriteFaults addr.toNat data) fun s => (s.writeStatus addr.toNat data).complete h 0

/-- Commands that act at tier 0x5 as that request. -/
def asksStatus (w : HkHeader → Word → List Flit → Instr) : Prop :=
  ∀ s h addr data, field addr.toNat 48 4 = 5 → exec (w h addr data) s = .next (s.statusRequest h addr data)

theorem statusSpaceWrite_asksStatus : asksStatus Instr.statusSpaceWrite := by
  intro s h addr data htier
  change execStatusSpaceWrite h addr data s = _
  rw [execStatusSpaceWrite, if_neg (not_not.2 htier)]
  rfl

theorem write_asksStatus : asksStatus Instr.write := by
  intro s h addr data htier
  change execWrite h addr data s = _
  simp only [execWrite, State.writeRequest, State.statusRequest, htier, if_true]

/-- Only RESTORE_CTL's first 8 bytes count of a write's data, and how many lines it has. -/
theorem State.statusRequest_congr (s : State) (h : HkHeader) {addr : Word} {data data' : List Flit} (hlen : data'.length = data.length)
    (hctl : ctlOf addr.toNat data' = ctlOf addr.toNat data) : s.statusRequest h addr data' = s.statusRequest h addr data := by
  simp only [State.statusRequest, State.statusWriteFaults, State.writeStatus, hlen, hctl]

section
variable {s : State} {h : HkHeader} {addr : Word} {data : List Flit} (hs : s.hostReady h.tag) (hh : cleanHeader h data.length)
  (hdata : data ≠ []) (haddr : s.hkAddrFaults addr data.length = [])
include hs hh hdata haddr

theorem State.statusRequest_of_clean (hctl : s.statusWriteFaults addr.toNat data = []) :
    s.statusRequest h addr data = (s.writeStatus addr.toNat data).complete h 0 := by
  have hflits : (decide (1 ≤ data.length) && data.length == h.flits.toNat) = true := by
    obtain ⟨-, -, -, -, -, -, heq, -⟩ := hh
    simp [heq, Nat.one_le_iff_ne_zero, hdata]
  rw [State.statusRequest, hflits]
  exact State.request_of_clean hs hh (by rw [haddr, hctl, List.nil_append]) ..

/-- A write that misses RESTORE_CTL is answered and does nothing. -/
theorem State.statusRequest_of_ctlOf_none (hctl : ctlOf addr.toNat data = none) : s.statusRequest h addr data = s.complete h 0 := by
  rw [State.statusRequest_of_clean hs hh hdata haddr (by rw [State.statusWriteFaults, hctl, Option.elim_none]), State.writeStatus, hctl,
    Option.elim_none]

/-- A write that RESTORE_CTL takes is answered after its effect. -/
theorem State.statusRequest_of_ctlOf_some {v : Nat} (hctl : ctlOf addr.toNat data = some v) (hv : s.ctlFaults v = []) :
    s.statusRequest h addr data = (s.writeCtl v).complete h 0 := by
  rw [State.statusRequest_of_clean hs hh hdata haddr (by rw [State.statusWriteFaults, hctl, Option.elim_some, hv]), State.writeStatus, hctl,
    Option.elim_some]

end

/-- Settles O12: both commands are one request at tier 0x5, whose data counts through `ctlOf` alone. -/
theorem statusSpaceWrites : Obligations.StatusSpaceWrites := by
  unfold Obligations.StatusSpaceWrites
  intro obeys
  have key (w) (hw : asksStatus w) : obeys w := by
    intro s h addr data hs hh hdata htier haddr
    refine ⟨fun hmiss => ?_, fun i v hv hi => ⟨fun data' hlen hdata' => ?_, fun hrun hsource hset => ?_⟩⟩
    · refine ⟨_, hw s h addr data htier, ?_⟩
      rw [State.statusRequest_of_ctlOf_none hs hh hdata haddr (ctlOf_eq_none hmiss)]
      exact ⟨State.complete_zero_answered rfl h, State.complete_zero_onlyIn (State.within_refl ..) (List.Subset.refl _) h⟩
    · obtain ⟨v', hv', hlow⟩ := Option.map_eq_some_iff.1 hdata'
      rw [hw s h addr data' htier, hw s h addr data htier,
        State.statusRequest_congr s h hlen (by rw [ctlOf_eq_some hv' hi, ctlOf_eq_some hv hi, hlow])]
    · have hclean : s.ctlFaults (v.toNat % 2 ^ 64) = [] :=
        State.ctlFaults_eq_nil hrun (by rwa [field_mod_two_pow (by decide)]) (by rwa [field_mod_two_pow (by decide)])
      have hexec : exec (w h addr data) s = .next ((s.writeCtl (v.toNat % 2 ^ 64)).complete h 0) := by
        rw [hw s h addr data htier, State.statusRequest_of_ctlOf_some hs hh hdata haddr (ctlOf_eq_some hv hi) hclean]
      exact ⟨⟨_, hexec, rfl⟩, fun hgo => ⟨_, hexec, s.writeCtl_complete_of_not_go h hgo⟩⟩
  exact ⟨key _ statusSpaceWrite_asksStatus, key _ write_asksStatus⟩

end Sys2Proof.Machine
end

section
/-! PROOFS. What every command keeps: each of the 145 commands answers a next state that differs only in the parts listed for it, and
memory stays in its canonical form. -/

namespace Sys2Proof.Machine

set_option Elab.async false

/-! ### A frame read part by part -/

section
variable {s t : State} {L : List Part} (h : s.within L t)
include h

theorem State.within.pending (hp : .pending ∉ L) : t.pending = s.pending := h.1 .pending hp
theorem State.within.draws (hp : .draws ∉ L) : t.draws = s.draws := h.1 .draws hp
theorem State.within.power (hp : .power ∉ L) : t.power = s.power := h.1 .power hp
theorem State.within.flash (hp : .flash ∉ L) : t.flash = s.flash := h.1 .flash hp
theorem State.within.start (hp : .start ∉ L) : t.start = s.start := h.1 .start hp
theorem State.within.staging (hp : .staging ∉ L) : t.staging = s.staging := h.1 .staging hp
theorem State.within.cfg (hp : .cfg ∉ L) : t.cfg = s.cfg := h.1 .cfg hp
theorem State.within.dial (hp : .dial ∉ L) : t.dial = s.dial := h.1 .dial hp
theorem State.within.logs (hp : .logs ∉ L) : t.logs = s.logs := h.1 .logs hp
theorem State.within.run (hp : .run ∉ L) : t.run = s.run := h.1 .run hp
theorem State.within.mbs (hp : .mbs ∉ L) : t.mbs = s.mbs := h.1 .mbs hp
theorem State.within.sched (hp : .sched ∉ L) : t.sched = s.sched := h.1 .sched hp
theorem State.within.cores (hp : .cores ∉ L) : t.cores = s.cores := h.1 .cores hp
theorem State.within.memory (hp : .memory ∉ L) : t.memory = s.memory := h.1 .memory hp
theorem State.within.tables (hp : .tables ∉ L) : t.tables = s.tables := h.1 .tables hp
theorem State.within.cursors (hp : .cursors ∉ L) : t.cursors = s.cursors := h.1 .cursors hp
theorem State.within.rambler (hp : .rambler ∉ L) : t.rambler = s.rambler := h.1 .rambler hp
theorem State.within.gather (hp : .gather ∉ L) : t.gather = s.gather := h.1 .gather hp
theorem State.within.train (hp : .train ∉ L) : t.train = s.train := h.1 .train hp
theorem State.within.blocks (hp : .blocks ∉ L) : t.blocks = s.blocks := h.1 .blocks hp
theorem State.within.cascade (hp : .cascade ∉ L) : t.cascade = s.cascade := h.1 .cascade hp
theorem State.within.links (hp : .links ∉ L) : t.links = s.links := h.1 .links hp
theorem State.within.resil (hp : .resil ∉ L) : t.resil = s.resil := h.1 .resil hp
theorem State.within.mem (hp : .bytes ∉ L) : t.memory.mem = s.memory.mem := h.1 .bytes hp

end

/-- Every command answers a next state, within the parts listed for it: the frame of each command's meaning. -/
theorem exec_within (c : Instr) (s : State) : ∃ t, exec c s = .next t ∧ s.within (changedBy c) t := by
  cases c with
  | vinRise _ => exact execVinRise_within (Part.covers_mem rfl)
  | enRise => exact execEnRise_within (Part.covers_mem rfl)
  | baseDomainsGood => exact execBaseDomainsGood_within (Part.covers_mem rfl)
  | enFall => exact execEnFall_within (Part.covers_mem rfl)
  | externalReset => exact execExternalReset_within (Part.covers_mem rfl)
  | resetNRise => exact execResetNRise_within (Part.covers_mem rfl)
  | inputFault _ => exact execInputFault_within (Part.covers_mem rfl)
  | inputReturn => exact execInputReturn_within (Part.covers_mem rfl)
  | refclkFault => exact execRefclkFault_within (Part.covers_mem rfl)
  | temperatureThreshold _ _ => exact execTemperatureThreshold_within (Part.covers_mem rfl)
  | avsSample _ _ => exact execAvsSample_within (Part.covers_mem rfl)
  | clockStretch _ _ => exact execClockStretch_within (Part.covers_mem rfl)
  | telemetrySample _ _ _ _ => exact execTelemetrySample_within (Part.covers_mem rfl)
  | identity _ => exact execIdentity_within (Part.covers_mem rfl)
  | state _ => exact execState_within (Part.covers_mem rfl)
  | power _ => exact execPower_within (Part.covers_mem rfl)
  | thermal _ => exact execThermal_within (Part.covers_mem rfl)
  | statusAddr _ _ => exact execStatusAddr_within (Part.covers_mem rfl)
  | statusRead _ => exact execStatusRead_within (Part.covers_mem rfl)
  | journalAddr _ _ => exact execJournalAddr_within (Part.covers_mem rfl)
  | journalRead _ => exact execJournalRead_within (Part.covers_mem rfl)
  | alertClear _ => exact execAlertClear_within (Part.covers_mem rfl)
  | estop _ _ => exact execEstop_within (Part.covers_mem rfl)
  | tapReset => exact execTapReset_within (Part.covers_mem rfl)
  | bypass => exact execBypass_within (Part.covers_mem rfl)
  | idcode => exact execIdcode_within (Part.covers_mem rfl)
  | samplePreload => exact execSamplePreload_within (Part.covers_mem rfl)
  | extest => exact execExtest_within (Part.covers_mem rfl)
  | extestPulse => exact execExtestPulse_within (Part.covers_mem rfl)
  | extestTrain => exact execExtestTrain_within (Part.covers_mem rfl)
  | clamp => exact execClamp_within (Part.covers_mem rfl)
  | highz => exact execHighz_within (Part.covers_mem rfl)
  | startSequence _ => exact execStartSequence_within (Part.covers_mem rfl)
  | startRestart => exact execStartRestart_within (Part.covers_mem rfl)
  | stageOpen _ => exact execStageOpen_within (Part.covers_mem rfl)
  | stageWrite _ _ _ => exact execStageWrite_within (Part.covers_mem rfl)
  | stageCommit _ => exact execStageCommit_within (Part.covers_mem rfl)
  | stageCommitDone => exact execStageCommitDone_within (Part.covers_mem rfl)
  | stageDiscard _ => exact execStageDiscard_within (Part.covers_mem rfl)
  | select _ _ => exact execSelect_within (Part.covers_mem rfl)
  | start _ _ => exact execStart_within (Part.covers_mem rfl)
  | pause _ _ => exact execPause_within (Part.covers_mem rfl)
  | stop _ _ => exact execStop_within (Part.covers_mem rfl)
  | eval _ _ => exact execEval_within (Part.covers_mem rfl)
  | ckpt _ _ => exact execCkpt_within (Part.covers_mem rfl)
  | write _ _ _ => exact execWrite_within (Part.covers_mem rfl)
  | read _ _ _ _ => exact execRead_within (Part.covers_mem rfl)
  | attest _ _ => exact execAttest_within (Part.covers_mem rfl)
  | ckptData _ _ _ _ => exact execCkptData_within (Part.covers_mem rfl)
  | ckptAck _ _ _ => exact execCkptAck_within (Part.covers_mem rfl)
  | restore _ _ _ _ => exact execRestore_within (Part.covers_mem rfl)
  | rejoin _ _ _ _ => exact execRejoin_within (Part.covers_mem rfl)
  | statusSpaceWrite _ _ _ => exact execStatusSpaceWrite_within (Part.covers_mem rfl)
  | dialAdvance _ => exact execDialAdvance_within (Part.covers_mem rfl)
  | stepBoundary _ => exact execStepBoundary_within (Part.covers_mem rfl)
  | beat _ _ => exact execBeat_within (Part.covers_mem rfl)
  | beatLost => exact execBeatLost_within (Part.covers_mem rfl)
  | rootTakeover => exact execRootTakeover_within (Part.covers_mem rfl)
  | stretchRequest _ _ _ => exact execStretchRequest_within (Part.covers_mem rfl)
  | slackReport _ _ _ => exact execSlackReport_within (Part.covers_mem rfl)
  | reshardCompletionReport _ _ => exact execReshardCompletionReport_within (Part.covers_mem rfl)
  | syncInEdge _ => exact execSyncInEdge_within (Part.covers_mem rfl)
  | syncInLost => exact execSyncInLost_within (Part.covers_mem rfl)
  | dispatch _ _ => exact execDispatch_within (Part.covers_mem rfl)
  | instanceComplete _ => exact execInstanceComplete_within (Part.covers_mem rfl)
  | contextTimeout _ => exact execContextTimeout_within (Part.covers_mem rfl)
  | sample _ _ => exact execSample_within (Part.covers_mem rfl)
  | gather _ _ => exact execGather_within (Part.covers_mem rfl)
  | aggregate _ _ _ => exact execAggregate_within (Part.covers_mem rfl)
  | transform _ => exact execTransform_within (Part.covers_mem rfl)
  | activate _ => exact execActivate_within (Part.covers_mem rfl)
  | normalise _ => exact execNormalise_within (Part.covers_mem rfl)
  | loss _ => exact execLoss_within (Part.covers_mem rfl)
  | optimize _ _ => exact execOptimize_within (Part.covers_mem rfl)
  | reduce _ => exact execReduce_within (Part.covers_mem rfl)
  | spout _ _ _ => exact execSpout_within (Part.covers_mem rfl)
  | spoutBudget _ => exact execSpoutBudget_within (Part.covers_mem rfl)
  | fill _ => exact execFill_within (Part.covers_mem rfl)
  | tableSwitch _ => exact execTableSwitch_within (Part.covers_mem rfl)
  | intake _ => exact execIntake_within (Part.covers_mem rfl)
  | transformBackward _ => exact execTransformBackward_within (Part.covers_mem rfl)
  | spoutPoolBackward _ => exact execSpoutPoolBackward_within (Part.covers_mem rfl)
  | trailReturn _ => exact execTrailReturn_within (Part.covers_mem rfl)
  | returnSweep => exact execReturnSweep_within (Part.covers_mem rfl)
  | microBatchCommit _ => exact execMicroBatchCommit_within (Part.covers_mem rfl)
  | stashEntry _ _ _ _ => exact execStashEntry_within (Part.covers_mem rfl)
  | chunkIssue _ _ _ _ _ => exact execChunkIssue_within (Part.covers_mem rfl)
  | swap _ _ _ => exact execSwap_within (Part.covers_mem rfl)
  | basinDrain _ _ _ _ => exact execBasinDrain_within (Part.covers_mem rfl)
  | rillBeat _ _ _ => exact execRillBeat_within (Part.covers_mem rfl)
  | rowReq _ _ _ => exact execRowReq_within (Part.covers_mem rfl)
  | rowReply _ _ _ _ => exact execRowReply_within (Part.covers_mem rfl)
  | gatherTimeout _ => exact execGatherTimeout_within (Part.covers_mem rfl)
  | shardMapReload _ _ => exact execShardMapReload_within (Part.covers_mem rfl)
  | migrationCopyComplete _ _ => exact execMigrationCopyComplete_within (Part.covers_mem rfl)
  | reshardHoldEnd => exact execReshardHoldEnd_within (Part.covers_mem rfl)
  | reshardMoveComplete => exact execReshardMoveComplete_within (Part.covers_mem rfl)
  | cascade _ _ _ _ => exact execCascade_within (Part.covers_mem rfl)
  | presence _ _ _ _ _ => exact execPresence_within (_engine := false) (Part.covers_mem rfl)
  | cascadeNeighbourLost _ _ => exact execCascadeNeighbourLost_within (Part.covers_mem rfl)
  | notice _ _ _ _ _ _ _ => exact execNotice_within (Part.covers_mem rfl)
  | cascadeRestart _ => exact execCascadeRestart_within (Part.covers_mem rfl)
  | memoryRead _ _ _ => exact execMemoryRead_within (Part.covers_mem rfl)
  | memoryWrite _ _ _ _ => exact execMemoryWrite_within (Part.covers_mem rfl)
  | fabricGrant _ _ _ _ => exact execFabricGrant_within (Part.covers_mem rfl)
  | regulatorWindow => exact execRegulatorWindow_within (Part.covers_mem rfl)
  | ceLogUpdate _ _ _ _ => exact execCeLogUpdate_within (Part.covers_mem rfl)
  | ceLogUpdateDropped _ _ => exact execCeLogUpdateDropped_within (Part.covers_mem rfl)
  | ceBucketLeak => exact execCeBucketLeak_within (Part.covers_mem rfl)
  | scrubTick => exact execScrubTick_within (Part.covers_mem rfl)
  | scrubRead _ _ => exact execScrubRead_within (Part.covers_mem rfl)
  | codewordReceive _ _ _ _ _ => exact execCodewordReceive_within (Part.covers_mem rfl)
  | linkCtl _ _ _ _ => exact execLinkCtl_within (Part.covers_mem rfl)
  | replayAckTimeout _ => exact execReplayAckTimeout_within (Part.covers_mem rfl)
  | fastRetrainDone _ _ => exact execFastRetrainDone_within (Part.covers_mem rfl)
  | laneLossOfLock _ _ => exact execLaneLossOfLock_within (Part.covers_mem rfl)
  | negotiate _ _ => exact execNegotiate_within (Part.covers_mem rfl)
  | calibrate _ _ _ _ _ => exact execCalibrate_within (Part.covers_mem rfl)
  | laneMap _ _ _ _ => exact execLaneMap_within (Part.covers_mem rfl)
  | memWrite _ _ _ _ => exact execMemWrite_within (Part.covers_mem rfl)
  | memRead _ _ _ _ => exact execMemRead_within (Part.covers_mem rfl)
  | memData _ _ _ _ _ _ => exact execMemData_within (Part.covers_mem rfl)
  | memAck _ _ _ _ => exact execMemAck_within (Part.covers_mem rfl)
  | drain _ _ _ _ => exact execDrain_within (Part.covers_mem rfl)
  | drainAck _ _ => exact execDrainAck_within (Part.covers_mem rfl)
  | heartbeat _ => exact execHeartbeat_within (Part.covers_mem rfl)
  | watcherRead _ => exact execWatcherRead_within (Part.covers_mem rfl)
  | takeoverComplete _ => exact execTakeoverComplete_within (Part.covers_mem rfl)
  | checkpointDrain => exact execCheckpointDrain_within (Part.covers_mem rfl)
  | checkpointCopy _ _ => exact execCheckpointCopy_within (Part.covers_mem rfl)
  | nvmeCompletion _ _ => exact execNvmeCompletion_within (Part.covers_mem rfl)
  | nvmeCommandTimeout => exact execNvmeCommandTimeout_within (Part.covers_mem rfl)
  | watchdogExpired _ => exact execWatchdogExpired_within (Part.covers_mem rfl)
  | hangRecordTimeout => exact execHangRecordTimeout_within (Part.covers_mem rfl)
  | resetRungComplete => exact execResetRungComplete_within (Part.covers_mem rfl)
  | resetRungTimeout => exact execResetRungTimeout_within (Part.covers_mem rfl)
  | wearSample _ => exact execWearSample_within (Part.covers_mem rfl)
  | spareSwap => exact execSpareSwap_within (Part.covers_mem rfl)
  | spareSwapComplete _ => exact execSpareSwapComplete_within (Part.covers_mem rfl)
  | refclkReturn => exact execRefclkReturn_within (Part.covers_mem rfl)
  | baseDomainToleranceLost => exact execBaseDomainToleranceLost_within (Part.covers_mem rfl)
  | hangRecordCollected => exact execHangRecordCollected_within (Part.covers_mem rfl)
  | eyeMarginScan _ _ _ => exact execEyeMarginScan_within (Part.covers_mem rfl)
  | codewordTransmit _ => exact execCodewordTransmit_within (Part.covers_mem rfl)
  | flashProgramDone _ _ => exact execFlashProgramDone_within (Part.covers_mem rfl)

theorem within_of_exec {c : Instr} {s t : State} (h : exec c s = .next t) : s.within (changedBy c) t := by
  obtain ⟨u, hu, hw⟩ := exec_within c s
  rw [hu] at h
  cases h
  exact hw

theorem onlyIn_of_exec {c : Instr} {s t : State} (h : exec c s = .next t) : s.onlyIn t (changedBy c) := (within_of_exec h).1

theorem State.onlyIn_mono {s t : State} {L M : List Part} (h : s.onlyIn t L) (hLM : L ⊆ M) : s.onlyIn t M :=
  fun p hp => h p fun hL => hp (hLM hL)

/-- A command takes an effect that its answer has, given that the answer keeps what the command does not name. -/
theorem runs_of {c : Instr} {s : State} {post : State → Prop} (h : ∀ t, exec c s = .next t → s.onlyIn t (changedBy c) → post t) :
    runs c s post := by
  obtain ⟨t, ht, hw⟩ := exec_within c s
  exact ⟨t, ht, h t ht hw.1⟩

/-- No command puts another into the queue or takes one from it. -/
theorem pending_notMem_changedBy (c : Instr) : .pending ∉ changedBy c := by
  cases c <;> simp [changedBy]

/-- Settles O58: the command at the front keeps the form, whatever it is. -/
theorem memoryKept : Obligations.MemoryKept := by
  intro s t hs h
  unfold step at h
  split at h
  · cases h; exact hs
  · exact (within_of_exec h).2 hs

/-- Settles O59: a command's frame leaves the queue out. -/
theorem queueOrder : Obligations.QueueOrder := by
  intro s
  unfold step
  split
  next h => exact ⟨s, rfl, by rw [h]; rfl⟩
  next c rest h =>
    obtain ⟨t, ht, hw⟩ := exec_within c { s with pending := rest }
    exact ⟨t, ht, (hw.1 .pending (pending_notMem_changedBy c) : _ = rest).trans (by rw [h]; rfl)⟩

/-- Settles O56: both parts are the two branches of `step`. -/
theorem stepRunsFront : Obligations.StepRunsFront :=
  ⟨fun _ _ => rfl, fun s hs => by rw [step, hs]⟩

/-- Settles O57. -/
theorem resetState : Obligations.ResetState := by
  unfold Obligations.ResetState
  decide +revert
end Sys2Proof.Machine
end

section
/-! PROOFS. Power: stages of power-up, shutdowns, the removal of the input, the monitors, SMBus and boundary scan. -/

namespace Sys2Proof.Machine

set_option Elab.async false

theorem State.setPower_onlyIn (s : State) (p : PowerState) : s.onlyIn { s with power := p } [.power] := by
  intro q hq
  cases q <;> first | rfl | (simp at hq)

/-! ### Power-up (R476, R480, R482, R494) -/

/-- Stage 2 changes only the stage. -/
theorem State.rampIfEnabled_eq (s : State) : s.rampIfEnabled = { s with power := { s.power with
    stage := if s.power.stage = .housekeeping ∧ s.power.hold = .none ∧ s.power.en = true ∧ s.power.vinOk = true then .ramping
      else s.power.stage } } := by
  rw [State.rampIfEnabled]
  split <;> rfl

/-- Stage 3 changes only the stage and PG_OUT. -/
theorem State.releasePg_power {s : State} (hstage : s.power.stage = .ramping) (hbase : s.power.on.getLsbD 83 = true) :
    s.releasePg.power = { s.power with
      stage := if s.power.refclkOk = true then .good else .ramping, pgOut := s.power.pgOut || s.power.refclkOk } := by
  rw [State.releasePg]
  by_cases h : s.power.refclkOk = true
  · rw [if_pos ⟨hstage, h, hbase⟩, if_pos h, h, Bool.or_true]
  · rw [if_neg (fun hc => h hc.2.1), if_neg h, eq_false_of_ne_true h, Bool.or_false, ← hstage]

/-- With the base domains switched on, the base domain that stage 3 looks at is on. -/
theorem base_getLsbD (on : BitVec 96) : (on ||| domainMask baseDomains).getLsbD 83 = true := by
  rw [BitVec.getLsbD_or, Bool.or_eq_true]
  exact .inr (by decide)

/-- RESET_N rising after a cleared latch begins stage 2 as the other restarts do. -/
theorem exec_resetNRise_of_awaitReset {s : State} (hhold : s.power.hold = .awaitReset) (hvin : s.power.vinOk = true) :
    exec .resetNRise s = .next ({ s with power := { s.power with
      resetN := true, scanDrives := false, tap := if s.power.scanDrives then .bypass else s.power.tap, hold := .none } }).rampIfEnabled := by
  change execResetNRise s = _
  rw [execResetNRise]
  simp only [hhold, hvin, if_true]

/-- Settles O1: each command's effect on the power block, and its frame. -/
theorem powerUpStages : Obligations.PowerUpStages := by
  intro s
  refine ⟨fun strap hoff => runs_of fun t ht hkeep => ?_, runs_of fun t ht hkeep => ?_, fun hramp => runs_of fun t ht hkeep => ?_,
    fun hhk hhold => runs_of fun t ht hkeep => ?_, fun hhk hhold hvin => ?_,
    fun hhk hhold hvin => runs_of fun t ht hkeep => ?_⟩
  · obtain rfl := Host.Outcome.next.inj ht
    refine ⟨?_, ?_, ?_, ?_, hkeep⟩ <;> simp [hoff, State.rampIfEnabled_eq, housekeepingDomain]
  · obtain rfl := Host.Outcome.next.inj ht
    refine ⟨?_, ?_, hkeep⟩ <;> simp [State.rampIfEnabled_eq]
  · obtain rfl := Host.Outcome.next.inj ht
    have hpower := State.releasePg_power (s := { s with power := { s.power with
      on := s.power.on ||| domainMask baseDomains, xspiResetN := true } }) hramp (base_getLsbD s.power.on)
    refine ⟨?_, ?_, ?_, ?_, hkeep⟩ <;> rw [if_pos hramp, hpower]
    rfl
  · obtain rfl := Host.Outcome.next.inj ht
    refine ⟨?_, ?_, ?_, hkeep⟩ <;> simp [hhk, hhold, State.rampIfEnabled_eq]
  · refine ⟨_, exec_resetNRise_of_awaitReset hhold hvin, ?_, ?_, ?_, ?_⟩
    rotate_right
    · rw [State.rampIfEnabled_eq]
      exact State.setPower_onlyIn s _
    all_goals simp [hhk, hvin, State.rampIfEnabled_eq]
  · obtain rfl := Host.Outcome.next.inj ht
    refine ⟨?_, ?_, ?_, hkeep⟩ <;> simp [hhk, hhold, hvin, State.rampIfEnabled_eq]

/-! ### Shutdowns (R476, R482, R483, R494, R498) -/

/-- From `s` to `t` the module shut down to housekeeping: what it held is lost, its flash and the queue stay. -/
def State.shutTo (s t : State) (cause code : Nat) : Prop :=
  t.power.on = s.power.on &&& domainMask [94] ∧ t.power.pgOut = false ∧ t.power.cause = BitVec.ofNat 4 cause ∧
    t.power.code = BitVec.ofNat 12 code ∧ t.start.begun = false ∧ t.start.loaded = false ∧ t.run.run = 0 ∧
    t.flash = s.flash ∧ t.pending = s.pending

theorem State.shutdown_shutTo (s : State) (cause code : Nat) (hold : Hold) : s.shutTo (s.shutdown cause code hold) cause code :=
  ⟨rfl, rfl, rfl, rfl, rfl, rfl, rfl, rfl, rfl⟩

/-- Settles O2: every shutdown is `State.shutdown` with its cause and code; an undervoltage and an external reset have their own. -/
theorem shutdowns : Obligations.Shutdowns := by
  intro s
  refine ⟨fun hgood => ?_, fun hon => ?_, fun hon => ?_, fun hon => ?_, fun hpg => ?_, fun hpg => ?_, fun hon => ?_, fun hpg => ?_,
    fun hpg hhold => runs_of fun t ht hkeep => ?_⟩
  · refine ⟨_, congrArg Host.Outcome.next (if_pos (.inr hgood)), State.shutdown_shutTo _ _ _ _, rfl, rfl⟩
  · exact ⟨_, congrArg Host.Outcome.next (if_neg hon), State.shutdown_shutTo _ _ _ _, rfl⟩
  · exact ⟨_, congrArg Host.Outcome.next (if_neg hon), State.shutdown_shutTo _ _ _ _, rfl⟩
  · exact ⟨_, congrArg Host.Outcome.next (if_neg hon), rfl, rfl, rfl, rfl, rfl, rfl, rfl, rfl, rfl, rfl⟩
  · exact ⟨_, congrArg Host.Outcome.next (if_pos hpg), State.shutdown_shutTo _ _ _ _, rfl, rfl⟩
  · exact ⟨_, congrArg Host.Outcome.next (if_pos hpg), State.shutdown_shutTo s _ _ .none⟩
  · exact ⟨_, congrArg Host.Outcome.next ((if_neg hon).trans (if_pos ⟨rfl, rfl⟩)), State.shutdown_shutTo s 3 0x124 .estop, rfl, rfl, rfl⟩
  · exact ⟨_, congrArg Host.Outcome.next (if_pos hpg), rfl, rfl, hpg, rfl, rfl, rfl, rfl⟩
  · have hexec : exec .externalReset s = .next { s with power := { s.power with resetN := false, estop := false, hold := .awaitReset } } :=
      congrArg Host.Outcome.next ((if_neg (by simp [hpg])).trans (if_pos (by rw [hhold]; rfl)))
    obtain rfl := Host.Outcome.next.inj (hexec.symm.trans ht)
    exact ⟨rfl, rfl, rfl, rfl, State.setPower_onlyIn s _⟩

/-- Settles O55: an undervoltage answers the reset state with the flash, the queue, the pins' levels and the clock's. -/
theorem inputRemoved : Obligations.InputRemoved := by
  intro s hon
  refine ⟨_, congrArg Host.Outcome.next (if_neg hon), fun p hp => ?_, rfl, rfl, rfl, rfl⟩
  cases p <;> first | rfl | (simp at hp)

/-! ### Boundary scan (R500) -/

/-- The TAP loaded an instruction: only it, its register and whether it drives pins changed, and the captures counted. -/
def State.tapLoaded (s t : State) (i : TapInstr) (drives : Bool) : Prop :=
  t.power.tap = i ∧ t.power.scanDrives = drives ∧
    t.power = { s.power with tap := t.power.tap, scanReg := t.power.scanReg, scanDrives := t.power.scanDrives } ∧ s.onlyIn t [.power, .draws]

theorem State.tapLoaded_draw {s t : State} {i : TapInstr} {drives : Bool} (h : s.tapLoaded t i drives) : s.tapLoaded t.draw i drives := by
  obtain ⟨htap, hdrives, hpower, hkeep⟩ := h
  refine ⟨htap, hdrives, hpower, fun p hp => p.same_trans (hkeep p hp) ?_⟩
  cases p <;> first | rfl | (simp at hp)

theorem State.tapLoad_eq {s : State} (hon : s.power.stage ≠ .off) (i : TapInstr) (capture : Nat) :
    s.tapLoad i capture = { s with power := { s.power with tap := i, scanReg := capture, scanDrives := false } } := by
  rw [State.tapLoad, if_neg hon]

theorem State.tapLoad_loaded {s : State} (hon : s.power.stage ≠ .off) (i : TapInstr) (capture : Nat) :
    s.tapLoaded (s.tapLoad i capture) i false := by
  rw [State.tapLoad_eq hon]
  exact ⟨rfl, rfl, rfl, State.onlyIn_mono (State.setPower_onlyIn s _) (by simp)⟩

theorem State.tapDrive_loaded_of_allowed {s : State} (h : s.power.scanAllowed = true) (i : TapInstr) (capture : Nat) :
    s.tapLoaded (s.tapDrive i capture) i true := by
  rw [State.tapDrive, if_pos h]
  exact ⟨rfl, rfl, rfl, State.onlyIn_mono (State.setPower_onlyIn s _) (by simp)⟩

theorem State.tapDrive_loaded_of_not_allowed {s : State} (hon : s.power.stage ≠ .off) (h : s.power.scanAllowed = false) (i : TapInstr)
    (capture : Nat) : s.tapLoaded (s.tapDrive i capture) .bypass false := by
  rw [State.tapDrive, if_neg (by simp [h])]
  exact State.tapLoad_loaded hon _ _

/-- Settles O5: `State.tapLoad` for the instructions that never drive pins, `State.tapDrive` for those that do. -/
theorem boundaryScan : Obligations.BoundaryScan := by
  intro s hon
  refine ⟨?_, ?_, ?_, ?_, fun hreset hpg => ?_, fun h => ?_⟩
  · exact ⟨_, rfl, State.tapLoad_loaded hon _ _⟩
  · exact ⟨_, rfl, State.tapLoad_loaded hon _ _, by rw [State.tapLoad_eq hon]; rfl⟩
  · exact ⟨_, rfl, State.tapLoad_loaded hon _ _, by rw [State.tapLoad_eq hon]; rfl⟩
  · exact ⟨_, rfl, State.tapLoaded_draw (State.tapLoad_loaded hon _ _)⟩
  · have hdrive := State.tapDrive_loaded_of_allowed (s := s) (by simp [PowerState.scanAllowed, hreset, hpg])
    exact ⟨⟨_, rfl, State.tapLoaded_draw (hdrive _ _)⟩, ⟨_, rfl, State.tapLoaded_draw (hdrive _ _)⟩,
      ⟨_, rfl, State.tapLoaded_draw (hdrive _ _)⟩, ⟨_, rfl, hdrive _ _⟩, ⟨_, rfl, hdrive _ _⟩⟩
  · have hload := State.tapDrive_loaded_of_not_allowed hon (by obtain h | h := h <;> simp [PowerState.scanAllowed, h])
    exact ⟨⟨_, rfl, State.tapLoaded_draw (hload _ _)⟩, ⟨_, rfl, State.tapLoaded_draw (hload _ _)⟩,
      ⟨_, rfl, State.tapLoaded_draw (hload _ _)⟩, ⟨_, rfl, hload _ _⟩, ⟨_, rfl, hload _ _⟩⟩
end Sys2Proof.Machine
end

section
/-! PROOFS. The power monitors: temperature, block voltage, clock stretching, telemetry; and the SMBus requests. -/

namespace Sys2Proof.Machine

set_option Elab.async false

theorem modifyAt_eq_set {α : Type} {l : List α} {i : Nat} {a : α} (h : l[i]? = some a) (f : α → α) : modifyAt l i f = l.set i (f a) := by
  rw [modifyAt, List.modify_eq_set_getElem?, h]
  rfl

/-! ### Temperature (R488, R491) -/

/-- Among three levels the highest that a test picks. -/
theorem foldl_max_filter_levels (f : Nat → Bool) :
    ([1, 2, 3].filter f).foldl max 0 = if f 3 then 3 else if f 2 then 2 else if f 1 then 1 else 0 := by
  cases h1 : f 1 <;> cases h2 : f 2 <;> cases h3 : f 3 <;> simp [List.filter, h1, h2, h3]

/-- The power block once a sensor has reported. -/
def PowerState.noteSensor (p : PowerState) (sensor : Sensor) (celsius : BitVec 8) (level : Nat) : PowerState :=
  let q := { p with sensors := ⟨sensor, celsius, level⟩ :: p.sensors.filter fun x => x.sensor != sensor }
  { q with thermN := q.thermLevel,
           alert := if level ≥ 2 ∧ (p.sensorState sensor).level < 2 then true else q.alert && q.sensors.any fun x => x.level ≥ 2 }

/-- A sensor's report in the power block and in its block or slice. -/
def State.noteSensor (s : State) (sensor : Sensor) (celsius : BitVec 8) (level : Nat) : State :=
  ({ s with power := s.power.noteSensor sensor celsius level }).actOnSensor sensor celsius level

/-- The codes that a level newly reached logs. -/
def State.logLevel (s : State) (level old : Nat) : State :=
  let s := if level ≥ 2 ∧ old < 2 ∧ s.start.begun then s.logDevice 0x120 noName 0 0 else s
  if level ≥ 3 ∧ old < 3 ∧ s.start.begun then s.logDevice 0x121 noName 0 0 else s

theorem exec_temperatureThreshold_of_below {s : State} {sensor : Sensor} {celsius : BitVec 8}
    (h : ¬ ((sensorThresholds sensor).getD 3 256 ≤ celsius.toNat ∧ (s.power.stage = .ramping ∨ s.power.stage = .good))) :
    let old := (s.power.sensorState sensor).level
    let level := sensorLevel sensor old celsius.toNat
    exec (.temperatureThreshold sensor celsius) s = .next ((s.noteSensor sensor celsius level).logLevel level old) := by
  refine congrArg Host.Outcome.next (if_neg ?_)
  cases sensor <;> exact h

theorem exec_temperatureThreshold_of_above {s : State} {sensor : Sensor} {celsius : BitVec 8}
    (h : (sensorThresholds sensor).getD 3 256 ≤ celsius.toNat ∧ (s.power.stage = .ramping ∨ s.power.stage = .good)) :
    let old := (s.power.sensorState sensor).level
    let level := sensorLevel sensor old celsius.toNat
    let u := ((s.noteSensor sensor celsius level).logLevel level old).shutdown 2 0x122 .thermal
    exec (.temperatureThreshold sensor celsius) s = .next { u with power := { u.power with thermLatch := true, thermN := false } } := by
  refine congrArg Host.Outcome.next (if_pos ?_)
  cases sensor <;> exact h

theorem State.noteSensor_frame (s : State) (sensor : Sensor) (celsius : BitVec 8) (level : Nat) :
    let t := s.noteSensor sensor celsius level
    let p := s.power.noteSensor sensor celsius level
    t.power.sensors = p.sensors ∧ t.power.thermN = p.thermN ∧ t.power.alert = p.alert ∧ t.logs = s.logs ∧ t.dial = s.dial ∧ t.start = s.start := by
  cases sensor <;> exact ⟨rfl, rfl, rfl, rfl, rfl, rfl⟩

theorem State.noteSensor_onlyIn (s : State) (sensor : Sensor) (celsius : BitVec 8) (level : Nat) :
    s.onlyIn (s.noteSensor sensor celsius level) [.power, .memory] := by
  intro p hp
  cases sensor
  case slice => cases p <;> first | rfl | (simp at hp)
  all_goals exact State.onlyIn_mono (State.setPower_onlyIn s _) (by simp) p hp

theorem State.logLevel_within (s : State) (level old : Nat) : s.within [.logs] (s.logLevel level old) := by
  have hL : [Part.logs] ⊆ [Part.logs] := List.Subset.refl _
  have hfirst : s.within [.logs] (if level ≥ 2 ∧ old < 2 ∧ s.start.begun then s.logDevice 0x120 noName 0 0 else s) :=
    State.within_ite (State.logDevice_within (State.within_refl _ _) hL) (State.within_refl _ _)
  exact State.within_ite (State.logDevice_within hfirst hL) hfirst

/-- A record's content comes from the dial and the logs. -/
theorem State.logDevice_logs_congr {s t : State} (hlogs : t.logs = s.logs) (hdial : t.dial = s.dial) (code : Nat) (who : Named)
    (dropped detail : Nat) : (t.logDevice code who dropped detail).logs = (s.logDevice code who dropped detail).logs := by
  simp only [State.logDevice, State.countError, hlogs, hdial]
  split <;> rfl

theorem State.logDevice_dial (s : State) (code : Nat) (who : Named) (dropped detail : Nat) :
    (s.logDevice code who dropped detail).dial = s.dial :=
  (State.logDevice_within (State.within_refl _ [.logs]) (List.Subset.refl _)).1 .dial (by decide)

theorem State.logDevice_start (s : State) (code : Nat) (who : Named) (dropped detail : Nat) :
    (s.logDevice code who dropped detail).start = s.start :=
  (State.logDevice_within (State.within_refl _ [.logs]) (List.Subset.refl _)).1 .start (by decide)

/-- Two states from which records are written alike. -/
def State.logsAlike (s t : State) : Prop := t.logs = s.logs ∧ t.dial = s.dial ∧ t.start = s.start

theorem State.logsAlike_logDevice_if {s t : State} (h : s.logsAlike t) {c d : Prop} [Decidable c] [Decidable d] (hcd : d ↔ c) (code : Nat) :
    (if c then s.logDevice code noName 0 0 else s).logsAlike (if d then t.logDevice code noName 0 0 else t) := by
  obtain ⟨hlogs, hdial, hstart⟩ := h
  by_cases hc : c
  · rw [if_pos hc, if_pos (hcd.2 hc)]
    exact ⟨State.logDevice_logs_congr hlogs hdial _ _ _ _, by simp only [State.logDevice_dial, hdial], by simp only [State.logDevice_start, hstart]⟩
  · rw [if_neg hc, if_neg (mt hcd.1 hc)]
    exact ⟨hlogs, hdial, hstart⟩

theorem State.logLevel_logs {s t : State} (h : s.logsAlike t) (level old : Nat) :
    let warned := if s.start.begun = true ∧ 2 ≤ level ∧ old < 2 then s.logDevice 0x120 noName 0 0 else s
    (t.logLevel level old).logs = (if s.start.begun = true ∧ 3 ≤ level ∧ old < 3 then warned.logDevice 0x121 noName 0 0 else warned).logs := by
  have hwarned := State.logsAlike_logDevice_if h (c := s.start.begun = true ∧ 2 ≤ level ∧ old < 2)
    (d := level ≥ 2 ∧ old < 2 ∧ t.start.begun) (by rw [h.2.2]; tauto) 0x120
  have hbegun : (if s.start.begun = true ∧ 2 ≤ level ∧ old < 2 then s.logDevice 0x120 noName 0 0 else s).start = s.start := by
    split
    · exact State.logDevice_start _ _ _ _ _
    · rfl
  exact (State.logsAlike_logDevice_if hwarned (by rw [hwarned.2.2, hbegun]; tauto) 0x121).1

theorem PowerState.noteSensor_sensorState_same (p : PowerState) (sensor : Sensor) (celsius : BitVec 8) (level : Nat) :
    (p.noteSensor sensor celsius level).sensorState sensor = ⟨sensor, celsius, level⟩ := by
  simp [PowerState.sensorState, PowerState.noteSensor]

theorem PowerState.noteSensor_sensorState_ne (p : PowerState) {sensor other : Sensor} (h : other ≠ sensor) (celsius : BitVec 8) (level : Nat) :
    (p.noteSensor sensor celsius level).sensorState other = p.sensorState other := by
  have hfind : (p.sensors.filter fun x => x.sensor != sensor).find? (fun x => x.sensor == other) = p.sensors.find? fun x => x.sensor == other := by
    rw [List.find?_filter]
    refine congrArg (List.find? · _) (funext fun x => ?_)
    by_cases hx : x.sensor = other
    · simp [hx, h]
    · simp [hx]
  simp [PowerState.sensorState, PowerState.noteSensor, Ne.symm h, hfind]

theorem PowerState.sensorState_congr {p q : PowerState} (h : p.sensors = q.sensors) (sensor : Sensor) : p.sensorState sensor = q.sensorState sensor := by
  rw [PowerState.sensorState, h, PowerState.sensorState]

/-- What a sensor's report below its limit leaves: the parts of the temperature clause. -/
theorem State.noteSensor_block {s : State} {b : Block} {x : BlockPower} (hx : s.power.blocks[b.val]? = some x) (celsius : BitVec 8) (level : Nat) :
    let t := s.noteSensor (.block b) celsius level
    t.memory = s.memory ∧ t.power.blocks = s.power.blocks.set b.val { x with tj := celsius, throttled := x.on && decide (3 ≤ level) } :=
  ⟨rfl, modifyAt_eq_set hx _⟩

theorem State.noteSensor_slice {s : State} {i : Fin 16} {x : ControllerState} (hx : s.memory.controllers[i.val]? = some x) (celsius : BitVec 8)
    (level : Nat) :
    let t := s.noteSensor (.slice i) celsius level
    t.power.blocks = s.power.blocks ∧
      t.memory = { s.memory with controllers := s.memory.controllers.set i.val { x with refreshDoubled := decide (1 ≤ level) } } :=
  ⟨rfl, congrArg (fun l => { s.memory with controllers := l }) (modifyAt_eq_set hx _)⟩

/-- A report below the limit, or while the device is off: the level noted, its codes logged, its block or slice told. -/
theorem State.noteSensor_logLevel_effect (s : State) (sensor : Sensor) (celsius : BitVec 8) (level : Nat) :
    let old := (s.power.sensorState sensor).level
    let t := (s.noteSensor sensor celsius level).logLevel level old
    let warned := if s.start.begun = true ∧ 2 ≤ level ∧ old < 2 then s.logDevice 0x120 noName 0 0 else s
    t.power.sensorState sensor = ⟨sensor, celsius, level⟩ ∧
    (∀ other, other ≠ sensor → t.power.sensorState other = s.power.sensorState other) ∧
    t.power.thermN = (!s.power.thermLatch && !t.power.sensors.any fun x => decide (3 ≤ x.level)) ∧
    t.power.alert = (decide (2 ≤ level ∧ old < 2) || s.power.alert && t.power.sensors.any fun x => decide (2 ≤ x.level)) ∧
    t.logs = (if s.start.begun = true ∧ 3 ≤ level ∧ old < 3 then warned.logDevice 0x121 noName 0 0 else warned).logs ∧
    (∀ (b : Block) (x : BlockPower), sensor = .block b → s.power.blocks[b.val]? = some x → t.memory = s.memory ∧
      t.power.blocks = s.power.blocks.set b.val { x with tj := celsius, throttled := x.on && decide (3 ≤ level) }) ∧
    (∀ (i : Fin 16) (x : ControllerState), sensor = .slice i → s.memory.controllers[i.val]? = some x → t.power.blocks = s.power.blocks ∧
      t.memory = { s.memory with controllers := s.memory.controllers.set i.val { x with refreshDoubled := decide (1 ≤ level) } }) ∧
    ((sensor = .linkDie ∨ ∃ r, sensor = .fabric r) → t.power.blocks = s.power.blocks ∧ t.memory = s.memory) := by
  intro old t
  have hkeep := ((s.noteSensor sensor celsius level).logLevel_within level old).1
  have hpower : t.power = (s.noteSensor sensor celsius level).power := hkeep .power (by decide)
  have hmem : t.memory = (s.noteSensor sensor celsius level).memory := hkeep .memory (by decide)
  obtain ⟨hsensors, htherm, halert, hlogs, hdial, hstart⟩ := s.noteSensor_frame sensor celsius level
  rw [hpower, hmem]
  refine ⟨?_, fun other hother => ?_, ?_, ?_, State.logLevel_logs ⟨hlogs, hdial, hstart⟩ level old, ?_, ?_, ?_⟩
  · rw [PowerState.sensorState_congr hsensors, PowerState.noteSensor_sensorState_same]
  · rw [PowerState.sensorState_congr hsensors, PowerState.noteSensor_sensorState_ne _ hother]
  · rw [htherm, hsensors]
    exact Bool.not_or _ _
  · rw [halert, hsensors]
    by_cases h : level ≥ 2 ∧ old < 2
    · simp [PowerState.noteSensor, h, old]
    · simp only [PowerState.noteSensor, old] at h ⊢
      rw [if_neg h, decide_eq_false h, Bool.false_or]
  · rintro b x rfl hx
    exact State.noteSensor_block hx celsius level
  · rintro i x rfl hx
    exact State.noteSensor_slice hx celsius level
  · rintro (rfl | ⟨r, rfl⟩) <;> exact ⟨rfl, rfl⟩

theorem sensorLevel_eq (sensor : Sensor) (old celsius : Nat) :
    let reached (l : Nat) : Bool := (sensorThresholds sensor).getD (l - 1) 0 ≤ celsius ||
      (l ≤ old && (sensorThresholds sensor).getD (l - 1) 0 ≤ celsius + 5)
    sensorLevel sensor old celsius = if reached 3 then 3 else if reached 2 then 2 else if reached 1 then 1 else 0 := by
  rw [sensorLevel, foldl_max_filter_levels]
  cases sensor <;> rfl

/-- The temperature clause with the model's own thresholds. -/
theorem temperatureMonitor (s : State) (sensor : Sensor) (celsius : BitVec 8) :
    let old := (s.power.sensorState sensor).level
    let level := sensorLevel sensor old celsius.toNat
    let warned := if s.start.begun = true ∧ 2 ≤ level ∧ old < 2 then s.logDevice 0x120 noName 0 0 else s
    (celsius.toNat < (sensorThresholds sensor).getD 3 256 ∨ s.power.stage = .off ∨ s.power.stage = .housekeeping →
      runs (.temperatureThreshold sensor celsius) s fun t =>
        t.power.sensorState sensor = ⟨sensor, celsius, level⟩ ∧
        (∀ other, other ≠ sensor → t.power.sensorState other = s.power.sensorState other) ∧
        t.power.thermN = (!s.power.thermLatch && !t.power.sensors.any fun x => decide (3 ≤ x.level)) ∧
        t.power.alert = (decide (2 ≤ level ∧ old < 2) || s.power.alert && t.power.sensors.any fun x => decide (2 ≤ x.level)) ∧
        t.logs = (if s.start.begun = true ∧ 3 ≤ level ∧ old < 3 then warned.logDevice 0x121 noName 0 0 else warned).logs ∧
        (∀ (b : Block) (x : BlockPower), sensor = .block b → s.power.blocks[b.val]? = some x → t.memory = s.memory ∧
          t.power.blocks = s.power.blocks.set b.val { x with tj := celsius, throttled := x.on && decide (3 ≤ level) }) ∧
        (∀ (i : Fin 16) (x : ControllerState), sensor = .slice i → s.memory.controllers[i.val]? = some x → t.power.blocks = s.power.blocks ∧
          t.memory = { s.memory with controllers := s.memory.controllers.set i.val { x with refreshDoubled := decide (1 ≤ level) } }) ∧
        ((sensor = .linkDie ∨ ∃ r, sensor = .fabric r) → t.power.blocks = s.power.blocks ∧ t.memory = s.memory) ∧
        s.onlyIn t [.power, .logs, .memory]) ∧
    ((sensorThresholds sensor).getD 3 256 ≤ celsius.toNat → s.power.stage = .ramping ∨ s.power.stage = .good →
      runs (.temperatureThreshold sensor celsius) s fun t =>
        t.power.on = s.power.on &&& domainMask [94] ∧ t.power.pgOut = false ∧ t.power.cause = 2 ∧ t.power.code = 0x122 ∧
        t.power.stage = .housekeeping ∧ t.power.hold = .thermal ∧ t.power.thermN = false ∧ t.start.begun = false ∧ t.start.loaded = false ∧
        t.run.run = 0 ∧ t.flash = s.flash ∧ t.pending = s.pending) := by
  intro old level warned
  have hkeep : s.onlyIn ((s.noteSensor sensor celsius level).logLevel level old) [.power, .logs, .memory] := fun p hp =>
    p.same_trans (s.noteSensor_onlyIn sensor celsius level p (by simp_all)) ((State.logLevel_within _ level old).1 p (by simp_all))
  refine ⟨fun hbelow => ?_, fun habove hstage => ?_⟩
  · have hnot : ¬ ((sensorThresholds sensor).getD 3 256 ≤ celsius.toNat ∧ (s.power.stage = .ramping ∨ s.power.stage = .good)) := by
      rintro ⟨hle, hstage⟩
      obtain hlt | hoff | hhk := hbelow
      · omega
      · simp [hoff] at hstage
      · simp [hhk] at hstage
    obtain ⟨hsame, hother, htherm, halert, hlogs, hblock, hslice, hrest⟩ := s.noteSensor_logLevel_effect sensor celsius level
    exact ⟨_, exec_temperatureThreshold_of_below hnot, hsame, hother, htherm, halert, hlogs, hblock, hslice, hrest, hkeep⟩
  · refine ⟨_, exec_temperatureThreshold_of_above ⟨habove, hstage⟩, ?_, rfl, rfl, rfl, rfl, rfl, rfl, rfl, rfl, rfl,
      hkeep .flash (by decide), hkeep .pending (by decide)⟩
    have hon : ((s.noteSensor sensor celsius level).logLevel level old).power.on = s.power.on := by
      rw [((s.noteSensor sensor celsius level).logLevel_within level old).1 .power (by decide)]
      cases sensor <;> rfl
    exact congrArg (· &&& domainMask [94]) hon

/-! ### Block voltage, clock stretching (R487, R488) -/

theorem State.fence_resil {s : State} {u : Nat} (h : unitClass u = 0 ∨ unitClass u = 1) : (s.fence u).resil = s.resil := by
  obtain h | h := h <;> simp [State.fence, h]

/-- A marked unit waits for its swap or is exhausted. -/
theorem State.markSwap_isMarked (s : State) (kind unit detail code : Nat) : (s.markSwap kind unit detail code).isMarked kind unit detail = true := by
  rw [State.markSwap]
  split
  · assumption
  · dsimp only
    generalize (if kind = 1 then s.fence unit else s) = v
    split
    · simp [State.isMarked]
    · simp [State.isMarked, State.noSpare]

theorem State.logDevice_errorCounts_ne {s : State} {code j : Nat} (h : code ≠ j) (who : Named) (dropped detail : Nat) :
    (s.logDevice code who dropped detail).logs.errorCounts[j]? = s.logs.errorCounts[j]? := State.countError_errorCounts_ne h

theorem State.fence_logs (s : State) (u : Nat) : (s.fence u).logs = s.logs := by
  unfold State.fence
  split <;> rfl

/-- Marking a unit counts no code but 0x119. -/
theorem State.markSwap_errorCounts_ne {s : State} {j : Nat} (h : 0x119 ≠ j) (kind unit detail code : Nat) :
    (s.markSwap kind unit detail code).logs.errorCounts[j]? = s.logs.errorCounts[j]? := by
  have hfence : (if kind = 1 then s.fence unit else s).logs = s.logs := by
    split
    · exact State.fence_logs s unit
    · rfl
  rw [State.markSwap]
  split
  · rfl
  · dsimp only
    generalize (if kind = 1 then s.fence unit else s) = v at hfence ⊢
    split
    · exact congrArg (fun l : LogState => l.errorCounts[j]?) hfence
    · exact (State.logDevice_errorCounts_ne h _ _ _).trans (congrArg (fun l : LogState => l.errorCounts[j]?) hfence)

theorem BlockPower.sample_eq (x : BlockPower) (m : BitVec 8) : x.sample m =
    if m.toNat < 5 then { x with
      margin := m, mv := if x.mv.toNat ≤ 845 then x.mv + 5 else x.mv, highRun := 0
      limitRun := if 850 ≤ x.mv.toNat then x.limitRun + 1 else 0 }
    else if m.toNat ≤ 8 then { x with margin := m, highRun := 0, limitRun := 0 }
    else if x.highRun < 9 then { x with margin := m, highRun := x.highRun + 1, limitRun := 0 }
    else { x with margin := m, mv := if 655 ≤ x.mv.toNat then x.mv - 5 else x.mv, highRun := 0, limitRun := 0 } := by
  have hmv : x.mv.toNat + 5 ≤ 850 ↔ x.mv.toNat ≤ 845 := by omega
  unfold BlockPower.sample
  simp only [hmv, ge_iff_le]
  by_cases h5 : m.toNat < 5
  · simp only [h5, if_true]
  by_cases h8 : m.toNat ≤ 8
  · rw [if_neg h5, if_neg h5, if_neg (by omega), if_pos h8]
  · rw [if_neg h5, if_neg h5, if_pos (by omega), if_neg h8]
    by_cases h9 : x.highRun < 9
    · rw [if_neg (by omega), if_pos h9]
    · rw [if_pos (by omega), if_neg h9]

/-- The state after a sample of a powered block. -/
def State.avsSampled (s : State) (b : Block) (y : BlockPower) : State :=
  let s := { s with power := { s.power with blocks := setAt s.power.blocks b.val y } }
  let s := if y.limitRun = 1000 then s.logDevice 0x126 noName 0 0 else s
  if 1000 ≤ y.limitRun ∧ s.roleUp 3 then s.markSwap 1 (blockUnit b.val) 0 0x126 else s

theorem exec_avsSample {s : State} {b : Block} {x : BlockPower} (hx : s.power.blocks[b.val]? = some x) (m : BitVec 8) :
    exec (.avsSample b m) s = .next (if x.on then s.avsSampled b (x.sample m) else s) := by
  change execAvsSample b m s = _
  rw [execAvsSample, hx]
  cases hon : x.on <;> simp [hon, State.avsSampled]

/-- The sample's own record and mark, against the state before it. -/
theorem State.avsSampled_effect (s : State) (b : Block) (y : BlockPower) :
    let t := s.avsSampled b y
    t.power = { s.power with blocks := s.power.blocks.set b.val y } ∧ (y.limitRun < 1000 → s.onlyIn t [.power]) ∧
    (y.limitRun = 1000 → t.logs.errorCounts[0x126]? = (s.logs.errorCounts[0x126]?).map (satAdd · 1)) ∧
    (1000 ≤ y.limitRun → s.roleUp 3 = true → t.isMarked 1 (blockUnit b.val) 0 = true) := by
  intro t
  let u : State := { s with power := { s.power with blocks := setAt s.power.blocks b.val y } }
  let v : State := if y.limitRun = 1000 then u.logDevice 0x126 noName 0 0 else u
  have ht : t = if 1000 ≤ y.limitRun ∧ v.roleUp 3 then v.markSwap 1 (blockUnit b.val) 0 0x126 else v := rfl
  have hv : u.within [.logs] v := State.within_ite (State.logDevice_within (State.within_refl _ _) (List.Subset.refl _)) (State.within_refl _ _)
  have hvt : v.within [.logs, .blocks, .resil] t :=
    State.within_ite (State.markSwap_within (State.within_refl _ _) (List.Subset.refl _)) (State.within_refl _ _)
  refine ⟨(hvt.1 .power (by decide)).trans (hv.1 .power (by decide)), fun hlt => ?_, fun heq => ?_, fun hle hrole => ?_⟩
  · rw [ht, if_neg (by omega), show v = u from if_neg (by omega)]
    exact State.setPower_onlyIn s _
  · have hcount : v.logs.errorCounts[0x126]? = (s.logs.errorCounts[0x126]?).map (satAdd · 1) := by
      rw [show v = u.logDevice 0x126 noName 0 0 from if_pos heq]
      exact State.logDevice_errorCounts_same (by decide) (by decide)
    rw [ht]
    split
    · rw [State.markSwap_errorCounts_ne (by decide), hcount]
    · exact hcount
  · have hcores : v.roleUp 3 = true := by
      rw [State.roleUp, (hv.1 .cores (by decide) : v.cores = s.cores)]
      exact hrole
    rw [ht, if_pos ⟨hle, hcores⟩]
    exact State.markSwap_isMarked _ _ _ _ _

theorem exec_clockStretch {s : State} {b : Block} {x : BlockPower} (hx : s.power.blocks[b.val]? = some x) (n : Nat) :
    let y := if x.on && !x.throttled then { x with stretched := addN x.stretched (n + 16) } else x
    exec (.clockStretch b n) s = .next { s with power := { s.power with blocks := s.power.blocks.set b.val y } } :=
  congrArg (fun l : List BlockPower => (Host.Outcome.next { s with power := { s.power with blocks := l } } : Out))
    (modifyAt_eq_set hx fun y => if y.on && !y.throttled then { y with stretched := addN y.stretched (n + 16) } else y)

/-! ### Telemetry (R499) -/

/-- The hottest of the sensors that a test picks, as a number. -/
theorem PowerState.hottest_toNat (p : PowerState) (f : Sensor → Bool) :
    (p.hottest f).toNat = ((p.sensors.filter fun x => f x.sensor).map (·.celsius.toNat)).foldl max 0 := by
  suffices h : ∀ (l : List SensorState) (m : BitVec 8),
      (l.foldl (fun m x => if f x.sensor ∧ m < x.celsius then x.celsius else m) m).toNat =
        ((l.filter fun x => f x.sensor).map (·.celsius.toNat)).foldl max m.toNat from h _ _
  intro l
  induction l with
  | nil => intro m; rfl
  | cons x l ih =>
    intro m
    rw [List.foldl_cons, ih]
    cases hf : f x.sensor
    · simp [hf]
    · by_cases hlt : m < x.celsius
      · simp [hf, hlt, max_eq_right (le_of_lt (BitVec.lt_def.1 hlt))]
      · simp [hf, hlt, max_eq_left (not_lt.1 (mt BitVec.lt_def.2 hlt))]

/-- Settles O3: a lemma for each of the four monitors. -/
theorem powerMonitors : Obligations.PowerMonitors := by
  intro s
  refine ⟨fun sensor celsius => ?_, fun b m x hx => ⟨fun hoff => ?_, fun hon => ?_⟩, fun b n x hx => ⟨fun hon hfull => ?_, fun hoff => ?_⟩,
    fun vin iin pin joules hstage => runs_of fun t ht hkeep => ?_⟩
  · have h := temperatureMonitor s sensor celsius
    simp only [sensorLevel_eq] at h
    cases sensor <;> exact h
  · exact ⟨_, exec_avsSample hx m, by simp [hoff]⟩
  · refine runs_of fun t ht hkeep => ?_
    rw [exec_avsSample hx, if_pos hon] at ht
    obtain rfl := Host.Outcome.next.inj ht
    obtain ⟨hpower, honly, hcount, hmark⟩ := s.avsSampled_effect b (x.sample m)
    rw [BlockPower.sample_eq] at *
    exact ⟨hpower, honly, hcount, hmark, hkeep⟩
  · rw [runs, exec_clockStretch hx, hon, hfull]
    exact ⟨_, rfl, rfl, State.setPower_onlyIn s _⟩
  · refine ⟨_, exec_clockStretch hx n, ?_⟩
    have hnot : (x.on && !x.throttled) = false := by obtain h | h := hoff <;> simp [h]
    obtain ⟨hlt, rfl⟩ := List.getElem?_eq_some_iff.1 hx
    rw [hnot, if_neg (by simp), List.set_getElem_self hlt]
  · rw [show exec (.telemetrySample vin iin pin joules) s = _ from congrArg Host.Outcome.next (if_neg hstage)] at ht
    obtain rfl := Host.Outcome.next.inj ht
    have hhot (f : Sensor → Bool) := PowerState.hottest_toNat s.power f
    refine ⟨rfl, rfl, rfl, rfl, rfl, fun hwhole => ?_, fun hpart => ?_, rfl, State.setPower_onlyIn s _⟩
    · have h : (!s.start.loaded || s.roleUp 6) = true := by obtain h | h := hwhole <;> simp [h]
      simp only [h, if_true, PowerState.hottest_toNat]
      simp
    · have h : (!s.start.loaded || s.roleUp 6) = false := by simpa using hpart
      simp [h]
end Sys2Proof.Machine
end

section
/-! PROOFS. The SMBus requests: their answers, their pointers, and what is not acknowledged. -/

namespace Sys2Proof.Machine

set_option Elab.async false

/-- With housekeeping on and a right PEC a transaction is answered. -/
theorem State.smbus_answer {s : State} (hon : s.power.stage ≠ .off) (answer : State → State) : s.smbus true answer = answer s := by
  rw [State.smbus, if_neg hon, if_pos rfl]

/-- With a bad PEC it is not acknowledged. -/
theorem State.smbus_nack {s : State} (hon : s.power.stage ≠ .off) (answer : State → State) :
    s.smbus false answer = { s with power := { s.power with reply := none } } := by
  rw [State.smbus, if_neg hon, if_neg (by simp)]

/-- An answered command whose answer changes only the power block. -/
theorem runs_smbus_answer {c : Instr} {s : State} {answer : State → State} {p : PowerState} (hon : s.power.stage ≠ .off)
    (hc : exec c s = .next (s.smbus true answer)) (hp : answer s = { s with power := p }) :
    runs c s fun t => t.power = p ∧ s.onlyIn t [.power] := by
  rw [State.smbus_answer hon, hp] at hc
  exact ⟨_, hc, rfl, State.setPower_onlyIn s p⟩

theorem runs_smbus_nack {c : Instr} {s : State} {answer : State → State} (hon : s.power.stage ≠ .off)
    (hc : exec c s = .next (s.smbus false answer)) :
    runs c s fun t => t.power = { s.power with reply := none } ∧ s.onlyIn t [.power] := by
  rw [State.smbus_nack hon] at hc
  exact ⟨_, hc, rfl, State.setPower_onlyIn s _⟩

theorem runs_and_comm {c : Instr} {s : State} {P Q : State → Prop} (h : runs c s fun t => P t ∧ Q t) : runs c s fun t => Q t ∧ P t := by
  obtain ⟨t, ht, hp, hq⟩ := h
  exact ⟨t, ht, hq, hp⟩

/-- A sensor's temperature as the THERMAL command finds it. -/
theorem PowerState.sensorState_celsius (p : PowerState) (sensor : Sensor) :
    (p.sensorState sensor).celsius = (p.sensors.find? fun y => y.sensor == sensor).elim 0 (·.celsius) := by
  rw [PowerState.sensorState]
  cases p.sensors.find? fun y => y.sensor == sensor <;> rfl

/-- Settles O4: each command is `State.smbus` of its answer. -/
theorem sidebandRequests : Obligations.SidebandRequests := by
  intro s hon
  refine ⟨?_, ?_, ?_, ?_, ?_, fun hidle => ?_, fun hbusy => ?_, fun offset => ?_, fun index => ?_, ?_, fun pec byte hbad => ?_,
    fun offset c hc => ?_⟩
  · exact runs_and_comm (runs_smbus_answer hon rfl rfl)
  · exact runs_and_comm (runs_smbus_answer hon rfl rfl)
  · exact runs_and_comm (runs_smbus_answer hon rfl rfl)
  · obtain ⟨t, ht, hpower, hkeep⟩ := runs_smbus_answer (c := .thermal true) hon rfl rfl
    refine ⟨t, ht, hkeep, (List.finRange 16).map _, (List.finRange 4).map _, by simp, by simp, hpower, fun i => ?_, fun r => ?_⟩
    · rw [PowerState.sensorState_celsius]
      simp
    · rw [PowerState.sensorState_celsius]
      simp
  · obtain ⟨t, ht, hpower, hkeep⟩ := runs_smbus_answer (c := .statusRead true) hon rfl rfl
    simp only [Bool.or_eq_true] at hpower
    exact ⟨t, ht, hkeep, hpower⟩
  · have hanswer := runs_smbus_answer (c := .journalRead true) hon rfl (if_neg (by simp [hidle]))
    exact runs_and_comm hanswer
  · exact runs_smbus_answer (c := .journalRead true) hon rfl (if_pos (by simpa using hbusy))
  · exact runs_smbus_answer hon rfl rfl
  · exact runs_smbus_answer hon rfl rfl
  · exact runs_smbus_answer hon rfl rfl
  · have hnot : ¬ (pec = true ∧ byte = 0xE5) := by
      rintro ⟨rfl, rfl⟩
      simp at hbad
    exact ⟨_, congrArg Host.Outcome.next ((if_neg hon).trans (if_neg hnot)), rfl, State.setPower_onlyIn s _⟩
  · simp only [List.mem_cons, List.not_mem_nil, or_false] at hc
    obtain rfl | rfl | rfl | rfl | rfl | rfl | rfl | rfl | rfl := hc <;> exact runs_smbus_nack hon rfl
end Sys2Proof.Machine
end

section
/-! PROOFS. The start sequence: what a step leaves of a start that is under way, how a chain of steps ends, refusal mode, the carry. -/

namespace Sys2Proof.Machine

set_option Elab.async false

/-! ### What a step leaves of a start under way -/

/-- A start goes on as it was: begun, its state, refusal mode, what is loaded, and the emergency stop's latch. -/
def State.underWay (s t : State) : Prop :=
  t.start.begun = s.start.begun ∧ t.start.state = s.start.state ∧ t.start.refused = s.start.refused ∧
    (s.start.loaded = true → t.start.loaded = true) ∧ t.power.estop = s.power.estop

theorem State.underWay_refl (s : State) : s.underWay s := ⟨rfl, rfl, rfl, id, rfl⟩

theorem State.underWay.state_eq {s t : State} (h : s.underWay t) : t.start.state = s.start.state := h.2.1

theorem State.underWay.trans {s t u : State} (h : s.underWay t) (h' : t.underWay u) : s.underWay u := by
  obtain ⟨hbegun, hstate, hrefused, hloaded, hestop⟩ := h
  obtain ⟨hbegun', hstate', hrefused', hloaded', hestop'⟩ := h'
  exact ⟨hbegun'.trans hbegun, hstate'.trans hstate, hrefused'.trans hrefused, fun h => hloaded' (hloaded h), hestop'.trans hestop⟩

/-- A change of other parts leaves a start as it was. -/
theorem State.underWay_of_within {s t : State} {L : List Part} (h : s.within L t) (hstart : .start ∉ L) (hpower : .power ∉ L) : s.underWay t := by
  have hs : t.start = s.start := h.1 .start hstart
  have hp : t.power = s.power := h.1 .power hpower
  rw [State.underWay, hs, hp]
  exact ⟨rfl, rfl, rfl, id, rfl⟩

theorem State.underWay_ite {s t u : State} {c : Prop} [Decidable c] (ht : s.underWay t) (hu : s.underWay u) :
    s.underWay (if c then t else u) := by split <;> assumption

theorem State.underWay_ite_fst {α : Type} {s : State} {t u : State × α} {c : Prop} [Decidable c] (ht : s.underWay t.1) (hu : s.underWay u.1) :
    s.underWay (if c then t else u).1 := by split <;> assumption

theorem State.underWay_onStart {s t : State} {x : StartState} (ht : s.underWay t) (hbegun : x.begun = t.start.begun)
    (hstate : x.state = t.start.state) (hrefused : x.refused = t.start.refused) (hloaded : x.loaded = t.start.loaded) :
    s.underWay { t with start := x } :=
  ht.trans ⟨hbegun, hstate, hrefused, fun h => hloaded.trans h, rfl⟩

theorem State.underWay_onPower {s t : State} {x : PowerState} (ht : s.underWay t) (h : x.estop = t.power.estop) :
    s.underWay { t with power := x } :=
  ht.trans ⟨rfl, rfl, rfl, id, h⟩

theorem State.underWay_onFlash {s t : State} {x : FlashState} (ht : s.underWay t) : s.underWay { t with flash := x } := ht
theorem State.underWay_onMemory {s t : State} {x : MemState} (ht : s.underWay t) : s.underWay { t with memory := x } := ht

theorem State.underWay_fold {α : Type} {f : State → α → State} (hf : ∀ (s : State) (x : α), s.underWay (f s x)) (l : List α) (s : State) :
    s.underWay (l.foldl f s) := by
  induction l generalizing s with
  | nil => exact s.underWay_refl
  | cons x l ih => exact (hf s x).trans (ih _)

theorem State.repairRecord_underWay (s : State) (kind pendKind unit detail code : Nat) :
    s.underWay (s.repairRecord kind pendKind unit detail code) :=
  State.underWay_of_within (State.repairRecord_within (State.within_refl s [.flash, .resil]) (List.Subset.refl _)) (by decide) (by decide)

theorem State.journal_underWay (s : State) (r : JournalRecord) : s.underWay (s.journal r) := by
  unfold State.journal State.countError
  dsimp only
  split <;> exact ⟨rfl, rfl, rfl, id, rfl⟩

theorem State.countError_fold_within (l : List Nat) (s : State) : s.within [.logs] (l.foldl State.countError s) :=
  State.within_fold (fun _ _ h => State.countError_within h (List.Subset.refl _)) (State.within_refl _ _)

/-! ### The steps (R107) -/

theorem stepIdentity_underWay (f : StartFindings) (s : State) : s.underWay (stepIdentity f s).s := by
  unfold stepIdentity
  split
  · exact State.underWay_onStart (t := { s with draws := s.draws + 1, flash := { s.flash with helper := some s.draws } }) s.underWay_refl
      rfl rfl rfl rfl
  · dsimp only
    split
    · exact State.underWay_onStart s.underWay_refl rfl rfl rfl rfl
    · exact s.underWay_refl

theorem stepDirectory_underWay (last : Option JournalRecord) (s : State) : s.underWay (stepDirectory last s).s := by
  unfold stepDirectory
  dsimp only
  split <;> exact ⟨rfl, rfl, rfl, id, rfl⟩

theorem State.takeVerify_underWay (s : State) (r : Option StepFault) (h : ImageHeader) (digest : List Byte) :
    s.underWay (s.takeVerify r h digest).s := by
  unfold State.takeVerify
  split
  · exact s.underWay_refl
  · exact State.underWay_onStart s.underWay_refl rfl rfl rfl rfl

theorem stepVerify_underWay (s : State) : s.underWay (stepVerify s).s := by
  rw [stepVerify]
  exact State.takeVerify_underWay ..

theorem stepRollback_underWay (f : StartFindings) (s : State) : s.underWay (stepRollback f s).s := by
  unfold stepRollback
  dsimp only
  split
  · exact ⟨rfl, rfl, rfl, id, rfl⟩
  · split <;> split <;> exact ⟨rfl, rfl, rfl, id, rfl⟩

theorem State.applyUnitMap_underWay (s : State) : s.underWay s.applyUnitMap :=
  State.underWay_of_within (State.applyUnitMap_within (State.within_refl s _) (List.Subset.refl _)) (by decide) (by decide)

theorem State.takeContent_underWay (s : State) (r : Option StepFault) (c : ImageCfg) : s.underWay (s.takeContent r c).s := by
  unfold State.takeContent
  split
  · exact s.underWay_refl
  · refine State.underWay.trans ?_ (State.applyUnitMap_underWay _)
    exact ⟨rfl, rfl, rfl, id, rfl⟩

theorem stepContent_underWay (s : State) : s.underWay (stepContent s).s := State.takeContent_underWay _ _ _

theorem stepCores_underWay (f : StartFindings) (s : State) : s.underWay (stepCores f s).s :=
  State.underWay_of_within (stepCores_within (State.within_refl s _) (List.Subset.refl _)) (by decide) (by decide)

theorem State.domainUp_underWay (s : State) (d : Nat) : s.underWay (s.domainUp d) := ⟨rfl, rfl, rfl, id, rfl⟩

theorem State.replaceBlock_underWay {s u : State} {failed : List (Fin 96)} {d : Nat} (h : s.replaceBlock failed d = some u) : s.underWay u := by
  unfold State.replaceBlock at h
  split at h
  · cases h
  · obtain rfl := Option.some.inj h
    refine State.underWay.trans ?_ (State.domainUp_underWay _ _)
    exact State.repairRecord_underWay
      { s with resil := { s.resil with failedBlocks := (d / 9, d % 9) :: s.resil.failedBlocks } } 1 0 (blockUnit d) 0 0x125

theorem stepDomains_underWay (f : StartFindings) (s : State) : s.underWay (stepDomains f s).s := by
  unfold stepDomains
  refine List.foldlRecOn (motive := fun r : StepResult => s.underWay r.s) _ _ s.underWay_refl fun r hr d _ => ?_
  dsimp only
  split
  · exact hr
  split
  · exact hr.trans (r.s.domainUp_underWay d)
  · have hcount : r.s.underWay { r.s with power := { r.s.power with failed := satAdd r.s.power.failed 1 } } := ⟨rfl, rfl, rfl, id, rfl⟩
    split
    · split
      next h => exact (hr.trans hcount).trans (State.replaceBlock_underWay h)
      next => exact hr.trans hcount
    · exact hr.trans hcount

theorem stepStacked_underWay (f : StartFindings) (s : State) : s.underWay (stepStacked f s).s :=
  State.underWay_of_within (stepStacked_within (State.within_refl s _) (List.Subset.refl _)) (by decide) (by decide)

theorem stepDdr_underWay (last : Option JournalRecord) (f : StartFindings) (s : State) : s.underWay (stepDdr last f s).s := by
  unfold stepDdr
  split
  · exact s.underWay_refl
  · dsimp only
    split <;> exact ⟨rfl, rfl, rfl, id, rfl⟩

theorem State.bringUpCxl_underWay (s : State) (port : Nat) (ok : Bool) (gib : Nat) : s.underWay (s.bringUpCxl port ok gib).1 := by
  have hup : s.underWay { s with
      start := if port = 0 then { s.start with cxlAGib := gib }
               else if s.cfg.nvme then { s.start with nvmeUp := true } else { s.start with cxlBGib := gib }
      power := if port = 0 then { s.power with perstA := true } else { s.power with perstB := true } } := by
    by_cases hport : port = 0
    · rw [if_pos hport, if_pos hport]
      exact ⟨rfl, rfl, rfl, id, rfl⟩
    · rw [if_neg hport, if_neg hport]
      by_cases hnvme : s.cfg.nvme = true
      · rw [if_pos hnvme]
        exact ⟨rfl, rfl, rfl, id, rfl⟩
      · rw [if_neg hnvme]
        exact ⟨rfl, rfl, rfl, id, rfl⟩
  exact State.underWay_ite_fst s.underWay_refl (State.underWay_ite_fst s.underWay_refl (State.underWay_ite_fst
    (State.underWay_ite hup hup) (State.underWay_ite_fst s.underWay_refl s.underWay_refl)))

theorem stepCxl_underWay (f : StartFindings) (s : State) : s.underWay (stepCxl f s).s := by
  have ha := s.bringUpCxl_underWay 0 f.cxlA.1 f.cxlA.2
  unfold stepCxl
  dsimp only
  split
  · exact ha
  · split <;> exact ha.trans (State.bringUpCxl_underWay _ 1 _ _)

theorem stepLinks_underWay (f : StartFindings) (s : State) : s.underWay (stepLinks f s).s :=
  State.underWay_of_within (stepLinks_within (State.within_refl s _) (List.Subset.refl _)) (by decide) (by decide)

theorem State.copyLayouts_underWay (s : State) : s.underWay s.copyLayouts :=
  State.underWay_of_within (State.copyLayouts_within (State.within_refl s _) (List.Subset.refl _)) (by decide) (by decide)

theorem stepLoad_underWay (f : StartFindings) (s : State) : s.underWay (stepLoad f s).s := by
  unfold stepLoad
  dsimp only
  split
  · exact s.underWay_refl
  split
  · exact s.underWay_refl
  · exact State.underWay.trans (t := { s with start := { s.start with loaded := true } }) ⟨rfl, rfl, rfl, fun _ => rfl, rfl⟩
      (State.copyLayouts_underWay _)

/-- A load that passes leaves the configuration loaded. -/
theorem stepLoad_loaded {f : StartFindings} {s : State} (h : (stepLoad f s).outcome ≠ 3) : (stepLoad f s).s.start.loaded = true := by
  unfold stepLoad at h ⊢
  dsimp only at h ⊢
  split
  next hc => rw [if_pos hc] at h; exact absurd rfl h
  next hc =>
    rw [if_neg hc] at h
    split
    next hc => rw [if_pos hc] at h; exact absurd rfl h
    next => exact (State.copyLayouts_underWay { s with start := { s.start with loaded := true } }).2.2.2.1 rfl

theorem stepReady_of_pass {f : StartFindings} {s : State} (h : (stepReady f s).outcome ≠ 3) :
    (stepReady f s).progress = 65535 ∧ (stepReady f s).s.start = { s.start with state := 1, failedRun := 0 } ∧
      (stepReady f s).s.power = s.power := by
  unfold stepReady at h ⊢
  dsimp only at h ⊢
  split
  next hc => rw [if_pos hc] at h; exact absurd rfl h
  next => exact ⟨rfl, rfl, rfl⟩

theorem stepReady_of_fail {f : StartFindings} {s : State} (h : (stepReady f s).outcome = 3) : (stepReady f s).s = s := by
  unfold stepReady at h ⊢
  dsimp only at h ⊢
  split
  next => rfl
  next hc => rw [if_neg hc] at h; exact absurd h (show (0 : Nat) ≠ 3 by decide)

/-! ### Running a step (R107, R109, R112) -/

theorem State.runStep_of_over {s : State} (h : s.start.state ≠ 0) (k : Nat) (f : State → StepResult) : s.runStep k f = s := by
  rw [State.runStep, if_pos h]

theorem State.journal_start (s : State) (r : JournalRecord) : (s.journal r).start = { s.start with records := s.start.records ++ [r] } := by
  unfold State.journal State.countError
  dsimp only
  split <;> rfl

theorem State.journal_power (s : State) (r : JournalRecord) : (s.journal r).power = s.power :=
  (State.journal_within (State.within_refl s _) (List.Subset.refl _)).1 .power (by decide)

/-- What a step of a start under way leaves in the start's own state. -/
theorem State.runStep_start {s : State} (h : s.start.state = 0) (k : Nat) (f : State → StepResult) : ∃ records,
    (s.runStep k f).start = { (f s).s.start with
      step := BitVec.ofNat 8 k, progress := BitVec.ofNat 16 (f s).progress, records := records
      state := if (f s).outcome = 3 then 4 else (f s).s.start.state } := by
  have hcount (l : List Nat) (v : State) : (l.foldl State.countError v).start = v.start :=
    (State.countError_fold_within l v).1 .start (by decide)
  rw [State.runStep, if_neg (by simp [h])]
  dsimp only
  split
  · exact ⟨_, by rw [State.failStart, hcount, State.journal_start]⟩
  · exact ⟨_, by rw [hcount, State.journal_start]⟩

theorem State.runStep_power {s : State} (h : s.start.state = 0) (k : Nat) (f : State → StepResult) :
    (s.runStep k f).power = (f s).s.power := by
  have hcount (l : List Nat) (v : State) : (l.foldl State.countError v).power = v.power :=
    (State.countError_fold_within l v).1 .power (by decide)
  rw [State.runStep, if_neg (by simp [h])]
  dsimp only
  split
  · rw [State.failStart, hcount, State.journal_power]
  · rw [hcount, State.journal_power]

/-! ### A chain of steps -/

/-- A start that has begun and is under way or has failed; `e` is the emergency stop's latch. -/
def State.startOpen (s : State) (e : Bool) : Prop :=
  s.start.begun = true ∧ s.start.refused = false ∧ (s.start.state = 0 ∨ s.start.state = 4) ∧ s.power.estop = e

theorem State.startOpen_of_underWay {s t : State} {e : Bool} (h : s.startOpen e) (hst : s.underWay t) : t.startOpen e := by
  obtain ⟨hbegun, hrefused, hstate, hestop⟩ := h
  obtain ⟨hbegun', hstate', hrefused', -, hestop'⟩ := hst
  exact ⟨hbegun'.trans hbegun, hrefused'.trans hrefused, by rwa [hstate'], hestop'.trans hestop⟩

theorem State.runStep_startOpen {s : State} {e : Bool} {k : Nat} {f : State → StepResult} (h : s.startOpen e) (hf : s.underWay (f s).s) :
    (s.runStep k f).startOpen e := by
  by_cases h0 : s.start.state = 0
  · obtain ⟨hbegun, hrefused, hstate, hestop⟩ := State.startOpen_of_underWay h hf
    obtain ⟨_, hstart⟩ := State.runStep_start h0 k f
    rw [State.startOpen, hstart, State.runStep_power h0]
    refine ⟨hbegun, hrefused, ?_, hestop⟩
    dsimp only
    split
    · exact .inr rfl
    · exact hstate
  · rwa [State.runStep_of_over h0]

/-- Among steps that leave a start under way, one that is run goes on exactly if it passes. -/
theorem State.runStep_state_iff {s : State} {k : Nat} {f : State → StepResult} (h : s.start.state = 0) (hf : s.underWay (f s).s) :
    (s.runStep k f).start.state = 0 ↔ (f s).outcome ≠ 3 := by
  obtain ⟨_, hstart⟩ := State.runStep_start h k f
  rw [hstart]
  by_cases hout : (f s).outcome = 3
  · simp [hout]
  · simp [hout, hf.2.1, h]

/-- Run a list of steps in order. -/
def State.runSteps (s : State) (stages : List (Nat × (State → StepResult))) : State := stages.foldl (fun v x => v.runStep x.1 x.2) s

/-- Every step of a list leaves a start under way as it was. -/
def ordinarySteps (stages : List (Nat × (State → StepResult))) : Prop := ∀ x ∈ stages, ∀ s : State, s.underWay (x.2 s).s

theorem State.runSteps_startOpen {stages : List (Nat × (State → StepResult))} (hord : ordinarySteps stages) {s : State} {e : Bool}
    (h : s.startOpen e) : (s.runSteps stages).startOpen e :=
  List.foldlRecOn (motive := fun v : State => v.startOpen e) _ _ h fun _ hv x hx => State.runStep_startOpen hv (hord x hx _)

theorem State.runSteps_of_over (stages : List (Nat × (State → StepResult))) {s : State} (h : s.start.state ≠ 0) : s.runSteps stages = s := by
  induction stages with
  | nil => rfl
  | cons x l ih => rw [State.runSteps, List.foldl_cons, State.runStep_of_over h]; exact ih

/-- A chain of such steps goes on exactly if every one passes. -/
theorem State.runSteps_state_iff {stages : List (Nat × (State → StepResult))} (hord : ordinarySteps stages) {s : State}
    (h : s.start.state = 0) : (s.runSteps stages).start.state = 0 ↔ s.stagesPass stages := by
  induction stages generalizing s with
  | nil => simp [State.runSteps, State.stagesPass, h]
  | cons x l ih =>
    have hx := hord x (List.mem_cons_self ..)
    have hstep := State.runStep_state_iff (k := x.1) h (hx s)
    rw [State.stagesPass, ← hstep]
    by_cases h0 : (s.runStep x.1 x.2).start.state = 0
    · exact (ih (fun y hy => hord y (List.mem_cons_of_mem _ hy)) h0).trans (by simp [h0])
    · have hover : s.runSteps (x :: l) = s.runStep x.1 x.2 := State.runSteps_of_over l h0
      rw [hover]
      exact iff_of_false h0 fun hc => h0 hc.1

theorem State.stagesPass_append (s : State) (l m : List (Nat × (State → StepResult))) :
    s.stagesPass (l ++ m) ↔ s.stagesPass l ∧ (s.runSteps l).stagesPass m := by
  induction l generalizing s with
  | nil => simp [State.stagesPass, State.runSteps]
  | cons x l ih =>
    rw [List.cons_append, State.stagesPass, State.stagesPass, ih]
    exact (and_assoc).symm

/-! ### The whole sequence -/

/-- The steps before the last. -/
def stagesBeforeReady (last : Option JournalRecord) (f : StartFindings) : List (Nat × (State → StepResult)) :=
  [(0x04, stepIdentity f), (0x05, stepDirectory last), (0x06, stepVerify), (0x07, stepRollback f), (0x08, stepContent), (0x09, stepCores f),
   (0x0A, stepDomains f), (0x0B, stepStacked f), (0x0C, stepDdr last f), (0x0D, stepCxl f), (0x0E, stepLinks f)]

theorem startStages_eq (last : Option JournalRecord) (f : StartFindings) :
    startStages last f = (stagesBeforeReady last f ++ [(0x0F, stepLoad f)]) ++ [(0x10, stepReady f)] := rfl

theorem stagesBeforeReady_ordinary (last : Option JournalRecord) (f : StartFindings) : ordinarySteps (stagesBeforeReady last f) := by
  simp only [ordinarySteps, stagesBeforeReady, List.forall_mem_cons]
  exact ⟨stepIdentity_underWay f, stepDirectory_underWay last, stepVerify_underWay, stepRollback_underWay f, stepContent_underWay,
    stepCores_underWay f, stepDomains_underWay f, stepStacked_underWay f, stepDdr_underWay last f, stepCxl_underWay f, stepLinks_underWay f,
    by simp⟩

theorem stagesBeforeLast_ordinary (last : Option JournalRecord) (f : StartFindings) :
    ordinarySteps (stagesBeforeReady last f ++ [(0x0F, stepLoad f)]) := by
  intro x hx
  obtain hx | hx := List.mem_append.1 hx
  · exact stagesBeforeReady_ordinary last f x hx
  · obtain rfl := List.mem_singleton.1 hx
    exact stepLoad_underWay f

theorem State.runSteps_append (s : State) (l m : List (Nat × (State → StepResult))) : s.runSteps (l ++ m) = (s.runSteps l).runSteps m :=
  List.foldl_append

theorem State.runSteps_append_singleton (s : State) (l : List (Nat × (State → StepResult))) (k : Nat) (f : State → StepResult) :
    s.runSteps (l ++ [(k, f)]) = (s.runSteps l).runStep k f := by
  rw [State.runSteps_append]
  simp only [State.runSteps, List.foldl_cons, List.foldl_nil]

/-- A start that has passed the load holds its configuration. -/
theorem State.runStep_load_loaded {s : State} {f : StartFindings} (h : (s.runStep 0x0F (stepLoad f)).start.state = 0) :
    (s.runStep 0x0F (stepLoad f)).start.loaded = true := by
  by_cases h0 : s.start.state = 0
  · have hpass := (State.runStep_state_iff h0 (stepLoad_underWay f s)).1 h
    obtain ⟨_, hstart⟩ := State.runStep_start h0 0x0F (stepLoad f)
    rw [hstart]
    exact stepLoad_loaded hpass
  · rw [State.runStep_of_over h0] at h
    exact absurd h h0

/-- How a start ends whose steps were run: failed or ready. -/
theorem State.runStep_ready {s : State} {e : Bool} (h : s.startOpen e) (hloaded : s.start.state = 0 → s.start.loaded = true)
    (f : StartFindings) :
    let t := s.runStep 0x10 (stepReady f)
    t.start.begun = true ∧ t.start.refused = false ∧ t.power.estop = e ∧ (t.start.state = 1 ∨ t.start.state = 4) ∧
      (t.start.state = 1 ↔ s.start.state = 0 ∧ (stepReady f s).outcome ≠ 3) ∧
      (t.start.state = 1 → t.start.loaded = true ∧ t.start.progress = 0xFFFF ∧ t.start.step = 0x10) := by
  intro t
  obtain ⟨hbegun, hrefused, hstate, hestop⟩ := h
  by_cases h0 : s.start.state = 0
  · obtain ⟨_, hstart⟩ := State.runStep_start h0 0x10 (stepReady f)
    have hpower := State.runStep_power h0 0x10 (stepReady f)
    by_cases hout : (stepReady f s).outcome = 3
    · rw [stepReady_of_fail hout] at hstart hpower
      simp only [t, hstart, hpower, hout, if_true]
      exact ⟨hbegun, hrefused, hestop, by simp, by simp, by simp⟩
    · obtain ⟨hprogress, hs, hp⟩ := stepReady_of_pass hout
      rw [hprogress, hs, if_neg hout] at hstart
      rw [hp] at hpower
      simp only [t, hstart, hpower]
      exact ⟨hbegun, hrefused, hestop, by simp, by simp [h0, hout], fun _ => ⟨hloaded h0, rfl, rfl⟩⟩
  · have ht : t = s := State.runStep_of_over h0 _ _
    have h4 : s.start.state = 4 := hstate.resolve_left h0
    rw [ht, h4]
    exact ⟨hbegun, hrefused, hestop, by simp, by simp, by simp⟩

/-- A step that passes leaves a start as it was, where its own work does. -/
theorem State.runStep_underWay {s : State} {k : Nat} {f : State → StepResult} (h : s.start.state = 0) (hf : s.underWay (f s).s)
    (hout : (f s).outcome ≠ 3) : s.underWay (s.runStep k f) := by
  obtain ⟨_, hstart⟩ := State.runStep_start h k f
  rw [if_neg hout] at hstart
  rw [State.underWay, hstart, State.runStep_power h]
  exact hf

theorem State.applyRepairs_underWay (s : State) : s.underWay s.applyRepairs :=
  State.underWay_of_within (State.applyRepairs_within (State.within_refl s _) (List.Subset.refl _)) (by decide) (by decide)

theorem State.scanJournal_underWay {s : State} (h : s.start.state = 0) : s.underWay s.scanJournal := by
  unfold State.scanJournal
  dsimp only
  refine State.underWay.trans ?_ (State.applyRepairs_underWay _)
  refine State.underWay.trans ?_ (State.runStep_underWay ?_ (State.underWay_refl _) (show (0 : Nat) ≠ 3 by decide))
  case' refine_2 => refine Eq.trans (State.underWay.state_eq (s := s) ?_) h
  all_goals
    refine State.underWay.trans (State.underWay.trans (State.underWay.trans ?_ (State.journal_underWay _ _)) (State.journal_underWay _ _))
      (State.journal_underWay _ _)
    refine State.underWay_ite ⟨rfl, rfl, rfl, id, rfl⟩ (State.underWay_onStart ?_ rfl rfl rfl rfl)
    exact State.underWay.trans ⟨rfl, rfl, rfl, id, rfl⟩ (State.journal_underWay _ _)

/-- The state in which a start's steps begin. -/
def State.begunStart (s : State) : State := { s with start := { StartState.reset with begun := true } }

theorem exec_startSequence {s : State} (f : StartFindings) (hstage : s.power.stage = .good) (hreset : s.power.resetN = true)
    (hbegun : s.start.begun = false) : exec (.startSequence f) s = .next (match earlyFailure s.begunStart f with
      | some (step, code) => s.begunStart.startEarly (decide (s.power.carried.toNat ≥ 3)) step code f
      | none => s.begunStart.startSteps (decide (s.power.carried.toNat ≥ 3)) f) := by
  refine congrArg Host.Outcome.next ((if_pos ⟨hstage, hreset, by simp [hbegun]⟩).trans ?_)
  rfl

/-- Refusal mode: the state says so, and nothing else of the start changes. -/
theorem State.enterRefusal_start (s : State) (f : StartFindings) :
    (s.enterRefusal f).start = { s.start with state := 3, refused := true } := by
  unfold State.enterRefusal
  dsimp only
  split <;> rfl

theorem State.enterRefusal_estop (s : State) (f : StartFindings) : (s.enterRefusal f).power.estop = s.power.estop := by
  unfold State.enterRefusal
  dsimp only
  split <;> rfl

theorem State.enterRefusal_flash (s : State) (f : StartFindings) : (s.enterRefusal f).flash = s.flash :=
  (State.enterRefusal_within (State.within_refl s _) (List.Subset.refl _)).1 .flash (by decide)

/-- The record of the failure that the step before tried to repair, which a carried start does not have. -/
def State.lastTried (s : State) : Option JournalRecord := if s.power.carried = 0 then s.begunStart.lastFailure else none

/-- The state once the directory has been read. -/
def State.directoryRead (s : State) (f : StartFindings) : State :=
  (s.begunStart.scanJournal.runStep 0x04 (stepIdentity f)).runStep 0x05 (stepDirectory s.lastTried)

theorem State.scanJournal_startOpen (s : State) : s.begunStart.scanJournal.startOpen s.power.estop :=
  State.startOpen_of_underWay (s := s.begunStart) ⟨rfl, rfl, .inl rfl, rfl⟩ (State.scanJournal_underWay rfl)

theorem State.scanJournal_state (s : State) : s.begunStart.scanJournal.start.state = 0 := (State.scanJournal_underWay (s := s.begunStart) rfl).2.1

theorem State.directoryRead_startOpen (s : State) (f : StartFindings) : (s.directoryRead f).startOpen s.power.estop :=
  State.runStep_startOpen (State.runStep_startOpen s.scanJournal_startOpen (stepIdentity_underWay f _)) (stepDirectory_underWay _ _)

/-- A start is refused once the directory has been read: at the limit of failed starts, or where the carry says so (R111, R113). -/
def State.refusedAt (v : State) (early : Bool) : Prop :=
  v.start.state = 0 ∧ (early = true ∨ v.start.failedRun.toNat ≥ refuseAfter (v.flash.image v.start.slot))

theorem State.lateSteps_eq (v : State) (last : Option JournalRecord) (f : StartFindings) :
    v.lateSteps last f = v.runSteps ((startStages last f).drop 2) := by
  simp only [State.lateSteps, startStages, State.runSteps, List.drop, List.foldl_cons, List.foldl_nil]

theorem State.runSteps_eq_lateSteps (s : State) (f : StartFindings) :
    s.begunStart.scanJournal.runSteps (startStages s.lastTried f) = (s.directoryRead f).lateSteps s.lastTried f := by
  rw [State.lateSteps_eq, State.directoryRead]
  simp only [startStages, State.runSteps, List.drop, List.foldl_cons, List.foldl_nil]

/-- A start that reads its directory, and what follows. -/
theorem State.startSteps_cases (s : State) (early : Bool) (f : StartFindings) :
    ((s.directoryRead f).refusedAt early ∧ ∃ detail, s.begunStart.startSteps early f =
      ((s.directoryRead f).journal ((s.directoryRead f).record 0x05 5 0x062 0xFFFF 65535 detail)).enterRefusal f) ∨
    (¬ (s.directoryRead f).refusedAt early ∧
      s.begunStart.startSteps early f = s.begunStart.scanJournal.runSteps (startStages s.lastTried f)) := by
  rw [State.runSteps_eq_lateSteps]
  unfold State.startSteps State.directoryRead State.lastTried State.refusedAt
  rw [show s.begunStart.power.carried = s.power.carried from rfl]
  dsimp only
  generalize (s.begunStart.scanJournal.runStep 4 (stepIdentity f)).runStep 5
    (stepDirectory (if s.power.carried = 0 then s.begunStart.lastFailure else none)) = v
  by_cases h : v.start.state = 0 ∧ (early = true ∨ v.start.failedRun.toNat ≥ refuseAfter (v.flash.image v.start.slot))
  · exact .inl ⟨h, _, if_pos h⟩
  · exact .inr ⟨h, if_neg h⟩

/-- How a start ends whose steps were run from a state under way. -/
theorem State.runSteps_startStages {s : State} {e : Bool} (h : s.startOpen e) (h0 : s.start.state = 0) (last : Option JournalRecord)
    (f : StartFindings) :
    let t := s.runSteps (startStages last f)
    t.start.begun = true ∧ t.start.refused = false ∧ t.power.estop = e ∧ (t.start.state = 1 ∨ t.start.state = 4) ∧
      (t.start.state = 1 ↔ s.stagesPass (startStages last f)) ∧
      (t.start.state = 1 → t.start.loaded = true ∧ t.start.progress = 0xFFFF ∧ t.start.step = 0x10) := by
  rw [startStages_eq, State.runSteps_append_singleton, State.stagesPass_append]
  have hord := stagesBeforeLast_ordinary last f
  have hopen := State.runSteps_startOpen hord h
  have hpass := State.runSteps_state_iff hord h0
  have hloaded : (s.runSteps (stagesBeforeReady last f ++ [(0x0F, stepLoad f)])).start.state = 0 →
      (s.runSteps (stagesBeforeReady last f ++ [(0x0F, stepLoad f)])).start.loaded = true := by
    rw [State.runSteps_append_singleton]
    exact State.runStep_load_loaded
  generalize s.runSteps (stagesBeforeReady last f ++ [(0x0F, stepLoad f)]) = v at *
  obtain ⟨hbegun, hrefused, hestop, hends, hready, hfields⟩ := State.runStep_ready hopen hloaded f
  refine ⟨hbegun, hrefused, hestop, hends, hready.trans ?_, hfields⟩
  rw [hpass]
  simp [State.stagesPass]

/-- The record that refusal mode leaves, and its step. -/
theorem State.refused_effect (s : State) (f : StartFindings) (detail : Nat) :
    let t := (s.journal (s.record 0x05 5 0x062 0xFFFF 65535 detail)).enterRefusal f
    t.start.state = 3 ∧ t.start.refused = true ∧ t.start.step = s.start.step ∧ t.start.begun = s.start.begun ∧
      t.power.estop = s.power.estop ∧ ∃ r, t.start.records = s.start.records ++ [r] ∧ r.step = 5 ∧ r.outcome = 5 ∧ r.code = 0x062 := by
  intro t
  have hstart : t.start = _ := (State.enterRefusal_start _ f).trans (congrArg (fun x : StartState => { x with state := 3, refused := true })
    (s.journal_start _))
  have hestop : t.power.estop = s.power.estop := (State.enterRefusal_estop _ f).trans (congrArg PowerState.estop (s.journal_power _))
  rw [hstart, hestop]
  exact ⟨rfl, rfl, rfl, rfl, rfl, _, rfl, rfl, rfl, rfl⟩

theorem State.directoryRead_step {s : State} {f : StartFindings} (h : (s.directoryRead f).start.state = 0) :
    (s.directoryRead f).start.step = 5 := by
  unfold State.directoryRead at h ⊢
  generalize s.begunStart.scanJournal.runStep 0x04 (stepIdentity f) = v at h ⊢
  by_cases h0 : v.start.state = 0
  · obtain ⟨_, hstart⟩ := State.runStep_start h0 0x05 (stepDirectory s.lastTried)
    rw [hstart]
    rfl
  · rw [State.runStep_of_over h0] at h
    exact absurd h h0

theorem State.startEarly_refused (s : State) (step code : Nat) (f : StartFindings) :
    let t := s.startEarly true step code f
    t.start.state = 3 ∧ t.start.refused = true ∧ t.start.begun = s.start.begun ∧ t.power.estop = s.power.estop := by
  intro t
  have ht : t = (({ s with start := { s.start with step := BitVec.ofNat 8 step } }).countError code).enterRefusal f := rfl
  have hcount (v : State) := State.countError_within (State.within_refl v [.logs]) (code := code) (List.Subset.refl _)
  have hw := hcount { s with start := { s.start with step := BitVec.ofNat 8 step } }
  rw [ht, State.enterRefusal_start, State.enterRefusal_estop, hw.start (by decide), hw.power (by decide)]
  exact ⟨rfl, rfl, rfl, rfl⟩

theorem State.startEarly_carried (s : State) (step code : Nat) (f : StartFindings) :
    let t := s.startEarly false step code f
    t.start = { s.start with state := 4, step := BitVec.ofNat 8 step, progress := 0 } ∧ t.power = (s.carryFailure step code).power := by
  have hcount (v : State) := State.countError_within (State.within_refl v [.logs]) (code := code) (List.Subset.refl _)
  refine ⟨?_, (hcount _).1 .power (by decide)⟩
  have hstart : ((s.carryFailure step code).countError code).start = s.start := (hcount _).1 .start (by decide)
  exact congrArg (fun x : StartState => { x with state := 4, step := BitVec.ofNat 8 step, progress := 0 }) hstart
end Sys2Proof.Machine
end

section
/-! PROOFS. When a start begins and how it ends. -/

namespace Sys2Proof.Machine

set_option Elab.async false

theorem State.directoryRead_eq (s : State) (f : StartFindings) :
    ((startStages s.lastTried f).take 2).foldl (fun v x => v.runStep x.1 x.2) s.begunStart.scanJournal = s.directoryRead f := by
  simp only [startStages, List.take, List.foldl_cons, List.foldl_nil, State.directoryRead]

/-- The parts of a start that its frame leaves out. -/
theorem exec_startSequence_keeps {s t : State} {f : StartFindings} (h : exec (.startSequence f) s = .next t) :
    t.pending = s.pending ∧ t.run = s.run := by
  have hw := within_of_exec h
  exact ⟨hw.pending (by simp [changedBy]), hw.run (by simp [changedBy])⟩

/-- How a start that may begin ends. -/
theorem exec_startSequence_ends {s t : State} {f : StartFindings} (hstage : s.power.stage = .good) (hreset : s.power.resetN = true)
    (hbegun : s.start.begun = false) (h : exec (.startSequence f) s = .next t) :
    t.start.begun = true ∧ (t.start.state = 1 ∨ t.start.state = 3 ∨ t.start.state = 4) ∧ (t.start.refused = true ↔ t.start.state = 3) ∧
      (t.start.state = 1 → t.start.loaded = true ∧ t.start.progress = 0xFFFF ∧ t.start.step = 0x10) ∧ t.power.estop = s.power.estop := by
  rw [exec_startSequence f hstage hreset hbegun] at h
  obtain rfl := Host.Outcome.next.inj h
  split
  next step code _ =>
    cases decide (s.power.carried.toNat ≥ 3)
    · obtain ⟨hstart, hpower⟩ := s.begunStart.startEarly_carried step code f
      rw [hstart, hpower]
      exact ⟨rfl, by simp, by simp [State.begunStart, StartState.reset], by simp, rfl⟩
    · obtain ⟨hstate, hrefused, hbegun, hestop⟩ := s.begunStart.startEarly_refused step code f
      exact ⟨hbegun, by simp [hstate], by simp [hstate, hrefused], by simp [hstate], hestop⟩
  next =>
    obtain ⟨-, detail, heq⟩ | ⟨-, heq⟩ := s.startSteps_cases (decide (s.power.carried.toNat ≥ 3)) f
    · obtain ⟨hstate, hrefused, -, hbegun, hestop, -⟩ := (s.directoryRead f).refused_effect f detail
      obtain ⟨hread, -, -, hlatch⟩ := s.directoryRead_startOpen f
      rw [heq]
      exact ⟨hbegun.trans hread, by simp [hstate], by simp [hstate, hrefused], by simp [hstate], hestop.trans hlatch⟩
    · obtain ⟨hbegun, hrefused, hestop, hends, -, hfields⟩ := State.runSteps_startStages s.scanJournal_startOpen s.scanJournal_state s.lastTried f
      rw [heq]
      refine ⟨hbegun, ?_, ?_, hfields, hestop⟩
      · obtain h1 | h4 := hends <;> simp [*]
      · obtain h1 | h4 := hends <;> simp [*]

/-- A start whose ROM and flash answer: refused once the directory has been read, or run to its end. -/
theorem exec_startSequence_of_answer {s : State} {f : StartFindings} (hstage : s.power.stage = .good) (hreset : s.power.resetN = true)
    (hbegun : s.start.begun = false) (hanswer : earlyFailure s.begunStart f = none) :
    exec (.startSequence f) s = .next (s.begunStart.startSteps (decide (s.power.carried.toNat ≥ 3)) f) := by
  rw [exec_startSequence f hstage hreset hbegun, hanswer]

theorem exec_startSequence_of_early {s : State} {f : StartFindings} {step code : Nat} (hstage : s.power.stage = .good)
    (hreset : s.power.resetN = true) (hbegun : s.start.begun = false) (hearly : earlyFailure s.begunStart f = some (step, code)) :
    exec (.startSequence f) s = .next (s.begunStart.startEarly (decide (s.power.carried.toNat ≥ 3)) step code f) := by
  rw [exec_startSequence f hstage hreset hbegun, hearly]

/-- The carry counts up to its limit (R111). -/
theorem carried_succ {c : BitVec 4} (h : c.toNat < 3) : BitVec.ofNat 4 (min (c.toNat + 1) 14) = c + 1 := by
  rw [min_eq_left (by omega)]
  bv_omega

/-- The clauses on START_SEQUENCE. -/
theorem startSequence_clauses (s : State) (f : StartFindings) (hstage : s.power.stage = .good) (hreset : s.power.resetN = true)
    (hbegun : s.start.begun = false) :
    let read := ((startStages s.lastTried f).take 2).foldl (fun v x => v.runStep x.1 x.2) s.begunStart.scanJournal
    let limit := refuseAfter (read.flash.image read.start.slot)
    (runs (.startSequence f) s fun t =>
      t.start.begun = true ∧ (t.start.state = 1 ∨ t.start.state = 3 ∨ t.start.state = 4) ∧ (t.start.refused = true ↔ t.start.state = 3) ∧
      (t.start.state = 1 → t.start.loaded = true ∧ t.start.progress = 0xFFFF ∧ t.start.step = 0x10) ∧ t.pending = s.pending ∧ t.run = s.run) ∧
    (earlyFailure s.begunStart f = none → s.power.carried.toNat < 3 → read.start.state ≠ 0 ∨ read.start.failedRun.toNat < limit →
      runs (.startSequence f) s fun t =>
        t = s.begunStart.scanJournal.runSteps (startStages s.lastTried f) ∧
        (t.start.state = 1 ↔ s.begunStart.scanJournal.stagesPass (startStages s.lastTried f))) ∧
    (earlyFailure s.begunStart f = none → read.start.state = 0 → 3 ≤ s.power.carried.toNat ∨ limit ≤ read.start.failedRun.toNat →
      runs (.startSequence f) s fun t => t.start.state = 3 ∧ t.start.refused = true ∧ t.start.step = 5 ∧
        (∃ r, t.start.records = read.start.records ++ [r] ∧ r.step = 5 ∧ r.outcome = 5 ∧ r.code = 0x062)) ∧
    (∀ step code, earlyFailure s.begunStart f = some (step, code) →
      (s.power.carried.toNat < 3 → runs (.startSequence f) s fun t =>
        t.start.state = 4 ∧ t.start.step = BitVec.ofNat 8 step ∧ t.power.carryStep = BitVec.ofNat 8 step ∧
        t.power.carryCode = BitVec.ofNat 12 code ∧ t.power.carried = s.power.carried + 1 ∧ t.flash = s.flash) ∧
      (3 ≤ s.power.carried.toNat → runs (.startSequence f) s fun t => t.start.state = 3 ∧ t.start.refused = true ∧ t.flash = s.flash)) := by
  rw [State.directoryRead_eq]
  have hearlyFlash (step code : Nat) (early : Bool) : (s.begunStart.startEarly early step code f).flash = s.flash :=
    (State.startEarly_within (State.within_refl s.begunStart _) (List.Subset.refl _)).flash (by decide)
  refine ⟨?_, fun hanswer hcarried hgo => ?_, fun hanswer hstate hstop => ?_, fun step code hearly => ⟨fun hcarried => ?_, fun hcarried => ?_⟩⟩
  · refine runs_of fun t ht _ => ?_
    obtain ⟨hb, hs, hr, hf, -⟩ := exec_startSequence_ends hstage hreset hbegun ht
    exact ⟨hb, hs, hr, hf, exec_startSequence_keeps ht⟩
  · obtain ⟨⟨h0, hwhy⟩, -⟩ | ⟨-, heq⟩ := s.startSteps_cases (decide (s.power.carried.toNat ≥ 3)) f
    · have hnot : ¬ s.power.carried.toNat ≥ 3 := by omega
      rw [decide_eq_false hnot] at hwhy
      obtain hne | hlt := hgo
      · exact absurd h0 hne
      · simp at hwhy; omega
    · obtain ⟨-, -, -, -, hready, -⟩ := State.runSteps_startStages s.scanJournal_startOpen s.scanJournal_state s.lastTried f
      rw [← heq] at hready ⊢
      exact ⟨_, exec_startSequence_of_answer hstage hreset hbegun hanswer, rfl, hready⟩
  · obtain ⟨-, detail, heq⟩ | ⟨hnot, -⟩ := s.startSteps_cases (decide (s.power.carried.toNat ≥ 3)) f
    · obtain ⟨hs, hr, hstep, -, -, hrec⟩ := (s.directoryRead f).refused_effect f detail
      rw [State.directoryRead_step hstate] at hstep
      refine ⟨_, exec_startSequence_of_answer hstage hreset hbegun hanswer, ?_⟩
      rw [heq]
      exact ⟨hs, hr, hstep, hrec⟩
    · exact absurd ⟨hstate, by simpa using hstop⟩ hnot
  · obtain ⟨hstart, hpower⟩ := s.begunStart.startEarly_carried step code f
    have hexec := exec_startSequence_of_early hstage hreset hbegun hearly
    rw [decide_eq_false (by omega)] at hexec
    refine ⟨_, hexec, ?_⟩
    beta_reduce
    rw [hstart, hpower]
    exact ⟨rfl, rfl, rfl, rfl, carried_succ hcarried, hearlyFlash step code false⟩
  · obtain ⟨hs, hr, -⟩ := s.begunStart.startEarly_refused step code f
    have hexec := exec_startSequence_of_early hstage hreset hbegun hearly
    rw [decide_eq_true (by omega)] at hexec
    exact ⟨_, hexec, hs, hr, hearlyFlash step code true⟩

/-- Settles O6: the clauses on START_SEQUENCE, and the device's reset of itself after a failed start. -/
theorem starts : Obligations.Starts := by
  refine ⟨fun s f hstage hreset hbegun => ?_, fun s hbegun hstate => ?_⟩
  · have h := startSequence_clauses s f hstage hreset hbegun
    unfold State.lastTried State.begunStart State.runSteps at h
    exact h
  · exact ⟨_, congrArg Host.Outcome.next (if_pos ⟨hbegun, hstate⟩), rfl, rfl, rfl, rfl, rfl, rfl, rfl⟩
end Sys2Proof.Machine
end

section
/-! PROOFS. Who changes the configuration, the control cores, the flash and the emergency stop's latch. -/

namespace Sys2Proof.Machine

set_option Elab.async false

/-! ### What lives through a command -/

/-- The emergency stop's latch stays set; and a device whose start still stands holds its configuration and its cores. -/
def State.lives (s t : State) : Prop :=
  (s.power.estop = true → t.power.estop = true) ∧ (t.start.begun = true → t.cfg = s.cfg ∧ t.cores = s.cores)

theorem State.lives_refl (s : State) : s.lives s := ⟨id, fun _ => ⟨rfl, rfl⟩⟩

theorem State.lives_of_within {s t : State} {L : List Part} (h : s.within L t) (hpower : .power ∉ L) (hcfg : .cfg ∉ L) (hcores : .cores ∉ L) :
    s.lives t :=
  ⟨fun he => by rw [h.power hpower]; exact he, fun _ => ⟨h.cfg hcfg, h.cores hcores⟩⟩

theorem State.lives_ite {s t u : State} {c : Prop} [Decidable c] (ht : s.lives t) (hu : s.lives u) : s.lives (if c then t else u) := by
  split <;> assumption

/-- After a change of the power block that keeps the latch, and of nothing else that counts. -/
theorem State.lives_of_power {s t : State} (he : s.power.estop = true → t.power.estop = true) (hcfg : t.cfg = s.cfg) (hcores : t.cores = s.cores) :
    s.lives t := ⟨he, fun _ => ⟨hcfg, hcores⟩⟩

/-- A device that lost its start. -/
theorem State.lives_of_lost {s t : State} (he : s.power.estop = true → t.power.estop = true) (hbegun : t.start.begun = false) : s.lives t :=
  ⟨he, fun h => by rw [hbegun] at h; cases h⟩

theorem State.shutdown_lives (s : State) (cause code : Nat) (hold : Hold) : s.lives (s.shutdown cause code hold) :=
  State.lives_of_lost id rfl

theorem State.loseDevice_lives (s : State) : s.lives s.loseDevice := State.lives_of_lost id rfl

/-! ### Commands on the power block -/

theorem State.rampIfEnabled_lives {s u : State} (h : s.lives u) : s.lives u.rampIfEnabled := by
  rw [State.rampIfEnabled_eq]
  exact h

theorem State.releasePg_lives {s u : State} (h : s.lives u) : s.lives u.releasePg := State.lives_ite h h

theorem execEnFall_lives {s t : State} (h : execEnFall s = .next t) : s.lives t := by
  obtain rfl := Host.Outcome.next.inj h
  exact State.lives_ite (State.lives_of_lost id rfl) (State.lives_ite (State.lives_of_power id rfl rfl) (State.lives_of_power id rfl rfl))

theorem execResetNRise_lives {s t : State} (h : execResetNRise s = .next t) : s.lives t := by
  obtain rfl := Host.Outcome.next.inj h
  exact State.lives_ite (State.rampIfEnabled_lives (State.lives_of_power id rfl rfl)) (State.lives_of_power id rfl rfl)

theorem execInputFault_lives {kind : InputFault} {s t : State} (hkind : kind ≠ .undervoltage) (h : execInputFault kind s = .next t) :
    s.lives t := by
  obtain rfl := Host.Outcome.next.inj h
  refine State.lives_ite s.lives_refl ?_
  cases kind
  · exact absurd rfl hkind
  all_goals exact State.lives_of_lost id rfl

theorem execTemperatureThreshold_lives {sensor : Sensor} {celsius : BitVec 8} {s t : State}
    (h : execTemperatureThreshold sensor celsius s = .next t) : s.lives t := by
  have hsame : (s.noteSensor sensor celsius (sensorLevel sensor (s.power.sensorState sensor).level celsius.toNat)).power.estop =
      s.power.estop := by cases sensor <;> rfl
  have hlog := State.logLevel_within (s.noteSensor sensor celsius (sensorLevel sensor (s.power.sensorState sensor).level celsius.toNat))
    (sensorLevel sensor (s.power.sensorState sensor).level celsius.toNat) (s.power.sensorState sensor).level
  by_cases hhot : (sensorThresholds sensor).getD 3 256 ≤ celsius.toNat ∧ (s.power.stage = .ramping ∨ s.power.stage = .good)
  · obtain rfl := Host.Outcome.next.inj ((exec_temperatureThreshold_of_above hhot).symm.trans h)
    refine State.lives_of_lost (fun he => ?_) rfl
    exact (congrArg PowerState.estop (hlog.power (by decide))).trans (hsame.trans he)
  · obtain rfl := Host.Outcome.next.inj ((exec_temperatureThreshold_of_below hhot).symm.trans h)
    have hnote := s.noteSensor_onlyIn sensor celsius (sensorLevel sensor (s.power.sensorState sensor).level celsius.toNat)
    refine State.lives_of_power (fun he => ?_) ?_ ?_
    · rw [hlog.power (by decide), hsame]; exact he
    · rw [hlog.cfg (by decide)]; exact hnote .cfg (by decide)
    · rw [hlog.cores (by decide)]; exact hnote .cores (by decide)

theorem State.tapLoad_lives (s : State) (i : TapInstr) (capture : Nat) : s.lives (s.tapLoad i capture) :=
  State.lives_ite s.lives_refl (State.lives_of_power id rfl rfl)

theorem State.tapDrive_lives (s : State) (i : TapInstr) (capture : Nat) : s.lives (s.tapDrive i capture) :=
  State.lives_ite (State.lives_of_power id rfl rfl) (s.tapLoad_lives _ _)

/-- An SMBus answer that changes the power block alone and keeps the latch. -/
theorem State.smbus_lives {s : State} {pec : Bool} {answer : State → State} (h : s.lives (answer s)) : s.lives (s.smbus pec answer) :=
  State.lives_ite s.lives_refl (State.lives_ite h (State.lives_of_power id rfl rfl))

theorem execAvsSample_lives {b : Block} {m : BitVec 8} {s t : State} (h : execAvsSample b m s = .next t) : s.lives t := by
  have hw := within_of_exec (c := .avsSample b m) h
  refine ⟨fun he => ?_, fun _ => ⟨hw.cfg (by simp [changedBy]), hw.cores (by simp [changedBy])⟩⟩
  obtain hnone | ⟨x, hx⟩ := Option.eq_none_or_eq_some s.power.blocks[b.val]?
  · rw [execAvsSample, hnone] at h
    obtain rfl := Host.Outcome.next.inj h
    exact he
  · obtain rfl := Host.Outcome.next.inj ((exec_avsSample hx m).symm.trans h)
    split
    · rw [(s.avsSampled_effect b (x.sample m)).1]; exact he
    · exact he

/-! ### The dial, spare swaps and the reset ladder -/

/-- Time passes with the latch as it is. -/
theorem State.elapse_estop (s : State) (cycles : Nat) : (s.elapse cycles).power.estop = s.power.estop := rfl

theorem execDialAdvance_lives {cycles : Nat} {s t : State} (h : execDialAdvance cycles s = .next t) : s.lives t := by
  have hw := within_of_exec (c := .dialAdvance cycles) h
  refine ⟨fun he => ?_, fun _ => ⟨hw.cfg (by simp [changedBy]), hw.cores (by simp [changedBy])⟩⟩
  obtain rfl := Host.Outcome.next.inj h
  dsimp only
  split
  · exact he
  · let L : List Part := [.flash, .dial, .logs, .mbs, .sched, .memory, .tables, .cursors, .gather, .train, .blocks, .cascade, .links, .resil]
    have hturn (f : DialState → DialState) (pos : Nat) :
        (s.elapse cycles).within L ((((s.elapse cycles).noteCompletions.onDial f).meetBeat.leave pos).arrive) := State.arrive_within (State.leave_within (State.meetBeat_within (State.onDial_within
      (State.noteCompletions_within (State.within_refl (s.elapse cycles) L) (Part.covers_mem rfl)) (Part.covers_mem rfl)) (Part.covers_mem rfl))
      (Part.covers_mem rfl)) (Part.covers_mem rfl)
    rw [(hturn _ _).power (by decide)]
    exact he

theorem execStepBoundary_lives {cycles : Nat} {s t : State} (h : execStepBoundary cycles s = .next t) : s.lives t := by
  have hw := within_of_exec (c := .stepBoundary cycles) h
  refine ⟨fun he => ?_, fun _ => ⟨hw.cfg (by simp [changedBy]), hw.cores (by simp [changedBy])⟩⟩
  obtain rfl := Host.Outcome.next.inj h
  dsimp only
  split
  · exact he
  · rw [(State.cross_within (State.within_refl (s.elapse cycles) _) (List.Subset.refl _)).power (by decide)]
    exact he

theorem State.repairUnit_estop {s u : State} {w : Swap} (h : s.repairUnit w = some u) : u.power.estop = s.power.estop := by
  unfold State.repairUnit State.bringIn at h
  split at h
  · split at h
    all_goals
      obtain ⟨n, -, rfl⟩ := Option.map_eq_some_iff.1 h
      rfl
  · obtain rfl := Option.some.inj h
    exact congrArg PowerState.estop ((State.useSpare_within (State.within_refl s _) (List.Subset.refl _)).power (by decide))
  all_goals
    obtain rfl := Option.some.inj h
    rfl

theorem State.logDevice_power (s : State) (code : Nat) (who : Named) (dropped detail : Nat) :
    (s.logDevice code who dropped detail).power = s.power :=
  (State.logDevice_within (State.within_refl _ [.logs]) (List.Subset.refl _)).power (by decide)

theorem State.sparePowerFailed_estop (s : State) (w : Swap) : (s.sparePowerFailed w).power.estop = s.power.estop := by
  unfold State.sparePowerFailed
  dsimp only
  split
  · rfl
  · split
    · rw [State.onResil_power, (State.noSpare_within (State.within_refl _ _) (List.Subset.refl _)).power (by decide)]
      change (State.logDevice _ _ _ _ _).power.estop = _
      rw [State.logDevice_power]
      rfl
    · change (State.logDevice _ _ _ _ _).power.estop = _
      rw [State.logDevice_power]
      rfl

theorem execSpareSwapComplete_lives {ok : Bool} {s t : State} (h : execSpareSwapComplete ok s = .next t) : s.lives t := by
  have hw := within_of_exec (c := .spareSwapComplete ok) h
  refine ⟨fun he => ?_, fun _ => ⟨hw.cfg (by simp [changedBy]), hw.cores (by simp [changedBy])⟩⟩
  obtain rfl := Host.Outcome.next.inj h
  split
  · exact he
  split
  · exact he
  split
  · rw [State.sparePowerFailed_estop]; exact he
  split
  · rw [State.onResil_power, (State.noSpare_within (State.within_refl s _) (List.Subset.refl _)).power (by decide)]
    exact he
  next hu =>
    rw [State.onResil_power, (State.logDevice_within (State.within_refl _ _) (List.Subset.refl _)).power (by decide), State.repairUnit_estop hu]
    exact he

theorem State.resetDevice_lives {s t : State} (ht : s.power.estop = true → t.power.estop = true) : s.lives t.resetDevice :=
  State.lives_of_lost ht rfl

/-- What a rung below 4 can change. -/
def rungParts : List Part :=
  [.dial, .logs, .mbs, .sched, .memory, .tables, .rambler, .gather, .train, .blocks, .cascade, .links, .resil, .bytes]

/-- A rung below 4 resets its domain and nothing that a device's start brought up. -/
theorem State.beginRung_within_of_lt {s : State} {l : Ladder} {k : Nat} (hk : k < 4) : s.within rungParts (s.beginRung l k) := by
  have hL {M : List Part} (h : Part.covers M rungParts = true) : M ⊆ rungParts := Part.covers_mem h
  have hhang (f : HangRecord → HangRecord) : s.within rungParts (s.onHang l.record f) := State.onHang_within (State.within_refl _ _) (hL rfl)
  have hdrop (f : HangRecord → HangRecord) (xs : List (Nat × Nat × TaskContext)) : s.within rungParts ((s.onHang l.record f).dropDomain xs) :=
    State.dropDomain_within (hhang f) (hL rfl)
  unfold State.beginRung
  rw [if_neg (by omega)]
  dsimp only
  refine State.settle_within (State.onResil_within ?_ (hL rfl)) (hL rfl)
  split
  · exact State.resetEngine_within (State.within_ite (State.dropSegments_within (hdrop _ _) (hL rfl)) (hdrop _ _)) (hL rfl)
  · exact State.resetBlock_within (State.within_ite (State.dropSegments_within (hdrop _ _) (hL rfl)) (hdrop _ _)) (hL rfl)
  · exact State.resetRegion_within (State.within_ite (State.dropSegments_within (hdrop _ _) (hL rfl)) (hdrop _ _)) (hL rfl)

/-- A rung begins: the device resets itself at rung 4, else what its start brought up stays. -/
theorem State.beginRung_lives {s t : State} (h : s.within [.draws, .logs, .resil] t) (l : Ladder) (k : Nat) : s.lives (t.beginRung l k) := by
  by_cases hk : k < 4
  · have hrung := State.beginRung_within_of_lt (s := t) (l := l) hk
    refine ⟨fun he => ?_, fun _ => ⟨?_, ?_⟩⟩
    · rw [hrung.power (by decide), h.power (by decide)]; exact he
    · rw [hrung.cfg (by decide), h.cfg (by decide)]
    · rw [hrung.cores (by decide), h.cores (by decide)]
  · rw [State.beginRung_of_four_le _ _ (by omega)]
    refine State.resetDevice_lives fun he => ?_
    rw [(State.onHang_within (State.within_refl t [.resil]) (List.Subset.refl _)).power (by decide), h.power (by decide)]
    exact he

theorem State.endCollection_lives (s : State) (whole : Bool) : s.lives (s.endCollection whole) := by
  unfold State.endCollection
  split
  · exact s.lives_refl
  · exact State.beginRung_lives (State.draw_within (State.onResil_within (State.within_refl _ _) (Part.covers_mem rfl)) (Part.covers_mem rfl)) _ _

theorem execResetRungTimeout_lives {s t : State} (h : execResetRungTimeout s = .next t) : s.lives t := by
  obtain rfl := Host.Outcome.next.inj h
  split
  · exact s.lives_refl
  · exact State.beginRung_lives (State.logDevice_within (State.within_refl _ _) (Part.covers_mem rfl)) _ _

/-- A start that may not begin changes nothing. -/
theorem exec_startSequence_of_begun {s : State} (f : StartFindings) (h : s.start.begun = true) : exec (.startSequence f) s = .next s :=
  congrArg Host.Outcome.next (if_neg fun hc => hc.2.2 h)

/-! ### Every command -/

/-- Every command but an external reset, an undervoltage and a start keeps what lives. -/
theorem lives_of_exec {c : Instr} {s t : State} (h : exec c s = .next t) (hreset : c ≠ .externalReset)
    (hinput : c ≠ .inputFault .undervoltage) (hstart : ∀ f, c ≠ .startSequence f)
    (hcore : ∀ i, c ≠ .heartbeat i ∧ c ≠ .watcherRead i ∧ c ≠ .takeoverComplete i) : s.lives t := by
  cases c
  case externalReset => exact absurd rfl hreset
  case startSequence f => exact absurd rfl (hstart f)
  case heartbeat i => exact absurd rfl (hcore i).1
  case watcherRead i => exact absurd rfl (hcore i).2.1
  case takeoverComplete i => exact absurd rfl (hcore i).2.2
  -- power-up, shutdowns and monitors
  case vinRise =>
    obtain rfl := Host.Outcome.next.inj h
    exact State.lives_ite (State.rampIfEnabled_lives (State.lives_of_power id rfl rfl)) s.lives_refl
  case enRise =>
    obtain rfl := Host.Outcome.next.inj h
    exact State.rampIfEnabled_lives (State.lives_of_power id rfl rfl)
  case baseDomainsGood =>
    obtain rfl := Host.Outcome.next.inj h
    exact State.lives_ite (State.releasePg_lives (State.lives_of_power id rfl rfl)) s.lives_refl
  case enFall => exact execEnFall_lives h
  case resetNRise => exact execResetNRise_lives h
  case inputFault kind => exact execInputFault_lives (fun hk => hinput (by rw [hk])) h
  case inputReturn =>
    obtain rfl := Host.Outcome.next.inj h
    exact State.rampIfEnabled_lives (State.lives_of_power id rfl rfl)
  case refclkFault =>
    obtain rfl := Host.Outcome.next.inj h
    exact State.lives_ite (State.lives_of_lost id rfl) (State.lives_of_power id rfl rfl)
  case refclkReturn =>
    obtain rfl := Host.Outcome.next.inj h
    exact State.lives_ite (State.rampIfEnabled_lives (State.lives_of_power id rfl rfl))
      (State.releasePg_lives (State.lives_of_power id rfl rfl))
  case baseDomainToleranceLost =>
    obtain rfl := Host.Outcome.next.inj h
    exact State.lives_ite (State.lives_of_lost id rfl) s.lives_refl
  case temperatureThreshold => exact execTemperatureThreshold_lives h
  case avsSample => exact execAvsSample_lives h
  case clockStretch =>
    obtain rfl := Host.Outcome.next.inj h
    exact State.lives_of_power id rfl rfl
  case telemetrySample =>
    obtain rfl := Host.Outcome.next.inj h
    exact State.lives_ite s.lives_refl (State.lives_of_power id rfl rfl)
  -- the sideband
  case estop =>
    obtain rfl := Host.Outcome.next.inj h
    exact State.lives_ite s.lives_refl (State.lives_ite (State.lives_of_lost (fun _ => rfl) rfl) (State.lives_of_power id rfl rfl))
  case identity | state | power | thermal | statusAddr | statusRead | journalAddr | alertClear =>
    obtain rfl := Host.Outcome.next.inj h
    exact State.smbus_lives (State.lives_of_power id rfl rfl)
  case journalRead =>
    obtain rfl := Host.Outcome.next.inj h
    exact State.smbus_lives (State.lives_ite (State.lives_of_power id rfl rfl) (State.lives_of_power id rfl rfl))
  -- boundary scan
  case tapReset | bypass | idcode =>
    obtain rfl := Host.Outcome.next.inj h
    exact s.tapLoad_lives _ _
  case samplePreload =>
    obtain rfl := Host.Outcome.next.inj h
    exact s.tapLoad_lives .samplePreload s.captured
  case extest =>
    obtain rfl := Host.Outcome.next.inj h
    exact s.tapDrive_lives .extest s.captured
  case extestPulse =>
    obtain rfl := Host.Outcome.next.inj h
    exact s.tapDrive_lives .extestPulse s.captured
  case extestTrain =>
    obtain rfl := Host.Outcome.next.inj h
    exact s.tapDrive_lives .extestTrain s.captured
  case clamp | highz =>
    obtain rfl := Host.Outcome.next.inj h
    exact s.tapDrive_lives _ _
  -- the dial, spares, resets
  case dialAdvance => exact execDialAdvance_lives h
  case stepBoundary => exact execStepBoundary_lives h
  case spareSwapComplete => exact execSpareSwapComplete_lives h
  case startRestart =>
    obtain rfl := Host.Outcome.next.inj h
    exact State.lives_ite (State.lives_of_lost id rfl) s.lives_refl
  case resetRungTimeout => exact execResetRungTimeout_lives h
  case hangRecordTimeout | hangRecordCollected =>
    obtain rfl := Host.Outcome.next.inj h
    exact s.endCollection_lives _
  all_goals exact State.lives_of_within (within_of_exec h) (by simp [changedBy]) (by simp [changedBy]) (by simp [changedBy])

/-- The latch stays set, unless an external reset or an undervoltage clears it (R498). -/
theorem estop_of_exec {c : Instr} {s t : State} (h : exec c s = .next t) (he : s.power.estop = true) :
    t.power.estop = true ∨ c = .externalReset ∨ c = .inputFault .undervoltage := by
  by_cases hreset : c = .externalReset
  · exact .inr (.inl hreset)
  by_cases hinput : c = .inputFault .undervoltage
  · exact .inr (.inr hinput)
  refine .inl ?_
  by_cases hother : (∃ f, c = .startSequence f) ∨ ∃ i, c = .heartbeat i ∨ c = .watcherRead i ∨ c = .takeoverComplete i
  · obtain ⟨f, rfl⟩ | ⟨i, hi⟩ := hother
    · by_cases hmay : s.power.stage = .good ∧ s.power.resetN = true ∧ s.start.begun = false
      · obtain ⟨hstage, hreset, hbegun⟩ := hmay
        rw [(exec_startSequence_ends hstage hreset hbegun h).2.2.2.2, he]
      · have hskip : exec (.startSequence f) s = .next s := congrArg Host.Outcome.next (if_neg (by simpa using hmay))
        obtain rfl := Host.Outcome.next.inj (hskip.symm.trans h)
        exact he
    · have hpower : t.power = s.power := by
        obtain rfl | rfl | rfl := hi <;> exact (within_of_exec h).power (by simp [changedBy])
      rw [hpower, he]
  · simp only [not_or, not_exists] at hother
    exact (lives_of_exec h hreset hinput hother.1 hother.2).1 he

/-- A device that stays started keeps its configuration, and its cores but for their own events. -/
theorem cfg_of_exec {c : Instr} {s t : State} (h : exec c s = .next t) (hs : s.start.begun = true) (ht : t.start.begun = true) :
    t.cfg = s.cfg ∧ (t.cores ≠ s.cores → ∃ i, c = .heartbeat i ∨ c = .watcherRead i ∨ c = .takeoverComplete i) := by
  by_cases hcore : ∃ i, c = .heartbeat i ∨ c = .watcherRead i ∨ c = .takeoverComplete i
  · refine ⟨?_, fun _ => hcore⟩
    obtain ⟨i, rfl | rfl | rfl⟩ := hcore <;> exact (within_of_exec h).cfg (by simp [changedBy])
  suffices hkept : t.cfg = s.cfg ∧ t.cores = s.cores from ⟨hkept.1, fun hne => absurd hkept.2 hne⟩
  by_cases hreset : c = .externalReset
  · subst hreset
    by_cases hpg : s.power.pgOut = true
    · have hexec : exec .externalReset s = .next _ := congrArg Host.Outcome.next (if_pos hpg)
      obtain rfl := Host.Outcome.next.inj (hexec.symm.trans h)
      exact absurd ht (by simp [State.loseDevice, State.reset, StartState.reset])
    · obtain rfl := Host.Outcome.next.inj h
      rw [if_neg hpg]
      split <;> exact ⟨rfl, rfl⟩
  by_cases hinput : c = .inputFault .undervoltage
  · subst hinput
    by_cases hoff : s.power.stage = .off
    · have hexec : exec (.inputFault .undervoltage) s = .next s := congrArg Host.Outcome.next (if_pos hoff)
      obtain rfl := Host.Outcome.next.inj (hexec.symm.trans h)
      exact ⟨rfl, rfl⟩
    · have hexec : exec (.inputFault .undervoltage) s = .next _ := congrArg Host.Outcome.next (if_neg hoff)
      obtain rfl := Host.Outcome.next.inj (hexec.symm.trans h)
      exact absurd ht (by simp [State.reset, StartState.reset])
  by_cases hstart : ∃ f, c = .startSequence f
  · obtain ⟨f, rfl⟩ := hstart
    obtain rfl := Host.Outcome.next.inj ((exec_startSequence_of_begun f hs).symm.trans h)
    exact ⟨rfl, rfl⟩
  simp only [not_exists, not_or] at hcore hstart
  exact (lives_of_exec h hreset hinput hstart hcore).2 ht

/-- Who changes the flash: the commands whose frame names it, but for those that lose the device. -/
theorem flash_of_exec {c : Instr} {s t : State} (h : exec c s = .next t) (hne : t.flash ≠ s.flash) :
    c = .stageCommitDone ∨ (∃ n, c = .dialAdvance n ∨ c = .stepBoundary n) ∨ (∃ f, c = .startSequence f) ∨
      (∃ job ok, c = .flashProgramDone job ok) ∨ (∃ i, c = .takeoverComplete i) ∨ (∃ h slot, c = .select h slot) ∨
      ∃ h step, c = .start h step ∨ c = .pause h step ∨ c = .stop h step ∨ c = .eval h step ∨ c = .ckpt h step := by
  cases c
  case stageCommitDone | dialAdvance | stepBoundary | startSequence | flashProgramDone | takeoverComplete | select | start | pause | stop
      | eval | ckpt => simp
  all_goals exact absurd ((within_of_exec h).flash (by simp [changedBy])) hne

/-- Settles O60: the frame of every command, and the four rules on the whole machine. -/
theorem onlyNamedCommands : Obligations.OnlyNamedCommands := by
  intro s c
  refine runs_of fun t ht hkeep => ⟨hkeep, fun hs hbegun => (cfg_of_exec ht hs hbegun).1, fun hs hbegun => (cfg_of_exec ht hs hbegun).2,
    flash_of_exec ht, fun he hclear => ?_⟩
  exact (estop_of_exec ht he).resolve_left (by simp [hclear])
end Sys2Proof.Machine
end


section
/-! PROOFS. Staging a new image (R114–R116) and the host's run commands (R145, R146, R148): a staging request with role 1 up acts on the
staging state alone, a flash program that ends leaves what its job says of its slot and its directory, and a run command without a fault is
its effect and one completion with 0x000. -/

namespace Sys2Proof.Machine

set_option Elab.async false

/-! ### Staging requests (R114, R115) -/

theorem State.onStaging_onlyIn (s : State) (f : StagingState → StagingState) : s.onlyIn (s.onStaging f) [.staging] :=
  (State.onStaging_within (State.within_refl s [.staging]) (List.Subset.refl _)).1

/-- A staging request without a fault is its action while role 1 has a core. -/
theorem State.stagingRequest_of_clean {s : State} {h : HkHeader} {flits : Nat} {fs : List (Nat × Nat)} (hs : s.hostReady h.tag)
    (hrole : s.roleUp 1 = true) (hh : cleanHeader h flits) (hfs : fs = []) (c : Instr) (act : State → State) :
    s.stagingRequest h c true fs act = act s := by
  rw [State.stagingRequest, State.request_of_clean hs hh hfs]
  simp [hrole]

theorem cleanHeader.flits_beq {h : HkHeader} (hh : cleanHeader h 0) : (h.flits == 0) = true := by
  obtain ⟨-, -, -, -, -, -, hflits, -⟩ := hh
  exact beq_iff_eq.2 (BitVec.eq_of_toNat_eq hflits)

theorem exec_stageOpen_of_clean {s : State} {h : HkHeader} (hs : s.hostReady h.tag) (hrole : s.roleUp 1 = true) (hh : cleanHeader h 0) :
    exec (.stageOpen h) s = .next (s.openStaging h) := by
  change execStageOpen h s = _
  rw [execStageOpen, hh.flits_beq, State.stagingRequest_of_clean hs hrole hh rfl]

theorem exec_stageWrite_of_clean {s : State} {h : HkHeader} (hs : s.hostReady h.tag) (hrole : s.roleUp 1 = true) {offset : BitVec 32}
    {data : List Flit} (hh : cleanHeader h data.length) (hfour : data.length % 4 = 0) (hdata : data ≠ []) (hoff : offset.toNat % 256 = 0) :
    exec (.stageWrite h offset data) s = .next (s.writeStaging h offset.toNat data) := by
  have hlen : h.flits.toNat = data.length := hh.2.2.2.2.2.2.1
  have hpos := List.length_pos_iff.2 hdata
  have hok : decide (4 ≤ h.flits.toNat ∧ h.flits.toNat % 4 = 0) = true := by
    rw [hlen]
    exact decide_eq_true ⟨by omega, hfour⟩
  change execStageWrite h offset data s = _
  rw [execStageWrite, hok, State.stagingRequest_of_clean hs hrole hh (by simp [hoff, faultIf])]

theorem exec_stageCommit_of_clean {s : State} {h : HkHeader} (hs : s.hostReady h.tag) (hrole : s.roleUp 1 = true) (hh : cleanHeader h 0) :
    exec (.stageCommit h) s = .next (s.commitStaging h) := by
  change execStageCommit h s = _
  rw [execStageCommit, hh.flits_beq, State.stagingRequest_of_clean hs hrole hh rfl]

theorem exec_stageDiscard_of_clean {s : State} {h : HkHeader} (hs : s.hostReady h.tag) (hrole : s.roleUp 1 = true) (hh : cleanHeader h 0) :
    exec (.stageDiscard h) s = .next (s.discardStaging h) := by
  change execStageDiscard h s = _
  rw [execStageDiscard, hh.flits_beq, State.stagingRequest_of_clean hs hrole hh rfl]

/-- Settles O7: each request is an update of the staging state. -/
theorem stagingRequests : Obligations.StagingRequests := by
  intro s h hs hrole
  refine ⟨fun hh hopen => ⟨_, exec_stageOpen_of_clean hs hrole hh, ?_⟩,
    fun offset data hh hfour hdata hoff hopen hphase hfit => ⟨_, exec_stageWrite_of_clean hs hrole hh hfour hdata hoff, ?_⟩,
    fun hh hopen hphase => ⟨_, exec_stageCommit_of_clean hs hrole hh, ?_⟩,
    fun hh htag => ⟨_, exec_stageDiscard_of_clean hs hrole hh, ?_⟩⟩
  · rw [State.openStaging, if_neg (by simp [hopen])]
    exact ⟨rfl, ((State.onStaging_within (State.onStaging_within (State.within_refl s [.staging]) (by simp)) (by simp))).1⟩
  · have hok : ¬ (¬ s.staging.open_ ∨ s.staging.phase ≠ 1 ∨ offset.toNat + 64 * data.length > imageSlotBytes) := by
      simp only [hopen, hphase, imageSlotBytes, not_true, not_or]
      exact ⟨id, not_not.2 rfl, by omega⟩
    rw [State.writeStaging, if_neg hok]
    exact ⟨rfl, s.onStaging_onlyIn _⟩
  · rw [State.commitStaging, if_neg (by simp [hopen, hphase])]
    exact ⟨rfl, s.onStaging_onlyIn _⟩
  · rw [State.discardStaging, htag]
    exact ⟨rfl, (State.onStaging_within (State.onStaging_within (State.within_refl s [.staging]) (by simp)) (by simp)).1⟩

/-! ### What a flash program leaves (R114, R115, R497) -/

theorem lookupNat_filter_ne {α : Type} {k off : Nat} {l : List (Nat × α)} :
    lookupNat k (l.filter (·.1 != off)) = if off = k then none else lookupNat k l := by
  induction l with
  | nil => simp [lookupNat]
  | cons x r ih =>
    obtain ⟨j, a⟩ := x
    by_cases hj : j = off
    · rw [List.filter_cons_of_neg (by simp [hj]), ih, lookupNat, hj]
      split <;> rfl
    · rw [List.filter_cons_of_pos (by simp [hj]), lookupNat, lookupNat, ih]
      by_cases hk : j = k
      · rw [if_pos hk, if_pos hk, if_neg (by omega)]
      · rw [if_neg hk, if_neg hk]

/-- The byte of a slot's cells at an address: 0xFF where none is listed. -/
def cellByte (cells : List Host.Cell) (a : Nat) : Byte := (lookupNat a cells).getD 0xFF

theorem FlashState.image_eq_cellByte (f : FlashState) (slot : Bool) (a : Nat) :
    f.image slot a = (cellByte (if slot then f.slot1 else f.slot0) a).toNat := rfl

theorem cellByte_writeImage {bs : List Byte} {cells : List Host.Cell} {off a : Nat} :
    cellByte (writeImage cells off bs) a = if off ≤ a then (bs[a - off]?).getD (cellByte cells a) else cellByte cells a := by
  induction bs generalizing cells off with
  | nil => simp [writeImage]
  | cons b bs ih =>
    have hone : cellByte (if b = 0xFF then cells.filter (·.1 != off) else insertKey off b cells) a =
        if off = a then b else cellByte cells a := by
      split
      next hff =>
        rw [cellByte, lookupNat_filter_ne]
        split
        · exact hff.symm
        · rfl
      next =>
        rw [cellByte, lookupNat_insertKey]
        split <;> rfl
    rw [writeImage, ih, hone]
    rcases Nat.lt_trichotomy a off with hlt | rfl | hgt
    · rw [if_neg (by omega), if_neg (by omega), if_neg (by omega)]
    · simp
    · have hnext : a - off = a - (off + 1) + 1 := by omega
      rw [if_pos (show off + 1 ≤ a from hgt), if_neg (by omega), if_pos hgt.le, hnext, List.getElem?_cons_succ]

/-- The flash without a pending slot. -/
def FlashState.withoutPending (f : FlashState) : FlashState :=
  match f.directory.bind (·.pending) with
  | some _ => f.writeDirectory (f.directory.elim false (·.active)) none
  | none => f

/-- The cells of one slot, replaced. -/
def FlashState.onSlot (f : FlashState) (slot : Bool) (g : List Host.Cell → List Host.Cell) : FlashState :=
  if slot then { f with slot1 := g f.slot1 } else { f with slot0 := g f.slot0 }

/-- The record goes over one of the two copies; nothing else of the flash changes. -/
theorem FlashState.writeDirectory_cases (f : FlashState) (active : Bool) (pending : Option Bool) :
    let d : Directory := ⟨active, pending, f.directory.elim 0 fun d => d.seq + 1⟩
    f.writeDirectory active pending = { f with dir1 := some d } ∨ f.writeDirectory active pending = { f with dir0 := some d } :=
  ite_eq_or_eq ..

theorem FlashState.writeDirectory_slots (f : FlashState) (active : Bool) (pending : Option Bool) :
    (f.writeDirectory active pending).slot0 = f.slot0 ∧ (f.writeDirectory active pending).slot1 = f.slot1 := by
  obtain h | h := f.writeDirectory_cases active pending <;> rw [h] <;> exact ⟨rfl, rfl⟩

theorem FlashState.writeDirectory_names (f : FlashState) (active : Bool) (pending : Option Bool) :
    let d : Directory := ⟨active, pending, f.directory.elim 0 fun d => d.seq + 1⟩
    (f.writeDirectory active pending).dir0 = some d ∨ (f.writeDirectory active pending).dir1 = some d := by
  obtain h | h := f.writeDirectory_cases active pending
  · exact .inr (congrArg FlashState.dir1 h)
  · exact .inl (congrArg FlashState.dir0 h)

theorem FlashState.withoutPending_image (f : FlashState) (slot : Bool) : f.withoutPending.image slot = f.image slot := by
  rw [FlashState.withoutPending]
  split
  · funext a
    rw [FlashState.image_eq_cellByte, FlashState.image_eq_cellByte, (f.writeDirectory_slots _ _).1, (f.writeDirectory_slots _ _).2]
  · rfl

theorem FlashState.withoutPending_names {f : FlashState} {d : Directory} {slot : Bool} (hd : f.directory = some d)
    (hpending : d.pending = some slot) :
    f.withoutPending.dir0 = some ⟨d.active, none, d.seq + 1⟩ ∨ f.withoutPending.dir1 = some ⟨d.active, none, d.seq + 1⟩ := by
  have hsome : f.directory.bind (·.pending) = some slot := by rw [hd, Option.bind_some, hpending]
  have hnames := f.writeDirectory_names d.active none
  rw [FlashState.withoutPending, hsome]
  simpa [hd] using hnames

theorem FlashState.onSlot_dirs (f : FlashState) (slot : Bool) (g : List Host.Cell → List Host.Cell) :
    (f.onSlot slot g).dir0 = f.dir0 ∧ (f.onSlot slot g).dir1 = f.dir1 := by
  cases slot <;> exact ⟨rfl, rfl⟩

theorem FlashState.onSlot_image_same (f : FlashState) (slot : Bool) (g : List Host.Cell → List Host.Cell) (a : Nat) :
    (f.onSlot slot g).image slot a = (cellByte (g (if slot then f.slot1 else f.slot0)) a).toNat := by
  cases slot <;> rfl

theorem FlashState.onSlot_image_other (f : FlashState) (slot : Bool) (g : List Host.Cell → List Host.Cell) :
    (f.onSlot slot g).image (!slot) = f.image (!slot) := by
  cases slot <;> rfl

section
variable {s : State} {w : FlashWork}

theorem State.endFlash_of_erase (hjob : w.job = .stageErase) :
    s.endFlash w = { s with flash := s.flash.withoutPending.onSlot w.slot fun _ => [] } := by
  simp only [State.endFlash, hjob]
  rfl

theorem State.endFlash_of_write (hjob : w.job = .stageWrite) :
    s.endFlash w = { s with flash := s.flash.onSlot w.slot fun c => writeImage c w.offset w.bytes
                            staging := { s.staging with bytes := addN s.staging.bytes w.bytes.length } } := by
  simp only [State.endFlash, hjob]
  rfl

theorem State.endFlash_of_discard (hjob : w.job = .discard) : s.endFlash w = { s with flash := s.flash.withoutPending } := by
  simp only [State.endFlash, hjob]
  rfl

theorem State.endFlash_of_record (hjob : w.job ∈ [FlashJob.directory, .journal, .repairJournal]) : s.endFlash w = s := by
  simp only [List.mem_cons, List.not_mem_nil, or_false] at hjob
  obtain hjob | hjob | hjob := hjob <;> simp only [State.endFlash, hjob]

end

/-- The completion a flash program owes. -/
def State.payFlash (s : State) (w : FlashWork) (code : Nat) : State :=
  match w.tag with
  | none => s
  | some t => (s.sendCompletion t code 0 []).countError code

theorem State.countError_zero (s : State) : s.countError 0 = s := rfl

theorem exec_flashProgramDone_of_busy {s : State} {w : FlashWork} {rest : List FlashWork} (hbusy : s.staging.busy = w :: rest) (ok : Bool) :
    exec (.flashProgramDone w.job ok) s =
      let u := s.onStaging fun g => { g with busy := rest }
      .next ((if ok then u.endFlash w else u).payFlash w (if ok then 0 else 0x066)) := by
  change execFlashProgramDone w.job ok s = _
  rw [execFlashProgramDone, hbusy]
  dsimp only
  rw [if_neg (not_not.2 rfl), State.payFlash]
  cases w.tag with
  | none => rfl
  | some t =>
    cases ok with
    | false => simp only [Bool.false_eq_true, if_false]
    | true => simp only [if_true, State.countError_zero]

theorem State.sendPacket_congr_links {s u : State} (h : u.links = s.links) (p : Nat) (k : Packet) :
    (u.sendPacket p k).links = (s.sendPacket p k).links := by
  rw [State.sendPacket, State.sendPacket, State.onPort_links, State.onPort_links, h]

theorem State.countError_links (s : State) (code : Nat) : (s.countError code).links = s.links := by
  rw [State.countError]
  split <;> rfl

theorem State.payFlash_owed {s u : State} (hlinks : u.links = s.links) (w : FlashWork) {code : Nat} (hcode : code < 2 ^ 12) :
    (∀ tag, w.tag = some tag → s.answered (u.payFlash w code) tag code) ∧ (w.tag = none → (u.payFlash w code).links = s.links) := by
  refine ⟨fun tag htag => ?_, fun htag => ?_⟩
  · rw [State.payFlash, htag, State.answered, State.countError_links, State.sendCompletion_nil u tag hcode,
      State.sendPacket_congr_links hlinks]
  · rw [State.payFlash, htag, hlinks]

theorem State.payFlash_within {s u : State} {L : List Part} (h : s.within L u) (hL : [.links] ⊆ L) (w : FlashWork) :
    s.within L (u.payFlash w 0) := by
  rw [State.payFlash]
  split
  · exact h
  · exact State.sendCompletion_within h hL

theorem State.payFlash_zero_flash (u : State) (w : FlashWork) : (u.payFlash w 0).flash = u.flash :=
  (State.payFlash_within (State.within_refl u [.links]) (List.Subset.refl _) w).flash (by decide)

theorem State.payFlash_zero_staging (u : State) (w : FlashWork) : (u.payFlash w 0).staging = u.staging :=
  (State.payFlash_within (State.within_refl u [.links]) (List.Subset.refl _) w).staging (by decide)

/-! ### The end of a verification (R114, R116) -/

theorem State.endVerify_links (s : State) (r : Option Nat) : (s.endVerify r).links = s.links := by
  cases r with
  | none => rfl
  | some code => rw [State.endVerify, State.countError_links]

/-- The verification's own effect, before its completion. -/
def State.verified (s : State) : State :=
  (s.endVerify s.checkStaged).onStaging fun g => { g with open_ := false, commitTag := none }

theorem State.verified_links (s : State) : s.verified.links = s.links := by
  rw [State.verified, State.onStaging_links, State.endVerify_links]

theorem State.verified_of_pass {s : State} (h : s.checkStaged = none) :
    s.verified = { s with
      flash := { s.flash.writeDirectory (!s.inactiveSlot) (some s.inactiveSlot) with failedFrom := s.start.startCount.toNat + 1, memo := none }
      start := { s.start with failedRun := 0 }
      staging := { s.staging with phase := 3, progress := 0xFFFF, open_ := false, commitTag := none } } := by
  rw [State.verified, h]
  rfl

theorem State.verified_of_fault {s : State} {code : Nat} (h : s.checkStaged = some code) :
    s.verified = (s.countError code).onStaging fun g =>
      { g with phase := 4, progress := 0, code := BitVec.ofNat 12 code, open_ := false, commitTag := none } := by
  rw [State.verified, h, State.endVerify, State.countError, State.countError]
  split <;> rfl

theorem State.countError_staging (s : State) (code : Nat) : (s.countError code).staging = s.staging := by
  rw [State.countError]
  split <;> rfl

theorem exec_stageCommitDone_of_idle {s : State} {tag : BitVec 8} (htag : s.staging.commitTag = some tag) (hbusy : s.staging.busy = []) :
    exec .stageCommitDone s = .next (s.verified.sendPacket 6 (completionPacket tag 0)) := by
  change execStageCommitDone s = _
  rw [execStageCommitDone, htag, hbusy]
  dsimp only
  rw [if_neg (by simp), State.sendCompletion_nil _ tag (by decide), State.verified]

theorem State.sendPacket_onlyIn {s u : State} {L : List Part} (h : s.within L u) (hL : [.links] ⊆ L) {p : Nat} {k : Packet} :
    s.onlyIn (u.sendPacket p k) L :=
  (State.sendPacket_within h hL).1

theorem State.sendPacket_staging (s : State) (p : Nat) (k : Packet) : (s.sendPacket p k).staging = s.staging := State.onPort_staging ..
theorem State.sendPacket_flash (s : State) (p : Nat) (k : Packet) : (s.sendPacket p k).flash = s.flash := State.onPort_flash ..
theorem State.sendPacket_start (s : State) (p : Nat) (k : Packet) : (s.sendPacket p k).start = s.start := State.onPort_start ..

section
variable {s : State} {tag : BitVec 8} (htag : s.staging.commitTag = some tag) (hbusy : s.staging.busy = [])
include htag hbusy

theorem stageCommitDone_passes (hr : s.checkStaged = none) : runs .stageCommitDone s fun t =>
    t.staging.open_ = false ∧ t.staging.commitTag = none ∧ s.answered t tag 0 ∧
    t.staging.phase = 3 ∧ t.staging.progress = 0xFFFF ∧ t.start.failedRun = 0 ∧ t.flash.failedFrom = s.start.startCount.toNat + 1 ∧
    t.flash.memo = none ∧ t.flash.slot0 = s.flash.slot0 ∧ t.flash.slot1 = s.flash.slot1 ∧
    (∃ d, (t.flash.dir0 = some d ∨ t.flash.dir1 = some d) ∧ d.pending = some s.inactiveSlot ∧ d.active = !s.inactiveSlot) ∧
    s.onlyIn t [.staging, .flash, .start, .links] := by
  refine ⟨_, exec_stageCommitDone_of_idle htag hbusy, ?_⟩
  beta_reduce
  rw [State.sendPacket_staging, State.sendPacket_flash, State.sendPacket_start]
  refine ⟨rfl, rfl, State.sendPacket_congr_links s.verified_links .., ?_⟩
  rw [State.verified_of_pass hr]
  have hslots := s.flash.writeDirectory_slots (!s.inactiveSlot) (some s.inactiveSlot)
  refine ⟨rfl, rfl, rfl, rfl, rfl, hslots.1, hslots.2, ⟨_, s.flash.writeDirectory_names .., rfl, rfl⟩, ?_⟩
  refine State.sendPacket_onlyIn (State.within_upd (State.within_refl s _) ?_ ?_ ?_ ?_ ?_ ?_ ?_ ?_ ?_ ?_ ?_ ?_ ?_ ?_ ?_ ?_ ?_ ?_ ?_ ?_ ?_ ?_ ?_)
    (by simp)
  all_goals first | exact .inl rfl | exact .inr (by decide)

theorem stageCommitDone_rejects {code : Nat} (hr : s.checkStaged = some code) : runs .stageCommitDone s fun t =>
    t.staging.open_ = false ∧ t.staging.commitTag = none ∧ s.answered t tag 0 ∧
    t.staging.phase = 4 ∧ t.staging.code = BitVec.ofNat 12 code ∧ s.onlyIn t [.staging, .logs, .links] := by
  refine ⟨_, exec_stageCommitDone_of_idle htag hbusy, ?_⟩
  beta_reduce
  rw [State.sendPacket_staging]
  refine ⟨rfl, rfl, State.sendPacket_congr_links s.verified_links .., ?_⟩
  rw [State.verified_of_fault hr]
  exact ⟨rfl, rfl, State.sendPacket_onlyIn
    (State.onStaging_within (State.countError_within (State.within_refl ..) (by simp)) (by simp)) (by simp)⟩

end

/-! ### The end of a flash program (R115, R497) -/

section
variable {s : State} {w : FlashWork} {rest : List FlashWork} (hbusy : s.staging.busy = w :: rest)
include hbusy

theorem flashProgramDone_fails : runs (.flashProgramDone w.job false) s fun t =>
    t.staging = { s.staging with busy := rest } ∧ t.flash = s.flash ∧
    ((∀ tag, w.tag = some tag → s.answered t tag 0x066) ∧ (w.tag = none → t.links = s.links)) ∧
    s.onlyIn t [.staging, .logs, .links] := by
  refine ⟨_, exec_flashProgramDone_of_busy hbusy false, ?_⟩
  have hw : (s.onStaging fun g => { g with busy := rest }).within [.logs, .links]
      ((s.onStaging fun g => { g with busy := rest }).payFlash w 0x066) := by
    rw [State.payFlash]
    split
    · exact State.within_refl ..
    · exact State.countError_within (State.sendCompletion_within (State.within_refl ..) (by simp)) (by simp)
  refine ⟨hw.staging (by decide), hw.flash (by decide), State.payFlash_owed rfl w (by decide), ?_⟩
  exact (State.within_step hw (State.onStaging_within (State.within_refl ..) (by simp)) (by simp)).1

/-- A program that succeeds: what it leaves, its completion 0x000 aside. -/
theorem flashProgramDone_succeeds {post : StagingState → FlashState → Prop} {L : List Part} (hL : [.staging, .links] ⊆ L)
    (hpost : let u := s.onStaging fun g => { g with busy := rest }
      (u.endFlash w).links = s.links ∧ s.within L (u.endFlash w) ∧ post (u.endFlash w).staging (u.endFlash w).flash) :
    runs (.flashProgramDone w.job true) s fun t =>
      post t.staging t.flash ∧
      ((∀ tag, w.tag = some tag → s.answered t tag 0) ∧ (w.tag = none → t.links = s.links)) ∧ s.onlyIn t L := by
  refine ⟨_, exec_flashProgramDone_of_busy hbusy true, ?_⟩
  obtain ⟨hlinks, hwithin, hpost⟩ := hpost
  rw [if_pos rfl, if_pos rfl]
  generalize State.endFlash _ w = v at hlinks hwithin hpost ⊢
  refine ⟨?_, State.payFlash_owed hlinks w (by decide), (State.payFlash_within hwithin (fun _ hp => hL (by simp_all)) w).1⟩
  rwa [State.payFlash_zero_staging, State.payFlash_zero_flash]

theorem flashProgramDone_erases (hjob : w.job = .stageErase) : runs (.flashProgramDone .stageErase true) s fun t =>
    (∀ a, t.flash.image w.slot a = 0xFF) ∧ (∀ a, t.flash.image (!w.slot) a = s.flash.image (!w.slot) a) ∧
    (∀ d slot, s.flash.directory = some d → d.pending = some slot →
      t.flash.dir0 = some ⟨d.active, none, d.seq + 1⟩ ∨ t.flash.dir1 = some ⟨d.active, none, d.seq + 1⟩) ∧
    t.staging = { s.staging with busy := rest } ∧
    ((∀ tag, w.tag = some tag → s.answered t tag 0) ∧ (w.tag = none → t.links = s.links)) ∧ s.onlyIn t [.staging, .flash, .links] := by
  have hrun := flashProgramDone_succeeds hbusy (L := [.staging, .flash, .links]) (by simp) (post := fun g f =>
    g = { s.staging with busy := rest } ∧ f = s.flash.withoutPending.onSlot w.slot fun _ => [])
    ⟨by rw [State.endFlash_of_erase hjob]; rfl,
      State.endFlash_within (State.onStaging_within (State.within_refl ..) (by simp)) (by simp),
      by rw [State.endFlash_of_erase hjob]; exact ⟨rfl, rfl⟩⟩
  rw [hjob] at hrun
  obtain ⟨t, ht, ⟨hstaging, hflash⟩, howed, honly⟩ := hrun
  refine ⟨t, ht, ?_, ?_, ?_, hstaging, howed, honly⟩ <;> rw [hflash]
  · intro a
    rw [FlashState.onSlot_image_same]
    rfl
  · intro a
    rw [FlashState.onSlot_image_other, FlashState.withoutPending_image]
  · intro d slot hd hpending
    rw [(FlashState.onSlot_dirs ..).1, (FlashState.onSlot_dirs ..).2]
    exact FlashState.withoutPending_names hd hpending

theorem flashProgramDone_writes (hjob : w.job = .stageWrite) : runs (.flashProgramDone .stageWrite true) s fun t =>
    (∀ i b, w.bytes[i]? = some b → t.flash.image w.slot (w.offset + i) = b.toNat) ∧
    (∀ a, a < w.offset ∨ w.offset + w.bytes.length ≤ a → t.flash.image w.slot a = s.flash.image w.slot a) ∧
    (∀ a, t.flash.image (!w.slot) a = s.flash.image (!w.slot) a) ∧
    t.staging = { s.staging with busy := rest, bytes := s.staging.bytes + BitVec.ofNat 32 w.bytes.length } ∧
    ((∀ tag, w.tag = some tag → s.answered t tag 0) ∧ (w.tag = none → t.links = s.links)) ∧ s.onlyIn t [.staging, .flash, .links] := by
  have hrun := flashProgramDone_succeeds hbusy (L := [.staging, .flash, .links]) (by simp) (post := fun g f =>
    g = { s.staging with busy := rest, bytes := s.staging.bytes + BitVec.ofNat 32 w.bytes.length } ∧
    f = s.flash.onSlot w.slot fun c => writeImage c w.offset w.bytes)
    ⟨by rw [State.endFlash_of_write hjob]; rfl,
      State.endFlash_within (State.onStaging_within (State.within_refl ..) (by simp)) (by simp),
      by rw [State.endFlash_of_write hjob]; exact ⟨rfl, rfl⟩⟩
  rw [hjob] at hrun
  obtain ⟨t, ht, ⟨hstaging, hflash⟩, howed, honly⟩ := hrun
  refine ⟨t, ht, ?_, ?_, ?_, hstaging, howed, honly⟩ <;> rw [hflash]
  · intro i b hb
    rw [FlashState.onSlot_image_same, cellByte_writeImage, if_pos (Nat.le_add_right ..), Nat.add_sub_cancel_left, hb, Option.getD_some]
  · intro a ha
    rw [FlashState.onSlot_image_same, cellByte_writeImage, FlashState.image_eq_cellByte]
    split
    · rw [List.getElem?_eq_none (by omega), Option.getD_none]
    · rfl
  · intro a
    rw [FlashState.onSlot_image_other]

theorem flashProgramDone_discards (hjob : w.job = .discard) : runs (.flashProgramDone .discard true) s fun t =>
    (∀ slot a, t.flash.image slot a = s.flash.image slot a) ∧
    (∀ d slot, s.flash.directory = some d → d.pending = some slot →
      t.flash.dir0 = some ⟨d.active, none, d.seq + 1⟩ ∨ t.flash.dir1 = some ⟨d.active, none, d.seq + 1⟩) ∧
    t.staging = { s.staging with busy := rest } ∧
    ((∀ tag, w.tag = some tag → s.answered t tag 0) ∧ (w.tag = none → t.links = s.links)) ∧ s.onlyIn t [.staging, .flash, .links] := by
  have hrun := flashProgramDone_succeeds hbusy (L := [.staging, .flash, .links]) (by simp) (post := fun g f =>
    g = { s.staging with busy := rest } ∧ f = s.flash.withoutPending)
    ⟨by rw [State.endFlash_of_discard hjob]; rfl,
      State.endFlash_within (State.onStaging_within (State.within_refl ..) (by simp)) (by simp),
      by rw [State.endFlash_of_discard hjob]; exact ⟨rfl, rfl⟩⟩
  rw [hjob] at hrun
  obtain ⟨t, ht, ⟨hstaging, hflash⟩, howed, honly⟩ := hrun
  refine ⟨t, ht, ?_, ?_, hstaging, howed, honly⟩ <;> rw [hflash]
  · intro slot a
    rw [FlashState.withoutPending_image]
  · exact fun d slot hd hpending => FlashState.withoutPending_names hd hpending

theorem flashProgramDone_records (hjob : w.job ∈ [FlashJob.directory, .journal, .repairJournal]) :
    runs (.flashProgramDone w.job true) s fun t =>
      t.staging = { s.staging with busy := rest } ∧
      ((∀ tag, w.tag = some tag → s.answered t tag 0) ∧ (w.tag = none → t.links = s.links)) ∧ s.onlyIn t [.staging, .links] := by
  refine flashProgramDone_succeeds hbusy (by simp) (post := fun g _ => g = { s.staging with busy := rest }) ?_
  intro u
  rw [State.endFlash_of_record hjob]
  exact ⟨rfl, State.onStaging_within (State.within_refl ..) (by simp), rfl⟩

end

/-- Settles O8: the verification's end, and one lemma for each job a flash program had. -/
theorem flashWorkEnds : Obligations.FlashWorkEnds := by
  refine ⟨fun s tag htag hidle => ?_, fun s w rest hbusy => ⟨?_, ?_, ?_, ?_, ?_⟩⟩
  · cases hr : s.checkStaged with
    | none => exact stageCommitDone_passes htag hidle hr
    | some code => exact stageCommitDone_rejects htag hidle hr
  · exact flashProgramDone_fails hbusy
  · exact flashProgramDone_erases hbusy
  · exact flashProgramDone_writes hbusy
  · exact flashProgramDone_discards hbusy
  · rintro job hjob rfl
    exact flashProgramDone_records hbusy hjob

/-! ### Run commands (R145, R146, R148) -/

/-- A run command without a fault is its effect, completed with 0x000, while role 5 has a core. -/
theorem State.runRequest_of_clean {s : State} {h : HkHeader} (hs : s.hostReady h.tag) (hh : cleanHeader h 0) (hrole : s.roleUp 5 = true)
    {c : Instr} (hfs : s.runFaults s.dial.step.toNat c = []) : s.runRequest h c = (s.runEffect c).complete h 0 := by
  rw [State.runRequest, hrole, hh.flits_beq, if_pos rfl, State.request_of_clean hs hh hfs]

/-- The same, where the effect is an update of the run state. -/
theorem State.runRequest_onRun {s : State} {h : HkHeader} (hs : s.hostReady h.tag) (hh : cleanHeader h 0) (hrole : s.roleUp 5 = true)
    {c : Instr} (hfs : s.runFaults s.dial.step.toNat c = []) (f : RunState → RunState) (heffect : s.runEffect c = s.onRun f) :
    let t := s.runRequest h c
    t.run = f s.run ∧ s.answered t h.tag 0 ∧ s.onlyIn t [.run, .links] := by
  simp only [State.runRequest_of_clean hs hh hrole hfs, heffect]
  refine ⟨?_, State.complete_zero_answered rfl h,
    State.complete_zero_onlyIn (State.onRun_within (State.within_refl ..) (by simp)) (by simp) h⟩
  rw [State.complete_zero, State.sendPacket, State.onPort_run]
  rfl

theorem faultIf_false (pos code : Nat) : faultIf false pos code = [] := rfl

theorem State.startFaults_eq_nil {s : State} {step : Nat} (hrun : s.run.run = 1 ∨ s.run.run = 3) (hlocked : s.dial.locked = true)
    (hstep : s.dial.step.toNat + 2 ≤ step) : s.startFaults step s.dial.step.toNat = [] := by
  have hvalid : s.runStateFault [1, 3] = [] := by obtain h | h := hrun <;> rw [State.runStateFault, h] <;> rfl
  rw [State.startFaults, hvalid, hlocked, decide_eq_false (by omega)]
  rfl

theorem State.heldFaults_eq_nil {s : State} {step : Nat} (hrun : s.run.run = 2) (hstep : s.dial.step.toNat < step) :
    s.heldFaults false true step s.dial.step.toNat = [] := by
  have hvalid : s.runStateFault [2] = [] := by rw [State.runStateFault, hrun]; rfl
  rw [State.heldFaults, hvalid, decide_eq_false (by omega)]
  rfl

/-! ### SELECT -/

theorem State.selectSlot_fields (s : State) (slot : BitVec 2) :
    let t := s.selectSlot slot
    t.run.run = 1 ∧ t.run.slot = slot ∧ t.run.c = t.slotCfg.header.mbInit + 1 ∧ t.run.pauseAt = none ∧ t.mbs = [] ∧
      t.train.weirMu = 0 ∧ t.train.weirSigma = 0 ∧ t.train.weirClean = 0 ∧ t.train.stash = []  := by
  intro t
  have ht : t = s.selectSlot slot := rfl
  clear_value t
  rw [State.selectSlot] at ht
  generalize s.clearSelectCounters = u at ht
  simp only [State.markAllDirty] at ht
  have hrun : t.run = { RunState.reset with run := 1, slot := slot, runStep := u.run.runStep, accepted := none, c := t.slotCfg.header.mbInit + 1 } := by
    rw [ht, State.onResil_run, State.onTrain_run]
    rfl
  rw [hrun]
  refine ⟨rfl, rfl, rfl, rfl, ?_⟩
  rw [ht, State.onResil_mbs, State.onResil_train]
  exact ⟨rfl, rfl, rfl, rfl, rfl⟩

theorem State.selectSlot_frame (s : State) (slot : BitVec 2) :
    s.within [.logs, .run, .mbs, .sched, .memory, .tables, .cursors, .rambler, .gather, .train, .blocks, .cascade, .resil] (s.selectSlot slot) := by
  rw [State.selectSlot]
  refine State.markAllDirty_within (State.onTrain_within (State.onRun_within (State.within_upd (State.onRun_within
    (State.clearSelectCounters_within (State.within_refl s _) ?_) ?_) ?_ ?_ ?_ ?_ ?_ ?_ ?_ ?_ ?_ ?_ ?_ ?_ ?_ ?_ ?_ ?_ ?_ ?_ ?_ ?_ ?_ ?_ ?_) ?_) ?_) ?_
  all_goals first | exact .inl rfl | exact .inr (by decide) | decide

/-! ### STOP while paused (R148) -/

/-- The hand-over that a pause held has no part in memory. -/
theorem State.stopPaused_memory (s : State) : s.stopPaused.memory = s.memory := by
  rw [State.stopPaused, State.onRun_memory]
  cases s.run.held with
  | none => rfl
  | some x => exact (State.applyHandOver_within (State.within_refl s [.tables, .train, .resil]) (List.Subset.refl _)).memory (by decide)

theorem State.stopPaused_run (s : State) :
    s.stopPaused.run.run = 4 ∧ s.stopPaused.run.stopCause = 1 ∧ s.stopPaused.run.held = none ∧ s.stopPaused.run.startAt = none := by
  rw [State.stopPaused, State.onRun_run]
  exact ⟨rfl, rfl, rfl, rfl⟩

/-- Settles O9: SELECT by the fields it sets, the held commands by their one field, a STOP while paused by what it stops. -/
theorem runCommands : Obligations.RunCommands := by
  intro s h hs hh hrole
  refine ⟨fun slot hfs => ?_, fun step hrun hlocked hstep => ?_, fun step hrun hstep => ⟨fun hnone => ?_, fun hnone => ?_,
    fun hnone hvalid => ?_, fun hnone hvalid => ?_⟩, fun step hrun => ?_⟩
  · refine ⟨_, congrArg Host.Outcome.next (State.runRequest_of_clean hs hh hrole (c := .select h slot) hfs), ?_⟩
    have hframe := s.selectSlot_frame slot
    have hfields := s.selectSlot_fields slot
    rw [State.runEffect]
    generalize s.selectSlot slot = u at hframe hfields ⊢
    have hu : u.within [.links] (u.complete h 0) := by
      rw [State.complete_zero]
      exact State.sendPacket_within (State.within_refl ..) (List.Subset.refl _)
    obtain ⟨h1, h2, h3, h4, h5, h6, h7, h8, h9⟩ := hfields
    have hslot : (u.complete h 0).slotCfg = u.slotCfg := by
      rw [State.slotCfg, State.slotCfg, hu.cfg (by decide), hu.run (by decide)]
    beta_reduce
    rw [hslot, hu.run (by decide), hu.mbs (by decide), hu.train (by decide)]
    exact ⟨h1, h2, h3, h4, h5, h6, h7, h8, h9, (hu.mem (by decide)).trans (hframe.mem (by decide)),
      State.complete_zero_answered (hframe.links (by decide)) h, (hu.flash (by decide)).trans (hframe.flash (by decide)),
      (hu.power (by decide)).trans (hframe.power (by decide)), (hu.cfg (by decide)).trans (hframe.cfg (by decide)),
      (hu.dial (by decide)).trans (hframe.dial (by decide))⟩
  · exact ⟨_, rfl, State.runRequest_onRun hs hh hrole (c := .start h step) (State.startFaults_eq_nil hrun hlocked hstep)
      (fun r => { r with startAt := some step }) rfl⟩
  · refine ⟨_, rfl, State.runRequest_onRun hs hh hrole (c := .pause h step) ?_ (fun r => { r with pauseAt := some step }) rfl⟩
    rw [State.runFaults, hnone]
    exact State.heldFaults_eq_nil hrun hstep
  · refine ⟨_, rfl, State.runRequest_onRun hs hh hrole (c := .stop h step) ?_ (fun r => { r with stopAt := some step }) ?_⟩
    · rw [State.runFaults, if_neg (by simp [hrun]), hnone]
      exact State.heldFaults_eq_nil hrun hstep
    · rw [State.runEffect, if_neg (by simp [hrun])]
  · refine ⟨_, rfl, State.runRequest_onRun hs hh hrole (c := .eval h step) ?_ (fun r => { r with evalAt := some step }) rfl⟩
    rw [State.runFaults, hnone, hvalid]
    exact State.heldFaults_eq_nil hrun hstep
  · refine ⟨_, rfl, State.runRequest_onRun hs hh hrole (c := .ckpt h step) ?_ (fun r => { r with ckptAt := some step }) rfl⟩
    rw [State.runFaults, hnone, hvalid]
    exact State.heldFaults_eq_nil hrun hstep
  · have hrequest : s.runRequest h (.stop h step) = s.stopPaused.complete h 0 := by
      rw [State.runRequest_of_clean hs hh hrole (by rw [State.runFaults, if_pos hrun]), State.runEffect, if_pos hrun]
    refine ⟨_, congrArg Host.Outcome.next hrequest, ?_⟩
    have hu : s.stopPaused.within [.links] (s.stopPaused.complete h 0) := by
      rw [State.complete_zero]
      exact State.sendPacket_within (State.within_refl ..) (List.Subset.refl _)
    obtain ⟨h1, h2, h3, h4⟩ := s.stopPaused_run
    beta_reduce
    rw [hu.run (by decide)]
    refine ⟨h1, h2, h3, h4, (hu.memory (by decide)).trans s.stopPaused_memory, fun hheld => ?_⟩
    have hstop : s.stopPaused = s.onRun fun r => { r with run := 4, stopCause := 1, held := none, startAt := none } := by
      rw [State.stopPaused, hheld]
      rfl
    rw [hstop]
    exact ⟨State.complete_zero_answered rfl h,
      State.complete_zero_onlyIn (State.onRun_within (State.within_refl ..) (by simp)) (by simp) h⟩

end Sys2Proof.Machine
end


section
/-! PROOFS. Requests whose packets leave toward a torus port that is down (R421): the packet is dropped, counted and logged as 0x105, so a host
access to another device and a restore or rejoin from the neighbour change more than the statements of HostAccess and RestoreBegins name. -/

namespace Sys2Proof.Machine

set_option Elab.async false

/-- A ready device of a torus of two along X whose torus ports are all down, the host's port up, a job slot selected. -/
def alone : State :=
  { State.reset with
    start := { StartState.reset with begun := true, state := 1 }
    cfg := { State.reset.cfg with header := { State.reset.cfg.header with shapeA := 1 } }
    links := { LinkState.reset with ports := List.replicate 6 PortState.reset ++ [{ PortState.reset with state := 2 }] }
    run := { RunState.reset with run := 1 } }

/-- A clean header with tag 5. -/
def cleanOf (flits : Nat) : HkHeader := ⟨1, 3, 0, BitVec.ofNat 7 flits, false, 5, 0, 0, none⟩

theorem alone_hostReady : alone.hostReady (cleanOf 0).tag := by decide

/-- An outcome whose next state has counted 0x105. -/
def countsDrop (o : Out) : Prop := ∀ t, o = .next t → t.logs.errorCounts[0x105]? = some 1

/-- A command that counts a drop from `alone` does not leave the logs unchanged. -/
theorem not_onlyIn_of_countsDrop {c : Instr} {t : State} {L : List Part} (hc : countsDrop (exec c alone)) (ht : exec c alone = .next t)
    (hL : Part.logs ∉ L) : ¬ alone.onlyIn t L := by
  intro honly
  have hlogs : t.logs = alone.logs := honly .logs hL
  have hcount := hc t ht
  rw [hlogs] at hcount
  exact absurd hcount (by decide)

theorem alone_read_countsDrop : countsDrop (exec (.read (cleanOf 0) 0x1001000000000000 0 0) alone) := by
  intro t ht
  obtain rfl := Host.Outcome.next.inj ht
  rfl

theorem alone_rejoin_countsDrop : countsDrop (exec (.rejoin (cleanOf 1) 0 0 0) alone) := by
  intro t ht
  obtain rfl := Host.Outcome.next.inj ht
  rfl

/-- Refutes O11: a READ of the neighbour's memory while the port toward it is down drops its packet and logs 0x105, so not only the links
change. -/
theorem not_hostAccess : ¬ Obligations.HostAccess := by
  intro h
  obtain ⟨t, ht, -, honly⟩ :=
    (h.1 alone (cleanOf 0) 0x1001000000000000 alone_hostReady (by decide) (by decide)).2 0 0 (by decide) (by decide)
  exact not_onlyIn_of_countsDrop alone_read_countsDrop ht (by decide) honly

/-- Refutes O13: a rejoin asks the +X neighbour while the port toward it is down; the packets are dropped and 0x105 is logged. -/
theorem not_restoreBegins : ¬ Obligations.RestoreBegins := by
  intro h
  obtain ⟨-, -, -, -, -, hrejoin, -⟩ :=
    h alone (cleanOf 1) 0 0 0 alone_hostReady (by decide) (by decide) (by decide) (Or.inl (by decide))
  obtain ⟨t, ht, -, honly⟩ := hrejoin (by decide) (by decide)
  exact not_onlyIn_of_countsDrop alone_rejoin_countsDrop ht (by decide) honly

end Sys2Proof.Machine
end


section
/-! PROOFS. The links' own state (R410–R437): what each operation on a port leaves of that port and of the others, and with it codewords received
and sent, acknowledgements and retrains, lanes, calibration and NEGOTIATE. -/

namespace Sys2Proof.Machine

set_option Elab.async false

/-! ### One port -/

/-- A port that is not in its reset state stands in the list. -/
theorem State.port_lt {s : State} {p : Nat} (h : (s.port p).state ≠ 0) : p < s.links.ports.length := by
  by_contra hp
  refine h ?_
  rw [State.port, List.getElem?_eq_none (by omega), Option.getD_none]
  rfl

theorem State.onPort_port_same {s : State} {p : Nat} (hp : p < s.links.ports.length) (f : PortState → PortState) :
    (s.onPort p f).port p = f (s.port p) := by
  rw [State.onPort_port, if_pos ⟨rfl, hp⟩]

theorem State.onPort_ports_length (s : State) (p : Nat) (f : PortState → PortState) :
    (s.onPort p f).links.ports.length = s.links.ports.length := by
  rw [State.onPort_links]
  exact List.length_modify ..

theorem State.port_congr {s t : State} (h : t.links = s.links) (p : Nat) : t.port p = s.port p := by
  rw [State.port, State.port, h]

theorem State.onlyPort_of_links {s t : State} (h : t.links = s.links) (p : Nat) : s.onlyPort t p :=
  ⟨fun q _ => State.port_congr h q, by rw [h], by rw [h]⟩

theorem State.onlyPort.trans {s t u : State} {p : Nat} (h : s.onlyPort t p) (h' : t.onlyPort u p) : s.onlyPort u p := by
  obtain ⟨hports, hrequests, hheld⟩ := h
  obtain ⟨hports', hrequests', hheld'⟩ := h'
  exact ⟨fun q hq => (hports' q hq).trans (hports q hq), hrequests'.trans hrequests, hheld'.trans hheld⟩

theorem State.onPort_onlyPort (s : State) (p : Nat) (f : PortState → PortState) : s.onlyPort (s.onPort p f) p := by
  refine ⟨fun q hq => ?_, rfl, rfl⟩
  rw [State.onPort_port, if_neg (by omega)]

theorem State.onPort_onlyIn (s : State) (p : Nat) (f : PortState → PortState) : s.onlyIn (s.onPort p f) [.links] :=
  (State.onPort_within (State.within_refl ..) (List.Subset.refl _)).1

/-- An update of a port counts by what it makes of that port. -/
theorem State.onPort_congr {s : State} {p : Nat} {f g : PortState → PortState} (h : f (s.port p) = g (s.port p)) :
    s.onPort p f = s.onPort p g := by
  have hports : s.links.ports.modify p f = s.links.ports.modify p g := by
    refine List.ext_getElem? fun i => ?_
    rw [List.getElem?_modify, List.getElem?_modify]
    by_cases hi : p = i
    · subst hi
      cases hx : s.links.ports[p]? with
      | none => rfl
      | some x => simpa [State.port, hx] using h
    · simp [hi]
  rw [State.onPort, State.onPort, modifyAt, modifyAt, hports]

/-- Two updates of a port are one. -/
theorem State.onPort_onPort (s : State) (p : Nat) (f g : PortState → PortState) : (s.onPort p f).onPort p g = s.onPort p (g ∘ f) := by
  simp only [State.onPort, modifyAt, List.modify_modify_eq]

theorem State.logDevice_links (s : State) (code : Nat) (who : Named) (dropped detail : Nat) :
    (s.logDevice code who dropped detail).links = s.links := by
  rw [State.logDevice, State.countError_links]

theorem State.logDevice_port (s : State) (code : Nat) (who : Named) (dropped detail p : Nat) :
    (s.logDevice code who dropped detail).port p = s.port p :=
  State.port_congr (s.logDevice_links ..) p

theorem portDetail_zero (p : Nat) : portDetail p 0 = p := by
  rw [portDetail]
  omega

/-! ### A port that goes down, and a fast retrain (R418, R419) -/

/-- What a port keeps as it goes down. -/
def PortState.downed (x : PortState) : PortState :=
  { x with
    state := 4, stage := 0, replay := [], resend := [], txRest := [], rxPacket := [], rxPending := 0, queues := [], control := []
    beats := [], nakSeq := none, nakRun := 0, heardSeq := none, heardRun := 0, newMap := none, txMap := none }

/-- A port in a fast retrain. -/
def PortState.retraining (x : PortState) : PortState :=
  { x with state := 3, retrains := satAdd x.retrains 1, stepRetrains := x.stepRetrains + 1
           nakSeq := none, nakRun := 0, heardSeq := none, heardRun := 0 }

theorem State.portDown_eq (s : State) (p code : Nat) : s.portDown p code = (s.onPort p PortState.downed).logDevice code noName 0 p := by
  rw [State.portDown, portDetail_zero]
  rfl

theorem State.portDown_port {s : State} {p : Nat} (hp : p < s.links.ports.length) (code : Nat) :
    (s.portDown p code).port p = (s.port p).downed := by
  rw [State.portDown_eq, State.logDevice_port, State.onPort_port_same hp]

theorem State.portDown_logs (s : State) (p code : Nat) : (s.portDown p code).logs = (s.logDevice code noName 0 p).logs := by
  rw [State.portDown_eq]
  exact State.logDevice_logs_congr (State.onPort_logs ..) (State.onPort_dial ..) _ _ _ _

theorem State.portDown_onlyPort (s : State) (p code : Nat) : s.onlyPort (s.portDown p code) p := by
  rw [State.portDown_eq]
  exact (s.onPort_onlyPort p _).trans (State.onlyPort_of_links (State.logDevice_links ..) p)

theorem State.portDown_onlyIn (s : State) (p code : Nat) : s.onlyIn (s.portDown p code) [.logs, .links] :=
  (State.portDown_within (State.within_refl ..) (List.Subset.refl _)).1

theorem State.fastRetrain_of_few {s : State} {p : Nat} (hstate : (s.port p).state = 2) (hfew : (s.port p).stepRetrains < 2) :
    s.fastRetrain p = s.onPort p PortState.retraining := by
  rw [State.fastRetrain, if_neg (not_not.2 hstate), if_neg (by omega)]
  rfl

theorem State.fastRetrain_of_limit {s : State} {p : Nat} (hstate : (s.port p).state = 2) (hlimit : 2 ≤ (s.port p).stepRetrains) :
    s.fastRetrain p = s.portDown p 0x100 := by
  rw [State.fastRetrain, if_neg (not_not.2 hstate), if_pos hlimit]

theorem State.fastRetrain_onlyPort (s : State) (p : Nat) : s.onlyPort (s.fastRetrain p) p := by
  rw [State.fastRetrain]
  split
  · exact State.onlyPort_of_links rfl p
  · split
    · exact s.portDown_onlyPort p _
    · exact s.onPort_onlyPort p _

/-! ### NAK and acknowledgement (R417) -/

/-- A port that has sent a LINK_CTL flit with the credits it held. -/
def PortState.acknowledged (x : PortState) (nak : Bool) : PortState :=
  { x with
    control := x.control ++ [linkCtlFlit nak (x.rxExpected - 1) x.toReturn]
    rxRoom := List.zipWith (· + ·) x.rxRoom x.toReturn, toReturn := x.toReturn.map fun _ => 0, rxSinceAck := 0 }

/-- A port that has sent a NAK at a time. -/
def PortState.naked (x : PortState) (ns : Nat) : PortState :=
  { x.acknowledged true with
    rxRejecting := true, replays := x.replays + 1, lastNakNs := some ns
    nakRun := if x.nakSeq = some x.rxExpected then x.nakRun + 1 else 1, nakSeq := some x.rxExpected }

theorem State.acknowledge_eq (s : State) (p : Nat) (nak : Bool) : s.acknowledge p nak = s.onPort p (·.acknowledged nak) := by
  rw [State.acknowledge, State.sendControl, State.onPort_onPort]
  exact State.onPort_congr rfl

/-- Below the limit a NAK is one update of the port. -/
theorem State.sendNak_of_few {s : State} {p : Nat} (hrun : (s.port p).nakRun < 7) : s.sendNak p = s.onPort p (·.naked s.dial.ns) := by
  have hnaked : (s.acknowledge p true).onPort p (fun x => { x with
      rxRejecting := true, replays := x.replays + 1, lastNakNs := some (s.acknowledge p true).dial.ns
      nakRun := if x.nakSeq = some x.rxExpected then x.nakRun + 1 else 1, nakSeq := some x.rxExpected }) =
      s.onPort p (·.naked s.dial.ns) := by
    rw [State.acknowledge_eq, State.onPort_onPort, State.onPort_dial]
    exact State.onPort_congr rfl
  have hfew : (s.onPort p (·.naked s.dial.ns)).port p = (s.port p).naked s.dial.ns ∨ (s.onPort p (·.naked s.dial.ns)).port p = s.port p := by
    rw [State.onPort_port]
    split
    · exact .inl rfl
    · exact .inr rfl
  have hlow : ¬ 8 ≤ ((s.onPort p (·.naked s.dial.ns)).port p).nakRun := by
    obtain h | h := hfew <;> rw [h]
    · simp only [PortState.naked, PortState.acknowledged]
      split <;> omega
    · omega
  rw [State.sendNak, hnaked, if_neg hlow]

/-! ### Reception (R410, R417): what flits leave of the sequence state -/

/-- The port's sequence state and its count of damaged codewords stay. -/
def State.keepsSeq (s t : State) (p : Nat) : Prop :=
  (t.port p).rxExpected = (s.port p).rxExpected ∧ (t.port p).badCodewords = (s.port p).badCodewords

section
variable {s0 s : State} {p : Nat}

theorem State.keepsSeq_refl (s : State) (p : Nat) : s.keepsSeq s p := ⟨rfl, rfl⟩

theorem State.keepsSeq_of_links {t : State} (h : s0.keepsSeq s p) (hlinks : t.links = s.links) : s0.keepsSeq t p := by
  rw [State.keepsSeq, State.port_congr hlinks]
  exact h

theorem State.keepsSeq_ite {c : Prop} [Decidable c] {a b : State} (ha : s0.keepsSeq a p) (hb : s0.keepsSeq b p) :
    s0.keepsSeq (if c then a else b) p := by
  split <;> assumption

theorem State.onPort_keepsSeq {q : Nat} {f : PortState → PortState} (h : s0.keepsSeq s p)
    (hf : ∀ x, (f x).rxExpected = x.rxExpected ∧ (f x).badCodewords = x.badCodewords := by exact fun _ => ⟨rfl, rfl⟩) :
    s0.keepsSeq (s.onPort q f) p := by
  rw [State.keepsSeq, State.onPort_port]
  split
  · exact ⟨(hf _).1.trans h.1, (hf _).2.trans h.2⟩
  · exact h

variable (h : s0.keepsSeq s p)
include h

theorem State.logDevice_keepsSeq {code : Nat} {who : Named} {dropped detail : Nat} : s0.keepsSeq (s.logDevice code who dropped detail) p :=
  State.keepsSeq_of_links h (s.logDevice_links ..)

theorem State.countError_keepsSeq {code : Nat} : s0.keepsSeq (s.countError code) p :=
  State.keepsSeq_of_links h (s.countError_links code)

theorem State.sendPacket_keepsSeq {q : Nat} {k : Packet} : s0.keepsSeq (s.sendPacket q k) p := State.onPort_keepsSeq h

theorem State.portDown_keepsSeq {q code : Nat} : s0.keepsSeq (s.portDown q code) p := by
  rw [State.portDown_eq]
  exact State.logDevice_keepsSeq (State.onPort_keepsSeq h)

theorem State.fastRetrain_keepsSeq {q : Nat} : s0.keepsSeq (s.fastRetrain q) p := by
  rw [State.fastRetrain]
  exact State.keepsSeq_ite h (State.keepsSeq_ite (State.portDown_keepsSeq h) (State.onPort_keepsSeq h))

theorem State.linkProtocol_keepsSeq {q : Nat} : s0.keepsSeq (s.linkProtocol q) p :=
  State.fastRetrain_keepsSeq (State.logDevice_keepsSeq h)

theorem State.route_keepsSeq {q : Nat} {k : Packet} : s0.keepsSeq (s.route q k) p := by
  rw [State.route]
  exact State.keepsSeq_ite (State.sendPacket_keepsSeq h)
    (State.keepsSeq_ite (State.logDevice_keepsSeq (State.onPort_keepsSeq h)) (State.onPort_keepsSeq h))

theorem State.forwardPacket_keepsSeq {q : Nat} {fs : List Flit} : s0.keepsSeq (s.forwardPacket q fs) p := by
  cases fs with
  | nil => exact h
  | cons f fs =>
    rw [State.forwardPacket]
    refine State.keepsSeq_ite h (State.keepsSeq_ite ?_ (State.keepsSeq_ite ?_ h))
    · split
      · exact h
      · exact State.route_keepsSeq h
    · cases s.proxyPort _ with
      | none => exact h
      | some r => exact State.route_keepsSeq h

theorem State.endPacket_keepsSeq {q : Nat} : s0.keepsSeq (s.endPacket q) p := by
  rw [State.endPacket]
  refine State.keepsSeq_ite (State.onPort_keepsSeq h) (State.keepsSeq_ite (State.forwardPacket_keepsSeq (State.onPort_keepsSeq h))
    (State.keepsSeq_ite (State.onPort_keepsSeq h) ?_))
  split
  · exact State.countError_keepsSeq (State.sendPacket_keepsSeq (State.onPort_keepsSeq h))
  · exact State.onPort_keepsSeq h

/-- A flit may end a packet, fault or retrain the port: its sequence state stays. -/
theorem State.rxFlit_keepsSeq {q : Nat} {f : Flit} : s0.keepsSeq (s.rxFlit q f) p := by
  rw [State.rxFlit]
  refine State.keepsSeq_ite h (State.keepsSeq_ite (State.keepsSeq_ite (State.endPacket_keepsSeq (State.onPort_keepsSeq h))
    (State.onPort_keepsSeq h)) (State.keepsSeq_ite h (State.keepsSeq_ite (State.keepsSeq_ite (State.onPort_keepsSeq h) ?_)
      (State.keepsSeq_ite (State.linkProtocol_keepsSeq h) (State.keepsSeq_ite (State.endPacket_keepsSeq (State.onPort_keepsSeq ?_))
        (State.onPort_keepsSeq ?_))))))
  all_goals
    split
    · exact State.logDevice_keepsSeq (State.onPort_keepsSeq h)
    · exact h

end

theorem State.rxFlits_keepsSeq {s0 : State} {p q : Nat} (fs : List Flit) {s : State} (h : s0.keepsSeq s p) :
    s0.keepsSeq (fs.foldl (fun s f => s.rxFlit q f) s) p := by
  induction fs generalizing s with
  | nil => exact h
  | cons f fs ih => exact ih (State.rxFlit_keepsSeq h)

/-! ### Codewords received (R410, R417) -/

/-- The port takes the codeword it expects. -/
def PortState.accepting (x : PortState) (p : Nat) (seq : BitVec 10) : PortState :=
  let x := match x.newMap with
    | some (map, at') => if at' = seq then { x.takeMap p map with newMap := none } else x
    | none => x
  { x with rxExpected := x.rxExpected + 1, rxSinceAck := x.rxSinceAck + 1, rxRejecting := false, nakSeq := none, nakRun := 0 }

theorem PortState.accepting_seq (x : PortState) (p : Nat) (seq : BitVec 10) :
    (x.accepting p seq).rxExpected = x.rxExpected + 1 ∧ (x.accepting p seq).badCodewords = x.badCodewords := by
  rw [PortState.accepting]
  split
  · split <;> exact ⟨rfl, rfl⟩
  · exact ⟨rfl, rfl⟩

section
variable {s : State} {p : Port} {seq crc : BitVec 10} {flits : List Flit} (hstate : (s.port p.val).state = 2)
include hstate

theorem exec_codewordReceive_of_bad :
    exec (.codewordReceive p true seq crc flits) s =
      .next ((s.onPort p.val fun x => { x with badCodewords := x.badCodewords + 1 }).sendNak p.val) := by
  change execCodewordReceive p true seq crc flits s = _
  rw [execCodewordReceive, if_neg (not_not.2 hstate)]
  rfl

variable (hlen : flits.length = 10) (hcrc : crc = crc10 (codewordBits flits seq))
include hlen hcrc

/-- A good codeword is judged by its sequence number alone. -/
theorem exec_codewordReceive_of_good :
    exec (.codewordReceive p false seq crc flits) s = .next (
      if seq ≠ (s.port p.val).rxExpected then if (s.port p.val).rxRejecting then s else s.sendNak p.val
      else
        let t := flits.foldl (fun s f => s.rxFlit p.val f) (s.onPort p.val (·.accepting p.val seq))
        let x := t.port p.val
        if x.state = 2 && (decide (x.rxSinceAck ≥ 64) || x.toReturn.any fun n => decide (n ≥ 64)) then t.acknowledge p.val false else t) := by
  have hgood : (false || flits.length != 10 || crc10 (codewordBits flits seq) != crc) = false := by simp [hlen, hcrc]
  change execCodewordReceive p false seq crc flits s = _
  rw [execCodewordReceive, if_neg (not_not.2 hstate), hgood, if_neg Bool.false_ne_true]
  rfl

end

theorem State.acknowledge_keepsSeq {s0 s : State} {p q : Nat} (h : s0.keepsSeq s p) {nak : Bool} : s0.keepsSeq (s.acknowledge q nak) p := by
  rw [State.acknowledge_eq]
  exact State.onPort_keepsSeq h

theorem codewordReceive_accepts {s : State} {p : Port} {seq crc : BitVec 10} {flits : List Flit} (hstate : (s.port p.val).state = 2)
    (hlen : flits.length = 10) (hcrc : crc = crc10 (codewordBits flits seq)) (hseq : seq = (s.port p.val).rxExpected) :
    runs (.codewordReceive p false seq crc flits) s fun t =>
      (t.port p.val).rxExpected = (s.port p.val).rxExpected + 1 ∧ (t.port p.val).badCodewords = (s.port p.val).badCodewords ∧
      s.onlyIn t [.logs, .links] := by
  have hp := State.port_lt (s := s) (p := p.val) (by rw [hstate]; decide)
  have hexec := exec_codewordReceive_of_good hstate hlen hcrc
  obtain ⟨t, ht, hwithin⟩ := execCodewordReceive_within (port := p) (uncorrectable := false) (seq := seq) (crc := crc) (flits := flits)
    (s := s) (L := [.logs, .links]) (List.Subset.refl _)
  have heq := Host.Outcome.next.inj (ht.symm.trans hexec)
  rw [if_neg (not_not.2 hseq)] at heq
  refine ⟨t, ht, ?_⟩
  have hkeep : (s.onPort p.val (·.accepting p.val seq)).keepsSeq t p.val := by
    rw [heq]
    exact State.keepsSeq_ite (State.acknowledge_keepsSeq (State.rxFlits_keepsSeq flits (State.keepsSeq_refl ..)))
      (State.rxFlits_keepsSeq flits (State.keepsSeq_refl ..))
  obtain ⟨hnext, hbad⟩ := hkeep
  obtain ⟨haccept, hcount⟩ := (s.port p.val).accepting_seq p.val seq
  rw [State.onPort_port_same hp] at hnext hbad
  exact ⟨hnext.trans haccept, hbad.trans hcount, hwithin.1⟩

theorem State.rxFlit_idle {s : State} {p : Nat} (hpending : (s.port p).rxPending = 0) : s.rxFlit p 0 = s := by
  rw [State.rxFlit]
  split
  · rfl
  · rw [if_neg (by omega), if_pos rfl]

theorem State.rxFlits_idle {s : State} {p : Nat} (hpending : (s.port p).rxPending = 0) (n : Nat) :
    (List.replicate n (0 : Flit)).foldl (fun s f => s.rxFlit p f) s = s := by
  induction n with
  | zero => rfl
  | succ n ih => rw [List.replicate_succ, List.foldl_cons, State.rxFlit_idle hpending, ih]

theorem codewordReceive_idle {s : State} {p : Port} {seq crc : BitVec 10} (hstate : (s.port p.val).state = 2)
    (hcrc : crc = crc10 (codewordBits (List.replicate 10 0) seq)) (hseq : seq = (s.port p.val).rxExpected)
    (hmap : (s.port p.val).newMap = none) (hpending : (s.port p.val).rxPending = 0) (hack : (s.port p.val).rxSinceAck < 63)
    (hreturn : ((s.port p.val).toReturn.all fun n => decide (n < 64)) = true) :
    exec (.codewordReceive p false seq crc (List.replicate 10 0)) s = .next (s.onPort p.val fun _ => { s.port p.val with
      rxExpected := (s.port p.val).rxExpected + 1, rxSinceAck := (s.port p.val).rxSinceAck + 1, rxRejecting := false
      nakSeq := none, nakRun := 0 }) := by
  have hp := State.port_lt (s := s) (p := p.val) (by rw [hstate]; decide)
  have haccept : (s.port p.val).accepting p.val seq = { s.port p.val with
      rxExpected := (s.port p.val).rxExpected + 1, rxSinceAck := (s.port p.val).rxSinceAck + 1, rxRejecting := false
      nakSeq := none, nakRun := 0 } := by
    rw [PortState.accepting, hmap]
  have hany : ((s.port p.val).toReturn.any fun n => decide (n ≥ 64)) = false := by
    rw [List.any_eq_false]
    intro n hn
    have hlow := List.all_eq_true.1 hreturn n hn
    simp only [decide_eq_true_eq] at hlow ⊢
    omega
  rw [exec_codewordReceive_of_good hstate List.length_replicate hcrc, if_neg (not_not.2 hseq)]
  have hpending' : ((s.onPort p.val (·.accepting p.val seq)).port p.val).rxPending = 0 := by
    rw [State.onPort_port_same hp, haccept]
    exact hpending
  dsimp only
  rw [State.rxFlits_idle hpending', State.onPort_port_same hp, haccept]
  dsimp only
  have hlow : decide ((s.port p.val).rxSinceAck + 1 ≥ 64) = false := decide_eq_false (by omega)
  rw [hany, hlow, Bool.or_false, Bool.and_false, if_neg Bool.false_ne_true]
  exact congrArg Host.Outcome.next (State.onPort_congr haccept)

/-! ### Codewords sent (R410, R413, R416, R417) -/

/-- Filling slots leaves the replay buffer, and takes one flit per slot. -/
theorem PortState.nextUnit_replay {x y : PortState} {ns : Nat} {fs : List Flit} (h : x.nextUnit ns = some (fs, y)) : y.replay = x.replay := by
  rw [PortState.nextUnit] at h
  split at h
  · cases h
    rfl
  · dsimp only at h
    split at h
    · cases h
      rfl
    · obtain ⟨k, -, hk⟩ := Option.map_eq_some_iff.1 h
      cases hk
      rfl

theorem PortState.fillSlots_replay (n ns : Nat) (x : PortState) : (x.fillSlots ns n).1.length = n ∧ (x.fillSlots ns n).2.replay = x.replay := by
  induction n generalizing x with
  | zero => exact ⟨rfl, rfl⟩
  | succ n ih =>
    rw [PortState.fillSlots]
    split
    · next f r _ =>
      obtain ⟨hlen, hreplay⟩ := ih { x with txRest := r }
      exact ⟨congrArg (· + 1) hlen, hreplay⟩
    · split
      · next f r y hunit =>
        obtain ⟨hlen, hreplay⟩ := ih { y with txRest := r }
        exact ⟨congrArg (· + 1) hlen, hreplay.trans (PortState.nextUnit_replay (y := y) hunit)⟩
      · obtain ⟨hlen, hreplay⟩ := ih x
        exact ⟨congrArg (· + 1) hlen, hreplay⟩

theorem PortState.nextUnit_of_empty {x : PortState} (hbeats : x.beats = []) (hcontrol : x.control = []) (hqueues : x.queues = []) (ns : Nat) :
    x.nextUnit ns = none := by
  have hready : x.readyPacket = fun _ => none := by
    funext vc
    rw [PortState.readyPacket, hqueues]
    rfl
  have hfind (l : List Nat) : l.findSome? (fun _ => (none : Option Packet)) = none := by simp
  rw [PortState.nextUnit, hbeats, hcontrol, hready]
  simp [hfind]

theorem PortState.fillSlots_of_empty {x : PortState} (hrest : x.txRest = []) (hbeats : x.beats = []) (hcontrol : x.control = [])
    (hqueues : x.queues = []) (ns n : Nat) : x.fillSlots ns n = (List.replicate n 0, x) := by
  induction n with
  | zero => rfl
  | succ n ih =>
    rw [PortState.fillSlots, hrest, PortState.nextUnit_of_empty hbeats hcontrol hqueues]
    dsimp only
    rw [ih]
    rfl

/-- The port under the lane map due with its next codeword. -/
def PortState.mapDue (x : PortState) (p : Nat) : PortState :=
  match x.txMap with
  | some (map, at') => if at' = x.txNext then { x.takeMap p map with txMap := none } else x
  | none => x

theorem PortState.mapDue_replay (x : PortState) (p : Nat) : (x.mapDue p).replay = x.replay ∧ (x.mapDue p).txNext = x.txNext := by
  rw [PortState.mapDue]
  split
  · split <;> exact ⟨rfl, rfl⟩
  · exact ⟨rfl, rfl⟩

/-- The port with its next codeword sent. -/
def PortState.sending (x : PortState) (p ns : Nat) : PortState :=
  let t := (x.mapDue p).fillSlots ns 10
  { t.2 with replay := t.2.replay ++ [((x.mapDue p).txNext, t.1)], txNext := (x.mapDue p).txNext + 1 }

section
variable {s : State} {p : Port} (hstate : (s.port p.val).state = 2)
include hstate

theorem exec_codewordTransmit_replay {c : BitVec 10 × List Flit} {r : List (BitVec 10 × List Flit)} (hresend : (s.port p.val).resend = c :: r) :
    exec (.codewordTransmit p) s = .next (s.onPort p.val fun x => { x with resend := r }) := by
  change execCodewordTransmit p s = _
  simp only [execCodewordTransmit, if_neg (not_not.2 hstate), hresend]

theorem exec_codewordTransmit_new (hresend : (s.port p.val).resend = []) (hroom : (s.port p.val).replay.length < 256) :
    exec (.codewordTransmit p) s = .next (s.onPort p.val (·.sending p.val s.dial.ns)) := by
  change execCodewordTransmit p s = _
  simp only [execCodewordTransmit, if_neg (not_not.2 hstate), hresend]
  rw [if_neg (by omega)]
  rfl

theorem exec_codewordTransmit_full (hresend : (s.port p.val).resend = []) (hfull : 256 ≤ (s.port p.val).replay.length) :
    exec (.codewordTransmit p) s = .next s := by
  change execCodewordTransmit p s = _
  simp only [execCodewordTransmit, if_neg (not_not.2 hstate), hresend]
  rw [if_pos hfull]

end

/-- Settles O14: the expected codeword by what flits leave of the sequence state, the others by one update of the port. -/
theorem codewords : Obligations.Codewords := by
  refine ⟨fun s p seq crc flits hstate => ?_, fun s p hstate => ?_⟩
  · have hp := State.port_lt (s := s) (p := p.val) (by rw [hstate]; decide)
    refine ⟨fun hlen hcrc hseq => codewordReceive_accepts hstate hlen hcrc hseq, ?_, fun hrun => ?_, fun hlen hcrc hseq hrej => ?_,
      fun hlen hcrc hseq hrej hrun => ?_⟩
    · rintro rfl hcrc hseq hmap hpending hack hreturn
      refine ⟨_, codewordReceive_idle hstate hcrc hseq hmap hpending hack hreturn, ?_⟩
      exact ⟨State.onPort_port_same hp _, s.onPort_onlyPort .., s.onPort_onlyIn _ _⟩
    · refine ⟨_, exec_codewordReceive_of_bad hstate, ?_⟩
      have hport : (s.onPort p.val fun x => { x with badCodewords := x.badCodewords + 1 }).port p.val =
          { s.port p.val with badCodewords := (s.port p.val).badCodewords + 1 } := State.onPort_port_same hp _
      rw [State.sendNak_of_few (by rw [hport]; exact hrun), State.onPort_onPort]
      beta_reduce
      rw [State.onPort_port_same hp]
      exact ⟨rfl, rfl, rfl, rfl, rfl, s.onPort_onlyPort .., s.onPort_onlyIn _ _⟩
    · refine ⟨_, exec_codewordReceive_of_good hstate hlen hcrc, ?_⟩
      rw [if_pos hseq, if_pos hrej]
    · refine ⟨_, exec_codewordReceive_of_good hstate hlen hcrc, ?_⟩
      rw [if_pos hseq, if_neg (by rw [hrej]; exact Bool.false_ne_true), State.sendNak_of_few hrun]
      beta_reduce
      rw [State.onPort_port_same hp]
      exact ⟨rfl, rfl, rfl, rfl, rfl, s.onPort_onlyPort .., s.onPort_onlyIn _ _⟩
  · have hp := State.port_lt (s := s) (p := p.val) (by rw [hstate]; decide)
    refine ⟨fun c r hresend => ⟨_, exec_codewordTransmit_replay hstate hresend, ?_⟩,
      fun hresend hroom => ⟨_, exec_codewordTransmit_new hstate hresend hroom, ?_⟩,
      fun hresend hroom hmap hrest hbeats hcontrol hqueues => ⟨_, exec_codewordTransmit_new hstate hresend hroom, ?_⟩,
      fun hresend hfull => ⟨_, exec_codewordTransmit_full hstate hresend hfull, rfl⟩⟩
    · exact ⟨State.onPort_port_same hp _, s.onPort_onlyPort .., s.onPort_onlyIn _ _⟩
    · obtain ⟨hreplay, hnext⟩ := (s.port p.val).mapDue_replay p.val
      obtain ⟨hlen, hkeep⟩ := PortState.fillSlots_replay 10 s.dial.ns ((s.port p.val).mapDue p.val)
      rw [State.onPort_port_same hp, PortState.sending]
      refine ⟨by rw [← hnext], ⟨_, hlen, ?_⟩, s.onPort_onlyPort .., s.onPort_onlyIn _ _⟩
      dsimp only
      rw [hkeep, hreplay, hnext]
    · have hdue : (s.port p.val).mapDue p.val = s.port p.val := by rw [PortState.mapDue, hmap]
      beta_reduce
      rw [State.onPort_port_same hp, PortState.sending, hdue, PortState.fillSlots_of_empty hrest hbeats hcontrol hqueues]
      exact ⟨rfl, s.onPort_onlyPort .., s.onPort_onlyIn _ _⟩

end Sys2Proof.Machine
end


section
/-! PROOFS. Link recovery, lanes, calibration and NEGOTIATE (R415–R419, R428–R435): each command as one update of its port, with what it logs. -/

namespace Sys2Proof.Machine

set_option Elab.async false

/-! ### Commands that are one update of their port -/

theorem runs_onPort {s : State} {p : Nat} {c : Instr} {f : PortState → PortState} (hp : p < s.links.ports.length)
    (hexec : exec c s = .next (s.onPort p f)) :
    runs c s fun t => t.port p = f (s.port p) ∧ s.onlyPort t p ∧ s.onlyIn t [.links] :=
  ⟨_, hexec, State.onPort_port_same hp f, s.onPort_onlyPort p f, s.onPort_onlyIn p f⟩

theorem runs_portDown {s : State} {p code : Nat} {c : Instr} (hp : p < s.links.ports.length) (hexec : exec c s = .next (s.portDown p code)) :
    runs c s fun t => t.port p = (s.port p).downed ∧ t.logs = (s.logDevice code noName 0 p).logs ∧ s.onlyPort t p ∧
      s.onlyIn t [.logs, .links] :=
  ⟨_, hexec, State.portDown_port hp code, s.portDown_logs p code, s.portDown_onlyPort p code, s.portDown_onlyIn p code⟩

theorem State.fastRetrain_onlyIn (s : State) (p : Nat) : s.onlyIn (s.fastRetrain p) [.logs, .links] :=
  (State.fastRetrain_within (State.within_refl ..) (List.Subset.refl _)).1

/-- Where a port goes that must retrain. -/
theorem State.fastRetrain_state {s : State} {p : Nat} (hstate : (s.port p).state = 2) :
    ((s.fastRetrain p).port p).state = if (s.port p).stepRetrains < 2 then 3 else 4 := by
  have hp := State.port_lt (s := s) (p := p) (by rw [hstate]; decide)
  by_cases hfew : (s.port p).stepRetrains < 2
  · rw [State.fastRetrain_of_few hstate hfew, State.onPort_port_same hp, if_pos hfew]
    rfl
  · rw [State.fastRetrain_of_limit hstate (by omega), State.portDown_port hp, if_neg hfew]
    rfl

/-! ### LINK_CTL (R415, R417, R419) -/

/-- Codewords a LINK_CTL frees. -/
def PortState.freedBy (x : PortState) (ackSeq : BitVec 10) : Nat := ((x.replay.findIdx? fun c => c.1 == ackSeq).map (· + 1)).getD 0

/-- A port that has heard a LINK_CTL flit. -/
def PortState.credited (x : PortState) (ackSeq : BitVec 10) (credits : List (BitVec 12)) : PortState :=
  { x with
    credits := x.credits.zipIdx.map fun c => c.1 + (credits.getD c.2 0).toNat
    replay := x.replay.drop (x.freedBy ackSeq)
    resend := x.resend.filter fun c => !((x.replay.take (x.freedBy ackSeq)).map (·.1)).contains c.1 }

/-- A port that has heard a NAK. -/
def PortState.renewed (x : PortState) (ackSeq : BitVec 10) : PortState :=
  { x with
    replays := x.replays + 1, resend := x.replay
    heardRun := if x.heardSeq = some ackSeq then x.heardRun + 1 else 1, heardSeq := some ackSeq }

theorem PortState.renewed_heardRun_le (x : PortState) (ackSeq : BitVec 10) : (x.renewed ackSeq).heardRun ≤ x.heardRun + 1 := by
  rw [PortState.renewed]
  dsimp only
  split <;> omega

section
variable {s : State} {p : Port} {ackSeq : BitVec 10} {credits : List (BitVec 12)} (hstate : (s.port p.val).state = 2)
include hstate

theorem exec_linkCtl_beyond {nak : Bool} (hbeyond : (s.port p.val).creditMax.getD 0 0 < (s.port p.val).credits.getD 0 0 + (credits.getD 0 0).toNat) :
    exec (.linkCtl p nak ackSeq credits) s = .next (s.linkProtocol p.val) := by
  have hany : ((List.range 8).any fun v =>
      decide ((s.port p.val).credits.getD v 0 + (credits.getD v 0).toNat > (s.port p.val).creditMax.getD v 0)) = true :=
    List.any_eq_true.2 ⟨0, by decide, decide_eq_true hbeyond⟩
  change execLinkCtl p nak ackSeq credits s = _
  rw [execLinkCtl, if_neg (not_not.2 hstate), hany]
  rfl

variable (hroom : ∀ v, v < 8 → (s.port p.val).credits.getD v 0 + (credits.getD v 0).toNat ≤ (s.port p.val).creditMax.getD v 0)

omit hstate in
include hroom in
theorem linkCtl_roomy : ((List.range 8).any fun v =>
    decide ((s.port p.val).credits.getD v 0 + (credits.getD v 0).toNat > (s.port p.val).creditMax.getD v 0)) = false := by
  rw [List.any_eq_false]
  intro v hv
  have hle := hroom v (List.mem_range.1 hv)
  simp only [decide_eq_true_eq]
  omega

include hroom

theorem exec_linkCtl_ack : exec (.linkCtl p false ackSeq credits) s = .next (s.onPort p.val (·.credited ackSeq credits)) := by
  change execLinkCtl p false ackSeq credits s = _
  rw [execLinkCtl, if_neg (not_not.2 hstate), linkCtl_roomy hroom]
  rfl

theorem exec_linkCtl_nak (hheard : (s.port p.val).heardRun < 7) :
    exec (.linkCtl p true ackSeq credits) s = .next (s.onPort p.val fun x => (x.credited ackSeq credits).renewed ackSeq) := by
  have hp := State.port_lt (s := s) (p := p.val) (by rw [hstate]; decide)
  have hlow : ¬ 8 ≤ ((s.onPort p.val fun x => (x.credited ackSeq credits).renewed ackSeq).port p.val).heardRun := by
    rw [State.onPort_port_same hp]
    have hle : _ ≤ (s.port p.val).heardRun + 1 := ((s.port p.val).credited ackSeq credits).renewed_heardRun_le ackSeq
    omega
  have htwice : (s.onPort p.val (·.credited ackSeq credits)).onPort p.val (·.renewed ackSeq) =
      s.onPort p.val fun x => (x.credited ackSeq credits).renewed ackSeq := State.onPort_onPort ..
  change execLinkCtl p true ackSeq credits s = _
  rw [execLinkCtl, if_neg (not_not.2 hstate), linkCtl_roomy hroom]
  change Host.Outcome.next (if 8 ≤ (((s.onPort p.val (·.credited ackSeq credits)).onPort p.val (·.renewed ackSeq)).port p.val).heardRun then _
    else (s.onPort p.val (·.credited ackSeq credits)).onPort p.val (·.renewed ackSeq)) = _
  rw [htwice, if_neg hlow]

end

theorem exec_replayAckTimeout_of_waiting {s : State} {p : Port} (hstate : (s.port p.val).state = 2) (hreplay : (s.port p.val).replay ≠ []) :
    exec (.replayAckTimeout p) s = .next (s.fastRetrain p.val) :=
  congrArg Host.Outcome.next (if_pos ⟨hstate, hreplay⟩)

theorem exec_fastRetrainDone_of_retraining {s : State} {p : Port} (hstate : (s.port p.val).state = 3) (ok : Bool) :
    exec (.fastRetrainDone p ok) s = .next (if ok then s.onPort p.val fun x => { x with state := 2, resend := x.replay, rxRejecting := false }
      else s.portDown p.val 0x100) :=
  congrArg Host.Outcome.next (if_neg (by rw [hstate]; decide))

/-- Settles O15: LINK_CTL as one update of the port, the limits as a fast retrain or a port that goes down. -/
theorem linkRecovery : Obligations.LinkRecovery := by
  intro s p
  have hlt (h : (s.port p.val).state = 2) : p.val < s.links.ports.length := State.port_lt (by rw [h]; decide)
  have hlt3 (h : (s.port p.val).state = 3) : p.val < s.links.ports.length := State.port_lt (by rw [h]; decide)
  refine ⟨fun ackSeq credits hstate hroom => ⟨?_, fun hheard => ?_⟩, fun nak ackSeq credits hstate hfew hbeyond => ?_,
    fun hstate hreplay hfew => ?_, fun hstate hreplay hlimit => ?_, fun hstate => ?_, fun hstate => ?_⟩
  · exact runs_onPort (hlt hstate) (exec_linkCtl_ack hstate hroom)
  · obtain ⟨t, ht, hport, honly, hframe⟩ := runs_onPort (hlt hstate) (exec_linkCtl_nak (ackSeq := ackSeq) hstate hroom hheard)
    refine ⟨t, ht, ?_⟩
    beta_reduce
    rw [hport]
    exact ⟨rfl, rfl, rfl, rfl, hstate, honly, hframe⟩
  · refine ⟨_, exec_linkCtl_beyond hstate hbeyond, ?_⟩
    have hstate' : ((s.logDevice 0x104 noName 0 (portDetail p.val 0)).port p.val).state = 2 := by rw [State.logDevice_port, hstate]
    have hfew' : ((s.logDevice 0x104 noName 0 (portDetail p.val 0)).port p.val).stepRetrains < 2 := by rwa [State.logDevice_port]
    beta_reduce
    rw [State.linkProtocol]
    refine ⟨?_, ?_, (State.onlyPort_of_links (s.logDevice_links ..) p.val).trans (State.fastRetrain_onlyPort ..),
      (State.fastRetrain_within (State.logDevice_within (State.within_refl ..) (by simp)) (by simp)).1⟩
    · rw [State.fastRetrain_state hstate', if_pos hfew']
    · rw [State.fastRetrain_of_few hstate' hfew', State.onPort_logs, portDetail_zero]
  · obtain ⟨t, ht, hport, honly, hframe⟩ := runs_onPort (hlt hstate)
      ((exec_replayAckTimeout_of_waiting hstate hreplay).trans (congrArg Host.Outcome.next (State.fastRetrain_of_few hstate hfew)))
    refine ⟨t, ht, ?_⟩
    beta_reduce
    rw [hport]
    exact ⟨rfl, rfl, rfl, honly, hframe⟩
  · obtain ⟨t, ht, hport, hlogs, honly, hframe⟩ := runs_portDown (hlt hstate)
      ((exec_replayAckTimeout_of_waiting hstate hreplay).trans (congrArg Host.Outcome.next (State.fastRetrain_of_limit hstate hlimit)))
    refine ⟨t, ht, ?_⟩
    beta_reduce
    rw [hport]
    exact ⟨rfl, rfl, rfl, hlogs, honly, hframe⟩
  · exact runs_onPort (hlt3 hstate) (exec_fastRetrainDone_of_retraining hstate true)
  · obtain ⟨t, ht, hport, hlogs, honly, hframe⟩ := runs_portDown (hlt3 hstate) (exec_fastRetrainDone_of_retraining hstate false)
    refine ⟨t, ht, ?_⟩
    beta_reduce
    rw [hport]
    exact ⟨rfl, rfl, rfl, hlogs, honly, hframe⟩

/-! ### Lanes (R428, R434, R435) -/

theorem State.sendControl_eq (s : State) (p : Nat) (f : Flit) : s.sendControl p f = s.onPort p fun x => { x with control := x.control ++ [f] } := rfl

section
variable {s : State} {p : Port} (hstate : (s.port p.val).state = 2)
include hstate

theorem exec_laneLossOfLock_idle {lane : Fin 5} (hidle : (s.port p.val).mapped.contains lane.val = false) :
    exec (.laneLossOfLock p lane) s = .next (s.onPort p.val fun x => { x with spareReady := false }) := by
  change execLaneLossOfLock p lane s = _
  rw [execLaneLossOfLock, if_neg (not_not.2 hstate), hidle]
  rfl

section
variable {lane : Fin 5} (hmapped : (s.port p.val).mapped.contains lane.val = true)
include hmapped

theorem exec_laneLossOfLock_retrain (hnone : (s.port p.val).spareUsed = true ∨ (s.port p.val).spareReady = false) :
    exec (.laneLossOfLock p lane) s = .next (s.fastRetrain p.val) := by
  have hno : ((s.port p.val).spareUsed || !(s.port p.val).spareReady) = true := by
    obtain h | h := hnone <;> simp [h]
  change execLaneLossOfLock p lane s = _
  rw [execLaneLossOfLock, if_neg (not_not.2 hstate), hmapped, hno]
  rfl

theorem exec_laneLossOfLock_spare (hused : (s.port p.val).spareUsed = false) (hready : (s.port p.val).spareReady = true) :
    exec (.laneLossOfLock p lane) s = .next ((s.useSpare p.val lane.val).logDevice 0x101 noName 0 (portDetail p.val lane.val)) := by
  change execLaneLossOfLock p lane s = _
  rw [execLaneLossOfLock, if_neg (not_not.2 hstate), hmapped, hused, hready]
  rfl

end

theorem exec_laneMap_offer (map : BitVec 12) (atSeq : BitVec 10) :
    exec (.laneMap p map atSeq false) s = .next (s.onPort p.val fun x =>
      { x with txMap := some (map, atSeq), control := x.control ++ [laneMapFlit map atSeq true] }) := by
  change execLaneMap p map atSeq false s = _
  rw [execLaneMap, if_neg (by simp [hstate]), State.sendControl_eq, State.onPort_onPort]
  rfl

omit hstate in
theorem exec_laneMap_answer (map : BitVec 12) (atSeq : BitVec 10) : exec (.laneMap p map atSeq true) s = .next s :=
  congrArg Host.Outcome.next (if_pos (.inr rfl))

end

/-- The first codeword under the map of a spare, which no rule fixes. -/
def State.spareSeq (s : State) : BitVec 10 := BitVec.ofNat 10 (Config.undefinedField s.draws)

/-- A port whose lane goes to the spare. -/
def PortState.sparing (x : PortState) (map : BitVec 12) (atSeq : BitVec 10) : PortState :=
  { x with control := x.control ++ [laneMapFlit map atSeq false], newMap := some (map, atSeq), spareReady := false }

theorem State.useSpare_eq (s : State) (p lane : Nat) :
    s.useSpare p lane = (s.onPort p (·.sparing ((s.port p).spareMap p lane) s.spareSeq)).draw := by
  rw [State.useSpare, State.sendControl_eq, State.onPort_onPort]
  rfl

/-! ### Calibration (R428, R433) -/

/-- What a request of the peer asks is applied: inside the window, the tap within its limits. -/
def State.appliesTap (s : State) (p : Nat) (lane : BitVec 3) (tap move : BitVec 2) : Prop :=
  s.calibrating p = true ∧ move ≠ 3 ∧ (move = 0 ∨ Config.tapAtLimit tap.toNat ((s.port p).tapAt lane tap) (move == 1) = false)

/-- A tap moved. -/
def PortState.setTap (x : PortState) (lane : BitVec 3) (tap : BitVec 2) (w : Int) : PortState :=
  { x with taps := (lane, tap, w) :: x.taps.filter fun t => !(t.1 == lane && t.2.1 == tap) }

theorem PortState.setTap_same (x : PortState) (lane : BitVec 3) (tap : BitVec 2) (w : Int) : (x.setTap lane tap w).tapAt lane tap = w := by
  simp [PortState.setTap, PortState.tapAt]

theorem PortState.setTap_ne (x : PortState) {lane l : BitVec 3} {tap u : BitVec 2} (w : Int) (h : (l, u) ≠ (lane, tap)) :
    (x.setTap lane tap w).tapAt l u = x.tapAt l u := by
  have hne : ¬ (lane = l ∧ tap = u) := fun ⟨hl, hu⟩ => h (by rw [hl, hu])
  have hfind : (x.taps.filter fun t => !(t.1 == lane && t.2.1 == tap)).find? (fun t => t.1 == l && t.2.1 == u) =
      x.taps.find? fun t => t.1 == l && t.2.1 == u := by
    rw [List.find?_filter]
    congr 1
    funext t
    by_cases ht : t.1 = l ∧ t.2.1 = u
    · obtain ⟨rfl, rfl⟩ := ht
      have : ¬ (t.1 = lane ∧ t.2.1 = tap) := fun ⟨h1, h2⟩ => hne ⟨h1.symm, h2.symm⟩
      simp
      tauto
    · have : (t.1 == l && t.2.1 == u) = false := by simpa using ht
      simp [this]
  rw [PortState.tapAt, PortState.setTap, List.find?_cons_of_neg (by simp [hne]), hfind, PortState.tapAt]

section
variable {s : State} {p : Port} {lane : BitVec 3} {tap move : BitVec 2} (hstate : (s.port p.val).state = 2)
include hstate

theorem exec_calibrate_answer : exec (.calibrate p lane tap move true) s =
    .next (s.onPort p.val fun x => { x with asked := x.asked.filter (· != (lane, tap)) }) := by
  change execCalibrate p lane tap move true s = _
  rw [execCalibrate, if_neg (not_not.2 hstate), Bool.true_or, if_pos rfl]

variable (hasked : (s.port p.val).asked.contains (lane, tap) = false)
include hasked

theorem exec_calibrate_refused (happlied : ¬ s.appliesTap p.val lane tap move) :
    exec (.calibrate p lane tap move false) s =
      .next (s.onPort p.val fun x => { x with control := x.control ++ [calibrateFlit lane tap move false] }) := by
  have hno : (s.calibrating p.val && move != 3 && (move == 0 || !Config.tapAtLimit tap.toNat ((s.port p.val).tapAt lane tap) (move == 1))) =
      false := by
    rw [State.appliesTap] at happlied
    simpa [and_assoc] using happlied
  change execCalibrate p lane tap move false s = _
  rw [execCalibrate, if_neg (not_not.2 hstate), hasked, Bool.or_false, if_neg Bool.false_ne_true]
  dsimp only
  rw [hno]
  rfl

theorem exec_calibrate_applied (happlied : s.appliesTap p.val lane tap move) :
    exec (.calibrate p lane tap move false) s = .next (s.onPort p.val fun x =>
      let y := x.setTap lane tap (if move = 1 then (s.port p.val).tapAt lane tap + 1 else
        if move = 2 then (s.port p.val).tapAt lane tap - 1 else (s.port p.val).tapAt lane tap)
      { y with control := y.control ++ [calibrateFlit lane tap move true] }) := by
  have hyes : (s.calibrating p.val && move != 3 && (move == 0 || !Config.tapAtLimit tap.toNat ((s.port p.val).tapAt lane tap) (move == 1))) =
      true := by
    rw [State.appliesTap] at happlied
    simpa [and_assoc] using happlied
  change execCalibrate p lane tap move false s = _
  rw [execCalibrate, if_neg (not_not.2 hstate), hasked, Bool.or_false, if_neg Bool.false_ne_true]
  dsimp only
  rw [hyes]
  exact congrArg Host.Outcome.next (State.onPort_onPort ..)

end

/-! ### Eye margins (R433, R434, R467) -/

/-- A port that has measured a lane's margin, before it asks for a tap move. -/
def PortState.measured (x : PortState) (lane : Nat) (margin : BitVec 8) : PortState :=
  let y := { x with margin := setAt x.margin lane margin
                    spareReady := if x.mapped.contains lane then x.spareReady else !decide (margin.toNat < 25) }
  { y with weak := y.mapped.any fun l => decide ((y.margin.getD l 0).toNat < 25) }

/-- A port that has asked for a tap move. -/
def PortState.asking (x : PortState) (lane : BitVec 3) (tap move : BitVec 2) : PortState :=
  { x with control := x.control ++ [calibrateFlit lane tap move false], asked := x.asked ++ [(lane, tap)] }

/-- The tap move that the adaptation chooses. -/
def State.chosenTap (s : State) : BitVec 2 := BitVec.ofNat 2 (Config.undefinedField s.draws)
def State.chosenMove (s : State) : BitVec 2 := BitVec.ofNat 2 (Config.undefinedField s.draws / 4 % 3)

/-- The effect of a scan on its port. -/
def State.measureLane (s : State) (p lane : Nat) (margin : BitVec 8) : State :=
  (s.onPort p fun x => (x.measured lane margin).asking (BitVec.ofNat 3 lane) s.chosenTap s.chosenMove).draw

theorem State.measureLane_within (s : State) (p lane : Nat) (margin : BitVec 8) : s.within [.draws, .links] (s.measureLane p lane margin) :=
  State.draw_within (State.onPort_within (State.within_refl ..) (by simp)) (by simp)

/-- Whether a scan finds an active lane newly weak. -/
def PortState.newlyWeak (x : PortState) (lane : Nat) (margin : BitVec 8) : Bool :=
  !(!x.mapped.contains lane || !decide (margin.toNat < 25) || x.mapped.contains lane && decide ((x.margin.getD lane 0).toNat < 25))

section
variable {s : State} {p : Port} {lane : Fin 5} {margin : BitVec 8} (hstate : (s.port p.val).state = 2)
  (hcal : s.calibrating p.val = true) (hlane : lane.val ≤ dataLanes p.val)
include hstate hcal hlane

theorem exec_eyeMarginScan_eq : exec (.eyeMarginScan p lane margin) s = .next (if (s.port p.val).newlyWeak lane.val margin then
    ((s.measureLane p.val lane.val margin).logDevice 0x106 noName 0 (portDetail p.val lane.val)).markSwap 2 (p.val + 8 * lane.val) 0 0x106
    else s.measureLane p.val lane.val margin) := by
  have hopen : (decide ((s.port p.val).state ≠ 2) || !s.calibrating p.val || decide (lane.val > dataLanes p.val)) = false := by
    rw [hstate, hcal, decide_eq_false (Nat.not_lt.2 hlane)]
    rfl
  have hdraw (u : State) (f : PortState → PortState) : u.draw.onPort p.val f = (u.onPort p.val f).draw := rfl
  change execEyeMarginScan p lane margin s = _
  rw [execEyeMarginScan]
  dsimp only
  rw [hopen, if_neg Bool.false_ne_true, PortState.newlyWeak]
  simp only [State.sendControl_eq, hdraw, State.onPort_onPort, State.onPort_draws]
  rw [State.onPort_congr (s := s) (p := p.val)
    (g := fun x => (x.measured lane.val margin).asking (BitVec.ofNat 3 lane.val) s.chosenTap s.chosenMove) rfl]
  change _ = Host.Outcome.next (if (!_) = true then _ else s.measureLane p.val lane.val margin)
  rw [State.measureLane]
  generalize (!(s.port p.val).mapped.contains lane.val || !decide (margin.toNat < 25) ||
    (s.port p.val).mapped.contains lane.val && decide (((s.port p.val).margin.getD lane.val 0).toNat < 25)) = strong
  cases strong <;> rfl

omit hcal hlane in
theorem State.measureLane_scans : (s.measureLane p.val lane.val margin).port p.val =
    ((s.port p.val).measured lane.val margin).asking (BitVec.ofNat 3 lane.val) s.chosenTap s.chosenMove ∧
    s.onlyPort (s.measureLane p.val lane.val margin) p.val := by
  have hp := State.port_lt (s := s) (p := p.val) (by rw [hstate]; decide)
  refine ⟨?_, (s.onPort_onlyPort ..).trans (State.onlyPort_of_links (State.draw_links _) _)⟩
  rw [State.measureLane, State.port_congr (State.draw_links _), State.onPort_port_same hp]

end

/-- A lane's spare is looked for in the window, so a lane newly marked is one entry of the swaps that wait. -/
theorem State.markSwap_lane (s : State) (unit detail code : Nat) :
    (s.markSwap 2 unit detail code).logs = s.logs ∧ (s.markSwap 2 unit detail code).links = s.links ∧
    s.within [.resil] (s.markSwap 2 unit detail code) := by
  have hspare : s.hasSpare 2 unit = true := rfl
  rw [State.markSwap, if_neg (by decide : ¬ (2 = 1)), if_pos hspare]
  split
  · exact ⟨rfl, rfl, State.within_refl ..⟩
  · refine ⟨rfl, rfl, fun p hp => ?_, fun h => h⟩
    cases p <;> first | exact absurd (by decide) hp | rfl

/-- Settles O16: lanes and taps as updates of their port, a newly weak lane with its record and its mark. -/
theorem lanes : Obligations.Lanes := by
  refine ⟨fun s p hstate => ?_, fun s p hstate => ?_⟩
  · have hp := State.port_lt (s := s) (p := p.val) (by rw [hstate]; decide)
    refine ⟨fun lane hmapped hused hready => ⟨_, exec_laneLossOfLock_spare hstate hmapped hused hready, ?_⟩,
      fun lane hmapped hnone => ⟨_, exec_laneLossOfLock_retrain hstate hmapped hnone, State.fastRetrain_state hstate,
        s.fastRetrain_onlyPort p.val, s.fastRetrain_onlyIn p.val⟩,
      fun lane hidle => runs_onPort hp (exec_laneLossOfLock_idle hstate hidle),
      fun map atSeq => runs_onPort hp (exec_laneMap_offer hstate map atSeq),
      fun map atSeq => ⟨_, exec_laneMap_answer map atSeq, rfl⟩⟩
    have hport : ((s.useSpare p.val lane.val).logDevice 0x101 noName 0 (portDetail p.val lane.val)).port p.val =
        (s.port p.val).sparing ((s.port p.val).spareMap p.val lane.val) s.spareSeq := by
      rw [State.logDevice_port, State.useSpare_eq, State.port_congr (State.draw_links _), State.onPort_port_same hp]
    beta_reduce
    rw [hport]
    refine ⟨⟨_, rfl, rfl⟩, rfl, ?_, ?_, (State.logDevice_within (State.useSpare_within (State.within_refl ..) (by simp)) (by simp)).1⟩
    · rw [State.useSpare_eq]
      exact State.logDevice_logs_congr rfl rfl _ _ _ _
    · rw [State.useSpare_eq]
      exact ((s.onPort_onlyPort ..).trans (State.onlyPort_of_links (State.draw_links _) _)).trans
        (State.onlyPort_of_links (State.logDevice_links ..) _)
  · have hp := State.port_lt (s := s) (p := p.val) (by rw [hstate]; decide)
    refine ⟨fun lane tap move hasked => ⟨fun hno => runs_onPort hp (exec_calibrate_refused hstate hasked hno), fun hyes => ?_⟩,
      fun lane tap move => runs_onPort hp (exec_calibrate_answer hstate), fun lane margin hcal hlane => ⟨fun hold => ?_, fun hlow hmapped hnew => ?_⟩⟩
    · obtain ⟨t, ht, hport, honly, hframe⟩ := runs_onPort hp (exec_calibrate_applied hstate hasked hyes)
      refine ⟨t, ht, ?_⟩
      beta_reduce
      rw [hport]
      refine ⟨?_, fun l u hne => PortState.setTap_ne _ _ hne, rfl, honly, hframe⟩
      refine (PortState.setTap_same ..).trans ?_
      split
      · rfl
      · split
        · rfl
        · exact (add_zero _).symm
    · have hweak : (s.port p.val).newlyWeak lane.val margin = false := by
        rw [PortState.newlyWeak]
        simp only [Bool.not_eq_false']
        obtain h | h | h := hold
        · simp [Nat.not_lt.2 h]
        · rw [h]
          rfl
        · rw [decide_eq_true h]
          cases (s.port p.val).mapped.contains lane.val <;> cases decide (margin.toNat < 25) <;> rfl
      obtain ⟨hport, honly⟩ := State.measureLane_scans (lane := lane) (margin := margin) hstate
      refine ⟨_, (exec_eyeMarginScan_eq hstate hcal hlane).trans (congrArg Host.Outcome.next (if_neg (by rw [hweak]; decide))), ?_⟩
      exact ⟨⟨by rw [hport]; rfl, by rw [hport]; exact ⟨_, _, rfl, rfl⟩, honly⟩, (s.measureLane_within ..).1⟩
    · have hweak : (s.port p.val).newlyWeak lane.val margin = true := by
        rw [PortState.newlyWeak, hmapped, decide_eq_true hlow, decide_eq_false (Nat.not_lt.2 hnew)]
        rfl
      obtain ⟨hport, honly⟩ := State.measureLane_scans (lane := lane) (margin := margin) hstate
      refine ⟨_, (exec_eyeMarginScan_eq hstate hcal hlane).trans (congrArg Host.Outcome.next (if_pos hweak)), ?_⟩
      obtain ⟨hlogs, hlinks, hframe⟩ := ((s.measureLane p.val lane.val margin).logDevice 0x106 noName 0 (portDetail p.val lane.val)).markSwap_lane
        (p.val + 8 * lane.val) 0 0x106
      have hlinks' := hlinks.trans (State.logDevice_links ..)
      refine ⟨⟨?_, ?_, honly.trans (State.onlyPort_of_links hlinks' _)⟩, hlogs.trans (State.logDevice_logs_congr rfl rfl _ _ _ _),
        State.markSwap_isMarked .., (State.within_step hframe (State.logDevice_within
          (State.within_step (s.measureLane_within ..) (State.within_refl ..) (by simp)) (by simp)) (by simp)).1⟩
      · rw [State.port_congr hlinks', hport]
        rfl
      · rw [State.port_congr hlinks', hport]
        exact ⟨_, _, rfl, rfl⟩

/-! ### NEGOTIATE (R21, R428, R430, R431) -/

/-- A Hokuano port with the adapter's credits toward it. -/
def PortState.withRoom (x : PortState) (f : NegotiateFlit) : PortState :=
  let room := [f.credits0.toNat, f.credits1.toNat, 0, 0, 0, 0, 0, 0]
  if x.creditMax = room then x else { x with credits := room, creditMax := room }

theorem PortState.withRoom_fields (x : PortState) (f : NegotiateFlit) :
    (x.withRoom f).gen = x.gen ∧ (x.withRoom f).creditMax = [f.credits0.toNat, f.credits1.toNat, 0, 0, 0, 0, 0, 0] := by
  rw [PortState.withRoom]
  split
  · next h => exact ⟨rfl, h⟩
  · exact ⟨rfl, rfl⟩

section
variable {s : State} {p : Port} {f : NegotiateFlit} (hstate : (s.port p.val).state = 2)
include hstate

theorem exec_negotiate_ungenerated (hno : f.impl = 0 ∨ f.offer.getLsbD 0 = false) : exec (.negotiate p f) s = .next (s.portDown p.val 0x102) := by
  have hbad : (decide (f.impl = 0) || !f.offer.getLsbD (min f.impl.toNat 1 - 1)) = true := by
    have hone : min f.impl.toNat 1 - 1 = 0 := by omega
    rw [hone]
    obtain h | h := hno <;> rw [h] <;> simp
  change execNegotiate p f s = _
  rw [execNegotiate]
  rw [if_neg (not_not.2 hstate), if_pos hbad]

variable (himpl : f.impl ≠ 0) (hoffer : f.offer.getLsbD 0 = true)
include himpl hoffer

omit hstate in
theorem negotiate_generated : (decide (f.impl = 0) || !f.offer.getLsbD (min f.impl.toNat 1 - 1)) = false ∧
    BitVec.ofNat 4 (min f.impl.toNat 1) = 1 := by
  have hpos : f.impl.toNat ≠ 0 := fun h => himpl (BitVec.eq_of_toNat_eq h)
  have hone : min f.impl.toNat 1 = 1 := by omega
  rw [hone, hoffer, decide_eq_false himpl]
  exact ⟨rfl, rfl⟩

theorem exec_negotiate_elsewhere (htorus : p.val < 6) (hno : f.coord ≠ s.neighbour p.val ∨ f.jobId.toNat ≠ s.cfg.header.jobId) :
    exec (.negotiate p f) s = .next (s.portDown p.val 0x103) := by
  have hbad : (decide (p.val < 6) && (f.coord != s.neighbour p.val || f.jobId.toNat != s.cfg.header.jobId)) = true := by
    simpa [htorus] using hno
  change execNegotiate p f s = _
  rw [execNegotiate, if_neg (not_not.2 hstate), (negotiate_generated himpl hoffer).1, if_neg Bool.false_ne_true, if_pos hbad]

theorem exec_negotiate_neighbour (htorus : p.val < 6) (hcoord : f.coord = s.neighbour p.val) (hjob : f.jobId.toNat = s.cfg.header.jobId) :
    exec (.negotiate p f) s = .next (s.onPort p.val fun x => { x with gen := 1, control := if f.reply = true then x.control else
      x.control ++ [s.negotiateFlit p.val true f.tSend.toNat f.arrival.toNat] }) := by
  obtain ⟨hgood, hgen⟩ := negotiate_generated himpl hoffer
  have hhere : (decide (p.val < 6) && (f.coord != s.neighbour p.val || f.jobId.toNat != s.cfg.header.jobId)) = false := by
    simp [hcoord, hjob]
  change execNegotiate p f s = _
  rw [execNegotiate, if_neg (not_not.2 hstate), hgood, if_neg Bool.false_ne_true, hhere, if_neg Bool.false_ne_true, hgen]
  dsimp only
  rw [if_neg (show ¬ p.val = 6 by omega)]
  cases f.reply with
  | true => rfl
  | false => exact congrArg Host.Outcome.next (State.onPort_onPort ..)

theorem exec_negotiate_host (hhost : p.val = 6) : exec (.negotiate p f) s =
    .next (s.onPort 6 fun x =>
      let y := { x with gen := 1 }.withRoom f
      if f.reply = true then y else { y with control := y.control ++ [s.negotiateFlit 6 true f.tSend.toNat f.arrival.toNat] }) := by
  obtain ⟨hgood, hgen⟩ := negotiate_generated himpl hoffer
  have hhere : (decide (p.val < 6) && (f.coord != s.neighbour p.val || f.jobId.toNat != s.cfg.header.jobId)) = false := by
    simp [hhost]
  change execNegotiate p f s = _
  rw [execNegotiate, if_neg (not_not.2 hstate), hgood, if_neg Bool.false_ne_true, hhere, if_neg Bool.false_ne_true, hgen]
  dsimp only
  rw [if_pos hhost, State.onPort_onPort, hhost]
  cases f.reply with
  | true => rfl
  | false => exact congrArg Host.Outcome.next (State.onPort_onPort ..)

end

/-- Settles O17: a peer that does not fit takes the port down, any other is one update of it. -/
theorem negotiation : Obligations.Negotiation := by
  intro s p f hstate
  have hp := State.port_lt (s := s) (p := p.val) (by rw [hstate]; decide)
  refine ⟨fun hno => ?_, fun himpl hoffer htorus hno => ?_, fun himpl hoffer htorus hcoord hjob => ?_, fun himpl hoffer hhost => ?_⟩
  · obtain ⟨t, ht, hport, hlogs, honly, hframe⟩ := runs_portDown hp (exec_negotiate_ungenerated hstate hno)
    exact ⟨t, ht, by rw [hport]; rfl, hlogs, honly, hframe⟩
  · obtain ⟨t, ht, hport, hlogs, honly, hframe⟩ := runs_portDown hp (exec_negotiate_elsewhere hstate himpl hoffer htorus hno)
    exact ⟨t, ht, by rw [hport]; rfl, hlogs, honly, hframe⟩
  · exact runs_onPort hp (exec_negotiate_neighbour hstate himpl hoffer htorus hcoord hjob)
  · rw [hhost] at hp
    obtain ⟨t, ht, hport, honly, hframe⟩ := runs_onPort hp (exec_negotiate_host hstate himpl hoffer hhost)
    obtain ⟨hgen, hroom⟩ := PortState.withRoom_fields { s.port 6 with gen := 1 } f
    refine ⟨t, ht, ?_, ?_, honly, hframe⟩ <;> rw [hport] <;> dsimp only <;> split
    · exact hgen
    · exact hgen
    · exact hroom
    · exact hroom

end Sys2Proof.Machine
end


section
/-! PROOFS. Reads and writes that come from other devices (R32, R425, R440): a data stream as the bytes it stores and the parts it can change, an
answer by the port it takes, and what a reply does to the request it answers. -/

namespace Sys2Proof.Machine

set_option Elab.async false

/-! ### Packets to another device (R420, R421) -/

section
variable {s u : State} (hstart : u.start = s.start) (hcfg : u.cfg = s.cfg) (hlinks : u.links = s.links)
include hstart hcfg

theorem State.portToward_congr (dest : Coord) : u.portToward dest = s.portToward dest := by
  simp only [State.portToward, State.dims, hstart, hcfg]

include hlinks

/-- Which port a packet takes, and what it does there, rests on the device's place, its job's shape and its ports. -/
theorem State.sendTo_links_congr (dest : Coord) (type vc lgen entries rest : Nat) (data : List Flit) :
    (u.sendTo dest type vc lgen entries rest data).links = (s.sendTo dest type vc lgen entries rest data).links := by
  have hcoord : u.coord = s.coord := by rw [State.coord, State.coord, hstart]
  rw [State.sendTo, State.sendTo, State.portToward_congr hstart hcfg, hcoord]
  cases s.portToward dest with
  | none => exact hlinks
  | some p =>
    dsimp only
    rw [State.route, State.route, State.port_congr hlinks]
    split
    · exact State.sendPacket_congr_links hlinks ..
    · dsimp only
      split
      · rw [State.logDevice_links, State.logDevice_links, State.onPort_links, State.onPort_links, hlinks]
      · rw [State.onPort_links, State.onPort_links, hlinks]

end

/-! ### Data streams (R143, R243, R397) -/

theorem flitBytes_length (f : Flit) : (flitBytes f).length = 64 := by
  rw [flitBytes, leBytes, List.length_map, List.length_range]

theorem flatMap_flitBytes_length (data : List Flit) : (data.flatMap flitBytes).length = 64 * data.length := by
  induction data with
  | nil => rfl
  | cons f fs ih => rw [List.flatMap_cons, List.length_append, flitBytes_length, ih, List.length_cons]; omega

/-- Flits stored line by line from a key. -/
def State.storeFlits (s : State) (k : Nat) (data : List Flit) (i : Nat) : State :=
  (data.zipIdx i).foldl (fun s f => s.store (k + 64 * f.2) (flitBytes f.1) false) s

/-- They store the bytes of the flits in a row. -/
theorem State.storeFlits_byte (data : List Flit) (s : State) (k i j : Nat) :
    (s.storeFlits k data i).memory.mem.byte? j =
      if k + 64 * i ≤ j ∧ j < k + 64 * i + 64 * data.length then (data.flatMap flitBytes)[j - (k + 64 * i)]? else s.memory.mem.byte? j := by
  induction data generalizing s i with
  | nil =>
    rw [if_neg (by simp)]
    rfl
  | cons f fs ih =>
    have hnext := ih (s.store (k + 64 * i) (flitBytes f) false) (i + 1)
    have hlen := flitBytes_length f
    rw [State.storeFlits, List.zipIdx_cons, List.foldl_cons]
    refine hnext.trans ?_
    rw [State.store_byte, hlen, List.flatMap_cons, List.length_cons]
    by_cases hfirst : k + 64 * i ≤ j ∧ j < k + 64 * i + 64
    · rw [if_neg (by omega), if_pos hfirst, if_pos (by omega), List.getElem?_append_left (by omega)]
    · by_cases hrest : k + 64 * (i + 1) ≤ j ∧ j < k + 64 * (i + 1) + 64 * fs.length
      · rw [if_pos hrest, if_pos (by omega), List.getElem?_append_right (by omega), hlen,
          show j - (k + 64 * i) - 64 = j - (k + 64 * (i + 1)) by omega]
      · rw [if_neg hrest, if_neg hfirst, if_neg (by omega)]

theorem State.storeFlits_within {s0 s : State} {L : List Part} (h : s0.within L s) (hL : [.memory, .bytes] ⊆ L) (k : Nat) (data : List Flit)
    (i : Nat) : s0.within L (s.storeFlits k data i) :=
  State.within_fold (fun _ _ h => State.store_within h hL) h

theorem memKey_add (tier off n : Nat) : memKey tier (off + n) = memKey tier off + n := by
  rw [memKey, memKey, Nat.add_assoc]

/-- A data stream: its lines stored, then what wakes, replays and settles. -/
theorem State.streamIn_eq (s : State) (tier off : Nat) (data : List Flit) :
    s.streamIn tier off data =
      ((((s.storeFlits (memKey tier off) data 0).countDefaultWrites tier off (64 * data.length)).wakeIntake tier off
        (64 * data.length)).replayMoves (memKey tier off) (64 * data.length)).settle := by
  rw [State.streamIn, State.storeFlits]
  simp only [memKey_add]

/-- A data stream stores its bytes from the address upward and nothing outside them. -/
theorem State.streamIn_byte (s : State) (tier off : Nat) (data : List Flit) (j : Nat) :
    (s.streamIn tier off data).memory.mem.byte? j =
      if memKey tier off ≤ j ∧ j < memKey tier off + 64 * data.length then (data.flatMap flitBytes)[j - memKey tier off]?
      else s.memory.mem.byte? j := by
  have hafter : (s.storeFlits (memKey tier off) data 0).within [.dial, .logs, .mbs, .sched, .tables, .train, .links]
      (s.streamIn tier off data) := by
    rw [State.streamIn_eq]
    exact State.settle_within (State.replayMoves_within (State.wakeIntake_within (State.countDefaultWrites_within (State.within_refl ..)
      (by simp)) (by simp)) (by simp)) (by simp)
  rw [hafter.memory (by decide), State.storeFlits_byte, Nat.mul_zero, Nat.add_zero]

/-- Outside a re-shard a data stream sends nothing. -/
theorem State.streamIn_links {s : State} (hreshard : s.tables.reshardOn = false) (tier off : Nat) (data : List Flit) :
    (s.streamIn tier off data).links = s.links := by
  have hstore : s.within [.memory, .bytes] (s.storeFlits (memKey tier off) data 0) := State.storeFlits_within (State.within_refl ..) (by simp) ..
  rw [State.streamIn_eq]
  generalize s.storeFlits (memKey tier off) data 0 = u at hstore ⊢
  have hwake : (u.countDefaultWrites tier off (64 * data.length)).within [.sched]
      ((u.countDefaultWrites tier off (64 * data.length)).wakeIntake tier off (64 * data.length)) :=
    State.wakeIntake_within (State.within_refl ..) (by simp)
  generalize State.wakeIntake _ tier off (64 * data.length) = v at hwake ⊢
  have hoff : v.tables.reshardOn = false := by
    rw [hwake.tables (by decide)]
    exact (congrArg TablesState.reshardOn (hstore.tables (by decide))).trans hreshard
  have hreplay : v.replayMoves (memKey tier off) (64 * data.length) = v := by
    rw [State.replayMoves, hoff]
    rfl
  rw [hreplay, (State.settle_within (State.within_refl v [.dial, .mbs, .sched, .train]) (by simp)).links (by decide), hwake.links (by decide)]
  exact hstore.links (by decide)

/-! ### MEM_WRITE and MEM_READ (R425, R440) -/

theorem firstFault_nil : firstFault [] = none := rfl

theorem pack_tag (tag : BitVec 8) : pack [(tag.toNat, 8), (0, 12)] = tag.toNat := by
  have htag := tag.isLt
  simp only [pack]
  omega

section
variable {s : State} {src : Coord} {addr : Word} {hkTag : BitVec 8} (hloaded : s.start.loaded = true) (hcoord : coordOf addr.toNat = s.coord)
include hloaded hcoord

theorem not_notHere : ¬ (!s.start.loaded || coordOf addr.toNat ≠ s.coord) = true := by
  rw [hloaded, hcoord]
  simp

theorem exec_memWrite_of_clean {data : List Flit} (htier : field addr.toNat 48 4 < 4) (hfaults : s.memFaults addr.toNat data.length = [])
    (hstream : s.streamFaults addr.toNat (64 * data.length) = []) :
    exec (.memWrite src addr hkTag data) s = .next ((s.streamIn (field addr.toNat 48 4) (field addr.toNat 0 48) data).sendTo src 0x06 2 0 0
      hkTag.toNat []) := by
  have hno : s.memFaults addr.toNat data.length ++ faultIf (decide (4 ≤ field addr.toNat 48 4)) 112 0x013 ++
      s.streamFaults addr.toNat (64 * data.length) = [] := by
    rw [hfaults, hstream, decide_eq_false (Nat.not_le.2 htier)]
    rfl
  change execMemWrite src addr hkTag data s = _
  simp only [execMemWrite]
  rw [if_neg (by simpa using not_notHere hloaded hcoord), hno, firstFault_nil]
  dsimp only
  rw [State.answerMem, pack_tag]

theorem exec_memRead_of_clean {len : BitVec 6} (htier : field addr.toNat 48 4 ≠ 4) (hfaults : s.memFaults addr.toNat (len.toNat + 1) = []) :
    exec (.memRead src addr len hkTag) s =
      let r := s.readLines (field addr.toNat 48 4) (field addr.toNat 0 48) (len.toNat + 1)
      .next (((s.sendTo src 0x05 2 0 0 (pack [(hkTag.toNat, 8), (0, 12), (0, 44), (r.2, 64)]) r.1).noteReads
        (memKey (field addr.toNat 48 4) (field addr.toNat 0 48)) (64 * (len.toNat + 1)) noName).draw) := by
  have hno : s.memFaults addr.toNat (len.toNat + 1) ++ faultIf (field addr.toNat 48 4 == 4) 112 0x013 = [] := by
    rw [hfaults, beq_false_of_ne htier]
    rfl
  change execMemRead src addr len hkTag s = _
  simp only [execMemRead]
  rw [if_neg (by simpa using not_notHere hloaded hcoord), hno, firstFault_nil]
  rfl

end

/-! ### MEM_ACK and MEM_DATA (R32, R440, R457) -/

theorem State.memIssuer_of_request {s : State} {src : Coord} {hkTag : BitVec 8} {read : Bool} {q : HkRequest}
    (hq : s.requestOf src hkTag read = some q) : s.memIssuer src hkTag read = hokuanoKey := by
  rw [State.memIssuer, hq]
  rfl

theorem exec_memAck_of_request {s : State} {src : Coord} {hkTag gen : BitVec 8} {q : HkRequest} (code : BitVec 12)
    (hq : s.requestOf src hkTag false = some q) (hgen : gen = s.engineTag hokuanoKey) :
    exec (.memAck src hkTag code gen) s = .next (((s.dropTag hkTag).sendCompletion hkTag code.toNat 0 []).countError code.toNat) := by
  change execMemAck src hkTag code gen s = _
  rw [execMemAck, State.memIssuer_of_request hq, if_neg (not_not.2 hgen), hq]

theorem exec_memData_of_request {s : State} {src : Coord} {hkTag gen : BitVec 8} {q : HkRequest} (poison : Word) (data : List Flit)
    (hq : s.requestOf src hkTag true = some q) (hgen : gen = s.engineTag hokuanoKey) :
    exec (.memData src hkTag 0 gen poison data) s = .next ((s.dropTag hkTag).sendCompletion hkTag 0 poison.toNat data) := by
  change execMemData src hkTag 0 gen poison data s = _
  rw [execMemData, State.memIssuer_of_request hq, if_neg (not_not.2 hgen), hq]
  exact congrArg Host.Outcome.next (if_pos rfl)

/-- What an answer leaves of the requests and of the Hokuano port. -/
theorem State.dropTag_answers (s : State) (tag : BitVec 8) (code poison : Nat) (data : List Flit) :
    let t := (s.dropTag tag).sendCompletion tag code poison data
    t.links.requests = s.links.requests.filter (fun r => r.tag != tag) ∧ t.port 6 = (s.sendCompletion tag code poison data).port 6 := by
  refine ⟨rfl, ?_⟩
  simp only [State.sendCompletion, State.sendPacket, State.onPort_port]
  rfl

/-- A stage of a restore that still waits for bytes goes on waiting. -/
theorem State.stagesEnd_of_waiting {s : State} (h : s.resil.restore.got < s.resil.restore.wanted) : s.stagesEnd = s := by
  have hone : s.stageEnd = s := by
    rw [State.stageEnd]
    exact if_pos h
  rw [State.stagesEnd, hone, hone]

theorem State.placeBytes_got (s : State) (bs : List Byte) (poisoned : Nat → Bool) :
    (s.placeBytes bs poisoned).resil.restore.got = s.resil.restore.got + bs.length ∧
    (s.placeBytes bs poisoned).resil.restore.wanted = s.resil.restore.wanted := by
  rw [State.placeBytes, State.onRestore_resil]
  exact ⟨rfl, rfl⟩

theorem exec_memData_of_restore {s : State} {src : Coord} {hkTag gen : BitVec 8} (poison : Word) (data : List Flit)
    (hq : s.requestOf src hkTag true = none) (hgen : gen = s.engineTag drainEngineKey) (hstage : s.resil.restore.stage ≠ .idle)
    (hsource : s.resil.restore.source = 0) (hsrc : src = s.xNeighbour true) :
    exec (.memData src hkTag 0 gen poison data) s =
      .next (s.placeBytes (data.flatMap flitBytes) fun l => poison.getLsbD l).stagesEnd := by
  have hissuer : s.memIssuer src hkTag true = drainEngineKey := by
    rw [State.memIssuer, hq]
    rfl
  change execMemData src hkTag 0 gen poison data s = _
  rw [execMemData, hissuer, if_neg (not_not.2 hgen), hq]
  dsimp only
  rw [if_neg (by simp [hstage, hsource, hsrc]), if_neg (by simp)]

/-- Settles O18: a stream's bytes, a read's frame, and the one request that an answer ends. -/
theorem remoteMemory : Obligations.RemoteMemory := by
  intro s src addr hkTag
  refine ⟨fun data hloaded hcoord htier hfaults hstream => ?_, fun len hloaded hcoord htier hfaults => ?_, fun q code gen hq hgen => ?_,
    fun q poison data gen hq hgen => ?_, fun poison data gen hq hgen hstage hsource hsrc hwaits => ?_, fun code gen hstale => ?_,
    fun code gen poison data hstale => ?_⟩
  · refine ⟨_, exec_memWrite_of_clean hloaded hcoord htier hfaults hstream, ?_⟩
    have hstreamed := State.streamIn_within (tier := field addr.toNat 48 4) (off := field addr.toNat 0 48) (data := data)
      (State.within_refl s [.dial, .logs, .mbs, .sched, .memory, .tables, .train, .links, .bytes]) (List.Subset.refl _)
    have hbytes := s.streamIn_byte (field addr.toNat 48 4) (field addr.toNat 0 48) data
    have hlinks := State.streamIn_links (s := s) (tier := field addr.toNat 48 4) (off := field addr.toNat 0 48) (data := data)
    generalize s.streamIn (field addr.toNat 48 4) (field addr.toNat 0 48) data = u at hstreamed hbytes hlinks
    have hsent := State.sendTo_within (dest := src) (type := 0x06) (vc := 2) (lgen := 0) (entries := 0) (rest := hkTag.toNat) (data := [])
      (State.within_refl u [.logs, .links]) (List.Subset.refl _)
    beta_reduce
    rw [hsent.memory (by decide), hsent.run (by decide), hsent.cfg (by decide), hsent.flash (by decide), hsent.power (by decide)]
    refine ⟨fun i hi => ?_, fun a ha => ?_, fun hreshard => ?_, hstreamed.run (by decide), hstreamed.cfg (by decide),
      hstreamed.flash (by decide), hstreamed.power (by decide)⟩
    · rw [hbytes, if_pos (by omega), Nat.add_sub_cancel_left]
    · rw [hbytes, if_neg (by omega)]
    · exact State.sendTo_links_congr (hstreamed.start (by decide)) (hstreamed.cfg (by decide)) (hlinks hreshard) ..
  · refine ⟨_, exec_memRead_of_clean hloaded hcoord htier hfaults, ?_⟩
    have hsent := State.sendTo_within (dest := src) (type := 0x05) (vc := 2) (lgen := 0) (entries := 0)
      (rest := pack [(hkTag.toNat, 8), (0, 12), (0, 44), ((s.readLines (field addr.toNat 48 4) (field addr.toNat 0 48) (len.toNat + 1)).2, 64)])
      (data := (s.readLines (field addr.toNat 48 4) (field addr.toNat 0 48) (len.toNat + 1)).1)
      (State.within_refl s [.logs, .links]) (List.Subset.refl _)
    dsimp only
    generalize State.sendTo s src 0x05 2 0 0 _ _ = u at hsent ⊢
    have hnoted := State.draw_within (State.noteReads_within (k := memKey (field addr.toNat 48 4) (field addr.toNat 0 48))
      (n := 64 * (len.toNat + 1)) (who := noName) (State.within_refl u [.draws, .dial, .logs, .memory]) (by simp)) (by simp)
    exact ⟨hnoted.links (by decide), (hnoted.mem (by decide)).trans (hsent.mem (by decide)),
      (hnoted.run (by decide)).trans (hsent.run (by decide)), (hnoted.cfg (by decide)).trans (hsent.cfg (by decide)),
      (hnoted.flash (by decide)).trans (hsent.flash (by decide)), (hnoted.power (by decide)).trans (hsent.power (by decide))⟩
  · refine ⟨_, exec_memAck_of_request code hq hgen, ?_⟩
    obtain ⟨hrequests, hport⟩ := s.dropTag_answers hkTag code.toNat 0 []
    refine ⟨?_, ?_, (State.countError_within (State.sendCompletion_within (State.dropTag_within (State.within_refl ..) (by simp)) (by simp))
      (by simp)).1⟩
    · rw [State.countError_links, hrequests]
    · rw [State.port_congr (State.countError_links ..), hport]
  · refine ⟨_, exec_memData_of_request poison data hq hgen, ?_⟩
    obtain ⟨hrequests, hport⟩ := s.dropTag_answers hkTag 0 poison.toNat data
    exact ⟨hrequests, hport, (State.sendCompletion_within (State.dropTag_within (State.within_refl ..) (by simp)) (by simp)).1⟩
  · refine ⟨_, exec_memData_of_restore poison data hq hgen hstage hsource hsrc, ?_⟩
    obtain ⟨hgot, hwanted⟩ := s.placeBytes_got (data.flatMap flitBytes) fun l => poison.getLsbD l
    rw [flatMap_flitBytes_length] at hgot
    rw [State.stagesEnd_of_waiting (by rw [hgot, hwanted]; exact hwaits)]
    exact ⟨hgot, (State.placeBytes_within (State.within_refl ..) (List.Subset.refl _)).1⟩
  · exact ⟨_, exec_memAck_of_stale code hstale, rfl, s.onResil_onlyIn _⟩
  · exact ⟨_, exec_memData_of_stale code poison data hstale, rfl, s.onResil_onlyIn _⟩

end Sys2Proof.Machine
end


section
/-! PROOFS. The memory controllers (R389–R398): what each finding in a line leaves of its partition, its controller and the poison of the line,
and with it the reads and writes of a unit. -/

namespace Sys2Proof.Machine

set_option Elab.async false

/-! ### Partitions and controllers of memory -/

/-- Which partition a line lies in, and whether it is kept, is configuration. -/
theorem State.partitionAt_congr {s t : State} (h : t.cfg = s.cfg) (tier off : Nat) : t.partitionAt tier off = s.partitionAt tier off := by
  rw [State.partitionAt, State.partitionAt, h]

theorem State.keepLine_congr {s t : State} (h : t.cfg = s.cfg) (tier off : Nat) : t.keepLine tier off = s.keepLine tier off := by
  rw [State.keepLine, State.keepLine, State.partitionAt_congr h]

theorem State.onPart_memory_of_getElem {s : State} {p : Nat} {y : PartState} (hy : s.memory.parts[p]? = some y) (f : PartState → PartState) :
    (s.onPart p f).memory = { s.memory with parts := s.memory.parts.set p (f y) } := by
  rw [State.onPart, State.onMemory, modifyAt_eq_set hy]

theorem State.onPart_parts_same {s : State} {p : Nat} {y : PartState} (hy : s.memory.parts[p]? = some y) (f : PartState → PartState) :
    (s.onPart p f).memory.parts[p]? = some (f y) := by
  rw [State.onPart_memory_of_getElem hy]
  exact List.getElem?_set_self (List.getElem?_eq_some_iff.1 hy).1

theorem State.onController_memory_of_getElem {s : State} {c : Nat} {x : ControllerState} (hx : s.memory.controllers[c]? = some x)
    (f : ControllerState → ControllerState) :
    (s.onController c f).memory = { s.memory with controllers := s.memory.controllers.set c (f x) } := by
  rw [State.onController, State.onMemory, modifyAt_eq_set hx]

/-- The controllers and partitions keep the state they are in while only these parts change. -/
theorem State.haltAtBoundary_memory (s : State) (cause : Nat) : (s.haltAtBoundary cause).memory = s.memory := by
  rw [State.haltAtBoundary]
  split <;> rfl

theorem State.haltAtBoundary_logs (s : State) (cause : Nat) : (s.haltAtBoundary cause).logs = s.logs := by
  rw [State.haltAtBoundary]
  split <;> rfl

theorem State.logDevice_memory (s : State) (code : Nat) (who : Named) (dropped detail : Nat) :
    (s.logDevice code who dropped detail).memory = s.memory :=
  (State.logDevice_within (State.within_refl s [.logs]) (List.Subset.refl _)).memory (by decide)

theorem State.logDevice_cfg (s : State) (code : Nat) (who : Named) (dropped detail : Nat) :
    (s.logDevice code who dropped detail).cfg = s.cfg :=
  (State.logDevice_within (State.within_refl s [.logs]) (List.Subset.refl _)).cfg (by decide)

theorem State.stepFault_memory (s : State) (tier off : Nat) (who : Named) : (s.stepFault tier off who).memory = { s.memory with stepFault := true } := by
  rw [State.stepFault, State.haltAtBoundary_memory, State.onMemory_memory, State.logDevice_memory]

theorem State.haltAtBoundary_due (s : State) {cause : Nat} (h : BitVec.ofNat 3 cause ≠ 0) : (s.haltAtBoundary cause).dial.haltCause ≠ 0 := by
  rw [State.haltAtBoundary]
  split
  · exact h
  · assumption

theorem State.stepFault_halts (s : State) (tier off : Nat) (who : Named) : (s.stepFault tier off who).dial.haltCause ≠ 0 :=
  State.haltAtBoundary_due _ (by decide)

/-! ### Poison of a line -/

theorem Memory.setPoison_poisoned (m : Memory) (k : Nat) (p : Bool) : (m.setPoison k p).poisoned k = p := by
  rw [Memory.setPoison, Memory.poisoned]
  cases p with
  | true => simp [mem_insertNat]
  | false => simp

theorem Memory.poisoned_congr {m : Memory} {k j : Nat} (h : lineKey k = lineKey j) : m.poisoned k = m.poisoned j := by
  rw [Memory.poisoned, Memory.poisoned, h]

/-- A byte and its line's first byte have one line. -/
theorem lineKey_memKey (tier off : Nat) : lineKey (memKey tier off) = lineKey (memKey tier (off / 64 * 64)) := by
  rw [lineKey, lineKey, memKey, memKey]
  omega

/-! ### Corrections (R393, R394) -/

theorem State.repairRows_memory (s : State) (c p : Nat) : (s.repairRows c p).memory = s.memory :=
  (State.repairRows_within (State.within_refl s [.logs, .blocks, .resil]) (List.Subset.refl _)).memory (by decide)

theorem State.wornOut_errorCounts_ne {s : State} {j : Nat} (h7 : 0x117 ≠ j) (h9 : 0x119 ≠ j) (kind unit detail : Nat) (who : Named) :
    (s.wornOut kind unit detail who).logs.errorCounts[j]? = s.logs.errorCounts[j]? := by
  rw [State.wornOut]
  split
  · rfl
  · rw [State.markSwap_errorCounts_ne h9, State.logDevice_errorCounts_ne h7]

theorem foldl_keeps {α β γ : Type} {f : α → β → α} {g : α → γ} (hf : ∀ a b, g (f a b) = g a) (l : List β) (a : α) : g (l.foldl f a) = g a := by
  induction l generalizing a with
  | nil => rfl
  | cons b l ih => rw [List.foldl_cons, ih, hf]

theorem State.repairRows_errorCounts_ne {s : State} {j : Nat} (h7 : 0x117 ≠ j) (h9 : 0x119 ≠ j) (c p : Nat) :
    (s.repairRows c p).logs.errorCounts[j]? = s.logs.errorCounts[j]? := by
  rw [State.repairRows]
  refine foldl_keeps (g := fun u : State => u.logs.errorCounts[j]?) (fun u e => ?_) _ s
  dsimp only
  split
  · split
    · rfl
    · split <;> exact State.wornOut_errorCounts_ne h7 h9 ..
  · exact State.wornOut_errorCounts_ne h7 h9 ..

section
variable {s : State} {tier off p : Nat} {part : Partition} {y : PartState} (hpart : s.partitionAt tier off = some (p, part))
  (hy : s.memory.parts[p]? = some y)
include hpart hy

/-- Below its capacity a bucket fills by one. -/
theorem State.countCorrection_of_low (hlow : y.level.toNat + 1 < part.ceCapacity) :
    s.countCorrection tier off =
      s.onPart p fun _ => { y with corrected := y.corrected + 1, level := BitVec.ofNat 16 (y.level.toNat + 1) } := by
  have hget : s.memory.parts.getD p PartState.reset = y := by rw [List.getD_eq_getElem?_getD, hy, Option.getD_some]
  have hfull : decide (part.ceCapacity ≤ y.level.toNat + 1) = false := decide_eq_false (Nat.not_le.2 hlow)
  rw [State.countCorrection, hpart]
  dsimp only
  rw [hget, hfull]
  simp only [Bool.false_eq_true, if_false, Bool.not_false, if_true]
  rw [State.onPart, State.onPart, State.onMemory, State.onMemory, modifyAt_eq_set hy, modifyAt_eq_set hy]

/-- At its capacity a bucket overflows to half of it, with 0x0F1. -/
theorem State.countCorrection_of_full (hfull : part.ceCapacity ≤ y.level.toNat + 1) :
    (s.countCorrection tier off).memory.parts[p]? = some { y with
      corrected := y.corrected + 1, level := BitVec.ofNat 16 (part.ceCapacity / 2), overflows := satAdd y.overflows 1 } ∧
    (s.countCorrection tier off).logs.errorCounts[0xF1]? = (s.logs.errorCounts[0xF1]?).map (satAdd · 1) := by
  have hget : s.memory.parts.getD p PartState.reset = y := by rw [List.getD_eq_getElem?_getD, hy, Option.getD_some]
  rw [State.countCorrection, hpart]
  dsimp only
  rw [hget, decide_eq_true hfull]
  simp only [if_true, Bool.not_true, Bool.false_eq_true, if_false]
  have hparts := State.onPart_parts_same hy fun x => { x with
    corrected := x.corrected + 1, level := BitVec.ofNat 16 (part.ceCapacity / 2), overflows := satAdd x.overflows 1 }
  generalize hu : s.onPart p _ = u at hparts ⊢
  have hlogs : u.logs = s.logs := by rw [← hu, State.onPart_logs]
  have hcount : (u.logDevice 0x0F1 noName 0 (u.memDetail tier off)).logs.errorCounts[0xF1]? = (s.logs.errorCounts[0xF1]?).map (satAdd · 1) := by
    rw [State.logDevice_errorCounts_same (by decide) (by decide), hlogs]
  split
  · refine ⟨?_, ?_⟩
    · rw [foldl_keeps (g := fun v : State => v.memory) (fun v c => v.repairRows_memory c p), State.logDevice_memory, hparts]
    · rw [foldl_keeps (g := fun v : State => v.logs.errorCounts[0xF1]?)
        (fun v c => State.repairRows_errorCounts_ne (by decide) (by decide) c p), hcount]
  · exact ⟨by rw [State.logDevice_memory, hparts], hcount⟩

end

/-! ### Stored poison and uncorrectable lines (R396, R398) -/

/-- A step fault where the line's partition is kept (R398). -/
def State.faultIfKept (s : State) (tier off : Nat) (who : Named) : State := if s.keepLine tier off then s.stepFault tier off who else s

theorem State.faultIfKept_memory (s : State) (tier off : Nat) (who : Named) :
    (s.faultIfKept tier off who).memory = { s.memory with stepFault := s.memory.stepFault || s.keepLine tier off } := by
  rw [State.faultIfKept]
  cases h : s.keepLine tier off with
  | true => rw [if_pos rfl, State.stepFault_memory, Bool.or_true]
  | false => rw [if_neg Bool.false_ne_true, Bool.or_false]

theorem State.faultIfKept_within {s0 s : State} {L : List Part} (h : s0.within L s) (hL : [.dial, .logs, .memory] ⊆ L) {tier off : Nat}
    {who : Named} : s0.within L (s.faultIfKept tier off who) :=
  State.within_ite (State.stepFault_within h hL) h

theorem State.readStored_of_dram {s : State} {tier off p : Nat} {part : Partition} {y : PartState} (htier : tier ≤ 1)
    (hpart : s.partitionAt tier off = some (p, part)) (hy : s.memory.parts[p]? = some y) (who : Named) :
    (s.readStored tier off who).memory = { s.memory with
      parts := s.memory.parts.set p { y with poisonReads := satAdd y.poisonReads 1 }
      stepFault := s.memory.stepFault || s.keepLine tier off } := by
  have hdram : tier = 0 ∨ tier = 1 := by omega
  have hstored : s.readStored tier off who =
      (s.onPart p fun x => { x with poisonReads := satAdd x.poisonReads 1 }).faultIfKept tier off who := by
    rw [State.readStored, if_pos hdram, hpart]
    rfl
  rw [hstored, State.faultIfKept_memory, State.keepLine_congr (State.onPart_cfg ..), State.onPart_memory_of_getElem hy]

/-- An uncorrectable line before its partition's step fault: counted, logged, poisoned. -/
def State.badLine (s : State) (tier off : Nat) (who : Named) : State :=
  let u := (s.partitionAt tier off).elim s fun p => s.onPart p.1 fun x => { x with uncorrectable := satAdd x.uncorrectable 1 }
  let v := u.logDevice 0x0F2 who 0 (u.memDetail tier off)
  v.withMem (v.memory.mem.setPoison (memKey tier off) true)

theorem State.readBad_eq (s : State) (tier off : Nat) (who : Named) : s.readBad tier off who = (s.badLine tier off who).faultIfKept tier off who :=
  rfl

theorem State.badLine_within (s : State) (tier off : Nat) (who : Named) : s.within [.logs, .memory, .bytes] (s.badLine tier off who) :=
  State.withMem_within (Memory.setPoison_wf _ _) (State.logDevice_within (State.within_elim (fun _ => State.onPart_within (State.within_refl ..)
    (by simp)) (State.within_refl ..)) (by simp)) (by simp)

theorem State.badLine_memory (s : State) (tier off : Nat) (who : Named) :
    (s.badLine tier off who).memory.mem = s.memory.mem.setPoison (memKey tier off) true ∧
    (s.badLine tier off who).memory.stepFault = s.memory.stepFault := by
  have hpart : ((s.partitionAt tier off).elim s fun p => s.onPart p.1 fun x => { x with uncorrectable := satAdd x.uncorrectable 1 }).memory.mem =
        s.memory.mem ∧
      ((s.partitionAt tier off).elim s fun p => s.onPart p.1 fun x => { x with uncorrectable := satAdd x.uncorrectable 1 }).memory.stepFault =
        s.memory.stepFault := by
    cases s.partitionAt tier off <;> exact ⟨rfl, rfl⟩
  rw [State.badLine]
  generalize Option.elim _ _ _ = u at hpart ⊢
  have hlog := u.logDevice_memory 0x0F2 who 0 (u.memDetail tier off)
  generalize u.logDevice _ _ _ _ = v at hlog ⊢
  rw [← hlog] at hpart
  exact ⟨congrArg (Memory.setPoison · _ true) hpart.1, hpart.2⟩

theorem State.readBad_memory (s : State) (tier off : Nat) (who : Named) :
    (s.readBad tier off who).memory.mem = s.memory.mem.setPoison (memKey tier off) true ∧
    (s.readBad tier off who).memory.stepFault = (s.memory.stepFault || s.keepLine tier off) := by
  obtain ⟨hmem, hfault⟩ := s.badLine_memory tier off who
  rw [State.readBad_eq, State.faultIfKept_memory, State.keepLine_congr ((s.badLine_within tier off who).cfg (by decide))]
  exact ⟨hmem, congrArg (· || _) hfault⟩

theorem State.readBad_of_not_keep {s : State} {tier off : Nat} (h : s.keepLine tier off = false) (who : Named) :
    s.readBad tier off who = s.badLine tier off who := by
  rw [State.readBad_eq, State.faultIfKept, State.keepLine_congr ((s.badLine_within tier off who).cfg (by decide)), h, if_neg Bool.false_ne_true]

theorem State.readBad_of_keep {s : State} {tier off : Nat} (h : s.keepLine tier off = true) (who : Named) :
    s.readBad tier off who = (s.badLine tier off who).stepFault tier off who := by
  rw [State.readBad_eq, State.faultIfKept, State.keepLine_congr ((s.badLine_within tier off who).cfg (by decide)), h, if_pos rfl]

/-! ### A line read (R389, R393, R396, R398) -/

section
variable {s : State} {tier off : Nat} (h : s.memory.mem.poisoned (memKey tier off) = false) (who : Named)
include h

theorem State.readLine_clean : s.readLine tier off .clean who = s := by
  simp only [State.readLine, h, Bool.false_eq_true, if_false]

theorem State.readLine_corrected (chip : BitVec 4) (kind : BitVec 2) (htier : tier ≤ 1) :
    s.readLine tier off (.corrected chip kind) who = s.countCorrection tier off := by
  simp only [State.readLine, h, Bool.false_eq_true, if_false, htier, if_true]

theorem State.readLine_inner {c : Nat} (dies : Nat) (htier : tier = 0) (hc : controllerOf tier off = some c) :
    s.readLine tier off (.inner dies) who = s.onController c fun x => { x with inner := addN x.inner dies } := by
  simp only [State.readLine, h, Bool.false_eq_true, if_false, hc]
  exact if_pos htier

end

theorem State.readLine_of_poisoned {s : State} {tier off : Nat} {finding : LineFinding} (hf : finding ≠ .uncorrectable)
    (h : s.memory.mem.poisoned (memKey tier off) = true) (who : Named) : s.readLine tier off finding who = s.readStored tier off who := by
  cases finding with
  | uncorrectable => exact absurd rfl hf
  | clean => exact if_pos h
  | inner dies => exact if_pos h
  | corrected chip kind => exact if_pos h

/-- A line and each of its bytes have one controller. -/
theorem controllerOf_line (off : Nat) : controllerOf 0 (off / 64 * 64) = controllerOf 0 off := by
  have hslice : field (off / 64 * 64) 13 4 = field off 13 4 := by
    rw [field, field, Nat.shiftRight_eq_div_pow, Nat.shiftRight_eq_div_pow]
    omega
  rw [controllerOf, controllerOf, hslice]

theorem State.ownLine_controller {s : State} {a c tier off : Nat} (h : s.ownLine a = some (c, tier, off)) : controllerOf tier off = some c := by
  rw [State.ownLine] at h
  split at h
  · next d hd =>
    split at h
    · obtain ⟨rfl, rfl, rfl⟩ : d = c ∧ field a 48 4 = tier ∧ field a 0 48 = off := by simpa using h
      exact hd
    · exact absurd h (by simp)
  · exact absurd h (by simp)

theorem exec_memoryRead_of_own {s : State} {addr : Word} {c tier off : Nat} (h : s.ownLine addr.toNat = some (c, tier, off)) (ctx : Option CtxId)
    (finding : LineFinding) : exec (.memoryRead addr ctx finding) s = .next (s.readLine tier (off / 64 * 64) finding (s.issuer ctx)) := by
  change execMemoryRead addr ctx finding s = _
  rw [execMemoryRead, h]

/-- Settles O19: one lemma for each finding in a clean line, one for stored poison, one for a line that cannot be corrected. -/
theorem memoryReads : Obligations.MemoryReads := by
  intro s addr ctx c tier off hown
  have hexec := exec_memoryRead_of_own hown ctx
  refine ⟨fun hclean => ?_, fun dies x htier hclean hx => ?_, fun chip kind p part y htier hclean hpart hy hlow => ?_,
    fun chip kind p part y htier hclean hpart hy hfull => ?_, fun finding p part y htier hf hpoison hpart hy => ?_, ?_⟩
  · exact ⟨_, hexec .clean, State.readLine_clean hclean _⟩
  · have hc : controllerOf tier (off / 64 * 64) = some c := by
      rw [htier, controllerOf_line, ← htier]
      exact State.ownLine_controller hown
    refine ⟨_, (hexec (.inner dies)).trans (congrArg Host.Outcome.next (State.readLine_inner hclean _ dies htier hc)), ?_,
      (State.onController_within (State.within_refl ..) (List.Subset.refl _)).1⟩
    exact State.onController_memory_of_getElem hx _
  · refine ⟨_, (hexec (.corrected chip kind)).trans (congrArg Host.Outcome.next ((State.readLine_corrected hclean _ chip kind htier).trans
      (State.countCorrection_of_low hpart hy hlow))), ?_, (State.onPart_within (State.within_refl ..) (List.Subset.refl _)).1⟩
    exact State.onPart_memory_of_getElem hy _
  · refine ⟨_, (hexec (.corrected chip kind)).trans (congrArg Host.Outcome.next (State.readLine_corrected hclean _ chip kind htier)), ?_⟩
    obtain ⟨hparts, hcount⟩ := State.countCorrection_of_full hpart hy hfull
    exact ⟨hparts, hcount,
      (State.countCorrection_within (State.within_refl s [.logs, .memory, .blocks, .resil]) (List.Subset.refl _)).mem (by decide)⟩
  · refine ⟨_, (hexec finding).trans (congrArg Host.Outcome.next (State.readLine_of_poisoned hf hpoison _)), ?_⟩
    beta_reduce
    rw [State.readStored_of_dram htier hpart hy]
    exact ⟨List.getElem?_set_self (List.getElem?_eq_some_iff.1 hy).1, rfl, rfl⟩
  · obtain ⟨hmem, hfault⟩ := s.readBad_memory tier (off / 64 * 64) (s.issuer ctx)
    refine ⟨_, hexec .uncorrectable, ?_⟩
    change (s.readBad _ _ _).memory.mem.cells = _ ∧ (s.readBad _ _ _).memory.mem.poisoned _ = true ∧ _
    rw [hmem]
    refine ⟨Memory.setPoison_cells .., Memory.setPoison_poisoned .., fun hkeep => ?_, fun hkeep => ?_⟩
    · refine ⟨hfault.trans (by rw [hkeep, Bool.or_true]), ?_, (State.readBad_within (State.within_refl ..) (List.Subset.refl _)).1⟩
      change (s.readBad tier _ _).dial.haltCause ≠ 0
      rw [State.readBad_of_keep hkeep]
      exact State.stepFault_halts _ _ _ _
    · refine ⟨hfault.trans (by rw [hkeep, Bool.or_false]), ?_⟩
      change s.onlyIn (s.readBad tier _ _) _
      rw [State.readBad_of_not_keep hkeep]
      exact (s.badLine_within ..).1

/-! ### A line written (R392, R396, R397) -/

/-- Only an uncorrectable line changes what is stored, and then only its poison. -/
theorem State.readLine_mem_of_correctable {finding : LineFinding} (hf : finding ≠ .uncorrectable) (s : State) (tier off : Nat) (who : Named) :
    (s.readLine tier off finding who).memory.mem = s.memory.mem := by
  cases hp : s.memory.mem.poisoned (memKey tier off) with
  | true =>
    rw [State.readLine_of_poisoned hf hp]
    exact (State.readStored_within (State.within_refl s [.dial, .logs, .memory]) (List.Subset.refl _)).mem (by decide)
  | false =>
    cases finding with
    | uncorrectable => exact absurd rfl hf
    | clean => rw [State.readLine_clean hp]
    | inner dies =>
      simp only [State.readLine, hp, Bool.false_eq_true, if_false]
      split
      · split <;> rfl
      · rfl
    | corrected chip kind =>
      simp only [State.readLine, hp, Bool.false_eq_true, if_false]
      split
      · exact (State.countCorrection_within (State.within_refl s [.logs, .memory, .blocks, .resil]) (List.Subset.refl _)).mem (by decide)
      · rfl

theorem State.readLine_byte (s : State) (tier off : Nat) (finding : LineFinding) (who : Named) (j : Nat) :
    (s.readLine tier off finding who).memory.mem.byte? j = s.memory.mem.byte? j := by
  by_cases hf : finding = .uncorrectable
  · subst hf
    change (s.readBad tier off who).memory.mem.byte? j = _
    rw [(s.readBad_memory tier off who).1, Memory.byte?_setPoison]
  · rw [State.readLine_mem_of_correctable hf]

/-- A smaller write than a word or line: what the line's read leaves, then the bytes with the line's poison. -/
def State.writePart (s : State) (k : Nat) (bytes : List Byte) (poisoned : Bool) : State :=
  (s.store k bytes poisoned).withMem ((s.store k bytes poisoned).memory.mem.setPoison k (s.memory.mem.poisoned k || poisoned))

theorem State.writeLine_whole {s : State} {tier off : Nat} {bytes : List Byte} (h : s.writesWhole tier off bytes.length = true) (poisoned : Bool)
    (finding : LineFinding) : s.writeLine tier off bytes poisoned finding = s.store (memKey tier off) bytes poisoned :=
  if_pos h

theorem State.writeLine_part {s : State} {tier off : Nat} {bytes : List Byte} (h : s.writesWhole tier off bytes.length = false) (poisoned : Bool)
    (finding : LineFinding) : s.writeLine tier off bytes poisoned finding =
      (s.readLine tier (off / 64 * 64) finding noName).writePart (memKey tier off) bytes poisoned :=
  if_neg (by rw [h]; exact Bool.false_ne_true)

theorem State.writePart_byte (s : State) (k : Nat) (bytes : List Byte) (poisoned : Bool) (j : Nat) :
    (s.writePart k bytes poisoned).memory.mem.byte? j = if k ≤ j ∧ j < k + bytes.length then bytes[j - k]? else s.memory.mem.byte? j := by
  rw [← State.store_byte]
  exact Memory.byte?_setPoison ..

theorem State.writePart_poisoned (s : State) (k : Nat) (bytes : List Byte) (poisoned : Bool) :
    (s.writePart k bytes poisoned).memory.mem.poisoned k = (s.memory.mem.poisoned k || poisoned) :=
  Memory.setPoison_poisoned ..

theorem State.writePart_within {s0 s : State} {L : List Part} (h : s0.within L s) (hL : [.memory, .bytes] ⊆ L) (k : Nat) (bytes : List Byte)
    (poisoned : Bool) : s0.within L (s.writePart k bytes poisoned) :=
  State.withMem_within (Memory.setPoison_wf _ _) (State.store_within h hL) hL

theorem State.writeLine_byte (s : State) (tier off : Nat) (bytes : List Byte) (poisoned : Bool) (finding : LineFinding) (j : Nat) :
    (s.writeLine tier off bytes poisoned finding).memory.mem.byte? j =
      if memKey tier off ≤ j ∧ j < memKey tier off + bytes.length then bytes[j - memKey tier off]? else s.memory.mem.byte? j := by
  cases h : s.writesWhole tier off bytes.length with
  | true => rw [State.writeLine_whole h, State.store_byte]
  | false => rw [State.writeLine_part h, State.writePart_byte, State.readLine_byte]

/-- Bytes that reach the lines after the first: `n` lines from an offset on. -/
def State.writeOn (s : State) (tier off : Nat) (rest : List Byte) (poisoned : Bool) (finding : LineFinding) (n : Nat) : State :=
  (List.range n).foldl (fun s i => s.writeLine tier (off + 64 * i) ((rest.drop (64 * i)).take 64) poisoned finding) s

theorem State.writeOn_byte (s : State) (tier off : Nat) (rest : List Byte) (poisoned : Bool) (finding : LineFinding) (n j : Nat) :
    (s.writeOn tier off rest poisoned finding n).memory.mem.byte? j =
      if memKey tier off ≤ j ∧ j < memKey tier off + min (64 * n) rest.length then rest[j - memKey tier off]? else s.memory.mem.byte? j := by
  induction n with
  | zero =>
    rw [if_neg (by omega)]
    rfl
  | succ n ih =>
    rw [State.writeOn] at ih ⊢
    rw [List.range_succ, List.foldl_append, List.foldl_cons, List.foldl_nil, State.writeLine_byte, ih, memKey_add, List.length_take,
      List.length_drop]
    by_cases hline : memKey tier off + 64 * n ≤ j ∧ j < memKey tier off + 64 * n + min 64 (rest.length - 64 * n)
    · rw [if_pos hline, if_pos (by omega), List.getElem?_take_of_lt (by omega), List.getElem?_drop,
        show 64 * n + (j - (memKey tier off + 64 * n)) = j - memKey tier off by omega]
    · rw [if_neg hline]
      by_cases hbefore : memKey tier off ≤ j ∧ j < memKey tier off + min (64 * n) rest.length
      · rw [if_pos hbefore, if_pos (by omega)]
      · rw [if_neg hbefore, if_neg (by omega)]

theorem exec_memoryWrite_of_own {s : State} {addr : Word} {c tier off : Nat} {bytes : List Byte}
    (h : s.ownLine addr.toNat = some (c, tier, off)) (hfit : off + bytes.length ≤ s.caps.of tier) (poisoned : Bool) (finding : LineFinding) :
    let head := min bytes.length (64 - off % 64)
    exec (.memoryWrite addr bytes poisoned finding) s = .next ((s.writeLine tier off (bytes.take head) poisoned finding).writeOn tier (off + head)
      (bytes.drop head) poisoned finding (ceilDiv (bytes.length - head) 64)) := by
  change execMemoryWrite addr bytes poisoned finding s = _
  rw [execMemoryWrite, h]
  dsimp only
  rw [if_neg (Nat.not_lt.2 hfit), State.writeOn]
  simp only [List.drop_drop]

/-- A write within one line is one write of that line. -/
theorem exec_memoryWrite_of_line {s : State} {addr : Word} {c tier off : Nat} {bytes : List Byte}
    (h : s.ownLine addr.toNat = some (c, tier, off)) (hfit : off + bytes.length ≤ s.caps.of tier) (hline : off % 64 + bytes.length ≤ 64)
    (poisoned : Bool) (finding : LineFinding) :
    exec (.memoryWrite addr bytes poisoned finding) s = .next (s.writeLine tier off bytes poisoned finding) := by
  have hhead : min bytes.length (64 - off % 64) = bytes.length := by omega
  have hexec := exec_memoryWrite_of_own h hfit poisoned finding
  rw [hhead] at hexec
  rw [hexec, List.take_length, Nat.sub_self]
  rfl

theorem Memory.setPoison_true_keeps {m : Memory} {k j : Nat} (h : m.poisoned j = true) : (m.setPoison k true).poisoned j = true := by
  rw [Memory.poisoned, List.contains_iff_mem] at h ⊢
  exact mem_insertNat.2 (.inr h)

theorem Memory.poisonAll_poisoned {ls : List Nat} {m : Memory} {j : Nat} (h : j ∈ ls ∨ m.poisoned j = true) :
    (ls.foldl (fun m l => m.setPoison l true) m).poisoned j = true := by
  induction ls generalizing m with
  | nil => exact h.resolve_left (by simp)
  | cons l ls ih =>
    refine ih ?_
    obtain h | h := h
    · obtain rfl | h := List.mem_cons.1 h
      · exact .inr (Memory.setPoison_poisoned ..)
      · exact .inl h
    · exact .inr (Memory.setPoison_true_keeps h)

/-- Lines stored poisoned are poisoned. -/
theorem State.store_poisoned (s : State) (k : Nat) (bytes : List Byte) {l : Nat} (hl : l ∈ linesOf k bytes.length) :
    (s.store k bytes true).memory.mem.poisoned l = true :=
  Memory.poisonAll_poisoned (.inl hl)

/-- Settles O20: a write's bytes line by line; within one line, the three ways it is stored. -/
theorem memoryWrites : Obligations.MemoryWrites := by
  intro s addr bytes poisoned finding c tier off hown hfit
  have hinside (t : State) (hbyte : ∀ j, t.memory.mem.byte? j =
      if memKey tier off ≤ j ∧ j < memKey tier off + bytes.length then bytes[j - memKey tier off]? else s.memory.mem.byte? j) :
      (∀ i, i < bytes.length → t.memory.mem.byte? (memKey tier off + i) = bytes[i]?) ∧
      (∀ a, a < memKey tier off ∨ memKey tier off + bytes.length ≤ a → t.memory.mem.byte? a = s.memory.mem.byte? a) := by
    refine ⟨fun i hi => ?_, fun a ha => ?_⟩
    · rw [hbyte, if_pos (by omega), Nat.add_sub_cancel_left]
    · rw [hbyte, if_neg (by omega)]
  have hgood : s.memory.mem.poisoned (memKey tier (off / 64 * 64)) = s.memory.mem.poisoned (memKey tier off) :=
    Memory.poisoned_congr (lineKey_memKey tier off).symm
  refine ⟨?_, fun hline hwhole => ?_, fun hline hpart hclean => ?_, fun hline hpart hkeep => ?_⟩
  · obtain ⟨t, ht, hwithin⟩ := execMemoryWrite_within (addr := addr) (bytes := bytes) (poisoned := poisoned) (finding := finding) (s := s)
      (L := [.dial, .logs, .memory, .blocks, .resil, .bytes]) (List.Subset.refl _)
    refine ⟨t, ht, hinside t fun j => ?_, hwithin.1⟩
    rw [Host.Outcome.next.inj (ht.symm.trans (exec_memoryWrite_of_own hown hfit poisoned finding)), State.writeOn_byte, State.writeLine_byte,
      memKey_add, List.length_take, List.length_drop, ceilDiv]
    generalize hhead : min bytes.length (64 - off % 64) = head
    have hle : head ≤ bytes.length := by omega
    by_cases hlater : memKey tier off + head ≤ j ∧ j < memKey tier off + bytes.length
    · rw [if_pos (by omega), if_pos (by omega), List.getElem?_drop, show head + (j - (memKey tier off + head)) = j - memKey tier off by omega]
    · rw [if_neg (by omega)]
      by_cases hfirst : memKey tier off ≤ j ∧ j < memKey tier off + head
      · rw [if_pos (by omega), if_pos (by omega), List.getElem?_take_of_lt (by omega)]
      · rw [if_neg (by omega), if_neg (by omega)]
  · refine ⟨_, (exec_memoryWrite_of_line hown hfit hline poisoned finding).trans (congrArg Host.Outcome.next (State.writeLine_whole hwhole ..)),
      hinside _ fun j => State.store_byte .., ?_, (State.store_within (State.within_refl ..) (List.Subset.refl _)).1⟩
    rintro rfl l hl
    exact s.store_poisoned _ _ hl
  · refine ⟨_, (exec_memoryWrite_of_line hown hfit hline false .clean).trans (congrArg Host.Outcome.next (State.writeLine_part hpart ..)), ?_⟩
    rw [State.readLine_clean (hgood.trans hclean)]
    refine ⟨hinside _ fun j => State.writePart_byte .., ?_, (State.writePart_within (State.within_refl ..) (List.Subset.refl _) ..).1⟩
    rw [State.writePart_poisoned, hclean, Bool.or_false]
  · refine ⟨_, (exec_memoryWrite_of_line hown hfit hline false .uncorrectable).trans
      (congrArg Host.Outcome.next (State.writeLine_part hpart ..)), ?_⟩
    change _ ∧ (State.writePart (s.readBad _ _ _) _ _ _).memory.mem.poisoned _ = true ∧ s.onlyIn (State.writePart (s.readBad _ _ _) _ _ _) _
    refine ⟨hinside _ fun j => ?_, ?_, ?_⟩
    · rw [State.writePart_byte, State.readLine_byte]
    · rw [State.writePart_poisoned, (s.readBad_memory ..).1, Memory.poisoned_congr (lineKey_memKey tier off), Memory.setPoison_poisoned,
        Bool.true_or]
    · rw [State.readBad_of_not_keep hkeep]
      exact (State.writePart_within (State.within_step (s.badLine_within ..) (State.within_refl ..) (by simp)) (by simp) ..).1

end Sys2Proof.Machine
end


section
/-! PROOFS. The log of corrections, the buckets' leak and the scrubber (R393, R394, R399–R401, R406). -/

namespace Sys2Proof.Machine

set_option Elab.async false

/-! ### The log of corrections (R393) -/

theorem State.controller_of_getElem {s : State} {c : Nat} {x : ControllerState} (hx : s.memory.controllers[c]? = some x) : s.controller c = x := by
  rw [State.controller, List.getD_eq_getElem?_getD, hx, Option.getD_some]

/-- The log with a correction of a line, at the place of the line or in one of its own. -/
def logWith (log : List CeEntry) (off : Nat) (fresh : CeEntry) : List CeEntry :=
  match log.findIdx? fun e => e.kind != 0 && e.offset.toNat == off with
  | some i => modifyAt log i fun e => { e with chip := fresh.chip, kind := fresh.kind, count := satAdd e.count 1, pos := fresh.pos, step := fresh.step }
  | none => setAt (log ++ List.replicate (64 - log.length) default) (logVictim log) fresh

/-- A correction's first entry. -/
def State.freshEntry (s : State) (c off p : Nat) (chip : BitVec 4) (kind : BitVec 2) : CeEntry :=
  ⟨BitVec.ofNat 48 off, BitVec.ofNat 4 (tierOf c), chip, kind, BitVec.ofNat 6 p, 1, s.dial.pos, BitVec.ofNat 32 s.dial.step.toNat⟩

theorem leastBy_mem {α : Type} {key : α → Nat} {l : List α} {a : α} (h : leastBy key l = some a) : a ∈ l := by
  induction l generalizing a with
  | nil => exact absurd h (by simp [leastBy])
  | cons b l ih =>
    rw [leastBy] at h
    split at h
    · exact List.mem_cons.2 (.inl (Option.some.inj h).symm)
    · next c hc =>
      split at h
      · exact List.mem_cons.2 (.inr (Option.some.inj h ▸ ih hc))
      · exact List.mem_cons.2 (.inl (Option.some.inj h).symm)

/-- A new entry's place is one of the log's 64, or of what it already holds. -/
theorem logVictim_lt (log : List CeEntry) : logVictim log < (log ++ List.replicate (64 - log.length) default).length := by
  rw [List.length_append, List.length_replicate, logVictim]
  cases hfree : (List.range 64).find? fun i => (log[i]?).all fun e => e.kind == 0 with
  | some i =>
    have hi := List.mem_range.1 (List.mem_of_find?_eq_some hfree)
    dsimp only
    omega
  | none =>
    have hlong : 0 < log.length := by
      by_contra hnil
      have hzero := List.find?_eq_none.1 hfree 0 (by simp)
      rw [List.getElem?_eq_none (by omega)] at hzero
      exact hzero rfl
    dsimp only
    cases hleast : leastBy (fun x : CeEntry × Nat => (x.1.count.toNat * 2 ^ 32 + x.1.step.toNat) * 65536 + x.1.pos.toNat) log.zipIdx with
    | none => exact Nat.lt_of_lt_of_le hlong (Nat.le_add_right ..)
    | some e => exact Nat.lt_of_lt_of_le (List.snd_lt_of_mem_zipIdx (leastBy_mem hleast)) (Nat.le_add_right ..)

section
variable {s : State} {ctl : Controller} {offset : BitVec 48} {chip : BitVec 4} {kind : BitVec 2} {p : Nat} {part : Partition} {x : ControllerState}
  (hloaded : s.start.loaded = true) (hctl : ctl.val < 24)
  (hpart : s.partitionAt (tierOf ctl.val) (offset.toNat / 64 * 64) = some (p, part))
  (hown : controllerOf (tierOf ctl.val) (offset.toNat / 64 * 64) = some ctl.val) (hx : s.memory.controllers[ctl.val]? = some x)
include hloaded hctl hpart hown hx

omit hx in
theorem exec_ceLogUpdate_of_own : exec (.ceLogUpdate ctl offset chip kind) s = .next (s.onController ctl.val fun x => { x with
    log := logWith (s.controller ctl.val).log (offset.toNat / 64 * 64) (s.freshEntry ctl.val (offset.toNat / 64 * 64) p chip kind) }) := by
  have hhere : (!s.start.loaded || decide (ctl.val ≥ 24) || controllerOf (tierOf ctl.val) (offset.toNat / 64 * 64) != some ctl.val) = false := by
    rw [hloaded, decide_eq_false (Nat.not_le.2 hctl), hown]
    simp
  change execCeLogUpdate ctl offset chip kind s = _
  rw [execCeLogUpdate]
  dsimp only
  rw [hpart]
  dsimp only
  rw [hhere, if_neg Bool.false_ne_true]
  rfl

theorem ceLogUpdate_listed {i : Nat} {e : CeEntry}
    (hfind : x.log.findIdx? (fun e => e.kind != 0 && e.offset.toNat == offset.toNat / 64 * 64) = some i) (he : x.log[i]? = some e) :
    runs (.ceLogUpdate ctl offset chip kind) s fun t =>
      t.memory = { s.memory with controllers := s.memory.controllers.set ctl.val { x with log := x.log.set i { e with
        chip := chip, kind := kind, count := satAdd e.count 1, pos := s.dial.pos, step := BitVec.ofNat 32 s.dial.step.toNat } } } ∧
      s.onlyIn t [.memory] := by
  refine ⟨_, exec_ceLogUpdate_of_own hloaded hctl hpart hown, ?_,
    (State.onController_within (State.within_refl ..) (List.Subset.refl _)).1⟩
  rw [State.onController_memory_of_getElem hx, State.controller_of_getElem hx, logWith, hfind]
  dsimp only
  rw [modifyAt_eq_set he]
  rfl

theorem ceLogUpdate_new (hfind : x.log.findIdx? (fun e => e.kind != 0 && e.offset.toNat == offset.toNat / 64 * 64) = none) :
    runs (.ceLogUpdate ctl offset chip kind) s fun t =>
      ((t.controller ctl.val).log[logVictim x.log]?).map (fun e => (e.offset.toNat, e.chip, e.kind, e.count.toNat, e.pos)) =
        some (offset.toNat / 64 * 64, chip, kind, 1, s.dial.pos) ∧
      (∀ i, i < x.log.length → i ≠ logVictim x.log → (t.controller ctl.val).log[i]? = x.log[i]?) ∧
      t.memory.mem = s.memory.mem ∧ s.onlyIn t [.memory] := by
  have hlt : ctl.val < s.memory.controllers.length := (List.getElem?_eq_some_iff.1 hx).1
  have hlog : ((s.onController ctl.val fun x => { x with
      log := logWith (s.controller ctl.val).log (offset.toNat / 64 * 64) (s.freshEntry ctl.val (offset.toNat / 64 * 64) p chip kind) }).controller
      ctl.val).log = (x.log ++ List.replicate (64 - x.log.length) default).set (logVictim x.log)
        (s.freshEntry ctl.val (offset.toNat / 64 * 64) p chip kind) := by
    rw [State.onController_controller, if_pos ⟨rfl, hlt⟩, State.controller_of_getElem hx, logWith, hfind]
    rfl
  refine ⟨_, exec_ceLogUpdate_of_own hloaded hctl hpart hown, ?_, fun i hi hne => ?_, rfl,
    (State.onController_within (State.within_refl ..) (List.Subset.refl _)).1⟩
  · have hoff : offset.toNat / 64 * 64 < 2 ^ 48 := by
      have := offset.isLt
      omega
    rw [hlog, List.getElem?_set_self (logVictim_lt _), Option.map_some]
    simpa [State.freshEntry] using hoff
  · rw [hlog, List.getElem?_set_ne (Ne.symm hne), List.getElem?_append_left hi]

end

/-! ### Dropped updates, leaks and ticks (R393, R394, R399) -/

theorem exec_ceLogUpdateDropped_of_part {s : State} {ctl : Controller} {offset : BitVec 48} {p : Nat} {part : Partition}
    (hloaded : s.start.loaded = true) (hpart : s.partitionAt (tierOf ctl.val) offset.toNat = some (p, part)) :
    exec (.ceLogUpdateDropped ctl offset) s = .next (s.onPart p fun x => { x with logLost := satAdd x.logLost 1 }) := by
  change execCeLogUpdateDropped ctl offset s = _
  rw [execCeLogUpdateDropped, hpart]
  exact congrArg Host.Outcome.next (if_pos hloaded)

theorem exec_ceBucketLeak_of_loaded {s : State} (hloaded : s.start.loaded = true) :
    exec .ceBucketLeak s = .next (s.onMemory fun m => { m with parts := m.parts.zipIdx.map fun x =>
      { x.1 with level := BitVec.ofNat 16 (x.1.level.toNat - (s.cfg.partMap.parts[x.2]?).elim 0 (·.ceLeak)) } }) :=
  congrArg Host.Outcome.next (if_pos hloaded)

theorem exec_scrubTick_of_scrubbing {s : State} (h : s.memory.scrubbing = true) :
    exec .scrubTick s = .next (s.onMemory fun m => { m with controllers := m.controllers.zipIdx.map fun c =>
      if c.2 < 24 then { c.1 with permissions := min 4 (c.1.permissions + 1) } else c.1 }) :=
  congrArg Host.Outcome.next (if_neg (by rw [h]; decide))

theorem getElem?_map_zipIdx {α β : Type} (f : α × Nat → β) (l : List α) (i : Nat) : (l.zipIdx.map f)[i]? = (l[i]?).map fun a => f (a, i) := by
  rw [List.getElem?_map, List.getElem?_zipIdx, Option.map_map, Nat.zero_add]
  rfl

/-! ### A lap of the scrubber (R401, R406) -/

/-- What a partition holds of its lap. -/
def PartState.lap (x : PartState) : List (Nat × Nat) × BitVec 16 × Bool × Nat := (x.lapLines, x.laps, x.long, x.lapStartNs)

/-- Lines scrubbed on each controller, with one more on one of them. -/
def PartState.linesWith (x : PartState) (c d : Nat) : Nat := x.linesOn d + if d = c then 1 else 0

theorem lookupNat_map_snd (f : Nat → Nat) (l : List (Nat × Nat)) (k : Nat) : lookupNat k (l.map fun x => (x.1, f x.2)) = (lookupNat k l).map f := by
  induction l with
  | nil => rfl
  | cons x l ih =>
    obtain ⟨j, a⟩ := x
    rw [List.map_cons, lookupNat, lookupNat, ih]
    split <;> rfl

/-- A partition with one more line scrubbed, its lap's start noted as every controller passes its lowest line. -/
def PartState.counted (x : PartState) (part : Partition) (c now : Nat) : PartState :=
  let y := { x with lapLines := insertKey c (x.linesOn c + 1) x.lapLines }
  if !x.passed part 1 && y.passed part 1 then { y with lapStartNs := now } else y

theorem PartState.counted_linesOn (x : PartState) (part : Partition) (c now d : Nat) : (x.counted part c now).linesOn d = x.linesWith c d := by
  have hinsert : ((lookupNat d (insertKey c (x.linesOn c + 1) x.lapLines)).getD 0) = x.linesWith c d := by
    rw [lookupNat_insertKey, PartState.linesWith]
    by_cases hd : c = d
    · rw [if_pos hd, if_pos hd.symm, Option.getD_some, hd]
    · rw [if_neg hd, if_neg (Ne.symm hd), Nat.add_zero, PartState.linesOn]
  rw [PartState.counted, ← hinsert]
  dsimp only
  split <;> rfl

theorem PartState.counted_fields (x : PartState) (part : Partition) (c now : Nat) :
    (x.counted part c now).laps = x.laps ∧ (x.counted part c now).long = x.long ∧
    (x.counted part c now).poisonReads = x.poisonReads ∧
    (x.passed part 1 = true → (x.counted part c now).lapStartNs = x.lapStartNs) := by
  rw [PartState.counted]
  dsimp only
  split
  · next h => exact ⟨rfl, rfl, rfl, fun hp => by simp [hp] at h⟩
  · exact ⟨rfl, rfl, rfl, fun _ => rfl⟩

theorem PartState.passed_iff (x : PartState) (part : Partition) (n : Nat) :
    x.passed part n = true ↔ ∀ c ∈ tierControllers part.tier, n ≤ x.linesOn c := by
  simp [PartState.passed]

/-- Whether a line more ends the lap. -/
def PartState.endsLap (x : PartState) (part : Partition) (c : Nat) : Prop := ∀ d ∈ tierControllers part.tier, part.perController ≤ x.linesWith c d

theorem PartState.counted_passed (x : PartState) (part : Partition) (c now : Nat) :
    (x.counted part c now).passed part part.perController = true ↔ x.endsLap part c := by
  simp only [PartState.passed_iff, PartState.counted_linesOn, PartState.endsLap]

theorem PartState.scrub_of_not_ends {x : PartState} {part : Partition} {c : Nat} (h : ¬ x.endsLap part c) (now : Nat) :
    (x.scrub part c now).1 = x.counted part c now := by
  have hno : (x.counted part c now).passed part part.perController = false := by
    rwa [← x.counted_passed part c now, Bool.not_eq_true] at h
  change (if !(x.counted part c now).passed part part.perController then (x.counted part c now, false) else _).1 = _
  rw [hno]
  rfl

theorem PartState.scrub_of_ends {x : PartState} {part : Partition} {c : Nat} (h : x.endsLap part c) (now : Nat) :
    let y := x.counted part c now
    let z := (x.scrub part c now).1
    z.lapLines = y.lapLines.map (fun k => (k.1, k.2 - part.perController)) ∧ z.laps = satAdd y.laps 1 ∧
    z.long = decide (0 < part.lapLimit ∧ part.lapLimit * 1000000000 < now - y.lapStartNs) ∧ z.poisonReads = y.poisonReads := by
  have hyes := (x.counted_passed part c now).2 h
  have hscrub : (x.scrub part c now).1 = { x.counted part c now with
      lapLines := (x.counted part c now).lapLines.map fun k => (k.1, k.2 - part.perController)
      laps := satAdd (x.counted part c now).laps 1
      lastLapMs := BitVec.ofNat 32 (min ((now - (x.counted part c now).lapStartNs) / 1000000) (2 ^ 32 - 1))
      long := decide (0 < part.lapLimit ∧ part.lapLimit * 1000000000 < now - (x.counted part c now).lapStartNs) } := by
    change (if !(x.counted part c now).passed part part.perController then (x.counted part c now, false) else _).1 = _
    rw [hyes]
    rfl
  dsimp only
  rw [hscrub]
  exact ⟨rfl, rfl, rfl, rfl⟩

theorem PartState.scrub_linesOn_of_ends {x : PartState} {part : Partition} {c : Nat} (h : x.endsLap part c) (now d : Nat) :
    (x.scrub part c now).1.linesOn d = x.linesWith c d - part.perController := by
  rw [PartState.linesOn, (PartState.scrub_of_ends h now).1, lookupNat_map_snd (· - part.perController), ← x.counted_linesOn part c now d,
    PartState.linesOn]
  cases lookupNat d (x.counted part c now).lapLines with
  | none => rw [Option.map_none, Option.getD_none, Nat.zero_sub]
  | some n => rw [Option.map_some, Option.getD_some, Option.getD_some]

theorem PartState.scrub_poisonReads (x : PartState) (part : Partition) (c now : Nat) : (x.scrub part c now).1.poisonReads = x.poisonReads := by
  obtain ⟨-, -, hreads, -⟩ := x.counted_fields part c now
  by_cases h : x.endsLap part c
  · rw [(PartState.scrub_of_ends h now).2.2.2, hreads]
  · rw [PartState.scrub_of_not_ends h, hreads]

/-! ### What a scrub's finding leaves (R400) -/

/-- What a scrub counts by stays: permissions and places, laps, the dial's time, configuration, and every byte. -/
structure State.keepsScrub (s t : State) : Prop where
  permissions : ∀ c, (t.controller c).permissions = (s.controller c).permissions
  scrubAt : ∀ c, (t.controller c).scrubAt = (s.controller c).scrubAt
  lap : ∀ p : Nat, (t.memory.parts[p]?).map PartState.lap = (s.memory.parts[p]?).map PartState.lap
  cells : t.memory.mem.cells = s.memory.mem.cells
  ns : t.dial.ns = s.dial.ns
  cfg : t.cfg = s.cfg

section
variable {s0 s : State}

theorem State.keepsScrub_refl (s : State) : s.keepsScrub s := ⟨fun _ => rfl, fun _ => rfl, fun _ => rfl, rfl, rfl, rfl⟩

theorem State.keepsScrub_ite {c : Prop} [Decidable c] {a b : State} (ha : s0.keepsScrub a) (hb : s0.keepsScrub b) :
    s0.keepsScrub (if c then a else b) := by
  split <;> assumption

variable (h : s0.keepsScrub s)
include h

/-- A state with the same memory, time and configuration. -/
theorem State.keepsScrub.congr {t : State} (hmem : t.memory = s.memory) (hns : t.dial.ns = s.dial.ns) (hcfg : t.cfg = s.cfg) : s0.keepsScrub t := by
  have hctl (c : Nat) : t.controller c = s.controller c := by rw [State.controller, State.controller, hmem]
  exact ⟨fun c => by rw [hctl]; exact h.permissions c, fun c => by rw [hctl]; exact h.scrubAt c, fun p => by rw [hmem]; exact h.lap p,
    by rw [hmem]; exact h.cells, hns.trans h.ns, hcfg.trans h.cfg⟩

theorem State.logDevice_keepsScrub {code : Nat} {who : Named} {dropped detail : Nat} : s0.keepsScrub (s.logDevice code who dropped detail) :=
  h.congr (s.logDevice_memory ..) (congrArg DialState.ns (s.logDevice_dial ..)) (s.logDevice_cfg ..)

theorem State.onPart_keepsScrub {p : Nat} {f : PartState → PartState} (hf : ∀ x, (f x).lap = x.lap := by exact fun _ => rfl) :
    s0.keepsScrub (s.onPart p f) := by
  refine ⟨h.permissions, h.scrubAt, fun q => ?_, h.cells, h.ns, h.cfg⟩
  rw [← h.lap q, State.onPart, State.onMemory_memory, modifyAt, List.getElem?_modify]
  by_cases hq : p = q
  · subst hq
    cases s.memory.parts[p]? with
    | none => rfl
    | some x => simp [hf]
  · simp [hq]

theorem State.onController_keepsScrub {c : Nat} {f : ControllerState → ControllerState}
    (hf : ∀ x, (f x).permissions = x.permissions ∧ (f x).scrubAt = x.scrubAt := by exact fun _ => ⟨rfl, rfl⟩) :
    s0.keepsScrub (s.onController c f) := by
  refine ⟨fun d => ?_, fun d => ?_, h.lap, h.cells, h.ns, h.cfg⟩ <;> rw [State.onController_controller] <;> split
  · rw [(hf _).1, h.permissions]
  · exact h.permissions d
  · rw [(hf _).2, h.scrubAt]
  · exact h.scrubAt d

theorem State.withMem_keepsScrub {m : Memory} (hm : m.cells = s.memory.mem.cells) : s0.keepsScrub (s.withMem m) :=
  ⟨h.permissions, h.scrubAt, h.lap, hm.trans h.cells, h.ns, h.cfg⟩

theorem State.stepFault_keepsScrub {tier off : Nat} {who : Named} : s0.keepsScrub (s.stepFault tier off who) := by
  have hflag : s0.keepsScrub ((s.logDevice 0x0F3 who 0 (s.memDetail tier off)).onMemory fun m => { m with stepFault := true }) := by
    have hlog := State.logDevice_keepsScrub h (code := 0x0F3) (who := who) (dropped := 0) (detail := s.memDetail tier off)
    exact ⟨hlog.permissions, hlog.scrubAt, hlog.lap, hlog.cells, hlog.ns, hlog.cfg⟩
  rw [State.stepFault, State.haltAtBoundary]
  exact State.keepsScrub_ite (hflag.congr rfl rfl rfl) hflag

theorem State.repairRows_keepsScrub {c i : Nat} : s0.keepsScrub (s.repairRows c i) := by
  have hw := State.repairRows_within (State.within_refl s [.logs, .blocks, .resil]) (List.Subset.refl _) (ctl := c) (part := i)
  exact h.congr (s.repairRows_memory c i) (congrArg DialState.ns (hw.dial (by decide))) (hw.cfg (by decide))

theorem State.repairAll_keepsScrub {i : Nat} {l : List Nat} : s0.keepsScrub (l.foldl (fun s c => s.repairRows c i) s) := by
  induction l generalizing s with
  | nil => exact h
  | cons c l ih => exact ih (State.repairRows_keepsScrub h)

theorem State.countCorrection_keepsScrub {tier off : Nat} : s0.keepsScrub (s.countCorrection tier off) := by
  rw [State.countCorrection]
  split
  · exact h
  · exact State.keepsScrub_ite (State.onPart_keepsScrub h) (State.keepsScrub_ite
      (State.repairAll_keepsScrub (State.logDevice_keepsScrub (State.onPart_keepsScrub h))) (State.logDevice_keepsScrub (State.onPart_keepsScrub h)))

/-- A line that can be corrected, as the scrubber reads it. -/
theorem State.readLine_keepsScrub {tier off : Nat} {finding : LineFinding} {who : Named} (hf : finding ≠ .uncorrectable)
    (hclean : s.memory.mem.poisoned (memKey tier off) = false) : s0.keepsScrub (s.readLine tier off finding who) := by
  cases finding with
  | uncorrectable => exact absurd rfl hf
  | clean => rwa [State.readLine_clean hclean]
  | inner dies =>
    simp only [State.readLine, hclean, Bool.false_eq_true, if_false]
    split
    · exact State.keepsScrub_ite (State.onController_keepsScrub h) h
    · exact h
  | corrected chip kind =>
    simp only [State.readLine, hclean, Bool.false_eq_true, if_false]
    exact State.keepsScrub_ite (State.countCorrection_keepsScrub h) h

end

/-- The state in which a scrub has counted what it found. -/
def State.noteFound (s : State) (tier off : Nat) (f : PartState → PartState) : State := (s.partitionAt tier off).elim s fun p => s.onPart p.1 f

theorem State.noteFound_keepsScrub {s0 s : State} (h : s0.keepsScrub s) {tier off : Nat} {f : PartState → PartState}
    (hf : ∀ x, (f x).lap = x.lap := by exact fun _ => rfl) : s0.keepsScrub (s.noteFound tier off f) := by
  rw [State.noteFound]
  cases s.partitionAt tier off with
  | none => exact h
  | some p => exact State.onPart_keepsScrub h hf

theorem State.scrubLine_uncorrectable (s : State) (tier off : Nat) : s.scrubLine tier off .uncorrectable =
    let u := s.noteFound tier off fun x => { x with uncorrectable := satAdd x.uncorrectable 1 }
    let v := u.logDevice 0x0F2 (engineName 0 (64 + (controllerOf tier off).getD 0)) 0 (u.memDetail tier off)
    if u.keepLine tier off then v.stepFault tier off (engineName 0 (64 + (controllerOf tier off).getD 0))
    else v.withMem (u.memory.mem.setPoison (memKey tier off) true) := rfl

theorem State.scrubLine_poisoned {s : State} {tier off : Nat} {finding : LineFinding} (hf : finding ≠ .uncorrectable)
    (h : s.memory.mem.poisoned (memKey tier off) = true) :
    s.scrubLine tier off finding = s.noteFound tier off fun x => { x with poisonReads := satAdd x.poisonReads 1 } := by
  cases finding with
  | uncorrectable => exact absurd rfl hf
  | clean => exact if_pos h
  | inner dies => exact if_pos h
  | corrected chip kind => exact if_pos h

theorem State.scrubLine_good {s : State} {tier off : Nat} {finding : LineFinding} (hf : finding ≠ .uncorrectable)
    (h : s.memory.mem.poisoned (memKey tier off) = false) :
    s.scrubLine tier off finding = s.readLine tier off finding (engineName 0 (64 + (controllerOf tier off).getD 0)) := by
  have hno : ¬ s.memory.mem.poisoned (memKey tier off) = true := by rw [h]; exact Bool.false_ne_true
  cases finding with
  | uncorrectable => exact absurd rfl hf
  | clean => exact if_neg hno
  | inner dies => exact if_neg hno
  | corrected chip kind => exact if_neg hno

theorem State.scrubLine_keepsScrub {s0 s : State} (h : s0.keepsScrub s) (tier off : Nat) (finding : LineFinding) :
    s0.keepsScrub (s.scrubLine tier off finding) := by
  by_cases hf : finding = .uncorrectable
  · subst hf
    have hnote := State.noteFound_keepsScrub h (tier := tier) (off := off) (f := fun x => { x with uncorrectable := satAdd x.uncorrectable 1 })
    rw [State.scrubLine_uncorrectable]
    generalize State.noteFound s tier off _ = u at hnote ⊢
    refine State.keepsScrub_ite (State.stepFault_keepsScrub (State.logDevice_keepsScrub hnote))
      (State.withMem_keepsScrub (State.logDevice_keepsScrub hnote) ?_)
    rw [State.logDevice_memory, Memory.setPoison_cells]
  · cases hp : s.memory.mem.poisoned (memKey tier off) with
    | true =>
      rw [State.scrubLine_poisoned hf hp]
      exact State.noteFound_keepsScrub h
    | false =>
      rw [State.scrubLine_good hf hp]
      exact State.readLine_keepsScrub h hf hp

/-! ### A scrub (R399–R401) -/

section
variable {s : State} {ctl : Controller} {x : ControllerState} {off p : Nat} {part : Partition}

/-- The state in which a controller has spent a permission and goes on to the next line. -/
def State.spendScrub (s : State) (c off : Nat) : State :=
  s.onController c fun y => { y with permissions := y.permissions - 1, scrubAt := s.nextScrub c (off + 64) }

variable (hscrub : s.memory.scrubbing = true) (hctl : ctl.val < 24) (hx : s.memory.controllers[ctl.val]? = some x) (hup : x.up = true)
  (hperm : 0 < x.permissions) (hnext : s.nextScrub ctl.val (x.scrubAt.getD 0) = some off)
  (hpart : s.partitionAt (tierOf ctl.val) off = some (p, part)) (hopen : s.closedTo ctl.val off = false)
  (hlap : s.roleUp 3 = true ∨ s.nextScrub ctl.val 0 ≠ some off)
include hscrub hctl hx hup hperm hnext hpart hopen hlap

theorem exec_scrubRead_of_due (finding : LineFinding) :
    exec (.scrubRead ctl finding) s = .next (((s.spendScrub ctl.val off).scrubLine (tierOf ctl.val) off finding).scrubbedLine p part ctl.val) := by
  have hx' := State.controller_of_getElem hx
  have hgo : ¬ ((!s.memory.scrubbing || ctl.val ≥ 24 || (s.controller ctl.val).permissions = 0 || !(s.controller ctl.val).up) = true) := by
    rw [hx', hscrub, hup]
    simp only [Bool.not_true, Bool.false_or, Bool.or_false, Bool.or_eq_true, decide_eq_true_eq, not_or]
    exact ⟨by omega, by omega⟩
  have hstay : ¬ (((!s.roleUp 3 && s.nextScrub ctl.val 0 == some off) || s.closedTo ctl.val off) = true) := by
    rw [hopen, Bool.or_false, Bool.and_eq_true, Bool.not_eq_true', beq_iff_eq]
    rintro ⟨hno, heq⟩
    rcases hlap with h | h
    · rw [h] at hno; exact Bool.noConfusion hno
    · exact h heq
  have hcfg : ((s.spendScrub ctl.val off).scrubLine (tierOf ctl.val) off finding).cfg = s.cfg :=
    (State.scrubLine_keepsScrub (State.keepsScrub_refl (s.spendScrub ctl.val off)) (tierOf ctl.val) off finding).cfg
  change execScrubRead ctl finding s = _
  rw [execScrubRead]
  refine congrArg Host.Outcome.next ((if_neg hgo).trans ?_)
  rw [hx', hnext]
  refine (if_neg hstay).trans ?_
  change (match State.partitionAt ((s.spendScrub ctl.val off).scrubLine (tierOf ctl.val) off finding) (tierOf ctl.val) off with
    | some (p, part) => ((s.spendScrub ctl.val off).scrubLine (tierOf ctl.val) off finding).scrubbedLine p part ctl.val
    | none => (s.spendScrub ctl.val off).scrubLine (tierOf ctl.val) off finding) = _
  rw [State.partitionAt_congr hcfg, hpart]

end

theorem State.spendScrub_controllers {s : State} {c off : Nat} {x : ControllerState} (hx : s.memory.controllers[c]? = some x) :
    (s.spendScrub c off).memory =
      { s.memory with controllers := s.memory.controllers.set c { x with permissions := x.permissions - 1, scrubAt := s.nextScrub c (off + 64) } } :=
  State.onController_memory_of_getElem hx _

/-- The partition a scrub counts its line in, with what a scrubbed line leaves of it. -/
theorem State.scrubbedLine_memory (s : State) (p : Nat) (part : Partition) (c : Nat) :
    (s.scrubbedLine p part c).memory = { s.memory with
      parts := modifyAt s.memory.parts p fun _ => ((s.memory.parts.getD p PartState.reset).scrub part c s.dial.ns).1 } := by
  rw [State.scrubbedLine]
  dsimp only
  split
  · exact State.logDevice_memory ..
  · rfl

theorem State.scrubbedLine_parts {s : State} {p : Nat} {y : PartState} (hy : s.memory.parts[p]? = some y) (part : Partition) (c : Nat) :
    (s.scrubbedLine p part c).memory.parts[p]? = some (y.scrub part c s.dial.ns).1 := by
  rw [State.scrubbedLine_memory, modifyAt, List.getElem?_modify, hy]
  simp [hy]

theorem State.scrubbedLine_errorCounts_ne (s : State) (p : Nat) (part : Partition) (c : Nat) {code : Nat} (hcode : code ≠ 0xF4) :
    (s.scrubbedLine p part c).logs.errorCounts[code]? = s.logs.errorCounts[code]? := by
  rw [State.scrubbedLine]
  split
  · exact State.logDevice_errorCounts_ne (by omega) ..
  · rfl

/-- What a scrubbed line leaves of its partition, by the lap it held. -/
theorem PartState.scrub_by_lap {y y' : PartState} (hlap : y'.lap = y.lap) (part : Partition) (c now : Nat) :
    (y.endsLap part c → (∀ d, (y'.scrub part c now).1.linesOn d = y.linesWith c d - part.perController) ∧
      (y'.scrub part c now).1.laps = satAdd y.laps 1 ∧
      ((∀ d ∈ tierControllers part.tier, 1 ≤ y.linesOn d) →
        (y'.scrub part c now).1.long = decide (0 < part.lapLimit ∧ part.lapLimit * 1000000000 < now - y.lapStartNs))) ∧
    (¬ y.endsLap part c → (∀ d, (y'.scrub part c now).1.linesOn d = y.linesWith c d) ∧ (y'.scrub part c now).1.laps = y.laps ∧
      (y'.scrub part c now).1.long = y.long) := by
  obtain ⟨hlines, hlaps, hlong, hstart⟩ : y'.lapLines = y.lapLines ∧ y'.laps = y.laps ∧ y'.long = y.long ∧ y'.lapStartNs = y.lapStartNs := by
    simpa only [PartState.lap, Prod.mk.injEq] using hlap
  have hon (d : Nat) : y'.linesOn d = y.linesOn d := by rw [PartState.linesOn, PartState.linesOn, hlines]
  have hwith (d : Nat) : y'.linesWith c d = y.linesWith c d := by rw [PartState.linesWith, PartState.linesWith, hon]
  have hends : y'.endsLap part c ↔ y.endsLap part c := by simp only [PartState.endsLap, hwith]
  obtain ⟨hclaps, hclong, -, hcstart⟩ := y'.counted_fields part c now
  refine ⟨fun h => ?_, fun h => ?_⟩
  · obtain ⟨-, hslaps, hslong, -⟩ := PartState.scrub_of_ends (hends.2 h) now
    refine ⟨fun d => ?_, ?_, fun hpassed => ?_⟩
    · rw [PartState.scrub_linesOn_of_ends (hends.2 h), hwith]
    · rw [hslaps, hclaps, hlaps]
    · have hp : y'.passed part 1 = true := (y'.passed_iff part 1).2 fun d hd => by rw [hon]; exact hpassed d hd
      rw [hslong, hcstart hp, hstart]
  · rw [PartState.scrub_of_not_ends (mt hends.1 h)]
    exact ⟨fun d => by rw [y'.counted_linesOn, hwith], hclaps.trans hlaps, hclong.trans hlong⟩

/-! ### The scrubber's clauses -/

/-- What leaves the bytes and changes memory's state only. -/
theorem onlyIn_of_onMemory {s : State} {f : MemState → MemState} (hf : (f s.memory).mem = s.memory.mem) : s.onlyIn (s.onMemory f) [.memory] :=
  (State.onMemory_within hf (State.within_refl s [.memory]) (List.Subset.refl _)).1

section
variable {s : State} {ctl : Controller} {x : ControllerState} {off p : Nat} {part : Partition}

/-- The state in which a scrub has read its line. -/
def State.scrubRead (s : State) (c off : Nat) (finding : LineFinding) : State := (s.spendScrub c off).scrubLine (tierOf c) off finding

theorem State.scrubRead_keepsScrub (s : State) (c off : Nat) (finding : LineFinding) :
    (s.spendScrub c off).keepsScrub (s.scrubRead c off finding) :=
  State.scrubLine_keepsScrub (State.keepsScrub_refl _) _ _ _

/-- What a scrub leaves, whatever it found. -/
theorem State.scrubRead_leaves (hx : s.memory.controllers[ctl.val]? = some x) (finding : LineFinding) :
    let t := (s.scrubRead ctl.val off finding).scrubbedLine p part ctl.val
    (t.controller ctl.val).permissions = x.permissions - 1 ∧ (t.controller ctl.val).scrubAt = s.nextScrub ctl.val (off + 64) ∧
    (∀ y, s.memory.parts[p]? = some y → ∃ y' : PartState, y'.lap = y.lap ∧ t.memory.parts[p]? = some (y'.scrub part ctl.val s.dial.ns).1) ∧
    t.memory.mem.cells = s.memory.mem.cells := by
  intro t
  have hspent : (s.spendScrub ctl.val off).controller ctl.val =
      { x with permissions := x.permissions - 1, scrubAt := s.nextScrub ctl.val (off + 64) } := by
    apply State.controller_of_getElem
    rw [State.spendScrub_controllers hx]
    exact List.getElem?_set_self (List.getElem?_eq_some_iff.1 hx).1
  have hkeep := s.scrubRead_keepsScrub ctl.val off finding
  have hmem : t.memory = _ := State.scrubbedLine_memory (s.scrubRead ctl.val off finding) p part ctl.val
  have hctl : t.controller ctl.val = (s.scrubRead ctl.val off finding).controller ctl.val := by rw [State.controller, State.controller, hmem]
  refine ⟨?_, ?_, fun y hy => ?_, ?_⟩
  · rw [hctl, hkeep.permissions, hspent]
  · rw [hctl, hkeep.scrubAt, hspent]
  · have hlap := hkeep.lap p
    rw [State.spendScrub_controllers hx, show (MemState.parts _)[p]? = some y from hy] at hlap
    obtain ⟨y', hy', hlap'⟩ := Option.map_eq_some_iff.1 hlap
    refine ⟨y', hlap', ?_⟩
    rw [State.scrubbedLine_parts hy', hkeep.ns]
    rfl
  · rw [hmem]
    refine hkeep.cells.trans ?_
    rw [State.spendScrub_controllers hx]

/-- A clean line changes nothing but the counts. -/
theorem State.scrubRead_clean (h : s.memory.mem.poisoned (memKey (tierOf ctl.val) off) = false) :
    s.scrubRead ctl.val off .clean = s.spendScrub ctl.val off := by
  have h' : (s.spendScrub ctl.val off).memory.mem.poisoned (memKey (tierOf ctl.val) off) = false := h
  rw [State.scrubRead, State.scrubLine_good (by decide) h', State.readLine_clean h']

theorem State.noteFound_of_part (hpart : s.partitionAt (tierOf ctl.val) off = some (p, part)) (f : PartState → PartState) :
    (s.spendScrub ctl.val off).noteFound (tierOf ctl.val) off f = (s.spendScrub ctl.val off).onPart p f := by
  rw [State.noteFound, State.partitionAt_congr (show (s.spendScrub ctl.val off).cfg = s.cfg from rfl), hpart]
  rfl

/-- An uncorrectable line outside a Keep partition is poisoned and logged. -/
theorem State.scrubRead_uncorrectable (hpart : s.partitionAt (tierOf ctl.val) off = some (p, part))
    (hkeep : s.keepLine (tierOf ctl.val) off = false) :
    (s.scrubRead ctl.val off .uncorrectable).memory.mem.poisoned (memKey (tierOf ctl.val) off) = true ∧
    (s.scrubRead ctl.val off .uncorrectable).logs.errorCounts[0xF2]? = (s.logs.errorCounts[0xF2]?).map (satAdd · 1) := by
  rw [State.scrubRead, State.scrubLine_uncorrectable]
  dsimp only
  rw [State.noteFound_of_part hpart, if_neg]
  · exact ⟨Memory.setPoison_poisoned .., State.logDevice_errorCounts_same (by decide) (by decide)⟩
  · rw [State.keepLine_congr (State.onPart_cfg ..)]
    exact Bool.eq_false_iff.1 hkeep

theorem State.scrubRead_poisoned (hpart : s.partitionAt (tierOf ctl.val) off = some (p, part))
    (hpoison : s.memory.mem.poisoned (memKey (tierOf ctl.val) off) = true) {finding : LineFinding} (hf : finding ≠ .uncorrectable) :
    s.scrubRead ctl.val off finding = (s.spendScrub ctl.val off).onPart p fun x => { x with poisonReads := satAdd x.poisonReads 1 } := by
  have hpoison' : (s.spendScrub ctl.val off).memory.mem.poisoned (memKey (tierOf ctl.val) off) = true := hpoison
  rw [State.scrubRead, State.scrubLine_poisoned hf hpoison', State.noteFound_of_part hpart]

theorem State.scrubbedLine_poisonReads {u : State} (p : Nat) (part : Partition) (c : Nat) :
    ((u.scrubbedLine p part c).memory.parts[p]?).map (·.poisonReads) = (u.memory.parts[p]?).map (·.poisonReads) := by
  cases hy : u.memory.parts[p]? with
  | none => rw [State.scrubbedLine_memory, modifyAt, List.getElem?_modify, hy]; rfl
  | some y => rw [State.scrubbedLine_parts hy, Option.map_some, Option.map_some, PartState.scrub_poisonReads]

end

/-- Settles O22: the log and the buckets are updated where the commands name them; a scrub's count of its lap does not depend on what
it found (`keepsScrub`), and each finding leaves its own mark. -/
theorem memoryCare : Obligations.MemoryCare := by
  unfold Obligations.MemoryCare
  refine ⟨fun s hloaded => ⟨fun ctl offset chip kind p part x hctl hpart hown hx => ⟨fun i e hfind he => ?_, fun hfind => ?_⟩,
    fun ctl offset p part y hpart hy => ?_, ?_⟩, fun s hscrub => ⟨?_, fun ctl x off p part hctl hx hup hperm hnext hpart hopen hlap => ?_⟩⟩
  · exact ceLogUpdate_listed hloaded hctl hpart hown hx hfind he
  · exact ceLogUpdate_new hloaded hctl hpart hown hx hfind
  · exact ⟨_, exec_ceLogUpdateDropped_of_part hloaded hpart, State.onPart_memory_of_getElem hy _, onlyIn_of_onMemory rfl⟩
  · refine ⟨_, exec_ceBucketLeak_of_loaded hloaded, fun p y part hy hpart => ?_, rfl, rfl, onlyIn_of_onMemory rfl⟩
    refine ⟨{ y with level := BitVec.ofNat 16 (y.level.toNat - part.ceLeak) }, ?_, ?_, rfl⟩
    · rw [State.onMemory_memory, getElem?_map_zipIdx, hy, Option.map_some, hpart]
      rfl
    · exact Nat.mod_eq_of_lt (Nat.lt_of_le_of_lt (Nat.sub_le ..) y.level.isLt)
  · refine ⟨_, exec_scrubTick_of_scrubbing hscrub, fun c x hc hx => ?_, rfl, rfl, onlyIn_of_onMemory rfl⟩
    rw [State.onMemory_memory, getElem?_map_zipIdx, hx, Option.map_some, if_pos hc]
  · have hexec := exec_scrubRead_of_due hscrub hctl hx hup hperm hnext hpart hopen hlap
    refine ⟨fun finding => ⟨_, hexec finding, ?_⟩, fun hclean => ⟨_, hexec _, ?_⟩, fun hkeep => ⟨_, hexec _, ?_⟩,
      fun hpoison finding hf => ⟨_, hexec _, ?_⟩⟩
    · obtain ⟨hpermissions, hat, hparts, hcells⟩ := State.scrubRead_leaves (off := off) (p := p) (part := part) hx finding
      refine ⟨hpermissions, hat, fun y hy => ?_, hcells⟩
      obtain ⟨y', hlap', hz⟩ := hparts y hy
      exact ⟨_, hz, PartState.scrub_by_lap hlap' part ctl.val s.dial.ns⟩
    · change ((s.scrubRead ctl.val off .clean).scrubbedLine p part ctl.val).memory.controllers[ctl.val]? = _ ∧
        ((s.scrubRead ctl.val off .clean).scrubbedLine p part ctl.val).memory.mem = _ ∧
        s.onlyIn ((s.scrubRead ctl.val off .clean).scrubbedLine p part ctl.val) _
      rw [State.scrubRead_clean hclean, State.scrubbedLine_memory, State.spendScrub_controllers hx]
      refine ⟨List.getElem?_set_self (List.getElem?_eq_some_iff.1 hx).1, rfl, ?_⟩
      exact (State.scrubbedLine_within (State.onController_within (State.within_refl s _) (by decide)) (by decide)).1
    · change ((s.scrubRead ctl.val off .uncorrectable).scrubbedLine p part ctl.val).memory.mem.poisoned _ = true ∧
        ((s.scrubRead ctl.val off .uncorrectable).scrubbedLine p part ctl.val).logs.errorCounts[0xF2]? = _
      obtain ⟨hpoison, hcount⟩ := State.scrubRead_uncorrectable hpart hkeep
      exact ⟨by rw [State.scrubbedLine_memory]; exact hpoison, by rw [State.scrubbedLine_errorCounts_ne _ _ _ _ (by decide), hcount]⟩
    · change (((s.scrubRead ctl.val off finding).scrubbedLine p part ctl.val).memory.parts[p]?).map (·.poisonReads) = _
      rw [State.scrubbedLine_poisonReads, State.scrubRead_poisoned hpart hpoison hf, State.onPart, State.onMemory_memory, modifyAt,
        List.getElem?_modify]
      cases hy : s.memory.parts[p]? <;> simp [State.spendScrub, hy]

end Sys2Proof.Machine
end


section
/-! PROOFS. Arbiters and regulators (R29–R31, R42, R43, R45, R46, R387). -/

namespace Sys2Proof.Machine

set_option Elab.async false

/-! ### A controller's regulators -/

theorem find?_insertBy_of_pos {α : Type} {key : α → Nat} {p : α → Bool} {a : α} {l : List α} (ha : p a = true) (hl : ∀ b ∈ l, p b = false) :
    (insertBy key a l).find? p = some a := by
  induction l with
  | nil => exact List.find?_cons_of_pos ha
  | cons b l ih =>
    rw [insertBy]
    split
    · exact List.find?_cons_of_pos ha
    · rw [List.find?_cons_of_neg (by rw [hl b List.mem_cons_self]; exact Bool.false_ne_true)]
      exact ih fun c hc => hl c (List.mem_cons_of_mem _ hc)

theorem find?_insertBy_of_neg {α : Type} {key : α → Nat} {p : α → Bool} {a : α} (ha : ¬ p a = true) (l : List α) :
    (insertBy key a l).find? p = l.find? p := by
  induction l with
  | nil => exact List.find?_cons_of_neg ha
  | cons b l ih =>
    rw [insertBy]
    split
    · exact List.find?_cons_of_neg ha
    · rw [List.find?_cons, List.find?_cons, ih]

theorem ControllerState.regulator_part (x : ControllerState) (k : Nat) : (x.regulator k).part = k := by
  rw [ControllerState.regulator]
  cases h : x.regulators.find? fun r => r.part == k with
  | none => rfl
  | some r =>
    have hr := List.find?_some h
    exact beq_iff_eq.1 hr

theorem ControllerState.setRegulator_regulator (x : ControllerState) (r : Regulator) (k : Nat) :
    (x.setRegulator r).regulator k = if r.part = k then r else x.regulator k := by
  rw [ControllerState.regulator, ControllerState.setRegulator]
  by_cases h : r.part = k
  · have hold : ∀ b ∈ x.regulators.filter (fun x => x.part != r.part), (b.part == k) = false := fun b hb => by
      have hne := (List.mem_filter.1 hb).2
      rw [bne_iff_ne] at hne
      exact beq_eq_false_iff_ne.2 (h ▸ hne)
    rw [if_pos h, find?_insertBy_of_pos (p := fun r : Regulator => r.part == k) (beq_iff_eq.2 h) hold, Option.getD_some]
  · rw [if_neg h, find?_insertBy_of_neg (by rwa [beq_iff_eq]), List.find?_filter, ControllerState.regulator]
    congr 2
    funext r'
    by_cases hr' : r'.part = k
    · simp [hr', Ne.symm h]
    · simp [hr']

/-- A Bulk request waits at its regulator. -/
def State.noteWait (s : State) (c : Nat) (x : ControllerState) (y : FabricRequest) : ControllerState :=
  if y.cls = .bulk then x.setRegulator { x.regulator (s.regulatorKey c y) with waited := true } else x

theorem State.noteWaits_eq (s : State) (c : Nat) (requests : List FabricRequest) :
    s.noteWaits c requests = s.onController c fun x => requests.foldl (s.noteWait c) x := rfl

theorem State.noteWait_regulator (s : State) (c : Nat) (x : ControllerState) (y : FabricRequest) (k : Nat) :
    ((s.noteWait c x y).regulator k).count = (x.regulator k).count ∧
    ((s.noteWait c x y).regulator k).waited = ((x.regulator k).waited || (decide (y.cls = .bulk) && decide (s.regulatorKey c y = k))) := by
  rw [State.noteWait]
  by_cases hb : y.cls = .bulk
  · rw [if_pos hb, ControllerState.setRegulator_regulator]
    by_cases hk : s.regulatorKey c y = k
    · subst hk
      rw [if_pos (x.regulator_part _)]
      simp [hb]
    · rw [if_neg (by rw [x.regulator_part]; exact hk)]
      simp [hk]
  · rw [if_neg hb]
    simp [hb]

theorem State.noteWaits_count (s : State) (c : Nat) (requests : List FabricRequest) (x : ControllerState) (k : Nat) :
    ((requests.foldl (s.noteWait c) x).regulator k).count = (x.regulator k).count := by
  induction requests generalizing x with
  | nil => rfl
  | cons y l ih => rw [List.foldl_cons, ih, (s.noteWait_regulator c x y k).1]

theorem State.noteWaits_waited (s : State) (c : Nat) {requests : List FabricRequest} {q : FabricRequest} (hbulk : q.cls = .bulk) (x : ControllerState)
    (h : q ∈ requests ∨ (x.regulator (s.regulatorKey c q)).waited = true) :
    ((requests.foldl (s.noteWait c) x).regulator (s.regulatorKey c q)).waited = true := by
  induction requests generalizing x with
  | nil => exact h.resolve_left List.not_mem_nil
  | cons y l ih =>
    refine ih _ ?_
    rw [(s.noteWait_regulator c x y _).2]
    rcases h with h | h
    · rcases List.mem_cons.1 h with rfl | h
      · exact .inr (by simp [hbulk])
      · exact .inl h
    · exact .inr (by simp [h])

theorem State.noteWaits_memory (s : State) (c : Nat) (requests : List FabricRequest) :
    (s.noteWaits c requests).memory = { s.memory with controllers := (s.noteWaits c requests).memory.controllers } := rfl

/-! ### A free port's decision -/

section
variable {s : State} {arb : Arbiter} {requests : List FabricRequest}

theorem State.arbitrate_of_none (h : s.winner arb requests = none) :
    s.arbitrate arb requests = (controllerArb arb).elim s fun c => s.noteWaits c requests := by
  rw [State.arbitrate, h]

/-- The state in which a request has the port. -/
def State.granted (s : State) (arb : Arbiter) (q : FabricRequest) (g bytes : Nat) : State :=
  (s.rotate (arbiterKey arb) g q.requester).onMemory fun m => { m with
    grants := insertKey (arbiterKey arb) ⟨q, bytes, q.cls != .bulk || g == 0, (controllerArb arb).isSome⟩ m.grants }

theorem State.arbitrate_of_some {q : FabricRequest} {g : Nat} (h : s.winner arb requests = some (q, g)) :
    s.arbitrate arb requests =
      let bytes := min (grantLimit arb q) (q.bytes - s.carriedBy (arbiterKey arb) q.requester)
      (controllerArb arb).elim (s.granted arb q g bytes) fun c => (s.granted arb q g bytes).regulate c requests q bytes := by
  rw [State.arbitrate, h]
  rfl

/-- What waiting at a controller, where the arbiter is one, leaves of memory. -/
theorem State.waits_memory (s : State) (arb : Arbiter) (requests : List FabricRequest) :
    let t := (controllerArb arb).elim s fun c => s.noteWaits c requests
    t.memory.grants = s.memory.grants ∧ t.memory.ranks = s.memory.ranks ∧ t.memory.carried = s.memory.carried ∧
    t.memory.mem = s.memory.mem ∧ (controllerArb arb = none → t = s) ∧ s.onlyIn t [.memory] := by
  cases h : controllerArb arb with
  | none => exact ⟨rfl, rfl, rfl, rfl, fun _ => rfl, (State.within_refl s _).1⟩
  | some c => exact ⟨rfl, rfl, rfl, rfl, fun h => absurd h (Option.some_ne_none c),
      onlyIn_of_onMemory (f := fun m => { m with controllers := (s.noteWaits c requests).memory.controllers }) rfl⟩

/-- Regulating a grant changes controllers and partitions only. -/
theorem State.regulate_memory (s : State) (c : Nat) (requests : List FabricRequest) (q : FabricRequest) (bytes : Nat) :
    ∃ f : MemState → MemState, s.regulate c requests q bytes = s.onMemory f ∧ (f s.memory).grants = s.memory.grants ∧
      (f s.memory).ranks = s.memory.ranks ∧ (f s.memory).carried = s.memory.carried ∧ (f s.memory).mem = s.memory.mem := by
  refine ⟨fun _ => (s.regulate c requests q bytes).memory, ?_⟩
  rw [State.regulate]
  dsimp only
  split
  · exact ⟨rfl, rfl, rfl, rfl, rfl⟩
  · cases s.partitionOf q <;> exact ⟨rfl, rfl, rfl, rfl, rfl⟩

theorem State.regulate_count {c : Nat} {x : ControllerState} {q : FabricRequest} (hbulk : q.cls = .bulk)
    (hx : s.memory.controllers[c]? = some x) (bytes : Nat) :
    (((s.regulate c requests q bytes).controller c).regulator (s.regulatorKey c q)).count = (x.regulator (s.regulatorKey c q)).count + bytes := by
  have hlt := (List.getElem?_eq_some_iff.1 hx).1
  have hcount (v : ControllerState) : (((let r := v.regulator (s.regulatorKey c q)
      v.setRegulator { r with count := r.count + bytes, capped := r.capped || decide (s.ceilingBytes c (s.regulatorKey c q % 128) ≤ r.count + bytes) })
      : ControllerState).regulator (s.regulatorKey c q)).count = (v.regulator (s.regulatorKey c q)).count + bytes := by
    dsimp only
    rw [ControllerState.setRegulator_regulator, if_pos (v.regulator_part _)]
  have hpart (u : State) : ((s.partitionOf q).elim u fun p => u.onPart p fun x => { x with bulkBytes := addN x.bulkBytes bytes }).controller c =
      u.controller c := by
    cases s.partitionOf q <;> rfl
  rw [State.regulate]
  dsimp only
  rw [if_neg (fun h => h hbulk), hpart, State.onController_controller, if_pos ⟨rfl, by simpa [State.noteWaits] using hlt⟩, hcount,
    State.noteWaits_eq, State.onController_controller, if_pos ⟨rfl, hlt⟩, State.noteWaits_count, State.controller_of_getElem hx]

end

theorem lookupNat_insertKey_same {α : Type} (k : Nat) (a : α) (l : List (Nat × α)) : lookupNat k (insertKey k a l) = some a := by
  rw [lookupNat_insertKey, if_pos rfl]

/-- What a decision for a request leaves. -/
theorem State.arbitrate_grants {s : State} {arb : Arbiter} {requests : List FabricRequest} {q : FabricRequest} {g : Nat}
    (h : s.winner arb requests = some (q, g)) :
    let k := arbiterKey arb
    let bytes := min (grantLimit arb q) (q.bytes - s.carriedBy k q.requester)
    let t := s.arbitrate arb requests
    (∃ l, q.requester ∉ l ∧ lookupNat (k * 4 + g) t.memory.ranks = some (l ++ [q.requester])) ∧
    (lookupNat k t.memory.grants).map (fun h => (h.q, h.bytes)) = some (q, bytes) ∧
    t.memory.carried = s.memory.carried ∧ t.memory.mem = s.memory.mem ∧ s.onlyIn t [.memory] := by
  intro k bytes t
  obtain ⟨f, ht, hgrants, hranks, hcarried, hmem⟩ : ∃ f : MemState → MemState, t = (s.granted arb q g bytes).onMemory f ∧
      (f (s.granted arb q g bytes).memory).grants = (s.granted arb q g bytes).memory.grants ∧
      (f (s.granted arb q g bytes).memory).ranks = (s.granted arb q g bytes).memory.ranks ∧
      (f (s.granted arb q g bytes).memory).carried = (s.granted arb q g bytes).memory.carried ∧
      (f (s.granted arb q g bytes).memory).mem = (s.granted arb q g bytes).memory.mem := by
    have harb : t = (controllerArb arb).elim (s.granted arb q g bytes) fun c => (s.granted arb q g bytes).regulate c requests q bytes :=
      State.arbitrate_of_some h
    rw [harb]
    cases controllerArb arb with
    | none => exact ⟨id, rfl, rfl, rfl, rfl, rfl⟩
    | some c => exact State.regulate_memory ..
  rw [ht]
  refine ⟨⟨((lookupNat (k * 4 + g) s.memory.ranks).getD []).filter (· != q.requester), by simp, ?_⟩, ?_, hcarried, hmem, ?_⟩
  · exact (congrArg (lookupNat (k * 4 + g)) hranks).trans (lookupNat_insertKey_same ..)
  · refine (congrArg (fun l => (lookupNat k l).map fun h : PortGrant => (h.q, h.bytes)) hgrants).trans ?_
    exact congrArg (Option.map fun h : PortGrant => (h.q, h.bytes)) (lookupNat_insertKey_same ..)
  · exact (State.onMemory_within hmem (State.onMemory_within rfl (State.onMemory_within rfl (State.within_refl s [.memory])
      (List.Subset.refl _)) (List.Subset.refl _)) (List.Subset.refl _)).1

/-! ### A port in use (R31, R42, R43) -/

section
variable {s : State} {arb : Arbiter} {h : PortGrant}

theorem State.winner_nil (s : State) (arb : Arbiter) : s.winner arb [] = none := rfl

theorem find?_keyed_other (k r : Nat) (l : List (Nat × Nat × Nat)) :
    (l.filter fun x => !(x.1 == k && x.2.1 == r)).find? (fun x => x.1 == k && x.2.1 == r) = none := by
  rw [List.find?_eq_none]
  intro x hx hkey
  have := (List.mem_filter.1 hx).2
  rw [hkey] at this
  exact Bool.noConfusion this

theorem State.fabricWords_kept (s : State) (arb : Arbiter) (h : PortGrant) (fault : FabricFault) :
    (s.fabricWords arb h fault).memory.carried = s.memory.carried ∧ (s.fabricWords arb h fault).memory.mem.cells = s.memory.mem.cells := by
  cases arb with
  | fabric r =>
    cases fault with
    | clean => exact ⟨rfl, rfl⟩
    | single => exact ⟨rfl, rfl⟩
    | double =>
      rw [State.fabricWords]
      split
      · exact ⟨rfl, Memory.setPoison_cells ..⟩
      · cases h.q.ctx <;> exact ⟨rfl, rfl⟩
  | rill b => cases fault <;> exact ⟨rfl, rfl⟩
  | crossbar => cases fault <;> exact ⟨rfl, rfl⟩
  | controller c => cases fault <;> exact ⟨rfl, rfl⟩

/-- What the end of a transfer leaves of its port and of what it carried. -/
theorem State.endGrant_leaves (s : State) (arb : Arbiter) (h : PortGrant) (fault : FabricFault) :
    let k := arbiterKey arb
    let t := s.endGrant arb h fault
    lookupNat k t.memory.grants = none ∧
    t.carriedBy k h.q.requester =
      (if s.carriedBy k h.q.requester + h.bytes < h.q.bytes then s.carriedBy k h.q.requester + h.bytes else 0) ∧
    t.memory.mem = (s.fabricWords arb h fault).memory.mem ∧ t.memory.fabricCorrected = (s.fabricWords arb h fault).memory.fabricCorrected ∧
    t.gather = (s.fabricWords arb h fault).gather := by
  intro k t
  refine ⟨?_, ?_, rfl, rfl, rfl⟩
  · exact lookupNat_filter_ne.trans (if_pos rfl)
  · have hcarried : t.memory.carried = if s.carriedBy k h.q.requester + h.bytes < h.q.bytes then
        (s.memory.carried.filter fun x => !(x.1 == k && x.2.1 == h.q.requester)) ++
          [(k, h.q.requester, s.carriedBy k h.q.requester + h.bytes)]
        else s.memory.carried.filter fun x => !(x.1 == k && x.2.1 == h.q.requester) := rfl
    rw [State.carriedBy, hcarried]
    split
    · rw [List.find?_append, find?_keyed_other]
      simp
    · rw [find?_keyed_other]
      rfl

theorem State.revokeGrant_of_other (harb : controllerArb arb = none) : s.revokeGrant arb h =
    s.onMemory fun m => { m with grants := m.grants.filter fun x => x.1 != arbiterKey arb } := by
  have hnone : (if h.counted then controllerArb arb else none) = none := by rw [harb, ite_self]
  rw [State.revokeGrant]
  dsimp only
  rw [hnone]

/-- A Steady request has the port of a Bulk holder that is not owed. -/
theorem State.winner_of_steady {u : State} {q x : FabricRequest} (harb : controllerArb arb = none) (hq : q.cls = .steady)
    (hx : x.cls = .bulk) (howed : u.isOwed x = false) (hrank : u.rankOf (arbiterKey arb) 0 q.requester < 2 ^ 32) :
    u.winner arb [q, x] = some (q, 0) := by
  have hgq : u.gradeOf arb [q, x] q = some 0 := by rw [State.gradeOf, harb, hq]; rfl
  have hgx : u.gradeOf arb [q, x] x = some 1 := by
    rw [State.gradeOf, harb, hx]
    dsimp only
    rw [howed]
    rfl
  have hgraded : ([q, x].filterMap fun y => (u.gradeOf arb [q, x] y).map fun g => (y, g)) = [(q, 0), (x, 1)] := by
    rw [List.filterMap_cons, List.filterMap_cons, hgq, hgx]
    rfl
  rw [State.winner, hgraded, leastBy, leastBy, leastBy]
  exact if_neg (by dsimp only; omega)

end

/-! ### The commands -/

section
variable {s : State} {arb : Arbiter} {beats : Nat} {fault : FabricFault} {requests : List FabricRequest}
variable (hloaded : s.start.loaded = true)
include hloaded

theorem exec_fabricGrant_of_free (hfree : lookupNat (arbiterKey arb) s.memory.grants = none) :
    exec (.fabricGrant arb beats fault requests) s = .next (s.arbitrate arb requests) := by
  change execFabricGrant arb beats fault requests s = _
  rw [execFabricGrant, hfree]
  exact congrArg Host.Outcome.next (if_neg (by rw [hloaded]; decide))

theorem exec_fabricGrant_of_held {h : PortGrant} (hheld : lookupNat (arbiterKey arb) s.memory.grants = some h) :
    exec (.fabricGrant arb beats fault requests) s = .next (
      if ceilDiv h.bytes (beatBytes arb) ≤ beats then (s.endGrant arb h fault).arbitrate arb requests
      else if h.revoked requests then
        (s.revokeGrant arb h).arbitrate arb (if requests.contains h.q then requests else requests ++ [h.q])
      else (controllerArb arb).elim s fun c => s.noteWaits c (requests.filter (· != h.q))) := by
  change execFabricGrant arb beats fault requests s = _
  rw [execFabricGrant, hheld]
  exact congrArg Host.Outcome.next (if_neg (by rw [hloaded]; decide))

theorem exec_regulatorWindow_of_loaded : ∃ f : MemState → MemState, exec .regulatorWindow s = .next (s.onMemory f) ∧
    (f s.memory).controllers = (s.memory.controllers.zipIdx.map fun x => { x.1 with regulators := x.1.regulators.map fun r =>
      { r with count := 0, owed := r.waited && decide (r.count < s.shareBytes x.2 (r.part % 128)), waited := false, capped := false } }) ∧
    (f s.memory).mem = s.memory.mem ∧ (f s.memory).ranks = s.memory.ranks :=
  ⟨_, congrArg Host.Outcome.next (if_neg (by rw [hloaded]; decide)), rfl, rfl, rfl⟩

end

/-! ### The clauses -/

section
variable {s : State} {arb : Arbiter} {beats : Nat} {fault : FabricFault} {requests : List FabricRequest}

theorem fabricGrant_of_no_winner (hloaded : s.start.loaded = true) (hfree : lookupNat (arbiterKey arb) s.memory.grants = none)
    (hwin : s.winner arb requests = none) : runs (.fabricGrant arb beats fault requests) s fun t =>
      (controllerArb arb = none → t = s) ∧ t.memory.grants = s.memory.grants ∧ t.memory.ranks = s.memory.ranks ∧
      t.memory.mem = s.memory.mem ∧ s.onlyIn t [.memory] ∧
      (∀ (c : Controller) (x : ControllerState) (q : FabricRequest), arb = .controller c → s.memory.controllers[c.val]? = some x →
        q ∈ requests → q.cls = .bulk → ((t.controller c.val).regulator (s.regulatorKey c.val q)).waited = true) := by
  refine ⟨_, exec_fabricGrant_of_free hloaded hfree, ?_⟩
  rw [State.arbitrate_of_none hwin]
  obtain ⟨hgrants, hranks, -, hmem, hsame, honly⟩ := s.waits_memory arb requests
  refine ⟨hsame, hgrants, hranks, hmem, honly, fun c x q harb hx hq hbulk => ?_⟩
  subst harb
  change (((s.noteWaits c.val requests).controller c.val).regulator _).waited = true
  rw [State.noteWaits_eq, State.onController_controller, if_pos ⟨rfl, (List.getElem?_eq_some_iff.1 hx).1⟩]
  exact State.noteWaits_waited s c.val hbulk _ (.inl hq)

theorem State.arbitrate_count {c : Controller} {x : ControllerState} {q : FabricRequest} {g : Nat}
    (h : s.winner (.controller c) requests = some (q, g)) (hbulk : q.cls = .bulk) (hx : s.memory.controllers[c.val]? = some x) :
    (((s.arbitrate (.controller c) requests).controller c.val).regulator (s.regulatorKey c.val q)).count =
      (x.regulator (s.regulatorKey c.val q)).count +
        min (grantLimit (.controller c) q) (q.bytes - s.carriedBy (arbiterKey (.controller c)) q.requester) := by
  rw [State.arbitrate_of_some h]
  exact State.regulate_count (s := s.granted (.controller c) q g _) hbulk hx _

theorem fabricGrant_of_end {h : PortGrant} (hloaded : s.start.loaded = true) (hheld : lookupNat (arbiterKey arb) s.memory.grants = some h)
    (hend : ceilDiv h.bytes (beatBytes arb) ≤ beats) : runs (.fabricGrant arb beats fault []) s fun t =>
      lookupNat (arbiterKey arb) t.memory.grants = none ∧
      t.carriedBy (arbiterKey arb) h.q.requester = (if s.carriedBy (arbiterKey arb) h.q.requester + h.bytes < h.q.bytes then
        s.carriedBy (arbiterKey arb) h.q.requester + h.bytes else 0) ∧
      t.memory.mem = (s.fabricWords arb h fault).memory.mem ∧ t.memory.fabricCorrected = (s.fabricWords arb h fault).memory.fabricCorrected ∧
      t.gather = (s.fabricWords arb h fault).gather ∧ s.onlyIn t [.memory, .gather, .bytes] := by
  have hexec := exec_fabricGrant_of_held (beats := beats) (fault := fault) (requests := []) hloaded hheld
  rw [if_pos hend, State.arbitrate_of_none (State.winner_nil ..)] at hexec
  refine ⟨_, hexec, ?_⟩
  obtain ⟨hgrants, -, hcarried, hmem, -, -⟩ := (s.endGrant arb h fault).waits_memory arb []
  obtain ⟨hgrants', hcarried', hmem', hfabric, hgather⟩ := s.endGrant_leaves arb h fault
  refine ⟨by rw [hgrants, hgrants'], ?_, hmem.trans hmem', ?_, ?_, onlyIn_of_exec hexec⟩
  · rw [← hcarried', State.carriedBy, State.carriedBy, hcarried]
  · rw [← hfabric]
    cases controllerArb arb <;> rfl
  · rw [← hgather]
    cases controllerArb arb <;> rfl

end

/-- Settles O21: a decision of a free port rotates the ranks and grants; the end, the holding and the revoking of a grant are cases of
its beats and class. -/
theorem arbitration : Obligations.Arbitration := by
  unfold Obligations.Arbitration
  refine fun s hloaded => ⟨fun arb beats fault requests => ?_, ?_⟩
  · intro k limit beat
    have hlimit (q : FabricRequest) : limit q = grantLimit arb q := rfl
    have hbeat : beat = beatBytes arb := rfl
    refine ⟨fun hfree => ⟨fun hwin => fabricGrant_of_no_winner hloaded hfree hwin, fun q g hwin => ?_⟩, fun h hheld => ⟨fun hend => ?_,
      fun hbefore hstay => ?_, fun hbefore hbulk hexempt harb q hq hother howed hrank => ?_⟩⟩
    · obtain ⟨hranks, hgrants, -, hmem, honly⟩ := State.arbitrate_grants hwin
      refine ⟨_, exec_fabricGrant_of_free hloaded hfree, hranks, hgrants, fun c x harb hbulk hx => ?_, hmem, honly⟩
      subst harb
      exact State.arbitrate_count hwin hbulk hx
    · obtain ⟨t, ht, hgrants, hcarried, hmem, hfabric, hgather, honly⟩ := fabricGrant_of_end (fault := fault) hloaded hheld hend
      refine ⟨t, ht, hgrants, hcarried, ?_, ?_, ?_, ?_, honly⟩
      · rw [hmem, (s.fabricWords_kept arb h fault).2]
      · rintro r rfl rfl
        rw [hfabric]
        simp [State.fabricWords, modifyAt]
      · rintro r rfl rfl hwrite
        rw [hmem, State.fabricWords, if_pos hwrite]
        exact Memory.setPoison_poisoned ..
      · rintro r c rfl rfl hread hctx
        have hwords : s.fabricWords (.fabric r) h .double = s.onGather fun g =>
            { g with badLines := g.badLines ++ [(c, lineKey (memKey (lineTier h.q) (lineOff h.q)))] } := by
          rw [State.fabricWords, if_neg (by rw [hread]; exact Bool.false_ne_true), hctx]
          rfl
        rw [State.lineBad, hgather, hwords]
        simp
    · have hexec := exec_fabricGrant_of_held (beats := beats) (fault := fault) (requests := requests) hloaded hheld
      have hno : ¬ h.revoked requests = true := by
        rw [PortGrant.revoked]
        rcases hstay with hcls | hexempt | hany
        · simp [hcls]
        · simp [hexempt]
        · simp [hany]
      rw [if_neg (by rw [← hbeat]; omega), if_neg hno] at hexec
      obtain ⟨hgrants, hranks, hcarried, hmem, hsame, honly⟩ := s.waits_memory arb (requests.filter (· != h.q))
      exact ⟨_, hexec, hgrants, hranks, hcarried, hmem, hsame, honly⟩
    · have hexec := exec_fabricGrant_of_held (beats := beats) (fault := fault) (requests := [q]) hloaded hheld
      have hyes : h.revoked [q] = true := by
        rw [PortGrant.revoked, hbulk, hexempt, List.any_cons, hq]
        rfl
      have hnew : ¬ [q].contains h.q = true := by
        rw [List.contains_iff_mem, List.mem_singleton]
        intro heq
        exact hother (by rw [heq])
      rw [if_neg (by rw [← hbeat]; omega), if_pos hyes, if_neg hnew, State.revokeGrant_of_other harb] at hexec
      obtain ⟨-, hgrants, hcarried, hmem, honly⟩ := State.arbitrate_grants (requests := [q, h.q]) (State.winner_of_steady (arb := arb)
        (u := s.onMemory fun m => { m with grants := m.grants.filter fun x => x.1 != arbiterKey arb }) harb hq hbulk howed hrank)
      refine ⟨_, hexec, ?_, hcarried, hmem, fun p hp => ?_⟩
      have := congrArg (Option.map Prod.fst) hgrants
      · rwa [Option.map_map] at this
      · exact p.same_trans (onlyIn_of_onMemory (f := fun m => { m with grants := m.grants.filter fun x => x.1 != arbiterKey arb }) rfl p hp) (honly p hp)
  · obtain ⟨f, hexec, hcontrollers, hmem, hranks⟩ := exec_regulatorWindow_of_loaded hloaded
    refine ⟨_, hexec, fun c x hx => ?_, hmem, hranks, onlyIn_of_onMemory hmem⟩
    rw [State.onMemory_memory, hcontrollers, getElem?_map_zipIdx, hx, Option.map_some]

end Sys2Proof.Machine
end


section
/-! PROOFS. The dial (R47, R48, R51, R71, R147, R148): what advancing and crossing a boundary do to its clock and to the slot's run. -/

namespace Sys2Proof.Machine

set_option Elab.async false

/-! ### What the work of a step leaves of the dial

`DialState.core` is the dial without its reports, requests, instances and halts: the work of a step keeps it. `DialState.clock` is the dial
without what its own beats change as well: arriving at a position keeps that. -/

def DialState.core (d : DialState) : DialState :=
  { d with detBroken := false, haltCause := 0, instances := [], waiting := [], held := [], reportMin := none, reportEarly := none, ownSlack := none }

def DialState.clock (d : DialState) : DialState :=
  { d.core with grants := 0, grantBeats := [], missed := 0, heard := false, calm := 0, settledFrom := 0, nextPeriod := none, syncOut := false }

/-- The dial's core stays, and a halt that is due stays due. -/
structure State.keepsDial (s t : State) : Prop where
  core : t.dial.core = s.dial.core
  halt : s.dial.haltCause ≠ 0 → t.dial.haltCause = s.dial.haltCause

theorem State.keepsDial_refl (s : State) : s.keepsDial s := ⟨rfl, fun _ => rfl⟩

section
variable {s0 s t : State}

theorem State.keepsDial.congr (h : s0.keepsDial s) (hd : t.dial = s.dial) : s0.keepsDial t := by
  obtain ⟨hcore, hhalt⟩ := h
  exact ⟨hd ▸ hcore, hd ▸ hhalt⟩

theorem State.keepsDial.trans (h : s0.keepsDial s) (h' : s.keepsDial t) : s0.keepsDial t :=
  ⟨h'.core.trans h.core, fun hne => (h'.halt (by rwa [h.halt hne])).trans (h.halt hne)⟩

theorem State.keepsDial.clock (h : s0.keepsDial s) : s.dial.clock = s0.dial.clock := by
  have hclock (d : DialState) : d.clock = { d.core with
    grants := 0, grantBeats := [], missed := 0, heard := false, calm := 0, settledFrom := 0, nextPeriod := none, syncOut := false } := rfl
  rw [hclock, hclock, h.core]

theorem State.keepsDial_ite {c : Prop} [Decidable c] {a b : State} (ha : s0.keepsDial a) (hb : s0.keepsDial b) :
    s0.keepsDial (if c then a else b) := by
  split <;> assumption

theorem State.keepsDial_fold {α : Type} {f : State → α → State} {l : List α} (hf : ∀ u x, s0.keepsDial u → s0.keepsDial (f u x))
    (h : s0.keepsDial s) : s0.keepsDial (l.foldl f s) := by
  induction l generalizing s with
  | nil => exact h
  | cons x l ih => exact ih (hf s x h)

variable (h : s0.keepsDial s)
include h

/-- What is within parts other than the dial keeps it. -/
theorem State.keepsDial.within {L : List Part} (hw : s.within L t) (hL : .dial ∉ L := by decide) : s0.keepsDial t :=
  h.congr (hw.dial hL)

theorem State.onDial_keepsDial {f : DialState → DialState} (hcore : ∀ d, (f d).core = d.core := by exact fun _ => rfl)
    (hhalt : ∀ d, (f d).haltCause = d.haltCause := by exact fun _ => rfl) : s0.keepsDial (s.onDial f) :=
  ⟨(hcore _).trans h.core, fun hne => (hhalt _).trans (h.halt hne)⟩

theorem State.onLogs_keepsDial {f : LogState → LogState} : s0.keepsDial (s.onLogs f) := h.congr rfl
theorem State.onTrain_keepsDial {f : TrainState → TrainState} : s0.keepsDial (s.onTrain f) := h.congr rfl
theorem State.onMemory_keepsDial {f : MemState → MemState} : s0.keepsDial (s.onMemory f) := h.congr rfl
theorem State.onCascade_keepsDial {f : CascadeState → CascadeState} : s0.keepsDial (s.onCascade f) := h.congr rfl
theorem State.onTables_keepsDial {f : TablesState → TablesState} : s0.keepsDial (s.onTables f) := h.congr rfl

theorem State.elim_keepsDial {α : Type} {o : Option α} {f : α → State} (hf : ∀ a, s0.keepsDial (f a)) : s0.keepsDial (o.elim s f) := by
  cases o with
  | none => exact h
  | some a => exact hf a

theorem State.logDial_keepsDial {code entry type policy : Nat} {n : Named} {dropped : Nat} :
    s0.keepsDial (s.logDial code entry type policy n dropped) :=
  h.within (State.logDial_within (State.within_refl s [.logs]) (List.Subset.refl _))

theorem State.logDevice_keepsDial {code : Nat} {who : Named} {dropped detail : Nat} : s0.keepsDial (s.logDevice code who dropped detail) :=
  h.congr (s.logDevice_dial ..)

theorem State.lapse_keepsDial : s0.keepsDial s.lapse := by
  have hbroken : s0.keepsDial (s.onDial fun d => { d with detBroken := true }) := State.onDial_keepsDial h
  exact State.keepsDial_ite (State.logDial_keepsDial hbroken) h

theorem State.haltAtBoundary_keepsDial {cause : Nat} : s0.keepsDial (s.haltAtBoundary cause) := by
  rw [State.haltAtBoundary]
  split
  · next hzero => exact ⟨h.core, fun hne => absurd ((h.halt hne).symm.trans hzero) hne⟩
  · exact h

theorem State.dropMb_keepsDial {mb step : Nat} : s0.keepsDial (s.dropMb mb step) := by
  rw [State.dropMb]
  split
  · exact h
  · next m _ =>
    refine State.keepsDial_ite h (State.lapse_keepsDial (h.congr ?_))
    exact (State.freeDropped_within (State.within_refl _ [.mbs]) (List.Subset.refl _)).dial (by decide)

theorem State.dropCarried_keepsDial : s0.keepsDial s.dropCarried := by
  rw [State.dropCarried]
  exact State.keepsDial_ite (h.congr rfl) (State.lapse_keepsDial (h.congr rfl))

theorem State.noteCompletions_keepsDial : s0.keepsDial s.noteCompletions := by
  rw [State.noteCompletions]
  exact State.onDial_keepsDial h

theorem State.takeRequest_keepsDial {entry step : Nat} : s0.keepsDial (s.takeRequest entry step) := by
  rw [State.takeRequest]
  split
  · exact h
  · exact State.keepsDial_ite h (State.keepsDial_ite (State.logDial_keepsDial (State.onLogs_keepsDial h)) (State.onDial_keepsDial h))

theorem State.askRoot_keepsDial {entry step : Nat} : s0.keepsDial (s.askRoot entry step) := by
  rw [State.askRoot]
  exact State.keepsDial_ite (State.takeRequest_keepsDial h) (State.onDial_keepsDial h)

theorem State.sendUp_keepsDial {f : Flit} : s0.keepsDial (s.sendUp f) :=
  h.within (State.sendUp_within (State.within_refl s [.links]) (List.Subset.refl _))

theorem State.drainMissed_keepsDial {e : DialEntry} : s0.keepsDial (s.drainMissed e) :=
  h.within (State.drainMissed_within (State.within_refl s [.logs, .resil]) (List.Subset.refl _))

theorem State.withdraw_keepsDial {e : Nat} : s0.keepsDial (s.withdraw e) :=
  h.within (State.withdraw_within (State.within_refl s [.cascade, .links]) (List.Subset.refl _))

theorem State.dropEntry_keepsDial {i : Nat} {e : DialEntry} {step : Nat} : s0.keepsDial (s.dropEntry i e step).1 := by
  have hlate : s0.keepsDial ((s.lateMbs i step).foldl (fun s m => s.dropMb m step) s) :=
    State.keepsDial_fold (fun u m hu => State.dropMb_keepsDial hu) h
  rw [State.dropEntry]
  dsimp only
  split
  · refine State.dropCarried_keepsDial (State.keepsDial_ite ?_ ?_)
    · exact State.withdraw_keepsDial (State.onCascade_keepsDial hlate)
    · exact State.onCascade_keepsDial hlate
  · split
    · exact hlate.within (State.abandonDrain_within (State.within_refl _ [.resil]) (List.Subset.refl _))
    · exact hlate.congr rfl

theorem State.deadline_keepsDial {d : DialInstance} {e : DialEntry} {atEnd : Bool} : s0.keepsDial (s.deadline d e atEnd) := by
  have hmark {p : Nat} : s0.keepsDial ((s.onDial fun x => { x with instances := x.instances.map fun y =>
      if y.entry = d.entry ∧ y.step = d.step then { y with faulted := true, stretched := p == 1 } else y }).onLogs fun l =>
      { l with deadlines := satAdd l.deadlines 1 }) := State.onLogs_keepsDial (State.onDial_keepsDial h)
  rw [State.deadline]
  dsimp only
  generalize (if atEnd then finalPolicy e.type (resolvedPolicy s.cfg.sundial e) else resolvedPolicy s.cfg.sundial e) = p
  have hpre := State.keepsDial_ite (c := e.type = 6) (State.drainMissed_keepsDial (hmark (p := p)) (e := e)) (hmark (p := p))
  split
  · exact State.logDial_keepsDial (State.dropEntry_keepsDial hpre)
  · exact State.keepsDial_ite (State.askRoot_keepsDial (State.logDial_keepsDial hpre)) (State.sendUp_keepsDial (State.logDial_keepsDial hpre))
  · exact State.haltAtBoundary_keepsDial (State.logDial_keepsDial hpre)

theorem State.checkCloses_keepsDial {pos : Nat} : s0.keepsDial (s.checkCloses pos) := by
  rw [State.checkCloses]
  refine State.keepsDial_fold (fun u d hu => ?_) h
  split
  · exact State.keepsDial_ite (State.deadline_keepsDial hu) hu
  · exact hu

theorem State.checkAtEnd_keepsDial : s0.keepsDial s.checkAtEnd := by
  rw [State.checkAtEnd]
  refine State.keepsDial_fold (fun u d hu => ?_) h
  split
  · exact State.keepsDial_ite (State.deadline_keepsDial hu) hu
  · exact hu

theorem State.closeWindows_keepsDial {pos : Nat} : s0.keepsDial (s.closeWindows pos) :=
  h.within (State.closeWindows_within (State.within_refl s [.flash, .resil]) (List.Subset.refl _))

theorem State.reclaim_keepsDial : s0.keepsDial s.reclaim := by
  rw [State.reclaim]
  exact State.onTrain_keepsDial (State.keepsDial_fold (fun u m hu =>
    State.onTrain_keepsDial (State.logDevice_keepsDial (State.dropMb_keepsDial hu))) h)

theorem State.leave_keepsDial {pos : Nat} : s0.keepsDial (s.leave pos) := by
  rw [State.leave]
  exact State.keepsDial_ite (State.reclaim_keepsDial (State.closeWindows_keepsDial (State.checkCloses_keepsDial h)))
    (State.closeWindows_keepsDial (State.checkCloses_keepsDial h))

theorem State.stepFault_keepsDial {tier off : Nat} {who : Named} : s0.keepsDial (s.stepFault tier off who) := by
  rw [State.stepFault]
  exact State.haltAtBoundary_keepsDial (State.onMemory_keepsDial (State.logDevice_keepsDial h))

theorem State.readStored_keepsDial {tier off : Nat} {who : Named} : s0.keepsDial (s.readStored tier off who) := by
  have hpart {o : Option (Nat × Partition)} {f : PartState → PartState} : s0.keepsDial (o.elim s fun p => s.onPart p.1 f) :=
    State.elim_keepsDial h fun _ => State.onMemory_keepsDial h
  rw [State.readStored]
  exact State.keepsDial_ite (State.keepsDial_ite (State.stepFault_keepsDial hpart) hpart)
    (State.keepsDial_ite (State.logDevice_keepsDial hpart) h)

theorem State.noteReads_keepsDial {k n : Nat} {who : Named} : s0.keepsDial (s.noteReads k n who) :=
  State.keepsDial_fold (fun _ _ hu => State.readStored_keepsDial hu) h

theorem State.openReshard_keepsDial : s0.keepsDial s.openReshard := by
  rw [State.openReshard]
  exact State.keepsDial_ite h (State.onTables_keepsDial (State.elim_keepsDial h fun _ => State.noteReads_keepsDial h))

theorem State.openEvaluation_keepsDial {e : Nat} : s0.keepsDial (s.openEvaluation e) :=
  h.within (State.openEvaluation_within (State.within_refl s [.mbs, .sched, .cursors]) (List.Subset.refl _))

theorem State.openDrain_keepsDial {target : Nat} : s0.keepsDial (s.openDrain target) :=
  h.within (State.openDrain_within (State.within_refl s [.resil]) (List.Subset.refl _))

theorem State.openSwapWindow_keepsDial : s0.keepsDial s.openSwapWindow := h.congr rfl

theorem State.openEntries_keepsDial : s0.keepsDial s.openEntries := by
  rw [State.openEntries]
  refine State.keepsDial_fold (fun u d hu => ?_) h
  split
  · exact State.keepsDial_ite hu (State.keepsDial_ite (State.openEvaluation_keepsDial hu) (State.keepsDial_ite (State.openReshard_keepsDial hu)
      (State.keepsDial_ite (State.openDrain_keepsDial hu) (State.keepsDial_ite (State.openSwapWindow_keepsDial hu) hu))))
  · exact hu

theorem State.settle_keepsDial : s0.keepsDial s.settle := by
  rw [State.settle]
  refine State.noteCompletions_keepsDial (State.keepsDial.within ?_
    (State.endEvaluation_within (State.within_refl _ [.mbs, .sched, .train]) (List.Subset.refl _)))
  exact (h.within (State.openReady_within (State.within_refl s [.mbs, .sched]) (List.Subset.refl _))).congr rfl

theorem State.reportSlack_keepsDial : s0.keepsDial s.reportSlack := by
  have hreport {r own : Option Int} : s0.keepsDial (s.onDial fun d => { d with reportMin := r, reportEarly := none, ownSlack := own }) :=
    State.onDial_keepsDial h
  rw [State.reportSlack]
  split
  · exact State.keepsDial_ite hreport (State.sendUp_keepsDial hreport)
  · exact hreport

end

/-! ### Beats and arrivals keep the clock -/

theorem DialState.clock_fields {d e : DialState} (h : d.clock = e.clock) : d.pos = e.pos ∧ d.step = e.step ∧ d.acc = e.acc ∧ d.ns = e.ns := by
  have hpos := congrArg DialState.pos h
  have hstep := congrArg DialState.step h
  have hacc := congrArg DialState.acc h
  have hns := congrArg DialState.ns h
  exact ⟨hpos, hstep, hacc, hns⟩

section
variable (s : State)

theorem State.grant_clock (pos : Nat) : (s.grant pos).dial.clock = s.dial.clock := by
  rw [State.grant]
  split <;> rfl

theorem State.periodLoop_clock : s.periodLoop.dial.clock = s.dial.clock := by
  rw [State.periodLoop]
  split <;> rfl

/-- What a root or another device does at a beat position, between the period loop and its presence. -/
def State.beatStep (s : State) (pos : Nat) : State :=
  if s.dial.isRoot then (s.grant pos).sendBeat ((s.grant pos).beatPorts (s.grant pos).rootOf none) (s.grant pos).rootBeat
  else if s.dial.locked then s.onDial fun x => { x with missed := if x.heard then 0 else x.missed + 1, heard := false }
  else s

theorem State.beatStep_clock (pos : Nat) : (s.beatStep pos).dial.clock = s.dial.clock := by
  rw [State.beatStep]
  split
  · rw [(State.sendBeat_within (State.within_refl (s.grant pos) [.links]) (List.Subset.refl _)).dial (by decide), s.grant_clock]
  · split <;> rfl

theorem State.sendPresence_dial : s.sendPresence.dial = s.dial :=
  (State.sendPresence_within (State.within_refl s [.links]) (List.Subset.refl _)).dial (by decide)

theorem State.atBeat_eq : s.atBeat =
    let u := (if s.dial.pos.toNat = 32768 then s.periodLoop else s).beatStep s.dial.pos.toNat
    if u.run.run == 2 then u.sendPresence else u := rfl

theorem State.atBeat_clock : s.atBeat.dial.clock = s.dial.clock := by
  have hloop : (if s.dial.pos.toNat = 32768 then s.periodLoop else s).dial.clock = s.dial.clock := by
    split
    · exact s.periodLoop_clock
    · rfl
  have hstep := (State.beatStep_clock _ s.dial.pos.toNat).trans hloop
  rw [State.atBeat_eq, ← hstep]
  generalize (if s.dial.pos.toNat = 32768 then s.periodLoop else s).beatStep s.dial.pos.toNat = u
  dsimp only
  split
  · rw [State.sendPresence_dial]
  · rfl

theorem State.meetBeat_clock : s.meetBeat.dial.clock = s.dial.clock := by
  rw [State.meetBeat]
  split
  · exact s.atBeat_clock
  · rfl

theorem State.arrive_clock : s.arrive.dial.clock = s.dial.clock := by
  rw [State.arrive]
  refine (State.settle_keepsDial (State.keepsDial_refl _)).clock.trans ?_
  exact (State.openEntries_keepsDial (State.keepsDial_refl s)).clock

/-! ### The dial within a step (R51, R71) -/

variable {s}

theorem State.elapse_dial (cycles : Nat) : (s.elapse cycles).dial = { s.dial with
    ns := s.dial.ns + cycles
    acc := s.dial.acc + 8 * (if s.dial.trim = 0 then 65536 * cycles else Config.interpolated s.dial.trim cycles) } := rfl

theorem State.elapse_onlyIn (cycles : Nat) : s.onlyIn (s.elapse cycles) [.power, .dial, .sched] :=
  fun p hp => by cases p <;> first | exact absurd (by decide) hp | rfl

/-- The dial waits: within a position, at the last one, or not running. -/
theorem exec_dialAdvance_of_waiting {cycles : Nat} (h : (s.elapse cycles).dial.acc < s.threshold ∨ s.dial.pos = 65535 ∨ s.dialRuns = false) :
    exec (.dialAdvance cycles) s = .next (s.elapse cycles) := by
  refine congrArg Host.Outcome.next (if_pos ?_)
  rw [Bool.or_eq_true, Bool.or_eq_true, Bool.not_eq_true', decide_eq_true_eq, beq_iff_eq]
  rcases h with h | h | h
  · exact .inl (.inr h)
  · exact .inr h
  · exact .inl (.inl h)

theorem exec_dialAdvance_of_due {cycles : Nat} (hruns : s.dialRuns = true) (hpos : s.dial.pos ≠ 65535)
    (hdue : s.threshold ≤ (s.elapse cycles).dial.acc) : exec (.dialAdvance cycles) s =
      .next ((((s.elapse cycles).noteCompletions.onDial fun d => { d with pos := d.pos + 1, acc := d.acc - s.threshold }).meetBeat.leave
        s.dial.pos.toNat).arrive) := by
  refine congrArg Host.Outcome.next (if_neg ?_)
  rw [Bool.or_eq_true, Bool.or_eq_true, Bool.not_eq_true', decide_eq_true_eq, beq_iff_eq]
  rintro ((h | h) | h)
  · exact Bool.false_ne_true (h.symm.trans hruns)
  · exact absurd h (Nat.not_lt.2 hdue)
  · exact hpos h

end

/-- Settles O23: the command only elapses before its position is due, and what arriving at a position does keeps the dial's clock. -/
theorem dialPositions : Obligations.DialPositions := by
  unfold Obligations.DialPositions
  intro s cycles acc position
  refine ⟨fun hwait => ⟨_, exec_dialAdvance_of_waiting hwait, rfl, State.elapse_onlyIn cycles⟩, fun hruns hpos hdue => ?_⟩
  have hexec := exec_dialAdvance_of_due (cycles := cycles) hruns hpos hdue
  refine ⟨_, hexec, ?_⟩
  have hw := within_of_exec hexec
  change s.within (changedBy (.dialAdvance 0)) _ at hw
  generalize hu : ((s.elapse cycles).noteCompletions.onDial fun d => { d with pos := d.pos + 1, acc := d.acc - s.threshold }) = u at hw ⊢
  have hclock : ((u.meetBeat.leave s.dial.pos.toNat).arrive).dial.clock = u.dial.clock := by
    rw [State.arrive_clock, (State.leave_keepsDial (State.keepsDial_refl _)).clock, State.meetBeat_clock]
  have hpos' : u.dial.pos = s.dial.pos + 1 := by rw [← hu]; rfl
  have hacc : u.dial.acc = acc - position := by rw [← hu]; rfl
  have hstep : u.dial.step = s.dial.step := by rw [← hu]; rfl
  have hns : u.dial.ns = s.dial.ns + cycles := by rw [← hu]; rfl
  obtain ⟨hp, hs, ha, hn⟩ := DialState.clock_fields hclock
  exact ⟨hp.trans hpos', hs.trans hstep, ha.trans hacc, hn.trans hns, hw.mem (by decide), hw.start (by decide), hw.staging (by decide), hw.cfg (by decide),
    hw.run (by decide), hw.cores (by decide), hw.rambler (by decide)⟩

end Sys2Proof.Machine
end


section
/-! PROOFS. Crossing a step boundary (R48, R71, R147, R148): the dial of the new step, and the run of the slot. -/

namespace Sys2Proof.Machine

set_option Elab.async false

/-! ### The step that ends keeps the dial's core -/

section
variable {s0 s : State}

theorem State.onRun_keepsDial (h : s0.keepsDial s) {f : RunState → RunState} : s0.keepsDial (s.onRun f) := h.congr rfl
theorem State.onRestore_keepsDial (h : s0.keepsDial s) {f : RestoreState → RestoreState} : s0.keepsDial (s.onRestore f) := h.congr rfl

/-- The step after its checks, before its reports. -/
def State.checked (s : State) : State :=
  let u := s.noteCompletions.checkAtEnd.closeWindows 65535
  if u.working && u.reclaimPos == some 65535 && !u.train.reclaimDone then u.reclaim else u

/-- The step with its reports, taps and statistics. -/
def State.reported (s : State) : State :=
  let u := s.replayEnd.reportSlack
  ((if u.working then u.writeTaps else u).noise).1

/-- The step's cursor, its counts and the scrubber. -/
def State.tallied (s : State) (ran : Bool) : State :=
  let s := if ran then s.advanceCursor else s
  let s := if ran && !s.weightUpdates.isEmpty && !s.advances then s.onTrain fun t => { t with skippedV := satAdd t.skippedV 1 } else s
  let s := if s.tables.reshardOn && !(s.dial.go && s.tables.reshardDone) then s.logDevice 0x0E5 noName 0 0 else s
  if s.run.run = 2 then s.onMemory fun m => { m with scrubbing := true } else s

theorem State.tallied_within (s : State) (ran : Bool) : s.within [.logs, .memory, .cursors, .train] (s.tallied ran) := by
  have hcursor : s.within [.logs, .memory, .cursors, .train] (if ran then s.advanceCursor else s) :=
    State.within_ite (State.advanceCursor_within (State.within_refl _ _) (by decide)) (State.within_refl _ _)
  have hskipped {c : Prop} [Decidable c] {v : State} (hv : s.within [.logs, .memory, .cursors, .train] v) {g : TrainState → TrainState} :
      s.within [.logs, .memory, .cursors, .train] (if c then v.onTrain g else v) := State.within_ite (State.onTrain_within hv (by decide)) hv
  have hlogged {c : Prop} [Decidable c] {v : State} (hv : s.within [.logs, .memory, .cursors, .train] v) :
      s.within [.logs, .memory, .cursors, .train] (if c then v.logDevice 0x0E5 noName 0 0 else v) :=
    State.within_ite (State.logDevice_within hv (by decide)) hv
  exact State.within_ite (State.onMemory_within rfl (hlogged (hskipped hcursor)) (by decide)) (hlogged (hskipped hcursor))

theorem State.endStep_eq (s : State) : (s.endStep).1 = s.checked.reported.tallied s.checked.replayEnd.reportSlack.working := by
  simp only [State.endStep, State.tallied, State.reported, State.checked]
  congr

theorem State.checked_keepsDial (h : s0.keepsDial s) : s0.keepsDial s.checked := by
  have hu : s0.keepsDial (s.noteCompletions.checkAtEnd.closeWindows 65535) :=
    State.closeWindows_keepsDial (State.checkAtEnd_keepsDial (State.noteCompletions_keepsDial h))
  exact State.keepsDial_ite (State.reclaim_keepsDial hu) hu

theorem State.reported_keepsDial (h : s0.keepsDial s) : s0.keepsDial s.reported := by
  have hreport : s0.keepsDial s.replayEnd.reportSlack := State.reportSlack_keepsDial
    (h.within (State.replayEnd_within (State.within_refl s [.resil]) (List.Subset.refl _)))
  have htaps : s0.keepsDial (if s.replayEnd.reportSlack.working then s.replayEnd.reportSlack.writeTaps else s.replayEnd.reportSlack) :=
    State.keepsDial_ite (hreport.congr rfl) hreport
  exact htaps.within (State.noise_within (State.within_refl _ [.cascade]) (List.Subset.refl _))

theorem State.tallied_keepsDial (h : s0.keepsDial s) {ran : Bool} : s0.keepsDial (s.tallied ran) := by
  have hcursor : s0.keepsDial (if ran then s.advanceCursor else s) :=
    State.keepsDial_ite (h.within (State.advanceCursor_within (State.within_refl _ [.cursors]) (List.Subset.refl _))) h
  have hskipped {c : Prop} [Decidable c] {v : State} (hv : s0.keepsDial v) {g : TrainState → TrainState} :
      s0.keepsDial (if c then v.onTrain g else v) := State.keepsDial_ite (State.onTrain_keepsDial hv) hv
  have hlogged {c : Prop} [Decidable c] {v : State} (hv : s0.keepsDial v) : s0.keepsDial (if c then v.logDevice 0x0E5 noName 0 0 else v) :=
    State.keepsDial_ite (State.logDevice_keepsDial hv) hv
  exact State.keepsDial_ite (State.onMemory_keepsDial (hlogged (hskipped hcursor))) (hlogged (hskipped hcursor))

theorem State.endStep_keepsDial (h : s0.keepsDial s) : s0.keepsDial (s.endStep).1 := by
  rw [State.endStep_eq]
  exact State.tallied_keepsDial (State.reported_keepsDial (State.checked_keepsDial h))

/-! ### A restore's stages keep the dial's core -/

theorem State.failRestore_keepsDial (h : s0.keepsDial s) {code : Nat} : s0.keepsDial (s.failRestore code) :=
  h.within (State.failRestore_within (State.within_refl s [.logs, .memory, .resil, .bytes]) (List.Subset.refl _))

theorem State.rejoinApply_keepsDial (h : s0.keepsDial s) : s0.keepsDial s.rejoinApply := by
  have hloadTables {u : State} (hu : s0.keepsDial u) {a b c : Nat} : s0.keepsDial (u.loadTables a b c) := hu.congr rfl
  have hloadTraining {u : State} (hu : s0.keepsDial u) {a b : Nat} {c : Word} {d : Bool} : s0.keepsDial (u.loadTraining a b c d) := hu.congr rfl
  have hloadSets {u : State} (hu : s0.keepsDial u) {b : Bool} : s0.keepsDial (u.loadDense b).loadRows :=
    (hu.within (State.loadDense_within (State.within_refl u [.memory, .bytes]) (List.Subset.refl _))).within
      (State.loadRows_within (State.within_refl _ [.memory, .bytes]) (List.Subset.refl _))
  have hloadCounts {u : State} (hu : s0.keepsDial u) {f : Nat → Nat} : s0.keepsDial (u.loadCounts f) := hu.congr rfl
  have hloadCursor {u : State} (hu : s0.keepsDial u) {i v : Nat} : s0.keepsDial (u.loadCursor i v) :=
    hu.within (State.loadCursor_within (State.within_refl u [.logs, .cursors]) (List.Subset.refl _))
  have hdirty {u : State} (hu : s0.keepsDial u) : s0.keepsDial u.markAllDirty :=
    hu.within (State.markAllDirty_within (State.within_refl u [.resil]) (List.Subset.refl _))
  have hreform {u : State} (hu : s0.keepsDial u) : s0.keepsDial u.reformBatches :=
    hu.within (State.reformBatches_within (State.within_refl u [.run, .mbs, .sched]) (List.Subset.refl _))
  rw [State.rejoinApply]
  exact State.keepsDial_ite (State.failRestore_keepsDial (State.onRun_keepsDial h)) (State.settle_keepsDial (State.onRestore_keepsDial
    (hreform (hdirty (hloadCursor (hloadCursor (hloadCounts (hloadSets (State.onTrain_keepsDial (hloadTraining (hloadTables h)))))))))))

theorem State.stageEnd_keepsDial (h : s0.keepsDial s) : s0.keepsDial s.stageEnd := by
  rw [State.stageEnd]
  refine State.keepsDial_ite h ?_
  split
  · exact h
  · exact h.within (State.chooseSet_within (State.within_refl s [.draws, .logs, .memory, .links, .resil, .bytes]) (List.Subset.refl _))
  · exact State.keepsDial_ite (State.keepsDial_ite ((State.onRestore_keepsDial h).within (State.rejoinPoll_within
      (State.within_refl _ [.logs, .links, .resil]) (List.Subset.refl _))) (State.onRestore_keepsDial h))
      (h.within (State.loadSet_within (State.within_refl s [.logs, .run, .memory, .tables, .cursors, .train, .blocks, .cascade, .resil, .bytes])
        (List.Subset.refl _)))
  · exact h.within (State.rejoinBuffer_within (State.within_refl s [.logs, .links, .resil]) (List.Subset.refl _))
  · exact h.congr rfl
  · exact State.rejoinApply_keepsDial h

theorem State.beginRollback_keepsDial (h : s0.keepsDial s) : s0.keepsDial s.beginRollback.1 := by
  rw [State.beginRollback]
  dsimp only
  split
  · exact State.logDevice_keepsDial h (code := 0x114) (who := noName) (dropped := 0) (detail := 0)
  · exact State.stageEnd_keepsDial (State.stageEnd_keepsDial ((State.onRestore_keepsDial h).within
      (State.readBody_within (State.within_refl _ [.draws, .logs, .links, .resil]) (List.Subset.refl _))))

theorem State.rollBack_keepsDial (h : s0.keepsDial s) : s0.keepsDial s.rollBack :=
  State.keepsDial_ite (State.onRun_keepsDial (State.beginRollback_keepsDial h)) (State.onTrain_keepsDial (State.beginRollback_keepsDial h))

/-! ### Items 1 to 6 of the boundary -/

theorem State.takeCommands_keepsDial (h : s0.keepsDial s) {t : Nat} {o : Option HandOver} : s0.keepsDial (s.takeCommands t o) :=
  h.within (State.takeCommands_within (State.within_refl s [.run, .tables, .cursors, .train, .cascade, .resil]) (List.Subset.refl _))

theorem State.handOvers_keepsDial (h : s0.keepsDial s) {c : Nat} : s0.keepsDial (s.handOvers c) := by
  have hback : s0.keepsDial (if s.train.rollback && s.working then s.rollBack else s) := State.keepsDial_ite (State.rollBack_keepsDial h) h
  exact State.keepsDial_ite (State.onRun_keepsDial h) (State.keepsDial_ite (State.onRun_keepsDial h)
    (State.keepsDial_ite hback (State.takeCommands_keepsDial hback)))

end

/-! ### The step that ends keeps a restore's form -/

/-- A restore under way stays as it is. -/
def State.keepsRestore (s t : State) : Prop := t.resil.restore = s.resil.restore

section
variable {s0 s t : State}

theorem State.keepsRestore_ite {c : Prop} [Decidable c] {a b : State} (ha : s0.keepsRestore a) (hb : s0.keepsRestore b) :
    s0.keepsRestore (if c then a else b) := by
  split <;> assumption

theorem State.keepsRestore_fold {α : Type} {f : State → α → State} {l : List α} (hf : ∀ u x, s0.keepsRestore u → s0.keepsRestore (f u x))
    (h : s0.keepsRestore s) : s0.keepsRestore (l.foldl f s) := by
  induction l generalizing s with
  | nil => exact h
  | cons x l ih => exact ih (hf s x h)

variable (h : s0.keepsRestore s)
include h

theorem State.keepsRestore.within {L : List Part} (hw : s.within L t) (hL : .resil ∉ L := by decide) : s0.keepsRestore t :=
  (congrArg ResilState.restore (hw.resil hL)).trans h

theorem State.onResil_keepsRestore {f : ResilState → ResilState} (hf : ∀ r, (f r).restore = r.restore := by exact fun _ => rfl) :
    s0.keepsRestore (s.onResil f) := (hf _).trans h

theorem State.logDevice_keepsRestore {code : Nat} {who : Named} {dropped detail : Nat} :
    s0.keepsRestore (s.logDevice code who dropped detail) :=
  State.keepsRestore.within h (State.logDevice_within (State.within_refl s [.logs]) (List.Subset.refl _))

theorem State.logDial_keepsRestore {code entry type policy : Nat} {n : Named} {dropped : Nat} :
    s0.keepsRestore (s.logDial code entry type policy n dropped) :=
  State.keepsRestore.within h (State.logDial_within (State.within_refl s [.logs]) (List.Subset.refl _))

theorem State.onTarget_keepsRestore {i : Nat} {f : CkptTarget → CkptTarget} : s0.keepsRestore (s.onTarget i f) := h

theorem State.endCopy_keepsRestore {i code : Nat} : s0.keepsRestore (s.endCopy i code) := by
  have hnvme {u : State} (hu : s0.keepsRestore u) : s0.keepsRestore (if i = 1 then u.onResil fun r => { r with nvme := [] } else u) :=
    State.keepsRestore_ite (State.onResil_keepsRestore hu) hu
  have hpin {c : Prop} [Decidable c] {u : State} (hu : s0.keepsRestore u) :
      s0.keepsRestore (if c then u else u.onTarget 0 fun x => { x with pinned := false }) :=
    State.keepsRestore_ite hu (State.onTarget_keepsRestore hu)
  rw [State.endCopy]
  exact State.keepsRestore_ite (hpin (hnvme (State.onTarget_keepsRestore h)))
    (State.logDevice_keepsRestore (hpin (hnvme (State.onTarget_keepsRestore h))))

theorem State.drainMissed_keepsRestore {e : DialEntry} : s0.keepsRestore (s.drainMissed e) := by
  rw [State.drainMissed]
  exact State.keepsRestore_ite (State.onTarget_keepsRestore h) (State.keepsRestore_fold
    (fun u c hu => State.keepsRestore_ite (State.endCopy_keepsRestore hu) hu)
    (State.logDevice_keepsRestore (State.onResil_keepsRestore (State.onTarget_keepsRestore (State.onTarget_keepsRestore h)))))

theorem State.dropMb_keepsRestore {mb step : Nat} : s0.keepsRestore (s.dropMb mb step) :=
  State.keepsRestore.within h (State.dropMb_within (State.within_refl s [.dial, .logs, .mbs, .sched, .gather, .train, .blocks]) (List.Subset.refl _))

theorem State.dropCarried_keepsRestore : s0.keepsRestore s.dropCarried :=
  State.keepsRestore.within h (State.dropCarried_within (State.within_refl s [.dial, .logs, .mbs, .train]) (List.Subset.refl _))

theorem State.withdraw_keepsRestore {e : Nat} : s0.keepsRestore (s.withdraw e) :=
  State.keepsRestore.within h (State.withdraw_within (State.within_refl s [.cascade, .links]) (List.Subset.refl _))

theorem State.abandonDrain_keepsRestore {i : Nat} : s0.keepsRestore (s.abandonDrain i) := by
  rw [State.abandonDrain]
  exact State.onResil_keepsRestore (State.keepsRestore_ite (State.onResil_keepsRestore (State.onTarget_keepsRestore h))
    (State.onTarget_keepsRestore h))

theorem State.dropEntry_keepsRestore {i : Nat} {e : DialEntry} {step : Nat} : s0.keepsRestore (s.dropEntry i e step).1 := by
  have hlate : s0.keepsRestore ((s.lateMbs i step).foldl (fun s m => s.dropMb m step) s) :=
    State.keepsRestore_fold (fun u m hu => State.dropMb_keepsRestore hu) h
  have hcascade {u : State} (hu : s0.keepsRestore u) {f : CascadeState → CascadeState} : s0.keepsRestore (u.onCascade f) := hu
  rw [State.dropEntry]
  dsimp only
  split
  · exact State.dropCarried_keepsRestore (State.keepsRestore_ite (State.withdraw_keepsRestore (hcascade hlate)) (hcascade hlate))
  · split
    · exact State.abandonDrain_keepsRestore hlate
    · exact hlate

theorem State.askRoot_keepsRestore {entry step : Nat} : s0.keepsRestore (s.askRoot entry step) :=
  State.keepsRestore.within h (State.askRoot_within (State.within_refl s [.dial, .logs]) (List.Subset.refl _))

theorem State.sendUp_keepsRestore {f : Flit} : s0.keepsRestore (s.sendUp f) :=
  State.keepsRestore.within h (State.sendUp_within (State.within_refl s [.links]) (List.Subset.refl _))

theorem State.haltAtBoundary_keepsRestore {cause : Nat} : s0.keepsRestore (s.haltAtBoundary cause) :=
  State.keepsRestore.within h (State.haltAtBoundary_within (State.within_refl s [.dial]) (List.Subset.refl _))

theorem State.deadline_keepsRestore {d : DialInstance} {e : DialEntry} {atEnd : Bool} : s0.keepsRestore (s.deadline d e atEnd) := by
  have hmark {f : DialState → DialState} {g : LogState → LogState} : s0.keepsRestore ((s.onDial f).onLogs g) := h
  have hpre {c : Prop} [Decidable c] {u : State} (hu : s0.keepsRestore u) : s0.keepsRestore (if c then u.drainMissed e else u) :=
    State.keepsRestore_ite (State.drainMissed_keepsRestore hu) hu
  rw [State.deadline]
  dsimp only
  split
  · exact State.logDial_keepsRestore (State.dropEntry_keepsRestore (hpre hmark))
  · exact State.keepsRestore_ite (State.askRoot_keepsRestore (State.logDial_keepsRestore (hpre hmark)))
      (State.sendUp_keepsRestore (State.logDial_keepsRestore (hpre hmark)))
  · exact State.haltAtBoundary_keepsRestore (State.logDial_keepsRestore (hpre hmark))

theorem State.checkAtEnd_keepsRestore : s0.keepsRestore s.checkAtEnd := by
  rw [State.checkAtEnd]
  refine State.keepsRestore_fold (fun u d hu => ?_) h
  split
  · exact State.keepsRestore_ite (State.deadline_keepsRestore hu) hu
  · exact hu

theorem State.repairRecord_keepsRestore {kind pendKind unit detail code : Nat} : s0.keepsRestore (s.repairRecord kind pendKind unit detail code) := by
  rw [State.repairRecord]
  dsimp only
  split
  · split <;> exact h
  · split <;> exact h

theorem State.endSwapWindow_keepsRestore : s0.keepsRestore s.endSwapWindow := by
  rw [State.endSwapWindow]
  exact State.keepsRestore_ite (State.onResil_keepsRestore h) (State.keepsRestore_fold (fun u r hu => State.repairRecord_keepsRestore hu)
    (State.onResil_keepsRestore (State.onResil_keepsRestore h)))

theorem State.closeWindows_keepsRestore {pos : Nat} : s0.keepsRestore (s.closeWindows pos) :=
  State.keepsRestore_fold (fun _ _ hu => State.keepsRestore_ite (State.endSwapWindow_keepsRestore hu) hu) h

theorem State.reclaim_keepsRestore : s0.keepsRestore s.reclaim :=
  State.keepsRestore.within h (State.reclaim_within (State.within_refl s [.dial, .logs, .mbs, .sched, .gather, .train, .blocks]) (List.Subset.refl _))

theorem State.checked_keepsRestore : s0.keepsRestore s.checked := by
  have hu : s0.keepsRestore (s.noteCompletions.checkAtEnd.closeWindows 65535) :=
    State.closeWindows_keepsRestore (State.checkAtEnd_keepsRestore (s := s.noteCompletions) h)
  exact State.keepsRestore_ite (State.reclaim_keepsRestore hu) hu

omit h

theorem State.reported_resil (s : State) : s.reported.resil = s.replayEnd.resil := by
  have hreport : s.replayEnd.reportSlack.resil = s.replayEnd.resil :=
    (State.reportSlack_within (State.within_refl _ [.dial, .links]) (List.Subset.refl _)).resil (by decide)
  rw [State.reported, ← hreport]
  refine ((State.noise_within (State.within_refl _ [.cascade]) (List.Subset.refl _)).resil (by decide)).trans ?_
  split <;> rfl

theorem State.endStep_rejoin (s : State) : (s.endStep).1.resil.restore.rejoin = s.resil.restore.rejoin := by
  have hchecked : s.checked.resil.restore.rejoin = s.resil.restore.rejoin := congrArg RestoreState.rejoin (State.checked_keepsRestore rfl)
  rw [State.endStep_eq, (State.tallied_within _ _).resil (by decide), State.reported_resil, ← hchecked, State.replayEnd]
  split <;> rfl

end

/-! ### A step without instances leaves what the boundary goes by -/

/-- Nothing new is due at the boundary: no halt, no rollback, no hold. -/
structure State.keepsPlan (s t : State) : Prop where
  halt : t.dial.haltCause = s.dial.haltCause
  rollback : t.train.rollback = s.train.rollback
  hold : t.train.holdUntil = s.train.holdUntil

section
variable {s0 s t : State}

theorem State.keepsPlan_refl (s : State) : s.keepsPlan s := ⟨rfl, rfl, rfl⟩

theorem State.keepsPlan_ite {c : Prop} [Decidable c] {a b : State} (ha : s0.keepsPlan a) (hb : s0.keepsPlan b) :
    s0.keepsPlan (if c then a else b) := by
  split <;> assumption

variable (h : s0.keepsPlan s)
include h

theorem State.keepsPlan.congr (hd : t.dial.haltCause = s.dial.haltCause) (hr : t.train.rollback = s.train.rollback)
    (hh : t.train.holdUntil = s.train.holdUntil) : s0.keepsPlan t := ⟨hd.trans h.halt, hr.trans h.rollback, hh.trans h.hold⟩

theorem State.keepsPlan.within {L : List Part} (hw : s.within L t) (hL : .dial ∉ L := by decide) (hT : .train ∉ L := by decide) :
    s0.keepsPlan t :=
  h.congr (congrArg DialState.haltCause (hw.dial hL)) (congrArg TrainState.rollback (hw.train hT)) (congrArg TrainState.holdUntil (hw.train hT))

theorem State.logDevice_keepsPlan {code : Nat} {who : Named} {dropped detail : Nat} : s0.keepsPlan (s.logDevice code who dropped detail) :=
  h.within (State.logDevice_within (State.within_refl s [.logs]) (List.Subset.refl _))

theorem State.onTrain_keepsPlan {f : TrainState → TrainState}
    (hf : ∀ x, (f x).rollback = x.rollback ∧ (f x).holdUntil = x.holdUntil := by exact fun _ => ⟨rfl, rfl⟩) : s0.keepsPlan (s.onTrain f) :=
  h.congr rfl (hf _).1 (hf _).2

theorem State.lapse_keepsPlan : s0.keepsPlan s.lapse := by
  have hbroken : s0.keepsPlan (s.onDial fun d => { d with detBroken := true }) := h.congr rfl rfl rfl
  exact State.keepsPlan_ite (hbroken.within (State.logDial_within (State.within_refl _ [.logs]) (List.Subset.refl _))) h

theorem State.dropMb_keepsPlan {mb step : Nat} : s0.keepsPlan (s.dropMb mb step) := by
  rw [State.dropMb]
  split
  · exact h
  · refine State.keepsPlan_ite h (State.lapse_keepsPlan (State.keepsPlan.congr (s := State.freeDropped _ mb step) ?_ rfl rfl rfl))
    refine State.keepsPlan.within ?_ (State.freeDropped_within (State.within_refl _ [.mbs]) (List.Subset.refl _))
    exact h.congr rfl rfl rfl

theorem State.writeTaps_keepsPlan : s0.keepsPlan s.writeTaps := by
  rw [State.writeTaps]
  exact State.onTrain_keepsPlan h

theorem State.reclaim_keepsPlan : s0.keepsPlan s.reclaim := by
  have hfold (l : List MicroBatch) {u : State} (hu : s0.keepsPlan u) : s0.keepsPlan (l.foldl (fun s m =>
      ((s.dropMb m.mb m.step).logDevice 0x0C0 (s.nameMb m) 1 0).onTrain fun t => { t with reclaimed := satAdd t.reclaimed 1 }) u) := by
    induction l generalizing u with
    | nil => exact hu
    | cons m l ih => exact ih (State.onTrain_keepsPlan (State.logDevice_keepsPlan (State.dropMb_keepsPlan hu)))
  rw [State.reclaim]
  exact State.onTrain_keepsPlan (hfold _ h)

omit h in
theorem State.checked_of_no_instances (hi : s.dial.instances = []) : s.checked =
    let u := s.noteCompletions
    if u.working && u.reclaimPos == some 65535 && !u.train.reclaimDone then u.reclaim else u := by
  have hnone : s.noteCompletions.dial.instances = [] := by rw [State.noteCompletions, State.onDial_dial, hi]; rfl
  have hcheck : s.noteCompletions.checkAtEnd = s.noteCompletions := by rw [State.checkAtEnd, hnone, List.foldl_nil]
  have hclose : s.noteCompletions.closeWindows 65535 = s.noteCompletions := by rw [State.closeWindows, hnone, List.foldl_nil]
  rw [State.checked, hcheck, hclose]

omit h in
theorem State.endStep_keepsPlan (hi : s.dial.instances = []) : s.keepsPlan (s.endStep).1 := by
  have hnote : s.keepsPlan s.noteCompletions := ⟨rfl, rfl, rfl⟩
  have hchecked : s.keepsPlan s.checked := by
    rw [State.checked_of_no_instances hi]
    exact State.keepsPlan_ite (State.reclaim_keepsPlan hnote) hnote
  have hreplay := hchecked.within (State.replayEnd_within (State.within_refl s.checked [.resil]) (List.Subset.refl _))
  have hsent {r own : Option Int} {f : Flit} {v : State} (hv : s.keepsPlan v) :
      s.keepsPlan ((v.onDial fun d => { d with reportMin := r, reportEarly := none, ownSlack := own }).sendUp f) :=
    State.keepsPlan.within (s := v.onDial _) (hv.congr rfl rfl rfl) (State.sendUp_within (State.within_refl _ [.links]) (List.Subset.refl _))
  have hreport : s.keepsPlan s.checked.replayEnd.reportSlack := by
    rw [State.reportSlack]
    split
    · exact State.keepsPlan_ite (hreplay.congr rfl rfl rfl) (hsent hreplay)
    · exact hreplay.congr rfl rfl rfl
  have htaps : s.keepsPlan (if s.checked.replayEnd.reportSlack.working then s.checked.replayEnd.reportSlack.writeTaps
      else s.checked.replayEnd.reportSlack) := State.keepsPlan_ite (State.writeTaps_keepsPlan hreport) hreport
  have hreported : s.keepsPlan s.checked.reported := htaps.within (State.noise_within (State.within_refl _ [.cascade]) (List.Subset.refl _))
  have htally (ran : Bool) : s.keepsPlan (s.checked.reported.tallied ran) := by
    have hcursor : s.keepsPlan (if ran then s.checked.reported.advanceCursor else s.checked.reported) := State.keepsPlan_ite
      (hreported.within (State.advanceCursor_within (State.within_refl _ [.cursors]) (List.Subset.refl _))) hreported
    have hskipped {c : Prop} [Decidable c] {v : State} (hv : s.keepsPlan v) :
        s.keepsPlan (if c then v.onTrain fun t => { t with skippedV := satAdd t.skippedV 1 } else v) :=
      State.keepsPlan_ite (State.onTrain_keepsPlan hv) hv
    have hlogged {c : Prop} [Decidable c] {v : State} (hv : s.keepsPlan v) : s.keepsPlan (if c then v.logDevice 0x0E5 noName 0 0 else v) :=
      State.keepsPlan_ite (State.logDevice_keepsPlan hv) hv
    exact State.keepsPlan_ite (State.keepsPlan.congr (hlogged (hskipped hcursor)) rfl rfl rfl) (hlogged (hskipped hcursor))
  rw [State.endStep_eq]
  exact htally _

end

/-! ### Items 1 and 2 for a slot (R48, R145, R147, R148) -/

section
variable {s : State} {c : Nat}

/-- A slot that has a halt due halts. -/
theorem State.handOvers_of_halt (hrun : s.run.run = 2 ∨ s.run.run = 3) (hdue : s.dial.haltCause ≠ 0) :
    s.handOvers c = s.haltNow s.dial.haltCause := by
  refine if_pos ?_
  rw [State.slotRunning, Bool.and_eq_true, Bool.or_eq_true, beq_iff_eq, beq_iff_eq, bne_iff_ne]
  exact ⟨hrun, hdue⟩

/-- Nothing is due but held commands. -/
theorem State.handOvers_of_plain (hrun : s.run.run = 2) (hdue : s.dial.haltCause = 0) (hroll : s.train.rollback = false)
    (hhold : s.train.holdUntil = none) : s.handOvers c = s.takeCommands (s.dial.step.toNat + 1) (some (s.handOver c)) := by
  have hworking : s.working = true := by rw [State.working, hrun, hhold]; rfl
  have hlate : s.rollbackLate (s.dial.step.toNat + 1) = false := by rw [State.rollbackLate, hhold]; simp
  rw [State.handOvers]
  dsimp only
  rw [if_neg (by rw [hdue]; simp), if_neg (by rw [hlate]; simp), hroll, hworking, Bool.false_and, if_neg Bool.false_ne_true,
    if_neg (by rw [hrun]; simp), if_neg (by decide), hroll, if_neg Bool.false_ne_true]

theorem State.takeCommands_of_stop {t : Nat} {o : Option HandOver} (hrun : s.run.run = 2) (hstop : dueAt t s.run.stopAt = true) :
    (s.takeCommands t o).run.run = 4 ∧ (s.takeCommands t o).run.stopCause = 1 ∧ (s.takeCommands t o).run.stopAt = none ∧
    (s.takeCommands t o).run.startAt = s.run.startAt := by
  have hfirst : ¬ (s.run.run = 3 ∧ dueAt t s.run.stopAt = true) := by rw [hrun]; exact fun h => absurd h.1 (by decide)
  have hsame : (o.elim s fun h => s.applyHandOver h).run = s.run := by
    cases o with
    | none => rfl
    | some h => exact (State.applyHandOver_within (State.within_refl s [.tables, .train, .resil]) (List.Subset.refl _)).run (by decide)
  rw [State.takeCommands]
  dsimp only
  rw [if_neg hfirst, if_neg (fun h => h hrun), if_pos hstop, State.onRun_run, hsame]
  exact ⟨rfl, rfl, if_pos hstop, rfl⟩

theorem State.takeCommands_of_pause {t : Nat} {o : Option HandOver} (hrun : s.run.run = 2) (hstop : s.run.stopAt = none)
    (hpause : dueAt t s.run.pauseAt = true) : (s.takeCommands t o).run.run = 3 ∧ (s.takeCommands t o).run.pauseAt = none ∧
    (s.takeCommands t o).run.startAt = s.run.startAt := by
  have hno : dueAt t s.run.stopAt = false := by rw [hstop]; rfl
  have hfirst : ¬ (s.run.run = 3 ∧ dueAt t s.run.stopAt = true) := by rw [hrun]; exact fun h => absurd h.1 (by decide)
  rw [State.takeCommands]
  dsimp only
  rw [if_neg hfirst, if_neg (fun h => h hrun), if_neg (by rw [hno]; exact Bool.false_ne_true), if_pos hpause, State.onRun_run]
  exact ⟨rfl, if_pos hpause, rfl⟩

/-- A slot that does not run keeps its START. -/
theorem State.handOvers_of_ready (hrun : s.run.run = 1) : ∃ f : RunState → RunState, s.handOvers c = s.onRun f ∧
    (f s.run).run = 1 ∧ (f s.run).startAt = s.run.startAt := by
  have hslot : s.slotRunning = false := by rw [State.slotRunning, hrun]; rfl
  have hworking : s.working = false := by rw [State.working, hrun]; rfl
  have hlate : s.rollbackLate (s.dial.step.toNat + 1) = false := by rw [State.rollbackLate, hrun]; rfl
  have hfirst (t : Nat) : ¬ (s.run.run = 3 ∧ dueAt t s.run.stopAt = true) := by rw [hrun]; exact fun h => absurd h.1 (by decide)
  have htwo : s.run.run ≠ 2 := by rw [hrun]; decide
  rw [State.handOvers]
  dsimp only
  rw [if_neg (by rw [hslot]; simp), if_neg (by rw [hlate]; simp), hworking, Bool.and_false, if_neg Bool.false_ne_true,
    if_neg (by rw [hslot]; simp), State.takeCommands]
  dsimp only
  rw [if_neg (hfirst _), if_pos htwo]
  exact ⟨_, rfl, hrun, rfl⟩

end

end Sys2Proof.Machine
end


section
/-! PROOFS. The new step (R48, R54, R71, R145, R148): its dial, and the run it begins with. -/

namespace Sys2Proof.Machine

set_option Elab.async false

/-! ### The dial the new step begins with -/

section
variable (s : State) (gain : Nat)

/-- The state that has entered the new step, before a START and the step's work. -/
def State.entered : State :=
  let s := s.onRun fun r => { r with firstRun := false }
  let s := s.clearStep
  let s := s.onDial fun d => { d with
    pos := 0, step := d.step + 1, acc := d.acc - gain, periodNs := d.nextPeriod.getD d.periodNs, nextPeriod := none }
  s.onTrain fun t => { t with holdUntil := t.holdUntil.filter fun u => decide (s.dial.step.toNat < u) }

/-- A START that is due takes effect. -/
def State.started : State :=
  if dueAt s.dial.step.toNat s.run.startAt && (s.run.run == 1 || s.run.run == 3) then s.startRun else s

/-- The step's promotions and work. -/
def State.prepared : State :=
  ((s.onTables fun t => { t with coolers := t.coolers.map Cooler.halve }).promotionBatch).beginStep.onRun fun r =>
    { r with evalNow := false, ckptNow := false }

theorem State.cross_eq : s.cross gain = ((s.endStep.1.handOvers s.endStep.2).entered gain).started.prepared.meetBeat.arrive := by
  simp only [State.cross, State.entered, State.started, State.prepared]
  congr

theorem State.entered_dial : (s.entered gain).dial = { s.dial with
    granted := (s.dial.grantBeats.getLast?).elim s.dial.granted fun b => s.dial.granted ++ [(s.dial.step.toNat, b)]
    haltCause := 0, go := false, grants := 0, grantBeats := [], held := s.dial.held ++ s.dial.waiting, waiting := [], instances := []
    crossed := s.dial.locked, pos := 0, step := s.dial.step + 1, acc := s.dial.acc - gain
    periodNs := s.dial.nextPeriod.getD s.dial.periodNs, nextPeriod := none } := rfl

theorem State.entered_run : (s.entered gain).run = { s.run with firstRun := false } := rfl

theorem State.entered_cfg : (s.entered gain).cfg = s.cfg :=
  (State.onTrain_within (State.onDial_within (State.clearStep_within (State.onRun_within (State.within_refl s [.run, .dial, .mbs, .sched, .memory,
    .tables, .gather, .train, .cascade, .links, .resil]) (by decide)) (by decide)) (by decide)) (by decide)).cfg (by decide)

theorem State.entered_restore : (s.entered gain).resil.restore = s.resil.restore := by
  rw [State.entered, State.clearStep]
  rfl

theorem State.entered_stepFault : (s.entered gain).memory.stepFault = false := rfl

end

/-! ### A START and the step's work leave the dial -/

section
variable {s : State}

theorem State.started_within (s : State) :
    s.within [.logs, .run, .memory, .tables, .cursors, .train, .cascade, .links, .resil, .bytes] s.started :=
  State.within_ite (State.startRun_within (State.within_refl s _) (List.Subset.refl _)) (State.within_refl s _)

theorem State.prepared_within (s : State) : s.within [.dial, .logs, .run, .mbs, .sched, .memory, .tables, .links, .resil, .bytes] s.prepared :=
  State.onRun_within (State.beginStep_within (State.promotionBatch_within (State.onTables_within (State.within_refl s _) (by decide))
    (by decide)) (by decide)) (by decide)

theorem State.started_dial (s : State) : s.started.dial = s.dial := s.started_within.dial (by decide)

theorem State.beginStep_dial (s : State) : ∃ is, s.beginStep.dial = { s.dial with instances := is } := by
  have hform : s.formBatches.dial = s.dial :=
    (State.formBatches_within (State.within_refl s [.run, .mbs]) (List.Subset.refl _)).dial (by decide)
  refine ⟨s.formBatches.newInstances.dial.instances, ?_⟩
  rw [State.beginStep]
  refine ((State.prepareStart_within (State.within_refl _ [.logs, .memory, .links, .resil, .bytes]) (List.Subset.refl _)).dial (by decide)).trans ?_
  refine ((State.createStepInstances_within (State.within_refl _ [.sched]) (List.Subset.refl _)).dial (by decide)).trans ?_
  rw [← hform]
  rfl

theorem State.prepared_dial (s : State) : ∃ is, s.prepared.dial = { s.dial with instances := is } := by
  obtain ⟨is, his⟩ := (s.onTables fun t => { t with coolers := t.coolers.map Cooler.halve }).promotionBatch.beginStep_dial
  refine ⟨is, ?_⟩
  rw [State.prepared, State.onRun_dial, his, (State.promotionBatch_within (State.within_refl _ [.logs, .tables]) (List.Subset.refl _)).dial (by decide), State.onTables_dial]

/-! ### No step fault comes of entering a step -/

theorem State.store_stepFault (s : State) (k : Nat) (bs : List Byte) (p : Bool) : (s.store k bs p).memory.stepFault = s.memory.stepFault := rfl

theorem State.loadSpan_stepFault (s : State) (off n key : Nat) : (s.loadSpan off n key).memory.stepFault = s.memory.stepFault := by
  rw [State.loadSpan]
  refine foldl_keeps (g := fun u : State => u.memory.stepFault) (fun u l => ?_) ..
  split
  · rfl
  · rfl

theorem State.loadDense_stepFault (s : State) (b : Bool) : (s.loadDense b).memory.stepFault = s.memory.stepFault := by
  rw [State.loadDense]
  refine foldl_keeps (g := fun u : State => u.memory.stepFault) (fun u d => ?_) ..
  split
  · exact u.loadSpan_stepFault ..
  · rfl

theorem State.loadRows_stepFault (s : State) : s.loadRows.memory.stepFault = s.memory.stepFault := by
  rw [State.loadRows]
  refine foldl_keeps (g := fun u : State => u.memory.stepFault) (fun u x => ?_) ..
  split
  · rfl
  · refine foldl_keeps (g := fun u : State => u.memory.stepFault) (fun v i => ?_) ..
    split
    · exact v.loadSpan_stepFault ..
    · rfl

theorem State.failRestore_stepFault (s : State) (code : Nat) : (s.failRestore code).memory.stepFault = s.memory.stepFault := by
  rw [State.failRestore, State.logDevice_memory]
  rw [State.onRestore_memory, State.loadRows_stepFault, State.loadDense_stepFault]

/-- The run of a START that takes effect. -/
def State.runBegun (s : State) (fresh : Bool) : State :=
  let r := s.resil.restore
  let s := if fresh && r.rejoin && r.phase == 6 then s.rejoinAsk else s
  let s := match s.run.held with
    | some h => s.handOverNow (some h)
    | none => s.applyCount ⟨false, false, s.run.c⟩
  if r.armed then
    (s.restorePending s.dial.step.toNat).onRestore fun r => { r with armed := false, replayStep := some s.dial.step.toNat }
  else s

theorem State.startRun_cases (s : State) (P : State → Prop)
    (hfail : s.run.run = 1 → s.resil.restore.rejoin = true → P ((s.onRun fun x => { x with startAt := none }).failRestore 0x112))
    (hrun : let u := (s.onRun fun x => { x with startAt := none }).runBegun (s.run.run == 1)
      P (u.onRun fun x => { x with run := 2, runStep := u.dial.step, held := none, firstRun := s.run.run == 1 })) : P s.startRun := by
  rw [State.startRun]
  dsimp only
  split
  · next h =>
    simp only [Bool.and_eq_true, beq_iff_eq] at h
    exact hfail h.1.1.1 h.1.1.2
  · exact hrun

theorem State.runBegun_within (s : State) (fresh : Bool) :
    s.within [.run, .tables, .cursors, .train, .cascade, .resil, .logs, .links] (s.runBegun fresh) := by
  have hask : s.within [.run, .tables, .cursors, .train, .cascade, .resil, .logs, .links]
      (if fresh && s.resil.restore.rejoin && s.resil.restore.phase == 6 then s.rejoinAsk else s) :=
    State.within_ite (State.rejoinAsk_within (State.within_refl _ _) (by decide)) (State.within_refl _ _)
  rw [State.runBegun]
  generalize (if fresh && s.resil.restore.rejoin && s.resil.restore.phase == 6 then s.rejoinAsk else s) = v at hask ⊢
  have hheld : s.within [.run, .tables, .cursors, .train, .cascade, .resil, .logs, .links] (match v.run.held with
      | some h => v.handOverNow (some h)
      | none => v.applyCount ⟨false, false, v.run.c⟩) := by
    split
    · exact State.handOverNow_within hask (by decide)
    · exact State.applyCount_within hask (by decide)
  exact State.within_ite (State.onRestore_within (State.restorePending_within hheld (by decide)) (by decide)) hheld

theorem State.startRun_stepFault (s : State) : s.startRun.memory.stepFault = s.memory.stepFault := by
  refine s.startRun_cases (fun t => t.memory.stepFault = s.memory.stepFault) (fun _ _ => State.failRestore_stepFault ..) ?_
  exact congrArg MemState.stepFault ((State.runBegun_within _ _).memory (by decide))

theorem State.started_stepFault (s : State) : s.started.memory.stepFault = s.memory.stepFault := by
  rw [State.started]
  split
  · exact s.startRun_stepFault
  · rfl

theorem State.placeStore_stepFault (s : State) (p : Place) (bs : List Byte) (b : Bool) :
    (s.placeStore p bs b).memory.stepFault = s.memory.stepFault := by
  cases p with
  | own k => rfl
  | remote a => exact congrArg MemState.stepFault ((State.sendTo_within (State.within_refl s [.logs, .links]) (List.Subset.refl _)).memory (by decide))

theorem State.prepareStart_stepFault (s : State) : s.prepareStart.memory.stepFault = s.memory.stepFault := by
  have hseed (n : Nat) : (s.restoreSeed n).memory.stepFault = s.memory.stepFault := by
    rw [State.restoreSeed]
    dsimp only
    split
    · rfl
    · split
      · rfl
      · exact State.placeStore_stepFault ..
  rw [State.prepareStart]
  dsimp only
  split
  · rfl
  · split
    · exact (congrArg MemState.stepFault ((State.rejoinPoll_within (State.within_refl _ [.logs, .links, .resil]) (List.Subset.refl _)).memory
        (by decide))).trans (hseed _)
    · exact hseed _

theorem State.prepared_stepFault (s : State) : s.prepared.memory.stepFault = s.memory.stepFault := by
  have hbegin (u : State) : u.beginStep.memory.stepFault = u.memory.stepFault := by
    rw [State.beginStep]
    rw [State.prepareStart_stepFault, (State.createStepInstances_within (State.within_refl _ [.sched]) (List.Subset.refl _)).memory (by decide),
      State.onResil_memory, (State.newInstances_within (State.within_refl _ [.dial]) (List.Subset.refl _)).memory (by decide),
      (State.formBatches_within (State.within_refl u [.run, .mbs]) (List.Subset.refl _)).memory (by decide)]
  rw [State.prepared, State.onRun_memory, hbegin,
    (State.promotionBatch_within (State.within_refl _ [.logs, .tables]) (List.Subset.refl _)).memory (by decide), State.onTables_memory]

end

/-! ### The new step's beat and its arrival -/

section
variable {s : State}

theorem State.grant_of_none_waiting {pos : Nat} (h : s.dial.waiting = []) : s.grant pos = s := by
  rw [State.grant, h]
  rfl

/-- With no request waiting, a beat at pos 0 leaves the dial but for the count of missed beats. -/
theorem State.meetBeat_dial_of_zero (hpos : s.dial.pos = 0) (hwait : s.dial.waiting = []) :
    ∃ m b, s.meetBeat.dial = { s.dial with missed := m, heard := b } := by
  have hzero : s.dial.pos.toNat = 0 := by rw [hpos]; rfl
  have hbeat : ∃ m b, (s.beatStep 0).dial = { s.dial with missed := m, heard := b } := by
    rw [State.beatStep, State.grant_of_none_waiting hwait]
    split
    · exact ⟨s.dial.missed, s.dial.heard, (State.sendBeat_within (State.within_refl s [.links]) (List.Subset.refl _)).dial (by decide)⟩
    · split
      · exact ⟨_, _, rfl⟩
      · exact ⟨_, _, rfl⟩
  obtain ⟨m, b, hbeat⟩ := hbeat
  refine ⟨m, b, hbeat ▸ ?_⟩
  have hbeatNow : s.meetBeat = if (s.beatStep 0).run.run == 2 then (s.beatStep 0).sendPresence else s.beatStep 0 := by
    rw [State.meetBeat, if_pos (by rw [hzero]), State.atBeat_eq, hzero, if_neg (show ¬ (0 : Nat) = 32768 by decide)]
  rw [hbeatNow]
  split
  · exact State.sendPresence_dial _
  · rfl

theorem State.meetBeat_memory (s : State) : s.meetBeat.memory = s.memory :=
  (State.meetBeat_within (State.within_refl s [.dial, .logs, .links]) (List.Subset.refl _)).memory (by decide)

theorem State.dialEntry_type_ne {d : DialInstance} {e : DialEntry} (hno : s.cfg.sundial.table.all (fun e => e.type != 0xC) = true)
    (he : s.dialEntry d.entry = some e) : e.type ≠ 0xC := by
  have hmem := List.mem_of_getElem? he
  exact bne_iff_ne.1 (List.all_eq_true.1 hno e hmem)

/-- Without a re-shard entry in the table, arriving halts nothing and finds no fault. -/
theorem State.arrive_quiet (hno : s.cfg.sundial.table.all (fun e => e.type != 0xC) = true) :
    s.arrive.dial.haltCause = s.dial.haltCause ∧ s.arrive.memory.stepFault = s.memory.stepFault := by
  have hopen : s.within [.mbs, .sched, .cursors, .resil] s.openEntries := by
    rw [State.openEntries]
    refine List.foldlRecOn _ _ (State.within_refl s _) fun u hu d _ => ?_
    split
    · next e he =>
      have hne : e.type ≠ 0xC := State.dialEntry_type_ne (by rw [hu.cfg (by decide)]; exact hno) he
      rw [if_neg hne]
      exact State.within_ite hu (State.within_ite (State.openEvaluation_within hu (by decide)) (State.within_ite
        (State.openDrain_within hu (by decide)) (State.within_ite (State.openSwapWindow_within hu (by decide)) hu)))
    · exact hu
  have hsettle (u : State) : u.settle.dial.haltCause = u.dial.haltCause := by
    have hready : u.openReady.dial = u.dial := (State.openReady_within (State.within_refl u [.mbs, .sched]) (List.Subset.refl _)).dial (by decide)
    have hend (v : State) : v.endEvaluation.dial = v.dial :=
      (State.endEvaluation_within (State.within_refl v [.mbs, .sched, .train]) (List.Subset.refl _)).dial (by decide)
    have hdial (v : State) : v.endEvaluation.noteCompletions.dial.haltCause = v.dial.haltCause := by rw [← hend v]; rfl
    rw [State.settle, hdial, ← hready]
  rw [State.arrive]
  constructor
  · rw [hsettle, State.onDial_dial, hopen.dial (by decide)]
  · rw [(State.settle_within (State.within_refl _ [.dial, .mbs, .sched, .train]) (List.Subset.refl _)).memory (by decide), State.onDial_memory,
      hopen.memory (by decide)]

theorem DialState.core_fields {d e : DialState} (h : d.core = e.core) : d.pos = e.pos ∧ d.step = e.step ∧ d.acc = e.acc ∧
    d.grants = e.grants ∧ d.crossed = e.crossed ∧ d.periodNs = e.periodNs := by
  have hpos := congrArg DialState.pos h
  have hstep := congrArg DialState.step h
  have hacc := congrArg DialState.acc h
  have hgrants := congrArg DialState.grants h
  have hcrossed := congrArg DialState.crossed h
  have hperiod := congrArg DialState.periodNs h
  exact ⟨hpos, hstep, hacc, hgrants, hcrossed, hperiod⟩

theorem State.arrive_fields (s : State) : s.arrive.dial.pos = s.dial.pos ∧ s.arrive.dial.step = s.dial.step ∧
    s.arrive.dial.acc = s.dial.acc ∧ s.arrive.dial.grants = s.dial.grants ∧ s.arrive.dial.crossed = s.dial.crossed ∧
    s.arrive.dial.periodNs = s.dial.periodNs := by
  obtain ⟨hpos, hstep, hacc, hgrants, hcrossed, hperiod⟩ := DialState.core_fields (State.openEntries_keepsDial (State.keepsDial_refl s)).core
  obtain ⟨hpos', hstep', hacc', hgrants', hcrossed', hperiod'⟩ := DialState.core_fields (State.settle_keepsDial
    (State.keepsDial_refl (s.openEntries.onDial fun d => { d with syncOut := s.openEntries.syncLevel }))).core
  exact ⟨hpos'.trans hpos, hstep'.trans hstep, hacc'.trans hacc, hgrants'.trans hgrants, hcrossed'.trans hcrossed, hperiod'.trans hperiod⟩

/-- The dial once the work of a new step has been entered. -/
theorem State.newStep_fields (hpos : s.dial.pos = 0) (hwait : s.dial.waiting = []) :
    let t := s.started.prepared.meetBeat.arrive
    t.dial.pos = 0 ∧ t.dial.step = s.dial.step ∧ t.dial.acc = s.dial.acc ∧ t.dial.grants = s.dial.grants ∧ t.dial.crossed = s.dial.crossed ∧
    t.dial.periodNs = s.dial.periodNs ∧ (s.cfg.sundial.table.all (fun e => e.type != 0xC) = true →
      t.dial.haltCause = s.dial.haltCause ∧ t.memory.stepFault = s.memory.stepFault) := by
  intro t
  have hstarted := s.started_dial
  obtain ⟨is, hprepared⟩ := s.started.prepared_dial
  obtain ⟨m, b, hbeat⟩ := State.meetBeat_dial_of_zero (s := s.started.prepared) (by rw [hprepared, hstarted]; exact hpos)
    (by rw [hprepared, hstarted]; exact hwait)
  rw [hprepared, hstarted] at hbeat
  obtain ⟨hp, hs, ha, hg, hc, hn⟩ := s.started.prepared.meetBeat.arrive_fields
  rw [hbeat] at hp hs ha hg hc hn
  refine ⟨hp.trans hpos, hs, ha, hg, hc, hn, fun hno => ?_⟩
  have hcfg : s.started.prepared.meetBeat.cfg = s.cfg := by
    rw [(State.meetBeat_within (State.within_refl _ [.dial, .logs, .links]) (List.Subset.refl _)).cfg (by decide),
      s.started.prepared_within.cfg (by decide), s.started_within.cfg (by decide)]
  obtain ⟨hhalt, hfault⟩ := State.arrive_quiet (s := s.started.prepared.meetBeat) (by rw [hcfg]; exact hno)
  rw [hbeat] at hhalt
  exact ⟨hhalt, hfault.trans (by rw [State.meetBeat_memory, State.prepared_stepFault, State.started_stepFault])⟩

end

/-! ### The run the new step begins with -/

/-- What forming the step's micro-batches leaves of a run. -/
def RunState.course (r : RunState) : RunState :=
  { r with accepted := none, block := none, mbCount := 0, intakeMissed := 0, evalNow := false, ckptNow := false }

theorem State.formBatches_course (s : State) : s.formBatches.run.course = s.run.course := by
  rw [State.formBatches]
  dsimp only
  split
  · rfl
  · split
    · rfl
    · split <;> rfl

theorem State.prepared_course (s : State) : s.prepared.run.course = s.run.course := by
  have hbegin (u : State) : u.beginStep.run = u.formBatches.run := by
    rw [State.beginStep]
    rw [(State.prepareStart_within (State.within_refl _ [.logs, .memory, .links, .resil, .bytes]) (List.Subset.refl _)).run (by decide),
      (State.createStepInstances_within (State.within_refl _ [.sched]) (List.Subset.refl _)).run (by decide), State.onResil_run,
      (State.newInstances_within (State.within_refl _ [.dial]) (List.Subset.refl _)).run (by decide)]
  have hpromote (u : State) : u.promotionBatch.run = u.run :=
    (State.promotionBatch_within (State.within_refl u [.logs, .tables]) (List.Subset.refl _)).run (by decide)
  have hnow (r : RunState) : ({ r with evalNow := false, ckptNow := false } : RunState).course = r.course := rfl
  rw [State.prepared, State.onRun_run, hnow, hbegin, State.formBatches_course, hpromote]
  rfl

/-- What crossing a boundary leaves of the run, from the hand-overs on. -/
theorem State.arrived_course (s : State) : (s.started.prepared.meetBeat.arrive).run.course = s.started.run.course := by
  rw [(State.arrive_within (State.within_refl _ [.dial, .logs, .mbs, .sched, .memory, .tables, .cursors, .train, .resil]) (List.Subset.refl _)).run
    (by decide), (State.meetBeat_within (State.within_refl _ [.dial, .logs, .links]) (List.Subset.refl _)).run (by decide), State.prepared_course]

theorem State.started_of_none {s : State} (h : s.run.startAt = none) : s.started = s := by
  rw [State.started, h]
  rfl

theorem State.applyCount_startAt (s : State) (g : HandOver) : (s.applyCount g).run.startAt = s.run.startAt := by
  have hcursor {c : Bool} {u : State} (hu : u.run.startAt = s.run.startAt) (n : Nat) :
      (if c then u.checkCursor false n else u).run.startAt = s.run.startAt := by
    split
    · exact (congrArg RunState.startAt ((State.checkCursor_within (State.within_refl u [.cursors]) (List.Subset.refl _)).run (by decide))).trans hu
    · exact hu
  rw [State.applyCount]
  exact hcursor (u := State.onCascade (State.onRun s _) _) rfl g.c

theorem State.handOverNow_startAt (s : State) (h : Option HandOver) : (s.handOverNow h).run.startAt = s.run.startAt := by
  cases h with
  | none => rfl
  | some g =>
    refine (State.applyCount_startAt _ g).trans (congrArg RunState.startAt ?_)
    exact (State.applyHandOver_within (State.within_refl s [.tables, .train, .resil]) (List.Subset.refl _)).run (by decide)

theorem State.runBegun_startAt (s : State) (fresh : Bool) : (s.runBegun fresh).run.startAt = s.run.startAt := by
  have hask : (if fresh && s.resil.restore.rejoin && s.resil.restore.phase == 6 then s.rejoinAsk else s).run.startAt = s.run.startAt := by
    split
    · exact congrArg RunState.startAt ((State.rejoinAsk_within (State.within_refl s [.logs, .links, .resil]) (List.Subset.refl _)).run (by decide))
    · rfl
  rw [← hask, State.runBegun]
  generalize (if fresh && s.resil.restore.rejoin && s.resil.restore.phase == 6 then s.rejoinAsk else s) = v
  have hheld : (match v.run.held with
      | some h => v.handOverNow (some h)
      | none => v.applyCount ⟨false, false, v.run.c⟩).run.startAt = v.run.startAt := by
    split
    · exact v.handOverNow_startAt _
    · exact v.applyCount_startAt _
  split
  · exact hheld
  · exact hheld

/-- A START from the ready state takes effect at its step. -/
theorem State.started_of_due {s : State} (hrun : s.run.run = 1) (hdue : s.run.startAt = some s.dial.step) (hrejoin : s.resil.restore.rejoin = false) :
    s.started.run.run = 2 ∧ s.started.run.startAt = none ∧ s.started.run.runStep = s.dial.step ∧ s.started.run.firstRun = true := by
  have hyes : (dueAt s.dial.step.toNat s.run.startAt && (s.run.run == 1 || s.run.run == 3)) = true := by
    rw [hdue, hrun, dueAt]
    simp
  rw [State.started, if_pos hyes]
  refine s.startRun_cases (fun t => t.run.run = 2 ∧ t.run.startAt = none ∧ t.run.runStep = s.dial.step ∧ t.run.firstRun = true)
    (fun _ h => absurd (hrejoin.symm.trans h) Bool.false_ne_true) ?_
  have hwithin := (s.onRun fun x => { x with startAt := none }).runBegun_within (s.run.run == 1)
  exact ⟨rfl, State.runBegun_startAt _ _, hwithin.dial (by decide) ▸ rfl, beq_iff_eq.2 hrun⟩

/-! ### The command -/

section
variable {s : State} {cycles : Nat}

theorem exec_stepBoundary_of_waiting (h : (s.elapse cycles).dial.acc < s.threshold ∨ s.dial.pos ≠ 65535 ∨ s.dialRuns = false) :
    exec (.stepBoundary cycles) s = .next (s.elapse cycles) := by
  refine congrArg Host.Outcome.next (if_pos ?_)
  rw [Bool.or_eq_true, Bool.or_eq_true, Bool.not_eq_true', decide_eq_true_eq, bne_iff_ne]
  rcases h with h | h | h
  · exact .inl (.inr h)
  · exact .inr h
  · exact .inl (.inl h)

theorem exec_stepBoundary_of_due (hruns : s.dialRuns = true) (hpos : s.dial.pos = 65535) (hdue : s.threshold ≤ (s.elapse cycles).dial.acc) :
    exec (.stepBoundary cycles) s = .next ((s.elapse cycles).cross s.threshold) := by
  refine congrArg Host.Outcome.next (if_neg ?_)
  rw [Bool.or_eq_true, Bool.or_eq_true, Bool.not_eq_true', decide_eq_true_eq, bne_iff_ne]
  rintro ((h | h) | h)
  · exact Bool.false_ne_true (h.symm.trans hruns)
  · exact absurd h (Nat.not_lt.2 hdue)
  · exact h hpos

theorem RunState.course_fields {r r' : RunState} (h : r.course = r'.course) : r.run = r'.run ∧ r.stopCause = r'.stopCause ∧
    r.pauseAt = r'.pauseAt ∧ r.stopAt = r'.stopAt ∧ r.evalAt = r'.evalAt ∧ r.ckptAt = r'.ckptAt ∧ r.startAt = r'.startAt ∧
    r.runStep = r'.runStep ∧ r.firstRun = r'.firstRun := by
  have hrun := congrArg RunState.run h
  have hcause := congrArg RunState.stopCause h
  have hpause := congrArg RunState.pauseAt h
  have hstop := congrArg RunState.stopAt h
  have heval := congrArg RunState.evalAt h
  have hckpt := congrArg RunState.ckptAt h
  have hstart := congrArg RunState.startAt h
  have hstep := congrArg RunState.runStep h
  have hfirst := congrArg RunState.firstRun h
  exact ⟨hrun, hcause, hpause, hstop, heval, hckpt, hstart, hstep, hfirst⟩

/-- The run of a slot after a crossing, without a START: as the hand-overs leave it. -/
theorem State.cross_run_of_none {gain : Nat} {r : RunState} (hr : (s.endStep.1.handOvers s.endStep.2).run = r) (h : r.startAt = none) :
    (s.cross gain).run.run = r.run ∧ (s.cross gain).run.stopCause = r.stopCause ∧ (s.cross gain).run.pauseAt = r.pauseAt ∧
    (s.cross gain).run.stopAt = r.stopAt ∧ (s.cross gain).run.evalAt = r.evalAt ∧ (s.cross gain).run.ckptAt = r.ckptAt ∧
    (s.cross gain).run.startAt = none := by
  have hentered : ((s.endStep.1.handOvers s.endStep.2).entered gain).run = { r with firstRun := false } := by rw [State.entered_run, hr]
  have hstarted := State.started_of_none (s := (s.endStep.1.handOvers s.endStep.2).entered gain) (by rw [hentered]; exact h)
  have hcourse := ((s.endStep.1.handOvers s.endStep.2).entered gain).arrived_course
  rw [← State.cross_eq, hstarted, hentered] at hcourse
  obtain ⟨hrun, hcause, hpause, hstop, heval, hckpt, hstart, -⟩ := RunState.course_fields hcourse
  exact ⟨hrun, hcause, hpause, hstop, heval, hckpt, hstart.trans h⟩

theorem State.endStep_run (s : State) : s.endStep.1.run = s.run :=
  (State.endStep_within (State.within_refl s [.flash, .dial, .logs, .mbs, .sched, .memory, .cursors, .gather, .train, .blocks, .cascade, .links,
    .resil]) (List.Subset.refl _)).run (by decide)

/-! ### The clauses -/

/-- The dial of the new step. -/
theorem State.cross_dial (s : State) (gain : Nat) : (s.cross gain).dial.pos = 0 ∧ (s.cross gain).dial.step = s.dial.step + 1 ∧
    (s.cross gain).dial.grants = 0 ∧ (s.cross gain).dial.crossed = s.dial.locked ∧ (s.cross gain).dial.acc = s.dial.acc - gain ∧
    (s.cfg.sundial.table.all (fun e => e.type != 0xC) = true → (s.cross gain).dial.haltCause = 0 ∧ (s.cross gain).memory.stepFault = false) ∧
    (s.cross gain).dial.periodNs = s.dial.nextPeriod.getD s.dial.periodNs := by
  generalize hu : s.endStep.1.handOvers s.endStep.2 = u
  have hkeeps : s.keepsDial u := hu ▸ State.handOvers_keepsDial (State.endStep_keepsDial (State.keepsDial_refl s))
  have hcfg : u.cfg = s.cfg := by
    rw [← hu, (State.handOvers_within (State.within_refl _ [.draws, .dial, .logs, .run, .mbs, .sched, .memory, .tables, .cursors, .train, .blocks,
      .cascade, .links, .resil, .bytes]) (List.Subset.refl _)).cfg (by decide), (State.endStep_within (State.within_refl s [.flash, .dial, .logs,
      .mbs, .sched, .memory, .cursors, .gather, .train, .blocks, .cascade, .links, .resil]) (List.Subset.refl _)).cfg (by decide)]
  have hlocked := congrArg DialState.locked hkeeps.core
  have hnext := congrArg DialState.nextPeriod hkeeps.core
  obtain ⟨-, hstep, hacc, -, -, hperiod⟩ := DialState.core_fields hkeeps.core
  obtain ⟨hp, hs, ha, hg, hc, hn, hquiet⟩ := State.newStep_fields (s := u.entered gain) rfl rfl
  rw [State.cross_eq, hu]
  refine ⟨hp, hs.trans (congrArg (· + 1) hstep), hg, hc.trans hlocked, ha.trans (congrArg (· - gain) hacc), fun hno => ?_, ?_⟩
  · exact hquiet (by rw [State.entered_cfg, hcfg]; exact hno)
  · refine hn.trans ?_
    change u.dial.nextPeriod.getD u.dial.periodNs = _
    rw [hperiod]
    exact congrArg (fun o => Option.getD o s.dial.periodNs) hnext

/-- A slot with a halt due halts with its cause, and holds no command. -/
theorem State.cross_of_halt {gain : Nat} (hrun : s.run.run = 2 ∨ s.run.run = 3) (hdue : s.dial.haltCause ≠ 0) :
    (s.cross gain).run.run = 4 ∧ (s.cross gain).run.stopCause = s.dial.haltCause ∧ (s.cross gain).run.pauseAt = none ∧
    (s.cross gain).run.stopAt = none ∧ (s.cross gain).run.evalAt = none ∧ (s.cross gain).run.ckptAt = none ∧
    (s.cross gain).run.startAt = none := by
  have hcause := (State.endStep_keepsDial (State.keepsDial_refl s)).halt hdue
  have hover : s.endStep.1.handOvers s.endStep.2 = s.endStep.1.haltNow s.dial.haltCause := by
    rw [State.handOvers_of_halt (by rw [State.endStep_run]; exact hrun) (by rw [hcause]; exact hdue), hcause]
  have hrun' : (s.endStep.1.handOvers s.endStep.2).run = (s.endStep.1.haltNow s.dial.haltCause).run := by rw [hover]
  exact State.cross_run_of_none hrun' rfl

theorem dueAt_next {n : BitVec 48} (h : n.toNat < 2 ^ 48 - 1) : dueAt (n.toNat + 1) (some (n + 1)) = true := by
  rw [dueAt, Option.any_some, beq_iff_eq]
  bv_omega

section
variable {gain : Nat} (hrun : s.run.run = 2) (hdue : s.dial.haltCause = 0) (hinstances : s.dial.instances = [])
  (hroll : s.train.rollback = false) (hhold : s.train.holdUntil = none) (hstart : s.run.startAt = none)
  (hstep : s.dial.step.toNat < 2 ^ 48 - 1)
include hrun hdue hinstances hroll hhold

/-- A running slot with nothing else due takes its held commands. -/
theorem State.cross_handOvers : s.endStep.1.handOvers s.endStep.2 =
    s.endStep.1.takeCommands (s.dial.step.toNat + 1) (some (s.endStep.1.handOver s.endStep.2)) := by
  obtain ⟨hdue', hroll', hhold'⟩ := State.endStep_keepsPlan hinstances
  have hstep' := (DialState.core_fields (State.endStep_keepsDial (State.keepsDial_refl s)).core).2.1
  rw [State.handOvers_of_plain (by rw [State.endStep_run]; exact hrun) (hdue'.trans hdue) (hroll'.trans hroll) (hhold'.trans hhold), hstep']

include hstart hstep

theorem State.cross_of_stop (hstop : s.run.stopAt = some (s.dial.step + 1)) :
    (s.cross gain).run.run = 4 ∧ (s.cross gain).run.stopCause = 1 ∧ (s.cross gain).run.stopAt = none := by
  obtain ⟨hr, hcause, hnone, hkept⟩ := State.takeCommands_of_stop (s := s.endStep.1) (o := some (s.endStep.1.handOver s.endStep.2))
    (by rw [State.endStep_run]; exact hrun) (by rw [State.endStep_run, hstop]; exact dueAt_next hstep)
  rw [← State.cross_handOvers hrun hdue hinstances hroll hhold] at hr hcause hnone hkept
  obtain ⟨hr', hcause', -, hstop', -⟩ := State.cross_run_of_none (gain := gain) rfl (by rw [hkept, State.endStep_run]; exact hstart)
  exact ⟨hr'.trans hr, hcause'.trans hcause, hstop'.trans hnone⟩

theorem State.cross_of_pause (hstop : s.run.stopAt = none) (hpause : s.run.pauseAt = some (s.dial.step + 1)) :
    (s.cross gain).run.run = 3 ∧ (s.cross gain).run.pauseAt = none := by
  obtain ⟨hr, hnone, hkept⟩ := State.takeCommands_of_pause (s := s.endStep.1) (o := some (s.endStep.1.handOver s.endStep.2))
    (by rw [State.endStep_run]; exact hrun) (by rw [State.endStep_run]; exact hstop)
    (by rw [State.endStep_run, hpause]; exact dueAt_next hstep)
  rw [← State.cross_handOvers hrun hdue hinstances hroll hhold] at hr hnone hkept
  obtain ⟨hr', -, hpause', -⟩ := State.cross_run_of_none (gain := gain) rfl (by rw [hkept, State.endStep_run]; exact hstart)
  exact ⟨hr'.trans hr, hpause'.trans hnone⟩

end

theorem State.cross_of_start {gain : Nat} (hrun : s.run.run = 1) (hdue : s.run.startAt = some (s.dial.step + 1))
    (hrejoin : s.resil.restore.rejoin = false) : (s.cross gain).run.run = 2 ∧ (s.cross gain).run.startAt = none ∧
    (s.cross gain).run.runStep = s.dial.step + 1 ∧ (s.cross gain).run.firstRun = true := by
  obtain ⟨f, hover, hf, hfstart⟩ := State.handOvers_of_ready (s := s.endStep.1) (c := s.endStep.2) (by rw [State.endStep_run]; exact hrun)
  have hstep := (DialState.core_fields (State.endStep_keepsDial (State.keepsDial_refl s)).core).2.1
  have hkept : (f s.endStep.1.run).startAt = some (s.dial.step + 1) := by rw [hfstart, State.endStep_run, hdue]
  have hentered : ((s.endStep.1.onRun f).entered gain).dial.step = s.dial.step + 1 :=
    by rw [State.entered_dial, State.onRun_dial, hstep]
  obtain ⟨hr, hs, ht, hfirst⟩ := State.started_of_due (s := (s.endStep.1.onRun f).entered gain)
    (by rw [State.entered_run, State.onRun_run]; dsimp only; exact hf)
    (by rw [hentered, State.entered_run, State.onRun_run]; dsimp only; exact hkept)
    (by rw [State.entered_restore, State.onRun_resil, State.endStep_rejoin]; exact hrejoin)
  rw [State.cross_eq, hover]
  obtain ⟨hr', -, -, -, -, -, hs', ht', hfirst'⟩ := RunState.course_fields (((s.endStep.1.onRun f).entered gain).arrived_course)
  exact ⟨hr'.trans hr, hs'.trans hs, (ht'.trans ht).trans hentered, hfirst'.trans hfirst⟩

end

/-- Settles O24: crossing ends the step, hands over by what is due, and enters the new step; the dial's core and the run's course are followed
through each. -/
theorem stepBoundaryCrossing : Obligations.StepBoundaryCrossing := by
  unfold Obligations.StepBoundaryCrossing
  intro s cycles acc position quiet
  refine ⟨fun hwait => ⟨_, exec_stepBoundary_of_waiting hwait, rfl, State.elapse_onlyIn cycles⟩, fun hruns hpos hdue => ?_⟩
  have hexec := exec_stepBoundary_of_due (cycles := cycles) hruns hpos hdue
  have hw := within_of_exec hexec
  change s.within (changedBy (.stepBoundary 0)) _ at hw
  refine ⟨⟨_, hexec, ?_⟩, fun hrun hhalt => ⟨_, hexec, State.cross_of_halt (s := s.elapse cycles) hrun hhalt⟩, ?_, ?_,
    fun hrun hstart hrejoin => ⟨_, hexec, State.cross_of_start (s := s.elapse cycles) hrun hstart hrejoin⟩⟩
  · obtain ⟨hp, hs, hg, hc, ha, hquiet, hn⟩ := (s.elapse cycles).cross_dial s.threshold
    exact ⟨hp, hs, hg, hc, ha, hquiet, fun _ => hn, hw.start (by decide), hw.staging (by decide), hw.cfg (by decide), hw.cores (by decide),
      hw.rambler (by decide)⟩
  · rintro ⟨hrun, hhalt, hinstances, hroll, hhold, -, hstart⟩ hstop hstep
    exact ⟨_, hexec, State.cross_of_stop (s := s.elapse cycles) hrun hhalt hinstances hroll hhold hstart hstep hstop⟩
  · rintro ⟨hrun, hhalt, hinstances, hroll, hhold, -, hstart⟩ hstop hpause hstep
    exact ⟨_, hexec, State.cross_of_pause (s := s.elapse cycles) hrun hhalt hinstances hroll hhold hstart hstep hstop hpause⟩

end Sys2Proof.Machine
end


section
/-! PROOFS. Beats, their loss, the root's hand-over and SYNC_IN (R54, R55, R58, R60, R61, R73, R79), and the reports along the beat tree
(R70, R74, R343, R374). -/

namespace Sys2Proof.Machine

set_option Elab.async false

/-! ### What passing a beat on leaves -/

section
variable (s : State)

theorem State.sendBeat_port (ports : List Nat) (f : BeatFlit) (p : Nat) : ∃ b, (s.sendBeat ports f).port p = { s.port p with beats := b } := by
  rw [State.sendBeat]
  refine List.foldlRecOn (motive := fun u : State => ∃ b, u.port p = { s.port p with beats := b }) _ _ ⟨(s.port p).beats, rfl⟩ fun u hu q _ => ?_
  obtain ⟨b, hb⟩ := hu
  rw [State.onPort_port]
  split
  · split
    · exact ⟨_, by rw [hb]⟩
    · exact ⟨b, hb⟩
  · exact ⟨b, hb⟩

theorem State.forwardBeat_port (port : Nat) (f : BeatFlit) (p : Nat) : ((s.forwardBeat port f).port p).latency = (s.port p).latency ∧
    ((s.forwardBeat port f).port p).lastNakNs = (s.port p).lastNakNs := by
  obtain ⟨b, hb⟩ := s.sendBeat_port (s.beatPorts f.coord (some port)) { f with age := BitVec.ofNat 24 (f.age.toNat + (s.port port).latency.toNat), hops := f.hops + 1 } p
  rw [State.forwardBeat, hb]
  exact ⟨rfl, rfl⟩

/-- A beat's place, by the latency of its port. -/
theorem State.beatPlace_congr {s t : State} {port : Nat} (h : (t.port port).latency = (s.port port).latency) (f : BeatFlit) :
    t.beatPlace port f = s.beatPlace port f := by
  rw [State.beatPlace, State.beatPlace, h]

theorem State.phaseError_congr {s t : State} {port : Nat} (h : (t.port port).latency = (s.port port).latency) (hdial : t.dial = s.dial)
    (hcfg : t.cfg = s.cfg) (f : BeatFlit) : t.phaseError port f = s.phaseError port f := by
  rw [State.phaseError, State.phaseError, State.beatPlace_congr h, State.threshold, State.threshold, State.dialTime, State.dialTime, hdial, hcfg]

theorem State.offLock_congr {s t : State} {port : Nat} (h : (t.port port).latency = (s.port port).latency) (hdial : t.dial = s.dial)
    (hcfg : t.cfg = s.cfg) (f : BeatFlit) : t.offLock port f = s.offLock port f := by
  rw [State.offLock, State.offLock, State.phaseError_congr h hdial hcfg, hcfg]

end

/-! ### The branches of a beat -/

section
variable {s : State} {port : Port} {f : BeatFlit}

/-- A beat of the last 2,000 ns after a NAK does not steer. -/
def State.fresh (s : State) (port : Nat) : Bool := (s.port port).lastNakNs.any fun t => decide (s.dial.ns < t + 2000)

/-- The device's root is the beat's. -/
def State.rooted (s : State) (f : BeatFlit) : State :=
  if (f.epoch - s.dial.rootEpoch).toNat = 0 then s else
    (s.onDial fun d => { d with rootEpoch := f.epoch, rootCoord := BitVec.ofNat 12 (coordNum f.coord), isRoot := false
                                waiting := [], held := [], nextPeriod := none }).onLogs fun l => { l with epochs := satAdd l.epochs 1 }

/-- A beat beyond the limit costs the lock. -/
def State.lockLost (s : State) : State :=
  (((s.onDial fun d => { d with locked := false, missed := 0, heard := false }).onLogs fun l => { l with lockLost := satAdd l.lockLost 1 }).logDial
    0x041 0 0 0 noName 0).haltAtBoundary 3

/-- The trim follows the phase error, but for a beat soon after a NAK. -/
def State.trimmed (s : State) (port : Nat) (f : BeatFlit) : State :=
  if s.fresh port then s else
    s.onDial fun d => { d with trim := Config.trimNext d.trim (s.phaseError port f).1 (s.phaseError port f).2 }

/-- A beat within the limit steers the trim and is adopted. -/
def State.steered (s : State) (port : Nat) (f : BeatFlit) : State := (s.trimmed port f).adopt f

/-- What a beat of the root's epoch does once it has been passed on. -/
def State.received (s : State) (port : Nat) (f : BeatFlit) : State :=
  if !s.dial.locked then (s.acquire port f).adopt f
  else if !s.fresh port && s.offLock port f then s.lockLost
  else (s.steered port f).settle

variable (hup : s.portUp port.val = true)
include hup

theorem exec_beat_of_up : exec (.beat port f) s = .next (
    if !s.dialRuns then s.forwardBeat port.val f
    else if (f.epoch - s.dial.rootEpoch).toNat ≥ 128 then s.onLogs fun l => { l with staleBeats := satAdd l.staleBeats 1 }
    else if s.dial.isRoot && (f.epoch - s.dial.rootEpoch).toNat == 0 then s
    else ((s.rooted f).forwardBeat port.val f).received port.val f) :=
  congrArg Host.Outcome.next (if_neg (by rw [hup]; decide))

variable (hruns : s.dialRuns = true)
include hruns

theorem exec_beat_of_stale (hahead : 128 ≤ (f.epoch - s.dial.rootEpoch).toNat) :
    exec (.beat port f) s = .next (s.onLogs fun l => { l with staleBeats := satAdd l.staleBeats 1 }) := by
  rw [exec_beat_of_up hup, if_neg (by rw [hruns]; decide), if_pos hahead]

theorem exec_beat_of_root (hroot : s.dial.isRoot = true) (hahead : (f.epoch - s.dial.rootEpoch).toNat = 0) : exec (.beat port f) s = .next s := by
  rw [exec_beat_of_up hup, if_neg (by rw [hruns]; decide), hahead, if_neg (by omega), hroot]
  rfl

/-- A beat of a higher epoch. -/
theorem exec_beat_of_ahead (hpos : 0 < (f.epoch - s.dial.rootEpoch).toNat) (hlt : (f.epoch - s.dial.rootEpoch).toNat < 128) :
    exec (.beat port f) s = .next (((s.rooted f).forwardBeat port.val f).received port.val f) := by
  rw [exec_beat_of_up hup, if_neg (by rw [hruns]; decide), if_neg (by omega), if_neg]
  rw [Bool.and_eq_true, beq_iff_eq]
  exact fun h => by omega

/-- A beat of the root's epoch, at another device. -/
theorem exec_beat_of_epoch (hahead : (f.epoch - s.dial.rootEpoch).toNat = 0) (hroot : s.dial.isRoot = false) :
    exec (.beat port f) s = .next ((s.forwardBeat port.val f).received port.val f) := by
  rw [exec_beat_of_up hup, if_neg (by rw [hruns]; decide), hahead, if_neg (by omega), hroot, State.rooted, if_pos hahead]
  rfl

end

section
variable (s : State) (port : Nat) (f : BeatFlit)

theorem State.lockLost_within : s.within [.dial, .logs] s.lockLost :=
  State.haltAtBoundary_within (State.logDial_within (State.onLogs_within (State.onDial_within (State.within_refl s _) (by decide)) (by decide))
    (by decide)) (by decide)

theorem State.steered_within : s.within [.dial] (s.steered port f) :=
  State.adopt_within (s := s.trimmed port f) (State.within_ite (State.within_refl s _) (State.onDial_within (State.within_refl s _) (by decide))) (by decide)

theorem State.received_within : s.within [.dial, .logs, .mbs, .sched, .train] (s.received port f) :=
  State.within_ite (State.adopt_within (State.acquire_within (State.within_refl s _) (by decide)) (by decide)) (State.within_ite
    (State.within_step s.lockLost_within (State.within_refl s _) (by decide))
    (State.settle_within (State.within_step (s.steered_within port f) (State.within_refl s _) (by decide)) (by decide)))

theorem State.logDial_counters (code entry type policy : Nat) (n : Named) (dropped : Nat) :
    (s.logDial code entry type policy n dropped).logs.epochs = s.logs.epochs ∧
    (s.logDial code entry type policy n dropped).logs.lockLost = s.logs.lockLost ∧
    (s.logDial code entry type policy n dropped).logs.beatsLost = s.logs.beatsLost ∧
    (s.logDial code entry type policy n dropped).logs.denials = s.logs.denials ∧
    (s.logDial code entry type policy n dropped).logs.dialNext = s.logs.dialNext + 1 ∧
    (s.logDial code entry type policy n dropped).dial = s.dial := by
  rw [State.logDial, State.countError]
  split <;> exact ⟨rfl, rfl, rfl, rfl, rfl, rfl⟩

theorem State.haltAtBoundary_dial (cause : Nat) : (s.haltAtBoundary cause).dial =
    { s.dial with haltCause := if s.dial.haltCause = 0 then BitVec.ofNat 3 cause else s.dial.haltCause } := by
  rw [State.haltAtBoundary]
  split
  · rfl
  · rfl

/-- Steering changes the trim only. -/
theorem State.trimmed_dial : ∃ x, (s.trimmed port f).dial = { s.dial with trim := x } := by
  rw [State.trimmed]
  split
  · exact ⟨s.dial.trim, rfl⟩
  · exact ⟨_, rfl⟩

/-- Losing the lock. -/
theorem State.lockLost_dial : s.lockLost.dial = { s.dial with
    locked := false, missed := 0, heard := false, haltCause := if s.dial.haltCause = 0 then 3 else s.dial.haltCause } := by
  obtain ⟨-, -, -, -, -, hdial⟩ := State.logDial_counters ((s.onDial fun d => { d with locked := false, missed := 0, heard := false }).onLogs
    fun l => { l with lockLost := satAdd l.lockLost 1 }) 0x041 0 0 0 noName 0
  rw [State.lockLost, State.haltAtBoundary_dial, hdial]
  rfl

theorem State.lockLost_logs : s.lockLost.logs.lockLost = satAdd s.logs.lockLost 1 ∧ s.lockLost.logs.epochs = s.logs.epochs := by
  obtain ⟨hepochs, hlost, -⟩ := State.logDial_counters ((s.onDial fun d => { d with locked := false, missed := 0, heard := false }).onLogs
    fun l => { l with lockLost := satAdd l.lockLost 1 }) 0x041 0 0 0 noName 0
  rw [State.lockLost, State.haltAtBoundary_logs]
  exact ⟨hlost, hepochs⟩

theorem DialState.core_root {d e : DialState} (h : d.core = e.core) : d.rootEpoch = e.rootEpoch ∧ d.rootCoord = e.rootCoord ∧
    d.isRoot = e.isRoot := by
  have hepoch := congrArg DialState.rootEpoch h
  have hcoord := congrArg DialState.rootCoord h
  have hroot := congrArg DialState.isRoot h
  exact ⟨hepoch, hcoord, hroot⟩

/-- The first beat gives the device its place and its period. -/
theorem State.acquire_dial : ∃ step pos period acc, (s.acquire port f).dial = { s.dial with
    locked := true, crossed := false, step := step, pos := pos, periodNs := period, acc := acc, missed := 0, lossLogged := false
    instances := [] } := ⟨_, _, _, _, rfl⟩

theorem State.acquire_adopt_within : s.within [.dial] ((s.acquire port f).adopt f) :=
  State.adopt_within (State.acquire_within (State.within_refl s _) (List.Subset.refl _)) (List.Subset.refl _)

theorem State.adopt_root : (s.adopt f).dial.rootEpoch = s.dial.rootEpoch ∧ (s.adopt f).dial.rootCoord = s.dial.rootCoord ∧
    (s.adopt f).dial.isRoot = s.dial.isRoot := ⟨rfl, rfl, rfl⟩

theorem State.steered_root : (s.steered port f).dial.rootEpoch = s.dial.rootEpoch ∧ (s.steered port f).dial.rootCoord = s.dial.rootCoord ∧
    (s.steered port f).dial.isRoot = s.dial.isRoot := by
  obtain ⟨x, hx⟩ := s.trimmed_dial port f
  obtain ⟨hepoch, hcoord, hroot⟩ := (s.trimmed port f).adopt_root f
  rw [hx] at hepoch hcoord hroot
  rw [State.steered]
  exact ⟨hepoch, hcoord, hroot⟩

/-- What a received beat leaves of the root the device follows. -/
theorem State.received_root : (s.received port f).dial.rootEpoch = s.dial.rootEpoch ∧ (s.received port f).dial.rootCoord = s.dial.rootCoord ∧
    (s.received port f).dial.isRoot = s.dial.isRoot ∧ (s.received port f).logs.epochs = s.logs.epochs := by
  rw [State.received]
  split
  · obtain ⟨step, pos, period, acc, hdial⟩ := s.acquire_dial port f
    obtain ⟨hepoch, hcoord, hroot⟩ := (s.acquire port f).adopt_root f
    rw [hdial] at hepoch hcoord hroot
    exact ⟨hepoch, hcoord, hroot, by rw [(s.acquire_adopt_within port f).logs (by decide)]⟩
  · split
    · rw [s.lockLost_dial]
      exact ⟨rfl, rfl, rfl, s.lockLost_logs.2⟩
    · have hsettle := (State.settle_keepsDial (State.keepsDial_refl (s.steered port f))).core
      obtain ⟨hepoch, hcoord, hroot⟩ := DialState.core_root hsettle
      have hsteered := s.steered_root port f
      refine ⟨hepoch.trans hsteered.1, hcoord.trans hsteered.2.1, hroot.trans hsteered.2.2, ?_⟩
      rw [State.settle_logs, (s.steered_within port f).logs (by decide)]

end

/-! ### The clauses of a beat -/

section
variable {s : State} {port : Port} {f : BeatFlit} (hup : s.portUp port.val = true) (hruns : s.dialRuns = true)
include hup hruns

theorem beat_of_ahead (hpos : 0 < (f.epoch - s.dial.rootEpoch).toNat) (hlt : (f.epoch - s.dial.rootEpoch).toNat < 128) :
    runs (.beat port f) s fun t => t.dial.rootEpoch = f.epoch ∧ t.dial.rootCoord = BitVec.ofNat 12 (coordNum f.coord) ∧
      t.dial.isRoot = false ∧ t.logs.epochs = satAdd s.logs.epochs 1 ∧ s.onlyIn t [.dial, .logs, .mbs, .sched, .train, .links] := by
  have hexec := exec_beat_of_ahead hup hruns hpos hlt
  have hrooted : s.rooted f = (s.onDial fun d => { d with
      rootEpoch := f.epoch, rootCoord := BitVec.ofNat 12 (coordNum f.coord), isRoot := false, waiting := [], held := [], nextPeriod := none }).onLogs fun l => { l with epochs := satAdd l.epochs 1 } := if_neg (by omega)
  have hforward := State.forwardBeat_within (port := port.val) (f := f) (State.within_refl (s.rooted f) [.links]) (List.Subset.refl _)
  obtain ⟨hepoch, hcoord, hroot, hepochs⟩ := State.received_root ((s.rooted f).forwardBeat port.val f) port.val f
  rw [hforward.dial (by decide), hrooted] at hepoch hcoord hroot
  rw [hforward.logs (by decide), hrooted] at hepochs
  rw [hrooted] at hexec
  refine ⟨_, hexec, hepoch, hcoord, hroot, hepochs, onlyIn_of_exec hexec⟩

/-- The first beat of a device without lock. -/
theorem beat_of_unlocked (hahead : (f.epoch - s.dial.rootEpoch).toNat = 0) (hroot : s.dial.isRoot = false) (hlocked : s.dial.locked = false) :
    runs (.beat port f) s fun t =>
      let place := ((f.step.toNat * 65536 + f.pos.toNat) * (4 * max f.curPeriod.toNat 1) +
        (f.age.toNat + (s.port port.val).latency.toNat) * 65536) / (4 * max f.curPeriod.toNat 1)
      t.dial.locked = true ∧ t.dial.crossed = false ∧ t.dial.step = BitVec.ofNat 48 (place / 65536) ∧
      t.dial.pos = BitVec.ofNat 16 (place % 65536) ∧ t.dial.missed = 0 ∧
      t.dial.periodNs = BitVec.ofNat 40 (ceilDiv (f.curPeriod.toNat * 8) (8 + s.cfg.sundial.stretchQ * f.grants.toNat)) ∧
      s.onlyIn t [.dial, .links] := by
  have hexec := exec_beat_of_epoch hup hruns hahead hroot
  have hforward := State.forwardBeat_within (port := port.val) (f := f) (State.within_refl s [.links]) (List.Subset.refl _)
  have hlatency := (s.forwardBeat_port port.val f port.val).1
  have hunlocked : (s.forwardBeat port.val f).dial.locked = false := by rw [hforward.dial (by decide)]; exact hlocked
  rw [State.received, if_pos (by rw [hunlocked]; rfl)] at hexec
  have hplace := State.beatPlace_congr hlatency f
  have hcfg := hforward.cfg (by decide)
  have hwithin := State.adopt_within (f := f) (State.acquire_within (port := port.val) (f := f)
    (State.forwardBeat_within (port := port.val) (f := f) (State.within_refl s [.dial, .links]) (by decide)) (by decide)) (by decide)
  refine ⟨_, hexec, rfl, rfl, ?_, ?_, rfl, ?_, hwithin.1⟩
  · exact congrArg (fun b : Nat × Nat => BitVec.ofNat 48 (b.1 / b.2 / 65536)) hplace
  · exact congrArg (fun b : Nat × Nat => BitVec.ofNat 16 (b.1 / b.2 % 65536)) hplace
  · exact congrArg (fun c : ImageCfg => BitVec.ofNat 40 (ceilDiv (f.curPeriod.toNat * 8) (8 + c.sundial.stretchQ * f.grants.toNat))) hcfg

/-- A beat too far off. -/
theorem beat_of_late (hahead : (f.epoch - s.dial.rootEpoch).toNat = 0) (hroot : s.dial.isRoot = false) (hlocked : s.dial.locked = true)
    (hfresh : s.fresh port.val = false) (hoff : s.offLock port.val f = true) : runs (.beat port f) s fun t =>
      t.dial.locked = false ∧ t.logs.lockLost = satAdd s.logs.lockLost 1 ∧
      t.dial.haltCause = (if s.dial.haltCause = 0 then 3 else s.dial.haltCause) ∧ t.dial.pos = s.dial.pos ∧ t.dial.step = s.dial.step ∧
      s.onlyIn t [.dial, .logs, .links] := by
  have hexec := exec_beat_of_epoch hup hruns hahead hroot
  have hforward := State.forwardBeat_within (port := port.val) (f := f) (State.within_refl s [.links]) (List.Subset.refl _)
  obtain ⟨hlatency, hnak⟩ := s.forwardBeat_port port.val f port.val
  have hdial := hforward.dial (by decide)
  have hfresh' : (s.forwardBeat port.val f).fresh port.val = false := by rw [State.fresh, hnak, hdial]; exact hfresh
  have hoff' : (s.forwardBeat port.val f).offLock port.val f = true := by rw [State.offLock_congr hlatency hdial (hforward.cfg (by decide))]; exact hoff
  have hlost := (s.forwardBeat port.val f).lockLost_dial
  rw [State.received, if_neg (by rw [hdial, hlocked]; decide), if_pos (by rw [hfresh', hoff']; rfl)] at hexec
  rw [hdial] at hlost
  refine ⟨_, hexec, by rw [hlost], ?_, by rw [hlost], by rw [hlost], by rw [hlost], ?_⟩
  · rw [(State.lockLost_logs _).1, hforward.logs (by decide)]
  · exact (State.within_step (State.lockLost_within _) (State.forwardBeat_within (State.within_refl s [.dial, .logs, .links]) (by decide)) (by decide)).1

/-- A beat within the limit. -/
theorem beat_of_near (hahead : (f.epoch - s.dial.rootEpoch).toNat = 0) (hroot : s.dial.isRoot = false) (hlocked : s.dial.locked = true)
    (hnear : ¬ (s.fresh port.val = false ∧ s.offLock port.val f = true)) : runs (.beat port f) s fun t => ∃ v : State,
      t = v.settle ∧ v.dial.locked = true ∧ v.dial.missed = 0 ∧ v.dial.lossLogged = false ∧ v.dial.extRefActive = f.extRef ∧
      v.dial.nextPeriod = (if f.nextValid = true then some f.nextPeriod else s.dial.nextPeriod) ∧
      v.dial.grants = (if f.step = s.dial.step then f.grants else s.dial.grants) ∧ v.dial.pos = s.dial.pos ∧ v.dial.step = s.dial.step ∧
      s.onlyIn v [.dial, .links] := by
  have hexec := exec_beat_of_epoch hup hruns hahead hroot
  have hforward := State.forwardBeat_within (port := port.val) (f := f) (State.within_refl s [.links]) (List.Subset.refl _)
  obtain ⟨hlatency, hnak⟩ := s.forwardBeat_port port.val f port.val
  have hdial := hforward.dial (by decide)
  have hno : ¬ ((!(s.forwardBeat port.val f).fresh port.val && (s.forwardBeat port.val f).offLock port.val f) = true) := by
    rw [State.fresh, hnak, hdial, State.offLock_congr hlatency hdial (hforward.cfg (by decide)), Bool.and_eq_true, Bool.not_eq_true']
    exact hnear
  rw [State.received, if_neg (by rw [hdial, hlocked]; decide), if_neg hno] at hexec
  obtain ⟨x, hx⟩ := (s.forwardBeat port.val f).trimmed_dial port.val f
  rw [hdial] at hx
  refine ⟨_, hexec, (s.forwardBeat port.val f).steered port.val f, rfl, ?_⟩
  have hwithin := State.within_step ((s.forwardBeat port.val f).steered_within port.val f)
    (State.forwardBeat_within (port := port.val) (f := f) (State.within_refl s [.dial, .links]) (by decide)) (by decide)
  rw [State.steered] at hwithin ⊢
  generalize (s.forwardBeat port.val f).trimmed port.val f = u at hx hwithin ⊢
  have hadopt : (u.adopt f).dial = (u.adopt f).dial := rfl
  conv at hadopt => rhs; rw [State.adopt, State.onDial_dial, hx]
  rw [hadopt]
  exact ⟨hlocked, rfl, rfl, rfl, rfl, rfl, rfl, rfl, hwithin.1⟩

end

/-! ### Lost beats, takeover, SYNC_IN -/

section
variable {s : State}

theorem beatLost_of_limit (hlocked : s.dial.locked = true) (hroot : s.dial.isRoot = false) (hlogged : s.dial.lossLogged = false)
    (hlimit : s.cfg.sundial.beatLossLimit ≤ s.dial.missed) : runs .beatLost s fun t =>
      t.dial = { s.dial with lossLogged := true } ∧ t.logs.beatsLost = satAdd s.logs.beatsLost 1 ∧ s.onlyIn t [.dial, .logs] := by
  have hexec : exec .beatLost s = .next (((s.onLogs fun l => { l with beatsLost := satAdd l.beatsLost 1 }).logDial 0x042 0 0 0 noName 0).onDial
      fun d => { d with lossLogged := true }) := by
    refine congrArg Host.Outcome.next (if_pos ?_)
    rw [hlocked, hroot, hlogged, decide_eq_true hlimit]
    rfl
  obtain ⟨-, -, hlost, -, -, hdial⟩ := State.logDial_counters (s.onLogs fun l => { l with beatsLost := satAdd l.beatsLost 1 }) 0x042 0 0 0 noName 0
  refine ⟨_, hexec, ?_, hlost, onlyIn_of_exec hexec⟩
  rw [State.onDial_dial, hdial]
  rfl

theorem rootTakeover_of_limit {k : Nat} (hbackup : s.backupNumber = some k) (hlocked : s.dial.locked = true) (hroot : s.dial.isRoot = false)
    (hlimit : k * s.cfg.sundial.beatLossLimit ≤ s.dial.missed) : runs .rootTakeover s fun t =>
      t.dial.rootEpoch = s.dial.rootEpoch + 1 ∧ t.dial.isRoot = true ∧ t.dial.rootCoord = BitVec.ofNat 12 (coordNum s.coord) ∧
      t.dial.step = s.dial.step ∧ t.dial.pos = s.dial.pos ∧ t.logs.epochs = satAdd s.logs.epochs 1 ∧ s.onlyIn t [.dial, .logs] := by
  have hdue : (s.dial.locked && !s.dial.isRoot && decide (s.dial.missed ≥ k * s.cfg.sundial.beatLossLimit)) = true := by
    rw [hlocked, hroot, decide_eq_true hlimit]
    rfl
  have hexec : exec .rootTakeover s = .next (((s.onDial fun d => { d with
      rootEpoch := d.rootEpoch + 1, isRoot := true, rootCoord := BitVec.ofNat 12 (coordNum s.coord), missed := 0, heard := false
      reportMin := none, reportEarly := none, waiting := [], held := [], nextPeriod := none, calm := 0
      settledFrom := d.step.toNat + 1 }).onLogs fun l => { l with epochs := satAdd l.epochs 1 }).logDial 0x043 0 0 0 noName 0) := by
    change execRootTakeover s = _
    rw [execRootTakeover, hbackup]
    exact congrArg Host.Outcome.next (if_pos hdue)
  obtain ⟨hepochs, -, -, -, -, hdial⟩ := State.logDial_counters ((s.onDial fun d => { d with
      rootEpoch := d.rootEpoch + 1, isRoot := true, rootCoord := BitVec.ofNat 12 (coordNum s.coord), missed := 0, heard := false
      reportMin := none, reportEarly := none, waiting := [], held := [], nextPeriod := none, calm := 0
      settledFrom := d.step.toNat + 1 }).onLogs fun l => { l with epochs := satAdd l.epochs 1 }) 0x043 0 0 0 noName 0
  refine ⟨_, hexec, ?_, ?_, ?_, ?_, ?_, hepochs, onlyIn_of_exec hexec⟩ <;> rw [hdial] <;> rfl

theorem State.syncMissing_of_active (h : s.dial.extRefActive = true) : s.onlyIn s.syncMissing [.dial, .logs] ∧ s.syncMissing.dial =
    { s.dial with extRefActive := false, nextPeriod := some (BitVec.ofNat 40 (s.dial.syncPeriod.getD s.dial.periodNs.toNat)) } := by
  refine ⟨(State.syncMissing_within (State.within_refl s _) (List.Subset.refl _)).1, ?_⟩
  rw [State.syncMissing, if_pos h]
  exact (State.logDial_counters _ 0x045 0 0 0 noName 0).2.2.2.2.2

theorem State.syncMissing_of_inactive (h : s.dial.extRefActive = false) : s.syncMissing = s := if_neg (by rw [h]; exact Bool.false_ne_true)

theorem exec_syncInLost_of_configured (h : s.syncConfigured = true) : exec .syncInLost s = .next s.syncMissing :=
  congrArg Host.Outcome.next (if_pos h)

/-- An edge in its limits (R79). -/
def State.syncWithin (s : State) (interval : Nat) : Prop :=
  field s.cfg.sundial.periodMin.toNat 0 40 ≤ interval ∧ interval ≤ field s.cfg.sundial.periodMax.toNat 0 40 ∧
    (s.dial.extRefActive = true → interval * 100 ≤ s.dial.syncPeriod.getD s.dial.periodNs.toNat * 101)

theorem State.syncWithin_iff {interval : Nat} :
    (decide (interval < field s.cfg.sundial.periodMin.toNat 0 40 ∨ field s.cfg.sundial.periodMax.toNat 0 40 < interval) ||
      decide (s.dial.extRefActive = true ∧ interval * 100 > s.dial.syncPeriod.getD s.dial.periodNs.toNat * 101)) = true ↔
    ¬ s.syncWithin interval := by
  rw [Bool.or_eq_true, decide_eq_true_eq, decide_eq_true_eq, State.syncWithin]
  constructor
  · rintro ((h | h) | ⟨hactive, h⟩) ⟨hmin, hmax, hrate⟩
    · omega
    · omega
    · exact absurd (hrate hactive) (by omega)
  · intro h
    by_contra hno
    rw [not_or, not_or, not_and] at hno
    obtain ⟨⟨hmin, hmax⟩, hrate⟩ := hno
    exact h ⟨by omega, by omega, fun hactive => by have := hrate hactive; omega⟩

theorem exec_syncInEdge_of_outside {interval : Nat} (h : s.syncConfigured = true) (hout : ¬ s.syncWithin interval) :
    exec (.syncInEdge interval) s = .next s.syncMissing :=
  congrArg Host.Outcome.next ((if_neg (by rw [h]; decide)).trans (if_pos (State.syncWithin_iff.2 hout)))

theorem syncInEdge_of_within {interval : Nat} (h : s.syncConfigured = true) (hin : s.syncWithin interval) :
    let period := s.dial.periodNs.toNat
    let into := s.dial.pos.toNat * period / 65536
    let off : Int := if into * 2 ≤ period then (into : Int) else (into : Int) - (period : Int)
    let close : Int := max (-((interval / 100 : Nat) : Int)) (min ((interval / 100 : Nat) : Int) off)
    runs (.syncInEdge interval) s fun t => s.onlyIn t [.dial] ∧ t.dial = { s.dial with
      extRefActive := true, syncOffset := off - close, syncPeriod := some interval
      nextPeriod := some (BitVec.ofNat 40 ((interval : Int) + close).toNat) } :=
  ⟨_, congrArg Host.Outcome.next ((if_neg (by rw [h]; decide)).trans (if_neg fun hout => State.syncWithin_iff.1 hout hin)),
    (State.onDial_within (State.within_refl s [.dial]) (List.Subset.refl _)).1, rfl⟩

end

/-- Settles O25: a beat's branches are those of its epoch, the device's lock and its phase error; the others change the dial and its log. -/
theorem beats : Obligations.Beats := by
  unfold Obligations.Beats
  refine ⟨fun s port f hup => ⟨fun hruns => ?_, fun hruns hahead => ?_, fun hruns hpos hlt => beat_of_ahead hup hruns hpos hlt,
    fun hruns hahead hroot => ⟨_, exec_beat_of_root hup hruns hroot hahead, rfl⟩,
    fun hruns hahead hroot hlocked => beat_of_unlocked hup hruns hahead hroot hlocked, fun hruns hahead hlate => ?_,
    fun hruns hahead hroot hlocked hnear => ?_⟩, fun s => ⟨beatLost_of_limit, fun k hbackup hlocked hroot hlimit =>
      rootTakeover_of_limit hbackup hlocked hroot hlimit, fun hsync => ⟨fun hactive => ?_, fun hinactive => ?_, fun interval => ⟨fun hin => ?_,
        fun hout hactive => ?_, fun hout hinactive => ?_⟩⟩⟩⟩
  · refine ⟨_, ?_, rfl, (State.forwardBeat_within (port := port.val) (f := f) (State.within_refl s _) (List.Subset.refl _)).1⟩
    rw [exec_beat_of_up hup, if_pos (by rw [hruns]; rfl)]
  · exact ⟨_, exec_beat_of_stale hup hruns hahead, rfl, (State.onLogs_within (State.within_refl s _) (List.Subset.refl _)).1⟩
  · obtain ⟨hroot, hlocked, hfresh, hoff⟩ := hlate
    exact beat_of_late hup hruns hahead hroot hlocked hfresh hoff
  · exact beat_of_near hup hruns hahead hroot hlocked fun h => hnear ⟨hroot, hlocked, h.1, h.2⟩
  · exact ⟨_, exec_syncInLost_of_configured hsync, State.syncMissing_of_active hactive⟩
  · exact ⟨_, exec_syncInLost_of_configured hsync, State.syncMissing_of_inactive hinactive⟩
  · exact syncInEdge_of_within hsync hin
  · exact ⟨_, exec_syncInEdge_of_outside hsync hout, State.syncMissing_of_active hactive⟩
  · exact ⟨_, exec_syncInEdge_of_outside hsync hout, State.syncMissing_of_inactive hinactive⟩

/-! ### Reports along the beat tree -/

section
variable {s : State}

/-- What travels up does not depend on the reports held. -/
theorem State.sendUp_links_congr {f : DialState → DialState} (hroot : (f s.dial).rootCoord = s.dial.rootCoord) (x : Flit) :
    ((s.onDial f).sendUp x).links = (s.sendUp x).links := by
  have hof : (s.onDial f).rootOf = s.rootOf := congrArg (fun c : BitVec 12 => coordFrom c.toNat) hroot
  have hparent : (s.onDial f).treeParent = s.treeParent := by
    rw [State.treeParent, State.treeParent]
    simp only [State.fromRoot, hof]
    rfl
  rw [State.sendUp, State.sendUp, hparent]
  cases s.treeParent with
  | none => rfl
  | some p =>
    change (if s.portUp p then (s.onDial f).sendControl p x else s.onDial f).links = (if s.portUp p then s.sendControl p x else s).links
    split <;> rfl

/-- Beat positions of the grants of a step. -/
def State.grantsOf (s : State) (step : BitVec 48) : List Nat :=
  if step = s.dial.step then s.dial.grantBeats else (s.dial.granted.filter fun g => g.1 == step.toNat).map (·.2)

theorem State.takeRequest_eq {entry : Nat} {step : BitVec 48} {e : DialEntry} (he : s.dialEntry entry = some e) :
    s.takeRequest entry step.toNat =
      if (s.grantsOf step).any fun b => decide (e.closes ≤ b) then s
      else if s.denies step.toNat then (s.onLogs fun l => { l with denials := satAdd l.denials 1 }).logDial 0x044 entry e.type 1 noName 0
      else s.onDial fun x => { x with waiting := x.waiting ++ [(entry, step.toNat)] } := by
  have hstep : (step.toNat = s.dial.step.toNat) = (step = s.dial.step) := propext BitVec.toNat_inj
  rw [State.takeRequest, he, State.grantsOf]
  simp only [hstep]

variable (hruns : s.dialRuns = true)
include hruns

theorem exec_stretchRequest_of_root {source : Coord} {entry : BitVec 10} {step : BitVec 48} (hroot : s.dial.isRoot = true) :
    exec (.stretchRequest source entry step) s = .next (s.askRoot entry.toNat step.toNat) :=
  congrArg Host.Outcome.next ((if_neg (by rw [hruns]; decide)).trans (if_pos hroot))

theorem exec_stretchRequest_of_other {source : Coord} {entry : BitVec 10} {step : BitVec 48} (hroot : s.dial.isRoot = false) :
    exec (.stretchRequest source entry step) s = .next (s.sendUp (treeUp 1 0 source entry.toNat step.toNat)) :=
  congrArg Host.Outcome.next ((if_neg (by rw [hruns]; decide)).trans (if_neg (by rw [hroot]; exact Bool.false_ne_true)))

/-- A stretch request at the root. -/
theorem stretchRequest_of_root {source : Coord} {entry : BitVec 10} {step : BitVec 48} {e : DialEntry} (hroot : s.dial.isRoot = true)
    (he : s.dialEntry entry.toNat = some e) :
    (s.roleUp 2 = false → runs (.stretchRequest source entry step) s fun t =>
      t.dial = { s.dial with held := s.dial.held ++ [(entry.toNat, step.toNat)] } ∧ s.onlyIn t [.dial]) ∧
    (s.roleUp 2 = true → (∃ b ∈ s.grantsOf step, e.closes ≤ b) → runs (.stretchRequest source entry step) s fun t => t = s) ∧
    (s.roleUp 2 = true → (∀ b ∈ s.grantsOf step, b < e.closes) → s.denies step.toNat = false → runs (.stretchRequest source entry step) s fun t =>
      t.dial = { s.dial with waiting := s.dial.waiting ++ [(entry.toNat, step.toNat)] } ∧ s.onlyIn t [.dial]) ∧
    (s.roleUp 2 = true → (∀ b ∈ s.grantsOf step, b < e.closes) → s.denies step.toNat = true → runs (.stretchRequest source entry step) s fun t =>
      t.logs.denials = satAdd s.logs.denials 1 ∧ t.logs.dialNext = s.logs.dialNext + 1 ∧ s.onlyIn t [.logs]) := by
  have hexec := exec_stretchRequest_of_root (source := source) (entry := entry) (step := step) hruns hroot
  have hnone (hbeats : ∀ b ∈ s.grantsOf step, b < e.closes) : ¬ ((s.grantsOf step).any fun b => decide (e.closes ≤ b)) = true := by
    rw [List.any_eq_true]
    rintro ⟨b, hb, hle⟩
    exact absurd (hbeats b hb) (Nat.not_lt.2 (of_decide_eq_true hle))
  refine ⟨fun hrole => ?_, fun hrole hserved => ?_, fun hrole hbeats hdenies => ?_, fun hrole hbeats hdenies => ?_⟩
  · rw [State.askRoot, if_neg (by rw [hrole]; exact Bool.false_ne_true)] at hexec
    exact ⟨_, hexec, rfl, (State.onDial_within (State.within_refl s _) (List.Subset.refl _)).1⟩
  · obtain ⟨b, hb, hle⟩ := hserved
    rw [State.askRoot, if_pos hrole, State.takeRequest_eq he, if_pos (List.any_eq_true.2 ⟨b, hb, decide_eq_true hle⟩)] at hexec
    exact ⟨_, hexec, rfl⟩
  · rw [State.askRoot, if_pos hrole, State.takeRequest_eq he, if_neg (hnone hbeats), if_neg (by rw [hdenies]; exact Bool.false_ne_true)] at hexec
    exact ⟨_, hexec, rfl, (State.onDial_within (State.within_refl s _) (List.Subset.refl _)).1⟩
  · rw [State.askRoot, if_pos hrole, State.takeRequest_eq he, if_neg (hnone hbeats), if_pos hdenies] at hexec
    obtain ⟨-, -, -, hdenials, hnext, -⟩ := State.logDial_counters (s.onLogs fun l => { l with denials := satAdd l.denials 1 }) 0x044 entry.toNat e.type
      1 noName 0
    exact ⟨_, hexec, hdenials, hnext, (State.logDial_within (State.onLogs_within (State.within_refl s _) (by decide)) (by decide)).1⟩

variable {port : Port} (hup : s.portUp port.val = true)
include hup

theorem exec_slackReport_of_up {step : BitVec 48} {value : BitVec 16} : exec (.slackReport port step value) s = .next (
    if step = s.dial.step then s.onDial fun d => { d with reportEarly := leastReport d.reportEarly (signed value.toNat 16) }
    else if step.toNat + 1 ≠ s.dial.step.toNat || (s.dial.isRoot && decide (s.dial.pos.toNat ≥ 32768)) then
      s.onLogs fun l => { l with lateReports := satAdd l.lateReports 1 }
    else
      let s := s.onDial fun d => { d with reportMin := leastReport d.reportMin (signed value.toNat 16) }
      if s.dial.isRoot then s else s.sendUp (treeUp 0 (toField (s.dial.reportMin.getD 0) 16) ⟨0, 0, 0⟩ 0 step.toNat)) :=
  congrArg Host.Outcome.next (if_neg (by rw [hruns, hup]; decide))

/-- A slack report (R74). -/
theorem slackReport_of_up {step : BitVec 48} {value : BitVec 16} :
    let least (a : Option Int) : Int := a.elim (signed value.toNat 16) fun x => min x (signed value.toNat 16)
    let late : Prop := step ≠ s.dial.step ∧ (step.toNat + 1 ≠ s.dial.step.toNat ∨ s.dial.isRoot = true ∧ 32768 ≤ s.dial.pos.toNat)
    (step = s.dial.step → runs (.slackReport port step value) s fun t =>
      t.dial = { s.dial with reportEarly := some (least s.dial.reportEarly) } ∧ s.onlyIn t [.dial]) ∧
    (step ≠ s.dial.step → ¬ late → s.dial.isRoot = true → runs (.slackReport port step value) s fun t =>
      t.dial = { s.dial with reportMin := some (least s.dial.reportMin) } ∧ s.onlyIn t [.dial]) ∧
    (step ≠ s.dial.step → ¬ late → s.dial.isRoot = false → runs (.slackReport port step value) s fun t =>
      t.dial = { s.dial with reportMin := some (least s.dial.reportMin) } ∧
      t.links = (s.sendUp (treeUp 0 (toField (least s.dial.reportMin) 16) ⟨0, 0, 0⟩ 0 step.toNat)).links ∧ s.onlyIn t [.dial, .links]) ∧
    (late → runs (.slackReport port step value) s fun t =>
      t.logs = { s.logs with lateReports := satAdd s.logs.lateReports 1 } ∧ s.onlyIn t [.logs]) := by
  intro least late
  have hexec := exec_slackReport_of_up (step := step) (value := value) hruns hup
  have hlate : (step.toNat + 1 ≠ s.dial.step.toNat || (s.dial.isRoot && decide (s.dial.pos.toNat ≥ 32768))) = true ↔
      (step.toNat + 1 ≠ s.dial.step.toNat ∨ s.dial.isRoot = true ∧ 32768 ≤ s.dial.pos.toNat) := by
    rw [Bool.or_eq_true, Bool.and_eq_true, decide_eq_true_eq, decide_eq_true_eq]
  refine ⟨fun hnow => ?_, fun hne hno hroot => ?_, fun hne hno hroot => ?_, fun ⟨hne, hl⟩ => ?_⟩
  · rw [if_pos hnow] at hexec
    exact ⟨_, hexec, rfl, (State.onDial_within (State.within_refl s _) (List.Subset.refl _)).1⟩
  · rw [if_neg hne, if_neg fun h => hno ⟨hne, hlate.1 h⟩] at hexec
    refine ⟨_, hexec.trans (congrArg Host.Outcome.next (if_pos hroot)), rfl, (State.onDial_within (State.within_refl s _) (List.Subset.refl _)).1⟩
  · rw [if_neg hne, if_neg fun h => hno ⟨hne, hlate.1 h⟩] at hexec
    have hother : ¬ (s.onDial fun d => { d with reportMin := leastReport d.reportMin (signed value.toNat 16) }).dial.isRoot = true := by
      rw [State.onDial_dial, hroot]
      exact Bool.false_ne_true
    refine ⟨_, hexec.trans (congrArg Host.Outcome.next (if_neg hother)), ?_, ?_, ?_⟩
    · exact (State.sendUp_within (State.within_refl _ [.links]) (List.Subset.refl _)).dial (by decide)
    · exact State.sendUp_links_congr rfl _
    · exact (State.sendUp_within (State.onDial_within (State.within_refl s _) (by decide)) (by decide)).1
  · rw [if_neg hne, if_pos (hlate.2 hl)] at hexec
    exact ⟨_, hexec, rfl, (State.onLogs_within (State.within_refl s _) (List.Subset.refl _)).1⟩

theorem exec_reshardCompletionReport_of_up {step : BitVec 48} : exec (.reshardCompletionReport port step) s = .next (
    if step != s.dial.step then s else if s.dial.isRoot then s.countCompletion else s.sendUp (treeUp 2 0 ⟨0, 0, 0⟩ 0 step.toNat)) := by
  change execReshardCompletionReport port step s = _
  rw [execReshardCompletionReport, hruns, hup]
  rfl

omit hruns hup

theorem State.countCompletion_leaves (s : State) : s.countCompletion.tables = { s.tables with reports := s.tables.reports + 1 } ∧
    s.countCompletion.dial.go = (if s.jobSize ≤ s.tables.reports + 1 then true else s.dial.go) := by
  have hcount : s.countCompletion = if s.tables.reports + 1 ≥ s.jobSize then
      (s.onTables fun t => { t with reports := t.reports + 1 }).onDial fun d => { d with go := true }
      else s.onTables fun t => { t with reports := t.reports + 1 } := rfl
  rw [hcount]
  by_cases h : s.jobSize ≤ s.tables.reports + 1
  · rw [if_pos h, if_pos h]
    exact ⟨rfl, rfl⟩
  · rw [if_neg h, if_neg h]
    exact ⟨rfl, rfl⟩

end

/-- Settles O26: the root acts on a report by the beats it has granted, its role and the report's step; other devices pass it on. -/
theorem treeReports : Obligations.TreeReports := by
  unfold Obligations.TreeReports
  refine fun s hruns => ⟨fun source entry step e hroot he => stretchRequest_of_root hruns hroot he, fun source entry step hroot => ?_,
    fun port step value hup => slackReport_of_up hruns hup, fun port hup => ⟨fun hroot => ?_, fun hroot => ?_, fun step hne => ?_⟩⟩
  · exact ⟨_, exec_stretchRequest_of_other hruns hroot, rfl, (State.sendUp_within (State.within_refl s _) (List.Subset.refl _)).1⟩
  · have hexec := exec_reshardCompletionReport_of_up (step := s.dial.step) hruns hup
    rw [if_neg (by simp), if_pos hroot] at hexec
    exact ⟨_, hexec, s.countCompletion_leaves.1, s.countCompletion_leaves.2, (State.countCompletion_within (State.within_refl s _)
      (List.Subset.refl _)).1⟩
  · have hexec := exec_reshardCompletionReport_of_up (step := s.dial.step) hruns hup
    rw [if_neg (by simp), if_neg (by rw [hroot]; exact Bool.false_ne_true)] at hexec
    exact ⟨_, hexec, rfl, (State.sendUp_within (State.within_refl s _) (List.Subset.refl _)).1⟩
  · have hexec := exec_reshardCompletionReport_of_up (step := step) hruns hup
    rw [if_pos (bne_iff_ne.2 hne)] at hexec
    exact ⟨_, hexec, rfl⟩

end Sys2Proof.Machine
end


section
/-! PROOFS. Dispatch, completion and time-outs of task contexts (R65, R330, R336, R338, R339). -/

namespace Sys2Proof.Machine

set_option Elab.async false

/-! ### Contexts of a region -/

theorem mem_of_lookupNat {α : Type} {k : Nat} {a : α} {l : List (Nat × α)} (h : lookupNat k l = some a) : (k, a) ∈ l := by
  induction l with
  | nil => simp [lookupNat] at h
  | cons x l ih =>
    obtain ⟨j, b⟩ := x
    rw [lookupNat] at h
    split at h
    · next hj =>
      obtain rfl := Option.some.inj h
      exact hj ▸ List.mem_cons_self
    · exact List.mem_cons_of_mem _ (ih h)

section
variable {s : State} {c : CtxId} {x : TaskContext}

/-- The region that holds a context. -/
theorem State.region_of_ctx (hctx : s.ctx c = some x) : ∃ r, s.sched[c.region.val]? = some r ∧ lookupNat c.number r.contexts = some x :=
  Option.bind_eq_some_iff.1 hctx

theorem State.onRegion_ctx {r : RegionSched} (hr : s.sched[c.region.val]? = some r) (f : RegionSched → RegionSched) :
    (s.onRegion c.region.val f).ctx c = lookupNat c.number (f r).contexts := by
  simp [State.ctx, modifyAt, hr]

theorem State.onRegion_getElem {i : Nat} {r : RegionSched} (hr : s.sched[i]? = some r) (f : RegionSched → RegionSched) :
    (s.onRegion i f).sched[i]? = some (f r) := by
  simp [modifyAt, hr]

theorem State.ctx_congr {t : State} (h : t.sched = s.sched) : t.ctx c = s.ctx c := by rw [State.ctx, State.ctx, h]

end

/-! ### Dispatch (R336) -/

section
variable (s : State) (r unit : Nat)

/-- The held context of lowest key that a free unit can run. -/
def State.choice : Option ((Nat × TaskContext) × (Op × Nat)) :=
  ((s.sched.getD r RegionSched.reset).ready s.run.c unit false).findSome? fun x => (s.runnable r x.2).map fun y => (x, y)

theorem State.dispatch_of_none (h : s.choice r unit = none) : s.dispatch r unit = s := by
  rw [State.dispatch]
  dsimp only
  rw [State.choice] at h
  rw [h]

/-- The micro-batch begins, and its forward part takes its copies. -/
def State.begun (s : State) (x : TaskContext) (o : Op) : State :=
  let s := if x.mb.toNat < 2048 then s.startMb x.mb.toNat x.step.toNat else s
  if x.part then s else s.takeCopies x.mb.toNat x.step.toNat o

/-- A part recomputes where its micro-batch says so. -/
def State.recomputes (s : State) (x : TaskContext) (o : Op) : Bool :=
  x.part && (s.mbOf x.mb.toNat x.step.toNat).any fun m => (o.stashesPre && m.recompute.contains (markOf x.op.toNat true)) ||
    (s.slotCfg.forwardValues o).any fun i => m.recompute.contains i || s.slotCfg.keptBy i == .regather

/-- The context runs on its unit. -/
def State.placed (s : State) (r k : Nat) (x : TaskContext) (o : Op) (u : Nat) : State :=
  s.onRegion r fun y =>
    { y.setCtx k { x with state := 3, unitIndex := BitVec.ofNat 4 u, recompute := s.recomputes x o } with dispatched := y.dispatched + 1 }

/-- What the operation's kind adds: a block's segment, a table under update, a FILL's place in the queue, a basket. -/
def State.engaged (s : State) (r k : Nat) (x : TaskContext) (o : Op) (u : Nat) : State :=
  match o.body with
  | .transform q => s.onMb x.mb.toNat x.step.toNat fun m =>
      if x.part || (pairOf q.out m.segments).isSome then m else { m with segments := insertKey q.out u m.segments }
  | .optimize p =>
    match s.slotCfg.tableOf s.cfg.tables p.target with
    | some tb => s.onTables fun x => { x with updating := insertNat tb.id x.updating }
    | none => s
  | .fill _ _ => (s.onMemory fun m => { m with fill := { m.fill with queue := m.fill.queue ++ [(⟨Fin.ofNat 4 r, k⟩ : CtxId)] } }).runFills
  | .sample _ _ _ _ => s.onCursor (bit (decide (1024 ≤ x.mb.toNat))) fun c => { c with baskets := c.baskets + 1 }
  | _ => s

theorem State.dispatch_of_some {k : Nat} {x : TaskContext} {o : Op} {u : Nat} (h : s.choice r unit = some ((k, x), (o, u))) :
    s.dispatch r unit = (((s.begun x o).placed r k x o u).engaged r k x o u).settle := by
  rw [State.choice] at h
  rw [State.dispatch]
  dsimp only
  rw [h]
  rfl

variable {s r} {k : Nat} {x : TaskContext} {o : Op} {u : Nat}

theorem State.begun_sched (s : State) (x : TaskContext) (o : Op) : (s.begun x o).sched = s.sched := by
  have hstart : (if x.mb.toNat < 2048 then s.startMb x.mb.toNat x.step.toNat else s).sched = s.sched := by
    split
    · exact (State.startMb_within (State.within_refl s [.mbs]) (List.Subset.refl _)).sched (by decide)
    · rfl
  rw [State.begun]
  split
  · exact hstart
  · exact ((State.takeCopies_within (State.within_refl _ [.mbs]) (List.Subset.refl _)).sched (by decide)).trans hstart

theorem State.engaged_sched (s : State) (r k : Nat) (x : TaskContext) (o : Op) (u : Nat) : (s.engaged r k x o u).sched = s.sched := by
  rw [State.engaged]
  split
  · rfl
  · split <;> rfl
  · exact (State.runFills_within (State.within_refl _ [.memory]) (List.Subset.refl _)).sched (by decide)
  · rfl
  · rfl

theorem State.choice_region (h : s.choice r unit = some ((k, x), (o, u))) : ∃ y, s.sched[r]? = some y := by
  cases hy : s.sched[r]? with
  | some y => exact ⟨y, rfl⟩
  | none =>
    have hreset : s.sched.getD r RegionSched.reset = RegionSched.reset := by rw [List.getD_eq_getElem?_getD, hy]; rfl
    rw [State.choice, hreset] at h
    exact absurd h (by simp [RegionSched.ready, RegionSched.reset, sortBy])

end

/-- Settles O27: the dispatched context is the one of the choice, on its region's schedule; what follows leaves the schedule to the final settle. -/
theorem dispatching : Obligations.Dispatching := by
  unfold Obligations.Dispatching
  intro s region cls held choice
  have hexec : exec (.dispatch region cls) s = .next (s.settle.dispatch region.val (classUnit cls)) := rfl
  refine ⟨fun hnone => ⟨_, hexec, State.dispatch_of_none _ _ _ hnone⟩, fun k x o unit hsome => ⟨_, hexec, ?_⟩⟩
  have hframe := onlyIn_of_exec hexec
  rw [State.dispatch_of_some _ _ _ hsome] at hframe ⊢
  obtain ⟨y, hy⟩ := State.choice_region (s := s.settle) (unit := classUnit cls) hsome
  have hbegun := s.settle.begun_sched x o
  have hregion : ((s.settle.begun x o).placed region.val k x o unit).sched[region.val]? =
      some { y.setCtx k { x with state := 3, unitIndex := BitVec.ofNat 4 unit, recompute := (s.settle.begun x o).recomputes x o } with
        dispatched := y.dispatched + 1 } := State.onRegion_getElem (by rw [hbegun]; exact hy) _
  refine ⟨_, rfl, ⟨(s.settle.begun x o).recomputes x o, ?_, fun hpart => ?_⟩, ?_, hframe⟩
  · rw [State.ctx_congr (State.engaged_sched ..), State.ctx, hregion]
    exact lookupNat_insertKey_same ..
  · rw [State.recomputes, hpart]
    rfl
  · rw [State.engaged_sched, hregion, hy]
    rfl

/-! ### Completion and time-outs (R330, R339) -/

section
variable {s : State} {c : CtxId} {x : TaskContext}

/-- The context has been freed and recorded. -/
def State.recorded (s : State) (c : CtxId) (x : TaskContext) : State :=
  (s.freeCtx c).onRegion c.region.val fun r => { r with completed := r.completed ++ [(x.op.toNat, x.mb.toNat, x.part)] }

/-- What a completed item's micro-batch gives up. -/
def State.relieved (s : State) (x : TaskContext) : State :=
  let ended := decide (1024 ≤ x.mb.toNat ∧ x.mb.toNat < 2048) &&
    s.slotCfg.ops.zipIdx.all fun y => !s.inPass true y.1 || s.partDone y.2 x.mb.toNat false
  let s := if ended then s.onMb x.mb.toNat x.step.toNat fun m => { m with committed := true } else s
  let s := if x.part then s.onMb x.mb.toNat x.step.toNat fun m => { m with reruns := m.reruns.filter fun y => y.1 / 4096 != x.op.toNat } else s
  if x.mb.toNat < 2048 then s.release x.mb.toNat x.step.toNat else s

theorem State.completeCtx_eq (s : State) (c : CtxId) (x : TaskContext) : s.completeCtx c x = ((s.recorded c x).relieved x).settle := rfl

theorem State.relieved_within (s : State) (x : TaskContext) : s.within [.mbs, .train] (s.relieved x) := by
  have hended {b : Bool} {f : MicroBatch → MicroBatch} {u : State} (hu : s.within [.mbs, .train] u) :
      s.within [.mbs, .train] (if b then u.onMb x.mb.toNat x.step.toNat f else u) := State.within_ite (State.onMb_within hu (by decide)) hu
  exact State.within_ite (State.release_within (hended (hended (State.within_refl s _))) (by decide)) (hended (hended (State.within_refl s _)))

theorem State.recorded_region {r : RegionSched} (hr : s.sched[c.region.val]? = some r) : (s.recorded c x).sched[c.region.val]? =
    some { r with contexts := r.contexts.filter (fun y => y.1 != c.number), completed := r.completed ++ [(x.op.toNat, x.mb.toNat, x.part)] } := by
  have hfree : (s.freeCtx c).sched[c.region.val]? = some { r with contexts := r.contexts.filter fun y => y.1 != c.number } :=
    State.onRegion_getElem hr _
  rw [State.recorded, State.onRegion_getElem hfree]

theorem exec_instanceComplete_of_ctx (hctx : s.ctx c = some x) :
    exec (.instanceComplete c) s = .next (if x.state = 4 ∧ !s.awaitsSweep x then s.completeCtx c x else s) := by
  change execInstanceComplete c s = _
  rw [execInstanceComplete, hctx]

theorem instanceComplete_of_run (hctx : s.ctx c = some x) (hstate : x.state = 4) (hsweep : s.awaitsSweep x = false) :
    runs (.instanceComplete c) s fun t => ∃ v : State, t = v.settle ∧ v.ctx c = none ∧
      (v.sched[c.region.val]?).map (·.completed) =
        (s.sched[c.region.val]?).map (fun r => r.completed ++ [(x.op.toNat, x.mb.toNat, x.part)]) ∧
      v.gather.rows = s.gather.rows.filter (fun y => y.ctx != c) ∧ s.onlyIn t [.dial, .mbs, .sched, .gather, .train] := by
  have hexec := exec_instanceComplete_of_ctx hctx
  rw [if_pos ⟨hstate, by rw [hsweep]; rfl⟩] at hexec
  have hframe := onlyIn_of_exec hexec
  obtain ⟨r, hr, -⟩ := State.region_of_ctx hctx
  have hrelieved := State.relieved_within (s.recorded c x) x
  have hsched := hrelieved.sched (by decide)
  refine ⟨_, hexec, _, s.completeCtx_eq c x, ?_, ?_, ?_, hframe⟩
  · rw [State.ctx, hsched, State.recorded_region hr, Option.bind_some]
    exact lookupNat_filter_ne.trans (if_pos rfl)
  · rw [hsched, State.recorded_region hr, hr]
    rfl
  · rw [hrelieved.gather (by decide)]
    rfl

theorem instanceComplete_of_running (hctx : s.ctx c = some x) (h : x.state ≠ 4 ∨ s.awaitsSweep x = true) :
    runs (.instanceComplete c) s fun t => t = s := by
  have hexec := exec_instanceComplete_of_ctx hctx
  rw [if_neg] at hexec
  · exact ⟨_, hexec, rfl⟩
  · rintro ⟨hstate, hsweep⟩
    rcases h with h | h
    · exact h hstate
    · rw [h] at hsweep
      exact Bool.noConfusion hsweep

/-- A waiting context that has not timed out. -/
theorem exec_contextTimeout_of_waiting (hctx : s.ctx c = some x) (hstate : x.state = 1) (hfirst : x.timedOut = false) :
    exec (.contextTimeout c) s = .next (
      if x.toCycles then
        if 2 ^ 47 ≤ ((s.sched.getD c.region.val RegionSched.reset).cycles - x.toValue).toNat then s
        else s.onRegion c.region.val fun r => r.enqueue s.run.c c.number { x with timedOut := true }
      else if s.dial.step.toNat = x.step.toNat ∧ s.dial.pos.toNat ≤ x.toValue.toNat then s
      else (s.setCtx c { x with timedOut := true }).onRegion c.region.val fun r => { r with timeouts := satAdd r.timeouts 1 }) := by
  change execContextTimeout c s = _
  rw [execContextTimeout, hctx]
  exact congrArg Host.Outcome.next (if_neg (by rw [hfirst, hstate]; decide))

theorem contextTimeout_of_close (hctx : s.ctx c = some x) (hstate : x.state = 1) (hfirst : x.timedOut = false) (hdial : x.toCycles = false)
    (hpast : s.dial.step.toNat ≠ x.step.toNat ∨ x.toValue.toNat < s.dial.pos.toNat) : runs (.contextTimeout c) s fun t =>
      t.ctx c = some { x with timedOut := true } ∧
      (t.sched[c.region.val]?).map (·.timeouts) = (s.sched[c.region.val]?).map (fun r => satAdd r.timeouts 1) ∧ s.onlyIn t [.sched] := by
  have hexec := exec_contextTimeout_of_waiting hctx hstate hfirst
  rw [if_neg (by rw [hdial]; exact Bool.false_ne_true), if_neg (by omega)] at hexec
  obtain ⟨r, hr, -⟩ := State.region_of_ctx hctx
  have hset : (s.setCtx c { x with timedOut := true }).sched[c.region.val]? =
      some { r with contexts := insertKey c.number { x with timedOut := true } r.contexts } := State.onRegion_getElem hr _
  refine ⟨_, hexec, ?_, ?_, onlyIn_of_exec hexec⟩
  · rw [State.onRegion_ctx hset]
    exact lookupNat_insertKey_same ..
  · rw [State.onRegion_getElem hset, hr]
    rfl

/-- A context that becomes ready stands in the ready queue, held or spilled. -/
theorem RegionSched.enqueue_ctx (r : RegionSched) (n k : Nat) (x : TaskContext) :
    ∃ spilled, lookupNat k (r.enqueue n k x).contexts = some { x with state := 2, spilled := spilled } := by
  rw [RegionSched.enqueue]
  dsimp only
  split
  · exact ⟨true, lookupNat_insertKey_same ..⟩
  · split
    · exact ⟨false, lookupNat_insertKey_same ..⟩
    · split
      · split
        · exact ⟨false, lookupNat_insertKey_same ..⟩
        · exact ⟨true, lookupNat_insertKey_same ..⟩
      · exact ⟨false, lookupNat_insertKey_same ..⟩

theorem contextTimeout_of_cycle (hctx : s.ctx c = some x) (hstate : x.state = 1) (hfirst : x.timedOut = false) (hcycles : x.toCycles = true)
    (hpast : ((s.sched.getD c.region.val RegionSched.reset).cycles - x.toValue).toNat < 2 ^ 47) : runs (.contextTimeout c) s fun t =>
      (∃ spilled, t.ctx c = some { x with timedOut := true, state := 2, spilled := spilled }) ∧ s.onlyIn t [.sched] := by
  have hexec := exec_contextTimeout_of_waiting hctx hstate hfirst
  rw [if_pos hcycles, if_neg (Nat.not_le.2 hpast)] at hexec
  obtain ⟨r, hr, -⟩ := State.region_of_ctx hctx
  obtain ⟨spilled, hspilled⟩ := r.enqueue_ctx s.run.c c.number { x with timedOut := true }
  exact ⟨_, hexec, ⟨spilled, (State.onRegion_ctx hr _).trans hspilled⟩, onlyIn_of_exec hexec⟩

end

/-- Settles O28: an item that has run is recorded and freed; a time-out marks its context by its entry's close or its region's cycles. -/
theorem instanceEnds : Obligations.InstanceEnds := by
  unfold Obligations.InstanceEnds
  refine fun s c x hctx => ⟨fun hstate hsweep => instanceComplete_of_run hctx hstate hsweep, fun h => instanceComplete_of_running hctx h,
    fun hstate hfirst hdial => ⟨fun hpast => contextTimeout_of_close hctx hstate hfirst hdial hpast, fun hstep hpos => ?_⟩,
    fun hstate hfirst hcycles => ⟨fun hpast => contextTimeout_of_cycle hctx hstate hfirst hcycles hpast, fun hpast => ?_⟩⟩
  · have hexec := exec_contextTimeout_of_waiting hctx hstate hfirst
    rw [if_neg (by rw [hdial]; exact Bool.false_ne_true), if_pos ⟨hstep, hpos⟩] at hexec
    exact ⟨_, hexec, rfl⟩
  · have hexec := exec_contextTimeout_of_waiting hctx hstate hfirst
    rw [if_pos hcycles, if_pos hpast] at hexec
    exact ⟨_, hexec, rfl⟩

end Sys2Proof.Machine
end


section
/-! PROOFS. Control cores: heartbeats, watchers, declared failures and take-over (R341–R344). -/

namespace Sys2Proof.Machine

set_option Elab.async false

/-! ### Cores one by one -/

section
variable {s : State} {i : Nat} (f : ControlCore → ControlCore)

theorem State.onCore_core_same (hi : i < s.cores.length) : (s.onCore i f).core i = f (s.core i) := by
  rw [State.onCore_core, if_pos ⟨rfl, hi⟩]

theorem State.onCore_core_ne {j : Nat} (h : i ≠ j) : (s.onCore i f).core j = s.core j := by
  rw [State.onCore_core, if_neg fun hij => h hij.1]

/-- A field that the update keeps stands in every core. -/
theorem State.onCore_core_field {α : Type} (g : ControlCore → α) (hg : ∀ c, g (f c) = g c) (j : Nat) :
    g ((s.onCore i f).core j) = g (s.core j) := by
  rw [State.onCore_core]
  split
  · exact hg _
  · rfl

theorem State.onCore_onlyIn : s.onlyIn (s.onCore i f) [.cores] :=
  (State.onCore_within (State.within_refl s _) (List.Subset.refl _)).1

theorem State.core_congr {t : State} (h : t.cores = s.cores) (j : Nat) : t.core j = s.core j := by rw [State.core, State.core, h]

/-- An update of one core, whose result is known, leaves the others and everything else. -/
theorem State.onCore_effect (hi : i < s.cores.length) {c : ControlCore} (hc : f (s.core i) = c) :
    (s.onCore i f).core i = c ∧ (∀ j, j ≠ i → (s.onCore i f).core j = s.core j) ∧ s.onlyIn (s.onCore i f) [.cores] :=
  ⟨(State.onCore_core_same f hi).trans hc, fun _ hj => State.onCore_core_ne f hj.symm, State.onCore_onlyIn f⟩

end

/-! ### Heartbeats (R341) -/

section
variable {s : State} {core : Fin 8}

theorem heartbeat_of_active (hlen : s.cores.length = 8) (hloaded : s.start.loaded = true) (hactive : (s.core core.val).active = true) :
    runs (.heartbeat core) s fun t => t.core core.val = { s.core core.val with heartbeat := (s.core core.val).heartbeat + 1 } ∧
      (∀ i, i ≠ core.val → t.core i = s.core i) ∧ s.onlyIn t [.cores] :=
  ⟨_, congrArg Host.Outcome.next (if_pos (by rw [hloaded, hactive]; rfl)), State.onCore_effect _ (by omega) rfl⟩

theorem heartbeat_of_inactive (hactive : (s.core core.val).active = false) : runs (.heartbeat core) s fun t => t = s :=
  ⟨_, congrArg Host.Outcome.next (if_neg (by rw [hactive, Bool.and_false]; decide)), rfl⟩

end

/-! ### The spare that takes over (R342) -/

/-- A core without a role that passed its self-test and is not taking one. -/
def ControlCore.spare (c : ControlCore) : Bool := c.role == 0 && c.tested && c.taking.isNone

theorem State.spareCore_eq (s : State) : s.spareCore = (List.range 8).find? fun i => (s.core i).spare := rfl

theorem State.spareCore_congr {s t : State} (h : ∀ i, (t.core i).spare = (s.core i).spare) : t.spareCore = s.spareCore := by
  rw [State.spareCore_eq, State.spareCore_eq]
  exact congrArg (fun p => (List.range 8).find? p) (funext h)

theorem State.spareCore_spec {s : State} {k : Nat} (h : s.spareCore = some k) : k < 8 ∧ (s.core k).role = 0 := by
  have hspare : (s.core k).spare = true := List.find?_some (p := fun i => (s.core i).spare) h
  rw [ControlCore.spare, Bool.and_eq_true, Bool.and_eq_true, beq_iff_eq] at hspare
  exact ⟨List.mem_range.1 (List.mem_of_find?_eq_some h), hspare.1.1⟩

/-! ### A declared failure (R342, R344) -/

/-- The failed core is fenced, and its watcher watches no more. -/
def State.fenceCore (s : State) (watcher w : Nat) : State :=
  (s.onCore w fun c => { c with role := 7, watchValid := false, missed := 0 }).onCore watcher fun c => { c with watchValid := false }

/-- The failure is recorded and logged. -/
def State.recordCore (s : State) (w : Nat) : State :=
  (s.onResil fun x => { x with
    failedCores := x.failedCores ++ [w]
    toRecord := x.toRecord ++ [{ seq := 0, kind := 6, pendKind := 0, unit := BitVec.ofNat 16 w, detail := 0, step := s.dial.step
                                 startCount := s.start.startCount, code := 0x0D2 }] }).logDevice 0x0D2 (engineName 0 (104 + w)) 0 0

/-- The state in which the spare is looked for. -/
def State.declared (s : State) (watcher w : Nat) : State := (s.fenceCore watcher w).recordCore w

section
variable {s : State} {watcher w : Nat}

theorem State.coreFailed_of_spare {k : Nat} (h : (s.declared watcher w).spareCore = some k) :
    s.coreFailed watcher w = (s.declared watcher w).onCore k fun c => { c with taking := some (s.core w).role } := by
  change (match (s.declared watcher w).spareCore with
    | some k => (s.declared watcher w).onCore k fun c => { c with taking := some (s.core w).role }
    | none => ((s.declared watcher w).logDevice 0x0D3 (engineName 0 (104 + w)) 0 0).haltAtBoundary 4) = _
  rw [h]

theorem State.coreFailed_of_no_spare (h : (s.declared watcher w).spareCore = none) :
    s.coreFailed watcher w = ((s.declared watcher w).logDevice 0x0D3 (engineName 0 (104 + w)) 0 0).haltAtBoundary 4 := by
  change (match (s.declared watcher w).spareCore with
    | some k => (s.declared watcher w).onCore k fun c => { c with taking := some (s.core w).role }
    | none => ((s.declared watcher w).logDevice 0x0D3 (engineName 0 (104 + w)) 0 0).haltAtBoundary 4) = _
  rw [h]

theorem State.declared_core (i : Nat) : (s.declared watcher w).core i = (s.fenceCore watcher w).core i := by
  refine State.core_congr ?_ i
  rw [State.declared, State.recordCore]
  exact (State.logDevice_within (State.within_refl _ [.logs]) (List.Subset.refl _)).cores (by decide)

theorem State.declared_dial : (s.declared watcher w).dial = s.dial := by
  rw [State.declared, State.recordCore, State.logDevice_dial]
  rfl

theorem State.declared_counts_same : (s.declared watcher w).logs.errorCounts[0xD2]? = (s.logs.errorCounts[0xD2]?).map (satAdd · 1) := by
  rw [State.declared, State.recordCore, State.logDevice_errorCounts_same (by decide) (by decide)]
  rfl

theorem State.declared_counts_ne {j : Nat} (h : 0xD2 ≠ j) : (s.declared watcher w).logs.errorCounts[j]? = s.logs.errorCounts[j]? := by
  rw [State.declared, State.recordCore, State.logDevice_errorCounts_ne h]
  rfl

variable (hne : w ≠ watcher)
include hne

theorem State.fenceCore_role (hw : w < s.cores.length) : ((s.fenceCore watcher w).core w).role = 7 := by
  rw [State.fenceCore, State.onCore_core_ne _ hne.symm, State.onCore_core_same _ hw]

omit hne in
theorem State.fenceCore_watchValid (hw : watcher < s.cores.length) : ((s.fenceCore watcher w).core watcher).watchValid = false := by
  rw [State.fenceCore, State.onCore_core_same _ (by rwa [State.onCore_cores, modifyAt_length])]

omit hne in
/-- Fencing a core that had a role takes no spare away. -/
theorem State.fenceCore_spare (hrole : (s.core w).role ≠ 0) (hw : w < s.cores.length) (i : Nat) :
    ((s.fenceCore watcher w).core i).spare = (s.core i).spare := by
  rw [State.fenceCore, State.onCore_core_field (fun c => { c with watchValid := false }) ControlCore.spare fun _ => rfl]
  by_cases hi : w = i
  · subst hi
    rw [State.onCore_core_same _ hw, ControlCore.spare, ControlCore.spare, beq_false_of_ne hrole]
    rfl
  · rw [State.onCore_core_ne _ hi]

omit hne in
theorem State.declared_spareCore (hrole : (s.core w).role ≠ 0) (hw : w < s.cores.length) : (s.declared watcher w).spareCore = s.spareCore :=
  State.spareCore_congr fun i => by rw [State.declared_core, State.fenceCore_spare hrole hw]

/-- What a declared failure does. -/
theorem State.coreFailed_effect (hrole : (s.core w).role ≠ 0) (hw : w < s.cores.length) (hwatcher : watcher < s.cores.length) :
    let t := s.coreFailed watcher w
    (t.core w).role = 7 ∧ (t.core watcher).watchValid = false ∧ t.logs.errorCounts[0xD2]? = (s.logs.errorCounts[0xD2]?).map (satAdd · 1) ∧
      (∀ k, s.spareCore = some k → k < s.cores.length → (t.core k).taking = some (s.core w).role ∧ t.dial = s.dial) ∧
      (s.spareCore = none → t.logs.errorCounts[0xD3]? = (s.logs.errorCounts[0xD3]?).map (satAdd · 1) ∧
        t.dial.haltCause = (if s.dial.haltCause = 0 then 4 else s.dial.haltCause)) := by
  have hspare := State.declared_spareCore (watcher := watcher) hrole hw
  have hcore (i : Nat) : (s.declared watcher w).core i = (s.fenceCore watcher w).core i := State.declared_core i
  cases h : s.spareCore with
  | some k =>
    rw [State.coreFailed_of_spare (hspare.trans h)]
    refine ⟨?_, ?_, by rw [State.onCore_logs, State.declared_counts_same],
      fun j hj hlt => ⟨?_, by rw [State.onCore_dial, State.declared_dial]⟩, fun hnone => nomatch hnone⟩
    · rw [State.onCore_core_field (fun c => { c with taking := some (s.core w).role }) ControlCore.role fun _ => rfl, hcore, State.fenceCore_role hne hw]
    · rw [State.onCore_core_field (fun c => { c with taking := some (s.core w).role }) ControlCore.watchValid fun _ => rfl, hcore, State.fenceCore_watchValid hwatcher]
    · obtain rfl := Option.some.inj hj
      have hlen : k < (s.declared watcher w).cores.length := by
        rw [State.declared, State.recordCore, (State.logDevice_within (State.within_refl _ [.logs]) (List.Subset.refl _)).cores (by decide),
          State.onResil_cores, State.fenceCore, State.onCore_cores, State.onCore_cores, modifyAt_length, modifyAt_length]
        exact hlt
      rw [State.onCore_core_same _ hlen]
  | none =>
    rw [State.coreFailed_of_no_spare (hspare.trans h)]
    have hsame (i : Nat) : (((s.declared watcher w).logDevice 0x0D3 (engineName 0 (104 + w)) 0 0).haltAtBoundary 4).core i =
        (s.fenceCore watcher w).core i := by
      rw [← hcore]
      exact State.core_congr ((State.haltAtBoundary_within (State.logDevice_within (State.within_refl _ [.dial, .logs]) (by decide))
        (by decide)).cores (by decide)) i
    refine ⟨?_, ?_, ?_, (fun k hk => nomatch hk), fun _ => ⟨?_, ?_⟩⟩
    · rw [hsame, State.fenceCore_role hne hw]
    · rw [hsame, State.fenceCore_watchValid hwatcher]
    · rw [State.haltAtBoundary_logs, State.logDevice_errorCounts_ne (by decide), State.declared_counts_same]
    · rw [State.haltAtBoundary_logs, State.logDevice_errorCounts_same (by decide) (by decide), State.declared_counts_ne (by decide)]
    · rw [State.haltAtBoundary_haltCause, State.logDevice_dial, State.declared_dial]
      rfl

end

/-! ### A watcher's reading (R341) -/

section
variable {s : State} {core : Fin 8} (hlen : s.cores.length = 8) (hloaded : s.start.loaded = true) (hactive : (s.core core.val).active = true)
  (hvalid : (s.core core.val).watchValid = true)

/-- The watcher counts one more reading without a change. -/
def State.missed (s : State) (i : Nat) : State := s.onCore i fun c => { c with missed := satAdd c.missed 1 }

include hloaded hactive hvalid

theorem exec_watcherRead : exec (.watcherRead core) s = .next (
    if (s.core (s.core core.val).watched.toNat).heartbeat ≠ (s.core core.val).lastSeen then
      s.onCore core.val fun c => { c with missed := 0, lastSeen := (s.core (s.core core.val).watched.toNat).heartbeat }
    else if ((s.missed core.val).core core.val).missed.toNat ≥ 4 then (s.missed core.val).coreFailed core.val (s.core core.val).watched.toNat
    else s.missed core.val) :=
  congrArg Host.Outcome.next (if_neg (by rw [hloaded, hactive, hvalid]; decide))

include hlen

theorem watcherRead_of_beat (hbeat : (s.core (s.core core.val).watched.toNat).heartbeat ≠ (s.core core.val).lastSeen) :
    runs (.watcherRead core) s fun t =>
      t.core core.val = { s.core core.val with missed := 0, lastSeen := (s.core (s.core core.val).watched.toNat).heartbeat } ∧
      (∀ i, i ≠ core.val → t.core i = s.core i) ∧ s.onlyIn t [.cores] :=
  ⟨_, (exec_watcherRead hloaded hactive hvalid).trans (congrArg Host.Outcome.next (if_pos hbeat)), State.onCore_effect _ (by omega) rfl⟩

omit hloaded hactive hvalid in
theorem State.missed_core : (s.missed core.val).core core.val = { s.core core.val with missed := satAdd (s.core core.val).missed 1 } :=
  State.onCore_core_same _ (by omega)

theorem watcherRead_of_missed (hbeat : (s.core (s.core core.val).watched.toNat).heartbeat = (s.core core.val).lastSeen)
    (hmissed : (s.core core.val).missed.toNat < 3) : runs (.watcherRead core) s fun t =>
      t.core core.val = { s.core core.val with missed := (s.core core.val).missed + 1 } ∧ (∀ i, i ≠ core.val → t.core i = s.core i) ∧
      s.onlyIn t [.cores] := by
  have hadd : satAdd (s.core core.val).missed 1 = (s.core core.val).missed + 1 := by
    rw [satAdd]
    bv_omega
  have hfew : ¬ ((s.missed core.val).core core.val).missed.toNat ≥ 4 := by
    rw [State.missed_core hlen, hadd]
    bv_omega
  have hexec := exec_watcherRead hloaded hactive hvalid
  rw [if_neg (not_not.2 hbeat), if_neg hfew] at hexec
  exact ⟨_, hexec, State.onCore_effect _ (by omega) (by rw [hadd])⟩

theorem watcherRead_of_failed (hbeat : (s.core (s.core core.val).watched.toNat).heartbeat = (s.core core.val).lastSeen)
    (hmissed : 3 ≤ (s.core core.val).missed.toNat) (hne : (s.core core.val).watched.toNat ≠ core.val)
    (hrole : (s.core (s.core core.val).watched.toNat).role ≠ 0) : runs (.watcherRead core) s fun t =>
      (t.core (s.core core.val).watched.toNat).role = 7 ∧ (t.core core.val).watchValid = false ∧
        t.logs.errorCounts[0xD2]? = (s.logs.errorCounts[0xD2]?).map (satAdd · 1) ∧ s.onlyIn t [.dial, .logs, .cores, .resil] ∧
        (∀ k, s.spareCore = some k → (t.core k).taking = some (s.core (s.core core.val).watched.toNat).role ∧ t.dial = s.dial) ∧
        (s.spareCore = none → t.logs.errorCounts[0xD3]? = (s.logs.errorCounts[0xD3]?).map (satAdd · 1) ∧
          t.dial.haltCause = (if s.dial.haltCause = 0 then 4 else s.dial.haltCause)) := by
  have hmany : ((s.missed core.val).core core.val).missed.toNat ≥ 4 := by
    rw [State.missed_core hlen, satAdd]
    bv_omega
  have hexec := exec_watcherRead hloaded hactive hvalid
  rw [if_neg (not_not.2 hbeat), if_pos hmany] at hexec
  have hsame : (s.missed core.val).core (s.core core.val).watched.toNat = s.core (s.core core.val).watched.toNat :=
    State.onCore_core_ne _ hne.symm
  have hlen' : (s.missed core.val).cores.length = 8 := by rw [State.missed, State.onCore_cores, modifyAt_length, hlen]
  have hspare : (s.missed core.val).spareCore = s.spareCore :=
    State.spareCore_congr fun i => State.onCore_core_field (fun c => { c with missed := satAdd c.missed 1 }) ControlCore.spare (fun _ => rfl) i
  obtain ⟨hfenced, hwatch, hcount, htaken, hnone⟩ := State.coreFailed_effect (s := s.missed core.val) hne (by rwa [hsame])
    (by rw [hlen']; omega) (by rw [hlen']; omega)
  rw [hspare] at htaken hnone
  rw [hsame] at htaken
  have hwithin : s.within [.dial, .logs, .cores, .resil] ((s.missed core.val).coreFailed core.val (s.core core.val).watched.toNat) :=
    State.coreFailed_within (State.onCore_within (State.within_refl s _) (by decide)) (by decide)
  refine ⟨_, hexec, hfenced, hwatch, hcount, hwithin.1, fun k hk => htaken k hk ?_, hnone⟩
  rw [hlen']
  exact (State.spareCore_spec hk).1

end

/-! ### Answers to held requests leave the others held (R343) -/

section
variable (s : State)

theorem State.onPort_held (p : Nat) (f : PortState → PortState) : (s.onPort p f).links.held = s.links.held := rfl

theorem State.sendCompletion_held (tag : BitVec 8) (code poison : Nat) (data : List Flit) :
    (s.sendCompletion tag code poison data).links.held = s.links.held := by
  rw [State.sendCompletion, State.sendPacket, State.onPort_held]

theorem State.complete_held (h : HkHeader) (code : Nat) : (s.complete h code).links.held = s.links.held := by
  rw [State.complete, State.countError_links, State.sendCompletion_held]

theorem State.startFlash_held (w : FlashWork) : (s.startFlash w).links.held = s.links.held := by
  rw [(State.startFlash_within (State.within_refl s [.staging]) (List.Subset.refl _)).links (by decide)]

theorem State.answerRun_held (h : HkHeader) (fs : List (Nat × Nat)) (c : Instr) :
    (s.answerRun h fs fun s => s.runEffect c).links.held = s.links.held := by
  rw [State.answerRun]
  split
  · exact State.complete_held ..
  · rw [State.complete_held, (State.runEffect_within (State.within_refl s _) (List.Subset.refl _)).links (by decide)]

theorem State.answerHeld_held (c : Instr) (step : Nat) : (s.answerHeld c step).links.held = s.links.held := by
  cases c with
  | attest h nonce => exact State.sendCompletion_held ..
  | stageOpen h =>
    change (s.openStaging h).links.held = _
    rw [State.openStaging]
    split
    · exact State.complete_held ..
    · exact State.startFlash_held ..
  | stageWrite h offset data =>
    change (s.writeStaging h offset.toNat data).links.held = _
    rw [State.writeStaging]
    split
    · exact State.complete_held ..
    · exact State.startFlash_held ..
  | stageCommit h =>
    change (s.commitStaging h).links.held = _
    rw [State.commitStaging]
    split
    · exact State.complete_held ..
    · rfl
  | stageDiscard h =>
    change (s.discardStaging h).links.held = _
    rw [State.discardStaging]
    split
    · rw [State.startFlash_held, State.onStaging_links, State.countError_links, State.sendCompletion_held]
    · exact State.startFlash_held ..
  | select h _ => exact s.answerRun_held h ..
  | start h _ => exact s.answerRun_held h ..
  | pause h _ => exact s.answerRun_held h ..
  | stop h _ => exact s.answerRun_held h ..
  | eval h _ => exact s.answerRun_held h ..
  | ckpt h _ => exact s.answerRun_held h ..
  | _ => rfl

theorem State.answerAllHeld_held (role : Nat) :
    (s.answerAllHeld role).links.held = s.links.held.filter fun h => heldRole h.1 != role := by
  rw [State.answerAllHeld]
  exact List.foldlRecOn (motive := fun u : State => u.links.held = s.links.held.filter fun h => heldRole h.1 != role) _ _ rfl
    fun u hu h _ => (u.answerHeld_held h.1 h.2).trans hu

/-- Role 3 answers no request of the host. -/
theorem State.answerAllHeld_three_tables : (s.answerAllHeld 3).tables = s.tables := by
  have hnone : s.links.held.filter (fun h => heldRole h.1 == 3) = [] := by
    refine List.filter_eq_nil_iff.2 fun h _ => ?_
    rw [beq_iff_eq]
    cases h.1 <;> simp [heldRole]
  rw [State.answerAllHeld, hnone]
  rfl

end

/-! ### A take-over ends (R342, R343) -/

section
variable {s : State} {core : Fin 8} {role : BitVec 3}

/-- The spare has the role. -/
def State.roleGiven (s : State) (core : Nat) (role : BitVec 3) : State :=
  s.onCore core fun c => { c with
    role := role, taking := none, tested := true, heartbeat := c.heartbeat + 1, missed := 0
    watched := BitVec.ofNat 3 ((s.coreWith (watchedRole role.toNat)).getD 0), watchValid := (s.coreWith (watchedRole role.toNat)).isSome
    lastSeen := (s.coreWith (watchedRole role.toNat)).elim 0 fun w => (s.core w).heartbeat }

/-- The role's watcher watches the core that has it. -/
def State.roleWatched (s : State) (core : Nat) (role : BitVec 3) : State :=
  match (List.range 8).find? fun i => (s.core i).active && watchedRole (s.core i).role.toNat == role.toNat with
  | some w => s.onCore w fun c => { c with watched := BitVec.ofNat 3 core, watchValid := true, missed := 0, lastSeen := (s.core core).heartbeat }
  | none => s

/-- What waited for the role's firmware. -/
def State.roleResumed (s : State) (role : BitVec 3) : State :=
  if role = 3 then s.onTables fun t => { t with stalled := [] } else if role = 2 then s.takeHeldRequests else s

theorem exec_takeoverComplete (h : (s.core core.val).taking = some role) : exec (.takeoverComplete core) s =
    .next (((((s.roleGiven core.val role).roleWatched core.val role).roleResumed role).answerAllHeld role.toNat).settle) := by
  change execTakeoverComplete core s = _
  rw [execTakeoverComplete, h]
  rfl

theorem takeoverComplete_of_none (h : (s.core core.val).taking = none) : runs (.takeoverComplete core) s fun t => t = s := by
  refine ⟨_, ?_, rfl⟩
  change execTakeoverComplete core s = _
  rw [execTakeoverComplete, h]

theorem State.roleWatched_field {α : Type} (g : ControlCore → α)
    (hg : ∀ (c : ControlCore) w b, g { c with watched := w, watchValid := true, missed := 0, lastSeen := b } = g c) (s : State)
    (core j : Nat) (role : BitVec 3) : g ((s.roleWatched core role).core j) = g (s.core j) := by
  rw [State.roleWatched]
  split
  · exact State.onCore_core_field _ g (fun c => hg c _ _) j
  · rfl

theorem State.roleWatched_within (s : State) (core : Nat) (role : BitVec 3) : s.within [.cores] (s.roleWatched core role) := by
  rw [State.roleWatched]
  split
  · exact State.onCore_within (State.within_refl s _) (List.Subset.refl _)
  · exact State.within_refl s _

theorem State.roleResumed_within (s : State) (role : BitVec 3) : s.within [.dial, .logs, .tables] (s.roleResumed role) :=
  State.within_ite (State.onTables_within (State.within_refl s _) (by decide))
    (State.within_ite (State.takeHeldRequests_within (State.within_refl s _) (by decide)) (State.within_refl s _))

theorem takeoverComplete_of_taking (hlen : s.cores.length = 8) (h : (s.core core.val).taking = some role) :
    runs (.takeoverComplete core) s fun t => (t.core core.val).role = role ∧ (t.core core.val).taking = none ∧
      (t.core core.val).tested = true ∧ (t.core core.val).heartbeat = (s.core core.val).heartbeat + 1 ∧ (role = 3 → t.tables.stalled = []) ∧
      t.links.held = s.links.held.filter (fun h => heldRole h.1 != role.toNat) := by
  refine ⟨_, exec_takeoverComplete h, ?_⟩
  beta_reduce
  have hwatched := (s.roleGiven core.val role).roleWatched_within core.val role
  have hresumed := ((s.roleGiven core.val role).roleWatched core.val role).roleResumed_within role
  have hfield {α : Type} (g : ControlCore → α)
      (hg : ∀ (c : ControlCore) w b, g { c with watched := w, watchValid := true, missed := 0, lastSeen := b } = g c) :
      g (((((s.roleGiven core.val role).roleWatched core.val role).roleResumed role).answerAllHeld role.toNat).settle.core core.val) =
        g ((s.roleGiven core.val role).core core.val) := by
    rw [← State.roleWatched_field g hg (s.roleGiven core.val role) core.val core.val role]
    refine congrArg g (State.core_congr ?_ _)
    rw [(State.settle_within (State.within_refl _ _) (List.Subset.refl _)).cores (by decide),
      (State.answerAllHeld_within (State.within_refl _ _) (List.Subset.refl _)).cores (by decide), hresumed.cores (by decide)]
  have hgiven : (s.roleGiven core.val role).core core.val = _ := State.onCore_core_same _ (by omega)
  have hlinks : (((s.roleGiven core.val role).roleWatched core.val role).roleResumed role).links = s.links :=
    (hresumed.links (by decide)).trans (hwatched.links (by decide))
  refine ⟨?_, ?_, ?_, ?_, fun h3 => ?_, ?_⟩
  · rw [hfield ControlCore.role fun _ _ _ => rfl, hgiven]
  · rw [hfield ControlCore.taking fun _ _ _ => rfl, hgiven]
  · rw [hfield ControlCore.tested fun _ _ _ => rfl, hgiven]
  · rw [hfield ControlCore.heartbeat fun _ _ _ => rfl, hgiven]
  · subst h3
    rw [(State.settle_within (State.within_refl _ _) (List.Subset.refl _)).tables (by decide)]
    exact congrArg TablesState.stalled (State.answerAllHeld_three_tables _)
  · rw [(State.settle_within (State.within_refl _ _) (List.Subset.refl _)).links (by decide), State.answerAllHeld_held, hlinks]

end

/-- Settles O51: a watcher's fourth reading is `State.coreFailed`, a take-over's end gives the role and answers what was held for it. -/
theorem controlCores : Obligations.ControlCores := fun _ _ hlen =>
  ⟨heartbeat_of_active hlen, heartbeat_of_inactive,
    fun hloaded hactive hvalid => ⟨watcherRead_of_beat hlen hloaded hactive hvalid, watcherRead_of_missed hlen hloaded hactive hvalid,
      watcherRead_of_failed hlen hloaded hactive hvalid⟩,
    takeoverComplete_of_none, fun _ => takeoverComplete_of_taking hlen⟩

end Sys2Proof.Machine
end


section
/-! PROOFS. Watchdogs, hang records and the rungs of the reset ladder (R461–R466). -/

namespace Sys2Proof.Machine

set_option Elab.async false

/-! ### What a rung's reset leaves of the ladders and their records -/

/-- Ladders, hang records and the count of 0x116 stand. -/
structure State.keepsLadders (s t : State) : Prop where
  ladders : t.resil.ladders = s.resil.ladders
  hangs : t.resil.hangs = s.resil.hangs
  count : t.logs.errorCounts[0x116]? = s.logs.errorCounts[0x116]?

section
variable {s0 s t : State}

theorem State.keepsLadders_refl (s : State) : s.keepsLadders s := ⟨rfl, rfl, rfl⟩

theorem State.keepsLadders_ite {c : Prop} [Decidable c] {a b : State} (ha : s0.keepsLadders a) (hb : s0.keepsLadders b) :
    s0.keepsLadders (if c then a else b) := by
  split <;> assumption

theorem State.keepsLadders_fold {α : Type} {f : State → α → State} (hf : ∀ u a, s0.keepsLadders u → s0.keepsLadders (f u a)) (l : List α)
    (h : s0.keepsLadders s) : s0.keepsLadders (l.foldl f s) :=
  List.foldlRecOn (motive := fun u : State => s0.keepsLadders u) _ _ h fun u hu a _ => hf u a hu

variable (h : s0.keepsLadders s)
include h

theorem State.keepsLadders.congr (hr : t.resil = s.resil) (hl : t.logs = s.logs) : s0.keepsLadders t :=
  ⟨by rw [hr, h.ladders], by rw [hr, h.hangs], by rw [hl, h.count]⟩

theorem State.keepsLadders.within {L : List Part} (hw : s.within L t) (hr : .resil ∉ L := by decide) (hl : .logs ∉ L := by decide) :
    s0.keepsLadders t := h.congr (hw.resil hr) (hw.logs hl)

theorem State.onResil_keepsLadders {f : ResilState → ResilState} (hf : (f s.resil).ladders = s.resil.ladders ∧ (f s.resil).hangs = s.resil.hangs) :
    s0.keepsLadders (s.onResil f) := ⟨hf.1.trans h.ladders, hf.2.trans h.hangs, h.count⟩

theorem State.logDevice_keepsLadders {code : Nat} {who : Named} {dropped detail : Nat} (hc : code ≠ 0x116) :
    s0.keepsLadders (s.logDevice code who dropped detail) := by
  have hr := (State.logDevice_within (code := code) (who := who) (dropped := dropped) (detail := detail) (State.within_refl s [.logs])
    (List.Subset.refl _)).resil (by decide)
  exact ⟨by rw [hr, h.ladders], by rw [hr, h.hangs], by rw [State.logDevice_errorCounts_ne hc, h.count]⟩

theorem State.dropMb_keepsLadders {mb step : Nat} : s0.keepsLadders (s.dropMb mb step) := by
  have hr := (State.dropMb_within (mb := mb) (step := step) (State.within_refl s [.dial, .logs, .mbs, .sched, .gather, .train, .blocks])
    (List.Subset.refl _)).resil (by decide)
  exact ⟨by rw [hr, h.ladders], by rw [hr, h.hangs], by rw [State.dropMb_errorCounts_ne (by decide), h.count]⟩

theorem State.dropDomain_keepsLadders {xs : List (Nat × Nat × TaskContext)} : s0.keepsLadders (s.dropDomain xs) := by
  have hended {u : State} (hu : s0.keepsLadders u) (c : CtxId) : s0.keepsLadders (u.endDropped c) :=
    hu.within (State.endDropped_within (State.within_refl u [.mbs, .sched, .gather]) (List.Subset.refl _))
  have hfreed {u : State} (hu : s0.keepsLadders u) (c : CtxId) (r : Nat) (f : RegionSched → RegionSched) :
      s0.keepsLadders ((u.freeCtx c).onRegion r f) :=
    hu.within (State.onRegion_within (State.freeCtx_within (State.within_refl u [.sched, .gather]) (List.Subset.refl _)) (by decide))
  rw [State.dropDomain]
  have hdropped := State.keepsLadders_fold (f := fun (u : State) (m : Nat × Nat) => u.dropMb m.1 m.2)
    (fun _ _ hu => State.dropMb_keepsLadders hu) ((xs.map fun x => (x.2.2.mb.toNat, x.2.2.step.toNat)).eraseDups.filter fun m => m.1 != 4094) h
  have hcancelled := State.keepsLadders_fold (fun u (x : Nat × Nat × TaskContext) hu => hfreed hu ⟨BitVec.toFin (BitVec.ofNat 2 x.1), x.2.1⟩ x.1
      fun r => { r with cancelled := satAdd r.cancelled 1 }) (xs.filter fun x => x.2.2.mb.toNat == 4094)
    (State.keepsLadders_fold (fun u (x : Nat × Nat × TaskContext) hu => State.keepsLadders_ite (c := x.2.2.mb.toNat = 4094) hu
      (hended hu ⟨BitVec.toFin (BitVec.ofNat 2 x.1), x.2.1⟩)) xs hdropped)
  exact State.keepsLadders_ite hcancelled (hcancelled.within (State.haltAtBoundary_within
    (State.runFills_within (State.within_refl _ [.dial, .memory]) (by decide)) (by decide)))

theorem State.dropSegments_keepsLadders {b : Nat} : s0.keepsLadders (s.dropSegments b) :=
  State.keepsLadders_fold (fun _ _ hu => State.dropMb_keepsLadders hu) _ h

theorem State.onRestore_keepsLadders {f : RestoreState → RestoreState} : s0.keepsLadders (s.onRestore f) := ⟨h.ladders, h.hangs, h.count⟩

theorem State.onTarget_keepsLadders {i : Nat} {f : CkptTarget → CkptTarget} : s0.keepsLadders (s.onTarget i f) := ⟨h.ladders, h.hangs, h.count⟩

theorem State.failRestore_keepsLadders {code : Nat} (hc : code ≠ 0x116) : s0.keepsLadders (s.failRestore code) := by
  have hload (b : Bool) : s0.keepsLadders (s.loadDense b).loadRows :=
    h.within (State.loadRows_within (State.loadDense_within (State.within_refl _ [.memory, .bytes]) (List.Subset.refl _)) (List.Subset.refl _))
  rw [State.failRestore]
  exact State.logDevice_keepsLadders (State.onRestore_keepsLadders (hload _)) hc

theorem State.nvmeFailed_keepsLadders {c : NvmeCommand} : s0.keepsLadders (s.nvmeFailed c) := by
  have hnvme : s0.keepsLadders (s.onResil fun r => { r with nvme := r.nvme.filter fun x => x.reads != c.reads }) :=
    State.onResil_keepsLadders h ⟨rfl, rfl⟩
  rw [State.nvmeFailed]
  exact State.keepsLadders_ite (State.failRestore_keepsLadders hnvme (by decide)) (State.logDevice_keepsLadders hnvme (by decide))

theorem State.resetEngine_keepsLadders {u : WatchedUnit} : s0.keepsLadders (s.resetEngine u) := by
  cases u with
  | nvme => exact State.keepsLadders_fold (fun _ _ hu => State.keepsLadders_ite hu (State.nvmeFailed_keepsLadders hu)) _ h
  | compressor r => exact State.keepsLadders_fold (fun _ _ hu => State.dropMb_keepsLadders hu) _ h
  | drainEngine =>
    have hactive := State.onTarget_keepsLadders h (i := 0) (f := fun x =>
      if x.active then { x with unacked := [], headerSent := true, bodySent := true } else x)
    exact State.onResil_keepsLadders (f := fun r => { r with rows := r.rows.map fun m => if m.target = 0 then { m with sent := false } else m })
      hactive ⟨rfl, rfl⟩
  | _ => exact h.congr rfl rfl

end

/-! ### A rung below 4 -/

/-- The state of a rung's domain once what it held is dropped. -/
def State.rungDropped (s : State) (l : Ladder) (k : Nat) : State :=
  let s := s.onHang l.record fun h => { h with rungs := h.rungs + 1 }
  let s := s.dropDomain (s.inDomain l.unit k)
  if k = 2 then s.dropSegments (watchedBlock l.unit) else s

/-- The domain resets. -/
def State.rungReset (s : State) (u : WatchedUnit) (k : Nat) : State :=
  match k with
  | 1 => s.resetEngine u
  | 2 => s.resetBlock (watchedBlock u)
  | _ => s.resetRegion ((watchedRegion u).getD 0)

/-- The rung is counted, and the ladder stands on it. -/
def ResilState.onRung (r : ResilState) (l : Ladder) (k : Nat) : ResilState :=
  { r with
    lastRung := BitVec.ofNat 3 k
    rung1 := if k = 1 then satAdd r.rung1 1 else r.rung1
    rung2 := if k = 2 then satAdd r.rung2 1 else r.rung2
    rung3 := if k = 3 then satAdd r.rung3 1 else r.rung3
    ladders := r.ladders.map fun x => if x.record = l.record then { x with rung := k } else x }

section
variable (s : State) (l : Ladder) {k : Nat}

theorem State.beginRung_of_lt (hk : k < 4) :
    s.beginRung l k = ((((s.rungDropped l k).rungReset l.unit k).onResil fun r => r.onRung l k)).settle := if_neg (by omega)

theorem State.rungReset_keepsLadders {s0 s : State} (h : s0.keepsLadders s) (u : WatchedUnit) (k : Nat) : s0.keepsLadders (s.rungReset u k) := by
  unfold State.rungReset
  split
  · exact State.resetEngine_keepsLadders h
  · exact h.within (State.resetBlock_within (State.within_refl s [.memory, .blocks, .bytes]) (List.Subset.refl _))
  · exact h.within (State.resetRegion_within (State.within_refl s [.sched, .memory, .tables, .gather, .blocks, .bytes]) (List.Subset.refl _))

theorem State.rungDropped_keepsLadders : (s.onHang l.record fun h => { h with rungs := h.rungs + 1 }).keepsLadders (s.rungDropped l k) :=
  State.keepsLadders_ite (State.dropSegments_keepsLadders (State.dropDomain_keepsLadders (State.keepsLadders_refl _)))
    (State.dropDomain_keepsLadders (State.keepsLadders_refl _))

/-- What a rung below 4 leaves in the ladders, their records and the count of 0x116. -/
theorem State.beginRung_resil_of_lt (hk : k < 4) : (s.beginRung l k).resil.lastRung = BitVec.ofNat 3 k ∧
    (s.beginRung l k).resil.ladders = (s.resil.ladders.map fun x => if x.record = l.record then { x with rung := k } else x) ∧
    (s.beginRung l k).resil.hangs = modifyAt s.resil.hangs l.record (fun h => { h with rungs := h.rungs + 1 }) ∧
    (s.beginRung l k).logs.errorCounts[0x116]? = s.logs.errorCounts[0x116]? := by
  obtain ⟨hladders, hhangs, hcount⟩ := State.rungReset_keepsLadders (s.rungDropped_keepsLadders l (k := k)) l.unit k
  rw [State.beginRung_of_lt s l hk, State.settle_logs,
    (State.settle_within (State.within_refl _ _) (List.Subset.refl _)).resil (by decide), State.onResil_resil, State.onResil_logs,
    ResilState.onRung, hladders, hhangs, hcount]
  exact ⟨rfl, rfl, rfl, rfl⟩

/-- Rung 4 resets the device, but for what its link die and flash hold. -/
theorem State.beginRung_of_four (hk : 4 ≤ k) : (s.beginRung l k).resil.lastRung = 4 ∧ (s.beginRung l k).start.begun = false ∧
    (s.beginRung l k).start.loaded = false ∧ (s.beginRung l k).links.ports = s.links.ports ∧ (s.beginRung l k).cfg = s.cfg ∧
    (s.beginRung l k).flash = s.flash ∧ (s.beginRung l k).pending = s.pending ∧
    (s.beginRung l k).resil.tagDevice = s.resil.tagDevice + 1 := by
  rw [State.beginRung_of_four_le _ _ hk]
  exact ⟨rfl, rfl, rfl, rfl, rfl, rfl, rfl, rfl⟩

end

/-! ### Watchdogs (R461) -/

theorem watchdogExpired_of_laddered {s : State} (u : WatchedUnit) (h : s.start.loaded = false ∨ s.resil.ladders.any (fun l => l.unit == u) = true) :
    runs (.watchdogExpired u) s fun t => t = s := by
  refine ⟨_, congrArg Host.Outcome.next (if_pos ?_), rfl⟩
  obtain h | h := h <;> rw [h]
  · rfl
  · rw [Bool.or_true]

theorem State.logDevice_hangNext (s : State) (code : Nat) (who : Named) (dropped detail : Nat) :
    (s.logDevice code who dropped detail).logs.hangNext = s.logs.hangNext := by
  rw [State.logDevice, State.countError]
  split <;> rfl

/-- The header of a hang record (R462). -/
def State.hangHeader (s : State) (u : WatchedUnit) : HangRecord :=
  let who := s.nameUnit u
  { step := s.dial.step, pos := s.dial.pos, code := 0x115, region := BitVec.ofNat 2 who.region, level := BitVec.ofNat 2 who.level
    unit := BitVec.ofNat 14 who.unit, context := BitVec.ofNat 14 who.context, slot := BitVec.ofNat 2 who.slot
    basket := BitVec.ofNat 32 who.basket, rungs := 0, done := 0, partial_ := false, tag := s.engineTag (watchedTag u), body := [] }

theorem watchdogExpired_of_watched {s : State} (u : WatchedUnit) (hloaded : s.start.loaded = true)
    (hnew : s.resil.ladders.any (fun l => l.unit == u) = false) : runs (.watchdogExpired u) s fun t =>
      (∃ h : HangRecord, t.resil.ladders = s.resil.ladders ++ [⟨u, 0, s.logs.hangNext.toNat, h⟩] ∧ h.step = s.dial.step ∧ h.pos = s.dial.pos ∧
        h.code = 0x115 ∧ h.tag = s.engineTag (watchedTag u) ∧ h.rungs = 0 ∧ h.done = 0) ∧ t.resil.hangCount = satAdd s.resil.hangCount 1 ∧
      t.logs.hangNext = s.logs.hangNext + 1 ∧ t.logs.errorCounts[0x115]? = (s.logs.errorCounts[0x115]?).map (satAdd · 1) ∧
      s.onlyIn t [.logs, .resil] := by
  have hexec : exec (.watchdogExpired u) s = .next (((s.logDevice 0x115 (s.nameUnit u) 0 0).onLogs fun l => { l with hangNext := l.hangNext + 1 }).onResil
      fun r => { r with
        hangs := setAt r.hangs s.logs.hangNext.toNat HangRecord.zero, hangCount := satAdd r.hangCount 1
        ladders := r.ladders ++ [⟨u, 0, s.logs.hangNext.toNat, s.hangHeader u⟩] }) :=
    congrArg Host.Outcome.next (if_neg (by rw [hloaded, hnew]; decide))
  have hresil : (s.logDevice 0x115 (s.nameUnit u) 0 0).resil = s.resil :=
    (State.logDevice_within (State.within_refl s [.logs]) (List.Subset.refl _)).resil (by decide)
  refine ⟨_, hexec, ⟨s.hangHeader u, ?_, rfl, rfl, rfl, rfl, rfl, rfl⟩, ?_, ?_, ?_, onlyIn_of_exec hexec⟩
  · rw [State.onResil_resil, State.onLogs_resil, hresil]
  · rw [State.onResil_resil, State.onLogs_resil, hresil]
  · rw [State.onResil_logs, State.onLogs_logs, State.logDevice_hangNext]
  · rw [State.onResil_logs, State.onLogs_logs, State.logDevice_errorCounts_same (by decide) (by decide)]

/-! ### The end of a record (R462, R463) -/

/-- The record is written. -/
def State.recordWritten (s : State) (l : Ladder) (whole : Bool) : State :=
  let body := if whole then s.hangBody l.unit s.draws else (List.range 4032).map fun i => Config.hangInternal s.draws (64 + i)
  (s.onResil fun r => { r with
    hangs := setAt r.hangs l.record { l.header with body := body, partial_ := !whole }
    records := if r.records.toNat < 8 then r.records + 1 else r.records }).draw

section
variable {s : State} {l : Ladder}

theorem State.recordWritten_within (whole : Bool) : s.within [.draws, .resil] (s.recordWritten l whole) :=
  State.draw_within (State.onResil_within (State.within_refl s _) (by decide)) (by decide)

/-- Whether a command's record is whole. -/
def endsWhole (c : Instr) : Bool := match c with
  | .hangRecordCollected => true
  | _ => false

variable (hl : s.resil.ladders.find? (fun l => l.rung == 0) = some l)
include hl

theorem exec_endCollection {c : Instr} (hc : c ∈ [Instr.hangRecordCollected, .hangRecordTimeout]) :
    exec c s = .next ((s.recordWritten l (endsWhole c)).beginRung l (s.firstRung l.unit)) := by
  have hend (whole : Bool) : s.endCollection whole = (s.recordWritten l whole).beginRung l (s.firstRung l.unit) := by
    rw [State.endCollection, hl]
    rfl
  obtain rfl | hc := List.mem_cons.1 hc
  · exact congrArg Host.Outcome.next (hend true)
  · obtain rfl := List.mem_singleton.1 hc
    exact congrArg Host.Outcome.next (hend false)

omit hl in
theorem not_endsWhole_eq {c : Instr} (hc : c ∈ [Instr.hangRecordCollected, .hangRecordTimeout]) : (!(endsWhole c)) = (c == .hangRecordTimeout) := by
  obtain rfl | hc := List.mem_cons.1 hc
  · rfl
  · obtain rfl := List.mem_singleton.1 hc
    rfl

theorem endCollection_of_lt {c : Instr} (hc : c ∈ [Instr.hangRecordCollected, .hangRecordTimeout]) (hk : s.firstRung l.unit < 4) :
    runs c s fun t => t.resil.lastRung = BitVec.ofNat 3 (s.firstRung l.unit) ∧
      t.resil.ladders = (s.resil.ladders.map fun x => if x.record = l.record then { x with rung := s.firstRung l.unit } else x) ∧
      (l.record < s.resil.hangs.length → ∃ h : HangRecord, t.resil.hangs[l.record]? = some h ∧ h.partial_ = (c == .hangRecordTimeout) ∧
        h.step = l.header.step ∧ h.pos = l.header.pos ∧ h.code = l.header.code ∧ h.tag = l.header.tag ∧ h.rungs = l.header.rungs + 1) ∧
      t.cfg = s.cfg ∧ t.power = s.power ∧ t.flash = s.flash ∧ t.start = s.start ∧ t.run = s.run := by
  obtain ⟨hlast, hladders, hhangs, -⟩ := (s.recordWritten l (endsWhole c)).beginRung_resil_of_lt l hk
  have hwritten := State.recordWritten_within (s := s) (l := l) (endsWhole c)
  have hrung := State.beginRung_within_of_lt (s := s.recordWritten l (endsWhole c)) (l := l) hk
  refine ⟨_, exec_endCollection hl hc, hlast, hladders, fun hlt => ?_, ?_, ?_, ?_, ?_, ?_⟩
  · refine ⟨{ l.header with
      body := if (endsWhole c) then s.hangBody l.unit s.draws else (List.range 4032).map fun i => Config.hangInternal s.draws (64 + i)
      partial_ := !(endsWhole c), rungs := l.header.rungs + 1 }, ?_, not_endsWhole_eq hc, rfl, rfl, rfl, rfl, rfl⟩
    rw [hhangs, modifyAt, List.getElem?_modify_eq, State.recordWritten, State.draw_resil, State.onResil_resil, setAt, List.getElem?_set_self hlt]
    rfl
  · rw [hrung.cfg (by decide), hwritten.cfg (by decide)]
  · rw [hrung.power (by decide), hwritten.power (by decide)]
  · rw [hrung.flash (by decide), hwritten.flash (by decide)]
  · rw [hrung.start (by decide), hwritten.start (by decide)]
  · rw [hrung.run (by decide), hwritten.run (by decide)]

theorem endCollection_of_four {c : Instr} (hc : c ∈ [Instr.hangRecordCollected, .hangRecordTimeout]) (hk : 4 ≤ s.firstRung l.unit) :
    runs c s fun t => t.resil.lastRung = 4 ∧ t.start.begun = false ∧ t.start.loaded = false ∧ t.links.ports = s.links.ports ∧ t.cfg = s.cfg ∧
      t.flash = s.flash ∧ t.pending = s.pending ∧ t.resil.tagDevice = s.resil.tagDevice + 1 :=
  ⟨_, exec_endCollection hl hc, (s.recordWritten l (endsWhole c)).beginRung_of_four l hk⟩

end

theorem endCollection_of_none {s : State} (hl : s.resil.ladders.find? (fun l => l.rung == 0) = none) :
    runs .hangRecordCollected s (fun t => t = s) ∧ runs .hangRecordTimeout s fun t => t = s := by
  have hend (whole : Bool) : s.endCollection whole = s := by rw [State.endCollection, hl]
  exact ⟨⟨_, congrArg Host.Outcome.next (hend true), rfl⟩, ⟨_, congrArg Host.Outcome.next (hend false), rfl⟩⟩

/-! ### The end of a rung (R463, R465) -/

theorem resetRung_of_none {s : State} (hl : s.resil.ladders.find? (fun l => l.rung != 0) = none) :
    runs .resetRungComplete s (fun t => t = s) ∧ runs .resetRungTimeout s fun t => t = s := by
  refine ⟨⟨_, ?_, rfl⟩, ⟨_, ?_, rfl⟩⟩
  · change execResetRungComplete s = _
    rw [execResetRungComplete, hl]
  · change execResetRungTimeout s = _
    rw [execResetRungTimeout, hl]

section
variable {s : State} {l : Ladder} (hl : s.resil.ladders.find? (fun l => l.rung != 0) = some l)

/-- Tags are all that an advance changes of the resilience state. -/
theorem State.advanceEngines_ladders (s : State) (ks : List Nat) : (s.advanceEngines ks).resil.ladders = s.resil.ladders ∧
    (s.advanceEngines ks).resil.passed = s.resil.passed := ⟨rfl, rfl⟩

theorem State.foldl_advanceBlock_ladders (s : State) (bs : List Nat) : (bs.foldl State.advanceBlock s).resil.ladders = s.resil.ladders ∧
    (bs.foldl State.advanceBlock s).resil.passed = s.resil.passed := by
  rw [State.foldl_advanceBlock, (State.advanceEngines_ladders _ _).1, (State.advanceEngines_ladders _ _).2, State.advanceBlockTags_resil]
  exact ⟨rfl, rfl⟩

theorem State.advanceEngines_lookup (s : State) (k : Nat) :
    lookupNat k (s.advanceEngines [k]).resil.tagEngines = some ((lookupNat k s.resil.tagEngines).getD 0 + 1) :=
  lookupNat_insertKey_same ..

theorem State.advanceBlock_tag {s : State} {b : Nat} (hb : b < s.blocks.length) : ((s.advanceBlock b).block b).tag = (s.block b).tag + 1 := by
  have htag := State.advanceBlockTag_tag b hb
  rw [if_pos rfl] at htag
  have hblocks := (State.advanceEngines_within (ks := cellKeys b) (State.within_refl (s.advanceBlockTag b) [.resil])
    (List.Subset.refl _)).blocks (by decide)
  rw [State.advanceBlock, State.block, hblocks]
  exact htag

theorem State.advanceTags_ladders (s : State) (u : WatchedUnit) (k : Nat) : (s.advanceTags u k).resil.ladders = s.resil.ladders ∧
    (s.advanceTags u k).resil.passed = s.resil.passed := by
  match k with
  | 0 => exact ⟨rfl, rfl⟩
  | 1 =>
    rw [State.advanceTags_rung1]
    exact s.advanceEngines_ladders _
  | 2 =>
    have hblock := s.foldl_advanceBlock_ladders [watchedBlock u]
    rwa [List.foldl_cons, List.foldl_nil, ← State.advanceTags_rung2] at hblock
  | 3 =>
    rw [State.advanceTags_rung3, State.onResil_resil, (State.advanceEngines_ladders _ _).1, (State.advanceEngines_ladders _ _).2]
    exact s.foldl_advanceBlock_ladders _
  | k + 4 => exact ⟨rfl, rfl⟩

include hl

theorem resetRungComplete_of_ladder : runs .resetRungComplete s fun t => ∃ v : State, t = v.settle ∧
    v.resil.ladders = s.resil.ladders.filter (fun x => x.record != l.record) ∧ v.resil.passed = s.resil.passed ++ [(l.unit, l.rung)] ∧
    (l.rung = 1 → lookupNat (watchedTag l.unit) v.resil.tagEngines = some ((lookupNat (watchedTag l.unit) s.resil.tagEngines).getD 0 + 1)) ∧
    (l.rung = 2 → (v.block (watchedBlock l.unit)).tag = (s.block (watchedBlock l.unit)).tag + 1 ∨ s.blocks.length ≤ watchedBlock l.unit) ∧
    s.onlyIn v [.blocks, .resil] := by
  refine ⟨_, exec_resetRungComplete_of_ladder hl, _, rfl, ?_, ?_, fun h1 => ?_, fun h2 => ?_, ?_⟩
  · rw [State.onResil_resil, (State.advanceTags_ladders _ _ _).1]
    rfl
  · rw [State.onResil_resil, (State.advanceTags_ladders _ _ _).2]
    rfl
  · rw [h1, State.advanceTags_rung1, State.onResil_resil]
    exact State.advanceEngines_lookup _ _
  · by_cases hlen : watchedBlock l.unit < s.blocks.length
    · refine .inl ?_
      rw [h2, State.advanceTags_rung2, State.block, State.onResil_blocks]
      exact State.advanceBlock_tag (s := s.onHang l.record _) hlen
    · exact .inr (by omega)
  · exact (State.onResil_within (State.advanceTags_within (State.onHang_within (State.within_refl s _) (by decide)) (by decide)) (by decide)).1

theorem resetRungTimeout_of_lt (hk : nextRung l.unit l.rung < 4) : runs .resetRungTimeout s fun t =>
    t.resil.lastRung = BitVec.ofNat 3 (nextRung l.unit l.rung) ∧
      t.logs.errorCounts[0x116]? = (s.logs.errorCounts[0x116]?).map (satAdd · 1) := by
  obtain ⟨hlast, -, -, hcount⟩ := (s.logDevice 0x116 (s.nameUnit l.unit) 0 0).beginRung_resil_of_lt l hk
  refine ⟨_, exec_resetRungTimeout_of_ladder hl, hlast, ?_⟩
  rw [hcount, State.logDevice_errorCounts_same (by decide) (by decide)]

theorem resetRungTimeout_of_four (hk : 4 ≤ nextRung l.unit l.rung) : runs .resetRungTimeout s fun t =>
    t.resil.lastRung = 4 ∧ t.start.begun = false ∧ t.start.loaded = false := by
  obtain ⟨hlast, hbegun, hloaded, -⟩ := (s.logDevice 0x116 (s.nameUnit l.unit) 0 0).beginRung_of_four l hk
  exact ⟨_, exec_resetRungTimeout_of_ladder hl, hlast, hbegun, hloaded⟩

end

/-- Settles O52: what a rung drops and resets leaves the ladders and their records, which the rung itself then moves on. -/
theorem resetLadder : Obligations.ResetLadder := fun _ =>
  ⟨watchdogExpired_of_watched, watchdogExpired_of_laddered,
    fun _ hl => fun _ hc => ⟨endCollection_of_lt hl hc, endCollection_of_four hl hc⟩, endCollection_of_none, resetRung_of_none,
    fun _ hl => ⟨resetRungComplete_of_ladder hl, resetRungTimeout_of_lt hl, resetRungTimeout_of_four hl⟩⟩

end Sys2Proof.Machine
end


section
/-! PROOFS. Wear, spare swaps and their ends (R27, R467–R469, R485). -/

namespace Sys2Proof.Machine

set_option Elab.async false

/-! ### Wear (R467) -/

/-- The unit that a reading is of. -/
def wearUnit (r : WearReading) : Nat := r.cell.elim (blockUnit r.block.val) fun c => cellUnit r.block.val c.val

section
variable {s : State} {r : WearReading}

theorem State.wearReading_of_none (h : lookupNat (wearUnit r) s.resil.baselines = none) : s.wearReading r = s.onResil fun x => { x with
    baselines := insertKey (wearUnit r) r.kHz x.baselines, toRecord := x.toRecord ++ [s.repairNow 0 0 (wearUnit r) r.kHz 0] } := by
  obtain ⟨block, cell, kHz⟩ := r
  cases cell with
  | none =>
    rw [State.wearReading]
    dsimp only
    rw [show lookupNat (blockUnit block.val) s.resil.baselines = none from h]
    rfl
  | some c =>
    rw [State.wearReading]
    dsimp only
    rw [show lookupNat (cellUnit block.val c.val) s.resil.baselines = none from h]
    rfl

theorem State.wearReading_of_some {b : Nat} (h : lookupNat (wearUnit r) s.resil.baselines = some b) :
    s.wearReading r = if 100 * r.kHz > 94 * b then s else s.wornOut 1 (wearUnit r) 0 noName := by
  obtain ⟨block, cell, kHz⟩ := r
  cases cell with
  | none =>
    rw [State.wearReading]
    dsimp only
    rw [show lookupNat (blockUnit block.val) s.resil.baselines = some b from h]
    rfl
  | some c =>
    rw [State.wearReading]
    dsimp only
    rw [show lookupNat (cellUnit block.val c.val) s.resil.baselines = some b from h]
    rfl

end

/-- A fence leaves the spares and the swaps. -/
theorem State.fence_spares (s : State) (u : Nat) : (s.fence u).resil.swaps = s.resil.swaps ∧ (s.fence u).resil.exhausted = s.resil.exhausted ∧
    (s.fence u).resil.baselines = s.resil.baselines ∧ (s.fence u).resil.failedCells = s.resil.failedCells ∧
    (s.fence u).resil.failedBlocks = s.resil.failedBlocks ∧ (s.fence u).resil.failedSpouts = s.resil.failedSpouts ∧
    (s.fence u).resil.activeBlocks = s.resil.activeBlocks ∧ (s.fence u).resil.activeSpouts = s.resil.activeSpouts := by
  rw [State.fence]
  split <;> exact ⟨rfl, rfl, rfl, rfl, rfl, rfl, rfl, rfl⟩

theorem State.fence_active (s : State) (u b : Nat) :
    ((s.fence u).blocks.getD b BlockState.reset).active = (s.blocks.getD b BlockState.reset).active := by
  rw [State.fence]
  split
  · dsimp only
    rw [modifyAt_getD]
    split <;> rfl
  · dsimp only
    rw [modifyAt_getD]
    split <;> rfl
  · rfl

/-- A unit of kind 1 that is fenced: its spares are as many as before. -/
theorem State.fence_hasSpare (s : State) (u : Nat) : (s.fence u).hasSpare 1 u = s.hasSpare 1 u := by
  obtain ⟨hswaps, -, -, hcells, hblocks, hspouts, hactiveBlocks, hactiveSpouts⟩ := s.fence_spares u
  simp only [State.hasSpare, State.sparesFor, State.spareCells, State.spareBlocks, State.spareSpouts, s.fence_active, hswaps, hcells, hblocks,
    hspouts, hactiveBlocks, hactiveSpouts]

section
variable {s : State} {u code : Nat}

/-- A mark of kind 1: the unit is fenced, and waits for its swap or has none. -/
theorem State.markSwap_of_spare (hmark : s.isMarked 1 u 0 = false) (hspare : s.hasSpare 1 u = true) :
    s.markSwap 1 u 0 code = { s.fence u with resil := { (s.fence u).resil with
      swaps := (s.fence u).resil.swaps ++ [⟨1, u, 0, code, false, false, 0⟩] } } := by
  rw [State.markSwap, if_neg (by rw [hmark]; decide), if_pos rfl]
  exact if_pos ((s.fence_hasSpare u).trans hspare)

theorem State.markSwap_of_no_spare (hmark : s.isMarked 1 u 0 = false) (hspare : s.hasSpare 1 u = false) :
    s.markSwap 1 u 0 code = (s.fence u).noSpare 1 u 0 code false := by
  rw [State.markSwap, if_neg (by rw [hmark]; decide), if_pos rfl]
  exact if_neg (by rw [s.fence_hasSpare u, hspare]; decide)

theorem State.noSpare_effect (s : State) (kind unit detail code : Nat) (recorded : Bool) :
    (s.noSpare kind unit detail code recorded).resil.swaps = s.resil.swaps ∧
    (s.noSpare kind unit detail code recorded).resil.exhausted = s.resil.exhausted ++ [(kind, unit, detail)] ∧
    (s.noSpare kind unit detail code recorded).resil.baselines = s.resil.baselines ∧
    (s.noSpare kind unit detail code recorded).resil.failedBlocks = s.resil.failedBlocks ∧
    (s.noSpare kind unit detail code recorded).logs = (s.logDevice 0x119 noName 0 0).logs := by
  have hresil := (State.logDevice_within (code := 0x119) (who := noName) (dropped := 0) (detail := 0) (State.within_refl s [.logs])
    (List.Subset.refl _)).resil (by decide)
  rw [State.noSpare, hresil]
  exact ⟨rfl, rfl, rfl, rfl, rfl⟩

end

section
variable {s : State} (hloaded : s.start.loaded = true) (hrole : s.roleUp 3 = true)

theorem wearSample_of_unwatched (h : s.start.loaded = false ∨ s.roleUp 3 = false) (rs : List WearReading) :
    runs (.wearSample rs) s fun t => t = s := by
  refine ⟨_, congrArg Host.Outcome.next (if_neg ?_), rfl⟩
  obtain h | h := h <;> rw [h]
  · rw [Bool.false_and]
    decide
  · rw [Bool.and_false]
    decide

include hloaded hrole

theorem exec_wearSample (rs : List WearReading) : exec (.wearSample rs) s = .next (rs.foldl (fun s r => s.wearReading r) s) :=
  congrArg Host.Outcome.next (if_pos (by rw [hloaded, hrole]; rfl))

variable {r : WearReading}

theorem wearSample_of_first (h : lookupNat (wearUnit r) s.resil.baselines = none) : runs (.wearSample [r]) s fun t =>
    t.resil.baselines = insertKey (wearUnit r) r.kHz s.resil.baselines ∧ s.onlyIn t [.resil] := by
  refine ⟨_, exec_wearSample hloaded hrole [r], ?_⟩
  rw [List.foldl_cons, List.foldl_nil, State.wearReading_of_none h]
  exact ⟨rfl, s.onResil_onlyIn _⟩

theorem wearSample_of_sound {b : Nat} (h : lookupNat (wearUnit r) s.resil.baselines = some b)
    (hsound : 94 * b < 100 * r.kHz ∨ s.isMarked 1 (wearUnit r) 0 = true) : runs (.wearSample [r]) s fun t => t = s := by
  refine ⟨_, exec_wearSample hloaded hrole [r], ?_⟩
  rw [List.foldl_cons, List.foldl_nil, State.wearReading_of_some h]
  split
  · rfl
  next hslow =>
    rw [State.wornOut, if_pos (hsound.resolve_left hslow)]

theorem wearSample_of_worn {b : Nat} (h : lookupNat (wearUnit r) s.resil.baselines = some b) (hslow : 100 * r.kHz ≤ 94 * b)
    (hmark : s.isMarked 1 (wearUnit r) 0 = false) : runs (.wearSample [r]) s fun t =>
      t.resil.baselines = s.resil.baselines ∧ t.logs.errorCounts[0x117]? = (s.logs.errorCounts[0x117]?).map (satAdd · 1) ∧
      (s.hasSpare 1 (wearUnit r) = true → t.resil.swaps = s.resil.swaps ++ [⟨1, wearUnit r, 0, 0x117, false, false, 0⟩]) ∧
      (s.hasSpare 1 (wearUnit r) = false → t.resil.swaps = s.resil.swaps ∧ t.resil.exhausted = s.resil.exhausted ++ [(1, wearUnit r, 0)] ∧
        t.logs.errorCounts[0x119]? = (s.logs.errorCounts[0x119]?).map (satAdd · 1)) ∧ s.onlyIn t [.logs, .blocks, .resil] := by
  have hframe : s.onlyIn (s.wornOut 1 (wearUnit r) 0 noName) [.logs, .blocks, .resil] :=
    (State.wornOut_within (State.within_refl s _) (List.Subset.refl _)).1
  refine ⟨_, exec_wearSample hloaded hrole [r], ?_⟩
  rw [List.foldl_cons, List.foldl_nil, State.wearReading_of_some h, if_neg (by omega)]
  refine and_assoc.1 (and_assoc.1 (and_assoc.1 ⟨?_, hframe⟩))
  have hlog := State.logDevice_within (code := 0x117) (who := noName) (dropped := 0) (detail := 0) (State.within_refl s [.logs])
    (List.Subset.refl _)
  have hresil := hlog.resil (by decide)
  rw [State.wornOut, if_neg (by rw [hmark]; decide)]
  have hspare : (s.logDevice 0x117 noName 0 0).hasSpare 1 (wearUnit r) = s.hasSpare 1 (wearUnit r) := by
    rw [State.hasSpare, State.hasSpare, State.sparesFor, State.sparesFor, State.spareCells, State.spareBlocks, State.spareSpouts, hresil,
      hlog.blocks (by decide)]
    rfl
  have hnew : (s.logDevice 0x117 noName 0 0).isMarked 1 (wearUnit r) 0 = false := by rw [State.isMarked, hresil]; exact hmark
  obtain ⟨hswaps, hexhausted, hbaselines, -⟩ := (s.logDevice 0x117 noName 0 0).fence_spares (wearUnit r)
  have hcount : (s.logDevice 0x117 noName 0 0).logs.errorCounts[0x117]? = (s.logs.errorCounts[0x117]?).map (satAdd · 1) :=
    State.logDevice_errorCounts_same (by decide) (by decide)
  have hfenced := (s.logDevice 0x117 noName 0 0).fence_logs (wearUnit r)
  cases hs : s.hasSpare 1 (wearUnit r) with
  | true =>
    rw [State.markSwap_of_spare hnew (hspare.trans hs)]
    dsimp only
    rw [hbaselines, hswaps, hfenced, hresil, hcount]
    exact ⟨⟨⟨rfl, rfl⟩, fun _ => rfl⟩, nofun⟩
  | false =>
    rw [State.markSwap_of_no_spare hnew (hspare.trans hs)]
    obtain ⟨hswaps', hexhausted', hbaselines', -, hlogs'⟩ := ((s.logDevice 0x117 noName 0 0).fence (wearUnit r)).noSpare_effect 1 (wearUnit r) 0 0x117 false
    rw [hbaselines', hswaps', hexhausted', hlogs', hbaselines, hswaps, hexhausted, hresil, State.logDevice_errorCounts_ne (by decide),
      State.logDevice_errorCounts_same (by decide) (by decide), hfenced, hcount, State.logDevice_errorCounts_ne (by decide)]
    exact ⟨⟨⟨rfl, rfl⟩, nofun⟩, fun _ => ⟨rfl, rfl, rfl⟩⟩

end

/-! ### A swap starts (R468) -/

section
variable {s : State}

theorem spareSwap_of_fit {left : Nat} {w : Swap} (hloaded : s.start.loaded = true) (hrole : s.roleUp 5 = true)
    (hidle : s.resil.swaps.any (·.running) = false) (hwin : s.windowLeft = some left)
    (hw : leastBy (fun w => (swapOrder w).1) (s.resil.swaps.filter (s.swapFits left)) = some w) :
    runs .spareSwap s fun t => t.resil.winStarted = s.resil.winStarted + 1 ∧
      t.resil.swaps = (s.resil.swaps.map fun x => if x = w then { x with running := true, began := s.dial.ns } else x) ∧ s.onlyIn t [.resil] := by
  have hexec : exec .spareSwap s = .next (s.onResil fun r => { r with
      winStarted := r.winStarted + 1, swapProgress := fraction r.winDone (r.winStarted + 1)
      swaps := r.swaps.map fun x => if x = w then { x with running := true, began := s.dial.ns } else x }) := by
    change execSpareSwap s = _
    rw [execSpareSwap, if_neg (by rw [hloaded, hrole, hidle]; decide), hwin]
    dsimp only
    rw [hw]
  exact ⟨_, hexec, rfl, rfl, s.onResil_onlyIn _⟩

theorem spareSwap_of_none (h : s.start.loaded = false ∨ s.roleUp 5 = false ∨ s.resil.swaps.any (·.running) = true ∨ s.windowLeft = none ∨
    (∃ left, s.windowLeft = some left ∧ s.resil.swaps.filter (s.swapFits left) = [])) : runs .spareSwap s fun t => t = s := by
  refine ⟨_, ?_, rfl⟩
  change execSpareSwap s = _
  rw [execSpareSwap]
  obtain h | h | h | h | ⟨left, hwin, h⟩ := h
  · rw [if_pos (by rw [h]; rfl)]
  · rw [if_pos (by rw [h, Bool.not_false, Bool.or_true]; rfl)]
  · rw [if_pos (by rw [h, Bool.or_true])]
  · rw [h, ite_self]
  · rw [hwin]
    dsimp only
    rw [h, leastBy, ite_self]

end

/-! ### A swap ends -/

/-- The swap's end where its unit has been repaired. -/
def State.swapEnded (s : State) (w : Swap) : State :=
  (s.logDevice 0x118 noName 0 0).onResil fun r => { r with
    swaps := r.swaps.filter (· != w), swapsDone := satAdd r.swapsDone 1, winDone := r.winDone + 1
    swapProgress := fraction (r.winDone + 1) r.winStarted, toRecord := r.toRecord ++ [s.repairNow w.kind 0 w.unit w.detail w.code] }

theorem spareSwapComplete_of_none {s : State} (powerOk : Bool) (h : s.resil.swaps.find? (·.running) = none ∨ s.windowLeft = none) :
    runs (.spareSwapComplete powerOk) s fun t => t = s := by
  refine ⟨_, ?_, rfl⟩
  change execSpareSwapComplete powerOk s = _
  rw [execSpareSwapComplete]
  obtain h | h := h
  · rw [h]
  · rw [h]
    split <;> rfl

section
variable {s u : State} {w : Swap} {powerOk : Bool} (hw : s.resil.swaps.find? (·.running) = some w) (hwin : s.windowLeft ≠ none)
include hw hwin

theorem exec_spareSwapComplete_of_power (hkind : w.kind = 1) (hclass : unitClass w.unit = 1) :
    exec (.spareSwapComplete false) s = .next (s.sparePowerFailed w) := by
  change execSpareSwapComplete false s = _
  rw [execSpareSwapComplete, hw]
  dsimp only
  rw [if_neg (by rw [Option.isNone_iff_eq_none]; exact hwin), if_pos ⟨hkind, hclass, rfl⟩]

theorem exec_spareSwapComplete_of_none (hpower : ¬ (w.kind = 1 ∧ unitClass w.unit = 1 ∧ (!powerOk) = true)) (hu : s.repairUnit w = none) :
    exec (.spareSwapComplete powerOk) s =
      .next ((s.noSpare w.kind w.unit w.detail w.code w.recorded).onResil fun r => { r with swaps := r.swaps.filter (· != w) }) := by
  change execSpareSwapComplete powerOk s = _
  rw [execSpareSwapComplete, hw]
  dsimp only
  rw [if_neg (by rw [Option.isNone_iff_eq_none]; exact hwin), if_neg hpower, hu]

theorem exec_spareSwapComplete_of_some (hpower : ¬ (w.kind = 1 ∧ unitClass w.unit = 1 ∧ (!powerOk) = true)) (hu : s.repairUnit w = some u) :
    exec (.spareSwapComplete powerOk) s = .next (u.swapEnded w) := by
  change execSpareSwapComplete powerOk s = _
  rw [execSpareSwapComplete, hw]
  dsimp only
  rw [if_neg (by rw [Option.isNone_iff_eq_none]; exact hwin), if_neg hpower, hu]
  rfl

/-- No spare is left. -/
theorem spareSwapComplete_of_no_spare (hpower : ¬ (w.kind = 1 ∧ unitClass w.unit = 1 ∧ (!powerOk) = true)) (hu : s.repairUnit w = none) :
    runs (.spareSwapComplete powerOk) s fun t => t.resil.swaps = s.resil.swaps.filter (· != w) ∧
      t.resil.exhausted = s.resil.exhausted ++ [(w.kind, w.unit, w.detail)] ∧
      t.logs.errorCounts[0x119]? = (s.logs.errorCounts[0x119]?).map (satAdd · 1) ∧ s.onlyIn t [.logs, .resil] := by
  obtain ⟨hswaps, hexhausted, -, -, hlogs⟩ := s.noSpare_effect w.kind w.unit w.detail w.code w.recorded
  refine ⟨_, exec_spareSwapComplete_of_none hw hwin hpower hu, ?_, ?_, ?_, ?_⟩
  · rw [State.onResil_resil, hswaps]
  · rw [State.onResil_resil, hexhausted]
  · rw [State.onResil_logs, hlogs, State.logDevice_errorCounts_same (by decide) (by decide)]
  · exact (State.onResil_within (State.noSpare_within (State.within_refl s _) (by decide)) (by decide)).1

/-- A repair that leaves the counts of swaps and the logs ends the swap; what it did stands after it. -/
theorem spareSwapComplete_of_repair (hpower : ¬ (w.kind = 1 ∧ unitClass w.unit = 1 ∧ (!powerOk) = true)) (hu : s.repairUnit w = some u)
    (hresil : u.resil.swaps = s.resil.swaps ∧ u.resil.swapsDone = s.resil.swapsDone ∧ u.resil.winDone = s.resil.winDone)
    (hlogs : u.logs = s.logs) {post : State → Prop}
    (hpost : ∀ t : State, (∀ p, p ∉ [Part.logs, .resil] → p.same u t) → t.resil.activeBlocks = u.resil.activeBlocks →
      t.resil.failedBlocks = u.resil.failedBlocks → t.resil.failedCells = u.resil.failedCells → t.resil.activeSpouts = u.resil.activeSpouts →
      t.resil.failedSpouts = u.resil.failedSpouts → t.resil.groupsUsed = u.resil.groupsUsed → post t) :
    runs (.spareSwapComplete powerOk) s fun t => post t ∧ t.resil.swaps = s.resil.swaps.filter (· != w) ∧
      t.resil.swapsDone = satAdd s.resil.swapsDone 1 ∧ t.resil.winDone = s.resil.winDone + 1 ∧
      t.logs.errorCounts[0x118]? = (s.logs.errorCounts[0x118]?).map (satAdd · 1) := by
  obtain ⟨hswaps, hdone, hwins⟩ := hresil
  have hlog := (State.logDevice_within (code := 0x118) (who := noName) (dropped := 0) (detail := 0) (State.within_refl u [.logs, .resil])
    (by decide))
  have hkept : (u.logDevice 0x118 noName 0 0).resil = u.resil :=
    (State.logDevice_within (State.within_refl u [.logs]) (List.Subset.refl _)).resil (by decide)
  refine ⟨_, exec_spareSwapComplete_of_some hw hwin hpower hu, hpost _ (State.onResil_within hlog (by decide)).1 ?_ ?_ ?_ ?_ ?_ ?_, ?_, ?_, ?_, ?_⟩
  all_goals rw [State.swapEnded]
  case refine_10 => rw [State.onResil_logs, State.logDevice_errorCounts_same (by decide) (by decide), hlogs]
  all_goals rw [State.onResil_resil, hkept]
  · rw [hswaps]
  · rw [hdone]
  · rw [hwins]

end

/-! ### The repairs -/

section
variable {s : State} {w : Swap} {powerOk : Bool} (hw : s.resil.swaps.find? (·.running) = some w) (hwin : s.windowLeft ≠ none)

section
variable {n : Nat} {rest : List Nat}

theorem State.repairUnit_cell (hkind : w.kind = 1) (hclass : unitClass w.unit = 0) : s.repairUnit w =
    (s.spareCells (unitBlock w.unit)).head?.map fun c => (s.onBlock (unitBlock w.unit) fun x => { x with
      active := (x.active &&& ~~~(1#17 <<< unitIndex w.unit)) ||| (1#17 <<< c), cellsFenced := x.cellsFenced &&& ~~~(1#17 <<< unitIndex w.unit) }).onResil
      fun r => { r with failedCells := (unitBlock w.unit / 9, unitBlock w.unit % 9, unitIndex w.unit) :: r.failedCells } := by
  rw [State.repairUnit, hkind]
  change s.bringIn w.unit = _
  rw [State.bringIn, hclass]
  rfl

theorem State.repairUnit_block (hkind : w.kind = 1) (hclass : unitClass w.unit = 1) : s.repairUnit w =
    (s.spareBlocks (unitBlock w.unit / 9)).head?.map fun n => (s.onResil fun r => { r with
      activeBlocks := modifyAt r.activeBlocks (unitBlock w.unit / 9) fun m => (m &&& ~~~(1#9 <<< (unitBlock w.unit % 9))) ||| (1#9 <<< n)
      failedBlocks := (unitBlock w.unit / 9, unitBlock w.unit % 9) :: r.failedBlocks }).domainUp (9 * (unitBlock w.unit / 9) + n) := by
  rw [State.repairUnit, hkind]
  change s.bringIn w.unit = _
  rw [State.bringIn, hclass]
  rfl

theorem State.repairUnit_spout (hkind : w.kind = 1) (hclass : 2 ≤ unitClass w.unit) : s.repairUnit w =
    (s.spareSpouts (unitRegion w.unit)).head?.map fun n => s.onResil fun x => { x with
      activeSpouts := modifyAt x.activeSpouts (unitRegion w.unit) fun m => (m &&& ~~~(1#9 <<< unitIndex w.unit)) ||| (1#9 <<< n)
      failedSpouts := (unitRegion w.unit, unitIndex w.unit) :: x.failedSpouts
      fencedSpouts := x.fencedSpouts.filter (· != (unitRegion w.unit, unitIndex w.unit)) } := by
  rw [State.repairUnit, hkind]
  change s.bringIn w.unit = _
  rw [State.bringIn]
  split
  next h => omega
  next h => omega
  · rfl

end

/-- A spare that fails is a spare no more; the others stay. -/
theorem State.spareBlocks_of_failed {r n : Nat} {rest : List Nat} (h : s.spareBlocks r = n :: rest) {t : State}
    (hactive : t.resil.activeBlocks = s.resil.activeBlocks) (hfailed : t.resil.failedBlocks = (r, n) :: s.resil.failedBlocks) :
    t.spareBlocks r = rest := by
  have hsplit : t.spareBlocks r = (s.spareBlocks r).filter (· != n) := by
    rw [State.spareBlocks, State.spareBlocks, List.filter_filter, hactive, hfailed]
    refine List.filter_congr fun b _ => ?_
    rw [List.contains_cons]
    by_cases hb : b = n
    · subst hb; simp
    · have hpair : ((r, b) == (r, n)) = false := beq_false_of_ne fun heq => hb (congrArg Prod.snd heq)
      have hne : (b != n) = true := bne_iff_ne.2 hb
      rw [hpair, hne, Bool.false_or, Bool.true_and]
  have hnodup : (n :: rest).Nodup := h ▸ List.nodup_range.filter _
  obtain ⟨hn, -⟩ := List.nodup_cons.1 hnodup
  rw [hsplit, h, List.filter_cons_of_neg (by rw [bne_self_eq_false]; decide)]
  exact List.filter_eq_self.2 fun b hb => bne_iff_ne.2 fun heq => hn (heq ▸ hb)

/-- The spare is marked failed. -/
def State.spareFailed (s : State) (r n : Nat) : State :=
  let s := s.onResil fun x => { x with
    failedBlocks := (r, n) :: x.failedBlocks, toRecord := x.toRecord ++ [s.repairNow 1 0 (blockUnit (9 * r + n)) 0 0x125] }
  let s := s.logDevice 0x125 noName 0 0
  { s with power := { s.power with failed := satAdd s.power.failed 1 } }

theorem State.sparePowerFailed_eq {n : Nat} {rest : List Nat} (h : s.spareBlocks (unitRegion w.unit) = n :: rest) :
    s.sparePowerFailed w = if ((s.spareFailed (unitRegion w.unit) n).spareBlocks (unitRegion w.unit)).isEmpty then
      ((s.spareFailed (unitRegion w.unit) n).noSpare w.kind w.unit w.detail w.code w.recorded).onResil fun x => { x with swaps := x.swaps.filter (· != w) }
    else (s.spareFailed (unitRegion w.unit) n).onResil fun x => { x with swaps := x.swaps.map fun y => { y with running := false } } := by
  rw [State.sparePowerFailed, h]
  rfl

theorem State.spareFailed_effect (s : State) (r n : Nat) : (s.spareFailed r n).resil.swaps = s.resil.swaps ∧
    (s.spareFailed r n).resil.failedBlocks = (r, n) :: s.resil.failedBlocks ∧ (s.spareFailed r n).resil.activeBlocks = s.resil.activeBlocks ∧
    (s.spareFailed r n).power.failed = satAdd s.power.failed 1 ∧
    (s.spareFailed r n).logs.errorCounts[0x125]? = (s.logs.errorCounts[0x125]?).map (satAdd · 1) ∧
    (s.spareFailed r n).logs.errorCounts[0x119]? = s.logs.errorCounts[0x119]? := by
  have hframe (u : State) : (u.logDevice 0x125 noName 0 0).resil = u.resil ∧ (u.logDevice 0x125 noName 0 0).power = u.power :=
    ⟨(State.logDevice_within (State.within_refl u [.logs]) (List.Subset.refl _)).resil (by decide), u.logDevice_power ..⟩
  rw [State.spareFailed]
  dsimp only
  rw [(hframe _).1, (hframe _).2, State.logDevice_errorCounts_same (by decide) (by decide), State.logDevice_errorCounts_ne (by decide)]
  exact ⟨rfl, rfl, rfl, rfl, rfl, rfl⟩

include hw hwin

theorem spareSwapComplete_of_power {n : Nat} {rest : List Nat} (hkind : w.kind = 1) (hclass : unitClass w.unit = 1)
    (h : s.spareBlocks (unitRegion w.unit) = n :: rest) : runs (.spareSwapComplete false) s fun t =>
      t.resil.failedBlocks = (unitRegion w.unit, n) :: s.resil.failedBlocks ∧
      t.logs.errorCounts[0x125]? = (s.logs.errorCounts[0x125]?).map (satAdd · 1) ∧ t.power.failed = satAdd s.power.failed 1 ∧
      (rest = [] → t.resil.swaps = s.resil.swaps.filter (· != w) ∧
        t.logs.errorCounts[0x119]? = (s.logs.errorCounts[0x119]?).map (satAdd · 1)) ∧
      (rest ≠ [] → t.resil.swaps = s.resil.swaps.map fun y => { y with running := false }) := by
  obtain ⟨hswaps, hfailed, hactive, hpower, hcount, hnone⟩ := s.spareFailed_effect (unitRegion w.unit) n
  have hrest := State.spareBlocks_of_failed h hactive hfailed
  refine ⟨_, exec_spareSwapComplete_of_power hw hwin hkind hclass, ?_⟩
  rw [State.sparePowerFailed_eq h, hrest]
  cases rest with
  | nil =>
    obtain ⟨hswaps', -, -, hfailed', hlogs'⟩ := (s.spareFailed (unitRegion w.unit) n).noSpare_effect w.kind w.unit w.detail w.code w.recorded
    have hpower' := (State.noSpare_within (kind := w.kind) (unit := w.unit) (detail := w.detail) (code := w.code) (recorded := w.recorded)
      (State.within_refl (s.spareFailed (unitRegion w.unit) n) [.logs, .resil]) (List.Subset.refl _)).power (by decide)
    rw [List.isEmpty_nil, if_pos rfl, State.onResil_resil, State.onResil_logs, State.onResil_power, hpower', hlogs']
    dsimp only
    rw [hfailed', hfailed, hswaps', hswaps, hpower, State.logDevice_errorCounts_ne (by decide),
      State.logDevice_errorCounts_same (by decide) (by decide), hcount, hnone]
    exact ⟨rfl, rfl, rfl, fun _ => ⟨rfl, rfl⟩, fun hne => absurd rfl hne⟩
  | cons b bs =>
    rw [List.isEmpty_cons, if_neg (by decide), State.onResil_resil, State.onResil_logs, State.onResil_power]
    dsimp only
    rw [hfailed, hswaps, hpower, hcount]
    exact ⟨rfl, rfl, rfl, nofun, fun _ => rfl⟩

theorem spareSwapComplete_of_cell {c : Nat} {rest : List Nat} (hkind : w.kind = 1) (hclass : unitClass w.unit = 0)
    (hspare : s.spareCells (unitBlock w.unit) = c :: rest) (hlen : unitBlock w.unit < s.blocks.length) :
    runs (.spareSwapComplete powerOk) s fun t => ((t.block (unitBlock w.unit)).active =
        ((s.block (unitBlock w.unit)).active &&& ~~~(1#17 <<< unitIndex w.unit)) ||| (1#17 <<< c) ∧
        t.resil.failedCells = (unitBlock w.unit / 9, unitBlock w.unit % 9, unitIndex w.unit) :: s.resil.failedCells) ∧
      t.resil.swaps = s.resil.swaps.filter (· != w) ∧ t.resil.swapsDone = satAdd s.resil.swapsDone 1 ∧
      t.resil.winDone = s.resil.winDone + 1 ∧ t.logs.errorCounts[0x118]? = (s.logs.errorCounts[0x118]?).map (satAdd · 1) := by
  have hu := State.repairUnit_cell (s := s) hkind hclass
  rw [hspare] at hu
  refine spareSwapComplete_of_repair hw hwin (fun h => by omega) hu ⟨rfl, rfl, rfl⟩ rfl fun t hsame _ _ hcells _ _ _ => ⟨?_, hcells⟩
  have hblocks : t.blocks = _ := hsame .blocks (by decide)
  rw [State.block, hblocks, State.onResil_blocks, State.onBlock_blocks, modifyAt_getD, if_pos ⟨rfl, hlen⟩]
  rfl

theorem spareSwapComplete_of_block {n : Nat} {rest : List Nat} (hkind : w.kind = 1) (hclass : unitClass w.unit = 1) (hpower : powerOk = true)
    (hspare : s.spareBlocks (unitBlock w.unit / 9) = n :: rest) : runs (.spareSwapComplete powerOk) s fun t =>
      (t.resil.activeBlocks = modifyAt s.resil.activeBlocks (unitBlock w.unit / 9)
          (fun m => (m &&& ~~~(1#9 <<< (unitBlock w.unit % 9))) ||| (1#9 <<< n)) ∧
        t.resil.failedBlocks = (unitBlock w.unit / 9, unitBlock w.unit % 9) :: s.resil.failedBlocks) ∧
      t.resil.swaps = s.resil.swaps.filter (· != w) ∧ t.resil.swapsDone = satAdd s.resil.swapsDone 1 ∧
      t.resil.winDone = s.resil.winDone + 1 ∧ t.logs.errorCounts[0x118]? = (s.logs.errorCounts[0x118]?).map (satAdd · 1) := by
  have hu := State.repairUnit_block (s := s) hkind hclass
  rw [hspare] at hu
  exact spareSwapComplete_of_repair hw hwin (fun h => by rw [hpower] at h; exact absurd h.2.2 (by decide)) hu ⟨rfl, rfl, rfl⟩ rfl
    fun t _ hactive hfailed _ _ _ _ => ⟨hactive, hfailed⟩

theorem spareSwapComplete_of_spout {n : Nat} {rest : List Nat} (hkind : w.kind = 1) (hclass : 2 ≤ unitClass w.unit)
    (hspare : s.spareSpouts (unitRegion w.unit) = n :: rest) : runs (.spareSwapComplete powerOk) s fun t =>
      (t.resil.activeSpouts = modifyAt s.resil.activeSpouts (unitRegion w.unit)
          (fun m => (m &&& ~~~(1#9 <<< unitIndex w.unit)) ||| (1#9 <<< n)) ∧
        t.resil.failedSpouts = (unitRegion w.unit, unitIndex w.unit) :: s.resil.failedSpouts) ∧
      t.resil.swaps = s.resil.swaps.filter (· != w) ∧ t.resil.swapsDone = satAdd s.resil.swapsDone 1 ∧
      t.resil.winDone = s.resil.winDone + 1 ∧ t.logs.errorCounts[0x118]? = (s.logs.errorCounts[0x118]?).map (satAdd · 1) := by
  have hu := State.repairUnit_spout (s := s) hkind hclass
  rw [hspare] at hu
  exact spareSwapComplete_of_repair hw hwin (fun h => by omega) hu ⟨rfl, rfl, rfl⟩ rfl
    fun t _ _ _ _ hactive hfailed _ => ⟨hactive, hfailed⟩

/-- A unit of kind 1 without a spare. -/
theorem spareSwapComplete_of_exhausted (hkind : w.kind = 1)
    (hspare : unitClass w.unit = 0 ∧ s.spareCells (unitBlock w.unit) = [] ∨
      unitClass w.unit = 1 ∧ powerOk = true ∧ s.spareBlocks (unitBlock w.unit / 9) = [] ∨
      2 ≤ unitClass w.unit ∧ s.spareSpouts (unitRegion w.unit) = []) :
    runs (.spareSwapComplete powerOk) s fun t => t.resil.swaps = s.resil.swaps.filter (· != w) ∧
      t.resil.exhausted = s.resil.exhausted ++ [(w.kind, w.unit, w.detail)] ∧
      t.logs.errorCounts[0x119]? = (s.logs.errorCounts[0x119]?).map (satAdd · 1) ∧ s.onlyIn t [.logs, .resil] := by
  obtain ⟨hclass, hnone⟩ | ⟨hclass, hpower, hnone⟩ | ⟨hclass, hnone⟩ := hspare
  · exact spareSwapComplete_of_no_spare hw hwin (fun h => by omega) (by rw [State.repairUnit_cell hkind hclass, hnone]; rfl)
  · exact spareSwapComplete_of_no_spare hw hwin (fun h => by rw [hpower] at h; exact absurd h.2.2 (by decide))
      (by rw [State.repairUnit_block hkind hclass, hnone]; rfl)
  · exact spareSwapComplete_of_no_spare hw hwin (fun h => by omega) (by rw [State.repairUnit_spout hkind hclass, hnone]; rfl)

theorem spareSwapComplete_of_lane (hkind : w.kind = 2) : runs (.spareSwapComplete powerOk) s fun t =>
    (field w.unit 0 3 < s.links.ports.length → (t.port (field w.unit 0 3)).spareReady = false ∧
      ∃ seq, (t.port (field w.unit 0 3)).newMap = some ((s.port (field w.unit 0 3)).spareMap (field w.unit 0 3) (field w.unit 3 3), seq)) ∧
    t.resil.swaps = s.resil.swaps.filter (· != w) ∧ t.resil.swapsDone = satAdd s.resil.swapsDone 1 ∧
      t.resil.winDone = s.resil.winDone + 1 ∧ t.logs.errorCounts[0x118]? = (s.logs.errorCounts[0x118]?).map (satAdd · 1) := by
  have hu : s.repairUnit w = some (s.useSpare (field w.unit 0 3) (field w.unit 3 3)) := by
    rw [State.repairUnit, hkind]
    rfl
  have hwithin := State.useSpare_within (p := field w.unit 0 3) (lane := field w.unit 3 3) (State.within_refl s [.draws, .links]) (by decide)
  refine spareSwapComplete_of_repair hw hwin (fun h => by omega) hu (by rw [hwithin.resil (by decide)]; exact ⟨rfl, rfl, rfl⟩)
    (hwithin.logs (by decide)) fun t hsame _ _ _ _ _ _ hlen => ?_
  have hlinks : t.links = _ := hsame .links (by decide)
  have hport : t.port (field w.unit 0 3) = (s.port (field w.unit 0 3)).sparing ((s.port (field w.unit 0 3)).spareMap (field w.unit 0 3) (field w.unit 3 3))
      s.spareSeq := by
    rw [State.port_congr hlinks, State.useSpare_eq, State.port_congr (State.draw_links _), State.onPort_port_same hlen]
  rw [hport]
  exact ⟨rfl, _, rfl⟩

theorem spareSwapComplete_of_row {x : ControllerState} (hkind : w.kind = 3) (hx : s.memory.controllers[w.unit]? = some x) :
    runs (.spareSwapComplete powerOk) s fun t => (t.memory.controllers[w.unit]?).map (·.spareRows) = some (x.spareRows ++ [w.detail]) ∧
      t.resil.swaps = s.resil.swaps.filter (· != w) ∧ t.resil.swapsDone = satAdd s.resil.swapsDone 1 ∧
      t.resil.winDone = s.resil.winDone + 1 ∧ t.logs.errorCounts[0x118]? = (s.logs.errorCounts[0x118]?).map (satAdd · 1) := by
  have hu : s.repairUnit w = some (s.onMemory fun m => { m with controllers := modifyAt m.controllers w.unit fun c =>
      { c with spareRows := c.spareRows ++ [w.detail] } }) := by
    rw [State.repairUnit, hkind]
    rfl
  refine spareSwapComplete_of_repair hw hwin (fun h => by omega) hu ⟨rfl, rfl, rfl⟩ rfl fun t hsame _ _ _ _ _ _ => ?_
  have hmem : t.memory = _ := hsame .memory (by decide)
  rw [hmem, State.onMemory_memory]
  dsimp only
  rw [modifyAt, List.getElem?_modify_eq, hx]
  rfl

theorem spareSwapComplete_of_group {x : ControllerState} (hkind : w.kind = 4) (hx : s.memory.controllers[w.unit]? = some x) :
    runs (.spareSwapComplete powerOk) s fun t => ((t.memory.controllers[w.unit]?).map (·.spareBg) = some true ∧
        t.resil.groupsUsed = s.resil.groupsUsed ++ [w.unit]) ∧
      t.resil.swaps = s.resil.swaps.filter (· != w) ∧ t.resil.swapsDone = satAdd s.resil.swapsDone 1 ∧
      t.resil.winDone = s.resil.winDone + 1 ∧ t.logs.errorCounts[0x118]? = (s.logs.errorCounts[0x118]?).map (satAdd · 1) := by
  have hu : s.repairUnit w = some ((s.onMemory fun m => { m with controllers := modifyAt m.controllers w.unit fun c =>
      { c with spareBg := true } }).onResil fun r => { r with groupsUsed := r.groupsUsed ++ [w.unit] }) := by
    rw [State.repairUnit, hkind]
    rfl
  refine spareSwapComplete_of_repair hw hwin (fun h => by omega) hu ⟨rfl, rfl, rfl⟩ rfl fun t hsame _ _ _ _ _ hgroups => ⟨?_, hgroups⟩
  have hmem : t.memory = _ := hsame .memory (by decide)
  rw [hmem, State.onResil_memory, State.onMemory_memory]
  dsimp only
  rw [modifyAt, List.getElem?_modify_eq, hx]
  rfl

theorem spareSwapComplete_of_core (hkind : w.kind = 5) : runs (.spareSwapComplete powerOk) s fun t => s.onlyIn t [.logs, .resil] ∧
      t.resil.swaps = s.resil.swaps.filter (· != w) ∧ t.resil.swapsDone = satAdd s.resil.swapsDone 1 ∧
      t.resil.winDone = s.resil.winDone + 1 ∧ t.logs.errorCounts[0x118]? = (s.logs.errorCounts[0x118]?).map (satAdd · 1) := by
  have hu : s.repairUnit w = some s := by
    rw [State.repairUnit, hkind]
    rfl
  exact spareSwapComplete_of_repair hw hwin (fun h => by omega) hu ⟨rfl, rfl, rfl⟩ rfl fun t hsame _ _ _ _ _ _ => hsame

end

/-- Settles O53: a reading is of one unit, and a swap's end is its repair (`State.repairUnit`) and then one record and one count. -/
theorem wearAndSpares : Obligations.WearAndSpares := by
  intro s
  refine ⟨fun h rs => wearSample_of_unwatched h rs, fun hloaded hrole => ⟨fun rs => ⟨_, exec_wearSample hloaded hrole rs, rfl⟩, fun r => ?_⟩,
    fun left w hloaded hrole hidle hwin hw => spareSwap_of_fit hloaded hrole hidle hwin hw, spareSwap_of_none,
    spareSwapComplete_of_none, fun w powerOk hw hwin => ?_⟩
  · intro unit
    have hunit : unit = wearUnit r := by
      simp only [unit, wearUnit]
      cases r.cell <;> rfl
    clear_value unit
    subst hunit
    exact ⟨wearSample_of_first hloaded hrole, fun b hb => ⟨wearSample_of_sound hloaded hrole hb, wearSample_of_worn hloaded hrole hb⟩⟩
  · exact ⟨fun hkind hclass hnone => spareSwapComplete_of_exhausted hw hwin hkind (.inl ⟨hclass, hnone⟩),
      fun c rest => spareSwapComplete_of_cell hw hwin,
      fun hkind hclass hpower hnone => spareSwapComplete_of_exhausted hw hwin hkind (.inr (.inl ⟨hclass, hpower, hnone⟩)),
      fun n rest => spareSwapComplete_of_block hw hwin,
      fun n rest hkind hclass hpower => by subst hpower; exact spareSwapComplete_of_power hw hwin hkind hclass,
      fun hkind hclass hnone => spareSwapComplete_of_exhausted hw hwin hkind (.inr (.inr ⟨hclass, hnone⟩)),
      fun n rest => spareSwapComplete_of_spout hw hwin, spareSwapComplete_of_lane hw hwin, fun x => spareSwapComplete_of_row hw hwin,
      fun x => spareSwapComplete_of_group hw hwin, spareSwapComplete_of_core hw hwin⟩

end Sys2Proof.Machine
end


section
/-! PROOFS. Cascade engines and their members: presence flits, lost neighbours and notices (R361, R363, R366). -/

namespace Sys2Proof.Machine

set_option Elab.async false

/-! ### Engines and the instances they run -/

section
variable {s t : State} {e : Nat}

theorem State.engine_congr (h : t.cascade = s.cascade) (e : Nat) : t.engine e = s.engine e := by rw [State.engine, State.engine, h]

theorem State.onEngine_engine_same (he : e < s.cascade.engines.length) (f : CascadeEngine → CascadeEngine) :
    (s.onEngine e f).engine e = f (s.engine e) := by rw [State.onEngine_engine, if_pos ⟨rfl, he⟩]

/-- An engine that runs an item is one of the list. -/
theorem State.engine_lt {x : CascadeRun} (h : (s.engine e).run = some x ∨ (s.engine e).proxyRun = some x) : e < s.cascade.engines.length := by
  by_contra hge
  have hreset : s.engine e = CascadeEngine.reset := by
    rw [State.engine, List.getD_eq_getElem?_getD, List.getElem?_eq_none (by omega)]
    rfl
  rw [hreset] at h
  exact h.elim nofun nofun

theorem State.onCascadeRun_engine (he : e < s.cascade.engines.length) (f : CascadeRun → CascadeRun) :
    (s.onCascadeRun e f).engine e = { s.engine e with run := (s.engine e).run.map f } := State.onEngine_engine_same he _

theorem State.onProxyRun_engine (he : e < s.cascade.engines.length) (f : CascadeRun → CascadeRun) :
    (s.onProxyRun e f).engine e = { s.engine e with proxyRun := (s.engine e).proxyRun.map f } := State.onEngine_engine_same he _

theorem State.onEngine_length (f : CascadeEngine → CascadeEngine) (i : Nat) : (s.onEngine i f).cascade.engines.length = s.cascade.engines.length :=
  modifyAt_length ..

/-- A member with its item: what the engine runs, and the reduction that the slot's operation is. -/
theorem State.memberOf_eq_some {x : CascadeRun} {r : Reduction} (h : s.memberOf e false = some (x, r)) :
    (s.engine e).run = some x ∧ s.reduction x.op = some r := by
  obtain ⟨y, hy, hr⟩ := Option.bind_eq_some_iff.1 h
  obtain ⟨z, hz, heq⟩ := Option.map_eq_some_iff.1 hr
  obtain ⟨rfl, rfl⟩ := Prod.mk.inj heq
  exact ⟨hy, hz⟩

theorem State.memberOf_of_run {x : CascadeRun} {r : Reduction} (hx : (s.engine e).run = some x) (hr : s.reduction x.op = some r) :
    s.memberOf e false = some (x, r) := by
  have hmember : s.member e false = some x := hx
  rw [State.memberOf, hmember, Option.bind_some, hr]
  rfl

theorem State.engineOf_eq_some {entry : Nat} {x : CascadeRun} (h : s.engineOf entry = some (e, x)) : (s.engine e).run = some x := by
  obtain ⟨i, -, hi⟩ := List.exists_of_findSome?_eq_some h
  obtain ⟨y, hy, heq⟩ := Option.map_eq_some_iff.1 hi
  obtain ⟨rfl, rfl⟩ := Prod.mk.inj heq
  exact (Option.filter_eq_some_iff.1 hy).1

end

/-! ### Presence (R361) -/

section
variable {s : State} {port : Port} {entry : BitVec 10} {axis : BitVec 2} {engine : Bool}

theorem presence_of_step (hruns : s.dialRuns = true) (hup : s.portUp port.val = true) (haxis : port.val / 2 = axis.toNat) :
    runs (.presence port s.dial.step entry axis engine) s fun t =>
      t.cascade = { s.cascade with heard := insertKey (2 * entry.toNat + bit (port.val % 2 == 0)) s.dialTime s.cascade.heard } ∧
        s.onlyIn t [.cascade] := by
  refine ⟨_, congrArg Host.Outcome.next (if_neg ?_), rfl, (State.noteHeard_within (State.within_refl s _) (List.Subset.refl _)).1⟩
  rw [hruns, hup, haxis, bne_self_eq_false, bne_self_eq_false]
  decide

theorem presence_of_other_step {step : BitVec 48} (hstep : step ≠ s.dial.step) :
    runs (.presence port step entry axis engine) s fun t => t = s := by
  refine ⟨_, congrArg Host.Outcome.next (if_pos ?_), rfl⟩
  rw [bne_iff_ne.2 hstep, Bool.or_true, Bool.true_or]

end

/-! ### A lost neighbour (R361, R363) -/

section
variable {s : State} {engine : Fin 2} {plus : Bool} {x : CascadeRun} {r : Reduction}

/-- What the ring is told of a lost neighbour. -/
def State.lostNeighbour (s : State) (e nb : Nat) : State :=
  s.onCascadeRun e fun x => { x with
    lost := insertNat nb x.lost, restartAt := laterOf x.restartAt s.restartTime
    told := insertNat (nb * 65536 + s.restartTime % 65536) x.told }

/-- The position of a neighbour. -/
def CascadeRun.neighbour (x : CascadeRun) (r : Reduction) (plus : Bool) : Nat := (x.pos + (if plus then 1 else r.n - 1)) % r.n

/-- When a member last heard of its neighbour. -/
def State.lastHeard (s : State) (x : CascadeRun) (r : Reduction) (plus : Bool) : Nat :=
  (lookupNat (2 * s.entryOfRun x + bit (s.axisPort r.axis plus % 2 == 0)) s.cascade.heard).getD x.opened

/-- The notices of a lost neighbour, both ways and to its proxy. -/
def State.tellLost (s : State) (u : State) (e : Nat) (x : CascadeRun) (r : Reduction) (nb : Nat) : State :=
  let coord := withAxis s.coord r.axis nb
  let v := u.sendNotice e false coord 0 s.restartTime
  if r.head || r.op == 3 || v.axisDim r.first == 1 then v
  else v.sendFlit (v.axisPort r.first true) (noticeFlit false coord 0 (s.restartTime % 65536) (v.entryOfRun x) v.dial.step.toNat)

theorem State.tellLost_within {s0 s u : State} {e : Nat} {x : CascadeRun} {r : Reduction} {nb : Nat} {L : List Part} (h : s0.within L u)
    (hL : [.links] ⊆ L) : s0.within L (s.tellLost u e x r nb) :=
  State.within_ite (State.sendNotice_within h hL) (State.sendFlit_within (State.sendNotice_within h hL) hL)

variable (hm : s.memberOf engine.val false = some (x, r)) (hrun : (s.engine engine.val).running = true) (hn : r.n ≠ 1)
  (htwo : r.n = 2 → plus = true) (hnew : x.lost.contains (x.neighbour r plus) = false)
include hm hrun hn htwo hnew

theorem exec_cascadeNeighbourLost : exec (.cascadeNeighbourLost engine plus) s = .next (
    if (s.port (s.axisPort r.axis plus)).state ≠ 4 ∧ s.dialTime < max (s.lastHeard x r plus) x.opened + 768 then s
    else s.tellLost (s.lostNeighbour engine.val (x.neighbour r plus)) engine.val x r (x.neighbour r plus)) := by
  have hring : (!(s.engine engine.val).running || r.n == 1 || (r.n == 2 && !plus) || x.lost.contains (x.neighbour r plus)) = false := by
    have htwo' : (r.n == 2 && !plus) = false := by
      by_cases h : r.n = 2
      · rw [htwo h, Bool.not_true, Bool.and_false]
      · rw [beq_false_of_ne h, Bool.false_and]
    rw [hrun, hnew, beq_false_of_ne hn, htwo']
    rfl
  change execCascadeNeighbourLost engine plus s = _
  rw [execCascadeNeighbourLost]
  dsimp only
  rw [hm]
  exact congrArg Host.Outcome.next (if_neg (by rw [← CascadeRun.neighbour, hring]; decide))

theorem cascadeNeighbourLost_of_lost (hlost : (s.port (s.axisPort r.axis plus)).state = 4 ∨
      max (s.lastHeard x r plus) x.opened + 768 ≤ s.dialTime) : runs (.cascadeNeighbourLost engine plus) s fun t =>
    (t.engine engine.val).run = some { x with
      lost := insertNat (x.neighbour r plus) x.lost, restartAt := laterOf x.restartAt s.restartTime
      told := insertNat (x.neighbour r plus * 65536 + s.restartTime % 65536) x.told } ∧ s.onlyIn t [.cascade, .links] := by
  have hexec := exec_cascadeNeighbourLost hm hrun hn htwo hnew
  rw [if_neg (fun h => by obtain ⟨hport, hheard⟩ := h; obtain hdown | hlate := hlost; exacts [hport hdown, by omega])] at hexec
  obtain ⟨hx, -⟩ := State.memberOf_eq_some hm
  have htold := State.tellLost_within (s := s) (e := engine.val) (x := x) (r := r) (nb := x.neighbour r plus)
    (State.within_refl (s.lostNeighbour engine.val (x.neighbour r plus)) [.links]) (List.Subset.refl _)
  refine ⟨_, hexec, ?_, (State.tellLost_within (State.onCascadeRun_within (State.within_refl s _) (by decide)) (by decide)).1⟩
  rw [State.engine_congr (htold.cascade (by decide)), State.lostNeighbour, State.onCascadeRun_engine (State.engine_lt (.inl hx)), hx]
  rfl

theorem cascadeNeighbourLost_of_heard (hport : (s.port (s.axisPort r.axis plus)).state ≠ 4)
    (hheard : s.dialTime < max (s.lastHeard x r plus) x.opened + 768) : runs (.cascadeNeighbourLost engine plus) s fun t => t = s :=
  ⟨_, (exec_cascadeNeighbourLost hm hrun hn htwo hnew).trans (congrArg Host.Outcome.next (if_pos ⟨hport, hheard⟩)), rfl⟩

end

/-! ### Notices (R363, R366) -/

section
variable {s : State} {port : Port} {split : Bool} {coord : Coord} {cause : BitVec 2} {restart : BitVec 16} {entry : BitVec 10} {r : Reduction}
  (hruns : s.dialRuns = true) (hslot : s.run.run = 2) (hup : s.portUp port.val = true) (hr : s.reductionOf entry.toNat = some r)
  (hring : withAxis coord r.axis 0 = withAxis s.coord r.axis 0)

/-- A notice as it is held. -/
def heldNotice (port : Port) (split : Bool) (coord : Coord) (cause : BitVec 2) (restart : BitVec 16) (entry : BitVec 10) : HeldNotice :=
  ⟨port, split, coord, cause.toNat, restart.toNat, entry.toNat⟩

/-- The flit of a notice. -/
def State.flitOfNotice (s : State) (n : HeldNotice) : Flit := noticeFlit n.split n.coord n.cause n.restart n.entry s.dial.step.toNat

include hruns hslot hup in
theorem exec_notice : exec (.notice port s.dial.step split coord cause restart entry) s =
    .next (s.takeNotice (heldNotice port split coord cause restart entry)) := by
  refine congrArg Host.Outcome.next (if_neg ?_)
  rw [hruns, hslot, hup, bne_self_eq_false, bne_self_eq_false]
  exact Bool.false_ne_true

include hr hring

theorem State.takeNotice_of_engine {e : Nat} {x : CascadeRun} (he : s.engineOf entry.toNat = some (e, x)) :
    s.takeNotice (heldNotice port split coord cause restart entry) =
      if x.told.contains ((heldNotice port split coord cause restart entry).key r.axis) then s else
      ((s.onCascadeRun e fun x => { x with told := insertNat ((heldNotice port split coord cause restart entry).key r.axis) x.told }).forwardNotice
        r.axis (heldNotice port split coord cause restart entry) (s.flitOfNotice (heldNotice port split coord cause restart entry))).applyNotice e r.axis
        (heldNotice port split coord cause restart entry) := by
  rw [State.takeNotice]
  dsimp only [heldNotice]
  rw [hr]
  refine (if_pos hring).trans ?_
  rw [he]
  rfl

theorem State.takeNotice_of_waiting (he : s.engineOf entry.toNat = none) (hnew : (s.cascade.notices.any fun m =>
      m.entry == (heldNotice port split coord cause restart entry).entry &&
        m.key r.axis == (heldNotice port split coord cause restart entry).key r.axis) = false) :
    s.takeNotice (heldNotice port split coord cause restart entry) =
      (s.onCascade fun c => { c with notices := c.notices ++ [heldNotice port split coord cause restart entry] }).forwardNotice r.axis
        (heldNotice port split coord cause restart entry) (s.flitOfNotice (heldNotice port split coord cause restart entry)) := by
  rw [State.takeNotice]
  dsimp only [heldNotice] at *
  rw [hr]
  refine (if_pos hring).trans ?_
  rw [he]
  exact if_neg (by rw [hnew]; decide)

include hruns hslot hup

theorem notice_of_told {e : Nat} {x : CascadeRun} (he : s.engineOf entry.toNat = some (e, x))
    (htold : x.told.contains ((heldNotice port split coord cause restart entry).key r.axis) = true) :
    runs (.notice port s.dial.step split coord cause restart entry) s fun t => t = s := by
  refine ⟨_, exec_notice hruns hslot hup, ?_⟩
  beta_reduce
  rw [State.takeNotice_of_engine hr hring he, if_pos htold]

theorem notice_of_ring {e : Nat} {x : CascadeRun} (he : s.engineOf entry.toNat = some (e, x))
    (htold : x.told.contains ((heldNotice port split coord cause restart entry).key r.axis) = false) (hsplit : split = false)
    (hrun : (s.engine e).running = true) : runs (.notice port s.dial.step split coord cause restart entry) s fun t =>
      (t.engine e).run = some { x with
        told := insertNat ((heldNotice port split coord cause restart entry).key r.axis) x.told
        lost := if cause = 0 then insertNat (axisOf coord r.axis) x.lost else x.lost
        withdrawn := if cause = 1 then insertNat (axisOf coord r.axis) x.withdrawn else x.withdrawn
        restartAt := laterOf x.restartAt (s.noticeTime restart.toNat) } ∧ s.onlyIn t [.cascade, .links] := by
  refine ⟨_, exec_notice hruns hslot hup, ?_⟩
  beta_reduce
  have hx := State.engineOf_eq_some he
  have hlen := State.engine_lt (.inl hx)
  rw [State.takeNotice_of_engine hr hring he, if_neg (by rw [htold]; decide)]
  generalize hkey : (heldNotice port split coord cause restart entry).key r.axis = key
  generalize hu : (s.onCascadeRun e fun x => { x with told := insertNat key x.told }) = u
  have hwithin : s.within [.cascade, .links] (u.forwardNotice r.axis (heldNotice port split coord cause restart entry)
      (s.flitOfNotice (heldNotice port split coord cause restart entry))) :=
    State.forwardNotice_within (hu ▸ State.onCascadeRun_within (State.within_refl s _) (by decide)) (by decide)
  have hforward := State.forwardNotice_within (axis := r.axis) (n := heldNotice port split coord cause restart entry)
    (f := s.flitOfNotice (heldNotice port split coord cause restart entry)) (State.within_refl u [.links]) (List.Subset.refl _)
  generalize (u.forwardNotice r.axis (heldNotice port split coord cause restart entry)
    (s.flitOfNotice (heldNotice port split coord cause restart entry))) = v at hwithin hforward ⊢
  have hengine : v.engine e = { s.engine e with run := some { x with told := insertNat key x.told } } := by
    rw [State.engine_congr (hforward.cascade (by decide)), ← hu, State.onCascadeRun_engine hlen, hx]
    rfl
  have htime : v.noticeTime restart.toNat = s.noticeTime restart.toNat := by
    rw [State.noticeTime, State.noticeTime, hwithin.dial (by decide)]
  rw [State.applyNotice, heldNotice, hsplit, if_neg Bool.false_ne_true]
  dsimp only
  rw [if_neg (by rw [hengine, hrun]; decide), htime]
  refine ⟨?_, (State.onCascadeRun_within hwithin (by decide)).1⟩
  have hzero : (cause.toNat = 0) = (cause = 0) := propext ⟨fun h => BitVec.eq_of_toNat_eq h, fun h => by rw [h]; rfl⟩
  have hone : (cause.toNat = 1) = (cause = 1) := propext ⟨fun h => BitVec.eq_of_toNat_eq h, fun h => by rw [h]; rfl⟩
  rw [State.onCascadeRun_engine (State.engine_lt (.inl (congrArg CascadeEngine.run hengine))), hengine]
  simp only [hzero, hone, Option.map_some]

theorem notice_of_split {e : Nat} {x : CascadeRun} (he : s.engineOf entry.toNat = some (e, x))
    (htold : x.told.contains ((heldNotice port split coord cause restart entry).key r.axis) = false) (hsplit : split = true) :
    runs (.notice port s.dial.step split coord cause restart entry) s fun t =>
      t.dial.haltCause = (if s.dial.haltCause = 0 then 4 else s.dial.haltCause) ∧ s.onlyIn t [.dial, .cascade, .links] := by
  refine ⟨_, exec_notice hruns hslot hup, ?_⟩
  beta_reduce
  rw [State.takeNotice_of_engine hr hring he, if_neg (by rw [htold]; decide)]
  have hwithin (key : Nat) (n : HeldNotice) (f : Flit) : s.within [.cascade, .links]
      ((s.onCascadeRun e fun x => { x with told := insertNat key x.told }).forwardNotice r.axis n f) :=
    State.forwardNotice_within (State.onCascadeRun_within (State.within_refl s _) (by decide)) (by decide)
  rw [State.applyNotice, if_pos (show (heldNotice port split coord cause restart entry).split = true from hsplit), State.haltAtBoundary_haltCause, (hwithin _ _ _).dial (by decide)]
  exact ⟨rfl, (State.haltAtBoundary_within (State.within_step (hwithin _ _ _) (State.within_refl s _) (by decide)) (by decide)).1⟩

theorem notice_of_waiting (he : s.engineOf entry.toNat = none) (hnew : (s.cascade.notices.any fun m =>
      m.entry == (heldNotice port split coord cause restart entry).entry &&
        m.key r.axis == (heldNotice port split coord cause restart entry).key r.axis) = false) :
    runs (.notice port s.dial.step split coord cause restart entry) s fun t =>
      t.cascade.notices = s.cascade.notices ++ [heldNotice port split coord cause restart entry] ∧ s.onlyIn t [.cascade, .links] := by
  refine ⟨_, exec_notice hruns hslot hup, ?_⟩
  beta_reduce
  rw [State.takeNotice_of_waiting hr hring he hnew]
  refine ⟨?_, (State.forwardNotice_within (State.onCascade_within (State.within_refl s _) (by decide)) (by decide)).1⟩
  rw [(State.forwardNotice_within (State.within_refl _ [.links]) (List.Subset.refl _)).cascade (by decide)]
  rfl

end

/-- Settles O45: a notice reaches the engine that has begun its item, or waits for it. -/
theorem cascadePresence : Obligations.CascadePresence := fun s =>
  ⟨fun port step entry axis engine hruns hup haxis =>
      ⟨fun hstep => by subst hstep; exact presence_of_step hruns hup haxis, presence_of_other_step⟩,
    fun engine plus x r hm hrun hn htwo hnew => ⟨cascadeNeighbourLost_of_lost hm hrun hn htwo hnew, cascadeNeighbourLost_of_heard hm hrun hn htwo hnew⟩,
    fun port split coord cause restart entry r hruns hslot hup hr hring => ⟨fun e x he =>
        ⟨notice_of_told hruns hslot hup hr hring he, notice_of_ring hruns hslot hup hr hring he, notice_of_split hruns hslot hup hr hring he⟩,
      notice_of_waiting hruns hslot hup hr hring⟩⟩

end Sys2Proof.Machine
end


section
/-! PROOFS. Cascade packets and restarts (R355, R356, R360, R363, R364, R366, R373). -/

namespace Sys2Proof.Machine

set_option Elab.async false

/-! ### What an item is read from -/

section
variable (s : State)

theorem State.onCascade_reduction (f : CascadeState → CascadeState) (j : Nat) : (s.onCascade f).reduction j = s.reduction j := rfl

theorem State.noteHeard_memberOf (entry port e : Nat) (proxy : Bool) : (s.noteHeard entry port).memberOf e proxy = s.memberOf e proxy := rfl

theorem State.onEngine_noProxy (e : Nat) (f : CascadeEngine → CascadeEngine) (x : CascadeRun) (r : Reduction) :
    (s.onEngine e f).noProxy x r = s.noProxy x r := rfl

theorem State.sendNotice_cascade (e : Nat) (split : Bool) (coord : Coord) (cause restart : Nat) :
    (s.sendNotice e split coord cause restart).cascade = s.cascade :=
  (State.sendNotice_within (State.within_refl s [.links]) (List.Subset.refl _)).cascade (by decide)

end

/-! ### Restarts (R363, R364, R366) -/

/-- A member's restart is due. -/
def CascadeRun.due (x : CascadeRun) (now : Nat) : Bool := x.restartAt.any fun t => decide (t ≤ now)

theorem CascadeRun.due_eq_false {x : CascadeRun} {now : Nat} (h : ∀ t, x.restartAt = some t → now < t) : x.due now = false := by
  rw [CascadeRun.due]
  cases ht : x.restartAt with
  | none => rfl
  | some t => exact decide_eq_false (by have := h t ht; omega)

theorem CascadeRun.due_eq_true {x : CascadeRun} {now t : Nat} (ht : x.restartAt = some t) (h : t ≤ now) : x.due now = true := by
  rw [CascadeRun.due, ht]
  exact decide_eq_true h

/-- This device's own item abandons its data phase. -/
def State.abandoned (s : State) (e : Nat) : State :=
  (s.onCascadeRun e CascadeRun.again).onEngine e fun y => { y with restarts := satAdd y.restarts 1 }

section
variable {s : State} {engine : Fin 2}

theorem exec_cascadeRestart {own other : Bool}
    (hown : ((s.engine engine.val).running && (s.engine engine.val).run.any fun x => x.due s.dialTime) = own)
    (hother : ((s.engine engine.val).proxyRun.any fun x => x.due s.dialTime) = other) : exec (.cascadeRestart engine) s = .next (
    let u := if own then s.restartOwn engine.val else s
    if other then ((u.onProxyRun engine.val CascadeRun.again).startDense engine.val true).replayEarly else u) := by
  subst hown hother
  rfl

theorem cascadeRestart_of_early (h : ∀ y, (s.engine engine.val).run = some y ∨ (s.engine engine.val).proxyRun = some y →
    ∀ at', y.restartAt = some at' → s.dialTime < at') : runs (.cascadeRestart engine) s fun t => t = s := by
  have hnone {o : Option CascadeRun} (ho : ∀ y, o = some y → ∀ at', y.restartAt = some at' → s.dialTime < at') :
      (o.any fun x => x.due s.dialTime) = false := by
    cases o with
    | none => rfl
    | some y => exact CascadeRun.due_eq_false (ho y rfl)
  refine ⟨_, exec_cascadeRestart (own := false) (other := false) ?_ (hnone fun y hy => h y (.inr hy)), rfl⟩
  rw [hnone fun y hy => h y (.inl hy), Bool.and_false]

theorem cascadeRestart_of_proxy {y : CascadeRun} {at' : Nat} (hy : (s.engine engine.val).proxyRun = some y) (hat : y.restartAt = some at')
    (hdue : at' ≤ s.dialTime) (hown : (s.engine engine.val).running = false ∨ ∀ x, (s.engine engine.val).run = some x → x.restartAt = none) :
    runs (.cascadeRestart engine) s fun t => ∃ v : State, t = (v.startDense engine.val true).replayEarly ∧
      (v.engine engine.val).proxyRun = some y.again ∧ (v.engine engine.val).run = (s.engine engine.val).run ∧ s.onlyIn v [.cascade] := by
  have hidle : ((s.engine engine.val).running && (s.engine engine.val).run.any fun x => x.due s.dialTime) = false := by
    obtain h | h := hown
    · rw [h, Bool.false_and]
    · cases hx : (s.engine engine.val).run with
      | none => exact Bool.and_false _
      | some x =>
        have hx' : x.due s.dialTime = false := by rw [CascadeRun.due, h x hx]; rfl
        rw [Option.any_some, hx', Bool.and_false]
  have hproxy : ((s.engine engine.val).proxyRun.any fun x => x.due s.dialTime) = true := by
    rw [hy]
    exact CascadeRun.due_eq_true hat hdue
  have hengine := State.onProxyRun_engine (State.engine_lt (.inr hy)) CascadeRun.again
  refine ⟨_, exec_cascadeRestart hidle hproxy, s.onProxyRun engine.val CascadeRun.again, rfl, ?_, ?_,
    (State.onProxyRun_within (State.within_refl s _) (List.Subset.refl _)).1⟩
  · rw [hengine, hy]
    rfl
  · rw [hengine]

variable {x : CascadeRun} {r : Reduction} {at' : Nat} (hm : s.memberOf engine.val false = some (x, r))
include hm

/-- What an abandoned data phase leaves of its engine. -/
theorem State.abandoned_engine : (s.abandoned engine.val).engine engine.val =
    { s.engine engine.val with run := some x.again, restarts := satAdd (s.engine engine.val).restarts 1 } := by
  obtain ⟨hx, -⟩ := State.memberOf_eq_some hm
  have hlen := State.engine_lt (.inl hx)
  rw [State.abandoned, State.onEngine_engine_same (by rw [State.onCascadeRun, State.onEngine_length]; exact hlen),
    State.onCascadeRun_engine hlen, hx]
  rfl

omit hm in
theorem State.abandoned_within : s.within [.cascade] (s.abandoned engine.val) :=
  State.onEngine_within (State.onCascadeRun_within (State.within_refl s _) (List.Subset.refl _)) (List.Subset.refl _)

variable (hrun : (s.engine engine.val).running = true) (hat : x.restartAt = some at') (hdue : at' ≤ s.dialTime)
  (hproxy : (s.engine engine.val).proxyRun = none)
include hrun hat hdue hproxy

theorem exec_cascadeRestart_of_own : exec (.cascadeRestart engine) s = .next (
    if 2 ≤ x.lost.length || !x.lost.isEmpty && !r.head && r.op != 3 && s.noProxy x r then (s.abandoned engine.val).splitRing engine.val x r
    else (s.abandoned engine.val).startPhase engine.val) := by
  obtain ⟨hx, -⟩ := State.memberOf_eq_some hm
  have hown : ((s.engine engine.val).running && (s.engine engine.val).run.any fun x => x.due s.dialTime) = true := by
    rw [hrun, hx]
    exact CascadeRun.due_eq_true hat hdue
  have hother : ((s.engine engine.val).proxyRun.any fun x => x.due s.dialTime) = false := by rw [hproxy]; rfl
  have hrestart : s.restartOwn engine.val =
      if 2 ≤ x.lost.length || !x.lost.isEmpty && !r.head && r.op != 3 && s.noProxy x r then (s.abandoned engine.val).splitRing engine.val x r
      else (s.abandoned engine.val).startPhase engine.val := by
    rw [State.restartOwn, hm]
    rfl
  rw [exec_cascadeRestart hown hother]
  exact congrArg Host.Outcome.next hrestart

theorem cascadeRestart_of_ring (hlost : x.lost.length < 2) (hclose : x.lost = [] ∨ r.head = true ∨ r.op = 3 ∨ s.noProxy x r = false) :
    runs (.cascadeRestart engine) s fun t => ∃ v : State, t = v.startPhase engine.val ∧ (v.engine engine.val).run = some x.again ∧
      (v.engine engine.val).restarts = satAdd (s.engine engine.val).restarts 1 ∧ s.onlyIn v [.cascade] := by
  have hgoes : (decide (2 ≤ x.lost.length) || !x.lost.isEmpty && !r.head && r.op != 3 && s.noProxy x r) = false := by
    rw [decide_eq_false (by omega), Bool.false_or]
    obtain h | h | h | h := hclose
    · rw [h]; rfl
    · rw [h, Bool.not_true, Bool.and_false, Bool.false_and, Bool.false_and]
    · rw [h, bne_self_eq_false, Bool.and_false, Bool.false_and]
    · rw [h, Bool.and_false]
  have hexec := exec_cascadeRestart_of_own hm hrun hat hdue hproxy
  rw [hgoes, if_neg Bool.false_ne_true] at hexec
  have hengine := State.abandoned_engine hm
  exact ⟨_, hexec, s.abandoned engine.val, rfl, by rw [hengine], by rw [hengine], State.abandoned_within.1⟩

theorem cascadeRestart_of_split
    (hsplit : 2 ≤ x.lost.length ∨ x.lost ≠ [] ∧ r.head = false ∧ r.op ≠ 3 ∧ s.noProxy x r = true) :
    runs (.cascadeRestart engine) s fun t => (t.engine engine.val).running = false ∧
      (t.engine engine.val).restarts = satAdd (s.engine engine.val).restarts 1 ∧
      t.logs.errorCounts[0xE2]? = (s.logs.errorCounts[0xE2]?).map (satAdd · 1) ∧
      t.dial.haltCause = (if s.dial.haltCause = 0 then 4 else s.dial.haltCause) ∧ s.onlyIn t [.dial, .logs, .cascade, .links] := by
  have hends : (decide (2 ≤ x.lost.length) || !x.lost.isEmpty && !r.head && r.op != 3 && s.noProxy x r) = true := by
    obtain h | ⟨hlost, hhead, hop, hnone⟩ := hsplit
    · rw [decide_eq_true h, Bool.true_or]
    · rw [hhead, hnone, bne_iff_ne.2 hop, List.isEmpty_eq_false_iff.2 hlost, Bool.not_false, Bool.or_eq_true]
      exact .inr rfl
  have hexec := exec_cascadeRestart_of_own hm hrun hat hdue hproxy
  rw [hends, if_pos rfl] at hexec
  obtain ⟨hx, -⟩ := State.memberOf_eq_some hm
  have hengine := State.abandoned_engine hm
  have hwithin : s.within [.dial, .logs, .cascade, .links] ((s.abandoned engine.val).splitRing engine.val x r) :=
    State.splitRing_within (State.within_step State.abandoned_within (State.within_refl s _) (by decide)) (by decide)
  generalize hv : s.abandoned engine.val = v at *
  have hvs : s.within [.cascade] v := hv ▸ State.abandoned_within
  have hcascade (coord : Coord) : ((v.logDevice 0x0E2 noName 0 0).sendNotice engine.val true coord 2 0).cascade = v.cascade := by
    rw [State.sendNotice_cascade, (State.logDevice_within (State.within_refl v [.logs]) (List.Subset.refl _)).cascade (by decide)]
  have hlen (coord : Coord) : engine.val < ((v.logDevice 0x0E2 noName 0 0).sendNotice engine.val true coord 2 0).cascade.engines.length := by
    rw [hcascade]
    exact State.engine_lt (.inl (congrArg CascadeEngine.run hengine))
  have hsplitRing : ((v.splitRing engine.val x r).engine engine.val) = { v.engine engine.val with running := false } := by
    rw [State.splitRing]
    rw [State.engine_congr ((State.haltAtBoundary_within (State.within_refl _ [.dial]) (List.Subset.refl _)).cascade (by decide)),
      State.onEngine_engine_same (hlen _), State.engine_congr (hcascade _)]
  refine ⟨_, hexec, by rw [hsplitRing], by rw [hsplitRing, hengine], ?_, ?_, hwithin.1⟩
  · rw [State.splitRing]
    rw [State.haltAtBoundary_logs, State.onEngine_logs, (State.sendNotice_within (State.within_refl _ [.links]) (List.Subset.refl _)).logs (by decide),
      State.logDevice_errorCounts_same (by decide) (by decide), hvs.logs (by decide)]
  · rw [State.splitRing]
    rw [State.haltAtBoundary_haltCause, State.onEngine_dial, (State.sendNotice_within (State.within_refl _ [.links]) (List.Subset.refl _)).dial (by decide),
      State.logDevice_dial, hvs.dial (by decide)]
    rfl

end

/-- Settles O48: an item whose restart is due begins its data phase again, or its ring splits. -/
theorem cascadeRestarts : Obligations.CascadeRestarts := fun _ _ =>
  ⟨cascadeRestart_of_early, fun _ _ hy hat hdue hown => cascadeRestart_of_proxy hy hat hdue hown,
    fun _ _ _ hm hrun hat hdue hproxy => ⟨cascadeRestart_of_ring hm hrun hat hdue hproxy, cascadeRestart_of_split hm hrun hat hdue hproxy⟩⟩

/-! ### Packets (R355, R356, R360, R373) -/

section
variable {s : State} {port : Port} {h : CascadeHeader} {data : List Flit} {slots : List SparseSlot}

theorem cascade_of_idle (hslot : s.run.run ≠ 2) : runs (.cascade port h data slots) s fun t => t = s :=
  ⟨_, congrArg Host.Outcome.next (if_pos (by rw [bne_iff_ne.2 hslot, Bool.or_true, Bool.true_or])), rfl⟩

variable (hruns : s.dialRuns = true) (hslot : s.run.run = 2) (hup : s.portUp port.val = true)
include hruns hslot hup

theorem exec_cascade : exec (.cascade port h data slots) s = .next (
    if h.lgen ≠ s.tables.generation then (s.logDevice 0x0E4 noName 0 0).haltAtBoundary 4 else (s.takeCascade ⟨port, h, data, slots⟩).draw) := by
  refine congrArg Host.Outcome.next (if_neg ?_)
  rw [hruns, hslot, hup, bne_self_eq_false]
  decide

theorem cascade_of_other_layout (hgen : h.lgen ≠ s.tables.generation) : runs (.cascade port h data slots) s fun t =>
    t.logs = (s.logDevice 0x0E4 noName 0 0).logs ∧ t.dial.haltCause = (if s.dial.haltCause = 0 then 4 else s.dial.haltCause) ∧
      s.onlyIn t [.dial, .logs] := by
  refine ⟨_, (exec_cascade hruns hslot hup).trans (congrArg Host.Outcome.next (if_pos hgen)), State.haltAtBoundary_logs .., ?_,
    (State.haltAtBoundary_within (State.logDevice_within (State.within_refl s _) (by decide)) (by decide)).1⟩
  rw [State.haltAtBoundary_haltCause, State.logDevice_dial]
  rfl

variable (hgen : h.lgen = s.tables.generation)
include hgen

theorem exec_cascade_of_layout : exec (.cascade port h data slots) s = .next ((s.takeCascade ⟨port, h, data, slots⟩).draw) :=
  (exec_cascade hruns hslot hup).trans (congrArg Host.Outcome.next (if_neg (not_not.2 hgen)))

theorem cascade_of_early (hm : s.memberOf (bit h.engine) (h.proxy && port.val / 2 == h.axis.toNat) = none) :
    runs (.cascade port h data slots) s fun t =>
      t.cascade.early = s.cascade.early ++ [⟨port, h, data, slots⟩] ∧ s.onlyIn t [.draws, .cascade] := by
  refine ⟨_, exec_cascade_of_layout hruns hslot hup hgen, ?_⟩
  have htake : ∃ u : State, s.takeCascade ⟨port, h, data, slots⟩ = u.keepEarly ⟨port, h, data, slots⟩ ∧ u.cascade.early = s.cascade.early ∧
      s.within [.cascade] u := by
    rw [State.takeCascade]
    cases hp : h.proxy with
    | true =>
      rw [hp] at hm
      dsimp only
      rw [if_pos rfl, hm]
      exact ⟨s, rfl, rfl, State.within_refl s _⟩
    | false =>
      rw [hp] at hm
      dsimp only
      rw [if_neg Bool.false_ne_true, State.noteHeard_memberOf, hm]
      exact ⟨_, rfl, rfl, State.noteHeard_within (State.within_refl s _) (List.Subset.refl _)⟩
  obtain ⟨u, hu, hearly, hwithin⟩ := htake
  rw [hu]
  refine ⟨?_, (State.draw_within (State.keepEarly_within (State.within_step hwithin (State.within_refl s _) (by decide)) (by decide)) (by decide)).1⟩
  rw [State.draw_cascade, State.keepEarly, State.onCascade_cascade]
  dsimp only
  rw [hearly]

end

/-! ### What a dense segment leaves of its member -/

/-- An engine's item has seen the same packets in both states. -/
def State.keepsSeen (s t : State) (e : Nat) : Prop := (t.engine e).run.map (·.seen) = (s.engine e).run.map (·.seen)

section
variable {s0 s : State} {e : Nat} (h : s0.keepsSeen s e)
include h

theorem State.onMember_keepsSeen {f : CascadeRun → CascadeRun} (hf : ∀ x, (f x).seen = x.seen := by exact fun _ => rfl) :
    s0.keepsSeen (s.onMember e false f) e := by
  rw [State.keepsSeen, ← h]
  change ((s.onCascadeRun e f).engine e).run.map (·.seen) = _
  rw [State.onCascadeRun, State.onEngine_engine]
  split
  · rw [Option.map_map]
    exact congrFun (congrArg Option.map (funext hf)) _
  · rfl

theorem State.storeRecord_keepsSeen {c g : Nat} {cnt : CountRecord} : s0.keepsSeen (s.storeRecord e false c g cnt) e := by
  rw [State.storeRecord]
  split
  · exact State.onMember_keepsSeen h
  · exact h

theorem State.storeFinal_keepsSeen {r : Reduction} {c g : Nat} {vals : List (BitVec 32)} {marks : List Nat} :
    s0.keepsSeen (s.storeFinal e false r c g vals marks) e := State.onMember_keepsSeen h

theorem State.sendSeg_keepsSeen {plus phase : Bool} {hop c g : Nat} {vals : List (BitVec 32)} {marks : List Nat} {cnt : CountRecord} :
    s0.keepsSeen (s.sendSeg e false plus phase hop c g vals marks cnt) e := by
  rw [State.keepsSeen, State.engine_congr ((State.sendSeg_within (State.within_refl s [.links]) (List.Subset.refl _)).cascade (by decide))]
  exact h

/-- A partial sum that passes on or ends at this member leaves what it has seen. -/
theorem State.takePartial_keepsSeen {x : CascadeRun} {r : Reduction} {k : CascadeHeader} {vals : List (BitVec 32)} {marks : List Nat} :
    s0.keepsSeen (s.takePartial e false x r k vals marks) e := by
  have hothers {p : Nat} {cnt : CountRecord} {c : Prop} [Decidable c] :
      s0.keepsSeen (if c then s.onMember e false fun y => { y with others := insertKey p cnt y.others } else s) e := by
    split
    · exact State.onMember_keepsSeen h
    · exact h
  rw [State.takePartial]
  dsimp only
  split
  · split
    · exact State.sendSeg_keepsSeen h
    · exact State.sendSeg_keepsSeen (State.storeRecord_keepsSeen (State.storeFinal_keepsSeen h))
  · split
    · exact State.sendSeg_keepsSeen hothers
    · split
      · exact State.storeFinal_keepsSeen hothers
      · exact State.sendSeg_keepsSeen (State.storeRecord_keepsSeen (State.storeFinal_keepsSeen hothers))

theorem State.takeFinal_keepsSeen {x : CascadeRun} {r : Reduction} {k : CascadeHeader} {vals : List (BitVec 32)} {marks : List Nat} :
    s0.keepsSeen (s.takeFinal e false x r k vals marks) e := by
  have hstored := State.storeRecord_keepsSeen (c := k.chunk.toNat) (g := k.seg.toNat) (cnt := k.record)
    (State.storeFinal_keepsSeen h (r := r) (c := k.chunk.toNat) (g := k.seg.toNat) (vals := vals) (marks := marks))
  rw [State.takeFinal]
  split
  · split
    · exact hstored
    · exact State.sendSeg_keepsSeen hstored
  · split
    · exact State.sendSeg_keepsSeen hstored
    · exact hstored

end

section
variable {s : State} {e : Nat} {x : CascadeRun} {r : Reduction} {k : CascadeHeader} {vals : List (BitVec 32)} {marks : List Nat}

theorem State.storeRecord_finals (c g : Nat) (cnt : CountRecord) :
    ((s.storeRecord e false c g cnt).engine e).run.map (·.finals) = (s.engine e).run.map (·.finals) := by
  rw [State.storeRecord]
  split
  · change ((s.onCascadeRun e _).engine e).run.map (·.finals) = _
    rw [State.onCascadeRun, State.onEngine_engine]
    split
    · rw [Option.map_map]
      rfl
    · rfl
  · rfl

theorem State.storeFinal_finals {y : CascadeRun} (hy : (s.engine e).run = some y) (c g : Nat) :
    ((s.storeFinal e false r c g vals marks).engine e).run.map (·.finals) = some (y.finals ++ [(c, g, vals)]) := by
  change ((s.onCascadeRun e _).engine e).run.map (·.finals) = _
  rw [State.onCascadeRun_engine (State.engine_lt (.inl hy)), hy]
  rfl

/-- A final segment is kept as final. -/
theorem State.takeFinal_finals {y : CascadeRun} (hy : (s.engine e).run = some y) :
    ((s.takeFinal e false x r k vals marks).engine e).run.map (·.finals) = some (y.finals ++ [(k.chunk.toNat, k.seg.toNat, vals)]) := by
  have hstored : (((s.storeFinal e false r k.chunk.toNat k.seg.toNat vals marks).storeRecord e false k.chunk.toNat k.seg.toNat k.record).engine e).run.map
      (·.finals) = some (y.finals ++ [(k.chunk.toNat, k.seg.toNat, vals)]) := by
    rw [State.storeRecord_finals, State.storeFinal_finals hy]
  have hsent (plus phase : Bool) (hop c g : Nat) (cnt : CountRecord) (u : State) :
      (u.sendSeg e false plus phase hop c g vals marks cnt).engine e = u.engine e :=
    State.engine_congr ((State.sendSeg_within (State.within_refl u [.links]) (List.Subset.refl _)).cascade (by decide)) e
  rw [State.takeFinal]
  split
  · split
    · exact hstored
    · rw [hsent]; exact hstored
  · split
    · rw [hsent]; exact hstored
    · exact hstored

/-- The segment is noted, and the engine shows its progress. -/
def State.segmentNoted (s : State) (e : Nat) (r : Reduction) (key : Nat × Nat × Nat) : State :=
  (s.onMember e false fun x => { x with seen := x.seen ++ [key] }).onEngine e fun y =>
    { y with progress := y.run.elim y.progress fun x => x.denseProgress r }

theorem State.segmentNoted_run (hx : (s.engine e).run = some x) (key : Nat × Nat × Nat) :
    ((s.segmentNoted e r key).engine e).run = some { x with seen := x.seen ++ [key] } := by
  have hlen := State.engine_lt (.inl hx)
  have hmember : ((s.onMember e false fun x => { x with seen := x.seen ++ [key] }).engine e).run = some { x with seen := x.seen ++ [key] } := by
    change ((s.onCascadeRun e _).engine e).run = _
    rw [State.onCascadeRun_engine hlen, hx]
    rfl
  rw [State.segmentNoted, State.onEngine_engine_same (State.engine_lt (.inl hmember))]
  exact hmember

/-- A dense segment as it arrives. -/
def State.segmentTaken (s : State) (e : Nat) (x : CascadeRun) (r : Reduction) (k : CascadeHeader) (data : List Flit) : State :=
  let vals := r.decode (r.seg k.chunk.toNat k.seg.toNat).2 data
  let marks := (List.range data.length).filter fun i => k.poison.getLsbD i
  let s := s.segmentNoted e r (bit k.phase, k.chunk.toNat, k.seg.toNat)
  if k.phase then s.takeFinal e false x r k vals marks else s.takePartial e false x r k vals marks

theorem State.takeDense_eq (hm : s.memberOf e false = some (x, r)) (hc : k.chunk.toNat < r.n) (hg : k.seg.toNat < r.segs k.chunk.toNat)
    (hlost : x.lost.contains x.pos = false) (data : List Flit) : s.takeDense e false k data = (s.segmentTaken e x r k data).deliver e := by
  rw [State.takeDense, hm]
  dsimp only
  rw [if_neg fun h => by
    obtain h | h | h := h
    · omega
    · omega
    · rw [hlost] at h; exact Bool.false_ne_true h]
  rfl

theorem State.segmentTaken_within (data : List Flit) : s.within [.cascade, .links] (s.segmentTaken e x r k data) := by
  have hnoted (key : Nat × Nat × Nat) : s.within [.cascade, .links] (s.segmentNoted e r key) :=
    State.onEngine_within (State.onMember_within (State.within_refl s _) (by decide)) (by decide)
  exact State.within_ite (State.takeFinal_within (hnoted _) (by decide)) (State.takePartial_within (hnoted _) (by decide))

theorem State.segmentTaken_seen (hx : (s.engine e).run = some x) (data : List Flit) :
    ((s.segmentTaken e x r k data).engine e).run.map (·.seen) = some (x.seen ++ [(bit k.phase, k.chunk.toNat, k.seg.toNat)]) := by
  have hnoted : ((s.segmentNoted e r (bit k.phase, k.chunk.toNat, k.seg.toNat)).engine e).run.map (·.seen) =
      some (x.seen ++ [(bit k.phase, k.chunk.toNat, k.seg.toNat)]) := by
    rw [State.segmentNoted_run hx]
    rfl
  rw [State.segmentTaken]
  split
  · exact (State.takeFinal_keepsSeen (Eq.refl _)).trans hnoted
  · exact (State.takePartial_keepsSeen (Eq.refl _)).trans hnoted

theorem State.segmentTaken_finals (hx : (s.engine e).run = some x) (hphase : k.phase = true) (data : List Flit) :
    ((s.segmentTaken e x r k data).engine e).run.map (·.finals) = some (x.finals ++ [(k.chunk.toNat, k.seg.toNat,
      r.decode (r.seg k.chunk.toNat k.seg.toNat).2 data)]) := by
  rw [State.segmentTaken]
  rw [if_pos hphase]
  exact State.takeFinal_finals (y := { x with seen := x.seen ++ [(bit k.phase, k.chunk.toNat, k.seg.toNat)] }) (State.segmentNoted_run hx _)

end

/-! ### A packet of a member's own item -/

section
variable {s : State} {port : Port} {h : CascadeHeader} {data : List Flit} {slots : List SparseSlot} {x : CascadeRun} {r : Reduction}
  (hruns : s.dialRuns = true) (hslot : s.run.run = 2) (hup : s.portUp port.val = true) (hgen : h.lgen = s.tables.generation)
  (hproxy : h.proxy = false) (hm : s.memberOf (bit h.engine) false = some (x, r)) (hbelongs : s.belongs x r h = true)
  (hrun : (s.engine (bit h.engine)).running = true) (hrestarts : h.restarts = BitVec.ofNat 8 x.restarts) (hop : h.op ≠ 3)
include hproxy hm hbelongs hrun hrestarts hop

theorem State.takeCascade_eq : s.takeCascade ⟨port, h, data, slots⟩ =
    if x.seen.contains (packetKey h) then s.noteHeard h.entry.toNat port.val
    else (s.noteHeard h.entry.toNat port.val).takeDense (bit h.engine) false h data := by
  have hm' : (s.noteHeard h.entry.toNat port.val).memberOf (bit h.engine) false = some (x, r) := hm
  have hbelongs' : (s.noteHeard h.entry.toNat port.val).belongs x r h = true := hbelongs
  have hrun' : ((s.noteHeard h.entry.toNat port.val).engine (bit h.engine)).running = true := hrun
  have hahead : (h.restarts - BitVec.ofNat 8 x.restarts).toNat = 0 := by rw [hrestarts, BitVec.sub_self]; rfl
  have hdense : decide (h.op = 3) = false := decide_eq_false hop
  rw [State.takeCascade]
  dsimp only
  rw [hproxy, if_neg Bool.false_ne_true, Bool.false_and, hm']
  dsimp only
  rw [hbelongs', hahead, hdense, hrun', Bool.not_true, if_neg Bool.false_ne_true, if_neg (fun h => h rfl), Bool.false_and, Bool.false_and,
    Bool.false_and, if_neg Bool.false_ne_true, Bool.and_false, Bool.or_false, if_neg hop]

include hruns hslot hup hgen

theorem cascade_of_seen (hseen : x.seen.contains (packetKey h) = true) : runs (.cascade port h data slots) s fun t =>
    (t.engine (bit h.engine)).run = some x ∧ s.onlyIn t [.draws, .cascade] := by
  refine ⟨_, exec_cascade_of_layout hruns hslot hup hgen, ?_⟩
  rw [State.takeCascade_eq hproxy hm hbelongs hrun hrestarts hop, if_pos hseen]
  exact ⟨(State.memberOf_eq_some hm).1, (State.draw_within (State.noteHeard_within (State.within_refl s _) (by decide)) (by decide)).1⟩

theorem cascade_of_segment (hnew : x.seen.contains (packetKey h) = false) (hc : h.chunk.toNat < r.n) (hg : h.seg.toNat < r.segs h.chunk.toNat)
    (hlost : x.lost.contains x.pos = false) : runs (.cascade port h data slots) s fun t => ∃ v : State, t = (v.deliver (bit h.engine)).draw ∧
      s.onlyIn v [.cascade, .links] ∧ (v.engine (bit h.engine)).run.map (·.seen) = some (x.seen ++ [packetKey h]) ∧
      (h.phase = true → (v.engine (bit h.engine)).run.map (·.finals) =
        some (x.finals ++ [(h.chunk.toNat, h.seg.toNat, r.decode (r.seg h.chunk.toNat h.seg.toNat).2 data)])) := by
  refine ⟨_, exec_cascade_of_layout hruns hslot hup hgen, ?_⟩
  have hm' : (s.noteHeard h.entry.toNat port.val).memberOf (bit h.engine) false = some (x, r) := hm
  obtain ⟨hx, -⟩ := State.memberOf_eq_some hm'
  have hkey : packetKey h = (bit h.phase, h.chunk.toNat, h.seg.toNat) := if_neg hop
  rw [State.takeCascade_eq hproxy hm hbelongs hrun hrestarts hop, if_neg (by rw [hnew]; exact Bool.false_ne_true),
    State.takeDense_eq hm' hc hg hlost, hkey]
  exact ⟨_, rfl, (State.within_step (State.segmentTaken_within data) (State.noteHeard_within (State.within_refl s _) (by decide)) (by decide)).1,
    State.segmentTaken_seen hx data, fun hphase => State.segmentTaken_finals hx hphase data⟩

end

/-- Settles O47: a packet of its member's data phase is taken once, and noted before the item delivers. -/
theorem cascadePackets : Obligations.CascadePackets := fun _ _ _ _ _ =>
  ⟨cascade_of_idle, fun hruns hslot hup => ⟨cascade_of_other_layout hruns hslot hup, cascade_of_early hruns hslot hup,
    fun _ _ hgen hproxy hm hbelongs hrun hrestarts hop =>
      ⟨cascade_of_seen hruns hslot hup hgen hproxy hm hbelongs hrun hrestarts hop,
        cascade_of_segment hruns hslot hup hgen hproxy hm hbelongs hrun hrestarts hop⟩⟩⟩

end Sys2Proof.Machine
end


section
/-! PROOFS. Bytes a place's stores change; the work item that runs (R127, R338). -/

namespace Sys2Proof.Machine

set_option Elab.async false

/-! ### Ranges of bytes -/

section
variable {R R' : List (Nat × Nat)} {a : Nat}

@[simp] theorem inRanges_nil : ¬ inRanges [] a := by
  rintro ⟨r, hr, -⟩
  exact absurd hr (by simp)

@[simp] theorem inRanges_singleton {k n : Nat} : inRanges [(k, n)] a ↔ k ≤ a ∧ a < k + n := by simp [inRanges]

theorem inRanges_of_mem {r : Nat × Nat} (hr : r ∈ R) (h1 : r.1 ≤ a) (h2 : a < r.1 + r.2) : inRanges R a := ⟨r, hr, h1, h2⟩

theorem inRanges_mono (h : R ⊆ R') (ha : inRanges R a) : inRanges R' a := by
  obtain ⟨r, hr, hin⟩ := ha
  exact ⟨r, h hr, hin⟩

theorem inRanges_flatMap {α : Type} {l : List α} {f : α → List (Nat × Nat)} {x : α} (hx : x ∈ l) (ha : inRanges (f x) a) :
    inRanges (l.flatMap f) a := inRanges_mono (fun _ hr => List.mem_flatMap.2 ⟨x, hx, hr⟩) ha

theorem Place.range_plus {p : Place} {k m n : Nat} (h : k + m ≤ n) (ha : inRanges ((p.plus k).range m) a) : inRanges (p.range n) a := by
  cases p with
  | own key =>
    obtain ⟨h1, h2⟩ := inRanges_singleton.1 ha
    exact inRanges_singleton.2 ⟨by omega, by omega⟩
  | remote addr => exact absurd ha inRanges_nil

end

/-! ### What stores leave of the bytes -/

section
variable {s0 s : State} {R R' : List (Nat × Nat)}

theorem State.bytesOnlyIn_refl (s : State) (R : List (Nat × Nat)) : s.bytesOnlyIn s R := fun _ _ => rfl

theorem State.bytesOnlyIn.of_mem {t : State} (h : s0.bytesOnlyIn s R) (ht : t.memory.mem = s.memory.mem) : s0.bytesOnlyIn t R := by
  intro a ha
  rw [ht]
  exact h a ha

theorem State.bytesOnlyIn.within {t : State} {L : List Part} (h : s0.bytesOnlyIn s R) (hw : s.within L t) (hp : .bytes ∉ L) :
    s0.bytesOnlyIn t R := h.of_mem (hw.mem hp)

theorem State.bytesOnlyIn.trans {t : State} (h : s0.bytesOnlyIn s R) (ht : s.bytesOnlyIn t R) : s0.bytesOnlyIn t R :=
  fun a ha => (ht a ha).trans (h a ha)

theorem State.bytesOnlyIn.mono (h : s0.bytesOnlyIn s R) (hR : ∀ a, inRanges R a → inRanges R' a) : s0.bytesOnlyIn s R' :=
  fun a ha => h a fun hin => ha (hR a hin)

theorem State.store_bytesOnlyIn (h : s0.bytesOnlyIn s R) {k : Nat} {bs : List Byte} {poisoned : Bool}
    (hR : ∀ a, k ≤ a → a < k + bs.length → inRanges R a) : s0.bytesOnlyIn (s.store k bs poisoned) R := by
  intro a ha
  rw [State.store_byte, if_neg fun hin => ha (hR a hin.1 hin.2)]
  exact h a ha

theorem State.placeStore_bytesOnlyIn (h : s0.bytesOnlyIn s R) {p : Place} {bs : List Byte} {poisoned : Bool}
    (hR : ∀ a, inRanges (p.range bs.length) a → inRanges R a) : s0.bytesOnlyIn (s.placeStore p bs poisoned) R := by
  cases p with
  | own k => exact State.store_bytesOnlyIn h fun a h1 h2 => hR a (inRanges_singleton.2 ⟨h1, h2⟩)
  | remote a => exact h.within (State.sendTo_within (State.within_refl s [.logs, .links]) (List.Subset.refl _)) (by decide)

theorem State.bytesOnlyIn_fold {α : Type} {l : List α} {f : State → α → State} (h : s0.bytesOnlyIn s R)
    (hf : ∀ t, ∀ x ∈ l, s0.bytesOnlyIn t R → s0.bytesOnlyIn (f t x) R) : s0.bytesOnlyIn (l.foldl f s) R := by
  induction l generalizing s with
  | nil => exact h
  | cons x l ih => exact ih (hf s x (by simp) h) fun t y hy => hf t y (by simp [hy])

theorem State.storeBeats_bytesOnlyIn (h : s0.bytesOnlyIn s R) {p : Place} {bs : List Byte} {mark : Nat → Bool}
    (hR : ∀ a, inRanges (p.range bs.length) a → inRanges R a) : s0.bytesOnlyIn (s.storeBeats p bs mark) R := by
  refine State.bytesOnlyIn_fold h fun t j hj ht => State.placeStore_bytesOnlyIn ht fun a ha => hR a ?_
  have hlen : ((bs.drop (64 * j)).take 64).length ≤ bs.length - 64 * j := by
    rw [List.length_take, List.length_drop]
    omega
  have hj : 64 * j < bs.length := by
    have := List.mem_range.1 hj
    rw [ceilDiv] at this
    omega
  exact Place.range_plus (by omega) ha

end

@[simp] theorem leBytes_length (v n : Nat) : (leBytes v n).length = n := by simp [leBytes]

@[simp] theorem Operand.encode_length (x : Operand) (rds : Nat → Rounding) (vs : List Val) : (x.encode rds vs).length = x.rowBytes :=
  leBytes_length _ _

/-- Parts an operand's places are read from. -/
theorem State.rowPlace_congr {s t : State} (hcfg : t.cfg = s.cfg) (hrun : t.run = s.run) (hstart : t.start = s.start) (m : Option MicroBatch)
    (version i : Nat) (x : Operand) (r : Nat) : t.rowPlace m version i x r = s.rowPlace m version i x r := by
  rw [State.rowPlace, State.rowPlace, State.operandBase, State.operandBase, State.placeOf, State.placeOf, State.coord, State.coord,
    State.slotCfg, State.slotCfg, hcfg, hrun, hstart]

theorem State.within.rowPlace {s t : State} {L : List Part} (hw : s.within L t) (hp : .cfg ∉ L ∧ .run ∉ L ∧ .start ∉ L) (m : Option MicroBatch)
    (version i : Nat) (x : Operand) (r : Nat) : t.rowPlace m version i x r = s.rowPlace m version i x r :=
  State.rowPlace_congr (hw.cfg hp.1) (hw.run hp.2.1) (hw.start hp.2.2) m version i x r

theorem State.writeRow_bytesOnlyIn {s0 s : State} {R : List (Nat × Nat)} (h : s0.bytesOnlyIn s R) {m : Option MicroBatch} {v i : Nat}
    {x : Operand} {r : Nat} {vs : List Val} {poisoned : Bool}
    (hR : ∀ a, inRanges ((s.rowPlace m v i x r).range x.rowBytes) a → inRanges R a) :
    s0.bytesOnlyIn (s.writeRow m v i x r vs poisoned) R :=
  State.placeStore_bytesOnlyIn h (by rw [Operand.encode_length]; exact hR)

/-! ### The work item that runs (R338) -/

theorem State.runItem_of_runsItem {s : State} {c : CtxId} {part : Bool} {x : TaskContext} {o : Op} (h : s.runsItem c part x o)
    (f : TaskContext → Op → State → State) : s.runItem c part f = f x o s := by
  obtain ⟨hctx, hstate, hpart, hdropped, hop⟩ := h
  rw [State.runItem, hctx]
  dsimp only
  rw [if_pos ⟨hstate, hpart⟩, hdropped, hop]
  rfl

end Sys2Proof.Machine
end


section
/-! PROOFS. How a reduction begins, and what a ring of 1 delivers (R350, R353, R356, R357). -/

namespace Sys2Proof.Machine

set_option Elab.async false

/-! ### An item begins (R350, R353) -/

section
variable (s : State) (c : CtxId) (j : Nat) (o : Op) (r : Reduction)

/-- The record an item enters with. -/
def State.enteringRecord : CountRecord :=
  if r.op = 3 then zeroRecord else if r.head then s.headRecord (s.ownContribution r).1
  else (lookupNat r.tensor s.cascade.records).getD zeroRecord

/-- The item as it begins. -/
def State.openedRun : CascadeRun :=
  { ctx := c, op := j, pos := s.axisPos r.axis, opened := s.dial.step.toNat * 65536 + (s.dialEntry o.entry).elim 0 (·.opens), lost := []
    withdrawn := [], restartAt := none, restarts := 0, told := [], own := (s.ownContribution r).1, ownPoison := (s.ownContribution r).2
    record := s.enteringRecord r, finals := [], poison := [], delivered := none, others := [], slots := [], shared := [], seen := [] }

/-- The engine takes the item. -/
def State.engineTaken : State :=
  (s.onEngine r.engine fun y => { y with
    axis := BitVec.ofNat 2 r.axis, op := BitVec.ofNat 2 r.op, running := true, entry := BitVec.ofNat 10 o.entry, generation := s.tables.generation
    run := some (s.openedRun c j o r), proxyRun := none }).noteReduced r.tensor

/-- The item with its withdrawal where one is due. -/
def State.openedWith : State :=
  let t := s.engineTaken c j o r
  if r.head && !(s.ownContribution r).2.isEmpty then
    ((t.logDevice 0x0E3 (t.nameOf c) (t.mbs.filter fun m => m.committed && !m.dropped && decide (m.mb < 1024)).length 0).dropCarried).withdraw r.engine
  else if t.cascade.withdrawn.contains j then t.withdraw r.engine
  else t

theorem State.beginReduce_eq : s.beginReduce c j o r = ((s.openedWith c j o r).replayNotices r.engine r o.entry).startPhase r.engine := rfl

theorem State.noteReduced_cascade (tensor : Nat) : (s.noteReduced tensor).cascade = s.cascade :=
  (State.noteReduced_within (State.within_refl s [.train]) (List.Subset.refl _)).cascade (by decide)

end

section
variable {s : State} {c : CtxId} {j : Nat} {o : Op} {r : Reduction}

theorem State.engineTaken_engine (he : r.engine < s.cascade.engines.length) :
    (s.engineTaken c j o r).engine r.engine = { s.engine r.engine with
      axis := BitVec.ofNat 2 r.axis, op := BitVec.ofNat 2 r.op, running := true, entry := BitVec.ofNat 10 o.entry
      generation := s.tables.generation, run := some (s.openedRun c j o r), proxyRun := none } := by
  rw [State.engineTaken, State.engine_congr (State.noteReduced_cascade _ _), State.onEngine_engine_same he]

theorem State.engineTaken_withdrawn : (s.engineTaken c j o r).cascade.withdrawn = s.cascade.withdrawn := by
  rw [State.engineTaken, State.noteReduced_cascade]
  rfl

theorem State.engineTaken_within {L : List Part} (hL : [.train, .cascade] ⊆ L) : s.within L (s.engineTaken c j o r) :=
  State.noteReduced_within (State.onEngine_within (State.within_refl s L) (fun p hp => hL (by simp_all))) (fun p hp => hL (by simp_all))

theorem State.openedWith_memory : (s.openedWith c j o r).memory = s.memory := by
  have hw : s.within [.dial, .logs, .mbs, .train, .cascade, .links] (s.openedWith c j o r) := by
    have ht : s.within [.dial, .logs, .mbs, .train, .cascade, .links] (s.engineTaken c j o r) := State.engineTaken_within (by decide)
    refine State.within_ite ?_ (State.within_ite (State.withdraw_within ht (by decide)) ht)
    exact State.withdraw_within (State.dropCarried_within (State.logDevice_within ht (by decide)) (by decide)) (by decide)
  exact hw.memory (by decide)

/-- What withdrawing leaves of a begun item: the member's own position is withdrawn. -/
theorem State.withdraw_engine {e : Nat} {x : CascadeRun} (hx : (s.engine e).run = some x) (hnone : x.withdrawn = []) :
    (s.withdraw e).engine e = { s.engine e with run := some { x with
      withdrawn := [x.pos], restartAt := some s.restartTime, told := insertNat (x.pos * 65536 + s.restartTime % 65536) x.told } } := by
  have hnot : ¬ (x.withdrawn.contains x.pos = true) := by rw [hnone]; simp
  rw [State.withdraw, hx]
  dsimp only
  rw [if_neg hnot, State.engine_congr (State.sendNotice_cascade _ _ _ _ _ _), State.onCascadeRun_engine (State.engine_lt (.inl hx)), hx,
    Option.map_some, hnone]
  rfl

/-- Of the item, a withdrawal changes only what says so. -/
def CascadeEngine.begun (x : CascadeEngine) : Bool × BitVec 10 × BitVec 8 × Option (CtxId × Nat × Nat × List Nat × List (BitVec 32) × List Nat) :=
  (x.running, x.entry, x.generation, x.run.map fun y => (y.ctx, y.op, y.pos, y.lost, y.own, y.ownPoison))

theorem State.openedWith_engine (he : r.engine < s.cascade.engines.length) :
    ((s.openedWith c j o r).engine r.engine).begun = ((s.engineTaken c j o r).engine r.engine).begun ∧
    ((s.openedWith c j o r).engine r.engine).run.map (·.withdrawn) =
      some (if (r.head && !(s.ownContribution r).2.isEmpty) || s.cascade.withdrawn.contains j then [s.axisPos r.axis] else []) := by
  have htaken := State.engineTaken_engine (c := c) (j := j) (o := o) he
  have hwithdrawn {t : State} (ht : t.cascade = (s.engineTaken c j o r).cascade) :
      ((t.withdraw r.engine).engine r.engine).begun = ((s.engineTaken c j o r).engine r.engine).begun ∧
      ((t.withdraw r.engine).engine r.engine).run.map (·.withdrawn) = some [s.axisPos r.axis] := by
    have hrun : (t.engine r.engine).run = some (s.openedRun c j o r) := by rw [State.engine_congr ht, htaken]
    rw [State.withdraw_engine hrun rfl, State.engine_congr ht, htaken]
    exact ⟨rfl, rfl⟩
  rw [State.openedWith]
  split
  next hpoison =>
    rw [hpoison, Bool.true_or, if_pos rfl]
    refine hwithdrawn ?_
    exact (State.dropCarried_within (State.logDevice_within (State.within_refl _ [.dial, .logs, .mbs, .train]) (by decide))
      (by decide)).cascade (by decide)
  next hpoison =>
    rw [Bool.eq_false_iff.2 hpoison, Bool.false_or, State.engineTaken_withdrawn]
    split
    next => exact hwithdrawn rfl
    next => exact ⟨rfl, by rw [htaken]; rfl⟩

end

/-- What an item's place in its ring is read from. -/
theorem State.reduction_congr {s t : State} (hcfg : t.cfg = s.cfg) (hrun : t.run = s.run) (hstart : t.start = s.start) (hdial : t.dial = s.dial)
    (j : Nat) : t.reduction j = s.reduction j := by
  obtain ⟨⟩ := s
  obtain ⟨⟩ := t
  subst hcfg hrun hstart hdial
  rfl

/-! ### A ring of 1 delivers at once (R348, R356) -/

/-- What the steps of a delivery leave of an engine until the item ends. -/
def State.standing (s : State) (e : Nat) : Bool × BitVec 32 × Option (Nat × Option Nat) × List CascadePacket :=
  ((s.engine e).running, (s.engine e).instances, (s.engine e).run.map fun y => (y.op, y.restartAt), s.cascade.early)

section
variable {s : State} {e : Nat}

theorem State.standing_of_cascade {t : State} (h : t.cascade = s.cascade) : t.standing e = s.standing e := by
  rw [State.standing, State.standing, State.engine_congr h, h]

theorem State.onEngine_standing {f : CascadeEngine → CascadeEngine} (hf : ∀ y, (f y).running = y.running ∧ (f y).instances = y.instances ∧
    (f y).run.map (fun y => (y.op, y.restartAt)) = y.run.map fun y => (y.op, y.restartAt)) : (s.onEngine e f).standing e = s.standing e := by
  obtain ⟨hrunning, hinstances, hrun⟩ := hf (s.engine e)
  rw [State.standing, State.standing, State.onEngine_engine]
  split
  · rw [hrunning, hinstances, hrun]
    rfl
  · rfl

theorem State.onCascadeRun_standing {f : CascadeRun → CascadeRun} (hf : ∀ y, (f y).op = y.op ∧ (f y).restartAt = y.restartAt) :
    (s.onCascadeRun e f).standing e = s.standing e := by
  refine State.onEngine_standing fun y => ⟨rfl, rfl, ?_⟩
  rw [Option.map_map]
  refine Option.map_congr fun x _ => ?_
  rw [Function.comp_apply, (hf x).1, (hf x).2]

theorem State.storeFinal_standing (r : Reduction) (c g : Nat) (vals : List (BitVec 32)) (marks : List Nat) :
    (s.storeFinal e false r c g vals marks).standing e = s.standing e := State.onCascadeRun_standing fun _ => ⟨rfl, rfl⟩

theorem State.storeRecord_standing (c g : Nat) (cnt : CountRecord) : (s.storeRecord e false c g cnt).standing e = s.standing e := by
  rw [State.storeRecord]
  split
  · exact State.onCascadeRun_standing fun _ => ⟨rfl, rfl⟩
  · rfl

theorem State.ownFinal_standing (c : Nat) : (s.ownFinal e false c).standing e = s.standing e := by
  rw [State.ownFinal]
  split
  · rfl
  · rw [State.storeRecord_standing]
    exact List.foldlRecOn (motive := fun t : State => t.standing e = s.standing e) _ _ rfl fun t ht g _ =>
      (State.storeFinal_standing _ _ _ _ _).trans ht

theorem State.noteAbsent_standing (x : CascadeRun) (r : Reduction) (cnt : CountRecord) :
    (s.noteAbsent e x r cnt).standing e = s.standing e := by
  have hlapse (u : State) : u.lapse.standing e = u.standing e :=
    State.standing_of_cascade ((State.lapse_within (State.within_refl u [.dial, .logs]) (List.Subset.refl _)).cascade (by decide))
  rw [State.noteAbsent]
  split
  · rfl
  · dsimp only
    rw [hlapse]
    split
    · exact State.onEngine_standing fun _ => ⟨rfl, rfl, rfl⟩
    · exact Eq.trans (b := (s.onEngine e fun y => { y with absent := satAdd y.absent 1 }).standing e) rfl
        (State.onEngine_standing fun _ => ⟨rfl, rfl, rfl⟩)

theorem State.countChain_standing (x : CascadeRun) (r : Reduction) (cnt : CountRecord) :
    (s.countChain x r cnt).standing e = s.standing e := by
  rw [State.countChain]
  split
  · rfl
  · rfl

/-- Rows of the range in a ring of 1. -/
theorem Reduction.chunk_zero {r : Reduction} (hn : r.n = 1) : (r.chunk 0).1 = 0 ∧ (r.chunk 0).2 / r.cols ≤ r.hi - r.lo := by
  have hceil : ceilDiv (r.hi - r.lo) 1 = r.hi - r.lo := by rw [ceilDiv]; omega
  rw [Reduction.chunk, chunkOf, hn, hceil]
  dsimp only
  refine ⟨?_, ?_⟩
  · rw [show min (r.lo + 0 * (r.hi - r.lo)) r.hi - r.lo = 0 by omega, Nat.zero_mul]
  · exact Nat.div_le_of_le_mul (by
      rw [Nat.mul_comm]
      exact Nat.mul_le_mul_left _ (by omega))

/-- In a ring of 1 the result changes only the rows of the item's range. -/
theorem State.writeResult_bytesOnlyIn {x : CascadeRun} {r : Reduction} {y : Operand} (hn : r.n = 1) (hop : r.op = 0)
    (hy : s.operand r.tensor = some y) (n : Nat) : s.bytesOnlyIn (s.writeResult x r n)
      ((List.range (r.hi - r.lo)).flatMap fun i => (s.rowPlace none 0 r.tensor y (r.lo + i)).range y.rowBytes) := by
  obtain ⟨hfirst, hcount⟩ := Reduction.chunk_zero hn
  have hchunks : r.chunksOut x.pos = [0] := by
    rw [Reduction.chunksOut, if_neg (by omega), hn]
    rfl
  rw [State.writeResult, hy]
  dsimp only
  rw [hchunks, List.foldl_cons, List.foldl_nil, hfirst]
  refine (List.foldlRecOn (motive := fun t : State => s.within [.logs, .memory, .links, .bytes] t ∧ s.bytesOnlyIn t
    ((List.range (r.hi - r.lo)).flatMap fun i => (s.rowPlace none 0 r.tensor y (r.lo + i)).range y.rowBytes)) _ _
    ⟨State.within_refl s _, State.bytesOnlyIn_refl s _⟩ fun t ht i hi => ?_).2
  obtain ⟨hw, hbytes⟩ := ht
  have hi := List.mem_range.1 hi
  have hcols : 0 < r.cols := by
    by_contra h0
    rw [show r.cols = 0 by omega, Nat.div_zero] at hi
    omega
  refine ⟨State.storeBeats_within hw (List.Subset.refl _), State.storeBeats_bytesOnlyIn hbytes fun a ha => ?_⟩
  rw [Nat.zero_add, Nat.mul_div_cancel _ hcols, hw.rowPlace (by decide), Operand.encode_length] at ha
  exact inRanges_flatMap (List.mem_range.2 (by omega)) ha

/-- The item's result as it is delivered, before the engine is free. -/
def State.delivered (s : State) (e : Nat) (x : CascadeRun) (r : Reduction) : State :=
  let cnt := x.deliveredRecord r
  let s := (((s.writeResult x r cnt.n.toNat).onCascade fun c => { c with records := insertKey r.tensor cnt c.records }).noteAbsent e x r cnt).countChain
    x r cnt
  if s.isWeir x r then s.weirDecide cnt else s

theorem State.deliver_of_complete {x : CascadeRun} {r : Reduction} (hm : s.memberOf e false = some (x, r))
    (hrunning : (s.engine e).running = true) (hrestart : x.restartAt = none) (hcomplete : x.complete r = true) :
    s.deliver e = (s.delivered e x r).endRun e x := by
  rw [State.deliver, hm]
  dsimp only
  rw [hrunning, hrestart, hcomplete]
  rfl

theorem State.delivered_standing (x : CascadeRun) (r : Reduction) : (s.delivered e x r).standing e = s.standing e := by
  have hwritten (cnt : CountRecord) : ((((s.writeResult x r cnt.n.toNat).onCascade fun c =>
      { c with records := insertKey r.tensor cnt c.records }).noteAbsent e x r cnt).countChain x r cnt).standing e = s.standing e := by
    rw [State.countChain_standing, State.noteAbsent_standing]
    exact Eq.trans (b := (s.writeResult x r cnt.n.toNat).standing e) rfl (State.standing_of_cascade
      ((State.writeResult_within (State.within_refl s [.logs, .memory, .links, .bytes]) (List.Subset.refl _)).cascade (by decide)))
  rw [State.delivered]
  split
  · exact (State.standing_of_cascade ((State.weirDecide_within (State.within_refl _ [.dial, .logs, .train, .resil])
      (List.Subset.refl _)).cascade (by decide))).trans (hwritten _)
  · exact hwritten _

theorem State.delivered_bytesOnlyIn {x : CascadeRun} {r : Reduction} {R : List (Nat × Nat)}
    (h : ∀ n, s.bytesOnlyIn (s.writeResult x r n) R) : s.bytesOnlyIn (s.delivered e x r) R := by
  rw [State.delivered]
  refine State.bytesOnlyIn.within (L := [.dial, .logs, .train, .cascade, .resil]) (h (x.deliveredRecord r).n.toNat) ?_ (by decide)
  have hchain : (s.writeResult x r (x.deliveredRecord r).n.toNat).within [.dial, .logs, .train, .cascade, .resil]
      ((((s.writeResult x r (x.deliveredRecord r).n.toNat).onCascade fun c =>
        { c with records := insertKey r.tensor (x.deliveredRecord r) c.records }).noteAbsent e x r (x.deliveredRecord r)).countChain x r
        (x.deliveredRecord r)) :=
    State.countChain_within (State.noteAbsent_within (State.onCascade_within (State.within_refl _ _) (by decide)) (by decide)) (by decide)
  exact State.within_ite (State.weirDecide_within hchain (by decide)) hchain

/-- The engine of an item that ends is free, shows the whole of its progress, and has counted the item. -/
theorem State.endRun_engine (he : e < s.cascade.engines.length) (x : CascadeRun) : (s.endRun e x).cascade.early = s.cascade.early ∧
    ((s.endRun e x).engine e).running = false ∧ ((s.endRun e x).engine e).instances = (s.engine e).instances + 1 ∧
    ((s.endRun e x).engine e).progress = 0xFFFF := by
  have hcascade : (s.endRun e x).cascade =
      (s.onEngine e fun y => { y with running := false, instances := y.instances + 1, progress := 0xFFFF }).cascade :=
    (State.settle_within (State.finish_within (State.within_refl _ [.dial, .mbs, .sched, .train]) (by decide))
      (List.Subset.refl _)).cascade (by decide)
  rw [State.engine_congr hcascade, State.onEngine_engine_same he, hcascade]
  exact ⟨rfl, rfl, rfl, rfl⟩

theorem State.replayEarly_of_nil (h : s.cascade.early = []) : s.replayEarly = s.onCascade fun c => { c with early := [] } := by
  rw [State.replayEarly, h, List.foldl_nil]

theorem State.startPhase_of_dense {x : CascadeRun} {r : Reduction} (hm : s.memberOf e false = some (x, r)) (hop : r.op ≠ 3) :
    s.startPhase e = (((s.showPhase e x r).startDense e false).deliver e).replayEarly := by
  rw [State.startPhase, hm]
  dsimp only
  rw [if_neg hop]

/-- The data phase of a ring of 1 makes the device's own contribution the result. -/
theorem State.showPhase_startDense {x : CascadeRun} {r : Reduction} (hm : s.memberOf e false = some (x, r)) (hlost : x.lost = [])
    (hn : r.n = 1) : (s.showPhase e x r).startDense e false = (s.showPhase e x r).ownFinal e false 0 := by
  obtain ⟨hrun, hred⟩ := State.memberOf_eq_some hm
  have hshown : (s.showPhase e x r).memberOf e false = some (x, r) := by
    refine State.memberOf_of_run ?_ hred
    rw [State.showPhase, State.onEngine_engine_same (State.engine_lt (.inl hrun))]
    exact hrun
  have hnot : ¬ x.lost.contains x.pos = true := by rw [hlost]; simp
  rw [State.startDense, hshown]
  dsimp only
  rw [if_neg hnot, if_pos hn]

theorem State.showPhase_ownFinal_standing (x : CascadeRun) (r : Reduction) :
    ((s.showPhase e x r).ownFinal e false 0).standing e = s.standing e := by
  rw [State.ownFinal_standing]
  exact State.onEngine_standing fun _ => ⟨rfl, rfl, rfl⟩

/-- A complete item delivers: its engine is free, and only rows of its range change. -/
theorem State.deliver_of_alone {x : CascadeRun} {r : Reduction} {y : Operand} (hm : s.memberOf e false = some (x, r))
    (hrunning : (s.engine e).running = true) (hrestart : x.restartAt = none) (hn : r.n = 1) (hop : r.op = 0)
    (hy : s.operand r.tensor = some y) :
    (s.deliver e).cascade.early = s.cascade.early ∧ ((s.deliver e).engine e).running = false ∧
      ((s.deliver e).engine e).instances = (s.engine e).instances + 1 ∧ ((s.deliver e).engine e).progress = 0xFFFF ∧
      s.bytesOnlyIn (s.deliver e)
        ((List.range (r.hi - r.lo)).flatMap fun i => (s.rowPlace none 0 r.tensor y (r.lo + i)).range y.rowBytes) := by
  have hcomplete : x.complete r = true := by rw [CascadeRun.complete, if_pos hn]
  rw [State.deliver_of_complete hm hrunning hrestart hcomplete]
  have hlast := State.delivered_standing (s := s) (e := e) x r
  simp only [State.standing, Prod.mk.injEq] at hlast
  obtain ⟨-, hinstances, hmap, hearly⟩ := hlast
  rw [(State.memberOf_eq_some hm).1] at hmap
  obtain ⟨z, hz, -⟩ := Option.map_eq_some_iff.1 hmap
  obtain ⟨hearly', hfree, hcounted, hprogress⟩ := State.endRun_engine (State.engine_lt (.inl hz)) x
  refine ⟨hearly'.trans hearly, hfree, hcounted.trans (by rw [hinstances]), hprogress, ?_⟩
  exact (State.delivered_bytesOnlyIn fun n => State.writeResult_bytesOnlyIn hn hop hy n).within
    (State.endRun_within (State.within_refl _ [.dial, .mbs, .sched, .train, .cascade]) (List.Subset.refl _)) (by decide)

/-- A running item of a ring of 1, with nothing withdrawn, lost or waiting: its data phase delivers it. -/
theorem State.startPhase_of_alone {x : CascadeRun} {r : Reduction} {y : Operand} (hm : s.memberOf e false = some (x, r))
    (hrunning : (s.engine e).running = true) (hrestart : x.restartAt = none) (hlost : x.lost = []) (hn : r.n = 1) (hop : r.op = 0)
    (hearly : s.cascade.early = []) (hy : s.operand r.tensor = some y) :
    ((s.startPhase e).engine e).running = false ∧ ((s.startPhase e).engine e).instances = (s.engine e).instances + 1 ∧
      ((s.startPhase e).engine e).progress = 0xFFFF ∧
      s.bytesOnlyIn (s.startPhase e)
        ((List.range (r.hi - r.lo)).flatMap fun i => (s.rowPlace none 0 r.tensor y (r.lo + i)).range y.rowBytes) := by
  obtain ⟨hrun, hred⟩ := State.memberOf_eq_some hm
  rw [State.startPhase_of_dense hm (by omega), State.showPhase_startDense hm hlost hn]
  -- the state in which the result is delivered
  have hw : s.within [.cascade] ((s.showPhase e x r).ownFinal e false 0) :=
    State.ownFinal_within (State.showPhase_within (State.within_refl s _) (List.Subset.refl _)) (List.Subset.refl _)
  have hstanding := State.showPhase_ownFinal_standing (s := s) (e := e) x r
  generalize (s.showPhase e x r).ownFinal e false 0 = u at hw hstanding ⊢
  simp only [State.standing, Prod.mk.injEq] at hstanding
  obtain ⟨hur, hui, humap, huearly⟩ := hstanding
  rw [hrun] at humap
  obtain ⟨x', hx', hkeep⟩ := Option.map_eq_some_iff.1 humap
  obtain ⟨hxop, hxrestart⟩ := Prod.mk.inj hkeep
  have hured : u.reduction x'.op = some r := by
    rw [hxop, ← hred]
    exact State.reduction_congr (hw.cfg (by decide)) (hw.run (by decide)) (hw.start (by decide)) (hw.dial (by decide)) _
  have huy : u.operand r.tensor = some y := by
    rw [← hy, State.operand, State.operand, State.slotCfg, State.slotCfg, hw.cfg (by decide), hw.run (by decide)]
  obtain ⟨hdearly, hfree, hcounted, hprogress, hbytes⟩ :=
    State.deliver_of_alone (State.memberOf_of_run hx' hured) (hur.trans hrunning) (hxrestart.trans hrestart) hn hop huy
  rw [State.replayEarly_of_nil (hdearly.trans (huearly.trans hearly))]
  refine ⟨hfree, hcounted.trans (by rw [hui]), hprogress, ?_⟩
  have hrows : (fun i => (u.rowPlace none 0 r.tensor y (r.lo + i)).range y.rowBytes) =
      fun i => (s.rowPlace none 0 r.tensor y (r.lo + i)).range y.rowBytes := funext fun i => by rw [hw.rowPlace (by decide)]
  rw [hrows] at hbytes
  exact ((State.bytesOnlyIn_refl s _).within hw (by decide)).trans hbytes

theorem State.replayNotices_of_nil (h : s.cascade.notices = []) (r : Reduction) (entry : Nat) :
    s.replayNotices e r entry = s.onCascade fun c => { c with notices := c.notices.filter fun n => n.entry != entry } := by
  rw [State.replayNotices, h, List.filter_nil]
  rfl

end

theorem State.engineTaken_waiting {s : State} {c : CtxId} {j : Nat} {o : Op} {r : Reduction} :
    (s.engineTaken c j o r).cascade.notices = s.cascade.notices ∧ (s.engineTaken c j o r).cascade.early = s.cascade.early := by
  rw [State.engineTaken, State.noteReduced_cascade]
  exact ⟨rfl, rfl⟩

theorem State.reduction_engine_lt {s : State} {j : Nat} {r : Reduction} (h : s.reduction j = some r) : r.engine < 2 := by
  rw [State.reduction] at h
  split at h
  · split at h
    · obtain ⟨x, -, rfl⟩ := Option.map_eq_some_iff.1 h
      exact Nat.mod_lt _ (by decide)
    · cases h
  · cases h

/-! ### A reduction (R350) -/

theorem exec_reduce {s : State} {c : CtxId} {x : TaskContext} {o : Op} {r : Reduction} (hx : s.runsItem c false x o)
    (hr : s.reduction x.op.toNat = some r) : exec (.reduce c) s = .next
      (if ((s.engine r.engine).run.any fun y => y.ctx == c && y.op == x.op.toNat && y.opened / 65536 == s.dial.step.toNat) ||
        (s.engine r.engine).running then s else (s.beginReduce c x.op.toNat o r).draw) := by
  change execReduce c s = _
  rw [execReduce, State.runItem_of_runsItem hx]
  dsimp only
  rw [hr]

/-- Settles O46: the engine takes the item with the device's contribution; a ring of 1 has every part of its result at once. -/
theorem reductions : Obligations.Reductions := by
  intro s c x o r hx hr hlen e own
  have he : r.engine < s.cascade.engines.length := by
    have := State.reduction_engine_lt hr
    omega
  have hengine := State.openedWith_engine (s := s) (c := c) (j := x.op.toNat) (o := o) he
  refine ⟨fun hbusy => ⟨s, ?_, rfl⟩, fun hfree hnew => ?_⟩
  · rw [exec_reduce hx hr, if_pos (by rw [show (s.engine r.engine).running = true from hbusy, Bool.or_true])]
  have hexec : exec (.reduce c) s = .next (s.beginReduce c x.op.toNat o r).draw := by
    rw [exec_reduce hx hr, if_neg (by rw [show (s.engine r.engine).running = false from hfree, hnew]; decide)]
  rw [State.beginReduce_eq] at hexec
  refine ⟨⟨_, hexec, s.openedWith c x.op.toNat o r, rfl, ?_⟩, fun y hn hop hpoison hwithdrawn hnotices hearly hy => ⟨_, hexec, ?_⟩⟩
  · obtain ⟨hbegun, hw⟩ := hengine
    rw [State.engineTaken_engine he] at hbegun
    simp only [CascadeEngine.begun, Prod.mk.injEq] at hbegun
    obtain ⟨h1, h2, h3, h4⟩ := hbegun
    exact ⟨h1, h2, h3, h4, hw, State.openedWith_memory⟩
  · have hopened : s.openedWith c x.op.toNat o r = s.engineTaken c x.op.toNat o r := by
      rw [State.openedWith, show (s.ownContribution r).2 = [] from hpoison, State.engineTaken_withdrawn, hwithdrawn, List.isEmpty_nil,
        Bool.not_true, Bool.and_false]
      rfl
    rw [hopened]
    have htaken := State.engineTaken_engine (c := c) (j := x.op.toNat) (o := o) he
    have hw := State.engineTaken_within (s := s) (c := c) (j := x.op.toNat) (o := o) (r := r) (List.Subset.refl _)
    have hcascade := State.engineTaken_waiting (s := s) (c := c) (j := x.op.toNat) (o := o) (r := r)
    generalize s.engineTaken c x.op.toNat o r = u at htaken hw hcascade ⊢
    rw [State.replayNotices_of_nil (hcascade.1.trans hnotices)]
    have hred : u.reduction x.op.toNat = some r := by
      rw [← hr]
      exact State.reduction_congr (hw.cfg (by decide)) (hw.run (by decide)) (hw.start (by decide)) (hw.dial (by decide)) _
    have huy : u.operand r.tensor = some y := by
      rw [← hy, State.operand, State.operand, State.slotCfg, State.slotCfg, hw.cfg (by decide), hw.run (by decide)]
    have hrows : (fun i => (u.rowPlace none 0 r.tensor y (r.lo + i)).range y.rowBytes) =
        fun i => (s.rowPlace none 0 r.tensor y (r.lo + i)).range y.rowBytes := funext fun i => by rw [hw.rowPlace (by decide)]
    obtain ⟨hended, hcounted, hprogress, hbytes⟩ := State.startPhase_of_alone
      (s := u.onCascade fun k => { k with notices := k.notices.filter fun n => n.entry != o.entry }) (e := r.engine)
      (x := s.openedRun c x.op.toNat o r) (r := r) (State.memberOf_of_run (congrArg CascadeEngine.run htaken) hred)
      (congrArg CascadeEngine.running htaken) rfl rfl hn hop (hcascade.2.trans hearly) huy
    refine ⟨hended, hcounted.trans ?_, hprogress, ?_⟩
    · have hsame : (u.engine r.engine).instances = (s.engine r.engine).instances := by rw [htaken]
      exact congrArg (· + 1) hsame
    · refine State.bytesOnlyIn.of_mem (s := State.startPhase _ r.engine) ?_ rfl
      refine ((State.bytesOnlyIn_refl s _).within hw (by decide)).trans ?_
      rw [← hrows]
      exact hbytes

end Sys2Proof.Machine
end


section
/-! PROOFS. Partner drains: a drain of an earlier step sends its header with its body (R450), so PartnerDrains fails. -/

namespace Sys2Proof.Machine

set_option Elab.async false

/-! ### What a drain's packets leave of its target -/

/-- The drain's step and whether its header is sent. -/
def State.drainMark (s : State) : Nat × Bool := ((s.target 0).step, (s.target 0).headerSent)

section
variable {s : State}

theorem State.drainMark_of_resil {t : State} (h : t.resil = s.resil) : t.drainMark = s.drainMark := by
  rw [State.drainMark, State.drainMark, State.target, State.target, h]

theorem State.onTarget_drainMark {f : CkptTarget → CkptTarget} (hf : ∀ x, (f x).step = x.step ∧ (f x).headerSent = x.headerSent) :
    (s.onTarget 0 f).drainMark = s.drainMark := by
  rw [State.drainMark, State.drainMark, State.onTarget_target]
  split
  · rw [(hf _).1, (hf _).2]
  · rfl

theorem State.unacked_drainMark (p : DrainPart) :
    (s.onTarget 0 fun x => { x with unacked := x.unacked ++ [p] }).drainMark = s.drainMark :=
  State.onTarget_drainMark (f := fun x => { x with unacked := x.unacked ++ [p] }) fun _ => ⟨rfl, rfl⟩

theorem State.covering_drainMark (g : CkptTarget → Bool) :
    (s.onTarget 0 fun x => { x with covering := g x }).drainMark = s.drainMark :=
  State.onTarget_drainMark (f := fun x => { x with covering := g x }) fun _ => ⟨rfl, rfl⟩

theorem State.ackPart_drainMark (p : DrainPart) : (s.ackPart p).drainMark = s.drainMark := by
  have hacked : (s.onTarget 0 fun x => { x with
      acked := x.acked + p.bytes, ackSeen := true, progress := fraction (x.acked + p.bytes) x.size }).drainMark = s.drainMark :=
    State.onTarget_drainMark fun _ => ⟨rfl, rfl⟩
  have hfinish (u : State) : u.finishDrain.drainMark = u.drainMark := State.onTarget_drainMark fun _ => ⟨rfl, rfl⟩
  rw [State.ackPart]
  split
  · split
    · exact (hfinish _).trans hacked
    · exact (hfinish _).trans hacked
  · split
    · exact hacked
    · exact hacked

theorem State.drainBytes_drainMark (off : Nat) (bs : List Byte) (poison : Nat → Bool) (row : Option (Nat × Nat)) (header : Bool) :
    (s.drainBytes off bs poison row header).drainMark = s.drainMark := by
  rw [State.drainBytes]
  refine List.foldlRecOn (motive := fun t : State => t.drainMark = s.drainMark) _ _ rfl fun t ht i _ => ?_
  have hsent (n : Nat) : (t.onTarget 0 fun x => { x with sent := x.sent + n }).drainMark = s.drainMark :=
    (State.onTarget_drainMark (f := fun x => { x with sent := x.sent + n }) fun _ => ⟨rfl, rfl⟩).trans ht
  dsimp only
  split
  · rw [State.ackPart_drainMark]
    refine (State.drainMark_of_resil ?_).trans (hsent ((bs.drop (4096 * i)).take 4096).length)
    exact (State.within_fold (L := [.memory, .bytes]) (fun _ _ hw => State.store_within hw (List.Subset.refl _))
      (State.within_refl _ _)).resil (by decide)
  · refine (State.unacked_drainMark _).trans ((State.drainMark_of_resil ?_).trans (hsent ((bs.drop (4096 * i)).take 4096).length))
    exact (State.sendHop_within (State.within_refl _ [.links]) (List.Subset.refl _)).resil (by decide)

/-- A body without dense operands and rows leaves the dial and the drain's step. -/
theorem State.drainBody_of_empty (hdense : s.drainView.denseAt = []) (hrows : s.rowsToDrain = []) :
    s.drainBody.drainMark = s.drainMark ∧ s.within [.logs, .memory, .links, .resil, .bytes] s.drainBody := by
  rw [State.drainBody, hdense, hrows]
  simp only [List.foldl_nil]
  have hbegun (n : Nat) : (s.onTarget 0 fun x => { x with
      size := n, bodySent := true, complete := setAt x.complete (bit x.set) none, zeroed := setAt x.zeroed (bit x.set) true }).drainMark = s.drainMark :=
    State.onTarget_drainMark (f := fun x => { x with
      size := n, bodySent := true, complete := setAt x.complete (bit x.set) none, zeroed := setAt x.zeroed (bit x.set) true }) fun _ => ⟨rfl, rfl⟩
  refine ⟨?_, State.onTarget_within (State.drainBytes_within (State.drainBytes_within (State.within_ite (State.drainBytes_within
    (State.onTarget_within (State.within_refl s _) (by decide)) (by decide)) (State.onTarget_within (State.within_refl s _) (by decide)))
    (by decide)) (by decide)) (by decide)⟩
  refine (State.covering_drainMark _).trans ?_
  rw [State.drainBytes_drainMark, State.drainBytes_drainMark]
  split
  · rw [State.drainBytes_drainMark]
    exact hbegun _
  · exact hbegun _

theorem State.rowsToDrain_of_empty (h : s.dirtyRows 0 (s.target 0).set = []) : s.rowsToDrain = [] := by
  rw [State.rowsToDrain, h]
  exact List.take_nil

/-- A drain of another step than the dial's waits for no decision: its header is sent (R450). -/
theorem State.drainHeader_of_earlier (hstep : s.drainMark.1 ≠ 0) (h : s.drainMark.1 ≠ s.dial.step.toNat) :
    s.drainHeader.drainMark.2 = true := by
  have hlen : 0 < s.resil.targets.length := by
    by_contra hnone
    refine hstep ?_
    rw [State.drainMark, State.target, List.getD_eq_getElem?_getD, List.getElem?_eq_none (by omega)]
    rfl
  rw [State.drainHeader]
  dsimp only
  split
  next hcond =>
    have hother : ((s.target 0).step != s.dial.step.toNat) = true := bne_iff_ne.2 h
    rw [hother, Bool.or_true, Bool.not_true, Bool.or_false] at hcond
    exact hcond
  next =>
    rw [State.drainBytes_drainMark, State.drainMark, State.onTarget_target, if_pos ⟨rfl, hlen⟩]

end

/-- A device whose partner drain of step 1 is open in step 0, whose Weir decision is not made. -/
def earlyDrain : State :=
  { State.reset with
    cores := [{ ControlCore.reset with role := 6, tested := true }]
    dial := { State.reset.dial with instances := [⟨0, 0, none, false, false, false⟩] }
    cfg := { State.reset.cfg with slots := [(0, { (default : JobSlot) with
      ops := [{ (default : Op) with body := .reduce 0 0 0 true }, { (default : Op) with body := .transform default }] })] }
    resil := { State.reset.resil with targets := [{ CkptTarget.reset with active := true, step := 1 }] } }

theorem earlyDrain_met : (earlyDrain.target 0).active = true ∧ (earlyDrain.target 0).bodySent = false ∧ earlyDrain.roleUp 6 = true ∧
    earlyDrain.memory.stepFault = false ∧ ((earlyDrain.target 0).headerSent || earlyDrain.train.decided || earlyDrain.weirEntry.isNone) = false ∧
    earlyDrain.drainView.denseAt = [] ∧ earlyDrain.rowsToDrain = [] :=
  ⟨rfl, rfl, by decide, rfl, rfl, rfl,
    State.rowsToDrain_of_empty rfl⟩

/-- Refutes O49: a drain whose step is not the dial's sends its header at once, whatever the step's Weir decision. -/
theorem not_partnerDrains : ¬ Obligations.PartnerDrains := by
  intro h
  obtain ⟨hactive, hbody, hrole, hfault, hwait, hdense, hrows⟩ := earlyDrain_met
  obtain ⟨t, ht, v, rfl, -, hheader, -⟩ := (h earlyDrain).2.2.2.2 hactive hbody hrole hfault
  rw [hwait] at hheader
  have hexec : exec .checkpointDrain earlyDrain = .next (earlyDrain.drainBody.drainHeader.draw).settle := by
    change execCheckpointDrain _ = _
    rw [execCheckpointDrain, if_neg (by rw [hactive]; decide), if_neg (by rw [hbody]; decide), if_neg (by rw [hrole, hfault]; decide)]
  obtain ⟨hmark, hw⟩ := State.drainBody_of_empty hdense hrows
  have hsent : earlyDrain.drainBody.drainHeader.drainMark.2 = true := by
    refine State.drainHeader_of_earlier ?_ ?_
    · rw [hmark]
      decide
    · rw [hmark, hw.dial (by decide)]
      decide
  have hsettle (u : State) : u.settle.drainMark = u.drainMark := State.drainMark_of_resil
    ((State.settle_within (State.within_refl u [.dial, .mbs, .sched, .train]) (List.Subset.refl _)).resil (by decide))
  have hdraw (u : State) : u.draw.drainMark = u.drainMark := rfl
  have hsame : v.drainMark = earlyDrain.drainBody.drainHeader.drainMark := by
    rw [← hsettle v, Host.Outcome.next.inj (ht.symm.trans hexec), hsettle, hdraw]
  have hfalse : earlyDrain.drainBody.drainHeader.drainMark.2 = false := by
    rw [← hsame]
    exact hheader
  exact Bool.false_ne_true (hfalse.symm.trans hsent)

end Sys2Proof.Machine
end


section
/-! PROOFS. Copies to local flash and the shared store, and what a restore reads from them (R443, R453–R455, R457). -/

namespace Sys2Proof.Machine

set_option Elab.async false

/-! ### Targets of a checkpoint -/

section
variable {s : State}

theorem State.target_lt {t : Nat} (h : s.target t ≠ CkptTarget.reset) : t < s.resil.targets.length := by
  by_contra hge
  refine h ?_
  rw [State.target, List.getD_eq_getElem?_getD, List.getElem?_eq_none (by omega)]
  rfl

theorem State.target_lt_of_active {t : Nat} (h : (s.target t).active = true) : t < s.resil.targets.length :=
  State.target_lt fun heq => by rw [heq] at h; cases h

theorem State.target_lt_of_copying {t : Nat} (h : (s.target t).copying = true) : t < s.resil.targets.length :=
  State.target_lt fun heq => by rw [heq] at h; cases h

theorem State.target_lt_of_newest {t : Nat} {x : Bool × Nat} (h : (s.target t).newest = some x) : t < s.resil.targets.length :=
  State.target_lt fun heq => by rw [heq] at h; cases h

theorem State.target_congr {t : State} (h : t.resil = s.resil) (i : Nat) : t.target i = s.target i := by rw [State.target, State.target, h]

theorem State.draw_target (i : Nat) : s.draw.target i = s.target i := rfl

theorem State.onTarget_target_same {t : Nat} (ht : t < s.resil.targets.length) (f : CkptTarget → CkptTarget) :
    (s.onTarget t f).target t = f (s.target t) := by rw [State.onTarget_target, if_pos ⟨rfl, ht⟩]

theorem State.onTarget_target_ne {t i : Nat} (ht : t ≠ i) (f : CkptTarget → CkptTarget) : (s.onTarget t f).target i = s.target i := by
  rw [State.onTarget_target, if_neg fun h => ht h.1]

@[simp] theorem State.onTarget_length (t : Nat) (f : CkptTarget → CkptTarget) :
    (s.onTarget t f).resil.targets.length = s.resil.targets.length := modifyAt_length ..

/-- What an item's sizes are read from. -/
theorem State.copySizes_congr {u : State} (hcfg : u.cfg = s.cfg) (hrun : u.run = s.run) (hstart : u.start = s.start) (t : Nat) :
    u.copyChunk t = s.copyChunk t ∧ u.setZ = s.setZ := by
  rw [State.copyChunk, State.copyChunk, State.setZ, State.setZ, State.recovery, State.recovery, State.slotCfg, State.slotCfg, hcfg, hrun, hstart]
  exact ⟨rfl, rfl⟩

/-! ### One item of a copy (R453) -/

/-- Of a copy: its item's bytes sent, where they end, under way, its step; and the pin. -/
def State.copyMark (s : State) (t : Nat) : Bool × Nat × Bool × Nat × Bool × Bool :=
  let x := s.target t
  (x.bodySent, x.copyEnd, x.copying, x.step, (s.target 0).pinned, (s.target 0).pinSet)

theorem State.copyMark_of_resil {u : State} (h : u.resil = s.resil) (t : Nat) : u.copyMark t = s.copyMark t := by
  rw [State.copyMark, State.copyMark, State.target_congr h, State.target_congr h]

theorem State.copyMark_ite {c : Prop} [Decidable c] {a b : State} {t : Nat} {m : Bool × Nat × Bool × Nat × Bool × Bool}
    (ha : a.copyMark t = m) (hb : b.copyMark t = m) : (if c then a else b).copyMark t = m := by
  split
  · exact ha
  · exact hb

theorem State.onTarget_copyMark {t : Nat} {f : CkptTarget → CkptTarget} (ht : t ≠ 0)
    (hf : ∀ x, ((f x).bodySent, (f x).copyEnd, (f x).copying, (f x).step) = (x.bodySent, x.copyEnd, x.copying, x.step)) :
    (s.onTarget t f).copyMark t = s.copyMark t := by
  obtain ⟨h1, h2, h3, h4⟩ : (f (s.target t)).bodySent = (s.target t).bodySent ∧ (f (s.target t)).copyEnd = (s.target t).copyEnd ∧
      (f (s.target t)).copying = (s.target t).copying ∧ (f (s.target t)).step = (s.target t).step := by simpa using hf (s.target t)
  rw [State.copyMark, State.copyMark, State.onTarget_target_ne ht, State.onTarget_target]
  split
  · rw [h1, h2, h3, h4]
  · rfl

theorem State.copySent_copyMark {t : Nat} (ht : t ≠ 0) (n : Nat) (p : DrainPart) :
    (s.onTarget t fun y => { y with sent := y.sent + n, unacked := y.unacked ++ [p] }).copyMark t = s.copyMark t :=
  State.onTarget_copyMark (f := fun y => { y with sent := y.sent + n, unacked := y.unacked ++ [p] }) ht fun _ => rfl

theorem State.copyBytes_copyMark {t : Nat} (ht : t ≠ 0) (off : Nat) (bs : List Byte) (header : Bool) :
    (s.copyBytes t off bs header).copyMark t = s.copyMark t := by
  rw [State.copyBytes]
  split
  · rfl
  · refine List.foldlRecOn (motive := fun u : State => u.copyMark t = s.copyMark t) _ _ rfl fun u hu i _ => ?_
    refine (State.copySent_copyMark ht _ _).trans ((State.copyMark_of_resil ?_ t).trans hu)
    exact (State.sendPacket_within (State.within_refl u [.links]) (List.Subset.refl _)).resil (by decide)

/-- An item's part of the set, taken: where it ends. -/
def State.copyOpened (s : State) (t : Nat) : State :=
  s.onTarget t fun y => { y with
    copyEnd := min ((s.target t).copyPos + s.copyChunk t) s.setZ, bodySent := true, complete := setAt y.complete (bit y.set) none
    zeroed := setAt y.zeroed (bit y.set) true }

/-- The set's first page out, where it is due. -/
def State.copyPaged (s : State) (t : Nat) (page : List Byte) : State :=
  let x := s.target t
  if x.copyPos = 0 ∧ (!x.zeroed.getD (bit x.set) false || t == 2) then (s.copyOpened t).copyBytes t 0 (reheader page t x.set false) false
  else s.copyOpened t

/-- The item's bytes out. -/
def State.copySent (s : State) (t : Nat) (page bs : List Byte) : State :=
  let x := s.target t
  let skip := if x.copyPos = 0 then 4096 else 0
  if x.copyPos + skip < min (x.copyPos + s.copyChunk t) s.setZ then (s.copyPaged t page).copyBytes t (x.copyPos + skip) (bs.drop skip) false
  else s.copyPaged t page

theorem State.copyPart_eq (s : State) (t : Nat) (page bs : List Byte) : s.copyPart t page bs =
    if min ((s.target t).copyPos + s.copyChunk t) s.setZ = s.setZ then
      ((s.copySent t page bs).onTarget t fun y => { y with headerSent := true }).copyBytes t 0 (reheader page t (s.target t).set true) true
    else s.copySent t page bs := rfl

theorem State.copyPart_copyMark {t : Nat} (ht : t ≠ 0) (hlen : t < s.resil.targets.length) (page bs : List Byte) :
    (s.copyPart t page bs).copyMark t = (true, min ((s.target t).copyPos + s.copyChunk t) s.setZ, (s.target t).copying, (s.target t).step,
      (s.target 0).pinned, (s.target 0).pinSet) := by
  have hopened : (s.copyOpened t).copyMark t = (true, min ((s.target t).copyPos + s.copyChunk t) s.setZ, (s.target t).copying, (s.target t).step,
      (s.target 0).pinned, (s.target 0).pinSet) := by
    rw [State.copyOpened, State.copyMark, State.onTarget_target_same hlen, State.onTarget_target_ne ht]
  have hpaged : (s.copyPaged t page).copyMark t = (s.copyOpened t).copyMark t :=
    State.copyMark_ite (State.copyBytes_copyMark ht _ _ _) (Eq.refl _)
  have hsent : (s.copySent t page bs).copyMark t = (s.copyOpened t).copyMark t :=
    State.copyMark_ite ((State.copyBytes_copyMark ht _ _ _).trans hpaged) hpaged
  rw [← hopened, State.copyPart_eq]
  split
  · rw [State.copyBytes_copyMark ht]
    exact (State.onTarget_copyMark (f := fun y => { y with headerSent := true }) ht fun _ => rfl).trans hsent
  · exact hsent

theorem State.copyPart_keeps {t : Nat} {page bs : List Byte} : s.within [.draws, .links, .resil] (s.copyPart t page bs) := by
  have hopened : s.within [.draws, .links, .resil] (s.copyOpened t) := State.onResil_within (State.within_refl s _) (by decide)
  have hpaged : s.within [.draws, .links, .resil] (s.copyPaged t page) :=
    State.within_ite (State.copyBytes_within hopened (by decide)) hopened
  have hsent : s.within [.draws, .links, .resil] (s.copySent t page bs) :=
    State.within_ite (State.copyBytes_within hpaged (by decide)) hpaged
  rw [State.copyPart_eq]
  exact State.within_ite (State.copyBytes_within (State.onResil_within hsent (by decide)) (by decide)) hsent

/-- The copy pins the newest set where none is pinned. -/
theorem State.beginCopy_of_newest {t set step} (hpin : (s.target 0).pinned = false) (hnew : (s.target 0).newest = some (set, step)) :
    s.beginCopy t = (s.onTarget 0 fun x => { x with pinned := true, pinSet := set }).onTarget t fun x => { x with
      copying := true, set := x.next, step := step, copyPos := 0, copyEnd := 0, sent := 0, acked := 0, progress := 0, unacked := [] } := by
  rw [State.beginCopy, hpin, hnew]
  rfl

theorem State.beginCopy_of_none {t : Nat} (hpin : (s.target 0).pinned = false) (hnew : (s.target 0).newest = none) : s.beginCopy t = s := by
  rw [State.beginCopy, hpin, hnew]
  rfl

/-- The state in which an item takes its bytes. -/
def State.copyBegun (s : State) (t : Nat) : State := if (s.target t).copying then s else s.beginCopy t

/-- The header page of the pinned set, and the item's bytes. -/
def State.copyPage (s : State) (data : List Byte) : List Byte :=
  if s.cfg.header.shapeA = 0 then s.bytesAt (s.partnerStart + s.setBase (s.target 0).pinSet) 4096 else padTo 4096 (data.take 4096)
def State.copyBody (s : State) (t : Nat) (data : List Byte) : List Byte :=
  let n := min (s.copyChunk t) (s.setZ - (s.target t).copyPos)
  if s.cfg.header.shapeA = 0 then s.bytesAt (s.partnerStart + s.setBase (s.target 0).pinSet + (s.target t).copyPos) n
  else padTo n ((data.drop 4096).take n)

theorem execCheckpointCopy_eq (target : BitVec 2) (data : List Byte) (s : State) : exec (.checkpointCopy target data) s = .next
    (if (target.toNat ≠ 1 ∧ target.toNat ≠ 2) || !(s.target target.toNat).active || (s.target target.toNat).bodySent || !s.roleUp 6 ||
      s.memory.stepFault then s
    else if !((s.copyBegun target.toNat).target target.toNat).copying then
      ((s.copyBegun target.toNat).onTarget target.toNat fun x => { x with active := false }).settle
    else ((s.copyBegun target.toNat).copyPart target.toNat ((s.copyBegun target.toNat).copyPage data)
      ((s.copyBegun target.toNat).copyBody target.toNat data)).draw) := rfl

section
variable {target : BitVec 2} {data : List Byte} (htarget : target = 1 ∨ target = 2)
include htarget

omit htarget in
theorem exec_checkpointCopy_idle (h : (s.target target.toNat).active = false ∨ (s.target target.toNat).bodySent = true) :
    exec (.checkpointCopy target data) s = .next s := by
  rw [execCheckpointCopy_eq]
  obtain h | h := h
  · rw [h]
    simp
  · rw [h]
    simp

theorem exec_checkpointCopy (hactive : (s.target target.toNat).active = true) (hbody : (s.target target.toNat).bodySent = false)
    (hrole : s.roleUp 6 = true) (hfault : s.memory.stepFault = false) {u : State} (hu : s.copyBegun target.toNat = u) :
    ((u.target target.toNat).copying = true → exec (.checkpointCopy target data) s =
      .next (u.copyPart target.toNat (u.copyPage data) (u.copyBody target.toNat data)).draw) ∧
    ((u.target target.toNat).copying = false → exec (.checkpointCopy target data) s =
      .next (u.onTarget target.toNat fun x => { x with active := false }).settle) := by
  have htwo : ¬ (target.toNat ≠ 1 ∧ target.toNat ≠ 2) := by
    obtain rfl | rfl := htarget
    · decide
    · decide
  rw [execCheckpointCopy_eq, if_neg (by rw [decide_eq_false htwo, hactive, hbody, hrole, hfault]; decide), hu]
  refine ⟨fun h => ?_, fun h => ?_⟩
  · rw [if_neg (by rw [h]; decide)]
  · rw [if_pos (by rw [h]; decide)]

end

end

/-- One item of a copy (R453). -/
theorem checkpointCopy_effect (s : State) (target : BitVec 2) (data : List Byte) (htarget : target = 1 ∨ target = 2) :
    let x := s.target target.toNat
    (x.active = false ∨ x.bodySent = true → runs (.checkpointCopy target data) s fun t => t = s) ∧
    (x.active = true → x.bodySent = false → s.roleUp 6 = true → s.memory.stepFault = false →
      (x.copying = true → runs (.checkpointCopy target data) s fun t => (t.target target.toNat).bodySent = true ∧
        (t.target target.toNat).copyEnd = min (x.copyPos + s.copyChunk target.toNat) s.setZ ∧ s.onlyIn t [.draws, .links, .resil]) ∧
      (∀ set step, x.copying = false → (s.target 0).pinned = false → (s.target 0).newest = some (set, step) →
        runs (.checkpointCopy target data) s fun t => (t.target target.toNat).copying = true ∧ (t.target target.toNat).step = step ∧
          (t.target target.toNat).copyEnd = min (s.copyChunk target.toNat) s.setZ ∧ (t.target 0).pinned = true ∧ (t.target 0).pinSet = set ∧
          s.onlyIn t [.draws, .links, .resil]) ∧
      (x.copying = false → (s.target 0).pinned = false → (s.target 0).newest = none → runs (.checkpointCopy target data) s fun t =>
        ∃ v : State, t = v.settle ∧ (v.target target.toNat).active = false ∧ s.onlyIn v [.resil])) := by
  intro x
  have ht0 : target.toNat ≠ 0 := by
    obtain rfl | rfl := htarget
    · decide
    · decide
  refine ⟨fun h => ⟨s, exec_checkpointCopy_idle h, rfl⟩, fun hactive hbody hrole hfault => ?_⟩
  have hlen := State.target_lt_of_active hactive
  refine ⟨fun hcopying => ?_, fun set step hcopying hpin hnew => ?_, fun hcopying hpin hnew => ?_⟩
  · have hexec := (exec_checkpointCopy (data := data) htarget hactive hbody hrole hfault (if_pos hcopying)).1 hcopying
    have hmark := State.copyPart_copyMark ht0 hlen (s.copyPage data) (s.copyBody target.toNat data)
    simp only [State.copyMark, Prod.mk.injEq] at hmark
    obtain ⟨hsent, hend, -⟩ := hmark
    refine ⟨_, hexec, ?_, ?_, (State.draw_within State.copyPart_keeps (by decide)).1⟩
    · rw [State.draw_target]; exact hsent
    · rw [State.draw_target]; exact hend
  · have hnot : ¬ (s.target target.toNat).copying = true := by rw [show (s.target target.toNat).copying = false from hcopying]; decide
    obtain ⟨u, hu⟩ : ∃ u, u = s.copyBegun target.toNat := ⟨_, rfl⟩
    have hbegun : u = (s.onTarget 0 fun x => { x with pinned := true, pinSet := set }).onTarget target.toNat fun x => { x with
        copying := true, set := x.next, step := step, copyPos := 0, copyEnd := 0, sent := 0, acked := 0, progress := 0, unacked := [] } :=
      hu.trans ((if_neg hnot).trans (State.beginCopy_of_newest hpin hnew))
    have htarget' : (u.target target.toNat).copying = true ∧ (u.target target.toNat).step = step ∧ (u.target target.toNat).copyPos = 0 := by
      rw [hbegun, State.onTarget_target_same (by simpa using hlen)]
      exact ⟨rfl, rfl, rfl⟩
    have hpinned : (u.target 0).pinned = true ∧ (u.target 0).pinSet = set := by
      rw [hbegun, State.onTarget_target_ne ht0, State.onTarget_target_same (State.target_lt_of_newest hnew)]
      exact ⟨rfl, rfl⟩
    have hw : s.within [.draws, .links, .resil] u := by
      rw [hbegun]
      exact State.onResil_within (State.onResil_within (State.within_refl s _) (by decide)) (by decide)
    have hsizes : u.copyChunk target.toNat = s.copyChunk target.toNat ∧ u.setZ = s.setZ :=
      State.copySizes_congr (hw.cfg (by decide)) (hw.run (by decide)) (hw.start (by decide)) _
    have hexec := (exec_checkpointCopy (data := data) htarget hactive hbody hrole hfault hu.symm).1 htarget'.1
    have hmark := State.copyPart_copyMark ht0 (State.target_lt_of_copying htarget'.1) (u.copyPage data) (u.copyBody target.toNat data)
    simp only [State.copyMark, Prod.mk.injEq] at hmark
    obtain ⟨-, hend, hcopies, hstep, hpin', hset⟩ := hmark
    rw [htarget'.2.2, hsizes.1, hsizes.2, Nat.zero_add] at hend
    refine ⟨_, hexec, ?_⟩
    beta_reduce
    rw [State.draw_target, State.draw_target]
    exact ⟨hcopies.trans htarget'.1, hstep.trans htarget'.2.1, hend, hpin'.trans hpinned.1, hset.trans hpinned.2,
      (State.draw_within (State.within_step State.copyPart_keeps hw (List.Subset.refl _)) (by decide)).1⟩
  · have hnot : ¬ (s.target target.toNat).copying = true := by rw [show (s.target target.toNat).copying = false from hcopying]; decide
    have hbegun : s.copyBegun target.toNat = s := (if_neg hnot).trans (State.beginCopy_of_none hpin hnew)
    have hexec := (exec_checkpointCopy (data := data) htarget hactive hbody hrole hfault hbegun).2 hcopying
    refine ⟨_, hexec, s.onTarget target.toNat fun x => { x with active := false }, rfl, ?_,
      (State.onResil_within (State.within_refl s _) (List.Subset.refl _)).1⟩
    rw [State.onTarget_target_same hlen]

/-! ### Checkpoint objects of the host (R438, R455, R457) -/

theorem State.ckptPacket_of_clean {s : State} {h : HkHeader} {flits : Nat} (hs : s.hostReady h.tag) (hh : cleanHeader h flits)
    (act : State → State) : s.ckptPacket h true act = act s := by
  obtain ⟨hport, hbegun, hstart, hrefused, -⟩ := hs
  have hup : s.hkUp = true := by simp [State.hkUp, hport, hbegun, hstart]
  have hlen : ¬ h.flits.toNat > 64 := by
    obtain ⟨-, -, -, -, -, -, heq, hle⟩ := hh
    omega
  rw [State.ckptPacket, if_neg (by rw [hup]; decide), if_neg hlen, hrefused, hkHeaderFaults_eq_nil hh, firstFault_nil]

/-- Bytes placed at their offsets. -/
theorem lookupNat_placed {α : Type} (k : Nat) (bs : List α) (d : List (Nat × α)) (i : Nat) (j : Nat) :
    lookupNat j (((bs.zipIdx i).map fun b => (k + b.2, b.1)).foldl (fun d c => insertKey c.1 c.2 d) d) =
      if k + i ≤ j ∧ j < k + i + bs.length then bs[j - (k + i)]? else lookupNat j d := by
  induction bs generalizing i d with
  | nil => rw [if_neg (by simp only [List.length_nil]; omega)]; rfl
  | cons b bs ih =>
    rw [List.zipIdx_cons, List.map_cons, List.foldl_cons, ih, lookupNat_insertKey, List.length_cons]
    by_cases hfirst : j = k + i
    · rw [if_neg (by omega), if_pos hfirst.symm, if_pos (by omega), hfirst, Nat.sub_self, List.getElem?_cons_zero]
    · by_cases hin : k + (i + 1) ≤ j ∧ j < k + (i + 1) + bs.length
      · rw [if_pos hin, if_pos (by omega), show j - (k + i) = j - (k + (i + 1)) + 1 by omega, List.getElem?_cons_succ]
      · rw [if_neg hin, if_neg (by omega), if_neg (by omega)]

/-- A restore's bytes of an object, as the host sends them. -/
def State.objectPlaced (s : State) (off : Nat) (object : BitVec 32) (data : List Flit) : State :=
  let cells := (data.flatMap flitBytes).zipIdx.map fun b => (off + b.2, b.1)
  s.onRestore fun r => { r with
    object := some object, data := cells.foldl (fun d c => insertKey c.1 c.2 d) r.data, got := r.got + cells.length
    progress := fraction (r.got + cells.length) r.wanted }

/-- The acknowledgement of what has come of an object. -/
def State.objectAck (s : State) (object : BitVec 32) : Flit :=
  headerFlit (pack [(1, 4), (0x39, 6), (0, 3)]) (pack [(s.resil.restore.got, 48), (0, 48), (object.toNat, 32)])

theorem exec_ckptData {s : State} {h : HkHeader} {offset : BitVec 48} {object : BitVec 32} {data : List Flit} (hs : s.hostReady h.tag)
    (hh : cleanHeader h data.length) (hdata : data ≠ []) (hoff : offset.toNat % 64 = 0) : exec (.ckptData h offset object data) s = .next
      (let r := s.resil.restore
      if r.phase ≠ 1 ∨ r.source ≠ 2 ∨ r.stage ≠ .body ∨ r.object.any (· != object) ∨ r.wanted < offset.toNat + 64 * data.length then s
      else ((s.objectPlaced offset.toNat object data).sendPacket 6
        ⟨0, [(s.objectPlaced offset.toNat object data).objectAck object]⟩).stagesEnd) := by
  have hpos : 1 ≤ data.length := List.length_pos_of_ne_nil hdata
  have hflits : h.flits.toNat = data.length := hh.2.2.2.2.2.2.1
  have hok : (decide (1 ≤ h.flits.toNat) && data.length == h.flits.toNat && offset.toNat % 64 == 0) = true := by
    rw [hflits, hoff, decide_eq_true hpos]
    simp
  change execCkptData h offset object data s = _
  rw [execCkptData, hok, State.ckptPacket_of_clean hs hh]
  rfl

theorem ckptData_effect (s : State) (h : HkHeader) (offset : BitVec 48) (object : BitVec 32) (data : List Flit) (hs : s.hostReady h.tag)
    (hh : cleanHeader h data.length) (hdata : data ≠ []) (hoff : offset.toNat % 64 = 0) :
    let r := s.resil.restore
    (r.phase ≠ 1 ∨ r.source ≠ 2 ∨ r.stage ≠ .body ∨ r.object.any (· != object) = true ∨ r.wanted < offset.toNat + 64 * data.length →
      runs (.ckptData h offset object data) s fun t => t = s) ∧
    (r.phase = 1 → r.source = 2 → r.stage = .body → r.object.any (· != object) = false → offset.toNat + 64 * data.length ≤ r.wanted →
      runs (.ckptData h offset object data) s fun t => ∃ v : State, t = v.stagesEnd ∧ (r.got + 64 * data.length < r.wanted → t = v) ∧
        v.resil.restore.object = some object ∧ v.resil.restore.got = r.got + 64 * data.length ∧ v.resil.restore.phase = 1 ∧
        (∀ j, j < 64 * data.length → lookupNat (offset.toNat + j) v.resil.restore.data = (data.flatMap flitBytes)[j]?) ∧
        (∃ head, (v.port 6).queues = (s.port 6).queues ++ [⟨0, [head]⟩]) ∧ s.onlyIn v [.links, .resil]) := by
  intro r
  have hexec := exec_ckptData (object := object) hs hh hdata hoff
  refine ⟨fun hno => ⟨s, hexec.trans (congrArg Host.Outcome.next (if_pos hno)), rfl⟩, fun hphase hsource hstage hobject hfits => ?_⟩
  have hyes : ¬ (r.phase ≠ 1 ∨ r.source ≠ 2 ∨ r.stage ≠ .body ∨ r.object.any (· != object) = true ∨ r.wanted < offset.toNat + 64 * data.length) := by
    rintro (hn | hn | hn | hn | hn)
    · exact hn hphase
    · exact hn hsource
    · exact hn hstage
    · exact Bool.false_ne_true (hobject.symm.trans hn)
    · omega
  have hlen : ((data.flatMap flitBytes).zipIdx.map fun b => (offset.toNat + b.2, b.1)).length = 64 * data.length := by
    rw [List.length_map, List.length_zipIdx, flatMap_flitBytes_length]
  have hport : 6 < s.links.ports.length := State.port_lt (by rw [hs.1]; decide)
  obtain ⟨u, hu⟩ : ∃ u, u = s.objectPlaced offset.toNat object data := ⟨_, rfl⟩
  have hrestore : u.resil.restore.object = some object ∧ u.resil.restore.got = r.got + 64 * data.length ∧ u.resil.restore.wanted = r.wanted ∧
      u.resil.restore.phase = 1 := by
    rw [hu, State.objectPlaced, State.onRestore_resil]
    exact ⟨rfl, congrArg (r.got + ·) hlen, rfl, hphase⟩
  have hplaced (j : Nat) (hj : j < 64 * data.length) : lookupNat (offset.toNat + j) u.resil.restore.data = (data.flatMap flitBytes)[j]? := by
    rw [hu, State.objectPlaced, State.onRestore_resil]
    refine (lookupNat_placed offset.toNat (data.flatMap flitBytes) _ 0 _).trans ?_
    rw [flatMap_flitBytes_length, if_pos (by omega), show offset.toNat + j - (offset.toNat + 0) = j by omega]
  have hw : s.within [.links, .resil] u := by
    rw [hu]
    exact State.onResil_within (State.within_refl s _) (by decide)
  rw [← hu] at hexec
  have hresil : (u.sendPacket 6 ⟨0, [u.objectAck object]⟩).resil = u.resil := State.onPort_resil ..
  obtain ⟨hobj, hgot, hwanted, hph⟩ := hrestore
  refine ⟨_, hexec.trans (congrArg Host.Outcome.next (if_neg hyes)), u.sendPacket 6 ⟨0, [u.objectAck object]⟩, rfl, fun hless => ?_, ?_⟩
  · exact State.stagesEnd_of_waiting (by rw [hresil, hgot, hwanted]; exact hless)
  · rw [hresil]
    refine ⟨hobj, hgot, hph, hplaced, ⟨u.objectAck object, ?_⟩, State.sendPacket_onlyIn hw (by decide)⟩
    have hulinks : u.links = s.links := by rw [hu]; rfl
    rw [State.sendPacket, State.onPort_port_same (by rw [hulinks]; exact hport), State.port_congr hulinks]

/-! ### A copy ends (R453, R455) -/

/-- A copy's fields as it ends. -/
def State.copyClosed (s : State) (t : Nat) : State :=
  s.onTarget t fun x => { x with copying := false, copyPos := 0, copyEnd := 0, unacked := [], sent := 0, acked := 0, progress := 0xFFFF }

/-- The same, with no command of a copy to flash left. -/
def State.copyEmptied (s : State) (t : Nat) : State :=
  if t = 1 then (s.copyClosed t).onResil fun r => { r with nvme := [] } else s.copyClosed t

theorem State.copyEmptied_target (s : State) (t : Nat) : (s.copyEmptied t).target t = (s.copyClosed t).target t := by
  rw [State.copyEmptied]
  split
  · rfl
  · rfl

theorem State.endCopy_zero (s : State) (t : Nat) : s.endCopy t 0 =
    if ((s.copyEmptied t).target 1).copying || ((s.copyEmptied t).target 2).copying then s.copyEmptied t
    else (s.copyEmptied t).onTarget 0 fun x => { x with pinned := false } := rfl

theorem State.logDevice_resil (s : State) (code : Nat) (who : Named) (dropped detail : Nat) :
    (s.logDevice code who dropped detail).resil = s.resil :=
  (State.logDevice_within (State.within_refl s [.logs]) (List.Subset.refl _)).resil (by decide)

/-- A copy item whose bytes have reached the target is closed; one that wrote the header ends its copy. -/
theorem State.copyDone_effect {s : State} {t : Nat} (ht : t ≠ 0) (hlen : t < s.resil.targets.length) :
    ((s.copyDone t).target t).active = false ∧
      ((s.copyDone t).target t).copyPos = (if (s.target t).headerSent = true then 0 else (s.target t).copyEnd) ∧
      s.within [.logs, .resil] (s.copyDone t) := by
  obtain ⟨u, hu⟩ : ∃ u, u = s.onTarget t fun y => { y with active := false, copyPos := y.copyEnd, progress := fraction y.copyEnd s.setZ } := ⟨_, rfl⟩
  have hw : s.within [.logs, .resil] u := by
    rw [hu]
    exact State.onResil_within (State.within_refl s _) (by decide)
  have htarget : (u.target t).active = false ∧ (u.target t).copyPos = (s.target t).copyEnd := by
    rw [hu, State.onTarget_target_same hlen]
    exact ⟨rfl, rfl⟩
  have hulen : t < u.resil.targets.length := by
    rw [hu, State.onTarget_length]
    exact hlen
  rw [State.copyDone, ← hu]
  split
  next hheader =>
    obtain ⟨w, hw'⟩ : ∃ w, w = u.onTarget t fun y => { y with
      complete := setAt y.complete (bit y.set) (some y.step), zeroed := setAt y.zeroed (bit y.set) false, completed := y.completed + 1 } := ⟨_, rfl⟩
    rw [← hw']
    have hwtarget : (w.target t).active = false := by
      rw [hw', State.onTarget_target_same hulen]
      exact htarget.1
    have hclosed : ((w.copyClosed t).target t).active = false ∧ ((w.copyClosed t).target t).copyPos = 0 := by
      rw [State.copyClosed, State.onTarget_target_same (by rw [hw', State.onTarget_length]; exact hulen)]
      exact ⟨hwtarget, rfl⟩
    have hended : ((w.endCopy t 0).target t).active = false ∧ ((w.endCopy t 0).target t).copyPos = 0 := by
      rw [State.endCopy_zero]
      split
      · rw [State.copyEmptied_target]
        exact hclosed
      · rw [State.onTarget_target_ne (Ne.symm ht), State.copyEmptied_target]
        exact hclosed
    refine ⟨hended.1, hended.2, ?_⟩
    rw [hw']
    exact State.endCopy_within (State.onResil_within hw (by decide)) (by decide)
  next hheader => exact ⟨htarget.1, htarget.2, hw⟩

theorem exec_ckptAck {s : State} {h : HkHeader} {bytes : BitVec 48} {object : BitVec 32} (hs : s.hostReady h.tag) (hh : cleanHeader h 0) :
    exec (.ckptAck h bytes object) s = .next (s.ackStore bytes.toNat object.toNat).settle := by
  change execCkptAck h bytes object s = _
  rw [execCkptAck, hh.flits_beq, State.ckptPacket_of_clean hs hh]

/-- An acknowledgement of the object being copied notes what has come. -/
theorem State.ackStore_of_object {s : State} {bytes object : Nat} (hcopying : (s.target 2).copying = true)
    (hobject : object = objectNumber (s.target 2).step (s.target 2).set) : ∃ u : State, s.within [.resil] u ∧
      u.target 2 = { s.target 2 with
        acked := max (s.target 2).acked bytes, ackSeen := true
        unacked := (s.target 2).unacked.drop ((s.target 2).unacked.takeWhile fun p => decide (p.after ≤ bytes)).length } ∧
      s.ackStore bytes object = if (u.target 2).active && (u.target 2).bodySent && (u.target 2).unacked.isEmpty then u.copyDone 2 else u := by
  refine ⟨s.onTarget 2 fun y => { y with
    acked := max y.acked bytes, ackSeen := true
    unacked := y.unacked.drop ((s.target 2).unacked.takeWhile fun p => decide (p.after ≤ bytes)).length },
    State.onResil_within (State.within_refl s _) (List.Subset.refl _), ?_, ?_⟩
  · rw [State.onTarget_target_same (State.target_lt_of_copying hcopying)]
  · rw [State.ackStore]
    refine if_neg ?_
    rw [hcopying, ← hobject, bne_self_eq_false]
    decide

theorem ckptAck_effect (s : State) (h : HkHeader) (bytes : BitVec 48) (object : BitVec 32) (hs : s.hostReady h.tag) (hh : cleanHeader h 0) :
    let x := s.target 2
    let left := x.unacked.drop (x.unacked.takeWhile fun p => decide (p.after ≤ bytes.toNat)).length
    (x.copying = false ∨ object.toNat ≠ objectNumber x.step x.set → runs (.ckptAck h bytes object) s fun t => t = s.settle) ∧
    (x.copying = true → object.toNat = objectNumber x.step x.set → left ≠ [] ∨ x.active = false ∨ x.bodySent = false →
      runs (.ckptAck h bytes object) s fun t => ∃ v : State, t = v.settle ∧ s.onlyIn v [.resil] ∧
        v.target 2 = { x with acked := max x.acked bytes.toNat, ackSeen := true, unacked := left }) ∧
    (x.copying = true → object.toNat = objectNumber x.step x.set → left = [] → x.active = true → x.bodySent = true →
      runs (.ckptAck h bytes object) s fun t => ∃ v : State, t = v.settle ∧ (v.target 2).active = false ∧
        (v.target 2).copyPos = (if x.headerSent = true then 0 else x.copyEnd) ∧ s.onlyIn v [.logs, .resil]) := by
  intro x left
  have hexec := exec_ckptAck (bytes := bytes) (object := object) hs hh
  refine ⟨fun hno => ?_, fun hcopying hobject hstays => ?_, fun hcopying hobject hleft hactive hbody => ?_⟩
  · have hsame : s.ackStore bytes.toNat object.toNat = s := by
      rw [State.ackStore]
      refine if_pos ?_
      obtain hno | hno := hno
      · rw [show (s.target 2).copying = false from hno]
        rfl
      · rw [bne_iff_ne.2 hno, Bool.or_true]
    rw [hsame] at hexec
    exact ⟨_, hexec, rfl⟩
  · obtain ⟨u, hw, htarget, hacked⟩ := State.ackStore_of_object (bytes := bytes.toNat) hcopying hobject
    rw [hacked, htarget] at hexec
    refine ⟨_, hexec, u, ?_, hw.1, htarget⟩
    rw [if_neg]
    obtain hstays | hstays | hstays := hstays
    · intro hall
      rw [Bool.and_eq_true] at hall
      exact hstays (List.isEmpty_iff.1 hall.2)
    · rw [show (s.target 2).active = false from hstays]
      simp
    · rw [show (s.target 2).bodySent = false from hstays]
      simp
  · obtain ⟨u, hw, htarget, hacked⟩ := State.ackStore_of_object (bytes := bytes.toNat) hcopying hobject
    have hall : ((u.target 2).active && (u.target 2).bodySent && (u.target 2).unacked.isEmpty) = true := by
      rw [htarget, show (s.target 2).active = true from hactive, show (s.target 2).bodySent = true from hbody]
      exact List.isEmpty_iff.2 hleft
    rw [hacked, if_pos hall] at hexec
    have hlen : 2 < u.resil.targets.length := State.target_lt_of_active (by rw [htarget]; exact hactive)
    obtain ⟨hfree, hpos, hdone⟩ := State.copyDone_effect (s := u) (t := 2) (by decide) hlen
    rw [htarget] at hpos
    have hw' : s.within [.logs, .resil] u := State.within_step hw (State.within_refl s _) (by decide)
    exact ⟨_, hexec, u.copyDone 2, rfl, hfree, hpos, (State.within_step hdone hw' (List.Subset.refl _)).1⟩

/-! ### NVMe commands (R454, R457) -/

section
variable {s : State} {c : NvmeCommand} {rest : List NvmeCommand} (hq : s.resil.nvme = c :: rest)

/-- The oldest command is taken. -/
def State.nvmeTaken (s : State) (rest : List NvmeCommand) : State := s.onResil fun r => { r with nvme := rest }

/-- A command that fails: 0x111, and a restore that reads fails with it. -/
theorem State.nvmeTaken_failed (s : State) (c : NvmeCommand) (rest : List NvmeCommand) :
    let t := (s.nvmeTaken rest).nvmeFailed c
    t.resil.nvme = rest.filter (fun x => x.reads != c.reads) ∧
      t.logs.errorCounts[0x111]? = (s.logs.errorCounts[0x111]?).map (satAdd · 1) ∧
      (c.reads = true → t.resil.restore.phase = 5 ∧ t.resil.restore.code = 0x111) ∧
      (c.reads = false → t.resil.restore = s.resil.restore ∧ s.onlyIn t [.logs, .resil]) ∧ s.onlyIn t [.logs, .memory, .resil, .bytes] := by
  obtain ⟨u, hu⟩ : ∃ u, u = (s.nvmeTaken rest).onResil fun r => { r with nvme := r.nvme.filter fun x => x.reads != c.reads } := ⟨_, rfl⟩
  have hresil : u.resil = { s.resil with nvme := rest.filter fun x => x.reads != c.reads } := by rw [hu]; rfl
  have hlogs : u.logs = s.logs := by rw [hu]; rfl
  have hw {L : List Part} (hL : [.resil] ⊆ L) : s.within L u := by
    rw [hu]
    exact State.onResil_within (State.onResil_within (State.within_refl s L) hL) hL
  intro t
  have ht : t = if c.reads then u.failRestore 0x111 else u.logDevice 0x111 noName 0 0 := by rw [hu]; rfl
  clear_value t
  subst ht
  cases hreads : c.reads with
  | false =>
    rw [if_neg (by decide)]
    rw [hreads] at hresil
    refine ⟨?_, ?_, fun h => absurd h (by decide), fun _ => ⟨?_, (State.logDevice_within (hw (by decide)) (by decide)).1⟩,
      (State.logDevice_within (hw (by decide)) (by decide)).1⟩
    · rw [State.logDevice_resil, hresil]
    · rw [State.logDevice_errorCounts_same (by decide) (by decide), hlogs]
    · rw [State.logDevice_resil, hresil]
  | true =>
    rw [if_pos rfl]
    rw [hreads] at hresil
    obtain ⟨v, hv, hloaded⟩ : ∃ v : State, u.within [.memory, .bytes] v ∧ u.failRestore 0x111 =
        (v.onRestore fun r => { r with
          phase := 5, code := BitVec.ofNat 12 0x111, stage := .idle, armed := false, data := [], poison := [] }).logDevice 0x111 noName 0 0 :=
      ⟨_, State.loadRows_within (State.loadDense_within (State.within_refl u _) (List.Subset.refl _)) (List.Subset.refl _), rfl⟩
    refine ⟨?_, ?_, fun _ => ?_, fun h => absurd h (by decide), (State.failRestore_within (hw (by decide)) (List.Subset.refl _)).1⟩
    · rw [hloaded, State.logDevice_resil, State.onRestore_resil, hv.resil (by decide), hresil]
    · rw [hloaded, State.logDevice_errorCounts_same (by decide) (by decide), State.onRestore_logs, hv.logs (by decide), hlogs]
    · rw [hloaded, State.logDevice_resil, State.onRestore_resil]
      exact ⟨rfl, rfl⟩

include hq

theorem exec_nvmeCommandTimeout : exec .nvmeCommandTimeout s = .next ((s.nvmeTaken rest).nvmeFailed c) := by
  change execNvmeCommandTimeout s = _
  rw [execNvmeCommandTimeout, hq]
  rfl

theorem exec_nvmeCompletion_of_bad {status : BitVec 16} (hstatus : status ≠ 0) (data : List Byte) :
    exec (.nvmeCompletion status data) s = .next ((s.nvmeTaken rest).nvmeFailed c) := by
  change execNvmeCompletion status data s = _
  rw [execNvmeCompletion, hq]
  exact congrArg Host.Outcome.next (if_pos hstatus)

/-- A write, a flush or a header that completes: the last of them ends the item. -/
theorem exec_nvmeCompletion_of_write (hreads : c.reads = false) (data : List Byte) : exec (.nvmeCompletion 0 data) s = .next
    (if ((s.nvmeTaken rest).target 1).active && !rest.any fun x => !x.reads then
      (((s.nvmeTaken rest).onTarget 1 fun x => { x with ackSeen := true }).copyDone 1).settle else s.nvmeTaken rest) := by
  change execNvmeCompletion 0 data s = _
  rw [execNvmeCompletion, hq]
  cases c with
  | write lba n => rfl
  | header lba => rfl
  | flush => rfl
  | readHeader lba => cases hreads
  | readSet lba n => cases hreads

theorem exec_nvmeCompletion_of_read {n : Nat} (hc : ∃ lba, c = .readHeader lba ∧ n = 64 ∨ c = .readSet lba n) (data : List Byte) :
    exec (.nvmeCompletion 0 data) s =
      .next (((s.nvmeTaken rest).placeBytes (padTo n (data.take n)) fun _ => false).stagesEnd) := by
  change execNvmeCompletion 0 data s = _
  rw [execNvmeCompletion, hq]
  obtain ⟨lba, ⟨rfl, rfl⟩ | rfl⟩ := hc
  · rfl
  · rfl

end

theorem padTo_length (n : Nat) (bs : List Byte) : (padTo n bs).length = n := by
  rw [padTo, List.length_take, List.length_append, List.length_replicate]
  omega

/-- Settles O50: a copy's instances take the pinned set's bytes in turn and end when the target has them; what a restore reads is gathered. -/
theorem setCopies : Obligations.SetCopies := by
  intro s
  refine ⟨checkpointCopy_effect s, ckptData_effect s, ckptAck_effect s, fun hnone => ⟨s, ?_, rfl⟩, fun status data hnone => ⟨s, ?_, rfl⟩,
    fun c rest hq => ?_⟩
  · change execNvmeCommandTimeout s = _
    rw [execNvmeCommandTimeout, hnone]
  · change execNvmeCompletion status data s = _
    rw [execNvmeCompletion, hnone]
  · have htarget : (s.nvmeTaken rest).target 1 = s.target 1 := rfl
    have hw : s.within [.logs, .resil] (s.nvmeTaken rest) := State.onResil_within (State.within_refl s _) (by decide)
    refine ⟨⟨_, exec_nvmeCommandTimeout hq, s.nvmeTaken_failed c rest⟩,
      fun status data hstatus => ⟨_, exec_nvmeCompletion_of_bad hq hstatus data, s.nvmeTaken_failed c rest⟩,
      fun data hreads hstays => ?_, fun data hreads hlast hactive => ?_,
      fun data n hc => ⟨_, exec_nvmeCompletion_of_read hq hc data, rfl⟩, fun data off n hc hmore => ?_⟩
    · have hnot : ¬ (((s.nvmeTaken rest).target 1).active && !rest.any fun x => !x.reads) = true := by
        rw [htarget]
        obtain hstays | hstays := hstays
        · rw [hstays, Bool.not_true, Bool.and_false]
          decide
        · rw [hstays, Bool.false_and]
          decide
      refine ⟨_, (exec_nvmeCompletion_of_write hq hreads data).trans (congrArg Host.Outcome.next (if_neg hnot)), rfl,
        (State.onResil_within (State.within_refl s _) (List.Subset.refl _)).1⟩
    · have hall : (((s.nvmeTaken rest).target 1).active && !rest.any fun x => !x.reads) = true := by rw [htarget, hactive, hlast]; rfl
      have hlen : 1 < (s.nvmeTaken rest).resil.targets.length := State.target_lt_of_active (htarget ▸ hactive)
      obtain ⟨hfree, hpos, hdone⟩ := State.copyDone_effect (s := (s.nvmeTaken rest).onTarget 1 fun x => { x with ackSeen := true }) (t := 1)
        (by decide) (by rw [State.onTarget_length]; exact hlen)
      rw [State.onTarget_target_same hlen] at hpos
      refine ⟨_, (exec_nvmeCompletion_of_write hq hreads data).trans (congrArg Host.Outcome.next (if_pos hall)), _, rfl, hfree, hpos, ?_⟩
      exact (State.within_step hdone (State.onResil_within hw (by decide)) (List.Subset.refl _)).1
    · obtain ⟨hgot, hwanted⟩ := State.placeBytes_got (s.nvmeTaken rest) (padTo n (data.take n)) fun _ => false
      rw [padTo_length] at hgot
      have hwait : ((s.nvmeTaken rest).placeBytes (padTo n (data.take n)) fun _ => false).stagesEnd =
          (s.nvmeTaken rest).placeBytes (padTo n (data.take n)) fun _ => false :=
        State.stagesEnd_of_waiting (by rw [hgot, hwanted]; exact hmore)
      refine ⟨_, (exec_nvmeCompletion_of_read hq ⟨off, .inr hc⟩ data).trans (congrArg Host.Outcome.next hwait), hgot, ?_, ?_⟩
      · rw [State.placeBytes, State.onRestore_resil]
        rfl
      · exact (State.placeBytes_within (State.onResil_within (State.within_refl s _) (List.Subset.refl _)) (List.Subset.refl _)).1

end Sys2Proof.Machine
end


section
/-! PROOFS. Bank reloads, promoted rows and re-sharding (R165, R179–R182, R343, R373, R374). -/

namespace Sys2Proof.Machine

set_option Elab.async false

/-! ### Bank reloads (R165) -/

/-- An uncorrectable bank error: logged, and the region stalls while role 3 has no core. -/
def State.bankFault (s : State) (region : Region) : State :=
  (s.onTables fun t => { t with
    ecc := satAdd t.ecc 1
    stalled := if s.roleUp 3 then t.stalled.filter (· != region) else t.stalled.filter (· != region) ++ [region] }).logDevice
    0x088 (engineName region.val 1) 0 0

theorem exec_shardMapReload (s : State) (region : Region) (corrected : Bool) : exec (.shardMapReload region corrected) s = .next
    (if !s.start.loaded then s else
    if corrected then s.onTables fun t => { t with bankCorrected := t.bankCorrected + 1 } else s.bankFault region) := rfl

theorem State.bankFault_tables (s : State) (region : Region) : (s.bankFault region).tables = { s.tables with
    ecc := satAdd s.tables.ecc 1
    stalled := if s.roleUp 3 then s.tables.stalled.filter (· != region) else s.tables.stalled.filter (· != region) ++ [region] } :=
  (State.logDevice_within (State.within_refl _ [.logs]) (List.Subset.refl _)).tables (by decide)

/-- The regions that an uncorrectable bank error leaves stalled. -/
theorem mem_stalled {l : List Region} {region q : Region} (up : Bool) :
    (region ∈ (if up then l.filter (· != region) else l.filter (· != region) ++ [region]) ↔ up = false) ∧
    (q ≠ region → (q ∈ (if up then l.filter (· != region) else l.filter (· != region) ++ [region]) ↔ q ∈ l)) := by
  cases up with
  | false => simp +contextual
  | true => simp +contextual

theorem shardMapReload_effect (s : State) :
    (∀ (region : Region) (corrected : Bool), s.start.loaded = false → runs (.shardMapReload region corrected) s fun t => t = s) ∧
    (∀ region : Region, s.start.loaded = true → runs (.shardMapReload region true) s fun t =>
      t.tables = { s.tables with bankCorrected := s.tables.bankCorrected + 1 } ∧ s.onlyIn t [.tables]) ∧
    (∀ region : Region, s.start.loaded = true → runs (.shardMapReload region false) s fun t =>
      t.tables.ecc = satAdd s.tables.ecc 1 ∧ (region ∈ t.tables.stalled ↔ s.roleUp 3 = false) ∧
      (∀ q, q ≠ region → (q ∈ t.tables.stalled ↔ q ∈ s.tables.stalled)) ∧
      t.logs.errorCounts[0x88]? = (s.logs.errorCounts[0x88]?).map (satAdd · 1) ∧ s.onlyIn t [.logs, .tables]) := by
  refine ⟨fun region corrected h => ⟨s, ?_, rfl⟩, fun region h =>
    ⟨s.onTables fun t => { t with bankCorrected := t.bankCorrected + 1 }, ?_, rfl,
      (State.onTables_within (State.within_refl s _) (List.Subset.refl _)).1⟩, fun region h => ?_⟩
  · rw [exec_shardMapReload, h]
    rfl
  · rw [exec_shardMapReload, h]
    rfl
  · have hexec : exec (.shardMapReload region false) s = .next (s.bankFault region) := by
      rw [exec_shardMapReload, h]
      rfl
    refine ⟨_, hexec, ?_⟩
    beta_reduce
    rw [State.bankFault_tables]
    exact ⟨rfl, (mem_stalled (q := region) (s.roleUp 3)).1, fun q hq => (mem_stalled (s.roleUp 3)).2 hq,
      State.logDevice_errorCounts_same (by decide) (by decide),
      (State.logDevice_within (State.onTables_within (State.within_refl s _) (by decide)) (by decide)).1⟩

/-! ### Promoted rows (R178–R181) -/

section
variable {s : State}

/-- What making room for a waiting row leaves: the rows aborted, and every count but that of a full directory. -/
def State.keepsAborted (s t : State) : Prop :=
  t.tables.aborted = s.tables.aborted ∧ ∀ code, code ≠ 0x087 → t.logs.errorCounts[code]? = s.logs.errorCounts[code]?

theorem State.promote_keepsAborted {s0 : State} (h : s0.keepsAborted s) (t : TableDesc) (node : Nat) : s0.keepsAborted (s.promote t node) := by
  obtain ⟨haborted, hcounts⟩ := h
  rw [State.promote]
  split
  · refine ⟨?_, fun code hcode => ?_⟩
    · rw [(State.countError_within (State.within_refl _ [.logs]) (List.Subset.refl _)).tables (by decide)]
      exact haborted
    · rw [State.countError_errorCounts_ne (Ne.symm hcode)]
      exact hcounts code hcode
  · split
    · exact ⟨haborted, hcounts⟩
    · dsimp only
      split
      · exact ⟨haborted, hcounts⟩
      · exact ⟨haborted, hcounts⟩

theorem State.promoteWaiting_keepsAborted (s : State) : s.keepsAborted s.promoteWaiting := by
  rw [State.promoteWaiting]
  split
  · exact ⟨rfl, fun _ _ => rfl⟩
  · next id node rest _ =>
    dsimp only
    have hwaits : s.keepsAborted (s.onTables fun x => { x with waitingRows := rest }) := ⟨rfl, fun _ _ => rfl⟩
    cases State.table (s.onTables fun x => { x with waitingRows := rest }) id with
    | none => exact hwaits
    | some t => exact State.promote_keepsAborted hwaits t node

theorem State.endBatchRow_keeps (s : State) (table node : Nat) : (s.endBatchRow table node).tables.directory = s.tables.directory ∧
    (s.endBatchRow table node).tables.aborted = s.tables.aborted := by
  rw [State.endBatchRow]
  split
  · exact ⟨rfl, rfl⟩
  · exact ⟨rfl, rfl⟩

end

section
variable {s : State} {table : BitVec 8} {node : BitVec 40} {d : DirEntry} {tb : TableDesc} {h : ShardEntry × Nat}

/-- Where a copy reads and where it writes: a demoted row goes home. -/
def State.moveFrom (s : State) (d : DirEntry) (tb : TableDesc) (h : ShardEntry × Nat) : Nat :=
  if d.demote then d.location else homeKey tb (s.liveVersion tb.id) h.1 h.2
def State.moveTo (s : State) (d : DirEntry) (tb : TableDesc) (h : ShardEntry × Nat) : Nat :=
  if d.demote then homeKey tb (s.liveVersion tb.id) h.1 h.2 else d.location

/-- A directory entry of the row. -/
def DirEntry.sameRow (d y : DirEntry) : Bool := y.table == d.table && y.node == d.node

/-- The copy aborts: a demotion's row stays where it is, a promotion's entry goes. -/
def State.moveAborted (s : State) (d : DirEntry) : State :=
  (s.onTables fun x => { x with
    directory := if d.demote then x.directory.map fun y => if d.sameRow y then { y with demote := false, log := [], overflow := false } else y
      else x.directory.filter fun y => !d.sameRow y
    aborted := satAdd x.aborted 1 }).logDevice 0x086 noName 0 (nodeDetail d.node d.table)

/-- The row has moved whole and its entry flips, or with a demotion goes. -/
def State.moveDone (s : State) (d : DirEntry) (tb : TableDesc) (h : ShardEntry × Nat) : State :=
  ((s.store (s.moveTo d tb h) (s.bytesAt (s.moveFrom d tb h) tb.rowBytes) false).onTables fun x => { x with
    directory := if d.demote then x.directory.filter fun y => !d.sameRow y
      else x.directory.map fun y => if d.sameRow y then { y with state := .live, gen := y.gen + 1, log := [] } else y }).draw

theorem exec_migrationCopyComplete (hd : s.dirEntry table.toNat node.toNat = some d) (htb : s.table table.toNat = some tb)
    (hh : s.ownRowHome tb node.toNat = some h) : exec (.migrationCopyComplete table node) s = .next
      (if d.state = .live ∧ !d.demote then s
      else if d.overflow || s.rangePoisoned (s.moveFrom d tb h) tb.rowBytes then
        (if d.demote then (s.moveAborted d).promoteWaiting else (s.moveAborted d).endBatchRow d.table d.node)
      else if d.demote then (s.moveDone d tb h).promoteWaiting else (s.moveDone d tb h).endBatchRow d.table d.node) := by
  change execMigrationCopyComplete table node s = _
  rw [execMigrationCopyComplete, hd, htb]
  dsimp only
  rw [hh]
  rfl

theorem State.moveDone_bytes : (∀ i, i < tb.rowBytes → (s.moveDone d tb h).memory.mem.byte? (s.moveTo d tb h + i) =
      some (s.byteAt (s.moveFrom d tb h + i))) ∧ s.bytesOnlyIn (s.moveDone d tb h) [(s.moveTo d tb h, tb.rowBytes)] := by
  have hlen : (s.bytesAt (s.moveFrom d tb h) tb.rowBytes).length = tb.rowBytes := by rw [State.bytesAt, List.length_map, List.length_range]
  have hmem : (s.moveDone d tb h).memory.mem = (s.store (s.moveTo d tb h) (s.bytesAt (s.moveFrom d tb h) tb.rowBytes) false).memory.mem := rfl
  refine ⟨fun i hi => ?_, ?_⟩
  · rw [hmem, State.store_byte, hlen, if_pos (by omega), Nat.add_sub_cancel_left, State.bytesAt, List.getElem?_map, List.getElem?_range hi]
    rfl
  · refine (State.store_bytesOnlyIn (State.bytesOnlyIn_refl s _) fun a h1 h2 => ?_).of_mem hmem
    rw [hlen] at h2
    exact inRanges_singleton.2 ⟨h1, h2⟩

theorem State.moveDone_within {L : List Part} (hL : [.draws, .memory, .tables, .bytes] ⊆ L) : s.within L (s.moveDone d tb h) :=
  State.within_step (State.draw_within (State.onTables_within (State.store_within (State.within_refl s [.draws, .memory, .tables, .bytes])
    (by decide)) (by decide)) (by decide)) (State.within_refl s L) hL

theorem State.moveAborted_within {L : List Part} (hL : [.logs, .tables] ⊆ L) : s.within L (s.moveAborted d) :=
  State.within_step (State.logDevice_within (State.onTables_within (State.within_refl s [.logs, .tables]) (by decide)) (by decide))
    (State.within_refl s L) hL

theorem State.moveAborted_counts : (s.moveAborted d).tables.aborted = satAdd s.tables.aborted 1 ∧
    (s.moveAborted d).logs.errorCounts[0x86]? = (s.logs.errorCounts[0x86]?).map (satAdd · 1) := by
  refine ⟨?_, State.logDevice_errorCounts_same (by decide) (by decide)⟩
  rw [State.moveAborted, (State.logDevice_within (State.within_refl _ [.logs]) (List.Subset.refl _)).tables (by decide)]
  rfl

end

/-- A finished copy of a promoted or demoted row (R178–R181). -/
theorem migrationCopyComplete_effect (s : State) (table : BitVec 8) (node : BitVec 40) (d : DirEntry) (tb : TableDesc) (h : ShardEntry × Nat)
    (hd : s.dirEntry table.toNat node.toNat = some d) (htb : s.table table.toNat = some tb) (hh : s.ownRowHome tb node.toNat = some h) :
    let home := homeKey tb (s.liveVersion tb.id) h.1 h.2
    let src := if d.demote then d.location else home
    let dst := if d.demote then home else d.location
    (d.state = .live → d.demote = false → runs (.migrationCopyComplete table node) s fun t => t = s) ∧
    (d.state ≠ .live ∨ d.demote = true → (d.overflow || s.rangePoisoned src tb.rowBytes) = false →
      runs (.migrationCopyComplete table node) s fun t =>
        (∀ i, i < tb.rowBytes → t.memory.mem.byte? (dst + i) = some (s.byteAt (src + i))) ∧ s.bytesOnlyIn t [(dst, tb.rowBytes)] ∧
        (d.demote = false → t.tables.directory = s.tables.directory.map fun y => if y.table == d.table && y.node == d.node then
          { y with state := .live, gen := y.gen + 1, log := [] } else y) ∧
        (d.demote = true → ∃ v : State, t = v.promoteWaiting ∧ s.onlyIn v [.draws, .memory, .tables, .bytes] ∧
          v.tables.directory = s.tables.directory.filter fun y => !(y.table == d.table && y.node == d.node)) ∧
        s.onlyIn t [.draws, .logs, .memory, .tables, .bytes]) ∧
    (d.state ≠ .live ∨ d.demote = true → (d.overflow || s.rangePoisoned src tb.rowBytes) = true →
      runs (.migrationCopyComplete table node) s fun t =>
        t.tables.aborted = satAdd s.tables.aborted 1 ∧ t.memory = s.memory ∧
        t.logs.errorCounts[0x86]? = (s.logs.errorCounts[0x86]?).map (satAdd · 1) ∧ s.onlyIn t [.logs, .tables]) := by
  intro home src dst
  have hexec := exec_migrationCopyComplete hd htb hh
  have hmoves (hstate : d.state ≠ .live ∨ d.demote = true) : ¬ (d.state = .live ∧ (!d.demote) = true) := by
    rintro ⟨hlive, hnot⟩
    obtain hne | hdemote := hstate
    · exact hne hlive
    · rw [hdemote] at hnot
      exact Bool.false_ne_true hnot
  refine ⟨fun hlive hnot => ⟨s, ?_, rfl⟩, fun hstate hclean => ?_, fun hstate hbad => ?_⟩
  · rw [hexec, if_pos ⟨hlive, by rw [hnot]; rfl⟩]
  · obtain ⟨hbytes, honly⟩ := State.moveDone_bytes (s := s) (d := d) (tb := tb) (h := h)
    have hw : s.within [.draws, .logs, .memory, .tables, .bytes] (s.moveDone d tb h) := State.moveDone_within (by decide)
    rw [if_neg (hmoves hstate), if_neg (by rw [show (d.overflow || s.rangePoisoned (s.moveFrom d tb h) tb.rowBytes) = false from hclean]; decide)]
      at hexec
    cases hdemote : d.demote with
    | true =>
      rw [hdemote, if_pos rfl] at hexec
      have hstep := State.promoteWaiting_within (State.within_refl (s.moveDone d tb h) [.logs, .tables]) (List.Subset.refl _)
      refine ⟨_, hexec, fun i hi => ?_, honly.within hstep (by decide), fun h0 => absurd h0 (by decide), fun _ => ⟨_, rfl,
        (State.moveDone_within (List.Subset.refl _)).1, ?_⟩, (State.within_step hstep hw (by decide)).1⟩
      · rw [hstep.mem (by decide)]
        exact hbytes i hi
      · change (if d.demote then _ else _) = _
        rw [hdemote, if_pos rfl]
        rfl
    | false =>
      rw [hdemote, if_neg (by decide)] at hexec
      have hstep := State.endBatchRow_within (table := d.table) (node := d.node) (State.within_refl (s.moveDone d tb h) [.tables]) (List.Subset.refl _)
      refine ⟨_, hexec, fun i hi => ?_, honly.within hstep (by decide), fun _ => ?_, fun h0 => absurd h0 (by decide),
        (State.within_step hstep hw (by decide)).1⟩
      · rw [hstep.mem (by decide)]
        exact hbytes i hi
      · rw [(State.endBatchRow_keeps _ _ _).1]
        change (if d.demote then _ else _) = _
        rw [hdemote, if_neg (by decide)]
        rfl
  · obtain ⟨haborted, hcount⟩ := State.moveAborted_counts (s := s) (d := d)
    have hw : s.within [.logs, .tables] (s.moveAborted d) := State.moveAborted_within (List.Subset.refl _)
    rw [if_neg (hmoves hstate), if_pos (show (d.overflow || s.rangePoisoned (s.moveFrom d tb h) tb.rowBytes) = true from hbad)] at hexec
    cases hdemote : d.demote with
    | true =>
      rw [hdemote, if_pos rfl] at hexec
      have hstep := State.promoteWaiting_within hw (List.Subset.refl _)
      obtain ⟨habort, hcounts⟩ := State.promoteWaiting_keepsAborted (s.moveAborted d)
      exact ⟨_, hexec, habort.trans haborted, hstep.memory (by decide), (hcounts 0x86 (by decide)).trans hcount, hstep.1⟩
    | false =>
      rw [hdemote, if_neg (by decide)] at hexec
      have hstep := State.endBatchRow_within (table := d.table) (node := d.node) (State.within_refl (s.moveAborted d) [.tables]) (List.Subset.refl _)
      have hend := State.within_step hstep hw (by decide)
      refine ⟨_, hexec, (State.endBatchRow_keeps _ _ _).2.trans haborted, hend.memory (by decide), ?_, hend.1⟩
      rw [hstep.logs (by decide)]
      exact hcount

/-! ### Re-sharding (R182, R373, R374) -/

theorem State.noteCompletions_isRoot (s : State) : s.noteCompletions.dial.isRoot = s.dial.isRoot := by
  rw [State.noteCompletions]
  rfl

/-- The device's own moves are done. -/
def State.movesDone (s : State) : State :=
  (s.onTables fun t => { t with reshardDone := true, movesLeft := 0, moveProgress := 0xFFFF }).noteCompletions

theorem exec_reshardMoveComplete (s : State) : exec .reshardMoveComplete s = .next
    (if !s.tables.reshardOn || !s.tables.holdEnded || s.tables.reshardDone then s
    else if s.movesDone.dial.isRoot then
      let u := s.movesDone.onTables fun t => { t with reports := t.reports + 1 }
      if u.tables.reports ≥ u.dims.1 * u.dims.2.1 * u.dims.2.2 then u.onDial fun d => { d with go := true } else u
    else s.movesDone.sendUp (treeUp 2 0 ⟨0, 0, 0⟩ 0 s.movesDone.dial.step.toNat)) := rfl

theorem reshardMoveComplete_effect (s : State) (hon : s.tables.reshardOn = true) (hended : s.tables.holdEnded = true)
    (hdone : s.tables.reshardDone = false) : runs .reshardMoveComplete s fun t =>
      t.tables = { s.tables with
        reshardDone := true, movesLeft := 0, moveProgress := 0xFFFF
        reports := if s.dial.isRoot then s.tables.reports + 1 else s.tables.reports } ∧
      (s.dial.isRoot = true → s.dims.1 * s.dims.2.1 * s.dims.2.2 ≤ s.tables.reports + 1 → t.dial.go = true) ∧
      s.onlyIn t [.dial, .tables, .links] := by
  have hexec := exec_reshardMoveComplete s
  rw [if_neg (by rw [hon, hended, hdone]; decide)] at hexec
  have hw : s.within [.dial, .tables, .links] s.movesDone :=
    State.noteCompletions_within (State.onTables_within (State.within_refl s _) (by decide)) (by decide)
  have htables : s.movesDone.tables = { s.tables with reshardDone := true, movesLeft := 0, moveProgress := 0xFFFF } :=
    (State.noteCompletions_within (State.within_refl _ [.dial]) (List.Subset.refl _)).tables (by decide)
  have hroot : s.movesDone.dial.isRoot = s.dial.isRoot := State.noteCompletions_isRoot _
  have hdims : s.movesDone.dims = s.dims := by rw [State.dims, State.dims, hw.cfg (by decide)]
  rw [hroot] at hexec
  cases hr : s.dial.isRoot with
  | true =>
    rw [hr, if_pos rfl] at hexec
    obtain ⟨u, hu⟩ : ∃ u, u = s.movesDone.onTables fun t => { t with reports := t.reports + 1 } := ⟨_, rfl⟩
    have hutables : u.tables = { s.tables with reshardDone := true, movesLeft := 0, moveProgress := 0xFFFF, reports := s.tables.reports + 1 } := by
      rw [hu, State.onTables_tables, htables]
    have huw : s.within [.dial, .tables, .links] u := by
      rw [hu]
      exact State.onTables_within hw (by decide)
    have hudims : u.dims = s.dims := by rw [hu]; exact hdims
    dsimp only at hexec
    rw [← hu, hudims, hutables] at hexec
    by_cases hall : s.dims.1 * s.dims.2.1 * s.dims.2.2 ≤ s.tables.reports + 1
    · rw [if_pos hall] at hexec
      exact ⟨_, hexec, hutables, fun _ _ => rfl, (State.onDial_within huw (by decide)).1⟩
    · rw [if_neg hall] at hexec
      exact ⟨_, hexec, hutables, fun _ h0 => absurd h0 hall, huw.1⟩
  | false =>
    rw [hr, if_neg (by decide)] at hexec
    have hstep := State.sendUp_within (f := treeUp 2 0 ⟨0, 0, 0⟩ 0 s.movesDone.dial.step.toNat) (State.within_refl s.movesDone [.links])
      (List.Subset.refl _)
    refine ⟨_, hexec, (hstep.tables (by decide)).trans htables, fun h0 => absurd h0 (by decide), (State.within_step hstep hw (by decide)).1⟩

/-- Settles O44: reloads, copies and re-shard moves each leave what their rule says. -/
theorem tableMoves : Obligations.TableMoves := by
  intro s
  obtain ⟨h1, h2, h3⟩ := shardMapReload_effect s
  refine ⟨h1, h2, h3, migrationCopyComplete_effect s, fun hon hended hdone => ?_, fun hwait => ⟨s, ?_, rfl⟩, reshardMoveComplete_effect s⟩
  · have hexec : exec .reshardHoldEnd s = .next ((s.onTables fun t => { t with
        holdEnded := true, movesAll := s.movedRows.length, movesLeft := s.movedRows.length, moveProgress := 0 }).sendPieces
        (s.movedRows.flatMap s.movedPieces)).draw := by
      change execReshardHoldEnd s = _
      rw [execReshardHoldEnd, if_neg (by rw [hon, hended, hdone]; decide)]
    have hstep (v : State) : v.within [.logs, .links] (v.sendPieces (s.movedRows.flatMap s.movedPieces)) :=
      State.sendPieces_within (State.within_refl v _) (List.Subset.refl _)
    refine ⟨_, hexec, (hstep _).tables (by decide), ?_⟩
    exact (State.draw_within (State.within_step (hstep _) (State.onTables_within (State.within_refl s _) (by decide)) (by decide)) (by decide)).1
  · change execReshardHoldEnd s = _
    rw [execReshardHoldEnd, if_pos (by rw [hwait]; simp)]

end Sys2Proof.Machine
end


section
/-! PROOFS. Work items of the control cores: FILL, TABLE_SWITCH, INTAKE (R142, R143, R169, R338, R403, R407). -/

namespace Sys2Proof.Machine

set_option Elab.async false

/-! ### Contexts -/

section
variable {s : State} {c : CtxId} {x : TaskContext}

theorem State.setCtx_ctx_ne (y : TaskContext) {d : CtxId} (hd : d ≠ c) : (s.setCtx c y).ctx d = s.ctx d := by
  rw [State.ctx, State.ctx, State.setCtx_sched]
  by_cases hr : c.region = d.region
  · have hnumber : c.number ≠ d.number := fun hn => hd (by cases c; cases d; simp_all)
    rw [hr]
    cases hq : s.sched[d.region.val]? with
    | none => simp [modifyAt, hq]
    | some r => simp [modifyAt, hq, lookupNat_insertKey, hnumber]
  · have hval : c.region.val ≠ d.region.val := fun hv => hr (Fin.ext hv)
    simp [modifyAt, hval]

theorem State.finish_of_ctx (hx : s.ctx c = some x) : s.finish c = s.setCtx c { x with state := 4 } := by rw [State.finish, hx]

theorem State.finish_ctx (hx : s.ctx c = some x) : (s.finish c).ctx c = some { x with state := 4 } := by
  rw [State.finish_of_ctx hx, State.setCtx_ctx_same hx]

end

/-! ### A pattern over a range (R403) -/

theorem Memory.clearLines_poisoned (ls : List Nat) (m : Memory) (a : Nat) :
    (ls.foldl (fun m l => m.setPoison l false) m).poisoned a = (m.poisoned a && ls.all fun l => lineKey l != lineKey a) := by
  induction ls generalizing m with
  | nil => simp
  | cons l ls ih =>
    have hone : (m.setPoison l false).poisoned a = (m.poisoned a && (lineKey l != lineKey a)) := by
      rw [Memory.setPoison, if_neg (by decide), Memory.poisoned, Memory.poisoned, Bool.eq_iff_iff]
      simp only [List.contains_iff_mem, List.mem_filter, Bool.and_eq_true, bne_iff_ne]
      exact and_congr_right fun _ => ne_comm
    rw [List.foldl_cons, ih, hone, List.all_cons, Bool.and_assoc]

theorem Memory.clearLines_cells (ls : List Nat) (m : Memory) : (ls.foldl (fun m l => m.setPoison l false) m).cells = m.cells :=
  foldl_keeps (g := Memory.cells) (fun _ _ => Memory.setPoison_cells ..) ls m

theorem exists_lineOf {k n j : Nat} (hj : j < n) : ∃ l ∈ linesOf k n, lineKey l = lineKey (k + j) := by
  refine ⟨(k + j) / 64 * 64, ?_, ?_⟩
  · rw [linesOf, if_neg (by omega), List.mem_map]
    exact ⟨(k + j) / 64 - k / 64, List.mem_range.2 (by omega), by omega⟩
  · rw [lineKey, lineKey]
    omega

/-- A clean write poisons no line. -/
theorem State.store_clean_poisoned {s : State} {k : Nat} {bs : List Byte} {a : Nat} (h : s.memory.mem.poisoned a = false) :
    (s.store k bs false).memory.mem.poisoned a = false := by
  have hwritten : (s.memory.mem.write k bs).poisoned a = false := by rw [Memory.poisoned, Memory.write_poison]; exact h
  refine List.foldlRecOn (motive := fun m : Memory => m.poisoned a = false) (linesOf k bs.length) _ hwritten fun m hm l _ => ?_
  rw [if_neg (by decide)]
  split
  · have := Memory.clearLines_poisoned [l] m a
    rw [List.foldl_cons, List.foldl_nil, hm, Bool.false_and] at this
    exact this
  · exact hm

theorem getElem?_pattern {L : List Byte} (hL : L.length = 8) (m : Nat) {j : Nat} (hj : j < 8 * m) :
    (List.replicate m L).flatten[j]? = L[j % 8]? := by
  induction m generalizing j with
  | zero => omega
  | succ m ih =>
    rw [List.replicate_succ, List.flatten_cons, List.getElem?_append]
    split
    · rw [Nat.mod_eq_of_lt (by omega)]
    · rw [ih (by omega), hL]
      congr 1
      omega

/-- Every byte of an extent holds the pattern, its lines clean. -/
def State.filled (s : State) (pattern : BitVec 64) (e : Nat × Nat) : Prop :=
  ∀ j, j < e.2 → s.memory.mem.byte? (e.1 + j) = (leBytes pattern.toNat 8)[j % 8]? ∧ s.memory.mem.poisoned (e.1 + j) = false

section
variable {s : State} {pattern : BitVec 64} {k n : Nat}

theorem State.fillRange_byte (j : Nat) : (s.fillRange pattern k n).memory.mem.byte? j =
    if k ≤ j ∧ j < k + n then (leBytes pattern.toNat 8)[(j - k) % 8]? else s.memory.mem.byte? j := by
  have hlen : (((List.replicate (ceilDiv n 8) (leBytes pattern.toNat 8)).flatten).take n).length = n := by
    rw [List.length_take, List.length_flatten, List.map_replicate, List.sum_replicate, leBytes_length, ceilDiv]
    simp only [smul_eq_mul]
    omega
  have hcells : (s.fillRange pattern k n).memory.mem.byte? j =
      (s.store k (((List.replicate (ceilDiv n 8) (leBytes pattern.toNat 8)).flatten).take n) false).memory.mem.byte? j :=
    congrArg (lookupNat j) (Memory.clearLines_cells _ _)
  rw [hcells, State.store_byte, hlen]
  split
  next h =>
    rw [List.getElem?_take, if_pos (by omega), getElem?_pattern (leBytes_length _ _)]
    rw [ceilDiv]
    omega
  next => rfl

theorem State.fillRange_clean {a : Nat} (h : s.memory.mem.poisoned a = false) : (s.fillRange pattern k n).memory.mem.poisoned a = false := by
  have := Memory.clearLines_poisoned (linesOf k n)
    (s.store k (((List.replicate (ceilDiv n 8) (leBytes pattern.toNat 8)).flatten).take n) false).memory.mem a
  rw [State.store_clean_poisoned h, Bool.false_and] at this
  exact this

theorem State.fillRange_filled : (s.fillRange pattern k n).filled pattern (k, n) := by
  intro j hj
  refine ⟨?_, ?_⟩
  · rw [State.fillRange_byte, if_pos ⟨by omega, by omega⟩, Nat.add_sub_cancel_left]
  · obtain ⟨l, hl, hline⟩ := exists_lineOf (k := k) hj
    refine (Memory.clearLines_poisoned (linesOf k n) _ (k + j)).trans ?_
    rw [Bool.and_eq_false_iff]
    right
    rw [List.all_eq_false]
    exact ⟨l, hl, by simp [hline]⟩

theorem State.fillRange_keeps {e : Nat × Nat} (h : s.filled pattern e) (hd : e.1 + e.2 ≤ k ∨ k + n ≤ e.1) :
    (s.fillRange pattern k n).filled pattern e := by
  intro j hj
  obtain ⟨hbyte, hclean⟩ := h j hj
  exact ⟨by rw [State.fillRange_byte, if_neg (by omega), hbyte], State.fillRange_clean hclean⟩

/-- Disjoint extents are all filled, and nothing else changes. -/
theorem State.fillAll_filled (es : List (Nat × Nat)) (hd : ∀ e ∈ es, ∀ f ∈ es, e = f ∨ e.1 + e.2 ≤ f.1 ∨ f.1 + f.2 ≤ e.1) :
    ∀ e ∈ es, (es.foldl (fun s e => s.fillRange pattern e.1 e.2) s).filled pattern e := by
  have hkeep (ls : List (Nat × Nat)) (u : State) (e : Nat × Nat) (hu : u.filled pattern e)
      (hls : ∀ f ∈ ls, e = f ∨ e.1 + e.2 ≤ f.1 ∨ f.1 + f.2 ≤ e.1) : (ls.foldl (fun s e => s.fillRange pattern e.1 e.2) u).filled pattern e :=
    List.foldlRecOn (motive := fun v : State => v.filled pattern e) ls _ hu fun v hv f hf => by
      obtain rfl | hd := hls f hf
      · exact State.fillRange_filled
      · exact State.fillRange_keeps hv hd
  induction es generalizing s with
  | nil => exact fun e he => absurd he (by simp)
  | cons f fs ih =>
    intro e he
    rw [List.foldl_cons]
    obtain rfl | he := List.mem_cons.1 he
    · exact hkeep fs _ e State.fillRange_filled fun g hg => hd e (by simp) g (by simp [hg])
    · exact ih (fun a ha b hb => hd a (by simp [ha]) b (by simp [hb])) e he

theorem State.fillAll_bytesOnlyIn (es : List (Nat × Nat)) : s.bytesOnlyIn (es.foldl (fun s e => s.fillRange pattern e.1 e.2) s) es :=
  State.bytesOnlyIn_fold (State.bytesOnlyIn_refl s es) fun t e he ht a ha => by
    rw [State.fillRange_byte, if_neg fun hin => ha (inRanges_of_mem he hin.1 hin.2)]
    exact ht a ha

end

/-! ### FILL (R403, R407) -/

section
variable {s : State} {c : CtxId} {x : TaskContext} {o : Op} {target : Nat} {pattern : BitVec 64} {y : Operand}

/-- FILL_STATUS once a FILL has written its extents. -/
def State.fillCounted (s : State) (c : CtxId) (es : List (Nat × Nat)) (y : Operand) : State :=
  s.onMemory fun m => { m with fill := { m.fill with
    queue := m.fill.queue.filter (· != c), progress := 0xFFFF, fills := m.fill.fills + 1
    position := BitVec.ofNat 48 ((es.getLast?).elim 0 (fun e => e.1 + e.2) % 2 ^ 48), tier := BitVec.ofNat 4 (field y.base 48 4) } }

theorem exec_fill (hx : s.runsItem c false x o) (ho : o.body = .fill target pattern) (hy : s.operand target = some y) :
    exec (.fill c) s = .next (if (s.memory.fill.queue.find? fun d => (s.ctx d).isSome) != some c then s else
      ((((s.fillExtents target y).foldl (fun s e => s.fillRange pattern e.1 e.2) s).fillCounted c (s.fillExtents target y) y).finish c).runFills) := by
  change execFill c s = _
  rw [execFill, State.runItem_of_runsItem hx]
  dsimp only
  rw [ho]
  dsimp only
  rw [hy]
  rfl

/-- FILL_STATUS shows the next FILL of the queue. -/
theorem State.runFills_effect (s : State) :
    let live := s.memory.fill.queue.filter fun d => (s.ctx d).isSome
    s.runFills.memory.fill.queue = live ∧ s.runFills.memory.fill.active = !live.isEmpty ∧ s.runFills.memory.fill.fills = s.memory.fill.fills ∧
      s.runFills.memory.fill.progress = (if live = [] then s.memory.fill.progress else 0) ∧
      ((live.head?.bind s.ctx).all fun z => s.runFills.memory.fill.op == z.op) = true ∧ s.runFills.memory.mem = s.memory.mem ∧
      s.runFills.sched = s.sched := by
  intro live
  rw [State.runFills]
  cases hlive : live with
  | nil =>
    rw [show s.memory.fill.queue.filter (fun d => (s.ctx d).isSome) = [] from hlive]
    exact ⟨rfl, rfl, rfl, rfl, rfl, rfl, rfl⟩
  | cons d ds =>
    have hd : (s.ctx d).isSome = true := (List.mem_filter.1 (show d ∈ live by rw [hlive]; simp)).2
    obtain ⟨z, hz⟩ := Option.isSome_iff_exists.1 hd
    rw [show s.memory.fill.queue.filter (fun d => (s.ctx d).isSome) = d :: ds from hlive]
    dsimp only
    rw [List.head?_cons, Option.bind_some, Option.bind_some, hz]
    rw [show ∀ f, (s.onMemory f).ctx d = some z from fun f => hz]
    exact ⟨rfl, rfl, rfl, (if_neg (by simp)).symm, by rw [Option.all_some]; exact beq_self_eq_true _, rfl, rfl⟩

/-- Settles O32: the extents are filled one after the other, and FILL_STATUS goes on to the next FILL. -/
theorem fills : Obligations.Fills := by
  intro s c x o target pattern y hx ho hy first next
  have hexec := exec_fill hx ho hy
  refine ⟨fun hlater => ⟨s, ?_, rfl⟩, fun hfirst hdisjoint => ?_⟩
  · rw [hexec, if_pos (bne_iff_ne.2 hlater)]
  · rw [if_neg (by rw [show s.memory.fill.queue.find? (fun d => (s.ctx d).isSome) = some c from hfirst, bne_self_eq_false]; decide)] at hexec
    obtain ⟨hctx, -⟩ := hx
    have hfilled := State.fillAll_filled (s := s) (pattern := pattern) (s.fillExtents target y) hdisjoint
    have hbytes := State.fillAll_bytesOnlyIn (s := s) (pattern := pattern) (s.fillExtents target y)
    obtain ⟨u, hu⟩ : ∃ u, u = ((s.fillExtents target y).foldl (fun s e => s.fillRange pattern e.1 e.2) s).fillCounted c (s.fillExtents target y) y :=
      ⟨_, rfl⟩
    have hfold {P : State → Prop} (h0 : P s) (hstep : ∀ v k n, P v → P (v.fillRange pattern k n)) :
        P ((s.fillExtents target y).foldl (fun s e => s.fillRange pattern e.1 e.2) s) :=
      List.foldlRecOn (motive := P) _ _ h0 fun v hv e _ => hstep v e.1 e.2 hv
    have hkept : u.sched = s.sched ∧ u.memory.fill.fills = s.memory.fill.fills + 1 ∧ u.memory.fill.progress = 0xFFFF ∧
        u.memory.fill.queue = s.memory.fill.queue.filter (· != c) := by
      obtain ⟨hsched, hfill⟩ := hfold (P := fun v => v.sched = s.sched ∧ v.memory.fill = s.memory.fill) ⟨rfl, rfl⟩ fun v k n hv => hv
      rw [hu]
      refine ⟨hsched, ?_, rfl, ?_⟩
      · exact congrArg (fun z => z.fills + 1) hfill
      · exact congrArg (fun z : FillState => z.queue.filter (· != c)) hfill
    obtain ⟨hsched, hfills, hprogress, hqueue⟩ := hkept
    have huctx (d : CtxId) : u.ctx d = s.ctx d := State.ctx_congr hsched
    have hw : s.within [.sched, .memory, .bytes] u := by
      rw [hu]
      refine State.onMemory_within rfl (hfold (P := fun v => s.within [.sched, .memory, .bytes] v) (State.within_refl s _) fun v k n hv => ?_) (by decide)
      exact State.fillRange_within hv (by decide)
    rw [← hu] at hexec
    -- the item has run; the other contexts stay
    have hfinish : (u.finish c).memory = u.memory :=
      (State.finish_within (State.within_refl u [.sched]) (List.Subset.refl _)).memory (by decide)
    have hother (d : CtxId) (hd : d ≠ c) : (u.finish c).ctx d = s.ctx d := by
      rw [State.finish_of_ctx ((huctx c).trans hctx), State.setCtx_ctx_ne _ hd, huctx]
    have hnext : ((u.finish c).memory.fill.queue.filter fun d => ((u.finish c).ctx d).isSome) = next := by
      rw [hfinish, hqueue, List.filter_filter]
      refine List.filter_congr fun d _ => ?_
      by_cases hd : d = c
      · rw [hd, bne_self_eq_false, Bool.and_false, Bool.false_and]
      · rw [hother d hd, Bool.and_comm]
    have hhead : next.head?.bind (u.finish c).ctx = next.head?.bind s.ctx := by
      cases hn : next with
      | nil => rfl
      | cons d ds =>
        have hd : d ≠ c := by
          have := (List.mem_filter.1 (show d ∈ next by rw [hn]; simp)).2
          simp only [Bool.and_eq_true, bne_iff_ne] at this
          exact this.1
        rw [List.head?_cons, Option.bind_some, Option.bind_some, hother d hd]
    have heffect := State.runFills_effect (u.finish c)
    simp only [hnext, hhead] at heffect
    obtain ⟨hq, hactive, hcount, hprog, hop, hmem, hsame⟩ := heffect
    rw [hfinish] at hcount hprog hmem
    have hmem' : (u.finish c).runFills.memory.mem = ((s.fillExtents target y).foldl (fun s e => s.fillRange pattern e.1 e.2) s).memory.mem := by
      rw [hmem, hu]
      rfl
    refine ⟨_, hexec, ?_, hbytes.of_mem hmem', fun e he j hj => ?_, hcount.trans hfills, hq, hactive, ?_, hop, ?_⟩
    · rw [State.ctx_congr hsame]
      exact State.finish_ctx ((huctx c).trans hctx)
    · rw [hmem']
      exact hfilled e he j hj
    · rw [hprog, hprogress]
    · exact (State.runFills_within (State.finish_within hw (by decide)) (by decide)).1

end

/-! ### TABLE_SWITCH and INTAKE (R142, R143, R169) -/

theorem exec_tableSwitch {s : State} {c : CtxId} {x : TaskContext} {o : Op} {table : Nat} {version : Bool} (hx : s.runsItem c false x o)
    (ho : o.body = .tableSwitch table version) : exec (.tableSwitch c) s = .next
      ((if s.laterSwitch x.op.toNat table then s else s.onTables fun y => { y with
        tables := modifyAt y.tables table fun y => { y with switchPending := true, pendingVersion := version } }).finish c) := by
  change execTableSwitch c s = _
  rw [execTableSwitch, State.runItem_of_runsItem hx]
  dsimp only
  rw [ho]

/-- A range without poisoned lines is read without a record. -/
theorem State.noteReads_of_clean {s : State} {k n : Nat} (h : s.rangePoisoned k n = false) (who : Named) : s.noteReads k n who = s := by
  have hnone : (linesOf k n).filter (fun l => s.memory.mem.poisoned l) = [] := by
    rw [List.filter_eq_nil_iff]
    intro l hl
    rw [State.rangePoisoned, List.any_eq_false] at h
    exact h l hl
  rw [State.noteReads, hnone]
  rfl

section
variable (s : State) (c : CtxId) (x : TaskContext) (ring : Nat) (y : Operand)

/-- The row of the ring for the next step, and what stands there. -/
def State.ringPlace : Place := s.rowPlace none 0 ring y ((s.dial.step.toNat + 1) % y.m)
def State.ringWord : Nat := s.placeNum (s.ringPlace ring y) y.rowBytes

/-- The row has been read. -/
def State.ringRead : State :=
  match s.ringPlace ring y with
  | .own k => s.noteReads k y.rowBytes (s.nameOf c)
  | .remote _ => s

/-- The item waits for its row again. -/
def State.rearmed : State := s.setCtx c { x with state := 1, flags := x.flags &&& 0xEFFFFFFF#32 }

/-- The block of the next step is accepted. -/
def State.ringAccepted (v : Nat) : State :=
  ((s.ringRead c ring y).onCursor 0 fun z => z.place (field v 128 64)).onRun fun r => { r with
    accepted := some ⟨s.dial.step.toNat + 1, field v 16 10 + 1, field v 32 12 + 1, field v 128 64, (s.dial.step.toNat + 1) % y.m⟩ }

theorem State.checkRing_eq : s.checkRing c x ring y =
    if field (s.ringWord ring y) 64 48 ≠ s.dial.step.toNat + 1 then (s.ringRead c ring y).rearmed c x
    else match firstFault (seedFaults (s.ringWord ring y) y.rowBytes) with
    | some code => ((s.ringRead c ring y).logDevice code ((s.ringRead c ring y).nameOf c) 0 0).rearmed c x
    | none => (s.ringAccepted c ring y (s.ringWord ring y)).finish c := rfl

theorem State.ringRead_within {L : List Part} (hL : [.dial, .logs, .memory] ⊆ L) : s.within L (s.ringRead c ring y) := by
  rw [State.ringRead]
  split
  · exact State.noteReads_within (State.within_refl s L) hL
  · exact State.within_refl s L

theorem State.ringRead_of_clean (h : s.placePoisoned (s.ringPlace ring y) y.rowBytes = false) : s.ringRead c ring y = s := by
  rw [State.ringRead]
  split
  next k hk =>
    rw [hk] at h
    exact State.noteReads_of_clean h _
  next => rfl

end

theorem State.logDevice_written (s : State) (code : Nat) (who : Named) (dropped detail : Nat) :
    (s.logDevice code who dropped detail).logs.written = s.logs.written + 1 := by
  rw [State.logDevice, State.countError]
  split
  · rfl
  · rfl

/-- Settles O33: a switch is staged unless a later one is; the ring row of the next step is accepted, or the item is armed again. -/
theorem roleItems : Obligations.RoleItems := by
  intro s c x o hx
  have hctx : s.ctx c = some x := hx.1
  refine ⟨fun table version ho => ⟨_, exec_tableSwitch hx ho, ?_⟩, ?_⟩
  · obtain ⟨u, hu⟩ : ∃ u, u = if s.laterSwitch x.op.toNat table then s else s.onTables fun y => { y with
        tables := modifyAt y.tables table fun y => { y with switchPending := true, pendingVersion := version } } := ⟨_, rfl⟩
    have hsched : u.sched = s.sched := by
      rw [hu]
      split
      · rfl
      · rfl
    have hw : s.within [.sched, .tables] u := by
      rw [hu]
      exact State.within_ite (State.within_refl s _) (State.onTables_within (State.within_refl s _) (by decide))
    rw [← hu]
    refine ⟨State.finish_ctx ((State.ctx_congr hsched).trans hctx), (State.finish_within hw (by decide)).1, ?_⟩
    rw [(State.finish_within (State.within_refl u [.sched]) (List.Subset.refl _)).tables (by decide), hu]
    split
    · rfl
    · rfl
  · intro ring y ho hy next n v rearmed moved
    have hexec : exec (.intake c) s = .next (s.checkRing c x ring y).draw.settle := by
      change execIntake c s = _
      rw [execIntake, State.runItem_of_runsItem hx, ho]
      dsimp only
      rw [hy]
      rfl
    rw [State.checkRing_eq] at hexec
    have hread : s.within moved (s.ringRead c ring y) := State.ringRead_within s c ring y (by decide)
    have hreadctx : (s.ringRead c ring y).ctx c = some x :=
      (State.ctx_congr ((State.ringRead_within s c ring y (List.Subset.refl _)).sched (by decide))).trans hctx
    have hsettle (u : State) : u.settle.run = u.run ∧ u.settle.cursors = u.cursors := by
      have hw := State.settle_within (State.within_refl u [.dial, .mbs, .sched, .train]) (List.Subset.refl _)
      exact ⟨hw.run (by decide), hw.cursors (by decide)⟩
    have harmed {u : State} (hu : s.within [.dial, .logs, .memory] u) (hex : exec (.intake c) s = .next (u.rearmed c x).draw.settle) :
        rearmed (u.rearmed c x).draw.settle ∧ s.onlyIn (u.rearmed c x).draw.settle moved := by
      have huctx : u.ctx c = some x := (State.ctx_congr (hu.sched (by decide))).trans hctx
      refine ⟨⟨⟨(u.rearmed c x).draw, rfl, ?_⟩, ?_, ?_⟩, ?_⟩
      · exact State.setCtx_ctx_same huctx _
      · rw [(hsettle _).1]
        exact hu.run (by decide)
      · rw [(hsettle _).2]
        exact hu.cursors (by decide)
      · exact (State.settle_within (State.draw_within (State.setCtx_within (State.within_step hu (State.within_refl s moved) (by decide))
          (by decide)) (by decide)) (by decide)).1
    refine ⟨fun hother => ?_, fun hstep hfine => ?_, fun code hstep hfault => ?_⟩
    · rw [if_pos (show field (s.ringWord ring y) 64 48 ≠ s.dial.step.toNat + 1 from hother)] at hexec
      exact ⟨_, hexec, harmed (State.ringRead_within s c ring y (List.Subset.refl _)) hexec⟩
    · rw [if_neg (not_not.2 (show field (s.ringWord ring y) 64 48 = s.dial.step.toNat + 1 from hstep)),
        show firstFault (seedFaults (s.ringWord ring y) y.rowBytes) = none from hfine] at hexec
      have hw : s.within moved (s.ringAccepted c ring y (s.ringWord ring y)) :=
        State.onRun_within (State.onCursor_within hread (by decide)) (by decide)
      have hfinish := State.finish_within (c := c) (State.within_refl (s.ringAccepted c ring y (s.ringWord ring y)) [.sched]) (List.Subset.refl _)
      have hplain := State.ringRead_within s c ring y (List.Subset.refl _)
      refine ⟨_, hexec, ⟨_, rfl, ?_⟩, ?_, ?_, ?_⟩
      · exact State.finish_ctx (s := s.ringAccepted c ring y (s.ringWord ring y)) hreadctx
      · exact (State.settle_within (State.draw_within (State.finish_within hw (by decide)) (by decide)) (by decide)).1
      · rw [(hsettle _).2]
        refine (hfinish.cursors (by decide)).trans ?_
        have hcursors := hplain.cursors (by decide)
        change ((s.ringRead c ring y).onCursor 0 _).cursors = _
        rw [State.onCursor_cursors, State.onCursor_cursors, hcursors]
        rfl
      · rw [(hsettle _).1]
        refine (hfinish.run (by decide)).trans ?_
        change ({ (s.ringRead c ring y).run with accepted := _ } : RunState) = _
        rw [hplain.run (by decide)]
        rfl
    · rw [if_neg (not_not.2 (show field (s.ringWord ring y) 64 48 = s.dial.step.toNat + 1 from hstep)),
        show firstFault (seedFaults (s.ringWord ring y) y.rowBytes) = some code from hfault] at hexec
      obtain ⟨harm, honly⟩ := harmed (State.logDevice_within (State.ringRead_within s c ring y (List.Subset.refl _)) (by decide)) hexec
      refine ⟨_, hexec, harm, honly, fun hclean => ?_⟩
      rw [State.settle_logs, State.ringRead_of_clean s c ring y hclean]
      exact State.logDevice_written s code (s.nameOf c) 0 0

end Sys2Proof.Machine
end


section
/-! PROOFS. The return sweep; stash entries and commits (R236–R239, R242, R249, R297, R302, R303, R305). -/

namespace Sys2Proof.Machine

set_option Elab.async false

/-! ### What reads leave of the state -/

section
variable {s : State}

/-- A read may ask for a halt, and changes nothing else of the dial and of the controllers. -/
structure State.sameDial (s t : State) : Prop where
  dial        : ∃ h, t.dial = { s.dial with haltCause := h }
  controllers : t.memory.controllers = s.memory.controllers

theorem State.sameDial_refl (s : State) : s.sameDial s := ⟨⟨s.dial.haltCause, rfl⟩, rfl⟩

theorem State.sameDial.congr {s0 t : State} (h : s0.sameDial s) (ht : t.dial = s.dial) (hc : t.memory.controllers = s.memory.controllers) :
    s0.sameDial t := by
  obtain ⟨⟨k, hk⟩, hcontrollers⟩ := h
  exact ⟨⟨k, ht.trans hk⟩, hc.trans hcontrollers⟩

theorem State.sameDial_ite {s0 a b : State} {c : Prop} [Decidable c] (ha : s0.sameDial a) (hb : s0.sameDial b) :
    s0.sameDial (if c then a else b) := by
  split
  · exact ha
  · exact hb

theorem State.haltAtBoundary_sameDial {s0 : State} (h : s0.sameDial s) (cause : Nat) : s0.sameDial (s.haltAtBoundary cause) := by
  obtain ⟨⟨k, hk⟩, hcontrollers⟩ := h
  rw [State.haltAtBoundary]
  split
  · exact ⟨⟨BitVec.ofNat 3 cause, by rw [hk]⟩, hcontrollers⟩
  · exact ⟨⟨k, hk⟩, hcontrollers⟩

theorem State.onMemory_sameDial {s0 : State} (h : s0.sameDial s) {f : MemState → MemState}
    (hf : (f s.memory).controllers = s.memory.controllers) : s0.sameDial (s.onMemory f) := h.congr rfl hf

theorem State.logDevice_sameDial {s0 : State} (h : s0.sameDial s) (code : Nat) (who : Named) (dropped detail : Nat) :
    s0.sameDial (s.logDevice code who dropped detail) := h.congr (State.logDevice_dial ..) (by rw [State.logDevice_memory])

theorem State.stepFault_sameDial {s0 : State} (h : s0.sameDial s) (tier off : Nat) (who : Named) : s0.sameDial (s.stepFault tier off who) := by
  rw [State.stepFault]
  exact State.haltAtBoundary_sameDial (State.onMemory_sameDial (State.logDevice_sameDial h _ _ _ _) rfl) 4

theorem State.readStored_sameDial {s0 : State} (h : s0.sameDial s) (tier off : Nat) (who : Named) : s0.sameDial (s.readStored tier off who) := by
  have hpart {o : Option (Nat × Partition)} {f : PartState → PartState} : s0.sameDial (o.elim s fun p => s.onPart p.1 f) := by
    cases o with
    | none => exact h
    | some p => exact h.congr rfl rfl
  rw [State.readStored]
  exact State.sameDial_ite (State.sameDial_ite (State.stepFault_sameDial hpart _ _ _) hpart)
    (State.sameDial_ite (State.logDevice_sameDial hpart _ _ _ _) h)

theorem State.noteReads_sameDial (k n : Nat) (who : Named) : s.sameDial (s.noteReads k n who) :=
  List.foldlRecOn (motive := fun u : State => s.sameDial u) _ _ (State.sameDial_refl s) fun _ hu _ _ => State.readStored_sameDial hu _ _ _

end

/-- What the stash points of a micro-batch are read from. -/
theorem State.openPoints_congr {s t : State} (hcfg : t.cfg = s.cfg) (hrun : t.run = s.run) (hdial : s.sameDial t) (hsched : t.sched = s.sched)
    (htrain : t.train = s.train) (m : MicroBatch) : t.openPoints m = s.openPoints m := by
  obtain ⟨⟨k, hdial⟩, -⟩ := hdial
  obtain ⟨⟩ := s
  obtain ⟨⟩ := t
  simp only at hdial
  subst hcfg hrun hdial hsched htrain
  rfl

theorem State.freeRun_congr {s t : State} (hcfg : t.cfg = s.cfg) (hrun : t.run = s.run) (hdial : s.sameDial t) (htrain : t.train = s.train)
    (far : Bool) (region n : Nat) : t.freeRun far region n = s.freeRun far region n := by
  have harea : t.stashArea far region = s.stashArea far region := by
    have hskipped (tier : Nat) : t.skippedTier tier = s.skippedTier tier := by
      rw [State.skippedTier, State.skippedTier, hdial.controllers]
    simp only [State.stashArea, State.slotCfg, State.partOf, hcfg, hrun, hskipped]
  rw [State.freeRun, State.freeRun, harea, State.usedPages, State.usedPages, htrain]

/-! ### The return sweep (R236–R239, R242) -/

section
variable {s : State}

/-- A part's context once the sweep has folded it. -/
def State.markSwept (s : State) (p : CtxId × TaskContext × MicroBatch × Op × TableDesc) : State :=
  s.setCtx p.1 { p.2.1 with subs := p.2.1.subs ++ [sweptMark] }

theorem State.setCtx_ctx_of_region {c : CtxId} (hc : c.region.val < s.sched.length) (y : TaskContext) : (s.setCtx c y).ctx c = some y := by
  simp [State.ctx, modifyAt, lookupNat_insertKey, List.getElem?_eq_getElem hc]

/-- Every part of the list is marked, where its region is one of the device's. -/
theorem State.markSwept_fold (ps : List (CtxId × TaskContext × MicroBatch × Op × TableDesc)) (hps : ∀ p ∈ ps, p.1.region.val < s.sched.length) :
    ∀ p ∈ ps, ∃ y, (ps.foldl State.markSwept s).ctx p.1 = some y ∧ sweptMark ∈ y.subs := by
  have hlen (u : State) (p : CtxId × TaskContext × MicroBatch × Op × TableDesc) : (u.markSwept p).sched.length = u.sched.length := by
    rw [State.markSwept, State.setCtx_sched, modifyAt_length]
  have hmark (u : State) (p : CtxId × TaskContext × MicroBatch × Op × TableDesc) (hp : p.1.region.val < u.sched.length) :
      ∃ y, (u.markSwept p).ctx p.1 = some y ∧ sweptMark ∈ y.subs :=
    ⟨_, State.setCtx_ctx_of_region hp _, by simp⟩
  -- a mark that is there stays
  have hkeep (ls : List (CtxId × TaskContext × MicroBatch × Op × TableDesc)) (u : State) (hls : ∀ q ∈ ls, q.1.region.val < u.sched.length)
      (c : CtxId) (hc : ∃ y, u.ctx c = some y ∧ sweptMark ∈ y.subs) : ∃ y, (ls.foldl State.markSwept u).ctx c = some y ∧ sweptMark ∈ y.subs := by
    induction ls generalizing u with
    | nil => exact hc
    | cons q ls ih =>
      refine ih (u.markSwept q) (fun r hr => by rw [hlen]; exact hls r (by simp [hr])) ?_
      by_cases hq : c = q.1
      · rw [hq]
        exact hmark u q (hls q (by simp))
      · rw [State.markSwept, State.setCtx_ctx_ne _ hq]
        exact hc
  induction ps generalizing s with
  | nil => exact fun p hp => absurd hp (by simp)
  | cons q ps ih =>
    have hrest : ∀ p ∈ ps, p.1.region.val < (s.markSwept q).sched.length := fun p hp => by rw [hlen]; exact hps p (by simp [hp])
    intro p hp
    obtain rfl | hp := List.mem_cons.1 hp
    · exact hkeep ps _ hrest p.1 (hmark s p (hps p (by simp)))
    · exact ih hrest p hp

theorem mem_sortBy {α : Type} {key : α → Nat} {l : List α} {x : α} (h : x ∈ sortBy key l) : x ∈ l := by
  have hins (a : α) (as : List α) (hx : x ∈ sortBy.insertByFront key a as) : x = a ∨ x ∈ as := by
    induction as with
    | nil => exact .inl (by simpa [sortBy.insertByFront] using hx)
    | cons b bs ih =>
      rw [sortBy.insertByFront] at hx
      split at hx
      · obtain rfl | hx := List.mem_cons.1 hx
        · exact .inr (by simp)
        · exact (ih hx).imp_right (List.mem_cons_of_mem _)
      · exact List.mem_cons.1 hx
  induction l with
  | nil => exact h
  | cons a as ih =>
    rw [sortBy] at h
    obtain rfl | h := hins a _ h
    · simp
    · exact List.mem_cons_of_mem _ (ih h)

/-- The parts of a sweep lie in the device's regions. -/
theorem State.sweepParts_region {p : CtxId × TaskContext × MicroBatch × Op × TableDesc} (hp : p ∈ s.sweepParts) :
    p.1.region.val < s.sched.length := by
  have hall := mem_sortBy hp
  obtain ⟨r, hr, hin⟩ := List.mem_flatMap.1 hall
  obtain ⟨y, -, hy⟩ := List.mem_filterMap.1 hin
  have hlt : r.2 < s.sched.length := (List.mem_zipIdx' hr).1
  have hregion : p.1 = ⟨Fin.ofNat 4 r.2, y.1⟩ := by
    split at hy
    · split at hy
      · obtain ⟨t, -, rfl⟩ := Option.map_eq_some_iff.1 hy
        rfl
      · cases hy
    · cases hy
  rw [hregion]
  exact lt_of_le_of_lt (Nat.mod_le _ _) hlt

/-- The state the sweep's folds leave, and how many reached their slots; none where the sweep is abandoned. -/
def State.sweepResult (w : State) : State × Nat := if w.gather.abandoned then (w, 0) else w.sweep w.sweepList

/-- The parts marked and the progress shown. -/
def State.sweepMarked (w : State) : State := w.sweepParts.foldl State.markSwept w.sweepResult.1
def State.sweepEnded (w : State) : State :=
  (w.sweepMarked.onGather fun g => { g with
    progress := if w.sweepMarked.gather.abandoned then 0 else fraction w.sweepResult.2 w.sweepList.length }).draw

theorem exec_returnSweep (s : State) : exec .returnSweep s = .next
    (if s.sweepParts.isEmpty || !s.sweepReady then s else s.dropPoisonedWalks.sweepEnded.settle) := rfl

/-- Folding contributions never abandons the sweep. -/
theorem State.foldCounted_abandoned (s : State) (t : TableDesc) (node count : Nat) (met : Bool) (es : List Elem)
    (combine : List Elem → List Elem → List Elem) : (s.foldCounted t node count met es combine).gather.abandoned = s.gather.abandoned := by
  have hwrite (u : State) (k n : Nat) (b : Bool) (l : List Elem) : (u.writeSlot t node k n b l).gather = u.gather :=
    (State.writeSlot_within (State.within_refl u [.logs, .memory, .links, .bytes]) (List.Subset.refl _)).gather (by decide)
  have hread (k n : Nat) (who : Named) : (s.noteReads k n who).gather = s.gather :=
    (State.noteReads_within (State.within_refl s [.dial, .logs, .memory]) (List.Subset.refl _)).gather (by decide)
  have hlog (u : State) (code : Nat) (who : Named) (d l : Nat) : (u.logDevice code who d l).gather = u.gather :=
    (State.logDevice_within (State.within_refl u [.logs]) (List.Subset.refl _)).gather (by decide)
  have hfold : (s.foldSlot t node count met es combine).gather.abandoned = s.gather.abandoned := by
    rw [State.foldSlot]
    split
    · dsimp only
      rw [hwrite, hread]
    · split
      · rw [State.onGather_gather, hwrite]
      · rw [hlog]
        rfl
  have hcount (u : State) : (u.countReturn t node count).gather.abandoned = u.gather.abandoned := by
    rw [State.countReturn]
    split
    · rfl
    · rfl
  rw [State.foldCounted]
  split
  · exact (hcount _).trans hfold
  · exact hfold

theorem Sweep.writeBack_abandoned (x : Sweep) (e : CacheEntry) : (x.writeBack e).1.gather.abandoned = x.1.gather.abandoned :=
  State.foldCounted_abandoned ..

theorem Sweep.touch_abandoned (x : Sweep) (t : TableDesc) (c : Contribution) : (x.touch t c).1.gather.abandoned = x.1.gather.abandoned := by
  rw [Sweep.touch]
  split
  · rfl
  · dsimp only
    split
    · rfl
    · split
      · exact Sweep.writeBack_abandoned ..
      · rfl

/-- The contributions touched in order, in their caches. -/
def State.sweepTouched (w : State) (l : List (TableDesc × Contribution)) : Sweep := l.foldl (fun x c => Sweep.touch x c.1 c.2) (w, 0, [])

theorem State.sweepTouched_abandoned (w : State) (l : List (TableDesc × Contribution)) :
    (w.sweepTouched l).1.gather.abandoned = w.gather.abandoned :=
  List.foldlRecOn (motive := fun x : Sweep => x.1.gather.abandoned = w.gather.abandoned) l _ rfl fun x hx c _ =>
    (Sweep.touch_abandoned x c.1 c.2).trans hx

theorem State.sweep_abandoned (w : State) (l : List (TableDesc × Contribution)) : (w.sweep l).1.gather.abandoned = w.gather.abandoned :=
  List.foldlRecOn (motive := fun x : Sweep => x.1.gather.abandoned = w.gather.abandoned)
    ((w.sweepTouched l).2.2.flatMap fun x : Nat × List CacheEntry => x.2) Sweep.writeBack
    (State.sweepTouched_abandoned w l) fun x hx e _ => (Sweep.writeBack_abandoned x e).trans hx

theorem State.sweepResult_abandoned (w : State) : w.sweepResult.1.gather.abandoned = w.gather.abandoned := by
  rw [State.sweepResult]
  split
  · rfl
  · exact State.sweep_abandoned w _

end

/-- Settles O39: a sweep that is ready folds what its parts return, and marks every part it serves. -/
theorem sweeping : Obligations.Sweeping := by
  intro s
  have hexec := exec_returnSweep s
  refine ⟨fun hwaits => ⟨s, ?_, rfl⟩, fun hparts hready => ?_⟩
  · rw [hexec, if_pos]
    obtain hnone | hnot := hwaits
    · rw [hnone]
      rfl
    · rw [hnot, Bool.not_false, Bool.or_true]
  · have hgo : ¬ (s.sweepParts.isEmpty || !s.sweepReady) = true := by
      rw [hready, Bool.not_true, Bool.or_false]
      exact fun h => hparts (List.isEmpty_iff.1 h)
    rw [if_neg hgo] at hexec
    obtain ⟨w, hw⟩ : ∃ w, w = s.dropPoisonedWalks := ⟨_, rfl⟩
    have hwmem : w.memory.mem = s.memory.mem := by
      rw [hw]
      exact (State.dropPoisonedWalks_within (State.within_refl s [.dial, .logs, .mbs, .sched, .gather, .train, .blocks])
        (List.Subset.refl _)).mem (by decide)
    have hrw : w.within [.dial, .logs, .memory, .gather, .links, .bytes] w.sweepResult.1 := by
      rw [State.sweepResult]
      split
      · exact State.within_refl w _
      · exact State.sweep_within (State.within_refl w _) (List.Subset.refl _)
    rw [← hw] at hexec
    have hmarks := State.markSwept_fold (s := w.sweepResult.1) w.sweepParts fun p hp => by
      rw [hrw.sched (by decide)]
      exact State.sweepParts_region hp
    have hfold : w.sweepResult.1.within [.sched] w.sweepMarked :=
      State.within_fold (fun _ _ hu => State.setCtx_within hu (List.Subset.refl _)) (State.within_refl _ _)
    obtain ⟨u, hu⟩ : ∃ u, u = w.sweepEnded := ⟨_, rfl⟩
    rw [← hu] at hexec
    have hsettle := State.settle_within (State.within_refl u [.dial, .mbs, .sched, .train]) (List.Subset.refl _)
    rw [← hw]
    refine ⟨_, hexec, ⟨u, rfl, ?_⟩, ?_, ?_, onlyIn_of_exec hexec⟩
    · intro p hp
      obtain ⟨y, hy, hmark⟩ := hmarks p hp
      refine ⟨y, ?_, hmark⟩
      rw [hu]
      exact hy
    · rw [hsettle.gather (by decide), hu]
      change (if w.sweepMarked.gather.abandoned then 0 else fraction w.sweepResult.2 w.sweepList.length) = _
      rw [hfold.gather (by decide), State.sweepResult_abandoned, State.sweepResult]
      split
      · rfl
      · rfl
    · rw [hsettle.mem (by decide), hu]
      change w.sweepMarked.memory.mem = _
      rw [hfold.mem (by decide), State.sweepResult, ← hwmem]
      split
      · rfl
      · rfl

/-! ### Stash entries (R302, R303, R305) -/

section
variable {s : State} {m : MicroBatch} {region : Region} {i : Nat} {pre : Bool} {mb : BitVec 10} {y : Operand} {beats : List (List Byte × Bool)}

/-- The coded stream of an entry, in whole beats. -/
def paddedBeats (beats : List (List Byte × Bool)) : List (Byte × Bool) :=
  codeBeats beats ++ List.replicate (roundUp (codeBeats beats).length 64 - (codeBeats beats).length) (0, false)

theorem paddedBeats_length (beats : List (List Byte × Bool)) : (paddedBeats beats).length = roundUp (codeBeats beats).length 64 := by
  rw [paddedBeats, List.length_append, List.length_replicate, roundUp, ceilDiv]
  omega

/-- An entry of a stash point on a run of pages. -/
def stashEntryAt (m : MicroBatch) (region : Region) (i : Nat) (pre : Bool) (beats : List (List Byte × Bool)) (far : Bool) (p : Nat) : StashEntry :=
  ⟨region, far, p, ceilDiv (64 + (paddedBeats beats).length) 4096, i, pre, m.mb, m.step, beats.any (·.2), 0⟩

/-- The compressor has read the rows. -/
def State.stashRead (s : State) (m : MicroBatch) (region : Region) (i : Nat) (pre : Bool) (y : Operand) : State :=
  if pre then s else s.noteReads (match s.rowPlace (some m) 0 i y 0 with
    | .own k => k
    | .remote _ => 0) (y.m * s.slotCfg.rowStride i y) (engineName region.val 3)

/-- The entry is put on its run of pages, or the micro-batch is marked for recomputation. -/
def State.stashPut (s : State) (m : MicroBatch) (region : Region) (i : Nat) (pre : Bool) (y : Operand) (beats : List (List Byte × Bool)) : State :=
  match s.freeRun false region.val (ceilDiv (64 + (paddedBeats beats).length) 4096),
    s.freeRun true region.val (ceilDiv (64 + (paddedBeats beats).length) 4096) with
  | some p, _ => s.putEntry (stashEntryAt m region i pre beats false p) y (64 * beats.length) (paddedBeats beats)
  | none, some p => s.putEntry (stashEntryAt m region i pre beats true p) y (64 * beats.length) (paddedBeats beats)
  | none, none => s.markRecompute m

theorem exec_stashEntry {index : BitVec 14} (hfind : s.mbs.find? (fun q => q.mb == mb.toNat && !q.dropped && !q.committed) = some m)
    (hregion : regionOfMb m.mb = region.val) (hbeats : s.pointBeats m index.toNat pre = some (y, beats)) :
    exec (.stashEntry region index pre mb) s = .next
      (if !((s.openPoints m).contains (index.toNat, pre) && s.pointReached m index.toNat pre) then s else
      ((((s.stashRead m region index.toNat pre y).stashPut m region index.toNat pre y beats).release m.mb m.step).draw).settle) := by
  change execStashEntry region index pre mb s = _
  rw [execStashEntry, hfind]
  dsimp only
  cases hdue : (s.openPoints m).contains (index.toNat, pre) && s.pointReached m index.toNat pre with
  | false =>
    rw [if_pos, if_pos (by decide)]
    rw [Bool.and_eq_false_iff] at hdue
    obtain h | h := hdue
    · exact .inr (.inl (by rw [h]; rfl))
    · exact .inr (.inr (by rw [h]; rfl))
  | true =>
    rw [Bool.and_eq_true] at hdue
    rw [if_neg, if_neg (by decide), hbeats]
    · rfl
    · rw [hdue.1, hdue.2]
      rintro (h | h | h)
      · exact h hregion
      · exact Bool.false_ne_true h
      · exact Bool.false_ne_true h

theorem State.putEntry_stash (e : StashEntry) (y : Operand) (raw : Nat) (coded : List (Byte × Bool)) :
    (s.putEntry e y raw coded).train.stash = s.train.stash ++ [e] := by
  have hbeats (u : State) (p : Place) (bs : List Byte) (mark : Nat → Bool) : (u.storeBeats p bs mark).train = u.train :=
    (State.storeBeats_within (State.within_refl u [.logs, .memory, .links, .bytes]) (List.Subset.refl _)).train (by decide)
  have hstore (u : State) (k : Nat) (bs : List Byte) : (u.store k bs false).train = u.train :=
    (State.store_within (State.within_refl u [.memory, .bytes]) (List.Subset.refl _)).train (by decide)
  rw [State.putEntry, State.onTrain_train]
  dsimp only
  rw [hstore, hbeats]
  rfl

end

/-- What a stash point that is due leaves (R303, R305). -/
theorem stashEntry_effect (s : State) (m : MicroBatch) (region : Region) (index : BitVec 14) (pre : Bool) (mb : BitVec 10) (y : Operand)
    (beats : List (List Byte × Bool)) (hfind : s.mbs.find? (fun q => q.mb == mb.toNat && !q.dropped && !q.committed) = some m)
    (hregion : regionOfMb m.mb = region.val) (hbeats : s.pointBeats m index.toNat pre = some (y, beats))
    (hdue : ((s.openPoints m).contains (index.toNat, pre) && s.pointReached m index.toNat pre) = true) :
    ∃ v : State, exec (.stashEntry region index pre mb) s = .next ((v.release m.mb m.step).draw).settle ∧
      (∀ p, s.freeRun false region.val (ceilDiv (64 + (paddedBeats beats).length) 4096) = some p →
        v.train.stash = s.train.stash ++ [stashEntryAt m region index.toNat pre beats false p]) ∧
      (∀ p, s.freeRun false region.val (ceilDiv (64 + (paddedBeats beats).length) 4096) = none →
        s.freeRun true region.val (ceilDiv (64 + (paddedBeats beats).length) 4096) = some p →
        v.train.stash = s.train.stash ++ [stashEntryAt m region index.toNat pre beats true p]) ∧
      (s.freeRun false region.val (ceilDiv (64 + (paddedBeats beats).length) 4096) = none →
        s.freeRun true region.val (ceilDiv (64 + (paddedBeats beats).length) 4096) = none →
        v.train.stash = s.train.stash ∧ v.mbs = s.mbs.map fun z => if z.mb == m.mb && z.step == m.step then
          { z with recompute := z.recompute ++ (s.openPoints m).map (fun p => markOf p.1 p.2), stashStop := true } else z) := by
  have hexec := exec_stashEntry hfind hregion hbeats
  rw [hdue, if_neg (by decide)] at hexec
  have hw : s.within [.dial, .logs, .memory] (s.stashRead m region index.toNat pre y) :=
    State.within_ite (State.within_refl s _) (State.noteReads_within (State.within_refl s _) (List.Subset.refl _))
  have hdial : s.sameDial (s.stashRead m region index.toNat pre y) :=
    State.sameDial_ite (State.sameDial_refl s) (State.noteReads_sameDial _ _ _)
  generalize s.stashRead m region index.toNat pre y = u at hexec hw hdial
  have htrain := hw.train (by decide)
  have hrun (far : Bool) (n : Nat) : u.freeRun far region.val n = s.freeRun far region.val n :=
    State.freeRun_congr (hw.cfg (by decide)) (hw.run (by decide)) hdial htrain far region.val n
  have hput : u.stashPut m region index.toNat pre y beats =
      match s.freeRun false region.val (ceilDiv (64 + (paddedBeats beats).length) 4096),
        s.freeRun true region.val (ceilDiv (64 + (paddedBeats beats).length) 4096) with
      | some p, _ => u.putEntry (stashEntryAt m region index.toNat pre beats false p) y (64 * beats.length) (paddedBeats beats)
      | none, some p => u.putEntry (stashEntryAt m region index.toNat pre beats true p) y (64 * beats.length) (paddedBeats beats)
      | none, none => u.markRecompute m := by
    rw [State.stashPut, hrun, hrun]
  refine ⟨_, hexec, fun p hp => ?_, fun p hnone hp => ?_, fun hnone hnone' => ?_⟩
  · rw [hput, hp]
    dsimp only
    rw [State.putEntry_stash, htrain]
  · rw [hput, hnone, hp]
    dsimp only
    rw [State.putEntry_stash, htrain]
  · rw [hput, hnone, hnone']
    dsimp only
    have hpoints := State.openPoints_congr (hw.cfg (by decide)) (hw.run (by decide)) hdial (hw.sched (by decide)) htrain m
    have hstash : (u.markRecompute m).train.stash = u.train.stash := rfl
    refine ⟨hstash.trans (congrArg TrainState.stash htrain), ?_⟩
    rw [State.markRecompute, hpoints, State.onTrain_mbs, ← hw.mbs (by decide)]
    rfl

/-! ### Commits (R297) -/

section
variable {s : State} {m : MicroBatch}

/-- What committing an operation's gradients leaves. -/
def State.keepsCounts (s t : State) : Prop := t.train.samples = s.train.samples ∧ t.train.loss = s.train.loss ∧ t.mbs = s.mbs

theorem State.commitOp_keepsCounts (x : Op × Nat) : s.keepsCounts (s.commitOp m x) := by
  rw [State.commitOp]
  split
  · exact ⟨rfl, rfl, rfl⟩
  · obtain ⟨u, hw, hu⟩ : ∃ u : State, s.within [.logs, .memory, .links, .bytes] u ∧ (s.stagedRows m x.2 x.1).foldl (fun t r =>
        (t.operand r.1).elim t fun g => t.commitRow (s.train.storeFirst.contains r.1) r.1 g r.2.1 r.2.2.1 r.2.2.2.1) s = u :=
      ⟨_, State.within_fold (fun u r hu => State.within_elim (fun g => State.commitRow_within hu (List.Subset.refl _)) hu)
        (State.within_refl s _), rfl⟩
    have htrain := hw.train (by decide)
    dsimp only
    rw [hu]
    have hsamples : u.train.samples = s.train.samples := by rw [htrain]
    have hloss : u.train.loss = s.train.loss := by rw [htrain]
    exact ⟨hsamples, hloss, hw.mbs (by decide)⟩

theorem State.commitOps_keepsCounts (l : List (Op × Nat)) : s.keepsCounts (l.foldl (fun s x => s.commitOp m x) s) :=
  List.foldlRecOn (motive := fun u : State => s.keepsCounts u) l _ ⟨rfl, rfl, rfl⟩ fun u hu x _ => by
    obtain ⟨h1, h2, h3⟩ := State.commitOp_keepsCounts (s := u) (m := m) x
    exact ⟨h1.trans hu.1, h2.trans hu.2.1, h3.trans hu.2.2⟩

theorem State.commitCounts_effect : (s.commitCounts m).train.samples = (if s.train.storeFirst.contains noOperand then m.samples
      else s.train.samples + m.samples) ∧
    (s.commitCounts m).train.loss = (if s.train.storeFirst.contains noOperand then m.loss else add64 s.train.loss m.loss) := by
  have htap (u : State) (x : Nat × Nat) : (u.onTap x.1 fun t => { t with nf := t.nf + x.2 }).train.samples = u.train.samples ∧
      (u.onTap x.1 fun t => { t with nf := t.nf + x.2 }).train.loss = u.train.loss := ⟨rfl, rfl⟩
  rw [State.commitCounts]
  refine ⟨?_, ?_⟩
  · rw [foldl_keeps (g := fun u : State => u.train.samples) (fun u x => (htap u x).1), State.onTrain_train]
    split
    · rfl
    · rfl
  · rw [foldl_keeps (g := fun u : State => u.train.loss) (fun u x => (htap u x).2), State.onTrain_train]
    split
    · rfl
    · rfl

/-- The micro-batch is marked committed and its staging given up. -/
def State.commitClosed (s : State) (m : MicroBatch) : State :=
  (s.onMb m.mb m.step fun m => { m with committed := true, staging := [], reruns := [] }).onTrain fun t => { t with
    preRows := t.preRows.filter fun e => !(e.mb == m.mb && e.step == m.step) }

theorem State.commitClosed_effect : (s.commitClosed m).mbs = (s.mbs.map fun z => if z.mb == m.mb && z.step == m.step then
      { z with committed := true, staging := [], reruns := [] } else z) ∧ (s.commitClosed m).train.samples = s.train.samples ∧
    (s.commitClosed m).train.loss = s.train.loss ∧ s.within [.mbs, .train] (s.commitClosed m) :=
  ⟨rfl, rfl, rfl, State.onTrain_within (State.onMb_within (State.within_refl s _) (by decide)) (by decide)⟩

/-- The micro-batch committed, before it gives up what it holds. -/
def State.committed (s : State) (m : MicroBatch) : State :=
  ((s.slotCfg.ops.zipIdx.foldl (fun s x => s.commitOp m x) s).commitCounts m).commitClosed m

theorem exec_microBatchCommit {mb : BitVec 10} (hfind : s.mbs.find? (fun q => q.mb == mb.toNat && !q.dropped && !q.committed) = some m) :
    exec (.microBatchCommit mb) s = .next
      (if !m.admitted ∨ !s.partsDone m ∨
        (s.cfg.sundial.det && s.mbs.any fun o => o.step == m.step && decide (o.mb < m.mb) && !o.dropped && !o.committed) then s
      else (((s.committed m).release m.mb m.step).settle).draw) := by
  change execMicroBatchCommit mb s = _
  rw [execMicroBatchCommit, hfind]
  rfl

end

/-- Settles O41: a stash point takes the lowest run that holds it; a complete micro-batch adds what it staged and counted. -/
theorem stashAndCommit : Obligations.StashAndCommit := by
  intro s m
  refine ⟨?_, fun mb hfind => ⟨fun hno => ⟨s, ?_, rfl⟩, fun hadmitted hdone hdet => ?_⟩⟩
  · intro region index pre mb y beats hfind hregion hbeats due coded pages entry
    refine ⟨fun hnot => ⟨s, ?_, rfl⟩, fun hdue => ?_⟩
    · rw [exec_stashEntry hfind hregion hbeats, show ((s.openPoints m).contains (index.toNat, pre) && s.pointReached m index.toNat pre) = false from hnot]
      rfl
    · obtain ⟨v, hexec, hnear, hfar, hnone⟩ := stashEntry_effect s m region index pre mb y beats hfind hregion hbeats hdue
      have hpages : ceilDiv (64 + (paddedBeats beats).length) 4096 = pages := by rw [paddedBeats_length]
      have hentry (far : Bool) (p : Nat) : stashEntryAt m region index.toNat pre beats far p = entry far p := by
        rw [stashEntryAt, paddedBeats_length]
      rw [hpages] at hnear hfar hnone
      refine ⟨_, hexec, v, rfl, onlyIn_of_exec hexec, ?_⟩
      split
      next p hp => rw [hnear p hp, hentry]
      next p hn hp => rw [hfar p hn hp, hentry]
      next hn hn' => exact hnone hn hn'
  · rw [exec_microBatchCommit hfind, if_pos]
    obtain hno | hno := hno
    · exact .inl (by rw [hno]; rfl)
    · exact .inr (.inl (by rw [hno]; rfl))
  · intro w
    have hwaits : (s.cfg.sundial.det && s.mbs.any fun o => o.step == m.step && decide (o.mb < m.mb) && !o.dropped && !o.committed) = false := by
      rw [Bool.and_eq_false_iff]
      cases hd : s.cfg.sundial.det with
      | false => exact .inl rfl
      | true =>
        refine .inr (List.any_eq_false.2 fun z hz => ?_)
        simp only [Bool.and_eq_true, beq_iff_eq, decide_eq_true_eq, Bool.not_eq_true']
        rintro ⟨⟨⟨hstep, hless⟩, hdropped⟩, hcommitted⟩
        obtain h | h := hdet hd z hz hstep hless
        · exact Bool.false_ne_true (hdropped.symm.trans h)
        · exact Bool.false_ne_true (hcommitted.symm.trans h)
    have hexec := exec_microBatchCommit hfind
    rw [if_neg (by rw [hadmitted, hdone, hwaits]; decide)] at hexec
    obtain ⟨hsamples, hloss, hmbs⟩ := State.commitOps_keepsCounts (s := s) (m := m) s.slotCfg.ops.zipIdx
    obtain ⟨hsum, hlosses⟩ := State.commitCounts_effect (s := w) (m := m)
    have hcounts : w.within [.train] (w.commitCounts m) := State.commitCounts_within (State.within_refl w _) (List.Subset.refl _)
    have hcommitted : s.committed m = (w.commitCounts m).commitClosed m := rfl
    obtain ⟨hm, hs, hl, hclosed⟩ := State.commitClosed_effect (s := w.commitCounts m) (m := m)
    rw [← hcommitted] at hm hs hl hclosed
    rw [hcounts.mbs (by decide), hmbs] at hm
    rw [hsum, hsamples] at hs
    rw [hlosses, hloss] at hl
    have hw : w.within [.draws, .dial, .mbs, .sched, .train] ((s.committed m).release m.mb m.step).settle.draw :=
      State.draw_within (State.settle_within (State.release_within (State.within_step hclosed (State.within_step hcounts (State.within_refl w _)
        (by decide)) (by decide)) (by decide)) (by decide)) (by decide)
    generalize s.committed m = v at hexec hm hs hl hw
    exact ⟨_, hexec, v, rfl, hm, hs, hl, hw.memory (by decide), onlyIn_of_exec hexec⟩

end Sys2Proof.Machine
end


section
/-! PROOFS. Rows of other devices; sampling (R32, R168, R195, R211, R217, R230, R231, R422–R424, R522). -/

namespace Sys2Proof.Machine

set_option Elab.async false

/-! ### What dropping a micro-batch leaves as it is -/

/-- The halt that is due and the gather engines' counters stay. -/
structure State.keepsCounters (s t : State) : Prop where
  halt    : t.dial.haltCause = s.dial.haltCause
  regions : t.gather.regions = s.gather.regions

section
variable {s0 s : State}

theorem State.keepsCounters_refl (s : State) : s.keepsCounters s := ⟨rfl, rfl⟩

theorem State.keepsCounters.congr {t : State} (h : s0.keepsCounters s) (hd : t.dial.haltCause = s.dial.haltCause)
    (hg : t.gather.regions = s.gather.regions) : s0.keepsCounters t :=
  ⟨hd.trans h.halt, hg.trans h.regions⟩

theorem State.keepsCounters.within {t : State} {L : List Part} (h : s0.keepsCounters s) (hw : s.within L t) (hd : .dial ∉ L := by decide)
    (hg : .gather ∉ L := by decide) : s0.keepsCounters t :=
  h.congr (by rw [hw.dial hd]) (by rw [hw.gather hg])

theorem State.keepsCounters_ite {c : Prop} [Decidable c] {a b : State} (ha : s0.keepsCounters a) (hb : s0.keepsCounters b) :
    s0.keepsCounters (if c then a else b) := by
  split <;> assumption

theorem State.lapse_keepsCounters (h : s0.keepsCounters s) : s0.keepsCounters s.lapse :=
  State.keepsCounters_ite ((h.congr (t := s.onDial fun d => { d with detBroken := true }) rfl rfl).within
    (State.logDial_within (State.within_refl _ [.logs]) (List.Subset.refl _))) h

theorem State.dropMb_keepsCounters (h : s0.keepsCounters s) (mb step : Nat) : s0.keepsCounters (s.dropMb mb step) := by
  rw [State.dropMb]
  split
  · exact h
  next m _ =>
    have hfreed : s0.keepsCounters (({ s with sched := s.sched.map fun r => { r with
        contexts := r.contexts.filter (fun x => !(x.2.mb.toNat == mb && x.2.step.toNat == step) || x.2.state == 3 && x.2.unit == 3),
        cancelled := satAdd r.cancelled (r.contexts.filter fun x => x.2.mb.toNat == mb && x.2.step.toNat == step).length } } : State).onMb mb step
          fun m => { m with dropped := true }) := h.congr rfl rfl
    exact State.keepsCounters_ite h (State.lapse_keepsCounters
      ((hfreed.within (State.freeDropped_within (State.within_refl _ [.mbs]) (List.Subset.refl _))).congr rfl rfl))

theorem State.endDropped_keepsCounters (h : s0.keepsCounters s) (c : CtxId) : s0.keepsCounters (s.endDropped c) := by
  rw [State.endDropped]
  split
  · have hfreed : s0.keepsCounters (s.freeCtx c) := h.congr rfl rfl
    exact hfreed.within (State.freeDropped_within (State.within_refl _ [.mbs]) (List.Subset.refl _))
  · exact h

theorem State.dropFor_keepsCounters (h : s0.keepsCounters s) (c : CtxId) (code detail : Nat) : s0.keepsCounters (s.dropFor c code detail) := by
  have hlog {v : State} {n : Named} {k : Nat} (hv : s0.keepsCounters v) : s0.keepsCounters (v.logDevice code n k detail) :=
    hv.within (State.logDevice_within (State.within_refl _ [.logs]) (List.Subset.refl _))
  rw [State.dropFor]
  split
  · exact hlog (State.endDropped_keepsCounters (State.dropMb_keepsCounters h _ _) c)
  · exact hlog h

theorem State.settle_keepsCounters (h : s0.keepsCounters s) : s0.keepsCounters s.settle := by
  have hadmitted : s0.keepsCounters s.openReady :=
    h.within (State.openReady_within (State.within_refl s [.mbs, .sched]) (List.Subset.refl _))
  have hrefreshed : s0.keepsCounters ({ s.openReady with sched := s.openReady.sched.map s.openReady.refreshRegion } : State) :=
    hadmitted.congr rfl rfl
  have hended {v : State} (hv : s0.keepsCounters v) : s0.keepsCounters v.endEvaluation :=
    hv.within (State.endEvaluation_within (State.within_refl v [.mbs, .sched, .train]) (List.Subset.refl _))
  exact (hended hrefreshed).congr rfl rfl

end

section
variable {s : State}

/-- A drop counts its code, whether or not the item still stands. -/
theorem State.dropFor_errorCounts_of (c : CtxId) {code : Nat} (detail : Nat) (hpos : code ≠ 0) (hlt : code < 512) (hlapse : 0x047 ≠ code) :
    (s.dropFor c code detail).logs.errorCounts[code]? = (s.logs.errorCounts[code]?).map (satAdd · 1) := by
  cases hctx : s.ctx c with
  | some x => exact State.dropFor_errorCounts hctx hpos hlt hlapse
  | none =>
    simp only [State.dropFor, hctx]
    exact State.logDevice_errorCounts_same hpos hlt

theorem State.dropFor_memory (c : CtxId) (code detail : Nat) : (s.dropFor c code detail).memory = s.memory :=
  (State.dropFor_within (State.within_refl s [.dial, .logs, .mbs, .sched, .gather, .train, .blocks]) (List.Subset.refl _)).memory (by decide)

theorem State.settle_memory : s.settle.memory = s.memory :=
  (State.settle_within (State.within_refl s [.dial, .mbs, .sched, .train]) (List.Subset.refl _)).memory (by decide)

/-! ### A remote read left unanswered (R231, R248) -/

theorem State.timeOut_regions (c : CtxId) : ((s.timeOut c).gather.regions[c.region.val]?).map (·.timeouts) =
    (s.gather.regions[c.region.val]?).map (fun r => satAdd r.timeouts 1) := by
  rw [State.timeOut, (State.settle_keepsCounters (State.dropFor_keepsCounters (State.keepsCounters_refl _) c 0x0A1 0)).regions]
  simp [modifyAt]
  rfl

theorem State.timeOut_errorCounts (c : CtxId) : (s.timeOut c).logs.errorCounts[0xA1]? = (s.logs.errorCounts[0xA1]?).map (satAdd · 1) := by
  rw [State.timeOut, State.settle_logs, State.dropFor_errorCounts_of c 0 (by decide) (by decide) (by decide)]
  rfl

theorem State.timeOut_memory (c : CtxId) : (s.timeOut c).memory = s.memory := by
  rw [State.timeOut, State.settle_memory, State.dropFor_memory]
  rfl

theorem State.timeOut_mbDropped {c : CtxId} {x : TaskContext} {m : MicroBatch} (hctx : s.ctx c = some x) (hm : s.itemMb x = some m)
    (hd : m.dropped = false) (hc : m.committed = false) : (s.timeOut c).mbDropped x.mb.toNat x.step.toNat :=
  State.settle_mbDropped (State.dropFor_mbDropped (s := s.onGather _) hctx hm hd hc)

/-! ### Requests for rows (R168, R423, R424) -/

/-- A single answer goes out in one packet. -/
theorem State.sendReplies_singleton (dest : Coord) {a : RowAnswer} (ha : a.flits.length ≤ 64) :
    s.sendReplies dest [a] [] = s.sendReply dest [a] := by
  rw [State.sendReplies, if_neg (by simp; omega)]
  rfl

theorem exec_rowReq {lgen : BitVec 8} (src : Coord) (q : RowReqEntry) (hl : s.start.loaded = true) :
    exec (.rowReq lgen src [q]) s = .next (((s.takeRowReq src (lgen == s.tables.generation) q).1.sendReplies src
      (s.takeRowReq src (lgen == s.tables.generation) q).2.toList []).draw) := by
  change execRowReq lgen src [q] s = _
  rw [execRowReq, hl]
  rfl

theorem State.takeRowReq_of_unmatched (src : Coord) (q : RowReqEntry) : s.takeRowReq src false q = (s, some ⟨q.tag.toNat, 2, [], 0⟩) := rfl

/-- What the owner does with a request for a row of its own, in its own layout. -/
theorem State.takeRowReq_of_key (src : Coord) {q : RowReqEntry} {tb : TableDesc} {k : Nat} (htb : s.table q.table.toNat = some tb)
    (hk : s.ownRowKey tb q.version q.node.toNat = some k) :
    s.takeRowReq src true q = if (tb.kind = 2 ∨ tb.kind = 4) ∧ s.isUpdating tb.id then
        if q.step.toNat ≤ s.dial.step.toNat then (s, some ⟨q.tag.toNat, 1, [], 0⟩)
        else (s.onTables fun x => { x with heldRequests := x.heldRequests ++ [(tb.id, src, q)] }, none)
      else ((s.serveRow tb q k).1, some (s.serveRow tb q k).2) := by
  simp only [State.takeRowReq, if_true, htb, hk]

theorem flitsOf_length (bs : List Byte) : (flitsOf bs).length = ceilDiv bs.length 64 := by
  rw [flitsOf, List.length_map, List.length_range]

theorem State.serveRow_mem (tb : TableDesc) (q : RowReqEntry) (k : Nat) : (s.serveRow tb q k).1.memory.mem = s.memory.mem :=
  (State.serveRow_within (State.within_refl s [.dial, .logs, .memory, .tables]) (List.Subset.refl _)).mem (by decide)

theorem State.sendReply_mem (dest : Coord) (as : List RowAnswer) : (s.sendReply dest as).memory.mem = s.memory.mem := by
  rw [(State.sendReply_within (State.within_refl s [.logs, .links]) (List.Subset.refl _)).memory (by decide)]

/-! ### Replies (R32, R174, R230, R423, R424) -/

/-- What the parts of one reply come to. -/
def State.takeEntry (s : State) (src : Coord) (e : RowReplyEntry) (bytes : List Byte) (poison : Nat) : State :=
  if e.gen ≠ s.engineTag (gatherEngineKey (e.tag.toNat % 4)) then s.onResil fun r => { r with stale := r.stale + 1 }
  else if (s.gather.requests.find? fun q => q.tag == e.tag).any fun q => q.owner != src then s else s.takeReply e bytes poison

theorem exec_rowReply (src : Coord) (poison : Word) {e : RowReplyEntry} {data : List Flit} (hl : s.start.loaded = true) (hstatus : e.status ≠ 3)
    (hdata : if e.status = 0 then data.length = e.flits.toNat + 1 else data = [] ∧ e.flits = 0) :
    exec (.rowReply src poison [e] data) s = .next (s.takeEntry src e (data.flatMap flitBytes) (poison.toNat % 2 ^ data.length)) := by
  have hlen : (if e.status = 0 then e.flits.toNat + 1 else 0) = data.length := by
    split at hdata
    next h => rw [if_pos h, hdata]
    next h => rw [if_neg h, hdata.1, List.length_nil]
  have hreserved : ([e].any fun e => e.status == 3) = false := by simpa using hstatus
  have hshape : ¬ (([e].map fun e => if e.status = 0 then e.flits.toNat + 1 else 0).sum ≠ data.length ∨
      ([e].any fun e => e.status != 0 && e.flits != 0) = true) := by
    rw [List.map_singleton, List.sum_singleton, hlen]
    split at hdata
    next h => simp [h]
    next => simp [hdata.2]
  have hsplit : splitReply poison.toNat [e] data = [(e, data.flatMap flitBytes, poison.toNat % 2 ^ data.length)] := by
    simp only [splitReply, hlen, List.take_length]
  change execRowReply src poison [e] data s = _
  rw [execRowReply, hsplit, hl, hreserved, if_neg (by decide), if_neg (by decide), if_neg hshape]
  rfl

theorem State.takeEntry_of_current {src : Coord} {e : RowReplyEntry} (hgen : e.gen = s.engineTag (gatherEngineKey (e.tag.toNat % 4)))
    (bytes : List Byte) (poison : Nat) :
    s.takeEntry src e bytes poison = if (s.gather.requests.find? fun q => q.tag == e.tag).any fun q => q.owner != src then s
      else s.takeReply e bytes poison := by
  rw [State.takeEntry, if_neg (not_not_intro hgen)]

theorem State.takeEntry_of_owner {src : Coord} {e : RowReplyEntry} {q : RowRequest}
    (hgen : e.gen = s.engineTag (gatherEngineKey (e.tag.toNat % 4))) (hq : (s.gather.requests.find? fun q => q.tag == e.tag) = some q)
    (howner : q.owner = src) (bytes : List Byte) (poison : Nat) : s.takeEntry src e bytes poison = s.takeReply e bytes poison := by
  rw [State.takeEntry_of_current hgen, hq, if_neg (by simp [howner])]

/-- The state once a request is answered and forgotten. -/
def State.replied (s : State) (e : RowReplyEntry) : State :=
  s.onGather fun g => { g with requests := g.requests.filter fun x => x.tag != e.tag }

/-- The Cooler takes the row of a reply where its table is one of R172's (R174). -/
def State.fillFromReply (s : State) (q : RowRequest) (bytes : List Byte) (poison : Nat) : State :=
  match s.table q.table, s.mbs.find? (fun m => m.mb == q.mb && !m.dropped) with
  | some t, some m =>
    if t.cooler = 2 then s.fillCooler q.region.val t (m.versionB.contains t.id) q.node q.est bytes (poison != 0) else s
  | _, _ => s

theorem State.fillFromReply_within (q : RowRequest) (bytes : List Byte) (poison : Nat) :
    s.within [.memory, .tables, .bytes] (s.fillFromReply q bytes poison) := by
  rw [State.fillFromReply]
  split
  · split
    · exact State.fillCooler_within (State.within_refl _ _) (List.Subset.refl _)
    · exact State.within_refl _ _
  · exact State.within_refl _ _

theorem State.takeReply_row {e : RowReplyEntry} {q : RowRequest} (hq : (s.gather.requests.find? fun q => q.tag == e.tag) = some q)
    (hstatus : e.status = 0) (bytes : List Byte) (poison : Nat) : s.takeReply e bytes poison =
      ((s.replied e).fillFromReply q bytes poison).onGather fun g => { g with rows := g.rows ++ [⟨q.ctx, q.item, bytes, poison, false⟩] } := by
  simp only [State.takeReply, hq, hstatus]
  rfl

theorem State.takeReply_refused {e : RowReplyEntry} {q : RowRequest} (hq : (s.gather.requests.find? fun q => q.tag == e.tag) = some q)
    (hstatus : e.status = 1) (bytes : List Byte) (poison : Nat) :
    s.takeReply e bytes poison = ((s.replied e).dropFor q.ctx 0x085 (nodeDetail q.node q.table)).settle := by
  simp only [State.takeReply, hq, hstatus]
  rfl

theorem State.takeReply_otherLayout {e : RowReplyEntry} {q : RowRequest} (hq : (s.gather.requests.find? fun q => q.tag == e.tag) = some q)
    (hstatus : e.status = 2) (bytes : List Byte) (poison : Nat) :
    s.takeReply e bytes poison = (((s.replied e).dropFor q.ctx 0x0E4 0).haltAtBoundary 4).settle := by
  simp only [State.takeReply, hq, hstatus]
  rfl

/-- Settles O37: a request or reply of one entry comes to what its case of `takeRowReq` or `takeReply` says; a request unanswered for too long is
a time-out. -/
theorem remoteRows : Obligations.RemoteRows := by
  unfold Obligations.RemoteRows
  intro s
  refine ⟨fun lgen src q hl => ?_, fun src poison e data hl hstatus hdata => ?_, fun tag q hq => ⟨fun hearly => ?_, fun hlate => ?_⟩⟩
  · refine ⟨fun hgen => ⟨_, exec_rowReq src q hl, ?_⟩, fun tb k hgen htb hk => ⟨fun hup hbytes => ⟨_, exec_rowReq src q hl, ?_⟩,
      fun hkind hup hold => ⟨_, exec_rowReq src q hl, ?_⟩, fun hkind hup hnew => ⟨_, exec_rowReq src q hl, ?_⟩⟩⟩
    · rw [beq_false_of_ne hgen, State.takeRowReq_of_unmatched]
      exact congrArg State.draw (State.sendReplies_singleton src (by simp))
    · have hsent := State.sendReplies_singleton (s := (s.serveRow tb q k).1) src (a := (s.serveRow tb q k).2)
        (by
          change (flitsOf (s.bytesAt k tb.rowBytes)).length ≤ 64
          rw [flitsOf_length, State.bytesAt, List.length_map, List.length_range, ceilDiv]
          omega)
      rw [hgen, beq_self_eq_true, State.takeRowReq_of_key src htb hk, if_neg hup]
      beta_reduce
      refine ⟨congrArg State.draw hsent, ?_⟩
      rw [Option.toList_some, hsent]
      exact (State.sendReply_mem src _).trans (State.serveRow_mem tb q k)
    · rw [hgen, beq_self_eq_true, State.takeRowReq_of_key src htb hk, if_pos ⟨hkind, hup⟩, if_pos hold]
      exact congrArg State.draw (State.sendReplies_singleton src (by simp))
    · rw [hgen, beq_self_eq_true, State.takeRowReq_of_key src htb hk, if_pos ⟨hkind, hup⟩, if_neg (by omega)]
      exact ⟨rfl, fun p hp => by cases p <;> first | exact absurd (by decide) hp | rfl⟩
  · have hexec := exec_rowReply src poison hl hstatus hdata
    refine ⟨fun q hgen hq howner => ?_, fun q hgen hq howner => ⟨_, hexec, ?_⟩, fun hgen hq => ⟨_, hexec, ?_⟩, fun hgen => ⟨_, hexec, ?_⟩⟩
    · rw [State.takeEntry_of_owner hgen hq howner] at hexec
      refine ⟨fun h0 => ⟨_, hexec, ?_⟩, fun h1 => ⟨_, hexec, ?_⟩, fun h2 => ⟨_, hexec, ?_⟩⟩
      · have hfill := State.fillFromReply_within (s := s.replied e) q (data.flatMap flitBytes) (poison.toNat % 2 ^ data.length)
        rw [State.takeReply_row hq h0]
        refine ⟨?_, ?_, ?_⟩
        · rw [State.onGather_gather, hfill.gather (by decide)]
          rfl
        · rw [State.onGather_gather, hfill.gather (by decide)]
          rfl
        · have hreplied : s.within [.gather, .tables, .memory, .bytes] (s.replied e) :=
            State.onGather_within (State.within_refl s _) (by decide)
          exact (State.onGather_within (State.within_step hfill hreplied (by decide)) (by decide)).1
      · rw [State.takeReply_refused hq h1]
        refine ⟨?_, ?_⟩
        · rw [State.settle_logs, State.dropFor_errorCounts_of _ _ (by decide) (by decide) (by decide)]
          rfl
        · rw [State.settle_memory, State.dropFor_memory]
          rfl
      · rw [State.takeReply_otherLayout hq h2]
        refine ⟨?_, ?_, ?_⟩
        · rw [State.settle_logs, State.haltAtBoundary_logs, State.dropFor_errorCounts_of _ _ (by decide) (by decide) (by decide)]
          rfl
        · rw [State.settle_memory, State.haltAtBoundary_memory, State.dropFor_memory]
          rfl
        · rw [(State.settle_keepsCounters (State.keepsCounters_refl _)).halt, State.haltAtBoundary_haltCause,
            (State.dropFor_keepsCounters (State.keepsCounters_refl _) q.ctx 0x0E4 0).halt]
          rfl
    · rw [State.takeEntry_of_current hgen, hq, if_pos (by simp [howner])]
    · rw [State.takeEntry_of_current hgen, hq, if_neg (by simp), State.takeReply, hq]
      exact ⟨rfl, fun p hp => by cases p <;> first | exact absurd (by decide) hp | rfl⟩
    · rw [State.takeEntry, if_pos hgen]
      exact ⟨rfl, fun p hp => by cases p <;> first | exact absurd (by decide) hp | rfl⟩
  · refine ⟨s, ?_, rfl⟩
    change execGatherTimeout tag s = _
    rw [execGatherTimeout, hq]
    exact congrArg Host.Outcome.next (if_pos hearly)
  · refine ⟨s.timeOut q.ctx, ?_, State.timeOut_regions _, State.timeOut_errorCounts _, State.timeOut_memory _, fun y m hy hm hd hc => ?_⟩
    · change execGatherTimeout tag s = _
      rw [execGatherTimeout, hq]
      exact congrArg Host.Outcome.next (if_neg (by omega))
    · have hnames := List.find?_some hm
      simp only [Bool.and_eq_true, beq_iff_eq] at hnames
      rw [hnames.1, hnames.2]
      exact State.timeOut_mbDropped hy hm hd hc

end

end Sys2Proof.Machine
end


section
/-! PROOFS. SAMPLE writes its basket, waits, or drops its micro-batch (R165, R193–R195, R211, R213, R217, R522). -/

namespace Sys2Proof.Machine

set_option Elab.async false

section
variable {s : State} {c : CtxId} {x : TaskContext} {m : MicroBatch} {b : Basket} {lists trail : Nat} {l y : Operand}

/-! ### A basket's bytes (R192–R195) -/

/-- A node entry (R192). -/
def nodeEntry (n : Nat × Bool) : List Byte := leBytes (n.1 + bit n.2 * 2 ^ 63) 8

/-- Node entries, then trail entries are stored. -/
def State.writeEntries (s : State) (m : MicroBatch) (lists trail : Nat) (l y : Operand) (b : Basket) : State :=
  let v := s.placeStore ((s.rowPlace (some m) 0 lists l 0).plus 64) (b.lists.flatten.flatMap nodeEntry) false
  v.placeStore (v.rowPlace (some m) 0 trail y 0) (b.trail.flatMap fun e => leBytes e 16) false

theorem State.writeBasket_eq (hl : s.operand lists = some l) (hy : s.operand trail = some y) : s.writeBasket m lists trail b =
    (s.writeEntries m lists trail l y b).placeStore (s.rowPlace (some m) 0 lists l 0) (leBytes (b.record m) 64) false := by
  rw [State.writeBasket, hl, hy]
  rfl

theorem length_flatMap_const {α : Type} {f : α → List Byte} {n : Nat} (hf : ∀ x, (f x).length = n) (as : List α) :
    (as.flatMap f).length = n * as.length := by
  rw [List.length_flatMap, List.map_congr_left fun x _ => hf x, List.map_const', List.sum_replicate, smul_eq_mul, Nat.mul_comm]

theorem Basket.nodes_flatten (b : Basket) : b.lists.flatten.length = b.nodes := List.length_flatten

/-- Only the record and the entries of a basket are written. -/
theorem State.writeBasket_bytesOnlyIn (hl : s.operand lists = some l) (hy : s.operand trail = some y) :
    s.bytesOnlyIn (s.writeBasket m lists trail b) ((s.rowPlace (some m) 0 lists l 0).range 64 ++
      ((s.rowPlace (some m) 0 lists l 0).plus 64).range (8 * b.nodes) ++ (s.rowPlace (some m) 0 trail y 0).range (16 * b.trail.length)) := by
  rw [State.writeBasket_eq hl hy, State.writeEntries]
  have hw := State.placeStore_within (p := (s.rowPlace (some m) 0 lists l 0).plus 64) (bs := b.lists.flatten.flatMap nodeEntry)
    (poisoned := false) (State.within_refl s [.logs, .memory, .links, .bytes]) (List.Subset.refl _)
  rw [hw.rowPlace (by decide)]
  refine State.placeStore_bytesOnlyIn (State.placeStore_bytesOnlyIn (State.placeStore_bytesOnlyIn (State.bytesOnlyIn_refl s _) ?_) ?_) ?_
  · rw [length_flatMap_const (f := nodeEntry) (n := 8) fun n => leBytes_length _ _, Basket.nodes_flatten]
    exact fun a ha => inRanges_mono (by simp) ha
  · rw [length_flatMap_const (n := 16) fun e => leBytes_length _ _]
    exact fun a ha => inRanges_mono (by simp) ha
  · rw [leBytes_length]
    exact fun a ha => inRanges_mono (by simp) ha

/-- The record is written last, so it stands. -/
theorem State.writeBasket_record (hl : s.operand lists = some l) (hy : s.operand trail = some y) {k i : Nat}
    (hk : s.rowPlace (some m) 0 lists l 0 = .own k) (hi : i < 64) :
    (s.writeBasket m lists trail b).memory.mem.byte? (k + i) = (leBytes (b.record m) 64)[i]? := by
  rw [State.writeBasket_eq hl hy, hk, State.placeStore, State.store_byte, leBytes_length, if_pos (by omega), Nat.add_sub_cancel_left]

/-! ### What a sampled basket counts (R217) -/

/-- A basket counts in its region's sampler. -/
def State.countBasket (s : State) (c : CtxId) (b : Basket) : State :=
  { s with rambler := modifyAt s.rambler c.region.val fun r => { r with
    baskets := r.baskets + 1, clipped := addN r.clipped (bit (b.clipHop != 0)), edges := addN r.edges b.trail.length
    candidates := addN r.candidates b.calls, remoteEdges := addN r.remoteEdges b.remote } }

/-- A basket is written, and its substitutions are counted. -/
def State.writeCounted (s : State) (m : MicroBatch) (lists trail : Nat) (b : Basket) : State :=
  b.defaults.foldl (fun s id => s.countDefault id) (s.writeBasket m lists trail b).draw

theorem State.writeCounted_within (s : State) (m : MicroBatch) (lists trail : Nat) (b : Basket) :
    (s.writeBasket m lists trail b).within [.draws, .tables] (s.writeCounted m lists trail b) :=
  State.within_fold (fun _ _ hw => State.countDefault_within hw (by decide)) (State.draw_within (State.within_refl _ _) (by decide))

theorem State.countBasket_within (s : State) (c : CtxId) (b : Basket) : s.within [.rambler] (s.countBasket c b) :=
  ⟨fun p hp => by cases p <;> first | exact absurd (by decide) hp | rfl, id⟩

theorem exec_sample {o : Op} {basket seeds : Nat} (remote : List RemoteSector) (h : s.runsItem c false x o) (hm : s.itemMb x = some m)
    (hbody : o.body = .sample basket seeds lists trail) :
    exec (.sample c remote) s = .next (if s.tables.stalled.contains c.region then s else
      match s.sampleBasket m o (s.slotCfg.basketOf basket) seeds remote with
      | .error f => if f.code = 0 then s.awaitSector c f.sector else (s.dropSample c f).draw
      | .ok b => ((s.writeCounted m lists trail b).countBasket c b).finish c) := by
  change execSample c remote s = _
  rw [execSample, State.runItem_of_runsItem h, hm, hbody]
  rfl

end

/-- Settles O34: a region that stalls samples nothing; else the basket or the fault of its hops decides, and a sector asked for is waited for. -/
theorem sampling : Obligations.Sampling := by
  unfold Obligations.Sampling
  intro s c x o m basket seeds lists trail remote h hm hbody
  have hexec := exec_sample remote h hm hbody
  refine ⟨fun hstalled => ⟨s, ?_, rfl⟩, fun hfree => ⟨fun b l y hb hl hy => ?_, fun f hf => ?_⟩⟩
  · rw [hexec, if_pos hstalled]
  · rw [if_neg (by rw [hfree]; decide), hb] at hexec
    refine ⟨_, hexec, ?_⟩
    have hwritten : s.within [.logs, .memory, .links, .bytes] (s.writeBasket m lists trail b) :=
      State.writeBasket_within (State.within_refl s _) (List.Subset.refl _)
    have hcounted := s.writeCounted_within m lists trail b
    have hctx : ((s.writeCounted m lists trail b).countBasket c b).ctx c = some x := by
      rw [State.ctx, ((State.countBasket_within _ c b).sched (by decide)), hcounted.sched (by decide), hwritten.sched (by decide)]
      exact h.1
    have hmem : (((s.writeCounted m lists trail b).countBasket c b).finish c).memory.mem = (s.writeBasket m lists trail b).memory.mem := by
      rw [State.finish_of_ctx hctx, State.setCtx_memory, (State.countBasket_within _ c b).memory (by decide), hcounted.memory (by decide)]
    dsimp only
    refine ⟨State.finish_ctx hctx, (State.writeBasket_bytesOnlyIn hl hy).of_mem hmem, fun k i hk hi => ?_, ?_, ?_⟩
    · rw [hmem]
      exact State.writeBasket_record hl hy hk hi
    · rw [State.finish_of_ctx hctx, State.setCtx_rambler, State.countBasket, hcounted.rambler (by decide), hwritten.rambler (by decide)]
      simp [modifyAt]
    · have hall : s.within [.draws, .logs, .sched, .memory, .tables, .rambler, .links, .bytes] (s.writeCounted m lists trail b) :=
        State.within_step hcounted (State.writeBasket_within (State.within_refl s _) (by decide)) (by decide)
      exact (State.finish_within (State.within_step (State.countBasket_within _ c b) hall (by decide)) (by decide)).1
  · rw [if_neg (by rw [hfree]; decide), hf] at hexec
    refine ⟨fun hcode => ⟨_, hexec.trans (congrArg Host.Outcome.next (if_neg hcode)), rfl⟩, fun hcode hasked => ?_,
      fun y hcode hasked hearly => ?_, fun y hcode hasked hlate => ?_⟩
    all_goals
      replace hexec := hexec.trans (congrArg Host.Outcome.next (if_pos hcode))
      rw [State.awaitSector, hasked] at hexec
    · exact ⟨_, hexec, rfl, h.1, fun p hp => by cases p <;> first | exact absurd (by decide) hp | rfl⟩
    · exact ⟨_, hexec.trans (congrArg Host.Outcome.next (if_pos hearly)), rfl⟩
    · exact ⟨_, hexec.trans (congrArg Host.Outcome.next (if_neg (by omega))), State.timeOut_regions _, State.timeOut_errorCounts _,
        State.timeOut_memory _⟩

end Sys2Proof.Machine
end


section
/-! PROOFS. ACTIVATE, NORMALISE and LOSS (R136, R137, R242, R306). -/

namespace Sys2Proof.Machine

set_option Elab.async false

/-! ### Rows read and written -/

section
variable {s0 s : State}

theorem State.inputRows_length (x : TaskContext) (m : MicroBatch) (v i : Nat) (a : Operand) : (s.inputRows x m v i a).length = a.m := by
  simp only [State.inputRows]
  split
  · simp
  · split
    · split <;> simp
    · split <;> simp

/-- Rows written in ascending order change only their own bytes. -/
theorem State.writeRows_bytesOnlyIn (m : MicroBatch) (i : Nat) (x : Operand) (rows : List (List (BitVec 32))) :
    s.bytesOnlyIn (s.writeRows m i x rows) (s.rowRanges (some m) i x rows.length) := by
  have hwrite (u : State) (r : List (BitVec 32) × Nat) (hr : r ∈ rows.zipIdx) (hu : s.within [.logs, .memory, .links, .bytes] u)
      (hb : s.bytesOnlyIn u (s.rowRanges (some m) i x rows.length)) :
      s.bytesOnlyIn (u.writeRow (some m) 0 i x r.2 (valsOf r.1) false) (s.rowRanges (some m) i x rows.length) := by
    refine State.writeRow_bytesOnlyIn hb fun a ha => ?_
    rw [hu.rowPlace (by decide)] at ha
    exact inRanges_flatMap (List.mem_range.2 (List.snd_lt_of_mem_zipIdx hr)) ha
  have hfold : ∀ (ls : List (List (BitVec 32) × Nat)) (u : State), (∀ r ∈ ls, r ∈ rows.zipIdx) → s.within [.logs, .memory, .links, .bytes] u →
      s.bytesOnlyIn u (s.rowRanges (some m) i x rows.length) →
      s.bytesOnlyIn (ls.foldl (fun s r => s.writeRow (some m) 0 i x r.2 (valsOf r.1) false) u) (s.rowRanges (some m) i x rows.length) := by
    intro ls
    induction ls with
    | nil => exact fun _ _ _ hb => hb
    | cons r ls ih =>
      exact fun u hls hu hb => ih _ (fun q hq => hls q (by simp [hq])) (State.writeRow_within hu (List.Subset.refl _))
        (hwrite u r (hls r (by simp)) hu hb)
  exact hfold _ s (fun _ h => h) (State.within_refl s _) (State.bytesOnlyIn_refl s _)

theorem State.rowRanges_congr {t : State} {L : List Part} (hw : s.within L t) (hp : .cfg ∉ L ∧ .run ∉ L ∧ .start ∉ L) (m : Option MicroBatch)
    (i : Nat) (x : Operand) (n : Nat) : t.rowRanges m i x n = s.rowRanges m i x n := by
  simp only [State.rowRanges, hw.rowPlace hp]

theorem State.within.operand {t : State} {L : List Part} (hw : s.within L t) (hp : .cfg ∉ L ∧ .run ∉ L) (i : Nat) :
    t.operand i = s.operand i := by
  rw [State.operand, State.operand, State.slotCfg, State.slotCfg, hw.cfg hp.1, hw.run hp.2]

/-- The item has run: its context says so, and no byte changes. -/
theorem State.endForward_draw_ctx {c : CtxId} {x : TaskContext} (hctx : s.ctx c = some x) (k : Nat) :
    ((s.endForward c k).draw).ctx c = some (x.ran k) := State.endForward_ctx hctx k

theorem State.endForward_mem (c : CtxId) (k : Nat) : (s.endForward c k).memory.mem = s.memory.mem :=
  (State.endForward_within (State.within_refl s [.sched]) (List.Subset.refl _)).mem (by decide)

theorem State.endForward_draw_mem (c : CtxId) (k : Nat) : ((s.endForward c k).draw).memory.mem = s.memory.mem := s.endForward_mem c k

theorem State.endForward_mbs (c : CtxId) (k : Nat) : (s.endForward c k).mbs = s.mbs :=
  (State.endForward_within (State.within_refl s [.sched]) (List.Subset.refl _)).mbs (by decide)

theorem State.ctx_of_within {t : State} {L : List Part} (hw : s.within L t) (hp : .sched ∉ L) {c : CtxId} {y : Option TaskContext}
    (h : s.ctx c = y) : t.ctx c = y := by
  rw [State.ctx, hw.sched hp]
  exact h

/-- Rows written by an item that has read `u`: the item has run, and only bytes of the rows change. -/
theorem State.writeRows_effect {u : State} {c : CtxId} {x : TaskContext} {L : List Part} (hw : u.within L s)
    (hp : .sched ∉ L ∧ .bytes ∉ L ∧ .cfg ∉ L ∧ .run ∉ L ∧ .start ∉ L) (hctx : u.ctx c = some x) (k : Nat) (m : MicroBatch) (i : Nat)
    (b : Operand) {rows : List (List (BitVec 32))} {n : Nat} (hn : rows.length = n) :
    (((s.writeRows m i b rows).endForward c k).draw).ctx c = some (x.ran k) ∧
      u.bytesOnlyIn (((s.writeRows m i b rows).endForward c k).draw) (u.rowRanges (some m) i b n) := by
  obtain ⟨hsched, hbytes, hplace⟩ := hp
  have hwritten := State.writeRows_within (m := m) (i := i) (x := b) (rows := rows) (State.within_refl s [.logs, .memory, .links, .bytes])
    (List.Subset.refl _)
  refine ⟨State.endForward_draw_ctx (State.ctx_of_within hwritten (by decide) (State.ctx_of_within hw hsched hctx)) k, ?_⟩
  have hrows := s.writeRows_bytesOnlyIn m i b rows
  rw [hn, State.rowRanges_congr hw hplace] at hrows
  exact (((State.bytesOnlyIn_refl u _).within hw hbytes).trans hrows).of_mem (State.endForward_draw_mem c k)

end

/-! ### ACTIVATE and NORMALISE (R136) -/

section
variable {s u : State} {c : CtxId} {x : TaskContext} {o : Op} {k : Nat} {m : MicroBatch} {a b : Operand}

theorem exec_activate {i out f : Nat} (h : s.runsForward c x o k u) (hm : u.viewMb x = some m) (hbody : o.body = .activate i out f)
    (ha : u.operand i = some a) (hb : u.operand out = some b) : exec (.activate c) s = .next
      (if (u.inputRows x m 0 i a).any (·.poison) || (u.noteOperand c (some m) 0 i a).readsBad c then (u.noteOperand c (some m) 0 i a).dropPoison c
        else (((u.noteOperand c (some m) 0 i a).writeRows m out b
          ((u.inputRows x m 0 i a).map fun r => (f32s r.vals).map (Machine.activate f))).endForward c k).draw) := by
  change execActivate c s = _
  rw [execActivate, State.runForward_eq h, hbody, hm]
  simp only [ha, hb]

/-- The state once the input and the affine rows of a NORMALISE are read. -/
def State.noteNormalise (s : State) (c : CtxId) (m : MicroBatch) (n : NormaliseOp) (a : Operand) : State :=
  let r := s.noteOperand c (some m) 0 n.inp a
  (r.operand n.affine).elim r fun z => r.noteOperand c (some m) m.weightV n.affine z

theorem State.noteNormalise_within (n : NormaliseOp) : u.within [.dial, .logs, .memory] (u.noteNormalise c m n a) := by
  have hin : u.within [.dial, .logs, .memory] (u.noteOperand c (some m) 0 n.inp a) :=
    State.noteOperand_within (State.within_refl u _) (List.Subset.refl _)
  rw [State.noteNormalise]
  exact State.within_elim (fun z => State.noteOperand_within hin (List.Subset.refl _)) hin

theorem exec_normalise {n : NormaliseOp} (h : s.runsForward c x o k u) (hm : u.viewMb x = some m) (hbody : o.body = .normalise n)
    (ha : u.operand n.inp = some a) (hb : u.operand n.out = some b) : exec (.normalise c) s = .next
      (if (u.inputRows x m 0 n.inp a).any (·.poison) || (u.affineRows m n).2.2 || (u.noteNormalise c m n a).readsBad c then
          (u.noteNormalise c m n a).dropPoison c
        else (((u.noteNormalise c m n a).writeRows m n.out b ((u.inputRows x m 0 n.inp a).map fun r =>
          Config.normaliseRow n.kind n.eps (u.affineRows m n).1 (u.affineRows m n).2.1 (f32s r.vals))).endForward c k).draw) := by
  change execNormalise c s = _
  rw [execNormalise, State.runForward_eq h, hbody, hm]
  simp only [ha, hb]
  rfl

/-! ### LOSS (R137) -/

/-- A target row's codes. -/
def State.targetCodes (s : State) (m : MicroBatch) (target : Nat) (b : Operand) (r : Nat) : List Nat :=
  let row := s.rowNum (some m) 0 target b r
  if b.format = 0xC then [field row 0 64] else (List.range b.n).map fun j => storedCode b.format row j

/-- Target rows that LOSS does not ignore. -/
def State.liveTargets (s : State) (m : MicroBatch) (target : Nat) (b : Operand) : List Nat :=
  (List.range b.m).filter fun r => !(b.format == 0xC && (s.targetCodes m target b r).headD 0 == ignoredTarget)

/-- Losses and gradient rows of the targets. -/
def State.lossRows (s : State) (m : MicroBatch) (kind : Nat) (margin : BitVec 32) (target : Nat) (b : Operand) (logits : List (List (BitVec 32))) :
    List (Word × List (Nat × List (BitVec 32))) :=
  (s.liveTargets m target b).map fun r => lossOf kind margin logits r (s.targetCodes m target b r)

/-- Samples and losses add to the micro-batch's. -/
def State.countLosses (s : State) (m : MicroBatch) (n : Nat) (ls : List (Word × List (Nat × List (BitVec 32)))) : State :=
  s.onMb m.mb m.step fun m => { m with samples := m.samples + n, loss := ls.foldl (fun a l => add64 a l.1) m.loss }

/-- A gradient row adds to the row of its logits. -/
def giveGrad (gs : List (List (BitVec 32))) (g : Nat × List (BitVec 32)) : List (List (BitVec 32)) := modifyAt gs g.1 fun r => addRows r g.2

/-- The gradient of the logits. -/
def lossGrad (a : Operand) (ls : List (Word × List (Nat × List (BitVec 32)))) : List (List (BitVec 32)) :=
  (ls.flatMap (·.2)).foldl giveGrad (List.replicate a.m (List.replicate a.n 0))

theorem lossGrad_length (a : Operand) (ls : List (Word × List (Nat × List (BitVec 32)))) : (lossGrad a ls).length = a.m :=
  List.foldlRecOn (motive := fun gs : List (List (BitVec 32)) => gs.length = a.m) _ _ List.length_replicate fun gs hgs g _ => by
    rw [giveGrad, modifyAt_length, hgs]

/-- The gradient's rows are written where the item is not of an evaluation. -/
def State.writeLossGrad (s : State) (o : Op) (m : MicroBatch) (grad : Nat) (gs : List (List (BitVec 32))) : State :=
  if o.eval then s else (s.operand grad).elim s fun z => s.writeRows m grad z gs

/-- Logits and targets are read. -/
def State.noteLoss (s : State) (c : CtxId) (m : MicroBatch) (logits target : Nat) (a b : Operand) : State :=
  (s.noteOperand c (some m) 0 logits a).noteOperand c (some m) 0 target b

theorem State.noteLoss_within (logits target : Nat) : u.within [.dial, .logs, .memory] (u.noteLoss c m logits target a b) :=
  State.noteOperand_within (State.noteOperand_within (State.within_refl u _) (List.Subset.refl _)) (List.Subset.refl _)

/-- The losses of the live targets count. -/
def State.lossCounted (s : State) (c : CtxId) (x : TaskContext) (m : MicroBatch) (kind : Nat) (margin : BitVec 32) (logits target : Nat) (a b : Operand) :
    State :=
  let v := s.noteLoss c m logits target a b
  v.countLosses m (v.liveTargets m target b).length (v.lossRows m kind margin target b ((s.inputRows x m 0 logits a).map fun r => f32s r.vals))

theorem exec_loss {logits target grad kind : Nat} {margin : BitVec 32} (h : s.runsForward c x o k u) (hm : u.viewMb x = some m)
    (hbody : o.body = .loss logits target grad kind margin) (ha : u.operand logits = some a) (hb : u.operand target = some b) :
    exec (.loss c) s = .next (if (u.inputRows x m 0 logits a).any (·.poison) || u.operandPoisoned (some m) 0 target b || u.readsBad c then
        (u.noteLoss c m logits target a b).dropPoison c
      else (((u.lossCounted c x m kind margin logits target a b).writeLossGrad o m grad (lossGrad a
        ((u.noteLoss c m logits target a b).lossRows m kind margin target b
          ((u.inputRows x m 0 logits a).map fun r => f32s r.vals)))).endForward c k).draw) := by
  change execLoss c s = _
  rw [execLoss, State.runForward_eq h, hbody, hm]
  simp only [ha, hb]
  rfl

/-- What targets are read from. -/
theorem State.targetCodes_congr {t : State} {L : List Part} (hw : u.within L t) (hp : .cfg ∉ L ∧ .run ∉ L ∧ .start ∉ L) (hd : .draws ∉ L)
    (hb : .bytes ∉ L) (target r : Nat) : t.targetCodes m target b r = u.targetCodes m target b r := by
  have hnum (p : Place) (n : Nat) : t.placeNum p n = u.placeNum p n := by
    cases p with
    | own key => simp only [State.placeNum, State.numAt, State.bytesAt, State.byteAt, hw.mem hb, hw.draws hd]
    | remote addr => simp only [State.placeNum, hw.draws hd]
  simp only [State.targetCodes, State.rowNum, hw.rowPlace hp, hnum]

theorem State.liveTargets_congr {t : State} {L : List Part} (hw : u.within L t) (hp : .cfg ∉ L ∧ .run ∉ L ∧ .start ∉ L) (hd : .draws ∉ L)
    (hb : .bytes ∉ L) (target : Nat) : t.liveTargets m target b = u.liveTargets m target b := by
  simp only [State.liveTargets, State.targetCodes_congr hw hp hd hb]

/-- Samples and losses of the micro-batch, added in ascending row. -/
theorem State.lossCounted_mbs (kind : Nat) (margin : BitVec 32) (logits target : Nat) : (u.lossCounted c x m kind margin logits target a b).mbs =
    u.mbs.map fun q => if q.mb == m.mb && q.step == m.step then
      { q with samples := q.samples + (u.liveTargets m target b).length
               loss := (u.liveTargets m target b).foldl (fun acc r => add64 acc
                 (lossOf kind margin ((u.inputRows x m 0 logits a).map fun r => f32s r.vals) r (u.targetCodes m target b r)).1) q.loss }
      else q := by
  have hnoted := u.noteLoss_within (c := c) (m := m) (a := a) (b := b) logits target
  simp only [State.lossCounted, State.countLosses, State.onMb, State.lossRows, List.foldl_map, hnoted.mbs (by decide),
    State.liveTargets_congr hnoted (by decide) (by decide) (by decide), State.targetCodes_congr hnoted (by decide) (by decide) (by decide)]

theorem State.lossCounted_within (kind : Nat) (margin : BitVec 32) (logits target : Nat) :
    u.within [.dial, .logs, .mbs, .memory] (u.lossCounted c x m kind margin logits target a b) := by
  rw [State.lossCounted]
  exact State.onMb_within (State.within_step (State.noteLoss_within logits target) (State.within_refl u _) (by decide)) (by decide)

theorem State.writeLossGrad_within (grad : Nat) (gs : List (List (BitVec 32))) :
    s.within [.logs, .memory, .links, .bytes] (s.writeLossGrad o m grad gs) := by
  rw [State.writeLossGrad]
  exact State.within_ite (State.within_refl s _) (State.within_elim (fun z =>
    State.writeRows_within (State.within_refl s _) (List.Subset.refl _)) (State.within_refl s _))

theorem State.writeLossGrad_bytesOnlyIn (grad : Nat) (gs : List (List (BitVec 32))) : s.bytesOnlyIn (s.writeLossGrad o m grad gs)
    (if o.eval then [] else (s.operand grad).elim [] fun z => s.rowRanges (some m) grad z gs.length) := by
  rw [State.writeLossGrad]
  split
  · exact State.bytesOnlyIn_refl s _
  · cases s.operand grad with
    | none => exact State.bytesOnlyIn_refl s _
    | some z => exact s.writeRows_bytesOnlyIn m grad z gs

end

/-- Settles O29: poison drops the micro-batch; clean rows are written in ascending order, and LOSS counts the rows that it does not ignore. -/
theorem poolForward : Obligations.PoolForward := by
  unfold Obligations.PoolForward
  intro s c x o k u m h hm
  have hctx := State.runsForward_ctx h
  refine ⟨fun i out f a b hbody ha hb => ?_, fun n a b hbody ha hb => ?_, fun logits target grad kind margin a b hbody ha hb => ?_⟩
  · have hexec := exec_activate h hm hbody ha hb
    refine ⟨fun hbad => ⟨_, hexec.trans (congrArg Host.Outcome.next (if_pos hbad)), rfl⟩, fun hclean => ?_⟩
    replace hexec := hexec.trans (congrArg Host.Outcome.next (if_neg (ne_true_of_eq_false hclean)))
    obtain ⟨hran, hbytes⟩ := State.writeRows_effect
      (State.noteOperand_within (c := c) (m := some m) (v := 0) (i := i) (x := a) (State.within_refl u [.dial, .logs, .memory]) (List.Subset.refl _))
      (by decide) hctx k m out b (List.length_map (f := fun r : KeptRow => (f32s r.vals).map (Machine.activate f)) |>.trans
        (u.inputRows_length x m 0 i a))
    exact ⟨_, hexec, rfl, hran, hbytes, onlyIn_of_exec hexec⟩
  · have hexec := exec_normalise h hm hbody ha hb
    refine ⟨fun hbad => ⟨_, hexec.trans (congrArg Host.Outcome.next (if_pos hbad)), rfl⟩, fun hclean => ?_⟩
    replace hexec := hexec.trans (congrArg Host.Outcome.next (if_neg (ne_true_of_eq_false hclean)))
    obtain ⟨hran, hbytes⟩ := State.writeRows_effect (u.noteNormalise_within (c := c) (m := m) (a := a) n) (by decide) hctx k m n.out b
      (List.length_map (f := fun r : KeptRow => Config.normaliseRow n.kind n.eps (u.affineRows m n).1 (u.affineRows m n).2.1 (f32s r.vals)) |>.trans
        (u.inputRows_length x m 0 n.inp a))
    exact ⟨_, hexec, rfl, hran, hbytes, onlyIn_of_exec hexec⟩
  · have hexec := exec_loss h hm hbody ha hb
    refine ⟨fun hbad => ⟨_, hexec.trans (congrArg Host.Outcome.next (if_pos hbad)), rfl⟩, fun hclean => ?_⟩
    replace hexec := hexec.trans (congrArg Host.Outcome.next (if_neg (ne_true_of_eq_false hclean)))
    have hcounted := u.lossCounted_within (c := c) (x := x) (m := m) (a := a) (b := b) kind margin logits target
    refine ⟨_, hexec, ?_, onlyIn_of_exec hexec, ?_, ?_⟩
    · exact State.endForward_draw_ctx (State.ctx_of_within (State.writeLossGrad_within grad _) (by decide)
        (State.ctx_of_within hcounted (by decide) hctx)) k
    · have hwritten := (u.lossCounted c x m kind margin logits target a b).writeLossGrad_bytesOnlyIn (o := o) (m := m) grad
        (lossGrad a ((u.noteLoss c m logits target a b).lossRows m kind margin target b ((u.inputRows x m 0 logits a).map fun r => f32s r.vals)))
      simp only [lossGrad_length, State.rowRanges_congr hcounted (by decide), hcounted.operand (by decide)] at hwritten
      exact (((State.bytesOnlyIn_refl u _).within hcounted (by decide)).trans hwritten).of_mem (State.endForward_draw_mem c k)
    · refine Eq.trans ?_ (State.lossCounted_mbs (c := c) (b := b) kind margin logits target)
      exact (State.endForward_mbs c k).trans ((State.writeLossGrad_within grad _).mbs (by decide))

end Sys2Proof.Machine
end


section
/-! PROOFS. SPOUT within its arguments (R122, R139, R176, R242, R306, R337). -/

namespace Sys2Proof.Machine

set_option Elab.async false

/-! ### Where rows of tables stand

Writing a row of a table logs the write in its directory entry; where rows and their Cooler copies stand is the same afterwards. -/

def DirEntry.strip (d : DirEntry) : DirEntry := { d with log := [], overflow := false }

/-- The tables without what their directory entries log. -/
def TablesState.rows (x : TablesState) : TablesState := { x with directory := x.directory.map DirEntry.strip }

structure State.sameRows (s t : State) : Prop where
  cfg   : t.cfg = s.cfg
  start : t.start = s.start
  run   : t.run = s.run
  train : t.train = s.train
  rows  : t.tables.rows = s.tables.rows

section
variable {s0 s t : State}

theorem State.sameRows_refl (s : State) : s.sameRows s := ⟨rfl, rfl, rfl, rfl, rfl⟩

theorem State.sameRows.trans (h : s0.sameRows s) (h' : s.sameRows t) : s0.sameRows t :=
  ⟨h'.cfg.trans h.cfg, h'.start.trans h.start, h'.run.trans h.run, h'.train.trans h.train, h'.rows.trans h.rows⟩

theorem State.sameRows_of_within {L : List Part} (hw : s.within L t)
    (hp : .cfg ∉ L ∧ .start ∉ L ∧ .run ∉ L ∧ .train ∉ L ∧ .tables ∉ L := by decide) : s.sameRows t := by
  obtain ⟨hcfg, hstart, hrun, htrain, htables⟩ := hp
  exact ⟨hw.cfg hcfg, hw.start hstart, hw.run hrun, hw.train htrain, by rw [hw.tables htables]⟩

theorem State.rowKey_eq_strip (s : State) (tb : TableDesc) (b : Bool) (node : Nat) (e : ShardEntry) (off : Nat) : s.rowKey tb b node e off =
    ((if tb.migrate then (s.tables.rows.directory.find? fun e => e.table == tb.id && e.node == node) else none).elim (homeKey tb b e off) fun d =>
      if d.state = .live ∨ d.demote then d.location else homeKey tb b e off) := by
  have hfind : (s.tables.rows.directory.find? fun e => e.table == tb.id && e.node == node) = (s.dirEntry tb.id node).map DirEntry.strip := by
    rw [TablesState.rows, List.find?_map]
    rfl
  rw [hfind, State.rowKey]
  cases tb.migrate with
  | false => rfl
  | true => cases s.dirEntry tb.id node <;> rfl

variable (h : s.sameRows t)
include h

theorem State.sameRows.layout : t.layout = s.layout := by
  have hactive : t.tables.activeLayout = s.tables.activeLayout := congrArg (a₁ := t.tables.rows) (a₂ := s.tables.rows) TablesState.activeLayout h.rows
  rw [State.layout, State.layout, h.cfg, hactive]

theorem State.sameRows.liveVersion (id : Nat) : t.liveVersion id = s.liveVersion id := by
  have htables : t.tables.tables = s.tables.tables := congrArg (a₁ := t.tables.rows) (a₂ := s.tables.rows) TablesState.tables h.rows
  rw [State.liveVersion, State.liveVersion, htables]

theorem State.sameRows.ownRowKey (tb : TableDesc) (b : Bool) (node : Nat) : t.ownRowKey tb b node = s.ownRowKey tb b node := by
  have hcoord : t.coord = s.coord := by rw [State.coord, State.coord, h.start]
  simp only [State.ownRowKey, State.ownRowHome, State.lookup, h.layout, hcoord, State.rowKey_eq_strip, h.rows]

theorem State.sameRows.coolerCopies (tb : TableDesc) (b : Bool) (node : Nat) : t.coolerCopies tb b node = s.coolerCopies tb b node := by
  have hcoolers : t.tables.coolers = s.tables.coolers := congrArg (a₁ := t.tables.rows) (a₂ := s.tables.rows) TablesState.coolers h.rows
  simp only [State.coolerCopies, State.cooler, hcoolers]

theorem State.sameRows.argNode (tb : TableDesc) (off : Nat) : t.argNode tb off = s.argNode tb off := by
  simp only [State.argNode, State.ownsEntry, h.layout, h.start]

theorem State.sameRows.tableKey (tb : TableDesc) (off : Nat) : t.tableKey tb off = s.tableKey tb off := by
  simp only [State.tableKey, h.argNode, h.ownRowKey, h.liveVersion]

theorem State.sameRows.operand (i : Nat) : t.operand i = s.operand i := by
  rw [State.operand, State.operand, State.slotCfg, State.slotCfg, h.cfg, h.run]

theorem State.sameRows.table (id : Nat) : t.table id = s.table id := by rw [State.table, State.table, h.cfg]

theorem State.sameRows.operandBase (m : Option MicroBatch) (version i : Nat) (x : Operand) :
    t.operandBase m version i x = s.operandBase m version i x := by
  have hslot : t.slotCfg = s.slotCfg := by rw [State.slotCfg, State.slotCfg, h.cfg, h.run]
  have hcoord : t.coord = s.coord := by rw [State.coord, State.coord, h.start]
  simp only [State.operandBase, State.placeOf, hslot, hcoord]

theorem State.sameRows.weightVersion : t.weightVersion = s.weightVersion := by rw [State.weightVersion, State.weightVersion, h.train, h.run]

end

/-! ### A row written in part (R176, R179, R182) -/

section
variable {s0 s : State} {R : List (Nat × Nat)}

/-- A write to a row of a table is logged in its directory entry. -/
def DirEntry.noteWrite (tb : TableDesc) (node o : Nat) (bs : List Byte) (d : DirEntry) : DirEntry :=
  if d.table = tb.id ∧ d.node = node ∧ (d.state ≠ .live ∨ d.demote) then
    if d.log.length < 2 then { d with log := d.log ++ [(o, bs)] } else { d with overflow := true }
  else d

theorem DirEntry.strip_noteWrite (tb : TableDesc) (node o : Nat) (bs : List Byte) (d : DirEntry) :
    (d.noteWrite tb node o bs).strip = d.strip := by
  rw [DirEntry.noteWrite]
  split
  · split <;> rfl
  · rfl

/-- The write to the row itself, before its Cooler copies. -/
def State.storeHome (s : State) (tb : TableDesc) (node o k : Nat) (bs : List Byte) (poisoned : Bool) : State :=
  ((s.onTables fun x => { x with directory := x.directory.map (DirEntry.noteWrite tb node o bs) }).store (k + o) bs poisoned).replayMoves (k + o)
    bs.length

theorem State.storeRow_eq (tb : TableDesc) (b : Bool) (node o : Nat) (bs : List Byte) (poisoned : Bool) : s.storeRow tb b node o bs poisoned =
    (s.ownRowKey tb b node).elim s fun k =>
      ((s.storeHome tb node o k bs poisoned).coolerCopies tb b node).foldl (fun s k => s.store (k + o) bs poisoned)
        (s.storeHome tb node o k bs poisoned) := by
  rw [State.storeRow]
  cases s.ownRowKey tb b node <;> rfl

theorem State.store_keepsRows (k : Nat) (bs : List Byte) (poisoned : Bool) : s.sameRows (s.store k bs poisoned) :=
  State.sameRows_of_within (State.store_within (State.within_refl s [.memory, .bytes]) (List.Subset.refl _))

theorem State.storeHome_keepsRows (tb : TableDesc) (node o k : Nat) (bs : List Byte) (poisoned : Bool) :
    s.sameRows (s.storeHome tb node o k bs poisoned) := by
  have hnote : s.sameRows (s.onTables fun x => { x with directory := x.directory.map (DirEntry.noteWrite tb node o bs) }) := by
    refine ⟨rfl, rfl, rfl, rfl, ?_⟩
    simp only [State.onTables, TablesState.rows, List.map_map, Function.comp_def, DirEntry.strip_noteWrite]
  exact (hnote.trans (State.store_keepsRows (k + o) bs poisoned)).trans
    (State.sameRows_of_within (State.replayMoves_within (State.within_refl _ [.logs, .links]) (List.Subset.refl _)))

theorem State.storeRow_keepsRows (tb : TableDesc) (b : Bool) (node o : Nat) (bs : List Byte) (poisoned : Bool) :
    s.sameRows (s.storeRow tb b node o bs poisoned) := by
  rw [State.storeRow_eq]
  cases s.ownRowKey tb b node with
  | none => exact State.sameRows_refl s
  | some k =>
    exact List.foldlRecOn (motive := fun v : State => s.sameRows v) _ _ (State.storeHome_keepsRows tb node o k bs poisoned)
      fun v hv q _ => hv.trans (State.store_keepsRows (q + o) bs poisoned)

theorem State.storeRow_bytesOnlyIn (h : s0.bytesOnlyIn s R) {tb : TableDesc} {b : Bool} {node o : Nat} {bs : List Byte} {poisoned : Bool}
    (hR : ∀ k ∈ (s.ownRowKey tb b node).toList ++ s.coolerCopies tb b node, ∀ a, k + o ≤ a → a < k + o + bs.length → inRanges R a) :
    s0.bytesOnlyIn (s.storeRow tb b node o bs poisoned) R := by
  rw [State.storeRow_eq]
  cases hk : s.ownRowKey tb b node with
  | none => exact h
  | some k =>
    have hhome : s0.bytesOnlyIn (s.storeHome tb node o k bs poisoned) R := by
      refine State.bytesOnlyIn.within ?_ (State.replayMoves_within (State.within_refl _ [.logs, .links]) (List.Subset.refl _)) (by decide)
      exact State.store_bytesOnlyIn (h.of_mem rfl) (hR k (by simp [hk]))
    rw [Option.elim_some, (State.storeHome_keepsRows tb node o k bs poisoned).coolerCopies]
    exact State.bytesOnlyIn_fold hhome fun v q hq hv => State.store_bytesOnlyIn hv (hR q (by simp [hq]))

end

/-! ### A run of bytes cut at its rows -/

/-- A byte of a piece is a byte of the run, and the piece does not cross a row. -/
theorem rowPieces_mem {size off : Nat} {bs : List Byte} {p : Nat × List Byte} (hp : p ∈ rowPieces size off bs) {i : Nat} (hi : i < p.2.length) :
    ∃ j < bs.length, off + j = p.1 + i ∧ (p.1 + i) / size = p.1 / size ∧ (p.1 + i) % size = p.1 % size + i := by
  have hrow (q : Nat) (hq : q % size + i < size) : (q + i) / size = q / size ∧ (q + i) % size = q % size + i := by
    have hsize : 0 < size := by omega
    have hdiv := Nat.div_add_mod q size
    have hsplit : q + i = (q % size + i) + size * (q / size) := by omega
    rw [hsplit, Nat.add_mul_div_left _ _ hsize, Nat.add_mul_mod_self_left, Nat.div_eq_of_lt hq, Nat.mod_eq_of_lt hq]
    exact ⟨by omega, rfl⟩
  rw [rowPieces] at hp
  obtain rfl | hp := List.mem_cons.1 hp
  · simp only [List.length_take] at hi
    obtain ⟨hdiv, hmod⟩ := hrow off (by omega)
    exact ⟨i, by omega, rfl, hdiv, hmod⟩
  · obtain ⟨n, -, rfl⟩ := List.mem_map.1 hp
    simp only [List.length_take, List.length_drop] at hi
    have hsize : 0 < size := by omega
    have hhead : min bs.length (size - off % size) = size - off % size := by omega
    have hstart : (off + min bs.length (size - off % size) + size * n) % size = 0 := by
      rw [Nat.add_mul_mod_self_left, hhead]
      have hlt := Nat.mod_lt off hsize
      have hdiv := Nat.div_add_mod off size
      rw [show off + (size - off % size) = size * (off / size + 1) by rw [Nat.mul_add]; omega, Nat.mul_mod_right]
    obtain ⟨hdiv, hmod⟩ := hrow (off + min bs.length (size - off % size) + size * n) (by rw [hstart]; omega)
    exact ⟨min bs.length (size - off % size) + size * n + i, by omega, by omega, hdiv, hmod⟩

/-! ### The code's accesses (R139) -/

/-- The bytes that an access may change: of an operand's copy, or of the live rows of a table with their Cooler copies. -/
def State.accessRanges (s : State) (m : Option MicroBatch) (args : List Nat) (w : SpoutAccess) : List (Nat × Nat) :=
  match w with
  | .write a off bs => (s.operand (args.getD a.val noOperand)).elim [] fun y =>
    if y.kind = 4 then (s.table y.table).elim [] fun z => (List.range bs.length).flatMap fun j =>
      (((s.tableKey z (off + j)).toList ++ ((s.argNode z (off + j)).elim [] fun n =>
        (s.coolerCopies z (s.liveVersion z.id) n).map (· + (off + j) % z.argRow))).map fun k => (k, 1))
    else ((s.operandBase m s.weightVersion.toNat (args.getD a.val noOperand) y).plus off).range bs.length
  | _ => []

section
variable {s u : State} {R : List (Nat × Nat)}

/-- Rows stand where they did, and only bytes of the ranges changed. -/
structure State.spoutKeeps (u s : State) (R : List (Nat × Nat)) : Prop where
  rows  : u.sameRows s
  bytes : u.bytesOnlyIn s R

theorem State.spoutKeeps.within {t : State} {L : List Part} (h : u.spoutKeeps s R) (hw : s.within L t)
    (hp : (.cfg ∉ L ∧ .start ∉ L ∧ .run ∉ L ∧ .train ∉ L ∧ .tables ∉ L) ∧ .bytes ∉ L := by decide) : u.spoutKeeps t R :=
  ⟨h.rows.trans (State.sameRows_of_within hw hp.1), h.bytes.within hw hp.2⟩

/-- One piece of a run into a table: its bytes in the row and in every Cooler copy are of the ranges. -/
theorem State.storePiece_spoutKeeps (h : u.spoutKeeps s R) {z : TableDesc} {off : Nat} {bs : List Byte} {b : Nat × List Byte}
    (hb : b ∈ rowPieces z.argRow off bs)
    (hR : ∀ a, inRanges ((List.range bs.length).flatMap fun j => (((u.tableKey z (off + j)).toList ++ ((u.argNode z (off + j)).elim [] fun n =>
      (u.coolerCopies z (u.liveVersion z.id) n).map (· + (off + j) % z.argRow))).map fun k => (k, 1))) a → inRanges R a) :
    u.spoutKeeps ((s.argNode z b.1).elim s fun n => s.storeRow z (s.liveVersion z.id) n (b.1 % z.argRow) b.2 false) R := by
  cases hn : s.argNode z b.1 with
  | none => exact h
  | some n =>
    rw [Option.elim_some]
    refine ⟨h.rows.trans (State.storeRow_keepsRows _ _ _ _ _ _), State.storeRow_bytesOnlyIn h.bytes fun k hk a h1 h2 => hR a ?_⟩
    -- byte `i` of the piece is byte `j` of the run
    obtain ⟨i, hi, rfl⟩ : ∃ i, i < b.2.length ∧ a = k + b.1 % z.argRow + i := ⟨a - (k + b.1 % z.argRow), by omega, by omega⟩
    obtain ⟨j, hj, hpos, hdiv, hmod⟩ := rowPieces_mem hb hi
    have hnode : u.argNode z (off + j) = some n := by
      rw [hpos, State.argNode, hdiv]
      exact (h.rows.argNode z b.1).symm.trans hn
    refine inRanges_flatMap (List.mem_range.2 hj) (inRanges_of_mem (r := (k + b.1 % z.argRow + i, 1)) ?_ (Nat.le_refl _) (by simp))
    rw [h.rows.ownRowKey, h.rows.coolerCopies, h.rows.liveVersion] at hk
    refine List.mem_map.2 ⟨_, ?_, rfl⟩
    obtain hk | hk := List.mem_append.1 hk
    · refine List.mem_append_left _ (Option.mem_toList.2 ?_)
      rw [State.tableKey, hnode, Option.bind_some, Option.mem_toList.1 hk, hpos, hmod]
      exact congrArg some (Nat.add_assoc ..).symm
    · refine List.mem_append_right _ ?_
      rw [hnode, hpos, hmod]
      exact List.mem_map.2 ⟨k, hk, by omega⟩

theorem State.spoutRead_within (c : CtxId) (core : Nat) (m : Option MicroBatch) (args : List Nat) (a : Fin 4) (off n : Nat) :
    s.within [.dial, .logs, .memory] (s.spoutAccess c core m args (.read a off n)) := by
  have hread {v : State} (hv : s.within [.dial, .logs, .memory] v) (k n : Nat) : s.within [.dial, .logs, .memory] (v.noteReads k n (v.nameOf c)) :=
    State.noteReads_within hv (List.Subset.refl _)
  have hself := State.within_refl s [.dial, .logs, .memory]
  rw [State.spoutAccess]
  split
  · exact hself
  next x _ =>
    refine State.within_ite hself (State.within_ite ?_ ?_)
    · exact State.within_elim (fun t => State.within_fold (fun v j hv => State.within_elim (fun k =>
        State.within_ite (hread hv _ _) hv) hv) hself) hself
    · split
      · exact hread hself _ _
      · exact hself

theorem State.spoutAccess_spoutKeeps (h : u.spoutKeeps s R) (c : CtxId) (core : Nat) (m : Option MicroBatch) (args : List Nat) (w : SpoutAccess)
    (hR : ∀ a, inRanges (u.accessRanges m args w) a → inRanges R a) : u.spoutKeeps (s.spoutAccess c core m args w) R := by
  cases w with
  | read a off n => exact h.within (State.spoutRead_within c core m args a off n)
  | keep off bs => exact h.within (State.onMemory_within rfl (State.within_refl s [.memory]) (List.Subset.refl _))
  | write a off bs =>
    simp only [State.accessRanges] at hR
    rw [State.spoutAccess, h.rows.operand]
    cases hy : u.operand (args.getD a.val noOperand) with
    | none => exact h
    | some y =>
      rw [hy, Option.elim_some] at hR
      rw [Option.elim_some, h.rows.table]
      by_cases hkind : y.kind = 4
      · rw [if_pos hkind] at hR ⊢
        cases hz : u.table y.table with
        | none => exact h
        | some z =>
          rw [hz, Option.elim_some] at hR
          exact List.foldlRecOn (motive := fun v : State => u.spoutKeeps v R) _ _ h fun v hv b hb => State.storePiece_spoutKeeps hv hb hR
      · rw [if_neg hkind] at hR ⊢
        rw [h.rows.operandBase, h.rows.weightVersion]
        exact ⟨h.rows.trans (State.sameRows_of_within (State.placeStore_within (State.within_refl s [.logs, .memory, .links, .bytes])
          (List.Subset.refl _))), State.placeStore_bytesOnlyIn h.bytes hR⟩

/-- An item's accesses change only bytes that they may. -/
theorem State.spoutRun_bytesOnlyIn (c : CtxId) (core : Nat) (m : Option MicroBatch) (args : List Nat) (accesses : List SpoutAccess) :
    u.bytesOnlyIn (u.spoutRun c core m args accesses).1 (accesses.flatMap (u.accessRanges m args)) :=
  (List.foldlRecOn (motive := fun v : State × Bool => u.spoutKeeps v.1 (accesses.flatMap (u.accessRanges m args))) _ _
    ⟨State.sameRows_refl u, State.bytesOnlyIn_refl u _⟩ fun _ hv w hw =>
      State.spoutAccess_spoutKeeps hv c core m args w fun _ ha => inRanges_flatMap hw ha).bytes

/-! ### The item ends (R337, R338) -/

variable {c : CtxId} {x : TaskContext} {o : Op} {k code : Nat} {args : List Nat} {budget : Nat} {sub : Fin 32} {accesses : List SpoutAccess}

/-- An item of scope 0 or 1 runs on its own core. -/
theorem exec_spout_whole (h : s.runsForward c x o k u) (hbody : o.body = .spout code args budget)
    (hin : accesses.any (u.spoutBad args (o.scope == 0)) = false) (hscope : o.scope ≠ 2) : exec (.spout c sub accesses) s = .next
      (let r := u.spoutRun c (9 * c.region.val + x.unitIndex.toNat) (u.viewMb x) args accesses
        if o.scope == 0 && r.2 then r.1.dropPoison c else r.1.endForward c k) := by
  have hwhole : (o.scope != 2) = true := by simp [hscope]
  change execSpout c sub accesses s = _
  rw [execSpout, State.runForward_eq h, hbody]
  simp only [hwhole, hin, if_true, Bool.not_true, Bool.false_and, Bool.false_eq_true, if_false]

/-- A sub-item of scope 2 runs on a free core; the last of them ends the item. -/
theorem exec_spout_sub (h : s.runsForward c x o k u) (hbody : o.body = .spout code args budget)
    (hin : accesses.any (u.spoutBad args (o.scope == 0)) = false) (hscope : o.scope = 2) {core : Nat}
    (hcore : u.freeSpout (sub.val % 4) (some c) = some core) (hsub : x.subs.contains sub.val = false) : exec (.spout c sub accesses) s = .next
      (let v := (u.spoutRun c (9 * (sub.val % 4) + core) (u.viewMb x) args accesses).1.setCtx c { x with subs := x.subs ++ [sub.val] }
        if x.subs.length = 31 then v.endForward c k else v) := by
  have hwhole : (o.scope != 2) = false := by simp [hscope]
  have hzero : (o.scope == 0) = false := by simp [hscope]
  have hlast : ((x.subs ++ [sub.val]).length = 32) = (x.subs.length = 31) := by simp
  rw [hzero] at hin
  change execSpout c sub accesses s = _
  rw [execSpout, State.runForward_eq h, hbody]
  simp only [hwhole, hzero, hcore, hsub, hin, hlast, Bool.not_false, Bool.true_and, Bool.false_and, Bool.false_eq_true, if_false]

end

/-- Settles O30: a fold over the accesses whose rows stand still, then the end of the item or of the sub-item. -/
theorem spoutWrites : Obligations.SpoutWrites := by
  unfold Obligations.SpoutWrites
  intro s c x o k u code args budget sub accesses h hbody hin parts ran done own
  have hctx := State.runsForward_ctx h
  have hrun (core : Nat) : u.within [.dial, .logs, .memory, .tables, .links, .bytes] (ran core).1 :=
    State.spoutRun_within (State.within_refl u _) (List.Subset.refl _)
  have hctxRun (core : Nat) : (ran core).1.ctx c = some x := State.ctx_of_within (hrun core) (by decide) hctx
  have hdone (core : Nat) {t : State} (ht : (ran core).1.within [.sched] t) : done core t := by
    have hall : s.within [.dial, .logs, .mbs, .sched, .memory, .tables, .links, .bytes] (ran core).1 :=
      State.within_step (hrun core) (State.within_step (State.runsForward_within h) (State.within_refl s _) (by decide)) (by decide)
    exact ⟨(State.within_step ht hall (by decide)).1, (State.spoutRun_bytesOnlyIn c core (u.viewMb x) args accesses).within ht (by decide),
      ht.memory (by decide), ht.logs (by decide), ht.links (by decide)⟩
  refine ⟨fun hzero hpoison => ?_, fun hscope hclean => ?_, fun core hscope hcore hsub => ?_⟩
  · refine ⟨_, (exec_spout_whole h hbody hin (by omega)).trans (congrArg Host.Outcome.next (if_pos ?_)), rfl⟩
    rw [hzero]
    exact hpoison
  · refine ⟨_, (exec_spout_whole h hbody hin hscope).trans (congrArg Host.Outcome.next (if_neg ?_)), State.endForward_ctx (hctxRun own) k,
      hdone own (State.endForward_within (State.within_refl _ _) (List.Subset.refl _))⟩
    rw [Bool.and_eq_true, beq_iff_eq]
    exact fun hbad => absurd (show (ran own).2 = true from hbad.2) (by rw [hclean hbad.1]; decide)
  · have hset := State.setCtx_ctx_same (hctxRun (9 * (sub.val % 4) + core)) { x with subs := x.subs ++ [sub.val] }
    have hmoved := State.setCtx_within (c := c) (t := { x with subs := x.subs ++ [sub.val] })
      (State.within_refl (ran (9 * (sub.val % 4) + core)).1 [.sched]) (List.Subset.refl _)
    refine ⟨_, exec_spout_sub h hbody hin hscope hcore hsub, hdone _ ?_, fun hpart => ?_⟩
    · exact State.within_ite (State.endForward_within hmoved (List.Subset.refl _)) hmoved
    · dsimp only
      split
      · exact (State.endForward_ctx hset k).trans (by rw [TaskContext.ran, if_neg (by simp [hpart])])
      · exact hset


end Sys2Proof.Machine
end


section
/-! PROOFS. Backward parts of the Spout pool and of gathers (R140, R233, R237, R242, R291–R293, R296, R306). -/

namespace Sys2Proof.Machine

set_option Elab.async false

section
variable {s u : State} {c : CtxId} {x : TaskContext} {o : Op} {m : MicroBatch}

/-! ### A command reaches its backward part (R306, R307) -/

/-- A backward part whose reruns have run executes a command's body. -/
theorem State.runBackward_of_ready (hitem : s.runsItem c true x o) (hrerun : x.recompute = true → s.nextRerun x = none)
    (f : TaskContext → Op → State → State) : s.runBackward c f = f x o s := by
  have hready : ¬ (x.recompute && (s.nextRerun x).isSome) = true := by
    rw [Bool.and_eq_true]
    exact fun ⟨hrec, hsome⟩ => absurd hsome (by rw [hrerun hrec]; decide)
  rw [State.runBackward, State.runItem_of_runsItem hitem, if_neg hready]

/-- Its body follows the stash entries, where none of them is poisoned. -/
theorem State.runUnpoisoned_of_runsPart (h : s.runsPart c x o m u) (f : MicroBatch → State → State) : s.runUnpoisoned c x o f = f m u := by
  obtain ⟨-, -, hmb, hclean, rfl⟩ := h
  rw [State.runUnpoisoned, hmb]
  dsimp only
  rw [if_neg (by rw [hclean]; decide)]

theorem State.runBackward_of_runsPart (h : s.runsPart c x o m u) (f : TaskContext → Op → MicroBatch → State → State) :
    s.runBackward c (fun t o s => s.runUnpoisoned c t o (f t o)) = f x o m u := by
  rw [State.runBackward_of_ready h.1 h.2.1, State.runUnpoisoned_of_runsPart h]

/-- Reading the stash entries changes no context. -/
theorem State.runsPart_within (h : s.runsPart c x o m u) : s.within [.dial, .logs, .memory] u := by
  obtain ⟨-, -, -, -, rfl⟩ := h
  exact State.within_fold (fun _ _ hv => State.noteReads_within hv (List.Subset.refl _)) (State.within_refl s _)

theorem State.runsPart_ctx (h : s.runsPart c x o m u) : u.ctx c = some x :=
  State.ctx_of_within (State.runsPart_within h) (by decide) h.1.1

/-! ### ACTIVATE and NORMALISE (R292, R293, R296) -/

variable {a b : Operand}

theorem exec_activateBack {i out f : Nat} (h : s.runsPart c x o m u) (hbody : o.body = .activate i out f) (ha : u.operand i = some a)
    (hb : u.operand out = some b) : exec (.spoutPoolBackward c) s = .next
      (let from' := if f = 3 ∨ f = 4 then u.keptRows x m i a none else u.keptRows x m out b none
        if (u.gradRows m out b).2 || from'.any (·.poison) || u.readsBad c then u.dropPoison c else
        ((u.addGradRows m i (List.zipWith (fun g k => List.zipWith (fun p q => mul32 p (derivative f q)) g (f32s k.vals))
          (u.gradRows m out b).1 from')).finish c).draw) := by
  change execSpoutPoolBackward c s = _
  rw [execSpoutPoolBackward, State.runBackward_of_runsPart h, hbody]
  simp only [State.activateBack, ha, hb]

/-- Gradients of a NORMALISE's rows, with those of their gain and bias. -/
def State.normaliseGrads (s : State) (x : TaskContext) (m : MicroBatch) (n : NormaliseOp) (a b : Operand) :
    List (List (BitVec 32) × List (BitVec 32) × List (BitVec 32)) :=
  List.zipWith (fun g k => Config.normaliseRowBack n.kind n.eps (s.affineRows m n).1 (f32s k.vals) g) (s.gradRows m n.out b).1
    (s.keptRows x m n.inp a none)

/-- The gain's and the bias's gradients are staged. -/
def State.storeAffine (s : State) (k : Nat) (a : Operand) (rows : List (List (BitVec 32) × List (BitVec 32) × List (BitVec 32))) : State :=
  (s.store k (bytes32 (sumRows (rows.map (·.2.1)))) false).store (k + roundUp (4 * a.n) 64) (bytes32 (sumRows (rows.map (·.2.2)))) false

/-- The affine gradient goes to the micro-batch's staging copy, where the operation has one. -/
def State.stageAffine (s : State) (x : TaskContext) (o : Op) (m : MicroBatch) (a : Operand)
    (rows : List (List (BitVec 32) × List (BitVec 32) × List (BitVec 32))) : State :=
  if s.slotCfg.stagingBytes o = 0 then s else
  ((s.takeStaging m.mb m.step x.op.toNat o).itemMb x).elim (s.takeStaging m.mb m.step x.op.toNat o) fun z =>
    (s.takeStaging m.mb m.step x.op.toNat o).storeAffine ((s.takeStaging m.mb m.step x.op.toNat o).stagingBase z x.op.toNat o) a rows

theorem exec_normaliseBack {n : NormaliseOp} (h : s.runsPart c x o m u) (hbody : o.body = .normalise n) (ha : u.operand n.inp = some a)
    (hb : u.operand n.out = some b) : exec (.spoutPoolBackward c) s = .next
      (if (u.gradRows m n.out b).2 || (u.affineRows m n).2.2 || (u.keptRows x m n.inp a none).any (·.poison) || u.readsBad c then u.dropPoison c else
        (((u.addGradRows m n.inp ((u.normaliseGrads x m n a b).map (·.1))).stageAffine x o m a (u.normaliseGrads x m n a b)).finish c).draw) := by
  have hstage (v : State) (rows : List (List (BitVec 32) × List (BitVec 32) × List (BitVec 32))) :
      (if v.slotCfg.stagingBytes o = 0 then v else
        match (v.takeStaging m.mb m.step x.op.toNat o).itemMb x with
        | none => v.takeStaging m.mb m.step x.op.toNat o
        | some z => (v.takeStaging m.mb m.step x.op.toNat o).storeAffine ((v.takeStaging m.mb m.step x.op.toNat o).stagingBase z x.op.toNat o) a rows) =
        v.stageAffine x o m a rows := by
    rw [State.stageAffine]
    cases (v.takeStaging m.mb m.step x.op.toNat o).itemMb x <;> rfl
  change execSpoutPoolBackward c s = _
  rw [execSpoutPoolBackward, State.runBackward_of_runsPart h, hbody]
  simp only [State.normaliseBack, ha, hb, ← hstage]
  rfl

theorem State.stageAffine_within (rows : List (List (BitVec 32) × List (BitVec 32) × List (BitVec 32))) :
    s.within [.mbs, .memory, .bytes] (s.stageAffine x o m a rows) := by
  have htaken : s.within [.mbs, .memory, .bytes] (s.takeStaging m.mb m.step x.op.toNat o) :=
    State.takeStaging_within (State.within_refl s _) (by decide)
  rw [State.stageAffine]
  exact State.within_ite (State.within_refl s _) (State.within_elim (fun z =>
    State.store_within (State.store_within htaken (by decide)) (by decide)) htaken)

theorem State.finish_draw_ctx (hctx : s.ctx c = some x) : ((s.finish c).draw).ctx c = some { x with state := 4 } := State.finish_ctx hctx

theorem State.finish_draw_mem : ((s.finish c).draw).memory.mem = s.memory.mem :=
  (State.finish_within (State.within_refl s [.sched]) (List.Subset.refl _)).mem (by decide)

theorem State.addGradRows_ctx (hctx : s.ctx c = some x) (i : Nat) (rows : List (List (BitVec 32))) : (s.addGradRows m i rows).ctx c = some x :=
  State.ctx_of_within (State.addGradRows_within (State.within_refl s [.logs, .mbs, .memory, .links, .bytes]) (List.Subset.refl _)) (by decide) hctx

theorem State.addGradRows_slotCfg (i : Nat) (rows : List (List (BitVec 32))) : (s.addGradRows m i rows).slotCfg = s.slotCfg := by
  have hw := State.addGradRows_within (m := m) (i := i) (rows := rows) (State.within_refl s [.logs, .mbs, .memory, .links, .bytes])
    (List.Subset.refl _)
  rw [State.slotCfg, State.slotCfg, hw.cfg (by decide), hw.run (by decide)]

/-! ### Gathers (R233, R237) -/

theorem exec_trailReturn_of_gather {lists hop table out : Nat} (h : s.runsPart c x o m u) (hbody : o.body = .gather lists hop table out) :
    exec (.trailReturn c) s = .next (u.finish c) := by
  change execTrailReturn c s = _
  rw [execTrailReturn, State.runBackward_of_runsPart h, hbody]

/-- Contributions add into the source's companion in the trail's order. -/
def State.addContributions (s : State) (x : TaskContext) (m : MicroBatch) (o : Op) (src : Nat) : State :=
  (s.contributions x m o).foldl (fun s y => s.addCompanion m.mb m.step src y.pos (y.elems.map (·.1)) fun j =>
    ((y.elems.drop (16 * j)).take 16).any (·.2)) s

theorem exec_trailReturn_of_aggregate {q : AggregateOp} (h : s.runsPart c x o m u) (hbody : o.body = .aggregate q) :
    exec (.trailReturn c) s = .next (if !u.slotCfg.isKind q.src 3 then u.finish c else ((u.addContributions x m o q.src).finish c).draw) := by
  change execTrailReturn c s = _
  rw [execTrailReturn, State.runBackward_of_runsPart h, hbody]
  rfl

theorem State.addContributions_ctx (hctx : s.ctx c = some x) (src : Nat) : (s.addContributions x m o src).ctx c = some x :=
  State.ctx_of_within (State.within_fold (fun _ _ hv => State.addCompanion_within hv (List.Subset.refl _))
    (State.within_refl s [.logs, .mbs, .memory, .links, .bytes])) (by decide) hctx

end

/-- Settles O38: poison drops the micro-batch; clean parts add their rows into the companion in order, and the item has run. -/
theorem backwardItems : Obligations.BackwardItems := by
  unfold Obligations.BackwardItems
  intro s c x o m u h
  have hctx := State.runsPart_ctx h
  refine ⟨fun i out f a b hbody ha hb => ?_, fun n a b hbody ha hb => ?_, fun lists hop table out hbody => ?_, fun q hbody =>
    ⟨fun hkind => ?_, fun hkind => ?_⟩⟩
  · have hexec := exec_activateBack h hbody ha hb
    refine ⟨fun hbad => ⟨_, hexec.trans (congrArg Host.Outcome.next (if_pos hbad)), rfl⟩, fun hclean => ?_⟩
    replace hexec := hexec.trans (congrArg Host.Outcome.next (if_neg (ne_true_of_eq_false hclean)))
    exact ⟨_, hexec, ⟨State.finish_draw_ctx (State.addGradRows_ctx hctx _ _), onlyIn_of_exec hexec⟩, rfl⟩
  · have hexec := exec_normaliseBack h hbody ha hb
    refine ⟨fun hbad => ⟨_, hexec.trans (congrArg Host.Outcome.next (if_pos hbad)), rfl⟩, fun hclean => ?_⟩
    replace hexec := hexec.trans (congrArg Host.Outcome.next (if_neg (ne_true_of_eq_false hclean)))
    refine ⟨_, hexec, ⟨State.finish_draw_ctx (State.ctx_of_within (State.stageAffine_within _) (by decide) (State.addGradRows_ctx hctx _ _)),
      onlyIn_of_exec hexec⟩, fun hnone => ?_, fun z hsome hz => ?_⟩
    · rw [State.stageAffine, State.addGradRows_slotCfg, if_pos hnone]
      rfl
    · have hz : ((u.addGradRows m n.inp ((u.normaliseGrads x m n a b).map (·.1))).takeStaging m.mb m.step x.op.toNat o).itemMb x = some z := hz
      refine State.finish_draw_mem.trans ?_
      rw [State.stageAffine, State.addGradRows_slotCfg, if_neg hsome, hz]
      rfl
  · have hexec := exec_trailReturn_of_gather h hbody
    exact ⟨_, hexec, ⟨State.finish_ctx hctx, onlyIn_of_exec hexec⟩, rfl⟩
  · have hexec := (exec_trailReturn_of_aggregate h hbody).trans (congrArg Host.Outcome.next (if_pos (by rw [hkind]; decide)))
    exact ⟨_, hexec, ⟨State.finish_ctx hctx, onlyIn_of_exec hexec⟩, rfl⟩
  · have hexec := (exec_trailReturn_of_aggregate h hbody).trans (congrArg Host.Outcome.next (if_neg (by rw [hkind]; decide)))
    exact ⟨_, hexec, ⟨State.finish_draw_ctx (State.addContributions_ctx hctx q.src), onlyIn_of_exec hexec⟩, rfl⟩

end Sys2Proof.Machine
end


section
/-! PROOFS. What the work of the cells leaves of a block's counters (R255, R261, R264, R282, R283, R286). -/

namespace Sys2Proof.Machine

set_option Elab.async false

/-! ### A block (R27) -/

section
variable {s : State}

theorem State.onBlock_block_same {b : Nat} (hb : b < s.blocks.length) (f : BlockState → BlockState) : (s.onBlock b f).block b = f (s.block b) := by
  rw [State.onBlock_block, if_pos ⟨rfl, hb⟩]

theorem State.onBlock_length (b : Nat) (f : BlockState → BlockState) : (s.onBlock b f).blocks.length = s.blocks.length := modifyAt_length ..

/-- A block that has a product is one of the device's. -/
theorem State.block_lt {b : Nat} (h : (s.block b).product ≠ none) : b < s.blocks.length := by
  by_contra hb
  exact h (by rw [State.block, List.getD_eq_getElem?_getD, List.getElem?_eq_none (by omega)]; rfl)

theorem State.block_map {t : State} {g : BlockState → BlockState} (ht : t.blocks = s.blocks.map g) (b : Nat) :
    t.block b = if b < s.blocks.length then g (s.block b) else s.block b := by
  rw [State.block, ht, State.block, List.getD_eq_getElem?_getD, List.getD_eq_getElem?_getD, List.getElem?_map]
  split
  next hb => rw [List.getElem?_eq_getElem hb]; rfl
  next hb => rw [List.getElem?_eq_none (by omega)]; rfl

theorem State.block_congr {t : State} (ht : t.blocks = s.blocks) (b : Nat) : t.block b = s.block b := by rw [State.block, State.block, ht]

end

/-! ### What a drop takes from a block (R286) -/

/-- A block forgets a micro-batch. -/
def BlockState.forget (mb step : Nat) (x : BlockState) : BlockState :=
  { x with
    product := x.product.filter fun p => !(p.mb == mb && p.step == step)
    segments := x.segments.filter fun y => !(y.mb == mb && y.step == step)
    pieces := x.pieces.filter fun y => !(y.mb == mb && y.step == step) }

theorem State.dropMb_blocks (s : State) (mb step : Nat) :
    (s.dropMb mb step).blocks = s.blocks ∨ (s.dropMb mb step).blocks = s.blocks.map (BlockState.forget mb step) := by
  have hfreed (rs : List RegionSched) (f : MicroBatch → MicroBatch) :
      ((({ s with sched := rs } : State).onMb mb step f).freeDropped mb step).blocks = s.blocks :=
    (State.freeDropped_within (State.within_refl _ [.mbs]) (List.Subset.refl _)).blocks (by decide)
  rw [State.dropMb]
  split
  · exact .inl rfl
  · split
    · exact .inl rfl
    · right
      rw [(State.lapse_within (State.within_refl _ [.dial, .logs]) (List.Subset.refl _)).blocks (by decide)]
      exact congrArg (List.map (BlockState.forget mb step)) (hfreed _ _)

/-! ### How a block takes a product (R257, R258, R260) -/

/-- Cells that have a pass of a product, by rank. -/
def State.productRuns (s : State) (b : Nat) (h : Shape) : List CellRun :=
  (List.range h.arcs).flatMap fun a => (List.range h.arcCells).filterMap fun i =>
    match (s.block b).ranks[a * h.arcCells + i]?, s.cellPasses h a i with
    | some cell, _ :: _ => some (⟨cell, a, i, 0, false, [], 0, [], [], false, 0, (0, 0), []⟩ : CellRun)
    | _, _ => none

/-- The block holds the product; the tiles of another leave the weight area. -/
def State.takeBlock (s : State) (b : Nat) (p : Product) (h : Shape) (m : MicroBatch) (runs : List CellRun) : State :=
  s.onBlock b fun x => { x with
    product := some { p with cells := runs }
    lastW := if p.kind = 2 then x.lastW else s.weightBuffer (some m) h.q.w
    tilesOf := if p.kind = 2 then x.tilesOf else some (p.op, p.kind, m.weightV, p.step)
    tiles := if p.kind = 2 ∨ x.tilesOf = some (p.op, p.kind, m.weightV, p.step) then x.tiles else [] }

/-- The shadow load of a cell's first tile. -/
def State.loadFirst (s : State) (b : Nat) (p : Product) (h : Shape) (r : CellRun) : State :=
  match (s.runPasses h r).head? with
  | some q => if (s.block b).product.isSome then s.shadowLoad b p h r q false else s
  | none => s

/-- The block holds the product, and every cell has begun to load its first tile. -/
def State.takeLoaded (s : State) (b : Nat) (p : Product) (h : Shape) (m : MicroBatch) : State :=
  (s.productRuns b h).foldl (fun s r => s.loadFirst b p h r) (s.takeBlock b p h m (s.productRuns b h))

theorem State.startProduct_eq {s : State} (b : Nat) (c : CtxId) (op mb step kind part : Nat) (pre : Bool) :
    s.startProduct b c op mb step kind part pre =
      (s.shape ⟨c, op, mb, step, kind, part, pre, []⟩).elim s fun h => (s.productMb ⟨c, op, mb, step, kind, part, pre, []⟩).elim s fun m =>
        if (s.productRuns b h).isEmpty then s.finish c else
        if ((s.takeLoaded b ⟨c, op, mb, step, kind, part, pre, []⟩ h m).block b).product.isSome then
          ((s.takeLoaded b ⟨c, op, mb, step, kind, part, pre, []⟩ h m).fillHeads b).prepare b
        else s.takeLoaded b ⟨c, op, mb, step, kind, part, pre, []⟩ h m := by
  rw [State.startProduct]
  cases s.shape ⟨c, op, mb, step, kind, part, pre, []⟩ with
  | none => rfl
  | some h => cases s.productMb ⟨c, op, mb, step, kind, part, pre, []⟩ with
    | none => rfl
    | some m => rfl

/-! ### Counters that the work of a pass leaves

Drops count on their own, so they stand apart from the counters that stay. -/

/-- A block's counters but for the poison drops. -/
def BlockState.counts (x : BlockState) : BlockState :=
  { BlockState.reset with parity := x.parity, basinCorrected := x.basinCorrected, rillRetx := x.rillRetx, issued := x.issued
                          skipped := x.skipped, steals := x.steals, swaps := x.swaps }

/-- The counters of block `b` stay, and no parity failure of a weight tile is logged. -/
structure State.keepsBlock (b : Nat) (s t : State) : Prop where
  length : t.blocks.length = s.blocks.length
  counts : (t.block b).counts = (s.block b).counts
  parity : t.logs.errorCounts[0xB1]? = s.logs.errorCounts[0xB1]?

section
variable {b : Nat} {s0 s t : State}

theorem State.keepsBlock_refl (b : Nat) (s : State) : s.keepsBlock b s := ⟨rfl, rfl, rfl⟩

theorem State.keepsBlock.trans (h : s0.keepsBlock b s) (h' : s.keepsBlock b t) : s0.keepsBlock b t :=
  ⟨h'.length.trans h.length, h'.counts.trans h.counts, h'.parity.trans h.parity⟩

variable (h : s0.keepsBlock b s)
include h

theorem State.keepsBlock.congr (hb : t.blocks = s.blocks) (hl : t.logs.errorCounts[0xB1]? = s.logs.errorCounts[0xB1]?) : s0.keepsBlock b t :=
  ⟨(congrArg List.length hb).trans h.length, (congrArg BlockState.counts (State.block_congr hb b)).trans h.counts, hl.trans h.parity⟩

theorem State.keepsBlock.within {L : List Part} (hw : s.within L t) (hp : .blocks ∉ L ∧ .logs ∉ L := by decide) : s0.keepsBlock b t :=
  h.congr (hw.blocks hp.1) (by rw [hw.logs hp.2])

omit h in
theorem State.keepsBlock_ite {c : Prop} [Decidable c] {u v : State} (hu : s0.keepsBlock b u) (hv : s0.keepsBlock b v) :
    s0.keepsBlock b (if c then u else v) := by
  split <;> assumption

theorem State.elim_keepsBlock {α : Type} {o : Option α} {f : α → State} (hf : ∀ a, s0.keepsBlock b (f a)) : s0.keepsBlock b (o.elim s f) := by
  cases o with
  | none => exact h
  | some a => exact hf a

theorem State.fold_keepsBlock {α : Type} {l : List α} {f : State → α → State} (hf : ∀ u x, s0.keepsBlock b u → s0.keepsBlock b (f u x)) :
    s0.keepsBlock b (l.foldl f s) := by
  induction l generalizing s with
  | nil => exact h
  | cons x l ih => exact ih (hf s x h)

theorem State.onBlock_keepsBlock (d : Nat) {f : BlockState → BlockState} (hf : ∀ x, (f x).counts = x.counts := by exact fun _ => rfl) :
    s0.keepsBlock b (s.onBlock d f) := by
  refine ⟨(State.onBlock_length d f).trans h.length, Eq.trans ?_ h.counts, h.parity⟩
  rw [State.onBlock_block]
  split
  · exact hf _
  · rfl

theorem State.onCell_keepsBlock (d c : Nat) (f : CellRun → CellRun) : s0.keepsBlock b (s.onCell d c f) := State.onBlock_keepsBlock h d

theorem State.store_keepsBlock (k : Nat) (bs : List Byte) (poisoned : Bool) : s0.keepsBlock b (s.store k bs poisoned) :=
  h.within (State.store_within (State.within_refl s [.memory, .bytes]) (List.Subset.refl _))

theorem State.logDevice_keepsBlock {code : Nat} (hcode : code ≠ 0xB1 := by decide) (who : Named) (dropped detail : Nat) :
    s0.keepsBlock b (s.logDevice code who dropped detail) :=
  h.congr ((State.logDevice_within (State.within_refl s [.logs]) (List.Subset.refl _)).blocks (by decide))
    (State.logDevice_errorCounts_ne hcode who dropped detail)

theorem State.lapse_keepsBlock : s0.keepsBlock b s.lapse := by
  refine h.congr ?_ (State.lapse_errorCounts_ne (by decide))
  exact (State.lapse_within (State.within_refl s [.dial, .logs]) (List.Subset.refl _)).blocks (by decide)

theorem State.resil_keepsBlock (x : ResilState) : s0.keepsBlock b { s with resil := x } := ⟨h.length, h.counts, h.parity⟩

/-! ### Drops (R69, R286) -/

theorem State.dropMb_keepsBlock (mb step : Nat) : s0.keepsBlock b (s.dropMb mb step) := by
  have hlog : (s.dropMb mb step).logs.errorCounts[0xB1]? = s0.logs.errorCounts[0xB1]? :=
    (State.dropMb_errorCounts_ne (by decide)).trans h.parity
  obtain hsame | hmap := s.dropMb_blocks mb step
  · exact h.congr hsame (hlog.trans h.parity.symm)
  · refine ⟨by rw [hmap, List.length_map, h.length], Eq.trans ?_ h.counts, hlog⟩
    rw [State.block_map hmap]
    split <;> rfl

theorem State.settle_keepsBlock : s0.keepsBlock b s.settle :=
  h.within (State.settle_within (State.within_refl s [.dial, .mbs, .sched, .train]) (List.Subset.refl _))

theorem State.dropCell_keepsBlock (d c : Nat) (p : Product) : s0.keepsBlock b (s.dropCell d c p) := by
  rw [State.dropCell]
  exact State.settle_keepsBlock (State.onBlock_keepsBlock (State.logDevice_keepsBlock (State.dropMb_keepsBlock h p.mb p.step)
    (by decide) _ _ _) d)

/-! ### Wear (R31, R467, R468) -/

theorem State.fence_keepsBlock (unit : Nat) : s0.keepsBlock b (s.fence unit) := by
  rw [State.fence]
  split
  · exact State.onBlock_keepsBlock h _
  · exact State.onBlock_keepsBlock h _
  · exact h.congr rfl rfl

theorem State.markSwap_keepsBlock (kind unit detail code : Nat) : s0.keepsBlock b (s.markSwap kind unit detail code) := by
  have hfenced : s0.keepsBlock b (if kind = 1 then s.fence unit else s) := State.keepsBlock_ite (State.fence_keepsBlock h unit) h
  rw [State.markSwap]
  dsimp only
  generalize (if kind = 1 then s.fence unit else s) = v at hfenced
  refine State.keepsBlock_ite h (State.keepsBlock_ite (State.resil_keepsBlock hfenced _) ?_)
  exact State.resil_keepsBlock (State.logDevice_keepsBlock hfenced (by decide) noName 0 0) _

theorem State.wornOut_keepsBlock (kind unit detail : Nat) (who : Named) : s0.keepsBlock b (s.wornOut kind unit detail who) := by
  rw [State.wornOut]
  exact State.keepsBlock_ite h (State.markSwap_keepsBlock (State.logDevice_keepsBlock h (by decide) _ _ _) _ _ _ _)

theorem State.noteWear_keepsBlock (monitor unit : Nat) : s0.keepsBlock b (s.noteWear monitor unit) := by
  rw [State.noteWear]
  exact State.keepsBlock_ite (State.resil_keepsBlock h _) (State.wornOut_keepsBlock (State.resil_keepsBlock h _) _ _ _ _)

/-! ### Rows, segments and preload (R265, R269) -/

theorem State.fillHalf_keepsBlock (d : Nat) (g : Shape) (rows : List (List Byte × List Nat)) (r : CellRun) (ahead : Nat) :
    s0.keepsBlock b (s.fillHalf d g rows r ahead) := by
  rw [State.fillHalf]
  split
  · exact h
  · exact State.onCell_keepsBlock (State.fold_keepsBlock h fun _ _ hu => State.store_keepsBlock hu _ _ _) _ _ _

theorem State.fillHeads_keepsBlock (d : Nat) : s0.keepsBlock b (s.fillHeads d) := by
  rw [State.fillHeads]
  split
  · exact h
  · split
    · exact h
    · refine State.fold_keepsBlock h fun u r hu => ?_
      have hfirst {rows : List (List Byte × List Nat)} {g : Shape} : s0.keepsBlock b (if r.bytes.1 = 0 then u.fillHalf d g rows r 0 else u) :=
        State.keepsBlock_ite (State.fillHalf_keepsBlock hu d g rows r 0) hu
      exact State.keepsBlock_ite (State.fillHalf_keepsBlock hfirst _ _ _ _ _) hfirst

theorem State.basinPut_keepsBlock (d : Nat) (g : Segment) (r : Nat) (vs : List (Nat × BitVec 32 × BitVec 32)) :
    s0.keepsBlock b (s.basinPut d g r vs) := by
  rw [State.basinPut]
  refine State.onBlock_keepsBlock (State.fold_keepsBlock h fun u v hu => ?_) d
  exact State.keepsBlock_ite (State.store_keepsBlock hu _ _ _) (State.store_keepsBlock (State.store_keepsBlock hu _ _ _) _ _ _)

theorem State.preload_keepsBlock (d : Nat) (p : Product) (g : Shape) (r : CellRun) (q : Pass) (e : Segment) :
    s0.keepsBlock b (s.preload d p g r q e) := by
  rw [State.preload]
  exact State.keepsBlock_ite h (State.keepsBlock_ite (State.dropCell_keepsBlock h _ _ _)
    (State.fold_keepsBlock h fun _ _ hu => State.basinPut_keepsBlock hu _ _ _ _))

theorem State.prepareCell_keepsBlock (d : Nat) (p : Product) (g : Shape) (r : CellRun) : s0.keepsBlock b (s.prepareCell d p g r) := by
  rw [State.prepareCell]
  dsimp only
  split
  · exact h
  · refine State.keepsBlock_ite h ?_
    split
    · exact h
    next e _ =>
      have halloc {c : Prop} [Decidable c] : s0.keepsBlock b (if c then s.onBlock d fun x => { x with segments := x.segments ++ [e] } else s) :=
        State.keepsBlock_ite (State.onBlock_keepsBlock h d) h
      have hready {c : Prop} [Decidable c] : s0.keepsBlock b
          ((if c then s.onBlock d fun x => { x with segments := x.segments ++ [e] } else s).onCell d r.cell fun y => { y with ready := true }) :=
        State.onCell_keepsBlock halloc _ _ _
      exact State.keepsBlock_ite (State.preload_keepsBlock hready _ _ _ _ _ _) hready

theorem State.prepare_keepsBlock (d : Nat) : s0.keepsBlock b (s.prepare d) := by
  rw [State.prepare]
  split
  · exact h
  · split
    · exact h
    · exact State.fold_keepsBlock h fun u r hu => State.keepsBlock_ite (State.prepareCell_keepsBlock hu _ _ _ _) hu

/-! ### Weight tiles and products (R253, R260, R264) -/

theorem State.shadowLoad_keepsBlock (d : Nat) (p : Product) (g : Shape) (r : CellRun) (q : Pass) (again : Bool) :
    s0.keepsBlock b (s.shadowLoad d p g r q again) := by
  have huse {n : Nat} {w : WeightTile} : s0.keepsBlock b (s.onBlock d fun x =>
      { x with tiles := x.tiles.filter (fun t => !(t.cell == r.cell && t.slot == n)) ++ [w] }) := State.onBlock_keepsBlock h d
  rw [State.shadowLoad]
  dsimp only
  split
  · exact State.onCell_keepsBlock huse _ _ _
  · refine State.keepsBlock_ite (State.dropCell_keepsBlock h _ _ _) (State.keepsBlock_ite (State.onCell_keepsBlock h _ _ _) ?_)
    exact State.onCell_keepsBlock (State.store_keepsBlock huse _ _ _) _ _ _

theorem State.finish_keepsBlock (c : CtxId) : s0.keepsBlock b (s.finish c) :=
  h.within (State.finish_within (State.within_refl s [.sched]) (List.Subset.refl _))

theorem State.takeBlock_keepsBlock (d : Nat) (p : Product) (g : Shape) (m : MicroBatch) (rs : List CellRun) :
    s0.keepsBlock b (s.takeBlock d p g m rs) := State.onBlock_keepsBlock h d

theorem State.loadFirst_keepsBlock (d : Nat) (p : Product) (g : Shape) (r : CellRun) : s0.keepsBlock b (s.loadFirst d p g r) := by
  rw [State.loadFirst]
  split
  · exact State.keepsBlock_ite (State.shadowLoad_keepsBlock h _ _ _ _ _ _) h
  · exact h

theorem State.startProduct_keepsBlock (d : Nat) (c : CtxId) (op mb step kind part : Nat) (pre : Bool) :
    s0.keepsBlock b (s.startProduct d c op mb step kind part pre) := by
  rw [State.startProduct_eq]
  cases s.shape ⟨c, op, mb, step, kind, part, pre, []⟩ with
  | none => exact h
  | some g => cases s.productMb ⟨c, op, mb, step, kind, part, pre, []⟩ with
    | none => exact h
    | some m =>
      have hloaded : s0.keepsBlock b (s.takeLoaded d ⟨c, op, mb, step, kind, part, pre, []⟩ g m) :=
        State.fold_keepsBlock (State.takeBlock_keepsBlock h d _ g m _) fun u r hu => State.loadFirst_keepsBlock hu d _ g r
      exact State.keepsBlock_ite (State.finish_keepsBlock h c)
        (State.keepsBlock_ite (State.prepare_keepsBlock (State.fillHeads_keepsBlock hloaded d) d) hloaded)

theorem State.nextBackward_keepsBlock (d : Nat) (c : CtxId) (op mb step after : Nat) (q : TransformOp) :
    s0.keepsBlock b (s.nextBackward d c op mb step after q) := by
  rw [State.nextBackward]
  exact State.keepsBlock_ite (State.startProduct_keepsBlock h _ _ _ _ _ _ _ _)
    (State.keepsBlock_ite (State.startProduct_keepsBlock h _ _ _ _ _ _ _ _) (State.finish_keepsBlock h c))

theorem State.endProduct_keepsBlock (d : Nat) : s0.keepsBlock b (s.endProduct d) := by
  rw [State.endProduct]
  split
  · exact h
  · split
    · exact h
    · have hended : s0.keepsBlock b (s.onBlock d fun x => { x with product := none }) := State.onBlock_keepsBlock h d
      exact State.keepsBlock_ite h (State.keepsBlock_ite
        (hended.within (State.endForward_within (State.within_refl _ [.sched]) (List.Subset.refl _)))
        (State.nextBackward_keepsBlock hended _ _ _ _ _ _ _))

/-! ### Passes (R260, R273, R281) -/

theorem State.passIssued_keepsBlock (d c : Nat) : s0.keepsBlock b (s.passIssued d c) := by
  rw [State.passIssued]
  split
  · exact h
  next p g r _ =>
    dsimp only
    split
    · exact h
    next q _ =>
      refine State.keepsBlock_ite h (State.endProduct_keepsBlock ?_ d)
      have hissued {a : Prop} [Decidable a] {o : Option Segment} : s0.keepsBlock b (if a then s
          else o.elim s fun e => s.onSegment d e fun e => { e with issued := insertNat p.op e.issued }) :=
        State.keepsBlock_ite h (State.elim_keepsBlock h fun e => State.onBlock_keepsBlock h d)
      have hmoved {a a' : Prop} [Decidable a] [Decidable a'] {o : Option Segment} {f : CellRun → CellRun} :
          s0.keepsBlock b (if a' then (if a then s else o.elim s fun e => s.onSegment d e fun e => { e with issued := insertNat p.op e.issued })
            else ((if a then s else o.elim s fun e => s.onSegment d e fun e => { e with issued := insertNat p.op e.issued }).onCell d c f).fillHeads d) :=
        State.keepsBlock_ite hissued (State.fillHeads_keepsBlock (State.onCell_keepsBlock hissued _ _ _) d)
      exact State.keepsBlock_ite (State.onCell_keepsBlock hmoved _ _ _) hmoved

theorem State.writeBack_keepsBlock (d c : Nat) (p : Product) (g : Shape) (r : CellRun) (q : Pass) (u : Nat) :
    s0.keepsBlock b (s.writeBack d c p g r q u) := by
  rw [State.writeBack]
  exact State.fold_keepsBlock h fun v i hv => State.keepsBlock_ite hv (State.elim_keepsBlock hv fun e => State.basinPut_keepsBlock hv _ _ _ _)

end

end Sys2Proof.Machine
end


section
/-! PROOFS. TRANSFORM takes its block for its next product (R140, R257, R275, R276, R291–R293, R296). -/

namespace Sys2Proof.Machine

set_option Elab.async false

/-! ### Memory without poison (R286, R397) -/

section
variable {s : State}

/-- No line is stored poisoned. -/
def State.clean (s : State) : Prop := s.memory.mem.poison = []

theorem State.clean.congr {t : State} (h : s.clean) (ht : t.memory.mem = s.memory.mem) : t.clean := by
  rw [State.clean, ht]
  exact h

theorem State.store_clean (h : s.clean) (k : Nat) (bs : List Byte) : (s.store k bs false).clean := by
  have hline (m : Memory) (l : Nat) (hm : m.poison = []) :
      (if false = true then m.setPoison l true else if k ≤ l ∧ l + 64 ≤ k + bs.length then m.setPoison l false else m).poison = [] := by
    split
    next hc => cases hc
    · split
      · rw [Memory.setPoison, if_neg (by decide), hm]
        rfl
      · exact hm
  exact List.foldlRecOn (motive := fun m : Memory => m.poison = []) _ _
    ((Memory.write_poison ..).trans h) fun m hm l _ => hline m l hm

theorem State.clean.rangePoisoned (h : s.clean) (k n : Nat) : s.rangePoisoned k n = false := by
  rw [State.rangePoisoned, List.any_eq_false]
  intro l _
  rw [Memory.poisoned, h]
  simp

theorem State.clean.placePoisoned (h : s.clean) (p : Place) (n : Nat) : s.placePoisoned p n = false := by
  cases p with
  | own k => exact h.rangePoisoned k n
  | remote a => rfl

theorem State.clean.noteOperand (h : s.clean) (c : CtxId) (m : Option MicroBatch) (v i : Nat) (x : Operand) : s.noteOperand c m v i x = s := by
  rw [State.noteOperand]
  split
  · exact State.noteReads_of_clean (h.rangePoisoned _ _) _
  · rfl

theorem State.placeStore_clean (h : s.clean) (p : Place) (bs : List Byte) : (s.placeStore p bs false).clean := by
  cases p with
  | own k => exact State.store_clean h k bs
  | remote a => exact h.congr ((State.sendTo_within (State.within_refl s [.logs, .links]) (List.Subset.refl _)).mem (by decide))

theorem any_eq_false_of_forall {α : Type} {l : List α} {f : α → Bool} (h : ∀ x ∈ l, f x = false) : l.any f = false := by
  rw [List.any_eq_false]
  exact fun x hx => by rw [h x hx]; decide

theorem State.clean.tilePoisoned (h : s.clean) (p : Product) (g : Shape) (place : Nat) (q : Pass) : s.tilePoisoned p g place q = false := by
  have hdy (m : MicroBatch) (r : Nat) : (s.dyRow m g r).2 = [] := by
    rw [State.dyRow]
    simp only [h.placePoisoned, Bool.and_false, List.filter_false, List.flatMap_nil]
  rw [State.tilePoisoned]
  split
  · rfl
  · simp only [h.placePoisoned, hdy]
    split
    · exact any_eq_false_of_forall fun n _ => any_eq_false_of_forall fun j _ => by split <;> simp
    · split
      · exact any_eq_false_of_forall fun n _ => any_eq_false_of_forall fun j _ => by split <;> simp
      · exact any_eq_false_of_forall fun i _ => any_eq_false_of_forall fun n _ => any_eq_false_of_forall fun j _ => by simp

theorem State.clean.preloadRow (h : s.clean) (p : Product) (g : Shape) (place : Nat) (q : Pass) (r : Nat) : (s.preloadRow p g place q r).2 = false := by
  rw [State.preloadRow]
  split
  · simp only [h.placePoisoned]
    rw [Bool.and_eq_false_iff]
    exact .inr (any_eq_false_of_forall fun _ _ => any_eq_false_of_forall fun _ _ => rfl)
  · rfl

end

/-! ### A block keeps its product -/

/-- What names a product: work item, operation, micro-batch, step, kind. -/
def Product.key (p : Product) : CtxId × Nat × Nat × Nat × Nat := (p.ctx, p.op, p.mb, p.step, p.kind)

/-- The product that a block runs. -/
def State.runsKey (s : State) (b : Nat) : Option (CtxId × Nat × Nat × Nat × Nat) := ((s.block b).product).map Product.key

section
variable {b : Nat} {s : State}

theorem State.runsKey_congr {t : State} (ht : t.blocks = s.blocks) : t.runsKey b = s.runsKey b := by
  rw [State.runsKey, State.runsKey, State.block_congr ht]

theorem State.onBlock_runsKey (d : Nat) {f : BlockState → BlockState} (hf : ∀ x, ((f x).product).map Product.key = (x.product).map Product.key) :
    (s.onBlock d f).runsKey b = s.runsKey b := by
  rw [State.runsKey, State.onBlock_block]
  split
  · exact hf _
  · rfl

theorem State.onCell_runsKey (d c : Nat) (f : CellRun → CellRun) : (s.onCell d c f).runsKey b = s.runsKey b :=
  State.onBlock_runsKey d fun x => by
    rw [Option.map_map]
    rfl

theorem State.store_runsKey (k : Nat) (bs : List Byte) (poisoned : Bool) : (s.store k bs poisoned).runsKey b = s.runsKey b :=
  State.runsKey_congr ((State.store_within (State.within_refl s [.memory, .bytes]) (List.Subset.refl _)).blocks (by decide))

/-- Loading a tile keeps the product, unless a value of the tile is poisoned. -/
theorem State.shadowLoad_runsKey {d : Nat} {p : Product} {g : Shape} {r : CellRun} {q : Pass} (htile : s.tilePoisoned p g r.place q = false)
    (again : Bool) : (s.shadowLoad d p g r q again).runsKey b = s.runsKey b := by
  have huse {n : Nat} {w : WeightTile} : (s.onBlock d fun x =>
      { x with tiles := x.tiles.filter (fun t => !(t.cell == r.cell && t.slot == n)) ++ [w] }).runsKey b = s.runsKey b :=
    State.onBlock_runsKey d fun _ => rfl
  rw [State.shadowLoad]
  dsimp only
  split
  · exact (State.onCell_runsKey ..).trans huse
  · rw [if_neg (by rw [htile]; decide)]
    split
    · exact State.onCell_runsKey ..
    · exact (State.onCell_runsKey ..).trans ((State.store_runsKey ..).trans huse)

theorem State.shadowLoad_clean (h : s.clean) (d : Nat) (p : Product) (g : Shape) (r : CellRun) (q : Pass) (again : Bool) :
    (s.shadowLoad d p g r q again).clean := by
  rw [State.shadowLoad]
  dsimp only
  split
  · exact h.congr rfl
  · rw [if_neg (by rw [h.tilePoisoned]; decide)]
    split
    · exact h.congr rfl
    · refine State.clean.congr (State.store_clean (s := s.onBlock d _) (h.congr rfl) _ _) rfl

end

/-- Without poison, a block runs a product. -/
structure State.runsClean (b : Nat) (k : CtxId × Nat × Nat × Nat × Nat) (s : State) : Prop where
  clean : s.clean
  key   : s.runsKey b = some k

section
variable {b : Nat} {k : CtxId × Nat × Nat × Nat × Nat} {s : State} (h : s.runsClean b k)
include h

theorem State.runsClean.isSome : (s.block b).product.isSome = true := by
  have hkey := h.key
  rw [State.runsKey] at hkey
  cases hp : (s.block b).product with
  | none => rw [hp] at hkey; cases hkey
  | some p => rfl

theorem State.runsClean.store (key : Nat) (bs : List Byte) : (s.store key bs false).runsClean b k :=
  ⟨State.store_clean h.clean key bs, (State.store_runsKey ..).trans h.key⟩

theorem State.runsClean.onCell (d c : Nat) (f : CellRun → CellRun) : (s.onCell d c f).runsClean b k :=
  ⟨h.clean.congr rfl, (State.onCell_runsKey ..).trans h.key⟩

theorem State.runsClean.onBlock (d : Nat) {f : BlockState → BlockState} (hf : ∀ x, (f x).product = x.product := by exact fun _ => rfl) :
    (s.onBlock d f).runsClean b k :=
  ⟨h.clean.congr rfl, (State.onBlock_runsKey d fun x => by rw [hf]).trans h.key⟩

omit h in
theorem State.runsClean_ite {c : Prop} [Decidable c] {u v : State} (hu : u.runsClean b k) (hv : v.runsClean b k) :
    (if c then u else v).runsClean b k := by
  split <;> assumption

theorem State.runsClean.fold {α : Type} {l : List α} {f : State → α → State} (hf : ∀ u x, u.runsClean b k → (f u x).runsClean b k) :
    (l.foldl f s).runsClean b k :=
  List.foldlRecOn (motive := fun u : State => u.runsClean b k) _ _ h fun u hu x _ => hf u x hu

theorem State.runsClean.shadowLoad (d : Nat) (p : Product) (g : Shape) (r : CellRun) (q : Pass) (again : Bool) :
    (s.shadowLoad d p g r q again).runsClean b k :=
  ⟨State.shadowLoad_clean h.clean .., (State.shadowLoad_runsKey (h.clean.tilePoisoned ..) again).trans h.key⟩

theorem State.runsClean.loadFirst (d : Nat) (p : Product) (g : Shape) (r : CellRun) : (s.loadFirst d p g r).runsClean b k := by
  rw [State.loadFirst]
  split
  · exact State.runsClean_ite (h.shadowLoad ..) h
  · exact h

theorem State.runsClean.fillHalf (d : Nat) (g : Shape) (rows : List (List Byte × List Nat)) (r : CellRun) (ahead : Nat) :
    (s.fillHalf d g rows r ahead).runsClean b k := by
  rw [State.fillHalf]
  split
  · exact h
  · exact (h.fold fun _ _ hu => hu.store ..).onCell ..

theorem State.runsClean.fillHeads (d : Nat) : (s.fillHeads d).runsClean b k := by
  rw [State.fillHeads]
  split
  · exact h
  · split
    · exact h
    · refine h.fold fun u r hu => ?_
      have hfirst {rows : List (List Byte × List Nat)} {g : Shape} : (if r.bytes.1 = 0 then u.fillHalf d g rows r 0 else u).runsClean b k :=
        State.runsClean_ite (hu.fillHalf ..) hu
      exact State.runsClean_ite (hfirst.fillHalf ..) hfirst

theorem State.runsClean.basinPut (d : Nat) (g : Segment) (r : Nat) (vs : List (Nat × BitVec 32 × BitVec 32)) :
    (s.basinPut d g r vs).runsClean b k := by
  rw [State.basinPut]
  refine State.runsClean.onBlock (h.fold fun u v hu => ?_) d
  exact State.runsClean_ite (hu.store ..) ((hu.store ..).store ..)

theorem State.runsClean.preload (d : Nat) (p : Product) (g : Shape) (r : CellRun) (q : Pass) (e : Segment) :
    (s.preload d p g r q e).runsClean b k := by
  rw [State.preload]
  refine State.runsClean_ite h ?_
  have hgood : ((List.range (g.passRows q)).map fun i => (i, s.preloadRow p g r.place q i)).any (·.2.2) = false := by
    rw [List.any_map]
    exact any_eq_false_of_forall fun i _ => h.clean.preloadRow ..
  dsimp only
  rw [if_neg (by rw [hgood]; decide)]
  exact h.fold fun _ _ hu => hu.basinPut ..

theorem State.runsClean.prepareCell (d : Nat) (p : Product) (g : Shape) (r : CellRun) : (s.prepareCell d p g r).runsClean b k := by
  rw [State.prepareCell]
  dsimp only
  split
  · exact h
  · refine State.runsClean_ite h ?_
    split
    · exact h
    next e _ =>
      have halloc {c : Prop} [Decidable c] : (if c then s.onBlock d fun x => { x with segments := x.segments ++ [e] } else s).runsClean b k :=
        State.runsClean_ite (h.onBlock d) h
      have hready {c : Prop} [Decidable c] :
          ((if c then s.onBlock d fun x => { x with segments := x.segments ++ [e] } else s).onCell d r.cell fun y => { y with ready := true }).runsClean b
            k := halloc.onCell ..
      exact State.runsClean_ite (hready.preload ..) hready

theorem State.runsClean.prepare (d : Nat) : (s.prepare d).runsClean b k := by
  rw [State.prepare]
  split
  · exact h
  · split
    · exact h
    · exact h.fold fun u r hu => State.runsClean_ite (hu.prepareCell ..) hu

end

/-! ### A product starts (R257, R258) -/

section
variable {s : State} {b : Nat} {c : CtxId} {op mb step kind part : Nat} {pre : Bool}

theorem State.productRuns_ne_nil {h : Shape} {a i cell : Nat} {q : Pass} (ha : a < h.arcs) (hi : i < h.arcCells)
    (hcell : (s.block b).ranks[a * h.arcCells + i]? = some cell) (hq : (s.cellPasses h a i).head? = some q) : (s.productRuns b h).isEmpty = false := by
  obtain ⟨qs, hqs⟩ : ∃ qs, s.cellPasses h a i = q :: qs := by
    cases hl : s.cellPasses h a i with
    | nil => rw [hl] at hq; cases hq
    | cons p ps => rw [hl, List.head?_cons] at hq; cases hq; exact ⟨ps, rfl⟩
  rw [List.isEmpty_eq_false_iff_exists_mem]
  refine ⟨⟨cell, a, i, 0, false, [], 0, [], [], false, 0, (0, 0), []⟩, ?_⟩
  rw [State.productRuns, List.mem_flatMap]
  refine ⟨a, List.mem_range.2 ha, List.mem_filterMap.2 ⟨i, List.mem_range.2 hi, ?_⟩⟩
  rw [hcell, hqs]

/-- Without poison, a product that has a pass takes its block. -/
theorem State.startProduct_runsKey (hclean : s.clean) (hb : b < s.blocks.length) (hpass : s.hasPass b ⟨c, op, mb, step, kind, part, pre, []⟩)
    (hmb : (s.productMb ⟨c, op, mb, step, kind, part, pre, []⟩).isSome = true) :
    (s.startProduct b c op mb step kind part pre).runsKey b = some (c, op, mb, step, kind) := by
  obtain ⟨h, a, i, cell, q, hshape, ha, hi, hcell, hq⟩ := hpass
  obtain ⟨m, hm⟩ := Option.isSome_iff_exists.1 hmb
  have htaken : (s.takeBlock b ⟨c, op, mb, step, kind, part, pre, []⟩ h m (s.productRuns b h)).runsClean b (c, op, mb, step, kind) := by
    refine ⟨hclean.congr rfl, ?_⟩
    rw [State.runsKey, State.takeBlock, State.onBlock_block_same hb]
    rfl
  have hloaded : (s.takeLoaded b ⟨c, op, mb, step, kind, part, pre, []⟩ h m).runsClean b (c, op, mb, step, kind) :=
    htaken.fold fun _ _ hu => hu.loadFirst ..
  rw [State.startProduct_eq, hshape, hm, Option.elim_some, Option.elim_some, State.productRuns_ne_nil ha hi hcell hq, if_neg (by decide),
    if_pos hloaded.isSome]
  exact ((hloaded.fillHeads b).prepare b).key

/-- A product without a pass ends its part. -/
theorem State.startProduct_of_no_pass {h : Shape} (hshape : s.shape ⟨c, op, mb, step, kind, part, pre, []⟩ = some h)
    (hpass : ∀ a i, s.cellPasses h a i = []) (hmb : (s.productMb ⟨c, op, mb, step, kind, part, pre, []⟩).isSome = true) :
    s.startProduct b c op mb step kind part pre = s.finish c := by
  obtain ⟨m, hm⟩ := Option.isSome_iff_exists.1 hmb
  have hnone : (s.productRuns b h).isEmpty = true := by
    rw [List.isEmpty_iff, State.productRuns, List.flatMap_eq_nil_iff]
    intro a _
    rw [List.filterMap_eq_nil_iff]
    intro i _
    rw [hpass a i]
    split
    next heq => cases heq
    · rfl
  rw [State.startProduct_eq, hshape, hm, Option.elim_some, Option.elim_some, if_pos hnone]

end

/-! ### Forward (R133, R257, R306) -/

section
variable {s u : State} {c : CtxId} {x : TaskContext} {o : Op} {k : Nat} {m : MicroBatch} {q : TransformOp}

/-- The operands of a TRANSFORM are read. -/
def State.noteTransform (s : State) (c : CtxId) (m : MicroBatch) (q : TransformOp) : State :=
  let s := (s.operand q.inA).elim s fun x => s.noteOperand c (some m) 0 q.inA x
  let s := (s.operand q.w).elim s fun x => s.noteOperand c (some m) m.weightV q.w x
  (s.operand q.pre).elim s fun x => s.noteOperand c (some m) m.weightV q.pre x

theorem State.noteTransform_of_clean (h : u.clean) : u.noteTransform c m q = u := by
  have hread (v : Option Operand) (w i : Nat) : (v.elim u fun x => u.noteOperand c (some m) w i x) = u := by
    cases v with
    | none => rfl
    | some x => exact h.noteOperand c (some m) w i x
  rw [State.noteTransform]
  simp only [hread]

theorem exec_transform (h : s.runsForward c x o k u) (hm : u.viewMb x = some m) (hbody : o.body = .transform q) :
    exec (.transform c) s = .next (if (u.block (blockOf c x)).product.isSome then u else
      ((u.noteTransform c m q).startProduct (blockOf c x) c k x.mb.toNat x.step.toNat 0 (if x.part then x.op.toNat + 1 else 0)
        (x.part && k == x.op.toNat && o.stashesPre)).draw) := by
  change execTransform c s = _
  rw [execTransform, State.runForward_eq h, hbody, hm]
  rfl

theorem State.viewMb_productMb (hm : u.viewMb x = some m) (op kind part : Nat) (pre : Bool) :
    (u.productMb ⟨c, op, x.mb.toNat, x.step.toNat, kind, part, pre, []⟩).isSome = true := by
  rw [State.viewMb, Option.map_eq_some_iff] at hm
  obtain ⟨m', hm', -⟩ := hm
  rw [State.productMb, Option.isSome_map, show u.mbOf x.mb.toNat x.step.toNat = some m' from hm']
  rfl

/-! ### Backward (R140, R275, R276, R293, R296) -/

theorem exec_transformBackward_of_busy (h : s.runsPart c x o m u) (hbusy : (s.block (blockOf c x)).product ≠ none) :
    exec (.transformBackward c) s = .next s := by
  change execTransformBackward c s = _
  rw [execTransformBackward, State.runBackward_of_ready h.1 h.2.1]
  exact congrArg Host.Outcome.next (if_pos (Option.isSome_iff_ne_none.2 hbusy))

theorem exec_transformBackward (h : s.runsPart c x o m u) (hbody : o.body = .transform q) (hidle : (s.block (blockOf c x)).product = none)
    {y w : Operand} (hy : u.operand q.out = some y) (hw : u.operand q.w = some w) :
    exec (.transformBackward c) s = .next ((u.companionPass x m o q y).elim (u.dropPoison c) fun dy =>
      (((u.writeCompanion x m o q dy).noteOperand c (some m) m.weightV q.w w).nextBackward (blockOf c x) c x.op.toNat m.mb m.step 0 q).draw) := by
  change execTransformBackward c s = _
  rw [execTransformBackward, State.runBackward_of_ready h.1 h.2.1, hidle, if_neg (by simp), State.runUnpoisoned_of_runsPart h, hbody]
  simp only [hy, hw]
  cases u.companionPass x m o q y <;> rfl

/-- A micro-batch of a step is held. -/
def State.holdsMb (s : State) (mb step : Nat) : Prop := (s.mbOf mb step).isSome = true

theorem State.onMb_holdsMb {mb step mb' step' : Nat} {f : MicroBatch → MicroBatch} (h : s.holdsMb mb step) (hmb : ∀ m, (f m).mb = m.mb)
    (hstep : ∀ m, (f m).step = m.step) : (s.onMb mb' step' f).holdsMb mb step := by
  have hname (q : MicroBatch) : (if q.mb == mb' && q.step == step' then f q else q).mb = q.mb ∧
      (if q.mb == mb' && q.step == step' then f q else q).step = q.step := by
    split
    · exact ⟨hmb q, hstep q⟩
    · exact ⟨rfl, rfl⟩
  rw [State.holdsMb, State.mbOf, State.onMb, List.find?_map, Option.isSome_map]
  simp only [Function.comp_def, (hname _).1, (hname _).2]
  exact h

theorem State.holdsMb.congr {t : State} {mb step : Nat} (h : s.holdsMb mb step) (ht : t.mbs = s.mbs) : t.holdsMb mb step := by
  rw [State.holdsMb, State.mbOf, ht]
  exact h

theorem State.setCompanion_holdsMb {mb step mb' step' i r : Nat} {vs : List (BitVec 32)} {poisoned : Bool} (h : s.holdsMb mb step) :
    (s.setCompanion mb' step' i r vs poisoned).holdsMb mb step := by
  rw [State.setCompanion]
  split
  · refine State.holdsMb.congr (State.onMb_holdsMb (mb' := mb') (step' := step')
      (f := fun m => if m.rowsSet.contains (i, r) then m else { m with rowsSet := m.rowsSet ++ [(i, r)] }) h (fun m => ?_) (fun m => ?_))
      ((State.placeStore_within (State.within_refl _ [.logs, .memory, .links, .bytes]) (List.Subset.refl _)).mbs (by decide))
    all_goals split <;> rfl
  · exact h

theorem State.setCompanion_clean {mb step i r : Nat} {vs : List (BitVec 32)} (h : s.clean) : (s.setCompanion mb step i r vs false).clean := by
  rw [State.setCompanion]
  split
  · exact State.placeStore_clean (s := s.onMb mb step _) (h.congr rfl) _ _
  · exact h

theorem State.takeStaging_holdsMb {mb step mb' step' j : Nat} (h : s.holdsMb mb step) : (s.takeStaging mb' step' j o).holdsMb mb step := by
  rw [State.takeStaging]
  split
  · exact h
  · split
    · exact h
    · split
      · exact State.onMb_holdsMb (f := fun m => { m with staging := _ }) h (fun _ => rfl) fun _ => rfl
      · exact h

/-- Rows of dY are written, once in the micro-batch. -/
def State.writeDy (s : State) (m : MicroBatch) (q : TransformOp) (dy : List (List (BitVec 32))) : State :=
  let v := if q.act = 0 ∨ m.passed.contains q.out then s else dy.zipIdx.foldl (fun s r => s.setCompanion m.mb m.step q.out r.2 r.1 false) s
  v.onMb m.mb m.step fun m => { m with passed := insertNat q.out m.passed }

theorem State.writeCompanion_eq (dy : List (List (BitVec 32))) : s.writeCompanion x m o q dy =
    if q.preGrad = noOperand ∨ q.frozen then s.writeDy m q dy else
    let v := (s.writeDy m q dy).takeStaging m.mb m.step x.op.toNat o
    match v.operand q.w, v.itemMb x with
    | some w, some m => v.store (v.stagingBase m x.op.toNat o + roundUp (w.m * w.n * 4) 64) (bytes32 (sumRows dy)) false
    | _, _ => v := rfl

theorem State.writeDy_holdsMb {mb step : Nat} (h : s.holdsMb mb step) (dy : List (List (BitVec 32))) : (s.writeDy m q dy).holdsMb mb step := by
  rw [State.writeDy]
  refine State.onMb_holdsMb ?_ (fun _ => rfl) fun _ => rfl
  split
  · exact h
  · exact List.foldlRecOn (motive := fun v : State => v.holdsMb mb step) _ _ h fun v hv r _ => State.setCompanion_holdsMb hv

theorem State.writeDy_clean (h : s.clean) (dy : List (List (BitVec 32))) : (s.writeDy m q dy).clean := by
  have hrows : (if q.act = 0 ∨ m.passed.contains q.out then s
      else dy.zipIdx.foldl (fun s r => s.setCompanion m.mb m.step q.out r.2 r.1 false) s).clean := by
    split
    · exact h
    · exact List.foldlRecOn (motive := fun v : State => v.clean) _ _ h fun v hv r _ => State.setCompanion_clean hv
  exact hrows.congr rfl

theorem State.writeCompanion_holdsMb {mb step : Nat} (h : s.holdsMb mb step) (dy : List (List (BitVec 32))) :
    (s.writeCompanion x m o q dy).holdsMb mb step := by
  have htaken := State.takeStaging_holdsMb (o := o) (mb' := m.mb) (step' := m.step) (j := x.op.toNat) (State.writeDy_holdsMb (m := m) (q := q) h dy)
  rw [State.writeCompanion_eq]
  split
  · exact State.writeDy_holdsMb h dy
  · dsimp only
    split
    · exact htaken.congr ((State.store_within (State.within_refl _ [.memory, .bytes]) (List.Subset.refl _)).mbs (by decide))
    · exact htaken

theorem State.writeCompanion_clean (h : s.clean) (dy : List (List (BitVec 32))) : (s.writeCompanion x m o q dy).clean := by
  have htaken : ((s.writeDy m q dy).takeStaging m.mb m.step x.op.toNat o).clean :=
    (State.writeDy_clean h dy).congr ((State.takeStaging_within (State.within_refl _ [.mbs]) (List.Subset.refl _)).mem (by decide))
  rw [State.writeCompanion_eq]
  split
  · exact State.writeDy_clean h dy
  · dsimp only
    split
    · exact State.store_clean htaken _ _
    · exact htaken

end

/-! ### What a backward product reads -/

theorem State.within.placeNum {s t : State} {L : List Part} (hw : s.within L t) (hp : .draws ∉ L ∧ .bytes ∉ L) (p : Place) (n : Nat) :
    t.placeNum p n = s.placeNum p n := by
  cases p with
  | own key => simp only [State.placeNum, State.numAt, State.bytesAt, State.byteAt, hw.mem hp.2, hw.draws hp.1]
  | remote addr => simp only [State.placeNum, hw.draws hp.1]

theorem State.within.cellPasses {s t : State} {L : List Part} (hw : s.within L t) (hp : (.cfg ∉ L ∧ .run ∉ L ∧ .start ∉ L) ∧ .draws ∉ L ∧ .bytes ∉ L)
    (h : Shape) (a i : Nat) : t.cellPasses h a i = s.cellPasses h a i := by
  have hmask (n : Nat) : t.maskBit h.q n = s.maskBit h.q n := by
    simp only [State.maskBit, hw.operand ⟨hp.1.1, hp.1.2.1⟩, State.rowNum, hw.rowPlace hp.1, hw.placeNum hp.2]
  simp only [State.cellPasses, State.passCols, hmask]

/-- A backward product shares no segments, so its shape is of its own operands. -/
theorem State.within.shape {s t : State} {L : List Part} (hw : s.within L t) (hp : .cfg ∉ L ∧ .run ∉ L) {p : Product} (hkind : p.kind ≠ 0) :
    t.shape p = s.shape p := by
  have hop : t.op p.op = s.op p.op := by rw [State.op, State.op, State.slotCfg, State.slotCfg, hw.cfg hp.1, hw.run hp.2]
  simp only [State.shape, hop, hw.operand hp, if_neg hkind]

/-- Settles O40: without poison nothing that follows the taking of a block drops its product; a backward part goes on to its next product. -/
theorem products : Obligations.Products := by
  unfold Obligations.Products
  intro s c x o q y w z hbody b taken
  refine ⟨fun k u m h hm hz hw hy => ⟨fun hbusy => ?_, fun hidle hclean hpass => ?_⟩, fun m u h hy hw hz => ?_⟩
  · have hexec := exec_transform h hm hbody
    exact ⟨_, hexec.trans (congrArg Host.Outcome.next (if_pos (Option.isSome_iff_ne_none.2 hbusy))), rfl⟩
  · have hexec := exec_transform h hm hbody
    rw [show (u.block (blockOf c x)).product = none from hidle, if_neg (by simp), State.noteTransform_of_clean hclean] at hexec
    refine ⟨_, hexec, fun hb => ?_, onlyIn_of_exec hexec⟩
    have hb' : b < u.blocks.length := by rw [(State.runsForward_within h).blocks (by decide)]; exact hb
    exact State.startProduct_runsKey hclean hb' hpass (State.viewMb_productMb hm ..)
  · have hus := State.runsPart_within h
    have hmbs : u.holdsMb m.mb m.step := by
      have hfound : s.mbOf x.mb.toNat x.step.toNat = some m := h.2.2.1
      have hnames := List.find?_some hfound
      simp only [Bool.and_eq_true, beq_iff_eq] at hnames
      rw [hnames.1, hnames.2, State.holdsMb, State.mbOf, hus.mbs (by decide)]
      exact Option.isSome_iff_exists.2 ⟨m, hfound⟩
    refine ⟨fun hbusy => ⟨s, exec_transformBackward_of_busy h hbusy, rfl⟩, fun hidle hnone => ?_, fun dy hidle hdy => ?_⟩
    · have hexec := exec_transformBackward h hbody hidle hy hw
      rw [hnone] at hexec
      exact ⟨_, hexec, rfl⟩
    · have hexec := exec_transformBackward h hbody hidle hy hw
      rw [hdy, Option.elim_some, State.nextBackward] at hexec
      have hwritten : u.within [.logs, .mbs, .memory, .links, .bytes] (u.writeCompanion x m o q dy) :=
        State.writeCompanion_within (State.within_refl u _) (List.Subset.refl _)
      have hnoted : (u.writeCompanion x m o q dy).within [.dial, .logs, .memory]
          ((u.writeCompanion x m o q dy).noteOperand c (some m) m.weightV q.w w) :=
        State.noteOperand_within (State.within_refl _ _) (List.Subset.refl _)
      have hctx : ((u.writeCompanion x m o q dy).noteOperand c (some m) m.weightV q.w w).ctx c = some x :=
        State.ctx_of_within hnoted (by decide) (State.ctx_of_within hwritten (by decide) (State.runsPart_ctx h))
      have hheld (op kind : Nat) {v : State} (hv : v.mbs = (u.writeCompanion x m o q dy).mbs) :
          (v.productMb ⟨c, op, m.mb, m.step, kind, 0, false, []⟩).isSome = true := by
        rw [State.productMb, Option.isSome_map]
        exact (State.writeCompanion_holdsMb hmbs dy).congr hv
      have hstart (kind : Nat) (hclean : u.clean) (hb : b < s.blocks.length)
          (hpass : (u.writeCompanion x m o q dy).hasPass b ⟨c, x.op.toNat, m.mb, m.step, kind, 0, false, []⟩) :
          (((u.writeCompanion x m o q dy).noteOperand c (some m) m.weightV q.w w).startProduct b c x.op.toNat m.mb m.step kind 0 false).runsKey b =
            some (c, x.op.toNat, m.mb, m.step, kind) := by
        have hwclean : (u.writeCompanion x m o q dy).clean := State.writeCompanion_clean hclean dy
        rw [hwclean.noteOperand]
        refine State.startProduct_runsKey hwclean ?_ hpass (hheld _ _ rfl)
        rw [hwritten.blocks (by decide), hus.blocks (by decide)]
        exact hb
      refine ⟨fun hfrozen hno => ?_, fun hclean hdx hpass => ?_, fun hclean hno hlive hpass => ?_, fun g hno hlive hshape hpasses => ?_⟩
      · rw [if_neg (by simp [hno]), if_neg (by simp [hfrozen])] at hexec
        exact ⟨_, hexec, State.finish_draw_ctx hctx, onlyIn_of_exec hexec⟩
      · rw [if_pos (by simp [hdx])] at hexec
        exact ⟨_, hexec, fun hb => hstart 1 hclean hb hpass, onlyIn_of_exec hexec⟩
      · rw [if_neg (by simp [hno]), if_pos (by simp [hlive])] at hexec
        exact ⟨_, hexec, fun hb => hstart 2 hclean hb hpass, onlyIn_of_exec hexec⟩
      · rw [if_neg (by simp [hno]), if_pos (by simp [hlive]), State.startProduct_of_no_pass
          ((hnoted.shape (by decide) (by simp)).trans hshape) (fun a i => (hnoted.cellPasses (by decide) g a i).trans (hpasses a i))
          (hheld _ _ (hnoted.mbs (by decide)))] at hexec
        exact ⟨_, hexec, State.finish_draw_ctx hctx, onlyIn_of_exec hexec⟩

end Sys2Proof.Machine
end


section
/-! PROOFS. Chunk issue, Swap, Basin drain and Rill beats (R31, R261–R264, R271, R273, R281–R283, R286). -/

namespace Sys2Proof.Machine

set_option Elab.async false

/-! ### A cell at work -/

section
variable {s : State} {b c : Nat} {p : Product} {h : Shape} {r : CellRun}

theorem State.cellRun_product (hc : s.cellRun b c = some (p, h, r)) : (s.block b).product = some p := by
  rw [State.cellRun, Option.bind_eq_some_iff] at hc
  obtain ⟨p', hp, hrest⟩ := hc
  split at hrest
  · cases hrest; exact hp
  · cases hrest

theorem State.cellRun_lt (hc : s.cellRun b c = some (p, h, r)) : b < s.blocks.length :=
  State.block_lt (by rw [State.cellRun_product hc]; simp)

/-! ### Drops (R242, R286) -/

/-- A dropped product counts in its block. -/
theorem State.dropCell_poisonDrops (hb : b < s.blocks.length) (c : Nat) (p : Product) :
    ((s.dropCell b c p).block b).poisonDrops = satAdd (s.block b).poisonDrops 1 := by
  have hdrop : ((s.dropMb p.mb p.step).block b).poisonDrops = (s.block b).poisonDrops ∧ b < (s.dropMb p.mb p.step).blocks.length := by
    obtain hsame | hmap := s.dropMb_blocks p.mb p.step
    · exact ⟨by rw [State.block_congr hsame], by rw [hsame]; exact hb⟩
    · refine ⟨?_, by rw [hmap, List.length_map]; exact hb⟩
      rw [State.block_map hmap, if_pos hb]
      rfl
  have hlogged (who : Named) : ((s.dropMb p.mb p.step).logDevice 0x0B0 who 1 0).blocks = (s.dropMb p.mb p.step).blocks :=
    (State.logDevice_within (State.within_refl _ [.logs]) (List.Subset.refl _)).blocks (by decide)
  rw [State.dropCell, State.block_congr ((State.settle_within (State.within_refl _ [.dial, .mbs, .sched, .train]) (List.Subset.refl _)).blocks
    (by decide)), State.onBlock_block_same (by rw [hlogged]; exact hdrop.2), State.block_congr (hlogged _), ← hdrop.1]

theorem State.dropCell_memory (b c : Nat) (p : Product) : (s.dropCell b c p).memory = s.memory :=
  (State.dropCell_within (State.within_refl s [.dial, .logs, .mbs, .sched, .gather, .train, .blocks]) (List.Subset.refl _)).memory (by decide)

/-! ### Wear (R31, R467, R468): a worn unit is fenced, and nothing else of its block changes -/

/-- A block but for its fences. -/
def BlockState.unfenced (x : BlockState) : BlockState := { x with fenced := false, cellsFenced := 0 }

theorem State.fence_unfenced (unit : Nat) : ((s.fence unit).block b).unfenced = (s.block b).unfenced := by
  have hon (d : Nat) {f : BlockState → BlockState} (hf : ∀ x, (f x).unfenced = x.unfenced) :
      ((s.onBlock d f).block b).unfenced = (s.block b).unfenced := by
    rw [State.onBlock_block]
    split
    · exact hf _
    · rfl
  rw [State.fence]
  split
  · exact hon _ fun _ => rfl
  · exact hon _ fun _ => rfl
  · rfl

theorem State.markSwap_unfenced (kind unit detail code : Nat) : ((s.markSwap kind unit detail code).block b).unfenced = (s.block b).unfenced := by
  have hfenced : ((if kind = 1 then s.fence unit else s).block b).unfenced = (s.block b).unfenced := by
    split
    · exact State.fence_unfenced unit
    · rfl
  rw [State.markSwap]
  dsimp only
  generalize (if kind = 1 then s.fence unit else s) = v at hfenced
  split
  · rfl
  · split
    · exact hfenced
    · have hlogged : (v.logDevice 0x119 noName 0 0).blocks = v.blocks :=
        (State.logDevice_within (State.within_refl v [.logs]) (List.Subset.refl _)).blocks (by decide)
      exact (congrArg BlockState.unfenced (State.block_congr (s := v) (show (v.noSpare kind unit detail code false).blocks = v.blocks from hlogged)
        b)).trans hfenced

theorem State.noteWear_unfenced (monitor unit : Nat) : ((s.noteWear monitor unit).block b).unfenced = (s.block b).unfenced := by
  have hworn (v : State) (hv : v.blocks = s.blocks) : ((v.wornOut 1 unit 0 noName).block b).unfenced = (s.block b).unfenced := by
    rw [State.wornOut]
    split
    · rw [State.block_congr hv]
    · rw [State.markSwap_unfenced, State.block_congr (State.logDevice_within (State.within_refl v [.logs]) (List.Subset.refl _) |>.blocks (by decide)),
        State.block_congr hv]
  rw [State.noteWear]
  dsimp only
  split
  · rfl
  · exact hworn _ rfl

theorem State.countBasin_unfenced (c : Nat) (f : BasinFinding) : ((s.countBasin b c f).block b).unfenced =
    ((s.onBlock b fun x => { x with basinCorrected := satAdd x.basinCorrected f.corrected.toNat }).block b).unfenced :=
  List.foldlRecOn (motive := fun v : State => (v.block b).unfenced = _) _ _ rfl fun _ hv _ _ => (State.noteWear_unfenced ..).trans hv

theorem State.parityFailure_unfenced (hb : b < s.blocks.length) (c : Nat) :
    ((s.parityFailure b c).block b).unfenced = { (s.block b).unfenced with parity := satAdd (s.block b).parity 1 } := by
  rw [State.parityFailure, State.noteWear_unfenced, State.onBlock_block_same hb]
  rfl

theorem State.noteWear_length (monitor unit : Nat) : (s.noteWear monitor unit).blocks.length = s.blocks.length :=
  (State.noteWear_keepsBlock (State.keepsBlock_refl 0 s) monitor unit).length

theorem State.countBasin_length (c : Nat) (f : BasinFinding) : (s.countBasin b c f).blocks.length = s.blocks.length :=
  List.foldlRecOn (motive := fun v : State => v.blocks.length = s.blocks.length) _ _ (State.onBlock_length b _) fun _ hv _ _ =>
    (State.noteWear_length ..).trans hv

theorem State.parityFailure_length (c : Nat) : (s.parityFailure b c).blocks.length = s.blocks.length :=
  (State.noteWear_length ..).trans (State.onBlock_length b _)

/-! ### Chunk issue (R281–R283) -/

variable {q : Pass} {lane : Nat} {parity : Bool} {basin : BasinFinding}

/-- A slot's scan is counted and its lanes are left as it found them. -/
def State.scanned (s : State) (b c : Nat) (x : LaneScan) : State :=
  (s.onBlock b fun y => { y with skipped := addN y.skipped x.skipped, steals := addN y.steals x.steals }).onCell b c fun r =>
    { r with lanes := x.lanes, slot := r.slot + 1 }

/-- The Basin's findings count where a unit accumulates. -/
def State.readBasin (s : State) (b c : Nat) (p : Product) (h : Shape) (q : Pass) (u : Nat) (basin : BasinFinding) : State :=
  if s.accumulates b c p h q u then s.countBasin b c basin else s

/-- A unit's rows are issued. -/
def State.issueUnit (s : State) (b c : Nat) (p : Product) (h : Shape) (r : CellRun) (q : Pass) (u : Nat) : State :=
  (((s.writeBack b c p h r q u).onBlock b fun y => { y with issued := addN y.issued (h.unitRows q u).length }).passIssued b c).draw

/-- What a slot does with the unit that it found. -/
def State.takeUnit (s : State) (b c : Nat) (p : Product) (h : Shape) (r : CellRun) (q : Pass) (parity : Bool) (basin : BasinFinding) (u : Nat) : State :=
  if parity then (s.parityFailure b c).dropCell b c p
  else if (h.unitRows q u).any (r.chunkPoisoned h q) then s.dropCell b c p
  else if (s.readBasin b c p h q u basin).accumulates b c p h q u && basin.uncorrectable then (s.readBasin b c p h q u basin).dropCell b c p
  else (s.readBasin b c p h q u basin).issueUnit b c p h r q u

/-- The pass's slot is this lane's, and the row tile it reads has come. -/
def CellRun.slotReady (r : CellRun) (h : Shape) (q : Pass) (lane : Nat) : Bool :=
  r.on && decide (h.tileBytes q.tile ≤ r.bytes.1) && r.slot % 4 == lane

theorem exec_chunkIssue {block : Block} {cell : Fin 17} {lane : Fin 4} (hc : s.cellRun block.val cell.val = some (p, h, r))
    (hq : (s.runPasses h r)[r.pass]? = some q) (hready : r.ready = true) : exec (.chunkIssue block cell lane parity basin) s = .next
      (if r.slotReady h q lane.val then
        ((s.scanLane block.val cell.val h r q parity lane.val).unit).elim
          (((s.scanned block.val cell.val (s.scanLane block.val cell.val h r q parity lane.val)).passIssued block.val cell.val).draw)
          ((s.scanned block.val cell.val (s.scanLane block.val cell.val h r q parity lane.val)).takeUnit block.val cell.val p h r q parity basin)
      else s) := by
  have hslot : (!r.on || !r.ready || decide (r.bytes.1 < h.tileBytes q.tile) || r.slot % 4 != lane.val) = !r.slotReady h q lane.val := by
    rw [CellRun.slotReady, hready, bne, Bool.not_and, Bool.not_and, ← decide_not]
    simp only [Nat.not_le, Bool.not_true, Bool.or_false]
  have hwait : ¬ ((some (p, h, r)).any fun x : Product × Shape × CellRun => !x.2.2.ready) = true := by simp [hready]
  change execChunkIssue block cell lane parity basin s = _
  rw [execChunkIssue]
  dsimp only
  rw [hc, if_neg hwait, hc]
  dsimp only
  rw [hq]
  dsimp only
  rw [hslot]
  cases r.slotReady h q lane.val with
  | false => rfl
  | true => cases (s.scanLane block.val cell.val h r q parity lane.val).unit <;> rfl

theorem State.scanned_block (hb : b < s.blocks.length) (x : LaneScan) : ((s.scanned b c x).block b).counts =
    { (s.block b).counts with skipped := addN (s.block b).skipped x.skipped, steals := addN (s.block b).steals x.steals } := by
  rw [State.scanned, (State.onCell_keepsBlock (State.keepsBlock_refl b _) b c _).counts, State.onBlock_block_same hb]
  rfl

theorem State.scanned_length (x : LaneScan) : (s.scanned b c x).blocks.length = s.blocks.length :=
  (State.onBlock_length b _).trans (State.onBlock_length b _)

theorem State.scanned_drops (x : LaneScan) : ((s.scanned b c x).block b).poisonDrops = (s.block b).poisonDrops ∧
    ((s.scanned b c x).block b).segments = (s.block b).segments := by
  have hon (v : State) {f : BlockState → BlockState} (hf : ∀ y, (f y).poisonDrops = y.poisonDrops ∧ (f y).segments = y.segments) :
      ((v.onBlock b f).block b).poisonDrops = (v.block b).poisonDrops ∧ ((v.onBlock b f).block b).segments = (v.block b).segments := by
    rw [State.onBlock_block]
    split
    · exact hf _
    · exact ⟨rfl, rfl⟩
  have hcell := hon (s.onBlock b fun y => { y with skipped := addN y.skipped x.skipped, steals := addN y.steals x.steals })
    (f := fun y => { y with product := y.product.map fun p => { p with cells := p.cells.map fun r =>
      if r.cell == c then { r with lanes := x.lanes, slot := r.slot + 1 } else r } }) fun _ => ⟨rfl, rfl⟩
  have hblock := hon s (f := fun y => { y with skipped := addN y.skipped x.skipped, steals := addN y.steals x.steals }) fun _ => ⟨rfl, rfl⟩
  exact ⟨hcell.1.trans hblock.1, hcell.2.trans hblock.2⟩

/-- Whether a unit accumulates shows in the block's segments. -/
theorem State.accumulates_congr {t : State} (ht : (t.block b).segments = (s.block b).segments) (c : Nat) (p : Product) (h : Shape) (q : Pass) (u : Nat) :
    t.accumulates b c p h q u = s.accumulates b c p h q u := by
  have hsegments : (t.blocks.getD b BlockState.reset).segments = (s.blocks.getD b BlockState.reset).segments := ht
  rw [State.accumulates, State.accumulates, State.segmentFor, State.segmentFor, hsegments]

theorem State.countBasin_segments (c : Nat) (f : BasinFinding) : ((s.countBasin b c f).block b).segments = (s.block b).segments := by
  refine (congrArg BlockState.segments (s.countBasin_unfenced (b := b) c f) :).trans ?_
  rw [State.onBlock_block]
  split <;> rfl

theorem State.readBasin_accumulates (c : Nat) (p : Product) (h : Shape) (q : Pass) (u : Nat) :
    (s.readBasin b c p h q u basin).accumulates b c p h q u = s.accumulates b c p h q u := by
  rw [State.readBasin]
  split
  · exact State.accumulates_congr (State.countBasin_segments ..) ..
  · rfl

/-- The counters once the Basin's findings are counted. -/
theorem State.readBasin_block (hb : b < s.blocks.length) (c : Nat) (p : Product) (h : Shape) (q : Pass) (u : Nat) :
    ((s.readBasin b c p h q u basin).block b).unfenced = { (s.block b).unfenced with
      basinCorrected := if s.accumulates b c p h q u then satAdd (s.block b).basinCorrected basin.corrected.toNat else (s.block b).basinCorrected } := by
  rw [State.readBasin]
  split
  · rw [State.countBasin_unfenced, State.onBlock_block_same hb]
    rfl
  · rfl

theorem State.readBasin_length (c : Nat) (p : Product) (h : Shape) (q : Pass) (u : Nat) :
    (s.readBasin b c p h q u basin).blocks.length = s.blocks.length := by
  rw [State.readBasin]
  split
  · exact State.countBasin_length ..
  · rfl

theorem State.readBasin_memory (c : Nat) (p : Product) (h : Shape) (q : Pass) (u : Nat) : (s.readBasin b c p h q u basin).memory = s.memory := by
  rw [State.readBasin]
  split
  · exact (State.countBasin_within (State.within_refl s [.logs, .blocks, .resil]) (List.Subset.refl _)).memory (by decide)
  · rfl

theorem BlockState.counts_of_unfenced {x y : BlockState} (h : x.unfenced = y.unfenced) : x.counts = y.counts :=
  (congrArg BlockState.counts h :)

/-- The counters of a block once a unit is issued. -/
theorem State.issueUnit_counts (hb : b < s.blocks.length) (c : Nat) (p : Product) (h : Shape) (r : CellRun) (q : Pass) (u : Nat) :
    ((s.issueUnit b c p h r q u).block b).counts =
      { (s.block b).counts with issued := addN (s.block b).issued (h.unitRows q u).length } := by
  have hwritten := State.writeBack_keepsBlock (State.keepsBlock_refl b s) b c p h r q u
  have hissued := State.passIssued_keepsBlock (State.keepsBlock_refl b ((s.writeBack b c p h r q u).onBlock b fun y =>
    { y with issued := addN y.issued (h.unitRows q u).length })) b c
  have hcount : ((s.issueUnit b c p h r q u).block b).counts = (((s.writeBack b c p h r q u).onBlock b fun y =>
    { y with issued := addN y.issued (h.unitRows q u).length }).block b).counts := hissued.counts
  have hold : ((s.writeBack b c p h r q u).block b).issued = (s.block b).issued := (congrArg BlockState.issued hwritten.counts :)
  rw [hcount, State.onBlock_block_same (by rw [hwritten.length]; exact hb), ← hold]
  exact congrArg (fun x : BlockState => { x with issued := addN ((s.writeBack b c p h r q u).block b).issued (h.unitRows q u).length })
    hwritten.counts

end

end Sys2Proof.Machine
end


section
/-! PROOFS. Chunk issue, Swap, Basin drain and Rill beats: the commands (R31, R261–R264, R271, R273, R281–R283, R286). -/

namespace Sys2Proof.Machine

set_option Elab.async false

section
variable {s : State} {b c : Nat} {p : Product} {h : Shape} {r : CellRun} {q : Pass} {parity : Bool} {basin : BasinFinding}

/-! ### What a slot's unit comes to -/

/-- A micro-batch is lost to its block: the drop counts, and memory stays. -/
structure State.loses (b : Nat) (s t : State) : Prop where
  drops  : (t.block b).poisonDrops = satAdd (s.block b).poisonDrops 1
  memory : t.memory = s.memory

theorem State.dropCell_loses {v : State} (hb : b < v.blocks.length) (hdrops : (v.block b).poisonDrops = (s.block b).poisonDrops)
    (hmem : v.memory = s.memory) (c : Nat) (p : Product) : s.loses b (v.dropCell b c p) :=
  ⟨by rw [State.dropCell_poisonDrops hb, hdrops], (State.dropCell_memory b c p).trans hmem⟩

/-- A parity failure of the operand store drops what the cell works on. -/
theorem State.parityFailure_loses (hb : b < s.blocks.length) (c : Nat) (p : Product) : s.loses b ((s.parityFailure b c).dropCell b c p) :=
  State.dropCell_loses (by rw [State.parityFailure_length]; exact hb)
    (congrArg BlockState.poisonDrops (s.parityFailure_unfenced hb c) :)
    ((State.parityFailure_within (State.within_refl s [.logs, .blocks, .resil]) (List.Subset.refl _)).memory (by decide)) c p

theorem State.keepsBlock.parityCount {t : State} (h : s.keepsBlock b t) : (t.block b).parity = (s.block b).parity :=
  (congrArg BlockState.parity h.counts :)

theorem State.parityFailure_parity (hb : b < s.blocks.length) (c : Nat) (p : Product) :
    (((s.parityFailure b c).dropCell b c p).block b).parity = satAdd (s.block b).parity 1 := by
  rw [(State.dropCell_keepsBlock (State.keepsBlock_refl b (s.parityFailure b c)) b c p).parityCount]
  exact (congrArg BlockState.parity (s.parityFailure_unfenced hb c) :)

/-- A unit that meets a failure or poison is lost. -/
theorem State.takeUnit_loses (hb : b < s.blocks.length) {u : Nat} (hbad : parity = true ∨ (h.unitRows q u).any (r.chunkPoisoned h q) = true ∨
    (s.accumulates b c p h q u && basin.uncorrectable) = true) : s.loses b (s.takeUnit b c p h r q parity basin u) ∧
      (parity = true → ((s.takeUnit b c p h r q parity basin u).block b).parity = satAdd (s.block b).parity 1) := by
  rw [State.takeUnit]
  split
  next hp => exact ⟨State.parityFailure_loses hb c p, fun _ => State.parityFailure_parity hb c p⟩
  next hp =>
    refine ⟨?_, fun h' => absurd h' hp⟩
    split
    · exact State.dropCell_loses hb rfl rfl c p
    next hrows =>
      have hread : (s.accumulates b c p h q u && basin.uncorrectable) = true := hbad.resolve_left hp |>.resolve_left hrows
      rw [State.readBasin_accumulates, if_pos hread]
      exact State.dropCell_loses (by rw [State.readBasin_length]; exact hb)
        (congrArg BlockState.poisonDrops (State.readBasin_block (basin := basin) hb c p h q u) :) (State.readBasin_memory ..) c p

/-- A good unit is issued. -/
theorem State.takeUnit_of_good {u : Nat} (hp : parity = false) (hrows : (h.unitRows q u).any (r.chunkPoisoned h q) = false)
    (hread : (s.accumulates b c p h q u && basin.uncorrectable) = false) :
    s.takeUnit b c p h r q parity basin u = (s.readBasin b c p h q u basin).issueUnit b c p h r q u := by
  rw [State.takeUnit, State.readBasin_accumulates, hp, hrows, hread]
  rfl

/-- The counters of a block once a good unit is issued. -/
theorem State.takeUnit_counts (hb : b < s.blocks.length) {u : Nat} (hp : parity = false)
    (hrows : (h.unitRows q u).any (r.chunkPoisoned h q) = false) (hread : (s.accumulates b c p h q u && basin.uncorrectable) = false) :
    ((s.takeUnit b c p h r q parity basin u).block b).counts = { (s.block b).counts with
      issued := addN (s.block b).issued (h.unitRows q u).length
      basinCorrected := if s.accumulates b c p h q u then satAdd (s.block b).basinCorrected basin.corrected.toNat else (s.block b).basinCorrected } := by
  have hbasin := State.readBasin_block (basin := basin) hb c p h q u
  have hissued : ((s.readBasin b c p h q u basin).block b).issued = (s.block b).issued := (congrArg BlockState.issued hbasin :)
  rw [State.takeUnit_of_good hp hrows hread, State.issueUnit_counts (by rw [State.readBasin_length]; exact hb), hissued]
  exact (congrArg (fun x : BlockState => { x.counts with issued := addN (s.block b).issued (h.unitRows q u).length }) hbasin :)

/-! ### Swap (R253, R260, R261, R264) -/

/-- The tile in the shadow registers comes in, and the load of the following one begins. -/
def State.swapCell (s : State) (b c : Nat) (p : Product) (h : Shape) (r : CellRun) (q : Pass) (next : Nat) : State :=
  let v := (s.onBlock b fun y => { y with swaps := addN y.swaps 1 }).onCell b c fun y => { y with
    pass := next, on := true, lanes := h.lanes q, slot := 0, live := y.shadow, shadow := y.live, ready := y.ready && !r.on }
  ((((v.runPasses h r)[next + 1]?).elim v fun q => v.shadowLoad b p h r q false).prepare b).draw

/-- The tile is fetched again after a parity failure, which is logged. -/
def State.reloadTile (s : State) (b c : Nat) (p : Product) (h : Shape) (r : CellRun) (q : Pass) : State :=
  let v := (s.parityFailure b c).shadowLoad b p h r q true
  v.logDevice 0x0B1 { s.nameOf p.ctx with level := 2, unit := b % 9 + 16 * c } 0 0

theorem exec_swap {block : Block} {cell : Fin 17} (hc : s.cellRun block.val cell.val = some (p, h, r))
    (hq : (s.runPasses h r)[if r.on then r.pass + 1 else r.pass]? = some q) : exec (.swap block cell parity) s = .next
      (if r.lanes.any fun l => !l.isEmpty then s
      else if parity && h.kind == 2 then (s.parityFailure block.val cell.val).dropCell block.val cell.val p
      else
        let v := if parity then s.reloadTile block.val cell.val p h r q else s
        if (v.block block.val).product.isNone then v
        else v.swapCell block.val cell.val p h r q (if r.on then r.pass + 1 else r.pass)) := by
  change execSwap block cell parity s = _
  rw [execSwap]
  dsimp only
  rw [hc]
  dsimp only
  rw [hq]
  rfl

theorem State.swapCell_block (hb : b < s.blocks.length) (c : Nat) (p : Product) (h : Shape) (r : CellRun) (q : Pass) (next : Nat) :
    ((s.swapCell b c p h r q next).block b).counts = { (s.block b).counts with swaps := addN (s.block b).swaps 1 } ∧
      (s.swapCell b c p h r q next).logs.errorCounts[0xB1]? = s.logs.errorCounts[0xB1]? := by
  have hkept {v : State} : v.keepsBlock b ((((v.runPasses h r)[next + 1]?).elim v fun q => v.shadowLoad b p h r q false).prepare b) :=
    State.prepare_keepsBlock (State.elim_keepsBlock (State.keepsBlock_refl b v) fun q =>
      State.shadowLoad_keepsBlock (State.keepsBlock_refl b v) b p h r q false) b
  refine ⟨hkept.counts.trans ?_, hkept.parity⟩
  rw [(State.onCell_keepsBlock (State.keepsBlock_refl b _) b c _).counts, State.onBlock_block_same hb]
  rfl

/-- What fetching a tile again leaves: the failure is counted and logged, and all other counters stay. -/
theorem State.reloadTile_block (hb : b < s.blocks.length) (c : Nat) (p : Product) (h : Shape) (r : CellRun) (q : Pass) :
    ((s.reloadTile b c p h r q).block b).counts = { (s.block b).counts with parity := satAdd (s.block b).parity 1 } ∧
      (s.reloadTile b c p h r q).logs.errorCounts[0xB1]? = (s.logs.errorCounts[0xB1]?).map (satAdd · 1) ∧
      (s.reloadTile b c p h r q).blocks.length = s.blocks.length := by
  have hloaded := State.shadowLoad_keepsBlock (State.keepsBlock_refl b (s.parityFailure b c)) b p h r q true
  have hlogged (v : State) (who : Named) : (v.logDevice 0x0B1 who 0 0).blocks = v.blocks :=
    (State.logDevice_within (State.within_refl v [.logs]) (List.Subset.refl _)).blocks (by decide)
  have hparity : (s.parityFailure b c).logs.errorCounts[0xB1]? = s.logs.errorCounts[0xB1]? :=
    (State.noteWear_keepsBlock (State.keepsBlock_refl b (s.onBlock b fun x => { x with parity := satAdd x.parity 1 })) 0 (cellUnit b c)).parity
  rw [State.reloadTile]
  refine ⟨?_, ?_, ?_⟩
  · rw [State.block_congr (hlogged _ _), hloaded.counts]
    exact (congrArg BlockState.counts (s.parityFailure_unfenced hb c) :)
  · rw [State.logDevice_errorCounts_same (by decide) (by decide), hloaded.parity, hparity]
  · rw [hlogged, hloaded.length, State.parityFailure_length]

/-- What tells whether a tile is poisoned. -/
theorem State.tilePoisoned_congr {t : State} (hw : s.within [.logs, .blocks, .resil] t) (p : Product) (h : Shape) (place : Nat) (q : Pass) :
    t.tilePoisoned p h place q = s.tilePoisoned p h place q := by
  have hslot : t.slotCfg = s.slotCfg := by rw [State.slotCfg, State.slotCfg, hw.cfg (by decide), hw.run (by decide)]
  have hmask (n : Nat) : t.maskBit h.q n = s.maskBit h.q n := by
    simp only [State.maskBit, hw.operand (by decide), State.rowNum, hw.rowPlace (by decide), hw.placeNum (by decide)]
  have hpoisoned (p : Place) (n : Nat) : t.placePoisoned p n = s.placePoisoned p n := by
    cases p with
    | own k => simp only [State.placePoisoned, State.rangePoisoned, hw.mem (by decide)]
    | remote a => rfl
  have hdy (m : MicroBatch) (i : Nat) : (t.dyRow m h i).2 = (s.dyRow m h i).2 := by
    simp only [State.dyRow, State.companionSet, State.companionRow, State.gradStart, State.partOf, hslot, hw.cfg (by decide), hw.operand (by decide),
      hw.rowPlace (by decide), hpoisoned]
  simp only [State.tilePoisoned, State.productMb, State.mbOf, hw.mbs (by decide), State.passCols, hmask, hw.rowPlace (by decide), hpoisoned, hdy]

/-- A tile without poison is fetched again and the product goes on. -/
theorem State.reloadTile_product (hc : s.cellRun b c = some (p, h, r)) (htile : s.tilePoisoned p h r.place q = false) :
    ((s.reloadTile b c p h r q).block b).product.isNone = false := by
  have hb := State.cellRun_lt hc
  have hfailed : ((s.parityFailure b c).block b).product = some p :=
    (congrArg BlockState.product (s.parityFailure_unfenced hb c) :).trans (State.cellRun_product hc)
  have hw := State.parityFailure_within (b := b) (c := c) (State.within_refl s [.logs, .blocks, .resil]) (List.Subset.refl _)
  have hkey := State.shadowLoad_runsKey (b := b) (d := b) (s := s.parityFailure b c) (p := p) (g := h) (r := r) (q := q)
    (by rw [State.tilePoisoned_congr hw]; exact htile) true
  have hlogged (v : State) (who : Named) : (v.logDevice 0x0B1 who 0 0).blocks = v.blocks :=
    (State.logDevice_within (State.within_refl v [.logs]) (List.Subset.refl _)).blocks (by decide)
  rw [State.reloadTile, State.block_congr (hlogged _ _)]
  rw [State.runsKey, State.runsKey, hfailed] at hkey
  cases hnone : (((s.parityFailure b c).shadowLoad b p h r q true).block b).product with
  | some p' => rfl
  | none => rw [hnone] at hkey; cases hkey

/-! ### Drain (R271, R273) -/

theorem exec_basinDrain {block : Block} {cell : Fin 17} {segment : Fin 32} {g : Segment} {o : Op} (hc : s.cellRun block.val cell.val = some (p, h, r))
    (hg : (s.block block.val).segments.find? (fun g => g.cell == cell.val && g.num == segment.val) = some g)
    (hq : (s.runPasses h r).find? (fun q => h.segKey q == (g.tile, g.col, g.group)) = some q) (ho : s.op p.op = some o) :
    exec (.basinDrain block cell segment basin) s = .next (if s.released p h g && s.arcTurn block.val p h g then
        if basin.uncorrectable then (s.countBasin block.val cell.val basin).dropCell block.val cell.val p else
        (((((s.countBasin block.val cell.val basin).drainSegment block.val p h o g q r.place).prepare block.val).endProduct block.val).draw)
      else s) := by
  change execBasinDrain block cell segment basin s = _
  rw [execBasinDrain]
  dsimp only
  rw [hc, hg]
  dsimp only
  rw [hq, ho]
  dsimp only
  cases s.released p h g <;> cases s.arcTurn block.val p h g <;> rfl

/-- A drained segment is freed. -/
theorem State.drainSegment_freed (o : Op) (g : Segment) (place : Nat) :
    ∀ z ∈ ((s.drainSegment b p h o g q place).block b).segments, z.cell = g.cell → z.num ≠ g.num := by
  have hfree (v : State) : ∀ z ∈ ((v.onBlock b fun x => { x with
      segments := x.segments.filter fun y => !(y.cell == g.cell && y.num == g.num) }).block b).segments, z.cell = g.cell → z.num ≠ g.num := by
    intro z hz hcell hnum
    rw [State.onBlock_block] at hz
    split at hz
    · have hkept := (List.mem_filter.1 hz).2
      simp [hcell, hnum] at hkept
    next hout =>
      rw [State.block, List.getD_eq_getElem?_getD, List.getElem?_eq_none (by omega)] at hz
      cases hz
  exact hfree _

end

end Sys2Proof.Machine
end


section
/-! PROOFS. Rill beats (R31, R262, R263), and the events of cells together. -/

namespace Sys2Proof.Machine

set_option Elab.async false

section
variable {s : State} {b c : Nat} {p : Product} {h : Shape} {r : CellRun}

/-! ### A beat on the Rill (R262, R263) -/

/-- Bytes of the row tile that the cell's arc streams at a place along it. -/
def State.rillSize (s : State) (h : Shape) (r : CellRun) (i : Nat) : Nat := ((h.visits (s.runPasses h r))[i]?).elim 0 h.tileBytes

/-- The beat that the head cell injected. -/
def State.rillSent (s : State) (p : Product) (h : Shape) (r : CellRun) (i pos : Nat) : BitVec 1024 × BitVec 16 :=
  s.beatAt p h ((h.visits (s.runPasses h r)).getD i 0) pos

/-- The CRC is right for what came. -/
def rillGood (sent : BitVec 1024 × BitVec 16) (flips : BitVec 1056) : Bool :=
  crc16 (bitsLow (sent.1 ^^^ flips.extractLsb' 0 1024).toNat 1024 ++ bitsLow (sent.2 ^^^ flips.extractLsb' 1024 16).toNat 16) ==
    crc16 (bitsLow sent.1.toNat 1024 ++ bitsLow sent.2.toNat 16) ^^^ flips.extractLsb' 1040 16

/-- A good beat is copied. -/
def State.rillTake (s : State) (b c : Nat) (h : Shape) (r : CellRun) (i pos : Nat) (sent : BitVec 1024 × BitVec 16) (flips : BitVec 1056) : State :=
  ((s.onBlock b fun x => { x with retries := x.retries.filter fun y => y.1 != c }).rillCopy b r i pos (s.rillSize h r i)
    (sent.1 ^^^ flips.extractLsb' 0 1024) (sent.2 ^^^ flips.extractLsb' 1024 16)).draw

/-- A damaged beat is sent again. -/
def State.rillAgain (s : State) (b c n : Nat) : State :=
  (s.onBlock b fun x => { x with retries := insertKey c n x.retries, rillRetx := satAdd x.rillRetx 1 }).noteWear 2 (blockUnit b)

theorem exec_rillBeat {block : Block} {cell : Fin 17} (flips : BitVec 1056) (hc : s.cellRun block.val cell.val = some (p, h, r)) :
    exec (.rillBeat block cell flips) s = .next ((r.filling (s.rillSize h r)).elim s fun x =>
      if r.place = 0 ∨ p.injected r.arc ≤ x.1 then s else
      if rillGood (s.rillSent p h r x.1 x.2) flips then s.rillTake block.val cell.val h r x.1 x.2 (s.rillSent p h r x.1 x.2) flips
      else if 4 ≤ (lookupNat cell.val (s.block block.val).retries).getD 0 + 1 then s.rillFailed block.val
      else s.rillAgain block.val cell.val ((lookupNat cell.val (s.block block.val).retries).getD 0 + 1)) := by
  change execRillBeat block cell flips s = _
  rw [execRillBeat]
  dsimp only
  rw [hc]
  dsimp only
  rw [show (fun i => ((h.visits (s.runPasses h r))[i]?).elim 0 h.tileBytes) = s.rillSize h r from rfl]
  cases r.filling (s.rillSize h r) with
  | none => rfl
  | some x =>
    dsimp only [Option.elim_some]
    split
    · rfl
    · simp only [rillGood, beq_iff_eq]
      rfl

theorem State.rillCopy_retries (i pos size : Nat) (data : BitVec 1024) (poison : BitVec 16) :
    ((s.rillCopy b r i pos size data poison).block b).retries = (s.block b).retries := by
  have hstored (k : Nat) (bs : List Byte) : (s.store k bs false).block b = s.block b :=
    State.block_congr ((State.store_within (State.within_refl s [.memory, .bytes]) (List.Subset.refl _)).blocks (by decide)) b
  rw [State.rillCopy, State.onCell, State.onBlock_block]
  split
  all_goals exact (congrArg BlockState.retries (hstored ..) :)

theorem State.rillTake_retries (c i pos : Nat) (sent : BitVec 1024 × BitVec 16) (flips : BitVec 1056) :
    lookupNat c ((s.rillTake b c h r i pos sent flips).block b).retries = none := by
  have hcleared : lookupNat c ((s.onBlock b fun x => { x with retries := x.retries.filter fun y => y.1 != c }).block b).retries = none := by
    rw [State.onBlock_block]
    split
    · exact lookupNat_filter_ne.trans (if_pos rfl)
    next hout =>
      rw [State.block, List.getD_eq_getElem?_getD, List.getElem?_eq_none (by omega)]
      rfl
  exact (congrArg (lookupNat c) (State.rillCopy_retries ..)).trans hcleared

theorem State.rillTake_within (c i pos : Nat) (sent : BitVec 1024 × BitVec 16) (flips : BitVec 1056) :
    s.within [.draws, .memory, .blocks, .bytes] (s.rillTake b c h r i pos sent flips) :=
  State.draw_within (State.rillCopy_within (State.within_step (State.onBlock_within (State.within_refl s [.blocks]) (List.Subset.refl _))
    (State.within_refl s _) (by decide)) (by decide)) (by decide)

/-- The copied beat stands in the row area, and no other byte changes. -/
theorem State.rillTake_byte (c i pos : Nat) (sent : BitVec 1024 × BitVec 16) (flips : BitVec 1056) (j : Nat) :
    (s.rillTake b c h r i pos sent flips).memory.mem.byte? j =
      if rowArea b r.cell (i % 2) + pos ≤ j ∧ j < rowArea b r.cell (i % 2) + pos + min 128 (s.rillSize h r i - pos) then
        (leBytes (sent.1 ^^^ flips.extractLsb' 0 1024).toNat 128)[j - (rowArea b r.cell (i % 2) + pos)]?
      else s.memory.mem.byte? j := by
  have hlen : ((leBytes (sent.1 ^^^ flips.extractLsb' 0 1024).toNat 128).take (min 128 (s.rillSize h r i - pos))).length =
      min 128 (s.rillSize h r i - pos) := by
    rw [List.length_take, leBytes_length]
    omega
  have hstored := State.store_byte (s.onBlock b fun x => { x with retries := x.retries.filter fun y => y.1 != c })
    (rowArea b r.cell (i % 2) + pos) ((leBytes (sent.1 ^^^ flips.extractLsb' 0 1024).toNat 128).take (min 128 (s.rillSize h r i - pos))) false j
  rw [hlen] at hstored
  refine Eq.trans hstored ?_
  split
  · rw [List.getElem?_take, if_pos (by omega)]
  · rfl

theorem State.rillAgain_block (hb : b < s.blocks.length) (c n : Nat) : lookupNat c ((s.rillAgain b c n).block b).retries = some n ∧
    ((s.rillAgain b c n).block b).rillRetx = satAdd (s.block b).rillRetx 1 := by
  have hworn := State.noteWear_unfenced (b := b)
    (s := s.onBlock b fun x => { x with retries := insertKey c n x.retries, rillRetx := satAdd x.rillRetx 1 }) 2 (blockUnit b)
  rw [State.onBlock_block_same hb] at hworn
  have hretries : ((s.rillAgain b c n).block b).retries = insertKey c n (s.block b).retries := (congrArg BlockState.retries hworn :)
  exact ⟨by rw [hretries, lookupNat_insertKey_same], (congrArg BlockState.rillRetx hworn :)⟩

theorem State.rillAgain_within (c n : Nat) : s.within [.logs, .blocks, .resil] (s.rillAgain b c n) :=
  State.noteWear_within (State.within_step (State.onBlock_within (State.within_refl s [.blocks]) (List.Subset.refl _)) (State.within_refl s _)
    (by decide)) (by decide)

/-! ### A beat that failed four times (R31) -/

theorem BlockState.product_of_unfenced {x y : BlockState} (h : x.unfenced = y.unfenced) : x.product = y.product := (congrArg BlockState.product h :)

theorem BlockState.basinCorrected_of_unfenced {x y : BlockState} (h : x.unfenced = y.unfenced) : x.basinCorrected = y.basinCorrected :=
  (congrArg BlockState.basinCorrected h :)

theorem BlockState.basinCorrected_of_counts {x y : BlockState} (h : x.counts = y.counts) : x.basinCorrected = y.basinCorrected :=
  (congrArg BlockState.basinCorrected h :)

/-- What the failed block held is cancelled; the only log is that of a guarantee that lapses. -/
theorem State.dropDomain_errorCounts_ne {j : Nat} (hj : 0x047 ≠ j) (xs : List (Nat × Nat × TaskContext)) :
    (s.dropDomain xs).logs.errorCounts[j]? = s.logs.errorCounts[j]? := by
  have hmbs (ms : List (Nat × Nat)) (v : State) : (ms.foldl (fun s m => s.dropMb m.1 m.2) v).logs.errorCounts[j]? = v.logs.errorCounts[j]? :=
    List.foldlRecOn (motive := fun w : State => w.logs.errorCounts[j]? = v.logs.errorCounts[j]?) _ _ rfl fun _ hw m _ =>
      (State.dropMb_errorCounts_ne hj).trans hw
  have hended (v : State) (d : CtxId) : (v.endDropped d).logs = v.logs :=
    (State.endDropped_within (State.within_refl v [.mbs, .sched, .gather]) (List.Subset.refl _)).logs (by decide)
  have hitems (v : State) : (xs.foldl (fun s x => if x.2.2.mb.toNat = 4094 then s
      else s.endDropped ⟨BitVec.toFin (BitVec.ofNat 2 x.1), x.2.1⟩) v).logs = v.logs :=
    List.foldlRecOn (motive := fun w : State => w.logs = v.logs) _ _ rfl fun w hw x _ => by
      split
      · exact hw
      · exact (hended ..).trans hw
  have hwide (ys : List (Nat × Nat × TaskContext)) (v : State) : (ys.foldl (fun s x =>
      (s.freeCtx ⟨BitVec.toFin (BitVec.ofNat 2 x.1), x.2.1⟩).onRegion x.1 fun r => { r with cancelled := satAdd r.cancelled 1 }) v).logs = v.logs :=
    List.foldlRecOn (motive := fun w : State => w.logs = v.logs) _ _ rfl fun _ hw _ _ => hw
  have hfills (v : State) : (v.runFills.haltAtBoundary 4).logs = v.logs := by
    rw [State.haltAtBoundary_logs]
    exact (State.runFills_within (State.within_refl v [.memory]) (List.Subset.refl _)).logs (by decide)
  have hall (ms : List (Nat × Nat)) (ys : List (Nat × Nat × TaskContext)) : (ys.foldl (fun s x =>
      (s.freeCtx ⟨BitVec.toFin (BitVec.ofNat 2 x.1), x.2.1⟩).onRegion x.1 fun r => { r with cancelled := satAdd r.cancelled 1 })
      (xs.foldl (fun s x => if x.2.2.mb.toNat = 4094 then s else s.endDropped ⟨BitVec.toFin (BitVec.ofNat 2 x.1), x.2.1⟩)
        (ms.foldl (fun s m => s.dropMb m.1 m.2) s))).logs.errorCounts[j]? = s.logs.errorCounts[j]? := by
    rw [hwide, hitems]
    exact hmbs ms s
  rw [State.dropDomain]
  split
  · exact hall _ _
  · rw [hfills]
    exact hall _ _

theorem State.dropSegments_errorCounts_ne {j : Nat} (hj : 0x047 ≠ j) (b : Nat) :
    (s.dropSegments b).logs.errorCounts[j]? = s.logs.errorCounts[j]? :=
  List.foldlRecOn (motive := fun w : State => w.logs.errorCounts[j]? = s.logs.errorCounts[j]?) _ _ rfl fun _ hw _ _ =>
    (State.dropMb_errorCounts_ne hj).trans hw

/-- Work items of a block. -/
def State.blockHeld (s : State) (b : Nat) : List (Nat × Nat × TaskContext) :=
  s.contextsWith fun q t => q == b / 9 && (t.state == 3 || t.state == 4) && t.unit == 2 && t.unitIndex.toNat == b % 9

/-- The failed block is marked, without its product. -/
def State.rillFenced (s : State) (b : Nat) : State :=
  (((s.dropDomain (s.blockHeld b)).dropSegments b).onBlock b fun x => { x with product := none, retries := [] }).markSwap 1 (blockUnit b) 0 0x020

theorem State.rillFailed_eq (s : State) (b : Nat) : ∃ who dropped, s.rillFailed b = ((s.rillFenced b).logDevice 0x020 who dropped 0).settle := by
  rw [State.rillFailed, State.rillFenced, State.blockHeld]
  exact ⟨_, _, rfl⟩

theorem State.rillFailed_effect (s : State) (b : Nat) : ((s.rillFailed b).block b).product = none ∧
    (s.rillFailed b).memory.mem = s.memory.mem ∧
    (s.rillFailed b).logs.errorCounts[0x20]? = (s.logs.errorCounts[0x20]?).map (satAdd · 1) := by
  obtain ⟨who, dropped, heq⟩ := s.rillFailed_eq b
  have hmem : (s.rillFailed b).memory.mem = s.memory.mem := State.within.mem
    (State.rillFailed_within (State.within_refl s [.dial, .logs, .mbs, .sched, .memory, .gather, .train, .blocks, .resil]) (List.Subset.refl _))
    (by decide)
  refine ⟨?_, hmem, ?_⟩
  · have hnone (v : State) : ((v.onBlock b fun x => { x with product := none, retries := [] }).block b).product = none := by
      rw [State.onBlock_block]
      split
      · rfl
      next hout =>
        rw [State.block, List.getD_eq_getElem?_getD, List.getElem?_eq_none (by omega)]
        rfl
    have hfenced : ((s.rillFenced b).block b).product = none := by
      rw [State.rillFenced]
      exact (BlockState.product_of_unfenced (State.markSwap_unfenced ..)).trans (hnone _)
    have hblocks : (s.rillFailed b).blocks = (s.rillFenced b).blocks := by
      rw [heq, (State.settle_within (State.within_refl _ [.dial, .mbs, .sched, .train]) (List.Subset.refl _)).blocks (by decide),
        (State.logDevice_within (State.within_refl _ [.logs]) (List.Subset.refl _)).blocks (by decide)]
    rw [State.block_congr hblocks]
    exact hfenced
  · have hkept : (s.rillFenced b).logs.errorCounts[0x20]? = s.logs.errorCounts[0x20]? :=
      (State.markSwap_errorCounts_ne (by decide) ..).trans ((State.dropSegments_errorCounts_ne (by decide) b).trans
        (State.dropDomain_errorCounts_ne (by decide) _))
    rw [heq, State.settle_logs, State.logDevice_errorCounts_same (by decide) (by decide), hkept]

end

/-- Settles O43: one lemma per event of a cell; the work that follows an event leaves the block's counters. -/
theorem cellEvents : Obligations.CellEvents := by
  unfold Obligations.CellEvents
  intro s block cell p h r hc b c
  have hb : b < s.blocks.length := State.cellRun_lt hc
  refine ⟨fun q lane parity basin hq hready => ?_, ?_, ?_, ?_⟩
  · have hexec := exec_chunkIssue (parity := parity) (basin := basin) (lane := lane) hc hq hready
    have hlen (x : LaneScan) : b < (s.scanned b c x).blocks.length := by rw [State.scanned_length]; exact hb
    refine ⟨fun hslot => ?_, fun hslot hnone => ?_, fun u hslot hu => ⟨fun hp hrows hread => ?_, fun hbad => ?_⟩⟩
    · exact ⟨s, hexec.trans (congrArg Host.Outcome.next (if_neg (ne_true_of_eq_false hslot))), rfl⟩
    all_goals replace hexec := hexec.trans (congrArg Host.Outcome.next (if_pos hslot))
    · have hnone : (s.scanLane block.val cell.val h r q parity lane.val).unit = none := hnone
      rw [hnone, Option.elim_none] at hexec
      have hkept := (State.passIssued_keepsBlock (State.keepsBlock_refl b (s.scanned b c (s.scanLane b c h r q parity lane.val))) b c).counts.trans
        (State.scanned_block hb (s.scanLane b c h r q parity lane.val))
      exact ⟨_, hexec, (congrArg BlockState.issued hkept :), (congrArg BlockState.skipped hkept :)⟩
    · have hu : (s.scanLane block.val cell.val h r q parity lane.val).unit = some u := hu
      rw [hu, Option.elim_some] at hexec
      have haccumulates := State.accumulates_congr (State.scanned_drops (s := s) (b := b) (c := c) (s.scanLane b c h r q parity lane.val)).2 c p h q u
      have hscan := State.scanned_block (c := c) hb (s.scanLane b c h r q parity lane.val)
      have hkept := State.takeUnit_counts (c := c) (p := p) (basin := basin) (hlen (s.scanLane b c h r q parity lane.val)) hp hrows
        (by rw [haccumulates]; exact hread)
      have hissued : ((s.scanned b c (s.scanLane b c h r q parity lane.val)).block b).issued = (s.block b).issued :=
        (congrArg BlockState.issued hscan :)
      have hbasin : ((s.scanned b c (s.scanLane b c h r q parity lane.val)).block b).basinCorrected = (s.block b).basinCorrected :=
        (congrArg BlockState.basinCorrected hscan :)
      rw [haccumulates, hscan, hissued, hbasin] at hkept
      exact ⟨_, hexec, (congrArg BlockState.issued hkept :), (congrArg BlockState.skipped hkept :), (congrArg BlockState.steals hkept :),
        (congrArg BlockState.basinCorrected hkept :), onlyIn_of_exec hexec⟩
    · have hu : (s.scanLane block.val cell.val h r q parity lane.val).unit = some u := hu
      rw [hu, Option.elim_some] at hexec
      have haccumulates := State.accumulates_congr (State.scanned_drops (s := s) (b := b) (c := c) (s.scanLane b c h r q parity lane.val)).2 c p h q u
      obtain ⟨hloses, hcount⟩ := State.takeUnit_loses (c := c) (p := p) (basin := basin) (hlen (s.scanLane b c h r q parity lane.val))
        (hbad.imp_right (Or.imp_right fun hread => by rw [haccumulates]; exact hread))
      refine ⟨_, hexec, ⟨?_, hloses.memory⟩, fun hp => ?_⟩
      · exact hloses.drops.trans (by rw [(State.scanned_drops _).1])
      · have hparity : ((s.scanned b c (s.scanLane b c h r q parity lane.val)).block b).parity = (s.block b).parity :=
          (congrArg BlockState.parity (State.scanned_block hb _) :)
        exact (hcount hp).trans (by rw [hparity])
  · intro q parity next busy hq
    have hexec := exec_swap (parity := parity) hc hq
    have hproduct : (s.block b).product.isNone = false := by rw [State.cellRun_product hc]; rfl
    refine ⟨fun hbusy => ?_, fun hidle hgood => ?_, fun hidle hbad => ?_⟩
    · exact ⟨s, hexec.trans (congrArg Host.Outcome.next (if_pos hbusy)), rfl⟩
    all_goals replace hexec := hexec.trans (congrArg Host.Outcome.next (if_neg (ne_true_of_eq_false hidle)))
    · subst hgood
      replace hexec := hexec.trans (congrArg Host.Outcome.next (if_neg (ne_true_of_eq_false hproduct)))
      exact ⟨_, hexec, rfl, (congrArg BlockState.swaps (State.swapCell_block hb c p h r q next).1 :)⟩
    · subst hbad
      by_cases hkind : h.kind = 2
      · replace hexec := hexec.trans (congrArg Host.Outcome.next (if_pos (by rw [hkind]; rfl)))
        have hloses := State.parityFailure_loses hb c p
        exact ⟨_, hexec, State.parityFailure_parity hb c p, fun _ => ⟨hloses.drops, hloses.memory⟩, fun hne => absurd hkind hne⟩
      · have hreloaded : exec (.swap block cell true) s = .next (if ((s.reloadTile b c p h r q).block b).product.isNone then s.reloadTile b c p h r q
            else (s.reloadTile b c p h r q).swapCell b c p h r q next) :=
          hexec.trans (congrArg Host.Outcome.next (if_neg (by simp [hkind])))
        obtain ⟨hcounts, hlog, hlength⟩ := State.reloadTile_block hb c p h r q
        obtain ⟨hswaps, hswapLog⟩ := State.swapCell_block (by rw [hlength]; exact hb) c p h r q next (s := s.reloadTile b c p h r q)
        refine ⟨_, hreloaded, ?_, fun h2 => absurd h2 hkind, fun _ => ⟨?_, fun htile => ?_⟩⟩
        · split
          · exact (congrArg BlockState.parity hcounts :)
          · exact (congrArg BlockState.parity hswaps :).trans (congrArg BlockState.parity hcounts :)
        · split
          · exact hlog
          · exact hswapLog.trans hlog
        · rw [if_neg (ne_true_of_eq_false (State.reloadTile_product hc htile))]
          refine (congrArg BlockState.swaps hswaps :).trans ?_
          have hold : ((s.reloadTile b c p h r q).block b).swaps = (s.block b).swaps := (congrArg BlockState.swaps hcounts :)
          rw [hold]
  · intro segment g q o basin hg hq ho counted
    have hexec := exec_basinDrain (basin := basin) hc hg hq ho
    refine ⟨fun hwait => ?_, fun hdue hgood v hv => ?_, fun hdue hbad => ?_⟩
    · exact ⟨s, hexec.trans (congrArg Host.Outcome.next (if_neg (ne_true_of_eq_false hwait))), rfl⟩
    all_goals replace hexec := hexec.trans (congrArg Host.Outcome.next (if_pos hdue))
    · replace hexec := hexec.trans (congrArg Host.Outcome.next (if_neg (ne_true_of_eq_false hgood)))
      subst hv
      exact ⟨_, hexec, rfl, State.drainSegment_freed o g r.place⟩
    · refine ⟨_, hexec.trans (congrArg Host.Outcome.next (if_pos hbad)), rfl, ?_⟩
      have hdropped := (State.dropCell_keepsBlock (State.keepsBlock_refl b (s.countBasin b c basin)) b c p).counts
      have hcounted := s.countBasin_unfenced (b := b) c basin
      rw [State.onBlock_block_same hb] at hcounted
      exact (BlockState.basinCorrected_of_counts hdropped).trans (BlockState.basinCorrected_of_unfenced hcounted)
  · intro flips tiles size
    have hexec := exec_rillBeat flips hc
    refine ⟨fun hnone => ⟨s, ?_, rfl⟩, fun i pos hplace hfill => ?_⟩
    · rw [hexec]
      cases hf : r.filling (s.rillSize h r) with
      | none => rfl
      | some x =>
        have hfirst : r.place = 0 := hnone.resolve_right fun hno => by rw [show r.filling (s.rillSize h r) = none from hno] at hf; cases hf
        exact congrArg Host.Outcome.next (if_pos (.inl hfirst))
    · rw [show r.filling (s.rillSize h r) = some (i, pos) from hfill, Option.elim_some] at hexec
      dsimp only at hexec
      refine ⟨fun hahead => ?_, fun hsent hgood => ?_, fun hsent hbad hfew => ?_, fun hsent hbad hmany => ?_⟩
      · exact ⟨s, hexec.trans (congrArg Host.Outcome.next (if_pos (.inr hahead))), rfl⟩
      all_goals replace hexec := hexec.trans (congrArg Host.Outcome.next (if_neg (by omega)))
      · have hw := s.rillTake_within (b := b) (h := h) (r := r) c i pos (s.rillSent p h r i pos) flips
        have hretries := s.rillTake_retries (b := b) (h := h) (r := r) c i pos (s.rillSent p h r i pos) flips
        refine ⟨_, hexec.trans (congrArg Host.Outcome.next (if_pos hgood)), hretries, hw.1, fun j hj => ?_, fun a ha => ?_⟩
        · rw [State.rillTake_byte, if_pos ⟨Nat.le_add_right .., Nat.add_lt_add_left hj _⟩, Nat.add_sub_cancel_left]
          rfl
        · rw [State.rillTake_byte]
          exact if_neg fun hin => ha (inRanges_singleton.2 hin)
      all_goals replace hexec := hexec.trans (congrArg Host.Outcome.next (if_neg (ne_true_of_eq_false hbad)))
      · obtain ⟨hretries, hcount⟩ := State.rillAgain_block hb c ((lookupNat c (s.block b).retries).getD 0 + 1)
        have hw := State.rillAgain_within (s := s) (b := b) c ((lookupNat c (s.block b).retries).getD 0 + 1)
        exact ⟨_, hexec.trans (congrArg Host.Outcome.next (if_neg (Nat.not_le_of_lt (Nat.add_lt_add_right hfew 1)))), hretries, hcount,
          hw.memory (by decide), hw.1⟩
      · replace hexec := hexec.trans (congrArg Host.Outcome.next (if_pos (Nat.add_le_add_right hmany 1)))
        exact ⟨_, hexec, s.rillFailed_effect block.val⟩

end Sys2Proof.Machine
end


section
/-! PROOFS. An AGGREGATE of an evaluation pass whose micro-batch is one of training: the pass its lists are taken from. -/
namespace Sys2Proof.Machine

set_option Elab.async false
open Tests

section
variable {s : State} {a k : Nat} {bs : List Byte}

/-! ### A byte once written stays written -/

theorem State.store_written (p : Bool) (h : k ≤ a ∧ a < k + bs.length) : ((s.store k bs p).memory.mem.byte? a).isSome := by
  rw [State.store_byte, if_pos h, List.getElem?_eq_getElem (by omega)]
  rfl

theorem State.store_keeps_written (p : Bool) (h : (s.memory.mem.byte? a).isSome) : ((s.store k bs p).memory.mem.byte? a).isSome := by
  by_cases hin : k ≤ a ∧ a < k + bs.length
  · exact State.store_written p hin
  · rwa [State.store_byte, if_neg hin]

theorem State.fold_keeps_written {l : List Nat} {f : State → Nat → State} 
    (hf : ∀ v j, ((v.memory.mem.byte? a).isSome) → ((f v j).memory.mem.byte? a).isSome) (h : (s.memory.mem.byte? a).isSome) :
    ((l.foldl f s).memory.mem.byte? a).isSome := by
  induction l generalizing s with
  | nil => exact h
  | cons j l ih => exact ih (hf s j h)

theorem State.storeBeats_written {mark : Nat → Bool} (h : 0 < bs.length) :
    ((s.storeBeats (.own k) bs mark).memory.mem.byte? k).isSome := by
  rw [State.storeBeats, show ceilDiv bs.length 64 = (ceilDiv bs.length 64 - 1) + 1 by rw [ceilDiv]; omega, List.range_succ_eq_map,
    List.foldl_cons]
  refine State.fold_keeps_written (fun v j hv => State.store_keeps_written _ hv) ?_
  exact State.store_written _ ⟨by omega, by rw [List.length_take, List.drop_zero]; omega⟩

end

/-- Where an operand keeps no winners, a row of it is its beats. -/
theorem State.writeElems_eq {s : State} {m : MicroBatch} {i r : Nat} {x : Operand} {es : List Elem} {wins : List (BitVec 32)}
    (h : s.slotCfg.hasWinners i = false) : s.writeElems m i x r es wins =
      s.storeBeats (s.rowPlace (some m) 0 i x r) (x.encode rne (valsOf (es.map (·.1)))) (fun j => es.zipIdx.any fun e => e.1.2 &&
        (e.2 * elemBits x.format / 512 == j || isMx x.format && (valueBytes x.format 0 x.n + e.2 / 32) / 64 == j)) := by
  have hw : s.within [.draws, .memory, .bytes, .links, .logs] (s.storeBeats (s.rowPlace (some m) 0 i x r)
      (x.encode rne (valsOf (es.map (·.1)))) (fun j => es.zipIdx.any fun e => e.1.2 &&
        (e.2 * elemBits x.format / 512 == j || isMx x.format && (valueBytes x.format 0 x.n + e.2 / 32) / 64 == j))) :=
    State.storeBeats_within (State.within_refl s _) (by decide)
  rw [State.writeElems, if_neg]
  rw [State.slotCfg, hw.cfg (by decide), hw.run (by decide)]
  exact ne_true_of_eq_false h

/-- Without a row read, an AGGREGATE over a basket of one destination writes that row, of zeros. -/
theorem State.foldAll_nil {s : State} {m : MicroBatch} {a : AggregateOp} {order : List Nat} {x : Operand} (hself : a.self = false)
    (h : s.recordField m (s.slotCfg.listsOf (decide (1024 ≤ m.mb)) a.trail) (192 + 32 * (a.hop - 1)) = 1) :
    s.foldAll m a order x [] [] = s.writeElems m a.out x 0 (List.replicate x.n (0, false)) (List.replicate x.n 0xFFFFFFFF) := by
  rw [State.foldAll]
  dsimp only
  rw [h, hself, if_neg Bool.false_ne_true]
  rfl

theorem State.ownItems_nil {s : State} {m : MicroBatch} {lists : Nat} {a : AggregateOp} (h : a.self = false) : s.ownItems m lists a = [] := by
  rw [State.ownItems, h]
  rfl

theorem not_inRanges_rowRanges {s : State} {m : Option MicroBatch} {i n a : Nat} {x : Operand} (h : n = 0) : ¬ inRanges (s.rowRanges m i x n) a := by
  subst h
  exact inRanges_nil

/-- `graph` with a mean over a kind 3 operand that is an operation of an evaluation pass. -/
def evalMean : State :=
  let s := graph (.aggregate (mean 4)) 1 0 0 1
  { s with
    cfg := { s.cfg with slots := s.cfg.slots.map fun x => (x.1, { x.2 with
      ops := [opOf (.sample 0 1 1 2), { opOf (.aggregate (mean 4)) with eval := true }] }) } }

def evalMeanOp : Op := { opOf (.aggregate (mean 4)) with eval := true }

/-- The operand that the mean of `evalMean` reads and writes. -/
def meanOperand : Operand := { x0 with base := 2 ^ 48 + 8192, rows := 255 }

theorem evalMean_runs : evalMean.runsForward c0 second evalMeanOp 1 evalMean :=
  runsOwn (by decide) (by decide) (by decide) (by decide) rfl

theorem evalMean_met : evalMean.viewMb second = some mb0 ∧ evalMean.slotCfg.tableOf evalMean.cfg.tables 4 = none ∧
    evalMean.operand 4 = some meanOperand ∧ evalMean.slotCfg.hasWinners 4 = false := by decide

set_option maxRecDepth 100000 in
set_option exponentiation.threshold 1024 in
/-- The evaluation pass has no SAMPLE, so its trail has no lists: no edge and no row to write. -/
theorem evalMean_noRows : evalMean.trailItems mb0 (evalMean.slotCfg.listsOf evalMeanOp.eval (mean 4).trail) (mean 4).trail (mean 4).hop = [] ∧
    evalMean.recordField mb0 (evalMean.slotCfg.listsOf evalMeanOp.eval (mean 4).trail) (192 + 32 * ((mean 4).hop - 1)) = 0 := by decide

set_option maxRecDepth 100000 in
set_option exponentiation.threshold 1024 in
theorem evalMean_unwritten : evalMean.memory.mem.byte? (memKey 1 8192) = none := by decide

set_option maxRecDepth 100000 in
set_option exponentiation.threshold 1024 in
theorem evalMean_count :
    evalMean.recordField mb0 (evalMean.slotCfg.listsOf (decide (1024 ≤ mb0.mb)) (mean 4).trail) (192 + 32 * ((mean 4).hop - 1)) = 1 := by
  decide

theorem evalMean_place : evalMean.rowPlace (some mb0) 0 4 meanOperand 0 = .own (memKey 1 8192) := by decide

/-- The fold counts the destinations of the training basket, for the micro-batch is one of training, and writes row 0. -/
theorem evalMean_writes : ((evalMean.foldAll mb0 (mean 4) [] meanOperand [] []).memory.mem.byte? (memKey 1 8192)).isSome := by
  have hwin : evalMean.slotCfg.hasWinners (mean 4).out = false := evalMean_met.2.2.2
  rw [State.foldAll_nil (by decide) evalMean_count, State.writeElems_eq hwin, show (mean 4).out = 4 from rfl, evalMean_place]
  exact State.storeBeats_written (by rw [Operand.encode_length]; decide)

/-- Refutes O36: an AGGREGATE of an evaluation pass that runs for a training micro-batch reads no row and has no row to write, as its pass
has no SAMPLE, but the fold takes its count of destinations from the training basket and writes them. -/
theorem not_aggregation : ¬ Obligations.Aggregation := by
  intro h
  obtain ⟨hview, htable, hout, hwin⟩ := evalMean_met
  obtain ⟨hedges, hcount⟩ := evalMean_noRows
  obtain ⟨-, hkind3⟩ := h evalMean c0 [] [] second evalMeanOp 1 evalMean mb0 (mean 4) meanOperand evalMean_runs hview rfl hout
  obtain ⟨t, -, -, hmem, honly⟩ := hkind3 meanOperand htable hout
  have hitems : evalMean.trailItems mb0 (evalMean.slotCfg.listsOf evalMeanOp.eval (mean 4).trail) (mean 4).trail (mean 4).hop ++
      evalMean.ownItems mb0 (evalMean.slotCfg.listsOf evalMeanOp.eval (mean 4).trail) (mean 4) = [] := by
    rw [hedges, State.ownItems_nil (by decide), List.append_nil]
  rw [hitems, List.foldl_nil] at hmem
  dsimp only at hmem
  have hbyte := honly hwin (memKey 1 8192) (not_inRanges_rowRanges hcount)
  rw [evalMean_unwritten, hmem] at hbyte
  have hwrites := evalMean_writes
  rw [hbyte] at hwrites
  exact Bool.false_ne_true hwrites

end Sys2Proof.Machine
end


section
/-! PROOFS. OPTIMIZE: the rows of a sub-item in the other buffer, and the end of an item (R138, R309, R337). -/
namespace Sys2Proof.Machine

set_option Elab.async false

/-! ### What an update reads its version and its count from -/

/-- The operands, the versions, the update counts, the slot and the regions are as they were. -/
structure State.keepsUpdates (s t : State) : Prop where
  cfg      : t.cfg = s.cfg
  start    : t.start = s.start
  versions : t.train.versions = s.train.versions
  updates  : t.train.updates = s.train.updates
  run      : t.run = s.run
  regions  : t.sched.length = s.sched.length

section
variable {s0 s t : State}

theorem State.keepsUpdates_refl (s : State) : s.keepsUpdates s := ⟨rfl, rfl, rfl, rfl, rfl, rfl⟩

theorem State.keepsUpdates.trans (h : s0.keepsUpdates s) (h' : s.keepsUpdates t) : s0.keepsUpdates t :=
  ⟨h'.cfg.trans h.cfg, h'.start.trans h.start, h'.versions.trans h.versions, h'.updates.trans h.updates, h'.run.trans h.run, h'.regions.trans h.regions⟩

theorem State.keepsUpdates_of_within {L : List Part} (hw : s.within L t) (hp : .cfg ∉ L ∧ .start ∉ L ∧ .train ∉ L ∧ .run ∉ L ∧ .sched ∉ L := by decide) :
    s.keepsUpdates t := by
  obtain ⟨hcfg, hstart, htrain, hrun, hsched⟩ := hp
  exact ⟨hw.cfg hcfg, hw.start hstart, by rw [hw.train htrain], by rw [hw.train htrain], hw.run hrun, by rw [hw.sched hsched]⟩

theorem State.keepsUpdates.within {L : List Part} (h : s0.keepsUpdates s) (hw : s.within L t)
    (hp : .cfg ∉ L ∧ .start ∉ L ∧ .train ∉ L ∧ .run ∉ L ∧ .sched ∉ L := by decide) : s0.keepsUpdates t := h.trans (State.keepsUpdates_of_within hw hp)

theorem State.keepsUpdates_ite {p : Prop} [Decidable p] {a b : State} (ha : s0.keepsUpdates a) (hb : s0.keepsUpdates b) :
    s0.keepsUpdates (if p then a else b) := by
  split <;> assumption

theorem State.keepsUpdates_fold {α : Type} {l : List α} {f : State → α → State} (hf : ∀ v a, s0.keepsUpdates v → s0.keepsUpdates (f v a))
    (h : s0.keepsUpdates s) : s0.keepsUpdates (l.foldl f s) := by
  induction l generalizing s with
  | nil => exact h
  | cons a l ih => exact ih (hf s a h)

theorem State.keepsUpdates.weightVersion (h : s.keepsUpdates t) : t.weightVersion = s.weightVersion := by
  rw [State.weightVersion, State.weightVersion, h.versions, h.run]

theorem State.keepsUpdates.updateCount (h : s.keepsUpdates t) (j : Nat) : t.updateCount j = s.updateCount j := by
  rw [State.updateCount, State.updateCount, h.updates, h.run]

theorem State.lapse_keepsUpdates (h : s0.keepsUpdates s) : s0.keepsUpdates s.lapse :=
  h.within (State.lapse_within (State.within_refl _ [.dial, .logs]) (List.Subset.refl _))

theorem State.keepsUpdates.operand (h : s.keepsUpdates t) (i : Nat) : t.operand i = s.operand i := by
  rw [State.operand, State.operand, State.slotCfg, State.slotCfg, h.cfg, h.run]

theorem State.dropMb_keepsUpdates (h : s0.keepsUpdates s) (mb step : Nat) : s0.keepsUpdates (s.dropMb mb step) := by
  rw [State.dropMb]
  split
  · exact h
  next m _ =>
    have hcleared : s0.keepsUpdates (({ s with sched := s.sched.map fun r => { r with
        contexts := r.contexts.filter (fun x => !(x.2.mb.toNat == mb && x.2.step.toNat == step) || x.2.state == 3 && x.2.unit == 3),
        cancelled := satAdd r.cancelled (r.contexts.filter fun x => x.2.mb.toNat == mb && x.2.step.toNat == step).length } } : State).onMb mb step
          fun m => { m with dropped := true }) := h.trans ⟨rfl, rfl, rfl, rfl, rfl, List.length_map _⟩
    have hfreed := hcleared.within (State.freeDropped_within (mb := mb) (step := step) (State.within_refl _ [.mbs]) (List.Subset.refl _))
    exact State.keepsUpdates_ite h (State.lapse_keepsUpdates (hfreed.trans ⟨rfl, rfl, rfl, rfl, rfl, rfl⟩))

theorem State.cancelHolders_keepsUpdates (s : State) : s.keepsUpdates s.cancelHolders := by
  have hlog {v : State} {who : Named} {n : Nat} (hv : s.keepsUpdates v) : s.keepsUpdates (v.logDevice 0x0C0 who n 0) :=
    hv.within (State.logDevice_within (State.within_refl v [.logs]) (List.Subset.refl _))
  have hcancelled (l : List MicroBatch) : s.keepsUpdates (l.foldl (fun v m =>
      ((v.dropMb m.mb m.step).logDevice 0x0C0 (v.nameMb m) 1 0).onTrain fun t => { t with reclaimed := satAdd t.reclaimed 1 }) s) :=
    State.keepsUpdates_fold (fun v m hv => (hlog (State.dropMb_keepsUpdates hv m.mb m.step)).trans ⟨rfl, rfl, rfl, rfl, rfl, rfl⟩)
      (State.keepsUpdates_refl s)
  exact State.keepsUpdates_ite (hlog ((hcancelled _).within
    (State.abandonDrain_within (State.within_refl _ [.resil]) (List.Subset.refl _)))) (hcancelled _)

end

/-! ### The end of an item (R138, R168, R297, R319) -/

section
variable {s : State} {c : CtxId} {j : Nat} {p : OptimizeOp} {x : TaskContext}

/-- The gradient of a dense target counts as read. -/
def State.markGradRead (s : State) (p : OptimizeOp) : State :=
  if s.slotCfg.isKind p.target 2 then s.onTrain fun t => { t with storeFirst := insertNat noOperand (insertNat p.grad t.storeFirst) } else s

/-- `u` of an operation advances. -/
def State.countUpdate (s : State) (j : Nat) : State :=
  s.onTrain fun t => { t with updates := t.updates.filter (fun x => !(x.1 == s.run.slot.toNat && x.2.1 == j)) ++
    [(s.run.slot.toNat, j, s.updateCount j + 1)] }

/-- Whether every weight update of the step is written. -/
def State.noteWritten (s : State) : State := s.onTrain fun t => { t with written := s.weightUpdates.all s.hasWritten }

/-- The taps of a dense target's layer. -/
def State.tapTarget (s : State) (p : OptimizeOp) : State := (s.slotCfg.layerOfTarget p.target).elim s s.tapLayer

/-- A table's update has ended: requests that waited for it are answered. -/
def State.endTableUpdate (s : State) (p : OptimizeOp) : State :=
  match s.slotCfg.tableOf s.cfg.tables p.target with
  | some tb => (s.onTables fun x => { x with updating := x.updating.filter (· != tb.id) }).answerHeldRows
  | none => s

/-- What the end of an item does once its context has run. -/
def State.afterOptimize (s : State) (j : Nat) (p : OptimizeOp) (wrote : Bool) : State :=
  let v := if wrote then (s.markGradRead p).countUpdate j else s.markGradRead p
  (if wrote && s.slotCfg.isKind p.target 2 then (v.tapTarget p).noteWritten else v).endTableUpdate p

theorem State.endOptimize_eq (s : State) (c : CtxId) (j : Nat) (p : OptimizeOp) (wrote : Bool) :
    s.endOptimize c j p wrote = (s.finish c).afterOptimize j p wrote := by
  cases wrote <;> rfl

theorem State.countUpdate_updateCount : (s.countUpdate j).updateCount j = s.updateCount j + 1 := by
  rw [State.updateCount, show (s.countUpdate j).train.updates = s.train.updates.filter (fun x => !(x.1 == s.run.slot.toNat && x.2.1 == j)) ++
    [(s.run.slot.toNat, j, s.updateCount j + 1)] from rfl, List.find?_append, List.find?_eq_none.2]
  · simp [show (s.countUpdate j).run = s.run from rfl]
  · intro u hu
    have hother := (List.mem_filter.1 hu).2
    rw [show (s.countUpdate j).run = s.run from rfl]
    exact ne_true_of_eq_false (Bool.eq_false_of_not_eq_true' hother)


theorem State.tapTarget_updates : (s.tapTarget p).train.updates = s.train.updates := by
  rw [State.tapTarget]
  cases s.slotCfg.layerOfTarget p.target with
  | none => rfl
  | some layer => rfl

theorem State.markGradRead_within (s : State) (p : OptimizeOp) : s.within [.train] (s.markGradRead p) :=
  State.within_ite (State.onTrain_within (State.within_refl s _) (List.Subset.refl _)) (State.within_refl s _)

theorem State.tapTarget_within (s : State) (p : OptimizeOp) : s.within [.train] (s.tapTarget p) :=
  State.within_elim (fun _ => State.tapLayer_within (State.within_refl s _) (List.Subset.refl _)) (State.within_refl s _)

theorem State.endTableUpdate_within (s : State) (p : OptimizeOp) : s.within [.dial, .logs, .memory, .tables, .links] (s.endTableUpdate p) := by
  rw [State.endTableUpdate]
  split
  · exact State.answerHeldRows_within (State.onTables_within (State.within_refl s _) (by decide)) (List.Subset.refl _)
  · exact State.within_refl s _

theorem State.markGradRead_updates : (s.markGradRead p).train.updates = s.train.updates := by
  rw [State.markGradRead]
  split <;> rfl

theorem State.markGradRead_updateCount : (s.markGradRead p).updateCount j = s.updateCount j := by
  rw [State.updateCount, State.updateCount, State.markGradRead_updates, (State.markGradRead_within s p).run (by decide)]

/-- The end of a skipped item: no count advances. -/
theorem State.afterOptimize_skipped : (s.afterOptimize j p false).sched = s.sched ∧ (s.afterOptimize j p false).updateCount j = s.updateCount j := by
  have hend : (s.markGradRead p).within [.dial, .logs, .memory, .tables, .links] (s.afterOptimize j p false) :=
    State.endTableUpdate_within (s.markGradRead p) p
  refine ⟨(hend.sched (by decide)).trans ((State.markGradRead_within s p).sched (by decide)), ?_⟩
  exact ((State.keepsUpdates_of_within hend).updateCount j).trans State.markGradRead_updateCount

theorem State.tapWritten_sched (v : State) : (v.tapTarget p).noteWritten.sched = v.sched := (State.tapTarget_within v p).sched (by decide)

theorem State.tapWritten_updateCount (v : State) : (v.tapTarget p).noteWritten.updateCount j = v.updateCount j := by
  rw [State.updateCount, State.updateCount, show (v.tapTarget p).noteWritten.train.updates = v.train.updates from State.tapTarget_updates,
    show (v.tapTarget p).noteWritten.run = v.run from (State.tapTarget_within v p).run (by decide)]

/-- The end of an item that wrote its rows: its count advances. -/
theorem State.afterOptimize_written : (s.afterOptimize j p true).sched = s.sched ∧ (s.afterOptimize j p true).updateCount j = s.updateCount j + 1 := by
  have hcount : ((s.markGradRead p).countUpdate j).updateCount j = s.updateCount j + 1 := by
    rw [State.countUpdate_updateCount, State.markGradRead_updateCount]
  have hsched : ((s.markGradRead p).countUpdate j).sched = s.sched := (State.markGradRead_within s p).sched (by decide)
  have htapped : (if true && s.slotCfg.isKind p.target 2 then (((s.markGradRead p).countUpdate j).tapTarget p).noteWritten
      else (s.markGradRead p).countUpdate j).sched = s.sched ∧
    (if true && s.slotCfg.isKind p.target 2 then (((s.markGradRead p).countUpdate j).tapTarget p).noteWritten
      else (s.markGradRead p).countUpdate j).updateCount j = s.updateCount j + 1 := by
    split
    · exact ⟨(State.tapWritten_sched _).trans hsched, (State.tapWritten_updateCount _).trans hcount⟩
    · exact ⟨hsched, hcount⟩
  have hend := State.endTableUpdate_within (if true && s.slotCfg.isKind p.target 2 then (((s.markGradRead p).countUpdate j).tapTarget p).noteWritten
      else (s.markGradRead p).countUpdate j) p
  exact ⟨(hend.sched (by decide)).trans htapped.1,
    ((State.keepsUpdates_of_within hend).updateCount j).trans htapped.2⟩

theorem State.endOptimize_mem (s : State) (c : CtxId) (j : Nat) (p : OptimizeOp) (wrote : Bool) :
    (s.endOptimize c j p wrote).memory.mem = s.memory.mem :=
  (State.endOptimize_within (State.within_refl s [.dial, .logs, .sched, .memory, .tables, .train, .links]) (List.Subset.refl _)).mem (by decide)

theorem State.finish_updateCount : (s.finish c).updateCount j = s.updateCount j := by
  have hw := State.finish_within (c := c) (State.within_refl s [.sched]) (List.Subset.refl _)
  rw [State.updateCount, State.updateCount, hw.train (by decide), hw.run (by decide)]

/-- An item that ends has run. -/
theorem State.endOptimize_skipped (hx : s.ctx c = some x) : (s.endOptimize c j p false).ctx c = some { x with state := 4 } ∧
    (s.endOptimize c j p false).updateCount j = s.updateCount j := by
  obtain ⟨hsched, hcount⟩ := State.afterOptimize_skipped (s := s.finish c) (j := j) (p := p)
  rw [State.endOptimize_eq, State.ctx_congr hsched, hcount, State.finish_ctx hx, State.finish_updateCount]
  exact ⟨rfl, rfl⟩

theorem State.endOptimize_written (hx : s.ctx c = some x) : (s.endOptimize c j p true).ctx c = some { x with state := 4 } ∧
    (s.endOptimize c j p true).updateCount j = s.updateCount j + 1 := by
  obtain ⟨hsched, hcount⟩ := State.afterOptimize_written (s := s.finish c) (j := j) (p := p)
  rw [State.endOptimize_eq, State.ctx_congr hsched, hcount, State.finish_ctx hx, State.finish_updateCount]
  exact ⟨rfl, rfl⟩

end

/-! ### A sub-item (R337) -/

section
variable {s s0 : State} {c : CtxId} {p : OptimizeOp} {w : Update} {x : Operand} {r : Nat} {R : List (Nat × Nat)}

/-- One operand's row of an update goes to the other buffer, its state as `s` had it. -/
def State.putOther (s : State) (c : CtxId) (r : Nat) (keep : Bool) (s' : State) (i : Nat) (vs : List (BitVec 32)) : State :=
  (s.operand i).elim s' fun y => (s'.notePlace (s.rowPlace none s.weightVersion.toNat i y r) y.rowBytes c).writeOther i y r
    (if keep then leBytes (s.rowNum none s.weightVersion.toNat i y r) y.rowBytes
      else y.encodeLike (s.rowNum none s.weightVersion.toNat i y r) (valsOf vs)) (s.rowPoisoned none s.weightVersion.toNat i y r)

theorem State.updateDense_eq (s : State) (c : CtxId) (p : OptimizeOp) (w : Update) (x : Operand) (r : Nat) :
    ∃ (keep : Bool) (new state1 state2 : List (BitVec 32)), s.updateDense c p w x r =
      s.putOther c r keep (s.putOther c r keep (s.putOther c r keep s p.target new) p.state1 state1) p.state2 state2 := ⟨_, _, _, _, rfl⟩

theorem Operand.encodeLike_length (x : Operand) (row : Nat) (vs : List Val) : (x.encodeLike row vs).length = x.rowBytes := by
  rw [Operand.encodeLike]
  split
  · exact x.encode_length rne vs
  · exact leBytes_length _ _

/-- Bytes a row of an operand takes in the buffer that `s` does not read. -/
def State.otherRow (s : State) (i : Nat) (y : Operand) (r : Nat) : List (Nat × Nat) :=
  (s.rowPlace none (s.weightVersion.toNat + 1) i y r).range y.rowBytes

theorem State.keepsUpdates.otherRow {t : State} (h : s.keepsUpdates t) (i : Nat) (y : Operand) : t.otherRow i y r = s.otherRow i y r := by
  rw [State.otherRow, State.otherRow, h.weightVersion, State.rowPlace_congr h.cfg h.run h.start]

theorem State.writeOther_bytesOnlyIn (h : s0.bytesOnlyIn s R) {i : Nat} {y : Operand} {bs : List Byte} {poisoned : Bool}
    (hlen : bs.length = y.rowBytes) (hR : ∀ a, inRanges (s.otherRow i y r) a → inRanges R a) :
    s0.bytesOnlyIn (s.writeOther i y r bs poisoned) R :=
  State.placeStore_bytesOnlyIn h fun a ha => hR a (by rw [hlen] at ha; exact ha)

/-- Every row of the named operand in the other buffer lies in the ranges. -/
def State.otherIn (s : State) (i r : Nat) (R : List (Nat × Nat)) : Prop :=
  ∀ y, s.operand i = some y → ∀ a, inRanges (s.otherRow i y r) a → inRanges R a

theorem State.keepsUpdates.otherIn {t : State} (h : s.keepsUpdates t) {i : Nat} (hR : s.otherIn i r R) : t.otherIn i r R := by
  intro y hy a ha
  rw [h.operand] at hy
  rw [h.otherRow] at ha
  exact hR y hy a ha

theorem State.putOther_within {s' : State} (h : s0.within [.dial, .logs, .memory, .links, .bytes] s') (keep : Bool) (i : Nat)
    (vs : List (BitVec 32)) : s0.within [.dial, .logs, .memory, .links, .bytes] (s.putOther c r keep s' i vs) :=
  State.within_elim (fun _ => State.writeOther_within (State.notePlace_within h (by decide)) (by decide)) h

theorem State.putOther_bytesOnlyIn {s' : State} (hw : s.within [.dial, .logs, .memory, .links, .bytes] s') (h : s0.bytesOnlyIn s' R) {i : Nat}
    (hR : s.otherIn i r R) (keep : Bool) (vs : List (BitVec 32)) : s0.bytesOnlyIn (s.putOther c r keep s' i vs) R := by
  rw [State.putOther]
  cases hy : s.operand i with
  | none => exact h
  | some y =>
    have hnoted := State.notePlace_within (p := s.rowPlace none s.weightVersion.toNat i y r) (n := y.rowBytes) (c := c)
      (State.within_refl s' [.dial, .logs, .memory]) (List.Subset.refl _)
    refine State.writeOther_bytesOnlyIn (h.within hnoted (by decide)) ?_ ?_
    · cases keep with
      | true => exact leBytes_length _ _
      | false => exact y.encodeLike_length _ _
    · intro a ha
      rw [((State.keepsUpdates_of_within hw).within hnoted).otherRow] at ha
      exact hR y hy a ha

theorem State.updateDense_bytesOnlyIn (h : s0.bytesOnlyIn s R) (hR : ∀ i ∈ [p.target, p.state1, p.state2], s.otherIn i r R) :
    s0.bytesOnlyIn (s.updateDense c p w x r) R := by
  obtain ⟨keep, new, state1, state2, heq⟩ := s.updateDense_eq c p w x r
  have hfirst := State.putOther_within (s := s) (c := c) (r := r) (State.within_refl s _) keep p.target new
  rw [heq]
  exact State.putOther_bytesOnlyIn (State.putOther_within hfirst keep p.state1 state1)
    (State.putOther_bytesOnlyIn hfirst
      (State.putOther_bytesOnlyIn (State.within_refl s _) h (hR _ (by simp)) keep new) (hR _ (by simp)) keep state1)
    (hR _ (by simp)) keep state2

theorem State.updateRows_bytesOnlyIn (rows : List Nat) (h : s0.bytesOnlyIn s R)
    (hR : ∀ r ∈ rows, ∀ i ∈ [p.target, p.state1, p.state2], s.otherIn i r R) :
    s0.bytesOnlyIn (rows.foldl (fun v r => v.updateDense c p w x r) s) R := by
  induction rows generalizing s with
  | nil => exact h
  | cons r rows ih =>
    have hkept : s.keepsUpdates (s.updateDense c p w x r) := State.keepsUpdates_of_within
      (State.updateDense_within (State.within_refl s [.dial, .logs, .memory, .links, .bytes]) (List.Subset.refl _))
    exact ih (State.updateDense_bytesOnlyIn h (hR r (by simp))) fun q hq i hi => hkept.otherIn (hR q (by simp [hq]) i hi)

/-- The rows of a sub-item of a dense target: gradients read, values written to the other buffer, a poisoned gradient logged. -/
def State.optimizeDense (s : State) (c : CtxId) (p : OptimizeOp) (w : Update) (x : Operand) (first : Bool) (rows : List Nat) : State :=
  let s := if first then s.cancelHolders else s
  let s := (s.operand p.grad).elim s fun y => rows.foldl (fun s r => s.notePlace (s.rowPlace none 0 p.grad y r) y.rowBytes c) s
  let s := rows.foldl (fun s r => s.updateDense c p w x r) s
  if rows.any (s.gradPoisoned p) then s.logDevice 0x0E3 (s.nameOf c) 0 0 else s

/-- The rows of a sub-item of a table. -/
def State.optimizeTable (s : State) (c : CtxId) (p : OptimizeOp) (w : Update) (tb : TableDesc) (sub : Nat) : State :=
  (((s.ownRows.filter fun x => x.1 == tb.id).map (·.2)).filter fun n => sub * (tb.nodes + 1) / 32 ≤ n && n < (sub + 1) * (tb.nodes + 1) / 32).foldl
    (fun s n => s.updateSparse c p w tb n) s

/-- A sub-item that has run, the 32nd with the item. -/
def State.endSub (s : State) (c : CtxId) (t : TaskContext) (p : OptimizeOp) (sub : Nat) : State :=
  let t' := { t with subs := t.subs ++ [sub] }
  (if t'.subs.length = 32 then (s.setCtx c t').endOptimize c t.op.toNat p true else s.setCtx c t').draw

theorem State.draw_effect (v : State) (c : CtxId) (j : Nat) :
    v.draw.ctx c = v.ctx c ∧ v.draw.updateCount j = v.updateCount j ∧ v.draw.memory = v.memory := ⟨rfl, rfl, rfl⟩

theorem exec_optimize {sub : Fin 32} {t : TaskContext} {o : Op} (h : s.runsItem c false t o) (hbody : o.body = .optimize p) :
    exec (.optimize c sub) s = .next (
      if s.train.skip then s.endOptimize c t.op.toNat p false
      else if t.subs.contains sub.val || (s.freeSpout (sub.val % 4) (some c)).isNone then s
      else if (s.slotCfg.tableOf s.cfg.tables p.target).isSome && (s.target 0).active && (s.target 0).step == s.dial.step.toNat &&
        !(s.target 0).bodySent then s
      else (match s.slotCfg.tableOf s.cfg.tables p.target, s.operand p.target with
        | some tb, _ => s.optimizeTable c p (s.updateOf t.op.toNat p) tb sub.val
        | none, some x => s.optimizeDense c p (s.updateOf t.op.toNat p) x t.subs.isEmpty (subRows x.m sub.val)
        | none, none => s).endSub c t p sub.val) := by
  change execOptimize c sub s = _
  rw [execOptimize, State.runItem_of_runsItem h, hbody]
  rfl


theorem State.optimizeDense_effect (first : Bool) (rows : List Nat) (hR : ∀ r ∈ rows, ∀ i ∈ [p.target, p.state1, p.state2], s.otherIn i r R) :
    s.keepsUpdates (s.optimizeDense c p w x first rows) ∧ s.bytesOnlyIn (s.optimizeDense c p w x first rows) R := by
  have hcancelled : s.keepsUpdates (if first then s.cancelHolders else s) ∧ s.bytesOnlyIn (if first then s.cancelHolders else s) R := by
    split
    · exact ⟨s.cancelHolders_keepsUpdates, (s.bytesOnlyIn_refl R).within (State.cancelHolders_within
        (State.within_refl s [.dial, .logs, .mbs, .sched, .gather, .train, .blocks, .resil]) (List.Subset.refl _)) (by decide)⟩
    · exact ⟨s.keepsUpdates_refl, s.bytesOnlyIn_refl R⟩
  rw [State.optimizeDense]
  generalize (if first = true then s.cancelHolders else s) = v at hcancelled ⊢
  obtain ⟨hkept, honly⟩ := hcancelled
  have hnoted : v.within [.dial, .logs, .memory]
      ((v.operand p.grad).elim v fun y => rows.foldl (fun s r => s.notePlace (s.rowPlace none 0 p.grad y r) y.rowBytes c) v) :=
    State.within_elim (fun y => State.within_fold (fun _ _ h => State.notePlace_within h (List.Subset.refl _)) (State.within_refl v _))
      (State.within_refl v _)
  generalize ((v.operand p.grad).elim v fun y => rows.foldl (fun s r => s.notePlace (s.rowPlace none 0 p.grad y r) y.rowBytes c) v) = u at hnoted ⊢
  have hread := hkept.within hnoted
  have hrows : u.within [.dial, .logs, .memory, .links, .bytes] (rows.foldl (fun s r => s.updateDense c p w x r) u) :=
    State.within_fold (fun _ _ h => State.updateDense_within h (List.Subset.refl _)) (State.within_refl u _)
  have hbytes : s.bytesOnlyIn (rows.foldl (fun s r => s.updateDense c p w x r) u) R :=
    State.updateRows_bytesOnlyIn rows (honly.within hnoted (by decide)) fun r hr i hi => hread.otherIn (hR r hr i hi)
  generalize rows.foldl (fun s r => s.updateDense c p w x r) u = z at hrows hbytes ⊢
  have hlogged {who : Named} : z.within [.logs] (z.logDevice 0x0E3 who 0 0) := State.logDevice_within (State.within_refl z _) (List.Subset.refl _)
  split
  · exact ⟨(hread.within hrows).within hlogged, hbytes.within hlogged (by decide)⟩
  · exact ⟨hread.within hrows, hbytes⟩

theorem State.optimizeTable_keepsUpdates {tb : TableDesc} (sub : Nat) : s.keepsUpdates (s.optimizeTable c p w tb sub) :=
  State.keepsUpdates_of_within (State.within_fold (fun _ _ h => State.updateSparse_within h (List.Subset.refl _))
    (State.within_refl s [.dial, .logs, .memory, .tables, .gather, .links, .resil, .bytes]))

/-- What a sub-item does once its rows are written: it has run, and the 32nd ends the item. -/
theorem State.endSub_effect {t : TaskContext} {v : State} (hctx : s.ctx c = some t) (hkept : s.keepsUpdates v) (sub : Nat) :
    (t.subs.length ≠ 31 → (v.endSub c t p sub).ctx c = some { t with subs := t.subs ++ [sub] } ∧
      (v.endSub c t p sub).updateCount t.op.toNat = s.updateCount t.op.toNat) ∧
    (t.subs.length = 31 → (v.endSub c t p sub).ctx c = some { t with state := 4, subs := t.subs ++ [sub] } ∧
      (v.endSub c t p sub).updateCount t.op.toNat = s.updateCount t.op.toNat + 1) ∧
    (v.endSub c t p sub).memory.mem = v.memory.mem := by
  obtain ⟨g, hg, -⟩ := State.region_of_ctx hctx
  have hset : (v.setCtx c { t with subs := t.subs ++ [sub] }).ctx c = some { t with subs := t.subs ++ [sub] } :=
    State.setCtx_ctx_of_region (by rw [hkept.regions]; exact (List.getElem?_eq_some_iff.1 hg).1) _
  have hcount : (v.setCtx c { t with subs := t.subs ++ [sub] }).updateCount t.op.toNat = s.updateCount t.op.toNat := hkept.updateCount _
  have hlen : (t.subs ++ [sub]).length = t.subs.length + 1 := List.length_append
  obtain ⟨hendCtx, hendCount⟩ := State.endOptimize_written (p := p) (j := t.op.toNat) hset
  have hendMem := State.endOptimize_mem (v.setCtx c { t with subs := t.subs ++ [sub] }) c t.op.toNat p true
  rw [State.endSub]
  dsimp only
  obtain ⟨hdrawCtx, hdrawCount, hdrawMem⟩ := State.draw_effect (if (t.subs ++ [sub]).length = 32 then
    (v.setCtx c { t with subs := t.subs ++ [sub] }).endOptimize c t.op.toNat p true else v.setCtx c { t with subs := t.subs ++ [sub] }) c t.op.toNat
  rw [hdrawCtx, hdrawCount, hdrawMem, hlen]
  refine ⟨fun h => ?_, fun h => ?_, ?_⟩
  · rw [if_neg (by omega)]
    exact ⟨hset, hcount⟩
  · rw [if_pos (by omega)]
    exact ⟨hendCtx, hendCount.trans (congrArg (· + 1) hcount)⟩
  · split
    · exact hendMem
    · rfl

end

/-- Settles O42: a sub-item of a dense target writes the other buffer at its own rows, whichever holders it cancels, and the context is set
once the rows are written. -/
theorem optimizing : Obligations.Optimizing := by
  intro s c sub x o p hrun hbody changed waits copying ran
  have hexec := exec_optimize (sub := sub) hrun hbody
  have hctx : s.ctx c = some x := hrun.1
  refine ⟨fun hskip => ?_, fun hskip hwaits => ?_, fun hskip hwaits => ?_⟩
  · rw [if_pos hskip] at hexec
    obtain ⟨hran, hcount⟩ := State.endOptimize_skipped (p := p) (j := x.op.toNat) hctx
    exact ⟨_, hexec, hran, s.endOptimize_mem c x.op.toNat p false, hcount, onlyIn_of_exec hexec⟩
  · rw [if_neg (ne_true_of_eq_false hskip), if_pos hwaits] at hexec
    exact ⟨s, hexec, rfl⟩
  · rw [if_neg (ne_true_of_eq_false hskip), if_neg (ne_true_of_eq_false hwaits)] at hexec
    have hended {v : State} (hkept : s.keepsUpdates v) (heq : exec (.optimize c sub) s = .next (v.endSub c x p sub.val)) :
        ran (v.endSub c x p sub.val) := by
      obtain ⟨hmore, hlast, -⟩ := State.endSub_effect (p := p) hctx hkept sub.val
      exact ⟨onlyIn_of_exec heq, hmore, hlast⟩
    refine ⟨fun y htable hy => ?_, fun tb htable => ⟨fun hcopying => ?_, fun hcopying => ?_⟩⟩
    · rw [htable, hy, if_neg (by simp)] at hexec
      have hother : ∀ r ∈ subRows y.m sub.val, ∀ i ∈ [p.target, p.state1, p.state2], s.otherIn i r
          ([p.target, p.state1, p.state2].flatMap fun i => (s.operand i).elim [] fun z =>
            (subRows y.m sub.val).flatMap fun r => s.otherRow i z r) := by
        intro r hr i hi z hz a ha
        refine inRanges_flatMap hi ?_
        rw [hz]
        exact inRanges_flatMap hr ha
      obtain ⟨hkept, honly⟩ := State.optimizeDense_effect (c := c) (w := s.updateOf x.op.toNat p) (x := y) x.subs.isEmpty _ hother
      exact ⟨_, hexec, hended hkept hexec, honly.of_mem (State.endSub_effect (p := p) hctx hkept sub.val).2.2⟩
    · rw [htable] at hexec
      exact ⟨s, hexec.trans (congrArg Host.Outcome.next (if_pos hcopying)), rfl⟩
    · rw [htable] at hexec
      have heq := hexec.trans (congrArg Host.Outcome.next (if_neg (ne_true_of_eq_false hcopying)))
      exact ⟨_, heq, hended (State.optimizeTable_keepsUpdates sub.val) heq⟩

end Sys2Proof.Machine
end


section
/-! PROOFS. Rows of a table that a work item reads: what a read leaves of stamps, counters and memory (R223, R243, R248). -/
namespace Sys2Proof.Machine

set_option Elab.async false

/-! ### Stored poison that a read meets (R396, R398) -/

section
variable {s : State}

theorem State.stepFault_errorCounts_ne {code : Nat} (h : 0x0F3 ≠ code) (tier off : Nat) (who : Named) :
    (s.stepFault tier off who).logs.errorCounts[code]? = s.logs.errorCounts[code]? := by
  rw [State.stepFault, State.haltAtBoundary_logs]
  exact State.logDevice_errorCounts_ne h who 0 _

theorem State.readStored_errorCounts_ne {code : Nat} (h2 : 0x0F2 ≠ code) (h3 : 0x0F3 ≠ code) (tier off : Nat) (who : Named) :
    (s.readStored tier off who).logs.errorCounts[code]? = s.logs.errorCounts[code]? := by
  have hpart (f : PartState → PartState) (p : Option (Nat × Partition)) : (p.elim s fun p => s.onPart p.1 f).logs = s.logs := by cases p <;> rfl
  rw [State.readStored]
  dsimp only
  split
  · split
    · rw [State.stepFault_errorCounts_ne h3, hpart]
    · rw [hpart]
  · split
    · rw [State.logDevice_errorCounts_ne h2, hpart]
    · rfl

theorem State.noteReads_errorCounts_ne {code : Nat} (h2 : 0x0F2 ≠ code) (h3 : 0x0F3 ≠ code) (k n : Nat) (who : Named) :
    (s.noteReads k n who).logs.errorCounts[code]? = s.logs.errorCounts[code]? :=
  foldl_keeps (g := fun v : State => v.logs.errorCounts[code]?) (fun _ _ => State.readStored_errorCounts_ne h2 h3 _ _ who) _ s

end

/-! ### One row -/

section
variable {s : State} {c : CtxId} {t : TableDesc} {b : Bool} {i : ReadItem} {bad : Bool} {P : State → Prop}

/-- What holds through each thing the read of a row does holds through the read. -/
theorem State.readTableRow_keeps (hdefault : ∀ v, P v → P (v.countDefault t.id)) (hserved : ∀ v, P v → P (v.countServed t i.node))
    (hread : ∀ v k who, P v → P (v.noteReads k t.rowBytes who))
    (hlook : t.cooler ≠ 0 → ∀ v, P v → P (v.lookCooler c.region.val t b i.node bad).2.2)
    (hfill : t.cooler ≠ 0 → ∀ v est bytes poisoned, P v → P (v.fillCooler c.region.val t b i.node est bytes poisoned))
    (hcount : ∀ v (f : GatherRegion → GatherRegion), (∀ r, (f r).drift = r.drift) → P v →
      P (v.onGather fun g => { g with regions := modifyAt g.regions c.region.val f })) (h : P s) :
    P (s.readTableRow c t b i bad).1 := by
  rw [State.readTableRow]
  dsimp only
  split
  · exact hread _ _ _ (hdefault _ h)
  · split
    · exact hread _ _ _ (hserved _ h)
    next hcooler =>
      have hlooked := hlook hcooler _ (hserved _ h)
      split
      · exact hcount _ _ (fun _ => rfl) hlooked
      · exact hread _ _ _ (hfill hcooler _ _ _ _ hlooked)
  · split
    · exact h
    · exact hcount _ _ (fun _ => rfl) h

theorem State.readTableRow_dst : (s.readTableRow c t b i bad).2.dst = i.dst := by
  rw [State.readTableRow]
  dsimp only
  split
  · rfl
  · split
    · rfl
    · split <;> rfl
  · split <;> rfl

end

/-! ### Every row of an item -/

section
variable {s : State} {c : CtxId} {t : TableDesc} {b : Bool} {items : List ReadItem} {bad : List Nat}

theorem State.readTableRows_keeps {P : State → Prop} (hrow : ∀ v i bad, P v → P (v.readTableRow c t b i bad).1) (h : P s) :
    P (s.readTableRows c t b items bad).1 := by
  have hfold (l : List ReadItem) (a : State × List ReadRow) (ha : P a.1) : P (l.foldl (fun (a : State × List ReadRow) i =>
      let r := a.1.readTableRow c t b i (bad.contains i.idx); (r.1, a.2 ++ [r.2])) a).1 := by
    induction l generalizing a with
    | nil => exact ha
    | cons i l ih => exact ih _ (hrow _ _ _ ha)
  exact hfold items (s, []) h

theorem State.readTableRows_dst : (s.readTableRows c t b items bad).2.map (·.dst) = items.map (·.dst) := by
  have hfold (l : List ReadItem) (a : State × List ReadRow) : (l.foldl (fun (a : State × List ReadRow) i =>
      let r := a.1.readTableRow c t b i (bad.contains i.idx); (r.1, a.2 ++ [r.2])) a).2.map (·.dst) = a.2.map (·.dst) ++ l.map (·.dst) := by
    induction l generalizing a with
    | nil => simp
    | cons i l ih => rw [List.foldl_cons, ih]; simp [State.readTableRow_dst]
  rw [State.readTableRows, hfold]
  rfl

/-- With no Cooler, a read leaves the tiers as they were. -/
theorem State.readTableRows_mem (h : t.cooler = 0) : (s.readTableRows c t b items bad).1.memory.mem = s.memory.mem := by
  refine State.readTableRows_keeps (P := fun v => v.memory.mem = s.memory.mem) (fun v i bad hv => ?_) rfl
  refine State.readTableRow_keeps (P := fun v => v.memory.mem = s.memory.mem) (fun v hv => hv) (fun v hv => ?_) (fun v k who hv => ?_)
    (fun hcooler => absurd h hcooler) (fun hcooler => absurd h hcooler) (fun v f _ hv => hv) hv
  · exact ((State.countServed_within (State.within_refl v [.tables]) (List.Subset.refl _)).mem (by decide)).trans hv
  · exact ((State.noteReads_within (State.within_refl v [.dial, .logs, .memory]) (List.Subset.refl _)).mem (by decide)).trans hv

end

/-! ### Stamps and drops of a region (R243, R244, R248) -/

theorem map_modifyAt {α β : Type} {f : α → α} {g : α → β} (h : ∀ a, g (f a) = g a) (l : List α) (i : Nat) :
    (modifyAt l i f).map g = l.map g := by
  refine List.ext_getElem? fun j => ?_
  rw [modifyAt, List.getElem?_map, List.getElem?_map, List.getElem?_modify]
  cases l[j]? with
  | none => rfl
  | some a => by_cases hij : i = j <;> simp [hij, h]

/-- What a table's stamp is made of, the drifts of each region and the count of 0x0A0 are as they were. -/
structure State.keepsStamps (s t : State) : Prop where
  within     : s.within [.dial, .logs, .memory, .tables, .gather, .bytes] t
  tables     : t.tables.tables.map (fun x => (x.switches, x.defaultWrites)) = s.tables.tables.map (fun x => (x.switches, x.defaultWrites))
  generation : t.tables.generation = s.tables.generation
  drifts     : t.gather.regions.map (·.drift) = s.gather.regions.map (·.drift)
  refused    : t.logs.errorCounts[0xA0]? = s.logs.errorCounts[0xA0]?

section
variable {s0 s t : State}

theorem State.keepsStamps_refl (s : State) : s.keepsStamps s := ⟨State.within_refl s _, rfl, rfl, rfl, rfl⟩

theorem State.keepsStamps.trans (h : s0.keepsStamps s) (h' : s.keepsStamps t) : s0.keepsStamps t :=
  ⟨State.within_step h'.within h.within (List.Subset.refl _), h'.tables.trans h.tables, h'.generation.trans h.generation,
    h'.drifts.trans h.drifts, h'.refused.trans h.refused⟩

theorem State.keepsStamps.stampOf (h : s.keepsStamps t) (tb : TableDesc) : t.stampOf tb = s.stampOf tb := by
  have htable : ((t.tables.tables.getD tb.id TableState.reset).switches, (t.tables.tables.getD tb.id TableState.reset).defaultWrites) =
      ((s.tables.tables.getD tb.id TableState.reset).switches, (s.tables.tables.getD tb.id TableState.reset).defaultWrites) := by
    have := congrArg (fun l => l.getD tb.id (TableState.reset.switches, TableState.reset.defaultWrites)) h.tables
    simpa only [List.getD_map] using this
  obtain ⟨hswitches, hwrites⟩ := Prod.mk.inj htable
  have hupdates : t.tableUpdates tb.id = s.tableUpdates tb.id := by
    simp only [State.tableUpdates, State.updateCount, State.slotCfg, h.within.cfg (by decide), h.within.run (by decide),
      h.within.train (by decide)]
  rw [State.stampOf, State.stampOf]
  rw [hswitches, hwrites, h.generation, hupdates]

theorem State.keepsStamps_tables {f : TablesState → TablesState} (htables : (f s.tables).tables.map (fun x => (x.switches, x.defaultWrites)) =
    s.tables.tables.map (fun x => (x.switches, x.defaultWrites))) (hgen : (f s.tables).generation = s.tables.generation) :
    s.keepsStamps (s.onTables f) :=
  ⟨State.onTables_within (State.within_refl s _) (by decide), htables, hgen, rfl, rfl⟩

theorem State.countDefault_keepsStamps (id : Nat) : s.keepsStamps (s.countDefault id) := by
  exact State.keepsStamps_tables (map_modifyAt (f := fun t : TableState => { t with defaults := satAdd t.defaults 1 }) (fun _ => rfl) _ _) rfl

theorem State.countServed_keepsStamps (tb : TableDesc) (node : Nat) : s.keepsStamps (s.countServed tb node) := by
  rw [State.countServed]
  split
  · exact State.keepsStamps_tables rfl rfl
  · exact s.keepsStamps_refl

theorem State.onCooler_keepsStamps (region : Nat) (f : Cooler → Cooler) : s.keepsStamps (s.onCooler region f) :=
  State.keepsStamps_tables rfl rfl

theorem State.noteReads_keepsStamps (k n : Nat) (who : Named) : s.keepsStamps (s.noteReads k n who) := by
  have hw := State.noteReads_within (k := k) (n := n) (who := who) (State.within_refl s [.dial, .logs, .memory]) (List.Subset.refl _)
  exact ⟨State.noteReads_within (State.within_refl s _) (by decide), by rw [hw.tables (by decide)], by rw [hw.tables (by decide)],
    by rw [hw.gather (by decide)], State.noteReads_errorCounts_ne (by decide) (by decide) k n who⟩

theorem State.lookCooler_keepsStamps (region : Nat) (tb : TableDesc) (v : Bool) (node : Nat) (bad : Bool) :
    s.keepsStamps (s.lookCooler region tb v node bad).2.2 := by
  rw [State.lookCooler]
  dsimp only
  split
  · exact (s.onCooler_keepsStamps region _).trans (State.onCooler_keepsStamps region _)
  · exact State.onCooler_keepsStamps region _

theorem State.store_keepsStamps (k : Nat) (bs : List Byte) (poisoned : Bool) : s.keepsStamps (s.store k bs poisoned) := by
  have hw := State.store_within (k := k) (bs := bs) (p := poisoned) (State.within_refl s [.memory, .bytes]) (List.Subset.refl _)
  exact ⟨State.store_within (State.within_refl s _) (by decide), by rw [hw.tables (by decide)], by rw [hw.tables (by decide)],
    by rw [hw.gather (by decide)], by rw [hw.logs (by decide)]⟩

theorem State.fillCooler_keepsStamps (region : Nat) (tb : TableDesc) (v : Bool) (node est : Nat) (bytes : List Byte) (poisoned : Bool) :
    s.keepsStamps (s.fillCooler region tb v node est bytes poisoned) := by
  rw [State.fillCooler]
  split
  · exact s.keepsStamps_refl
  · dsimp only
    split
    · exact (s.onCooler_keepsStamps region _).trans (State.store_keepsStamps _ _ _)
    · exact s.onCooler_keepsStamps region _

theorem State.onRegionCounts_keepsStamps (region : Nat) {f : GatherRegion → GatherRegion} (hf : ∀ r, (f r).drift = r.drift) :
    s.keepsStamps (s.onGather fun g => { g with regions := modifyAt g.regions region f }) := by
  exact ⟨State.onGather_within (State.within_refl s _) (by decide), rfl, rfl, map_modifyAt hf _ _, rfl⟩

theorem State.readTableRows_keepsStamps (c : CtxId) (tb : TableDesc) (b : Bool) (items : List ReadItem) (bad : List Nat) :
    s.keepsStamps (s.readTableRows c tb b items bad).1 :=
  State.readTableRows_keeps (P := s.keepsStamps) (fun _ _ _ hv => State.readTableRow_keeps (P := s.keepsStamps)
    (fun _ h => h.trans (State.countDefault_keepsStamps _)) (fun _ h => h.trans (State.countServed_keepsStamps _ _))
    (fun _ _ _ h => h.trans (State.noteReads_keepsStamps _ _ _)) (fun _ _ h => h.trans (State.lookCooler_keepsStamps _ _ _ _ _))
    (fun _ _ _ _ _ h => h.trans (State.fillCooler_keepsStamps _ _ _ _ _ _ _))
    (fun _ _ hf h => h.trans (State.onRegionCounts_keepsStamps _ hf)) hv) s.keepsStamps_refl

end

end Sys2Proof.Machine
end


section
/-! PROOFS. GATHER: which rows an item takes, asks for and waits for (R164–R168, R223, R230, R243, R244). -/
namespace Sys2Proof.Machine

set_option Elab.async false

section
variable {s : State} {c : CtxId} {m : MicroBatch} {again : Bool} {t : TableDesc} {items : List ReadItem} {bad : List Nat}
  {fold : State → List ReadRow → State}

/-! ### What decides about an item's rows -/

/-- A row of another device that has not come. -/
def State.rowMissing (s : State) (c : CtxId) (t : TableDesc) (b : Bool) (i : ReadItem) : Bool :=
  (match s.sourceOf t b i.node with
    | .remote _ => true
    | _ => false) && !s.gather.rows.any fun x => x.ctx == c && x.item == i.idx

/-- The rows are asked for; the item waits for those that are missing, or reads every row and folds. -/
def State.takeRows (s : State) (c : CtxId) (m : MicroBatch) (t : TableDesc) (items : List ReadItem) (bad : List Nat)
    (fold : State → List ReadRow → State) : State :=
  let v := s.askRows c m t (m.versionB.contains t.id) items bad
  if items.any (v.rowMissing c t (m.versionB.contains t.id)) then v else
    (fold (v.readTableRows c t (m.versionB.contains t.id) items bad).1 (v.readTableRows c t (m.versionB.contains t.id) items bad).2).onGather
      fun g => { g with rows := g.rows.filter fun x => x.ctx != c }

theorem State.withTableRows_eq : s.withTableRows c m again t items bad fold =
    if s.rowsStalled c then s else
    match s.firstInvalid m t items with
    | some (code, node) => (s.dropFor c code (nodeDetail node t.id)).settle
    | none =>
      match s.firstLate m again t items with
      | some i => (s.dropFor c 0x085 (nodeDetail i.node t.id)).settle
      | none => s.takeRows c m t items bad fold := rfl

theorem State.withTableRows_stalled (h : s.rowsStalled c = true) : s.withTableRows c m again t items bad fold = s := by
  rw [State.withTableRows_eq, if_pos h]

theorem State.withTableRows_invalid {code node : Nat} (h : s.rowsStalled c = false) (hinvalid : s.firstInvalid m t items = some (code, node)) :
    s.withTableRows c m again t items bad fold = (s.dropFor c code (nodeDetail node t.id)).settle := by
  rw [State.withTableRows_eq, if_neg (ne_true_of_eq_false h), hinvalid]

theorem State.withTableRows_late {i : ReadItem} (h : s.rowsStalled c = false) (hvalid : s.firstInvalid m t items = none)
    (hlate : s.firstLate m again t items = some i) :
    s.withTableRows c m again t items bad fold = (s.dropFor c 0x085 (nodeDetail i.node t.id)).settle := by
  rw [State.withTableRows_eq, if_neg (ne_true_of_eq_false h), hvalid, hlate]

theorem State.withTableRows_clear (h : s.rowsClear c m again t items) :
    s.withTableRows c m again t items bad fold = s.takeRows c m t items bad fold := by
  obtain ⟨hstalled, hvalid, hlate⟩ := h
  rw [State.withTableRows_eq, if_neg (ne_true_of_eq_false hstalled), hvalid, hlate]

/-! ### Every row is at hand -/

theorem State.rowMissing_of_held (h : s.rowsHeld c m t items) {i : ReadItem} (hi : i ∈ items) :
    s.rowMissing c t (m.versionB.contains t.id) i = false := by
  rw [State.rowMissing]
  split
  next owner heq =>
    obtain ⟨q, hq, hctx, hitem⟩ := h i hi owner heq
    rw [List.any_eq_true.2 ⟨q, hq, by simp [hctx, hitem]⟩]
    rfl
  next => rfl

/-- One item of `askRows`: nothing where its row has come or is not another device's. -/
def State.askItem (c : CtxId) (m : MicroBatch) (t : TableDesc) (bad : List Nat) (a : State × List RowRequest) (i : ReadItem) :
    State × List RowRequest :=
  if a.1.gather.rows.any fun x => x.ctx == c && x.item == i.idx then a else
  match a.1.sourceOf t (m.versionB.contains t.id) i.node with
  | .remote owner => let x := a.1.askRow c m.mb t (m.versionB.contains t.id) owner i (bad.contains i.idx); (x.1, a.2 ++ x.2)
  | _ => a

theorem State.askRows_eq : s.askRows c m t (m.versionB.contains t.id) items bad =
    (items.foldl (State.askItem c m t bad) (s, [])).1.sendRequests (items.foldl (State.askItem c m t bad) (s, [])).2 (m.versionB.contains t.id) m.step :=
  rfl

theorem State.askItem_of_present {a : State × List RowRequest} {i : ReadItem} (h : a.1.rowMissing c t (m.versionB.contains t.id) i = false) :
    State.askItem c m t bad a i = a := by
  rw [State.rowMissing] at h
  rw [State.askItem]
  split
  · rfl
  next hany =>
    rw [Bool.eq_false_of_not_eq_true hany, Bool.not_false, Bool.and_true] at h
    split
    next owner heq =>
      rw [heq] at h
      exact absurd h (by simp)
    · rfl

theorem State.askItems_of_present (l : List ReadItem) (h : ∀ i ∈ l, s.rowMissing c t (m.versionB.contains t.id) i = false) :
    l.foldl (State.askItem c m t bad) (s, []) = (s, []) := by
  induction l with
  | nil => rfl
  | cons i l ih =>
    rw [List.foldl_cons, State.askItem_of_present (a := (s, [])) (h i (by simp)), ih fun j hj => h j (by simp [hj])]

/-- With every row at hand the item asks for none, reads them and folds. -/
theorem State.takeRows_of_held (h : s.rowsHeld c m t items) : s.takeRows c m t items bad fold =
    (fold (s.readTableRows c t (m.versionB.contains t.id) items bad).1 (s.readTableRows c t (m.versionB.contains t.id) items bad).2).onGather
      fun g => { g with rows := g.rows.filter fun x => x.ctx != c } := by
  have hpresent : ∀ i ∈ items, s.rowMissing c t (m.versionB.contains t.id) i = false := fun i hi => State.rowMissing_of_held h hi
  have hask : s.askRows c m t (m.versionB.contains t.id) items bad = s := by
    rw [State.askRows_eq, State.askItems_of_present items hpresent]
    rfl
  rw [State.takeRows, hask]
  exact if_neg (ne_true_of_eq_false (List.any_eq_false.2 fun i hi => ne_true_of_eq_false (hpresent i hi)))

/-! ### A row is still to come -/

/-- What asking changes without a Cooler of remote rows: requests are added, rows and where rows are read from stay. -/
structure State.asked (s t : State) : Prop where
  within   : s.within [.logs, .gather, .links] t
  rows     : t.gather.rows = s.gather.rows
  requests : ∀ q ∈ s.gather.requests, q ∈ t.gather.requests

theorem State.asked_refl (s : State) : s.asked s := ⟨State.within_refl s _, rfl, fun _ h => h⟩

theorem State.asked.trans {s0 v : State} (h : s0.asked s) (h' : s.asked v) : s0.asked v :=
  ⟨State.within_step h'.within h.within (List.Subset.refl _), h'.rows.trans h.rows, fun q hq => h'.requests q (h.requests q hq)⟩

theorem State.asked.rowMissing {v : State} (h : s.asked v) (t : TableDesc) (b : Bool) (i : ReadItem) : v.rowMissing c t b i = s.rowMissing c t b i := by
  have hsource : v.sourceOf t b i.node = s.sourceOf t b i.node := by
    have hlookup : v.lookup t i.node = s.lookup t i.node := by
      rw [State.lookup, State.lookup, State.layout, State.layout, State.coord, State.coord, h.within.cfg (by decide), h.within.tables (by decide),
        h.within.start (by decide)]
    have hcoord : v.coord = s.coord := by rw [State.coord, State.coord, h.within.start (by decide)]
    have hkey (e : ShardEntry) (off : Nat) : v.rowKey t b i.node e off = s.rowKey t b i.node e off := by
      rw [State.rowKey, State.rowKey, State.dirEntry, State.dirEntry, h.within.tables (by decide)]
    simp only [State.sourceOf, hlookup, hcoord, hkey]
  rw [State.rowMissing, State.rowMissing, hsource, h.rows]

/-- Without a Cooler of remote rows a row is only ever asked for. -/
theorem State.askRow_asked (h : t.cooler ≠ 2) (mb : Nat) (b : Bool) (owner : Coord) (i : ReadItem) (bad : Bool) :
    s.asked (s.askRow c mb t b owner i bad).1 := by
  unfold State.askRow
  dsimp only
  split
  · exact s.asked_refl
  · rw [if_neg h]
    exact ⟨State.onGather_within (State.within_refl s _) (by decide), rfl, fun q hq => List.mem_append_left _ hq⟩

theorem fst_of_pair {α β : Type} {P : α → Prop} (x : α × β) (f : β → β) (h : P x.1) : P (x.1, f x.2).1 := h

theorem State.askItem_asked (h : t.cooler ≠ 2) (a : State × List RowRequest) (i : ReadItem) : a.1.asked (State.askItem c m t bad a i).1 := by
  rw [State.askItem]
  split
  · exact a.1.asked_refl
  · split
    · exact fst_of_pair (P := a.1.asked) _ (a.2 ++ ·) (State.askRow_asked h _ _ _ _ _)
    · exact a.1.asked_refl

theorem State.askRows_asked (h : t.cooler ≠ 2) : s.asked (s.askRows c m t (m.versionB.contains t.id) items bad) := by
  have hitems (l : List ReadItem) (a : State × List RowRequest) : a.1.asked (l.foldl (State.askItem c m t bad) a).1 := by
    induction l generalizing a with
    | nil => exact a.1.asked_refl
    | cons i l ih => exact (State.askItem_asked h a i).trans (ih _)
  have hsent {v : State} (qs : List RowRequest) : v.asked (v.sendRequests qs (m.versionB.contains t.id) m.step) := by
    have hw := State.sendRequests_within (qs := qs) (version := m.versionB.contains t.id) (step := m.step) (State.within_refl v [.logs, .links])
      (List.Subset.refl _)
    refine ⟨State.sendRequests_within (State.within_refl v _) (by decide), by rw [hw.gather (by decide)], fun q hq => ?_⟩
    rw [hw.gather (by decide)]
    exact hq
  rw [State.askRows_eq]
  exact (hitems items (s, [])).trans (hsent _)

theorem State.exists_missing_of_not_held (h : ¬ s.rowsHeld c m t items) :
    items.any (s.rowMissing c t (m.versionB.contains t.id)) = true := by
  rw [State.rowsHeld] at h
  push Not at h
  obtain ⟨i, hi, owner, hsource, hnone⟩ := h
  have hnone' : (s.gather.rows.any fun x => x.ctx == c && x.item == i.idx) = false :=
    List.any_eq_false.2 fun q hq => by simpa using hnone q hq
  refine List.any_eq_true.2 ⟨i, hi, ?_⟩
  rw [State.rowMissing, hsource, hnone']
  rfl

/-- With a row still to come the item asks and waits. -/
theorem State.takeRows_of_not_held (h : ¬ s.rowsHeld c m t items) (hcooler : t.cooler ≠ 2) :
    s.takeRows c m t items bad fold = s.askRows c m t (m.versionB.contains t.id) items bad := by
  rw [State.takeRows]
  refine if_pos ?_
  rw [show (s.askRows c m t (m.versionB.contains t.id) items bad).rowMissing c t (m.versionB.contains t.id) =
    s.rowMissing c t (m.versionB.contains t.id) from funext fun i => (State.askRows_asked hcooler).rowMissing t _ i]
  exact State.exists_missing_of_not_held h

end
end Sys2Proof.Machine
end


section
/-! PROOFS. GATHER: the rows written, the stamp kept or compared, and the item's end (R228, R243, R244). -/
namespace Sys2Proof.Machine

set_option Elab.async false

/-! ### Rows written without winners (R228) -/

section
variable {s0 s : State} {m : MicroBatch} {i n : Nat} {x : Operand} {R : List (Nat × Nat)}

/-- The rows of a gather go to their places of the out operand. -/
def State.writeGathered (s : State) (m : MicroBatch) (i : Nat) (x : Operand) (rows : List ReadRow) : State :=
  rows.foldl (fun v r => v.writeElems m i x r.dst r.elems []) s

theorem State.writeElems_bytesOnlyIn (h : s0.bytesOnlyIn s R) {r : Nat} {es : List Elem}
    (hR : ∀ a, inRanges ((s.rowPlace (some m) 0 i x r).range x.rowBytes) a → inRanges R a) : s0.bytesOnlyIn (s.writeElems m i x r es []) R := by
  have hnone (v : State) (p : Place) (mark : Nat → Bool) : v.storeBeats p (bytes32 []) mark = v := rfl
  rw [State.writeElems, hnone, ite_self]
  exact State.storeBeats_bytesOnlyIn h fun a ha => hR a (by rw [Operand.encode_length] at ha; exact ha)

theorem State.writeGathered_within (rows : List ReadRow) : s.within [.logs, .memory, .links, .bytes] (s.writeGathered m i x rows) :=
  State.within_fold (fun _ _ h => State.writeElems_within h (List.Subset.refl _)) (State.within_refl s _)

theorem State.writeGathered_bytesOnlyIn (rows : List ReadRow) (h : s0.bytesOnlyIn s (s.rowRanges (some m) i x n)) (hn : ∀ r ∈ rows, r.dst < n) :
    s0.bytesOnlyIn (s.writeGathered m i x rows) (s.rowRanges (some m) i x n) := by
  have hfold (l : List ReadRow) (v : State) (hv : s.within [.logs, .memory, .links, .bytes] v) (hl : ∀ r ∈ l, r.dst < n)
      (hbytes : s0.bytesOnlyIn v (s.rowRanges (some m) i x n)) : s0.bytesOnlyIn (v.writeGathered m i x l) (s.rowRanges (some m) i x n) := by
    induction l generalizing v with
    | nil => exact hbytes
    | cons r l ih =>
      refine ih _ (State.writeElems_within hv (List.Subset.refl _)) (fun q hq => hl q (by simp [hq])) (State.writeElems_bytesOnlyIn hbytes ?_)
      intro a ha
      rw [hv.rowPlace (by decide)] at ha
      exact inRanges_flatMap (List.mem_range.2 (hl r (by simp))) ha
  exact hfold rows s (State.within_refl s _) hn h

end

/-! ### The stamp and the end of the item (R243, R244, R306) -/

section
variable {s : State} {c : CtxId} {x : TaskContext} {m : MicroBatch} {k out : Nat} {t : TableDesc} {write : State → State}

theorem State.stamped_first (h : x.part = false) : s.stamped c x m k out t write =
    ((write s).onMb m.mb m.step fun m => { m with stamps := insertKey k (s.stampOf t) m.stamps }).endForward c k := by
  rw [State.stamped, h]
  rfl

theorem State.stamped_again (h : x.part = true) : s.stamped c x m k out t write =
    if (lookupNat k m.stamps).all (· == s.stampOf t) then (write s).endForward c k else s.drifted c m k out t := by
  rw [State.stamped, h]
  rfl

/-- The rows held for an item are given up with it. -/
def State.releaseRows (s : State) (c : CtxId) : State := s.onGather fun g => { g with rows := g.rows.filter fun x => x.ctx != c }

theorem State.endGather_effect {w : State} (hctx : w.ctx c = some x) : ((w.endForward c k).releaseRows c).draw.ctx c = some (x.ran k) ∧
    (∀ q ∈ ((w.endForward c k).releaseRows c).draw.gather.rows, q.ctx ≠ c) ∧
    ((w.endForward c k).releaseRows c).draw.memory.mem = w.memory.mem ∧ ((w.endForward c k).releaseRows c).draw.mbs = w.mbs := by
  refine ⟨State.endForward_ctx hctx k, fun q hq => ?_, w.endForward_mem c k, w.endForward_mbs c k⟩
  simpa using (List.mem_filter.1 hq).2

/-- A stamp kept by the micro-batch is what a lookup finds. -/
theorem State.onMb_stamps {w : State} {stamp : BitVec 32} {q : MicroBatch}
    (hq : q ∈ (w.onMb m.mb m.step fun m => { m with stamps := insertKey k stamp m.stamps }).mbs) (hmb : q.mb = m.mb) (hstep : q.step = m.step) :
    lookupNat k q.stamps = some stamp := by
  obtain ⟨p, -, rfl⟩ := List.mem_map.1 hq
  by_cases hp : (p.mb == m.mb && p.step == m.step) = true
  · rw [if_pos hp]
    exact lookupNat_insertKey_same ..
  · rw [if_neg hp] at hmb hstep
    exact absurd (by simp [hmb, hstep]) hp

/-- A re-gather whose stamp differs, without a stashed copy: it counts, and the micro-batch is dropped. -/
theorem State.drifted_dropped (h : s.stashEntry m out false = none) : s.drifted c m k out t =
    ((s.onGather fun g => { g with regions := modifyAt g.regions c.region.val fun r => { r with drift := satAdd r.drift 1 } }).dropFor c 0x0A0
      (nodeDetail 0 t.id)).settle := by
  rw [State.drifted, h]

theorem State.drifted_effect (h : s.stashEntry m out false = none) :
    (s.drifted c m k out t).memory = s.memory ∧
    ((s.drifted c m k out t).gather.regions[c.region.val]?).map (·.drift) = (s.gather.regions[c.region.val]?).map (fun r => satAdd r.drift 1) ∧
    (s.drifted c m k out t).logs.errorCounts[0xA0]? = (s.logs.errorCounts[0xA0]?).map (satAdd · 1) := by
  rw [State.drifted_dropped h]
  refine ⟨State.settle_memory.trans (State.dropFor_memory ..), ?_, ?_⟩
  · rw [(State.settle_keepsCounters (State.dropFor_keepsCounters (State.keepsCounters_refl _) c 0x0A0 (nodeDetail 0 t.id))).regions]
    simp [modifyAt]
    rfl
  · rw [State.settle_logs, State.dropFor_errorCounts_of c _ (by decide) (by decide) (by decide)]
    rfl

end

/-! ### GATHER -/

section
variable {s u : State} {c : CtxId} {bad : List Nat} {x : TaskContext} {o : Op} {k : Nat} {m : MicroBatch} {lists hop table out : Nat} {tb : TableDesc}
  {y : Operand}

/-- Items of a gather: the nodes of its list, in order. -/
def State.gatherItems (s : State) (m : MicroBatch) (lists hop : Nat) : List ReadItem :=
  (s.listNodes m lists hop).zipIdx.map fun n => ⟨n.2, n.1, n.2, n.2, bf16One⟩

theorem exec_gather (h : s.runsForward c x o k u) (hview : u.viewMb x = some m) (hbody : o.body = .gather lists hop table out)
    (htable : u.slotCfg.tableOf u.cfg.tables table = some tb) (hout : u.operand out = some y) :
    exec (.gather c bad) s = .next (u.withTableRows c m x.part tb (u.gatherItems m lists hop) bad fun v rows =>
      v.stamped c x m k out tb fun v => v.writeGathered m out y rows).draw := by
  change execGather c bad s = _
  rw [execGather, State.runForward_eq h, hbody, hview]
  dsimp only
  rw [htable, hout]
  rfl

theorem State.gatherItems_dst {rows : List ReadRow} (h : rows.map (·.dst) = (u.gatherItems m lists hop).map (·.dst)) :
    ∀ r ∈ rows, r.dst < (u.gatherItems m lists hop).length := by
  intro r hr
  have hdst : r.dst ∈ (u.gatherItems m lists hop).map (·.dst) := h ▸ List.mem_map_of_mem hr
  obtain ⟨i, hi, hri⟩ := List.mem_map.1 hdst
  obtain ⟨n, hn, rfl⟩ := List.mem_map.1 hi
  rw [State.gatherItems, List.length_map, List.length_zipIdx]
  have := (List.mem_zipIdx hn).2.1
  simp only [← hri]
  omega

/-- A gather whose rows are at hand and whose stamp is the first, or the same: its rows are written and the item has run. -/
theorem State.gather_effect {w : State × List ReadRow} (hctx : u.ctx c = some x) (hread : u.keepsStamps w.1)
    (hpart : x.part = true → ∀ stamp, lookupNat k m.stamps = some stamp → stamp = u.stampOf tb) :
    let t := ((w.1.stamped c x m k out tb fun v => v.writeGathered m out y w.2).releaseRows c).draw
    t.ctx c = some (x.ran k) ∧ (∀ q ∈ t.gather.rows, q.ctx ≠ c) ∧ t.memory.mem = (w.1.writeGathered m out y w.2).memory.mem ∧
      (x.part = false → ∀ q ∈ t.mbs, q.mb = m.mb → q.step = m.step → lookupNat k q.stamps = some (u.stampOf tb)) := by
  have hctxRead : w.1.ctx c = some x := State.ctx_of_within hread.within (by decide) hctx
  have hwritten : (w.1.writeGathered m out y w.2).ctx c = some x := State.ctx_of_within (State.writeGathered_within w.2) (by decide) hctxRead
  intro t
  cases hp : x.part with
  | false =>
    have ht : t = ((((w.1.writeGathered m out y w.2).onMb m.mb m.step fun m => { m with stamps := insertKey k (w.1.stampOf tb) m.stamps }).endForward c
      k).releaseRows c).draw := congrArg (fun v => (State.releaseRows v c).draw) (State.stamped_first hp)
    obtain ⟨hran, hrows, hmem, hmbs⟩ := State.endGather_effect (k := k) (w := (w.1.writeGathered m out y w.2).onMb m.mb m.step fun m =>
      { m with stamps := insertKey k (w.1.stampOf tb) m.stamps }) hwritten
    rw [ht, hmbs]
    refine ⟨hran, hrows, hmem, fun _ q hq hmb hstep => ?_⟩
    rw [State.onMb_stamps hq hmb hstep, hread.stampOf]
  | true =>
    have hsame : (lookupNat k m.stamps).all (· == w.1.stampOf tb) = true := by
      rw [hread.stampOf]
      cases hs : lookupNat k m.stamps with
      | none => rfl
      | some stamp => simpa using hpart hp stamp hs
    have ht : t = (((w.1.writeGathered m out y w.2).endForward c k).releaseRows c).draw :=
      congrArg (fun v => (State.releaseRows v c).draw) ((State.stamped_again hp).trans (if_pos hsame))
    obtain ⟨hran, hrows, hmem, -⟩ := State.endGather_effect (k := k) hwritten
    rw [ht]
    exact ⟨hran, hrows, hmem, fun h => absurd h (by simp)⟩

end

/-- Settles O35: with the rows at hand nothing is asked for; the reads leave the stamp, the drifts and, without a Cooler, the tiers as they were. -/
theorem gathering : Obligations.Gathering := by
  intro s c bad x o k u m lists hop table out tb y hrun hview hbody htable hout items changed
  have hexec := exec_gather (bad := bad) hrun hview hbody htable hout
  have hitems : u.gatherItems m lists hop = items := rfl
  have hu := State.runsForward_within hrun
  have hctx : u.ctx c = some x := State.runsForward_ctx hrun
  rw [hitems] at hexec
  refine ⟨?_, fun hclear hheld hcooler => ?_, fun hstalled => ?_, fun code node hstalled hinvalid => ?_, fun i hstalled hvalid hlate => ?_⟩
  · intro hclear hheld read
    rw [State.withTableRows_clear hclear, State.takeRows_of_held hheld] at hexec
    have hread : u.keepsStamps read.1 := u.readTableRows_keepsStamps c tb (m.versionB.contains tb.id) items bad
    have hdst : ∀ r ∈ read.2, r.dst < items.length := State.gatherItems_dst State.readTableRows_dst
    have hbytes (h : tb.cooler = 0) : read.1.memory.mem = u.memory.mem := State.readTableRows_mem h
    have hend : exec (.gather c bad) s =
      .next ((read.1.stamped c x m k out tb fun v => v.writeGathered m out y read.2).releaseRows c).draw := hexec
    clear_value read
    refine ⟨fun hstamp => ?_, fun stamp hpart hstamp hne hstash => ?_⟩
    · obtain ⟨hran, hrows, hmem, hstamps⟩ := State.gather_effect (out := out) (y := y) hctx hread hstamp
      refine ⟨_, hend, hran, hrows, hmem, hstamps, fun hcooler => ?_, onlyIn_of_exec hend⟩
      have hwritten := State.writeGathered_bytesOnlyIn (m := m) (i := out) (x := y) read.2
        ((u.bytesOnlyIn_refl (read.1.rowRanges (some m) out y items.length)).of_mem (hbytes hcooler)) hdst
      rw [State.rowRanges_congr hread.within (by decide)] at hwritten
      exact hwritten.of_mem hmem
    · have hdiffers : (lookupNat k m.stamps).all (· == read.1.stampOf tb) = false := by
        rw [hread.stampOf, hstamp]
        simpa using hne
      obtain ⟨hmem, hdrift, hcount⟩ := State.drifted_effect (s := read.1) (c := c) (m := m) (k := k) (out := out) (t := tb)
        (by rw [State.stashEntry, hread.within.train (by decide)]; exact hstash)
      rw [State.stamped_again hpart, if_neg (ne_true_of_eq_false hdiffers)] at hend
      have hdrifts : (read.1.gather.regions[c.region.val]?).map (·.drift) = (s.gather.regions[c.region.val]?).map (·.drift) := by
        rw [← List.getElem?_map, hread.drifts, hu.gather (by decide), List.getElem?_map]
      refine ⟨_, hend, congrArg (·.mem) hmem, ?_, ?_⟩
      · have hmap (r : Option GatherRegion) : r.map (fun r => satAdd r.drift 1) = (r.map (·.drift)).map (satAdd · 1) := by cases r <;> rfl
        exact hdrift.trans (by rw [hmap, hmap, hdrifts])
      · rw [← hu.logs (by decide), ← hread.refused]
        exact hcount
  · rw [State.withTableRows_clear hclear, State.takeRows_of_not_held hheld hcooler] at hexec
    have hasked := State.askRows_asked (s := u) (c := c) (m := m) (items := items) (bad := bad) hcooler
    exact ⟨_, hexec, State.ctx_of_within hasked.within (by decide) hctx, hasked.within.mem (by decide), hasked.requests⟩
  · rw [State.withTableRows_stalled hstalled] at hexec
    exact ⟨_, hexec, rfl⟩
  · rw [State.withTableRows_invalid hstalled hinvalid] at hexec
    exact ⟨_, hexec, rfl⟩
  · rw [State.withTableRows_late hstalled hvalid hlate] at hexec
    exact ⟨_, hexec, rfl⟩

end Sys2Proof.Machine
end
